-- ==== Sys2Proof/Word.lean ====
section
/-! DEFINITION. Word types of the VA9640-HL: registers are 32 bits wide and little-endian (00_scope R2);
hall time and the wide counters use 64 bits. -/

namespace Sys2Proof

/-- One byte. -/
abbrev Byte := BitVec 8

/-- One register, 32 bits (R2). -/
abbrev Word := BitVec 32

/-- A 64-bit value: a count, a fabric-wide address, a control-core register. -/
abbrev DWord := BitVec 64

end Sys2Proof
end

