-- ==== Sys2Proof/Machine/Tab.lean ====
section
/-! DEFINITION. Sparse tables by number: a list of pairs of an index and an entry, indices strictly rising, no
entry equal to the table's default. Two tables with the same contents are the same data. -/

namespace Sys2Proof.Machine

/-- A sparse table of entries of type `α`. -/
structure Tab (α : Type) where
  entries : List (Nat × α)
  deriving DecidableEq, Repr

/-- The table that lists nothing: every index reads as the default. -/
def Tab.empty {α : Type} : Tab α := ⟨[]⟩

/-- Look an index up in a list of pairs. -/
def tabFind {α : Type} (d : α) (k : Nat) : List (Nat × α) → α
  | [] => d
  | (a, x) :: r => if a = k then x else tabFind d k r

/-- Put an entry in its place in a rising list of pairs. -/
def tabInsert {α : Type} (k : Nat) (v : α) : List (Nat × α) → List (Nat × α)
  | [] => [(k, v)]
  | (a, x) :: r =>
    if a < k then (a, x) :: tabInsert k v r
    else if a = k then (k, v) :: r
    else (k, v) :: (a, x) :: r

/-- Take an index out of a list of pairs. -/
def tabErase {α : Type} (k : Nat) : List (Nat × α) → List (Nat × α)
  | [] => []
  | (a, x) :: r => if a = k then tabErase k r else (a, x) :: tabErase k r

/-- The entry at `k`; an unlisted index reads as the default `d`. -/
def Tab.get {α : Type} (t : Tab α) (d : α) (k : Nat) : α := tabFind d k t.entries

/-- Set the entry at `k`; writing the default takes the entry out, so the form stays canonical. -/
def Tab.set {α : Type} [DecidableEq α] (t : Tab α) (d : α) (k : Nat) (v : α) : Tab α :=
  if v = d then ⟨tabErase k t.entries⟩ else ⟨tabInsert k v t.entries⟩

/-- Change the entry at `k` by `f`. -/
def Tab.modify {α : Type} [DecidableEq α] (t : Tab α) (d : α) (k : Nat) (f : α → α) : Tab α :=
  t.set d k (f (t.get d k))

/-- The indices that a table lists, in rising order. -/
def Tab.keys {α : Type} (t : Tab α) : List Nat := t.entries.map (·.1)

/-- Change every index of a list by `f`, which also sees the index. -/
def Tab.modifyAll {α : Type} [DecidableEq α] (t : Tab α) (d : α) (ks : List Nat) (f : Nat → α → α) : Tab α :=
  ks.foldl (fun u k => u.set d k (f k (u.get d k))) t

/-- Indices strictly rise in a list of pairs. -/
def tabRising {α : Type} : List (Nat × α) → Bool
  | [] => true
  | [_] => true
  | (a, _) :: (b, y) :: r => decide (a < b) && tabRising ((b, y) :: r)

/-- The canonical form of a table: indices strictly rising, no entry equal to the default. -/
def Tab.wf {α : Type} [DecidableEq α] (d : α) (t : Tab α) : Bool :=
  tabRising t.entries && t.entries.all (fun p => decide (p.2 ≠ d))

end Sys2Proof.Machine
end

