-- ==== Sys2Proof/Machine/Mem.lean ====
section
/-! DEFINITION. A byte memory that carries one poison bit for each 32-byte word (08 R251): a rising list of cells,
none equal to what an unlisted address reads as (0, log entry 2), and a rising list of poisoned word numbers. -/

namespace Sys2Proof.Machine

/-- A byte memory with its poison bits. -/
structure Mem where
  cells  : List Host.Cell
  poison : List Nat
  deriving DecidableEq, Repr

/-- What an unlisted address reads as: 0. The wipe of R244 and R262 leaves zeros; before the wipe it is a choice
(DESIGN CHOICE, log entry 2). -/
def Mem.blank : Byte := 0

/-- Memory that lists nothing. -/
def Mem.empty : Mem := ⟨[], []⟩

/-- One byte. -/
def Mem.read8 (m : Mem) (a : Nat) : Byte := tabFind Mem.blank a m.cells

/-- Write one byte, keeping the canonical form. -/
def Mem.write8 (m : Mem) (a : Nat) (v : Byte) : Mem :=
  if v = Mem.blank then { m with cells := tabErase a m.cells } else { m with cells := tabInsert a v m.cells }

/-- `n` bytes from `a` on, lowest address first. -/
def Mem.readBytes (m : Mem) (a : Nat) : Nat → List Byte
  | 0 => []
  | n + 1 => m.read8 a :: m.readBytes (a + 1) n

/-- Write bytes from `a` on, lowest address first. -/
def Mem.writeBytes (m : Mem) (a : Nat) : List Byte → Mem
  | [] => m
  | b :: r => (m.write8 a b).writeBytes (a + 1) r

/-- A little-endian value of a byte string (R2, R150, R402). -/
def leValue : List Byte → Nat
  | [] => 0
  | b :: r => b.toNat + 256 * leValue r

/-- The `n` bytes of a value, little-endian. -/
def leBytes (v : Nat) : Nat → List Byte
  | 0 => []
  | n + 1 => BitVec.ofNat 8 v :: leBytes (v / 256) n

/-- A little-endian value of `n` bytes at `a`. -/
def Mem.readLE (m : Mem) (a n : Nat) : Nat := leValue (m.readBytes a n)

/-- Write a value of `n` bytes at `a`, little-endian. -/
def Mem.writeLE (m : Mem) (a n v : Nat) : Mem := m.writeBytes a (leBytes v n)

/-- Put a number into a rising list of numbers. -/
def natInsert (k : Nat) : List Nat → List Nat
  | [] => [k]
  | a :: r => if a < k then a :: natInsert k r else if a = k then a :: r else k :: a :: r

/-- Is the 32-byte word that holds byte `a` poisoned? (R251) -/
def Mem.poisonedAt (m : Mem) (a : Nat) : Bool := m.poison.contains (a / 32)

/-- Is any word of the `n` bytes at `a` poisoned? -/
def Mem.poisonedIn (m : Mem) (a n : Nat) : Bool :=
  m.poison.any (fun w => decide (a / 32 ≤ w ∧ w * 32 < a + n))

/-- Set or clear the poison bit of word `w` (32 bytes). -/
def Mem.setPoison (m : Mem) (w : Nat) (on : Bool) : Mem :=
  if on then { m with poison := natInsert w m.poison } else { m with poison := m.poison.filter (· != w) }

/-- Clear the poison bits of every word that lies wholly or partly in the `n` bytes at `a`. -/
def Mem.clearPoison (m : Mem) (a n : Nat) : Mem :=
  { m with poison := m.poison.filter (fun w => !decide (a / 32 ≤ w ∧ w * 32 < a + n)) }

/-- Clear bytes `a` to `a + n − 1` to the blank value, with their poison bits. -/
def Mem.clearRange (m : Mem) (a n : Nat) : Mem :=
  { cells := m.cells.filter (fun c => !decide (a ≤ c.1 ∧ c.1 < a + n)),
    poison := (m.clearPoison a n).poison }

/-- Copy `n` bytes and their poison bits from one memory to another. Addresses and length are whole 32-byte words. -/
def Mem.copyFrom (dst : Mem) (da : Nat) (src : Mem) (sa n : Nat) : Mem :=
  let d0 := dst.clearRange da n
  let moved := (src.cells.filter (fun c => decide (sa ≤ c.1 ∧ c.1 < sa + n))).foldl
    (fun m c => m.write8 (da + (c.1 - sa)) c.2) d0
  (src.poison.filter (fun w => decide (sa / 32 ≤ w ∧ w * 32 < sa + n))).foldl
    (fun m w => m.setPoison (da / 32 + (w - sa / 32)) true) moved

/-- Numbers strictly rise. -/
def natRising : List Nat → Bool
  | [] => true
  | [_] => true
  | a :: b :: r => decide (a < b) && natRising (b :: r)

/-- The canonical form of a memory: addresses strictly rising, no cell blank, poisoned words strictly rising. -/
def Mem.wf (m : Mem) : Bool :=
  tabRising m.cells && m.cells.all (fun c => decide (c.2 ≠ Mem.blank)) && natRising m.poison

end Sys2Proof.Machine
end

