-- ==== Sys2Proof/Machine/StateMem.lean ====
section
/-! DEFINITION. State of the HBM controllers and stacks, the Tile Map and tier engine, and the flash tier (08). -/

namespace Sys2Proof.Machine

/-- A request of an open-slot queue (R259): a host CXL.mem or Dome access within one HBM beat, a tier-engine wipe beat or another
tier-engine beat: a beat of a MOVE, read or written, or the update of a logging bitmap. Host requests carry a tag that names
them in what the device answers. -/
inductive OpenOp where
  | hostRead (tag addr len : Nat)
  | hostWrite (tag addr : Nat) (data : List Byte) (poison : Bool)
  | wipe (place beat : Nat)
  | bootWipe
  | tierBeat (tile beat : Nat) (write : Bool)
  | logBeat
  deriving DecidableEq, Repr

/-- A queued request: what it does, the tile a host access resolved to, the CCLK of its arrival, and whether it has
counted as waiting (R260). -/
structure OpenReq where
  op      : OpenOp
  tile    : Option Nat
  arrived : Nat
  counted : Bool
  deriving DecidableEq, Repr

/-- One HBM4 controller with its stack (R253 to R262). `used` lists the places that are allocated or await their wipe, in
rising order; `wipeQueue` lists freed places in the order of their freeing, `wipeBeat` counts the beats of its head that
are zeroed; `parity` says that the next refresh point is idle while HOT is 0 (R258). -/
structure HbmStack where
  trained   : Bool
  hot       : Bool
  bootWiping : Bool
  bootWiped : Bool
  symCorr   : Word
  symUncorr : Word
  openWaits : Word
  queue     : List OpenReq
  waiting   : List OpenReq
  parity    : Bool
  refreshes : Nat
  used      : List Nat
  wipeQueue : List Nat
  wipeBeat  : Nat
  mem       : Mem
  deriving DecidableEq, Repr

/-- STATE of a Tile Map entry (Table 8.6). -/
inductive TileState where
  | free | ready | moving | lost
  deriving DecidableEq, Repr

/-- TIER of a Tile Map entry (Table 8.6). -/
inductive TierSel where
  | none | hbm | flash
  deriving DecidableEq, Repr

/-- One Tile Map entry (R276). -/
structure TileEntry where
  tier  : TierSel
  state : TileState
  radio : Bool
  flashCopy : Bool
  lease : BitVec 12
  pin   : BitVec 7
  stack : BitVec 5
  place : BitVec 18
  deriving DecidableEq, Repr

/-- Who sent a command: the Dome, or an entry of a queue pair (function 0 is the host, n is lease n; queue pair; command
identifier). -/
inductive Issuer where
  | dome
  | ring (func qp cid : Nat)
  deriving DecidableEq, Repr

/-- How far the copying of one MOVING tile has come (R283): beats read from its place in HBM, flash pages read, beats written to its
new place, and whether a source read was uncorrectable or poisoned. -/
structure TileCopy where
  read    : Nat
  pages   : BitVec 16
  written : Nat
  bad     : Bool
  deriving DecidableEq, Repr

/-- A MOVE in progress (R283). `places` are the HBM places reserved at its acceptance, in tile order; `next` is the tile
whose turn it is. -/
structure MoveJob where
  issuer  : Issuer
  first   : Nat
  count   : Nat
  toHbm   : Bool
  stack   : Nat
  keep    : Bool
  discard : Bool
  places  : List Nat
  next    : Nat
  moved   : Nat
  lost    : Nat
  deriving DecidableEq, Repr

/-- Quotas of one lease (R280). The usages are counts over the Tile Map. -/
structure Quota where
  hbmQuota   : BitVec 25
  flashQuota : BitVec 25
  deriving DecidableEq, Repr

/-- The tier engine and the Tile Map (R275 to R285, R293). `copies` says how far the tiles that are being copied have come. -/
structure TierState where
  ready  : Bool
  map    : Tab TileEntry
  moves  : List MoveJob
  copies : Tab TileCopy
  quotas : Tab Quota
  rebuilding : Bool
  deriving DecidableEq, Repr

/-- One flash block: erase count, reads since the last erase, retired, pages programmed since the last erase (R289). Blocks are
numbered channel × 2^20 + block. -/
structure FlashBlock where
  erases : Nat
  reads  : Nat
  bad    : Bool
  written : Nat
  deriving DecidableEq, Repr

/-- What the flash controllers learn from the packages (R286, R289): packages of a channel (0: none), blocks of a channel, pages
of a block, and the blocks that bear a factory mark. -/
structure FlashFound where
  packages : Nat
  blocks   : Nat
  pages    : Nat
  marks    : List Nat
  deriving DecidableEq, Repr

/-- A stripe (R287): what the spare of its pages holds, LEASE, RADIO and the write sequence number; and where its 16 pages lie, block
and page by channel. Its tile number is its index in the translation map. -/
structure Stripe where
  lease : BitVec 12
  radio : Bool
  wseq  : Nat
  pages : List (Nat × Nat)
  deriving DecidableEq, Repr

/-- The flash tier (R286 to R293). `stripes` is the translation map: the tiles with an acknowledged copy; `mem` holds their contents
at tile number × 256 KiB; `filling` is the block that each channel fills, plus 1, or 0; `waits` lists allocated tiles whose
zeros are not being written yet, `inflight` the tiles whose write is not yet acknowledged, `acked` the moving tiles whose write
is; `staged` holds what is being copied; `retry` is the retry level of a page, at tile × 16 + page; `saved` holds the erase
and read counts that the journal keeps; `noProgram` says that NAND programs and erases have stopped (R291); `journal` that the
journal in flash is complete. -/
structure FlashState where
  present   : Bool
  ready     : Bool
  clean     : Bool
  found     : FlashFound
  relocs    : Word
  stripes   : Tab Stripe
  mem       : Mem
  wseq      : Nat
  filling   : Tab Nat
  waits     : List Nat
  inflight  : List Nat
  acked     : List Nat
  staged    : Mem
  retry     : Tab Nat
  blocks    : Tab FlashBlock
  saved     : Tab FlashBlock
  noProgram : Bool
  journal   : Bool
  deriving DecidableEq, Repr

/-- A stack at reset: untrained, contents reading 0 (R262, R293, log entry 2). -/
def HbmStack.reset : HbmStack where
  trained := false
  hot := false
  bootWiping := false
  bootWiped := false
  symCorr := 0
  symUncorr := 0
  openWaits := 0
  queue := []
  waiting := []
  parity := false
  refreshes := 0
  used := []
  wipeQueue := []
  wipeBeat := 0
  mem := Mem.empty

/-- A FREE entry reads 0 (R276). -/
def TileEntry.free : TileEntry := ⟨.none, .free, false, false, 0, 0, 0, 0⟩

def Quota.reset : Quota := ⟨0, 0⟩

def TileCopy.none : TileCopy := ⟨0, 0, 0, false⟩

def TierState.reset : TierState := ⟨false, Tab.empty, [], Tab.empty, Tab.empty, false⟩

def FlashBlock.reset : FlashBlock := ⟨0, 0, false, 0⟩

/-- No packages. -/
def FlashFound.none : FlashFound := ⟨0, 0, 0, []⟩

/-- No stripe: a write sequence number is never 0. -/
def Stripe.none : Stripe := ⟨0, false, 0, []⟩

/-- Flash registers at reset; no copy is held in the first power-on state (log entry 7). -/
def FlashState.reset : FlashState where
  present := false
  ready := false
  clean := false
  found := FlashFound.none
  relocs := 0
  stripes := Tab.empty
  mem := Mem.empty
  wseq := 0
  filling := Tab.empty
  waits := []
  inflight := []
  acked := []
  staged := Mem.empty
  retry := Tab.empty
  blocks := Tab.empty
  saved := Tab.empty
  noProgram := false
  journal := true

/-- Tiles with an acknowledged copy. -/
def FlashState.copies (f : FlashState) : List Nat := f.stripes.keys

end Sys2Proof.Machine
end

