-- ==== Sys2Proof/Machine/StateTime.lean ====
section
/-! DEFINITION. State of the clocks, the Minuet, hall time, the trigger and capture channels (02) and of the counters
block of the Belfry (03). -/

namespace Sys2Proof.Machine

/-- Hall time: TAI seconds, nanoseconds, fraction in units of 2^-32 ns (02 'Hall time'). -/
structure HallTime where
  sec  : DWord
  ns   : Word
  frac : Word
  deriving DecidableEq, Repr

/-- Cause of a reset (R50), one bit of RST_CAUSE each. -/
inductive ResetCause where
  | powerOn | resetPin | chipResetCmd | domeWdog | clockLoss | wake
  deriving DecidableEq, Repr

/-- CHIP_STATE (02 'Chip states and Ready'). -/
inductive ChipState where
  | minuet | boot | timeAcquire | ready | failed
  deriving DecidableEq, Repr

/-- The physical clock edges. `tick` counts CCLK-rate ticks of the root since reset release, never stretched;
`edges` and `bclk` count CCLK and BCLK edges since the end of Minuet phase 1 (R103), suppressed ones left out (R98); `plan` is the plan CCLK position (R31, R87);
`skip` is how many coming edges a droop suppresses (R98). -/
structure ClockState where
  tick  : Nat
  edges : Nat
  bclk  : Nat
  plan  : Nat
  skip  : Nat
  deriving DecidableEq, Repr

/-- UCIE_LAT_t (R49). -/
structure UcieLat where
  result : BitVec 2
  raw    : Byte
  pad    : Byte
  deriving DecidableEq, Repr

/-- Clocks, Minuet, reset and operating mode (R39 to R50, R95 to R99). `pendingReset` is the cause of a reset the chip
is held in; `phase1Done` says that the dividers run. -/
structure ClkState where
  lanePll      : Bool
  hbmPll       : Bool
  uciePll      : Bool
  rootLock     : Bool
  refPresent   : Bool
  towerFail    : BitVec 4
  attempts     : BitVec 2
  failed       : Bool
  done         : Bool
  phase        : BitVec 2
  lat          : Tab UcieLat
  rstCause     : ResetCause
  pendingReset : Option ResetCause
  phase1Done   : Bool
  chipState    : ChipState
  modeStatus   : Byte
  stretchUsed  : Byte
  mode         : Bool
  modeStaged   : Bool
  budget       : Nat
  deriving DecidableEq, Repr

/-- One trigger channel (R74 to R81). `mid` is the master that armed it; `target` and `period` are those in force while
it is armed, in units of 2^-32 ns: the target registers read as written while the target advances (R5, R75). `late` holds the writes that have landed in the BCLK in
which the channel fires, oldest first: the register's offset, the MID, the value (R77). -/
structure TrigChan where
  armed     : Bool
  action    : BitVec 4
  arg       : BitVec 5
  tgtSecLo  : Word
  tgtSecHi  : Word
  tgtNs     : Word
  tgtFrac   : Word
  perNs     : Word
  perFrac   : Word
  fires     : BitVec 16
  missed    : Byte
  refused   : Bool
  disarmedBySet : Bool
  suppressed : Bool
  mid       : Nat
  target    : Nat
  period    : Nat
  late      : List (Nat × Nat × Word)
  deriving DecidableEq, Repr

/-- One capture channel (R82, R83). -/
structure CapChan where
  enable : Bool
  edge   : Bool
  arg    : BitVec 6
  source : BitVec 4
  time   : HallTime
  seq    : Word
  deriving DecidableEq, Repr

/-- The time unit (R51 to R83). `setPending` is the value of a MODE 1 GO that waits for 1PPS_IN (R72); `incrNext` is an increment
committed in stretch-permitted operation that waits for the period start (R54); `ppsSec` is the last whole second that
1PPS_OUT has marked. `periodTarget` is the hall-time target, in units of 2^-32 ns, of the most recent period start;
`periods` counts period starts since reset.
`lastSync` is the period count at the last Sync (R67). `edgeAt` is the hall time of the next BCLK edge that a coarse set has
given (R72). `reqSent` is the Delay_Req that waits for its answer (port identity, sequence number, hall time of its
departure), `forward` the measured way of the last Sync and `pathDelay` the mean path delay, in units of 2^-32 ns, and `inBound` the consecutive Syncs whose offset lay
within ±100 ns (Table 2.3, R68). -/
structure TimeState where
  hall        : HallTime
  edgeAt      : Option HallTime
  incr        : Nat
  incrLo      : Word
  incrHi      : BitVec 4
  incrNext    : Option Nat
  incrRejects : Word
  role        : Bool
  servo       : BitVec 3
  latched     : HallTime
  domeLatched : HallTime
  setSecLo    : Word
  setSecHi    : Word
  setNs       : Word
  setFrac     : Word
  setStatus   : Byte
  setMode     : Bool
  setPending  : Option HallTime
  ppsEnable   : Bool
  ppsWidth    : BitVec 10
  ppsSec      : DWord
  ppsFall     : Option Nat
  periodTarget : Nat
  periods     : Nat
  lastSync    : Nat
  reqSent     : Option (Nat × Nat × Nat)
  forward     : Int
  pathDelay   : Int
  inBound     : Nat
  deriving DecidableEq, Repr

/-- One Belfry programmable counter and its event select (R104, R107). -/
structure BelfryCounter where
  count    : BitVec 48
  snap     : BitVec 48
  enable   : Bool
  ovf      : Bool
  ovfIrq   : Bool
  inst     : Byte
  event    : BitVec 16
  deriving DecidableEq, Repr

/-- The counters block of the Belfry (R101, R110 to R114). Index 6 of `ndc` and `snapNdc` is the total. -/
structure CounterState where
  freeze    : Bool
  snapSeq   : Word
  snapTime  : HallTime
  snapValid : Word
  ndc       : Tab DWord
  snapNdc   : Tab DWord
  bpmc      : Tab BelfryCounter
  deriving DecidableEq, Repr

def HallTime.zero : HallTime := ⟨0, 0, 0⟩

def UcieLat.reset : UcieLat := ⟨0, 0, 0⟩

def ClockState.reset : ClockState := ⟨0, 0, 0, 0, 0⟩

/-- The nominal increment 0x1_2D2D_2D2D (R52). -/
def nominalIncr : Nat := 0x12D2D2D2D

/-- Clocks at reset: nothing locked, the chip held in a power-on reset (log entry 3). -/
def ClkState.reset : ClkState where
  lanePll := false
  hbmPll := false
  uciePll := false
  rootLock := false
  refPresent := false
  towerFail := 0
  attempts := 0
  failed := false
  done := false
  phase := 0
  lat := Tab.empty
  rstCause := .powerOn
  pendingReset := some .powerOn
  phase1Done := false
  chipState := .minuet
  modeStatus := 0
  stretchUsed := 0
  mode := false
  modeStaged := false
  budget := 64

def TrigChan.reset : TrigChan where
  armed := false
  action := 0
  arg := 0
  tgtSecLo := 0
  tgtSecHi := 0
  tgtNs := 0
  tgtFrac := 0
  perNs := 0
  perFrac := 0
  fires := 0
  missed := 0
  refused := false
  disarmedBySet := false
  suppressed := false
  mid := 0
  target := 0
  period := 0
  late := []

def CapChan.reset : CapChan := ⟨false, false, 0, 0, HallTime.zero, 0⟩

/-- The time unit at reset (R53, R71); hall time itself reads 0 until the coarse set (log entry 4). -/
def TimeState.reset : TimeState where
  hall := HallTime.zero
  edgeAt := none
  incr := nominalIncr
  incrLo := 0x2D2D2D2D
  incrHi := 1
  incrNext := none
  incrRejects := 0
  role := false
  servo := 0
  latched := HallTime.zero
  domeLatched := HallTime.zero
  setSecLo := 0
  setSecHi := 0
  setNs := 0
  setFrac := 0
  setStatus := 0
  setMode := false
  setPending := none
  ppsEnable := false
  ppsWidth := 0
  ppsSec := 0
  ppsFall := none
  periodTarget := 0
  periods := 0
  lastSync := 0
  reqSent := none
  forward := 0
  pathDelay := 0
  inBound := 0

def BelfryCounter.reset : BelfryCounter := ⟨0, 0, false, false, false, 0, 0⟩

def CounterState.reset : CounterState where
  freeze := false
  snapSeq := 0
  snapTime := HallTime.zero
  snapValid := 0
  ndc := Tab.empty
  snapNdc := Tab.empty
  bpmc := Tab.empty

end Sys2Proof.Machine
end

