-- ==== Sys2Proof/Machine/StateHost.lean ====
section
/-! DEFINITION. State of leases, jobs and the dispatcher (13) and of the host attachment (14). -/

namespace Sys2Proof.Machine

/-! ### Jobs and the dispatcher -/

/-- Where a job stands: in the queue, being loaded or armed, running, or ending. -/
inductive JobPhase where
  | queued | loading | running | ending
  deriving DecidableEq, Repr

/-- A segment of a job image (R442): rank (0xFF for every rank), store address, bytes, offset in the image. -/
structure Segment where
  rank   : Nat
  addr   : Nat
  bytes  : Nat
  offset : Nat
  deriving DecidableEq, Repr

/-- A rank entry of a job image (R442): start bundle index, handler bundle index, THREADS mask, start addresses. -/
structure RankEntry where
  start   : Nat
  ivec    : Nat
  threads : Nat
  starts  : List Nat
  deriving DecidableEq, Repr

/-- The header facts of a job image (Table 13.3) with its tables. -/
structure JobImage where
  pavane    : Word
  startStep : Nat
  storeMib  : Nat
  spires    : Nat
  bytes     : Nat
  ranks     : List RankEntry
  segments  : List Segment
  deriving DecidableEq, Repr

/-- The first abnormal ending of a job (R457, R458): status, cause, bundle index, rank. -/
structure Abnormal where
  status : Nat
  cause  : Nat
  bundle : Nat
  rank   : Nat
  deriving DecidableEq, Repr

/-- A job, from its acceptance until its record is written (R443 to R458). `spires` lists its Spires by rank once placed;
`ended` the end code of each rank that issued END; `silent` says that no record will be written (R481). -/
structure Job where
  id       : Nat
  lease    : Nat
  func     : Nat
  qp       : Nat
  user     : Word
  first    : Nat
  tiles    : Nat
  image    : JobImage
  phase    : JobPhase
  spires   : List Nat
  ended    : Tab Nat
  abnormal : Option Abnormal
  lastPlan : Nat
  ndc      : Nat
  stops    : Nat
  replays  : Nat
  silent   : Bool
  startAt  : Option Nat
  deriving DecidableEq, Repr

/-- The dispatcher (R445 to R464). `queue` and `running` hold jobs in order of arrival and of placement; `taken` holds the
reclaimed Spires that the latest order named, `entered` the reclaimed Spires whose entry bundle issues, `windowed` those that an order
found in a window (R454). -/
structure DspState where
  queue       : List Job
  running     : List Job
  nextId      : Word
  reclaimDone : Bool
  reclaimEntry : BitVec 20
  taken       : Word
  notTaken    : Word
  entered     : Word
  windowed    : Word
  deferrals   : Word
  overruns    : Word
  deriving DecidableEq, Repr

/-- TDI states (LP_STATUS). -/
inductive TdiState where
  | unlocked | locked | run | error
  deriving DecidableEq, Repr

/-- Migration write logging of a lease (R460 to R462). -/
structure LogState where
  on       : Bool
  activeB  : Bool
  overflow : Bool
  flipping : Bool
  pages    : BitVec 25
  iova     : BitVec 52
  tile     : BitVec 24
  deriving DecidableEq, Repr

/-- One lease (R434, R464, R481 to R485). -/
structure Lease where
  enable     : Bool
  maxSpires  : BitVec 6
  queueLimit : Byte
  log        : LogState
  tdi        : TdiState
  resetting  : Bool
  deriving DecidableEq, Repr

/-! ### Host attachment -/

/-- A completion record that waits for its slot (R474, R475): its bytes 0 to 59 as one little-endian number. -/
structure Record where
  body : BitVec 480
  deriving DecidableEq, Repr

/-- One queue pair (R470 to R476, R494). `inProgress` lists the CIDs of the commands started and not completed, oldest
first; `waiting` the records that wait for a released slot; `used` counts the slots filled and not released; `offAt` is the BCLK
after that in which ENABLE was last cleared (Table 14.7). -/
structure Pair where
  sqBase  : DWord
  cqBase  : DWord
  sqLog2  : BitVec 5
  cqLog2  : BitVec 5
  status  : Byte
  enable  : Bool
  sqTail  : BitVec 16
  sqHead  : BitVec 16
  cqHead  : BitVec 16
  cqTail  : BitVec 16
  error   : Bool
  phase   : Bool
  inProgress : List Nat
  waiting : List Record
  used   : Nat
  offAt  : Nat
  deriving DecidableEq, Repr

/-- The best-effort receive ring of a function (R491, R495); `used` counts the slots filled and not released. -/
structure RxRing where
  base   : DWord
  log2   : BitVec 5
  enable : Bool
  error  : Bool
  head   : BitVec 16
  tail   : BitVec 16
  phase  : Bool
  used   : Nat
  deriving DecidableEq, Repr

/-- One function: the physical function (0) or a lease's virtual function. `msix` holds the words of the MSI-X table;
`latch` is a lease's own time latch (Table 14.2); `dbSetAt` and `dbClearAt` hold, by doorbell bit, the BCLK after that in which the
device last set it and software last cleared it (Table 14.7). -/
structure Func where
  pairs    : Tab Pair
  rx       : RxRing
  dbStatus : Word
  dbMask   : Word
  msix     : Tab Word
  pba      : Word
  latch    : HallTime
  dbSetAt  : Tab Nat
  dbClearAt : Tab Nat
  deriving DecidableEq, Repr

/-- One mailbox channel (R488 to R490): its binding and its FIFO, each word with the BCLK of its push; `head` and `left` are the header of the request to the Dome that is
arriving (R555) and its payload words that are still to come; `late` holds the pushes of a
BCLK that found it full, which a pop of the same BCLK lets in (Table 14.7), each with its BCLK and what OVERRUN was before. -/
structure Channel where
  valid    : Bool
  sender   : BitVec 13
  receiver : BitVec 13
  fifo     : List (Word × Nat)
  late     : List (Word × Nat × Bool)
  overrun  : Bool
  drainIrq : Bool
  head     : Word
  left     : Nat
  deriving DecidableEq, Repr

/-- The host attachment (R465 to R497): functions, channels, the CXL mailbox's event records, the IDE stream that each lease's
TDI binds, the IDE streams that are secure. -/
structure HostState where
  funcs     : Tab Func
  channels  : Tab Channel
  locked    : Bool
  denied    : Word
  events    : List Word
  ideBound  : Tab Nat
  secure    : List Nat
  deriving DecidableEq, Repr

def DspState.reset : DspState where
  queue := []
  running := []
  nextId := 1
  reclaimDone := false
  reclaimEntry := 0
  taken := 0
  notTaken := 0
  entered := 0
  windowed := 0
  deferrals := 0
  overruns := 0

def LogState.reset : LogState := ⟨false, false, false, false, 0, 0, 0⟩

/-- A lease n ≥ 1 at reset. -/
def Lease.reset : Lease := ⟨false, 0, 0, LogState.reset, .unlocked, false⟩

/-- QP_SIZE resets to 0x0404 (R494); the next record expected carries PHASE 1 (R470). -/
def Pair.reset : Pair := ⟨0, 0, 4, 4, 0, false, 0, 0, 0, 0, false, true, [], [], 0, 0⟩

def RxRing.reset : RxRing := ⟨0, 0, false, false, 0, 0, true, 0⟩

/-- DB_MASK resets to all ones (R493). -/
def Func.reset : Func := ⟨Tab.empty, RxRing.reset, 0, 0xFFFFFFFF, Tab.empty, 0, HallTime.zero, Tab.empty, Tab.empty⟩

def Channel.reset : Channel := ⟨false, 0, 0, [], [], false, false, 0, 0⟩

def HostState.reset : HostState := ⟨Tab.empty, Tab.empty, false, 0, [], Tab.empty, []⟩

end Sys2Proof.Machine
end

