-- ==== Sys2Proof/Machine/StateArray.lean ====
section
/-! DEFINITION. State of one Spire's matrix array (04): the pass descriptor, the planes, the passes in flight and the
array's registers. -/

namespace Sys2Proof.Machine

/-- A pass descriptor, decoded from its 64 bytes (R120, Table 4.3), which `raw` holds as one little-endian number. Addresses are
bytes of the Spire store. -/
structure PassDesc where
  fmtW : Nat
  fmtX : Nat
  outFmt : Nat
  radioClass : Bool
  outLong : Bool
  init : Nat
  interval : Nat
  wexp : Int
  k : Nat
  n : Nat
  v : Nat
  tileAddr : Nat
  sideAddr : Nat
  xAddr : Nat
  xStride : Nat
  xsAddr : Nat
  xsStride : Nat
  initAddr : Nat
  initStride : Nat
  outAddr : Nat
  outStride : Nat
  osideAddr : Nat
  osideStride : Nat
  tag : Nat
  reservedOk : Bool
  raw : Nat
  deriving DecidableEq, Repr

/-- One plane of the array (R118, R127): tile rows of 2,048 bits and side words of 256 bits, in the order they are
read from the store; rows and words never loaded hold zero. -/
structure Plane where
  rows : Tab (BitVec 2048)
  side : Tab (BitVec 256)
  deriving DecidableEq, Repr

/-- An input vector that has entered the array and is not yet checked: its index, its elements, its block scales and
its initial long values as read from the store, and the CCLK in which it entered. -/
structure VecIn where
  index  : Nat
  elems  : Nat
  scales : Nat
  inits  : Nat
  at_    : Nat
  deriving DecidableEq, Repr

/-- The load of the shadow plane (R128, R603): the CCLK in which it began and the rows and words read so far. -/
structure PlaneLoad where
  start : Nat
  done  : Nat
  deriving DecidableEq, Repr

/-- A write of the array that has not been made (R603): its CCLK, its address, a multiple of 16, its bytes and its poison. -/
structure ArrWrite where
  at_    : Nat
  addr   : Nat
  bytes  : Nat
  word   : BitVec 256
  poison : Bool
  deriving DecidableEq, Repr

/-- A word that an unreleased pass has written, as it was before, with its poison: what it keeps if the write proves lost
(R247). -/
structure OldWord where
  addr   : Nat
  word   : BitVec 256
  poison : Bool
  deriving DecidableEq, Repr

/-- A started and unreleased pass (R131 to R141). `load` is L, the load time that remained when it started; `entered`
and `checked` count vectors; `u` holds the sums of the elements sent, by reduction index and part (R138); `total` is the
running total of results less initial values in grid units, by part; `beats` marks the banks that crossbar beats have
named since the pass was accepted (R247, R603); `writes` are the writes still to come, `wrote` the words it has written;
`inDigest` and `longDigest` are its two digests so far (R512). -/
structure Pass where
  desc     : PassDesc
  addr     : Nat
  seq      : Nat
  start    : Nat
  load     : Nat
  swapped  : Bool
  plane    : Plane
  entered  : Nat
  checked  : Nat
  vectors  : List VecIn
  inexactRe : Nat
  inexactIm : Nat
  clamped  : Nat
  skipped  : Bool
  saturated : Bool
  totalRe  : Int
  totalIm  : Int
  uRe      : Tab Int
  uIm      : Tab Int
  rowDone  : Bool
  rowSkip  : Bool
  failed   : Bool
  held     : Bool
  tainted  : Bool
  beats    : BitVec 64
  writes   : List ArrWrite
  wrote    : List OldWord
  inDigest : BitVec 64
  longDigest : BitVec 64
  deriving DecidableEq, Repr

/-- The descriptor that has been accepted and has not started (R130); `beats` as for a pass. -/
structure QueuedPass where
  desc : PassDesc
  addr : Nat
  acceptedAt : Nat
  tainted : Bool
  beats : BitVec 64
  deriving DecidableEq, Repr

/-- The record of the most recent disagreement (R149). -/
structure DisRecord where
  valid  : Bool
  row    : Bool
  imag   : Bool
  vector : BitVec 13
  tag    : BitVec 16
  seq    : Word
  diff   : DWord
  tol    : Word
  deriving DecidableEq, Repr

/-- One matrix array (R147 to R149). `nextStart` is the earliest CCLK of the next start (INTERVAL after the last
broadcast of the previous pass); `verdictWait` says that a check failed and no verdict has come (R139 step 3). `ceased` are the passes
that a stop has abandoned with a check due by its CCLK `ceasedAt` (Table 4.9); `lastReads` are the ranges that the pass
released in CCLK `releasedAt` protected until then (R220). -/
structure ArrState where
  lastRefusal : Byte
  started     : Word
  released    : Word
  lastTag     : BitVec 16
  lastFlags   : BitVec 5
  lastInexact : Word
  lastClamp   : Word
  sticky      : BitVec 7
  dis         : DisRecord
  passes      : List Pass
  queued      : Option QueuedPass
  shadow      : Plane
  active      : Plane
  load        : Option PlaneLoad
  lastSwap    : Nat
  nextStart   : Nat
  verdictWait : Bool
  ceased      : List Pass
  ceasedAt    : Nat
  lastReads   : List (Nat × Nat)
  releasedAt  : Nat
  deriving DecidableEq, Repr

def Plane.empty : Plane := ⟨Tab.empty, Tab.empty⟩

def DisRecord.reset : DisRecord := ⟨false, false, false, 0, 0, 0, 0, 0⟩

/-- The array at reset, and after a wipe (R148). -/
def ArrState.reset : ArrState where
  lastRefusal := 0
  started := 0
  released := 0
  lastTag := 0
  lastFlags := 0
  lastInexact := 0
  lastClamp := 0
  sticky := 0
  dis := DisRecord.reset
  passes := []
  queued := none
  shadow := Plane.empty
  active := Plane.empty
  load := none
  lastSwap := 0
  nextStart := 0
  verdictWait := false
  ceased := []
  ceasedAt := 0
  lastReads := []
  releasedAt := 0

end Sys2Proof.Machine
end

