-- ==== Sys2Proof/Machine/StateDome.lean ====
section
/-! DEFINITION. State of the reliability block (15), of the Dome (16), of the power manager (17) and of the package's
pins (18). -/

namespace Sys2Proof.Machine

/-! ### Reliability block -/

/-- An error record (Table 15.5); `inst` is INSTANCE. -/
structure ErrRec where
  seq      : Word
  sec      : DWord
  ns       : Word
  detector : Nat
  outcome  : Nat
  inst     : Nat
  lease    : Nat
  tag      : Nat
  job      : Nat
  detail   : Nat
  deriving DecidableEq, Repr

/-- REL_SPIRE_s (R535). `deduct` counts the −200 changes of Table 15.4 that wait for a passed confirmation visit. -/
structure SpireHealth where
  quarantined : Bool
  confirm     : Bool
  fenced      : Bool
  last        : BitVec 3
  score       : Nat
  deduct      : Nat
  deriving DecidableEq, Repr

/-- The checksum side of a failed comparison, ref (R512): which check and part failed, at which vector; the checksum's own sum in
units of 2^-1400, and the initial values in grid units. -/
structure RefSide where
  row    : Bool
  imag   : Bool
  vector : Nat
  column : Int
  inits  : Int
  deriving DecidableEq, Repr

/-- A disputed pass (R510 to R512): the original, the held pass, its TAG and job, and the VOID attempts made. `radio`
says that the pass belongs to radio work (R514); `ref` is what the failed comparison is judged by. -/
structure Dispute where
  spire    : Nat
  seq      : Nat
  tag      : Nat
  job      : Nat
  radio    : Bool
  attempts : Nat
  stopped  : Bool
  ref      : RefSide
  deriving DecidableEq, Repr

/-- A release record (R515): the descriptor with its address, the job and the TAG, the two digests. -/
structure ReleaseRec where
  desc : PassDesc
  addr : Nat
  job  : Nat
  tag  : Nat
  inDigest : BitVec 64
  longDigest : BitVec 64
  deriving DecidableEq, Repr

/-- A recompute of this test window (R504, R511, R516): Tower, original, referee, whether it is a shadow, whether its result has
come; the pass, and the CCLK in which the recompute starts (R502). -/
structure Recompute where
  tower    : Nat
  original : Nat
  referee  : Nat
  shadow   : Bool
  done     : Bool
  pass     : ReleaseRec
  start    : Nat
  deriving DecidableEq, Repr

/-- A visit in progress (R508): Spire, next segment, whether it is a confirmation visit, whether a signature differed. -/
structure Visit where
  spire   : Nat
  segment : Nat
  confirm : Bool
  failed  : Bool
  deriving DecidableEq, Repr

/-- A path monitor (R528): whether it has reported since reset, its slacks, whether an alarm is raised, since when the slack
has been above the recovery level, and its least slack since the adaptive loop last looked (R579). -/
structure PathMon where
  seen   : Bool
  lowest : BitVec 16
  latest : BitVec 16
  alarm  : Bool
  since  : Option Nat
  recent : Option Nat
  deriving DecidableEq, Repr

/-- REL_OPT_n (R529). -/
structure OptPower where
  valid : Bool
  alarm : Bool
  power : BitVec 16
  since : Option Nat
  deriving DecidableEq, Repr

/-- Counters of the reliability block (R535). -/
structure RelCounters where
  disputes : Word
  vChecker : Word
  vArray   : Word
  vNone    : Word
  voids    : Word
  shadowRun : Word
  shadowSkipped : Word
  shadowVoid : Word
  shadowMismatch : Word
  visits   : Word
  visitsFailed : Word
  tainted  : Word
  poisonConsumed : Word
  errSeq   : Word
  deriving DecidableEq, Repr

/-- The expulsion governor (R526, R527). `tokens` is in 1/256 token; `carry` is the part of a unit earned since the last
refill; `fullSince` the CCLK tick since which the count has stayed at BURST; `candidates` the chips that are candidates
now, and `suspects` those marked, in ascending order. -/
structure Governor where
  rate      : BitVec 16
  burst     : Byte
  dBase     : BitVec 10
  step      : BitVec 10
  d         : BitVec 10
  tokens    : Nat
  carry     : Nat
  lastTick  : Nat
  lower     : BitVec 16
  fullSince : Option Nat
  recs      : Word
  candidates : List Nat
  suspects  : List Nat
  deriving DecidableEq, Repr

/-- What the liveness detector keeps for one lane partner, by its CHIP_ID (R522, R524): whether a heartbeat came in this period, whether
every one of this period was READY with the active Pavane, silent periods in a row, good periods in a row, its latest
HEALTH. -/
structure Liveness where
  seen   : Bool
  good   : Bool
  silent : Nat
  goodRun : Nat
  health : Nat
  deriving DecidableEq, Repr

/-- The dump (R531 to R533): the Tower that was highest in service when it was written, its header STATE and SEQ, and whether
a second fatal error has stopped its writing (Table 15.8). -/
structure Dump where
  tower : Nat
  state : Byte
  seq   : Word
  stopped : Bool
  deriving DecidableEq, Repr

/-- The reliability block. The chips that are lost stand in RmState.lost. `quarAfter` lists Spires that are quarantined when
their job ends (Table 15.3); `passedOver` those in gated domains that rotation has passed over (R508); `notices` the MGMT payloads that wait to be sent, with their destinations (R523, R562).
`inService` is ID_SPIRES, `towerOut` the Towers out of service; `testActive` REL_STATUS 29;
`segment` the Spire whose test segment runs in this window; `recomputes` those of this window; `corrections` the
corrected words since the last summary, in all and since reset. -/
structure RelState where
  inService  : BitVec 32
  towerOut   : BitVec 4
  fatal      : Bool
  testActive : Bool
  packLoaded : Bool
  segments   : Nat
  lastStatus : Byte
  testEnable : Bool
  testStart  : BitVec 20
  testLen    : BitVec 16
  shadowEnable : Bool
  shadowK    : BitVec 5
  fenceAt    : BitVec 10
  health     : Tab SpireHealth
  chipHealth : BitVec 10
  counters   : RelCounters
  gov        : Governor
  live       : Tab Liveness
  pm         : Tab PathMon
  pmAlarmAt  : BitVec 16
  opt        : Tab OptPower
  optAlarmAt : BitVec 16
  ring       : Tab ErrRec
  dump       : Option Dump
  dumpOffset : BitVec 12
  disputes   : List Dispute
  confirmQueue : List Nat
  visit      : Option Visit
  rotation   : Nat
  segment    : Option Nat
  recomputes : List Recompute
  releases   : Tab Nat
  shadow     : Tab (Option Nat)
  records    : Tab (Option ReleaseRec)
  corrections : Nat
  fenceAfter : List Nat
  quarAfter  : List Nat
  passedOver : List Nat
  notices    : List (Nat × List Byte)
  deriving DecidableEq, Repr

/-! ### Dome -/

/-- A selector copy (R542). -/
structure Selector where
  valid  : Bool
  seq    : Word
  activeB : Bool
  trial  : Nat
  deriving DecidableEq, Repr

/-- What LANE_MAP says of one lane (Table 16.4). -/
structure LaneCfg where
  enabled : Bool
  chip    : BitVec 16
  lane    : BitVec 6
  eq      : Word
  asym    : Int
  deriving DecidableEq, Repr

/-- The records of CONFIG (Table 16.4). `temps` and `volts` are the THERMAL limits: highest TEMP_n in 1/16 °C, lowest and
highest VMON_n in mV. -/
structure CfgData where
  chipId  : BitVec 16
  domain  : Nat
  lanes   : Tab LaneCfg
  hbm     : List Nat
  trims   : List Nat
  wearSpread : Nat
  readLimit  : Nat
  rated   : Nat
  mbBind  : Option (List (Nat × Nat))
  mgmtNet : Bool
  tempHigh : Int
  voltLow : Nat
  voltHigh : Nat
  deriving DecidableEq, Repr

/-- A signed image (R544): MAGIC, KIND, SIGNER, VERSION and BODY_BYTES of its header, its body, the signer's modulus, and
its signature with the salt that the signature holds. IDENTITY has no header: its bytes are the body. -/
structure Image where
  magic     : Nat
  kind      : Nat
  signer    : Nat
  version   : Word
  bodyBytes : Nat
  body      : List Byte
  modulus   : List Byte
  signature : Nat
  salt      : List Byte
  deriving DecidableEq, Repr

/-- An image entry of a bank (R543): KIND, OFFSET and BYTES, and the image that stands there. -/
structure BankEntry where
  kind   : Nat
  offset : Nat
  bytes  : Nat
  image  : Image
  deriving DecidableEq, Repr

/-- A bank (R543 to R546): MAGIC, FORMAT, BANK_BYTES, the entry count and the CRC of its header; its entries; the TYPEs of its CONFIG's
records in order and what they hold; the number of segments of its TEST_PACK; whether its IDENTITY unwraps under K. -/
structure BankImg where
  magic    : Nat
  format   : Nat
  bytes    : Nat
  count    : Nat
  crc      : Nat
  entries  : List BankEntry
  records  : List Nat
  segments : Nat
  cfg      : CfgData
  identity : Bool
  deriving DecidableEq, Repr

/-- What a log record tells (R560); the CODE and DATA codes are firmware's. -/
inductive LogEvent where
  | boot (bankB fallback recovery : Bool)
  | reset (cause : ResetCause)
  | stage (status : Nat)
  | token (accepted : Bool)
  | timeState (state : Nat)
  | error (rec_ : ErrRec)
  | fatal
  deriving DecidableEq, Repr

/-- A log record (R560). -/
structure LogRec where
  seq  : Word
  sec  : DWord
  ns   : Word
  what : LogEvent
  deriving DecidableEq, Repr

/-- A STAGE in progress (R556): the mailbox channel and TAG to answer, KIND and the tiles. -/
structure StageJob where
  channel : Nat
  tag     : Nat
  kind    : Nat
  first   : Nat
  tiles   : Nat
  deriving DecidableEq, Repr

/-- An SPDM session (R553): its identifier and whether FINISH has completed it. -/
structure SpdmSession where
  id     : Nat
  open_  : Bool
  deriving DecidableEq, Repr

/-- The SPDM responder (R553): what the connection has agreed, and its sessions. -/
structure SpdmState where
  version : Bool
  caps    : Bool
  algs    : Bool
  sessions : List SpdmSession
  deriving DecidableEq, Repr

/-- The Dome (R536 to R565). `capacity` is the size in bytes of the
configuration memory (R540, R541), which the boot reads; `copies` holds selector copies 0 and 1; `running` says that firmware runs; `wdogAt` is the
CCLK tick of the last kick; `cfg` is the CONFIG in force; `booted` the bank image that booted; `pending` is
DEBUG_CTRL.PENDING with its level, `tokensRefused` its count; `resetTick` the tick of the reset release. -/
structure DomeState where
  chipId     : BitVec 16
  bankB      : Bool
  trial      : Bool
  fallback   : Bool
  debug      : Bool
  debugLevel : BitVec 2
  identityOk : Bool
  recovery   : Bool
  bootError  : Byte
  fwVersion  : Word
  cfgVersion : Word
  packVersion : Word
  bootUs     : Word
  running    : Bool
  wdogTimeout : BitVec 16
  wdogAt     : Option Nat
  nonce      : DWord
  pending    : Option (BitVec 2)
  tokensRefused : BitVec 16
  logSeq     : Word
  logLost    : Word
  logQueue   : List LogRec
  log        : List LogRec
  dbStatus   : Word
  dbSetAt    : Tab Nat
  dbMask     : Word
  temps      : Tab (BitVec 16)
  volts      : Tab (BitVec 16)
  sampled    : Bool
  capacity   : Nat
  copies     : Tab Selector
  bankA      : BankImg
  bankBImg   : BankImg
  cfg        : CfgData
  spdm       : SpdmState
  stage      : Option StageJob
  heartbeats : Nat
  deriving DecidableEq, Repr

/-! ### Power manager -/

/-- Power states (Table 17.3). -/
inductive PowerMode where
  | run | idle | sleep | deep | off
  deriving DecidableEq, Repr

/-- AVS_SET_r and AVS_TEL_r of one rail select (R577, R586). `settle` is the CCLK tick of an acknowledged voltage write whose
voltage has not been read within 5 mV of it (R578). -/
structure Rail where
  present    : Bool
  fault      : Bool
  adjustable : Bool
  setpoint   : BitVec 12
  current    : BitVec 16
  voltage    : BitVec 16
  settle     : Option Nat
  deriving DecidableEq, Repr

/-- What an AVSBus request asks (R577). -/
inductive AvsAsk where
  | write (mv : Nat)
  | readVoltage
  | readCurrent
  deriving DecidableEq, Repr

/-- The outstanding AVSBus request (R578): rail, what it asks, the CCLK tick of its latest sending, retries so far. -/
structure AvsRequest where
  rail  : Nat
  ask   : AvsAsk
  sent  : Nat
  tries : Nat
  deriving DecidableEq, Repr

/-- The power manager (R566 to R586). `entry` is the armed target; `waking` the domains that wake, `wakers` the
PWR_UNGATE commands that wait for them with their masks; `samples` the last 100 values of P, newest first; `stopped` the
Spires that the power manager stopped, `owed` those whose STOP waits for the end of a window or reclaim, `owedDome` those for which the Dome's does; `clearSince` the
CCLK tick since which, as far as the power manager has seen, every condition has been absent; `queue` the AVSBus voltage requests that wait, `probed` the rail selects addressed in BOOT, `nextRead` the next
telemetry read, `loopAt` the CCLK tick of the last loop tick, `sampleAt` the number of the last throttle sample's 100 µs;
`deepTarget` is an entry to Deep sleep or Off in progress, with the command that waits for it, if one does; `restart` says that
the Tower plans wait for the next period start (R573); `writes` are register writes that wait for a domain that wakes (R35),
each with its MID, BAR0 offset and value. -/
structure PwrState where
  mode     : PowerMode
  entry    : Option PowerMode
  estop    : Bool
  causes   : BitVec 5
  lastStatus : Byte
  level    : Nat
  wakeEnable : BitVec 4
  wakePolarity : BitVec 4
  woke     : BitVec 4
  domains  : BitVec 30
  waking   : BitVec 30
  wakers   : List (Issuer × Nat)
  cap      : BitVec 12
  samples  : List Nat
  estops   : Word
  holds    : Word
  rails    : Tab Rail
  request  : Option AvsRequest
  queue    : List (Nat × Nat)
  probed   : Nat
  nextRead : Nat
  loopAt   : Nat
  sampleAt : Nat
  stopped  : List Nat
  owed     : List Nat
  owedDome : List Nat
  clearSince : Option Nat
  deepTarget : Option (PowerMode × Option Issuer)
  restart  : Bool
  retain   : Mem
  writes   : List (Nat × Nat × Word)
  deriving DecidableEq, Repr

/-! ### Pins -/

/-- The package's signal levels (R589, R597 to R602), true for high; `trips` is THERMTRIP_N driven low; `failAt` the CCLK tick
at which POWER_FAIL_N last fell; `resetHeld` says that a reset of RESET_N waits for the flash's journal (Table 18.5). -/
structure PinState where
  resetN     : Bool
  powerFailN : Bool
  vrAlertN   : Bool
  trips      : Bool
  wake       : BitVec 4
  ppsIn      : Bool
  ppsOut     : Bool
  tout       : BitVec 4
  failAt     : Option Nat
  resetHeld : Bool
  deriving DecidableEq, Repr

/-! ### Reset values -/

/-- A Spire's health at chip reset: score 1,000 (R520). -/
def SpireHealth.reset : SpireHealth := ⟨false, false, false, 0, 1000, 0⟩

def PathMon.reset : PathMon := ⟨false, 0, 0, false, none, none⟩

def OptPower.reset : OptPower := ⟨false, false, 0, none⟩

def RelCounters.reset : RelCounters := ⟨0, 0, 0, 0, 0, 0, 0, 0, 0, 0, 0, 0, 0, 0⟩

def ErrRec.blank : ErrRec := ⟨0, 0, 0, 0, 0, 0, 0, 0, 0, 0⟩

def Liveness.reset : Liveness := ⟨false, true, 0, 0, 1000⟩

/-- The governor at reset (R535): RATE 64, BURST 2, D_BASE 500, STEP 50, D 500, two tokens, LOWER_AFTER 60. -/
def Governor.reset : Governor where
  rate := 0x40
  burst := 2
  dBase := 500
  step := 50
  d := 500
  tokens := 512
  carry := 0
  lastTick := 0
  lower := 0x3C
  fullSince := some 0
  recs := 0
  candidates := []
  suspects := []

/-- The reliability block at reset (R535, R28). -/
def RelState.reset : RelState where
  inService := 0xFFFFFFFF
  towerOut := 0
  fatal := false
  testActive := false
  packLoaded := false
  segments := 0
  lastStatus := 0
  testEnable := true
  testStart := 0xCE550
  testLen := 0x12C0
  shadowEnable := true
  shadowK := 0x14
  fenceAt := 0x190
  health := Tab.empty
  chipHealth := 0x3E8
  counters := RelCounters.reset
  gov := Governor.reset
  live := Tab.empty
  pm := Tab.empty
  pmAlarmAt := 0xF
  opt := Tab.empty
  optAlarmAt := 0xFF88
  ring := Tab.empty
  dump := none
  dumpOffset := 0
  disputes := []
  confirmQueue := []
  visit := none
  rotation := 0
  segment := none
  recomputes := []
  releases := Tab.empty
  shadow := Tab.empty
  records := Tab.empty
  corrections := 0
  fenceAfter := []
  quarAfter := []
  passedOver := []
  notices := []

def Selector.none_ : Selector := ⟨false, 0, false, 0⟩

def LaneCfg.off : LaneCfg := ⟨false, 0, 0, 0, 0⟩

/-- No CONFIG applied: CHIP_ID 0xFFFF (R30), channel 0 from MID 1 to MID 0 and channel 1 back (Table 16.4). -/
def CfgData.none_ : CfgData where
  chipId := 0xFFFF
  domain := 0
  lanes := Tab.empty
  hbm := []
  trims := []
  wearSpread := 0
  readLimit := 0
  rated := 0
  mbBind := none
  mgmtNet := false
  tempHigh := 0
  voltLow := 0
  voltHigh := 0

/-- An image of no bytes. -/
def Image.none_ : Image := ⟨0, 0, 0, 0, 0, [], [], 0, []⟩

/-- A bank whose header is erased and that holds no image but the IDENTITY of manufacture (log entry 8). -/
def BankImg.blank : BankImg :=
  ⟨0xFFFFFFFF, 0xFFFF, 0xFFFFFFFF, 0xFFFFFFFF, 0xFFFFFFFF, [⟨5, 0, 0, Image.none_⟩], [], 0, CfgData.none_, true⟩

def SpdmState.reset : SpdmState := ⟨false, false, false, []⟩

/-- The Dome at reset (R564). -/
def DomeState.reset : DomeState where
  chipId := 0xFFFF
  bankB := false
  trial := false
  fallback := false
  debug := false
  debugLevel := 0
  identityOk := false
  recovery := false
  bootError := 0
  fwVersion := 0
  cfgVersion := 0
  packVersion := 0
  bootUs := 0
  running := false
  wdogTimeout := 0x7D0
  wdogAt := none
  nonce := 0
  pending := none
  tokensRefused := 0
  logSeq := 0
  logLost := 0
  logQueue := []
  log := []
  dbStatus := 0
  dbSetAt := Tab.empty
  dbMask := 0xFFFFFFFF
  temps := Tab.empty
  volts := Tab.empty
  sampled := false
  capacity := 2 ^ 26
  copies := Tab.empty
  bankA := BankImg.blank
  bankBImg := BankImg.blank
  cfg := CfgData.none_
  spdm := SpdmState.reset
  stage := none
  heartbeats := 0

def Rail.reset : Rail := ⟨false, false, false, 0, 0, 0, none⟩

/-- The power manager at reset (R586): every domain on, CAP 2,400 W. -/
def PwrState.reset : PwrState where
  mode := .run
  entry := none
  estop := false
  causes := 0
  lastStatus := 0
  level := 0
  wakeEnable := 0
  wakePolarity := 0
  woke := 0
  domains := 0x3FFFFFFF
  waking := 0
  wakers := []
  cap := 2400
  samples := []
  estops := 0
  holds := 0
  rails := Tab.empty
  request := none
  queue := []
  probed := 0
  nextRead := 0
  loopAt := 0
  sampleAt := 0
  stopped := []
  owed := []
  owedDome := []
  clearSince := none
  deepTarget := none
  restart := false
  retain := Mem.empty
  writes := []

/-- Pins at power-on: the active-low inputs high, every other level low (log entry 9). -/
def PinState.reset : PinState where
  resetN := true
  powerFailN := true
  vrAlertN := true
  trips := false
  wake := 0
  ppsIn := false
  ppsOut := false
  tout := 0
  failAt := none
  resetHeld := false

end Sys2Proof.Machine
end

