-- ==== Sys2Proof/Machine/StateFabric.lean ====
section
/-! DEFINITION. State of the Hjelbex lanes and the Pavane store (10), of the traffic manager (11) and of the remote-memory
engine and gateway (12). -/

namespace Sys2Proof.Machine

/-- A Hjelbex cell (R349, Table 10.3).  -/
structure Cell where
  type    : Nat
  figure  : Nat
  hops    : Nat
  dst     : Nat
  src     : Nat
  pavane  : Word
  period  : Word
  flow    : Nat
  step    : Nat
  seq     : Word
  info    : BitVec 128
  poison  : BitVec 86
  payload : List Byte
  deriving DecidableEq, Repr

/-- A cell held for forwarding (R366): where it arrived, the hall times in units of 2^-32 ns at which its marker arrived and
at which it is ready, and whether it belongs to the previous step set (R371). -/
structure HeldCell where
  cell    : Cell
  lane    : Nat
  step    : Nat
  arrived : Nat
  readyAt : Nat
  oldSet  : Bool
  deriving DecidableEq, Repr

/-- Lane states (Table 10.6). -/
inductive LaneState where
  | disabled | training | aligning | verifying | up | suspect | down | failed
  deriving DecidableEq, Repr

/-- Registers of one lane (R379). -/
structure LaneRegs where
  state      : LaneState
  cause      : BitVec 4
  delayValid : Bool
  partnerLane : BitVec 6
  partnerChip : BitVec 16
  status     : Byte
  enable     : Bool
  rxOffset   : BitVec 16
  hbMisses   : Byte
  hbGood     : Byte
  hbMissed   : BitVec 16
  fecCorr    : Word
  fecUncorr  : Word
  discardCrc : Word
  discardUnexpected : Word
  discardStale : Word
  txDrops    : Word
  transitEmpty : Word
  retrains   : Word
  eq         : Word
  deriving DecidableEq, Repr

/-- One lane: its registers; the tick at which its state was entered; consecutive invalid markers (R356); IDENT cells of
the row (R355); Steps since UP; Steps over the delay bound (R357); the last Step and period received (R348); the
heartbeat number. Counted as period number × 8,000 + Step: `txNext`, the first Step whose frame has not been sent;
`hbNext`, the first Step whose heartbeat entry has not been judged; `hbGot`, the Steps of the heartbeats accepted in the
last two periods. `delayReq` is a Delay_Req that waits for its answer: hall time of its arrival, port identity, sequence
number, correctionField. `timeSent` is one more than the number of the period in which the lane last sent its Sync or Delay_Req. -/
structure Lane where
  regs      : LaneRegs
  since     : Nat
  badMarkers : Nat
  idents    : Nat
  upSteps   : Nat
  overBound : Nat
  lastStep  : Nat
  lastPeriod : Nat
  hbSeq     : Word
  txNext    : Nat
  hbNext    : Nat
  hbGot     : List Nat
  delayReq  : Option (Nat × Nat × Nat × Nat)
  timeSent  : Nat
  deriving DecidableEq, Repr

/-- A stored Pavane image (R358, R359): its sections as lists of records, each record one little-endian number. Tables
are indexed by step set, Figure, Tower or controller as Table 10.9 gives. -/
structure Pavane where
  id      : Word
  bytes   : Nat
  figures : List Nat
  laneMap : List Nat
  steps   : Tab (List Nat)
  flows   : Tab (List Nat)
  near    : Tab (List Nat)
  sync    : Tab (List Nat)
  xbar    : Tab (List Nat)
  hbm     : Tab (List Nat)
  belfry  : List Nat
  store   : List Nat
  windows : Tab (List Nat)
  engines : Tab (List Nat)
  radio   : Tab (List Nat)
  deriving DecidableEq, Repr

/-- An activation or a switch that waits for its AT (R364, R369), in units of 2^-32 ns. -/
structure Deferred where
  slotB  : Bool
  figure : Nat
  at_    : Nat
  issuer : Issuer
  deriving DecidableEq, Repr

/-- A PAVANE_LOAD in progress: the image already checked, its slot and issuer. -/
structure PavLoad where
  slotB  : Bool
  image  : Pavane
  issuer : Issuer
  deriving DecidableEq, Repr

/-- The fabric (R358 to R379). `active` is the governing slot (false = A, true = B); `drain` is the step set before the
last hall switch and the period number of its drain period (R371). -/
structure FabState where
  lanes      : Tab Lane
  slotA      : Option Pavane
  slotB      : Option Pavane
  active     : Option Bool
  figure     : Nat
  figPrev    : Option Nat
  figAt      : HallTime
  lastStatus : Byte
  load       : List PavLoad
  activation : Option Deferred
  switch     : Option Deferred
  drain      : Option (Nat × Nat)
  oldDrops   : Word
  held       : List HeldCell
  flowSeq    : Tab Word
  deriving DecidableEq, Repr

def LaneRegs.reset : LaneRegs where
  state := .disabled
  cause := 0
  delayValid := false
  partnerLane := 0
  partnerChip := 0
  status := 0
  enable := false
  rxOffset := 0
  hbMisses := 0
  hbGood := 0
  hbMissed := 0
  fecCorr := 0
  fecUncorr := 0
  discardCrc := 0
  discardUnexpected := 0
  discardStale := 0
  txDrops := 0
  transitEmpty := 0
  retrains := 0
  eq := 0

def Lane.reset : Lane where
  regs := LaneRegs.reset
  since := 0
  badMarkers := 0
  idents := 0
  upSteps := 0
  overBound := 0
  lastStep := 0
  lastPeriod := 0
  hbSeq := 0
  txNext := 0
  hbNext := 0
  hbGot := []
  delayReq := none
  timeSent := 0

def FabState.reset : FabState where
  lanes := Tab.empty
  slotA := none
  slotB := none
  active := none
  figure := 0
  figPrev := none
  figAt := HallTime.zero
  lastStatus := 0
  load := []
  activation := none
  switch := none
  drain := none
  oldDrops := 0
  held := []
  flowSeq := Tab.empty

end Sys2Proof.Machine
end

