-- ==== Sys2Proof/Machine/StateRadio.lean ====
section
/-! DEFINITION. State of the radio partition (09): timing groups, cells, streams, engines, radio buffers. -/

namespace Sys2Proof.Machine

/-- A timing group and its RG_n registers (R308 to R314, R340). `upTo` is the first slot that has neither fired nor been counted as
lost (R311). -/
structure RadioGroup where
  defined   : Bool
  mu        : BitVec 2
  offsetNs  : BitVec 20
  dlAdvMax  : BitVec 16
  dlAdvMin  : BitVec 16
  cpLead    : BitVec 16
  ulLatest  : BitVec 16
  reqLead   : BitVec 16
  resultLag : BitVec 16
  sfn       : BitVec 10
  slot      : Byte
  asn       : Word
  lost      : Word
  upTo      : Nat
  deriving DecidableEq, Repr

/-- Cell states (Table 9.9). -/
inductive CellState where
  | empty | configured | starting | active | stopping | failed
  deriving DecidableEq, Repr

/-- One receive stream's digital gain (R319 to R321): the index last decided; the indices decided with the symbol number
(slot × 14 + symbol) from which each applies, newest first; the symbol in which a freeze was reported with the last symbol of
its occasion; and, for each symbol received, the sum of I² + Q² and the number of samples. -/
structure StreamGain where
  g       : BitVec 6
  hist    : List (Nat × Nat)
  frozen  : Option (Nat × Nat)
  sums    : List (Nat × Nat × Nat)
  deriving DecidableEq, Repr

/-- One cell (R333 to R340). `block` is the stored 32-byte configuration; `seqTx` is the next SEQ_ID of each PC_ID, `seqRx`
one more than the last one received (R305); `txPrb` holds for each downlink stream the symbol last sent, its next PRB and whether
its last message is out (R303); `soft` lists the soft buffers written since the cell started (R325), by byte of tile space; `emptySlots` lists the absolute slot numbers
read as empty (R316); `lostSlots` those lost (R338) whose uplink record is due; `prbs` lists received PRBs, coded by the
caller from slot, stream, symbol and PRB (R306); `losing` that a fault makes it lose its slots until a covering Figure.
Slots are counted from the group's epoch: `nextRead` is the next whose downlink record is read, `nextUl` the next whose
uplink record is written, `endSlot` the first that is not served. -/
structure RadioCell where
  state      : CellState
  group      : BitVec 4
  lastStatus : Byte
  failCause  : BitVec 3
  pci        : BitVec 10
  target     : Byte
  slotsLost  : Word
  reqMissing : Word
  ulLate     : Word
  freezes    : BitVec 12
  saturations : BitVec 12
  block      : BitVec 256
  startAt    : Nat
  stopAt     : Option Nat
  streams    : Tab StreamGain
  seqTx      : Tab Byte
  seqRx      : Tab Nat
  txPrb      : Tab (Nat × Nat × Bool)
  soft       : List Nat
  emptySlots : List Nat
  lostSlots  : List Nat
  prbs       : List Nat
  losing     : Bool
  nextRead   : Nat
  nextUl     : Nat
  endSlot    : Option Nat
  deriving DecidableEq, Repr

/-- Engine kinds (Table 9.7). -/
inductive Engine where
  | fft | ldpcDec | ldpcEnc | polar | rateMatch | demapper | correlator
  deriving DecidableEq, Repr

/-- What a valid descriptor asks of an engine, as far as its occupancy depends on it (Table 9.7): the transform size and
whether it is a prime-factor DFT; ITER, ROWS and Zc; K; N and encode mode; E; RE; a correlator's fixed occasion. -/
inductive EngineWork where
  | fft (n : Nat) (primeFactor : Bool)
  | ldpcDec (iter rows zc : Nat)
  | ldpcEnc (k : Nat)
  | polar (n : Nat) (encode : Bool)
  | rateMatch (e : Nat)
  | demap (re : Nat)
  | correlate
  deriving DecidableEq, Repr

/-- An entry of the engine plan that has started: its kind, unit and number, its work (none if it stays idle), the BCLK at
which it ends. -/
structure EngineRun where
  engine : Engine
  unit   : Nat
  entry  : Nat
  work   : Option EngineWork
  until_ : Nat
  deriving DecidableEq, Repr

/-- The correlation peak of one PRACH preamble (R328): its index, its power, its timing advance and its frequency offset. -/
structure PrachPeak where
  index   : Nat
  power   : Nat
  advance : Nat
  offset  : Int
  deriving DecidableEq, Repr

/-- What a descriptor's fields give an engine, and where the result goes in the radio buffers; no rule lays descriptors
out. The input of an FFT is CQ15, or mantissas with the exponent of each block of 12 in `exps`; `fmt` is the OUT_FMT of R168 and R169, and
the block exponents go to `side`. `bytes` is the result of an engine whose algorithm the spec leaves to the standards; of an LDPC decoder that is the
syndrome after each iteration (true: zero), the output bits and the CRC verdict; of a correlator the peaks with the noise
estimate, the sequence found with its metric, and the channel estimates of one port's comb. `last` is the last symbol of the
occasion. -/
inductive EngineData where
  | fft (input : List (Int × Int)) (exps : List Nat) (inverse : Bool) (shift fmt out side : Nat)
  | demap (bits first out : Nat) (symbols : List (Int × Int)) (scales : List Nat)
  | ldpc (syndromes : List Bool) (out : Nat) (data : List (BitVec 8)) (crc : Bool)
  | soft (cell tile off : Nat) (fresh : Bool) (llrs : List Int)
  | bytes (out : Nat) (data : List (BitVec 8))
  | prach (cell stream last thresh noise : Nat) (peaks : List PrachPeak)
  | pucch (sequence metric : Nat)
  | srs (cell stream last out : Nat) (estimates : List (Int × Int))
  deriving DecidableEq, Repr

/-- What an engine reports to the radio programs (R324, R325, R328): the first iteration with a zero syndrome and the CRC verdict;
NO_PRIOR of a soft buffer; the preambles detected; the PUCCH sequence with its metric; an SRS burst's estimates, how many. -/
inductive EngineReport where
  | ldpc (first : Option Nat) (crc : Bool)
  | noPrior (cell tile off : Nat)
  | prach (cell stream : Nat) (detected : List PrachPeak)
  | pucch (sequence metric : Nat)
  | srs (cell stream estimates : Nat)
  deriving DecidableEq, Repr

/-- PRBs of one symbol of a receive stream that the radio work expects (R306). -/
structure UlRange where
  stream : Nat
  symbol : Nat
  first  : Nat
  count  : Nat
  deriving DecidableEq, Repr

/-- Which part of the radio partition is at fault. -/
inductive RadioPart where
  | spire (k : Nat)
  | engine
  | lane (n : Nat)
  deriving DecidableEq, Repr

/-- A fault in the radio partition (Table 9.12). -/
inductive RadioEvent where
  | spire (k : Nat)
  | engineOut (e : Engine) (unit : Nat)
  | laneOut (n : Nat)
  | windowWork (k : Nat)
  | sample (cell : Nat)
  | data (cell : Nat)
  deriving DecidableEq, Repr

/-- The radio block (R296, R323, R340). `buf` is the 96 MiB of radio buffers; `reports` the latest report of each entry of the engine
plan; `parts` the parts at fault for which the Dome arms a local switch once an armed switch and its drain period are over (R378). `corr` holds the in-service bits of the correlators, `misc` those of encoders,
polar decoders, rate-matching engines and demappers. -/
structure RadioState where
  dlOn       : Bool
  ulOn       : Bool
  fftIn      : BitVec 16
  ldpcIn     : BitVec 24
  miscIn     : BitVec 28
  corrIn     : Byte
  idleEntries : Word
  fftSat     : Word
  ulLate     : Word
  ulEarly    : Word
  discard    : Word
  dup        : Word
  seqGap     : Word
  groups     : Tab RadioGroup
  cells      : Tab RadioCell
  runs       : List EngineRun
  buf        : Mem
  reports    : Tab (Option EngineReport)
  parts      : List RadioPart
  deriving DecidableEq, Repr

def RadioGroup.reset : RadioGroup := ⟨false, 0, 0, 0, 0, 0, 0, 0, 0, 0, 0, 0, 0, 0⟩

/-- Gain index 8, 0 dB (R319). -/
def StreamGain.reset : StreamGain := ⟨8, [], none, []⟩

def RadioCell.reset : RadioCell where
  state := .empty
  group := 0
  lastStatus := 0
  failCause := 0
  pci := 0
  target := 0
  slotsLost := 0
  reqMissing := 0
  ulLate := 0
  freezes := 0
  saturations := 0
  block := 0
  startAt := 0
  stopAt := none
  streams := Tab.empty
  seqTx := Tab.empty
  seqRx := Tab.empty
  txPrb := Tab.empty
  soft := []
  emptySlots := []
  lostSlots := []
  prbs := []
  losing := false
  nextRead := 0
  nextUl := 0
  endSlot := none

/-- The radio block at reset (R340): every engine in service, both domains off as RADIO_STATUS resets. -/
def RadioState.reset : RadioState where
  dlOn := false
  ulOn := false
  fftIn := 0xFFFF
  ldpcIn := 0xFFFFFF
  miscIn := 0xFFFFFFF
  corrIn := 0xFF
  idleEntries := 0
  fftSat := 0
  ulLate := 0
  ulEarly := 0
  discard := 0
  dup := 0
  seqGap := 0
  groups := Tab.empty
  cells := Tab.empty
  runs := []
  buf := Mem.empty
  reports := Tab.empty
  parts := []

end Sys2Proof.Machine
end

