-- ==== Sys2Proof/Machine/StateInput.lean ====
section
/-! DEFINITION. What commands carry from outside the model: arguments of queue commands, received frames, results of
signature checks, and the hardware upsets that the device's checkers are there to detect. -/

namespace Sys2Proof.Machine

/-- A hardware upset in the array during one vector (R136): none; a wrong accumulator; a wrong checksum side; or an
element broadcast with wrong bits to the columns of a pass, which the checksum column sees alike (R138). -/
inductive ArrayUpset where
  | none
  | acc (index : Nat) (delta : Int)
  | check (imag : Bool) (delta : Int)
  | broadcast (k : Nat) (flip : Nat)
  deriving DecidableEq, Repr

/-- What befalls a recompute on its referee (R512, R516): upsets of its array, by vector; an upset of its checksum-row step; words
of the original's store whose read was lost. -/
structure RecomputeResult where
  upsets : List (Nat × ArrayUpset)
  row    : ArrayUpset
  lost   : List Nat
  deriving DecidableEq, Repr

/-- Arguments of ALLOC (Table 8.8). `tier` is the code of the tier byte. -/
structure AllocArgs where
  first : Nat
  count : Nat
  lease : Nat
  tier  : Nat
  stack : Nat
  radio : Bool
  deriving DecidableEq, Repr

/-- Arguments of MOVE (Table 8.8). -/
structure MoveArgs where
  first   : Nat
  count   : Nat
  tier    : Nat
  stack   : Nat
  keep    : Bool
  discard : Bool
  deriving DecidableEq, Repr

/-- A run of tiles of a BOUNDARY list (Table 14.3); joins name a stack. -/
structure TileRange where
  first : Nat
  count : Nat
  stack : Nat
  deriving DecidableEq, Repr

/-- A received Step frame (R343, R348): the 16 bytes of its marker as one little-endian number; the sixteenth of this BCLK in which it
arrives; the codewords of the inner FEC with symbols in error, each with their number (R345); the data bytes of its cell (64 + LENGTH), or
none for idle fill. -/
structure FrameIn where
  marker  : Nat
  phase   : Fin 16
  errors  : List (Nat × Nat)
  bytes   : List Byte
  deriving DecidableEq, Repr

/-- Arguments of BE_SEND (Table 14.3) with the payload read from host memory. -/
structure BeArgs where
  dstChip  : Nat
  dstLease : Nat
  queue    : Nat
  colour   : Nat
  len      : Nat
  user     : Word
  payload  : List Byte
  deriving DecidableEq, Repr

/-- A host CXL.mem access (R468, R469). -/
inductive CxlReq where
  | read (tag addr len : Nat)
  | write (tag addr : Nat) (data : List Byte) (poison : Bool)
  deriving DecidableEq, Repr

/-- What boot reads at FIRMWARE_START besides the banks: whether the memory answers, its size, whether the PUF key
unwraps the identity key, and the fresh DEBUG_NONCE. -/
structure BootRead where
  memory : Bool
  capacity : Nat
  unwraps : Bool
  nonce  : DWord
  deriving DecidableEq, Repr

/-- What a VENDOR_DEFINED_REQUEST carries (R553): a key management message of an IDE stream, which makes the stream
secure, or a TDISP message, which is a command of its own. -/
inductive VendorMsg where
  | ideKeyProgram (stream : Nat)
  | ideStop (stream : Nat)
  | tdisp
  | other
  deriving DecidableEq, Repr

/-- A DEBUG_TOKEN (R558): the signed image, and the nonce, the SHA-512 of the device key and the LEVEL that its body holds. -/
structure DebugToken where
  image  : Image
  nonce  : DWord
  digest : Nat
  level  : Nat
  deriving DecidableEq, Repr

/-- A radio program's image that the Dome loads (R231, Table 7.8): its segments (store address and bytes), its start and
handler bundle indices, and the threads that start with their start addresses. -/
structure RadioImage where
  segments : List (Nat × List Byte)
  start    : Nat
  ivec     : Nat
  threads  : Nat
  starts   : List Nat
  deriving DecidableEq, Repr

/-- No image: nothing is written into the store, and the program starts at bundle 0. -/
def RadioImage.none : RadioImage := ⟨[], 0, 0, 0, []⟩

/-- One U-plane message that the radio work hands over (R303, R304): the stream, the absolute slot number, the symbol, its first PRB,
and its PRBs as rows of the radio class, each with the exponent of its side record and 24 mantissas. -/
structure UPlane where
  stream : Nat
  slot   : Nat
  symbol : Nat
  first  : Nat
  prbs   : List (Nat × List Int)
  deriving DecidableEq, Repr

/-- One C-plane message (R301, R307): the stream, the slot, whether it is for the uplink, its section type, its start symbol, how many
sections, and the bytes of the sections. -/
structure CPlane where
  stream   : Nat
  slot     : Nat
  uplink   : Bool
  sectionType : Nat
  symbol   : Nat
  sections : Nat
  body     : List Byte
  deriving DecidableEq, Repr

/-- What is handed over for a transmit Step: nothing, the bytes of a management cell, a fronthaul message. -/
inductive StepPayload where
  | none
  | bytes (l : List Byte)
  | uPlane (m : UPlane)
  | cPlane (m : CPlane)
  deriving DecidableEq, Repr

/-- An edge of 1PPS_IN: its direction, and where in the BCLK it falls, in 1/16 BCLK (R82). -/
structure PpsEdge where
  rising : Bool
  phase  : Fin 16
  deriving DecidableEq, Repr

/-- What the sequencers make of a fetched bundle: whether the two issue words differ (R217), and how many symbols of the word were in
error (R250). -/
structure BundleFetch where
  differ : Bool
  errs   : Nat
  deriving DecidableEq, Repr

/-- What befell a vector result: the lane or the index of its failing residue check, if one fails (R197), and the words that a load
read with symbols in error, with how many (R250). -/
structure VectorUpset where
  mismatch : Option Nat
  errs     : List (Nat × Nat)
  deriving DecidableEq, Repr

/-- The beat of a stream, with the words of it that have symbols in error and how many (R250). -/
structure StreamBeat where
  stream : Fin 4
  errs   : List (Nat × Nat)
  deriving DecidableEq, Repr

/-- An open slot of a controller, with the words of its beat that have symbols in error and how many (R250). -/
structure SlotBeat where
  stack : Fin 24
  errs  : List (Nat × Nat)
  deriving DecidableEq, Repr

/-- A flash page of a tile's stripe, and whether its LDPC code could correct it (R288). -/
structure PageRead where
  page : Fin 16
  ok   : Bool
  deriving DecidableEq, Repr

/-- The end of a tile's flash write: acknowledged, or the channel whose program failed (R289, R290). -/
structure WriteAck where
  tile   : Nat
  failed : Option (Fin 16)
  deriving DecidableEq, Repr

/-- A flash block, and whether its erase succeeds (R289). -/
structure BlockErase where
  block : Nat
  ok    : Bool
  deriving DecidableEq, Repr

/-- The end of a STAGE: whether the configuration memory programs, and the images that the tiles supplied (R556). -/
structure StageEnd where
  programs : Bool
  supplied : BankImg
  deriving DecidableEq, Repr

/-- JTAG instructions by the class that R557 gives them. -/
inductive JtagOp where
  | idcode | bypass | samplePreload | extest | ieee1149_6
  | domeDebug | scan | spireDebug
  deriving DecidableEq, Repr

end Sys2Proof.Machine
end

