-- ==== Sys2Proof/Syntax.lean ====
section
/-! DEFINITION. Syntax: the commands of the block, one constructor for each row of the opcode table, with its operands.
A `Fin` operand numbers a unit that the package has; a `mid` is the master that a register access comes from (R12); an
`issuer` says who sent a queue command. -/

namespace Sys2Proof

open Sys2Proof.Machine

/-- A command. -/
inductive Instr where
  /-- REGISTER_WRITE (R5). -/
  | registerWrite (mid page off size : Nat) (v : Word)
  /-- RESET_RELEASE (R41). -/
  | resetRelease
  /-- PLL_LOCK (R41). -/
  | pllLock
  /-- MINUET_PHASE_2_COMPLETE (R43). -/
  | minuetPhase2Complete (ok : Bool)
  /-- MINUET_PHASE_3_COMPLETE (R45). -/
  | minuetPhase3Complete (l0 l1 l2 l3 : Option (Nat × Nat))
  /-- ROOT_PLL_LOSS (R40). -/
  | rootPllLoss
  /-- UCIE_TRAINING_LOSS (R47). -/
  | ucieTrainingLoss (t : Fin 4)
  /-- TIME_INCR_LO_WRITE (R54). -/
  | timeIncrLoWrite (mid : Nat) (v : Word)
  /-- TIME_INCR_HI_WRITE (R52). -/
  | timeIncrHiWrite (mid : Nat) (v : Word)
  /-- TIME_SET_GO (R72). -/
  | timeSetGo (mid : Nat) (mode : Bool)
  /-- PPS_IN_EDGE (R82). -/
  | ppsInEdge (edge : PpsEdge)
  /-- CAP_STROBE_WRITE (R83). -/
  | capStrobeWrite (mid : Nat) (c : Fin 8)
  /-- TIME_LATCH (R60). -/
  | timeLatch (mid : Nat)
  /-- SET_READY (R56). -/
  | setReady
  /-- SYNC_HOLDOVER (R67). -/
  | syncHoldover
  /-- TIME_LOCKED (R68). -/
  | timeLocked
  /-- PPS_OUT_SECOND (R73). -/
  | ppsOutSecond
  /-- PPS_OUT_PULSE_END (R73). -/
  | ppsOutPulseEnd
  /-- TRIG_CTRL_WRITE (R77). -/
  | trigCtrlWrite (mid : Nat) (n : Fin 32) (v : Word)
  /-- TRIGGER_FIRE (R74). -/
  | triggerFire
  /-- CLK_MODE_WRITE (R96). -/
  | clkModeWrite (mid : Nat) (v : Word)
  /-- DROOP_DETECTION (R98). -/
  | droopDetection
  /-- NDC_CLEAR (R101). -/
  | ndcClear (mid : Nat)
  /-- CNT_FREEZE_WRITE (R110). -/
  | cntFreezeWrite (mid : Nat) (v : Word)
  /-- EVSEL_WRITE (R108). -/
  | evselWrite (mid : Nat) (spire : Option Nat) (n : Fin 16) (v : Word)
  /-- BUNDLE_ISSUE (R215). -/
  | bundleIssue (k : Fin 32) (fetch : BundleFetch)
  /-- NOP (R212). -/
  | nop (k : Fin 32)
  /-- BR (R212). -/
  | br (k : Fin 32) (target : Nat)
  /-- BRF (R212). -/
  | brf (k : Fin 32) (flag : Fin 16) (sense : Bool) (target : Nat)
  /-- VREP (R184). -/
  | vrep (k : Fin 32) (level len count : Nat)
  /-- ISSUE (R219). -/
  | issue (k : Fin 32) (desc : Nat)
  /-- WREL (R212). -/
  | wrel (k : Fin 32)
  /-- WFLAG (R212). -/
  | wflag (k : Fin 32) (flag : Fin 16) (sense : Bool)
  /-- WPLAN (R212). -/
  | wplan (k : Fin 32) (pcclk : Nat)
  /-- FLAGS (R212). -/
  | flags (k : Fin 32) (set clear : Nat)
  /-- RET (R216). -/
  | ret (k : Fin 32)
  /-- END (R212). -/
  | ctlEnd (k : Fin 32) (code : Nat)
  /-- WEND (R212). -/
  | wend (k : Fin 32)
  /-- HOLD_RELEASE (R212). -/
  | holdRelease (k : Fin 32)
  /-- VECTOR_RESULT (R175). -/
  | vectorResult (k : Fin 32) (upset : VectorUpset)
  /-- DRAIN_COMPLETE (R199). -/
  | drainComplete (k : Fin 32)
  /-- BANK_SWITCH_COMPLETE (R201). -/
  | bankSwitchComplete (k : Fin 32)
  /-- WINDOW_START (R440). -/
  | windowStart (k : Fin 32)
  /-- WINDOW_OVERRUN (R440). -/
  | windowOverrun (k : Fin 32)
  /-- WINDOW_END (R440). -/
  | windowEnd (k : Fin 32)
  /-- TILE_LOAD_START (R128). -/
  | tileLoadStart (k : Fin 32)
  /-- PASS_START (R131). -/
  | passStart (k : Fin 32)
  /-- PASS_SWAP (R131). -/
  | passSwap (k : Fin 32)
  /-- PER_VECTOR_CHECK (R136). -/
  | perVectorCheck (k : Fin 32) (upset : ArrayUpset)
  /-- CHECKSUM_ROW_STEP (R138). -/
  | checksumRowStep (k : Fin 32) (upset : ArrayUpset)
  /-- PASS_RELEASE (R131). -/
  | passRelease (k : Fin 32)
  /-- RLD (R403). -/
  | rld (k : Fin 32) (t : Fin 8) (f : Nat) (rd rs1 : Fin 32)
  /-- RST (R403). -/
  | rst (k : Fin 32) (t : Fin 8) (f : Nat) (rd rs1 rs2 : Fin 32)
  /-- RAMO (R403). -/
  | ramo (k : Fin 32) (t : Fin 8) (f : Nat) (rd rs1 rs2 : Fin 32)
  /-- RFENCE (R424). -/
  | rfence (k : Fin 32) (t : Fin 8) (rd : Fin 32)
  /-- SPR_R (R204). -/
  | sprR (k : Fin 32) (t : Fin 8) (rd rs1 : Fin 32)
  /-- SPR_W (R205). -/
  | sprW (k : Fin 32) (t : Fin 8) (rs1 rs2 : Fin 32)
  /-- STATE_PATH_ACCESS_END (R204). -/
  | statePathAccessEnd (k : Fin 32)
  /-- FLAG (R228). -/
  | flag (k : Fin 32) (t : Fin 8) (f : Nat) (rd rs1 rs2 : Fin 32)
  /-- YIELD (R227). -/
  | yield (k : Fin 32) (t : Fin 8)
  /-- CONTROL_CORE_INSTRUCTION (R226). -/
  | controlCoreInstruction (k : Fin 32) (t : Fin 8)
  /-- LOAD (R231). -/
  | spireLoad (k : Fin 32) (img : RadioImage)
  /-- LOAD_COMPLETE (R231). -/
  | loadComplete (k : Fin 32)
  /-- START (R231). -/
  | spireStart (k : Fin 32)
  /-- SPIRE_START_TIME (R231). -/
  | spireStartTime (k : Fin 32)
  /-- STOP (R233). -/
  | spireStop (mid : Nat) (k : Fin 32) (cause : Nat)
  /-- RESUME (R231). -/
  | spireResume (mid : Nat) (k : Fin 32) (cause : Nat)
  /-- ABORT (R231). -/
  | spireAbort (mid : Nat) (k : Fin 32)
  /-- FENCE (R231). -/
  | spireFence (mid : Nat) (k : Fin 32)
  /-- RETURN (R231). -/
  | spireReturn (k : Fin 32)
  /-- WIPE_COMPLETE (R244). -/
  | wipeComplete (k : Fin 32)
  /-- TRANSFER_ACCEPT (R269). -/
  | transferAccept (k : Fin 32)
  /-- HBM_BEAT (R256). -/
  | hbmBeat (k : Fin 32) (beat : StreamBeat)
  /-- TRANSFER_COMPLETE (R272). -/
  | transferComplete (k : Fin 32) (stream : Fin 4)
  /-- OPEN_SLOT (R259). -/
  | openSlot (slot : SlotBeat)
  /-- HBM_REFRESH_POINT (R257). -/
  | hbmRefreshPoint (h : Fin 24)
  /-- BOOT_WIPE_START (R262). -/
  | bootWipeStart (h : Fin 24)
  /-- BOOT_WIPE_COMPLETE (R262). -/
  | bootWipeComplete (h : Fin 24)
  /-- PLACE_WIPE_COMPLETE (R281). -/
  | placeWipeComplete (h : Fin 24)
  /-- TILE_MAP_REBUILD_COMPLETE (R293). -/
  | tileMapRebuildComplete
  /-- ALLOC (R277). -/
  | alloc (issuer : Issuer) (a : AllocArgs)
  /-- FREE (R277). -/
  | free (issuer : Issuer) (first count : Nat)
  /-- MOVE (R283). -/
  | move (issuer : Issuer) (a : MoveArgs)
  /-- MOVE_TILE_COMMIT (R283). -/
  | moveTileCommit
  /-- PIN (R277). -/
  | pin (issuer : Issuer) (first count : Nat)
  /-- UNPIN (R277). -/
  | unpin (issuer : Issuer) (first count : Nat)
  /-- QUERY (R277). -/
  | query (issuer : Issuer) (first count buffer : Nat)
  /-- ASSIGN (R277). -/
  | assign (issuer : Issuer) (first count lease : Nat)
  /-- BOUNDARY (R285). -/
  | boundary (issuer : Issuer) (lease : Nat) (leaves joins : List TileRange)
  /-- FLASH_PAGE_READ (R288). -/
  | flashPageRead (tile : Nat) (read : PageRead)
  /-- FLASH_WRITE_ACK (R290). -/
  | flashWriteAck (ack : WriteAck)
  /-- FLASH_RELOCATION (R289). -/
  | flashRelocation (erase : BlockErase)
  /-- POWER_FAIL (R291). -/
  | powerFail
  /-- POWER_FAIL_RECOVERY (R598). -/
  | powerFailRecovery
  /-- CELL_CONFIG (R336). -/
  | cellConfig (issuer : Issuer) (block : BitVec 256)
  /-- CELL_START (R335). -/
  | cellStart (issuer : Issuer) (cell at_ : Nat)
  /-- CELL_STOP (R335). -/
  | cellStop (issuer : Issuer) (cell at_ : Nat)
  /-- CELL_CLEAR (R334). -/
  | cellClear (issuer : Issuer) (cell : Nat)
  /-- CELL_START_TIME (R337). -/
  | cellStartTime (cell : Fin 384)
  /-- CELL_STOP_TIME (R334). -/
  | cellStopTime (cell : Fin 384)
  /-- DL_RECORD_READ (R316). -/
  | dlRecordRead (cell : Fin 384)
  /-- UL_RECORD_WRITE (R317). -/
  | ulRecordWrite (cell : Fin 384) (expected : List UlRange) (messages : List Byte)
  /-- SYMBOL_POWER_ESTIMATE (R320). -/
  | symbolPowerEstimate (cell : Fin 384) (stream : Nat)
  /-- ENGINE_ENTRY_START (R323). -/
  | engineEntryStart (entry : Nat) (work : Option EngineWork)
  /-- ENGINE_DESCRIPTOR_DONE (R323). -/
  | engineDescriptorDone (entry : Nat) (data : EngineData)
  /-- RADIO_FAULT (R338). -/
  | radioFault (f : RadioEvent)
  /-- STEP_FRAME_TRANSMIT (R344). -/
  | stepFrameTransmit (lane : Fin 64) (payload : StepPayload)
  /-- STEP_FRAME_RECEIVE (R348). -/
  | stepFrameReceive (lane : Fin 64) (frame : FrameIn)
  /-- LANE_CTRL_WRITE (R355). -/
  | laneCtrlWrite (mid : Nat) (lane : Fin 64) (v : Word)
  /-- LANE_RETRAIN (R356). -/
  | laneRetrain (mid : Nat) (lane : Fin 64)
  /-- LANE_TRAINING_DONE (R355). -/
  | laneTrainingDone (lane : Fin 64)
  /-- LANE_ALIGN_DONE (R355). -/
  | laneAlignDone (lane : Fin 64)
  /-- LANE_BRINGUP_TIMEOUT (R355). -/
  | laneBringupTimeout (lane : Fin 64)
  /-- LANE_DOWN_EXPIRY (R356). -/
  | laneDownExpiry (lane : Fin 64)
  /-- HEARTBEAT_MISS (R374). -/
  | heartbeatMiss (lane : Fin 64)
  /-- PAVANE_LOAD (R363). -/
  | pavaneLoad (issuer : Issuer) (slotB : Bool) (first tiles : Nat)
  /-- PAVANE_ACTIVATE (R364). -/
  | pavaneActivate (issuer : Issuer) (slotB : Bool) (figure at_ : Nat)
  /-- FIGURE_SWITCH (R369). -/
  | figureSwitch (issuer : Issuer) (figure at_ : Nat)
  /-- PAVANE_CLEAR (R362). -/
  | pavaneClear (issuer : Issuer) (slotB : Bool)
  /-- DRAIN_PERIOD_END (R371). -/
  | drainPeriodEnd
  /-- BE_SEND (R393). -/
  | beSend (issuer : Issuer) (a : BeArgs)
  /-- BE_DECISION (R389). -/
  | beDecision (lane : Fin 64)
  /-- TOKEN_REFILL (R391). -/
  | tokenRefill
  /-- RMEM_OP (R400). -/
  | rmemOp (issuer : Issuer) (op : Nat) (addr operand swap : DWord)
  /-- RMEM_FENCE (R424). -/
  | rmemFence (issuer : Issuer)
  /-- RMEM_REQUEST_APPLY (R411). -/
  | rmemRequestApply
  /-- RMEM_RETRANSMIT (R417). -/
  | rmemRetransmit (ctx tag : Nat)
  /-- RMEM_TIMEOUT (R418). -/
  | rmemTimeout (ctx tag : Nat)
  /-- RMEM_ACK_SEND (R415). -/
  | rmemAckSend (ctx tag : Nat)
  /-- REPLAY_RECORD_EXPIRY (R414). -/
  | replayRecordExpiry
  /-- STAGING_LINE_TRANSFER (R428). -/
  | stagingLineTransfer (line : Fin 8192)
  /-- STAGING_WAIT_TIMEOUT (R430). -/
  | stagingWaitTimeout
  /-- JOB_SUBMIT (R443). -/
  | jobSubmit (issuer : Issuer) (first tiles user : Nat)
  /-- JOB_CANCEL (R459). -/
  | jobCancel (issuer : Issuer) (job : Nat)
  /-- PLACEMENT (R447). -/
  | placement
  /-- JOB_COMPLETION (R458). -/
  | jobCompletion (job : Nat)
  /-- DSP_RECLAIM_MASK_WRITE (R452). -/
  | dspReclaimMaskWrite (mid : Nat) (v : Word)
  /-- RECLAIM_DONE (R454). -/
  | reclaimDone
  /-- LOG_START (R460). -/
  | logStart (issuer : Issuer) (lease tile iova pages : Nat)
  /-- LOG_FLIP (R462). -/
  | logFlip (issuer : Issuer) (lease : Nat)
  /-- LOG_STOP (R462). -/
  | logStop (issuer : Issuer) (lease : Nat)
  /-- LEASE_RESET (R481). -/
  | leaseReset (lease : Fin 4096) (flr : Bool)
  /-- LEASE_RESET_COMPLETE (R482). -/
  | leaseResetComplete (lease : Fin 4096)
  /-- QP_CTRL_WRITE (R470). -/
  | qpCtrlWrite (mid : Nat) (qp : Fin 8) (v : Word)
  /-- SQ_TAIL_WRITE (R471). -/
  | sqTailWrite (mid : Nat) (qp : Fin 8) (v : Word)
  /-- SUBMISSION_FETCH (R471). -/
  | submissionFetch (func : Fin 4096) (qp : Fin 8) (entry data : List Byte)
  /-- COMPLETION_RECORD_WRITE (R476). -/
  | completionRecordWrite (func : Fin 4096) (qp : Fin 8)
  /-- CQ_HEAD_WRITE (R476). -/
  | cqHeadWrite (mid : Nat) (qp : Fin 8) (v : Word)
  /-- BERX_HEAD_WRITE (R491). -/
  | berxHeadWrite (mid : Nat) (v : Word)
  /-- DB_MASK_WRITE (R487). -/
  | dbMaskWrite (mid : Nat) (v : Word)
  /-- MB_TX_WRITE (R489). -/
  | mbTxWrite (mid : Nat) (c : Fin 64) (v : Word)
  /-- MB_RX_READ (R489). -/
  | mbRxRead (mid : Nat) (c : Fin 64)
  /-- MB_CTRL_WRITE (R490). -/
  | mbCtrlWrite (mid : Nat) (c : Fin 64) (v : Word)
  /-- MB_BIND_WRITE (R488). -/
  | mbBindWrite (mid : Nat) (c : Fin 64) (v : Word)
  /-- MB_LOCK_WRITE (R488). -/
  | mbLockWrite (mid : Nat) (v : Word)
  /-- CXL_MEM_REQUEST (R469). -/
  | cxlMemRequest (req : CxlReq)
  /-- IDENTIFY_MEMORY_DEVICE (R465). -/
  | identifyMemoryDevice
  /-- GET_SUPPORTED_LOGS (R465). -/
  | getSupportedLogs
  /-- GET_LOG (R465). -/
  | getLog
  /-- GET_EVENT_RECORDS (R465). -/
  | getEventRecords (max : Nat)
  /-- CLEAR_EVENT_RECORDS (R465). -/
  | clearEventRecords (handles : List Nat)
  /-- GET_POISON_LIST (R465). -/
  | getPoisonList (addr len : Nat)
  /-- CXL_MAILBOX_UNSUPPORTED (R465). -/
  | cxlMailboxUnsupported (opcode : Nat)
  /-- TDISP_GET_VERSION (R483). -/
  | tdispGetVersion (lease : Fin 4096)
  /-- TDISP_GET_CAPABILITIES (R483). -/
  | tdispGetCapabilities (lease : Fin 4096)
  /-- LOCK_INTERFACE (R483). -/
  | lockInterface (lease : Fin 4096) (stream : Nat)
  /-- GET_DEVICE_INTERFACE_REPORT (R483). -/
  | getDeviceInterfaceReport (lease : Fin 4096)
  /-- GET_DEVICE_INTERFACE_STATE (R483). -/
  | getDeviceInterfaceState (lease : Fin 4096)
  /-- START_INTERFACE (R483). -/
  | startInterface (lease : Fin 4096)
  /-- STOP_INTERFACE (R484). -/
  | stopInterface (lease : Fin 4096)
  /-- IDE_CHECK_FAILURE (R485). -/
  | ideCheckFailure (stream : Nat)
  /-- TEST_WINDOW_START (R501). -/
  | testWindowStart
  /-- TEST_SEGMENT_COMPLETE (R509). -/
  | testSegmentComplete (differs : Bool)
  /-- RECOMPUTE_COMPLETE (R512). -/
  | recomputeComplete (tower : Fin 4) (result : RecomputeResult)
  /-- SHADOW_RECOMPUTE_COMPLETE (R516). -/
  | shadowRecomputeComplete (tower : Fin 4) (result : RecomputeResult)
  /-- TEST_WINDOW_END (R501). -/
  | testWindowEnd
  /-- REL_TEST_CFG_WRITE (R502). -/
  | relTestCfgWrite (mid : Nat) (v : Word)
  /-- REL_TEST_LEN_WRITE (R502). -/
  | relTestLenWrite (mid : Nat) (v : Word)
  /-- REL_DUMP_CLEAR (R533). -/
  | relDumpClear (mid : Nat)
  /-- REL_PM_CLEAR (R528). -/
  | relPmClear (mid : Nat)
  /-- CHIP_LOST_DECLARATION (R522). -/
  | chipLostDeclaration (chip : Nat)
  /-- CHIP_RETURN (R524). -/
  | chipReturn (chip : Nat)
  /-- GOV_TOKEN_REFILL (R526). -/
  | govTokenRefill
  /-- GOV_LOWER_EXPIRY (R527). -/
  | govLowerExpiry
  /-- PATH_MONITOR_SAMPLE (R528). -/
  | pathMonitorSample (n : Fin 64) (slack : Nat)
  /-- OPTICAL_POWER_READ (R529). -/
  | opticalPowerRead (lane : Fin 64) (power : Option Int)
  /-- CORRECTION_SUMMARY (R499). -/
  | correctionSummary
  /-- FATAL_ERROR (R531). -/
  | fatalError (detector : Nat)
  /-- FATAL_DUMP_COMPLETE (R531). -/
  | fatalDumpComplete
  /-- FIRMWARE_START (R551). -/
  | firmwareStart (b : BootRead)
  /-- CONFIG_APPLIED (R551). -/
  | configApplied
  /-- TIME_ACQUIRE_ENTRY (R550). -/
  | timeAcquireEntry
  /-- RECOVERY_IMAGE_RECEIVE (R552). -/
  | recoveryImageReceive (image : BankImg)
  /-- WATCHDOG_KICK (R538). -/
  | watchdogKick (mid : Nat)
  /-- WATCHDOG_EXPIRY (R538). -/
  | watchdogExpiry
  /-- DOME_MCTP_HEARTBEAT (R538). -/
  | domeMctpHeartbeat
  /-- SENSOR_SAMPLE (R539). -/
  | sensorSample (temps volts : List Nat)
  /-- SPDM_GET_VERSION (R553). -/
  | spdmGetVersion
  /-- SPDM_GET_CAPABILITIES (R553). -/
  | spdmGetCapabilities
  /-- NEGOTIATE_ALGORITHMS (R553). -/
  | negotiateAlgorithms (common : Bool)
  /-- GET_DIGESTS (R553). -/
  | getDigests
  /-- GET_CERTIFICATE (R553). -/
  | getCertificate
  /-- CHALLENGE (R553). -/
  | challenge
  /-- GET_MEASUREMENTS (R554). -/
  | getMeasurements (signed : Bool)
  /-- KEY_EXCHANGE (R553). -/
  | keyExchange (session : Nat)
  /-- FINISH (R553). -/
  | finish (session : Nat)
  /-- SPDM_HEARTBEAT (R553). -/
  | spdmHeartbeat (session : Nat)
  /-- KEY_UPDATE (R553). -/
  | keyUpdate (session : Nat)
  /-- END_SESSION (R553). -/
  | endSession (session : Nat)
  /-- VENDOR_DEFINED_REQUEST (R553). -/
  | vendorDefinedRequest (session : Nat) (carries : VendorMsg)
  /-- GET_INFO (R555). -/
  | getInfo (channel : Fin 64) (tag : Nat)
  /-- STAGE (R556). -/
  | stage (channel : Fin 64) (tag kind first tiles : Nat)
  /-- STAGE_COMPLETE (R556). -/
  | stageComplete (done : StageEnd)
  /-- CHIP_RESET (R555). -/
  | chipReset (channel : Fin 64) (tag : Nat)
  /-- LOG_READ (R555). -/
  | logRead (channel : Fin 64) (tag fromSeq count first : Nat)
  /-- LOG_RECORD_WRITE (R561). -/
  | logRecordWrite
  /-- DEBUG_TOKEN_RECEIVE (R558). -/
  | debugTokenReceive (tok : DebugToken)
  /-- JTAG_INSTRUCTION (R557). -/
  | jtagInstruction (op : JtagOp)
  /-- PWR_STATE (R571). -/
  | pwrState (issuer : Issuer) (target : Nat) (atTrigger : Bool)
  /-- DEEP_SLEEP_ENTRY (R575). -/
  | deepSleepEntry
  /-- PWR_GATE (R567). -/
  | pwrGate (issuer : Issuer) (mask : Nat)
  /-- PWR_UNGATE (R569). -/
  | pwrUngate (issuer : Issuer) (mask : Nat)
  /-- PWR_WAKE_CFG (R576). -/
  | pwrWakeCfg (issuer : Issuer) (v : Word)
  /-- PWR_CAP (R580). -/
  | pwrCap (issuer : Issuer) (cap : Nat)
  /-- DOMAIN_READY (R569). -/
  | domainReady (k : Fin 30)
  /-- WAKE_PIN (R574). -/
  | wakePin (i : Fin 4)
  /-- AVS_RESPONSE (R578). -/
  | avsResponse (crcOk : Bool) (ack value : Nat)
  /-- AVS_TIMEOUT (R578). -/
  | avsTimeout
  /-- AVS_LOOP_TICK (R579). -/
  | avsLoopTick
  /-- THROTTLE_SAMPLE (R580). -/
  | throttleSample
  /-- VR_ALERT (R582). -/
  | vrAlert
  /-- ESTOP_END (R583). -/
  | estopEnd
  /-- RESET_PIN_ASSERT (R597). -/
  | resetPinAssert (us : Nat)
  /-- PAVANE_LOAD_COMPLETE (R362). -/
  | pavaneLoadComplete
  /-- STACK_TEMPERATURE_REPORT (R258). -/
  | stackTemperatureReport (h : Fin 24) (temp : Int)
  /-- POWER_LOSS (R292). -/
  | powerLoss
  /-- WAKE_ISLAND_THERMTRIP (R599). -/
  | wakeIslandThermtrip (temp : Int)
  /-- LOCAL_ENGINE_STORE_ACCEPT (R403). -/
  | localEngineStoreAccept (k : Fin 32) (t : Fin 8)
  deriving DecidableEq, Repr

end Sys2Proof
end

