-- ==== Sys2Proof/Decode.lean ====
section
/-! DEFINITION. Decode: the command that a word spells by the opcode table's bits. No row of the table gives a bit: a
command reaches the block as a register access, a queue entry, an event on a pin or a bus, or an engine's next moment,
with its operands. The decoding of a queue entry's 64 bytes is part of SUBMISSION_FETCH. -/

namespace Sys2Proof

/-- The command that a word of `nbits` bits spells: none. -/
def decodeTableWord (nbits w : Nat) : Option Instr :=
  match nbits, w with
  | _, _ => none

end Sys2Proof
end

