-- ==== Sys2Proof/Machine/Bits.lean ====
section
/-! DEFINITION. Bit fields, saturating counts and register halves: the small helpers that every register view uses. -/

namespace Sys2Proof.Machine

/-- Bits `hi:lo` of a number, as a number. -/
def field (x hi lo : Nat) : Nat := x / 2 ^ lo % 2 ^ (hi + 1 - lo)

/-- Bit `i` of a number. -/
def bitAt (x i : Nat) : Bool := x / 2 ^ i % 2 == 1

/-- Bits `hi:lo` of a register. -/
def fieldW (v : Word) (hi lo : Nat) : Nat := field v.toNat hi lo

/-- Bit `i` of a register. -/
def bitW (v : Word) (i : Nat) : Bool := bitAt v.toNat i

/-- 1 for true, 0 for false. -/
def b2n (b : Bool) : Nat := if b then 1 else 0

/-- A flag in its place of a register. -/
def flagAt (b : Bool) (i : Nat) : Nat := b2n b * 2 ^ i

/-- A register made of the sum of its fields. -/
def word (n : Nat) : Word := BitVec.ofNat 32 n

/-- A count that stays at its largest value. -/
def satInc {w : Nat} (x : BitVec w) : BitVec w :=
  if x = BitVec.allOnes w then x else x + 1

/-- Add to a count that stays at its largest value. -/
def satAdd {w : Nat} (x : BitVec w) (n : Nat) : BitVec w :=
  if x.toNat + n < 2 ^ w then BitVec.ofNat w (x.toNat + n) else BitVec.allOnes w

/-- The low 32 bits of a wide value. -/
def loWord (n : Nat) : Word := BitVec.ofNat 32 n

/-- Bits 63:32 of a wide value. -/
def hiWord (n : Nat) : Word := BitVec.ofNat 32 (n / 2 ^ 32)

/-- A wide value with its low 32 bits replaced. -/
def withLo (x : DWord) (v : Word) : DWord := BitVec.ofNat 64 (x.toNat / 2 ^ 32 * 2 ^ 32 + v.toNat)

/-- A wide value with its high 32 bits replaced. -/
def withHi (x : DWord) (v : Word) : DWord := BitVec.ofNat 64 (v.toNat * 2 ^ 32 + x.toNat % 2 ^ 32)

/-- Round `n` up to a multiple of `m`. -/
def roundUp (n m : Nat) : Nat := (n + m - 1) / m * m

/-- The two's complement value of the low `w` bits of a number. -/
def toSigned (w n : Nat) : Int :=
  let x := n % 2 ^ w
  if x < 2 ^ (w - 1) then (x : Int) else (x : Int) - (2 ^ w : Nat)

/-- The low `w` bits of an integer in two's complement. -/
def ofSigned (w : Nat) (i : Int) : Nat := (i % ((2 ^ w : Nat) : Int)).toNat

/-- Put a number in its place of an ascending list. -/
def insertUp (x : Nat) : List Nat → List Nat
  | [] => [x]
  | y :: r => if x ≤ y then x :: y :: r else y :: insertUp x r

/-- The numbers of a list in ascending order. -/
def ascending (l : List Nat) : List Nat := l.foldr insertUp []

end Sys2Proof.Machine
end

