-- ==== Sys2Proof/Machine/ArrayMath.lean ====
section
/-! DEFINITION. Number formats, block scaling, exact accumulation and output conversion (05), and the sizes that a pass
descriptor fixes (04). Nothing here touches the machine's state. -/

namespace Sys2Proof.Machine

/-! ### Descriptors and sizes -/

/-- Format group of an operand format (Table 4.4): 0 = A, 1 = B, 2 = C, 3 = D, 4 = reserved. -/
def fmtGroup (f : Nat) : Nat :=
  if f ≤ 5 then 0 else if f ≤ 7 then 1 else if f ≤ 9 then 2 else if f = 10 then 3 else 4

/-- Bits per element of an operand format (Table 4.4). -/
def fmtBits (f : Nat) : Nat :=
  if f = 2 ∨ f = 3 then 6 else if f = 6 ∨ f = 7 then 4 else if f = 8 ∨ f = 9 then 16 else if f = 10 then 32 else 8

/-- Does the format carry block scales (an MX format)? -/
def fmtMx (f : Nat) : Bool := decide (f ≤ 4) || f == 6

/-- Largest reduction length of a group (Table 4.1). -/
def groupK (g : Nat) : Nat := if g = 0 then 256 else if g = 1 then 512 else if g = 2 then 128 else 64

/-- Largest number of columns of a group (Table 4.1). -/
def groupN (g : Nat) : Nat := if g = 0 then 256 else if g = 1 then 256 else if g = 2 then 128 else 64

/-- Number of used accumulators A (R125). -/
def PassDesc.accs (d : PassDesc) : Nat := if fmtGroup d.fmtW = 3 then 2 * d.n else d.n

/-- b_out of a FINAL output format (Tables 5.4, 5.5); 0 where the code is reserved for the class. -/
def outBits (radio : Bool) (f : Nat) : Nat :=
  if radio then
    (if f = 0 then 8 else if f = 1 then 9 else if f = 2 then 12 else if f = 3 then 14
     else if f = 4 then 16 else if f = 5 then 16 else 0)
  else
    (if f ≤ 1 then 8 else if f ≤ 3 then 6 else if f ≤ 5 then 8 else if f ≤ 7 then 4 else if f ≤ 9 then 16
     else if f = 11 ∨ f = 12 then 32 else 0)

/-- Output span of one vector (R122). -/
def PassDesc.outSpan (d : PassDesc) : Nat :=
  if d.outLong then (if fmtGroup d.fmtW = 3 then 16 * (64 + d.n) else 16 * d.accs)
  else 32 * ((d.accs * outBits d.radioClass d.outFmt + 255) / 256)

/-- The runs of bytes that hold a vector's long values, from its address: offset and length (R122). In group D the bytes between
them belong to the span and are neither read nor written. -/
def PassDesc.longRuns (d : PassDesc) : List (Nat × Nat) :=
  if fmtGroup d.fmtW = 3 then [(0, 16 * d.n), (1024, 16 * d.n)] else [(0, 16 * d.accs)]

/-- Store accesses per input vector (R125, Table 4.6). -/
def PassDesc.accesses (d : PassDesc) : Nat :=
  (d.k * fmtBits d.fmtX + 255) / 256
  + (if fmtMx d.fmtX then 1 else 0)
  + (if d.init = 2 then (d.accs + 1) / 2 else 0)
  + (if d.outLong then (d.accs + 1) / 2 else (d.accs * outBits d.radioClass d.outFmt + 255) / 256 + 1)

/-- The smallest legal INTERVAL (R126). -/
def PassDesc.minInterval (d : PassDesc) : Nat := (d.accesses + 54) / 55

/-- Tile rows that a load reads (R127). -/
def PassDesc.tileRows (d : PassDesc) : Nat := if fmtGroup d.fmtW = 1 then (d.k + 1) / 2 else d.k

/-- Words of block scales that a load reads (R127). -/
def PassDesc.scaleWords (d : PassDesc) : Nat := if fmtMx d.fmtW then 8 * ((d.k + 31) / 32) else 0

/-- Side accesses of a load (R127). -/
def PassDesc.sideWords (d : PassDesc) : Nat :=
  d.scaleWords + (if d.init = 1 then (d.accs + 1) / 2 else 0)

/-- Side words, counted from SIDE_ADDR, in the order in which they are read: scales, then the bias. In group D the
imaginary parts of the bias lie at accumulators 64 on (R120, R122; DEDUCED, log entry 22). -/
def PassDesc.sideOrder (d : PassDesc) : List Nat :=
  let h := (d.n + 1) / 2
  List.range d.scaleWords ++
    (if d.init = 1 then
      if fmtGroup d.fmtW = 3 then (List.range h).map (d.scaleWords + ·) ++ (List.range h).map (d.scaleWords + 32 + ·)
      else (List.range ((d.accs + 1) / 2)).map (d.scaleWords + ·)
    else [])

/-- Side words read in load CCLK `i`: one; in the last of them whatever is left. -/
def PassDesc.sideAt (d : PassDesc) (i : Nat) : List Nat :=
  if i + 1 < d.sideWords then ((d.sideOrder).drop i).take 1
  else if i + 1 = d.sideWords then (d.sideOrder).drop i
  else []

/-- Bytes of side data from SIDE_ADDR on. -/
def PassDesc.sideBytes (d : PassDesc) : Nat :=
  32 * d.scaleWords + (if d.init = 1 then (if fmtGroup d.fmtW = 3 then 16 * (64 + d.n) else 16 * d.accs) else 0)

/-- Load time (R127). -/
def PassDesc.loadTime (d : PassDesc) : Nat := max d.tileRows d.sideWords

/-- Length of a pass with `l` CCLK of load remaining (R131). -/
def PassDesc.length (d : PassDesc) (l : Nat) : Nat := l + (d.v - 1) * d.interval + 17

/-- Worst-case length (R132). -/
def PassDesc.worstLength (d : PassDesc) : Nat := d.length d.loadTime

/-- Pending range of a pass (R141): first byte and the byte after the last, over outputs and side records. -/
def PassDesc.pending (d : PassDesc) : Nat × Nat :=
  let lo := d.outAddr
  let hi := d.outAddr + (d.v - 1) * d.outStride + d.outSpan
  if d.outLong then (lo, hi)
  else (min lo d.osideAddr, max hi (d.osideAddr + (d.v - 1) * d.osideStride + 32))

/-- The byte ranges that a pass reads, its descriptor at `a` among them: first byte and length. -/
def PassDesc.reads (d : PassDesc) (a : Nat) : List (Nat × Nat) :=
  let stride (base st len : Nat) : Nat × Nat := (base, (d.v - 1) * st + len)
  [(a, 64)]
  ++ (if d.tileRows = 0 then [] else [(d.tileAddr, 256 * d.tileRows)])
  ++ (if d.sideWords = 0 then [] else [(d.sideAddr, d.sideBytes)])
  ++ (if d.k = 0 then [] else [stride d.xAddr d.xStride (32 * ((d.k * fmtBits d.fmtX + 255) / 256))])
  ++ (if fmtMx d.fmtX ∧ d.k ≠ 0 then [stride d.xsAddr d.xsStride ((d.k + 31) / 32)] else [])
  ++ (if d.init = 2 then
        [stride d.initAddr d.initStride (if fmtGroup d.fmtW = 3 then 16 * (64 + d.n) else 16 * d.accs)] else [])

/-- The byte ranges that a pass writes: first byte and length. -/
def PassDesc.writes (d : PassDesc) : List (Nat × Nat) :=
  (d.outAddr, (d.v - 1) * d.outStride + d.outSpan)
  :: (if d.outLong then [] else [(d.osideAddr, (d.v - 1) * d.osideStride + 32)])

/-- Decode a pass descriptor from its 64 bytes as one little-endian number (R120, Table 4.3). -/
def decodeDesc (x : Nat) : PassDesc :=
  let w (off : Nat) : Nat := field x (8 * off + 31) (8 * off)
  let a (off : Nat) : Nat := w off % 2 ^ 25
  let resv (off : Nat) : Bool := w off / 2 ^ 25 == 0
  { fmtW := field (w 0) 31 28, fmtX := field (w 0) 27 24, outFmt := field (w 0) 23 20
    radioClass := bitAt (w 0) 19, outLong := bitAt (w 0) 18, init := field (w 0) 17 16
    interval := field (w 0) 15 12, wexp := toSigned 10 (w 0 % 1024)
    k := field (w 4) 31 22, n := field (w 4) 21 13, v := w 4 % 2 ^ 13
    tileAddr := a 0x08, sideAddr := a 0x0C, xAddr := a 0x10, xStride := a 0x14, xsAddr := a 0x18
    xsStride := a 0x1C, initAddr := a 0x20, initStride := a 0x24, outAddr := a 0x28, outStride := a 0x2C
    osideAddr := a 0x30, osideStride := a 0x34, tag := w 0x38 % 2 ^ 16
    reservedOk := field (w 0) 11 10 == 0 && w 0x38 / 2 ^ 16 == 0 && w 0x3C == 0
      && [0x08, 0x0C, 0x10, 0x14, 0x18, 0x1C, 0x20, 0x24, 0x28, 0x2C, 0x30, 0x34].all resv
    raw := x }

/-- Do two byte ranges (first byte, length) meet? -/
def rangesMeet (a b : Nat × Nat) : Bool :=
  decide (a.1 < b.1 + b.2 ∧ b.1 < a.1 + a.2)

/-- The checks of R129 on a descriptor at address `addr` of which the job owns store bytes `lo` to `hi − 1`. -/
def PassDesc.ok (d : PassDesc) (addr lo hi : Nat) : Bool :=
  let g := fmtGroup d.fmtW
  let pend := (d.pending.1, d.pending.2 - d.pending.1)
  d.reservedOk
  && decide (d.init < 3)
  && decide (g < 4) && decide (fmtGroup d.fmtX = g)
  && decide (-320 ≤ d.wexp ∧ d.wexp ≤ 320)
  && decide (d.k ≤ groupK g) && decide (1 ≤ d.n ∧ d.n ≤ groupN g)
  && decide (1 ≤ d.interval ∧ d.interval ≤ 8) && decide (1 ≤ d.v ∧ d.v * d.interval ≤ 4096)
  && (if d.outLong then d.outFmt == 0 else outBits d.radioClass d.outFmt != 0)
  && decide (d.minInterval ≤ d.interval)
  && [d.tileAddr, d.sideAddr, d.xAddr, d.xStride, d.xsAddr, d.xsStride, d.initAddr, d.initStride, d.outAddr,
      d.outStride, d.osideAddr, d.osideStride].all (fun a => a % 32 == 0)
  && decide (d.outSpan ≤ d.outStride)
  && (d.reads addr ++ d.writes).all (fun r => decide (lo ≤ r.1 ∧ r.1 + r.2 ≤ hi))
  && (d.reads addr).all (fun r => !rangesMeet r pend)

/-! ### Elements, scales and terms -/

/-- The value of an element: `m × 2^e`, an infinity or a NaN (R151). -/
inductive Elem where
  | fin (m : Int) (e : Int)
  | inf (neg : Bool)
  | nan
  deriving DecidableEq, Repr

/-- A floating-point code with `eb` exponent bits, `mb` mantissa bits and a bias, no special codes. -/
def fpFinite (eb mb bias code : Nat) : Elem :=
  let man := code % 2 ^ mb
  let ex := code / 2 ^ mb % 2 ^ eb
  let neg := code / 2 ^ (mb + eb) % 2 == 1
  let mag : Int := if ex = 0 then (man : Int) else ((2 ^ mb + man : Nat) : Int)
  let e : Int := (if ex = 0 then (1 : Int) else (ex : Int)) - (bias : Int) - (mb : Int)
  .fin (if neg then -mag else mag) e

/-- A floating-point code whose all-ones exponent holds infinity and NaN. -/
def fpIeee (eb mb bias code : Nat) : Elem :=
  let man := code % 2 ^ mb
  let ex := code / 2 ^ mb % 2 ^ eb
  if ex = 2 ^ eb - 1 then
    (if man = 0 then .inf (code / 2 ^ (mb + eb) % 2 == 1) else .nan)
  else fpFinite eb mb bias code

/-- Decode an element of a real format (Table 5.1). -/
def decodeElem (f code : Nat) : Elem :=
  if f = 0 then (if code % 128 = 127 then .nan else fpFinite 4 3 7 code)
  else if f = 1 then fpIeee 5 2 15 code
  else if f = 2 then fpFinite 3 2 3 code
  else if f = 3 then fpFinite 2 3 1 code
  else if f = 4 then .fin (toSigned 8 code) (-6)
  else if f = 5 then .fin (toSigned 8 code) 0
  else if f = 6 then fpFinite 2 1 1 code
  else if f = 7 then .fin (toSigned 4 code) 0
  else if f = 8 then fpIeee 8 7 127 code
  else fpIeee 5 10 15 code

/-- Scale exponent of an E8M0 byte; none for 0xFF, which encodes NaN (R152). -/
def scaleExp (b : Nat) : Option Int := if b = 255 then none else some ((b : Int) - 127)

/-- Round the quotient `n / 2^s` to an integer, ties to even. -/
def shiftRne (n : Int) (s : Nat) : Int :=
  let p : Int := ((2 ^ s : Nat) : Int)
  let q := n / p
  let r := n % p
  if 2 * r < p then q else if 2 * r > p then q + 1 else if q % 2 = 0 then q else q + 1

/-- `m × 2^e` rounded to a multiple of `2^g`, in units of `2^g`, ties to even. -/
def roundToGrid (m e g : Int) : Int :=
  if g ≤ e then m * ((2 ^ (e - g).toNat : Nat) : Int) else shiftRne m (g - e).toNat

/-- Is `m × 2^e` a multiple of `2^g`? -/
def onGrid (m e g : Int) : Bool :=
  decide (g ≤ e) || m % ((2 ^ (g - e).toNat : Nat) : Int) == 0

/-- Largest term, 2^95 − 1 grid units (R155). -/
def termMax : Int := 2 ^ 95 - 1

/-- Smallest term, −2^95 grid units (R155). -/
def termMin : Int := -(2 ^ 95)

/-- A term placed on the grid: its integer, and whether it counts as inexact or clamped. -/
structure Term where
  t : Int
  inexact : Bool
  clamped : Bool
  deriving DecidableEq, Repr

/-- Place an exact product `m × 2^e` on the grid of window exponent `w` (R155). -/
def placeTerm (w m e : Int) : Term :=
  let t := roundToGrid m e (w - 64)
  if t > termMax then ⟨termMax, false, true⟩
  else if t < termMin then ⟨termMin, false, true⟩
  else ⟨t, !onGrid m e (w - 64), false⟩

/-- Is an element negative, as a sign of a product? -/
def Elem.neg : Elem → Bool
  | .fin m _ => decide (m < 0)
  | .inf n => n
  | .nan => false

/-- A term of groups A, B and C (R154 to R156). -/
def realTerm (w : Int) (x y : Elem) (sx sy : Option Int) : Term :=
  match x, y, sx, sy with
  | .fin a ea, .fin b eb, some s, some r => placeTerm w (a * b) (ea + eb + s + r)
  | .inf n, .inf k, some _, some _ => ⟨if n != k then termMin else termMax, false, true⟩
  | .inf n, .fin b _, some _, some _ =>
    if b = 0 then ⟨0, false, true⟩ else ⟨if n != decide (b < 0) then termMin else termMax, false, true⟩
  | .fin a _, .inf k, some _, some _ =>
    if a = 0 then ⟨0, false, true⟩ else ⟨if k != decide (a < 0) then termMin else termMax, false, true⟩
  | _, _, _, _ => ⟨0, false, true⟩

/-- A value modulo 2^128 read as a signed number (R157). -/
def wrap128 (x : Int) : Int :=
  let y := x % (2 ^ 128 : Int)
  if y < 2 ^ 127 then y else y - 2 ^ 128

/-! ### One vector against one plane -/

/-- Element `i` of a packed row of `b`-bit elements (R150). -/
def elemAt (row b i : Nat) : Nat := row / 2 ^ (b * i) % 2 ^ b

/-- Code of the stationary element of reduction index `k` and column `n` (R120, TILE_ADDR). -/
def Plane.code (p : Plane) (d : PassDesc) (k n : Nat) : Nat :=
  if fmtGroup d.fmtW = 1 then elemAt (p.rows.get 0 (k / 2)).toNat 4 (2 * n + k % 2)
  else elemAt (p.rows.get 0 k).toNat (fmtBits d.fmtW) n

/-- Scale exponent of the stationary element of reduction index `k`, column `n` (R153). -/
def Plane.scale (p : Plane) (d : PassDesc) (k n : Nat) : Option Int :=
  if fmtMx d.fmtW then
    scaleExp (elemAt (p.side.get 0 (8 * (k / 32) + n / 32)).toNat 8 (n % 32))
  else some 0

/-- Bias of accumulator `a` (R120, SIDE_ADDR). -/
def Plane.bias (p : Plane) (d : PassDesc) (a : Nat) : Int :=
  toSigned 128 (elemAt (p.side.get 0 (d.scaleWords + a / 2)).toNat 128 (a % 2))

/-- Accumulator number, from 0 to 127 or 255, of used accumulator `a` (R122, group D places imaginary parts at 64). -/
def PassDesc.accSlot (d : PassDesc) (a : Nat) : Nat :=
  if fmtGroup d.fmtW = 3 then (if a < d.n then a else 64 + (a - d.n)) else a

/-- Initial value of used accumulator `a` for a vector whose PARTIAL long values are `inits` (R122). -/
def PassDesc.initial (d : PassDesc) (p : Plane) (inits a : Nat) : Int :=
  if d.init = 1 then p.bias d (d.accSlot a)
  else if d.init = 2 then toSigned 128 (elemAt inits 128 (d.accSlot a))
  else 0

/-- A signed 16-bit part of a CQ15 element. -/
def cqRe (c : Nat) : Int := toSigned 16 (c % 2 ^ 16)

/-- The imaginary part of a CQ15 element. -/
def cqIm (c : Nat) : Int := toSigned 16 (c / 2 ^ 16 % 2 ^ 16)

/-- The term of reduction index `k` for used accumulator `a` (R154). -/
def termAt (d : PassDesc) (p : Plane) (elems scales k a : Nat) : Term :=
  if fmtGroup d.fmtW = 3 then
    let im := decide (d.n ≤ a)
    let w := p.code d k (if im then a - d.n else a)
    let x := elemAt elems 32 k
    let m := if im then cqRe w * cqIm x + cqIm w * cqRe x else cqRe w * cqRe x - cqIm w * cqIm x
    placeTerm d.wexp m (-30)
  else
    realTerm d.wexp (decodeElem d.fmtW (p.code d k a)) (decodeElem d.fmtX (elemAt elems (fmtBits d.fmtX) k))
      (p.scale d k a) (if fmtMx d.fmtX then scaleExp (elemAt scales 8 (k / 32)) else some 0)

/-- The outcome of one accumulator: its content, and how many terms were inexact and clamped. -/
structure AccOut where
  value   : Int
  inexact : Nat
  clamped : Nat
  deriving DecidableEq, Repr

/-- Accumulate the terms of accumulator `a` from its initial value (R157). -/
def accumulate (d : PassDesc) (p : Plane) (elems scales : Nat) (init : Int) (a : Nat) : AccOut :=
  (List.range d.k).foldl
    (fun o k =>
      let t := termAt d p elems scales k a
      ⟨wrap128 (o.value + t.t), o.inexact + b2n t.inexact, o.clamped + b2n t.clamped⟩)
    ⟨wrap128 init, 0, 0⟩

/-- A dyadic number in units of 2^-1400, wide enough for every element, scale and product of 05. -/
def dyUnit : Int := -1400

/-- A finite element with its scale in units of 2^-700; special operands give 0 (a vector with one is not
compared, R137). -/
def dyElem (x : Elem) (s : Option Int) : Int :=
  match x, s with
  | .fin m e, some r => m * ((2 ^ (e + r + 700).toNat : Nat) : Int)
  | _, _ => 0

/-- Row sum of reduction index `k`, real or only part, in units of 2^-700 (04 'The checksum column'). -/
def rowSumRe (d : PassDesc) (p : Plane) (k : Nat) : Int :=
  (List.range d.n).foldl (fun acc n =>
    acc + (if fmtGroup d.fmtW = 3 then dyElem (.fin (cqRe (p.code d k n)) (-15)) (some 0)
           else dyElem (decodeElem d.fmtW (p.code d k n)) (p.scale d k n))) 0

/-- Row sum of reduction index `k`, imaginary part. -/
def rowSumIm (d : PassDesc) (p : Plane) (k : Nat) : Int :=
  if fmtGroup d.fmtW = 3 then
    (List.range d.n).foldl (fun acc n => acc + dyElem (.fin (cqIm (p.code d k n)) (-15)) (some 0)) 0
  else 0

/-- Input element `k`, real or only part, in units of 2^-700. -/
def inputRe (d : PassDesc) (elems scales k : Nat) : Int :=
  if fmtGroup d.fmtW = 3 then dyElem (.fin (cqRe (elemAt elems 32 k)) (-15)) (some 0)
  else dyElem (decodeElem d.fmtX (elemAt elems (fmtBits d.fmtX) k))
    (if fmtMx d.fmtX then scaleExp (elemAt scales 8 (k / 32)) else some 0)

/-- Input element `k`, imaginary part. -/
def inputIm (d : PassDesc) (elems k : Nat) : Int :=
  if fmtGroup d.fmtW = 3 then dyElem (.fin (cqIm (elemAt elems 32 k)) (-15)) (some 0) else 0

/-- Checksum column: Σ x × rowsum, real or only part, in units of 2^-1400. -/
def checksumRe (d : PassDesc) (p : Plane) (xr xi : Nat → Int) : Int :=
  (List.range d.k).foldl (fun acc k => acc + (xr k * rowSumRe d p k - xi k * rowSumIm d p k)) 0

/-- Checksum column, imaginary part. -/
def checksumIm (d : PassDesc) (p : Plane) (xr xi : Nat → Int) : Int :=
  (List.range d.k).foldl (fun acc k => acc + (xr k * rowSumIm d p k + xi k * rowSumRe d p k)) 0

/-- The difference of a total of grid units and a checksum in units of 2^-1400, formed modulo 2^128 grid units
(R160), in units of 2^-1400. -/
def checkDiff (w : Int) (gridTotal checksum : Int) : Int :=
  let g : Int := ((2 ^ (w - 64 - dyUnit).toNat : Nat) : Int)
  let modulus := g * 2 ^ 128
  let y := (gridTotal * g - checksum) % modulus
  if 2 * y < modulus then y else y - modulus

/-- A difference in half units of the pass, rounded toward zero and saturated (ARR_DIS_DIFF). -/
def diffHalfUnits (w : Int) (diff : Int) : DWord :=
  let h : Nat := 2 ^ (w - 65 - dyUnit).toNat
  let mag := min (diff.natAbs / h) (2 ^ 63 - 1)
  BitVec.ofInt 64 (if diff < 0 then -(mag : Int) else (mag : Int))

/-- Does a difference lie within `inexact` half units (R136, R138)? -/
def withinHalfUnits (w : Int) (diff : Int) (inexact : Nat) : Bool :=
  decide (diff.natAbs ≤ inexact * 2 ^ (w - 65 - dyUnit).toNat)

/-! ### Output conversion -/

/-- floor(log2 n) for n > 0; 0 for 0. -/
def log2Floor (n : Nat) : Int := (Nat.log2 n : Int)

/-- The parameters of an output floating-point format: exponent bits, mantissa bits, bias, and the largest finite
code without its sign (Table 5.1, Table 5.4). -/
structure FpFmt where
  eb : Nat
  mb : Nat
  bias : Nat
  maxCode : Nat
  deriving DecidableEq, Repr

/-- Floating-point output formats of the inference class by OUT_FMT. -/
def outFp (f : Nat) : Option FpFmt :=
  if f = 0 then some ⟨4, 3, 7, 0x7E⟩
  else if f = 1 then some ⟨5, 2, 15, 0x7B⟩
  else if f = 2 then some ⟨3, 2, 3, 0x1F⟩
  else if f = 3 then some ⟨2, 3, 1, 0x1F⟩
  else if f = 6 then some ⟨2, 1, 1, 0x7⟩
  else if f = 8 then some ⟨8, 7, 127, 0x7F7F⟩
  else if f = 9 then some ⟨5, 10, 15, 0x7BFF⟩
  else if f = 11 then some ⟨8, 23, 127, 0x7F7FFFFF⟩
  else none

/-- Round the magnitude `m × 2^e` to a floating-point format as if it had no upper limit, ties to even: the
magnitude code, in which a carry out of the mantissa runs on into the exponent. -/
def fpRoundMag (q : FpFmt) (m : Nat) (e : Int) : Nat :=
  if m = 0 then 0 else
  let ex : Int := log2Floor m + e
  let emin : Int := 1 - (q.bias : Int)
  let ee := if ex < emin then emin else ex
  let r := (roundToGrid (m : Int) e (ee - (q.mb : Int))).toNat
  (((ee - emin).toNat) * 2 ^ q.mb) + r

/-- One element of a floating-point output: its code, and whether it saturated (R165). -/
def fpOut (q : FpFmt) (m : Int) (e : Int) : Nat × Bool :=
  let mag := fpRoundMag q m.natAbs e
  let sign := if m < 0 then 2 ^ (q.eb + q.mb) else 0
  if mag > q.maxCode then (sign + q.maxCode, true) else (sign + mag, false)

/-- One element of an integer output of `b` bits, with `fr` fraction bits (R165). -/
def intOut (b fr : Nat) (m : Int) (e : Int) : Nat × Bool :=
  let t := roundToGrid m e (-(fr : Int))
  let hi : Int := 2 ^ (b - 1) - 1
  let lo : Int := -(2 ^ (b - 1))
  if t > hi then (ofSigned b hi, true) else if t < lo then (ofSigned b lo, true) else (ofSigned b t, false)

/-- One element of an inference-class output format. -/
def inferenceOut (f : Nat) (m e : Int) : Nat × Bool :=
  match outFp f with
  | some q => fpOut q m e
  | none => if f = 4 then intOut 8 6 m e else if f = 5 then intOut 8 0 m e else if f = 7 then intOut 4 0 m e
            else intOut 32 0 m e

/-- emax of an MX output format (R166 step 2). -/
def mxEmax (f : Nat) : Int := if f = 0 then 8 else if f = 1 then 15 else if f = 2 then 4 else if f = 3 then 2
  else if f = 6 then 2 else 0

/-- Scale exponent of a block of grid integers (value `v × 2^g`) of an MX output (R166). -/
def mxScale (f : Nat) (g : Int) (vs : List Int) : Int :=
  let big := vs.foldl (fun a v => max a v.natAbs) 0
  if big = 0 then 0 else
  let x0 := log2Floor big + g - mxEmax f
  let saturates := vs.any (fun v => (inferenceOut f v (g - x0)).2)
  let x := if saturates then x0 + 1 else x0
  if x < -127 then -127 else if x > 127 then 127 else x

/-- Mantissa bits of a radio block floating-point format (Table 5.5). -/
def bfpBits (f : Nat) : Nat := outBits true f

/-- Block exponent of a block of Q15 values `v × 2^g` with `b`-bit mantissas (R168): the smallest of 0 to 15 that fits,
else 15. -/
def bfpExp (b : Nat) (g : Int) (vs : List Int) : Nat :=
  ((List.range 16).find? (fun (e : Nat) => vs.all (fun v => !(intOut b 0 v (g + 15 - (e : Int))).2))).getD 15

/-- Cut a list into blocks of `n`; `fuel` bounds the number of blocks. -/
def blocksOf {α : Type} (n : Nat) : Nat → List α → List (List α)
  | 0, _ => []
  | f + 1, l => if l.isEmpty then [] else l.take n :: blocksOf n f (l.drop n)

/-- The FINAL output of one vector: element codes, side bytes and saturations (R164 to R169). -/
structure FinalOut where
  codes : List Nat
  side  : List Nat
  sats  : Nat
  deriving DecidableEq, Repr

/-- Convert a list of grid integers, already in output order, to the output format of the pass. -/
def finalOut (d : PassDesc) (vs : List Int) : FinalOut :=
  let g := d.wexp - 64
  let conv (f : Int → Nat × Bool) (l : List Int) : FinalOut :=
    ⟨l.map (fun v => (f v).1), [], (l.filter (fun v => (f v).2)).length⟩
  let blocks (size : Nat) (f : List Int → Nat × (Int → Nat × Bool)) : FinalOut :=
    (blocksOf size 256 vs).foldl (fun o b =>
      let r := f b
      let c := conv r.2 b
      ⟨o.codes ++ c.codes, o.side ++ [r.1], o.sats + c.sats⟩) ⟨[], [], 0⟩
  if d.radioClass then
    if d.outFmt = 5 then conv (fun v => intOut 16 0 v (g + 15)) vs
    else
      let b := bfpBits d.outFmt
      blocks (if fmtGroup d.fmtW = 3 then 24 else 16)
        (fun l => let e := bfpExp b g l; (e, fun v => intOut b 0 v (g + 15 - (e : Int))))
  else if fmtMx d.outFmt then
    blocks 32 (fun l => let x := mxScale d.outFmt g l; ((x + 127).toNat, fun v => inferenceOut d.outFmt v (g - x)))
  else conv (fun v => inferenceOut d.outFmt v g) vs

/-- Pack codes of `b` bits into one little-endian number (R150). -/
def packBits (b : Nat) : List Nat → Nat
  | [] => 0
  | c :: r => c % 2 ^ b + 2 ^ b * packBits b r

/-- Output order of FINAL elements (R164): in group D real and imaginary parts alternate. -/
def outOrder (d : PassDesc) (vals : List Int) : List Int :=
  if fmtGroup d.fmtW = 3 then
    (List.range d.n).foldr (fun i acc => vals.getD i 0 :: vals.getD (d.n + i) 0 :: acc) []
  else vals

end Sys2Proof.Machine
end

