-- ==== Sys2Proof/Config.lean ====
section
/-! DEFINITION. Config: what the spec leaves to the implementation, the operator's configuration memory or chance.
Every constant below is opaque: no proof can see a value of it. -/

namespace Sys2Proof.Config

/-- Free values, one for each count of the model's own counter: a value the spec leaves open (an undefined
result, an unpredictable outcome) is this function applied to the counter of the state, which the step advances.
Log entry 1. -/
opaque freeNat : Nat → Nat

/-! Function fields of vector operations: 06 and 07 say that a field FUNC chooses, and give no code. The coding is the
implementation's (log entry 5). -/

/-- The operation of VLOG that a FUNC code chooses, modulo 4: 0 AND, 1 OR, 2 XOR, 3 AND-NOT. -/
opaque vlogFunc : Nat → Nat

/-- The shift of VSH that a FUNC code chooses, modulo 3: 0 left, 1 logical right, 2 arithmetic right. -/
opaque vshFunc : Nat → Nat

/-- Does a FUNC code of VOP 0x14 choose FMAX (else FMIN)? -/
opaque fmaxFunc : Nat → Bool

/-- The conversion of FCVT that a FUNC code chooses, modulo 6: 0 FP32 to INT32, 1 INT32 to FP32, 2 FP32 to BF16,
3 BF16 to FP32, 4 FP32 to FP16, 5 FP16 to FP32. -/
opaque fcvtFunc : Nat → Nat

/-- Does a FUNC code of VSINIT choose a maximum search (else a minimum search)? -/
opaque vsinitFunc : Nat → Bool

/-- The mantissa width M that a FUNC code of VBEXP or VBFP chooses, modulo 5: 8, 9, 12, 14, 16. -/
opaque bfpFunc : Nat → Nat

/-- Do the register fields A and B of VRMAX or VRMIN name SV and SI (else V registers A and B)? R193 says that the
value and index registers are normally SV and SI, and Table 7.3 gives no register number for them. -/
opaque searchPair : Nat → Nat → Bool

/-- What VBCAST broadcasts, by its fields B, C, IMM and IMM16: a lane of A, or none for a scalar from the control
core. Table 6.3 names both and gives no coding. -/
opaque vbcastLane : Nat → Nat → Bool → Nat → Option Nat

/-- The scalar that a control core supplies to VBCAST, by Spire and by the model's counter: no rule says where the
control core holds it. -/
opaque vbcastScalar : Nat → Nat → Nat

/-! Store clashes with the array: R603 states no CCLK for its stream reads and writes (log entry 13). -/

/-- Does an access of the vector unit or of the array's load meet, in its CCLK, a stream access of the array that may name
the same bank? By the model's counter and the bank. -/
opaque streamClash : Nat → Nat → Bool

/-- Is a stream read or a write of the array lost to a crossbar beat that named its bank within the bounds of R603? By the
model's counter and the word's address. -/
opaque beatClash : Nat → Nat → Bool

/-- The Tower whose Belfry port a block code of BELFRY_PLAN names, if any: no table gives the codes (log entry 14). -/
opaque belfryBlockTower : Nat → Option Nat

/-- Where in the radio buffers the samples of a PRB lie, by cell, stream, slot, symbol and PRB: no rule places them. -/
opaque sampleAddr : Nat → Nat → Nat → Nat → Nat → Nat

/-- The message and error codes of an ERROR.indication: for an empty slot (0), for a lost one (1). No rule states them. -/
opaque errorCodes : Nat → Nat

/-- Where in the radio buffers the gain index of a symbol lies (R322), by cell, stream, slot and symbol. -/
opaque gainAddr : Nat → Nat → Nat → Nat → Nat

/-- What a byte of an abandoned pass's pending range holds (R145), by the model's counter and the byte's address. -/
opaque freeByte : Nat → Nat → Nat

/-- The averaged increment that the Dome's servo holds in HOLDOVER (R67), by the model's counter: the servo's law is firmware's. -/
opaque averagedIncr : Nat → Nat

/-- SHA-512 of a byte string. The function is the standard's; the model computes no value of it. -/
opaque sha512 : List (BitVec 8) → Nat

/-- The RSASSA-PSS signature (SHA-512, exponent 65,537) of a byte string under the key with this modulus and with this salt.
The function is the standard's; the model computes no value of it. -/
opaque pssSignature : List (BitVec 8) → List (BitVec 8) → List (BitVec 8) → Nat

/-- The bytes of the modulus of the vendor's key. -/
opaque vendorByte : Nat → BitVec 8

/-- The modulus of the vendor's key, whose SHA-512 is fixed in ROM (R544): 512 bytes. -/
def vendorModulus : List (BitVec 8) := (List.range 512).map vendorByte

/-- SHA-512 of the public key of the device certificate, which IDENTITY holds since manufacture (R558). -/
opaque deviceKeyDigest : Nat

/-- The flash packages that the card's vendor has fitted (R286, R289; log entry 7): packages of a channel, blocks of a channel, pages of
a block, and the blocks with a factory mark. -/
opaque flashPackages : Nat
opaque flashBlocks : Nat
opaque flashPages : Nat
opaque flashMarks : List Nat

/-- SHA-512 of the ROM (Table 16.7). -/
opaque romDigest : Nat

/-- SHA-512 of a Pavane image, by its PAVANE_ID and its period (Table 16.7, block 7): the model holds no bytes of it. -/
opaque pavaneDigest : Nat → Nat

/-- CRC-64 of a digest (R512) after `bytes` more bytes of this little-endian value. No rule gives its polynomial. -/
opaque crc64 : BitVec 64 → Nat → Nat → BitVec 64

end Sys2Proof.Config
end

