-- ==== Sys2Proof/Machine/RegMap.lean ====
section
/-! DEFINITION. The offsets of BAR0 at which the spec lists a register (R4, R8, R9, R32, R33 and the register tables of every
chapter). Any other offset is unimplemented. -/

namespace Sys2Proof.Machine

open Sys2Proof

/-- Number `i` of an array of registers with this base, stride and count, with the offset inside it. -/
def regIndex (o base stride count : Nat) : Option (Nat × Nat) :=
  if base ≤ o ∧ o < base + stride * count then some ((o - base) / stride, (o - base) % stride) else none

/-- Is an offset inside an array of registers, at one of these offsets of its element? -/
def inArray (o base stride count : Nat) (l : List Nat) : Bool :=
  match regIndex o base stride count with
  | some (_, r) => l.contains r
  | none => false

/-- Is an offset one of a run of `count` registers? -/
def inRun (o base count : Nat) : Bool := decide (base ≤ o ∧ o < base + 4 * count)

/-- Offsets of an array element that has registers at 0, 4, … below `top`. -/
def words (top : Nat) : List Nat := (List.range (top / 4)).map (4 * ·)

/-- The time unit (R70 to R72, R81, R83). -/
def timeListed (o : Nat) : Bool :=
  inRun o 0 6 || inRun o 0x20 3 || inRun o 0x30 5 || o == 0x50 || inRun o 0x100 256 || inArray o 0x800 0x20 8 (words 0x18)

/-- Clocks, reset and power (R39, R48 to R50, R95, R586). -/
def clockListed (o : Nat) : Bool :=
  [0x00, 0x04, 0x10, 0x40, 0x100, 0x104, 0x10C, 0x110, 0x114, 0x118, 0x11C].contains o
  || inRun o 0x20 4 || inRun o 0x200 32 || inRun o 0x8000 8192

/-- Offsets of a programmable counter (R115). -/
def counterWords : List Nat := [0x00, 0x04, 0x08, 0x10, 0x14]

/-- The counters block (R114). -/
def counterListed (o : Nat) : Bool :=
  inRun o 0 7 || o == 0x78 || inRun o 0x40 14 || inRun o 0x80 14 || inArray o 0x200 0x20 16 counterWords

/-- The mailboxes block (Table 14.8). -/
def mailboxListed (o : Nat) : Bool :=
  inRun o 0 64 || inArray o 0x1000 0x20 64 (words 0x10) || inArray o 0x3000 0x40 8 (words 0x2C) || inRun o 0x3200 5
  || inRun o 0x8000 128 || [0x100, 0x1800, 0x1804, 0x2000, 0x2004, 0x3400, 0x9000].contains o

/-- The dispatcher's blocks (R464). -/
def dispatcherListed (o : Nat) : Bool :=
  inRun o 0 5 || inRun o 0x20 6 || inArray o 0x10000 0x10 4096 [0, 4] || inRun o 0x20010 (4 * 4095)

/-- The tier engine (R295). -/
def tierListed (o : Nat) : Bool := o == 0 || inRun o 0x100 48 || inRun o 0x8010 (4 * 4095)

/-- The traffic manager (R399). -/
def trafficListed (o : Nat) : Bool :=
  inRun o 0 4 || (inArray o 0x1000 0x20 1024 (words 0x1C) && decide ((o - 0x1000) % 0x200 < 0x100))
  || inRun o 0x10020 (8 * 4095) || inRun o 0x30000 16384
  || (match regIndex o 0x40000 0x1000 16 with
      | some (_, r) => inRun r 0 2 || inRun r 0x100 512
      | none => false)

/-- Remote memory (R433). -/
def remoteListed (o : Nat) : Bool := inRun o 0 5 || inRun o 0x20 7 || inRun o 0x1000 8192

/-- The radio block (R340). -/
def radioListed (o : Nat) : Bool :=
  o == 0 || inRun o 0x10 6 || o == 0x40 || inRun o 0x44 4 || inRun o 0x100 128 || inArray o 0x4000 0x40 384 (words 0x14)

/-- The reliability block (R535). -/
def relListed (o : Nat) : Bool :=
  inRun o 0 6 || inRun o 0x20 13 || inRun o 0x100 32 || inRun o 0x200 7 || inRun o 0x1000 256 || inRun o 0x2000 64
  || inRun o 0x3000 64 || inRun o 0x8000 8192 || inRun o 0x10000 16384
  || [0x2100, 0x2104, 0x3100, 0x4000, 0x5000, 0x5004].contains o

/-- The Dome window (R564). -/
def domeListed (o : Nat) : Bool :=
  inRun o 0 9 || inRun o 0x30 2 || inRun o 0x100 5 || inRun o 0x800 2 || inRun o 0x1000 96 || inRun o 0x1200 48 || o == 0x1300

/-- A Spire's registers (R115, R147, R208, R240), from the Spire base. -/
def spireListed (o : Nat) : Bool :=
  inRun o 0 7 || inRun o 0x20 5 || inRun o 0x10000 5 || inRun o 0x20000 8 || o == 0x30000 || inRun o 0x30100 8
  || inRun o 0x40000 4 || inArray o 0x40100 0x20 8 counterWords

/-- A Tower's own registers (R295, R586), from the Tower base. -/
def towerListed (o : Nat) : Bool :=
  inRun o 0 2 || inArray o 0x18000 0x20 8 (words 0x10) || inArray o 0x20000 0x10000 6 (words 0x10)

/-- Where an offset of BAR0 lies in a Tower: the Tower, and a local Spire with its offset, or the Tower's own registers. -/
def towerOf (off : Nat) : Option (Nat × Option Nat × Nat) :=
  if 0x01000000 ≤ off ∧ off < 0x05000000 then
    let t := off / 0x01000000 - 1
    let o := off % 0x01000000
    let j := o / 0x00100000
    if j = 0 then some (t, none, o) else if j ≤ 8 then some (t, some (8 * t + j - 1), o % 0x00100000) else none
  else none

/-- Is a register listed at an offset of BAR0? -/
def listed (off : Nat) : Bool :=
  decide (off % 4 = 0) &&
    (match towerOf off with
     | some (_, some _, o) => spireListed o
     | some (_, none, o) => towerListed o
     | none =>
       if off < 0x10000 then inRun off 0 3
       else if off < 0x20000 then timeListed (off - 0x10000)
       else if off < 0x30000 then clockListed (off - 0x20000)
       else if off < 0x40000 then counterListed (off - 0x30000)
       else if off < 0x50000 then mailboxListed (off - 0x40000)
       else if off < 0x80000 then dispatcherListed (off - 0x50000)
       else if off < 0x100000 then tierListed (off - 0x80000)
       else if off < 0x140000 then inRun (off % 0x1000) 0 13
       else if off < 0x200000 then inRun (off - 0x140000) 0 14
       else if off < 0x280000 then trafficListed (off - 0x200000)
       else if off < 0x300000 then remoteListed (off - 0x280000)
       else if off < 0x380000 then radioListed (off - 0x300000)
       else if off < 0x3C0000 then inRun (off - 0x380000) 0 5
       else if off < 0x3E0000 then relListed (off - 0x3C0000)
       else if off < 0x400000 then domeListed (off - 0x3E0000)
       else false)

/-- May a host argument error change the register at an offset (R480)? Not those through which a free value could reach another
lease's data, the radio partition or an owned slot, the Dome or the bindings, a pin or the power: the time unit, the clocks and
power, the bindings, the lanes and the fabric, remote memory, the radio, FENCE_AT and the test windows, the Dome window. -/
def boundedAccess (off : Nat) : Bool :=
  (towerOf off).isSome
  || decide (0x30000 ≤ off ∧ off < 0x40000) || decide (0x41000 ≤ off ∧ off < 0x100000)
  || decide (0x200000 ≤ off ∧ off < 0x280000) || decide (0x3C0020 ≤ off ∧ off < 0x3E0000)

/-- The power domain that the block of an offset lies in, if it can be gated (R35, R569, Table 17.2). -/
def domainOf (off : Nat) : List Nat :=
  match towerOf off with
  | some (_, some k, _) => [k / 2]
  | some (t, none, _) => [16 + t]
  | none =>
    if 0x100000 ≤ off ∧ off < 0x120000 then [20]
    else if 0x120000 ≤ off ∧ off < 0x140000 then [21]
    else if off = 0x280010 then [27]
    else if 0x300000 ≤ off ∧ off < 0x380000 then [23, 24]
    else if 0x380000 ≤ off ∧ off < 0x3C0000 then [26]
    else []

end Sys2Proof.Machine
end

