-- ==== Sys2Proof/Machine/StateOut.lean ====
section
/-! DEFINITION. What the package sends out of itself. The model keeps a log of it, newest first; no rule of the spec
reads that log back. -/

namespace Sys2Proof.Machine

/-- Messages to the board management controller over MCTP (R530, R538, R570). -/
inductive Mctp where
  | heartbeat
  | entering (mode : PowerMode)
  | error (rec_ : ErrRec)
  deriving DecidableEq, Repr

/-- SPDM responses (R553); values that depend on keys and random numbers stay outside the model. -/
inductive SpdmReply where
  | version | capabilities | algorithms | digests | certificate | challengeAuth
  | measurements (digests versions bytes : List Nat)
  | keyExchange (session : Nat) | finish | heartbeatAck | keyUpdateAck | endSessionAck | vendorDefined
  | errorUnspecified | errorSessionLimit | errorUnexpected | errorInvalidSession | errorUnsupported
  deriving DecidableEq, Repr

/-- One thing sent out of the package. -/
inductive Out where
  /-- Bytes written to host memory by a function (0 the host, n lease n). -/
  | hostWrite (func addr : Nat) (data : List Byte)
  /-- Bytes written to a buffer of the Dome. -/
  | domeWrite (addr : Nat) (data : List Byte)
  /-- An MSI-X vector of a function. -/
  | msix (func vector : Nat)
  /-- Data of a CXL.mem read, with poison. -/
  | cxlData (tag : Nat) (data : List Byte) (poison : Bool)
  /-- A CXL.mem write is done, or dropped. -/
  | cxlAck (tag : Nat) (dropped : Bool)
  /-- A reply of the CXL primary mailbox: return code and payload words. -/
  | cxlMailbox (code : Nat) (payload : List Nat)
  /-- A TDISP response for a lease: error, or the value. -/
  | tdisp (lease : Nat) (ok : Bool) (value : List Nat)
  /-- An SPDM response. -/
  | spdm (reply : SpdmReply)
  /-- An MCTP message to the board management controller. -/
  | mctp (m : Mctp)
  /-- An error record on the management network. -/
  | mgmt (rec_ : ErrRec)
  /-- A request on the AVSBus. -/
  | avs (rail : Nat) (ask : AvsAsk)
  /-- A Step frame of a lane: Step, period, the bytes of its marker, and the cell (none for an idle Step). -/
  | frame (lane step period : Nat) (marker : List Byte) (cell : Option Cell)
  /-- A mailbox message of the Dome on a channel. -/
  | mailbox (channel : Nat) (words : List Nat)
  /-- The completion of a command that the Dome issued: opcode, status, RESULT0, RESULT1. -/
  | domeReply (opcode status r0 r1 : Nat)
  /-- The ROM reports a failed Minuet over I3C (R44). -/
  | romFailure
  /-- A request is refused with a status before any command is made of it: one with an unassigned MID (R12). -/
  | denied (mid status : Nat)
  /-- A JTAG instruction ran. -/
  | jtag (code : Nat)
  deriving DecidableEq, Repr

end Sys2Proof.Machine
end

