-- ==== Sys2Proof/Machine/StateSpire.lean ====
section
/-! DEFINITION. State of one Spire: vector unit (06), sequencers and control core (07), Spire store and crossbar port
(08), Spire counters (03). -/

namespace Sys2Proof.Machine

/-! ### Vector unit -/

/-- One repeat level: START, END and COUNT with ACTIVE (Table 6.6). -/
structure RepLevel where
  start  : BitVec 25
  last   : BitVec 25
  count  : BitVec 16
  active : Bool
  deriving DecidableEq, Repr

/-- One address generator (R188, Table 6.6). -/
structure AddrGen where
  base   : BitVec 25
  len    : BitVec 26
  stride : BitVec 26
  offset : BitVec 25
  deriving DecidableEq, Repr

/-- One bank of vector state (R171, Table 6.1). -/
structure Bank where
  v      : Tab (BitVec 2048)
  sv     : BitVec 2048
  si     : BitVec 2048
  sc     : BitVec 26
  levels : Tab RepLevel
  ags    : Tab AddrGen
  deriving DecidableEq, Repr

/-- Where a vector operation's result goes. -/
inductive VDest where
  | nowhere
  | reg (n : Nat)
  | pair (n : Nat)
  | search
  deriving DecidableEq, Repr

/-- What kind of operation is in flight: arithmetic, a load or gather, or a store. -/
inductive VKind where
  | arith
  | load (addr : Nat)
  | gather (base : Nat) (offsets : BitVec 2048)
  | store (addr : Nat)
  deriving DecidableEq, Repr

/-- A vector operation in flight (R175): its bank, its kind, the CCLK of its issue and of its result, the destination
and the values it will write. `groups` counts the store accesses already made (the groups of a gather; 1 for a load or a
store that has reached the store); `gen` says that a generator formed its address; `pc` is the index
of its bundle. -/
structure VFlight where
  inS    : Bool
  vop    : Nat
  kind   : VKind
  issue  : Nat
  land   : Nat
  dest   : VDest
  value  : BitVec 2048
  value1 : BitVec 2048
  sc     : BitVec 26
  sticky : BitVec 6
  groups : Nat
  gen    : Bool
  poisoned : Bool
  pc     : Nat
  deriving DecidableEq, Repr

/-- Why a bank drains (R199 to R203, R224, R218, R230). -/
inductive DrainReason where
  | interrupt | toShadow | toMain | stopPower | progFault | disagree | ending | residue
  deriving DecidableEq, Repr

/-- A drain or a bank switch in progress, with the CCLK that follows its last one (Table 6.5). -/
inductive VuPhase where
  | steady
  | draining (until_ : Nat) (why : DrainReason)
  | switching (until_ : Nat) (toS : Bool)
  deriving DecidableEq, Repr

/-- VU_RESIDUE_INFO (06). -/
structure ResidueInfo where
  valid : Bool
  unit  : BitVec 3
  lane  : BitVec 6
  vop   : Byte
  inS   : Bool
  deriving DecidableEq, Repr

/-- The vector unit (R171, R208, R209). -/
structure VuState where
  bankM   : Bank
  bankS   : Bank
  inS     : Bool
  phase   : VuPhase
  stopped : Bool
  stickyM : BitVec 6
  stickyS : BitVec 6
  residue : ResidueInfo
  residueCycle : Word
  flights : List VFlight
  deriving DecidableEq, Repr

/-! ### Sequencers -/

/-- Spire states (Table 7.8). -/
inductive SpireMode where
  | off | idle | loading | armed | running | stopped | replay | ending | wiping | faulted | fenced
  deriving DecidableEq, Repr

/-- A hold of the issuing bank (R212, R451, R510): WREL, WFLAG, WPLAN, END, or an ISSUE that the dispatcher defers or
that waits for a verdict. -/
inductive Hold where
  | wrel
  | wflag (flag : Nat) (sense : Bool)
  | wplan (pcclk : Nat)
  | endCtx (code : Nat)
  | issue (desc : Nat)
  deriving DecidableEq, Repr

/-- What a decision on an ISSUE looks at in the array: the ranges that its started passes read, and whether a descriptor is
queued (R129, R130, R221). -/
structure ArrView where
  reads  : List (Nat × Nat)
  queued : Bool
  deriving DecidableEq, Repr

/-- An ISSUE between its issue CCLK and its acceptance decision (R219): descriptor address, issue CCLK, whether it is a
replayed entry, whether it came from BANK_S, and its bundle index; `word` holds the 64 bytes of the descriptor as read in
c + 1 and whether one of their words was poisoned; `asAt` the array as it stood at a stop or a disagreement that has taken
effect since, against which the ISSUE is then decided (R139, R234). -/
structure IssueCheck where
  desc   : Nat
  at_    : Nat
  replay : Bool
  inS    : Bool
  pc     : Nat
  word   : Option (Nat × Bool)
  asAt   : Option ArrView
  deriving DecidableEq, Repr

/-- SEQ_FAULT (07). -/
structure FaultRec where
  valid  : Bool
  inS    : Bool
  cause  : BitVec 6
  thread : BitVec 3
  pc     : BitVec 20
  deriving DecidableEq, Repr

/-- The work that a Spire's context belongs to: none, an inference job, or a radio program (R198). -/
inductive Context where
  | none
  | job (id : Nat)
  | radio
  deriving DecidableEq, Repr

/-- The two sequencers and program control (R230 to R241). `nextIssue` is the earliest CCLK of the next bundle of the bank
in use; `hold` is the hold of BANK_M, `holdS` of BANK_S; `resume` is the resume bundle while a handler or a stop is in force; `fromArmed` says that STOPPED was entered
from ARMED; `startSet` that START has been given, for the plan CCLK `startAt` counted in periods of 850,000; `sStopped`
that BANK_S stopped on a fault; `reclaim` that the Spire is reclaimed; `window` that a window is in force, up to plan CCLK
`windowEnd` counted so, `windowTest` that it is the test window, `windowOver` that its work is over; `irq` that an
interrupt is pending; `fencing` that a wipe goes on although the Spire is FENCED. `replay` holds the entries that have not
been issued again; those that have stand in `issues`, in the queue or in the array until their release. A change of a flag in CCLK `flagsAt` stands in `flagsNext` and is visible from the next CCLK (R228). -/
structure SeqState where
  mode       : SpireMode
  stopReclaim : Bool
  stopPower  : Bool
  hold       : Option Hold
  holdS      : Option Hold
  inHandler  : Bool
  replay     : List Nat
  stoppedFault : Bool
  pc         : BitVec 20
  pcS        : BitVec 20
  nextIssue  : Nat
  status     : Byte
  startCclk  : BitVec 20
  ivec       : BitVec 20
  fault      : FaultRec
  faultCycle : Word
  flags      : BitVec 16
  flagsNext  : BitVec 16
  flagsAt    : Nat
  passes     : BitVec 16
  stops      : BitVec 16
  irq        : Bool
  resume     : BitVec 20
  fromArmed  : Bool
  startSet   : Bool
  startAt    : Nat
  sStopped   : Bool
  reclaim    : Bool
  window     : Bool
  windowEnd  : Nat
  windowTest : Bool
  windowOver : Bool
  fencing    : Bool
  issues     : List IssueCheck
  starts     : BitVec 8
  wipeLeft   : Nat
  deriving DecidableEq, Repr

/-! ### Control core -/

/-- Thread states (CC_STATUS). -/
inductive ThreadMode where
  | halted | ready | running | waiting
  deriving DecidableEq, Repr

/-- What a waiting thread waits for (R227): a remote reply; the acceptance of a store from CCLK `due` on, with its status
for `rd` (R403); a fence; a state-path access; a flag. -/
inductive ThreadWait where
  | nothing
  | remote (rd : Nat)
  | store (rd due status : Nat)
  | fence (rd : Nat)
  | path
  | flag (n : Nat) (value : Bool)
  deriving DecidableEq, Repr

/-- One hardware thread of the control core (R226): pc, x1 to x31, its load reservation. -/
structure Thread where
  mode : ThreadMode
  wait : ThreadWait
  pc   : DWord
  x    : Tab DWord
  resv : Option Nat
  deriving DecidableEq, Repr

/-- A state-path access (R204): thread, write or read, word index, value, destination register, the CCLK of its issue and
the CCLK that follows its last one, once it has started. -/
structure PathAccess where
  thread : Nat
  write  : Bool
  index  : Nat
  value  : DWord
  rd     : Nat
  at_    : Nat
  due    : Option Nat
  deriving DecidableEq, Repr

/-- The control core (R226, R227): thread n of CC_STATUS and CC_PC_n, the thread that issued last, the CCLK of the next
issue at the earliest, accesses of the state path in their order. -/
structure CcState where
  threads : Tab Thread
  running : BitVec 3
  nextAt  : Nat
  paths   : List PathAccess
  deriving DecidableEq, Repr

/-! ### Crossbar port, counters -/

/-- An accepted crossbar transfer (R271). `next` counts beats started; `lastAt` is the CCLK in which its last beat is
visible or returns to a read (Table 8.2), once known; `pc` is the index of the bundle that requested it. -/
structure Xfer where
  isGet     : Bool
  tile      : Nat
  first     : Nat
  beats     : Nat
  next      : Nat
  storeAddr : Nat
  stack     : Nat
  place     : Nat
  flagEn    : Bool
  flag      : Nat
  inS       : Bool
  from_     : Nat
  lastAt    : Nat
  pc        : Nat
  deriving DecidableEq, Repr

/-- One transfer stream of a Spire port: its active and its queued transfer (R271, R275). -/
structure Stream where
  active : Option Xfer
  queued : Option Xfer
  deriving DecidableEq, Repr

/-- An XF that has issued in CCLK `at_` and waits for its decision at c + 64 (R269): the descriptor's address, and its 32
bytes as read in c + 1, with their poison. -/
structure XfReq where
  isGet  : Bool
  stream : Nat
  addr   : Nat
  pc     : Nat
  desc   : Option Nat
  poisoned : Bool
  at_    : Nat
  inS    : Bool
  deriving DecidableEq, Repr

/-- A beat on its way between a store and HBM (Table 8.2): its stream, its place of HBM and the beat of the tile, the store
address, the CCLK of what it does next (the HBM write of a PUT, the store write of a GET), its 1,024 bytes and their
poison. -/
structure Beat where
  stream : Nat
  stack  : Nat
  place  : Nat
  beat   : Nat
  addr   : Nat
  due    : Nat
  data   : List (BitVec 8)
  poison : BitVec 32
  isLast : Bool
  inS    : Bool
  pc     : Nat
  deriving DecidableEq, Repr

/-- Who wrote a word of a store: the crossbar port, the array, a VST, or a requester that Table 8.1 gives no precedence. -/
inductive Writer where
  | crossbar | array | vs | other
  deriving DecidableEq, Repr

/-- What undoes a store access that a bundle fetch of the same CCLK and bank takes the bank from (R247): the word that a
write replaced, with its poison; part `part` of tile row `row`, or side word `row`, of the load; word `word` of the read of
the vector operation issued in CCLK `issue`; the word of the PUT beat of `stream` whose HBM access comes in CCLK `due`, at
byte `dest` of stack `stack`. -/
inductive Undo where
  | write (addr : Nat) (old : BitVec 256) (poison : Bool) (by_ : Writer)
  | row (row part : Nat)
  | side (row : Nat)
  | vl (issue word : Nat)
  | put (stream stack due word dest : Nat)
  deriving DecidableEq, Repr

/-- A store access of the last three CCLK: its CCLK, its bank and what undoes it. A bundle's bytes are those of its fetch, three
CCLK before its issue, so that every write of the last three CCLK is kept here (R215). -/
structure Recent where
  at_  : Nat
  bank : Nat
  undo : Undo
  deriving DecidableEq, Repr

/-- Crossbar port registers and transfers of one Spire (XB_STORE_k, XB_CLASH_k, XF_STATUS_k; `clashAt` is the whole CCLK count of
the recorded clash), with the PUT beats read
from the store and not yet in HBM, and the GET beats read from HBM and not yet in the store. -/
structure XbState where
  jobLimit   : BitVec 6
  clash      : BitVec 6
  clashBank  : BitVec 6
  clashCycle : Word
  clashAt    : Nat
  clashValid : Bool
  lastRefusal : Byte
  refused    : Bool
  streams    : Tab Stream
  requests   : List XfReq
  puts       : List Beat
  gets       : List Beat
  deriving DecidableEq, Repr

/-- One programmable counter of a Spire (R103, R107). -/
structure Pmc where
  count  : BitVec 48
  snap   : BitVec 48
  enable : Bool
  ovf    : Bool
  ovfIrq : Bool
  event  : BitVec 16
  deriving DecidableEq, Repr

/-- A Spire's counters (R103, R115). `frozen` holds SPC_CYCLE as at the moment of fencing (R34). -/
structure SpireCounters where
  pmc       : Tab Pmc
  snapCycle : DWord
  frozen    : Option Nat
  deriving DecidableEq, Repr

/-- One Spire. -/
structure Spire where
  ctx   : Context
  arr   : ArrState
  vu    : VuState
  seq   : SeqState
  cc    : CcState
  xb    : XbState
  cnt   : SpireCounters
  recent : List Recent
  store : Mem
  deriving DecidableEq, Repr

def RepLevel.reset : RepLevel := ⟨0, 0, 0, false⟩

def AddrGen.reset : AddrGen := ⟨0, 0, 0, 0⟩

/-- A bank of zeros: what the wipe leaves (R209), and the choice at reset (log entry 6). -/
def Bank.reset : Bank := ⟨Tab.empty, 0, 0, 0, Tab.empty, Tab.empty⟩

def ResidueInfo.reset : ResidueInfo := ⟨false, 0, 0, 0, false⟩

def VuState.reset : VuState where
  bankM := Bank.reset
  bankS := Bank.reset
  inS := false
  phase := .steady
  stopped := false
  stickyM := 0
  stickyS := 0
  residue := ResidueInfo.reset
  residueCycle := 0
  flights := []

def FaultRec.reset : FaultRec := ⟨false, false, 0, 0, 0⟩

def SeqState.reset : SeqState where
  mode := .idle
  stopReclaim := false
  stopPower := false
  hold := none
  holdS := none
  inHandler := false
  replay := []
  stoppedFault := false
  pc := 0
  pcS := 0
  nextIssue := 0
  status := 0
  startCclk := 0
  ivec := 0
  fault := FaultRec.reset
  faultCycle := 0
  flags := 0
  flagsNext := 0
  flagsAt := 0
  passes := 0
  stops := 0
  irq := false
  resume := 0
  fromArmed := false
  startSet := false
  startAt := 0
  sStopped := false
  reclaim := false
  window := false
  windowEnd := 0
  windowTest := false
  windowOver := false
  fencing := false
  issues := []
  starts := 0
  wipeLeft := 0

/-- A halted thread with zero registers (log entry 6). -/
def Thread.reset : Thread := ⟨.halted, .nothing, 0, Tab.empty, none⟩

def CcState.reset : CcState := ⟨Tab.empty, 0, 0, []⟩

def Stream.reset : Stream := ⟨none, none⟩

def XbState.reset : XbState where
  jobLimit := 0x20
  clash := 0
  clashBank := 0
  clashCycle := 0
  clashAt := 0
  clashValid := false
  lastRefusal := 0
  refused := false
  streams := Tab.empty
  requests := []
  puts := []
  gets := []

def Pmc.reset : Pmc := ⟨0, 0, false, false, false, 0⟩

def SpireCounters.reset : SpireCounters := ⟨Tab.empty, 0, none⟩

/-- A Spire at chip reset: IDLE, registers at their reset values, the store wiped (R244). -/
def Spire.reset : Spire where
  ctx := .none
  arr := ArrState.reset
  vu := VuState.reset
  seq := SeqState.reset
  cc := CcState.reset
  xb := XbState.reset
  cnt := SpireCounters.reset
  recent := []
  store := Mem.empty

end Sys2Proof.Machine
end

