-- ==== Sys2Proof/Machine/StateTraffic.lean ====
section
/-! DEFINITION. State of the traffic manager (11) and of the remote-memory engine and gateway (12). -/

namespace Sys2Proof.Machine

/-! ### Traffic manager -/

/-- A queued best-effort cell: its cell and the hall time of its admission in units of 2^-32 ns (R396). -/
structure BeCell where
  cell : Cell
  at_  : Nat
  deriving DecidableEq, Repr

/-- One best-effort queue of a lane (R385 to R391). The registers hold what was last written; `shapeOn`, `rateNow` and
`burstNow` are what is in force since the last refill (R391). `tokens` is in units of 1/256 byte. `finish` is the
finish tag of the head cell (R388). -/
structure BeQueue where
  shapeEn  : Bool
  weight   : Byte
  yLimit   : BitVec 12
  qLimit   : BitVec 12
  rate     : BitVec 24
  burst    : BitVec 24
  shapeOn  : Bool
  rateNow  : BitVec 24
  burstNow : BitVec 24
  tokens   : Int
  cells    : List BeCell
  finish   : DWord
  sent     : Word
  drops    : Word
  deriving DecidableEq, Repr

/-- The lease policer's meter of one lease (R392, R399), registers as written and values in force. -/
structure Meter where
  mode    : BitVec 3
  qmask   : Byte
  cir     : BitVec 24
  cbs     : BitVec 24
  pir     : BitVec 24
  pbs     : BitVec 24
  modeNow : BitVec 3
  cirNow  : BitVec 24
  cbsNow  : BitVec 24
  pirNow  : BitVec 24
  pbsNow  : BitVec 24
  tc      : Nat
  tp      : Nat
  green   : Word
  yellow  : Word
  red     : Word
  deriving DecidableEq, Repr

/-- One slot of the sample ring (R396): entries by lane × 8 + queue. -/
structure SampleSlot where
  period  : Word
  seq     : Word
  entries : Tab Word
  deriving DecidableEq, Repr

/-- The traffic manager (R380 to R399). `queues` is indexed by lane × 8 + queue, `vtime` by lane, `routes` by DST_CHIP;
`picked` holds, by lane, the cells that decisions chose, each with its Step counted as period number × 8,000 + Step (R389),
and `decided` one more than the last Step decided; `lastRefill` is the microsecond of the last refill. -/
structure BeState where
  rxDrops  : Word
  noRoute  : Word
  hopDrops : Word
  queues   : Tab BeQueue
  vtime    : Tab DWord
  meters   : Tab Meter
  routes   : Tab Byte
  samples  : Tab SampleSlot
  sampleSeq : Word
  picked   : Tab (List (Nat × Cell))
  decided  : Tab Nat
  transit  : List HeldCell
  lastRefill : Nat
  deriving DecidableEq, Repr

/-! ### Remote memory -/

/-- Who issued a remote request: a control-core thread, the host by a queue entry, or a staging line. -/
inductive RmOwner where
  | thread (spire thread rd : Nat)
  | host (issuer : Issuer)
  | line (n : Nat)
  deriving DecidableEq, Repr

/-- A remote request (R404, R405, R417). `uid` numbers requests in issue order; `queued` says that it waits to be sent, and has
no TAG yet; `op` is its OP code, 16 for a fence sent to a gateway (R429); `sent` is the hall time (2^-32 ns) of its first
transmission, `lastTx` of its latest, `tries` its timed retransmissions so far; `reply` its final status and data once it
has come; `ackDue` says that its acknowledgement is still to be sent; `dropped` that its issuing job has ended. -/
structure RmRequest where
  uid     : Nat
  queued  : Bool
  ctx     : Nat
  tag     : Nat
  gen     : Nat
  op      : Nat
  addr    : DWord
  operand : DWord
  swap    : DWord
  lease   : Nat
  job     : Nat
  owner   : RmOwner
  dst     : Nat
  sent    : Option Nat
  lastTx  : Nat
  tries   : Nat
  reply   : Option (Nat × DWord)
  ackDue  : Bool
  dropped : Bool
  deriving DecidableEq, Repr

/-- Use of a tag of a context: the generation last used, the hall time of its last transmission, and whether it may not be
reused yet because its reply or its acknowledgement is open (R421). -/
structure TagUse where
  gen  : Nat
  last : Nat
  used : Bool
  deriving DecidableEq, Repr

/-- A fence in progress (R424, R425): who waits, the `uid` at its issue, the writes it still waits for, and the outcomes
other than ST_OK so far, by request. -/
structure RmFence where
  ctx    : Nat
  owner  : RmOwner
  uid    : Nat
  waits  : List Nat
  bad    : List (Nat × Nat)
  deriving DecidableEq, Repr

/-- A record and its fields (Table 12.3), with the chips it goes between. KIND 4 is a store line of a gateway (R431).
`ready` is the hall time from which it may leave, or at which it began to wait, or, at the target, the order in which it is
taken: its Step and lane (R411); `full` says that the engine's queue was full when it arrived (Table 12.4, row 8); `mid` is the
word that an atomic's read slot has read, until its write slot comes. -/
structure RmRecord where
  kind    : Nat
  op      : Nat
  gen     : Nat
  tag     : Nat
  origin  : Nat
  flag    : Bool
  lease   : Nat
  status  : Nat
  ctx     : Nat
  addr    : DWord
  operand : DWord
  swap    : DWord
  src     : Nat
  dst     : Nat
  ready   : Nat
  full    : Bool
  mid     : Option DWord
  deriving DecidableEq, Repr

/-- A replay record (R412). -/
structure ReplayRec where
  src    : Nat
  ctx    : Nat
  tag    : Nat
  gen    : Nat
  status : Nat
  data   : DWord
  atomic : Bool
  last   : Nat
  deriving DecidableEq, Repr

/-- A staging line of the gateway (R427, R428): the source context, the far chip and the aligned block, the bytes and
their mask (one bit for each 4-byte word), the hall time of its first store, the requests it holds, whether its
transfer has been sent, and whether the line is in use. -/
structure StageLine where
  src    : Nat
  ctx    : Nat
  lease  : Nat
  far    : Nat
  block  : DWord
  load   : Bool
  data   : Mem
  mask   : BitVec 1024
  since  : Nat
  reqs   : List RmRecord
  moving : Bool
  used   : Bool
  deriving DecidableEq, Repr

/-- One grant (R409, R433). -/
structure Grant where
  valid    : Bool
  write    : Bool
  spire    : Bool
  srcLease : BitVec 12
  srcChip  : BitVec 16
  local_   : BitVec 12
  deriving DecidableEq, Repr

/-- Registers of the remote-memory engine (R433). -/
structure RmCounters where
  incarnation : BitVec 16
  gwValid     : Bool
  gwChip      : BitVec 16
  retx        : Word
  timeouts    : Word
  stale       : Word
  expired     : Word
  poisonDrops : Word
  refusedFull : Word
  releasedUnacked : Word
  deriving DecidableEq, Repr

/-- The remote-memory engine. `nextUid` numbers requests; `tags` is indexed by context × 4096 + tag; `inbox` holds request
records that wait at the target, `outbox` records that wait for their Step; `waiting` the requests that wait for a staging
line and `gwFences` the fences that wait at the gateway; `incs` holds the INCARNATION kept for each near-set chip, plus 1;
`lost` lists chips declared lost to this chip; `jobLost` pairs of a job (0 for the host) and a quarantined chip (R418);
`farLost` the far chips lost with their gateway (Table 12.7); `badWrites` the writes that ended badly and that no fence covers
yet, by context and `uid`, with their status (R424, R425); `slotsUsed` is, by controller, the CCLK after that of the last slot a
record took; `halves` holds DATA cells until both halves of a line are there (R431), `cells` DATA cells that wait for their
Step. -/
structure RmState where
  regs    : RmCounters
  nextUid : Nat
  reqs    : List RmRequest
  tags    : Tab TagUse
  fences  : List RmFence
  inbox   : List RmRecord
  outbox  : List RmRecord
  replay  : List ReplayRec
  lines   : Tab StageLine
  waiting : List RmRecord
  gwFences : List RmRecord
  incs    : Tab Nat
  lost    : List Nat
  jobLost : List (Nat × Nat)
  farLost : List Nat
  badWrites : List (Nat × Nat × Nat)
  slotsUsed : Tab Nat
  grants  : Tab Grant
  halves  : List Cell
  cells   : List Cell
  deriving DecidableEq, Repr

/-- Queue registers at reset (R399): WEIGHT 1, YLIMIT 32, QLIMIT 64, BURST 0x2C00; the token count starts at
BURST × 256 (R390). -/
def BeQueue.reset : BeQueue where
  shapeEn := false
  weight := 1
  yLimit := 0x20
  qLimit := 0x40
  rate := 0
  burst := 0x2C00
  shapeOn := false
  rateNow := 0
  burstNow := 0x2C00
  tokens := 0x2C00 * 256
  cells := []
  finish := 0
  sent := 0
  drops := 0

def Meter.reset : Meter := ⟨0, 0, 0, 0, 0, 0, 0, 0, 0, 0, 0, 0, 0, 0, 0, 0⟩

def SampleSlot.reset : SampleSlot := ⟨0, 0, Tab.empty⟩

def BeState.reset : BeState where
  rxDrops := 0
  noRoute := 0
  hopDrops := 0
  queues := Tab.empty
  vtime := Tab.empty
  meters := Tab.empty
  routes := Tab.empty
  samples := Tab.empty
  sampleSeq := 0
  picked := Tab.empty
  decided := Tab.empty
  transit := []
  lastRefill := 0

def TagUse.reset : TagUse := ⟨15, 0, false⟩

def StageLine.reset : StageLine := ⟨0, 0, 0, 0, 0, false, Mem.empty, 0, 0, [], false, false⟩

def Grant.reset : Grant := ⟨false, false, false, 0, 0, 0⟩

def RmCounters.reset : RmCounters := ⟨0, false, 0, 0, 0, 0, 0, 0, 0, 0⟩

def RmState.reset : RmState where
  regs := RmCounters.reset
  nextUid := 0
  reqs := []
  tags := Tab.empty
  fences := []
  inbox := []
  outbox := []
  replay := []
  lines := Tab.empty
  waiting := []
  gwFences := []
  incs := Tab.empty
  lost := []
  jobLost := []
  farLost := []
  badWrites := []
  slotsUsed := Tab.empty
  grants := Tab.empty
  halves := []
  cells := []

end Sys2Proof.Machine
end

