-- ==== Sys2Proof/Machine/State.lean ====
section
/-! DEFINITION. The state of one VA9640-HL package, the reasons a step can stop, and the state after reset. -/

namespace Sys2Proof.Machine

open Sys2Proof

/-- Reasons for which the machine stops with a fault. No command of the table ends so: every fault the spec names is a
status or an error record in the next state. -/
inductive Fault where
  /-- Raised by nothing; kept so that the type is inhabited. Safe. -/
  | none_
  deriving DecidableEq, Repr

/-- Reasons for which a command has no meaning. -/
inductive Refusal where
  /-- Raised by an arm of exec for a command that has no meaning yet, named by its mnemonic. Safe. -/
  | notModelled (mnemonic : String)
  deriving DecidableEq, Repr

/-- One VA9640-HL package. `spires` is indexed by Spire number, `hbm` by controller (6 × Tower + controller), `trig` and
`cap` by channel, `leases` by lease. `out`, `free`, `started` and `pending` are the model's own: what has been sent out of
the package, the counter of free values (log entry 1), the ring commands that SUBMISSION_FETCH has started and whose own
row has not come yet, and the queue of waiting commands. -/
structure State where
  clock   : ClockState
  clk     : ClkState
  time    : TimeState
  trig    : Tab TrigChan
  cap     : Tab CapChan
  cnt     : CounterState
  spires  : Tab Spire
  hbm     : Tab HbmStack
  tier    : TierState
  flash   : FlashState
  radio   : RadioState
  fab     : FabState
  be      : BeState
  rm      : RmState
  dsp     : DspState
  leases  : Tab Lease
  host    : HostState
  rel     : RelState
  dome    : DomeState
  pwr     : PwrState
  pins    : PinState
  out     : List Out
  free    : Nat
  started : List Instr
  pending : List Instr
  deriving DecidableEq, Repr

/-- The machine right after reset: every register at its reset value, the chip held in its first power-on reset
(log entry 3), the queue empty. -/
def State.reset : State where
  clock := ClockState.reset
  clk := ClkState.reset
  time := TimeState.reset
  trig := Tab.empty
  cap := Tab.empty
  cnt := CounterState.reset
  spires := Tab.empty
  hbm := Tab.empty
  tier := TierState.reset
  flash := FlashState.reset
  radio := RadioState.reset
  fab := FabState.reset
  be := BeState.reset
  rm := RmState.reset
  dsp := DspState.reset
  leases := Tab.empty
  host := HostState.reset
  rel := RelState.reset
  dome := DomeState.reset
  pwr := PwrState.reset
  pins := PinState.reset
  out := []
  free := 0
  started := []
  pending := []

end Sys2Proof.Machine
end

