-- ==== Sys2Proof/Machine/Ops.lean ====
section
/-! DEFINITION. Named operations that every family shares: access to a unit's state, doorbells and MSI-X, error records
and the log, counters, completion of a queue command. -/

namespace Sys2Proof.Machine

open Sys2Proof

/-! ### Status codes (R13, Table 0.4) -/

abbrev stOk : Nat := 0
abbrev stConflict : Nat := 1
abbrev stBadArg : Nat := 2
abbrev stNoResource : Nat := 3
abbrev stTargetLost : Nat := 4
abbrev stPreempted : Nat := 5
abbrev stFault : Nat := 6
abbrev stUnusable : Nat := 7
abbrev stDeferred : Nat := 8
abbrev stStale : Nat := 9

/-! ### Master identities (R12, Table 0.3) -/

/-- Is a MID assigned? -/
def midAssigned (mid : Nat) : Bool := decide (mid ≤ 4096) || decide (5000 ≤ mid ∧ mid ≤ 5031)

/-- The lease of an issuer: 0 for the Dome and the host. -/
def Issuer.lease : Issuer → Nat
  | .dome => 0
  | .ring f _ _ => f

/-- Is the issuer a lease (not the Dome, not the host)? -/
def Issuer.isLease (i : Issuer) : Bool := decide (i.lease ≠ 0)

/-- Is the issuer the host? -/
def Issuer.isHost : Issuer → Bool
  | .dome => false
  | .ring f _ _ => decide (f = 0)

/-! ### Units -/

/-- Spire `k`. -/
def State.spire (s : State) (k : Nat) : Spire := s.spires.get Spire.reset k

/-- Change Spire `k`. -/
def State.modSpire (s : State) (k : Nat) (f : Spire → Spire) : State :=
  { s with spires := s.spires.modify Spire.reset k f }

/-- HBM controller `h` with its stack. -/
def State.stack (s : State) (h : Nat) : HbmStack := s.hbm.get HbmStack.reset h

/-- Change HBM controller `h`. -/
def State.modStack (s : State) (h : Nat) (f : HbmStack → HbmStack) : State :=
  { s with hbm := s.hbm.modify HbmStack.reset h f }

/-- Lane `n`. -/
def State.lane (s : State) (n : Nat) : Lane := s.fab.lanes.get Lane.reset n

/-- Change lane `n`. -/
def State.modLane (s : State) (n : Nat) (f : Lane → Lane) : State :=
  { s with fab := { s.fab with lanes := s.fab.lanes.modify Lane.reset n f } }

/-- Radio cell `c`. -/
def State.cell (s : State) (c : Nat) : RadioCell := s.radio.cells.get RadioCell.reset c

/-- Change radio cell `c`. -/
def State.modCell (s : State) (c : Nat) (f : RadioCell → RadioCell) : State :=
  { s with radio := { s.radio with cells := s.radio.cells.modify RadioCell.reset c f } }

/-- Lease `n`. -/
def State.leaseOf (s : State) (n : Nat) : Lease := s.leases.get Lease.reset n

/-- Change lease `n`. -/
def State.modLease (s : State) (n : Nat) (f : Lease → Lease) : State :=
  { s with leases := s.leases.modify Lease.reset n f }

/-- Is lease `n` enabled? Lease 0 always is (R434). -/
def State.leaseEnabled (s : State) (n : Nat) : Bool := decide (n = 0) || (s.leaseOf n).enable

/-- Function `n`: 0 the physical function, `n` the virtual function of lease `n`. -/
def State.func (s : State) (n : Nat) : Func := s.host.funcs.get Func.reset n

/-- Change function `n`. -/
def State.modFunc (s : State) (n : Nat) (f : Func → Func) : State :=
  { s with host := { s.host with funcs := s.host.funcs.modify Func.reset n f } }

/-- Queue pair `q` of function `n`. -/
def State.pair (s : State) (n q : Nat) : Pair := (s.func n).pairs.get Pair.reset q

/-- Change queue pair `q` of function `n`. -/
def State.modPair (s : State) (n q : Nat) (f : Pair → Pair) : State :=
  s.modFunc n (fun u => { u with pairs := u.pairs.modify Pair.reset q f })

/-- The health record of Spire `k`. -/
def State.healthOf (s : State) (k : Nat) : SpireHealth := s.rel.health.get SpireHealth.reset k

/-- Change the health record of Spire `k`. -/
def State.modHealth (s : State) (k : Nat) (f : SpireHealth → SpireHealth) : State :=
  { s with rel := { s.rel with health := s.rel.health.modify SpireHealth.reset k f } }

/-- Change the counters of the reliability block. -/
def State.modRelCounters (s : State) (f : RelCounters → RelCounters) : State :=
  { s with rel := { s.rel with counters := f s.rel.counters } }

/-- Is Spire `k` in service: its Tower in service and its ID_SPIRES bit set (R28)? -/
def State.inService (s : State) (k : Nat) : Bool :=
  s.rel.inService.getLsbD k && !s.rel.towerOut.getLsbD (k / 8)

/-- Is power domain `d` on and not waking? -/
def State.domainOn (s : State) (d : Nat) : Bool := s.pwr.domains.getLsbD d && !s.pwr.waking.getLsbD d

/-- The first access to a gated domain wakes it (R569); it is ready at DOMAIN_READY. -/
def touchDomain (d : Nat) (s : State) : State :=
  if s.pwr.domains.getLsbD d || s.pwr.waking.getLsbD d then s
  else { s with pwr := { s.pwr with waking := s.pwr.waking ||| BitVec.twoPow 30 d } }

/-- Touch several domains. -/
def touchDomains (l : List Nat) (s : State) : State := l.foldl (fun t d => touchDomain d t) s

/-- A log of what leaves the package, newest first. -/
def State.emit (s : State) (o : Out) : State := { s with out := o :: s.out }

/-- A fresh free value (log entry 1). -/
def State.freeValue (s : State) : Nat := Config.freeNat s.free

/-- Step the counter of free values. -/
def State.useFree (s : State) : State := { s with free := s.free + 1 }

/-! ### Hall time (02) -/

/-- Nanoseconds in a second. -/
def nsPerSec : Nat := 1000000000

/-- Hall time in units of 2^-32 ns. -/
def HallTime.units (h : HallTime) : Nat := (h.sec.toNat * nsPerSec + h.ns.toNat) * 2 ^ 32 + h.frac.toNat

/-- Hall time from units of 2^-32 ns; the seconds wrap at 2^64. -/
def hallOf (u : Nat) : HallTime :=
  ⟨BitVec.ofNat 64 (u / 2 ^ 32 / nsPerSec), BitVec.ofNat 32 (u / 2 ^ 32 % nsPerSec), BitVec.ofNat 32 u⟩

/-- The hall time now, in units of 2^-32 ns. -/
def State.now (s : State) : Nat := s.time.hall.units

/-- A time of seconds and nanoseconds in units of 2^-32 ns. -/
def unitsAt (sec ns : Nat) : Nat := (sec * nsPerSec + ns) * 2 ^ 32

/-- Nanoseconds in units of 2^-32 ns. -/
def nsUnits (ns : Nat) : Nat := ns * 2 ^ 32

/-- The Pavane period of 500 µs, in units of 2^-32 ns. -/
def periodUnits : Nat := nsUnits 500000

/-- CCLK ticks of the root in a number of nanoseconds (1.7 per ns), rounded up. -/
def ticksOfNs (ns : Nat) : Nat := (ns * 17 + 9) / 10

/-- Does the chip's hall time run (R84)? -/
def State.timeRuns (s : State) : Bool :=
  s.clk.phase1Done && decide (s.pwr.mode ≠ .deep) && decide (s.pwr.mode ≠ .off)

/-! ### Doorbells (R486, R487) -/

/-- Word `i` of an MSI-X table. It is stored as its difference from PCIe's reset value, in which every vector is masked
(log entry 11). -/
def Func.msixWord (f : Func) (i : Nat) : Word := f.msix.get 0 i ^^^ (if i % 4 = 3 then 1 else 0)

/-- Send MSI-X vector `i` of a function, or set its pending bit while the vector is masked. -/
def sendVector (n i : Nat) (s : State) : State :=
  if ((s.func n).msixWord (4 * i + 3)).getLsbD 0 then
    s.modFunc n (fun f => { f with pba := f.pba ||| BitVec.twoPow 32 i })
  else s.emit (.msix n i)

/-- The BCLK now. -/
def State.bclkTick (s : State) : Nat := s.clock.tick / 2

/-- Set doorbell bit `i` of function `n`; its vector is sent when an unmasked bit goes from 0 to 1 (R487). A bit that software has
cleared in this BCLK has stayed 1 (Table 14.7): no further vector is sent. -/
def ringFunc (n i : Nat) (s : State) : State :=
  let f := s.func n
  let s1 := s.modFunc n (fun f => { f with
    dbStatus := f.dbStatus ||| BitVec.twoPow 32 i, dbSetAt := f.dbSetAt.set 0 i (s.bclkTick + 1) })
  if f.dbStatus.getLsbD i || f.dbMask.getLsbD i || f.dbClearAt.get 0 i == s.bclkTick + 1 then s1 else sendVector n i s1

/-- Set doorbell bit `i` of the Dome (R565). -/
def ringDome (i : Nat) (s : State) : State :=
  { s with dome := { s.dome with
    dbStatus := s.dome.dbStatus ||| BitVec.twoPow 32 i, dbSetAt := s.dome.dbSetAt.set 0 i (s.bclkTick + 1) } }

/-- Set doorbell bit `i` of a MID: 0 the Dome, n + 1 function n. -/
def ringMid (mid i : Nat) (s : State) : State := if mid = 0 then ringDome i s else ringFunc (mid - 1) i s

/-! ### Log and error records (R499, R530, R560, R561) -/

/-- Records that may wait to be written (R561). -/
def logQueueMax : Nat := 256

/-- Queue a log record, or drop and count it when 256 wait. -/
def logEvent (e : LogEvent) (s : State) : State :=
  let d := s.dome
  if d.logQueue.length < logQueueMax then
    let r : LogRec := ⟨d.logSeq, s.time.hall.sec, s.time.hall.ns, e⟩
    { s with dome := { d with logQueue := d.logQueue ++ [r], logSeq := d.logSeq + 1 } }
  else { s with dome := { d with logLost := satInc d.logLost } }

/-- Write an error record (Table 15.5). Its SEQ is the count that includes it, and the first record lies in slot 0
(DEDUCED, log entry 12). The Dome's doorbell bit 0 is set; the record goes out in MCTP and, where MGMT_NET is configured,
on the management network; OUTCOME 2 and above is logged. -/
def errRecord (detector outcome inst lease tag job detail : Nat) (s : State) : State :=
  let c := s.rel.counters
  let seq := satInc c.errSeq
  let r : ErrRec := ⟨seq, s.time.hall.sec, s.time.hall.ns, detector, outcome, inst, lease, tag, job, detail⟩
  let s1 := { s with rel := { s.rel with
    counters := { c with errSeq := seq }, ring := s.rel.ring.set ErrRec.blank ((seq.toNat - 1) % 1024) r } }
  let s2 := (ringDome 0 s1).emit (.mctp (.error r))
  let s3 := if s.dome.cfg.mgmtNet then s2.emit (.mgmt r) else s2
  if 2 ≤ outcome then logEvent (.error r) s3 else s3

/-! ### Counters (R100 to R110) -/

/-- Do the programmable and non-determinism counts run (R110)? -/
def State.counts (s : State) : Bool := !s.cnt.freeze

/-- Add `n` to a 48-bit count; does it wrap (R105)? -/
def add48 (x : BitVec 48) (n : Nat) : BitVec 48 × Bool := (x + BitVec.ofNat 48 n, decide (2 ^ 48 ≤ x.toNat + n))

/-- One Spire counter sees `n` occurrences of an event. -/
def Pmc.see (ev n : Nat) (p : Pmc) : Pmc :=
  if p.enable && decide (p.event.toNat = ev) then
    let (c, w) := add48 p.count n
    { p with count := c, ovf := p.ovf || w }
  else p

/-- One Belfry counter sees `n` occurrences of an event at an instance; events without an instance match any. -/
def BelfryCounter.see (ev : Nat) (inst : Option Nat) (n : Nat) (b : BelfryCounter) : BelfryCounter :=
  if b.enable && decide (b.event.toNat = ev) && decide (inst.getD b.inst.toNat = b.inst.toNat) then
    let (c, w) := add48 b.count n
    { b with count := c, ovf := b.ovf || w }
  else b

/-- Count `n` occurrences of a Spire event on Spire `k`'s counters; an overflow with OVF_IRQ rings bit 30 of MID 1
(R107). -/
def countSpire (k ev n : Nat) (s : State) : State :=
  if s.counts && decide (0 < n) then
    let old := (s.spire k).cnt.pmc
    let new := old.modifyAll Pmc.reset (List.range 8) (fun _ p => p.see ev n)
    let rings := (List.range 8).any (fun i =>
      (new.get Pmc.reset i).ovfIrq && (new.get Pmc.reset i).ovf && !(old.get Pmc.reset i).ovf)
    let s1 := s.modSpire k (fun p => { p with cnt := { p.cnt with pmc := new } })
    if rings then ringFunc 0 30 s1 else s1
  else s

/-- Count `n` occurrences of a Belfry event at an instance. -/
def countBelfry (ev : Nat) (inst : Option Nat) (n : Nat) (s : State) : State :=
  if s.counts && decide (0 < n) then
    let old := s.cnt.bpmc
    let new := old.modifyAll BelfryCounter.reset (List.range 16) (fun _ b => b.see ev inst n)
    let rings := (List.range 16).any (fun i =>
      (new.get BelfryCounter.reset i).ovfIrq && (new.get BelfryCounter.reset i).ovf &&
        !(old.get BelfryCounter.reset i).ovf)
    let s1 := { s with cnt := { s.cnt with bpmc := new } }
    if rings then ringFunc 0 30 s1 else s1
  else s

/-- Attribute non-determinism events to a job (R102). -/
def blameJob (job n : Nat) (s : State) : State :=
  let js := s.dsp.running.map (fun j => if j.id = job then { j with ndc := min 0xFFFF (j.ndc + n) } else j)
  { s with dsp := { s.dsp with running := js } }

/-- The running jobs of a lease (R102). -/
def State.jobsOfLease (s : State) (lease : Nat) : List Nat :=
  (s.dsp.running.filter (fun j => decide (j.lease = lease))).map (·.id)

/-- Count `n` non-determinism events of a category and in the total (R100, R101), attributed to the given jobs.
CNT_FREEZE stops the counts; the attribution goes on (DESIGN CHOICE, log entry 138: R102 and R110 do not say). -/
def countNd (cat n : Nat) (jobs : List Nat) (s : State) : State :=
  let s1 := if s.counts then
      { s with cnt := { s.cnt with ndc :=
        (s.cnt.ndc.modify 0 cat (· + BitVec.ofNat 64 n)).modify 0 6 (· + BitVec.ofNat 64 n) } }
    else s
  jobs.foldl (fun t j => blameJob j n t) s1

/-! ### Completion of queue commands (R474 to R476) -/

/-- What a command answers: its status and its two results. -/
structure Reply where
  status : Nat
  r0 : Nat
  r1 : Nat
  deriving DecidableEq, Repr

/-- A reply with no results. -/
def Reply.of (status : Nat) : Reply := ⟨status, 0, 0⟩

/-- Bytes 0 to 59 of a command record (Table 14.4) as one little-endian number. -/
def commandRecord (cid op sqHead : Nat) (r : Reply) : Record :=
  ⟨BitVec.ofNat 480 (cid + op * 2 ^ 16 + r.status * 2 ^ 24 + sqHead * 2 ^ 32 + r.r0 % 2 ^ 64 * 2 ^ 64
    + r.r1 % 2 ^ 64 * 2 ^ 128)⟩

/-- Complete a queue command: its CID leaves the commands in progress and its record waits for a slot of the completion
ring (R476); a pair that is not enabled, as one that its lease's reset has disabled, takes no record. A command of the
Dome answers the Dome. -/
def complete (iss : Issuer) (op : Nat) (r : Reply) (s : State) : State :=
  match iss with
  | .dome => s.emit (.domeReply op r.status r.r0 r.r1)
  | .ring n q cid =>
    if (s.pair n q).enable then
      s.modPair n q (fun p => { p with
        inProgress := p.inProgress.erase cid,
        waiting := p.waiting ++ [commandRecord cid op p.sqHead.toNat r] })
    else s

/-- The opcodes of Table 14.3 that an issuer may send (R473). -/
def opcodeAllowed (iss : Issuer) (op : Nat) : Bool :=
  match iss with
  | .dome => [1, 2, 3, 6, 0x30, 0x31, 0x32, 0x33, 0x40, 0x41, 0x42, 0x43].contains op
  | .ring n _ _ =>
    if n = 0 then
      [1, 2, 3, 4, 5, 6, 7, 8, 0x10, 0x11, 0x12, 0x20, 0x21, 0x22, 0x23, 0x24, 0x30, 0x31, 0x32, 0x33, 0x40, 0x41,
        0x42, 0x43, 0x50, 0x51, 0x52, 0x53, 0x54].contains op
    else [2, 4, 5, 6, 8, 0x10, 0x20, 0x21].contains op

/-- Is the power manager in a state in which an event first returns the chip to Run (R573)? -/
def State.lowPower (s : State) : Bool := s.pwr.mode = .idle || s.pwr.mode = .sleep

/-- Begin the bring-up of a lane (R355): it trains, and its heartbeat and marker counts start anew. -/
def Lane.train (tick : Nat) (l : Lane) : Lane :=
  { l with regs := { l.regs with state := .training, cause := 0, hbMisses := 0, hbGood := 0 },
           since := tick, badMarkers := 0, idents := 0, upSteps := 0, overBound := 0 }

/-- Return to Run from Idle or Sleep (R573): the Tower plans wait for the next period start. From Sleep, lanes whose
ENABLE is set begin bring-up again (R570, Table 10.7), but those of a gated domain. -/
def returnToRun (s : State) : State :=
  if s.lowPower then
    let s1 := { s with pwr := { s.pwr with mode := .run, restart := true } }
    if s.pwr.mode = .sleep then
      let ls := s1.fab.lanes.modifyAll Lane.reset (List.range 64)
        (fun n l => if l.regs.enable && s.domainOn (20 + n / 32) then l.train s.clock.tick else l)
      { s1 with fab := { s1.fab with lanes := ls } }
    else s1
  else s

/-! ### Accesses to registers (R35, R569, R573) -/

/-- Can the chip be reached: out of reset, not in Deep sleep or Off? -/
def State.reachable (s : State) : Bool := s.clk.pendingReset.isNone && decide (s.pwr.mode ≠ .deep) && decide (s.pwr.mode ≠ .off)

/-- Has the power state stopped the block at an offset (R573, Table 17.3)? Sleep leaves the time unit, the clock, reset and power
registers, the mailboxes, identification and the Dome window. -/
def State.blockStopped (s : State) (off : Nat) : Bool :=
  match s.pwr.mode with
  | .idle => (towerOf off).isSome
  | .sleep => !(decide (off < 0x30000) || decide (0x40000 ≤ off ∧ off < 0x50000) || decide (0x3E0000 ≤ off ∧ off < 0x400000))
  | _ => false

/-- A row of the table that is an access to a register: it has its effect on a chip that can be reached. -/
def onBus (f : State → State) (s : State) : State := if s.reachable then f s else s

/-- A write of the register at an offset of BAR0, whose effect is `f`: it returns the chip to Run where the state has stopped the block
(R573); a gated domain wakes, and the write is made once it is ready (R35). -/
def regWrite (mid off : Nat) (v : Word) (f : State → State) (s : State) : State :=
  let s1 := if s.blockStopped off then returnToRun s else s
  if (domainOf off).all s1.domainOn then f s1
  else
    let s2 := touchDomains (domainOf off) s1
    { s2 with pwr := { s2.pwr with writes := s2.pwr.writes ++ [(mid, off, v)] } }

/-- A row of the table that is a write of a register of BAR0 with an effect beyond Run: MID 0 and MID 1 reach it. -/
def bar0Row (mid off : Nat) (v : Word) (f : State → State) (s : State) : State :=
  if s.reachable && decide (mid ≤ 1) then regWrite mid off v f s else s

/-- The offset of a register of Spire `k`. -/
def spireOffset (k o : Nat) : Nat := 0x01000000 * (k / 8 + 1) + 0x00100000 * (k % 8 + 1) + o

/-- The issuer of a queue command. -/
def issuerOf : Instr → Option Issuer
  | .alloc i _ => some i
  | .free i _ _ => some i
  | .move i _ => some i
  | .pin i _ _ => some i
  | .unpin i _ _ => some i
  | .query i _ _ _ => some i
  | .assign i _ _ _ => some i
  | .boundary i _ _ _ => some i
  | .cellConfig i _ => some i
  | .cellStart i _ _ => some i
  | .cellStop i _ _ => some i
  | .cellClear i _ => some i
  | .pavaneLoad i _ _ _ => some i
  | .pavaneActivate i _ _ _ => some i
  | .figureSwitch i _ _ => some i
  | .pavaneClear i _ => some i
  | .beSend i _ => some i
  | .rmemOp i _ _ _ _ => some i
  | .rmemFence i => some i
  | .jobSubmit i _ _ _ => some i
  | .jobCancel i _ => some i
  | .logStart i _ _ _ _ => some i
  | .logFlip i _ => some i
  | .logStop i _ => some i
  | .pwrState i _ _ => some i
  | .pwrGate i _ => some i
  | .pwrUngate i _ => some i
  | .pwrWakeCfg i _ => some i
  | .pwrCap i _ => some i
  | _ => none

/-- Is a command a tier command (R278 to R285)? -/
def isTier : Instr → Bool
  | .alloc _ _ => true
  | .free _ _ _ => true
  | .move _ _ => true
  | .pin _ _ _ => true
  | .unpin _ _ _ => true
  | .query _ _ _ _ => true
  | .assign _ _ _ _ => true
  | .boundary _ _ _ _ => true
  | _ => false

/-- Is a tier command of an issuer in progress: started and not yet done (R481)? -/
def State.tierStarted (s : State) (iss : Issuer) : Bool := s.started.any (fun c => isTier c && decide (issuerOf c = some iss))

/-- Take an issuer's command out of those that SUBMISSION_FETCH has started. -/
def takeStarted (iss : Issuer) (s : State) : State :=
  { s with started := s.started.filter (fun c => decide (issuerOf c ≠ some iss)) }

/-- Is an opcode one of the power commands, which do not return the chip to Run (R573)? -/
def isPowerOp (op : Nat) : Bool := decide (0x50 ≤ op ∧ op ≤ 0x57)

/-- Is a status one of a command that has had no effect (R14)? -/
def refusedStatus (st : Nat) : Bool := decide (1 ≤ st ∧ st ≤ 3)

/-- What stands after a body that began on `returnToRun s`: a refused command is not carried out, so that the chip stays in its
power state and its lanes as they are (R14, R573). -/
def stayLow (s t : State) : State :=
  if s.lowPower then
    { t with
      pwr := { t.pwr with mode := s.pwr.mode, restart := s.pwr.restart }
      fab := { t.fab with lanes := s.fab.lanes } }
  else t

/-- The checks that come before every queue command: a chip that cannot be reached takes none; one of a lease in reset has no effect (R482), but a tier command that was in
progress when the reset began (R481); a fatal error refuses everything
(R531); the opcode must be one of the issuer's (R473); a lease whose TDI is in ERROR (R484) or that is not enabled (R434) is
refused. A command other than a power command that is carried out returns a chip in Idle or Sleep to Run first (R573). Then the
command's own body runs; it answers a reply, or none while it stays in progress. -/
def queueCommand (op : Nat) (iss : Issuer) (body : State → State × Option Reply) (s : State) : State :=
  let begun := s.tierStarted iss
  let s := takeStarted iss s
  if !s.reachable then s
  else if iss.isLease && (s.leaseOf iss.lease).resetting && !begun then s
  else
    if s.rel.fatal then complete iss op (.of stConflict) s
    else if !opcodeAllowed iss op then complete iss op (.of stBadArg) s
    else if iss.isLease && !(s.leaseOf iss.lease).resetting
        && (decide ((s.leaseOf iss.lease).tdi = .error) || !s.leaseEnabled iss.lease) then
      complete iss op (.of stConflict) s
    else
      match body (if isPowerOp op then s else returnToRun s) with
      | (t, some r) => complete iss op r (if refusedStatus r.status then stayLow s t else t)
      | (t, none) => t

/-- Refuse a queue command with a status and no other effect (R14). -/
def refuse (status : Nat) (s : State) : State × Option Reply := (s, some (.of status))

/-- Statuses of Table 0.4. -/
def statusCount : Nat := 10

/-- Arguments that the device does not check for the host: a lease and the Dome are refused with ST_BAD_ARGUMENT (R478); the
host's command completes with a status of Table 0.4 that is left open (R479, R480), a free value (log entry 28). -/
def argError (iss : Issuer) (s : State) : State × Option Reply :=
  if iss.isHost then (s.useFree, some (.of (s.freeValue % statusCount))) else refuse stBadArg s

/-- Refuse a tier command: ST_BAD_ARGUMENT stands for an argument that the device does not check for the host. -/
def refuseFor (iss : Issuer) (status : Nat) (s : State) : State × Option Reply :=
  if status = stBadArg then argError iss s else refuse status s

end Sys2Proof.Machine
end

