-- ==== Sys2Proof/Machine/Plan.lean ====
section
/-! DEFINITION. What the active Pavane says: plan time, Spire roles and windows, transfer streams, cell slots, step sets,
and the conditions under which a Pavane or a Figure may become active. -/

namespace Sys2Proof.Machine

open Sys2Proof

/-! ### Plan time (R31, R87, R105) -/

/-- Nominal CCLK of a period. -/
def planPeriod : Nat := 850000

/-- The first plan CCLK of the idle tail (R62, R105). -/
def planEnd : Nat := 849936

/-- CCLK edges since the end of Minuet phase 1: SPC_CYCLE (R103). -/
def State.cyc (s : State) : Nat := s.clock.edges

/-- Is there a plan CCLK: has a period start occurred since reset (Table 7.9)? -/
def State.hasPlan (s : State) : Bool := decide (0 < s.time.periods)

/-- The plan CCLK counted through the period starts, in periods of 850,000. -/
def State.planTotal (s : State) : Nat := s.time.periods * planPeriod + s.clock.plan

/-- The first time, counted so, at or after now at which the plan CCLK is `p`; before the first period start, in the
first period. -/
def State.nextPlan (s : State) (p : Nat) : Nat :=
  if s.hasPlan && decide (s.clock.plan ≤ p) then s.time.periods * planPeriod + p
  else (s.time.periods + 1) * planPeriod + p

/-! ### The governing image (R362 to R365) -/

/-- The image of a slot. -/
def FabState.slot (f : FabState) (b : Bool) : Option Pavane := if b then f.slotB else f.slotA

/-- The active Pavane. -/
def State.image (s : State) : Option Pavane :=
  match s.fab.active with
  | some b => s.fab.slot b
  | none => none

/-- The image of time-only mode (R365): no Pavane is active and a slot holds an image; slot A goes first. -/
def State.timeOnly (s : State) : Option Pavane :=
  match s.fab.active with
  | some _ => none
  | none => match s.fab.slotA with
    | some p => some p
    | none => s.fab.slotB

/-- The image and the Figure that the step tables follow: the active one, or Figure 0 in time-only mode. -/
def State.stepImage (s : State) : Option (Pavane × Nat) :=
  match s.image with
  | some p => some (p, s.fab.figure)
  | none => match s.timeOnly with
    | some p => some (p, 0)
    | none => none

/-- The step set of a Figure, if the Figure is present (R358). -/
def Pavane.stepSet (p : Pavane) (fig : Nat) : Option Nat :=
  match p.figures[fig]? with
  | some d => if bitAt d 31 then some (d % 8) else none
  | none => none

/-- Figures that an image holds. -/
def Pavane.figureList (p : Pavane) : List Nat := (List.range 8).filter (fun f => (p.stepSet f).isSome)

/-! ### The entries that a plan executes (R22, R23, R26, R31, R62, Table 10.9) -/

/-- Does a record with these fields name position `p`: `start + i × stride` for an `i` below `count`? -/
def planHits (start count stride p : Nat) : Bool :=
  if stride = 0 then start == p && decide (0 < count)
  else decide (start ≤ p) && (p - start) % stride == 0 && decide ((p - start) / stride < count)

/-- The Pavane whose plans run: the active one, from a period start on (R573). -/
def State.plansRun (s : State) : Option Pavane := if s.hasPlan && !s.pwr.restart then s.image else none

/-- The plan CCLK that lies `off` from now in this period; none before its start, and none past its last CCLK, where the plans
sit idle (R62). -/
def State.planAt (s : State) (off : Int) : Option Nat :=
  let p := (s.clock.plan : Int) + off
  if 0 ≤ p ∧ p < planPeriod then some p.toNat else none

/-- The crossbar's Belfry port, and the port of controller `c`. -/
def belfryPort : Nat := 14
def stackPort (c : Nat) : Nat := 8 + c

/-- Does the crossbar plan of Tower `t` connect port `src` to port `dst` at plan CCLK `p`? -/
def Pavane.connects (x : Pavane) (t src dst p : Nat) : Bool :=
  (x.xbar.get [] t).any (fun r => field r 15 12 == src && field r 19 16 == dst
    && planHits (field r 63 44) (field r 43 32) (field r 31 20) p)

/-- The boot plan of every crossbar (R26): the Belfry port with one of the other fourteen in each CCLK, in rotation. The order is
the controllers', then the Spires' (DESIGN CHOICE, log entry 141). -/
def bootConnects (src dst c : Nat) : Bool :=
  let other := if c % 14 < 6 then stackPort (c % 14) else c % 14 - 6
  (src == belfryPort && dst == other) || (dst == belfryPort && src == other)

/-- Does the crossbar of Tower `t` connect port `src` to port `dst` in the CCLK that lies `off` from now? A port moves one beat
in each direction in a CCLK, since the plan feeds a destination from one source (R17, R18). -/
def State.connected (s : State) (t src dst : Nat) (off : Int) : Bool :=
  if s.image.isNone then bootConnects src dst ((s.cyc : Int) + off).toNat
  else match s.plansRun, s.planAt off with
    | some x, some p => x.connects t src dst p
    | _, _ => false

/-- Does the Belfry plan carry a beat from the port of Tower `a` to that of Tower `b` in the BCLK of the CCLK that lies `off` from
now? -/
def State.relayed (s : State) (a b : Nat) (off : Int) : Bool :=
  match s.plansRun, s.planAt off with
  | some x, some p => x.belfry.any (fun r =>
      decide (Config.belfryBlockTower (field r 10 5) = some a) && decide (Config.belfryBlockTower (field r 16 11) = some b)
      && planHits (field r 63 45) (field r 44 33) (field r 32 17) (p / 2))
  | _, _ => false

/-- Has the beat of a PUT of Spire `k` its way to stack `h`, for a command slot that lies `off` from now (R17, R19, R21, Table
8.2)? It leaves the Spire's port 2 CCLK before the slot, or 68 through the Belfry. -/
def State.pathPut (s : State) (k h : Nat) (off : Int) : Bool :=
  let t := h / 6
  let x := k / 8
  if t = x then s.connected t (k % 8) (stackPort (h % 6)) (off - 2)
  else s.connected x (k % 8) belfryPort (off - 68) && s.relayed x t (off - 42)
    && s.connected t belfryPort (stackPort (h % 6)) (off - 2)

/-- Has the beat of a GET of Spire `k` its way from stack `h`, for a command slot that lies `off` from now? It leaves the
controller's port 24 CCLK after the slot. -/
def State.pathGet (s : State) (k h : Nat) (off : Int) : Bool :=
  let t := h / 6
  let x := k / 8
  if t = x then s.connected t (stackPort (h % 6)) (k % 8) (off + 24)
  else s.connected t (stackPort (h % 6)) belfryPort (off + 24) && s.relayed t x (off + 50)
    && s.connected x belfryPort (k % 8) (off + 90)

/-- The owner that an HBM plan gives the slot at plan CCLK `p` (R254, R255). -/
def slotOwner (recs : List Nat) (p : Nat) : Option Nat :=
  (recs.find? (fun r => decide (p % 17 < 15) && field r 15 12 == p % 17
    && planHits (field r 63 48) (field r 47 32) (field r 31 16) (p / 17))).map (fun r => field r 11 4)

/-- The OWNER code of stream `j` of Spire `k` on controller `h` (Table 10.9). -/
def ownerCode (k j h : Nat) : Nat := if h / 6 = k / 8 then 4 * (k % 8) + j else 64 + 4 * k + j

/-- The owner of the command slot of controller `h` that lies `off` from now. -/
def State.commandOwner (s : State) (h : Nat) (off : Int) : Option Nat :=
  match s.plansRun, s.planAt off with
  | some x, some p => slotOwner (x.hbm.get [] h) p
  | _, _ => none

/-- Does stream `j` of Spire `k` own the command slot of controller `h` that lies `off` from now? -/
def State.ownsCommand (s : State) (k j h : Nat) (off : Int) : Bool := s.commandOwner h off == some (ownerCode k j h)

/-- May stream `j` of Spire `k` move a beat in that slot: its own, with its own slots on the beat's way (R22, R23)? -/
def State.ownsSlot (s : State) (k j h : Nat) (put : Bool) (off : Int) : Bool :=
  s.ownsCommand k j h off && (if put then s.pathPut k h off else s.pathGet k h off)

/-! ### Roles and windows (R438, Table 13.2) -/

/-- Spire roles (Table 1.2). -/
inductive Role where
  | radioOwned | inferenceOnly | borrowable
  deriving DecidableEq, Repr

/-- The role that a Figure gives a Spire. -/
def Pavane.role (p : Pavane) (fig k : Nat) : Role :=
  match (p.windows.get [] fig).find? (fun r => field r 63 60 == 1 && field r 52 48 == k) with
  | some r => if field r 1 0 = 0 then .radioOwned else if field r 1 0 = 2 then .borrowable else .inferenceOnly
  | none => .inferenceOnly

/-- The windows that a Figure gives a Spire, START and END. -/
def Pavane.winOf (p : Pavane) (fig k : Nat) : List (Nat × Nat) :=
  ((p.windows.get [] fig).filter (fun r => field r 63 60 == 2 && field r 52 48 == k)).map
    (fun r => (field r 39 20, field r 19 0))

/-- The role of Spire `k` now; inference-only while no Pavane is active (log entry 15). -/
def State.role (s : State) (k : Nat) : Role :=
  match s.image with
  | some p => p.role s.fab.figure k
  | none => .inferenceOnly

/-- Has Spire `k` a test window (R501)? In Idle none runs (R570). Its START and END. -/
def State.testWindow (s : State) (k : Nat) : Option (Nat × Nat) :=
  if s.rel.testEnable && s.pwr.mode = .run && (s.image.isSome || s.timeOnly.isSome) && s.inService k && s.domainOn (k / 2) then
    some (s.rel.testStart.toNat, s.rel.testStart.toNat + s.rel.testLen.toNat)
  else none

/-- The windows of Spire `k`: START, END, whether it is the test window. -/
def State.windowsOf (s : State) (k : Nat) : List (Nat × Nat × Bool) :=
  (match s.image with
   | some p => (p.winOf s.fab.figure k).map (fun w => (w.1, w.2, false))
   | none => [])
  ++ (match s.testWindow k with
      | some w => [(w.1, w.2, true)]
      | none => [])

/-- Smallest of a list of numbers. -/
def leastOf : List Nat → Option Nat
  | [] => none
  | a :: r => match leastOf r with
    | some b => some (min a b)
    | none => some a

/-- The START of Spire `k`'s next window, at or after now, counted through the period start (R451). -/
def State.nextWindow (s : State) (k : Nat) : Option Nat :=
  if s.hasPlan then leastOf ((s.windowsOf k).map (fun w => s.nextPlan w.1)) else none

/-! ### Store parts (R243) -/

/-- Bytes of the job part. -/
def State.jobPart (s : State) (k : Nat) : Nat := (s.spire k).xb.jobLimit.toNat * 2 ^ 20

/-- The part of Spire `k`'s store that its work in a bank owns: first byte and the byte after the last. -/
def State.owned (s : State) (k : Nat) (inS : Bool) : Nat × Nat :=
  if inS && s.role k = .borrowable then (s.jobPart k, 2 ^ 25) else (0, s.jobPart k)

/-- Do `n` bytes at `a` lie in the part that the work of a bank owns? -/
def State.ownsRange (s : State) (k : Nat) (inS : Bool) (a n : Nat) : Bool :=
  decide ((s.owned k inS).1 ≤ a ∧ a + n ≤ (s.owned k inS).2)

/-! ### Transfer streams (R266, Table 10.9) -/

/-- A transfer stream of STORE_PLAN. -/
structure StreamDef where
  isPut : Bool
  stack : Nat
  deriving DecidableEq, Repr

/-- Stream `j` of Spire `k` in an image. -/
def Pavane.stream (p : Pavane) (k j : Nat) : Option StreamDef :=
  let b := field (p.store.getD k 0) (8 * (4 + j) + 7) (8 * (4 + j))
  if bitAt b 6 then some ⟨bitAt b 7, b % 32⟩ else none

/-- JOB_LIMIT of Spire `k` in an image. -/
def Pavane.jobLimit (p : Pavane) (k : Nat) : Nat := (p.store.getD k 0) % 256

/-! ### Cell slots (R604) -/

/-- Bytes `i` to `i + n − 1` of a 32-byte record. -/
def recBytes (r i n : Nat) : Nat := field r (8 * (i + n) - 1) (8 * i)

/-- A cell slot of a RADIO_MAP section. -/
structure CellSlot where
  group : Nat
  bw    : Nat
  ports : Nat
  dl    : Nat
  ul    : Nat
  stack : Nat
  spires : Nat
  lanes : Nat
  deriving DecidableEq, Repr

/-- Cell slot `c` of a Figure. -/
def Pavane.cellSlot (p : Pavane) (fig c : Nat) : Option CellSlot :=
  match (p.radio.get [] fig).find? (fun r => r % 16 == 2 && recBytes r 2 2 % 512 == c) with
  | some r => some ⟨recBytes r 4 1 % 16, recBytes r 5 1, recBytes r 6 1, recBytes r 7 1 % 32, recBytes r 8 1 % 16,
      recBytes r 9 1 % 32, recBytes r 12 4, recBytes r 16 8⟩
  | none => none

/-- Cell slot `c` of the active Figure. -/
def State.cellSlot (s : State) (c : Nat) : Option CellSlot :=
  match s.image with
  | some p => p.cellSlot s.fab.figure c
  | none => none

/-- Is a cell live (R299)? -/
def RadioCell.live (c : RadioCell) : Bool := c.state = .starting || c.state = .active || c.state = .stopping

/-- The live cells. -/
def State.liveCells (s : State) : List Nat := s.radio.cells.keys.filter (fun c => (s.cell c).live)

/-! ### Conditions on a Pavane or a Figure that is to become active -/

/-- Is an image compiled without Tower `t` (R29)? -/
def Pavane.without (p : Pavane) (t : Nat) : Bool :=
  let spires := (List.range 8).map (· + 8 * t)
  let own := (List.range 6).map (· + 6 * t)
  (p.xbar.get [] t).isEmpty
  && own.all (fun h => (p.hbm.get [] h).isEmpty)
  && p.belfry.all (fun r => !decide (Config.belfryBlockTower (field r 16 11) = some t)
       && !decide (Config.belfryBlockTower (field r 10 5) = some t))
  && (List.range 32).all (fun k => (List.range 4).all (fun j =>
       match p.stream k j with
       | some d => !spires.contains k && !own.contains d.stack
       | none => true))
  && p.figureList.all (fun f => spires.all (fun k => p.role f k = .inferenceOnly && (p.winOf f k).isEmpty))
  && spires.all (fun k => p.jobLimit k == 32)
  && p.figureList.all (fun f => (p.radio.get [] f).all (fun r =>
       r % 16 != 2 || (spires.all (fun k => !bitAt (recBytes r 12 4) k) && !own.contains (recBytes r 9 1 % 32))))

/-- Is an image compiled without every Tower that is out of service (R29)? -/
def State.towersAllow (s : State) (p : Pavane) : Bool :=
  (List.range 4).all (fun t => !s.rel.towerOut.getLsbD t || p.without t)

/-- Does a Figure carry every live cell with the same group, shape, lanes and ring stack (R300)? -/
def State.cellsAllow (s : State) (p : Pavane) (fig : Nat) : Bool :=
  s.liveCells.all (fun c =>
    match s.cellSlot c, p.cellSlot fig c with
    | some a, some b => decide ({ a with spires := 0 } = { b with spires := 0 })
    | _, _ => false)

/-- Distance from the end of window `a` to the start of window `b`, counted through the period start (R439). -/
def windowGap (a b : Nat × Nat) : Nat := (b.1 + planPeriod - a.2) % planPeriod

/-- Does every window of an image keep 4,400 CCLK from the test window (R503)? -/
def State.testAllows (s : State) (p : Pavane) (figs : List Nat) : Bool :=
  let t := (s.rel.testStart.toNat, s.rel.testStart.toNat + s.rel.testLen.toNat)
  !s.rel.testEnable || figs.all (fun f => (List.range 32).all (fun k => (p.winOf f k).all (fun w =>
    !(decide (w.1 < t.2 ∧ t.1 < w.2)) && decide (4400 ≤ windowGap w t) && decide (4400 ≤ windowGap t w))))

/-- Is a Spire in one of the states that R441 protects? -/
def SpireMode.working : SpireMode → Bool
  | .loading | .armed | .running | .stopped | .replay => true
  | _ => false

/-- Does no Figure make radio-owned a Spire that works (R441), and does JOB_LIMIT stay where R245 asks it to? -/
def State.spiresAllow (s : State) (p : Pavane) : Bool :=
  (List.range 32).all (fun k =>
    let m := (s.spire k).seq.mode
    (!m.working || s.role k = .radioOwned || p.figureList.all (fun f => p.role f k ≠ .radioOwned))
    && (!(m = .armed || m = .running || m = .stopped || m = .replay)
        || p.jobLimit k == (s.spire k).xb.jobLimit.toNat))

end Sys2Proof.Machine
end

