-- ==== Sys2Proof/Machine/RadioFault.lean ====
section
/-! DEFINITION. What a fault in the radio partition does to cells (Table 9.12). -/

namespace Sys2Proof.Machine

open Sys2Proof

/-! ### Slots (R308) -/

/-- Timing group `n`. -/
def State.group (s : State) (n : Nat) : RadioGroup := s.radio.groups.get RadioGroup.reset n

/-- The timing group of a cell. -/
def State.groupOf (s : State) (c : Nat) : RadioGroup := s.group (s.cell c).group.toNat

/-- The GPS epoch in the hall time of TAI, ns. -/
def gpsEpochNs : Nat := 315964819 * nsPerSec

/-- Slot length of a group, ns; of an even and the odd slot at µ = 2 half their sum. -/
def RadioGroup.slotNs (g : RadioGroup) : Nat := 1000000 / 2 ^ g.mu.toNat

/-- The hall time, ns, at which slot 0 of a group starts. -/
def RadioGroup.origin (g : RadioGroup) : Nat := gpsEpochNs + g.offsetNs.toNat

/-- Slots that are added to every count, so that a time before a group's origin has a slot too: a multiple of 2^32 and of 1,024
frames, and longer than the time since the PTP epoch to any origin. -/
def slotBase : Nat := 2 ^ 32 * 40960

/-- The slot of a hall time by R308, counted without wrap: its absolute slot number is this modulo 2^32. -/
def RadioGroup.slotAt (g : RadioGroup) (t : Nat) : Nat := (t / 2 ^ 32 + slotBase * g.slotNs - g.origin) / g.slotNs

/-- Is a slot one that the cell serves? -/
def RadioCell.serves (c : RadioCell) (a : Nat) : Bool := match c.endSlot with
  | some e => decide (a < e)
  | none => true

/-! ### Lost slots (R338) -/

/-- Cell `c` loses one of the slots that it serves: it is counted, once, and its uplink record is due. -/
def loseOne (c : Nat) (s : State) (a : Nat) : State :=
  let x := s.cell c
  if (x.state = .active || x.state = .stopping) && x.serves a && !x.lostSlots.contains a then
    s.modCell c (fun y => { y with slotsLost := satInc y.slotsLost, lostSlots := y.lostSlots ++ [a] })
  else s

/-- Cell `c` loses these slots. -/
def loseSlots (c : Nat) (l : List Nat) (s : State) : State := l.foldl (loseOne c) s

/-- A cell loses the slot in process. -/
def loseSlot (c : Nat) (s : State) : State := loseSlots c [(s.groupOf c).slotAt s.now] s

/-- FAIL_CAUSE of a cell (CELL_n_STATUS): 1 SPIRE, 2 ENGINE, 3 LANE. -/
def RadioPart.cause : RadioPart → BitVec 3
  | .spire _ => 1
  | .engine => 2
  | .lane _ => 3

/-- Does a cell slot use the part? Every cell slot uses the engines. -/
def CellSlot.uses (c : CellSlot) : RadioPart → Bool
  | .spire k => bitAt c.spires k
  | .engine => true
  | .lane n => bitAt c.lanes n

/-- The live cells whose cell slot uses the part. -/
def State.cellsUsing (s : State) (p : RadioPart) : List Nat :=
  s.liveCells.filter (fun c =>
    match s.cellSlot c with
    | some d => d.uses p
    | none => false)

/-- Does a Figure carry every live cell (R300) and keep these cells off the part? An engine is not named by cell slots, so
a covering Figure is one whose ENGINE_PLAN differs (log entry 16). -/
def State.covers (s : State) (img : Pavane) (part : RadioPart) (cells : List Nat) (fig : Nat) : Bool :=
  decide (fig ≠ s.fab.figure) && s.cellsAllow img fig
  && decide (img.stepSet fig = img.stepSet s.fab.figure)
  && (match part with
      | .engine => decide (img.engines.get [] fig ≠ img.engines.get [] s.fab.figure)
      | _ => cells.all (fun c =>
          match img.cellSlot fig c with
          | some d => !d.uses part
          | none => false))

/-- The covering Figure, the lowest-numbered one, that the Dome may arm: none while an activation is pending (R362, R369). -/
def State.coveringFigure (s : State) (part : RadioPart) (cells : List Nat) : Option Nat :=
  match s.image with
  | some img =>
    if s.fab.activation.isNone then
      img.figureList.find? (fun f => s.covers img part cells f)
    else none
  | none => none

/-- The hall time of the second period start after now (R338). -/
def State.secondPeriod (s : State) : Nat := (s.now / periodUnits + 2) * periodUnits

/-- These cells lose every slot from the one in process on. -/
def losingCells (cells : List Nat) (s : State) : State :=
  cells.foldl (fun t c => (loseSlot c t).modCell c (fun x => { x with losing := true })) s

/-- These cells of a part at fault lose their slots: until the switch to a covering Figure, which the Dome arms, or, while a switch is
armed or drains, until that is over (R378); with no covering Figure they go to FAILED. -/
def partFault (part : RadioPart) (cells : List Nat) (s : State) : State :=
  if cells.isEmpty then s
  else if s.fab.switch.isSome || s.fab.drain.isSome then
    losingCells cells { s with radio := { s.radio with parts := s.radio.parts.filter (· != part) ++ [part] } }
  else match s.coveringFigure part cells with
    | some f =>
      let d : Deferred := ⟨s.fab.active.getD false, f, s.secondPeriod, .dome⟩
      losingCells cells { s with fab := { s.fab with switch := some d, figAt := hallOf s.secondPeriod } }
    | none => cells.foldl (fun t c => (loseSlot c t).modCell c (fun x =>
        { x with state := .failed, failCause := part.cause, losing := false })) s

/-- A fault in a part of the partition (Table 9.12, rows 1, 3 and 4); cells that lose their slots already are not looked at again. The
Dome is notified (R565, bit 4). -/
def radioPartFault (part : RadioPart) (s : State) : State :=
  let cells := (s.cellsUsing part).filter (fun c => !(s.cell c).losing)
  if cells.isEmpty then s else partFault part cells (ringDome 4 s)

/-- A Figure has become active: the cells that it keeps off every part that waits lose no more slots. -/
def recoverCells (s : State) : State :=
  let bad := s.radio.parts.flatMap s.cellsUsing
  (s.radio.cells.keys.filter (fun c => !bad.contains c)).foldl (fun t c => t.modCell c (fun x => { x with losing := false })) s

/-- A switch that should have covered them is not made: the cells that lose their slots go to FAILED with cause PLAN (log entry 147). -/
def failLosing (s : State) : State :=
  (s.radio.cells.keys.filter (fun c => (s.cell c).losing)).foldl (fun t c => t.modCell c (fun x =>
    { x with state := .failed, failCause := 4, losing := false })) { s with radio := { s.radio with parts := [] } }

/-- No switch is armed and none drains: the Dome looks again at the parts that wait (R378). -/
def retryParts (s : State) : State :=
  s.radio.parts.foldl (fun t p => partFault p (t.cellsUsing p) t) { s with radio := { s.radio with parts := [] } }

/-- The slots that depend on a Spire's window work are lost; the cells stay ACTIVE (Table 9.12, row 2). -/
def loseWindowSlots (k : Nat) (s : State) : State := (s.cellsUsing (.spire k)).foldl (fun t c => loseSlot c t) s

end Sys2Proof.Machine
end

