-- ==== Sys2Proof/Machine/SpireOps.lean ====
section
/-! DEFINITION. Shared operations of one Spire: flags, protected and pending ranges, the start and end of a hold, stopping
the array, program faults, quarantine and fencing, teardown of a job, wipes, windows and replays (04, 07, 13, 15). -/

namespace Sys2Proof.Machine

open Sys2Proof

/-! ### Registers of the sequencers -/

/-- Change the sequencers of Spire `k`. -/
def State.modSeq (s : State) (k : Nat) (f : SeqState → SeqState) : State :=
  s.modSpire k (fun p => { p with seq := f p.seq })

/-- Change the vector unit of Spire `k`. -/
def State.modVu (s : State) (k : Nat) (f : VuState → VuState) : State :=
  s.modSpire k (fun p => { p with vu := f p.vu })

/-- Change the array of Spire `k`. -/
def State.modArr (s : State) (k : Nat) (f : ArrState → ArrState) : State :=
  s.modSpire k (fun p => { p with arr := f p.arr })

/-- Change the control core of Spire `k`. -/
def State.modCc (s : State) (k : Nat) (f : CcState → CcState) : State :=
  s.modSpire k (fun p => { p with cc := f p.cc })

/-- Change the crossbar port of Spire `k`. -/
def State.modXb (s : State) (k : Nat) (f : XbState → XbState) : State :=
  s.modSpire k (fun p => { p with xb := f p.xb })

/-- Change the store of Spire `k`. -/
def State.modStore (s : State) (k : Nat) (f : Mem → Mem) : State :=
  s.modSpire k (fun p => { p with store := f p.store })

/-- The flags as they are visible in CCLK `c` (R228). -/
def SeqState.flagsNow (q : SeqState) (c : Nat) : BitVec 16 := if q.flagsAt < c then q.flagsNext else q.flags

/-- Set and clear flags in CCLK `c`; SET wins (Table 7.2, R228). -/
def SeqState.changeFlags (q : SeqState) (c : Nat) (set clear : BitVec 16) : SeqState :=
  { q with flags := q.flagsNow c, flagsAt := c, flagsNext := (q.flagsNext &&& ~~~clear) ||| set }

/-- Set flag `n` of Spire `k` now. -/
def setFlag (k n : Nat) (s : State) : State := s.modSeq k (fun q => q.changeFlags s.cyc (BitVec.twoPow 16 n) 0)

/-- Set SEQ_CMD.STATUS of Spire `k`; the registers of a Spire that is out of service keep what they held (R34). -/
def setCmdStatus (k st : Nat) (s : State) : State :=
  if s.inService k then s.modSeq k (fun q => { q with status := BitVec.ofNat 8 st }) else s

/-! ### Whose work (R198) -/

/-- The job whose BANK_M work Spire `k` runs; 0 for none. -/
def Context.jobId : Context → Nat
  | .job id => id
  | _ => 0

/-- The job that the work of the bank in use belongs to; 0 for none and for radio work. -/
def Spire.workJob (p : Spire) : Nat := if p.vu.inS then 0 else p.ctx.jobId

/-- A running job by its JOB_ID. -/
def State.job (s : State) (id : Nat) : Option Job := s.dsp.running.find? (fun j => j.id == id)

/-- The lease of a job; 0 if there is no such job. -/
def State.jobLease (s : State) (id : Nat) : Nat :=
  match s.job id with
  | some j => j.lease
  | none => 0

/-- The lease whose job holds Spire `k`. -/
def State.holder (s : State) (k : Nat) : Option Nat :=
  match (s.spire k).ctx with
  | .job id => (s.job id).map (·.lease)
  | _ => none

/-- Change a running job. -/
def State.modJob (s : State) (id : Nat) (f : Job → Job) : State :=
  { s with dsp := { s.dsp with running := s.dsp.running.map (fun j => if j.id = id then f j else j) } }

/-- Is the work of a bank of Spire `k` radio-class work (R198)? -/
def State.radioWork (s : State) (k : Nat) (inS : Bool) : Bool :=
  inS || decide ((s.spire k).ctx = .radio)

/-! ### Descriptors and ranges (R120, R141, R220) -/

/-- The descriptor at a store address. -/
def Mem.desc (m : Mem) (a : Nat) : PassDesc := decodeDesc (m.readLE a 64)

/-- CCLK in which the last vector of a pass enters (Table 4.7). -/
def Pass.lastEnter (p : Pass) : Nat := p.start + p.load + 1 + (p.desc.v - 1) * p.desc.interval

/-- Release CCLK of a pass (Table 4.7). -/
def Pass.releaseAt (p : Pass) : Nat := p.start + p.load + (p.desc.v - 1) * p.desc.interval + 16

/-- The entries of the replay list that are re-issued and not decided. -/
def SeqState.replaying (q : SeqState) : List Nat := (q.issues.filter (·.replay)).map (·.desc)

/-- The protected ranges of a Spire's passes in CCLK `c`: started, queued and waiting for replay, and the pass whose release
CCLK it is (R220, R239, R510). -/
def Spire.protectedRanges (p : Spire) (c : Nat) : List (Nat × Nat) :=
  p.arr.passes.flatMap (fun x => x.desc.reads x.addr)
  ++ (match p.arr.queued with
      | some q => q.desc.reads q.addr
      | none => [])
  ++ (p.seq.replaying ++ p.seq.replay).flatMap (fun a => (p.store.desc a).reads a)
  ++ (if p.arr.releasedAt = c then p.arr.lastReads else [])

/-- Does a write of `n` bytes at `a` in CCLK `c` touch a protected range? -/
def Spire.isProtected (p : Spire) (c a n : Nat) : Bool := (p.protectedRanges c).any (fun r => rangesMeet r (a, n))

/-- Does a read of `n` bytes at `a` touch a pending range (R141)? -/
def Spire.isPending (p : Spire) (a n : Nat) : Bool :=
  p.arr.passes.any (fun x => rangesMeet (x.desc.pending.1, x.desc.pending.2 - x.desc.pending.1) (a, n))

/-- What a decision on an ISSUE looks at in the array now. -/
def ArrState.view (a : ArrState) : ArrView := ⟨a.passes.flatMap (fun x => x.desc.reads x.addr), a.queued.isSome⟩

/-- Why an array that stands as `v` refuses descriptor `d` at address `a` issued from a bank, if it does (R129, R130, R221). A
descriptor that breaks R129 or R221 while another is queued gets ST_BAD_ARGUMENT (DESIGN CHOICE, log entry 138: no rule puts
one status before the other). -/
def State.refusalOf (s : State) (k : Nat) (inS : Bool) (a : Nat) (d : PassDesc) (v : ArrView) : Option Nat :=
  let own := s.owned k inS
  let pend := (d.pending.1, d.pending.2 - d.pending.1)
  if !d.ok a own.1 own.2 then some stBadArg
  else if v.reads.any (fun r => rangesMeet r pend) then some stBadArg
  else if v.queued then some stConflict
  else none

/-- Why the array would refuse the descriptor at address `a` now, if it would. -/
def State.refusal (s : State) (k : Nat) (inS : Bool) (a : Nat) : Option Nat :=
  s.refusalOf k inS a ((s.spire k).store.desc a) (s.spire k).arr.view

/-! ### Quarantine and scores (R517, R520) -/

/-- Quarantine Spire `k` and request its confirmation visit; a fenced Spire stays as it is (R519). -/
def quarantine (k : Nat) (s : State) : State :=
  if (s.healthOf k).fenced then s
  else
    let s1 := s.modHealth k (fun h => { h with quarantined := true, confirm := true })
    { s1 with rel := { s1.rel with
      confirmQueue := if s1.rel.confirmQueue.contains k then s1.rel.confirmQueue else s1.rel.confirmQueue ++ [k] } }

/-- A Spire that is to be quarantined after its job (Table 15.3) is quarantined as its job ends. -/
def quarantineAfter (k : Nat) (s : State) : State :=
  if s.rel.quarAfter.contains k then
    quarantine k { s with rel := { s.rel with quarAfter := s.rel.quarAfter.filter (· != k) } }
  else s

/-- Change a score, limited to 0 to 1,000. -/
def SpireHealth.change (d : Int) (h : SpireHealth) : SpireHealth :=
  { h with score := (max 0 (min 1000 ((h.score : Int) + d))).toNat }

/-! ### Release and abandonment (R131, R141, R144, R145) -/

/-- Flags of a pass (ARR_LAST_FLAGS). -/
def Pass.flags (p : Pass) : BitVec 5 :=
  BitVec.ofNat 5 (b2n (0 < p.inexactRe + p.inexactIm) + 2 * b2n (0 < p.clamped) + 4 * b2n p.skipped
    + 8 * b2n p.rowSkip + 16 * b2n p.saturated)

/-- The release record of a pass of a job. -/
def Pass.record (p : Pass) (job : Nat) : ReleaseRec := ⟨p.desc, p.addr, job, p.desc.tag, p.inDigest, p.longDigest⟩

/-- The release record and the Tower's count of releases (R515). -/
def releaseRecord (k : Nat) (p : Pass) (s : State) : State :=
  let t := k / 8
  let n := s.rel.releases.get 0 t + 1
  let full := decide (n = 2 ^ s.rel.shadowK.toNat)
  { s with rel := { s.rel with
    records := s.rel.records.set none k (some (p.record (s.spire k).workJob)),
    releases := s.rel.releases.set 0 t (if full then 0 else n),
    shadow := if full then s.rel.shadow.set none t (some k) else s.rel.shadow } }

/-- Make one write of the array: a whole word takes the poison of the pass; half a word keeps the poison that the word had
besides (R251). -/
def Mem.arrWrite (m : Mem) (w : ArrWrite) : Mem :=
  (m.writeLE w.addr w.bytes (w.word.toNat % 2 ^ (8 * w.bytes))).setPoison (w.addr / 32)
    (w.poison || (decide (w.bytes < 32) && m.poisonedAt w.addr))

/-- Release the first pass of Spire `k` (R131, R134): what it still had to write is written, the array's registers, event 0x0102, the job's last release
(R89), the release record, the count of tainted passes (Table 15.2). -/
def releaseFirst (k : Nat) (s : State) : State :=
  match (s.spire k).arr.passes with
  | [] => s
  | p :: rest =>
    let s0 := s.modStore k (fun m => p.writes.foldl Mem.arrWrite m)
    let s1 := s0.modArr k (fun a => { a with
      lastReads := p.desc.reads p.addr, releasedAt := s.cyc
      passes := rest, released := BitVec.ofNat 32 p.seq, lastTag := BitVec.ofNat 16 p.desc.tag, lastFlags := p.flags,
      lastInexact := BitVec.ofNat 32 (p.inexactRe + p.inexactIm), lastClamp := BitVec.ofNat 32 p.clamped })
    let s2 := countSpire k 0x0102 1 (releaseRecord k p s1)
    let s3 := s2.modJob (s.spire k).workJob (fun j => { j with lastPlan := s.planTotal })
    if p.tainted then s3.modRelCounters (fun c => { c with tainted := satInc c.tainted }) else s3

/-- Is a pass due for release by CCLK `t`: every check made, none failed? -/
def Pass.due (p : Pass) (t : Nat) : Bool :=
  decide (p.releaseAt ≤ t) && p.rowDone && decide (p.checked = p.desc.v) && !p.failed && !p.held

/-- Release every pass of Spire `k` that is due by CCLK `t`, oldest first; at most three are started. -/
def releaseDue (k t : Nat) : Nat → State → State
  | 0, s => s
  | n + 1, s =>
    match (s.spire k).arr.passes with
    | [] => s
    | p :: _ => if p.due t then releaseDue k t n (releaseFirst k s) else s

/-- Free values in a pass's pending range (R145, log entry 1). -/
def havocPending (p : Pass) (seed : Nat) (m : Mem) : Mem :=
  let n := p.desc.pending.2 - p.desc.pending.1
  m.writeBytes p.desc.pending.1 ((List.range n).map (fun i => BitVec.ofNat 8 (Config.freeByte seed (p.desc.pending.1 + i))))

/-- Abandon a pass (R144, R145): event 0x0103, ARR_STICKY.ABANDONED, its pending range undefined. -/
def abandonPass (k : Nat) (s : State) (p : Pass) : State :=
  let s1 := s.modSpire k (fun x => { x with
    arr := { x.arr with sticky := x.arr.sticky ||| 0x40 }
    store := havocPending p s.free x.store })
  countSpire k 0x0103 1 s1.useFree

/-- The error record of a disputed pass, with the bound of its disagreement in DETAIL (Table 15.5). -/
def disputeRecord (outcome : Nat) (d : Dispute) (s : State) : State :=
  errRecord 3 outcome d.spire (s.jobLease d.job) d.tag d.job (s.spire d.spire).arr.dis.tol.toNat s

/-- The dispute of Spire `k`. -/
def State.disputeOf (s : State) (k : Nat) : Option Dispute := s.rel.disputes.find? (fun d => d.spire == k)

/-- Drop the dispute of Spire `k`. -/
def dropDispute (k : Nat) (s : State) : State :=
  { s with rel := { s.rel with disputes := s.rel.disputes.filter (fun d => d.spire != k) } }

/-- A stop takes the dispute of a Spire away (R146, R534): the original is quarantined; a recompute that runs completes,
and its verdict changes only health. -/
def stopDispute (k : Nat) (s : State) : State :=
  match s.disputeOf k with
  | none => s
  | some d =>
    if s.rel.recomputes.any (fun r => r.original == k && !r.shadow && !r.done) then
      let stop (x : Dispute) : Dispute := if x.spire = k then { x with stopped := true } else x
      quarantine k { s with rel := { s.rel with disputes := s.rel.disputes.map stop } }
    else quarantine k (dropDispute k (disputeRecord 2 d s))

/-- An undecided ISSUE is from now on decided against the array as it stands as `v`; an earlier stop or disagreement goes
first. -/
def IssueCheck.against (i : IssueCheck) (v : ArrView) : IssueCheck := { i with asAt := some (i.asAt.getD v) }

/-- Stop the array of Spire `k` in CCLK `t` (R144, R146, R234): a pass in its release CCLK is released; every other one is
abandoned, the queued descriptor is discarded, the shadow plane is cleared. With `keep`, what was abandoned and discarded
enters the replay list in the order of acceptance, before the entries that still wait (R237), and an ISSUE between issue
and decision is decided against the array's state as at the stop, before the stop empties it (DEDUCED, log entry 140). A check
that falls due by CCLK `t` may still fail (Table 4.9): its pass stays in `ceased`. -/
def arrayStop (k t : Nat) (keep : Bool) (s : State) : State :=
  let s1 := stopDispute k (releaseDue k t 3 s)
  let a := (s1.spire k).arr
  let q := (s1.spire k).seq
  let gone := a.passes.map (·.addr) ++ (match a.queued with
    | some d => [d.addr]
    | none => [])
  let checks := if keep then (q.issues.filter (fun i => !i.replay)).map (fun i => i.against a.view) else []
  let s2 := a.passes.foldl (abandonPass k) s1
  let s3 := s2.modArr k (fun x => { x with
    passes := [], queued := none, shadow := Plane.empty, load := none, verdictWait := false, nextStart := 0,
    ceased := a.passes, ceasedAt := t })
  s3.modSeq k (fun y => { y with
    issues := checks, replay := if keep then (gone ++ q.replaying ++ q.replay).take 4 else [] })

/-! ### Transfers, threads and remote requests of a context that ends -/

/-- Cancel every transfer of Spire `k` (R274): nothing further moves, no flag is set. -/
def cancelTransfers (k : Nat) (s : State) : State :=
  s.modXb k (fun x => { x with streams := Tab.empty, requests := [] })

/-- Halt the control core of Spire `k`; a request of its threads ends with its job (R457). -/
def haltThreads (k : Nat) (s : State) : State :=
  let s1 := s.modCc k (fun c => { c with
    threads := c.threads.modifyAll Thread.reset (List.range 8)
      (fun _ t => { t with mode := .halted, wait := .nothing }), paths := [] })
  let rs := s1.rm.reqs.map (fun r =>
    match r.owner with
    | .thread x _ _ => if x = k then { r with dropped := true } else r
    | _ => r)
  let fs := s1.rm.fences.filter (fun f =>
    match f.owner with
    | .thread x _ _ => x != k
    | _ => true)
  { s1 with rm := { s1.rm with reqs := rs, fences := fs, badWrites := s1.rm.badWrites.filter (fun b => b.1 / 8 != k) } }

/-! ### Wipes (R109, R148, R209, R228, R241, R244) -/

/-- The wipe's register part on a Spire: array registers, BANK_M with its sticky bits, residue registers, SEQ_IVEC,
SEQ_FAULT, flags, every CC register, the crossbar port's clash and refusal registers, counters and event selects, and with the
counts their snapshots (DESIGN CHOICE, log entry 138: R109 names counts and event selects only). BANK_S, and what radio work has
in the array while BANK_S is in use, stay (R207); those passes count on from an ARR_SEQ_STARTED of 0. -/
def Spire.wipeRegs (p : Spire) : Spire :=
  let arr := if p.vu.inS then
      { ArrState.reset with
        passes := p.arr.passes.map (fun x => { x with seq := (x.seq + 2 ^ 32 - p.arr.started.toNat) % 2 ^ 32 })
        queued := p.arr.queued, shadow := p.arr.shadow, active := p.arr.active,
        load := p.arr.load, lastSwap := p.arr.lastSwap, nextStart := p.arr.nextStart, verdictWait := p.arr.verdictWait }
    else ArrState.reset
  let vu := { p.vu with
    bankM := Bank.reset, stickyM := 0, residue := ResidueInfo.reset, residueCycle := 0, stopped := false,
    flights := p.vu.flights.filter (·.inS) }
  let seq := { p.seq with
    ivec := 0, fault := FaultRec.reset, faultCycle := 0, flags := 0, flagsNext := 0, hold := none, inHandler := false,
    replay := [], stoppedFault := false, pc := 0, issues := [], starts := 0, startSet := false, fromArmed := false }
  let xb := { p.xb with
    clash := 0, clashBank := 0, clashCycle := 0, clashValid := false, lastRefusal := 0, refused := false }
  { p with ctx := .none, arr := arr, vu := vu, seq := seq, cc := CcState.reset, xb := xb,
           cnt := { p.cnt with pmc := Tab.empty } }

/-- Zero the job part of Spire `k`'s store (R244). -/
def wipeJobPart (k : Nat) (s : State) : State :=
  let n := s.jobPart k
  s.modStore k (fun m => m.clearRange 0 n)

/-- The wipe at a job's start (R109, R148, R209, R228, R241, R244): every register of the wipe and the job part of the store,
while the Spire is LOADING; the image is in place once the wipe's JOB_LIMIT × 512 CCLK are over (DEDUCED, log entry 140). What
the Spire's context and its command interface hold stays. -/
def startClean (k : Nat) (s : State) : State :=
  let q0 := (s.spire k).seq
  let n := (s.spire k).xb.jobLimit.toNat * 512
  wipeJobPart k ((s.modSpire k (fun p => { p.wipeRegs with ctx := p.ctx })).modSeq k (fun q => { q with
    mode := .loading, wipeLeft := n, ivec := q0.ivec, starts := q0.starts, pc := q0.pc }))

/-- ENDING to WIPING, or FAULTED to WIPING (Table 7.9): the registers are wiped now, the job part of the store in
JOB_LIMIT × 512 CCLK. -/
def startWipe (k : Nat) (s : State) : State :=
  let n := (s.spire k).xb.jobLimit.toNat * 512
  quarantineAfter k ((s.modSpire k Spire.wipeRegs).modSeq k (fun q => { q with mode := .wiping, wipeLeft := n }))

/-! ### Endings (Table 7.9, R457) -/

/-- Length of a drain (R199). -/
def drainLen : Nat := 12

/-- Length of a bank switch (R201). -/
def switchLen : Nat := 4

/-- Enter ENDING (R274, Table 7.8): transfers are cancelled, threads stop, the array stops unless BANK_S uses it, and
BANK_M drains for 12 CCLK unless it has drained. -/
def enterEnding (k : Nat) (s : State) : State :=
  let c := s.cyc
  let inS := (s.spire k).vu.inS
  let s1 := if inS then s.modSeq k (fun q => { q with replay := [] }) else arrayStop k c false s
  let s2 := haltThreads k (cancelTransfers k s1)
  let s3 := s2.modSeq k (fun q => { q with
    mode := .ending, hold := none, startSet := false, fromArmed := false, stopPower := false, stoppedFault := false })
  if inS then startWipe k s3
  else
    match (s3.spire k).vu.phase with
    | .steady => s3.modVu k (fun v => { v with phase := .draining (c + drainLen) .ending })
    | .draining u .interrupt => s3.modVu k (fun v => { v with phase := .draining u .ending })
    | .draining _ _ => s3
    | .switching _ _ => startWipe k s3

/-- Does ABORT apply (Table 7.9)? -/
def SpireMode.abortable (m : SpireMode) : Bool := m.working

/-- ABORT on one Spire. -/
def abortSpire (k : Nat) (s : State) : State :=
  if (s.spire k).seq.mode.abortable then setCmdStatus k stOk (enterEnding k s) else setCmdStatus k stConflict s

/-- Place of a Spire among a job's ranks. -/
def rankOf (k : Nat) (l : List Nat) : Nat := l.findIdx (· == k)

/-- The first ending other than END of a job (R457): recorded with its rank, every other Spire of the job that still works
is aborted, the job's remote requests end. -/
def endJob (id status cause bundle k0 : Nat) (s : State) : State :=
  match s.job id with
  | none => s
  | some j =>
    if j.abnormal.isSome then s
    else
      let s1 := s.modJob id (fun x => { x with
        abnormal := some ⟨status, cause, bundle, rankOf k0 j.spires⟩, phase := .ending })
      let s2 := (j.spires.filter (· != k0)).foldl
        (fun t k => if (t.spire k).seq.mode.abortable then abortSpire k t else t) s1
      { s2 with rm := { s2.rm with reqs := s2.rm.reqs.map (fun r => if r.job = id then { r with dropped := true } else r) } }

/-- A number that is no Spire: an ending that starts on none. -/
def noSpire : Nat := 32

/-! ### Fencing (R519, R34) -/

/-- FENCE on Spire `k` (Table 7.9), with its own status the last thing that its registers take (R34): FENCED until the next chip reset, its ID_SPIRES bit and score cleared, its job ended
with ST_FAULT, the cells of a radio-owned Spire handled under Table 9.12. A wipe in progress completes first. -/
def fenceSpire (k : Nat) (s : State) : State :=
  let m := (s.spire k).seq.mode
  if m = .off || m = .fenced then setCmdStatus k stConflict s
  else
    let c := s.cyc
    let radio := decide (s.role k = .radioOwned)
    let job := (s.spire k).ctx.jobId
    let s1 := if m = .wiping then s else arrayStop k c false s
    let s2 := haltThreads k (cancelTransfers k s1)
    let s3 := s2.modSpire k (fun p => { p with
      seq := { p.seq with
        mode := .fenced, fencing := decide (m = .wiping), hold := none, holdS := none, startSet := false, reclaim := false,
        window := false, irq := false, status := BitVec.ofNat 8 stOk }
      vu := { p.vu with phase := .steady, flights := [] }
      cnt := { p.cnt with frozen := some c } })
    let s4 := s3.modHealth k (fun h => { h with fenced := true, score := 0 })
    let s5 := { s4 with rel := { s4.rel with inService := s4.rel.inService &&& ~~~BitVec.twoPow 32 k } }
    let s6 := if job = 0 then s5 else endJob job stFault 0 0 k s5
    if radio then radioPartFault (.spire k) s6 else s6

/-- Is Spire `k` a referee in this test window? -/
def State.referees (s : State) (k : Nat) : Bool := s.rel.recomputes.any (fun r => r.referee == k)

/-- Fence Spire `k` by the reliability block (R519): after the window if it is a referee now (R534). -/
def fenceByRel (k : Nat) (s : State) : State :=
  if s.referees k then { s with rel := { s.rel with
    fenceAfter := if s.rel.fenceAfter.contains k then s.rel.fenceAfter else s.rel.fenceAfter ++ [k] } }
  else fenceSpire k s

/-- Change Spire `k`'s score; at FENCE_AT or below the Spire is fenced (R519, R520). -/
def changeScore (k : Nat) (d : Int) (s : State) : State :=
  let s1 := s.modHealth k (SpireHealth.change d)
  if (s1.healthOf k).score ≤ s.rel.fenceAt.toNat ∧ (s1.healthOf k).fenced = false then fenceByRel k s1 else s1

/-! ### Faults (R197, R218, R223 to R225) -/

/-- Record a fault in SEQ_FAULT and SEQ_FAULT_CYCLE (R223, R224); THREAD for causes 0x04 and 0x0B alone. -/
def recordFault (k : Nat) (inS : Bool) (cause thread pc : Nat) (s : State) : State :=
  let th := if cause = 0x04 ∨ cause = 0x0B then thread else 0
  s.modSeq k (fun q => { q with
    fault := ⟨true, inS, BitVec.ofNat 6 cause, BitVec.ofNat 3 th, BitVec.ofNat 20 pc⟩
    faultCycle := loWord s.cyc })

/-- Is a fault of a bank the first of its context: has the bank not stopped or ended on one? -/
def State.firstFault (s : State) (k : Nat) (inS : Bool) : Bool :=
  let p := s.spire k
  (if inS then !p.seq.sStopped
   else p.seq.mode.working && !p.seq.stoppedFault)
  && (match p.vu.phase with
      | .draining _ w => !(w = .progFault || w = .disagree || w = .residue)
      | _ => true)

/-- Does a fault of the bank in use begin a drain of its own: there is none, or one that ends with more bundles of that bank or
with none, which the fault's drain replaces (R207, R224)? A drain towards a bank switch goes on. -/
def VuPhase.yields : VuPhase → Bool
  | .steady => true
  | .draining _ .interrupt => true
  | .draining _ .stopPower => true
  | _ => false

/-- A program fault in CCLK `c` (R224, R225, Table 7.6). The bank issues nothing from `c + 1` and drains; the array stops
after the drain. -/
def programFault (k : Nat) (inS : Bool) (cause thread pc : Nat) (s : State) : State :=
  if !s.firstFault k inS then s
  else
    let c := s.cyc
    let p := s.spire k
    let s1 := recordFault k inS cause thread pc s
    let drain (t : State) : State :=
      if p.vu.inS = inS ∧ p.vu.phase.yields then
        t.modVu k (fun v => { v with phase := .draining (c + 1 + drainLen) .progFault })
      else t
    if inS && s.role k ≠ .radioOwned then
      ringDome 4 (loseWindowSlots k (drain (s1.modSeq k (fun q => { q with sStopped := true, holdS := none }))))
    else if p.ctx = .radio || s.role k = .radioOwned then
      radioPartFault (.spire k)
        (ringDome 4 (drain (s1.modSeq k (fun q => { q with stoppedFault := true, hold := none }))))
    else
      let s2 := drain (s1.modSeq k (fun q => { q with
        mode := .ending, hold := none, startSet := false, fromArmed := false, stopPower := false }))
      let s3 := haltThreads k (cancelTransfers k s2)
      let s4 := endJob p.ctx.jobId stBadArg cause pc k s3
      if p.vu.inS then startWipe k s4 else s4

/-- A poisoned word read by a VLD, a gather, a control-core load, a transfer descriptor or a pass descriptor of an
inference job (Table 15.2): timing as for a program fault, the job ends with ST_UNUSABLE, no CAUSE is recorded. -/
def poisonEnd (k : Nat) (s : State) : State :=
  let c := s.cyc
  let p := s.spire k
  if !s.firstFault k false then s
  else
    let s1 := s.modSeq k (fun q => { q with
      mode := .ending, hold := none, startSet := false, fromArmed := false, stopPower := false })
    let s2 := if !p.vu.inS ∧ p.vu.phase.yields then
        s1.modVu k (fun v => { v with phase := .draining (c + 1 + drainLen) .progFault })
      else s1
    let s3 := haltThreads k (cancelTransfers k s2)
    let s4 := endJob p.ctx.jobId stUnusable 0 0 k s3
    if p.vu.inS then startWipe k s4 else s4

/-- Count poisoned words that a reader of Table 15.2 has read. -/
def consumePoison (n : Nat) (s : State) : State :=
  s.modRelCounters (fun c => { c with poisonConsumed := satAdd c.poisonConsumed n })

/-- A sequencer disagreement (cause 0x20) or an uncorrectable fetch (0x21) in CCLK `c` (R218): event 0x0302 for a
disagreement, SEQ_FAULT, an error record, FAULTED, the array stopped, transfers cancelled, the Spire quarantined, its job
ended with ST_FAULT, or its radio program's cells handled under Table 9.12. -/
def sequencerFault (k cause pc : Nat) (s : State) : State :=
  let c := s.cyc
  let p := s.spire k
  let job := p.ctx.jobId
  let s1 := if cause = 0x20 then countSpire k 0x0302 1 s else s
  let s2 := recordFault k p.vu.inS cause 0 pc s1
  let s3 := errRecord 6 2 k (s.jobLease job) 0 job 0 s2
  let s4 := haltThreads k (cancelTransfers k (arrayStop k (c + 1) false s3))
  let s5 := s4.modSpire k (fun x => { x with
    seq := { x.seq with mode := .faulted, hold := none, holdS := none, startSet := false, reclaim := false }
    vu := { x.vu with phase := .draining (c + 1 + drainLen) .disagree } })
  let s6 := (quarantine k s5).modHealth k (fun h => { h with deduct := h.deduct + 1 })
  let s7 := if job = 0 then s6 else endJob job stFault 0 0 k s6
  if s.role k = .radioOwned then radioPartFault (.spire k) (ringDome 4 s7) else s7

/-! ### Throttle and deferral (R451, R581) -/

/-- Is Spire `k` one that the power manager's throttle may hold? -/
def State.throttleable (s : State) (k : Nat) : Bool := s.inService k && decide (s.role k ≠ .radioOwned)

/-- The number of Spires that the throttle may hold (R580). -/
def State.throttleMax (s : State) : Nat := ((List.range 32).filter s.throttleable).length

/-- Is Spire `k` held by the throttle (R581): among the L highest-numbered ones? -/
def State.throttled (s : State) (k : Nat) : Bool :=
  s.throttleable k &&
    decide (((List.range 32).filter (fun x => decide (k < x) && s.throttleable x)).length < s.pwr.level)

/-- Does the dispatcher hold the ISSUE of a BANK_M pass that would issue in CCLK `at_` (R451)? -/
def State.deferred (s : State) (k : Nat) (d : PassDesc) (at_ : Nat) : Bool :=
  let c := s.planTotal + (at_ - s.cyc)
  let e := match (s.spire k).arr.passes.getLast? with
    | some p => if at_ ≤ p.lastEnter then max (c + 3) (s.planTotal + (p.lastEnter + p.desc.interval - s.cyc)) else c + 3
    | none => c + 3
  if s.role k = .radioOwned then false
  else
    match s.nextWindow k with
    | some w => decide (w + 11 < e + d.worstLength - 1)
    | none => false

/-! ### Replay (R235, R236, R238) -/

/-- Re-issue the first entry of the replay list in CCLK `t`, unless an ISSUE or a descriptor is under way, a window runs or
is too near (R236), or the throttle holds the Spire (R581). -/
def replayIssue (k t : Nat) (s : State) : State :=
  let q := (s.spire k).seq
  let a := (s.spire k).arr
  match q.mode, q.replay with
  | .replay, d :: rest =>
    if !q.issues.isEmpty || a.queued.isSome || q.window || a.verdictWait then s
    else if s.throttled k then
      { s with pwr := { s.pwr with holds := satInc s.pwr.holds } }
    else if s.deferred k ((s.spire k).store.desc d) t then s
    else
      let s1 := s.modSeq k (fun x => { x with
        issues := [⟨d, t, true, false, x.pc.toNat, none, none⟩], replay := rest, passes := x.passes + 1 })
      s1.modJob (s.spire k).ctx.jobId (fun j => { j with replays := j.replays + 1 })
  | _, _ => s

/-! ### START by the dispatcher (R449) -/

/-- The plan CCLK in which a Step starts (R62, R449). -/
def stepStart (n : Nat) : Nat := (425 * n + 3) / 4

/-- Steps of a period. -/
def stepsPerPeriod : Nat := 8000

/-- Does plan CCLK `p` fall inside a window of any of these Spires? -/
def State.inWindows (s : State) (ks : List Nat) (p : Nat) : Bool :=
  ks.any (fun k => (s.windowsOf k).any (fun w => decide (w.1 ≤ p ∧ p < w.2.1)))

/-- The first Step start, from Step `n` of the period that begins at `base` on, outside the windows. -/
def State.stepFrom (s : State) (ks : List Nat) (base n : Nat) : Nat → Option Nat
  | 0 => none
  | fuel + 1 =>
    let p := stepStart (n % stepsPerPeriod)
    if s.inWindows ks p then s.stepFrom ks base (n + 1) fuel
    else some (base + n / stepsPerPeriod * planPeriod + p)

/-- START_CCLK for a job on these Spires (R449), counted through the period starts: none if every candidate falls inside a
window. -/
def State.startTime (s : State) (ks : List Nat) (step : Nat) : Option Nat :=
  let from_ := if s.hasPlan then s.planTotal + 64 else planPeriod
  let base := from_ / planPeriod * planPeriod
  let p := from_ % planPeriod
  if step = 0xFFFF then s.stepFrom ks base ((4 * p + 424) / 425) (stepsPerPeriod + 1)
  else
    let x := stepStart step
    if s.inWindows ks x then none else some (if p ≤ x then base + x else base + planPeriod + x)

/-- The dispatcher's START of a job, once every Spire of it is ARMED. -/
def dispatchStart (id : Nat) (s : State) : State :=
  match s.job id with
  | none => s
  | some j =>
    if j.phase = .loading && j.startAt.isNone && !j.spires.isEmpty
        && j.spires.all (fun k => decide ((s.spire k).seq.mode = .armed)) then
      match s.startTime j.spires j.image.startStep with
      | none => s
      | some t =>
        let s1 := j.spires.foldl (fun u k => setCmdStatus k stOk (u.modSeq k (fun q => { q with
          startSet := true, startAt := t, startCclk := BitVec.ofNat 20 (t % planPeriod) }))) s
        s1.modJob id (fun x => { x with startAt := some t })
    else s

/-- A Spire with no stop cause left leaves STOPPED (Table 7.9): to ARMED, where a start whose plan CCLK has passed comes in the
next CCLK, to REPLAY, or to RUNNING. `t` is the CCLK in which
the next thing issues. -/
def leaveStopped (k t : Nat) (s : State) : State :=
  let q := (s.spire k).seq
  if q.mode ≠ .stopped || q.stopReclaim || q.stopPower then s
  else if q.fromArmed then
    dispatchStart (s.spire k).ctx.jobId (s.modSeq k (fun x => { x with
      mode := .armed, fromArmed := false, startAt := max x.startAt (s.planTotal + 1) }))
  else if q.replay.isEmpty && q.issues.isEmpty then s.modSeq k (fun x => { x with mode := .running, nextIssue := t })
  else replayIssue k t (s.modSeq k (fun x => { x with mode := .replay, nextIssue := t }))

/-- The replay is over: the last listed pass has been released. The resume bundle issues in the next CCLK (R235). -/
def endReplay (k : Nat) (s : State) : State :=
  let p := s.spire k
  if p.seq.mode = .replay && p.seq.replay.isEmpty && p.seq.issues.isEmpty && p.arr.queued.isNone && p.arr.passes.isEmpty then
    s.modSeq k (fun q => { q with mode := .running, nextIssue := s.cyc + 1 })
  else s

/-! ### Stops (R233, R234, R582) -/

/-- The bundle boundary of Spire `k`: this CCLK, or the next one if a bundle has issued in this one. -/
def State.boundary (s : State) (k : Nat) : Nat :=
  if s.cyc < (s.spire k).seq.nextIssue ∧ (s.spire k).seq.nextIssue ≤ s.cyc + 4 then s.cyc + 1 else s.cyc

/-- STOP on Spire `k` (Table 7.9, R233): the cause is added; from ARMED, RUNNING or REPLAY the array stops and the Spire
goes to STOPPED. BANK_M drains; for RECLAIM the switch to BANK_S follows, and an interrupt that the same boundary delivers
waits again (Table 6.8). A delivered interrupt is resumed at its
handler (R238). -/
def stopSpire (k : Nat) (isReclaim : Bool) (s : State) : State :=
  let q := (s.spire k).seq
  let m := q.mode
  if !(m = .armed || m = .running || m = .replay || m = .stopped) then setCmdStatus k stConflict s
  else
    let s1 := setCmdStatus k stOk (s.modSeq k (fun x => { x with
      stopReclaim := x.stopReclaim || isReclaim, stopPower := x.stopPower || !isReclaim }))
    let b := s.boundary k
    let why : DrainReason := if isReclaim then .toShadow else .stopPower
    if m = .stopped then
      if isReclaim && !q.stopReclaim && !(s.spire k).vu.inS then
        s1.modVu k (fun v => { v with phase := .draining (s.cyc + drainLen) .toShadow })
      else s1
    else
      let count (t : State) : State :=
        (t.modSeq k (fun x => { x with stops := x.stops + 1 })).modJob (s.spire k).ctx.jobId
          (fun j => { j with stops := j.stops + 1 })
      let s2 := count (if m = .armed then s1 else arrayStop k b true s1)
      let pends := match (s.spire k).vu.phase with
        | .draining u .interrupt => isReclaim && decide (u = b + drainLen)
        | _ => false
      let delivered := match (s.spire k).vu.phase with
        | .draining _ .interrupt => !pends
        | _ => false
      let s3 := s2.modSeq k (fun x => { x with
        mode := .stopped, fromArmed := decide (m = .armed),
        inHandler := x.inHandler || delivered, irq := x.irq || pends,
        resume := if delivered then x.pc else x.resume,
        pc := if delivered then x.ivec else x.pc })
      if (s.spire k).vu.inS then s3
      else s3.modVu k (fun v => { v with phase := .draining (b + drainLen) why })

/-- Is Spire `k`'s STOP owed rather than issued: is it in a window or reclaimed (R582)? -/
def State.stopOwed (s : State) (k : Nat) : Bool :=
  decide (s.role k = .borrowable) && ((s.spire k).seq.window || (s.spire k).seq.reclaim)

/-- The power manager's STOP of one Spire (R582): only in ARMED, RUNNING or REPLAY; owed in a window or a reclaim. -/
def powerStop (k : Nat) (s : State) : State :=
  let m := (s.spire k).seq.mode
  if s.role k = .radioOwned then s
  else if s.stopOwed k then { s with pwr := { s.pwr with
    owed := if s.pwr.owed.contains k then s.pwr.owed else s.pwr.owed ++ [k] } }
  else if m = .armed || m = .running || m = .replay then
    let s1 := stopSpire k false s
    { s1 with pwr := { s1.pwr with
      stopped := if s1.pwr.stopped.contains k then s1.pwr.stopped else s1.pwr.stopped ++ [k] } }
  else s

/-- Issue the STOP that Spire `k` is owed, at the end of its window or reclaim: the power manager's while its emergency stop
lasts, the Dome's in any case. -/
def payStop (k : Nat) (s : State) : State :=
  if s.stopOwed k then s
  else if s.pwr.owedDome.contains k then
    stopSpire k false { s with pwr := { s.pwr with owedDome := s.pwr.owedDome.filter (· != k) } }
  else if s.pwr.owed.contains k then
    let s1 := { s with pwr := { s.pwr with owed := s.pwr.owed.filter (· != k) } }
    if s1.pwr.estop then powerStop k s1 else s1
  else s

end Sys2Proof.Machine
end

