-- ==== Sys2Proof/Machine/VectorMath.lean ====
section
/-! DEFINITION. Vector unit arithmetic (06): lanes, integer, fractional, complex and binary32 operations, searches,
normalisation and block floating point. Nothing here touches the machine's state. -/

namespace Sys2Proof.Machine

/-- A vector register. -/
abbrev VReg := BitVec 2048

/-- The elements of a register, `w` bits each, lowest first (R172). -/
def lanes (w : Nat) (v : VReg) : List Nat :=
  (List.range (2048 / w)).map (fun i => elemAt v.toNat w i)

/-- A register made of elements of `w` bits. -/
def ofLanes (w : Nat) (l : List Nat) : VReg := BitVec.ofNat 2048 (packBits w l)

/-- A result: the register, the pair's second register where there is one, and the sticky bits it sets
(VU_STICKY bits 3 SATURATE, 2 OVERFLOW, 1 INVALID, 0 ZERO_DIVIDE). -/
structure VOut where
  d      : VReg
  d1     : VReg
  sticky : BitVec 6
  deriving DecidableEq, Repr

def stSat : BitVec 6 := 8
def stOvf : BitVec 6 := 4
def stInv : BitVec 6 := 2
def stZdv : BitVec 6 := 1

/-- A lane result with its sticky bits. -/
abbrev LaneOut := Nat × BitVec 6

/-- Collect lane results into a register. -/
def collect (w : Nat) (l : List LaneOut) : VOut :=
  ⟨ofLanes w (l.map (·.1)), 0, l.foldl (fun s x => s ||| x.2) 0⟩

/-- Clamp an exact result to `w` bits of two's complement (R178). -/
def saturate (w : Nat) (x : Int) : LaneOut :=
  let hi : Int := 2 ^ (w - 1) - 1
  let lo : Int := -(2 ^ (w - 1))
  if x > hi then (ofSigned w hi, stSat) else if x < lo then (ofSigned w lo, stSat) else (ofSigned w x, 0)

/-- Keep the low bits of an exact result (R178). -/
def wrapLane (w : Nat) (x : Int) : LaneOut := (ofSigned w x, 0)

/-- Apply a two-operand lane function. -/
def lanes2 (w : Nat) (f : Nat → Nat → LaneOut) (a b : VReg) : VOut :=
  collect w (List.zipWith f (lanes w a) (lanes w b))

/-- Apply a three-operand lane function. -/
def lanes3 (w : Nat) (f : Nat → Nat → Nat → LaneOut) (a b c : VReg) : VOut :=
  collect w (List.zipWith (fun x yz => f x yz.1 yz.2) (lanes w a) (List.zip (lanes w b) (lanes w c)))

/-- Apply a one-operand lane function. -/
def lanes1 (w : Nat) (f : Nat → LaneOut) (a : VReg) : VOut := collect w ((lanes w a).map f)

/-- A lane function on signed values. -/
def signed2 (w : Nat) (f : Int → Int → LaneOut) (x y : Nat) : LaneOut := f (toSigned w x) (toSigned w y)

/-! ### Integer operations -/

/-- VLOG (Table 6.3), the operation coded 0 AND, 1 OR, 2 XOR, 3 AND-NOT. -/
def logOp (op : Nat) (a b : VReg) : VReg :=
  if op % 4 = 0 then a &&& b else if op % 4 = 1 then a ||| b else if op % 4 = 2 then a ^^^ b else a &&& ~~~b

/-- VSH on one lane: counts modulo the lane width (R178). -/
def shiftLane (w op x n : Nat) : LaneOut :=
  let k := n % w
  if op % 3 = 0 then (x * 2 ^ k % 2 ^ w, 0)
  else if op % 3 = 1 then (x / 2 ^ k, 0)
  else (ofSigned w (toSigned w x / ((2 ^ k : Nat) : Int)), 0)

/-- VMULQ on one lane: divide by 2^(w−1), ties to even, saturate (R178). -/
def mulq (w : Nat) (x y : Int) : LaneOut := saturate w (shiftRne (x * y) (w - 1))

/-- VDOT: add the products of the sub-lanes of width `w` to each 32-bit lane of `d`, saturating (Table 6.3). -/
def vdot (w : Nat) (a b d : VReg) : VOut :=
  let n := 32 / w
  lanes3 32 (fun x y z =>
    saturate 32 (toSigned 32 z + (List.range n).foldl
      (fun acc i => acc + toSigned w (elemAt x w i) * toSigned w (elemAt y w i)) 0)) a b d

/-- Leading-sign count of a `w`-bit lane (R194). -/
def leadingSign (w x : Nat) : Nat :=
  let y := if toSigned w x < 0 then 2 ^ w - 1 - x % 2 ^ w else x % 2 ^ w
  if y = 0 then w - 1 else w - 2 - Nat.log2 y

/-! ### binary32 (R179) -/

/-- A binary32 value: finite `±m × 2^e`, infinity, or NaN (signalling or quiet). -/
inductive F32 where
  | fin (neg : Bool) (m : Nat) (e : Int)
  | inf (neg : Bool)
  | nan (signalling : Bool)
  deriving DecidableEq, Repr

/-- Decode a floating-point code with `eb` exponent and `mb` mantissa bits. -/
def decodeFp (eb mb bias code : Nat) : F32 :=
  let man := code % 2 ^ mb
  let ex := code / 2 ^ mb % 2 ^ eb
  let neg := code / 2 ^ (mb + eb) % 2 == 1
  if ex = 2 ^ eb - 1 then
    (if man = 0 then .inf neg else .nan (man < 2 ^ (mb - 1)))
  else if ex = 0 then .fin neg man (1 - (bias : Int) - (mb : Int))
  else .fin neg (2 ^ mb + man) ((ex : Int) - (bias : Int) - (mb : Int))

def decodeF32 (code : Nat) : F32 := decodeFp 8 23 127 code

def f32Nan : Nat := 0x7FC00000

def f32Fmt : FpFmt := ⟨8, 23, 127, 0x7F7FFFFF⟩

/-- Round `±m × 2^e` to binary32, ties to even; overflow gives infinity. -/
def f32Round (neg : Bool) (m : Nat) (e : Int) : LaneOut :=
  let mag := fpRoundMag f32Fmt m e
  let s := if neg then 2 ^ 31 else 0
  if mag > 0x7F7FFFFF then (s + 0x7F800000, stOvf) else (s + mag, 0)

/-- An infinity. -/
def f32Inf (neg : Bool) : Nat := (if neg then 2 ^ 31 else 0) + 0x7F800000

/-- A NaN result; a signalling operand is invalid. -/
def nanOut (sig : Bool) : LaneOut := (f32Nan, if sig then stInv else 0)

/-- Is a value a signalling NaN? -/
def F32.snan : F32 → Bool
  | .nan s => s
  | _ => false

/-- Signed integer of a finite value in units of `2^g`, for `g` at most its exponent. -/
def F32.units (neg : Bool) (m : Nat) (e g : Int) : Int :=
  let v : Int := ((m * 2 ^ (e - g).toNat : Nat) : Int)
  if neg then -v else v

/-- The exact sum of two finite values rounded once; an exact zero is +0 unless both are −0. -/
def f32Sum (n1 : Bool) (m1 : Nat) (e1 : Int) (n2 : Bool) (m2 : Nat) (e2 : Int) : LaneOut :=
  let g := min e1 e2
  let s := F32.units n1 m1 e1 g + F32.units n2 m2 e2 g
  if s = 0 then (if n1 && n2 then 2 ^ 31 else 0, 0) else f32Round (decide (s < 0)) s.natAbs g

/-- FADD. -/
def f32Add (x y : F32) : LaneOut :=
  match x, y with
  | .nan s, y => nanOut (s || y.snan)
  | .inf _, .nan s => nanOut s
  | .fin _ _ _, .nan s => nanOut s
  | .inf a, .inf b => if a = b then (f32Inf a, 0) else (f32Nan, stInv)
  | .inf a, .fin _ _ _ => (f32Inf a, 0)
  | .fin _ _ _, .inf b => (f32Inf b, 0)
  | .fin a m e, .fin b k f => f32Sum a m e b k f

/-- Change a sign. -/
def F32.negate : F32 → F32
  | .fin n m e => .fin (!n) m e
  | .inf n => .inf (!n)
  | .nan s => .nan s

/-- The exact product; an invalid product is a signalling NaN here, so that its user sets INVALID. -/
def f32ExactMul (x y : F32) : F32 :=
  match x, y with
  | .nan s, y => .nan (s || y.snan)
  | .inf _, .nan s => .nan s
  | .fin _ _ _, .nan s => .nan s
  | .inf a, .inf b => .inf (a != b)
  | .inf a, .fin b m _ => if m = 0 then .nan true else .inf (a != b)
  | .fin a m _, .inf b => if m = 0 then .nan true else .inf (a != b)
  | .fin a m e, .fin b k f => .fin (a != b) (m * k) (e + f)

/-- FMUL. -/
def f32Mul (x y : F32) : LaneOut :=
  match f32ExactMul x y with
  | .nan s => nanOut s
  | .inf n => (f32Inf n, 0)
  | .fin n m e => f32Round n m e

/-- FFMA: rounded once. -/
def f32Fma (x y z : F32) : LaneOut :=
  match f32ExactMul x y with
  | .nan s => nanOut (s || z.snan)
  | p => f32Add p z

/-- FMAX and FMIN: −0 below +0, a NaN operand ignored. -/
def f32Order (mx : Bool) (a b : Nat) : LaneOut :=
  match decodeF32 a, decodeF32 b with
  | .nan _, .nan _ => (f32Nan, 0)
  | .nan _, _ => (b, 0)
  | _, .nan _ => (a, 0)
  | _, _ =>
    let key (c : Nat) : Int := if c ≥ 2 ^ 31 then -((c - 2 ^ 31 : Nat) : Int) - 1 else (c : Int)
    if mx then (if key a < key b then b else a, 0) else (if key b < key a then b else a, 0)

/-- FRCP: correctly rounded; of a zero gives infinity and ZERO_DIVIDE. -/
def f32Rcp (x : F32) : LaneOut :=
  match x with
  | .nan s => nanOut s
  | .inf n => (if n then 2 ^ 31 else 0, 0)
  | .fin n m e =>
    if m = 0 then (f32Inf n, stZdv) else
    let q := 2 ^ 80 / m
    f32Round n (2 * q + (if 2 ^ 80 % m = 0 then 0 else 1)) (-81 - e)

/-- Integer square root by bits, from bit `k − 1` down. -/
def isqrtFrom (x : Nat) : Nat → Nat → Nat
  | 0, r => r
  | k + 1, r => if (r + 2 ^ k) * (r + 2 ^ k) ≤ x then isqrtFrom x k (r + 2 ^ k) else isqrtFrom x k r

/-- FRSQ: 1 / sqrt(a), correctly rounded; of a negative value invalid. -/
def f32Rsq (x : F32) : LaneOut :=
  match x with
  | .nan s => nanOut s
  | .inf n => if n then (f32Nan, stInv) else (0, 0)
  | .fin n m e =>
    if m = 0 then (f32Inf n, 0)
    else if n then (f32Nan, stInv)
    else
      -- 1 / sqrt(m 2^e) = sqrt(2^(2h) / m') 2^(-h - e'/2), with m' 2^e' = m 2^e and e' even
      let m' := if e % 2 = 0 then m else 2 * m
      let e' := if e % 2 = 0 then e else e - 1
      let q := 2 ^ 120 / m'
      let r := isqrtFrom q 64 0
      let exact := decide (r * r = q) && 2 ^ 120 % m' == 0
      f32Round false (2 * r + (if exact then 0 else 1)) (-61 - e' / 2)

/-- FCVT by conversion number (see `Config.fcvtFunc`). -/
def f32Convert (op x : Nat) : LaneOut :=
  let narrow (q : FpFmt) : LaneOut :=
    match decodeF32 x with
    | .nan s => (2 ^ (q.eb + q.mb) - 2 ^ q.mb + 2 ^ (q.mb - 1), if s then stInv else 0)
    | .inf n => ((if n then 2 ^ (q.eb + q.mb) else 0) + 2 ^ (q.eb + q.mb) - 2 ^ q.mb, 0)
    | .fin n m e =>
      let mag := fpRoundMag q m e
      let s := if n then 2 ^ (q.eb + q.mb) else 0
      if mag > q.maxCode then (s + 2 ^ (q.eb + q.mb) - 2 ^ q.mb, stOvf) else (s + mag, 0)
  let widen (v : F32) : LaneOut :=
    match v with
    | .nan s => nanOut s
    | .inf n => (f32Inf n, 0)
    | .fin n m e => f32Round n m e
  if op % 6 = 0 then
    match decodeF32 x with
    | .nan _ => (0, stInv)
    | .inf n => (if n then 2 ^ 31 else 2 ^ 31 - 1, stSat)
    | .fin n m e => saturate 32 (roundToGrid (if n then -(m : Int) else (m : Int)) e 0)
  else if op % 6 = 1 then
    let i := toSigned 32 x
    f32Round (decide (i < 0)) i.natAbs 0
  else if op % 6 = 2 then narrow ⟨8, 7, 127, 0x7F7F⟩
  else if op % 6 = 3 then widen (decodeFp 8 7 127 (x % 2 ^ 16))
  else if op % 6 = 4 then narrow ⟨5, 10, 15, 0x7BFF⟩
  else widen (decodeFp 5 10 15 (x % 2 ^ 16))

/-! ### Complex operations (R180) -/

/-- The exact parts of a × b, or of a × conj(b). -/
def cmul (conj : Bool) (x y : Nat) : Int × Int :=
  let br := cqRe y
  let bi := if conj then -cqIm y else cqIm y
  (cqRe x * br - cqIm x * bi, cqRe x * bi + cqIm x * br)

/-- VCMUL, VCMULJ on one lane. -/
def cmulLane (conj : Bool) (x y : Nat) : LaneOut :=
  let p := cmul conj x y
  let r := saturate 16 (shiftRne p.1 15)
  let i := saturate 16 (shiftRne p.2 15)
  (r.1 + 2 ^ 16 * i.1, r.2 ||| i.2)

/-- VCMAC, VCMACJ: real parts into `d`, imaginary parts into `d1`. -/
def cmac (conj : Bool) (a b d d1 : VReg) : VOut :=
  let ab := List.zip (lanes 32 a) (lanes 32 b)
  let re := List.zipWith (fun xy z => saturate 32 (toSigned 32 z + (cmul conj xy.1 xy.2).1)) ab (lanes 32 d)
  let im := List.zipWith (fun xy z => saturate 32 (toSigned 32 z + (cmul conj xy.1 xy.2).2)) ab (lanes 32 d1)
  let r := collect 32 re
  let i := collect 32 im
  ⟨r.d, i.d, r.sticky ||| i.sticky⟩

/-- VCPOW on one lane. -/
def cpow (x : Nat) : LaneOut := saturate 32 (cqRe x * cqRe x + cqIm x * cqIm x)

/-! ### Searches (R191 to R193) -/

/-- An order key of a .W or .F lane; none for a NaN. −0 orders below +0. -/
def searchKey (fp : Bool) (c : Nat) : Option Int :=
  if fp then
    match decodeF32 c with
    | .nan _ => none
    | _ => some (if c ≥ 2 ^ 31 then -((c - 2 ^ 31 : Nat) : Int) - 1 else (c : Int))
  else some (toSigned 32 c)

/-- Is `a` strictly beyond `b`: greater in a maximum search, less in a minimum search? -/
def beyond (fp mx : Bool) (a b : Nat) : Bool :=
  match searchKey fp a, searchKey fp b with
  | some x, some y => if mx then decide (y < x) else decide (x < y)
  | _, _ => false

/-- VSMAX, VSMIN: the new SV and SI. -/
def searchStep (fp mx : Bool) (v sv si : VReg) (sc : Nat) : VReg × VReg :=
  let l := List.zip (List.range 64) (List.zip (lanes 32 v) (List.zip (lanes 32 sv) (lanes 32 si)))
  let r := l.map (fun p =>
    if beyond fp mx p.2.1 p.2.2.1 then (p.2.1, sc * 64 + p.1) else p.2.2)
  (ofLanes 32 (r.map (·.1)), ofLanes 32 (r.map (·.2)))

/-- VRMAX, VRMIN: the extreme value and its lowest index. -/
def searchReduce (fp mx : Bool) (v ix : VReg) : VReg × VReg :=
  let l := (List.zip (lanes 32 v) (lanes 32 ix)).filter (fun p => (searchKey fp p.1).isSome)
  match l with
  | [] => (BitVec.ofNat 2048 f32Nan, BitVec.ofNat 2048 0xFFFFFFFF)
  | p :: r =>
    let best := r.foldl (fun b q =>
      if beyond fp mx q.1 b.1 then q
      else if beyond fp mx b.1 q.1 then b
      else if q.2 < b.2 then q else b) p
    (BitVec.ofNat 2048 best.1, BitVec.ofNat 2048 best.2)

/-! ### Block floating point (R195, R196) -/

/-- The mantissa width of a FUNC code. -/
def bfpWidth (n : Nat) : Nat :=
  if n % 5 = 0 then 8 else if n % 5 = 1 then 9 else if n % 5 = 2 then 12 else if n % 5 = 3 then 14 else 16

/-- VBEXP.W: blocks of 16 lanes. -/
def vbexpW (m : Nat) (a : VReg) : VReg :=
  ofLanes 32 ((blocksOf 16 64 (lanes 32 a)).foldr (fun b acc =>
    List.replicate b.length (bfpExp m (-15) (b.map (toSigned 32))) ++ acc) [])

/-- VBEXP.C: blocks of 12 complex values in two registers. -/
def vbexpC (m : Nat) (a b : VReg) : VReg :=
  ofLanes 32 ((blocksOf 12 64 (List.zip (lanes 32 a) (lanes 32 b))).foldr (fun l acc =>
    List.replicate l.length
      (bfpExp m (-15) (l.map (fun p => toSigned 32 p.1) ++ l.map (fun p => toSigned 32 p.2))) ++ acc) [])

/-- VBFP on one lane: value `x`, exponent `e`, mantissa width `m`. -/
def vbfpLane (m x e : Nat) : LaneOut :=
  let r := saturate m (shiftRne (toSigned 32 x) (e % 16))
  (ofSigned 32 (toSigned m r.1), r.2)

/-! ### Widths, latencies, decoding checks -/

/-- Width code to lane width: .W, .F and .C 32, .H 16, .B 8. -/
def widthBits (wd : Nat) : Nat := if wd = 1 then 16 else if wd = 2 then 8 else 32

/-- The widths that Table 6.3 lists for a VOP of the VA slot, as width codes; empty for a code that Table 6.3 does not
list for the slot. VNOP lists none, and its width must be 0. -/
def vopWidths (op : Nat) : List Nat :=
  match op with
  | 0x00 => [0]
  | 0x01 => [0, 1, 2] | 0x02 => [0, 1, 2] | 0x03 => [0, 1, 2] | 0x04 => [0, 1, 2]
  | 0x05 => [0] | 0x06 => [0, 1, 2]
  | 0x08 => [0, 1, 2] | 0x09 => [0, 1] | 0x0A => [0, 1, 2] | 0x0B => [1, 2]
  | 0x10 => [3] | 0x11 => [3] | 0x12 => [3] | 0x13 => [3] | 0x14 => [3] | 0x15 => [3] | 0x16 => [3] | 0x17 => [3]
  | 0x20 => [4] | 0x21 => [4] | 0x22 => [4] | 0x23 => [4] | 0x24 => [4]
  | 0x30 => [0, 3] | 0x31 => [0, 3] | 0x32 => [0, 3] | 0x33 => [0, 3] | 0x34 => [0, 3]
  | 0x35 => [0]
  | 0x38 => [0, 1] | 0x39 => [0, 1] | 0x3A => [0, 4] | 0x3B => [0, 4]
  | 0x40 => [0] | 0x41 => [0] | 0x42 => [0]
  | _ => []

/-- Latency of a VA operation (Table 6.3). -/
def vopLatency (op : Nat) : Nat :=
  match op with
  | 0x08 => 3 | 0x09 => 3 | 0x0A => 4 | 0x0B => 4
  | 0x10 => 4 | 0x11 => 4 | 0x12 => 4 | 0x13 => 6 | 0x14 => 2 | 0x15 => 3 | 0x16 => 8 | 0x17 => 8
  | 0x20 => 5 | 0x21 => 5 | 0x22 => 6 | 0x23 => 6 | 0x24 => 4
  | 0x31 => 2 | 0x32 => 2 | 0x33 => 7 | 0x34 => 7 | 0x35 => 7
  | 0x39 => 2 | 0x3A => 3 | 0x3B => 3 | 0x41 => 3
  | _ => 1

/-- Does a VA operation use FUNC (Table 7.3)? -/
def vopUsesFunc (op : Nat) : Bool :=
  [0x05, 0x06, 0x14, 0x15, 0x30, 0x3A, 0x3B].contains op

/-- Is a VA operation residue-checked (Table 6.3)? -/
def vopChecked (op : Nat) : Bool :=
  [0x01, 0x02, 0x03, 0x04, 0x08, 0x09, 0x0A, 0x0B, 0x10, 0x11, 0x12, 0x13, 0x14, 0x15, 0x16, 0x17,
   0x20, 0x21, 0x22, 0x23, 0x24, 0x31, 0x32, 0x33, 0x34, 0x35, 0x3B].contains op

/-- Does a VA operation write a register pair (R180, R193)? -/
def vopPair (op : Nat) : Bool := [0x22, 0x23, 0x33, 0x34].contains op

/-- Does a VA operation write SV, SI and SC instead of a register? -/
def vopSearch (op : Nat) : Bool := [0x30, 0x31, 0x32].contains op

/-- The result of a VA operation other than VBCAST and the searches, from its operands: `a`, `b`, `c`, the old
destination `d` and `d1`, FUNC, and the pair `sv`, `si` that VRMAX and VRMIN may name. VRADD writes 0 to lanes 1 to 63 (DESIGN
CHOICE, log entry 138: Table 6.3 says only that the sum goes into lane 0). -/
def vopResult (op wd func : Nat) (a b c d d1 sv si : VReg) : VOut :=
  let w := widthBits wd
  let f32 (g : F32 → F32 → LaneOut) : VOut := lanes2 32 (fun x y => g (decodeF32 x) (decodeF32 y)) a b
  match op with
  | 0x01 => lanes2 w (signed2 w (fun x y => wrapLane w (x + y))) a b
  | 0x02 => lanes2 w (signed2 w (fun x y => saturate w (x + y))) a b
  | 0x03 => lanes2 w (signed2 w (fun x y => wrapLane w (x - y))) a b
  | 0x04 => lanes2 w (signed2 w (fun x y => saturate w (x - y))) a b
  | 0x05 => ⟨logOp (Config.vlogFunc func) a b, 0, 0⟩
  | 0x06 => lanes2 w (fun x y => shiftLane w (Config.vshFunc func) x y) a b
  | 0x08 => lanes2 w (signed2 w (fun x y => wrapLane w (x * y))) a b
  | 0x09 => lanes2 w (signed2 w (mulq w)) a b
  | 0x0A => lanes3 w (fun x y z => wrapLane w (toSigned w z + toSigned w x * toSigned w y)) a b d
  | 0x0B => vdot w a b d
  | 0x10 => f32 f32Add
  | 0x11 => f32 (fun x y => f32Add x y.negate)
  | 0x12 => f32 f32Mul
  | 0x13 => lanes3 32 (fun x y z => f32Fma (decodeF32 x) (decodeF32 y) (decodeF32 z)) a b c
  | 0x14 => lanes2 32 (f32Order (Config.fmaxFunc func)) a b
  | 0x15 => lanes1 32 (f32Convert (Config.fcvtFunc func)) a
  | 0x16 => lanes1 32 (fun x => f32Rcp (decodeF32 x)) a
  | 0x17 => lanes1 32 (fun x => f32Rsq (decodeF32 x)) a
  | 0x20 => lanes2 32 (cmulLane false) a b
  | 0x21 => lanes2 32 (cmulLane true) a b
  | 0x22 => cmac false a b d d1
  | 0x23 => cmac true a b d d1
  | 0x24 => lanes1 32 cpow a
  | 0x33 => let r := searchReduce (wd == 3) true sv si; ⟨r.1, r.2, 0⟩
  | 0x34 => let r := searchReduce (wd == 3) false sv si; ⟨r.1, r.2, 0⟩
  | 0x35 => ⟨BitVec.ofNat 2048 (ofSigned 32 ((lanes 32 a).foldl (fun acc x => acc + toSigned 32 x) 0)), 0, 0⟩
  | 0x38 => lanes1 w (fun x => (leadingSign w x, 0)) a
  | 0x39 => lanes1 w (fun x => (x * 2 ^ leadingSign w x % 2 ^ w, 0)) a
  | 0x3A => ⟨if wd = 4 then vbexpC (bfpWidth (Config.bfpFunc func)) a b
             else vbexpW (bfpWidth (Config.bfpFunc func)) a, 0, 0⟩
  | 0x3B => lanes2 32 (vbfpLane (bfpWidth (Config.bfpFunc func))) a b
  | 0x40 => ⟨a, 0, 0⟩
  | 0x41 => let l := lanes 32 a
            lanes1 32 (fun x => (l.getD (x % 64) 0, 0)) b
  | _ => ⟨d, 0, 0⟩

end Sys2Proof.Machine
end

