-- ==== Sys2Proof/Machine/Operands.lean ====
section
/-! DEFINITION. Operand forms of a bundle (07): its slots, the control operation, the vector slots, the transfer slot, and
the addresses that the generators form (06). -/

namespace Sys2Proof.Machine

open Sys2Proof

/-! ### The control slot (Table 7.2) -/

/-- A control operation. -/
inductive CtlOp where
  | nop
  | br (target : Nat)
  | brf (flag : Nat) (sense : Bool) (target : Nat)
  | vrep (level len count : Nat)
  | issue (desc : Nat)
  | wrel
  | wflag (flag : Nat) (sense : Bool)
  | wplan (pcclk : Nat)
  | flags (set clear : Nat)
  | ret
  | ctlEnd (code : Nat)
  | wend
  deriving DecidableEq, Repr

/-- The CTL slot of an operation. -/
def CtlOp.encode : CtlOp → Nat
  | .nop => 0
  | .br t => 0x01 * 2 ^ 56 + t
  | .brf f s t => 0x02 * 2 ^ 56 + b2n s * 2 ^ 28 + f * 2 ^ 24 + t
  | .vrep l n c => 0x03 * 2 ^ 56 + l * 2 ^ 48 + c * 2 ^ 32 + n
  | .issue d => 0x04 * 2 ^ 56 + d
  | .wrel => 0x05 * 2 ^ 56
  | .wflag f s => 0x06 * 2 ^ 56 + b2n s * 2 ^ 28 + f * 2 ^ 24
  | .wplan p => 0x07 * 2 ^ 56 + p
  | .flags s c => 0x08 * 2 ^ 56 + c * 2 ^ 16 + s
  | .ret => 0x09 * 2 ^ 56
  | .ctlEnd c => 0x0A * 2 ^ 56 + c
  | .wend => 0x0B * 2 ^ 56

/-- The operation whose fields a CTL slot holds, whatever its reserved bits. -/
def ctlFields (x : Nat) : Option CtlOp :=
  let t := field x 19 0
  match field x 63 56 with
  | 0x00 => some .nop
  | 0x01 => some (.br t)
  | 0x02 => some (.brf (field x 27 24) (bitAt x 28) t)
  | 0x03 => some (.vrep (field x 49 48) (field x 11 0) (field x 47 32))
  | 0x04 => if t % 2 = 0 then some (.issue t) else none
  | 0x05 => some .wrel
  | 0x06 => some (.wflag (field x 27 24) (bitAt x 28))
  | 0x07 => if t < planEnd then some (.wplan t) else none
  | 0x08 => some (.flags (field x 15 0) (field x 31 16))
  | 0x09 => some .ret
  | 0x0A => some (.ctlEnd (field x 7 0))
  | 0x0B => some .wend
  | _ => none

/-- Decode a CTL slot; none for a reserved code or a non-zero reserved field (R211, R212). -/
def decodeCtl (x : Nat) : Option CtlOp :=
  match ctlFields x with
  | some op => if op.encode = x then some op else none
  | none => none

/-! ### The vector slots (Table 7.3) -/

/-- A vector arithmetic operation. -/
structure VaOp where
  vop : Nat
  wd  : Nat
  d   : Nat
  a   : Nat
  b   : Nat
  c   : Nat
  func : Nat
  imm : Option Nat
  deriving DecidableEq, Repr

/-- Decode a VA slot; none for a reserved encoding (R174, R211). -/
def decodeVa (x : Nat) : Option VaOp :=
  let vop := field x 63 56
  let wd := field x 55 53
  let func := field x 32 29
  if field x 11 0 ≠ 0 then none
  else if !(vopWidths vop).contains wd then none
  else if func ≠ 0 ∧ vopUsesFunc vop = false then none
  else some ⟨vop, wd, field x 52 48, field x 47 43, field x 42 38, field x 37 33, func,
    if bitAt x 28 then some (field x 27 12) else none⟩

/-- Where a vector load or store takes its address. -/
inductive VAddr where
  | direct (addr : Nat)
  | gen (ag : Nat) (pm : Bool)
  deriving DecidableEq, Repr

/-- A vector load slot. -/
inductive VlOp where
  | none_
  | vld (d : Nat) (at_ : VAddr)
  | vgath (d ag off : Nat) (pm : Bool)
  deriving DecidableEq, Repr

/-- Decode a VL slot; none for a reserved encoding (R211, R213). -/
def decodeVl (x : Nat) : Option VlOp :=
  let op := field x 31 30
  let d := field x 29 25
  let mode := bitAt x 24
  let pm := bitAt x 23
  if field x 2 0 ≠ 0 then none
  else if op = 0 then some .none_
  else if op = 1 then
    if mode then (if pm then none else some (.vld d (.direct (32 * field x 22 3))))
    else if field x 19 3 ≠ 0 then none
    else some (.vld d (.gen (field x 22 20) pm))
  else if op = 2 then
    if mode || field x 14 3 != 0 then none
    else some (.vgath d (field x 22 20) (field x 19 15) pm)
  else none

/-- A vector store slot. -/
inductive VsOp where
  | none_
  | vst (src : Nat) (at_ : VAddr)
  deriving DecidableEq, Repr

/-- Decode a VS slot; none for a reserved encoding. -/
def decodeVs (x : Nat) : Option VsOp :=
  let mode := bitAt x 25
  let pm := bitAt x 24
  if field x 3 0 ≠ 0 then none
  else if bitAt x 31 then
    if mode then (if pm then none else some (.vst (field x 30 26) (.direct (32 * field x 23 4))))
    else if field x 20 4 ≠ 0 then none
    else some (.vst (field x 30 26) (.gen (field x 23 21) pm))
  else some .none_

/-! ### The transfer slot (Table 8.3) -/

/-- An XF slot. -/
inductive XfOp where
  | none_
  | xf (isGet : Bool) (stream desc : Nat)
  deriving DecidableEq, Repr

/-- Decode an XF slot; none for a reserved encoding (R267). -/
def decodeXf (x : Nat) : Option XfOp :=
  let op := field x 31 28
  if op = 0 then (if x = 0 then some .none_ else none)
  else if 2 < op ∨ field x 25 20 ≠ 0 then none
  else some (.xf (decide (op = 1)) (field x 27 26) (field x 19 0))

/-! ### Bundles (R210) -/

/-- A decoded bundle. -/
structure Bundle where
  ip  : Bool
  ctl : CtlOp
  va  : VaOp
  vl  : VlOp
  vs  : VsOp
  xf  : XfOp
  deriving DecidableEq, Repr

/-- Decode the 256 bits of a bundle; none for a reserved encoding in any slot (R211). -/
def decodeBundle (x : Nat) : Option Bundle :=
  if field x 254 224 ≠ 0 then none
  else
    match decodeCtl (field x 223 160), decodeVa (field x 159 96), decodeVl (field x 95 64), decodeVs (field x 63 32),
      decodeXf (field x 31 0) with
    | some c, some a, some l, some t, some f => some ⟨bitAt x 255, c, a, l, t, f⟩
    | _, _, _, _, _ => none

/-- VNOP. -/
def VaOp.nop : VaOp := ⟨0, 0, 0, 0, 0, 0, 0, none⟩

/-- A bundle with only a control operation. -/
def Bundle.ofCtl (c : CtlOp) : Bundle := ⟨false, c, VaOp.nop, .none_, .none_, .none_⟩

/-- The byte address of a bundle index (R210). -/
def bundleAddr (pc : Nat) : Nat := 32 * pc

/-! ### Address generators (R188 to R190) -/

/-- Signed STRIDE. -/
def AddrGen.step (g : AddrGen) : Int := toSigned 26 g.stride.toNat

/-- Do a generator's fields keep the rules of R188? -/
def AddrGen.ok (g : AddrGen) : Bool :=
  g.base.toNat % 32 == 0 && g.len.toNat % 32 == 0 && decide (g.len.toNat ≤ 2 ^ 25) && decide (g.step % 32 = 0)
  && (g.len.toNat == 0 || decide (g.step.natAbs ≤ g.len.toNat))

/-- A generator's address: BASE + OFFSET as a store address, whose 25 bits OFFSET's wrap with (DEDUCED, log entry 140). -/
def AddrGen.addr (g : AddrGen) : Nat := (g.base.toNat + g.offset.toNat) % 2 ^ 25

/-- A generator after one post-modify. -/
def AddrGen.advance (g : AddrGen) : AddrGen :=
  let o := (g.offset.toNat : Int) + g.step
  let n : Int := g.len.toNat
  let o1 := if n = 0 then o else if o < 0 then o + n else if n ≤ o then o - n else o
  { g with offset := BitVec.ofInt 25 o1 }

/-- The bank of vector state in use, or the other one. -/
def VuState.bank (v : VuState) (inS : Bool) : Bank := if inS then v.bankS else v.bankM

/-- Change a bank. -/
def VuState.modBank (v : VuState) (inS : Bool) (f : Bank → Bank) : VuState :=
  if inS then { v with bankS := f v.bankS } else { v with bankM := f v.bankM }

/-- Generator `n` of a bank. -/
def Bank.gen (b : Bank) (n : Nat) : AddrGen := b.ags.get AddrGen.reset n

/-- Repeat level `n` of a bank. -/
def Bank.level (b : Bank) (n : Nat) : RepLevel := b.levels.get RepLevel.reset n

/-- Vector register `n` of a bank. -/
def Bank.reg (b : Bank) (n : Nat) : VReg := b.v.get 0 n

/-- The address of a slot, as at the start of its bundle (R189). -/
def VAddr.addr (b : Bank) : VAddr → Nat
  | .direct a => a
  | .gen n _ => (b.gen n).addr

/-- Does the generator of a slot, if it uses one, keep R188? -/
def VAddr.ok (b : Bank) : VAddr → Bool
  | .direct _ => true
  | .gen n _ => (b.gen n).ok

/-- Post-modify the generator of a slot. -/
def VAddr.post (v : VAddr) (b : Bank) : Bank :=
  match v with
  | .gen n true => { b with ags := b.ags.modify AddrGen.reset n AddrGen.advance }
  | _ => b

/-- The address of each lane of a gather (R182). -/
def gatherAddrs (base : Nat) (offsets : VReg) : List Nat := (lanes 32 offsets).map (fun o => (base + o) % 2 ^ 32)

end Sys2Proof.Machine
end

