-- ==== Sys2Proof/Machine/Flags.lean ====
section
/-! DEFINITION. Sticky and status flags of a Spire: VU_STICKY, ARR_STICKY, XB_CLASH (04, 06, 08). -/

namespace Sys2Proof.Machine

open Sys2Proof

/-- VU_STICKY bit 5, RESIDUE. -/
def stResidue : BitVec 6 := 32

/-- VU_STICKY bit 4, GATHER_CONFLICT. -/
def stGather : BitVec 6 := 16

/-- Set sticky bits of a bank (VU_STICKY_M, VU_STICKY_S). -/
def VuState.stick (v : VuState) (inS : Bool) (x : BitVec 6) : VuState :=
  if inS then { v with stickyS := v.stickyS ||| x } else { v with stickyM := v.stickyM ||| x }

/-- Set sticky bits of the array (ARR_STICKY). -/
def ArrState.stick (a : ArrState) (x : BitVec 7) : ArrState := { a with sticky := a.sticky ||| x }

/-- ARR_STICKY bits 4:0 take the flags of a pass; bit 5 is DISAGREE, bit 6 ABANDONED. -/
def stickyOf (f : BitVec 5) : BitVec 7 := f.setWidth 7

/-- Bits of XB_CLASH (R249). -/
abbrev clashCrossbar : Nat := 0
abbrev clashWrite : Nat := 1
abbrev clashStream : Nat := 2
abbrev clashLoad : Nat := 3
abbrev clashVl : Nat := 4
abbrev clashVs : Nat := 5

/-- Record a lost access of a requester (R249): its bit, and the bank and CCLK of the first clash after all bits were
clear. A clash with a fetch is known three CCLK late, and still is the first one if it came first. -/
def XbState.clashes (x : XbState) (bit bank cyc : Nat) : XbState :=
  let x1 := if x.clash = 0 ∨ cyc < x.clashAt then
      { x with clashBank := BitVec.ofNat 6 bank, clashCycle := loWord cyc, clashAt := cyc, clashValid := true }
    else x
  { x1 with clash := x1.clash ||| BitVec.twoPow 6 bit }

/-- Unit code of a residue mismatch (VU_RESIDUE_INFO.UNIT): what the checker reports, in 64 lanes of each unit. -/
def residueUnit (x : Nat) : BitVec 3 := BitVec.ofNat 3 (x / 64)

/-- Lane of a residue mismatch; a generator's number for UNIT 3. -/
def residueLane (x : Nat) : BitVec 6 := BitVec.ofNat 6 x

end Sys2Proof.Machine
end

