-- ==== Sys2Proof/Machine/SymbolCode.lean ====
section
/-! DEFINITION. The symbol code (R250 to R252): what a check stage makes of a word in which symbols are in error, and what it counts
and reports. Which symbols of which words are in error when they pass a check stage is chance: an operand of the command that
moves them (log entry 58). -/

namespace Sys2Proof.Machine

open Sys2Proof

/-- What a check stage makes of a word. -/
inductive WordCheck where
  | clean | corrected | uncorrectable | missed
  deriving DecidableEq, Repr

/-- The outcome for a word with `n` symbols in error (R250): one is corrected, two or three are reported as uncorrectable. The
spec gives the code no outcome for four or more: a free value `x` decides. -/
def wordCheck (n x : Nat) : WordCheck :=
  if n = 0 then .clean
  else if n = 1 then .corrected
  else if n ≤ 3 then .uncorrectable
  else if x % 3 = 0 then .uncorrectable
  else if x % 3 = 1 then .corrected
  else .missed

/-- Is the word delivered another one than was stored: four or more symbols in error that are not reported? -/
def wordWrong (n x : Nat) : Bool := decide (3 < n) && decide (x % 3 ≠ 0)

/-- One word of a Spire's store has passed its check stage (R252): a correction counts event 0x0502, an uncorrectable word is
reported and costs the Spire 200 of its score (Table 15.4). -/
def storeChecked (k : Nat) (c : WordCheck) (s : State) : State :=
  match c with
  | .corrected => countSpire k 0x0502 1 { s with rel := { s.rel with corrections := s.rel.corrections + 1 } }
  | .uncorrectable =>
    let job := (s.spire k).ctx.jobId
    changeScore k (-200) (errRecord 2 1 k (s.jobLease job) 0 job 0 s)
  | _ => s

/-- One word of stack `h` has passed its check stage: HBM_SYM_CORR and event 0x1204, or HBM_SYM_UNCORR and a report. -/
def stackChecked (h : Nat) (c : WordCheck) (s : State) : State :=
  match c with
  | .corrected =>
    countBelfry 0x1204 (some h) 1 ({ s with rel := { s.rel with corrections := s.rel.corrections + 1 } }.modStack h
      (fun x => { x with symCorr := satInc x.symCorr }))
  | .uncorrectable =>
    errRecord 2 1 h 0 0 0 0 (s.modStack h (fun x => { x with symUncorr := satInc x.symUncorr }))
  | _ => s

/-- The words of a beat as they leave a check stage: their bytes and their poison. -/
structure Words where
  data   : List Byte
  poison : BitVec 32
  deriving DecidableEq, Repr

/-- Put other bytes in place of word `i`. -/
def Words.replace (w : Words) (i x : Nat) : Words :=
  { w with data := w.data.take (32 * i) ++ leBytes x 32 ++ w.data.drop (32 * (i + 1)) }

/-- Word `i` of a beat passes a check stage with `n` symbols in error: a word that is poisoned stays so whatever its symbols say
(R251), an uncorrectable one is delivered poisoned. `note` counts and reports. -/
def passWord (note : WordCheck → State → State) (r : Words × State) (e : Nat × Nat) : Words × State :=
  if r.1.poison.getLsbD e.1 || decide (32 ≤ e.1) || decide (e.2 = 0) then r
  else
    let x := r.2.freeValue
    let c := wordCheck e.2 x
    let w := if c = .uncorrectable then { r.1 with poison := r.1.poison ||| BitVec.twoPow 32 e.1 }
      else if wordWrong e.2 x then r.1.replace e.1 (Config.freeNat (r.2.free + 1)) else r.1
    (w, note c (if 3 < e.2 then r.2.useFree.useFree else r.2))

/-- The words of a beat pass a check stage, with `errs` the words that have symbols in error and how many. -/
def passWords (note : WordCheck → State → State) (errs : List (Nat × Nat)) (w : Words) (s : State) : Words × State :=
  errs.foldl (passWord note) (w, s)

end Sys2Proof.Machine
end

