-- ==== Sys2Proof/Machine/StoreOps.lean ====
section
/-! DEFINITION. Accesses to a Spire store in one CCLK (08 'Store accesses'): banks, clashes, the reads and writes of vector
loads, gathers and stores, and the store side of crossbar beats. They are made at the tick, in the CCLK that 06 and Table
8.2 give them. -/

namespace Sys2Proof.Machine

open Sys2Proof

/-- The bank of an address (R242). -/
def bankOf (a : Nat) : Nat := a / 32 % 64

/-- The word that holds an address. -/
def wordOf (a : Nat) : Nat := a / 32 * 32

/-- The words of `n` bytes at `a`, lowest first; `a` is a multiple of 32. -/
def wordsOf (a n : Nat) : List Nat := (List.range ((n + 31) / 32)).map (fun i => a + 32 * i)

/-- The words of runs of bytes from `a` on. -/
def runWords (a : Nat) (runs : List (Nat × Nat)) : List Nat := runs.flatMap (fun r => wordsOf (a + r.1) r.2)

/-- The words that the output of vector `j` takes, its side record among them (R122, R167). -/
def PassDesc.outWords (d : PassDesc) (j : Nat) : List Nat :=
  let a := d.outAddr + j * d.outStride
  if d.outLong then runWords a d.longRuns else wordsOf a d.outSpan ++ [d.osideAddr + j * d.osideStride]

/-- The words of vector `j` that the stream reads: elements, block scales, PARTIAL values. -/
def PassDesc.inWords (d : PassDesc) (j : Nat) : List Nat :=
  wordsOf (d.xAddr + j * d.xStride) (32 * ((d.k * fmtBits d.fmtX + 255) / 256))
  ++ (if fmtMx d.fmtX && decide (0 < d.k) then [d.xsAddr + j * d.xsStride] else [])
  ++ (if d.init = 2 then runWords (d.initAddr + j * d.initStride) d.longRuns else [])

/-- The CCLK in which vector `j` of a pass enters (Table 4.7). -/
def Pass.enterAt (p : Pass) (j : Nat) : Nat := p.start + p.load + 1 + j * p.desc.interval

/-- The words that a recompute reads through the test path in CCLK `c` (R505): the descriptor in the CCLK after its issue, the tile and
its side data from the start on, then the vectors, as the pass would on its own Spire. -/
def Recompute.words (r : Recompute) (c : Nat) : List Nat :=
  let d := r.pass.desc
  let i := c - r.start
  let v := i - d.loadTime - 1
  if c + 2 = r.start then [r.pass.addr, r.pass.addr + 32]
  else if c < r.start then []
  else if i < d.loadTime then
    (if i < d.tileRows then wordsOf (d.tileAddr + 256 * i) 256 else []) ++ (d.sideAt i).map (fun m => d.sideAddr + 32 * m)
  else if d.loadTime < i ∧ v % d.interval = 0 ∧ v / d.interval < d.v then d.inWords (v / d.interval)
  else []

/-- The banks of Spire `k`'s store that the test path names in this CCLK, ahead of every requester but a bundle fetch. -/
def State.testBanks (s : State) (k : Nat) : BitVec 64 :=
  ((s.rel.recomputes.filter (fun r => r.original == k && !r.done)).flatMap (fun r => r.words s.cyc)).foldl
    (fun b a => b ||| BitVec.twoPow 64 (bankOf a)) 0

/-- Has a pass in CCLK `c` a stream read or a write open that may name bank `b` (R603)? Vector `j` is read until it enters, and
written from 10 CCLK after that to the release. -/
def Pass.streams (p : Pass) (c b : Nat) : Bool :=
  (List.range p.desc.v).any (fun j =>
    (!decide (j < p.entered) && (p.desc.inWords j).any (fun a => bankOf a == b))
    || (decide (j < p.entered) && decide (p.enterAt j + 10 ≤ c) && (p.desc.outWords j).any (fun a => bankOf a == b)))

/-- May the array's stream name bank `b` of Spire `k` now? -/
def State.streamOpen (s : State) (k b : Nat) : Bool := (s.spire k).arr.passes.any (fun p => p.streams s.cyc b)

/-- The accesses of one CCLK on one Spire: banks taken so far. -/
structure Acc where
  used : BitVec 64
  s    : State

/-- A requester of XB_CLASH bit `bit` names bank `b` (R247): it gets the bank, or its access is lost. Requesters of a higher
precedence number than the array's stream may lose to it, in a CCLK that the spec does not state (log entry 13). -/
def claim (k b bit : Nat) (r : Acc) : Bool × Acc :=
  let lose (t : State) : Bool × Acc := (false, ⟨r.used, t.modXb k (fun x => x.clashes bit b t.cyc)⟩)
  if r.used.getLsbD b then lose r.s
  else if decide (clashLoad ≤ bit) && r.s.streamOpen k b then
    if Config.streamClash r.s.free b then lose r.s.useFree
    else (true, ⟨r.used ||| BitVec.twoPow 64 b, countSpire k 0x0501 1 r.s.useFree⟩)
  else (true, ⟨r.used ||| BitVec.twoPow 64 b, countSpire k 0x0501 1 r.s⟩)

/-- Note an access, for a fetch that may take its bank away. -/
def noteRecent (k b : Nat) (u : Undo) (s : State) : State :=
  s.modSpire k (fun p => { p with recent := ⟨s.cyc, b, u⟩ :: p.recent.filter (fun x => s.cyc ≤ x.at_ + 3) })

/-- A word of the store as a number. -/
def Spire.word (p : Spire) (a : Nat) : Nat := p.store.readLE a 32

/-- Write a whole word with its poison bit (R251). -/
def Mem.writeWord (m : Mem) (a v : Nat) (poison : Bool) : Mem := (m.writeLE a 32 v).setPoison (a / 32) poison

/-- Note that `w` is about to write the word at `a`: what the word holds is kept (R215, R247). -/
def noteWrite (k a : Nat) (w : Writer) (s : State) : State :=
  let p := s.spire k
  noteRecent k (bankOf a) (.write a (BitVec.ofNat 256 (p.word a)) (p.store.poisonedAt a) w) s

/-- A word, with its poison, as it stood before the writes noted from CCLK `t` on. `recent` is newest first. -/
def Spire.wordAsOf (p : Spire) (a t : Nat) : Nat × Bool :=
  p.recent.foldl (fun w x =>
    match x.undo with
    | .write b old bad _ => if b = a ∧ t ≤ x.at_ then (old.toNat, bad) else w
    | _ => w) (p.word a, p.store.poisonedAt a)

/-! ### Writes of the array (R603) -/

/-- Make one write of the array: the word's old contents stay with its pass until the release. -/
def arrWriteNow (k n : Nat) (s : State) (w : ArrWrite) : State :=
  let a := wordOf w.addr
  let p := s.spire k
  let old : OldWord := ⟨a, BitVec.ofNat 256 (p.word a), p.store.poisonedAt a⟩
  let s1 := (noteWrite k a .array s).modStore k (fun m => m.arrWrite w)
  countSpire k 0x0501 1 (s1.modArr k (fun x => { x with
    passes := x.passes.map (fun y => if y.seq = n then { y with wrote := old :: y.wrote } else y) }))

/-- The writes of the array that are due: 10 CCLK after the entry of their vector (DESIGN CHOICE, log entry 13: the spec states no
CCLK from there to the release). -/
def arrayWrites (k : Nat) (s : State) : State :=
  (s.spire k).arr.passes.foldl (fun t p =>
    let now := p.writes.filter (fun w => decide (w.at_ ≤ t.cyc))
    if now.isEmpty then t
    else now.foldl (arrWriteNow k p.seq) (t.modArr k (fun x => { x with
      passes := x.passes.map (fun y => if y.seq = p.seq then
        { y with writes := y.writes.filter (fun w => !decide (w.at_ ≤ t.cyc)) } else y) }))) s

/-! ### Vector loads and gathers (R181, R182, R143, R500) -/

/-- Change the load in flight that was issued in CCLK `t`. -/
def modLoad (k t : Nat) (f : VFlight → VFlight) (s : State) : State :=
  s.modVu k (fun v => { v with flights := v.flights.map (fun x =>
    match x.kind with
    | .load _ => if x.issue = t then f x else x
    | .gather _ _ => if x.issue = t then f x else x
    | _ => x) })

/-- Put `w` bits of a result at bit `i`. -/
def insertBits (v : VReg) (i w x : Nat) : VReg :=
  let hole := v &&& ~~~(BitVec.ofNat 2048 (2 ^ w - 1) <<< i)
  hole ||| (BitVec.ofNat 2048 (x % 2 ^ w) <<< i)

/-- A vector load that has read a poisoned word has the outcome of Table 15.2, and delivers zeros. -/
def poisonLoad (k : Nat) (f : VFlight) (s : State) : State :=
  let s1 := modLoad k f.issue (fun x => { x with poisoned := true }) (consumePoison 1 s)
  if s.radioWork k f.inS then loseWindowSlots k s1 else poisonEnd k s1

/-- One word read by a vector operation: 0 where the access is lost or the range is pending; the read of a pending range is
a program fault (R143), a poisoned word has the outcome of Table 15.2. -/
def vectorRead (k : Nat) (f : VFlight) (a : Nat) (r : Acc) : Nat × Acc :=
  let (ok, r1) := claim k (bankOf a) clashVl r
  let p := r1.s.spire k
  if !ok then (0, r1)
  else if p.isPending a 32 then (0, ⟨r1.used, programFault k f.inS 0x03 0 f.pc r1.s⟩)
  else if p.store.poisonedAt a then (0, ⟨r1.used, poisonLoad k f r1.s⟩)
  else (p.word a, r1)

/-- The read of a VLD, in the CCLK after its issue: eight words. -/
def readLoad (k : Nat) (f : VFlight) (addr : Nat) (r : Acc) : Acc :=
  let r1 := (List.range 8).foldl (fun q i =>
    let (w, q1) := vectorRead k f (addr + 32 * i) q
    let s1 := modLoad k f.issue (fun x => { x with value := insertBits x.value (256 * i) 256 w }) q1.s
    ⟨q1.used, noteRecent k (bankOf (addr + 32 * i)) (.vl f.issue i) s1⟩) r
  ⟨r1.used, modLoad k f.issue (fun x => { x with groups := 1 }) r1.s⟩

/-- Does lane `i` of a group of addresses name the bank of a lower-numbered lane that reads another word (R182)? -/
def gatherConflict (l : List Nat) (i : Nat) : Bool :=
  (List.range i).any (fun j => bankOf (l.getD j 0) == bankOf (l.getD i 0) && wordOf (l.getD j 0) != wordOf (l.getD i 0))

/-- One group of a gather, lanes 8g to 8g + 7. Lanes that read one word share its access, whatever that delivers. -/
def readGroup (k : Nat) (f : VFlight) (base : Nat) (offsets : VReg) (r : Acc) : Acc :=
  let g := f.groups
  let l := ((gatherAddrs base offsets).drop (8 * g)).take 8
  let off := ((lanes 32 offsets).drop (8 * g)).take 8
  let (_, r1) := (List.range 8).foldl (fun (q : List (Nat × Nat) × Acc) i =>
    let a := l.getD i 0
    let put (x : Nat) (t : State) : State :=
      modLoad k f.issue (fun y => { y with value := insertBits y.value (32 * (8 * g + i)) 32 x }) t
    if gatherConflict l i then
      (q.1, ⟨q.2.used, modLoad k f.issue (fun y => { y with sticky := y.sticky ||| stGather }) (put 0 q.2.s)⟩)
    else if off.getD i 0 % 4 ≠ 0 then (q.1, ⟨q.2.used, put q.2.s.freeValue q.2.s.useFree⟩)
    else
      let (w, q1) := match q.1.find? (fun x => x.1 == wordOf a) with
        | some x => (x.2, q.2)
        | none => vectorRead k f (wordOf a) q.2
      ((wordOf a, w) :: q.1, ⟨q1.used, put (w / 2 ^ (8 * (a % 32)))
        (noteRecent k (bankOf a) (.vl f.issue (8 + 8 * g + i)) q1.s)⟩)) ([], r)
  ⟨r1.used, modLoad k f.issue (fun x => { x with groups := x.groups + 1 }) r1.s⟩

/-! ### Vector stores (R181, R220) -/

/-- The write of a VST, two CCLK after its issue: eight whole words, unless it touches a protected range. -/
def writeStore (k : Nat) (f : VFlight) (addr : Nat) (r : Acc) : Acc :=
  let done (t : State) : State := t.modVu k (fun v => { v with flights := v.flights.map (fun x =>
    match x.kind with
    | .store _ => if x.issue = f.issue then { x with groups := 1 } else x
    | _ => x) })
  if (r.s.spire k).isProtected r.s.cyc addr 256 then
    ⟨r.used, done (programFault k f.inS 0x09 0 f.pc r.s)⟩
  else
    let r1 := (List.range 8).foldl (fun q i =>
      let a := addr + 32 * i
      let (ok, q1) := claim k (bankOf a) clashVs q
      if ok then
        let s1 := noteWrite k a .vs q1.s
        ⟨q1.used, s1.modStore k (fun m => m.writeWord a (elemAt f.value.toNat 256 i) false)⟩
      else q1) r
    ⟨r1.used, done r1.s⟩

/-- The store accesses of the vector unit in this CCLK: loads one CCLK after issue, the groups of gathers from then on,
stores two CCLK after issue. -/
def vectorAccesses (k : Nat) (r : Acc) : Acc :=
  let c := r.s.cyc
  let fs := (r.s.spire k).vu.flights
  let r1 := fs.foldl (fun q f =>
    match f.kind with
    | .load a => if f.issue + 1 = c ∧ f.groups = 0 then readLoad k f a q else q
    | .gather a o => if f.groups < 8 ∧ f.issue + 1 + f.groups = c then readGroup k f a o q else q
    | _ => q) r
  fs.foldl (fun q f =>
    match f.kind with
    | .store a => if f.issue + 2 = c ∧ f.groups = 0 then writeStore k f a q else q
    | _ => q) r1

/-! ### Crossbar beats at the store (R256, R271, R273, R143) -/

/-- CCLK from the store read of a PUT beat to its HBM command (Table 8.2). -/
def putLead (k h : Nat) : Nat := if h / 6 = k / 8 then 3 else 69

/-- CCLK from the HBM command of a GET beat to its store write (Table 8.2). -/
def getLag (k h : Nat) : Nat := if h / 6 = k / 8 then 26 else 92

/-- The transfer of a stream whose turn it is: the active one until its last beat has started, then the queued one
(R271). -/
def Stream.turn (t : Stream) : Option Xfer :=
  match t.active with
  | some x => if x.next < x.beats then some x else
      match t.queued with
      | some y => if y.next < y.beats then some y else none
      | none => none
  | none => none

/-- A beat of the transfer whose turn it is has started. -/
def Stream.advance (t : Stream) : Stream :=
  match t.active with
  | some x => if x.next < x.beats then { t with active := some { x with next := x.next + 1 } } else
      match t.queued with
      | some y => { t with queued := some { y with next := y.next + 1 } }
      | none => t
  | none => t

/-- The store read of a PUT beat: words of a pending range carry the poison marker (R143), lost words too (R247). -/
def readPut (k : Nat) (x : Xfer) (j : Nat) (r : Acc) : Acc :=
  let a := x.storeAddr + 1024 * x.next
  let due := r.s.cyc + putLead k x.stack
  let (words, r1) := (List.range 32).foldl (fun (q : List (Nat × Bool) × Acc) i =>
    let w := a + 32 * i
    let (ok, q1) := claim k (bankOf w) clashCrossbar q.2
    let p := q1.s.spire k
    let bad := !ok || p.isPending w 32 || p.store.poisonedAt w
    let to_ := x.place * 262144 + 1024 * (x.first + x.next) + 32 * i
    (q.1 ++ [(p.word w, bad)], ⟨q1.used, noteRecent k (bankOf w) (.put j x.stack due i to_) q1.s⟩)) ([], r)
  let data := words.foldr (fun w acc => leBytes w.1 32 ++ acc) []
  let poison := (List.range 32).foldl (fun (b : BitVec 32) i =>
    if (words.getD i (0, false)).2 then b ||| BitVec.twoPow 32 i else b) 0
  let b : Beat := ⟨j, x.stack, x.place, x.first + x.next, a, due, data, poison, decide (x.next + 1 = x.beats), x.inS, x.pc⟩
  ⟨r1.used, r1.s.modXb k (fun y => { y with
    puts := y.puts ++ [b], streams := y.streams.modify Stream.reset j Stream.advance })⟩

/-- The transfer of a stream whose last beat has now arrived: the active one, or the queued one when the active one's has before
(R272). -/
def Stream.arrived (c : Nat) (t : Stream) : Stream :=
  let mark (x : Xfer) : Xfer := if x.next = x.beats ∧ x.lastAt = 0 then { x with lastAt := c } else x
  match t.active with
  | some x => if x.lastAt = 0 then { t with active := some (mark x) } else { t with queued := t.queued.map mark }
  | none => t

/-- The store write of a GET beat (R220, R251, R273). -/
def writeGet (k : Nat) (b : Beat) (r : Acc) : Acc :=
  let gone (t : State) : State := t.modXb k (fun y => { y with gets := y.gets.erase b })
  if (r.s.spire k).isProtected r.s.cyc b.addr 1024 then
    ⟨r.used, gone (programFault k b.inS 0x09 0 b.pc r.s)⟩
  else
    let r1 := (List.range 32).foldl (fun q i =>
      let a := b.addr + 32 * i
      let (ok, q1) := claim k (bankOf a) clashCrossbar q
      if ok then
        let s1 := noteWrite k a .crossbar q1.s
        ⟨q1.used, s1.modStore k (fun m => m.writeWord a (leValue ((b.data.drop (32 * i)).take 32)) (b.poison.getLsbD i))⟩
      else q1) r
    let s2 := countSpire k 0x0601 1 (gone r1.s)
    ⟨r1.used, if b.isLast then s2.modXb k (fun y => { y with
      streams := y.streams.modify Stream.reset b.stream (Stream.arrived (r.s.cyc + 1)) }) else s2⟩

/-- Mark the banks that crossbar beats and fetches name, in every accepted and unreleased pass (R247, R603). -/
def markBeats (k : Nat) (banks : BitVec 64) (s : State) : State :=
  if banks = 0 then s
  else s.modArr k (fun a => { a with
    passes := a.passes.map (fun p => { p with beats := p.beats ||| banks })
    queued := a.queued.map (fun q => { q with beats := q.beats ||| banks }) })

/-- Lost writes of the array: a word that an unreleased pass has written and whose bank a crossbar beat or a fetch names before
the release may be lost (R247, R603, log entry 13): the write was not made, and the word holds what it held. -/
def loseWrites (k : Nat) (banks : BitVec 64) (s : State) : State :=
  (s.spire k).arr.passes.foldl (fun t p =>
    p.wrote.foldl (fun u w =>
      if banks.getLsbD (bankOf w.addr) then
        if Config.beatClash u.free w.addr then
          let u1 := (u.modStore k (fun m => m.writeWord w.addr w.word.toNat w.poison)).modArr k (fun a => { a with
            passes := a.passes.map (fun y => if y.seq = p.seq then { y with wrote := y.wrote.erase w } else y) })
          (u1.modXb k (fun x => x.clashes clashWrite (bankOf w.addr) u.cyc)).useFree
        else u.useFree
      else u) t) s

/-- The crossbar's store accesses of this CCLK: GET beats that are due, PUT beats whose slot lies ahead by the lead. -/
def crossbarAccesses (k : Nat) (r : Acc) : Acc :=
  let x := (r.s.spire k).xb
  let r1 := (x.gets.filter (fun b => b.due ≤ r.s.cyc)).foldl (fun q b => writeGet k b q) r
  let r2 := (List.range 4).foldl (fun q j =>
    match (x.streams.get Stream.reset j).turn with
    | some t => if !t.isGet && decide (t.from_ ≤ q.s.cyc) && q.s.ownsSlot k j t.stack true (putLead k t.stack)
        then readPut k t j q else q
    | none => q) r1
  let banks := r2.used
  ⟨r2.used, if banks = 0 then r2.s else markBeats k banks (loseWrites k banks r2.s)⟩

/-! ### Bundle fetches (R215, R247) -/

/-- The bit of XB_CLASH that a writer's lost write sets; a writer without a precedence loses none (R248). -/
def Writer.clash : Writer → Option Nat
  | .crossbar => some clashCrossbar
  | .array => none
  | .vs => some clashVs
  | .other => none

/-- Take an access back whose bank a fetch named in the same CCLK. A PUT beat that has reached its stack meanwhile has taken its
lost word there. -/
def undo (k : Nat) (x : Recent) (s : State) : State :=
  match x.undo with
  | .write a old poison w =>
    match w.clash with
    | some bit => (s.modStore k (fun m => m.writeWord a old.toNat poison)).modXb k (fun y => y.clashes bit x.bank x.at_)
    | none => s
  | .row i part => (s.modArr k (fun a => { a with shadow := { a.shadow with
      rows := a.shadow.rows.set 0 i (insertBits (a.shadow.rows.get 0 i) (256 * part) 256 0) } })).modXb k
      (fun y => y.clashes clashLoad x.bank x.at_)
  | .side i => (s.modArr k (fun a => { a with shadow := { a.shadow with side := a.shadow.side.set 0 i 0 } })).modXb k
      (fun y => y.clashes clashLoad x.bank x.at_)
  | .vl t w => (modLoad k t (fun f =>
      if w < 8 then { f with value := insertBits f.value (256 * w) 256 0 }
      else { f with value := insertBits f.value (32 * (w - 8)) 32 0 }) s).modXb k
      (fun y => y.clashes clashVl x.bank x.at_)
  | .put j h due w dest =>
    let s1 := s.modXb k (fun y => { (y.clashes clashCrossbar x.bank x.at_) with
      puts := y.puts.map (fun b => if b.stream = j ∧ b.due = due then { b with poison := b.poison ||| BitVec.twoPow 32 w }
        else b) })
    if (s.spire k).xb.puts.any (fun b => b.stream == j && b.due == due) then s1
    else s1.modStack h (fun y => { y with mem := y.mem.setPoison (dest / 32) true })

/-- The fetch, three CCLK ago, of the bundle that issues now: every other access of that CCLK to its bank is lost. -/
def fetchClash (k a : Nat) (s : State) : State :=
  let l := (s.spire k).recent.filter (fun x => x.at_ + 3 == s.cyc && x.bank == bankOf a)
  let s1 := loseWrites k (BitVec.twoPow 64 (bankOf a)) (l.foldl (fun t x => undo k x t) s)
  countSpire k 0x0501 1 (markBeats k (BitVec.twoPow 64 (bankOf a)) s1)

end Sys2Proof.Machine
end

