-- ==== Sys2Proof/Machine/Vector.lean ====
section
/-! DEFINITION. The vector unit (06): issue of the VA, VL and VS slots, the landing of results, residue mismatches, the
state words. -/

namespace Sys2Proof.Machine

open Sys2Proof

/-! ### Landing of results (R175, R176) -/

/-- Write a result into a bank. -/
def Bank.land (b : Bank) (f : VFlight) : Bank :=
  match f.dest with
  | .nowhere => b
  | .reg n => { b with v := b.v.set 0 n f.value }
  | .pair n => { b with v := (b.v.set 0 n f.value).set 0 (n + 1) f.value1 }
  | .search => { b with sv := f.value, si := f.value1, sc := f.sc }

/-- Land one result and take it out of those in flight; a load that read a poisoned word delivers zeros (Table 15.2). -/
def VuState.landOne (v : VuState) (f : VFlight) : VuState :=
  let v1 := { v with flights := v.flights.erase f }
  let g := if f.poisoned then { f with value := 0 } else f
  (v1.modBank f.inS (fun b => b.land g)).stick f.inS f.sticky

/-- The first result to land: the earliest CCLK, and in one CCLK the operation issued first (R176). -/
def firstLanding : List VFlight → Option VFlight
  | [] => none
  | f :: r => match firstLanding r with
    | some g => if g.land < f.land then some g else some f
    | none => some f

/-- Land every result due by CCLK `c`, at most `n`. -/
def VuState.landDue (c : Nat) : Nat → VuState → VuState
  | 0, v => v
  | n + 1, v =>
    match firstLanding v.flights with
    | some f => if f.land ≤ c then VuState.landDue c n (v.landOne f) else v
    | none => v

/-- Land every result of Spire `k` that is due now. -/
def landResults (k : Nat) (s : State) : State :=
  s.modVu k (fun v => v.landDue s.cyc v.flights.length)

/-! ### Issue of an arithmetic operation (R174 to R180, R191 to R196) -/

/-- Operand B replaced by IMM16, sign-extended to the lane (Table 7.3). -/
def immReg (w imm : Nat) : VReg := ofLanes w (List.replicate (2048 / w) (ofSigned w (toSigned 16 imm)))

/-- A register with one value in every 32-bit lane. -/
def splat (x : Nat) : VReg := ofLanes 32 (List.replicate 64 x)

/-- SV at VSINIT (R191). -/
def searchStart (fp mx : Bool) : Nat :=
  if mx then (if fp then 0xFF800000 else 0x80000000) else (if fp then 0x7F800000 else 0x7FFFFFFF)

/-- The search state that a VSMAX or VSMIN reads: the newest one in flight, since the search is a running one, else the
bank's (DEDUCED, log entry 17). -/
def VuState.searchState (v : VuState) (inS : Bool) : VReg × VReg × BitVec 26 :=
  match (v.flights.filter (fun f => f.inS == inS && f.dest == .search)).getLast? with
  | some f => (f.value, f.value1, f.sc)
  | none => let b := v.bank inS; (b.sv, b.si, b.sc)

/-- The flight of an arithmetic operation issued in CCLK `c`. -/
def VaOp.flight (o : VaOp) (inS : Bool) (c : Nat) (dest : VDest) (value value1 : VReg) (sc : BitVec 26)
    (sticky : BitVec 6) : VFlight :=
  ⟨inS, o.vop, .arith, c, c + vopLatency o.vop, dest, value, value1, sc, sticky, 0, false, false, 0⟩

/-- The operation of a VA slot on a bank: its flight. `scalar` is what the control core supplies to VBCAST. -/
def VaOp.run (o : VaOp) (v : VuState) (inS : Bool) (c scalar : Nat) : VFlight :=
  let b := v.bank inS
  let w := widthBits o.wd
  let a := b.reg o.a
  let y := match o.imm with
    | some i => immReg w i
    | none => b.reg o.b
  if o.vop = 0x30 then
    let mx := Config.vsinitFunc o.func
    o.flight inS c .search (splat (searchStart (o.wd == 3) mx)) (splat 0xFFFFFFFF) 0 0
  else if o.vop = 0x31 ∨ o.vop = 0x32 then
    let (sv, si, sc) := v.searchState inS
    let r := searchStep (o.wd == 3) (o.vop == 0x31) a sv si sc.toNat
    o.flight inS c .search r.1 r.2 (sc + 1) 0
  else if o.vop = 0x42 then
    let x := match Config.vbcastLane o.b o.c o.imm.isSome (o.imm.getD 0) with
      | some i => (lanes 32 a).getD (i % 64) 0
      | none => scalar
    o.flight inS c (.reg o.d) (splat x) 0 0 0
  else
    let pair := Config.searchPair o.a o.b
    let sv := if pair then b.sv else a
    let si := if pair then b.si else b.reg o.b
    let r := vopResult o.vop o.wd o.func a y (b.reg o.c) (b.reg o.d) (b.reg (o.d + 1)) sv si
    o.flight inS c (if vopPair o.vop then .pair o.d else .reg o.d) r.d r.d1 0 r.sticky

/-- Issue a VA slot on Spire `k`: VNOP does nothing; an odd register of a pair is a program fault (cause 0x06). -/
def issueVa (k pc : Nat) (o : VaOp) (s : State) : State :=
  let v := (s.spire k).vu
  if o.vop = 0 then s
  else if vopPair o.vop && o.d % 2 == 1 then programFault k v.inS 0x06 0 pc s
  else
    let f := o.run v v.inS s.cyc (Config.vbcastScalar k s.free)
    let s1 := if o.vop = 0x42 then s.useFree else s
    s1.modVu k (fun x => { x with flights := x.flights ++ [f] })

/-! ### Issue of loads, gathers and stores (R181 to R183, R188 to R190) -/

/-- Is the slot's address formed by a generator? -/
def VAddr.isGen : VAddr → Bool
  | .direct _ => false
  | .gen _ _ => true

/-- Why an access of 256 bytes faults, if it does: 0x07 for a generator that breaks R188, or whose address is no multiple
of 32 (DEDUCED, log entry 18); 0x04 outside the owned part. -/
def State.accessFault (s : State) (k : Nat) (inS : Bool) (b : Bank) (a : VAddr) : Option Nat :=
  if !a.ok b || !(a.addr b % 32 == 0) then some 0x07
  else if !s.ownsRange k inS (a.addr b) 256 then some 0x04
  else none

/-- Issue a VL slot on Spire `k`. `b` is the bank as at the start of the bundle (R189). -/
def issueVl (k pc : Nat) (b : Bank) (o : VlOp) (s : State) : State :=
  let inS := (s.spire k).vu.inS
  let c := s.cyc
  match o with
  | .none_ => s
  | .vld d a =>
    match s.accessFault k inS b a with
    | some cause => programFault k inS cause 0 pc s
    | none =>
      let f : VFlight := ⟨inS, 0x50, .load (a.addr b), c, c + 5, .reg d, 0, 0, 0, 0, 0, a.isGen, false, pc⟩
      s.modVu k (fun v => { v with flights := v.flights ++ [f] })
  | .vgath d ag off _ =>
    let base := (b.gen ag).addr
    let offs := b.reg off
    if !(b.gen ag).ok then programFault k inS 0x07 0 pc s
    else if !(gatherAddrs base offs).all (fun x => s.ownsRange k inS x 4) then programFault k inS 0x04 0 pc s
    else
      let f : VFlight := ⟨inS, 0x52, .gather base offs, c, c + 12, .reg d, 0, 0, 0, 0, 0, true, false, pc⟩
      s.modVu k (fun v => { v with flights := v.flights ++ [f] })

/-- Issue a VS slot on Spire `k`: the store is complete with its write in c + 2 (R181, Table 6.7). -/
def issueVs (k pc : Nat) (b : Bank) (o : VsOp) (s : State) : State :=
  let inS := (s.spire k).vu.inS
  let c := s.cyc
  match o with
  | .none_ => s
  | .vst src a =>
    match s.accessFault k inS b a with
    | some cause => programFault k inS cause 0 pc s
    | none =>
      let f : VFlight := ⟨inS, 0x51, .store (a.addr b), c, c + 2, .nowhere, b.reg src, 0, 0, 0, 0, a.isGen, false, pc⟩
      s.modVu k (fun v => { v with flights := v.flights ++ [f] })

/-- The generator that a VL slot post-modifies. -/
def VlOp.post (o : VlOp) (b : Bank) : Bank :=
  match o with
  | .none_ => b
  | .vld _ a => a.post b
  | .vgath _ ag _ pm => (VAddr.gen ag pm).post b

/-- The generator that a VS slot post-modifies. -/
def VsOp.post (o : VsOp) (b : Bank) : Bank :=
  match o with
  | .none_ => b
  | .vst _ a => a.post b

/-- Issue the three vector slots of a bundle: the load goes before the arithmetic operation among those in flight, so that
the arithmetic result stands where both land together (R176); the load's post-modify comes before the store's (R189).
Event 0x0201 counts the bundle. -/
def issueVector (k pc : Nat) (x : Bundle) (s : State) : State :=
  let inS := (s.spire k).vu.inS
  let b := (s.spire k).vu.bank inS
  let any := x.va.vop != 0 || x.vl != .none_ || x.vs != .none_
  let s1 := issueVa k pc x.va (issueVs k pc b x.vs (issueVl k pc b x.vl s))
  let s2 := s1.modVu k (fun v => v.modBank inS (fun y => x.vs.post (x.vl.post y)))
  if any then countSpire k 0x0201 1 s2 else s2

/-! ### Residue mismatches (R197, R456, Table 15.2) -/

/-- May the checkers report a mismatch `x` for a result: of a lane or a tree in a checked operation, or of the generator
that formed its address? -/
def VFlight.checks (f : VFlight) (x : Nat) : Bool :=
  if x / 64 % 8 = 3 then f.gen else vopChecked f.vop

/-- The store writes of a bank that this CCLK has made do not take place (R197). -/
def suppressStores (k : Nat) (inS : Bool) (s : State) : State :=
  let p := s.spire k
  let mine (a : Nat) : Bool := p.vu.flights.any (fun f => f.inS == inS && (match f.kind with
    | .store b => decide (f.issue + 2 = s.cyc) && decide (b ≤ a ∧ a < b + 256)
    | _ => false))
  p.recent.foldl (fun t x =>
    match x.undo with
    | .write a old poison .vs =>
      if x.at_ = s.cyc ∧ mine a then t.modStore k (fun m => m.writeWord a old.toNat poison) else t
    | _ => t) s

/-- A residue mismatch in the result `f` of Spire `k`, in the CCLK after its detection. The failing result and every later write
of its bank are suppressed, a store's in this CCLK among them; a conflict that a failing gather has met stays recorded (Table
6.8). An interrupt that the bank drains for is not taken. -/
def residueStop (k : Nat) (f : VFlight) (x : Nat) (s0 : State) : State :=
  let s := suppressStores k f.inS s0
  let c := s.cyc
  let p := s.spire k
  let inS := f.inS
  let job := if inS then 0 else p.ctx.jobId
  let s1 := s.modVu k (fun v =>
    { (v.stick inS (stResidue ||| (f.sticky &&& stGather))) with
      flights := v.flights.filter (fun g => g.inS != inS)
      residue := ⟨true, residueUnit x, residueLane x, BitVec.ofNat 8 f.vop, inS⟩
      residueCycle := loWord (c - 1)
      stopped := true })
  let s2 := errRecord 5 2 k (s.jobLease job) 0 job 0 (countSpire k 0x0202 1 s1)
  let s3 := (quarantine k s2).modHealth k (fun h => { h with deduct := h.deduct + 1 })
  let drain (t : State) : State :=
    if p.vu.inS = inS ∧ (p.vu.phase.yields ∨ (s.role k = .radioOwned ∧ ¬ inS)) then
      t.modVu k (fun v => { v with phase := .draining (c + drainLen) .residue })
    else t
  if inS && s.role k ≠ .radioOwned then
    ringDome 4 (loseWindowSlots k (drain (s3.modSeq k (fun q => { q with sStopped := true, holdS := none }))))
  else if p.ctx = .radio || s.role k = .radioOwned then
    radioPartFault (.spire k) (ringDome 4 (drain (s3.modSeq k (fun q => { q with stoppedFault := true, hold := none }))))
  else if p.seq.mode.working then
    let s4 := enterEnding k s3
    if job = 0 then s4 else endJob job stFault 0 0 k s4
  else s3

/-- Words of the store that a load or a gather reads. -/
def VFlight.words (f : VFlight) : Nat :=
  match f.kind with
  | .load _ => 8
  | .gather _ _ => 64
  | _ => 0

/-- One word that a load has read passed its check stage with `n` symbols in error (R250, R252): an uncorrectable word is read as
poisoned, whatever bank the load belongs to. Four or more symbols in error may give another word: a free value in the lanes that
the word feeds. -/
def loadChecked (k : Nat) (f : VFlight) (s : State) (e : Nat × Nat) : State :=
  if f.words ≤ e.1 ∨ e.2 = 0 then s
  else
    let x := s.freeValue
    let c := wordCheck e.2 x
    let s1 := storeChecked k c (if 3 < e.2 then s.useFree.useFree else s)
    if c = .uncorrectable then poisonLoad k f s1
    else if wordWrong e.2 x then
      let y := Config.freeNat (s.free + 1)
      modLoad k f.issue (fun g => { g with
        value := if f.words = 8 then insertBits g.value (256 * e.1) 256 y else insertBits g.value (32 * e.1) 32 y }) s1
    else s1

/-- The result of the flight issued as `f`, as it stands now. -/
def landNow (k : Nat) (f : VFlight) (s : State) : State :=
  if (s.spire k).vu.flights.contains f then s.modVu k (fun v => v.landOne f)
  else
    match (s.spire k).vu.flights.find? (fun g => g.inS == f.inS && g.issue == f.issue && g.vop == f.vop) with
    | some g => s.modVu k (fun v => v.landOne g)
    | none => s

/-- VECTOR_RESULT: the first result that is due lands, or fails its residue check. `errs` are the words, by their number in the
load, that have symbols in error at the check stage, with how many. -/
def vectorResult (k : Nat) (mismatch : Option Nat) (errs : List (Nat × Nat)) (s : State) : State :=
  match firstLanding (s.spire k).vu.flights with
  | none => s
  | some f =>
    if s.cyc < f.land then s
    else
      let land := landNow k f (errs.foldl (loadChecked k f) s)
      match mismatch with
      | some x => if f.checks x then residueStop k f x s else land
      | none => land

def execVectorResult (k : Nat) (u : VectorUpset) (s : State) : Host.Outcome State Fault Refusal :=
  .next (vectorResult k u.mismatch u.errs s)

/-! ### State words (R205, Table 6.6) -/

/-- A state word of a bank; a reserved word reads 0. -/
def Bank.stateWord (b : Bank) (i : Nat) : Nat :=
  if i < 12 then
    let l := b.level (i / 3)
    if i % 3 = 0 then l.start.toNat
    else if i % 3 = 1 then l.last.toNat
    else l.count.toNat + flagAt l.active 31
  else if i < 44 then
    let g := b.gen ((i - 12) / 4)
    if i % 4 = 0 then g.base.toNat
    else if i % 4 = 1 then g.len.toNat
    else if i % 4 = 2 then g.stride.toNat
    else g.offset.toNat
  else if i = 44 then b.sc.toNat
  else 0

/-- Write a state word of a bank. -/
def Bank.setStateWord (b : Bank) (i x : Nat) : Bank :=
  if i < 12 then
    { b with levels := b.levels.modify RepLevel.reset (i / 3) (fun l =>
      if i % 3 = 0 then { l with start := BitVec.ofNat 25 x }
      else if i % 3 = 1 then { l with last := BitVec.ofNat 25 x }
      else { l with count := BitVec.ofNat 16 x, active := bitAt x 31 }) }
  else if i < 44 then
    { b with ags := b.ags.modify AddrGen.reset ((i - 12) / 4) (fun g =>
      if i % 4 = 0 then { g with base := BitVec.ofNat 25 x }
      else if i % 4 = 1 then { g with len := BitVec.ofNat 26 x }
      else if i % 4 = 2 then { g with stride := BitVec.ofNat 26 x }
      else { g with offset := BitVec.ofNat 25 x }) }
  else if i = 44 then { b with sc := BitVec.ofNat 26 x }
  else b

end Sys2Proof.Machine
end

