-- ==== Sys2Proof/Machine/Sequencer.lean ====
section
/-! DEFINITION. The duplicated sequencers (07): issue of a bundle, the control operations, holds, repeats, interrupts, and
the decision on an ISSUE. -/

namespace Sys2Proof.Machine

open Sys2Proof

/-! ### Repeats (R184 to R187) -/

/-- End repeat level `n` of a bank. -/
def Bank.endLevel (b : Bank) (n : Nat) : Bank :=
  { b with levels := b.levels.modify RepLevel.reset n (fun l => { l with count := 0, active := false }) }

/-- The end of the bodies of levels below `n` that end on the bundle at address `a`, innermost first (R186): the bank, and
the first bundle of the body that goes on. -/
def Bank.bodyEnd (b : Bank) (a : Nat) : Nat → Bank × Option Nat
  | 0 => (b, none)
  | n + 1 =>
    let l := b.level n
    if l.active && l.last.toNat == a then
      if l.count.toNat ≤ 1 then (b.endLevel n).bodyEnd a n
      else ({ b with levels := b.levels.modify RepLevel.reset n (fun x => { x with count := x.count - 1 }) },
        some (l.start.toNat / 32))
    else b.bodyEnd a n

/-- The bank and the next bundle index after the bundle at index `pc`, with no taken branch. -/
def Bank.after (b : Bank) (pc : Nat) : Bank × Nat :=
  let (x, t) := b.bodyEnd (bundleAddr pc) 4
  (x, t.getD (pc + 1))

/-- Is an address outside the body of an active level? -/
def RepLevel.leaves (l : RepLevel) (a : Nat) : Bool := l.active && !decide (l.start.toNat ≤ a ∧ a ≤ l.last.toNat)

/-- A taken branch to index `t` (R187): the outermost level whose body it leaves ends, with every level inside it. -/
def Bank.branch (b : Bank) (t : Nat) : Bank :=
  match (List.range 4).find? (fun n => (b.level n).leaves (bundleAddr t)) with
  | some n => (List.range 4).foldl (fun x i => if n ≤ i then x.endLevel i else x) b
  | none => b

/-- Does a VREP for level `n` with a body of `len + 1` bundles after index `pc` break the nesting (R185)? -/
def Bank.badNesting (b : Bank) (n len pc : Nat) : Bool :=
  (b.level n).active
  || (decide (0 < n) && !(b.level (n - 1)).active)
  || (decide (0 < n) && decide ((b.level (n - 1)).last.toNat < bundleAddr (pc + 1 + len)))

/-- A VREP (R184): with COUNT 0 the body is skipped, and its last bundle counts as reached for the levels around it. -/
def Bank.vrep (b : Bank) (n len count pc : Nat) : Bank × Nat :=
  if count = 0 then b.after (pc + 1 + len)
  else
    let l : RepLevel :=
      ⟨BitVec.ofNat 25 (bundleAddr (pc + 1)), BitVec.ofNat 25 (bundleAddr (pc + 1 + len)), BitVec.ofNat 16 count, true⟩
    ({ b with levels := b.levels.set RepLevel.reset n l }, pc + 1)

/-! ### Which bank issues -/

/-- Is the reclaim work of Spire `k` running: has its entry bundle been reached (R454)? -/
def State.reclaimRuns (s : State) (k : Nat) : Bool := (s.spire k).seq.reclaim && s.dsp.entered.getLsbD k

/-- Has the work of BANK_S a bundle to issue: reclaim work outside the test window, window work before its WEND, or a
radio program's handler? -/
def State.shadowWork (s : State) (k : Nat) : Bool :=
  let q := (s.spire k).seq
  !q.sStopped && !(q.window && q.windowTest)
  && (s.reclaimRuns k || (q.window && !q.windowOver && decide (s.role k ≠ .radioOwned))
      || (q.inHandler && decide (s.role k = .radioOwned)))

/-- May BANK_M issue: RUNNING, not stopped on a fault, no window in force (R440)? -/
def State.mainWork (s : State) (k : Nat) : Bool :=
  let q := (s.spire k).seq
  q.mode = .running && !q.stoppedFault && !q.window && !q.reclaim

/-- May a bundle of the bank in use issue now? -/
def State.canIssue (s : State) (k : Nat) : Bool :=
  let p := s.spire k
  decide (p.vu.phase = .steady) && decide (p.seq.nextIssue ≤ s.cyc)
  && (if p.vu.inS then p.seq.holdS.isNone && s.shadowWork k && p.seq.mode != .faulted && p.seq.mode != .fenced
      else p.seq.hold.isNone && s.mainWork k)

/-- The index of the next bundle of the bank in use. -/
def SeqState.nextPc (q : SeqState) (inS : Bool) : Nat := if inS then q.pcS.toNat else q.pc.toNat

/-- Set the next bundle of a bank and the earliest CCLK of its issue. -/
def SeqState.goto (q : SeqState) (inS : Bool) (pc at_ : Nat) : SeqState :=
  if inS then { q with pcS := BitVec.ofNat 20 pc, nextIssue := at_ }
  else { q with pc := BitVec.ofNat 20 pc, nextIssue := at_ }

/-- Set the hold of a bank. -/
def SeqState.setHold (q : SeqState) (inS : Bool) (h : Option Hold) : SeqState :=
  if inS then { q with holdS := h } else { q with hold := h }

/-- The hold of a bank. -/
def SeqState.getHold (q : SeqState) (inS : Bool) : Option Hold := if inS then q.holdS else q.hold

/-! ### Holds (R212, R451, R510, R581) -/

/-- No pass started and unreleased, none queued, no ISSUE undecided, no verdict awaited: the condition of WREL and END. -/
def Spire.passesGone (p : Spire) : Bool :=
  p.arr.passes.isEmpty && p.arr.queued.isNone && p.seq.issues.isEmpty && !p.arr.verdictWait

/-- Does the window plan hold an ISSUE of descriptor address `a` from BANK_M now (R451)? A descriptor that the array will
refuse is never held. -/
def State.issueDeferred (s : State) (k a : Nat) : Bool :=
  decide (s.refusal k false a = none) && s.deferred k ((s.spire k).store.desc a) s.cyc

/-- May an ISSUE be carried out now? -/
def State.issueAllowed (s : State) (k : Nat) (inS : Bool) (a : Nat) : Bool :=
  !(s.spire k).arr.verdictWait && (inS || (!s.issueDeferred k a && !s.throttled k))

/-- Is the condition of a hold met now? -/
def State.holdMet (s : State) (k : Nat) (inS : Bool) : Hold → Bool
  | .wrel => (s.spire k).passesGone
  | .wflag f sense => ((s.spire k).seq.flagsNow s.cyc).getLsbD f == sense
  | .wplan t => s.hasPlan && decide (t ≤ s.planTotal)
  | .endCtx _ => (s.spire k).passesGone
  | .issue a => s.issueAllowed k inS a

/-- Carry out an ISSUE in this CCLK (R219). -/
def startIssue (k : Nat) (inS : Bool) (a pc : Nat) (s : State) : State :=
  s.modSeq k (fun q => { q with issues := q.issues ++ [⟨a, s.cyc, false, inS, pc, none, none⟩] })

/-- END with code `code` (R212, R274): its rank has ended, and the Spire goes to ENDING. -/
def endContext (k code : Nat) (s : State) : State :=
  let p := s.spire k
  let s1 := enterEnding k s
  s1.modJob p.ctx.jobId (fun j => { j with ended := j.ended.set 0 (rankOf k j.spires) (code + 1) })

/-- What the end of a hold does. -/
def holdDone (k : Nat) (inS : Bool) (h : Hold) (s : State) : State :=
  match h with
  | .endCtx code => endContext k code s
  | .issue a => startIssue k inS a ((s.spire k).seq.nextPc inS - 1) s
  | _ => s

/-- A bundle with a hold has issued: the hold lasts, or its condition is met at once. Deferrals and throttle holds are
counted (R451, R581). -/
def beginHold (k : Nat) (inS : Bool) (h : Hold) (s : State) : State :=
  if s.holdMet k inS h then holdDone k inS h s
  else
    let s1 := s.modSeq k (fun q => q.setHold inS (some h))
    match h with
    | .issue a =>
      if inS || (s.spire k).arr.verdictWait then s1
      else if s.issueDeferred k a then { s1 with dsp := { s1.dsp with deferrals := satInc s1.dsp.deferrals } }
      else if s.throttled k then { s1 with pwr := { s1.pwr with holds := satInc s1.pwr.holds } }
      else s1
    | _ => s1

/-- Does the bank of a hold go on: RUNNING and out of windows for BANK_M, working for BANK_S? -/
def State.bankGoes (s : State) (k : Nat) (inS : Bool) : Bool :=
  decide ((s.spire k).vu.inS = inS) && decide ((s.spire k).vu.phase = .steady)
  && (if inS then s.shadowWork k else s.mainWork k)

/-- HOLD_RELEASE: the condition of the hold of the bank in use is met; the bundle after it issues in the next CCLK. -/
def holdRelease (k : Nat) (s : State) : State :=
  let inS := (s.spire k).vu.inS
  match (s.spire k).seq.getHold inS with
  | some h =>
    if s.bankGoes k inS && s.holdMet k inS h then
      holdDone k inS h (s.modSeq k (fun q => { (q.setHold inS none) with nextIssue := s.cyc + 1 }))
    else s
  | none => s

def execHoldRelease (k : Nat) (s : State) : Host.Outcome State Fault Refusal := .next (holdRelease k s)

/-! ### Control operations (Table 7.2) -/

/-- WEND of window work or reclaim work in BANK_S (R440, R453, R455): reclaim work's WEND ends the reclaim; window work's
gives way to a pending reclaim, or to the switch back. A bundle that has faulted has stopped its bank, and its WEND does
nothing (Table 7.6). -/
def wend (k pc : Nat) (s : State) : State :=
  let c := s.cyc
  let q := (s.spire k).seq
  let back (t : State) : State := t.modVu k (fun v => { v with phase := .draining (c + 1 + drainLen) .toMain })
  if (s.spire k).vu.phase ≠ .steady then s
  else if s.reclaimRuns k then
    back (s.modSeq k (fun x => { x with reclaim := false, stopReclaim := false }))
  else if q.window && s.role k ≠ .radioOwned then
    if q.reclaim then
      let s1 := s.modSeq k (fun x => { x with
        windowOver := true, pcS := s.dsp.reclaimEntry, nextIssue := c + 1 })
      { s1 with dsp := { s1.dsp with entered := s1.dsp.entered ||| BitVec.twoPow 32 k } }
    else back (s.modSeq k (fun x => { x with windowOver := true }))
  else programFault k true 0x0A 0 pc s

/-- Go on with the next bundle in sequence: repeat bodies end here. -/
def stepOn (k pc : Nat) (inS : Bool) (s : State) : State :=
  let (b, n) := ((s.spire k).vu.bank inS).after pc
  (s.modVu k (fun v => v.modBank inS (fun _ => b))).modSeq k (fun q => q.goto inS n (s.cyc + 1))

/-- A taken branch: its target issues 4 CCLK later (R215). -/
def takeBranch (k t : Nat) (inS : Bool) (s : State) : State :=
  (s.modVu k (fun v => v.modBank inS (fun b => b.branch t))).modSeq k (fun q => q.goto inS t (s.cyc + 4))

/-- Carry out the control operation of the bundle at index `pc`. -/
def runCtl (k pc : Nat) (op : CtlOp) (s : State) : State :=
  let inS := (s.spire k).vu.inS
  let c := s.cyc
  let on := stepOn k pc inS s
  let misplaced := programFault k inS 0x0A 0 pc on
  let held (h : Hold) : State :=
    if (s.spire k).vu.phase = .steady then beginHold k inS h on else on
  match op with
  | .nop => on
  | .br t => takeBranch k t inS s
  | .brf f sense t =>
    if inS then misplaced
    else if ((s.spire k).seq.flagsNow c).getLsbD f = sense then takeBranch k t inS s
    else on
  | .vrep n len count =>
    let b := (s.spire k).vu.bank inS
    if b.badNesting n len pc then programFault k inS 0x05 0 pc on
    else
      let (x, t) := b.vrep n len count pc
      (s.modVu k (fun v => v.modBank inS (fun _ => x))).modSeq k (fun q => q.goto inS t (c + 1))
  | .issue d => held (.issue (32 * d))
  | .wrel => held .wrel
  | .wflag f sense => if inS then misplaced else held (.wflag f sense)
  | .wplan p => held (.wplan (s.nextPlan p))
  | .flags set clear =>
    if inS then misplaced
    else on.modSeq k (fun q => q.changeFlags c (BitVec.ofNat 16 set) (BitVec.ofNat 16 clear))
  | .ret =>
    if (s.spire k).seq.inHandler then
      if (s.spire k).vu.phase ≠ .steady then on
      else if inS then
        (on.modSeq k (fun q => { q with inHandler := false })).modVu k
          (fun v => { v with phase := .draining (c + 1 + drainLen) .toMain })
      else on.modSeq k (fun q => { (q.goto false q.resume.toNat (c + 1)) with inHandler := false })
    else misplaced
  | .ctlEnd code => if inS then misplaced else held (.endCtx code)
  | .wend => if inS then wend k pc on else misplaced

/-! ### The bundle (R210 to R218) -/

/-- Issue an XF slot: the request goes to the crossbar port (R214, R269). -/
def issueXf (k pc : Nat) (x : XfOp) (s : State) : State :=
  match x with
  | .none_ => s
  | .xf get j d => s.modXb k (fun y => { y with
      requests := y.requests ++ [⟨get, j, 32 * d, pc, none, false, s.cyc, (s.spire k).vu.inS⟩] })

/-- Deliver a pending interrupt after a bundle with IP = 1 (R199, R216): BANK_M drains, and a radio program's handler is
switched in. With a hold, the interrupt waits for the next interrupt point (DEDUCED, log entry 19). -/
def deliver (k : Nat) (ip : Bool) (s : State) : State :=
  let p := s.spire k
  let q := p.seq
  if ip && q.irq && !q.inHandler && !p.vu.inS && decide (p.vu.phase = .steady) && q.hold.isNone
      && decide (q.mode = .running) && !q.stoppedFault then
    let why : DrainReason := if s.role k = .radioOwned then .toShadow else .interrupt
    (s.modSeq k (fun x => { x with irq := false })).modVu k
      (fun v => { v with phase := .draining (s.cyc + 1 + drainLen) why })
  else s

/-- Issue a bundle whose words agree: its vector slots, its transfer slot, its control operation; event 0x0301. -/
def issueSlots (k pc : Nat) (b : Bundle) (s : State) : State :=
  let s1 := countSpire k 0x0301 1 (issueXf k pc b.xf (issueVector k pc b s))
  deliver k b.ip (runCtl k pc b.ctl s1)

/-- The CCLK of the fetch of a bundle that issues in CCLK `c` (Table 7.4). -/
def fetchAt (c : Nat) : Nat := c - 3

/-- Issue the next bundle of the bank in use, as it was fetched three CCLK ago (R215): outside the owned part it faults (0x04); a
pending range faults (0x03); its word is poisoned or uncorrectable (0x21); the issue words differ (0x20); it holds a reserved
encoding (0x01). `n` symbols of the word are in error at its check stage; one is corrected (R252). -/
def issueFetched (k : Nat) (differ : Bool) (n : Nat) (s : State) : State :=
  let p := s.spire k
  let inS := p.vu.inS
  let pc := p.seq.nextPc inS
  let a := bundleAddr pc
  let (word, bad) := p.wordAsOf a (fetchAt s.cyc)
  let x := s.freeValue
  let c := wordCheck n x
  if !s.ownsRange k inS a 32 then programFault k inS 0x04 0 pc s
  else if p.isPending a 32 then programFault k inS 0x03 0 pc s
  else if bad then sequencerFault k 0x21 pc s
  else
    let s0 := if n = 0 then s else storeChecked k c (if 3 < n then s.useFree.useFree else s)
    if c = .uncorrectable then sequencerFault k 0x21 pc s0
    else if differ then sequencerFault k 0x20 pc s0
    else
      let s1 := fetchClash k a s0
      match decodeBundle (if wordWrong n x then Config.freeNat (s.free + 1) % 2 ^ 256 else word) with
      | some b => issueSlots k pc b s1
      | none => programFault k inS 0x01 0 pc s1

/-- Do the two sequencers of Spire `k` work on the bank in use, issuing or holding, so that their words are compared in this CCLK
(R217)? -/
def State.compares (s : State) (k : Nat) : Bool :=
  s.bankGoes k (s.spire k).vu.inS && decide ((s.spire k).seq.mode ≠ .faulted) && decide ((s.spire k).seq.mode ≠ .fenced)

/-- BUNDLE_ISSUE: results that are due land first (R175). In a CCLK in which nothing can issue, a hold's among them, the two words
are compared all the same (R217). -/
def bundleIssue (k : Nat) (differ : Bool) (n : Nat) (s : State) : State :=
  if s.canIssue k then issueFetched k differ n (landResults k s)
  else if differ && s.compares k then sequencerFault k 0x20 ((s.spire k).seq.nextPc (s.spire k).vu.inS) s
  else s

def execBundleIssue (k : Nat) (f : BundleFetch) (s : State) : Host.Outcome State Fault Refusal :=
  .next (bundleIssue k f.differ f.errs s)

/-- A bundle whose control slot is `op` and whose other slots are empty issues; a reserved field of the slot is a reserved
encoding (R211). -/
def ctlIssue (k : Nat) (op : CtlOp) (s : State) : State :=
  if s.canIssue k then
    let s1 := landResults k s
    let inS := (s1.spire k).vu.inS
    let pc := (s1.spire k).seq.nextPc inS
    match decodeCtl op.encode with
    | some o => issueSlots k pc (Bundle.ofCtl o) s1
    | none => programFault k inS 0x01 0 pc s1
  else s

def execNop (k : Nat) (s : State) : Host.Outcome State Fault Refusal := .next (ctlIssue k .nop s)

def execBr (k target : Nat) (s : State) : Host.Outcome State Fault Refusal := .next (ctlIssue k (.br (target % 2 ^ 20)) s)

def execBrf (k flag : Nat) (sense : Bool) (target : Nat) (s : State) : Host.Outcome State Fault Refusal :=
  .next (ctlIssue k (.brf flag sense (target % 2 ^ 20)) s)

def execVrep (k level len count : Nat) (s : State) : Host.Outcome State Fault Refusal :=
  .next (ctlIssue k (.vrep (level % 4) (len % 2 ^ 12) (count % 2 ^ 16)) s)

def execWrel (k : Nat) (s : State) : Host.Outcome State Fault Refusal := .next (ctlIssue k .wrel s)

def execWflag (k flag : Nat) (sense : Bool) (s : State) : Host.Outcome State Fault Refusal :=
  .next (ctlIssue k (.wflag flag sense) s)

def execWplan (k pcclk : Nat) (s : State) : Host.Outcome State Fault Refusal :=
  .next (ctlIssue k (.wplan (pcclk % 2 ^ 20)) s)

def execFlags (k set clear : Nat) (s : State) : Host.Outcome State Fault Refusal :=
  .next (ctlIssue k (.flags (set % 2 ^ 16) (clear % 2 ^ 16)) s)

def execRet (k : Nat) (s : State) : Host.Outcome State Fault Refusal := .next (ctlIssue k .ret s)

def execCtlEnd (k code : Nat) (s : State) : Host.Outcome State Fault Refusal := .next (ctlIssue k (.ctlEnd (code % 256)) s)

def execWend (k : Nat) (s : State) : Host.Outcome State Fault Refusal := .next (ctlIssue k .wend s)

/-! ### The decision on an ISSUE (R129, R130, R219, R222, R234) -/

/-- Refuse a descriptor: LAST_REFUSAL and a program fault with cause 0x02. -/
def refuseIssue (k st : Nat) (i : IssueCheck) (s : State) : State :=
  programFault k i.inS 0x02 0 i.pc (s.modArr k (fun a => { a with lastRefusal := BitVec.ofNat 8 st }))

/-- The read of an ISSUE's descriptor in c + 1, with two store accesses (R219): a pending range faults (R143), a poisoned word
ends an inference job (Table 15.2). The ISSUE stays only if it is still to be decided. -/
def readIssue (k : Nat) (i : IssueCheck) (s : State) : State :=
  let m := (s.spire k).store
  let drop (t : State) : State := t.modSeq k (fun q => { q with issues := q.issues.erase i })
  let bad := m.poisonedIn i.desc 64
  if (s.spire k).isPending i.desc 64 then programFault k i.inS 0x03 0 i.pc (drop s)
  else if bad && !s.radioWork k i.inS then poisonEnd k (consumePoison 1 (drop s))
  else
    countSpire k 0x0501 2 ((if bad then consumePoison 1 s else s).modSeq k (fun q => { q with
      issues := q.issues.map (fun y => if y = i then { i with word := some (m.readLE i.desc 64, bad) } else y) }))

/-- Descriptors of ISSUEs that are read in this CCLK. -/
def readIssues (k : Nat) (s : State) : State :=
  ((s.spire k).seq.issues.filter (fun i => i.word.isNone && decide (i.at_ + 1 ≤ s.cyc))).foldl (fun t i => readIssue k i t) s

/-- Decide an ISSUE on the bytes read in c + 1: refuse it, accept it into the array, or, after a stop or a disagreement, into the
replay list. -/
def decideIssue (k : Nat) (i : IssueCheck) (s : State) : State :=
  match i.word with
  | none => s
  | some (x, bad) =>
    let s1 := s.modSeq k (fun q => { q with issues := q.issues.erase i })
    let d := decodeDesc x
    if bad then refuseIssue k stUnusable i s1
    else
      match s1.refusalOf k i.inS i.desc d (i.asAt.getD (s1.spire k).arr.view) with
      | some st => refuseIssue k st i s1
      | none =>
        if i.asAt.isSome then s1.modSeq k (fun q => { q with replay := (q.replay ++ [i.desc]).take 4 })
        else s1.modArr k (fun a => { a with queued := some ⟨d, i.desc, s.cyc, false, 0⟩ })

/-- The first ISSUE whose decision is due. -/
def SeqState.dueIssue (q : SeqState) (c : Nat) : Option IssueCheck :=
  q.issues.find? (fun i => i.word.isSome && decide (i.at_ + 3 ≤ c))

/-- ISSUE: the decision that is due; with none due, a bundle with this ISSUE issues. -/
def issueRow (k desc : Nat) (s : State) : State :=
  match (s.spire k).seq.dueIssue s.cyc with
  | some i => decideIssue k i s
  | none => ctlIssue k (.issue (desc % 2 ^ 20)) s

def execIssue (k desc : Nat) (s : State) : Host.Outcome State Fault Refusal := .next (issueRow k desc s)

end Sys2Proof.Machine
end

