-- ==== Sys2Proof/Machine/SpireControl.lean ====
section
/-! DEFINITION. Drains, bank switches and windows (06, 13), and the Spire commands of Table 7.9. -/

namespace Sys2Proof.Machine

open Sys2Proof

/-- Set the phase of Spire `k`'s vector unit. -/
def setPhase (k : Nat) (x : VuPhase) (s : State) : State := s.modVu k (fun v => { v with phase := x })

/-! ### The end of a drain (R199 to R203, R224, R455) -/

/-- The drain after a fault of BANK_S work is over: a reclaim ends as if WEND had issued, and the switch back follows; window
work stays idle until the window's end (Table 7.6). -/
def shadowFaultDrained (k : Nat) (s : State) : State :=
  if s.reclaimRuns k then
    setPhase k (.switching (s.cyc + switchLen) false)
      (s.modSeq k (fun q => { q with reclaim := false, stopReclaim := false }))
  else s

/-- What follows a drain by its reason. -/
def afterDrain (k : Nat) (why : DrainReason) (s : State) : State :=
  let c := s.cyc
  let inS := (s.spire k).vu.inS
  let steady := setPhase k .steady s
  match why with
  | .interrupt => steady.modSeq k (fun q => { q with inHandler := true, resume := q.pc, pc := q.ivec, nextIssue := c })
  | .toShadow =>
    let t := if (s.spire k).seq.mode = .ending then arrayStop k c false s else s
    setPhase k (.switching (c + switchLen) true) t
  | .toMain => setPhase k (.switching (c + switchLen) false) s
  | .stopPower => steady
  | .disagree => steady
  | .ending => steady
  | .progFault =>
    let t := arrayStop k c false steady
    if inS then shadowFaultDrained k t else t
  | .residue => if inS then shadowFaultDrained k steady else steady

/-- An ENDING Spire whose bank has drained goes to WIPING. -/
def endDrained (k : Nat) (s : State) : State :=
  if (s.spire k).seq.mode = .ending && !(s.spire k).vu.inS then startWipe k s else s

/-- A window or a reclaim that waits for the drain switches BANK_S in. -/
def shadowWaits (k : Nat) (s : State) : State :=
  let q := (s.spire k).seq
  let v := (s.spire k).vu
  if !v.inS && decide (v.phase = .steady) && ((q.window && !q.windowOver) || q.reclaim) then
    setPhase k (.switching (s.cyc + switchLen) true) s
  else s

/-- DRAIN_COMPLETE: every result in flight has landed. -/
def drainComplete (k : Nat) (s : State) : State :=
  match (s.spire k).vu.phase with
  | .draining u why =>
    if s.cyc < u then s else shadowWaits k (endDrained k (afterDrain k why (landResults k s)))
  | _ => s

def execDrainComplete (k : Nat) (s : State) : Host.Outcome State Fault Refusal := .next (drainComplete k s)

/-! ### Bank switches (R201, Table 6.5) -/

/-- BANK_S begins at an address that no rule gives (DESIGN CHOICE, log entry 20): window work, or a radio program's
handler. -/
def shadowAt (k pc : Nat) (s : State) : State :=
  s.modSeq k (fun q => { q with pcS := BitVec.ofNat 20 pc, nextIssue := s.cyc, sStopped := false, holdS := none })

/-- The reclaim's entry bundle is the next one of BANK_S (R452, R454). -/
def enterReclaim (k : Nat) (s : State) : State :=
  let s1 := shadowAt k s.dsp.reclaimEntry.toNat s
  { s1 with dsp := { s1.dsp with entered := s1.dsp.entered ||| BitVec.twoPow 32 k } }

/-- BANK_S is in use. -/
def enterShadow (k : Nat) (s : State) : State :=
  let s1 := countSpire k 0x0203 1 (s.modVu k (fun v => { v with inS := true, phase := .steady }))
  let q := (s1.spire k).seq
  if q.window && q.windowTest then s1
  else if q.window && !q.windowOver then (shadowAt k s1.freeValue s1).useFree
  else if q.reclaim then enterReclaim k s1
  else if s1.role k = .radioOwned then
    ((shadowAt k s1.freeValue s1).useFree).modSeq k (fun x => { x with inHandler := true })
  else s1

/-- BANK_M is in use again: its next bundle issues now (x + 17 of Table 6.5), a replay begins, or a STOP that was owed
follows. -/
def enterMain (k : Nat) (s : State) : State :=
  let c := s.cyc
  let s1 := countSpire k 0x0203 1 (s.modVu k (fun v => { v with inS := false, phase := .steady }))
  let s2 := s1.modSeq k (fun q => { q with nextIssue := c, sStopped := false, holdS := none })
  shadowWaits k (payStop k (leaveStopped k c s2))

/-- BANK_SWITCH_COMPLETE. -/
def bankSwitchComplete (k : Nat) (s : State) : State :=
  match (s.spire k).vu.phase with
  | .switching u toS => if s.cyc < u then s else if toS then enterShadow k s else enterMain k s
  | _ => s

def execBankSwitchComplete (k : Nat) (s : State) : Host.Outcome State Fault Refusal := .next (bankSwitchComplete k s)

/-! ### Windows (R440, R453, R455, R207) -/

/-- Do windows act on a Spire in this state? -/
def SpireMode.takesWindows : SpireMode → Bool
  | .off | .faulted | .fenced => false
  | _ => true

/-- The window of Spire `k` that has begun and not ended at this plan CCLK. -/
def State.windowNow (s : State) (k : Nat) : Option (Nat × Nat × Bool) :=
  (s.windowsOf k).find? (fun w => decide (w.1 ≤ s.clock.plan ∧ s.clock.plan < w.2.1))

/-- BANK_M stops for a window: an interrupt delivered at this boundary waits again (Table 6.8), one delivered before has
reached its handler. -/
def stopForWindow (k : Nat) (s : State) : State :=
  let c := s.cyc
  match (s.spire k).vu.phase with
  | .steady => if (s.spire k).vu.inS then s else setPhase k (.draining (c + drainLen) .toShadow) s
  | .draining u .interrupt =>
    let s1 := setPhase k (.draining (c + drainLen) .toShadow) s
    if u = c + drainLen then s1.modSeq k (fun q => { q with irq := true })
    else s1.modSeq k (fun q => { q with inHandler := true, resume := q.pc, pc := q.ivec })
  | _ => s

/-- WINDOW_START. A reclaimed Spire keeps its reclaim work through a window, and suspends it in the test window. -/
def windowStart (k : Nat) (s : State) : State :=
  match s.windowNow k with
  | none => s
  | some (_, e, test) =>
    let q := (s.spire k).seq
    if !s.hasPlan || q.window || !q.mode.takesWindows then s
    else
      let s1 := s.modSeq k (fun x => { x with
        window := true, windowEnd := s.time.periods * planPeriod + e, windowTest := test,
        windowOver := x.reclaim && !test })
      if q.reclaim then
        if test && (s.spire k).vu.inS && decide ((s.spire k).vu.phase = .steady) then
          setPhase k (.draining (s.cyc + drainLen) .stopPower) s1
        else s1
      else stopForWindow k s1

def execWindowStart (k : Nat) (s : State) : Host.Outcome State Fault Refusal := .next (windowStart k s)

/-- Has window work not issued WEND by END − 17? -/
def State.overrunDue (s : State) (k : Nat) : Bool :=
  let q := (s.spire k).seq
  q.window && !q.windowTest && !q.windowOver && decide (q.windowEnd ≤ s.planTotal + 17)

/-- WINDOW_OVERRUN: BANK_S stops, the overrun is counted, the Dome is notified and the switch back begins; with a reclaim
pending BANK_S only drains (Table 13.5). -/
def windowOverrun (k : Nat) (s : State) : State :=
  if s.overrunDue k then
    let s1 := ringDome 5 { s with dsp := { s.dsp with overruns := satInc s.dsp.overruns } }
    let s2 := s1.modSeq k (fun q => { q with windowOver := true, holdS := none })
    if (s.spire k).vu.inS then
      let why : DrainReason := if (s.spire k).seq.reclaim then .stopPower else .toMain
      setPhase k (.draining (s.cyc + 1 + drainLen) why) s2
    else s2
  else s

def execWindowOverrun (k : Nat) (s : State) : Host.Outcome State Fault Refusal := .next (windowOverrun k s)

/-- At END a reclaimed Spire goes on in BANK_S: reclaim work resumes, or its entry bundle issues. -/
def windowEndReclaim (k : Nat) (s : State) : State :=
  let s1 := s.modSeq k (fun q => { q with window := false, windowTest := false, windowOver := false })
  if s1.reclaimRuns k then
    if (s1.spire k).vu.inS then
      (setPhase k .steady (landResults k s1)).modSeq k (fun q => { q with nextIssue := s1.cyc })
    else s1
  else
    let s2 := if (s1.spire k).vu.inS then s1 else countSpire k 0x0203 1 s1
    enterReclaim k (s2.modVu k (fun v => { v with inS := true, phase := .steady }))

/-- At END BANK_M is in use again and its next bundle issues. -/
def windowEndMain (k : Nat) (s : State) : State :=
  let c := s.cyc
  let v := (s.spire k).vu
  let s0 := if v.inS then landResults k s else s
  let s1 := s0.modSeq k (fun q => { q with
    window := false, windowTest := false, windowOver := false, sStopped := false, holdS := none, nextIssue := c })
  let s2 := if v.inS then countSpire k 0x0203 1 (s1.modVu k (fun x => { x with inS := false, phase := .steady }))
    else match v.phase with
      | .switching _ _ => setPhase k .steady s1
      | .draining _ .toShadow => setPhase k .steady (landResults k s1)
      | _ => s1
  let s3 := replayIssue k c (payStop k (leaveStopped k c (endDrained k s2)))
  match (s3.spire k).seq.hold with
  | some (.issue _) => holdRelease k s3
  | _ => s3

/-- WINDOW_END. -/
def windowEnd (k : Nat) (s : State) : State :=
  let q := (s.spire k).seq
  if q.window && decide (q.windowEnd ≤ s.planTotal) then
    if q.reclaim then windowEndReclaim k s else windowEndMain k s
  else s

def execWindowEnd (k : Nat) (s : State) : Host.Outcome State Fault Refusal := .next (windowEnd k s)

/-! ### Spire commands (Table 7.9) -/

/-- Is Spire `k` one that takes commands: in service with its domain on? -/
def State.commandable (s : State) (k : Nat) : Bool := s.inService k && s.domainOn (k / 2)

/-- Put an image's segments into a store, in their order; bytes outside the first `n` are not written. -/
def Mem.loadSegments (m : Mem) (n : Nat) (segs : List (Nat × List Byte)) : Mem :=
  segs.foldl (fun x g => x.writeBytes g.1 (g.2.take (n - g.1))) m

/-- Threads with their start addresses, halted until the start. -/
def loadThreads (starts : List Nat) (c : CcState) : CcState :=
  let place (i : Nat) (t : Thread) : Thread := { t with pc := BitVec.ofNat 64 (starts.getD i 0) }
  { c with threads := c.threads.modifyAll Thread.reset (List.range 8) place }

/-- The rank's bundle index, handler and threads are set for the start. -/
def setStart (k pc ivec threads : Nat) (starts : List Nat) (s : State) : State :=
  (s.modSeq k (fun q => { q with
    pc := BitVec.ofNat 20 pc, ivec := BitVec.ofNat 20 ivec, starts := BitVec.ofNat 8 threads })).modCc k (loadThreads starts)

/-- LOAD of a radio program by the Dome: the start wipe, and the image. -/
def spireLoad (k : Nat) (img : RadioImage) (s : State) : State :=
  if (s.spire k).seq.mode = .idle && s.commandable k then
    let n := s.jobPart k
    let s0 := startClean k (s.modSpire k (fun p => { p with ctx := .radio }))
    let s1 := s0.modStore k (fun m => m.loadSegments n img.segments)
    setCmdStatus k stOk (setStart k img.start img.ivec img.threads img.starts s1)
  else setCmdStatus k stConflict s

def execSpireLoad (k : Nat) (img : RadioImage) (s : State) : Host.Outcome State Fault Refusal := .next (spireLoad k img s)

/-- START by the Dome: the start plan CCLK is set. -/
def spireStart (k : Nat) (s : State) : State :=
  let q := (s.spire k).seq
  if q.mode ≠ .armed then setCmdStatus k stConflict s
  else if planEnd ≤ q.startCclk.toNat then setCmdStatus k stBadArg s
  else setCmdStatus k stOk (s.modSeq k (fun x => { x with
    startSet := true, startAt := s.nextPlan x.startCclk.toNat }))

def execSpireStart (k : Nat) (s : State) : Host.Outcome State Fault Refusal := .next (spireStart k s)

/-- Threads named in the image become ready (R227). -/
def startThreads (mask : BitVec 8) (c : CcState) : CcState :=
  let wake (i : Nat) (t : Thread) : Thread := if mask.getLsbD i then { t with mode := .ready } else t
  { c with threads := c.threads.modifyAll Thread.reset (List.range 8) wake }

/-- SPIRE_START_TIME: the start plan CCLK has come. -/
def spireStartTime (k : Nat) (s : State) : State :=
  let q := (s.spire k).seq
  if q.mode = .armed && q.startSet && s.hasPlan && decide (q.startAt ≤ s.planTotal) then
    let s1 := s.modSeq k (fun x => { x with mode := .running, startSet := false, nextIssue := s.cyc })
    (s1.modCc k (startThreads q.starts)).modJob (s.spire k).ctx.jobId (fun j =>
      { j with phase := if j.phase = .loading then .running else j.phase })
  else s

def execSpireStartTime (k : Nat) (s : State) : Host.Outcome State Fault Refusal := .next (spireStartTime k s)

/-- Causes of STOP and RESUME in SEQ_CMD. -/
abbrev causeReclaim : Nat := 1
abbrev causePower : Nat := 2

/-- STOP written to SEQ_CMD: the Dome's only with CAUSE = POWER, in place of the power manager and with the same effect (R231): a
borrowable Spire in a window or a reclaim receives it at that one's end (R582). -/
def stopCommand (mid k cause : Nat) (s : State) : State :=
  if mid ≠ 0 then s
  else if cause ≠ causePower then setCmdStatus k stBadArg s
  else
    let m := (s.spire k).seq.mode
    if s.stopOwed k && (m = .armed || m = .running || m = .replay) then
      setCmdStatus k stOk { s with pwr := { s.pwr with
        owedDome := if s.pwr.owedDome.contains k then s.pwr.owedDome else s.pwr.owedDome ++ [k] } }
    else stopSpire k false s

def execSpireStop (mid k cause : Nat) (s : State) : Host.Outcome State Fault Refusal :=
  .next (bar0Row mid (spireOffset k 0x20004) (word (3 + cause % 4 * 256)) (stopCommand mid k cause) s)

/-- RESUME with CAUSE = POWER: legal in STOPPED with POWER set; it takes back a STOP of the Dome that is still owed. -/
def resumeSpire (k : Nat) (s : State) : State :=
  let q := (s.spire k).seq
  if s.pwr.owedDome.contains k then
    setCmdStatus k stOk { s with pwr := { s.pwr with owedDome := s.pwr.owedDome.filter (· != k) } }
  else if q.mode = .stopped && q.stopPower then
    leaveStopped k (s.cyc + 1) (setCmdStatus k stOk (s.modSeq k (fun x => { x with stopPower := false })))
  else setCmdStatus k stConflict s

/-- RESUME written to SEQ_CMD. -/
def resumeCommand (mid k cause : Nat) (s : State) : State :=
  if mid ≠ 0 then s
  else if cause ≠ causePower then setCmdStatus k stBadArg s
  else resumeSpire k s

def execSpireResume (mid k cause : Nat) (s : State) : Host.Outcome State Fault Refusal :=
  .next (bar0Row mid (spireOffset k 0x20004) (word (4 + cause % 4 * 256)) (resumeCommand mid k cause) s)

/-- ABORT written to SEQ_CMD. A job that the Dome's ABORT ends has no row in Table 13.6; its status is ST_PREEMPTED, as for
the dispatcher's ABORT (DEDUCED, log entry 21). -/
def abortCommand (mid k : Nat) (s : State) : State :=
  if mid ≠ 0 then s
  else
    let job := (s.spire k).ctx.jobId
    let s1 := abortSpire k s
    if (s.spire k).seq.mode.abortable && job != 0 then endJob job stPreempted 0 0 k s1 else s1

def execSpireAbort (mid k : Nat) (s : State) : Host.Outcome State Fault Refusal :=
  .next (bar0Row mid (spireOffset k 0x20004) 5 (abortCommand mid k) s)

/-- FENCE written to SEQ_CMD. -/
def fenceCommand (mid k : Nat) (s : State) : State := if mid ≠ 0 then s else fenceSpire k s

def execSpireFence (mid k : Nat) (s : State) : Host.Outcome State Fault Refusal :=
  .next (bar0Row mid (spireOffset k 0x20004) 6 (fenceCommand mid k) s)

/-- RETURN by the reliability block: a FAULTED Spire is wiped. -/
def returnSpire (k : Nat) (s : State) : State :=
  if (s.spire k).seq.mode = .faulted then setCmdStatus k stOk (startWipe k s) else setCmdStatus k stConflict s

def execSpireReturn (k : Nat) (s : State) : Host.Outcome State Fault Refusal := .next (returnSpire k s)

/-- WIPE_COMPLETE: the job part is zero; IDLE, or FENCED still (Table 7.10). -/
def wipeComplete (k : Nat) (s : State) : State :=
  let q := (s.spire k).seq
  if decide (q.wipeLeft = 0) && !q.window && !q.reclaim && (q.mode = .wiping || (q.mode = .fenced && q.fencing)) then
    (wipeJobPart k s).modSeq k (fun x => { x with
      mode := if x.mode = .wiping then .idle else x.mode, fencing := false })
  else s

def execWipeComplete (k : Nat) (s : State) : Host.Outcome State Fault Refusal := .next (wipeComplete k s)

end Sys2Proof.Machine
end

