-- ==== Sys2Proof/Machine/Array.lean ====
section
/-! DEFINITION. The matrix array in time (04): tile loads, pass starts, swaps, vectors, checks, disagreements, releases. -/

namespace Sys2Proof.Machine

open Sys2Proof

/-! ### Tile loads (R127, R128, R603) -/

/-- Whose tile the load reads: the queued descriptor's, or that of the pass whose load is exposed. -/
def ArrState.loading (a : ArrState) : Option PassDesc :=
  match a.queued with
  | some q => some q.desc
  | none => match a.passes.getLast? with
    | some p => if p.swapped then none else some p.desc
    | none => none

/-- Is every started pass swapped? -/
def ArrState.allSwapped (a : ArrState) : Bool := a.passes.all (·.swapped)

/-- Begin a load with an empty shadow plane. -/
def ArrState.beginLoad (a : ArrState) (c : Nat) : ArrState := { a with shadow := Plane.empty, load := some ⟨c, 0⟩ }

/-- TILE_LOAD_START: the CCLK after the previous swap, or that of the acceptance. -/
def tileLoadStart (k : Nat) (s : State) : State :=
  let a := (s.spire k).arr
  if a.queued.isSome && a.load.isNone && a.allSwapped && (a.passes.isEmpty || decide (a.lastSwap + 1 ≤ s.cyc)) then
    s.modArr k (fun x => x.beginLoad s.cyc)
  else s

def execTileLoadStart (k : Nat) (s : State) : Host.Outcome State Fault Refusal := .next (tileLoadStart k s)

/-- The pass or the descriptor whose load runs is tainted (Table 15.2). -/
def taintLoading (k n : Nat) (s : State) : State :=
  if n = 0 then s
  else
    let s1 := consumePoison n s
    s1.modArr k (fun a =>
      match a.queued with
      | some q => { a with queued := some { q with tainted := true } }
      | none => { a with passes := a.passes.map (fun p => if p.swapped then p else { p with tainted := true }) })

/-- Bytes of a tile row that are read (R603): 192 for MXFP6. -/
def PassDesc.rowWords (d : PassDesc) : Nat := if fmtBits d.fmtW = 6 then 6 else 8

/-- Read one word for the load: 0 where the access is lost. -/
def loadRead (k a : Nat) (r : Acc) : Nat × Acc :=
  let (ok, r1) := claim k (bankOf a) clashLoad r
  let p := r1.s.spire k
  if ok then (p.word a, ⟨r1.used, if p.store.poisonedAt a then taintLoading k 1 r1.s else r1.s⟩) else (0, r1)

/-- The reads of load CCLK `i`: a tile row and the side words of that CCLK. -/
def loadStep (k : Nat) (d : PassDesc) (i : Nat) (r : Acc) : Acc :=
  let r1 := if i < d.tileRows then
      (List.range d.rowWords).foldl (fun q j =>
        let a := d.tileAddr + 256 * i + 32 * j
        let (w, q1) := loadRead k a q
        let s1 := q1.s.modArr k (fun x => { x with shadow := { x.shadow with
          rows := x.shadow.rows.set 0 i (insertBits (x.shadow.rows.get 0 i) (256 * j) 256 w) } })
        ⟨q1.used, noteRecent k (bankOf a) (.row i j) s1⟩) r
    else r
  (d.sideAt i).foldl (fun q m =>
    let a := d.sideAddr + 32 * m
    let (w, q1) := loadRead k a q
    let s1 := q1.s.modArr k (fun x => { x with shadow := { x.shadow with
      side := x.shadow.side.set 0 m (BitVec.ofNat 256 w) } })
    ⟨q1.used, noteRecent k (bankOf a) (.side m) s1⟩) r1

/-- The load's reads of this CCLK. -/
def loadAccesses (k : Nat) (r : Acc) : Acc :=
  let a := (r.s.spire k).arr
  match a.load, a.loading with
  | some l, some d =>
    if l.done < d.loadTime ∧ l.start + l.done ≤ r.s.cyc then
      let r1 := loadStep k d l.done r
      ⟨r1.used, r1.s.modArr k (fun x => { x with load := some { l with done := l.done + 1 } })⟩
    else r
  | _, _ => r

/-! ### Starts and swaps (R130, R131) -/

/-- Load time that remains at CCLK `c`. -/
def PlaneLoad.left (l : PlaneLoad) (d : PassDesc) (c : Nat) : Nat := l.start + d.loadTime - c

/-- May the queued descriptor start now? At most three passes are started and unreleased. -/
def ArrState.mayStart (a : ArrState) (c : Nat) : Bool :=
  a.queued.isSome && a.allSwapped && decide (a.passes.length < 3) && decide (a.nextStart ≤ c) && !a.verdictWait

/-- A pass that starts in CCLK `c`. -/
def QueuedPass.start (q : QueuedPass) (seq c load : Nat) : Pass where
  desc := q.desc
  addr := q.addr
  seq := seq
  start := c
  load := load
  swapped := false
  plane := Plane.empty
  entered := 0
  checked := 0
  vectors := []
  inexactRe := 0
  inexactIm := 0
  clamped := 0
  skipped := false
  saturated := false
  totalRe := 0
  totalIm := 0
  uRe := Tab.empty
  uIm := Tab.empty
  rowDone := false
  rowSkip := false
  failed := false
  held := false
  tainted := q.tainted
  beats := q.beats
  writes := []
  wrote := []
  inDigest := Config.crc64 0 64 q.desc.raw
  longDigest := 0

/-! ### Digests (R512) -/

/-- The input digest after a plane has been read: tile rows, then side words, in the order of the load. -/
def PassDesc.planeDigest (d : PassDesc) (p : Plane) (h : BitVec 64) : BitVec 64 :=
  let h1 := (List.range d.tileRows).foldl (fun x i => Config.crc64 x (32 * d.rowWords) (p.rows.get 0 i).toNat) h
  d.sideOrder.foldl (fun x m => Config.crc64 x 32 (p.side.get 0 m).toNat) h1

/-- The input digest after a vector has been read: elements, block scales, PARTIAL values. -/
def PassDesc.vectorDigest (d : PassDesc) (v : VecIn) (h : BitVec 64) : BitVec 64 :=
  let bytes := (d.longRuns.map (·.2)).sum
  Config.crc64 (Config.crc64 (Config.crc64 h (32 * ((d.k * fmtBits d.fmtX + 255) / 256)) v.elems) 32 v.scales) bytes v.inits

/-- The long digest after a vector's results, in accumulator order, before conversion. -/
def longDigestOf (vals : List Int) (h : BitVec 64) : BitVec 64 := vals.foldl (fun x v => Config.crc64 x 16 (ofSigned 128 v)) h

/-- PASS_START. In REPLAY the next entry of the list issues in the CCLK after (R235). -/
def passStart (k : Nat) (s : State) : State :=
  let a := (s.spire k).arr
  let c := s.cyc
  match a.queued with
  | none => s
  | some q =>
    if a.mayStart c then
      let l := a.load.getD ⟨c, 0⟩
      let n := a.started + 1
      let p := q.start n.toNat c (l.left q.desc c)
      let s1 := s.modArr k (fun x => { (if x.load.isSome then x else x.beginLoad c) with
        queued := none, started := n, passes := x.passes ++ [p], nextStart := p.lastEnter + q.desc.interval })
      replayIssue k (c + 1) s1
    else s

def execPassStart (k : Nat) (s : State) : Host.Outcome State Fault Refusal := .next (passStart k s)

/-- PASS_SWAP: the shadow plane becomes the active one. -/
def passSwap (k : Nat) (s : State) : State :=
  let a := (s.spire k).arr
  match a.passes.getLast? with
  | some p =>
    if !p.swapped && decide (p.start + p.load ≤ s.cyc) then
      s.modArr k (fun x => { x with
        active := x.shadow, shadow := Plane.empty, load := none, lastSwap := s.cyc,
        passes := x.passes.map (fun y => if y.seq = p.seq then { y with
          swapped := true, plane := x.shadow, inDigest := y.desc.planeDigest x.shadow y.inDigest } else y) })
    else s
  | none => s

def execPassSwap (k : Nat) (s : State) : Host.Outcome State Fault Refusal := .next (passSwap k s)

/-! ### Vectors (R118, R131, R142, R247) -/

/-- Change the pass with sequence number `n`. -/
def modPass (k n : Nat) (f : Pass → Pass) (s : State) : State :=
  s.modArr k (fun a => { a with passes := a.passes.map (fun p => if p.seq = n then f p else p) })

/-- One word of a stream read: 0 where a crossbar beat or a fetch has taken its bank (R247, log entry 13). -/
def streamWord (k : Nat) (beats : BitVec 64) (a : Nat) (s : State) : Nat × State :=
  if beats.getLsbD (bankOf a) then
    if Config.beatClash s.free a then
      (0, (s.useFree).modXb k (fun x => x.clashes clashStream (bankOf a) s.cyc))
    else ((s.spire k).word a, s.useFree)
  else ((s.spire k).word a, s)

/-- The words of a stream read as one little-endian number, with the number of poisoned words. -/
def streamRead (k : Nat) (beats : BitVec 64) : List Nat → State → Nat × Nat × State
  | [], s => (0, 0, s)
  | a :: r, s =>
    let bad := b2n ((s.spire k).store.poisonedAt a)
    let (w, s1) := streamWord k beats a s
    let (x, n, s2) := streamRead k beats r s1
    (w + 2 ^ 256 * x, bad + n, s2)

/-- Bytes of one input vector. -/
def PassDesc.xBytes (d : PassDesc) : Nat := 32 * ((d.k * fmtBits d.fmtX + 255) / 256)

/-- Read the PARTIAL long values of vector `j`, each accumulator's at its place (R122): the bytes between the parts of group D are
not read and count as 0. -/
def readInits (k : Nat) (p : Pass) (j : Nat) (s : State) : Nat × Nat × State :=
  p.desc.longRuns.foldl (fun r run =>
    let (x, n, t) := streamRead k p.beats (wordsOf (p.desc.initAddr + j * p.desc.initStride + run.1) run.2) r.2.2
    (r.1 + x % 2 ^ (8 * run.2) * 2 ^ (8 * run.1), r.2.1 + n, t)) (0, 0, s)

/-- Add the elements of a vector to the sums of what was sent (R138). -/
def addInputs (d : PassDesc) (elems scales : Nat) (p : Pass) : Pass :=
  { p with
    uRe := (List.range d.k).foldl (fun t i => t.modify 0 i (· + inputRe d elems scales i)) p.uRe
    uIm := if fmtGroup d.fmtW = 3 then
        (List.range d.k).foldl (fun t i => t.modify 0 i (· + inputIm d elems i)) p.uIm
      else p.uIm }

/-- The next vector of a pass enters: its elements, scales and PARTIAL values as read by now. Event 0x0101. -/
def vectorEnter (k : Nat) (p : Pass) (s : State) : State :=
  let d := p.desc
  let j := p.entered
  let (x, n1, s1) := streamRead k p.beats (wordsOf (d.xAddr + j * d.xStride) d.xBytes) s
  let (xs, n2, s2) := if fmtMx d.fmtX && decide (0 < d.k) then
      streamRead k p.beats [d.xsAddr + j * d.xsStride] s1 else (0, 0, s1)
  let (ini, n3, s3) := if d.init = 2 then readInits k p j s2 else (0, 0, s2)
  let bad := n1 + n2 + n3
  let s4 := countSpire k 0x0501 (d.inWords j).length (if bad = 0 then s3 else consumePoison bad s3)
  let s5 := modPass k p.seq (fun y =>
    let z := addInputs d x xs y
    { z with
      entered := z.entered + 1
      vectors := z.vectors ++ [⟨j, x, xs, ini, s.cyc⟩]
      inDigest := d.vectorDigest ⟨j, x, xs, ini, s.cyc⟩ z.inDigest
      tainted := z.tainted || decide (0 < bad) }) s4
  countSpire k 0x0101 1 s5

/-- The CCLK in which the next vector of a pass enters (Table 4.7). -/
def Pass.nextEnter (p : Pass) : Nat := p.enterAt p.entered

/-- Every vector that is due in this CCLK enters. -/
def vectorsEnter (k : Nat) (s : State) : State :=
  (s.spire k).arr.passes.foldl (fun t p =>
    if p.swapped && decide (p.entered < p.desc.v) && decide (p.nextEnter ≤ t.cyc) then vectorEnter k p t else t) s

/-! ### Disagreements (R139, R510, R514) -/

/-- Step 1 of R139: event 0x0107, and ARR_DIS_INFO, ARR_DIS_SEQ, ARR_DIS_DIFF and ARR_DIS_TOL. -/
def recordDisagreement (k : Nat) (p : Pass) (row imag : Bool) (vector : Nat) (diff : Int) (inexact : Nat) (s : State) : State :=
  let d := p.desc
  let rec_ : DisRecord := ⟨true, row, imag, BitVec.ofNat 13 vector, BitVec.ofNat 16 d.tag, BitVec.ofNat 32 p.seq,
    diffHalfUnits d.wexp diff, BitVec.ofNat 32 inexact⟩
  (countSpire k 0x0107 1 s).modArr k (fun a => { a with dis := rec_ })

/-- Report a disagreement of pass `p` to the reliability block (R139 step 2): each is counted. The dispute is that of the pass that
started first among those whose checks have failed, with the checksum side of its first failed comparison (R512). -/
def reportDispute (k : Nat) (p : Pass) (ref : RefSide) (s : State) : State :=
  let x : Dispute := ⟨k, p.seq, p.desc.tag, (s.spire k).workJob, s.radioWork k (s.spire k).vu.inS, 0, false, ref⟩
  let keep := s.rel.disputes.any (fun y => y.spire == k && y.seq == p.seq)
  { s with rel := { s.rel with
    disputes := if keep then s.rel.disputes else s.rel.disputes.filter (fun y => y.spire != k) ++ [x],
    counters := { s.rel.counters with disputes := satInc s.rel.counters.disputes } } }

/-- A check of pass `p` fails (R139; its error record waits for the verdict, log entry 36): recorded, reported as a dispute,
everything after the pass leaves the array for the replay list, an ISSUE under way is decided against the array as it stands, and
nothing starts until the verdict. -/
def disagreement (k : Nat) (p : Pass) (ref : RefSide) (diff : Int) (inexact : Nat) (s : State) : State :=
  let view := (s.spire k).arr.view
  let s3 := (recordDisagreement k p ref.row ref.imag ref.vector diff inexact s).modArr k (fun a =>
    { (a.stick 0x20) with verdictWait := true })
  let s4 := reportDispute k p ref s3
  let after := ((s.spire k).arr.passes.dropWhile (fun x => x.seq != p.seq)).drop 1
  let gone := after.map (·.addr) ++ (match (s.spire k).arr.queued with
    | some q => [q.addr]
    | none => [])
  let s5 := after.foldl (abandonPass k) s4
  let s6 := s5.modArr k (fun a => { a with
    passes := a.passes.filter (fun x => !after.any (fun y => y.seq == x.seq)), queued := none, shadow := Plane.empty, load := none,
    nextStart := 0 })
  let s7 := modPass k p.seq (fun x => { x with failed := true }) s6
  let s8 := s7.modSeq k (fun q => { q with
    replay := (gone ++ q.replaying ++ q.replay).take 4,
    issues := (q.issues.filter (fun i => !i.replay)).map (fun i => i.against view) })
  if s.radioWork k (s.spire k).vu.inS then
    if s.role k = .radioOwned then radioPartFault (.spire k) s8 else loseWindowSlots k s8
  else s8

/-! ### Checks (R136 to R138) -/

/-- Flip bits of element `k` of a vector as broadcast. -/
def ArrayUpset.flip (u : ArrayUpset) (d : PassDesc) (elems : Nat) : Nat :=
  match u with
  | .broadcast k f =>
    let b := fmtBits d.fmtX
    if k < d.k then elems ^^^ (f % 2 ^ b * 2 ^ (b * k)) else elems
  | _ => elems

/-- What an upset adds to accumulator `a`. -/
def ArrayUpset.accDelta (u : ArrayUpset) (a : Nat) : Int :=
  match u with
  | .acc i delta => if i = a then delta else 0
  | _ => 0

/-- What an upset adds to the checksum side of a part, in units of 2^-1400. -/
def ArrayUpset.sideDelta (u : ArrayUpset) (im : Bool) : Int :=
  match u with
  | .check i delta => if i = im then delta else 0
  | _ => 0

/-- The results of one vector: the accumulators' contents, the initial values, counts of inexact and clamped products by
part. -/
structure VecResult where
  vals   : List Int
  inits  : List Int
  inexRe : Nat
  inexIm : Nat
  clamped : Nat

/-- Does accumulator `a` hold an imaginary part? -/
def PassDesc.isImag (d : PassDesc) (a : Nat) : Bool := fmtGroup d.fmtW = 3 && decide (d.n ≤ a)

/-- Compute a vector against the pass's plane. Terms of unused columns, whose weights are 0 (R123), count neither as rounded nor
as clamped (DESIGN CHOICE, log entry 138). -/
def vecResult (p : Pass) (v : VecIn) (u : ArrayUpset) : VecResult :=
  let d := p.desc
  let x := u.flip d v.elems
  let outs := (List.range d.accs).map (fun a => accumulate d p.plane x v.scales (d.initial p.plane v.inits a) a)
  let idx := List.range d.accs
  ⟨List.zipWith (fun a o => wrap128 (o.value + u.accDelta a)) idx outs,
   idx.map (fun a => d.initial p.plane v.inits a),
   (List.zip idx outs).foldl (fun n ao => if d.isImag ao.1 then n else n + ao.2.inexact) 0,
   (List.zip idx outs).foldl (fun n ao => if d.isImag ao.1 then n + ao.2.inexact else n) 0,
   outs.foldl (fun n o => n + o.clamped) 0⟩

/-- Results less initial values of one part, in grid units. -/
def VecResult.net (r : VecResult) (d : PassDesc) (im : Bool) : Int :=
  (List.zip (List.range d.accs) (List.zip r.vals r.inits)).foldl
    (fun t x => if d.isImag x.1 = im then t + (x.2.1 - x.2.2) else t) 0

/-- The sum of one part of some of a vector's values. -/
def PassDesc.partSum (d : PassDesc) (im : Bool) (l : List Int) : Int :=
  (List.zip (List.range d.accs) l).foldl (fun t x => if d.isImag x.1 = im then t + x.2 else t) 0

/-- The checksum column of a part, which sees what was broadcast. -/
def checkColumn (p : Pass) (v : VecIn) (u : ArrayUpset) (im : Bool) : Int :=
  let d := p.desc
  let x := u.flip d v.elems
  let re := inputRe d x v.scales
  let ii := inputIm d x
  (if im then checksumIm d p.plane re ii else checksumRe d p.plane re ii) + u.sideDelta im

/-- The writes of `n` bytes `x` at `a`, a word each, the last one half a word where `n` ends there. -/
def wordWrites (c a n x : Nat) (poison : Bool) : List ArrWrite :=
  (List.range ((n + 31) / 32)).map (fun i =>
    ⟨c, a + 32 * i, min 32 (n - 32 * i), BitVec.ofNat 256 (elemAt x 256 i), poison⟩)

/-- The side record of a vector (R167, Table 5.6): block scales or exponents in bytes 0 to 15, SAT_COUNT in bytes 16 and 17. -/
def sideRecord (f : FinalOut) : Nat := packBits 8 f.side % 2 ^ 128 + f.sats % 2 ^ 16 * 2 ^ 128

/-- The writes of a vector's results in CCLK `c`, and how many elements saturated: FINAL elements and side record, or long values
(R122, R162 to R168). -/
def resultWrites (d : PassDesc) (c j : Nat) (r : VecResult) (poison : Bool) : List ArrWrite × Nat :=
  let at_ := d.outAddr + j * d.outStride
  if d.outLong then
    let longs (l : List Int) : Nat := packBits 128 (l.map (ofSigned 128))
    let n := if fmtGroup d.fmtW = 3 then d.n else d.accs
    (d.longRuns.flatMap (fun run => wordWrites c (at_ + run.1) run.2
      (longs ((r.vals.drop (if run.1 = 0 then 0 else n)).take n)) poison), 0)
  else
    let f := finalOut d (outOrder d r.vals)
    let b := outBits d.radioClass d.outFmt
    (wordWrites c at_ d.outSpan (packBits b f.codes) poison
      ++ wordWrites c (d.osideAddr + j * d.osideStride) 32 (sideRecord f) poison, f.sats)

/-- The oldest vector whose check is due, with its pass. -/
def dueVector (c : Nat) : List Pass → Option (Pass × VecIn)
  | [] => none
  | p :: r =>
    match p.vectors with
    | v :: _ => if v.at_ + 9 ≤ c then some (p, v) else dueVector c r
    | [] => dueVector c r

/-- One part of the per-vector check. -/
def vectorPart (k : Nat) (p : Pass) (v : VecIn) (r : VecResult) (u : ArrayUpset) (im : Bool) (s : State) : State :=
  let d := p.desc
  let inex := if im then r.inexIm else r.inexRe
  let diff := checkDiff d.wexp (r.net d im) (checkColumn p v u im)
  if withinHalfUnits d.wexp diff inex then s
  else disagreement k p ⟨false, im, v.index, checkColumn p v u im, d.partSum im r.inits⟩ diff inex s

/-- A check that fails in the CCLK of a stop, which has abandoned its pass (Table 4.9): step 1 of R139 and no more. -/
def ceasedPart (k : Nat) (p : Pass) (v : VecIn) (r : VecResult) (u : ArrayUpset) (im : Bool) (s : State) : State :=
  let inex := if im then r.inexIm else r.inexRe
  let diff := checkDiff p.desc.wexp (r.net p.desc im) (checkColumn p v u im)
  if withinHalfUnits p.desc.wexp diff inex then s else recordDisagreement k p false im v.index diff inex s

/-- The check of a vector whose pass a stop has abandoned in this CCLK. -/
def ceasedCheck (k : Nat) (u : ArrayUpset) (s : State) : State :=
  let a := (s.spire k).arr
  match dueVector (max s.cyc a.ceasedAt) a.ceased with
  | none => s
  | some (p, v) =>
    let r := vecResult p v u
    let s1 := s.modArr k (fun x => { x with
      ceased := x.ceased.map (fun y => if y.seq = p.seq then { y with vectors := y.vectors.erase v } else y) })
    if s.cyc ≤ a.ceasedAt && !p.tainted && decide (r.clamped = 0) then
      let s2 := ceasedPart k p v r u false s1
      if fmtGroup p.desc.fmtW = 3 then ceasedPart k p v r u true s2 else s2
    else s1

/-- PER_VECTOR_CHECK: the results of the oldest due vector are compared and converted; they are written from the next CCLK on. -/
def perVectorCheck (k : Nat) (u : ArrayUpset) (s : State) : State :=
  match dueVector s.cyc (s.spire k).arr.passes with
  | none => ceasedCheck k u s
  | some (p, v) =>
    let d := p.desc
    let r := vecResult p v u
    let skip := p.tainted || decide (0 < r.clamped)
    let (ws, sats) := resultWrites d (v.at_ + 10) v.index r p.tainted
    let s2 := modPass k p.seq (fun x => { x with
      writes := x.writes ++ ws
      checked := x.checked + 1, vectors := x.vectors.erase v,
      inexactRe := x.inexactRe + r.inexRe, inexactIm := x.inexactIm + r.inexIm, clamped := x.clamped + r.clamped,
      skipped := x.skipped || skip, saturated := x.saturated || decide (0 < sats),
      totalRe := x.totalRe + r.net d false, totalIm := x.totalIm + r.net d true
      longDigest := longDigestOf r.vals x.longDigest }) s
    let fl : BitVec 5 := BitVec.ofNat 5 (b2n (0 < r.inexRe + r.inexIm) + 2 * b2n (0 < r.clamped) + 4 * b2n skip
      + 16 * b2n (0 < sats))
    let s3 := s2.modArr k (fun a => a.stick (stickyOf fl))
    let s4 := countSpire k 0x0106 (r.inexRe + r.inexIm) (countSpire k 0x0105 r.clamped s3)
    if skip then s4
    else
      let s5 := vectorPart k p v r u false s4
      if fmtGroup d.fmtW = 3 then vectorPart k p v r u true s5 else s5

def execPerVectorCheck (k : Nat) (u : ArrayUpset) (s : State) : Host.Outcome State Fault Refusal :=
  .next (perVectorCheck k u s)

/-- The pass whose checksum-row step is due. -/
def dueRow (c : Nat) (l : List Pass) : Option Pass :=
  l.find? (fun p => decide (p.checked = p.desc.v) && !p.rowDone && decide (p.releaseAt ≤ c + 1))

/-- The checksum side of the checksum-row step: what was sent, through the tile's row sums. -/
def rowSide (p : Pass) (u : ArrayUpset) (im : Bool) : Int :=
  let re (i : Nat) : Int := p.uRe.get 0 i
  let ii (i : Nat) : Int := p.uIm.get 0 i
  (if im then checksumIm p.desc p.plane re ii else checksumRe p.desc p.plane re ii) + u.sideDelta im

/-- The difference that one part of the checksum-row step compares, if it lies outside the tolerance, with the inexact terms. -/
def rowDiff (p : Pass) (u : ArrayUpset) (im : Bool) : Option (Int × Nat) :=
  let d := p.desc
  let total := if im then p.totalIm else p.totalRe
  let side := rowSide p u im
  let delta := u.accDelta (if im then d.n else 0)
  let inex := if im then p.inexactIm else p.inexactRe
  let diff := checkDiff d.wexp (total + delta) side
  if withinHalfUnits d.wexp diff inex then none else some (diff, inex)

/-- One part of the checksum-row step. -/
def rowPart (k : Nat) (p : Pass) (u : ArrayUpset) (im : Bool) (s : State) : State :=
  match rowDiff p u im with
  | some x => disagreement k p ⟨true, im, p.desc.v - 1, rowSide p u im, 0⟩ x.1 x.2 s
  | none => s

/-- A checksum-row step that fails in the CCLK of a stop, which has abandoned its pass (Table 4.9). -/
def ceasedRowPart (k : Nat) (p : Pass) (u : ArrayUpset) (im : Bool) (s : State) : State :=
  match rowDiff p u im with
  | some x => recordDisagreement k p true im (p.desc.v - 1) x.1 x.2 s
  | none => s

/-- The checksum-row step of a pass that a stop has abandoned in this CCLK. -/
def ceasedRow (k : Nat) (u : ArrayUpset) (s : State) : State :=
  let a := (s.spire k).arr
  match dueRow (max s.cyc a.ceasedAt) a.ceased with
  | none => s
  | some p =>
    let s1 := s.modArr k (fun x => { x with
      ceased := x.ceased.map (fun y => if y.seq = p.seq then { y with rowDone := true } else y) })
    if s.cyc ≤ a.ceasedAt && !p.tainted && decide (p.clamped = 0) then
      let s2 := ceasedRowPart k p u false s1
      if fmtGroup p.desc.fmtW = 3 then ceasedRowPart k p u true s2 else s2
    else s1

/-- CHECKSUM_ROW_STEP: not made if a product was clamped or a word was poisoned (R138, Table 15.2). -/
def checksumRowStep (k : Nat) (u : ArrayUpset) (s : State) : State :=
  match dueRow s.cyc (s.spire k).arr.passes with
  | none => ceasedRow k u s
  | some p =>
    let skip := p.tainted || decide (0 < p.clamped)
    let s1 := modPass k p.seq (fun x => { x with rowDone := true, rowSkip := skip, skipped := x.skipped || x.tainted }) s
    if skip then s1.modArr k (fun a => a.stick 8)
    else
      let s2 := rowPart k p u false s1
      if fmtGroup p.desc.fmtW = 3 then rowPart k p u true s2 else s2

def execChecksumRowStep (k : Nat) (u : ArrayUpset) (s : State) : Host.Outcome State Fault Refusal :=
  .next (checksumRowStep k u s)

/-! ### Release (R131, R139, R141, Table 15.2) -/

/-- Take the first pass out of the array without releasing it, with everything that waits for its verdict. -/
def dropHeld (k : Nat) (p : Pass) (s : State) : State :=
  let s1 := abandonPass k s p
  let s2 := s1.modArr k (fun a => { a with passes := a.passes.filter (fun x => x.seq != p.seq), verdictWait := false })
  let s3 := s2.modSeq k (fun q => { q with replay := [], issues := [] })
  dropDispute k s3

/-- A tainted pass with a disagreement is abandoned at its release CCLK: no recompute, its job ends with ST_UNUSABLE, the
original is quarantined. -/
def abandonTainted (k : Nat) (p : Pass) (s : State) : State :=
  let job := (s.spire k).workJob
  let s0 := match s.disputeOf k with
    | some d => disputeRecord 2 d s
    | none => s
  let s1 := quarantine k (dropHeld k p s0)
  let s2 := s1.modRelCounters (fun c => { c with tainted := satInc c.tainted })
  if job = 0 then s2 else endJob job stUnusable 0 0 k (enterEnding k s2)

/-- PASS_RELEASE: the first pass at its release CCLK is released, held, or abandoned. -/
def passRelease (k : Nat) (s : State) : State :=
  match (s.spire k).arr.passes with
  | [] => s
  | p :: _ =>
    if p.releaseAt ≤ s.cyc && p.rowDone && decide (p.checked = p.desc.v) && !p.held then
      if p.failed then
        if p.tainted then abandonTainted k p s else modPass k p.seq (fun x => { x with held := true }) s
      else endReplay k (releaseFirst k s)
    else s

def execPassRelease (k : Nat) (s : State) : Host.Outcome State Fault Refusal := .next (passRelease k s)

end Sys2Proof.Machine
end

