-- ==== Sys2Proof/Machine/Tiles.lean ====
section
/-! DEFINITION. The Tile Map and the places of the stacks (08): lookup, allocation, usage, wipes, loss of tiles. -/

namespace Sys2Proof.Machine

open Sys2Proof

/-- Bytes of a tile (R264). -/
def tileBytes : Nat := 262144

/-- Tiles of the tile space. -/
def tileCount : Nat := 16777216

/-- Stacks of the package. -/
def stackCount : Nat := 24

/-- Places of stack `h` that may be allocated: the reserved ones of R261 excepted. -/
def placesOf (h : Nat) : Nat := if h % 6 = 5 then 195072 else 196608

/-- Tile Map entry `n`. -/
def State.tile (s : State) (n : Nat) : TileEntry := s.tier.map.get TileEntry.free n

/-- Set Tile Map entry `n`. -/
def State.setTile (s : State) (n : Nat) (e : TileEntry) : State :=
  { s with tier := { s.tier with map := s.tier.map.set TileEntry.free n e } }

/-- Change Tile Map entry `n`. -/
def State.modTile (s : State) (n : Nat) (f : TileEntry → TileEntry) : State := s.setTile n (f (s.tile n))

/-- Code of a TIER. -/
def TierSel.code : TierSel → Nat
  | .none => 0
  | .hbm => 1
  | .flash => 2

/-- Code of a STATE. -/
def TileState.code : TileState → Nat
  | .free => 0
  | .ready => 1
  | .moving => 2
  | .lost => 3

/-- The 64 bits of an entry (Table 8.6). -/
def TileEntry.word (e : TileEntry) : Nat :=
  e.tier.code * 2 ^ 62 + e.state.code * 2 ^ 60 + flagAt e.radio 59 + flagAt e.flashCopy 58 + e.lease.toNat * 2 ^ 46
  + e.pin.toNat * 2 ^ 39 + e.stack.toNat * 2 ^ 25 + e.place.toNat

/-- Tiles `first` to `first + count − 1`. -/
def tileRange (first count : Nat) : List Nat := (List.range count).map (first + ·)

/-- A transfer that a stream holds. -/
def Stream.xfers (t : Stream) : List Xfer := t.active.toList ++ t.queued.toList

/-- The accepted transfers of Spire `k` that are neither completed nor cancelled. -/
def Spire.xfers (p : Spire) : List Xfer := (List.range 4).flatMap (fun j => (p.xb.streams.get Stream.reset j).xfers)

/-- The transfer table (R275). -/
def State.transferTable (s : State) : List Xfer := s.spires.keys.flatMap (fun k => (s.spire k).xfers)

/-- Is a tile in the transfer table? -/
def State.inTransfer (s : State) (n : Nat) : Bool := s.transferTable.any (fun x => x.tile == n)

/-- Is a tile READY in HBM? -/
def TileEntry.inHbm (e : TileEntry) : Bool := e.tier = .hbm && e.state = .ready

/-- Byte address of a tile's byte `o` on its stack. -/
def TileEntry.byteAt (e : TileEntry) (o : Nat) : Nat := e.place.toNat * tileBytes + o

/-- Read bytes of a tile that lies in HBM. -/
def State.tileRead (s : State) (n o len : Nat) : List Byte :=
  let e := s.tile n
  (s.stack e.stack.toNat).mem.readBytes (e.byteAt o) len

/-- Is a word of these bytes of a tile in HBM poisoned? -/
def State.tilePoisoned (s : State) (n o len : Nat) : Bool :=
  let e := s.tile n
  (s.stack e.stack.toNat).mem.poisonedIn (e.byteAt o) len

/-- Bytes of a run of tiles from `first` on, at offset `o` of the run. The list goes tile by tile. -/
def State.runRead (s : State) (first o : Nat) : Nat → Nat → List Byte
  | 0, _ => []
  | fuel + 1, len =>
    if len = 0 then []
    else
      let n := min len (tileBytes - o % tileBytes)
      s.tileRead (first + o / tileBytes) (o % tileBytes) n ++ s.runRead first (o + n) fuel (len - n)

/-- Is a word of these bytes of a run of tiles poisoned? -/
def State.runPoisoned (s : State) (first o : Nat) : Nat → Nat → Bool
  | 0, _ => false
  | fuel + 1, len =>
    if len = 0 then false
    else
      let n := min len (tileBytes - o % tileBytes)
      s.tilePoisoned (first + o / tileBytes) (o % tileBytes) n || s.runPoisoned first (o + n) fuel (len - n)

/-! ### Usage and places (R280, R281) -/

/-- HBM_USED of a lease: its tiles with TIER = 1 and those moving into HBM. -/
def State.hbmUsed (s : State) (lease : Nat) : Nat :=
  (s.tier.map.entries.filter (fun p => decide (p.2.lease.toNat = lease) && !p.2.radio &&
    (p.2.tier = .hbm || (p.2.state = .moving && s.tier.moves.any (fun m => m.toHbm &&
      decide (m.first ≤ p.1 ∧ p.1 < m.first + m.count)))))).length

/-- FLASH_USED of a lease: its tiles with FLASH_COPY = 1 and those moving to flash. -/
def State.flashUsed (s : State) (lease : Nat) : Nat :=
  (s.tier.map.entries.filter (fun p => decide (p.2.lease.toNat = lease) && !p.2.radio &&
    (p.2.flashCopy || (p.2.state = .moving && s.tier.moves.any (fun m => !m.toHbm &&
      decide (m.first ≤ p.1 ∧ p.1 < m.first + m.count)))))).length

/-- The quotas of a lease. -/
def State.quotaOf (s : State) (lease : Nat) : Quota := s.tier.quotas.get Quota.reset lease

/-- Would `n` more tiles in HBM take a lease above its quota? Lease 0 has none. -/
def State.hbmOver (s : State) (lease n : Nat) : Bool :=
  decide (lease ≠ 0) && decide ((s.quotaOf lease).hbmQuota.toNat < s.hbmUsed lease + n)

/-- Would `n` more tiles with flash copies take a lease above its quota? -/
def State.flashOver (s : State) (lease n : Nat) : Bool :=
  decide (lease ≠ 0) && decide ((s.quotaOf lease).flashQuota.toNat < s.flashUsed lease + n)

/-- Free places of stack `h` (TIER_FREE_h): none before its boot wipe is complete (R262), none on a Tower that is out of service
(R28). -/
def State.freePlaces (s : State) (h : Nat) : Nat :=
  let x := s.stack h
  if x.bootWiped && !s.rel.towerOut.getLsbD (h / 6) then placesOf h - (x.used.filter (fun p => decide (p < placesOf h))).length else 0

/-- The `n` lowest numbers from `p` on that a rising list does not hold. -/
def lowestFree : Nat → Nat → Nat → List Nat → List Nat
  | 0, _, _, _ => []
  | fuel + 1, n, p, used =>
    if n = 0 then []
    else match used with
      | [] => p :: lowestFree fuel (n - 1) (p + 1) []
      | u :: r =>
        if u < p then lowestFree fuel n p r
        else if u = p then lowestFree fuel n (p + 1) r
        else p :: lowestFree fuel (n - 1) (p + 1) (u :: r)

/-- The `n` lowest free places of stack `h`. -/
def State.lowest (s : State) (h n : Nat) : List Nat :=
  let u := (s.stack h).used
  lowestFree (n + u.length + 1) n 0 u

/-- Take places of stack `h`. -/
def takePlaces (h : Nat) (ps : List Nat) (s : State) : State :=
  s.modStack h (fun x => { x with used := ps.foldl (fun u p => natInsert p u) x.used })

/-- Queue a freed place for its wipe. -/
def freePlace (h p : Nat) (s : State) : State := s.modStack h (fun x => { x with wipeQueue := x.wipeQueue ++ [p] })

/-- Zero a place of a stack: what an allocation finds there. -/
def zeroPlace (h p : Nat) (s : State) : State :=
  s.modStack h (fun x => { x with mem := x.mem.clearRange (p * tileBytes) tileBytes })

/-! ### Flash copies -/

/-- Forget the retry levels of a tile's pages (R288). -/
def FlashState.clearRetry (n : Nat) (f : FlashState) : FlashState :=
  { f with retry := f.retry.modifyAll 0 (tileRange (16 * n) 16) (fun _ _ => 0) }

/-- Trim the flash copy of a tile, and a write of it that is not acknowledged. -/
def FlashState.trim (n : Nat) (f : FlashState) : FlashState :=
  { f.clearRetry n with
    stripes := f.stripes.set Stripe.none n Stripe.none
    mem := f.mem.clearRange (n * tileBytes) tileBytes
    waits := f.waits.erase n
    inflight := f.inflight.erase n
    staged := f.staged.clearRange (n * tileBytes) tileBytes }

/-- Trim the flash copy of a tile. -/
def trimFlash (n : Nat) (s : State) : State := { s with flash := s.flash.trim n }

/-! ### Loss (R46, R288, Table 8.10) -/

/-- A tile becomes LOST. -/
def loseTile (n : Nat) (s : State) : State := s.modTile n (fun e => { e with state := .lost })

/-- Is stack `h` on Tower `t`? -/
def stackTower (h : Nat) : Nat := h / 6

/-- Tiles of a MOVE that have not committed. -/
def MoveJob.rest (m : MoveJob) : List Nat := tileRange (m.first + m.next) (m.count - m.next)

/-- Does a MOVE involve the flash tier: to it, or of tiles that lie in it? -/
def State.moveUsesFlash (s : State) (m : MoveJob) : Bool := !m.toHbm || m.rest.any (fun n => (s.tile n).tier = .flash)

/-- How far the copying of tile `n` has come. -/
def State.copyOf (s : State) (n : Nat) : TileCopy := s.tier.copies.get TileCopy.none n

/-- Note how far it has come. -/
def State.modCopy (s : State) (n : Nat) (f : TileCopy → TileCopy) : State :=
  { s with tier := { s.tier with copies := s.tier.copies.modify TileCopy.none n f } }

/-- The copying of tile `n` is over. A write to flash that has started keeps what it writes. -/
def endCopy (n : Nat) (s : State) : State :=
  let s1 := s.modCopy n (fun _ => TileCopy.none)
  if s.flash.inflight.contains n then s1
  else { s1 with flash := { s1.flash with staged := s1.flash.staged.clearRange (n * tileBytes) tileBytes } }

/-- Return the HBM places that a MOVE has reserved and not used. -/
def releaseMovePlaces (m : MoveJob) (s : State) : State :=
  if m.toHbm then (m.places.drop m.next).foldl (fun t p => freePlace m.stack p t) s else s

/-- The completion of a MOVE (R283): ST_FAULT if a tile was lost. -/
def moveReply (m : MoveJob) : Reply := ⟨if m.lost = 0 then stOk else stFault, m.moved, m.lost⟩

/-- An uncommitted tile of a stopped MOVE is READY at its source again; a copy that flash has acknowledged stays. -/
def stopTile (t : State) (n : Nat) : State :=
  let t1 := t.modTile n (fun e => { e with
    state := if e.state = .moving then .ready else e.state, flashCopy := e.flashCopy || t.flash.acked.contains n })
  endCopy n { t1 with flash := { t1.flash with acked := t1.flash.acked.erase n } }

/-- Stop a MOVE after its last commit (R263): its uncommitted tiles are READY at their source again, and it completes with
ST_FAULT. Flash writes that have started finish. -/
def stopMove (m : MoveJob) (s : State) : State :=
  let s1 := m.rest.foldl stopTile s
  complete m.issuer 3 ⟨stFault, m.moved, m.lost⟩ (releaseMovePlaces m { s1 with
    tier := { s1.tier with moves := s1.tier.moves.filter (fun x => decide (x ≠ m)) } })

/-- A Tower's stacks are gone (Table 8.10, R263): its tiles become LOST and transfers to them are cancelled. A MOVE
to one of its stacks stops as R263 has it (DESIGN CHOICE, log entry 143). -/
def loseTower (t : Nat) (s : State) : State :=
  let tiles := (s.tier.map.entries.filter (fun p => p.2.tier = .hbm && stackTower p.2.stack.toNat == t)).map (·.1)
  let s0 := tiles.foldl (fun u n => loseTile n u) s
  let s1 := (s0.tier.moves.filter (fun m => m.toHbm && stackTower m.stack == t)).foldl (fun u m => stopMove m u) s0
  let gone (x : Xfer) : Bool := stackTower x.stack == t
  let cut (o : Option Xfer) : Option Xfer := o.filter (fun x => !gone x)
  s1.spires.keys.foldl (fun u k =>
    u.modXb k (fun x => { x with streams := x.streams.modifyAll Stream.reset (List.range 4) (fun _ y =>
      match cut y.active with
      | some a => { active := some a, queued := cut y.queued }
      | none => { active := cut y.queued, queued := none }) })) s1

/-- The map Tower: the highest-numbered Tower in service (R261). -/
def State.mapTower (s : State) : Option Nat := [3, 2, 1, 0].find? (fun t => !s.rel.towerOut.getLsbD t)

end Sys2Proof.Machine
end

