-- ==== Sys2Proof/Machine/Cells.lean ====
section
/-! DEFINITION. Hjelbex cells (10): the CRCs, the header of Table 10.3, the Step marker of Table 10.2; hall time in periods
and Steps (R361). -/

namespace Sys2Proof.Machine

open Sys2Proof

/-! ### CRCs (R347, R349) -/

/-- Eight steps of a reflected CRC over one byte. -/
def crcSteps (poly : Nat) : Nat → Nat → Nat
  | 0, c => c
  | n + 1, c => crcSteps poly n (if c % 2 = 1 then (c / 2) ^^^ poly else c / 2)

/-- CRC-32C (Castagnoli) of a byte string. -/
def crc32c (l : List Byte) : Nat :=
  l.foldl (fun c b => crcSteps 0x82F63B78 8 (c ^^^ b.toNat)) 0xFFFFFFFF ^^^ 0xFFFFFFFF

/-- Eight steps of CRC-16/CCITT. -/
def crc16Steps : Nat → Nat → Nat
  | 0, c => c
  | n + 1, c => crc16Steps n (if c / 0x8000 % 2 = 1 then (c * 2 % 0x10000) ^^^ 0x1021 else c * 2 % 0x10000)

/-- CRC-16/CCITT with initial value 0xFFFF. -/
def crc16 (l : List Byte) : Nat := l.foldl (fun c b => crc16Steps 8 (c ^^^ (b.toNat * 256))) 0xFFFF

/-! ### Periods and Steps (R361) -/

/-- A Step of 62.5 ns in units of 2^-32 ns. -/
def stepUnits : Nat := 125 * 2 ^ 31

/-- The period number of a hall time. -/
def periodNo (t : Nat) : Nat := t / periodUnits % 2 ^ 32

/-- The Step of a hall time. -/
def stepNo (t : Nat) : Nat := t % periodUnits / stepUnits

/-- The Step of a hall time, counted from the epoch. -/
def stepCount (t : Nat) : Nat := t / periodUnits * 8000 + stepNo t

/-- The hall time at which a Step counted from the epoch starts. -/
def stepTime (n : Nat) : Nat := n / 8000 * periodUnits + n % 8000 * stepUnits

/-- Has the Dome's period-start trigger opened the present period (R365)? -/
def State.planOpen (s : State) : Bool :=
  s.hasPlan && decide (s.time.periodTarget / periodUnits = s.now / periodUnits)

/-! ### Cells (R346, R349, R350) -/

/-- Cell types (Table 10.4). -/
abbrev cellData : Nat := 1
abbrev cellFh : Nat := 2
abbrev cellTime : Nat := 3
abbrev cellHeartbeat : Nat := 4
abbrev cellRmem : Nat := 5
abbrev cellBe : Nat := 6
abbrev cellMgmt : Nat := 7
abbrev cellIdent : Nat := 8

/-- FLOW of best-effort and IDENT cells. -/
abbrev noFlow : Nat := 0xFFFF

/-- Most payload bytes of a cell. -/
def payloadMax : Nat := 2752

/-- Header bytes 0 to 55 of a cell as a number. -/
def Cell.head (c : Cell) : Nat :=
  (c.payload.length + c.hops * 2 ^ 16 + c.figure * 2 ^ 20 + flagAt (decide (c.poison ≠ 0)) 23 + c.type * 2 ^ 24 + 2 ^ 28)
  + (c.src + c.dst * 2 ^ 16) * 2 ^ 32
  + c.pavane.toNat * 2 ^ 64
  + c.period.toNat * 2 ^ 96
  + (c.step + c.flow * 2 ^ 16) * 2 ^ 128
  + c.seq.toNat * 2 ^ 160
  + c.info.toNat * 2 ^ 192
  + c.poison.toNat * 2 ^ 320

/-- The bytes of a cell: header and payload. -/
def Cell.bytes (c : Cell) : List Byte :=
  let h := leBytes c.head 56 ++ leBytes (if c.payload.isEmpty then 0 else crc32c c.payload) 4
  h ++ leBytes (crc32c h) 4 ++ c.payload

/-- A cell's length in best-effort service: header and payload (R386). -/
def Cell.length (c : Cell) : Nat := 64 + c.payload.length

/-- The outcome of reading a cell's bytes: a wrong HCRC, an illegal VERSION, TYPE or LENGTH, or the cell with whether its
PCRC is right (checks 2, 3 and 7 of Table 10.5). -/
inductive CellRead where
  | badHeader
  | illegal
  | cell (c : Cell) (pcrcOk : Bool)
  deriving DecidableEq, Repr

/-- Is a TYPE one of Table 10.4? -/
def cellTypeOk (t : Nat) : Bool := decide (1 ≤ t ∧ t ≤ 8)

/-- Read a cell; bytes that are not there are idle fill. -/
def readCell (l : List Byte) : CellRead :=
  let h := leValue (l.take 64)
  if crc32c ((List.range 60).map (fun i => l.getD i 0)) ≠ field h 511 480 then .badHeader
  else
    let len := field h 11 0
    if field h 31 28 ≠ 1 || !cellTypeOk (field h 27 24) || decide (payloadMax < len) then .illegal
    else
      let payload := (List.range len).map (fun i => l.getD (64 + i) 0)
      .cell {
        type := field h 27 24
        figure := field h 22 20
        hops := field h 19 16
        dst := field h 63 48
        src := field h 47 32
        pavane := BitVec.ofNat 32 (field h 95 64)
        period := BitVec.ofNat 32 (field h 127 96)
        flow := field h 159 144
        step := field h 140 128
        seq := BitVec.ofNat 32 (field h 191 160)
        info := BitVec.ofNat 128 (field h 319 192)
        poison := BitVec.ofNat 86 (field h 405 320)
        payload := payload }
        (decide ((if payload.isEmpty then 0 else crc32c payload) = field h 479 448))

/-- Payload word `w` of a cell as a number. -/
def Cell.word (c : Cell) (w : Nat) : Nat := leValue ((c.payload.drop (32 * w)).take 32)

/-- TYPE_INFO bytes `i` to `i + n − 1`, numbered as header bytes. -/
def Cell.infoBytes (c : Cell) (i n : Nat) : Nat := field c.info.toNat (8 * (i - 24 + n) - 1) (8 * (i - 24))

/-! ### The Step marker (R347) -/

/-- Fields of a marker, with whether ALIGN and the CRC are right. -/
structure Marker where
  ok     : Bool
  step   : Nat
  lane   : Nat
  figure : Nat
  locked : Bool
  chip   : Nat
  period : Nat
  deriving DecidableEq, Repr

/-- Read a marker. -/
def readMarker (m : Nat) : Marker where
  ok := decide (field m 31 0 = 0xE13C9A4D) && decide (crc16 (leBytes m 14) = field m 127 112)
  step := field m 44 32
  lane := field m 53 48
  figure := field m 58 56
  locked := bitAt m 59
  chip := field m 79 64
  period := field m 95 80

/-- The 16 bytes of a marker of lane `n` in Step `m` counted from the epoch: FLAGS, CHIP (R347). -/
def markerBytes (n m flags chip : Nat) : List Byte :=
  let b := leBytes 0xE13C9A4D 4 ++ leBytes (m % 8000) 2 ++ leBytes (n % 64) 1 ++ leBytes flags 1 ++ leBytes chip 2
    ++ leBytes (m / 8000 % 65536) 2 ++ leBytes 0 2
  b ++ leBytes (crc16 b) 2

/-! ### The inner FEC (R345) -/

/-- Symbols in error that a codeword corrects. -/
def fecCorrects : Nat := 7

/-- Codewords corrected, and codewords uncorrectable, of those with symbols in error. -/
def fecCorrected (l : List (Nat × Nat)) : Nat := (l.filter (fun e => decide (1 ≤ e.2 ∧ e.2 ≤ fecCorrects))).length
def fecFailed (l : List (Nat × Nat)) : Nat := (l.filter (fun e => decide (fecCorrects < e.2))).length

/-- Does every codeword decode that holds one of the first `n` data bytes? Codeword i carries bytes 125 i to 125 i + 124. -/
def fecHolds (l : List (Nat × Nat)) (n : Nat) : Bool := l.all (fun e => decide (e.2 ≤ fecCorrects) || decide (n ≤ 125 * e.1))

/-! ### Flows and the near set (R359, R377) -/

/-- Flow endpoints (Table 10.9, FLOW_TABLE). -/
abbrev endFronthaul : Nat := 1
abbrev endRequests : Nat := 2
abbrev endReplies : Nat := 3
abbrev endGateway : Nat := 4
abbrev endDome : Nat := 5

/-- Records of the FLOW_TABLE of the active Figure. -/
def State.flowTable (s : State) : List Nat :=
  match s.image with
  | some p => p.flows.get [] s.fab.figure
  | none => []

/-- ENDPOINT and ARG of a flow. -/
def State.endpoint (s : State) (f : Nat) : Option (Nat × Nat) :=
  (s.flowTable.find? (fun r => field r 63 48 == f)).map (fun r => (field r 47 40, field r 39 24))

/-- The gateway flow whose ARG names a far chip. -/
def State.gatewayFlow (s : State) (far : Nat) : Option Nat :=
  (s.flowTable.find? (fun r => field r 47 40 == endGateway && field r 39 24 == far)).map (fun r => field r 63 48)

/-- Does the active Figure give this chip gateway flows (RM_STATUS.GATEWAY)? -/
def State.isGateway (s : State) : Bool := s.flowTable.any (fun r => field r 47 40 == endGateway)

/-- The near set of the active Figure; in time-only mode of Figure 0 (R365, R377). -/
def State.nearSet (s : State) : List Nat :=
  match s.stepImage with
  | some (p, f) => p.near.get [] f
  | none => []

/-- The near-set entry of a chip: REQ_FLOW and RSP_FLOW. -/
def State.near (s : State) (chip : Nat) : Option (Nat × Nat) :=
  (s.nearSet.find? (fun r => field r 63 48 == chip)).map (fun r => (field r 47 32, field r 31 16))

/-- This chip's CHIP_ID. -/
def State.chipId (s : State) : Nat := s.dome.chipId.toNat

/-- LANE_MAP record of a lane in an image. -/
def Pavane.lane (p : Pavane) (n : Nat) : Nat := p.laneMap.getD n 0

/-- PARTNER_CHIP of a LANE_MAP record. -/
def partnerChip (r : Nat) : Nat := field r 55 40

/-- READY_STEPS of a LANE_MAP record. -/
def readySteps (r : Nat) : Nat := field r 36 32

/-- The SYNC record of the Figure that the plan follows: ROLE and the upstream lane (R359). -/
def State.syncRecord (s : State) : Option (Bool × Nat) :=
  match s.stepImage with
  | some (p, f) => match p.sync.get [] f with
    | r :: _ => some (bitAt r 63, field r 5 0)
    | [] => none
  | none => none

/-- Does the chip follow an upstream lane? -/
def State.follows (s : State) : Bool := s.syncRecord.any (fun r => !r.1)

/-- Is lane `n` the upstream lane of a follower? -/
def State.upstream (s : State) (n : Nat) : Bool :=
  match s.syncRecord with
  | some (role, up) => !role && decide (up = n)
  | none => false

end Sys2Proof.Machine
end

