-- ==== Sys2Proof/Machine/FlashLayer.lean ====
section
/-! DEFINITION. The flash translation layer (08 'The flash tier'): free blocks, the placing of stripes, worn and failed blocks, what
the flash registers show. -/

namespace Sys2Proof.Machine

open Sys2Proof

/-- Channels of the flash tier, a page of a stripe on each (R286, R287). -/
def flashChannels : Nat := 16

/-- Bytes of a page. -/
def pageBytes : Nat := 16384

/-- Number of block `b` of channel `c`. -/
def blockNo (c b : Nat) : Nat := c * 2 ^ 20 + b

/-- Channel of a block number. -/
def blockChannel (n : Nat) : Nat := n / 2 ^ 20

/-- Block `n`. -/
def FlashState.block (f : FlashState) (n : Nat) : FlashBlock := f.blocks.get FlashBlock.reset n

/-- Change block `n`. -/
def FlashState.modBlock (f : FlashState) (n : Nat) (g : FlashBlock → FlashBlock) : FlashState :=
  { f with blocks := f.blocks.modify FlashBlock.reset n g }

/-- Is a block on the packages and good? -/
def FlashState.usable (f : FlashState) (n : Nat) : Bool :=
  decide (blockChannel n < flashChannels ∧ n % 2 ^ 20 < f.found.blocks) && !(f.block n).bad

/-- The tiles that have a page in block `n`: its valid pages. -/
def FlashState.tilesIn (f : FlashState) (n : Nat) : List Nat :=
  (f.stripes.entries.filter (fun p => p.2.pages.any (fun q => q.1 == n))).map (·.1)

/-- Blocks of channel `c` of which something is noted. -/
def FlashState.noted (f : FlashState) (c : Nat) : List Nat := f.blocks.keys.filter (fun n => blockChannel n == c)

/-- The lowest-numbered block of channel `c` of which nothing is noted: never programmed, never erased. -/
def FlashState.fresh (f : FlashState) (c : Nat) : Option Nat :=
  let l := f.noted c
  match lowestFree (l.length + 2) 1 0 (l.map (· % 2 ^ 20)) with
  | b :: _ => if b < f.found.blocks then some (blockNo c b) else none
  | [] => none

/-- Of a list of blocks, the first with the lowest erase count. -/
def FlashState.leastWorn (f : FlashState) : List Nat → Option Nat
  | [] => none
  | n :: r =>
    match f.leastWorn r with
    | some m => if (f.block m).erases < (f.block n).erases then some m else some n
    | none => some n

/-- The free block of channel `c` with the lowest erase count (R289): a block without valid pages is free, and is erased before its
use. -/
def FlashState.freeBlock (f : FlashState) (c : Nat) : Option Nat :=
  f.leastWorn ((f.fresh c).toList
    ++ (f.noted c).filter (fun n => f.usable n && (f.tilesIn n).isEmpty && f.filling.get 0 c != n + 1))

/-- Erase block `n`. -/
def FlashState.erase (f : FlashState) (n : Nat) : FlashState :=
  f.modBlock n (fun b => { b with erases := b.erases + 1, reads := 0, written := 0 })

/-- The block of channel `c` that takes the next page: the one being filled while it has room, then a free one. -/
def FlashState.open_ (f : FlashState) (c : Nat) : FlashState × Option Nat :=
  let x := f.filling.get 0 c
  if decide (0 < x) && decide ((f.block (x - 1)).written < f.found.pages) && f.usable (x - 1) then (f, some (x - 1))
  else match f.freeBlock c with
    | some n =>
      let f1 := if (f.block n).written = 0 then f else f.erase n
      ({ f1 with filling := f1.filling.set 0 c (n + 1) }, some n)
    | none => (f, none)

/-- Program one page on channel `c`: where it lies, if the channel has room. -/
def FlashState.program (f : FlashState) (c : Nat) : FlashState × Option (Nat × Nat) :=
  match f.open_ c with
  | (f1, some n) => (f1.modBlock n (fun b => { b with written := b.written + 1 }), some (n, (f1.block n).written))
  | (f1, none) => (f1, none)

/-- Program a page on each channel; none if a channel has no room. -/
def FlashState.programStripe (f : FlashState) : Nat → Option (FlashState × List (Nat × Nat))
  | 0 => some (f, [])
  | c + 1 =>
    match f.programStripe c with
    | some (f1, l) =>
      match f1.program c with
      | (f2, some p) => some (f2, l ++ [p])
      | (_, none) => none
    | none => none

/-- Retire a block (R289): it is never used again. -/
def FlashState.retire (f : FlashState) (n : Nat) : FlashState :=
  let f1 := f.modBlock n (fun b => { b with bad := true })
  if f1.filling.get 0 (blockChannel n) = n + 1 then { f1 with filling := f1.filling.set 0 (blockChannel n) 0 } else f1

/-- A read of a page of tile `n` counts on its block (R289). -/
def FlashState.countRead (f : FlashState) (n page : Nat) : FlashState :=
  match (f.stripes.get Stripe.none n).pages[page]? with
  | some p => f.modBlock p.1 (fun b => { b with reads := b.reads + 1 })
  | none => f

/-- Move the valid pages of block `n` to another block of its channel; `none` if the channel has no room. -/
def FlashState.movePages (f : FlashState) (n : Nat) : List Nat → Option FlashState
  | [] => some f
  | t :: r =>
    match f.program (blockChannel n) with
    | (f1, some p) =>
      FlashState.movePages { f1 with stripes := f1.stripes.modify Stripe.none t (fun x =>
        { x with pages := x.pages.map (fun q => if q.1 = n then p else q) }) } n r
    | (_, none) => none

/-! ### What the registers show (R290, R295) -/

/-- Retired blocks, of channel `c` or of all. -/
def FlashState.badOn (f : FlashState) (c : Nat) : Nat := ((f.noted c).filter (fun n => (f.block n).bad)).length
def FlashState.badCount (f : FlashState) : Nat := ((List.range flashChannels).map f.badOn).sum

/-- Good raw stripes: a stripe takes a page of each channel. -/
def FlashState.goodStripes (f : FlashState) : Nat :=
  match leastOf ((List.range flashChannels).map f.badOn |>.map (fun n => f.found.blocks - n)) with
  | some n => n * f.found.pages
  | none => 0

/-- FLASH_CAP: 7/8 of the good raw stripes, at most 16,777,216; nothing while no flash tier is present. -/
def FlashState.cap (f : FlashState) : Nat := if f.present then min tileCount (7 * f.goodStripes / 8) else 0

/-- FLASH_STATUS.WEAR: the highest erase count as a percentage of the rated count. -/
def FlashState.wear (f : FlashState) (rated : Nat) : Nat :=
  min 255 (100 * f.blocks.entries.foldl (fun x p => max x p.2.erases) 0 / rated)

/-- FLASH_STATUS.PACKAGES. -/
def FlashState.packageCount (f : FlashState) : Nat := flashChannels * f.found.packages

/-- Write the journal's erase and read counts (R291): it is complete once no program is in progress. -/
def FlashState.writeJournal (f : FlashState) : FlashState :=
  { f with noProgram := true, journal := f.inflight.isEmpty, saved := f.blocks }

end Sys2Proof.Machine
end

