-- ==== Sys2Proof/Machine/Xfer.lean ====
section
/-! DEFINITION. Crossbar transfers (08): the descriptor read, acceptance, beats at HBM, completion. -/

namespace Sys2Proof.Machine

open Sys2Proof

/-! ### The descriptor (R268, R269) -/

/-- A transfer descriptor's fields. -/
structure XferDesc where
  tile   : Nat
  beats  : Nat
  first  : Nat
  addr   : Nat
  flagEn : Bool
  flag   : Nat
  reservedOk : Bool
  deriving DecidableEq, Repr

/-- Decode the 32 bytes of a transfer descriptor (Table 8.4). -/
def decodeXferDesc (x : Nat) : XferDesc where
  tile := field x 23 0
  beats := field x 48 40
  first := field x 39 32
  addr := field x 88 64
  flagEn := bitAt x 127
  flag := field x 123 120
  reservedOk := field x 31 24 == 0 && field x 63 49 == 0 && field x 95 89 == 0 && field x 119 96 == 0
    && field x 126 124 == 0 && field x 255 128 == 0

/-- The read of one request's descriptor in c + 1, with one store access: outside the owned part it faults, as does a pending range
(R143); a poisoned word ends an inference job. The request stays only if it is still to be decided. -/
def readXferDesc (k : Nat) (r : XfReq) (s : State) : State :=
  let drop (t : State) : State := t.modXb k (fun x => { x with requests := x.requests.erase r })
  if !s.ownsRange k r.inS r.addr 32 then programFault k r.inS 0x04 0 r.pc (drop s)
  else if (s.spire k).isPending r.addr 32 then programFault k r.inS 0x03 0 r.pc (drop s)
  else
    let m := (s.spire k).store
    let bad := m.poisonedAt r.addr
    if bad && !s.radioWork k r.inS then poisonEnd k (consumePoison 1 (drop s))
    else
      let r1 := { r with desc := some (m.readLE r.addr 32), poisoned := bad }
      countSpire k 0x0501 1 ((if bad then consumePoison 1 s else s).modXb k (fun x => { x with
        requests := x.requests.map (fun y => if y = r then r1 else y) }))

/-- Descriptors that are read in this CCLK. -/
def readXferDescs (k : Nat) (s : State) : State :=
  ((s.spire k).xb.requests.filter (fun r => r.desc.isNone && decide (r.at_ + 1 ≤ s.cyc))).foldl
    (fun t r => readXferDesc k r t) s

/-! ### Acceptance (R269, R270, Table 8.5) -/

/-- Is a tile the issuer's: RADIO for radio work, the job's lease for a job? -/
def State.xferOwns (s : State) (k : Nat) (inS : Bool) (n : Nat) : Bool :=
  let e := s.tile n
  decide (e.state ≠ .free) &&
    (if s.radioWork k inS then e.radio
     else !e.radio && decide (e.lease.toNat = s.jobLease (s.spire k).ctx.jobId))

/-- The stream of Spire `k` in the active image. -/
def State.streamDef (s : State) (k j : Nat) : Option StreamDef :=
  match s.image with
  | some p => p.stream k j
  | none => none

/-- The first row of Table 8.5 that applies, if any. -/
def State.xferRefusal (s : State) (k : Nat) (r : XfReq) (d : XferDesc) : Option Nat :=
  let e := s.tile d.tile
  let st := (s.spire k).xb.streams.get Stream.reset r.stream
  if r.poisoned then some stUnusable
  else if !d.reservedOk || d.beats = 0 || decide (256 < d.beats) || decide (256 < d.first + d.beats)
      || d.addr % 1024 != 0 || !s.ownsRange k r.inS d.addr (1024 * d.beats) then some stBadArg
  else match s.streamDef k r.stream with
    | none => some stBadArg
    | some sd =>
      if sd.isPut = r.isGet then some stBadArg
      else if !s.xferOwns k r.inS d.tile then some stBadArg
      else if !e.inHbm || e.pin = 0 then some stConflict
      else if e.stack.toNat ≠ sd.stack then some stBadArg
      else if st.active.isSome && st.queued.isSome then some stConflict
      else none

/-- Put an accepted transfer on its stream (R271). -/
def Stream.accept (t : Stream) (x : Xfer) : Stream :=
  match t.active with
  | none => { t with active := some x }
  | some _ => { t with queued := some x }

/-- TRANSFER_ACCEPT: the first request whose decision is due; its Tile Map lookup counts event 0x1302. -/
def transferAccept (k : Nat) (s : State) : State :=
  match (s.spire k).xb.requests with
  | [] => s
  | r :: rest =>
    if s.cyc < r.at_ + 64 then s
    else match r.desc with
      | none => s
      | some x =>
        let d := decodeXferDesc x
        let s1 := countBelfry 0x1302 none 1 (s.modXb k (fun y => { y with requests := rest }))
        match s.xferRefusal k r d with
        | some st =>
          let s2 := s1.modXb k (fun y => { y with lastRefusal := BitVec.ofNat 8 st, refused := true })
          if d.flagEn then setFlag k d.flag s2 else s2
        | none =>
          let e := s.tile d.tile
          let t : Xfer := ⟨r.isGet, d.tile, d.first, d.beats, 0, d.addr, e.stack.toNat, e.place.toNat, d.flagEn, d.flag,
            r.inS, r.at_ + 65, 0, r.pc⟩
          s1.modXb k (fun y => { y with streams := y.streams.modify Stream.reset r.stream (fun q => q.accept t) })

def execTransferAccept (k : Nat) (s : State) : Host.Outcome State Fault Refusal := .next (transferAccept k s)

/-! ### Beats (R256, R271, R273) -/

/-- Put 32 words of a beat into a stack's memory, with their poison. -/
def Mem.writeBeat (m : Mem) (a : Nat) (data : List Byte) (poison : BitVec 32) : Mem :=
  (List.range 32).foldl (fun y i => y.setPoison (a / 32 + i) (poison.getLsbD i)) (m.writeBytes a data)

/-- The poison of the 32 words of a beat. -/
def Mem.beatPoison (m : Mem) (a : Nat) : BitVec 32 :=
  (List.range 32).foldl (fun b i => if m.poisonedAt (a + 32 * i) then b ||| BitVec.twoPow 32 i else b) 0

/-- A plan command of controller `h` for a beat of a Spire of Tower `x` (Table 3.4): a beat of another Tower is relayed through the
Belfry, and counts for the Spire's Tower (DEDUCED, log entry 141). -/
def countCommand (h x : Nat) (s : State) : State :=
  let s1 := countBelfry 0x1201 (some h) 1 s
  if h / 6 = x then s1 else countBelfry 0x1701 (some x) 1 s1

/-- A PUT beat, checked as it left its store (R252), reaches its stack; after the last one a read returns the new data from t + 8. -/
def putBeat (k : Nat) (b : Beat) (errs : List (Nat × Nat)) (s : State) : State :=
  let a := b.place * tileBytes + 1024 * b.beat
  let (w, s0) := passWords (storeChecked k) errs ⟨b.data, b.poison⟩ s
  let s1 := s0.modStack b.stack (fun x => { x with mem := x.mem.writeBeat a w.data w.poison })
  let s2 := s1.modXb k (fun y => { y with
    puts := y.puts.erase b
    streams := if b.isLast then y.streams.modify Stream.reset b.stream (Stream.arrived (s.cyc + 8)) else y.streams })
  countCommand b.stack (k / 8) (countSpire k 0x0602 1 s2)

/-- Has stream `j` started a GET beat in this CCLK? -/
def XbState.gotBeat (x : XbState) (j due : Nat) : Bool := x.gets.any (fun b => b.stream == j && b.due == due)

/-- The beat that a stream's transfer takes from HBM starts on its way to the store. -/
def takeBeat (k j : Nat) (x : Xfer) (w : Words) (s : State) : State :=
  let b : Beat := ⟨j, x.stack, x.place, x.first + x.next, x.storeAddr + 1024 * x.next, s.cyc + getLag k x.stack,
    w.data, w.poison, decide (x.next + 1 = x.beats), x.inS, x.pc⟩
  s.modXb k (fun y => { y with
    gets := y.gets ++ [b], streams := y.streams.modify Stream.reset j Stream.advance })

/-- Does stream `j` of Spire `m` take a copy of the beat that transfer `x` reads: the plan feeds the port from the same source, and
the stream's next beat is the same one (R18; DEDUCED, log entry 141)? -/
def State.copies (s : State) (x : Xfer) (m j : Nat) : Bool :=
  match ((s.spire m).xb.streams.get Stream.reset j).turn with
  | some y => y.isGet && decide (y.stack = x.stack) && decide (y.place = x.place) && decide (y.first + y.next = x.first + x.next)
      && decide (y.from_ ≤ s.cyc) && s.pathGet m x.stack 0
  | none => false

/-- A broadcast: stream of Spire `m`, if it has one, that takes a copy. -/
def takeCopy (x : Xfer) (w : Words) (s : State) (m : Nat) : State :=
  match (List.range 4).find? (fun j => s.copies x m j) with
  | some j =>
    match ((s.spire m).xb.streams.get Stream.reset j).turn with
    | some y => takeBeat m j y w s
    | none => s
  | none => s

/-- A GET beat is read from its stack and checked there; every destination that the plan feeds from the same port in that CCLK
receives a copy (R18). -/
def getBeat (k j : Nat) (x : Xfer) (errs : List (Nat × Nat)) (s : State) : State :=
  let a := x.place * tileBytes + 1024 * (x.first + x.next)
  let m := (s.stack x.stack).mem
  let (w, s1) := passWords (stackChecked x.stack) errs ⟨m.readBytes a 1024, m.beatPoison a⟩ s
  let others := s.spires.keys.filter (fun n => decide (n ≠ k))
  countCommand x.stack (k / 8) (others.foldl (takeCopy x w) (takeBeat k j x w s1))

/-- HBM_BEAT: a PUT beat whose slot has come goes to its stack; otherwise the stream's GET takes the slot it owns, if the plan
gives the beat its way (R22, R23). -/
def hbmBeat (k j : Nat) (errs : List (Nat × Nat)) (s : State) : State :=
  let x := (s.spire k).xb
  match x.puts.find? (fun b => b.stream == j && decide (b.due ≤ s.cyc)) with
  | some b => putBeat k b errs s
  | none =>
    match (x.streams.get Stream.reset j).turn with
    | some t =>
      if t.isGet && decide (t.from_ ≤ s.cyc) && s.ownsSlot k j t.stack false 0
          && !x.gotBeat j (s.cyc + getLag k t.stack) then
        getBeat k j t errs s
      else s
    | none => s

def execHbmBeat (k : Nat) (b : StreamBeat) (s : State) : Host.Outcome State Fault Refusal :=
  .next (hbmBeat k b.stream b.errs s)

/-- Does stream `j` of Spire `k` leave a slot idle that it owns now (event 0x0603)? A PUT's slot is judged when its store
read would be due. -/
def State.idleSlot (s : State) (k j : Nat) : Bool :=
  let x := (s.spire k).xb
  match s.streamDef k j with
  | none => false
  | some d =>
    let off := if d.isPut then putLead k d.stack else 0
    let moved := if d.isPut then x.puts.any (fun b => b.stream == j && b.due == s.cyc + off)
      else x.gotBeat j (s.cyc + getLag k d.stack)
    s.ownsCommand k j d.stack off && !moved

/-! ### Completion (R272) -/

/-- TRANSFER_COMPLETE: the flag is set, and the queued transfer becomes active. -/
def transferComplete (k j : Nat) (s : State) : State :=
  let t := (s.spire k).xb.streams.get Stream.reset j
  match t.active with
  | none => s
  | some x =>
    if x.next = x.beats && decide (0 < x.lastAt) && decide (x.lastAt ≤ s.cyc) then
      let s1 := s.modXb k (fun y => { y with
        streams := y.streams.set Stream.reset j { active := t.queued, queued := none } })
      if x.flagEn then setFlag k x.flag s1 else s1
    else s

def execTransferComplete (k j : Nat) (s : State) : Host.Outcome State Fault Refusal := .next (transferComplete k j s)

end Sys2Proof.Machine
end

