-- ==== Sys2Proof/Machine/Hbm.lean ====
section
/-! DEFINITION. HBM4 controllers (08): open slots, the request queue, refresh, temperature, boot wipe, wipes of freed
places; host accesses to tiles (14 'CXL.mem'). -/

namespace Sys2Proof.Machine

open Sys2Proof

/-! ### Schedules (R254, R257, R262) -/

/-- Is frame `f` marked by a refresh-point record of an HBM plan? -/
def planRefresh (recs : List Nat) (f : Nat) : Bool :=
  recs.any (fun r => decide (field r 15 12 = 15) && planHits (field r 63 48) (field r 47 32) (field r 31 16) f)

/-- The HBM plan that governs controller `h`, if one does. -/
def State.hbmPlan (s : State) (h : Nat) : Option (List Nat) :=
  match s.image with
  | some p => if s.hasPlan && !s.pwr.restart && !(p.hbm.get [] h).isEmpty then some (p.hbm.get [] h) else none
  | none => none

/-- Is this CCLK in a refresh frame of controller `h`? -/
def State.refreshFrame (s : State) (h : Nat) : Bool :=
  match s.hbmPlan h with
  | some l => planRefresh l (s.clock.plan / 17)
  | none => s.cyc / 17 % 188 == 0

/-- Is this CCLK an open slot of controller `h`? Past CCLK 849,999 a plan sits idle (R62). -/
def State.openSlotNow (s : State) (h : Nat) : Bool :=
  (match s.hbmPlan h with
   | some _ => s.clock.plan % 17 == 15 && decide (s.clock.plan < planPeriod)
   | none => decide (s.cyc % 17 < 16)) && !s.refreshFrame h

/-! ### The queue (R259, R260) -/

/-- Entries of a queue. -/
def queueMax : Nat := 64

/-- Entries that wipes, or the tier engine's other beats, may hold. -/
def tierMax : Nat := 16

/-- Is a request a wipe beat? -/
def OpenOp.isWipe : OpenOp → Bool
  | .wipe _ _ => true
  | .bootWipe => true
  | _ => false

/-- Is a request another beat of the tier engine? -/
def OpenOp.isTier : OpenOp → Bool
  | .tierBeat _ _ _ => true
  | .logBeat => true
  | _ => false

/-- Is there room in a queue for a request? -/
def HbmStack.roomFor (x : HbmStack) (op : OpenOp) : Bool :=
  decide (x.queue.length < queueMax)
  && (!op.isWipe || decide ((x.queue.filter (fun r => r.op.isWipe)).length < tierMax))
  && (!op.isTier || decide ((x.queue.filter (fun r => r.op.isTier)).length < tierMax))

/-- Is a request a tier-engine beat? -/
def OpenOp.ofEngine (op : OpenOp) : Bool := op.isWipe || op.isTier

/-- The order in which waiting requests enter a queue: by the BCLK of their arrival, in one BCLK the host's and the Dome's first
(R260). -/
def OpenReq.rank (r : OpenReq) : Nat := 2 * (r.arrived / 2) + b2n r.op.ofEngine

/-- The first of the lowest rank. -/
def firstRank : List OpenReq → Option OpenReq
  | [] => none
  | r :: rest =>
    match firstRank rest with
    | some q => if q.rank < r.rank then some q else some r
    | none => some r

/-- Waiting requests take the free entries, within the tier engine's limits (R260). -/
def HbmStack.fill (x : HbmStack) : Nat → HbmStack
  | 0 => x
  | n + 1 =>
    match firstRank (x.waiting.filter (fun r => x.roomFor r.op)) with
    | some r => HbmStack.fill { x with queue := x.queue ++ [r], waiting := x.waiting.erase r } n
    | none => x

/-- Waiting requests enter the queue. -/
def HbmStack.takeIn (x : HbmStack) : HbmStack := x.fill queueMax

/-- A request arrives at controller `h`: in the queue, or waiting at its entrance; it wakes the Tower if its domain is gated. -/
def arrive (h : Nat) (op : OpenOp) (tile : Option Nat) (s : State) : State :=
  let r : OpenReq := ⟨op, tile, s.cyc, false⟩
  (touchDomain (16 + stackTower h) s).modStack h (fun x => { x with waiting := x.waiting ++ [r] }.takeIn)

/-- Every request that waits past the first open slot after its arrival counts once: HBM_OPEN_WAITS and category 4, which is no
job's (R102, R260). -/
def countWaits (h : Nat) (s : State) : State :=
  let x := s.stack h
  let late (r : OpenReq) : Bool := !r.counted && decide (r.arrived < s.cyc)
  let n := ((x.queue ++ x.waiting).filter late).length
  if n = 0 then s
  else
    let mark (r : OpenReq) : OpenReq := { r with counted := r.counted || late r }
    countNd 4 n [] (s.modStack h (fun y => { y with
      openWaits := satAdd y.openWaits n, queue := y.queue.map mark, waiting := y.waiting.map mark }))

/-! ### Host accesses (R468, R469, Table 15.2) -/

/-- Is a lease assigned to a confidential virtual machine (R483)? -/
def State.confidential (s : State) (n : Nat) : Bool :=
  (s.leaseOf n).tdi = .locked || (s.leaseOf n).tdi = .run

/-- Does tile `n` belong to a lease assigned to a confidential virtual machine? -/
def State.sealed (s : State) (n : Nat) : Bool :=
  decide ((s.tile n).lease ≠ 0) && s.confidential (s.tile n).lease.toNat

/-- May the host reach a tile? -/
def State.hostReaches (s : State) (n : Nat) : Bool :=
  let e := s.tile n
  e.inHbm && !e.radio && !(decide (e.lease ≠ 0) && s.confidential e.lease.toNat)

/-- Count a denied access (CXL_MEM_DENIED). -/
def denyHost (s : State) : State := { s with host := { s.host with denied := satInc s.host.denied } }

/-- The beat of stack `h` that holds byte `a`, as it leaves the check stage. -/
def readBeat (h a : Nat) (errs : List (Nat × Nat)) (s : State) : Words × State :=
  let m := (s.stack h).mem
  let b := a / 1024 * 1024
  passWords (stackChecked h) errs ⟨m.readBytes b 1024, m.beatPoison b⟩ s

/-- Read for the host within one beat: data, or CXL poison. -/
def hostRead (tag addr len : Nat) (errs : List (Nat × Nat)) (s : State) : State :=
  let n := addr / tileBytes
  if s.hostReaches n then
    let e := s.tile n
    let a := e.byteAt (addr % tileBytes)
    let (w, s0) := readBeat e.stack.toNat a errs s
    let o := a % 1024
    let bad := (List.range 32).any (fun i => w.poison.getLsbD i && decide (o / 32 ≤ i ∧ 32 * i < o + len))
    let s1 := if bad then consumePoison 1 s0 else s0
    s1.emit (.cxlData tag ((w.data.drop o).take len) bad)
  else (denyHost s).emit (.cxlData tag (List.replicate len 0) true)

/-- The parts of `len` bytes at `a` that lie in one 32-byte word each: address and bytes. -/
def wordParts (a : Nat) (data : List Byte) : List (Nat × List Byte) :=
  (List.range ((data.length + a % 32 + 31) / 32)).map (fun i =>
    let lo := max a ((a / 32 + i) * 32)
    (lo, (data.drop (lo - a)).take ((a / 32 + i + 1) * 32 - lo)))

/-- Write one part of a word: a whole word replaces the poison, a part of a poisoned word is dropped and counted. -/
def hostWriteWord (h : Nat) (poison : Bool) (s : State) (w : Nat × List Byte) : State :=
  let m := (s.stack h).mem
  if w.2.length < 32 && m.poisonedAt w.1 then consumePoison 1 s
  else s.modStack h (fun x => { x with mem := (x.mem.writeBytes w.1 w.2).setPoison (w.1 / 32) poison })

/-- Write for the host, or drop. -/
def hostWrite (tag addr : Nat) (data : List Byte) (poison : Bool) (s : State) : State :=
  let n := addr / tileBytes
  if s.hostReaches n then
    let e := s.tile n
    let s1 := (wordParts (e.byteAt (addr % tileBytes)) data).foldl (hostWriteWord e.stack.toNat poison) s
    s1.emit (.cxlAck tag false)
  else (denyHost s).emit (.cxlAck tag true)

/-- Does a request wait for the commit of a MOVE (R283)? -/
def State.blocked (s : State) (r : OpenReq) : Bool :=
  match r.tile with
  | some n => (s.tile n).state = .moving
  | none => false

/-! ### Open slots -/

/-- Perform a beat of a MOVE: a read goes to what is staged, poison and all; a write puts it into the new place. -/
def moveBeat (h n b : Nat) (write : Bool) (errs : List (Nat × Nat)) (s : State) : State :=
  let o := n * tileBytes + 1024 * b
  if write then
    match s.tier.moves.find? (fun m => m.toHbm && decide (m.first + m.next = n)) with
    | some m =>
      let a := m.places.getD m.next 0 * tileBytes + 1024 * b
      (s.modStack h (fun x => { x with mem := x.mem.copyFrom a s.flash.staged o 1024 })).modCopy n
        (fun c => { c with written := c.written + 1 })
    | none => s
  else
    let (w, s1) := readBeat h ((s.tile n).byteAt (1024 * b)) errs s
    ({ s1 with flash := { s1.flash with staged := s1.flash.staged.writeBeat o w.data w.poison } }).modCopy n
      (fun c => { c with read := c.read + 1, bad := c.bad || decide (w.poison ≠ 0) })

/-- Perform a request. -/
def performOpen (h : Nat) (op : OpenOp) (errs : List (Nat × Nat)) (s : State) : State :=
  match op with
  | .hostRead tag addr len => hostRead tag addr len errs s
  | .hostWrite tag addr data poison => hostWrite tag addr data poison s
  | .wipe p b => s.modStack h (fun x => { x with
      mem := x.mem.clearRange (p * tileBytes + 1024 * b) 1024, wipeBeat := x.wipeBeat + 1 })
  | .bootWipe => s
  | .tierBeat n b write => moveBeat h n b write errs s
  | .logBeat => s

/-- The tier engine issues the wipe beats of the place at the head of its list (R281), or of the boot wipe (R262), as far as its
share goes (DESIGN CHOICE, log entry 23: it issues them when an open slot comes). -/
def HbmStack.issueWipes (c : Nat) (x : HbmStack) : Nat → HbmStack
  | 0 => x
  | n + 1 =>
    if !x.waiting.isEmpty || !x.roomFor .bootWipe then x
    else if x.bootWiping then HbmStack.issueWipes c { x with queue := x.queue ++ [⟨.bootWipe, none, c, false⟩] } n
    else match x.wipeQueue with
      | [] => x
      | p :: _ =>
        let b := x.wipeBeat + (x.queue.filter (fun r => r.op.isWipe)).length
        if b < 256 && x.bootWiped then
          HbmStack.issueWipes c { x with queue := x.queue ++ [⟨.wipe p b, none, c, false⟩] } n
        else x

/-- The tile of a MOVE that is being copied (R283): into HBM the next one, to flash the first whose write has not started. -/
def State.copying (s : State) (m : MoveJob) : Option Nat :=
  if m.discard then none
  else if m.toHbm then
    let n := m.first + m.next
    if (s.tile n).state = .moving && !(s.copyOf n).bad then some n else none
  else
    match m.rest.find? (fun n => (s.tile n).state = .moving && !s.flash.inflight.contains n && !s.flash.acked.contains n) with
    | some n => if (s.copyOf n).bad then none else some n
    | none => none

/-- Beats of tile `n` of one kind that wait in a queue. -/
def HbmStack.beatsOf (x : HbmStack) (n : Nat) (write : Bool) : Nat :=
  ((x.queue ++ x.waiting).filter (fun r => match r.op with
    | .tierBeat t _ w => t == n && w == write
    | _ => false)).length

/-- Beats of a tile that may be written: those read, or the beats of the flash pages read. -/
def TileCopy.ready (c : TileCopy) (fromFlash : Bool) : Nat :=
  if fromFlash then 16 * (((List.range 16).find? (fun i => !c.pages.getLsbD i)).getD 16) else c.read

/-- The beat that MOVE `m` has for controller `h`: a read of its tile's place, or a write of what has been read. -/
def State.nextBeat (s : State) (h : Nat) (m : MoveJob) : Option OpenOp :=
  match s.copying m with
  | none => none
  | some n =>
    let e := s.tile n
    let c := s.copyOf n
    let x := s.stack h
    let r := c.read + x.beatsOf n false
    let w := c.written + x.beatsOf n true
    if m.toHbm && decide (m.stack = h) && decide (w < c.ready (e.tier = .flash)) then some (.tierBeat n w true)
    else if e.tier = .hbm && decide (e.stack.toNat = h) && decide (r < 256) then some (.tierBeat n r false)
    else none

/-- The tier engine issues the beats of its moves, in the order of their acceptance, as far as its share goes (DESIGN CHOICE, log
entry 23). -/
def issueMoves (h : Nat) (s : State) : Nat → State
  | 0 => s
  | n + 1 =>
    match s.tier.moves.findSome? (fun m => s.nextBeat h m) with
    | some op =>
      if (s.stack h).waiting.isEmpty && (s.stack h).roomFor op then
        issueMoves h (s.modStack h (fun x => { x with queue := x.queue ++ [⟨op, none, s.cyc, false⟩] })) n
      else s
    | none => s

/-- Has controller `h` anything to do in an open slot? -/
def State.openWork (s : State) (h : Nat) : Bool :=
  let x := s.stack h
  !x.wipeQueue.isEmpty || !x.queue.isEmpty || !x.waiting.isEmpty || s.tier.moves.any (fun m => (s.nextBeat h m).isSome)

/-- OPEN_SLOT: the first request that a MOVE does not block is performed, and waiting ones take the entry. In a gated Tower the
requests wake it (R569); the stacks of a Tower out of service carry nothing (R28). -/
def openSlot (h : Nat) (errs : List (Nat × Nat)) (s : State) : State :=
  if s.rel.towerOut.getLsbD (stackTower h) then s
  else if !s.domainOn (16 + stackTower h) then
    if s.openWork h then touchDomain (16 + stackTower h) s else s
  else if (s.stack h).trained && s.openSlotNow h then
    let s0 := issueMoves h (s.modStack h (fun x => x.issueWipes s.cyc tierMax)) tierMax
    match (s0.stack h).queue.find? (fun r => !s0.blocked r) with
    | none => countWaits h s0
    | some r =>
      let s1 := s0.modStack h (fun x => { x with queue := x.queue.erase r })
      let s2 := countWaits h (countBelfry 0x1202 (some h) 1 (performOpen h r.op errs s1))
      s2.modStack h HbmStack.takeIn
  else s

def execOpenSlot (x : SlotBeat) (s : State) : Host.Outcome State Fault Refusal := .next (openSlot x.stack x.errs s)

/-- HBM_REFRESH_POINT: while HOT is 0 every second one is idle (R258). Queued requests wait past it (Table 8.10). -/
def refreshPoint (h : Nat) (s : State) : State :=
  let x := s.stack h
  if x.trained && s.refreshFrame h && !s.rel.towerOut.getLsbD (stackTower h) then
    let idle := !x.hot && x.parity
    let s1 := s.modStack h (fun y => { y with
      parity := !y.parity, refreshes := if idle then y.refreshes else y.refreshes + 1 })
    countWaits h (if idle then s1 else countBelfry 0x1203 (some h) 1 s1)
  else s

def execHbmRefreshPoint (h : Nat) (s : State) : Host.Outcome State Fault Refusal := .next (refreshPoint h s)

/-- STACK_TEMPERATURE_REPORT, in °C (R258). -/
def stackTemperature (h : Nat) (temp : Int) (s : State) : State :=
  s.modStack h (fun x => { x with hot := if 85 < temp then true else if temp < 80 then false else x.hot })

def execStackTemperatureReport (h : Nat) (temp : Int) (s : State) : Host.Outcome State Fault Refusal :=
  .next (stackTemperature h temp s)

/-! ### A Tower out of service (R28, R469) -/

/-- Answer a host access that fails (R469): CXL poison, or a drop. -/
def denyOp (s : State) (op : OpenOp) : State :=
  match op with
  | .hostRead tag _ len => (denyHost s).emit (.cxlData tag (List.replicate len 0) true)
  | .hostWrite tag _ _ _ => (denyHost s).emit (.cxlAck tag true)
  | _ => s

/-- The requests that wait at the stacks of Tower `t` are never performed: the host's fail, the tier engine's are dropped. -/
def dropQueues (t : Nat) (s : State) : State :=
  (tileRange (6 * t) 6).foldl (fun u h =>
    let x := u.stack h
    ((x.queue ++ x.waiting).map (·.op)).foldl denyOp
      (u.modStack h (fun y => { y with queue := [], waiting := [], wipeQueue := [], wipeBeat := 0 }))) s

/-! ### Wipes (R262, R281) -/

/-- BOOT_WIPE_START: the PHY is trained. -/
def bootWipeStart (h : Nat) (s : State) : State :=
  if s.clk.done && !s.rel.towerOut.getLsbD (stackTower h) && !(s.stack h).trained then
    s.modStack h (fun x => { x with trained := true, bootWiping := true })
  else s

def execBootWipeStart (h : Nat) (s : State) : Host.Outcome State Fault Refusal := .next (bootWipeStart h s)

/-- First byte of the dump region, and its bytes (R261). -/
def dumpBase : Nat := 195584 * tileBytes
def dumpBytes : Nat := 1024 * tileBytes

/-- Does stack `h` hold the dump region? -/
def State.holdsDump (s : State) (h : Nat) : Bool :=
  match s.mapTower with
  | some t => h == 6 * t + 5
  | none => false

/-- BOOT_WIPE_COMPLETE: every place but the dump region is zero, and every place that is not reserved is free. The tier engine reports
it once its last beat is written; the model keeps no count of the 50,331,648 beats (log entry 23). -/
def bootWipeComplete (h : Nat) (s : State) : State :=
  if (s.stack h).bootWiping then
    let keep := s.holdsDump h
    s.modStack h (fun x => { x with
      bootWiping := false, bootWiped := true, used := [], wipeQueue := [], wipeBeat := 0
      queue := x.queue.filter (fun r => r.op != .bootWipe)
      mem := if keep then Mem.empty.copyFrom dumpBase x.mem dumpBase dumpBytes else Mem.empty })
  else s

def execBootWipeComplete (h : Nat) (s : State) : Host.Outcome State Fault Refusal := .next (bootWipeComplete h s)

/-- PLACE_WIPE_COMPLETE: all 256 beats of the head of the wipe list are zero; the place is free. -/
def placeWipeComplete (h : Nat) (s : State) : State :=
  let x := s.stack h
  match x.wipeQueue with
  | [] => s
  | p :: rest =>
    if 256 ≤ x.wipeBeat then
      s.modStack h (fun y => { y with wipeQueue := rest, wipeBeat := 0, used := y.used.filter (· != p) })
    else s

def execPlaceWipeComplete (h : Nat) (s : State) : Host.Outcome State Fault Refusal := .next (placeWipeComplete h s)

end Sys2Proof.Machine
end

