-- ==== Sys2Proof/Machine/Tier.lean ====
section
/-! DEFINITION. The tier engine's commands (08 'The Tile Map'), MOVE and its commits, the rebuild of the Tile Map, and
writes into host memory with the migration log (13, R461). -/

namespace Sys2Proof.Machine

open Sys2Proof

/-! ### Writes into host memory (R461) -/

/-- Set one bit of a logging bitmap in HBM: the tier engine's update takes an open slot (R259). The bit counts as set at once, as R461
has it before the write itself (DEDUCED, log entry 72). -/
def setLogBit (tile bit : Nat) (s : State) : State :=
  let n := tile + bit / 8 / tileBytes
  let e := s.tile n
  if e.inHbm then
    let a := e.byteAt (bit / 8 % tileBytes)
    arrive e.stack.toNat .logBeat none (s.modStack e.stack.toNat (fun x => { x with
      mem := x.mem.write8 a (x.mem.read8 a ||| BitVec.twoPow 8 (bit % 8)) }))
  else s

/-- First tile of the active bitmap of a lease. -/
def LogState.active (l : LogState) : Nat := l.tile.toNat + (if l.activeB then 8 else 0)

/-- Log one page that a write of lease `n` touches. -/
def logPage (n : Nat) (s : State) (page : Nat) : State :=
  let l := (s.leaseOf n).log
  if l.iova.toNat ≤ page ∧ page < l.iova.toNat + l.pages.toNat then setLogBit l.active (page - l.iova.toNat) s
  else s.modLease n (fun x => { x with log := { x.log with overflow := true } })

/-- A memory write that the device issues for function `n`: the pages of a lease with logging on are logged first. -/
def writeHost (n addr : Nat) (data : List Byte) (s : State) : State :=
  let pages := (List.range ((addr + data.length - 1) / 4096 + 1 - addr / 4096)).map (addr / 4096 + ·)
  let s1 := if n ≠ 0 && (s.leaseOf n).log.on && !data.isEmpty then pages.foldl (logPage n) s else s
  s1.emit (.hostWrite n addr data)

/-! ### Checks (R277 to R279) -/

/-- May an issuer name a tile (R278)? -/
def State.mayName (s : State) (iss : Issuer) (n : Nat) : Bool :=
  let e := s.tile n
  match iss with
  | .dome => true
  | .ring f _ _ => !e.radio && (decide (f = 0) || decide (e.lease.toNat = f))

/-- Is FIRST, COUNT a legal range of at most `most` tiles? -/
def rangeOk (first count most : Nat) : Bool := decide (0 < count ∧ count ≤ most ∧ first + count ≤ tileCount)

/-- Most tiles of a command. -/
def commandMax : Nat := 65536

/-- Is a transfer of tile `n` accepted in this BCLK: its decision is due, and no row of Table 8.5 applies? -/
def State.accepting (s : State) (n : Nat) : Bool :=
  s.spires.keys.any (fun k => (s.spire k).xb.requests.any (fun r =>
    match r.desc with
    | some x => decide ((decodeXferDesc x).tile = n) && decide (r.at_ + 64 ≤ s.cyc / 2 * 2 + 1)
        && (s.xferRefusal k r (decodeXferDesc x)).isNone
    | none => false))

/-- Is a tile in the transfer table? An acceptance of the same BCLK comes first (Table 8.10). -/
def State.inTable (s : State) (n : Nat) : Bool := s.inTransfer n || s.accepting n

/-- Neither pinned nor in the transfer table. -/
def State.loose (s : State) (n : Nat) : Bool := (s.tile n).pin = 0 && !s.inTable n

/-- Does a host command name a tile of the radio partition? That is refused, and not left to R480 (R278). -/
def State.hostNamesRadio (s : State) (iss : Issuer) (l : List Nat) : Bool := iss.isHost && l.any (fun n => (s.tile n).radio)

/-- Leases that hold tiles of a list. -/
def State.holders (s : State) (l : List Nat) : List Nat := (l.map (fun n => (s.tile n).lease.toNat)).eraseDups

/-- Would tiles `l` take the HBM usage of a lease that holds some of them above its quota? -/
def State.hbmShort (s : State) (l : List Nat) : Bool :=
  (s.holders l).any (fun x => s.hbmOver x ((l.filter (fun n => decide ((s.tile n).lease.toNat = x))).length))

/-- The same for the flash usage. -/
def State.flashShort (s : State) (l : List Nat) : Bool :=
  (s.holders l).any (fun x => s.flashOver x ((l.filter (fun n => decide ((s.tile n).lease.toNat = x))).length))

/-- Tiles that have a copy in flash or are moving there. -/
def State.flashHeld (s : State) : Nat :=
  (s.tier.map.entries.filter (fun p => p.2.flashCopy || (p.2.state = .moving && s.tier.moves.any (fun m => !m.toHbm &&
    decide (m.first ≤ p.1 ∧ p.1 < m.first + m.count))))).length

/-- Would `n` more copies exceed FLASH_CAP? -/
def State.flashFull (s : State) (n : Nat) : Bool := decide (s.flash.cap < s.flashHeld + n)

/-! ### Writes to flash (R290) -/

/-- Most unacknowledged tiles of flash writes. -/
def flashInflightMax : Nat := 256

/-- Tiles whose write may start: allocated ones, and those of moves to flash that have been read whole. -/
def State.flashWaits (s : State) : List Nat :=
  s.flash.waits ++ (s.tier.moves.filter (fun m => !m.toHbm && !m.discard)).flatMap (fun m =>
    m.rest.filter (fun n => (s.tile n).state = .moving && !s.flash.inflight.contains n && !s.flash.acked.contains n
      && decide ((s.copyOf n).read = 256) && !(s.copyOf n).bad))

/-- Start the write of one tile. -/
def FlashState.startWrite (f : FlashState) (n : Nat) : FlashState :=
  { f with waits := f.waits.erase n, inflight := f.inflight ++ [n] }

/-- Start flash writes, at most 256 unacknowledged at once; none once NAND programs have stopped (R291). A gated controller wakes first
(R569). -/
def startFlashWrites (s : State) : State :=
  if s.flash.noProgram then s
  else if !s.domainOn 26 then (if s.flashWaits.isEmpty then s else touchDomain 26 s)
  else { s with flash := (s.flashWaits.take (flashInflightMax - s.flash.inflight.length)).foldl FlashState.startWrite s.flash }

/-! ### ALLOC, FREE, PIN, UNPIN, ASSIGN, QUERY -/

/-- Put zeroed tiles into HBM places. -/
def allocHbm (tiles : List Nat) (h lease : Nat) (radio : Bool) (pin : Nat) (s : State) : State :=
  let ps := s.lowest h tiles.length
  (List.zip tiles ps).foldl (fun t np =>
    (zeroPlace h np.2 t).setTile np.1 ⟨.hbm, .ready, radio, false, BitVec.ofNat 12 lease, BitVec.ofNat 7 pin,
      BitVec.ofNat 5 h, BitVec.ofNat 18 np.2⟩) (takePlaces h ps s)

/-- Put zeroed tiles into flash: each is READY at once, and its zeros are written as R290 says (DESIGN CHOICE, log entry 144). -/
def allocFlash (tiles : List Nat) (lease : Nat) (radio : Bool) (s : State) : State :=
  startFlashWrites (tiles.foldl (fun t n =>
    let t1 := trimFlash n t
    let t2 := { t1 with flash := { t1.flash with waits := t1.flash.waits ++ [n] } }
    t2.setTile n ⟨.flash, .ready, radio, true, BitVec.ofNat 12 lease, 0, 0, 0⟩) s)

/-- The body of ALLOC. -/
def allocBody (iss : Issuer) (a : AllocArgs) (s : State) : State × Option Reply :=
  let tiles := tileRange a.first a.count
  if !s.tier.ready then refuse stConflict s
  else if !rangeOk a.first a.count commandMax || decide (4096 ≤ a.lease) || !(a.tier = 1 || a.tier = 2)
      || (a.tier = 1 && decide (stackCount ≤ a.stack)) then argError iss s
  else if (a.radio && (iss.isHost || a.lease != 0)) || s.hostNamesRadio iss tiles then refuse stBadArg s
  else if !iss.isHost && iss.isLease then argError iss s
  else if tiles.any (fun n => !(s.mayName iss n)) then argError iss s
  else if tiles.any (fun n => (s.tile n).state ≠ .free) then refuse stConflict s
  else if a.tier = 2 && !s.flash.ready then refuse stConflict s
  else if a.tier = 1 then
    if s.hbmOver a.lease a.count || decide (s.freePlaces a.stack < a.count) then refuse stNoResource s
    else (allocHbm tiles a.stack a.lease a.radio 0 s, some (.of stOk))
  else if s.flashOver a.lease a.count || s.flashFull a.count then refuse stNoResource s
  else (allocFlash tiles a.lease a.radio s, some (.of stOk))

def execAlloc (iss : Issuer) (a : AllocArgs) (s : State) : Host.Outcome State Fault Refusal :=
  .next (queueCommand 1 iss (allocBody iss a) s)

/-- Free one tile: its place is queued for wipe, its flash copy trimmed. -/
def freeTile (n : Nat) (s : State) : State :=
  let e := s.tile n
  let s1 := if e.tier = .hbm then freePlace e.stack.toNat e.place.toNat s else s
  (trimFlash n s1).setTile n TileEntry.free

/-- The body of FREE. -/
def freeBody (iss : Issuer) (first count : Nat) (s : State) : State × Option Reply :=
  let tiles := tileRange first count
  if !s.tier.ready then refuse stConflict s
  else if !rangeOk first count commandMax then argError iss s
  else if s.hostNamesRadio iss tiles then refuse stBadArg s
  else if tiles.any (fun n => !s.mayName iss n) then argError iss s
  else if tiles.any (fun n => !((s.tile n).state = .ready || (s.tile n).state = .lost) || !s.loose n)
      || (iss.isHost && tiles.any (fun n => s.sealed n)) then refuse stConflict s
  else (tiles.foldl (fun t n => freeTile n t) s, some (.of stOk))

def execFree (iss : Issuer) (first count : Nat) (s : State) : Host.Outcome State Fault Refusal :=
  .next (queueCommand 2 iss (freeBody iss first count) s)

/-- The body of PIN. -/
def pinBody (iss : Issuer) (first count : Nat) (s : State) : State × Option Reply :=
  let tiles := tileRange first count
  if !s.tier.ready then refuse stConflict s
  else if !rangeOk first count commandMax then argError iss s
  else if s.hostNamesRadio iss tiles then refuse stBadArg s
  else if tiles.any (fun n => !s.mayName iss n) then argError iss s
  else if tiles.any (fun n => (s.tile n).state ≠ .ready || (s.tile n).pin = 127) then refuse stConflict s
  else (tiles.foldl (fun t n => t.modTile n (fun e => { e with pin := e.pin + 1 })) s, some (.of stOk))

def execPin (iss : Issuer) (first count : Nat) (s : State) : Host.Outcome State Fault Refusal :=
  .next (queueCommand 4 iss (pinBody iss first count) s)

/-- The body of UNPIN. -/
def unpinBody (iss : Issuer) (first count : Nat) (s : State) : State × Option Reply :=
  let tiles := tileRange first count
  if !s.tier.ready then refuse stConflict s
  else if !rangeOk first count commandMax then argError iss s
  else if s.hostNamesRadio iss tiles then refuse stBadArg s
  else if tiles.any (fun n => !s.mayName iss n) then argError iss s
  else if tiles.any (fun n => !((s.tile n).state = .ready || (s.tile n).state = .lost) || (s.tile n).pin = 0) then
    refuse stConflict s
  else (tiles.foldl (fun t n => t.modTile n (fun e => { e with pin := e.pin - 1 })) s, some (.of stOk))

def execUnpin (iss : Issuer) (first count : Nat) (s : State) : Host.Outcome State Fault Refusal :=
  .next (queueCommand 5 iss (unpinBody iss first count) s)

/-- Most tiles of a QUERY. -/
def queryMax : Nat := 4096

/-- The body of QUERY: the entries go to the buffer, 8 bytes each, in tile order. -/
def queryBody (iss : Issuer) (first count buffer : Nat) (s : State) : State × Option Reply :=
  let tiles := tileRange first count
  if !rangeOk first count queryMax then argError iss s
  else if s.hostNamesRadio iss tiles then refuse stBadArg s
  else if tiles.any (fun n => !s.mayName iss n) then argError iss s
  else
    let data := tiles.foldr (fun n acc => leBytes (s.tile n).word 8 ++ acc) []
    (match iss with
     | .dome => s.emit (.domeWrite buffer data)
     | .ring f _ _ => writeHost f buffer data s, some ⟨stOk, count, 0⟩)

def execQuery (iss : Issuer) (first count buffer : Nat) (s : State) : Host.Outcome State Fault Refusal :=
  .next (queueCommand 6 iss (queryBody iss first count buffer) s)

/-- The body of ASSIGN. -/
def assignBody (iss : Issuer) (first count lease : Nat) (s : State) : State × Option Reply :=
  let tiles := tileRange first count
  let fresh := tiles.filter (fun n => (s.tile n).lease.toNat ≠ lease)
  if !s.tier.ready then refuse stConflict s
  else if !rangeOk first count commandMax then argError iss s
  else if s.hostNamesRadio iss tiles then refuse stBadArg s
  else if decide (4096 ≤ lease) || tiles.any (fun n => !s.mayName iss n) then argError iss s
  else if tiles.any (fun n => (s.tile n).state ≠ .ready || !s.loose n)
      || (iss.isHost && tiles.any (fun n => s.sealed n)) then refuse stConflict s
  else if s.hbmOver lease ((fresh.filter (fun n => (s.tile n).tier = .hbm)).length)
      || s.flashOver lease ((fresh.filter (fun n => (s.tile n).flashCopy)).length) then refuse stNoResource s
  else (tiles.foldl (fun t n => t.modTile n (fun e => { e with lease := BitVec.ofNat 12 lease })) s, some (.of stOk))

def execAssign (iss : Issuer) (first count lease : Nat) (s : State) : Host.Outcome State Fault Refusal :=
  .next (queueCommand 7 iss (assignBody iss first count lease) s)

/-! ### BOUNDARY (R284, R285) -/

/-- Every tile that a list of ranges names, in order. -/
def rangeTiles (l : List TileRange) : List Nat := l.flatMap (fun r => tileRange r.first r.count)

/-- The check of the joins, in list order. -/
def joinCheck (s : State) (lease : Nat) (leaving : List Nat) : List TileRange → Nat → Tab Nat → Option Nat
  | [], _, _ => none
  | r :: rest, used, taken =>
    let used1 := used + r.count
    let taken1 := taken.modify 0 r.stack (· + r.count)
    if (tileRange r.first r.count).any (fun n => (s.tile n).state ≠ .free && !leaving.contains n) then some stConflict
    else if lease ≠ 0 ∧ (s.quotaOf lease).hbmQuota.toNat < used1 then some stNoResource
    else if s.freePlaces r.stack < taken1.get 0 r.stack then some stNoResource
    else joinCheck s lease leaving rest used1 taken1

/-- The check of the leaves. -/
def leaveCheck (s : State) (lease : Nat) : List Nat → Option Nat
  | [] => none
  | n :: r =>
    let e := s.tile n
    if e.radio || e.lease.toNat ≠ lease then some stBadArg
    else if !e.inHbm || e.pin ≠ 1 || s.inTable n then some stConflict
    else leaveCheck s lease r

/-- The body of BOUNDARY. -/
def boundaryBody (iss : Issuer) (lease : Nat) (leaves joins : List TileRange) (s : State) : State × Option Reply :=
  let l := if iss.isLease then iss.lease else lease
  let out := rangeTiles leaves
  let inn := rangeTiles joins
  if !s.tier.ready then refuse stConflict s
  else if decide (64 < leaves.length) || decide (64 < joins.length) || decide (4096 ≤ l)
      || (leaves ++ joins).any (fun r => !rangeOk r.first r.count commandMax)
      || joins.any (fun r => decide (stackCount ≤ r.stack))
      || !decide out.Nodup || !decide inn.Nodup then argError iss s
  else if s.hostNamesRadio iss (out ++ inn) then refuse stBadArg s
  else
    match leaveCheck s l out with
    | some st => refuseFor iss st s
    | none =>
      match joinCheck s l out joins (s.hbmUsed l - out.length) Tab.empty with
      | some st => refuseFor iss st s
      | none =>
        let plan := joins.map (fun r => (r, s.freePlaces r.stack))
        let s1 := out.foldl (fun t n => freeTile n t) s
        (plan.foldl (fun t p => allocHbm (tileRange p.1.first p.1.count) p.1.stack l false 1 t) s1, some (.of stOk))

def execBoundary (iss : Issuer) (lease : Nat) (leaves joins : List TileRange) (s : State) :
    Host.Outcome State Fault Refusal := .next (queueCommand 8 iss (boundaryBody iss lease leaves joins) s)

/-! ### MOVE (R283, R290) -/

/-- Why MOVE refuses these tiles, if it does. -/
def State.moveRefusal (s : State) (iss : Issuer) (a : MoveArgs) : Option Nat :=
  let tiles := tileRange a.first a.count
  let toHbm := decide (a.tier = 1)
  let gainHbm := tiles.filter (fun n => (s.tile n).tier = .flash)
  let gainFlash := tiles.filter (fun n => !(s.tile n).flashCopy)
  if !s.tier.ready then some stConflict
  else if !rangeOk a.first a.count commandMax || !(a.tier = 1 || a.tier = 2)
      || (toHbm && decide (stackCount ≤ a.stack)) || tiles.any (fun n => !s.mayName iss n) then some stBadArg
  else if tiles.any (fun n => (s.tile n).state ≠ .ready || !s.loose n) then some stConflict
  else if toHbm && tiles.any (fun n => (s.tile n).tier = .hbm && (s.tile n).stack.toNat == a.stack) then some stBadArg
  else if !toHbm && tiles.any (fun n => (s.tile n).tier = .flash) then some stBadArg
  else if a.discard && (toHbm || !gainFlash.isEmpty) then some stBadArg
  else if (!toHbm || !gainHbm.isEmpty) && !s.flash.ready then some stConflict
  else if toHbm && (decide (s.freePlaces a.stack < a.count) || s.hbmShort gainHbm) then some stNoResource
  else if !toHbm && (s.flashFull gainFlash.length || s.flashShort gainFlash) then some stNoResource
  else none

/-- The body of MOVE: an accepted move stays in progress. -/
def moveBody (iss : Issuer) (a : MoveArgs) (s : State) : State × Option Reply :=
  match s.moveRefusal iss a with
  | some st =>
    if rangeOk a.first a.count commandMax && s.hostNamesRadio iss (tileRange a.first a.count) then refuse st s
    else refuseFor iss st s
  | none =>
    let toHbm := decide (a.tier = 1)
    let ps := if toHbm then s.lowest a.stack a.count else []
    let m : MoveJob := ⟨iss, a.first, a.count, toHbm, a.stack, a.keep, a.discard, ps, 0, 0, 0⟩
    let s1 := if toHbm then takePlaces a.stack ps s else s
    let s2 := (tileRange a.first a.count).foldl (fun t n => t.modTile n (fun e => { e with state := .moving })) s1
    let towers := (if toHbm then [16 + stackTower a.stack] else [])
      ++ ((tileRange a.first a.count).filter (fun n => (s.tile n).tier = .hbm)).map
          (fun n => 16 + stackTower (s.tile n).stack.toNat)
    let s3 := touchDomains (if s.moveUsesFlash m then 26 :: towers else towers) s2
    (startFlashWrites { s3 with tier := { s3.tier with moves := s3.tier.moves ++ [m] } }, none)

def execMove (iss : Issuer) (a : MoveArgs) (s : State) : Host.Outcome State Fault Refusal :=
  .next (queueCommand 3 iss (moveBody iss a) s)

/-- Are the domains of a move's next tile on: the Towers of its stacks, and the flash controllers? -/
def State.moveAwake (s : State) (m : MoveJob) : Bool :=
  let e := s.tile (m.first + m.next)
  (!m.toHbm || s.domainOn (16 + stackTower m.stack))
  && (decide (e.tier ≠ .hbm) || s.domainOn (16 + stackTower e.stack.toNat))
  && (!s.moveUsesFlash m || s.domainOn 26)

/-- May the next tile of a move commit: a write to flash once it is acknowledged, a copy into HBM once its 256 beats are written, a
tile whose source could not be read at once? -/
def State.commitReady (s : State) (m : MoveJob) : Bool :=
  let n := m.first + m.next
  (s.tile n).state = .lost
  || (s.moveAwake m && (m.discard || (s.copyOf n).bad
      || (if m.toHbm then decide ((s.copyOf n).written = 256) else s.flash.acked.contains n)))

/-- Host requests that waited for a tile go on at its new stack (R283). -/
def rerouteHost (n old new : Nat) (s : State) : State :=
  if old = new then s
  else
    let x := s.stack old
    let mine (r : OpenReq) : Bool := r.tile == some n
    let l := (x.queue ++ x.waiting).filter mine
    let s1 := s.modStack old (fun y => { y with
      queue := y.queue.filter (fun r => !mine r), waiting := y.waiting.filter (fun r => !mine r) })
    (s1.modStack old HbmStack.takeIn).modStack new (fun y => { y with waiting := y.waiting ++ l }.takeIn)

/-- Commit one tile into HBM: its entry changed in one update, its source released. Its beats have been written. -/
def commitHbm (m : MoveJob) (n : Nat) (s : State) : State :=
  let e := s.tile n
  let p := m.places.getD m.next 0
  let e1 : TileEntry := { e with
    tier := .hbm, state := .ready, stack := BitVec.ofNat 5 m.stack, place := BitVec.ofNat 18 p }
  if e.tier = .flash then
    let s1 := { s with flash := s.flash.clearRetry n }
    if m.keep then s1.setTile n e1 else (trimFlash n s1).setTile n { e1 with flashCopy := false }
  else rerouteHost n e.stack.toNat m.stack ((freePlace e.stack.toNat e.place.toNat s).setTile n e1)

/-- Commit one tile into flash. -/
def commitFlash (m : MoveJob) (n : Nat) (s : State) : State :=
  let e := s.tile n
  let s1 := freePlace e.stack.toNat e.place.toNat s
  let s2 := if m.discard then s1 else { s1 with flash := { s1.flash with acked := s1.flash.acked.erase n } }
  s2.setTile n { e with tier := .flash, state := .ready, flashCopy := true, stack := 0, place := 0 }

/-- The next tile of move `m` commits, or is counted as lost. -/
def commitTile (m : MoveJob) (s : State) : State × MoveJob :=
  let n := m.first + m.next
  let e := s.tile n
  let lost := ({ m with next := m.next + 1, lost := m.lost + 1 } : MoveJob)
  let back (t : State) : State := if m.toHbm then freePlace m.stack (m.places.getD m.next 0) t else t
  if e.state = .lost then (endCopy n (back s), lost)
  else if (s.copyOf n).bad then (endCopy n (back (loseTile n (consumePoison 1 s))), lost)
  else
    (countBelfry 0x1301 none 1 (endCopy n (if m.toHbm then commitHbm m n s else commitFlash m n s)),
      { m with next := m.next + 1, moved := m.moved + 1 })

/-- MOVE_TILE_COMMIT: the first move whose next tile is ready commits it; after its last tile the move completes. -/
def moveTileCommit (s : State) : State :=
  match s.tier.moves.find? (fun m => s.commitReady m) with
  | none => s
  | some m =>
    let (s1, m1) := commitTile m s
    if m1.next = m1.count then
      startFlashWrites (complete m.issuer 3 (moveReply m1)
        { s1 with tier := { s1.tier with moves := s1.tier.moves.erase m } })
    else
      startFlashWrites { s1 with tier := { s1.tier with
        moves := s1.tier.moves.map (fun x => if x = m then m1 else x) } }

def execMoveTileCommit (s : State) : Host.Outcome State Fault Refusal := .next (moveTileCommit s)

/-! ### The rebuild (R263, R289, R292, R293) -/

/-- The packages of the card, as Table 8.8 allows them: at most four of a channel, blocks of a channel by number, at most 128 TiB in
all. -/
def cardFlash : FlashFound :=
  let blocks := Config.flashBlocks % (2 ^ 20 + 1)
  ⟨Config.flashPackages % 5, blocks, Config.flashPages % (2 ^ 29 / max 1 blocks + 1), Config.flashMarks.filter (fun b => decide (b < 2 ^ 24))⟩

/-- What the flash controllers find in the packages at a boot: factory marks are read at the first boot (R289). -/
def FlashState.find (f : FlashState) (x : FlashFound) : FlashState :=
  let f1 := { f with found := x }
  if f.found.packages = 0 then x.marks.foldl FlashState.retire f1 else f1

/-- The map with no flash tiles (R293). -/
def dropFlashTiles (s : State) : State :=
  s.tier.map.keys.foldl (fun t n => t.modTile n (fun e =>
    if e.tier = .flash then TileEntry.free else { e with flashCopy := false })) s

/-- TILE_MAP_REBUILD_COMPLETE: after a reset the packages are those `x` and the map holds the tiles with a flash copy; after the
loss of the map Tower the entries stand. With no packages or no Tower the map holds no flash tiles. -/
def tileMapRebuild (x : FlashFound) (s : State) : State :=
  if s.tier.ready || !s.clk.done then s
  else
    let f := if s.tier.rebuilding then s.flash else s.flash.find x
    let present := decide (f.found.packages ≠ 0) && s.mapTower.isSome
    let s1 := { s with
      tier := { s.tier with ready := true, rebuilding := false }
      flash := { f with present := present, ready := present, clean := present && f.journal } }
    if !present then dropFlashTiles s1
    else if s.tier.rebuilding then s1
    else s1.flash.copies.foldl (fun t n => t.setTile n ⟨.flash, .ready, false, true, 0, 0, 0, 0⟩) s1

def execTileMapRebuildComplete (s : State) : Host.Outcome State Fault Refusal := .next (tileMapRebuild cardFlash s)

end Sys2Proof.Machine
end

