-- ==== Sys2Proof/Machine/BestEffort.lean ====
section
/-! DEFINITION. Best-effort traffic (11): routes, admission, weighted fair queueing, shapers, meters, delivery, samples. -/

namespace Sys2Proof.Machine

open Sys2Proof

/-- Change the traffic manager. -/
def State.modBe (s : State) (f : BeState → BeState) : State := { s with be := f s.be }

/-- Queue `q` of lane `n`. -/
def State.beQueue (s : State) (n q : Nat) : BeQueue := s.be.queues.get BeQueue.reset (n * 8 + q)

/-- Change queue `q` of lane `n`. -/
def State.modBeQueue (s : State) (n q : Nat) (f : BeQueue → BeQueue) : State :=
  s.modBe (fun b => { b with queues := b.queues.modify BeQueue.reset (n * 8 + q) f })

/-- Meter of lease `m`. -/
def State.meter (s : State) (m : Nat) : Meter := s.be.meters.get Meter.reset m

/-- Change the meter of lease `m`. -/
def State.modMeter (s : State) (m : Nat) (f : Meter → Meter) : State :=
  s.modBe (fun b => { b with meters := b.meters.modify Meter.reset m f })

/-- The lane that the route table gives for a DST_CHIP (R383). -/
def State.beRoute (s : State) (chip : Nat) : Option Nat :=
  let r := (s.be.routes.get 0 chip).toNat
  if bitAt r 7 then some (r % 64) else none

/-! ### Fields of a best-effort cell (Table 11.1) -/

def Cell.beQueue (c : Cell) : Nat := c.infoBytes 24 1 % 8
def Cell.beColour (c : Cell) : Nat := c.infoBytes 24 1 / 16 % 4
def Cell.beSrcLease (c : Cell) : Nat := c.infoBytes 26 2 % 4096
def Cell.beDstLease (c : Cell) : Nat := c.infoBytes 28 2 % 4096

/-- TYPE_INFO of a best-effort cell. -/
def beInfo (queue colour srcLease dstLease user : Nat) : BitVec 128 :=
  BitVec.ofNat 128 (queue + colour * 2 ^ 4 + srcLease * 2 ^ 16 + dstLease * 2 ^ 32 + user * 2 ^ 64)

/-! ### Admission and the fair queue (R385, R388) -/

/-- Cell buffers of the pool. -/
def bePool : Nat := 2048

/-- Buffers in use (POOL_USED). -/
def BeState.used (b : BeState) : Nat := (b.queues.entries.map (fun p => p.2.cells.length)).sum

/-- May a cell of a colour (0 green, 1 yellow) be admitted (R385)? -/
def State.admits (s : State) (n q colour : Nat) : Bool :=
  let u := s.beQueue n q
  decide (s.be.used < bePool) && decide (u.weight ≠ 0) && decide (u.cells.length < u.qLimit.toNat)
    && (colour != 1 || decide (u.cells.length < u.yLimit.toNat))

/-- The finish tag of a cell whose start tag is `st` (R388). A WEIGHT of 0 gives no quotient, so the tag is then a free
value. -/
def State.finishTag (s : State) (st : DWord) (len weight : Nat) : DWord :=
  if weight = 0 then BitVec.ofNat 64 s.freeValue else st + BitVec.ofNat 64 ((len * 65536 + weight - 1) / weight)

/-- The virtual time of lane `n`. -/
def State.vtime (s : State) (n : Nat) : DWord := s.be.vtime.get 0 n

/-- Put a cell into a queue; a queue that wakes starts at the virtual time. -/
def enqueue (n q : Nat) (c : Cell) (s : State) : State :=
  let f := s.finishTag (s.vtime n) c.length (s.beQueue n q).weight.toNat
  s.modBeQueue n q (fun u => { u with
    cells := u.cells ++ [⟨c, s.now⟩], finish := if u.cells.isEmpty then f else u.finish })

/-- Count cells refused or discarded. -/
def beDrop (n q k : Nat) (s : State) : State := s.modBeQueue n q (fun u => { u with drops := satAdd u.drops k })

/-! ### Meters (R392, Table 11.2) -/

/-- Colours: green, yellow, red. -/
inductive Colour where
  | green | yellow | red
  deriving DecidableEq, Repr

/-- The colour that a meter gives a cell of `b` units with a pre-colour, and the counts Tc and Tp after its debit. -/
def Meter.colour (m : Meter) (b : Nat) (yellow : Bool) : Colour × Nat × Nat :=
  let pre := if yellow then Colour.yellow else Colour.green
  let two (blind : Bool) : Colour × Nat × Nat :=
    if m.tp < b then (.red, m.tc, m.tp)
    else if (!blind && yellow) || decide (m.tc < b) then (.yellow, m.tc, m.tp - b)
    else (.green, m.tc - b, m.tp - b)
  let four (blind : Bool) : Colour × Nat × Nat :=
    if (blind || !yellow) && decide (b ≤ m.tc) then (.green, m.tc - b, m.tp)
    else if b ≤ m.tp then (.yellow, m.tc, m.tp - b)
    else (.red, m.tc, m.tp)
  match m.modeNow.toNat with
  | 1 => two true
  | 2 => two false
  | 3 => four true
  | 4 => four false
  | _ => (pre, m.tc, m.tp)

/-! ### Delivery (R394, R491) -/

/-- Bytes of a slot of the receive ring. -/
def rxSlot : Nat := 4096

/-- Deliver a cell to the receive ring of its DST_LEASE: the payload, header bytes 0 to 59, then PHASE. -/
def beDeliver (c : Cell) (s : State) : State :=
  let n := c.beDstLease
  let r := (s.func n).rx
  if !s.leaseEnabled n || !r.enable || r.error || decide (2 ^ r.log2.toNat ≤ r.used) then
    s.modBe (fun b => { b with rxDrops := satInc b.rxDrops })
  else
    let a := r.base.toNat + r.tail.toNat * rxSlot
    let s1 := writeHost n (a + 64) c.payload s
    let s2 := writeHost n a (c.bytes.take 60) s1
    let s3 := writeHost n (a + 60) (leBytes (b2n r.phase) 4) s2
    let wraps := decide (r.tail.toNat + 1 = 2 ^ r.log2.toNat)
    s3.modFunc n (fun f => { f with rx := { f.rx with
      used := f.rx.used + 1, tail := if wraps then 0 else f.rx.tail + 1, phase := if wraps then !f.rx.phase else f.rx.phase } })

/-! ### BE_SEND (R393) -/

/-- The cell of a send. A cell for this chip is on no lane, so its PERIOD and STEP are free values. -/
def State.beCell (s : State) (lease colour : Nat) (a : BeArgs) : Cell :=
  { type := cellBe, figure := s.fab.figure % 8, hops := 0, dst := a.dstChip, src := s.chipId,
    pavane := (s.image.map (·.id)).getD 0, period := BitVec.ofNat 32 s.freeValue, flow := noFlow, step := s.freeValue % 8192,
    seq := 0, info := beInfo a.queue colour lease a.dstLease a.user.toNat, poison := 0,
    payload := (List.range a.len).map (fun i => a.payload.getD i 0) }

/-- Are the arguments of a send in their ranges? -/
def BeArgs.inRange (a : BeArgs) : Bool :=
  decide (a.queue < 8 ∧ a.colour < 2 ∧ a.len ≤ payloadMax ∧ a.dstLease < 4096 ∧ a.dstChip < 65536)

/-- A send of a lease counts its colour and takes its debit. -/
def beMetered (m : Nat) (r : Colour × Nat × Nat) (s : State) : State :=
  if m = 0 then s
  else s.modMeter m (fun x => { x with
    tc := r.2.1, tp := r.2.2
    green := if r.1 = .green then satInc x.green else x.green
    yellow := if r.1 = .yellow then satInc x.yellow else x.yellow })

/-- A red send is refused and counted. -/
def beRed (m : Nat) (s : State) : State :=
  countBelfry 0x1101 (some m) 1 (s.modMeter m (fun x => { x with red := satInc x.red }))

/-- The body of BE_SEND, in the order of R393. -/
def beSendBody (iss : Issuer) (a : BeArgs) (s : State) : State × Option Reply :=
  let m := iss.lease
  if iss.isLease && (!(s.meter m).qmask.getLsbD a.queue || !a.inRange) then refuse stBadArg s
  else if !a.inRange then argError iss s
  else
    let own := decide (a.dstChip = s.chipId)
    match if own then some 0 else s.beRoute a.dstChip with
    | none => refuse stBadArg s
    | some n =>
      let b := (64 + a.len) * 256
      let pre := decide (a.colour = 1)
      let r := if m = 0 then (if pre then Colour.yellow else Colour.green, 0, 0) else (s.meter m).colour b pre
      let c := s.beCell m (if r.1 = .yellow then 1 else 0) a
      if r.1 = .red then (beRed m s, some (.of stNoResource))
      else if own then (beDeliver c (beMetered m r s.useFree), some (.of stOk))
      else if !s.admits n a.queue c.beColour then (beDrop n a.queue 1 s, some (.of stNoResource))
      else ((enqueue n a.queue c (beMetered m r s)).useFree, some (.of stOk))

def execBeSend (iss : Issuer) (a : BeArgs) (s : State) : Host.Outcome State Fault Refusal :=
  .next (queueCommand 0x10 iss (beSendBody iss a) s)

/-! ### Refills (R390 to R392) -/

/-- A refill of a shaper: staged values take effect, then the addition, capped at the burst. -/
def BeQueue.refill (u : BeQueue) : BeQueue :=
  let u := { u with shapeOn := u.shapeEn, rateNow := u.rate, burstNow := u.burst }
  if u.shapeOn then { u with tokens := min (u.tokens + u.rateNow.toNat) (u.burstNow.toNat * 256 : Nat) } else u

/-- A refill of a meter. -/
def Meter.refill (m : Meter) : Meter :=
  { m with
    modeNow := m.mode, cirNow := m.cir, cbsNow := m.cbs, pirNow := m.pir, pbsNow := m.pbs
    tc := min (m.tc + m.cir.toNat) (m.cbs.toNat * 256)
    tp := min (m.tp + m.pir.toNat) (m.pbs.toNat * 256) }

/-- TOKEN_REFILL (R391): hall time has reached a whole microsecond since the last refill. -/
def tokenRefill (s : State) : State :=
  let us := s.now / nsUnits 1000
  if s.be.lastRefill < us then
    s.modBe (fun b => { b with
      lastRefill := us
      queues := b.queues.modifyAll BeQueue.reset b.queues.keys (fun _ u => u.refill)
      meters := b.meters.modifyAll Meter.reset b.meters.keys (fun _ m => m.refill) })
  else s

def execTokenRefill (s : State) : Host.Outcome State Fault Refusal := .next (tokenRefill s)

/-! ### Cells in transit (R384) -/

/-- A received cell is routed: it enters a queue, or is discarded and counted. -/
def beRouteCell (c : Cell) (s : State) : State :=
  match s.beRoute c.dst with
  | none => s.modBe (fun b => { b with noRoute := satInc b.noRoute })
  | some n =>
    if 15 < c.hops + 1 then s.modBe (fun b => { b with hopDrops := satInc b.hopDrops })
    else if s.admits n c.beQueue c.beColour then (enqueue n c.beQueue { c with hops := c.hops + 1 } s).useFree
    else beDrop n c.beQueue 1 s

/-- Route the received cells that are ready. -/
def routeReady (s : State) : State :=
  let due := s.be.transit.filter (fun h => decide (h.readyAt ≤ s.now))
  due.foldl (fun t h => beRouteCell h.cell t)
    (s.modBe (fun b => { b with transit := b.transit.filter (fun h => !decide (h.readyAt ≤ s.now)) }))

/-- A best-effort cell is received on lane `n`: this chip's own is delivered, another is routed once it is ready. -/
def beCellIn (n readyAt : Nat) (c : Cell) (s : State) : State :=
  if c.dst = s.chipId then beDeliver c s
  else s.modBe (fun b => { b with transit := b.transit ++ [⟨c, n, c.step, s.now, readyAt, false⟩] })

/-! ### Decisions (R380, R389) -/

/-- Is X after Y in virtual time: the sign of X − Y modulo 2^64? -/
def vAfter (x y : DWord) : Bool := decide (0 < (x - y).toInt)

/-- Does a queue hold a cell that was admitted before the BCLK of hall time `t` (R389, Table 11.3)? -/
def BeQueue.holds (t : Nat) (u : BeQueue) : Bool := match u.cells with
  | h :: _ => decide (h.at_ < t)
  | [] => false

/-- Is a queue eligible: it holds a cell and its shaper does not hold it? -/
def BeQueue.eligible (t : Nat) (u : BeQueue) : Bool := u.holds t && !(u.shapeOn && decide (u.tokens < 0))

/-- The eligible queue with the smallest finish tag, ties to the lowest number. -/
def State.bestQueue (s : State) (n : Nat) : List Nat → Option Nat
  | [] => none
  | q :: rest =>
    match s.bestQueue n rest with
    | none => if (s.beQueue n q).eligible s.now then some q else none
    | some p =>
      if (s.beQueue n q).eligible s.now && !vAfter (s.beQueue n q).finish (s.beQueue n p).finish then some q else some p

/-- Step-table entries of the active step set for a lane and direction in a Step (Table 10.10). -/
def Pavane.entryAt (p : Pavane) (set lane : Nat) (rx : Bool) (step : Nat) : Option Nat :=
  (p.steps.get [] set).find? (fun r => field r 63 51 == step && field r 49 44 == lane && bitAt r 50 == rx)

/-- The step set that the plan follows, with its image. -/
def State.stepSet (s : State) : Option (Pavane × Nat) :=
  match s.stepImage with
  | some (p, f) => (p.stepSet f).map (fun x => (p, x))
  | none => none

/-- The active entry of a lane, direction and Step. -/
def State.entry (s : State) (lane : Nat) (rx : Bool) (step : Nat) : Option Nat :=
  match s.stepSet with
  | some (p, x) => p.entryAt x lane rx step
  | none => none

/-- A lane that carries cells of every type (R354). -/
def LaneState.carries (x : LaneState) : Bool := x = .up || x = .suspect

/-- The transmit entry of the previous step set that forwards a held cell of it in a Step of a lane, with the cell
(R371). -/
def State.oldTransit (s : State) (lane step : Nat) : Option HeldCell :=
  match s.image, s.fab.drain with
  | some p, some (x, _) =>
    match p.entryAt x lane false step with
    | some r =>
      if field r 43 40 = 2 then
        s.fab.held.find? (fun h => h.oldSet && h.lane == field r 23 18 && h.step == field r 17 5)
      else none
    | none => none
  | _, _ => none

/-- May a Step of a lane, counted from the epoch, carry a best-effort cell (R380)? -/
def State.beStep (s : State) (lane n : Nat) : Bool :=
  s.image.isSome && (s.lane lane).regs.state.carries && (s.entry lane false (n % 8000)).isNone
    && (s.oldTransit lane (n % 8000)).isNone

/-- A decision's lead: 64 BCLK. -/
def State.decisionLead (s : State) : Nat := 64 * s.time.incr

/-- The Step that a decision of a lane is for: the first one not yet decided, not yet started and not more than 64 BCLK
ahead, that may carry a best-effort cell. -/
def State.decisionStep (s : State) (lane : Nat) : Option Nat :=
  let n := stepCount s.now
  [n + 1, n + 2].find? (fun m =>
    decide (stepTime m ≤ s.now + s.decisionLead) && decide (s.be.decided.get 0 lane ≤ m) && s.beStep lane m)

/-- Queue `q` of lane `n` sends its head cell in Step `m`: V, the next finish tag, tokens and counts follow (R388 to
R390). A choice between queues is the jobs' of the lease that sent the cell (R102). -/
def beSendHead (n q m : Nat) (s : State) : State :=
  let u := s.beQueue n q
  match u.cells with
  | [] => s
  | h :: rest =>
    let v := if vAfter u.finish (s.vtime n) then u.finish else s.vtime n
    let f := match rest with
      | [] => u.finish
      | x :: _ => s.finishTag u.finish x.cell.length u.weight.toNat
    let several := decide (2 ≤ ((List.range 8).filter (fun i => (s.beQueue n i).holds s.now)).length)
    let s1 := s.modBeQueue n q (fun u => { u with
      cells := rest, finish := f, sent := satInc u.sent
      tokens := if u.shapeOn then u.tokens - (h.cell.length * 256 : Nat) else u.tokens })
    let s2 := s1.modBe (fun b => { b with
      vtime := b.vtime.set 0 n v
      picked := b.picked.modify [] n (· ++ [(m, h.cell)]) })
    let jobs := if h.cell.src = s.chipId then s.jobsOfLease h.cell.beSrcLease else []
    let s3 := if several then countNd 0 1 jobs s2 else s2
    (countBelfry 0x1003 (some n) 1 s3).useFree

/-- Decide Step `m` of lane `n`. A Step that stays idle while a queue of the lane holds a cell counts event 0x1102. -/
def beDecide (n m : Nat) (s : State) : State :=
  let s1 := s.modBe (fun b => { b with decided := b.decided.set 0 n (m + 1) })
  match s1.bestQueue n (List.range 8) with
  | some q => beSendHead n q m s1
  | none =>
    if (List.range 8).any (fun i => (s1.beQueue n i).holds s1.now) then countBelfry 0x1102 (some n) 1 s1 else s1

/-- Decide the Step that is due on lane `n`, if there is one. -/
def beDecideDue (n : Nat) (s : State) : Option Nat → State
  | none => s
  | some m => beDecide n m s

/-- A queue of lane `n` that woke in the BCLK of a decision starts from the virtual time that the decision leaves (Table 11.3). -/
def rewake (n : Nat) (s : State) (q : Nat) : State :=
  match (s.beQueue n q).cells with
  | h :: _ =>
    if h.at_ = s.now then
      s.modBeQueue n q (fun u => { u with finish := s.finishTag (s.vtime n) h.cell.length u.weight.toNat })
    else s
  | [] => s

/-- Queues of lane `n` that hold nothing older than this BCLK. -/
def State.wokenNow (s : State) (n : Nat) : List Nat :=
  (List.range 8).filter (fun q => !(s.beQueue n q).cells.isEmpty && !(s.beQueue n q).holds s.now)

/-- BE_DECISION. A refill of its BCLK comes before it; cells admitted in its BCLK, with those that become ready in it, come after it (R389,
Table 11.3). -/
def beDecision (n : Nat) (s : State) : State :=
  let s1 := tokenRefill s
  routeReady ((s1.wokenNow n).foldl (rewake n) (beDecideDue n s1 (s1.decisionStep n)))

def execBeDecision (n : Nat) (s : State) : Host.Outcome State Fault Refusal := .next (beDecision n s)

/-- The cell that a decision chose for Step `m` of lane `n`, or for one before it. -/
def bePicked (n m : Nat) (s : State) : Option Cell × State :=
  match s.be.picked.get [] n with
  | (k, c) :: rest =>
    if k ≤ m then (some c, s.modBe (fun b => { b with picked := b.picked.set [] n rest })) else (none, s)
  | [] => (none, s)

/-- A lane goes DOWN, FAILED or DISABLED: its queues and the cells selected for its Steps are discarded and counted
(R387, Table 11.3). -/
def beLaneDown (n : Nat) (s : State) : State :=
  let s1 := (s.be.picked.get [] n).foldl (fun t p => beDrop n p.2.beQueue 1 t) s
  let s2 := s1.modBe (fun b => { b with picked := b.picked.set [] n [] })
  (List.range 8).foldl (fun t q => t.modBeQueue n q (fun u =>
    { u with cells := [], drops := satAdd u.drops u.cells.length })) s2

/-! ### Samples (R396) -/

/-- DELAY and DEPTH of a queue as at the start of the BCLK of hall time `now`: the head's time since admission in 62.5 ns, saturating at
0xF_FFFF. Cells admitted in this BCLK are not seen (Table 11.3). -/
def BeQueue.sample (now : Nat) (u : BeQueue) : Word :=
  let l := u.cells.filter (fun c => decide (c.at_ < now))
  let delay := match l with
    | h :: _ => min 0xFFFFF ((now - h.at_) / stepUnits)
    | [] => 0
  word (delay * 2 ^ 12 + l.length % 2 ^ 12)

/-- A period start while a Pavane is active samples every queue into its slot of the ring. -/
def beSample (s : State) : State :=
  if s.image.isNone then s
  else
    let seq := s.be.sampleSeq + 1
    let p := periodNo s.now
    let entries := s.be.queues.entries.foldl (fun (t : Tab Word) e => t.set 0 e.1 (e.2.sample s.now)) Tab.empty
    s.modBe (fun b => { b with
      sampleSeq := seq
      samples := b.samples.set SampleSlot.reset (p % 16) ⟨BitVec.ofNat 32 p, seq, entries⟩ })

end Sys2Proof.Machine
end

