-- ==== Sys2Proof/Machine/RadioMath.lean ====
section
/-! DEFINITION. Arithmetic of the radio engines (09): digital gain and its decision, unpacking of PRBs, the FFT, soft
combining, the demapper. Integers are exact until the one rounding that each rule names. -/

namespace Sys2Proof.Machine

open Sys2Proof

/-- Divide and round once, ties to even. -/
def rneDiv (a : Int) (d : Nat) : Int :=
  let q := a / (d : Int)
  let r := a % (d : Int)
  if 2 * r < d then q else if (d : Int) < 2 * r then q + 1 else if q % 2 = 0 then q else q + 1

/-- Saturate to `w` bits of two's complement; the flag says that it did. -/
def satBits (w : Nat) (x : Int) : Int × Bool :=
  let hi : Int := 2 ^ (w - 1) - 1
  let lo : Int := -(2 ^ (w - 1) : Int)
  if hi < x then (hi, true) else if x < lo then (lo, true) else (x, false)

/-- A complex integer. -/
structure Cx where
  re : Int
  im : Int
  deriving DecidableEq, Repr

/-! ### Gain (R319, R320) -/

/-- The mantissa m of a gain index. -/
def gainMant (g : Nat) : Nat :=
  match g % 4 with
  | 0 => 32768
  | 1 => 38968
  | 2 => 46341
  | _ => 55109

/-- A decoded sample part in Q15 units after gain index `g`. G − 8 = 4(⌊G / 4⌋ − 2) + G mod 4. -/
def applyGain (g : Nat) (x : Int) : Int × Bool :=
  satBits 16 (rneDiv (x * (gainMant g : Int) * 2 ^ (g / 4)) (32768 * 4))

/-- round(2^30 × 10^(−GAIN_TARGET / 10)) for GAIN_TARGET from 6 to 40. -/
def gainTarget (t : Nat) : Nat :=
  [269711752, 214239660, 170176611, 135176087, 107374182, 85290345, 67748529, 53814569, 42746432, 33954698, 26971175,
   21423966, 17017661, 13517609, 10737418, 8529034, 6774853, 5381457, 4274643, 3395470, 2697118, 2142397, 1701766,
   1351761, 1073742, 852903, 677485, 538146, 427464, 339547, 269712, 214240, 170177, 135176, 107374].getD (t - 6) 0

/-- Is round(T × 2^(q / 4)) at most `p`? The power is irrational for odd `q`, so no tie can occur. -/
def thresholdMet (t : Nat) (q : Int) (p : Nat) : Bool :=
  if 0 ≤ q then decide (16 * t ^ 4 * 2 ^ q.toNat < (2 * p + 1) ^ 4)
  else decide (16 * t ^ 4 < (2 * p + 1) ^ 4 * 2 ^ (-q).toNat)

/-- The steps k by which the gain falls, from the sum of I² + Q² over `n` samples (R320). -/
def gainSteps (t sum n : Nat) : Int :=
  if t * n ≤ 2 * sum ∧ sum ≤ 2 * t * n then 0
  else
    let p := sum / n
    (((List.range 16).map (fun (i : Nat) => 8 - (i : Int))).find? (fun k => thresholdMet t (2 * k - 1) p)).getD (-8)

/-- The next gain index. -/
def nextGain (g t sum n : Nat) : Nat := (max 0 (min 40 ((g : Int) - gainSteps t sum n))).toNat

/-! ### PRBs on the wire (R304, Table 9.3) -/

/-- Mantissa bits of a udIqWidth; 0 means 16. -/
def iqBits (width : Nat) : Nat := if width = 0 then 16 else width

/-- Is a method and width a row of Table 9.3? -/
def iqOk (meth width : Nat) : Bool :=
  if meth = 1 then [8, 9, 12, 14, 0].contains width else decide (meth = 0 ∧ width = 0)

/-- Bytes of a PRB. -/
def prbBytes (meth width : Nat) : Nat := if meth = 0 then 48 else 1 + 3 * iqBits width

/-- A big-endian value of bytes. -/
def beValue (l : List Byte) : Nat := l.foldl (fun a b => a * 256 + b.toNat) 0

/-- The 24 sample parts of a PRB, I0, Q0, I1 and so on, in Q15 units. -/
def unpackPrb (meth width : Nat) (l : List Byte) : List Int :=
  let m := if meth = 0 then 16 else iqBits width
  let e := if meth = 0 then 0 else (l.getD 0 0).toNat % 16
  let body := beValue (if meth = 0 then l.take 48 else (l.drop 1).take (3 * m))
  (List.range 24).map (fun i => toSigned m (body / 2 ^ (m * (23 - i))) * 2 ^ e)

/-- The bytes of a PRB on the wire, from a row of the radio class and its exponent (R304). -/
def packPrb (meth width exp : Nat) (row : List Int) : List Byte :=
  let m := if meth = 0 then 16 else iqBits width
  let body := (List.range 24).foldl (fun x i => x * 2 ^ m + ofSigned m (row.getD i 0)) 0
  let bytes := (leBytes body (3 * m)).reverse
  if meth = 0 then bytes else BitVec.ofNat 8 (exp % 16) :: bytes

/-- PRBs of a message at most (Table 9.3): the bytes that its overhead leaves. -/
def prbsPerMessage (meth width : Nat) : Nat := 2734 / prbBytes meth width

/-! ### The FFT (R327) -/

/-- π × 2^100. -/
def piFix : Int := 3982441812995697363688351113952

/-- Terms of the series of the cosine at a fixed-point angle of 100 fraction bits. -/
def cosSeries (x2 : Int) : Nat → Nat → Int → Int → Int
  | 0, _, _, acc => acc
  | fuel + 1, i, term, acc =>
    let t := -(term * x2 / 2 ^ 100) / (((2 * i + 1) * (2 * i + 2) : Nat) : Int)
    cosSeries x2 fuel (i + 1) t (acc + t)

/-- cos(π a / b) × 2^100, for 0 ≤ a / b ≤ 1. -/
def cosFix (a b : Nat) : Int :=
  let x := piFix * (a : Int) / (b : Int)
  cosSeries (x * x / 2 ^ 100) 30 0 (2 ^ 100) (2 ^ 100)

/-- round(2^22 × cos(2π k / n)). -/
def coefCos (k n : Nat) : Int :=
  let a := k % n
  let c := if 2 * a ≤ n then cosFix (2 * a) n else cosFix (2 * (n - a)) n
  rneDiv c (2 ^ 78)

/-- round(2^22 × e^(∓2πi k / n)), − for the forward transform. sin x = cos(x − π/2): k − n / 4, n a multiple of 4. -/
def coef (inverse : Bool) (k n : Nat) : Cx :=
  let s := coefCos (4 * (k % n) + 3 * n) (4 * n)
  ⟨coefCos k n, if inverse then s else -s⟩

/-- The radix of the stage on blocks of `m` points: 16 while 16 divides into it, else what remains. -/
def stageRadix (m : Nat) : Nat := if 16 ≤ m then 16 else m

/-- One output of a stage: the exact sum of r products, divided by r × 2^22, rounded once, saturated to 24 bits. -/
def butterfly (r : Nat) (xs : List Cx) (ws : List Cx) : Cx × Nat :=
  let terms := List.zipWith (fun (x w : Cx) => Cx.mk (x.re * w.re - x.im * w.im) (x.re * w.im + x.im * w.re)) xs ws
  let t := terms.foldl (fun (a b : Cx) => Cx.mk (a.re + b.re) (a.im + b.im)) ⟨0, 0⟩
  let a := satBits 24 (rneDiv t.re (r * 2 ^ 22))
  let b := satBits 24 (rneDiv t.im (r * 2 ^ 22))
  (⟨a.1, b.1⟩, b2n a.2 + b2n b.2)

/-- A decimation-in-frequency stage on one block of `m` points: output q of sub-block p is the sum over j of
x[q + j m / r] w_r^(j p) w_m^(q p), each coefficient the combined one. -/
def fftStage (inverse : Bool) (m : Nat) (x : List Cx) : List (List Cx) × Nat :=
  let r := stageRadix m
  let h := m / r
  let out := (List.range r).map (fun p => (List.range h).map (fun q =>
    butterfly r ((List.range r).map (fun j => x.getD (q + j * h) ⟨0, 0⟩))
      ((List.range r).map (fun j => coef inverse (p * (q + j * h)) m))))
  (out.map (fun l => l.map (·.1)), ((out.flatten).map (·.2)).foldl (· + ·) 0)

/-- The transform of a block: the stages from the largest stride on; sub-block p gives the outputs p, p + r, … -/
def fftBlock (inverse : Bool) : Nat → List Cx → List Cx × Nat
  | 0, x => (x, 0)
  | fuel + 1, x =>
    let m := x.length
    if m ≤ 1 then (x, 0)
    else
      let r := stageRadix m
      let st := fftStage inverse m x
      let subs := st.1.map (fun l => fftBlock inverse fuel l)
      ((List.range m).map (fun i => ((subs.getD (i % r) ([], 0)).1).getD (i / r) ⟨0, 0⟩),
        st.2 + (subs.map (·.2)).foldl (· + ·) 0)

/-- The FFT engine on a power-of-two size: the outputs in 24-bit parts with 8 fraction bits, times 2^OUT_SHIFT, and the
saturations of its stages. -/
def fft (inverse : Bool) (shift : Nat) (x : List Cx) : List Cx × Nat :=
  let r := fftBlock inverse 4 x
  (r.1.map (fun c => ⟨c.re * 2 ^ shift, c.im * 2 ^ shift⟩), r.2)

/-- The input in 24-bit parts with 8 fraction bits: a mantissa is scaled by the exponent of its block of 12 first (R327, step 1). -/
def fftInput (input : List (Int × Int)) (exps : List Nat) : List Cx :=
  input.zipIdx.map (fun p => let f : Int := 2 ^ (8 + exps.getD (p.2 / 12) 0); ⟨p.1.1 * f, p.1.2 * f⟩)

/-- The outputs under R168 in blocks of 12 complex values, or under R169 (`fmt` 5): the bytes of the elements and the block exponents. -/
def fftOutput (fmt : Nat) (l : List Cx) : List Byte × List Byte :=
  let b := bfpBits fmt
  let parts := l.flatMap (fun c => [c.re, c.im])
  let bytes (codes : List Nat) : List Byte := leBytes (packBits b codes) ((codes.length * b + 7) / 8)
  if fmt = 5 then (bytes (parts.map (fun v => (intOut 16 0 v (-8)).1)), [])
  else
    let blocks := (blocksOf 24 4096 parts).map (fun v =>
      let e := bfpExp b (-23) v
      (v.map (fun x => (intOut b 0 x (-8 - (e : Int))).1), BitVec.ofNat 8 e))
    (bytes (blocks.flatMap (·.1)), blocks.map (·.2))

/-! ### Soft bits (R325) -/

/-- Saturate a soft bit to ±127. -/
def softSat (x : Int) : Int := max (-127) (min 127 x)

/-- The circular buffer after a transmission: overwritten when new, else old and new added. -/
def softCombine (fresh : Bool) (old new_ : List Int) : List Int :=
  if fresh then new_.map softSat else List.zipWith (fun a b => softSat (a + b)) old new_

/-! ### The demapper (R326) -/

/-- A number (u + v √n) / n, for the n of a constellation's norm. -/
structure Surd where
  u : Int
  v : Int
  deriving DecidableEq, Repr

/-- Is u + v √n negative? -/
def Surd.neg (n : Nat) (x : Surd) : Bool :=
  if 0 ≤ x.u then decide (x.v < 0 ∧ x.u * x.u < x.v * x.v * (n : Int))
  else decide (x.v ≤ 0 ∨ x.v * x.v * (n : Int) < x.u * x.u)

/-- The smaller of two. -/
def Surd.min (n : Nat) (a b : Surd) : Surd := if Surd.neg n ⟨a.u - b.u, a.v - b.v⟩ then a else b

/-- floor of the square root, by halving from `fuel` bits down. -/
def isqrtBits (n : Nat) : Nat → Nat → Nat
  | 0, r => r
  | fuel + 1, r => isqrtBits n fuel (if (r + 2 ^ fuel) * (r + 2 ^ fuel) ≤ n then r + 2 ^ fuel else r)

/-- floor(u + v √n). -/
def Surd.floor (n : Nat) (x : Surd) : Int :=
  let q := x.v.natAbs * x.v.natAbs * n
  let r : Int := isqrtBits q 80 0
  if 0 ≤ x.v then x.u + r else if r * r = q then x.u - r else x.u - r - 1

/-- (u + v √n) / d rounded once, ties to even; with v = 0 a tie can occur, else u + v √n is irrational. -/
def Surd.round (n : Nat) (x : Surd) (d : Nat) : Int :=
  if x.v = 0 then rneDiv x.u d
  else Int.fdiv (Surd.floor n ⟨2 * x.u + d, 2 * x.v⟩) (2 * (d : Int))

/-- The amplitude of one axis from its bits, most significant first (3GPP TS 38.211). -/
def pamLevel : List Bool → Int
  | [] => 1
  | b :: r =>
    let s : Int := if b then -1 else 1
    match r with
    | [] => s
    | _ => s * (2 ^ r.length - pamLevel r)

/-- Every list of `k` bits. -/
def bitLists : Nat → List (List Bool)
  | 0 => [[]]
  | k + 1 => (bitLists k).flatMap (fun l => [false :: l, true :: l])

/-- The squared norm of a constellation of `2k` bits: 2, 10, 42, 170, 682. -/
def qamNorm (k : Nat) : Nat := 2 * (4 ^ k - 1) / 3

/-- (y − c)² − y² for the amplitude a of one axis, c = 2^15 a / √n, in Q15 units. -/
def axisCost (a y : Int) : Surd := ⟨2 ^ 30 * a * a, -(2 ^ 16 * a * y)⟩

/-- The smallest cost over the points of an axis of `k` bits whose bit `i` is `b`. -/
def axisBest (k i : Nat) (b : Bool) (y : Int) : Surd :=
  let l := (bitLists k).filter (fun x => x.getD i false == b)
  match l.map (fun x => axisCost (pamLevel x) y) with
  | [] => ⟨0, 0⟩
  | c :: r => r.foldl (Surd.min (qamNorm k)) c

/-- The LLR of bit `i` of one axis. -/
def axisLlr (k i : Nat) (y : Int) (scale : Nat) : Int :=
  let one := axisBest k i true y
  let zero := axisBest k i false y
  softSat (Surd.round (qamNorm k) ⟨scale * (one.u - zero.u), scale * (one.v - zero.v)⟩ (qamNorm k * 2 ^ 16))

/-- The LLRs of one symbol of `bits` bits: 1 for π/2-BPSK, 2 for QPSK, up to 10. `index` is the symbol index. -/
def demap (bits index scale : Nat) (y : Cx) : List Int :=
  if bits = 1 then
    let re := if index % 2 = 0 then y.re else y.im
    let im := if index % 2 = 0 then y.im else -y.re
    [softSat (Surd.round 2 ⟨0, scale * 2 ^ 17 * (re + im)⟩ (2 * 2 ^ 16))]
  else
    let k := bits / 2
    (List.range bits).map (fun b => axisLlr k (b / 2) (if b % 2 = 0 then y.re else y.im) scale)

end Sys2Proof.Machine
end

