-- ==== Sys2Proof/Machine/Radio.lean ====
section
/-! DEFINITION. The radio partition (09): slot timing, cells and their commands, slot rings, the uplink receive chain, the
engines of the plan, faults. -/

namespace Sys2Proof.Machine

open Sys2Proof

/-- Change the radio block. -/
def State.modRadio (s : State) (f : RadioState → RadioState) : State := { s with radio := f s.radio }

/-- Change timing group `n`. -/
def State.modGroup (s : State) (n : Nat) (f : RadioGroup → RadioGroup) : State :=
  s.modRadio (fun r => { r with groups := r.groups.modify RadioGroup.reset n f })

/-! ### Slot timing (R308, R309) -/

/-- Slots in a frame of 10 ms. -/
def RadioGroup.slotsPerFrame (g : RadioGroup) : Nat := 10 * 2 ^ g.mu.toNat

/-- Exact times are in units of 2^-32 ns / 6,144, since Tc is 3,125 / 6,144 ns. -/
def exactUnits : Nat := 6144

/-- A time of `n` Tc, exact. -/
def tcExact (n : Nat) : Nat := n * 3125 * 2 ^ 32

/-- A time of `n` ns, exact. -/
def nsExact (n : Nat) : Nat := n * 2 ^ 32 * exactUnits

/-- Hall time now, exact. -/
def State.nowExact (s : State) : Nat := s.now * exactUnits

/-- T(s, 0) of slot `a`, exact (R309). -/
def RadioGroup.slotStart (g : RadioGroup) (a : Nat) : Nat :=
  if g.mu = 2 ∧ a % 2 = 1 then nsExact (g.origin + (a - 1) * g.slotNs - slotBase * g.slotNs) + tcExact 492032
  else nsExact (g.origin + a * g.slotNs - slotBase * g.slotNs)

/-- Start of symbol `n` after the slot start, in Tc (Table 9.4). -/
def symbolTc (mu a n : Nat) : Nat :=
  let one := if 1 ≤ n then 1024 else 0
  if mu = 0 then 140288 * n + one + (if 8 ≤ n then 1024 else 0)
  else if mu = 1 then 70144 * n + one
  else 35072 * n + (if a % 2 = 0 then one else 0)

/-- T(s, n), exact. -/
def RadioGroup.symbolStart (g : RadioGroup) (a n : Nat) : Nat := g.slotStart a + tcExact (symbolTc g.mu.toNat a n)

/-- The slot that starts at a hall time given in 2^-32 ns, if one does. -/
def RadioGroup.startsAt (g : RadioGroup) (t : Nat) : Option Nat :=
  let a := g.slotAt t
  [a, a + 1].find? (fun x => decide (t * exactUnits ≤ g.slotStart x ∧ g.slotStart x < (t + 1) * exactUnits))

/-! ### Slot starts (R310, R311) -/

/-- The slots that one firing of a group opens. -/
def RadioGroup.opens (g : RadioGroup) : Nat := if g.mu = 2 then 2 else 1

/-- Live cells of a group. -/
def State.cellsOf (s : State) (n : Nat) : List Nat := s.liveCells.filter (fun c => (s.cell c).group.toNat == n)

/-- A radio slot start fires for group `n` with target `t`: SFN, slot and ASN are latched, and cells that a fault makes lose
their slots lose this one. -/
def radioSlotStart (n t : Nat) (s : State) : State :=
  let g := s.group n
  let a := g.slotAt t
  let s1 := s.modGroup n (fun x => { x with
    upTo := max x.upTo (a + g.opens)
    asn := BitVec.ofNat 32 a
    sfn := BitVec.ofNat 10 (a / g.slotsPerFrame)
    slot := BitVec.ofNat 8 (a % g.slotsPerFrame) })
  (s1.cellsOf n).foldl (fun u c => if (u.cell c).losing then loseSlots c (tileRange a g.opens) u else u) s1

/-- `k` slot starts of group `n` from target `t` on do not fire: every slot that they open is lost (R311), once. -/
def radioSlotsLost (n k t : Nat) (s : State) : State :=
  let g := s.group n
  let l := (tileRange (g.slotAt t) (k * g.opens)).filter (fun a => decide (g.upTo ≤ a))
  let s1 := s.modGroup n (fun x => { x with lost := satAdd x.lost l.length, upTo := max x.upTo (g.slotAt t + k * g.opens) })
  (s1.cellsOf n).foldl (fun u c => u.modCell c (fun x => { x with
    slotsLost := satAdd x.slotsLost l.length
    lostSlots := x.lostSlots ++ l.filter (fun i => !x.lostSlots.contains i) })) s1

/-- The slot start of a group that falls in the BCLK edge from hall time `old` to `new`, in 2^-32 ns, if one does: at µ = 2 that of
an even slot (R310). -/
def RadioGroup.startIn (g : RadioGroup) (old new : Nat) : Option Nat :=
  let t := g.slotStart (g.slotAt new / g.opens * g.opens) / exactUnits
  if old < t ∧ t ≤ new then some t else none

/-- A slot start of group `n` falls in this BCLK, and no armed channel will fire for it: its channel is disarmed, and the slots are
lost (R311). -/
def slotStartPasses (old : Nat) (s : State) (n : Nat) : State :=
  let g := s.group n
  if !g.defined || (s.cellsOf n).isEmpty then s
  else match g.startIn old s.now with
    | none => s
    | some t =>
      if s.trig.entries.any (fun p => p.2.armed && decide (p.2.action = 3) && decide (p.2.arg.toNat = n) && decide (p.2.target ≤ s.now))
      then s else radioSlotsLost n 1 t s

/-- The slot starts of all groups at a BCLK edge that moves hall time on from `old`. -/
def slotStartsPass (old : Nat) (s : State) : State := s.radio.groups.keys.foldl (slotStartPasses old) s

/-- The kind 0x1 records of a Figure load the RG_n registers; groups without a record read DEFINED = 0 (R604). -/
def loadGroups (p : Pavane) (fig : Nat) (s : State) : State :=
  let recs := (p.radio.get [] fig).filter (fun r => r % 16 == 1)
  let clear := s.radio.groups.modifyAll RadioGroup.reset (List.range 16) (fun _ g => { g with defined := false })
  let put (t : Tab RadioGroup) (r : Nat) : Tab RadioGroup :=
    t.modify RadioGroup.reset (recBytes r 1 1 % 16) (fun g => { g with
      defined := true
      mu := BitVec.ofNat 2 (recBytes r 1 1 / 16)
      offsetNs := BitVec.ofNat 20 (recBytes r 4 4)
      dlAdvMin := BitVec.ofNat 16 (recBytes r 8 2)
      dlAdvMax := BitVec.ofNat 16 (recBytes r 10 2)
      cpLead := BitVec.ofNat 16 (recBytes r 12 2)
      ulLatest := BitVec.ofNat 16 (recBytes r 14 2)
      reqLead := BitVec.ofNat 16 (recBytes r 16 2)
      resultLag := BitVec.ofNat 16 (recBytes r 18 2) })
  s.modRadio (fun x => { x with groups := recs.foldl put clear })

/-! ### The configuration block (Table 9.11) -/

/-- Bits of word `w` of the block. -/
def RadioCell.cfg (c : RadioCell) (w hi lo : Nat) : Nat := field c.block.toNat (32 * w + hi) (32 * w + lo)

def RadioCell.ports (c : RadioCell) : Nat := c.cfg 1 19 12
def RadioCell.eaxc (c : RadioCell) : Nat := c.cfg 2 15 0
def RadioCell.dlRing (c : RadioCell) : Nat := c.cfg 4 23 0
def RadioCell.ulRing (c : RadioCell) : Nat := c.cfg 5 23 0
def RadioCell.recTiles (c : RadioCell) : Nat := c.cfg 6 9 8 + 1
def RadioCell.recs (c : RadioCell) : Nat := c.cfg 6 4 0

/-- Are the reserved fields of a block 0? -/
def blockClean (b : Nat) : Bool :=
  [(31, 26), (15, 9), (63, 62), (95, 93), (87, 85), (127, 104), (159, 152), (191, 184), (223, 202), (199, 197),
   (255, 224)].all (fun r => field b r.1 r.2 == 0)

/-- Tiles of both rings of a configuration. -/
def RadioCell.ringTiles (c : RadioCell) : List Nat :=
  tileRange c.dlRing (c.recTiles * c.recs) ++ tileRange c.ulRing (c.recTiles * c.recs)

/-- Do the fields of a configuration lie in their ranges, and its eAxC range clear of other cells (R336)? -/
def State.blockOk (s : State) (n : Nat) (c : RadioCell) : Bool :=
  blockClean c.block.toNat && decide (c.cfg 0 25 16 ≤ 1007)
  && c.eaxc % 128 == 0
  && (s.radio.cells.keys.all (fun m => m == n || (s.cell m).state = .empty || (s.cell m).eaxc != c.eaxc))
  && iqOk (c.cfg 2 28 28) (c.cfg 2 27 24) && iqOk (c.cfg 2 20 20) (c.cfg 2 19 16)
  && decide (6 ≤ c.cfg 3 7 0 ∧ c.cfg 3 7 0 ≤ 40)
  && decide (2 ≤ c.recs ∧ c.recs ≤ 16)
  && decide (c.dlRing + c.recTiles * c.recs ≤ tileCount ∧ c.ulRing + c.recTiles * c.recs ≤ tileCount)
  && c.ringTiles.all (fun t => (s.tile t).lease = 0 && !(s.tile t).radio)

/-- Does the shape of a configuration match its cell slot (R604), and do its rings lie on the ring stack? -/
def State.shapeOk (s : State) (c : RadioCell) (d : CellSlot) : Bool :=
  decide (d.group = c.cfg 1 3 0 ∧ d.bw = c.cfg 1 11 4 ∧ d.ports = c.ports ∧ d.dl = c.cfg 1 24 20 ∧ d.ul = c.cfg 1 29 25)
  && c.ringTiles.all (fun t => !((s.tile t).tier = .hbm) || (s.tile t).stack.toNat == d.stack)

/-! ### Radio commands (R334 to R337, Table 9.10) -/

/-- The status of the most recent radio command for a cell. -/
def noteCellStatus (n : Nat) (r : State × Option Reply) : State × Option Reply :=
  match r.2 with
  | some q => if n < 384 then (r.1.modCell n (fun x => { x with lastStatus := BitVec.ofNat 8 q.status }), r.2) else r
  | none => r

/-- Cells of the radio block. -/
def cellMax : Nat := 384

/-- The body of CELL_CONFIG. -/
def cellConfigBody (block : BitVec 256) (s : State) : State × Option Reply :=
  let n := field block.toNat 8 0
  let c : RadioCell := { RadioCell.reset with block := block }
  let st := (s.cell n).state
  let slot := s.cellSlot n
  let bad := decide (cellMax ≤ n) || !s.blockOk n c || (match slot with
    | some d => !s.shapeOk c d
    | none => false)
  noteCellStatus n (if bad then refuse stBadArg s
    else if !(st = .empty || st = .configured) || slot.isNone
      || c.ringTiles.any (fun t => !(s.tile t).inHbm || (s.tile t).pin = 0) then refuse stConflict s
    else (s.modCell n (fun x => { x with
      state := .configured, block := block, group := BitVec.ofNat 4 (c.cfg 1 3 0), pci := BitVec.ofNat 10 (c.cfg 0 25 16),
      target := BitVec.ofNat 8 (c.cfg 3 7 0), failCause := 0 }), some (.of stOk)))

def execCellConfig (iss : Issuer) (block : BitVec 256) (s : State) : Host.Outcome State Fault Refusal :=
  .next (queueCommand 0x40 iss (cellConfigBody block) s)

/-- Does an armed period-start trigger have a target that is no multiple of 500 µs (R312)? -/
def State.oddPeriods (s : State) : Bool :=
  s.trig.entries.any (fun p => p.2.armed && decide (p.2.action = 1) && p.2.target % periodUnits != 0)

/-- The body of CELL_START. -/
def cellStartBody (n at_ : Nat) (s : State) : State × Option Reply :=
  let g := s.groupOf n
  noteCellStatus n (match g.startsAt at_ with
    | none => refuse stBadArg s
    | some a =>
      if cellMax ≤ n || decide (at_ < s.now + nsUnits (g.reqLead.toNat * 1000 + 1000000)) then refuse stBadArg s
      else if (s.cell n).state ≠ .configured || s.clk.chipState ≠ .ready || s.time.servo ≠ 3 || s.clk.mode
          || s.clk.modeStaged || (s.cellSlot n).isNone || s.oddPeriods then refuse stConflict s
      else ((touchDomains [23, 24] s).modCell n (fun x => { x with
        state := .starting, startAt := at_, stopAt := none, nextRead := a, nextUl := a, endSlot := none }), some (.of stOk)))

def execCellStart (iss : Issuer) (n at_ : Nat) (s : State) : Host.Outcome State Fault Refusal :=
  .next (queueCommand 0x41 iss (cellStartBody n at_) s)

/-- The body of CELL_STOP. -/
def cellStopBody (n at_ : Nat) (s : State) : State × Option Reply :=
  let c := s.cell n
  noteCellStatus n (if cellMax ≤ n then refuse stBadArg s
    else if c.state = .starting then (s.modCell n (fun x => { x with state := .configured }), some (.of stOk))
    else if c.state = .active then
      match (s.groupOf n).startsAt at_ with
      | some a =>
        if at_ < s.now + nsUnits 1000000 then refuse stBadArg s
        else (s.modCell n (fun x => { x with stopAt := some at_, endSlot := some a }), some (.of stOk))
      | none => refuse stBadArg s
    else refuse stConflict s)

def execCellStop (iss : Issuer) (n at_ : Nat) (s : State) : Host.Outcome State Fault Refusal :=
  .next (queueCommand 0x42 iss (cellStopBody n at_) s)

/-- The body of CELL_CLEAR. -/
def cellClearBody (n : Nat) (s : State) : State × Option Reply :=
  let c := s.cell n
  noteCellStatus n (if cellMax ≤ n then refuse stBadArg s
    else if c.state = .configured || c.state = .failed then
      (s.modCell n (fun x => { RadioCell.reset with
        slotsLost := x.slotsLost, reqMissing := x.reqMissing, ulLate := x.ulLate, freezes := x.freezes
        saturations := x.saturations }), some (.of stOk))
    else refuse stConflict s)

def execCellClear (iss : Issuer) (n : Nat) (s : State) : Host.Outcome State Fault Refusal :=
  .next (queueCommand 0x43 iss (cellClearBody n) s)

/-- CELL_START_TIME (R337, R339): gains, soft-buffer record and SEQ_ID counts start anew; without its cell slot the cell
fails with cause PLAN. -/
def cellStartTime (n : Nat) (s : State) : State :=
  let c := s.cell n
  if c.state = .starting && decide (c.startAt ≤ s.now) then
    if (s.cellSlot n).isNone then s.modCell n (fun x => { x with state := .failed, failCause := 4 })
    else s.modCell n (fun x => { x with
      state := .active, streams := Tab.empty, soft := [], seqTx := Tab.empty, seqRx := Tab.empty, txPrb := Tab.empty })
  else s

def execCellStartTime (n : Nat) (s : State) : Host.Outcome State Fault Refusal := .next (cellStartTime n s)

/-- CELL_STOP_TIME. -/
def cellStopTime (n : Nat) (s : State) : State :=
  match (s.cell n).state, (s.cell n).stopAt with
  | .active, some t => if t ≤ s.now then s.modCell n (fun x => { x with state := .stopping }) else s
  | _, _ => s

def execCellStopTime (n : Nat) (s : State) : Host.Outcome State Fault Refusal := .next (cellStopTime n s)

/-! ### Slot rings (R315 to R317) -/

/-- First tile of the record of slot `a` in a ring: its index is its absolute slot number, modulo 2^32, modulo RING_RECS. -/
def RadioCell.recordTile (c : RadioCell) (ring a : Nat) : Nat := ring + a % 2 ^ 32 % max 1 c.recs * c.recTiles

/-- Bytes of the radio buffers (R296). -/
def bufBytes : Nat := 96 * 2 ^ 20

/-- Write into the radio buffers; what would lie beyond their end is not written. -/
def RadioState.writeBuf (r : RadioState) (a : Nat) (l : List Byte) : RadioState :=
  { r with buf := r.buf.writeBytes a (l.take (bufBytes - a)) }

/-- Where the samples of a PRB lie in the radio buffers, and the gain index of a symbol. -/
def sampleAt (n i a sym prb : Nat) : Nat := Config.sampleAddr n i a sym prb % (bufBytes / 48) * 48
def gainAt (n i a sym : Nat) : Nat := Config.gainAddr n i a sym % bufBytes

/-- Bytes of messages that a record may hold. -/
def RadioCell.recordRoom (c : RadioCell) : Nat := c.recTiles * tileBytes - 64

/-- DL_RECORD_READ: the record of the next slot, at T(s, 0) − REQ_LEAD. A poisoned record loses the slot (Table 9.12). -/
def dlRecordRead (n : Nat) (s : State) : State :=
  let c := s.cell n
  let g := s.groupOf n
  let a := c.nextRead
  if c.live && c.serves a && decide (g.slotStart a ≤ s.nowExact + nsExact (g.reqLead.toNat * 1000)) then
    let t := c.recordTile c.dlRing a
    let h := leValue (s.tileRead t 0 64)
    let len := field h 63 32
    let good := decide (field h 31 0 = a % 2 ^ 32 ∧ field h 71 64 = 0xA5 ∧ len ≤ c.recordRoom)
    let s1 := s.modCell n (fun x => { x with nextRead := a + 1 })
    if s.tilePoisoned t 0 64 || (good && s.runPoisoned t 64 5 len) then
      (consumePoison 1 s1).modCell n (fun x => { x with slotsLost := satInc x.slotsLost, lostSlots := x.lostSlots ++ [a] })
    else if good then s1
    else s1.modCell n (fun x => { x with reqMissing := satInc x.reqMissing, emptySlots := x.emptySlots ++ [a] })
  else s

def execDlRecordRead (n : Nat) (s : State) : Host.Outcome State Fault Refusal := .next (dlRecordRead n s)

/-- Write bytes into a run of tiles in HBM from offset `o` on. -/
def runWrite (first o : Nat) : Nat → List Byte → State → State
  | 0, _, s => s
  | fuel + 1, l, s =>
    if l.isEmpty then s
    else
      let n := min l.length (tileBytes - o % tileBytes)
      let e := s.tile (first + o / tileBytes)
      let a := e.byteAt (o % tileBytes)
      let put (x : HbmStack) : HbmStack := { x with mem := (x.mem.writeBytes a (l.take n)).clearPoison a n }
      runWrite first (o + n) fuel (l.drop n) (if e.inHbm then s.modStack e.stack.toNat put else s)

/-- Header of an uplink record (Table 9.6). -/
def RadioGroup.header (g : RadioGroup) (a len status : Nat) : List Byte :=
  leBytes (a % 2 ^ 32 + len * 2 ^ 32 + 0xA5 * 2 ^ 64 + status * 2 ^ 72 + a / g.slotsPerFrame % 1024 * 2 ^ 80
    + a % g.slotsPerFrame * 2 ^ 96) 64

/-- Number of a PRB among those received: slot, stream, symbol and PRB. -/
def prbCode (a i sym prb : Nat) : Nat := ((a * 128 + i) * 14 + sym) * 512 + prb

/-- The expected PRBs of slot `a` that did not come: stream, symbol and PRB. -/
def RadioCell.missing (c : RadioCell) (a : Nat) (l : List UlRange) : List (Nat × Nat × Nat) :=
  l.flatMap (fun r => ((List.range r.count).map (fun k => (r.stream, r.symbol, r.first + k))).filter (fun x =>
    !c.prbs.contains (prbCode a x.1 x.2.1 x.2.2)))

/-- A PRB that did not come by its deadline is zero in every sample (R306). -/
def zeroPrb (n a : Nat) (s : State) (x : Nat × Nat × Nat) : State :=
  s.modRadio (fun r => { r with buf := r.buf.clearRange (sampleAt n x.1 a x.2.1 x.2.2) 48 })

/-- An ERROR.indication of SCF222 for slot `a`: its header (type 0x07, six bytes), SFN, slot, and the message and error codes, which
no rule states (PRESUMED, log entry 145). -/
def RadioGroup.errorIndication (g : RadioGroup) (a cause : Nat) : List Byte :=
  leBytes (7 + 6 * 2 ^ 16) 6 ++ leBytes (a / g.slotsPerFrame % 1024) 2 ++ leBytes (a % g.slotsPerFrame) 2
    ++ leBytes (Config.errorCodes cause) 2

/-- The messages of the uplink record of slot `a`: of an empty or a lost slot an ERROR.indication alone (R316, R338). -/
def RadioCell.ulMessages (c : RadioCell) (g : RadioGroup) (a : Nat) (messages : List Byte) : List Byte :=
  if c.lostSlots.contains a then g.errorIndication a 1
  else if c.emptySlots.contains a then g.errorIndication a 0
  else messages.take c.recordRoom

/-- UL_RECORD_WRITE: the record of the next slot, messages first; expected PRBs that have not come are taken as zero, and counted
(R306). The last record of a STOPPING cell makes it CONFIGURED. -/
def ulRecordWrite (n : Nat) (expected : List UlRange) (messages : List Byte) (s : State) : State :=
  let c := s.cell n
  let g := s.groupOf n
  let a := c.nextUl
  if (c.state = .active || c.state = .stopping) && c.serves a && decide (g.slotStart a ≤ s.nowExact) then
    let zeroed := c.missing a expected
    let t := c.recordTile c.ulRing a
    let l := c.ulMessages g a messages
    let status := if c.lostSlots.contains a then stFault else stOk
    let s1 := runWrite t 64 5 l (zeroed.foldl (zeroPrb n a) s)
    let s2 := runWrite t 0 1 (g.header a l.length status) s1
    let done := decide (c.state = .stopping) && !c.serves (a + 1)
    s2.modCell n (fun x => { x with
      nextUl := a + 1, ulLate := satAdd x.ulLate zeroed.length
      lostSlots := x.lostSlots.filter (· != a), emptySlots := x.emptySlots.filter (· != a)
      prbs := x.prbs.filter (fun p => a < p / (128 * 14 * 512))
      state := if done then .configured else x.state })
  else s

def execUlRecordWrite (n : Nat) (expected : List UlRange) (messages : List Byte) (s : State) :
    Host.Outcome State Fault Refusal := .next (ulRecordWrite n expected messages s)

/-! ### Fronthaul (R302 to R307, R319, R322) -/

/-- Fields of a U-plane message (PRESUMED from eCPRI and O-RAN, which R302 names, log entry 27): the revision, the
concatenation bit, the message type, PC_ID, SEQ_ID, and the frame, subframe, slot and symbol of the O-RAN header. -/
structure FhHead where
  rev     : Nat
  concat  : Bool
  type    : Nat
  pcId    : Nat
  seq     : Nat
  frame   : Nat
  subframe : Nat
  slot    : Nat
  symbol  : Nat
  deriving DecidableEq, Repr

/-- Read the first 12 bytes of an eCPRI message. -/
def fhHead (l : List Byte) : FhHead :=
  let x := beValue (l.take 12)
  ⟨field x 95 92, bitAt x 88, field x 87 80, field x 63 48, field x 47 40, field x 23 16, field x 15 12, field x 11 6, field x 5 0⟩

/-- The slot, counted without wrap, that a message names, nearest to now. -/
def RadioGroup.messageSlot (g : RadioGroup) (now : Nat) (h : FhHead) : Nat :=
  let f := g.slotAt now / g.slotsPerFrame
  let d := (h.frame + 256 - f % 256) % 256
  let frame := if d < 128 then f + d else f + d - 256
  frame * g.slotsPerFrame + h.subframe * 2 ^ g.mu.toNat + h.slot

/-- Does a stream number belong to a cell: a data stream or a PRACH port (R305)? -/
def RadioCell.hasStream (c : RadioCell) (i : Nat) : Bool :=
  decide (i < c.ports) || decide (64 ≤ i ∧ i < 64 + c.ports)

/-- The live cell and stream of a PC_ID. -/
def State.streamOf (s : State) (pc : Nat) : Option (Nat × Nat) :=
  (s.liveCells.find? (fun n => decide ((s.cell n).eaxc ≤ pc) && (s.cell n).hasStream (pc - (s.cell n).eaxc))).map
    (fun n => (n, pc - (s.cell n).eaxc))

/-- The gain index that applies to symbol number `m`. -/
def StreamGain.at_ (g : StreamGain) (m : Nat) : Nat :=
  match g.hist.find? (fun p => decide (p.1 ≤ m)) with
  | some p => p.2
  | none => 8

/-- Add the samples of a PRB to a symbol's power; the symbols stay in their order. -/
def addPower (m : Nat) (l : List Int) (sums : List (Nat × Nat × Nat)) : List (Nat × Nat × Nat) :=
  let p := (l.map (fun x => (x * x).toNat)).foldl (· + ·) 0
  let (a, b) := match sums.find? (fun x => x.1 == m) with
    | some x => (x.2.1, x.2.2)
    | none => (0, 0)
  let l := sums.filter (fun x => x.1 != m)
  l.filter (fun x => decide (x.1 < m)) ++ (m, a + p, b + 12) :: l.filter (fun x => decide (m < x.1))

/-- One received PRB of a stream: kept once, its samples after gain in the radio buffers, its power in the symbol's sum. -/
def prbIn (n i a sym prb : Nat) (parts : List Int) (s : State) : State :=
  let code := prbCode a i sym prb
  if (s.cell n).prbs.contains code then s.modRadio (fun r => { r with dup := satInc r.dup })
  else
    let m := a * 14 + sym
    let g := ((s.cell n).streams.get StreamGain.reset i).at_ m
    let out := parts.map (applyGain g)
    let sat := (out.filter (·.2)).length
    let data := (out.map (fun x => leBytes (ofSigned 16 x.1) 2)).flatten
    let s1 := s.modCell n (fun x => { x with
      prbs := x.prbs ++ [code]
      saturations := satAdd x.saturations sat
      streams := x.streams.modify StreamGain.reset i (fun y => { y with sums := addPower m (out.map (·.1)) y.sums }) })
    s1.modRadio (fun r => (r.writeBuf (sampleAt n i a sym prb) data).writeBuf (gainAt n i a sym) [BitVec.ofNat 8 g])

/-- The PRBs of one section, `k` of them, from byte `o` of a message on; PRBs on a poisoned word are zero (Table 9.12). -/
def prbsIn (n i a sym meth width : Nat) (c : Cell) (o first : Nat) : Nat → State → State
  | 0, s => s
  | k + 1, s =>
    let w := prbBytes meth width
    let bad := (List.range ((o + w + 31) / 32 - o / 32)).any (fun j => c.poison.getLsbD (o / 32 + j))
    let parts := if bad then List.replicate 24 0 else unpackPrb meth width ((c.payload.drop o).take w)
    prbsIn n i a sym meth width c (o + w) (first + 1) k (prbIn n i a sym first parts (if bad then consumePoison 1 s else s))

/-- Count a discarded message or section. -/
def fhDiscard (s : State) : State := s.modRadio (fun r => { r with discard := satInc r.discard })

/-- The sections of a message from byte `o` on (R303). -/
def sectionsIn (n i a sym : Nat) (c : Cell) (timing : Nat) : Nat → Nat → State → State
  | 0, _, s => s
  | fuel + 1, o, s =>
    if c.payload.length < o + 6 then s
    else
      let x := beValue ((c.payload.drop o).take 6)
      let count := field x 23 16
      let first := field x 33 24
      let width := field x 15 12
      let meth := field x 11 8
      if !iqOk meth width then fhDiscard s
      else
        let next := o + 6 + count * prbBytes meth width
        if c.payload.length < next then fhDiscard s
        else
          let s1 :=
            if count = 0 then fhDiscard s
            else if timing = 1 then s.modRadio (fun r => { r with ulEarly := satInc r.ulEarly })
            else if timing = 2 then s.modRadio (fun r => { r with ulLate := satInc r.ulLate })
            else if (s.cell n).emptySlots.contains a || (s.cell n).lostSlots.contains a then s
            else prbsIn n i a sym meth width c (o + 6) first count s
          sectionsIn n i a sym c timing fuel next s1

/-- An FH cell is received in a Step that starts at hall time `t`: a message of another revision than 1, a concatenated one and one of
another type than the U-plane's are discarded (R301). -/
def fhCellIn (c : Cell) (t : Nat) (s : State) : State :=
  let h := fhHead c.payload
  if h.rev ≠ 1 || h.concat || h.type ≠ 0 then fhDiscard s
  else match s.streamOf h.pcId with
    | none => fhDiscard s
    | some (n, i) =>
      let g := s.groupOf n
      let last := (s.cell n).seqRx.get 0 h.pcId
      let s1 := s.modCell n (fun x => { x with seqRx := x.seqRx.set 0 h.pcId (h.seq + 1) })
      let s2 := if last ≠ 0 ∧ h.seq ≠ last % 256 then s1.modRadio (fun r => { r with seqGap := satInc r.seqGap }) else s1
      let a := g.messageSlot s.now h
      let sym := h.symbol
      let x := t * exactUnits
      let timing :=
        if x + nsExact 100000 < g.slotStart a then 1
        else if g.symbolStart a sym + nsExact (g.ulLatest.toNat * 100) < x then 2 else 0
      sectionsIn n i a sym c timing 460 12 s2

/-! #### What is sent (R303 to R305, R307) -/

/-- The slot, counted without wrap, whose absolute slot number is `asn`, nearest to now. -/
def RadioGroup.nearSlot (g : RadioGroup) (now asn : Nat) : Nat :=
  let f := g.slotAt now
  let d := (asn + 2 ^ 32 - f % 2 ^ 32) % 2 ^ 32
  if d < 2 ^ 31 then f + d else f + d - 2 ^ 32

/-- The eCPRI common header, PC_ID and SEQ_ID of a message of `len` bytes after them, and the first bytes of the O-RAN header (the
layouts PRESUMED, log entry 27). -/
def RadioGroup.fhHeader (g : RadioGroup) (type pc seq len a symbol : Nat) (downlink : Bool) : List Byte :=
  let f := a % g.slotsPerFrame
  [0x10, BitVec.ofNat 8 type] ++ (leBytes (len + 4) 2).reverse ++ (leBytes pc 2).reverse ++ [BitVec.ofNat 8 seq, 0x80]
  ++ [if downlink then 0x90 else 0x10, BitVec.ofNat 8 (a / g.slotsPerFrame)]
  ++ (leBytes (f / 2 ^ g.mu.toNat * 4096 + f % 2 ^ g.mu.toNat * 64 + symbol) 2).reverse

/-- Does a Step that starts at hall time `t` lie in the window of the U-plane of symbol `n` of slot `a` (R307)? -/
def RadioGroup.uPlaneTime (g : RadioGroup) (a n t : Nat) : Bool :=
  decide (g.symbolStart a n ≤ t * exactUnits + nsExact (g.dlAdvMax.toNat * 100))
  && decide (t * exactUnits + nsExact (g.dlAdvMin.toNat * 100) ≤ g.symbolStart a n)

/-- Does it lie early enough for the C-plane of slot `a`? -/
def RadioGroup.cPlaneTime (g : RadioGroup) (a t : Nat) (uplink : Bool) : Bool :=
  decide (t * exactUnits + nsExact (((if uplink then 0 else g.dlAdvMax.toNat) + g.cpLead.toNat) * 100) ≤ g.slotStart a)

/-- Does the radio work of cell `n` send anything for slot `a`: not for a slot that is empty, lost or not served? -/
def State.sendsSlot (s : State) (n a : Nat) : Bool :=
  let c := s.cell n
  (s.cellSlot n).isSome && c.live && !c.emptySlots.contains a && !c.lostSlots.contains a && c.serves a && !c.losing

/-- Send a message of a stream: its SEQ_ID counts on (R305). -/
def fhSend (n pc : Nat) (f : Nat → List Byte) (s : State) : Option (List Byte) × State :=
  let q := (s.cell n).seqTx.get 0 pc
  (some (f q.toNat), s.modCell n (fun x => { x with seqTx := x.seqTx.set 0 pc (q + 1) }))

/-- A U-plane message of cell `n` for a Step that starts at hall time `t`: one section of consecutive PRBs, the symbol's in ascending
order, full messages before the one with the remainder (R303). -/
def uPlaneOut (n : Nat) (m : UPlane) (t : Nat) (s : State) : Option (List Byte) × State :=
  let c := s.cell n
  let g := s.groupOf n
  let a := g.nearSlot s.now m.slot
  let meth := c.cfg 2 20 20
  let width := c.cfg 2 19 16
  let most := prbsPerMessage meth width
  let sym := a * 14 + m.symbol
  let last := c.txPrb.get (0, 0, false) m.stream
  let inOrder := if last.1 = sym + 1 then decide (m.first = last.2.1) && !last.2.2 else true
  if !s.sendsSlot n a || decide (c.ports ≤ m.stream) || decide (14 ≤ m.symbol) || m.prbs.isEmpty
      || decide (most < m.prbs.length) || !inOrder || !g.uPlaneTime a m.symbol t then (none, s)
  else
    let prbs := (m.prbs.map (fun p => packPrb meth width p.1 p.2)).flatten
    let section_ := (leBytes (m.first % 1024 * 256 + m.prbs.length) 4).reverse ++ [BitVec.ofNat 8 (width * 16 + meth), 0]
    let next : Nat × Nat × Bool := (sym + 1, m.first + m.prbs.length, decide (m.prbs.length < most))
    fhSend n (c.eaxc + m.stream) (fun q => g.fhHeader 0 (c.eaxc + m.stream) q (10 + prbs.length) a m.symbol true
      ++ section_ ++ prbs) (s.modCell n (fun x => { x with txPrb := x.txPrb.set (0, 0, false) m.stream next }))

/-- A C-plane message: section types 1 and 3 (R301). -/
def cPlaneOut (n : Nat) (m : CPlane) (t : Nat) (s : State) : Option (List Byte) × State :=
  let c := s.cell n
  let g := s.groupOf n
  let a := g.nearSlot s.now m.slot
  if !s.sendsSlot n a || !c.hasStream m.stream || !(m.sectionType = 1 || m.sectionType = 3) || decide (14 ≤ m.symbol)
      || !g.cPlaneTime a t m.uplink then (none, s)
  else fhSend n (c.eaxc + m.stream) (fun q => g.fhHeader 2 (c.eaxc + m.stream) q (6 + m.body.length) a m.symbol (!m.uplink)
    ++ [BitVec.ofNat 8 m.sections, BitVec.ofNat 8 m.sectionType] ++ m.body) s

/-- The fronthaul message that the radio work hands over for a Step of cell `n` that starts at hall time `t`. -/
def fhOut (n : Nat) (p : StepPayload) (t : Nat) (s : State) : Option (List Byte) × State :=
  match p with
  | .uPlane m => uPlaneOut n m t s
  | .cPlane m => cPlaneOut n m t s
  | _ => (none, s)

/-! ### Power estimates (R320, R321) -/

/-- SYMBOL_POWER_ESTIMATE: the oldest symbol of a stream whose samples are complete; the gain decision applies from two
symbols later. -/
def powerEstimate (n i : Nat) (s : State) : State :=
  let c := s.cell n
  let g := s.groupOf n
  let st := c.streams.get StreamGain.reset i
  match st.sums with
  | [] => s
  | (m, sum, count) :: rest =>
    if s.nowExact < g.symbolStart (m / 14) (m % 14) + nsExact (g.ulLatest.toNat * 100) then s
    else
      let held := match st.frozen with
        | some (a, b) => decide (a ≤ m ∧ m ≤ b)
        | none => false
      let next := if held then st.g.toNat else nextGain st.g.toNat (gainTarget c.target.toNat) sum count
      let st1 := { st with
        sums := rest, g := BitVec.ofNat 6 next, hist := ((m + 2, next) :: st.hist).take 4 }
      s.modCell n (fun x => { x with streams := x.streams.set StreamGain.reset i st1 })

def execSymbolPowerEstimate (n i : Nat) (s : State) : Host.Outcome State Fault Refusal := .next (powerEstimate n i s)

/-! ### Engines (R323 to R328) -/

/-- Engine kinds in the order of Table 9.7. -/
def engineOf (n : Nat) : Option Engine :=
  [Engine.fft, .ldpcDec, .ldpcEnc, .polar, .rateMatch, .demapper, .correlator][n]?

/-- Instances of an engine. -/
def engineCount : Engine → Nat
  | .fft => 16
  | .ldpcDec => 24
  | .demapper => 4
  | _ => 8

/-- Does a descriptor's work belong to an engine? -/
def EngineWork.engine : EngineWork → Engine
  | .fft _ _ => .fft
  | .ldpcDec _ _ _ => .ldpcDec
  | .ldpcEnc _ => .ldpcEnc
  | .polar _ _ => .polar
  | .rateMatch _ => .rateMatch
  | .demap _ => .demapper
  | .correlate => .correlator

/-- Round a quotient up. -/
def ceilDiv (a b : Nat) : Nat := (a + b - 1) / b

/-- Occupancy in BCLK (Table 9.7); a correlator's is fixed by the plan. -/
def EngineWork.occupancy (len : Nat) : EngineWork → Nat
  | .fft n pf => 24 + (if pf then ceilDiv n 4 else n / 8)
  | .ldpcDec iter rows zc => 4 + iter * ceilDiv (rows * zc) 512
  | .ldpcEnc k => 2 + ceilDiv k 256
  | .polar n enc => if enc then 8 + ceilDiv n 32 else 16 + ceilDiv (3 * n) 4
  | .rateMatch e => 8 + ceilDiv e 128
  | .demap re => 12 + ceilDiv re 32
  | .correlate => len

/-- The 51 lifting sizes of the LDPC codes, a × 2^j up to 384 (PRESUMED from 3GPP TS 38.212, which R301 names). -/
def liftingOk (zc : Nat) : Bool :=
  decide (zc ≤ 384) && [2, 3, 5, 7, 9, 11, 13, 15].any (fun a => (List.range 8).any (fun j => zc == a * 2 ^ j))

/-- Does a descriptor ask for what its engine does (Table 9.7, R324)? -/
def EngineWork.ok : EngineWork → Bool
  | .fft n pf => if pf then n % 12 == 0 && decide (0 < n ∧ n ≤ 3240) && 2 ^ 11 * 3 ^ 7 * 5 ^ 5 % n == 0
      else (List.range 7).any (fun j => n == 64 * 2 ^ j)
  | .ldpcDec iter rows zc => decide (1 ≤ iter ∧ iter ≤ 32) && decide (4 ≤ rows ∧ rows ≤ 46) && liftingOk zc
  | .ldpcEnc k => decide (0 < k ∧ k ≤ 8448)
  | .polar n _ => decide (0 < n ∧ n ≤ 1024)
  | _ => true

/-- Is `d` the data and the result of work `w`? -/
def EngineWork.takes (w : EngineWork) (d : EngineData) : Bool :=
  match w, d with
  | .fft n pf, .fft input _ _ shift fmt _ _ => !pf && decide (input.length = n) && decide (shift ≤ 12) && decide (fmt ≤ 5)
  | .fft _ pf, .bytes _ _ => pf
  | .ldpcDec iter _ _, .ldpc l _ _ _ => decide (l.length = iter)
  | .ldpcEnc _, .bytes _ _ => true
  | .polar _ _, .bytes _ _ => true
  | .rateMatch _, .soft _ _ _ _ _ => true
  | .rateMatch _, .bytes _ _ => true
  | .demap re, .demap bits _ _ l _ => decide (l.length = re) && [1, 2, 4, 6, 8, 10].contains bits
  | .correlate, .prach _ _ _ _ _ l => decide (l.length ≤ 64)
  | .correlate, .pucch _ _ => true
  | .correlate, .srs _ _ _ _ _ => true
  | _, _ => false

/-- Is an engine instance in service? -/
def RadioState.serves (r : RadioState) (e : Engine) (u : Nat) : Bool :=
  match e with
  | .fft => r.fftIn.getLsbD u
  | .ldpcDec => r.ldpcIn.getLsbD u
  | .ldpcEnc => r.miscIn.getLsbD u
  | .polar => r.miscIn.getLsbD (8 + u)
  | .rateMatch => r.miscIn.getLsbD (16 + u)
  | .demapper => r.miscIn.getLsbD (24 + u)
  | .correlator => r.corrIn.getLsbD u

/-- Take an engine instance out of service. -/
def RadioState.retire (r : RadioState) (e : Engine) (u : Nat) : RadioState :=
  match e with
  | .fft => { r with fftIn := r.fftIn &&& ~~~BitVec.twoPow 16 u }
  | .ldpcDec => { r with ldpcIn := r.ldpcIn &&& ~~~BitVec.twoPow 24 u }
  | .ldpcEnc => { r with miscIn := r.miscIn &&& ~~~BitVec.twoPow 28 u }
  | .polar => { r with miscIn := r.miscIn &&& ~~~BitVec.twoPow 28 (8 + u) }
  | .rateMatch => { r with miscIn := r.miscIn &&& ~~~BitVec.twoPow 28 (16 + u) }
  | .demapper => { r with miscIn := r.miscIn &&& ~~~BitVec.twoPow 28 (24 + u) }
  | .correlator => { r with corrIn := r.corrIn &&& ~~~BitVec.twoPow 8 u }

/-- The engine plan of the active Figure. -/
def State.enginePlan (s : State) : List Nat :=
  match s.image with
  | some p => p.engines.get [] s.fab.figure
  | none => []

/-- BCLK edges of the root so far. -/
def State.bclk (s : State) : Nat := s.clock.bclk

/-- ENGINE_ENTRY_START: the entry's time has come. `work` is what its descriptor asks, none if it is not marked valid; an
entry whose descriptor does not fit its LENGTH, or whose instance is out of service, stays idle. -/
def engineEntryStart (entry : Nat) (work : Option EngineWork) (s : State) : State :=
  let s0 := s.modRadio (fun r => { r with runs := r.runs.filter (fun x => x.work.isSome || decide (s.bclk < x.until_)) })
  match s.enginePlan[entry]? with
  | none => s
  | some r =>
    let start := field r 54 36
    let len := field r 35 20
    let unit := field r 59 55
    match engineOf (field r 63 60) with
    | none => s
    | some e =>
      let p := s.clock.plan / 2
      if !s.hasPlan || !decide (start ≤ p ∧ p < start + len) || s0.radio.runs.any (fun x => x.entry == entry) then s
      else
        let fits := work.filter (fun w => decide (w.engine = e) && w.ok && decide (w.occupancy len ≤ len) && s.radio.serves e unit)
        let run : EngineRun := ⟨e, unit, entry, fits,
          s.bclk + (match fits with
            | some w => w.occupancy len
            | none => start + len - p)⟩
        s0.modRadio (fun x => { x with
          runs := x.runs ++ [run], idleEntries := if fits.isSome then x.idleEntries else satInc x.idleEntries })

def execEngineEntryStart (entry : Nat) (work : Option EngineWork) (s : State) : Host.Outcome State Fault Refusal :=
  .next (engineEntryStart entry work s)

/-- 16-bit complex samples in memory order. -/
def cxBytes (l : List Cx) : List Byte :=
  (l.map (fun c => leBytes (ofSigned 32 c.re) 4 ++ leBytes (ofSigned 32 c.im) 4)).flatten

/-- The symbol number of a cell now. -/
def State.symbolNow (s : State) (n : Nat) : Nat :=
  let g := s.groupOf n
  let a := g.slotAt s.now
  a * 14 + ((List.range 14).filter (fun k => decide (g.symbolStart a k ≤ s.nowExact))).length - 1

/-- A detection freezes its stream's gain up to the last symbol of the occasion (R321): a PRACH stream's on preambles, a data
stream's on SRS. -/
def freezeGain (cell stream last : Nat) (prach : Bool) (s : State) : State :=
  if decide (64 ≤ stream) != prach then s
  else
    let m := s.symbolNow cell
    s.modCell cell (fun x => { x with
      freezes := x.freezes + 1
      streams := x.streams.modify StreamGain.reset stream (fun y => { y with frozen := some (m, last) }) })

/-- What entry `n` of the engine plan reports. -/
def engineReport (n : Nat) (r : EngineReport) (s : State) : State :=
  s.modRadio (fun x => { x with reports := x.reports.set none n (some r) })

/-- The rate-matching engine on the soft buffer at byte `off` of a tile with RADIO = 1 (R325): a retransmission into a buffer not
written since its cell started is handled as new, and reported as NO_PRIOR. A poisoned word of the buffer loses the slot
(Table 9.12). -/
def softBuffer (entry cell tile off : Nat) (fresh : Bool) (llrs : List Int) (s : State) : State :=
  let e := s.tile tile
  let known := (s.cell cell).soft.contains (tile * tileBytes + off)
  if !(e.radio && e.inHbm) || decide (tileBytes < off + llrs.length) then s
  else if !fresh && known && s.tilePoisoned tile off llrs.length then loseSlot cell (consumePoison 1 s)
  else
    let old := (s.tileRead tile off llrs.length).map BitVec.toInt
    let new_ := softCombine (fresh || !known) old llrs
    let s1 := (runWrite tile off 1 (new_.map (fun v => BitVec.ofInt 8 v)) s).modCell cell
      (fun x => { x with soft := natInsert (tile * tileBytes + off) x.soft })
    if fresh || known then s1 else engineReport entry (.noPrior cell tile off) s1

/-- What an engine leaves when the descriptor of entry `n` is done. -/
def engineResult (n : Nat) (d : EngineData) (s : State) : State :=
  match d with
  | .fft input exps inverse shift fmt out side =>
    let r := fft inverse shift (fftInput input exps)
    let y := fftOutput fmt r.1
    s.modRadio (fun x => { (x.writeBuf out y.1).writeBuf side y.2 with fftSat := satAdd x.fftSat r.2 })
  | .demap bits first out symbols scales =>
    let llrs := (List.range symbols.length).flatMap (fun i =>
      let y := symbols.getD i (0, 0)
      demap bits (first + i) (scales.getD (i / 12) 0) ⟨y.1, y.2⟩)
    s.modRadio (fun x => x.writeBuf out (llrs.map (fun v => BitVec.ofInt 8 v)))
  | .ldpc l out data crc =>
    engineReport n (.ldpc (l.findIdx? (· == true)) crc) (s.modRadio (fun x => x.writeBuf out data))
  | .soft cell tile off fresh llrs => softBuffer n cell tile off fresh llrs s
  | .bytes out data => s.modRadio (fun x => x.writeBuf out data)
  | .prach cell stream last thresh noise peaks =>
    let found := peaks.filter (fun p => decide (thresh * noise ≤ p.power))
    let s1 := engineReport n (.prach cell stream found) s
    if found.isEmpty then s1 else freezeGain cell stream last true s1
  | .pucch sequence metric => engineReport n (.pucch sequence metric) s
  | .srs cell stream last out estimates =>
    freezeGain cell stream last false (engineReport n (.srs cell stream estimates.length)
      (s.modRadio (fun x => x.writeBuf out (cxBytes (estimates.map (fun p => ⟨p.1, p.2⟩))))))

/-- Events of a finished descriptor (Table 3.4). -/
def engineEvents (w : EngineWork) (s : State) : State :=
  match w with
  | .fft _ _ => countBelfry 0x1403 none 1 s
  | .ldpcDec iter _ _ => countBelfry 0x1402 none iter (countBelfry 0x1401 none 1 s)
  | _ => s

/-- ENGINE_DESCRIPTOR_DONE: the occupancy of a running entry is over, and `d` is its descriptor's data and result. -/
def engineDone (entry : Nat) (d : EngineData) (s : State) : State :=
  match s.radio.runs.find? (fun x => x.entry == entry && decide (x.until_ ≤ s.bclk)
      && x.work.any (fun w => w.takes d)) with
  | some r =>
    let s1 := s.modRadio (fun x => { x with runs := x.runs.erase r })
    match r.work with
    | some w => engineEvents w (engineResult entry d s1)
    | none => s1
  | none => s

def execEngineDescriptorDone (entry : Nat) (d : EngineData) (s : State) : Host.Outcome State Fault Refusal :=
  .next (engineDone entry d s)

/-! ### Faults (R338, Table 9.12) -/

/-- RADIO_FAULT. -/
def radioEvent (f : RadioEvent) (s : State) : State :=
  match f with
  | .spire k => if s.role k = .radioOwned then radioPartFault (.spire k) s else s
  | .engineOut e u => if s.radio.serves e u then radioPartFault .engine (s.modRadio (fun r => r.retire e u)) else s
  | .laneOut n =>
    if (s.lane n).regs.state = .up then s else radioPartFault (.lane n) s
  | .windowWork k => loseWindowSlots k s
  | .sample _ => consumePoison 1 s
  | .data c => if (s.cell c).live then loseSlot c (consumePoison 1 s) else s

def execRadioFault (f : RadioEvent) (s : State) : Host.Outcome State Fault Refusal := .next (radioEvent f s)

end Sys2Proof.Machine
end

