-- ==== Sys2Proof/Machine/Remote.lean ====
section
/-! DEFINITION. The remote-memory engine (12): requests and their identifiers, the checks at the requester and at the
target, application, replay records, replies, fences, retransmission and loss. -/

namespace Sys2Proof.Machine

open Sys2Proof

/-- Change the remote-memory engine. -/
def State.modRm (s : State) (f : RmState → RmState) : State := { s with rm := f s.rm }

/-- Change its counters. -/
def State.modRmRegs (s : State) (f : RmCounters → RmCounters) : State := s.modRm (fun m => { m with regs := f m.regs })

/-! ### Operations (R400, Table 12.1) -/

/-- Bytes of an operation. -/
def opBytes (op : Nat) : Nat := if op % 2 = 1 then 8 else 4

/-- Is an operation a write: a store or an atomic? -/
def opWrites (op : Nat) : Bool := decide (2 ≤ op ∧ op ≤ 15)

/-- Is an operation an atomic? -/
def opAtomic (op : Nat) : Bool := decide (4 ≤ op ∧ op ≤ 15)

/-- The code under which a request record of R429 stands in the list of requests. -/
def fenceOp : Nat := 16

/-- The word that an operation leaves, from the word before it, its operand and its swap value. -/
def opResult (op old operand swap : Nat) : Nat :=
  let w := 8 * opBytes op
  let a := operand % 2 ^ w
  let lessS := decide (toSigned w a < toSigned w old)
  match op / 2 with
  | 1 => a
  | 2 => (old + a) % 2 ^ w
  | 3 => if lessS then a else old
  | 4 => if lessS then old else a
  | 5 => min old a
  | 6 => max old a
  | 7 => if old = a then swap % 2 ^ w else old
  | _ => old

/-! ### Global addresses (R376) -/

/-- The chip of a global address. -/
def addrChip (a : DWord) : Nat := field a.toNat 63 48

/-- Is the space of a global address one of Table 10.14, with the bits above its offset 0? -/
def addrOk (a : DWord) : Bool :=
  if field a.toNat 47 44 = 0 then field a.toNat 43 42 == 0
  else if field a.toNat 47 44 = 1 then field a.toNat 43 30 == 0
  else false

/-- Does a global address name a Spire store? -/
def addrSpire (a : DWord) : Bool := field a.toNat 47 44 == 1

/-- Tile of an address of space 0, and the byte in it. -/
def addrTile (a : DWord) : Nat × Nat := (field a.toNat 41 18, field a.toNat 17 0)

/-- Spire of an address of space 1, and the byte in its store. -/
def addrStore (a : DWord) : Nat × Nat := (field a.toNat 29 25, field a.toNat 24 0)

/-! ### Checks at the requester (R406, Table 12.2) -/

/-- The gateway: RM_GW_CHIP, if it is VALID and names a near-set chip. -/
def State.gateway (s : State) : Option Nat :=
  let g := s.rm.regs.gwChip.toNat
  if s.rm.regs.gwValid && (s.near g).isSome then some g else none

/-- The first row of Table 12.2 that applies to a request of a job, if any. -/
def State.rmRefusal (s : State) (job op : Nat) (a : DWord) : Option Nat :=
  let c := addrChip a
  let far := decide (c ≠ s.chipId) && (s.near c).isNone
  if a.toNat % opBytes op ≠ 0 || !addrOk a then some stBadArg
  else if s.rm.lost.contains c || s.rm.farLost.contains c || s.rm.jobLost.contains (job, c) then some stTargetLost
  else if far && opAtomic op then some stBadArg
  else if far && s.gateway.isNone then some stBadArg
  else if s.image.isNone && decide (c ≠ s.chipId) then some stConflict
  else none

/-- The chip that a request is sent to: the target, or the gateway. -/
def State.rmVia (s : State) (a : DWord) : Nat :=
  let c := addrChip a
  if c = s.chipId || (s.near c).isSome then c else s.gateway.getD c

/-! ### Requests (R404, R405, R421 to R423) -/

/-- The source context of the host. -/
def hostCtx : Nat := 256

/-- The source context of staging line `n`. -/
def lineCtx (n : Nat) : Nat := 8192 + n

/-- Requests that a context, or the chip, may have outstanding. -/
def ctxMax : Nat := 64
def chipMax : Nat := 16384

/-- Is a request outstanding: sent and without a final reply? -/
def RmRequest.open_ (r : RmRequest) : Bool := r.reply.isNone && !r.queued

/-- Requests outstanding (RM_OUTSTANDING). -/
def RmState.outstanding (m : RmState) : Nat := (m.reqs.filter (fun r => r.reply.isNone)).length

/-- The tag table's entry of a context's tag. -/
def RmState.tag (m : RmState) (ctx tag : Nat) : TagUse := m.tags.get TagUse.reset (ctx * 4096 + tag)

/-- Change the use of a context's tag. -/
def State.modTag (s : State) (ctx tag : Nat) (f : TagUse → TagUse) : State :=
  s.modRm (fun m => { m with tags := m.tags.modify TagUse.reset (ctx * 4096 + tag) f })

/-- Hall time that must pass before a tag is used again. -/
def tagRest : Nat := nsUnits 2000000

/-- May a tag be used now (R421)? -/
def TagUse.usable (now : Nat) (u : TagUse) : Bool := decide (u = TagUse.reset) || (!u.used && decide (u.last + tagRest ≤ now))

/-- The tag that the engine assigns: the lowest usable one of the context (DESIGN CHOICE, log entry 24). -/
def State.freeTag (s : State) (ctx : Nat) : Option Nat :=
  (List.range 4096).find? (fun t => (s.rm.tag ctx t).usable s.now)

/-- May a queued request go: no earlier request of its context is queued, no earlier write to the same 8-byte word is
without its reply, no earlier fence is open, and there is room (R405, R422)? -/
def RmState.mayGo (m : RmState) (r : RmRequest) : Bool :=
  let mine := m.reqs.filter (fun e => e.ctx == r.ctx && e.reply.isNone)
  !(mine.any (fun e => decide (e.uid < r.uid) && (e.queued || (opWrites e.op && e.addr.toNat / 8 == r.addr.toNat / 8))))
  && !(m.fences.any (fun f => f.ctx == r.ctx && decide (f.uid ≤ r.uid)))
  && decide ((mine.filter (fun e => !e.queued)).length < ctxMax)
  && decide ((m.reqs.filter RmRequest.open_).length < chipMax)

/-- The record of a request. -/
def RmRequest.record (r : RmRequest) (own : Nat) (again : Bool) : RmRecord where
  kind := 1
  op := if r.op = fenceOp then 0 else r.op
  gen := r.gen
  tag := r.tag
  origin := 0
  flag := again
  lease := r.lease
  status := 0
  ctx := r.ctx
  addr := if r.op = fenceOp then 0 else r.addr
  operand := r.operand
  swap := r.swap
  src := own
  dst := r.dst
  ready := 0
  full := false
  mid := none

/-! ### The queues of the target (R410, R411) -/

/-- The queue that a request record waits in: its word's stack, or its Spire (counted from 32). -/
def State.rmQueue (s : State) (r : RmRecord) : Nat :=
  if addrSpire r.addr then 32 + (addrStore r.addr).1 else (s.tile (addrTile r.addr).1).stack.toNat

/-- Records that one queue holds. -/
def rmQueueMax : Nat := 256

/-- The place of a record among those that wait: behind every record of its Step and lane, and of earlier ones (R411). -/
def placeRecord (r : RmRecord) (l : List RmRecord) : List RmRecord :=
  l.takeWhile (fun x => decide (x.ready ≤ r.ready)) ++ r :: l.dropWhile (fun x => decide (x.ready ≤ r.ready))

/-- The order of a record that the lanes have not brought: it stands behind those that wait (DESIGN CHOICE, log entry 148). -/
def RmState.lastKey (m : RmState) : Nat := (m.inbox.map (·.ready)).foldl max 0

/-- A request record for this chip's own memory arrives, with `key` for the Step and the lane that carried it. -/
def rmArrive (key : Nat) (r : RmRecord) (s0 : State) : State :=
  let s := returnToRun s0
  let q := s.rmQueue r
  let n := (s.rm.inbox.filter (fun x => s.rmQueue x == q && !x.full)).length
  s.modRm (fun m => { m with inbox := placeRecord { r with ready := key, full := decide (rmQueueMax ≤ n) } m.inbox })

/-! ### Lines and DATA cells (R431, Table 12.6) -/

/-- Bytes of a staging line. -/
def lineBytes : Nat := 4096

/-- Staging line `n`. -/
def State.line (s : State) (n : Nat) : StageLine := s.rm.lines.get StageLine.reset n

/-- Change staging line `n`. -/
def State.modLine (s : State) (n : Nat) (f : StageLine → StageLine) : State :=
  s.modRm (fun m => { m with lines := m.lines.modify StageLine.reset n f })

/-- A DATA cell that carries half `h` of a line: the line's data, their mask and poison. -/
def lineCell (own dst ctx src lease gen tag : Nat) (addr : Nat) (h : Bool) (data : Mem) (mask : Nat) : Cell :=
  let base := if h then 2048 else 0
  let poison := (List.range 64).foldl (fun (b : BitVec 86) w =>
    if data.poison.contains (base / 32 + w) then b ||| BitVec.twoPow 86 w else b) 0
  { type := cellData, figure := 0, hops := 0, dst := dst, src := own, pavane := 0, period := 0, flow := 0, step := 0,
    seq := 0,
    info := BitVec.ofNat 128 (addr + (ctx + flagAt h 15) * 2 ^ 64 + src * 2 ^ 80 + (lease + gen * 2 ^ 12) * 2 ^ 96
      + tag * 2 ^ 112),
    poison := poison,
    payload := data.readBytes base 2048 ++ leBytes (mask / (if h then 2 ^ 512 else 1)) 64 }

/-- The two DATA cells of a store line's transfer. -/
def lineTransfer (n : Nat) (r : RmRequest) (s : State) : List Cell :=
  let l := s.line n
  [false, true].map (fun h =>
    lineCell s.chipId r.dst r.ctx l.src l.lease r.gen r.tag l.block.toNat h l.data l.mask.toNat)

/-! ### Sending (R406, R417) -/

/-- Hand a request to its way: the local engine, the lanes, or, for a store line, its DATA cells. -/
def rmTransmit (r : RmRequest) (again : Bool) (s : State) : State :=
  match r.owner, opWrites r.op with
  | .line n, true => s.modRm (fun m => { m with cells := m.cells ++ lineTransfer n r s })
  | _, _ =>
    let rec_ := r.record s.chipId again
    if r.dst = s.chipId then
      let touch (x : RmRequest) : RmRequest :=
        if x.uid = r.uid then { x with sent := some (x.sent.getD s.now), lastTx := s.now } else x
      rmArrive s.rm.lastKey { rec_ with origin := periodNo s.now % 256 }
        ((s.modRm (fun m => { m with reqs := m.reqs.map touch })).modTag r.ctx r.tag (fun u => { u with last := s.now }))
    else s.modRm (fun m => { m with outbox := m.outbox ++ [rec_] })

/-- Give a queued request its identifier and send it. -/
def rmSend (r : RmRequest) (s : State) : State :=
  match s.freeTag r.ctx with
  | none => s
  | some t =>
    let g := ((s.rm.tag r.ctx t).gen + 1) % 16
    let r1 := { r with queued := false, tag := t, gen := g }
    let s1 := s.modTag r.ctx t (fun u => { u with gen := g, used := true })
    rmTransmit r1 false (s1.modRm (fun m => { m with reqs := m.reqs.map (fun x => if x.queued ∧ x.uid = r.uid then r1 else x) }))

/-- Send the queued requests that may go, in issue order. -/
def rmPump (s : State) : State :=
  (s.rm.reqs.filter (·.queued)).foldl (fun t r => if t.rm.mayGo r then rmSend r t else t) s

/-- Queue a request that has passed Table 12.2. -/
def rmIssue (owner : RmOwner) (ctx lease job op dst : Nat) (addr operand swap : DWord) (s : State) : State :=
  let r : RmRequest :=
    ⟨s.rm.nextUid, true, ctx, 0, 0, op, addr, operand, swap, lease, job, owner, dst, none, 0, 0, none, false, false⟩
  rmPump (s.modRm (fun m => { m with reqs := m.reqs ++ [r], nextUid := m.nextUid + 1 }))

/-! ### Threads and the host (R401, R403) -/

/-- Write a thread's register; x0 discards. -/
def Thread.setX (t : Thread) (rd : Nat) (v : DWord) : Thread :=
  if rd = 0 then t else { t with x := t.x.set 0 rd v }

/-- Change thread `t` of Spire `k`. -/
def State.modThread (s : State) (k t : Nat) (f : Thread → Thread) : State :=
  s.modCc k (fun c => { c with threads := c.threads.modify Thread.reset t f })

/-- Thread `t` of Spire `k`. -/
def State.thread (s : State) (k t : Nat) : Thread := (s.spire k).cc.threads.get Thread.reset t

/-- A waiting thread becomes ready. -/
def Thread.wake (t : Thread) : Thread := if t.mode = .waiting then { t with mode := .ready, wait := .nothing } else t

/-- The final reply of a load or an atomic reaches its thread: rd the data, rd + 1 the status. -/
def threadReply (k t rd status : Nat) (data : DWord) (s : State) : State :=
  s.modThread k t (fun x =>
    ((x.setX rd (if status = stOk then data else 0)).setX (rd + 1) (BitVec.ofNat 64 status)).wake)

/-- What a request's owner gets when the request is final. A store's thread learns nothing (R425). -/
def rmAnswer (r : RmRequest) (status : Nat) (data : DWord) (s : State) : State :=
  if r.dropped then s
  else match r.owner with
    | .thread k t rd => if opWrites r.op && !opAtomic r.op then s else threadReply k t rd status data s
    | .host iss => complete iss 0x11 ⟨status, if status = stOk then data.toNat else 0, 0⟩ s
    | .line _ => s

/-! ### Fences (R424, R425) -/

/-- The status of a fence: that of the first covered write, in issue order, that was not ST_OK. -/
def RmFence.status (f : RmFence) : Nat :=
  match leastOf (f.bad.map (·.1)) with
  | some u => ((f.bad.find? (fun p => p.1 == u)).map (·.2)).getD stOk
  | none => stOk

/-- A fence is complete: its owner gets the status. -/
def fenceDone (f : RmFence) (s : State) : State :=
  match f.owner with
  | .thread k t rd => s.modThread k t (fun x => (x.setX rd (BitVec.ofNat 64 f.status)).wake)
  | .host iss => complete iss 0x12 (.of f.status) s
  | .line _ => s

/-- Complete the fences that wait for nothing more. -/
def fencesDone (s : State) : State :=
  let done := s.rm.fences.filter (fun f => f.waits.isEmpty)
  done.foldl (fun t f => fenceDone f t) (s.modRm (fun m => { m with fences := m.fences.filter (fun f => !f.waits.isEmpty) }))

/-- A covered write has its outcome. -/
def RmFence.settle (uid status : Nat) (f : RmFence) : RmFence :=
  if f.waits.contains uid then
    { f with waits := f.waits.erase uid, bad := if status = stOk then f.bad else f.bad ++ [(uid, status)] }
  else f

/-- A fence of a context: it waits for the context's writes without outcome, and for the gateway's answer where one of
them goes through the gateway (R429). It covers the writes since the fence before it, those that have ended too (DEDUCED, log
entry 148). -/
def rmFence (owner : RmOwner) (ctx lease job : Nat) (s : State) : State :=
  let ws := s.rm.reqs.filter (fun r => r.ctx == ctx && opWrites r.op && r.reply.isNone)
  let gws := (ws.filter (fun r => decide (r.dst ≠ addrChip r.addr))).map (·.dst)
  let s1 := gws.eraseDups.foldl (fun t g => rmIssue (.line 0) ctx lease job fenceOp g 0 0 0 t) s
  let asks := (List.range (s1.rm.nextUid - s.rm.nextUid)).map (s.rm.nextUid + ·)
  let f : RmFence := ⟨ctx, owner, s1.rm.nextUid, ws.map (·.uid) ++ asks, (s.rm.badWrites.filter (·.1 == ctx)).map (·.2)⟩
  fencesDone (s1.modRm (fun m => { m with
    fences := m.fences ++ [f], nextUid := m.nextUid + 1, badWrites := m.badWrites.filter (·.1 != ctx) }))

/-! ### The end of a request (R418, R421) -/

/-- A request is final. `came` says that its reply has arrived: a write then owes its acknowledgement, and a load's tag may
rest; without a reply the tag stays in use (R421). -/
def rmFinish (r : RmRequest) (status : Nat) (data : DWord) (came : Bool) (s : State) : State :=
  let owes := came && opWrites r.op
  let r1 := { r with reply := some (status, data), ackDue := owes }
  let bad := opWrites r.op && decide (status ≠ stOk ∧ r.ctx ≤ hostCtx) && !r.dropped && !s.rm.fences.any (fun f => f.waits.contains r.uid)
  let s1 := s.modRm (fun m => { m with
    badWrites := if bad then m.badWrites ++ [(r.ctx, r.uid, status)] else m.badWrites
    reqs := if owes then m.reqs.map (fun x => if x.uid = r.uid then r1 else x) else m.reqs.filter (fun x => x.uid != r.uid)
    outbox := m.outbox.filter (fun x => !(x.kind == 1 && x.ctx == r.ctx && x.tag == r.tag && x.gen == r.gen && x.src == s.chipId))
    fences := m.fences.map (RmFence.settle r.uid status) })
  let s2 := if came && !owes && !r.queued then s1.modTag r.ctx r.tag (fun u => { u with used := false }) else s1
  rmPump (fencesDone (rmAnswer r status data s2))

/-! ### Gateway outcomes (R427 to R430) -/

/-- The reply record of a request. -/
def replyRecord (own inc : Nat) (r : RmRecord) (status : Nat) (data : DWord) (replayed : Bool) (ready : Nat) : RmRecord where
  kind := 2
  op := r.op
  gen := r.gen
  tag := r.tag
  origin := 0
  flag := replayed
  lease := 0
  status := status
  ctx := r.ctx
  addr := data
  operand := BitVec.ofNat 64 inc
  swap := 0
  src := own
  dst := r.src
  ready := ready
  full := false
  mid := none

/-- From the application of a request to the earliest Step that may carry its reply: 256 BCLK. -/
def State.replyReady (s : State) : Nat := s.now + 256 * s.time.incr

/-- Put a reply on its way to another chip. -/
def replyOut (r : RmRecord) (status : Nat) (data : DWord) (replayed : Bool) (s : State) : State :=
  s.modRm (fun m => { m with
    outbox := m.outbox ++ [replyRecord s.chipId m.regs.incarnation.toNat r status data replayed s.replyReady] })

/-- Replay records in the table. -/
def replayMax : Nat := 65536

/-- Make a replay record (R412). -/
def keepReplay (r : RmRecord) (status : Nat) (data : DWord) (s : State) : State :=
  s.modRm (fun m => { m with replay := m.replay ++ [⟨r.src, r.ctx, r.tag, r.gen, status, data, opAtomic r.op, s.now⟩] })

/-- Answer the fences of a context that wait at the gateway, once no store line of it is left. -/
def answerGwFences (src ctx : Nat) (s : State) : State :=
  if s.rm.lines.entries.any (fun p => p.2.used && !p.2.load && p.2.src == src && p.2.ctx == ctx) then s
  else
    let mine := s.rm.gwFences.filter (fun r => r.src == src && r.ctx == ctx)
    let s1 := s.modRm (fun m => { m with gwFences := m.gwFences.filter (fun r => !(r.src == src && r.ctx == ctx)) })
    mine.foldl (fun t r => replyOut r r.status 0 false t) s1

/-- A staging line is free, if there is one. -/
def State.freeLine (s : State) : Option Nat :=
  (List.range (s.rm.lines.entries.length + 1)).find? (fun n => decide (n < 8192) && !(s.line n).used)

/-- Bit mask of the 4-byte words of `n` bytes at offset `o` of a line. -/
def wordMask (o n : Nat) : BitVec 1024 := BitVec.ofNat 1024 ((2 ^ (n / 4) - 1) * 2 ^ (o / 4))

/-- Merge a store into a line. -/
def StageLine.merge (r : RmRecord) (l : StageLine) : StageLine :=
  let o := r.addr.toNat % lineBytes
  { l with data := l.data.writeLE o (opBytes r.op) r.operand.toNat, mask := l.mask ||| wordMask o (opBytes r.op),
           reqs := l.reqs ++ [r] }

/-- Take a line for a request: a load asks the far chip for the block, a store waits to be gathered. -/
def takeLine (n : Nat) (r : RmRecord) (s : State) : State :=
  let load := !opWrites r.op
  let block := BitVec.ofNat 64 (r.addr.toNat / lineBytes * lineBytes)
  let l : StageLine := { StageLine.reset with
    src := r.src, ctx := r.ctx, lease := r.lease, far := addrChip r.addr, block := block, load := load, since := s.now,
    moving := load, used := true }
  let l1 := if load then { l with reqs := [r] } else l.merge r
  let s1 := s.modLine n (fun _ => l1)
  if load then rmIssue (.line n) (lineCtx n) r.lease 0 1 (addrChip r.addr) block (BitVec.ofNat 64 r.src) 0 s1 else s1

/-- The line into which a store is merged. -/
def State.mergeLine (s : State) (r : RmRecord) : Option Nat :=
  (s.rm.lines.entries.find? (fun p => p.2.used && !p.2.load && !p.2.moving && p.2.src == r.src && p.2.ctx == r.ctx
    && p.2.lease == r.lease && p.2.block.toNat == r.addr.toNat / lineBytes * lineBytes)).map (·.1)

/-- Give a request of the gateway its line, if one is there. -/
def placeLine (r : RmRecord) (s : State) : Option State :=
  match if opWrites r.op then s.mergeLine r else none with
  | some n => some (s.modLine n (StageLine.merge r))
  | none => match s.freeLine with
    | some n => some (takeLine n r s)
    | none => none

/-- The requests that wait for a line try again, in their order. -/
def retryWaiting (s : State) : State :=
  s.rm.waiting.foldl (fun t r =>
    match placeLine r t with
    | some u => u.modRm (fun m => { m with waiting := m.waiting.erase r })
    | none => t) s

/-- A line's transfer, or its load, has its outcome: every request of the line gets it, the line is free, fences that
waited are answered, and waiting requests take the line. -/
def lineDone (n status : Nat) (data : Mem) (s : State) : State :=
  let l := s.line n
  let s1 := s.modRm (fun m => { m with lines := m.lines.set StageLine.reset n StageLine.reset })
  let answer (t : State) (r : RmRecord) : State :=
    if opWrites r.op then replyOut r status 0 false (keepReplay r status 0 t)
    else
      let v := data.readLE (r.addr.toNat % lineBytes) (opBytes r.op)
      let bad := data.poisonedAt (r.addr.toNat % lineBytes)
      let st := if status = stOk ∧ bad then stUnusable else status
      replyOut r st (if st = stOk then BitVec.ofNat 64 v else 0) false t
  let s2 := l.reqs.foldl answer s1
  let note (r : RmRecord) : RmRecord :=
    if r.src = l.src ∧ r.ctx = l.ctx ∧ r.status = stOk then { r with status := status } else r
  let s3 := if l.load then s2 else answerGwFences l.src l.ctx
    (s2.modRm (fun m => { m with gwFences := m.gwFences.map note }))
  retryWaiting s3

/-- A final request of a staging line ends the line. -/
def rmFinal (r : RmRequest) (status : Nat) (data : DWord) (came : Bool) (s : State) : State :=
  let s1 := rmFinish r status data came s
  match r.owner with
  | .line n => if r.op = fenceOp then s1 else lineDone n status Mem.empty s1
  | _ => s1

/-! ### Loss (R414, R418 to R420, R432) -/

/-- The far chips of the requests that are outstanding through gateway `g` are lost with it (Table 12.7). -/
def loseBehind (g : Nat) (s : State) : State :=
  let far := (s.rm.reqs.filter (fun r => r.reply.isNone && r.dst == g && r.op != fenceOp && addrChip r.addr != g)).map
    (fun r => addrChip r.addr)
  s.modRm (fun m => { m with farLost := (m.farLost ++ far).eraseDups })

/-- They are lost until RM_GW_CHIP names a near-set gateway. -/
def regainFar (s : State) : State := if s.gateway.isSome then s.modRm (fun m => { m with farLost := [] }) else s

/-- Every request without a final reply that a test picks completes with ST_TARGET_LOST. -/
def loseRequests (pick : RmRequest → Bool) (s : State) : State :=
  ((s.rm.reqs.filter (fun r => r.reply.isNone && pick r)).map (·.uid)).foldl (fun t u =>
    match t.rm.reqs.find? (fun r => r.uid == u && r.reply.isNone) with
    | some r => rmFinal r stTargetLost 0 false t
    | none => t) s

/-- A chip is declared lost to this chip (R419): its requests end, its replay records go. -/
def rmLose (chip : Nat) (s : State) : State :=
  let s1 := s.modRm (fun m => { m with
    lost := if m.lost.contains chip then m.lost else m.lost ++ [chip]
    replay := m.replay.filter (fun r => r.src != chip) })
  loseRequests (fun r => r.dst == chip || (r.op != fenceOp && addrChip r.addr == chip)) s1

/-- A chip leaves the governor's lists (Table 15.8). -/
def leaveGovernor (chip : Nat) (s : State) : State :=
  let drop (g : Governor) : Governor :=
    { g with candidates := g.candidates.filter (· != chip), suspects := g.suspects.filter (· != chip) }
  { s with rel := { s.rel with gov := drop s.rel.gov } }

/-- What a loss does here (R419, R522, R526): the chip is lost, leaves the governor's lists, its good periods start again,
and an error record is written (Table 15.5, OUTCOME 5). -/
def chipLost (chip : Nat) (s : State) : State :=
  let s1 := leaveGovernor chip (rmLose chip s)
  let fresh (x : Liveness) : Liveness := { x with goodRun := 0 }
  errRecord 9 5 chip 0 0 0 0 { s1 with rel := { s1.rel with live := s1.rel.live.modify Liveness.reset chip fresh } }

/-- What a return does here (R524): the bit clears and the kept INCARNATION is taken afresh. -/
def chipReturned (chip : Nat) (s : State) : State :=
  errRecord 9 6 chip 0 0 0 0 (s.modRm (fun m => { m with lost := m.lost.filter (· != chip), incs := m.incs.set 0 chip 0 }))

/-- The payload of a liveness notice (R562). -/
def noticeBytes (kind chip period inc : Nat) : List Byte :=
  leBytes kind 2 ++ leBytes chip 2 ++ leBytes period 4 ++ leBytes inc 2 ++ leBytes 0 54

/-- A notice to every chip of the near set waits for the Dome's flows (R523). -/
def tellNear (kind chip inc : Nat) (s : State) : State :=
  let l := noticeBytes kind chip (s.now / periodUnits) inc
  let new := s.nearSet.map (fun r => (field r 63 48, l))
  { s with rel := { s.rel with notices := s.rel.notices ++ new } }

/-- This chip declares another lost (R420, R522, R523). -/
def declareLost (chip : Nat) (s : State) : State := tellNear 1 chip (s.rm.incs.get 0 chip - 1) (chipLost chip s)

/-- A chip that this chip has declared lost returns (R523, R524). -/
def declareReturn (chip : Nat) (s : State) : State := tellNear 2 chip 0 (chipReturned chip s)

/-! ### Replies at the requester (R417, R420) -/

/-- Count a stale record. -/
def countStale (s : State) : State :=
  countBelfry 0x1503 none 1 (s.modRmRegs (fun c => { c with stale := satInc c.stale }))

/-- The outstanding request that a reply's identifier names. -/
def RmState.requestOf (m : RmState) (ctx tag gen : Nat) : Option RmRequest :=
  m.reqs.find? (fun r => r.ctx == ctx && r.tag == tag && r.gen == gen && r.open_)

/-- A reply record arrives from chip `src`. -/
def rmReply (r : RmRecord) (s : State) : State :=
  match s.rm.requestOf r.ctx r.tag r.gen with
  | none => countStale s
  | some q =>
    let inc := field r.operand.toNat 15 0 + 1
    let kept := s.rm.incs.get 0 r.src
    if (s.near r.src).isSome && kept ≠ 0 && kept ≠ inc then
      declareLost r.src (rmFinal q stTargetLost 0 true s)
    else
      let s1 := if (s.near r.src).isSome && kept = 0 then s.modRm (fun m => { m with incs := m.incs.set 0 r.src inc }) else s
      rmFinal q r.status r.addr true s1

/-- Answer a request record of this chip's own engine: another chip gets a reply, the chip itself gets it at once. -/
def rmRespond (r : RmRecord) (status : Nat) (data : DWord) (replayed : Bool) (s : State) : State :=
  if r.src = s.chipId then
    match s.rm.requestOf r.ctx r.tag r.gen with
    | some q => rmFinal q status data true s
    | none => countStale s
  else replyOut r status data replayed s

/-! ### Checks at the target (R409, R410, R413, R414) -/

/-- What the replay table says of a request. -/
inductive ReplayMatch where
  | none_
  | answer (p : ReplayRec)
  | old
  | newer (p : ReplayRec)
  deriving DecidableEq, Repr

/-- Compare a request with the replay record of its source, context and tag. -/
def RmState.match_ (m : RmState) (r : RmRecord) : ReplayMatch :=
  match m.replay.find? (fun p => p.src == r.src && p.ctx == r.ctx && p.tag == r.tag) with
  | none => .none_
  | some p =>
    let ahead := (r.gen + 16 - p.gen) % 16
    if ahead = 0 then .answer p else if ahead < 8 then .newer p else .old

/-- The job that a request of this chip comes from (R102). -/
def State.jobsBehind (s : State) (r : RmRecord) : List Nat :=
  ((s.rm.reqs.filter (fun q => r.src == s.chipId && q.ctx == r.ctx && q.tag == r.tag)).map (·.job)).filter (· != 0)

/-- Answer a request from its replay record (R413). -/
def answerReplay (p : ReplayRec) (r : RmRecord) (s : State) : State :=
  let jobs := s.jobsBehind r
  let s1 := countBelfry 0x1502 none 1 s
  let s2 := if p.atomic then countNd 3 1 jobs s1 else s1
  let s3 := s2.modRm (fun m => { m with replay := m.replay.map (fun x => if x = p then { x with last := s.now } else x) })
  rmRespond r p.status p.data true s3

/-- The first grant that matches a source (R409); of two it is the lower one (host argument error of R433). -/
def State.grantFor (s : State) (chip lease : Nat) : Option Grant :=
  (s.rm.grants.entries.find? (fun p => p.2.valid && p.2.srcChip.toNat == chip && p.2.srcLease.toNat == lease)).map (·.2)

/-- The chip whose grant a record needs: the original requester's for a line (R428), else the sender. -/
def RmRecord.grantChip (r : RmRecord) : Nat := if 8192 ≤ r.ctx then field r.operand.toNat 15 0 else r.src

/-- Stores that the gateway holds, each with a replay record of its own (R427). -/
def RmState.heldStores (m : RmState) : Nat :=
  (m.lines.entries.map (fun p => (p.2.reqs.filter (fun r => opWrites r.op)).length)).foldl (· + ·) 0

/-- Replay records in use: of applied writes, of the gateway's stores, and of the atomics between their two slots. -/
def RmState.replayUsed (m : RmState) : Nat :=
  m.replay.length + m.heldStores + (m.inbox.filter (fun r => r.mid.isSome)).length

/-- Bytes that a record touches. -/
def RmRecord.bytes (r : RmRecord) : Nat := if 8192 ≤ r.ctx then lineBytes else opBytes r.op

/-- Does Spire `k` hold a job of a lease? -/
def State.holdsJobOf (s : State) (k lease : Nat) : Bool :=
  match (s.spire k).ctx with
  | .job id => s.jobLease id == lease
  | _ => false

/-- The first row of Table 12.4, rows 2 to 8, that applies to a record, if any. -/
def State.targetRefusal (s : State) (r : RmRecord) : Option Nat :=
  let write := opWrites r.op
  if s.clk.chipState ≠ .ready || s.image.isNone then some stConflict
  else if addrChip r.addr ≠ s.chipId || !addrOk r.addr then some stBadArg
  else match s.grantFor r.grantChip r.lease with
    | none => some stBadArg
    | some g =>
      if (write && !g.write) || (addrSpire r.addr && !g.spire) then some stBadArg
      else
        let lease := g.local_.toNat
        let e := s.tile (addrTile r.addr).1
        let (k, a) := addrStore r.addr
        let p := s.spire k
        if !addrSpire r.addr && (e.lease.toNat ≠ lease || e.radio) then some stBadArg
        else if addrSpire r.addr && (!s.holdsJobOf k lease || decide (s.jobPart k < a + r.bytes)) then some stBadArg
        else if !addrSpire r.addr && (!(e.tier = .hbm) || !(e.state = .ready) || decide (e.pin = 0)) then some stConflict
        else if addrSpire r.addr && ((write && (p.isProtected s.cyc a r.bytes || p.isPending a r.bytes))
            || !(p.seq.mode = .running || p.seq.mode = .stopped || p.seq.mode = .replay)) then some stConflict
        else if write && decide (replayMax ≤ s.rm.replayUsed) then some stNoResource
        else if r.full then some stNoResource
        else none

/-! ### Application (R411, R412, Table 15.2) -/

/-- The memory that a record's address lies in: read. -/
def State.rmMem (s : State) (a : DWord) : Mem × Nat :=
  if addrSpire a then
    let (k, o) := addrStore a
    ((s.spire k).store, o)
  else
    let (n, o) := addrTile a
    let e := s.tile n
    ((s.stack e.stack.toNat).mem, e.byteAt o)

/-- Change `n` bytes of the memory that a record's address lies in; the words of a store are noted first (R215). -/
def State.modRmMem (s : State) (a : DWord) (n : Nat) (f : Mem → Mem) : State :=
  if addrSpire a then
    let (k, o) := addrStore a
    ((List.range ((o % 32 + n + 31) / 32)).foldl (fun t i => noteWrite k (wordOf o + 32 * i) .other t) s).modStore k f
  else s.modStack (s.tile (addrTile a).1).stack.toNat (fun x => { x with mem := f x.mem })

/-- Carry out a request on its word, which held `old`, with its replay record if it is a write. -/
def finishWord (r : RmRecord) (old : Nat) (s : State) : State :=
  let o := (s.rmMem r.addr).2
  let n := opBytes r.op
  let back := if opWrites r.op && !opAtomic r.op then 0 else BitVec.ofNat 64 old
  let s1 := if opWrites r.op then
      keepReplay r stOk back (s.modRmMem r.addr n (fun x => x.writeLE o n (opResult r.op old r.operand.toNat r.swap.toNat)))
    else s
  rmRespond r stOk back false (if opAtomic r.op then countBelfry 0x1501 none 1 s1 else s1)

/-- Apply a request to its word. An atomic on a stack has read its word, and waits for its write slot before the records that
have not been taken (R411). -/
def applyWord (r : RmRecord) (s : State) : State :=
  let (m, o) := s.rmMem r.addr
  let old := m.readLE o (opBytes r.op)
  if m.poisonedAt o then rmRespond r stUnusable 0 false (consumePoison 1 s)
  else if opAtomic r.op && !addrSpire r.addr then
    s.modRm (fun x => { x with inbox := { r with mid := some (BitVec.ofNat 64 old) } :: x.inbox })
  else finishWord r old s

/-- The two halves of a line that have arrived for an identifier. -/
def State.halvesOf (s : State) (src ctx gen tag : Nat) : List Cell :=
  s.rm.halves.filter (fun c => c.src == src && c.infoBytes 32 2 % 2 ^ 14 == ctx && c.infoBytes 36 2 / 2 ^ 12 == gen
    && c.infoBytes 38 2 % 2 ^ 12 == tag)

/-- Put the written words of a half into memory, with their poison. -/
def applyHalf (a : Nat) (m : Mem) (c : Cell) : Mem :=
  let base := a + (if bitAt (c.infoBytes 32 2) 15 then 2048 else 0)
  let mask := leValue (c.payload.drop 2048)
  let m1 := (List.range 512).foldl (fun x i =>
    if bitAt mask i then x.writeBytes (base + 4 * i) ((c.payload.drop (4 * i)).take 4) else x) m
  (List.range 64).foldl (fun x w => if c.poison.getLsbD w then x.setPoison (base / 32 + w) true else x) m1

/-- Apply a store line (R428, R431): both halves together. -/
def applyLine (r : RmRecord) (s : State) : State :=
  let hs := s.halvesOf r.src r.ctx r.gen r.tag
  let s0 := s.modRm (fun m => { m with halves := m.halves.filter (fun c => !hs.contains c) })
  let (m, o) := s0.rmMem r.addr
  let touched (c : Cell) : Bool :=
    let base := o + (if bitAt (c.infoBytes 32 2) 15 then 2048 else 0)
    let mask := leValue (c.payload.drop 2048)
    (List.range 512).any (fun i => bitAt mask i && m.poisonedAt (base + 4 * i))
  if hs.any touched then rmRespond r stUnusable 0 false (consumePoison 1 s0)
  else
    let s1 := s0.modRmMem r.addr lineBytes (fun x => hs.foldl (applyHalf o) x)
    rmRespond r stOk 0 false (keepReplay r stOk 0 s1)

/-- Answer a gateway's read of a line (R431): its data go back in two DATA cells. -/
def applyLineLoad (r : RmRecord) (s : State) : State :=
  let (m, o) := s.rmMem r.addr
  let data := Mem.empty.copyFrom 0 m o lineBytes
  let cells := [false, true].map (fun h =>
    lineCell s.chipId r.src r.ctx r.grantChip r.lease r.gen r.tag r.addr.toNat h data (2 ^ 1024 - 1))
  s.modRm (fun x => { x with cells := x.cells ++ cells })

/-- The slot of the record's stack in this CCLK is used. -/
def useSlot (r : RmRecord) (s : State) : State :=
  if addrSpire r.addr then s
  else s.modRm (fun m => { m with slotsUsed := m.slotsUsed.set 0 (s.tile (addrTile r.addr).1).stack.toNat (s.cyc + 1) })

/-- Apply a record that no check refuses, in its slot. -/
def applyRecord (r : RmRecord) (s : State) : State :=
  let s1 := useSlot r s
  if r.kind = 4 then applyLine r s1
  else if 8192 ≤ r.ctx then applyLineLoad r s1
  else applyWord r s1

/-- Decide one record by Table 12.4, and apply it if no row applies. -/
def rmCheck (r : RmRecord) (s : State) : State :=
  let check (t : State) : State :=
    match t.targetRefusal r with
    | some st =>
      let t1 := if st = stNoResource ∧ replayMax ≤ t.rm.replayUsed ∧ opWrites r.op then
          t.modRmRegs (fun c => { c with refusedFull := satInc c.refusedFull }) else t
      rmRespond r st 0 false t1
    | none => applyRecord r t
  match s.rm.match_ r with
  | .answer p => answerReplay p r s
  | .old => countStale s
  | .newer p => check (s.modRm (fun m => { m with replay := m.replay.erase p }))
  | .none_ => check s

/-- Take one record: a new one is decided, an atomic whose word has been read is written. -/
def rmDecide (r : RmRecord) (s : State) : State :=
  let s0 := s.modRm (fun m => { m with inbox := m.inbox.erase r })
  match r.mid with
  | some old => finishWord r old.toNat (useSlot r s0)
  | none => rmCheck r s0

/-- Does the Belfry port own the slot of controller `h` now (Table 10.9, OWNER 32), not used yet, and does the crossbar plan give the beat its
way: to the controller's port for a write, from it for a read (R22, R23)? -/
def State.belfrySlot (s : State) (h : Nat) (write : Bool) : Bool :=
  s.commandOwner h 0 == some 32 && s.rm.slotsUsed.get 0 h != s.cyc + 1
  && (if write then s.connected (h / 6) belfryPort (stackPort (h % 6)) (-2)
      else s.connected (h / 6) (stackPort (h % 6)) belfryPort 24)

/-- First beat of 1,024 bytes that a record touches, and the beat after its last. -/
def RmRecord.beats (r : RmRecord) : Nat × Nat := (r.addr.toNat / 1024, (r.addr.toNat + r.bytes + 1023) / 1024)

/-- Does a record touch a beat of an atomic that stands between its two slots (R411)? -/
def RmState.beatHeld (m : RmState) (r : RmRecord) : Bool :=
  m.inbox.any (fun x => x.mid.isSome && decide (x.beats.1 < r.beats.2) && decide (r.beats.1 < x.beats.2))

/-- Does the plan give a record its slot now: a write slot for a store and for an atomic that has read its word, a read slot for
a load and for an atomic's read? -/
def State.rmSlot (s : State) (r : RmRecord) : Bool :=
  addrSpire r.addr
  || s.belfrySlot (s.tile (addrTile r.addr).1).stack.toNat (opWrites r.op && (r.mid.isSome || !opAtomic r.op))

/-- May a record be taken now: it is answered from the replay table, refused, in a Spire store, or its stack's slot is the
Belfry port's; a record for a MOVING tile waits (R410), and so does one behind an atomic of its beat. -/
def State.rmTakeable (s : State) (r : RmRecord) : Bool :=
  if r.mid.isSome then s.rmSlot r
  else match s.rm.match_ r with
    | .answer _ => true
    | .old => true
    | _ =>
      if !addrSpire r.addr && decide ((s.tile (addrTile r.addr).1).state = .moving) then false
      else (s.targetRefusal r).isSome || (s.rmSlot r && !s.rm.beatHeld r)

/-- The first record that may be taken among those at the head of their queues, and the atomics that wait for their write
slot. -/
def State.nextRecord (s : State) : List RmRecord → List Nat → Option RmRecord
  | [], _ => none
  | r :: rest, seen =>
    let q := s.rmQueue r
    if seen.contains q then s.nextRecord rest seen
    else if s.rmTakeable r then some r
    else s.nextRecord rest (if r.mid.isSome then seen else q :: seen)

/-- The power domain of the memory that an address names. -/
def State.addrDomain (s : State) (a : DWord) : Option Nat :=
  if addrSpire a then some ((addrStore a).1 / 2)
  else
    let e := s.tile (addrTile a).1
    if e.inHbm then some (16 + e.stack.toNat / 6) else none

/-- RMEM_REQUEST_APPLY. A request to a gated domain wakes it and waits (R569). -/
def rmApply (s : State) : State :=
  match s.nextRecord s.rm.inbox [] with
  | some r =>
    match s.addrDomain r.addr with
    | some d => if s.domainOn d then rmDecide r s else touchDomain d s
    | none => rmDecide r s
  | none => s

def execRmemRequestApply (s : State) : Host.Outcome State Fault Refusal := .next (rmApply s)

/-! ### Records and DATA cells that arrive (R407, R408, R427 to R431) -/

/-- The 32 bytes of a record as a number. -/
def RmRecord.encode (r : RmRecord) : Nat :=
  (r.origin % 256 + r.tag * 2 ^ 8 + r.gen * 2 ^ 20 + r.op * 2 ^ 24 + r.kind * 2 ^ 28)
  + (r.ctx + flagAt r.flag 31 + (if r.kind = 1 then r.lease else r.status) * 2 ^ 16) * 2 ^ 32
  + r.addr.toNat * 2 ^ 64 + r.operand.toNat * 2 ^ 128 + r.swap.toNat * 2 ^ 192

/-- Read a record. -/
def decodeRecord (src dst x : Nat) : RmRecord where
  kind := field x 31 28
  op := field x 27 24
  gen := field x 23 20
  tag := field x 19 8
  origin := field x 7 0
  flag := bitAt x 63
  lease := field x 59 48
  status := field x 55 48
  ctx := field x 45 32
  addr := BitVec.ofNat 64 (field x 127 64)
  operand := BitVec.ofNat 64 (field x 191 128)
  swap := BitVec.ofNat 64 (field x 255 192)
  src := src
  dst := dst
  ready := 0
  full := false
  mid := none

/-- An acknowledgement releases its replay record (R414). -/
def rmAck (src ctx tag gen : Nat) (s : State) : State :=
  s.modRm (fun m => { m with
    replay := m.replay.filter (fun p => !(p.src == src && p.ctx == ctx && p.tag == tag && p.gen == gen)) })

/-- Is a request held at the gateway: in a line, or waiting for one? -/
def RmState.holds (m : RmState) (r : RmRecord) : Bool :=
  let same (x : RmRecord) : Bool := x.src == r.src && x.ctx == r.ctx && x.tag == r.tag && x.gen == r.gen
  m.lines.entries.any (fun p => p.2.reqs.any same) || m.waiting.any same || m.gwFences.any same

/-- A request for a far chip, or a fence, reaches the gateway (R427, R429, R430). -/
def gwRequest (r : RmRecord) (s : State) : State :=
  if s.rm.holds r then s
  else
    let go (t : State) : State :=
      if r.op = 0 && decide (r.addr = 0) then
        answerGwFences r.src r.ctx (t.modRm (fun m => { m with gwFences := m.gwFences ++ [{ r with status := stOk }] }))
      else if t.clk.chipState ≠ .ready then replyOut r stConflict 0 false t
      else if (t.gatewayFlow (addrChip r.addr)).isNone || opAtomic r.op || !addrOk r.addr then replyOut r stBadArg 0 false t
      else if opWrites r.op && decide (replayMax ≤ t.rm.replayUsed) then
        replyOut r stNoResource 0 false (t.modRmRegs (fun c => { c with refusedFull := satInc c.refusedFull }))
      else
        match placeLine r t with
        | some u => u
        | none => countNd 5 1 (t.jobsBehind r) (t.modRm (fun m => { m with waiting := m.waiting ++ [{ r with ready := t.now }] }))
    match s.rm.match_ r with
    | .answer p => answerReplay p r s
    | .old => countStale s
    | .newer p => go (s.modRm (fun m => { m with replay := m.replay.erase p }))
    | .none_ => go s

/-- One record of a received RMEM cell (R407, R408), with `key` for its Step and lane. -/
def rmRecordIn (key : Nat) (r : RmRecord) (poisoned : Bool) (s : State) : State :=
  if poisoned then s.modRmRegs (fun c => { c with poisonDrops := satInc c.poisonDrops })
  else if 2 < (periodNo s.now + 256 - r.origin % 256) % 256 then s.modRmRegs (fun c => { c with expired := satInc c.expired })
  else if r.kind = 1 then
    if s.isGateway && (addrChip r.addr ≠ s.chipId || (r.op = 0 && decide (r.addr = 0))) then gwRequest r s
    else rmArrive key r s
  else if r.kind = 2 then rmReply r s
  else if r.kind = 3 then rmAck r.src r.ctx r.tag r.gen s
  else s

/-- A received RMEM cell: its records in their order. -/
def rmCellIn (key : Nat) (c : Cell) (s : State) : State :=
  (List.range (min 86 (c.infoBytes 24 1))).foldl (fun t i =>
    rmRecordIn key (decodeRecord c.src c.dst (c.word i)) (c.poison.getLsbD i) t) s

/-- A received DATA cell: a half of a line that this gateway has asked for, or of a store line for this chip. -/
def dataCellIn (key : Nat) (c : Cell) (s : State) : State :=
  let ctx := c.infoBytes 32 2 % 2 ^ 14
  let gen := c.infoBytes 36 2 / 2 ^ 12
  let tag := c.infoBytes 38 2 % 2 ^ 12
  let half := bitAt (c.infoBytes 32 2) 15
  let others := (s.halvesOf c.src ctx gen tag).filter (fun x => bitAt (x.infoBytes 32 2) 15 != half)
  let s1 := s.modRm (fun m => { m with halves :=
    (m.halves.filter (fun x => !(x.src == c.src && x.info == c.info))) ++ [c] })
  match others with
  | [] => s1
  | o :: _ =>
    let mine := (s.rm.requestOf ctx tag gen).filter (fun q => !opWrites q.op && q.dst == c.src)
    match mine with
    | some q =>
      let data := [o, c].foldl (applyHalf 0) Mem.empty
      let s2 := s1.modRm (fun m => { m with halves := m.halves.filter (fun x => !(x == o || x == c)) })
      match q.owner with
      | .line n => lineDone n stOk data (rmFinish q stOk 0 true s2)
      | _ => s2
    | none =>
      rmArrive key ⟨4, 3, gen, tag, 0, false, c.infoBytes 36 2 % 2 ^ 12, 0, ctx, BitVec.ofNat 64 (c.infoBytes 24 8),
        BitVec.ofNat 64 (c.infoBytes 34 2), 0, c.src, c.dst, 0, false, none⟩ s1

/-! ### What leaves on a flow (R407, R411, R415) -/

/-- The flow that a record travels on: REQ_FLOW or RSP_FLOW of its chip, or a gateway flow. -/
def State.recordFlow (s : State) (r : RmRecord) : Option Nat :=
  match s.near r.dst with
  | some (q, p) => some (if r.kind = 2 then p else q)
  | none => s.gatewayFlow r.dst

/-- A transmission of a request, a reply or an acknowledgement in a Step that starts at hall time `t`. -/
def noteSent (t : Nat) (s : State) (r : RmRecord) : State :=
  if r.kind = 1 then
    let touch (x : RmRequest) : RmRequest :=
      if x.ctx = r.ctx ∧ x.tag = r.tag ∧ x.gen = r.gen ∧ x.open_ then { x with sent := some (x.sent.getD t), lastTx := t } else x
    (s.modRm (fun m => { m with reqs := m.reqs.map touch })).modTag r.ctx r.tag (fun u => { u with last := t })
  else if r.kind = 2 then
    s.modRm (fun m => { m with replay := m.replay.map (fun p =>
      if p.src = r.dst ∧ p.ctx = r.ctx ∧ p.tag = r.tag ∧ p.gen = r.gen then { p with last := t } else p) })
  else s

/-- A transmission of a line's DATA cell. -/
def noteCell (t : Nat) (c : Cell) (s : State) : State :=
  let ctx := c.infoBytes 32 2 % 2 ^ 14
  let tag := c.infoBytes 38 2 % 2 ^ 12
  let touch (x : RmRequest) : RmRequest :=
    if x.ctx = ctx ∧ x.tag = tag ∧ x.gen = c.infoBytes 36 2 / 2 ^ 12 ∧ x.open_ then
      { x with sent := some (x.sent.getD t), lastTx := t }
    else x
  (s.modRm (fun m => { m with reqs := m.reqs.map touch })).modTag ctx tag (fun u => if u.used then { u with last := t } else u)

/-- The RMEM cell of a list of records for one chip. -/
def recordCell (own dst : Nat) (l : List RmRecord) (origin : Nat) : Cell :=
  { type := cellRmem, figure := 0, hops := 0, dst := dst, src := own, pavane := 0, period := 0, flow := 0, step := 0, seq := 0,
    info := BitVec.ofNat 128 l.length, poison := 0,
    payload := (l.map (fun r => leBytes ({ r with origin := origin }).encode 32)).flatten }

/-- What the engine has for flow `f` in a Step that starts at hall time `t`: a DATA cell, or up to 86 records for one chip. -/
def rmTake (f t : Nat) (s : State) : Option Cell × State :=
  match s.rm.cells.find? (fun c => s.gatewayFlow c.dst == some f) with
  | some c => (some c, noteCell t c (s.modRm (fun m => { m with cells := m.cells.erase c })))
  | none =>
    let fits := s.rm.outbox.filter (fun r => s.recordFlow r == some f && decide (r.ready ≤ t))
    match fits with
    | [] => (none, s)
    | r :: _ =>
      let l := (fits.filter (fun x => x.dst == r.dst)).take 86
      let s1 := s.modRm (fun m => { m with outbox := l.foldl (fun o x => o.erase x) m.outbox })
      (some (recordCell s.chipId r.dst l (periodNo t)), l.foldl (noteSent t) s1)

/-! ### Timed events (R414, R415, R417, R418, R428, R430) -/

/-- Retransmit a request. -/
def rmAgain (r : RmRequest) (s : State) : State :=
  rmTransmit r true (s.modRmRegs (fun c => { c with retx := satInc c.retx }))

/-- RMEM_RETRANSMIT: 1, 2 and 3 ms after the first transmission. -/
def rmRetransmit (ctx tag : Nat) (s : State) : State :=
  match s.rm.reqs.find? (fun r => r.ctx == ctx && r.tag == tag && r.open_) with
  | some r =>
    match r.sent with
    | some t =>
      if r.tries < 3 ∧ t + nsUnits ((r.tries + 1) * 1000000) ≤ s.now then
        let r1 := { r with tries := r.tries + 1 }
        rmAgain r1 (s.modRm (fun m => { m with reqs := m.reqs.map (fun x => if x.uid = r.uid then r1 else x) }))
      else s
    | none => s
  | none => s

def execRmemRetransmit (ctx tag : Nat) (s : State) : Host.Outcome State Fault Refusal := .next (rmRetransmit ctx tag s)

/-- The end of a drain period retransmits every request with a transmission from before the switch (R417). -/
def rmDrainEnd (switch_ : Nat) (s : State) : State :=
  (s.rm.reqs.filter (fun r => r.open_ && decide (r.dst ≠ s.chipId) &&
    (match r.sent with
     | some t => decide (t < switch_)
     | none => false))).foldl (fun t r => rmAgain r t) s

/-- RMEM_TIMEOUT: 6 ms without a final reply; the target is quarantined for the issuing job, or for the host; a staging line's
own request is of neither (log entry 148). -/
def rmTimeout (ctx tag : Nat) (s : State) : State :=
  match s.rm.reqs.find? (fun r => r.ctx == ctx && r.tag == tag && r.open_) with
  | some r =>
    match r.sent with
    | some t =>
      if t + nsUnits 6000000 ≤ s.now then
        let c := if r.op = fenceOp then r.dst else addrChip r.addr
        let line := match r.owner with
          | .line _ => decide (r.op ≠ fenceOp)
          | _ => false
        let s1 := s.modRm (fun m => { m with
          regs := { m.regs with timeouts := satInc m.regs.timeouts }
          jobLost := if line || m.jobLost.contains (r.job, c) then m.jobLost else m.jobLost ++ [(r.job, c)] })
        rmFinal r stTargetLost 0 false s1
      else s
    | none => s
  | none => s

def execRmemTimeout (ctx tag : Nat) (s : State) : Host.Outcome State Fault Refusal := .next (rmTimeout ctx tag s)

/-- The acknowledgement record of a write. -/
def RmRequest.ack (r : RmRequest) (own : Nat) : RmRecord :=
  { (r.record own false) with kind := 3, lease := 0, addr := 0, operand := 0, swap := 0 }

/-- RMEM_ACK_SEND: 1.5 ms after the last transmission of a replied write. Its tag may rest. -/
def rmAckSend (ctx tag : Nat) (s : State) : State :=
  match s.rm.reqs.find? (fun r => r.ctx == ctx && r.tag == tag && r.ackDue) with
  | some r =>
    if r.lastTx + nsUnits 1500000 ≤ s.now then
      let s1 := (s.modRm (fun m => { m with reqs := m.reqs.filter (fun x => x.uid != r.uid) })).modTag r.ctx r.tag
        (fun u => { u with used := false })
      if r.dst = s.chipId then rmAck s.chipId r.ctx r.tag r.gen s1
      else s1.modRm (fun m => { m with outbox := m.outbox ++ [r.ack s.chipId] })
    else s
  | none => s

def execRmemAckSend (ctx tag : Nat) (s : State) : Host.Outcome State Fault Refusal := .next (rmAckSend ctx tag s)

/-- REPLAY_RECORD_EXPIRY: 8 ms after its last reply. -/
def replayExpiry (s : State) : State :=
  match s.rm.replay.find? (fun p => decide (p.last + nsUnits 8000000 ≤ s.now)) with
  | some p => s.modRm (fun m => { m with
      replay := m.replay.erase p, regs := { m.regs with releasedUnacked := satInc m.regs.releasedUnacked } })
  | none => s

def execReplayRecordExpiry (s : State) : Host.Outcome State Fault Refusal := .next (replayExpiry s)

/-- Is a store line due for its transfer (R428)? -/
def State.lineDue (s : State) (l : StageLine) : Bool :=
  l.used && !l.load && !l.moving &&
    (s.rm.gwFences.any (fun r => r.src == l.src && r.ctx == l.ctx) || decide (l.mask = BitVec.allOnes 1024)
      || decide (l.since + nsUnits 100000 ≤ s.now))

/-- STAGING_LINE_TRANSFER. -/
def lineTransferStart (n : Nat) (s : State) : State :=
  let l := s.line n
  if s.lineDue l then
    rmIssue (.line n) (lineCtx n) l.lease 0 3 l.far l.block 0 0 (s.modLine n (fun x => { x with moving := true }))
  else s

def execStagingLineTransfer (n : Nat) (s : State) : Host.Outcome State Fault Refusal := .next (lineTransferStart n s)

/-- STAGING_WAIT_TIMEOUT: a request has waited 1 ms for a line. -/
def stagingTimeout (s : State) : State :=
  match s.rm.waiting.find? (fun r => decide (r.ready + nsUnits 1000000 ≤ s.now)) with
  | some r => replyOut r stNoResource 0 false (s.modRm (fun m => { m with waiting := m.waiting.erase r }))
  | none => s

def execStagingWaitTimeout (s : State) : Host.Outcome State Fault Refusal := .next (stagingTimeout s)

/-! ### The host's commands (R400, R404, R424) -/

/-- The body of RMEM_OP. -/
def rmemOpBody (iss : Issuer) (op : Nat) (addr operand swap : DWord) (s : State) : State × Option Reply :=
  match s.rmRefusal 0 (op % 16) addr with
  | some st => refuse st s
  | none => (rmIssue (.host iss) hostCtx 0 0 (op % 16) (s.rmVia addr) addr operand swap s, none)

def execRmemOp (iss : Issuer) (op : Nat) (addr operand swap : DWord) (s : State) : Host.Outcome State Fault Refusal :=
  .next (queueCommand 0x11 iss (rmemOpBody iss op addr operand swap) s)

/-- The body of RMEM_FENCE. -/
def rmemFenceBody (iss : Issuer) (s : State) : State × Option Reply := (rmFence (.host iss) hostCtx 0 0 s, none)

def execRmemFence (iss : Issuer) (s : State) : Host.Outcome State Fault Refusal :=
  .next (queueCommand 0x12 iss (rmemFenceBody iss) s)

/-! ### Acceptance of a store (R403) -/

/-- CCLK from the issue of an RST to its acceptance by the local engine, at least. -/
def storeAccept : Nat := 60

/-- LOCAL_ENGINE_STORE_ACCEPT: the store has been accepted or refused, and its request is not queued behind 64 others. -/
def localStoreAccept (k t : Nat) (s : State) : State :=
  match (s.thread k t).wait with
  | .store rd due status =>
    let held := s.rm.reqs.any (fun r => r.ctx == 8 * k + t && r.queued)
      && decide (ctxMax ≤ (s.rm.reqs.filter (fun r => r.ctx == 8 * k + t && r.open_)).length)
    if due ≤ s.cyc && !held then s.modThread k t (fun x => (x.setX rd (BitVec.ofNat 64 status)).wake) else s
  | _ => s

def execLocalEngineStoreAccept (k t : Nat) (s : State) : Host.Outcome State Fault Refusal :=
  .next (localStoreAccept k t s)

end Sys2Proof.Machine
end

