-- ==== Sys2Proof/Machine/TimeUnit.lean ====
section
/-! DEFINITION. The time unit (02): increment, coarse set, latches, servo states, 1PPS, capture channels and the trigger
channels' control register. -/

namespace Sys2Proof.Machine

open Sys2Proof

/-- Change the time unit. -/
def State.modTime (s : State) (f : TimeState → TimeState) : State := { s with time := f s.time }

/-! ### Increment (R52 to R54, R63) -/

/-- Is an increment within 200 ppm of nominal (R52)? -/
def incrInRange (x : Nat) : Bool := decide (0x12D1DC199 ≤ x ∧ x ≤ 0x12D3C98C1)

/-- Is an increment within 75 ppm of nominal (R63)? -/
def incrInActiveRange (x : Nat) : Bool := decide (0x12D2764D5 ≤ x ∧ x ≤ 0x12D32F585)

/-- Count a refused increment write (R71). -/
def rejectIncr (s : State) : State := s.modTime (fun t => { t with incrRejects := satInc t.incrRejects })

/-- TIME_INCR_LO_WRITE (R53, R54): MID 0 stages the low bits; a write from another MID is counted. -/
def timeIncrLoWrite (mid : Nat) (v : Word) (s : State) : State :=
  if mid = 0 then s.modTime (fun t => { t with incrLo := v }) else rejectIncr s

/-- The increment that a write of TIME_INCR_HI commits (R52). -/
def incrCandidate (s : State) (v : Word) : Nat := fieldW v 3 0 * 2 ^ 32 + s.time.incrLo.toNat

/-- May the increment be committed now? R52, and R63 while a Pavane is active. -/
def incrAccepted (s : State) (x : Nat) : Bool := incrInRange x && (s.fab.active.isNone || incrInActiveRange x)

/-- TIME_INCR_HI_WRITE (R52, R53, R54, R63): the staged value with these high bits takes effect at the next BCLK edge,
or at the next period start in stretch-permitted operation; out of range it is ignored and counted. The register reads
the bits written (R5). -/
def timeIncrHiWrite (mid : Nat) (v : Word) (s : State) : State :=
  if mid = 0 then
    let s1 := s.modTime (fun t => { t with incrHi := BitVec.ofNat 4 (fieldW v 3 0) })
    let x := incrCandidate s v
    if incrAccepted s x then
      if s.clk.mode then s1.modTime (fun t => { t with incrNext := some x })
      else s1.modTime (fun t => { t with incr := x })
    else rejectIncr s1
  else rejectIncr s

def execTimeIncrLoWrite (mid : Nat) (v : Word) (s : State) : Host.Outcome State Fault Refusal :=
  .next (onBus (timeIncrLoWrite mid v) s)

def execTimeIncrHiWrite (mid : Nat) (v : Word) (s : State) : Host.Outcome State Fault Refusal :=
  .next (onBus (timeIncrHiWrite mid v) s)

/-! ### Capture channels (R82, R83) -/

/-- Does a capture channel select this event? Pin sources 1 to 6 also match the edge, source 7 the lane in ARG. -/
def CapChan.selects (c : CapChan) (src lane : Nat) (rising : Bool) : Bool :=
  c.enable && decide (c.source.toNat = src) &&
    (if src = 7 then decide (c.arg.toNat = lane) else if src ≤ 6 then decide (c.edge = !rising) else true)

/-- Every capture channel that selects an event records the hall time `h` of the event and counts (R82). -/
def captureAt (h : HallTime) (src lane : Nat) (rising : Bool) (s : State) : State :=
  let cs := s.cap.modifyAll CapChan.reset (List.range 8)
    (fun _ c => if c.selects src lane rising then { c with time := h, seq := c.seq + 1 } else c)
  { s with cap := cs }

/-- A capture of an event inside the package, at the hall time of the present BCLK. -/
def capture (src lane : Nat) (rising : Bool) (s : State) : State := captureAt s.time.hall src lane rising s

/-- The hall time of an instant `phase` sixteenths of a BCLK after the last BCLK edge, in units of 2^-32 ns: the resolution of
captures and TIME cells (R65, R82). -/
def State.nowAt (s : State) (phase : Nat) : Nat := if s.timeRuns then s.now + s.time.incr * phase / 16 else s.now

/-- CAP_STROBE_WRITE (R83): a capture on the channels whose source is the STROBE of the writing MID, whichever channel's CAP_c_CTRL
holds the STROBE (DESIGN CHOICE, log entry 138). -/
def capStrobeWrite (mid : Nat) (s : State) : State :=
  if mid = 0 then capture 8 0 true s else if mid = 1 then capture 9 0 true s else s

def execCapStrobeWrite (mid _c : Nat) (s : State) : Host.Outcome State Fault Refusal :=
  .next (onBus (capStrobeWrite mid) s)

/-! ### Coarse set (R55, R56, R72) -/

/-- Disarm a channel at a coarse set (R55). -/
def TrigChan.disarmBySet (c : TrigChan) : TrigChan :=
  if c.armed then { c with armed := false, disarmedBySet := true } else c

/-- Load hall time: `h` now, and `next` at the coming BCLK edge; every armed trigger channel is disarmed (R55); STATUS reads ST_OK
(R72). A whole second on which the set lands gives no pulse of 1PPS_OUT (DESIGN CHOICE, log entry 138). -/
def coarseSet (h next : HallTime) (s : State) : State :=
  let ts := s.trig.modifyAll TrigChan.reset (List.range 32) (fun _ c => c.disarmBySet)
  let t := { s.time with hall := h, edgeAt := some next, ppsSec := h.sec, setStatus := BitVec.ofNat 8 stOk }
  { s with trig := ts, time := t }

/-- The value of the TIME_SET registers. -/
def TimeState.setValue (t : TimeState) : HallTime := ⟨t.setSecHi ++ t.setSecLo, t.setNs, t.setFrac⟩

/-- May the Dome set hall time: CHIP_STATE is BOOT or TIME_ACQUIRE (R55)? -/
def State.settable (s : State) : Bool := s.clk.chipState = .boot || s.clk.chipState = .timeAcquire

/-- TIME_SET_GO (R55, R56, R72): refused outside BOOT and TIME_ACQUIRE, or with a nanoseconds value above 999,999,999;
else loaded (MODE 0), so that the BCLK edge after the GO has the value itself, or deferred to the next 1PPS_IN edge (MODE 1). A GO that
waits stays pending when a later GO is refused, and a later GO that is accepted takes its place (DESIGN CHOICE, log entry 138). -/
def timeSetGo (mid : Nat) (mode : Bool) (s : State) : State :=
  if mid = 0 then
    let s1 := s.modTime (fun t => { t with setMode := mode })
    if !s.settable then s1.modTime (fun t => { t with setStatus := BitVec.ofNat 8 stConflict })
    else if 999999999 < s.time.setNs.toNat then
      s1.modTime (fun t => { t with setStatus := BitVec.ofNat 8 stBadArg })
    else if mode then
      s1.modTime (fun t => { t with setPending := some t.setValue, setStatus := BitVec.ofNat 8 stDeferred })
    else (coarseSet s.time.setValue s.time.setValue s1).modTime (fun t => { t with setPending := none })
  else s

def execTimeSetGo (mid : Nat) (mode : Bool) (s : State) : Host.Outcome State Fault Refusal :=
  .next (onBus (timeSetGo mid mode) s)

/-- PPS_IN_EDGE (R72, R82), `phase` sixteenths of a BCLK after the last BCLK edge: the pin takes its level and the capture channels
see the edge; a rising edge loads a pending MODE 1 value as the hall time of the edge, so that the coming BCLK edge has what is
left of the BCLK added to it. -/
def ppsInEdge (rising : Bool) (phase : Nat) (s : State) : State :=
  let s1 := captureAt (hallOf (s.nowAt phase)) 1 0 rising { s with pins := { s.pins with ppsIn := rising } }
  match rising, s.time.setPending with
  | true, some h =>
    (coarseSet h (hallOf (h.units + s.time.incr * (16 - phase) / 16)) s1).modTime (fun t => { t with setPending := none })
  | _, _ => s1

def execPpsInEdge (e : PpsEdge) (s : State) : Host.Outcome State Fault Refusal := .next (ppsInEdge e.rising e.phase s)

/-! ### Latches (R60) -/

/-- Hall time as at the BCLK edge after now: what a coarse set has given for it, else one increment more (R51, R60, R72). -/
def State.nextHall (s : State) : HallTime :=
  if s.timeRuns then
    match s.time.edgeAt with
    | some h => h
    | none => hallOf (s.now + s.time.incr)
  else s.time.hall

/-- TIME_LATCH (R60, R467, R564): the latch of the writing MID takes hall time as at the next BCLK edge. -/
def timeLatch (mid : Nat) (s : State) : State :=
  if mid = 0 then s.modTime (fun t => { t with domeLatched := s.nextHall })
  else if mid = 1 then s.modTime (fun t => { t with latched := s.nextHall })
  else if mid ≤ 4096 then s.modFunc (mid - 1) (fun f => { f with latch := s.nextHall })
  else s

def execTimeLatch (mid : Nat) (s : State) : Host.Outcome State Fault Refusal :=
  .next (onBus (timeLatch mid) s)

/-! ### Ready and the servo (R56, R67, R68) -/

/-- TIME_STATE.STATE codes (R70). -/
abbrev tsLocked : BitVec 3 := 3
abbrev tsHoldover : BitVec 3 := 4

/-- A change of TIME_STATE is logged (R560). -/
def setServo (v : BitVec 3) (s : State) : State :=
  logEvent (.timeState v.toNat) (s.modTime (fun t => { t with servo := v }))

/-- SET_READY (R56, R72, R420): from TIME_ACQUIRE, while LOCKED; INCARNATION takes the low 16 bits of the period number; a
pending MODE 1 GO is cancelled with ST_STATE_CONFLICT. -/
def setReady (s : State) : State :=
  if s.clk.chipState = .timeAcquire ∧ s.time.servo = tsLocked then
    let inc : BitVec 16 := BitVec.ofNat 16 (s.now / periodUnits)
    let s1 := { s with
      clk := { s.clk with chipState := .ready }, rm := { s.rm with regs := { s.rm.regs with incarnation := inc } } }
    match s.time.setPending with
    | some _ => s1.modTime (fun t => { t with setPending := none, setStatus := BitVec.ofNat 8 stConflict })
    | none => s1
  else s

def execSetReady (s : State) : Host.Outcome State Fault Refusal := .next (setReady s)

/-- Periods without Sync after which a follower holds over (R67). -/
def syncLossPeriods : Nat := 8

/-- The averaged increment of the servo: a free value (R67) within the range that a commit must keep. -/
def State.heldIncr (s : State) : Nat :=
  let lo := if s.fab.active.isSome then 0x12D2764D5 else 0x12D1DC199
  let hi := if s.fab.active.isSome then 0x12D32F585 else 0x12D3C98C1
  lo + Config.averagedIncr s.free % (hi - lo + 1)

/-- The Dome commits an increment: it takes force at the next BCLK edge, or at the next period start in stretch-permitted
operation (R54). -/
def commitIncr (x : Nat) (s : State) : State :=
  let s1 := s.modTime (fun t => { t with incrLo := BitVec.ofNat 32 x, incrHi := BitVec.ofNat 4 (x / 2 ^ 32) })
  if s.clk.mode then s1.modTime (fun t => { t with incrNext := some x }) else s1.modTime (fun t => { t with incr := x })

/-- The servo goes to HOLDOVER: its averaged increment is held, and the lock condition starts anew (R67, R84, R565). -/
def holdOver (s : State) : State :=
  (commitIncr s.heldIncr (ringDome 7 (setServo tsHoldover (s.modTime (fun t => { t with inBound := 0 }))))).useFree

/-- SYNC_HOLDOVER (R67, R565): a follower without Sync for 8 periods goes to HOLDOVER. -/
def syncHoldover (s : State) : State :=
  if s.time.role = false ∧ s.time.servo ≠ tsHoldover ∧ s.time.lastSync + syncLossPeriods ≤ s.time.periods then holdOver s
  else s

def execSyncHoldover (s : State) : Host.Outcome State Fault Refusal := .next (syncHoldover s)

/-- Consecutive Syncs within the bound after which the Dome declares LOCKED (R68). -/
def lockSyncs : Nat := 16

/-- Does R68's lock condition hold? A source has no upstream Sync: its offset to 1PPS_IN is firmware's (log entry 57). -/
def State.lockHolds (s : State) : Bool := s.time.role || decide (lockSyncs ≤ s.time.inBound)

/-- TIME_LOCKED (R68): the offset has stayed within 100 ns for 16 Sync intervals, and the Dome declares LOCKED. -/
def timeLocked (s : State) : State :=
  if s.time.servo = tsLocked || !s.lockHolds then s else setServo tsLocked s

/-- An offset of a Sync, in units of 2^-32 ns: is it within ±100 ns (R68)? -/
def offsetInBound (d : Int) : Bool := decide (-(100 * 2 ^ 32) ≤ d ∧ d ≤ 100 * 2 ^ 32)

/-- A Sync of the upstream lane, with its offset (R67, R68). -/
def syncSeen (offset : Int) (s : State) : State :=
  s.modTime (fun t => { t with
    lastSync := t.periods, inBound := if offsetInBound offset then t.inBound + 1 else 0 })

def execTimeLocked (s : State) : Host.Outcome State Fault Refusal := .next (timeLocked s)

/-! ### 1PPS_OUT (R73) -/

/-- The pulse width in ms: 0 gives 1, 1,000 to 1,023 give 999 (R71). -/
def ppsWidthMs (w : Nat) : Nat := if w = 0 then 1 else min w 999

/-- PPS_OUT_SECOND (R73): hall time has reached a whole second while ENABLE is 1. The edge lies at the second itself. -/
def ppsOutSecond (s : State) : State :=
  if s.time.ppsEnable ∧ s.time.ppsSec < s.time.hall.sec then
    let fall := unitsAt s.time.hall.sec.toNat (ppsWidthMs s.time.ppsWidth.toNat * 1000000)
    let s1 := s.modTime (fun t => { t with ppsSec := t.hall.sec, ppsFall := some fall })
    captureAt ⟨s.time.hall.sec, 0, 0⟩ 2 0 true { s1 with pins := { s1.pins with ppsOut := true } }
  else s

def execPpsOutSecond (s : State) : Host.Outcome State Fault Refusal := .next (ppsOutSecond s)

/-- PPS_OUT_PULSE_END (R73): WIDTH ms after the whole second. -/
def ppsOutPulseEnd (s : State) : State :=
  match s.time.ppsFall with
  | some t =>
    if t ≤ s.now then
      let s1 := s.modTime (fun t => { t with ppsFall := none })
      captureAt (hallOf t) 2 0 false { s1 with pins := { s1.pins with ppsOut := false } }
    else s
  | none => s

def execPpsOutPulseEnd (s : State) : Host.Outcome State Fault Refusal := .next (ppsOutPulseEnd s)

/-! ### Trigger channels (R74 to R81) -/

/-- Trigger channel `n`. -/
def State.trigger (s : State) (n : Nat) : TrigChan := s.trig.get TrigChan.reset n

/-- Change trigger channel `n`. -/
def State.modTrigger (s : State) (n : Nat) (f : TrigChan → TrigChan) : State :=
  { s with trig := s.trig.modify TrigChan.reset n f }

/-- Actions that belong to the Dome (R78). -/
def domeAction (a : Nat) : Bool := decide (1 ≤ a ∧ a ≤ 3)

/-- The ARG bits that an action uses (Table 2.5). -/
def argMask (a : Nat) : Nat :=
  if a = 2 then 7 else if a = 3 then 15 else if a = 6 then 11 else if a = 7 then 31 else 0

/-- The shortest period that ARM accepts: 16 nominal BCLK (R75). -/
def minTrigPeriod : Nat := 16 * nominalIncr

/-- The target of a channel's registers, in units of 2^-32 ns. -/
def TrigChan.targetReg (c : TrigChan) : Nat :=
  (HallTime.mk (c.tgtSecHi ++ c.tgtSecLo) c.tgtNs c.tgtFrac).units

/-- The period of a channel's registers, in units of 2^-32 ns. -/
def TrigChan.periodReg (c : TrigChan) : Nat := c.perNs.toNat * 2 ^ 32 + c.perFrac.toNat

/-- Is an ARM of this action and argument acceptable on this channel (R75, R81, Table 2.5)? -/
def TrigChan.armOk (c : TrigChan) (action arg : Nat) : Bool :=
  decide (action < 8) && decide (arg &&& argMask action = arg) && decide (c.tgtNs.toNat ≤ 999999999) &&
    (decide (c.periodReg = 0) || decide (minTrigPeriod ≤ c.periodReg))

/-- Arm a channel at hall time `now` (R76): a one-shot target that is past is missed, a periodic one advances to its first
instance after now. -/
def TrigChan.arm (c : TrigChan) (mid action arg now : Nat) : TrigChan :=
  let c := { c with action := BitVec.ofNat 4 action, arg := BitVec.ofNat 5 arg, mid := mid, missed := 0,
                    target := c.targetReg, period := c.periodReg }
  if now < c.target then { c with armed := true }
  else if c.period = 0 then { c with missed := 1 }
  else
    let k := (now - c.target) / c.period + 1
    { c with armed := true, target := c.target + k * c.period, missed := BitVec.ofNat 8 (min 255 k) }

/-- A write of TRIG_n_CTRL on one channel (R75 to R78). An ARM that is refused leaves MISSED (DESIGN CHOICE, log entry 138). -/
def TrigChan.ctrlWrite (c : TrigChan) (mid now : Nat) (v : Word) : TrigChan :=
  let action := fieldW v 27 24
  let arg := fieldW v 20 16
  if mid = 1 && (domeAction action || domeAction c.action.toNat) then { c with refused := true }
  else if c.armed then
    if bitW v 31 then
      if action = c.action.toNat ∧ arg = c.arg.toNat then c else { c with refused := true }
    else { c with armed := false, action := BitVec.ofNat 4 action, arg := BitVec.ofNat 5 arg }
  else if bitW v 31 then
    if c.armOk action arg then c.arm mid action arg now else { c with refused := true }
  else { c with action := BitVec.ofNat 4 action, arg := BitVec.ofNat 5 arg }

/-- A target or period register of a trigger channel. -/
def TrigChan.setTarget (o : Nat) (v : Word) (c : TrigChan) : TrigChan :=
  match o with
  | 0x04 => { c with tgtSecLo := v }
  | 0x08 => { c with tgtSecHi := v }
  | 0x0C => { c with tgtNs := v }
  | 0x10 => { c with tgtFrac := v }
  | 0x14 => { c with perNs := v }
  | 0x18 => { c with perFrac := v }
  | _ => c

/-- TRIG_n_STATUS: its W1C bits. -/
def TrigChan.clear (v : Word) (c : TrigChan) : TrigChan :=
  { c with
    refused := c.refused && !bitW v 2
    disarmedBySet := c.disarmedBySet && !bitW v 1
    suppressed := c.suppressed && !bitW v 0 }

/-- A write of the register at offset `o` of one channel: the control register, the target and period of a channel that is not armed
(R77), the status. A write from MID 1 that touches a Dome's channel sets REFUSED (R78). -/
def TrigChan.regWrite (c : TrigChan) (mid o now : Nat) (v : Word) : TrigChan :=
  if o = 0 then c.ctrlWrite mid now v
  else if mid = 1 && domeAction c.action.toNat then { c with refused := true }
  else if o = 0x1C then c.clear v
  else if c.armed then { c with refused := true }
  else c.setTarget o v

/-- Does a channel fire in this BCLK, at hall time `now`? -/
def TrigChan.due (c : TrigChan) (now : Nat) : Bool := c.armed && decide (c.target ≤ now)

/-- A write that lands in the BCLK in which the channel fires waits for the firing (R77). -/
def TrigChan.deferWrite (c : TrigChan) (mid o : Nat) (v : Word) : TrigChan := { c with late := c.late ++ [(o, mid, v)] }

end Sys2Proof.Machine
end

