-- ==== Sys2Proof/Machine/Fabric.lean ====
section
/-! DEFINITION. The Hjelbex lanes (10): bring-up, Step frames sent and received, transit, heartbeats, TIME cells. -/

namespace Sys2Proof.Machine

open Sys2Proof

/-- Change the registers of lane `n`. -/
def State.modLaneRegs (s : State) (n : Nat) (f : LaneRegs → LaneRegs) : State :=
  s.modLane n (fun l => { l with regs := f l.regs })

/-- Change the fabric. -/
def State.modFab (s : State) (f : FabState → FabState) : State := { s with fab := f s.fab }

/-! ### Lanes going out of service (R356, R387, Table 10.15) -/

/-- The lane whose transmit TRANSIT entry, in a step set, forwards what arrives on `lane` in `step`. -/
def Pavane.forwards (p : Pavane) (set lane step : Nat) : Option Nat :=
  ((p.steps.get [] set).find? (fun r => !bitAt r 50 && field r 43 40 == 2 && field r 23 18 == lane && field r 17 5 == step)).map
    (fun r => field r 49 44)

/-- The lane that is to send a held cell. -/
def State.heldFor (s : State) (h : HeldCell) : Option Nat :=
  match s.image with
  | some p =>
    match h.oldSet, s.fab.drain with
    | true, some (x, _) => p.forwards x h.lane h.step
    | true, none => none
    | false, _ => match p.stepSet s.fab.figure with
      | some x => p.forwards x h.lane h.step
      | none => none
  | none => none

/-- The held transit cells of a lane that goes out are discarded and counted in TX_DROPS. -/
def dropTransit (n : Nat) (s : State) : State :=
  let gone := s.fab.held.filter (fun h => s.heldFor h == some n)
  (s.modFab (fun f => { f with held := f.held.filter (fun h => !gone.contains h) })).modLaneRegs n
    (fun r => { r with txDrops := satAdd r.txDrops gone.length })

/-- A lane leaves service: DOWN, FAILED or DISABLED. The Dome is told of DOWN and FAILED (R565), and the cells of the
radio partition that use the lane feel it (Table 9.12). -/
def laneOut (n : Nat) (x : LaneState) (cause : Nat) (s : State) : State :=
  let s1 := s.modLane n (fun l => { l with
    regs := { l.regs with
      state := x, cause := if x = .disabled then l.regs.cause else BitVec.ofNat 4 cause, delayValid := false },
    since := s.clock.tick, badMarkers := 0, idents := 0, upSteps := 0, overBound := 0 })
  let s2 := dropTransit n (beLaneDown n s1)
  if x = .disabled then s2 else radioPartFault (.lane n) (ringDome 1 s2)

/-- Causes of DOWN and FAILED (R379). -/
abbrev causeTrain : Nat := 1
abbrev causeMarker : Nat := 2
abbrev causeIdentity : Nat := 3
abbrev causeDelay : Nat := 4
abbrev causeRetrain : Nat := 5

/-! ### LANE_n_CTRL and bring-up (R355, R356) -/

/-- Does the active Figure's step set have entries on a lane? -/
def State.laneUsed (s : State) (n : Nat) : Bool :=
  s.image.isSome && (match s.stepSet with
    | some (p, x) => (p.steps.get [] x).any (fun r => field r 49 44 == n)
    | none => false)

/-- The offset of LANE_n_CTRL. -/
def laneCtrlOffset (n : Nat) : Nat := 0x100004 + 0x1000 * n

/-- STATUS of LANE_n_CTRL. -/
def laneStatus (n st : Nat) (s : State) : State := s.modLaneRegs n (fun r => { r with status := BitVec.ofNat 8 st })

/-- LANE_RETRAIN (R356): an UP or SUSPECT lane goes DOWN with cause RETRAIN; any other lane is in no state for it. -/
def laneRetrain (mid n : Nat) (s : State) : State :=
  if 1 < mid then s
  else if (s.lane n).regs.state.carries then laneStatus n stOk (laneOut n .down causeRetrain s)
  else laneStatus n stConflict s

def execLaneRetrain (mid n : Nat) (s : State) : Host.Outcome State Fault Refusal :=
  .next (bar0Row mid (laneCtrlOffset n) (word (2 + b2n (s.lane n).regs.enable)) (laneRetrain mid n) s)

/-- A write of ENABLE: 1 starts the bring-up of a lane that is DISABLED or FAILED; 0 disables a lane that the active Figure
does not use. -/
def laneEnable (n : Nat) (on : Bool) (s : State) : State :=
  let r := (s.lane n).regs
  if on then
    let s1 := laneStatus n stOk (s.modLaneRegs n (fun r => { r with enable := true }))
    if r.state = .disabled || r.state = .failed then s1.modLane n (Lane.train s.clock.tick) else s1
  else if r.state = .disabled then laneStatus n stOk (s.modLaneRegs n (fun r => { r with enable := false }))
  else if s.laneUsed n then laneStatus n stConflict s
  else laneStatus n stOk ((laneOut n .disabled 0 s).modLaneRegs n (fun r => { r with enable := false }))

/-- LANE_CTRL_WRITE (R379): RETRAIN acts after ENABLE. Only MID 0 and MID 1 write the register. -/
def laneCtrlWrite (mid n : Nat) (v : Word) (s : State) : State :=
  if 1 < mid then s
  else
    let s1 := laneEnable n (bitW v 0) s
    if bitW v 1 then laneRetrain mid n s1 else s1

def execLaneCtrlWrite (mid n : Nat) (v : Word) (s : State) : Host.Outcome State Fault Refusal :=
  .next (bar0Row mid (laneCtrlOffset n) v (laneCtrlWrite mid n v) s)

/-- Limits of Table 10.7 from the start of bring-up, in ticks of CCLK. -/
def trainMax : Nat := ticksOfNs 50000000
def alignMax : Nat := ticksOfNs 50010000
def verifyMax : Nat := ticksOfNs 50012000
def downTicks : Nat := ticksOfNs 1000000

/-- LANE_TRAINING_DONE: CDR lock and adaptation, within its time. What LANE_n_EQ then reads is left open. -/
def laneTrainingDone (n : Nat) (s : State) : State :=
  let l := s.lane n
  if l.regs.state = .training ∧ s.clock.tick ≤ l.since + trainMax then
    (s.modLaneRegs n (fun r => { r with state := .aligning, eq := BitVec.ofNat 32 s.freeValue })).useFree
  else s

def execLaneTrainingDone (n : Nat) (s : State) : Host.Outcome State Fault Refusal := .next (laneTrainingDone n s)

/-- LANE_ALIGN_DONE: 64 valid markers in a row, within its time. -/
def laneAlignDone (n : Nat) (s : State) : State :=
  let l := s.lane n
  if l.regs.state = .aligning ∧ s.clock.tick ≤ l.since + alignMax then
    s.modLane n (fun l => { l with regs := { l.regs with state := .verifying }, idents := 0 })
  else s

def execLaneAlignDone (n : Nat) (s : State) : Host.Outcome State Fault Refusal := .next (laneAlignDone n s)

/-- LANE_BRINGUP_TIMEOUT: a step of Table 10.7 has overrun its limit. A chip without a CHIP_ID stays in VERIFYING. -/
def laneBringupTimeout (n : Nat) (s : State) : State :=
  let l := s.lane n
  match l.regs.state with
  | .training => if l.since + trainMax < s.clock.tick then laneOut n .down causeTrain s else s
  | .aligning => if l.since + alignMax < s.clock.tick then laneOut n .down causeMarker s else s
  | .verifying =>
    if l.since + verifyMax < s.clock.tick ∧ s.dome.chipId ≠ 0xFFFF then laneOut n .failed causeIdentity s else s
  | _ => s

def execLaneBringupTimeout (n : Nat) (s : State) : Host.Outcome State Fault Refusal := .next (laneBringupTimeout n s)

/-- Do the lanes run: not in Sleep, Deep Sleep or Off, and not before the dividers run (R570)? -/
def State.lanesRun (s : State) : Bool := s.clk.phase1Done && (s.pwr.mode = .run || s.pwr.mode = .idle)

/-- LANE_DOWN_EXPIRY (R356): after 1 ms TRAINING begins again; a lane of a gated domain stays DOWN (R568). -/
def laneDownExpiry (n : Nat) (s : State) : State :=
  let l := s.lane n
  if l.regs.state = .down ∧ s.lanesRun ∧ s.domainOn (20 + n / 32) ∧ l.since + downTicks ≤ s.clock.tick then
    (s.modLane n (Lane.train s.clock.tick)).modLaneRegs n (fun r => { r with retrains := satInc r.retrains })
  else s

def execLaneDownExpiry (n : Nat) (s : State) : Host.Outcome State Fault Refusal := .next (laneDownExpiry n s)

/-! ### Cells that a lane originates -/

/-- The IDENT cell of a lane (Table 10.7). -/
def identCell (own lane : Nat) : Cell :=
  { type := cellIdent, figure := 0, hops := 0, dst := 0, src := own, pavane := 0, period := 0, flow := noFlow, step := 0,
    seq := 0, info := BitVec.ofNat 128 lane, poison := 0, payload := [] }

/-- A cell with nothing but its type, its destination and its payload. -/
def plainCell (type dst own : Nat) (payload : List Byte) : Cell :=
  { type := type, figure := 0, hops := 0, dst := dst, src := own, pavane := 0, period := 0, flow := 0, step := 0,
    seq := 0, info := 0, poison := 0, payload := payload }

/-- CHIP_STATE in a heartbeat. -/
def ChipState.heartbeat : ChipState → Nat
  | .timeAcquire => 1
  | .ready => 2
  | _ => 0

/-- Lanes that are SUSPECT, DOWN or FAILED, one bit each. -/
def State.lanesBad (s : State) : Nat :=
  (List.range 64).foldl (fun x n =>
    let st := (s.lane n).regs.state
    x + flagAt (st = .suspect || st = .down || st = .failed) n) 0

/-- The Figure that the plan follows. -/
def State.figureNow (s : State) : Nat := (s.stepImage.map (·.2)).getD 0

/-- Payload of a heartbeat (Table 10.13). -/
def State.heartbeatBytes (s : State) (n : Nat) : List Byte :=
  let id := match s.stepImage with
    | some (p, _) => p.id.toNat
    | none => 0
  leBytes (s.lane n).hbSeq.toNat 4 ++ leBytes id 4
  ++ leBytes (s.figureNow % 8 + s.clk.chipState.heartbeat * 2 ^ 4 + flagAt (s.time.servo = tsLocked) 7) 1
  ++ leBytes (0xF - s.rel.towerOut.toNat) 1
  ++ leBytes s.rel.chipHealth.toNat 2
  ++ leBytes s.lanesBad 8
  ++ leBytes s.rel.inService.toNat 4
  ++ List.replicate 40 0

/-- `n` bytes of a value, most significant first. -/
def beBytes (v n : Nat) : List Byte := (leBytes v n).reverse

/-- Message types of IEEE 1588. -/
abbrev ptpSync : Nat := 0
abbrev ptpDelayReq : Nat := 1
abbrev ptpDelayResp : Nat := 9

/-- A timestamp of IEEE 1588: 48 bits of seconds, 32 of nanoseconds (Table 2.3). -/
def ptpTime (t : Nat) : List Byte := beBytes (t / 2 ^ 32 / nsPerSec % 2 ^ 48) 6 ++ beBytes (t / 2 ^ 32 % nsPerSec) 4

/-- The fraction of a nanosecond of a hall time, in 2^-16 ns. -/
def subNs (t : Nat) : Nat := t % 2 ^ 32 / 2 ^ 16

/-- A message of IEEE 1588 in a TIME cell (PRESUMED, log entry 29): the header with its domain, its correctionField and
logMessageInterval −11, then the timestamp and what follows it. -/
def ptpMessage (type domain port seq t : Nat) (corr : Int) (tail : List Byte) : List Byte :=
  leBytes type 1 ++ leBytes 0x12 1 ++ beBytes (44 + tail.length) 2 ++ leBytes domain 1 ++ leBytes 0 1 ++ beBytes 0 2
  ++ beBytes (ofSigned 64 corr) 8 ++ beBytes 0 4 ++ beBytes port 10 ++ beBytes seq 2
  ++ leBytes (if type = ptpSync then 0 else if type = ptpDelayReq then 1 else 3) 1 ++ leBytes 0xF5 1
  ++ ptpTime t ++ tail

/-- delayAsymmetry of lane `n`, in 2^-16 ns (Table 2.3, Table 16.4). -/
def State.asymmetry (s : State) (n : Nat) : Int := (s.dome.cfg.lanes.get LaneCfg.off n).asym

/-- The lane has sent its Sync or Delay_Req of the period of hall time `t`. -/
def timeSent (n t : Nat) (s : State) : State := (s.modLane n (fun l => { l with timeSent := t / periodUnits + 1 })).useFree

/-- The message of a TIME entry of lane `n` in a Step that starts at `t`, if the lane has one to send: upstream the Delay_Req of the
period; downstream the Sync of the period, then the answer to a Delay_Req that waits (Table 2.3; the order is the model's, log
entry 29). -/
def timeMessage (n t : Nat) (s : State) : Option (List Byte) × State :=
  let port := s.freeValue % 2 ^ 80
  let dom := s.dome.cfg.domain
  let seq := periodNo t % 2 ^ 16
  let first := decide ((s.lane n).timeSent ≠ t / periodUnits + 1)
  if s.upstream n then
    if first then
      (some (ptpMessage ptpDelayReq dom port seq t (-s.asymmetry n) []),
        (timeSent n t s).modTime (fun x => { x with reqSent := some (port, seq, t) }))
    else (none, s)
  else if first then (some (ptpMessage ptpSync dom port seq t (subNs t) []), timeSent n t s)
  else match (s.lane n).delayReq with
    | some (at_, who, q, corr) =>
      (some (ptpMessage ptpDelayResp dom port q at_ ((corr : Int) - subNs at_) (beBytes who 10)),
        (s.modLane n (fun l => { l with delayReq := none })).useFree)
    | none => (none, s)

/-- Residence time, rounded to 2^-16 ns, enters the correctionField of a forwarded Sync or Delay_Req (R66), with the asymmetry of
the lane on which a Sync came in, less that of the lane on which a Delay_Req goes out. -/
def addResidence (d : Nat) (asymIn asymOut : Int) (l : List Byte) : List Byte :=
  let ty := (l.headD 0).toNat % 16
  if ty = ptpSync ∨ ty = ptpDelayReq then
    let old : Int := beValue ((l.drop 8).take 8)
    let add : Int := ((d + 2 ^ 15) / 2 ^ 16 : Nat)
    l.take 8 ++ beBytes (ofSigned 64 (old + add + if ty = ptpSync then asymIn else -asymOut)) 8 ++ l.drop 16
  else l

/-! ### STEP_FRAME_TRANSMIT (R344, R354, R360, R366 to R371, R380) -/

/-- What a transmit Step does with a lane's cells. -/
structure TxCell where
  cell : Option Cell
  state : State

/-- Originate a cell in Step `m` (counted from the epoch): the Figure and the Pavane in force, SEQ of its flow. -/
def originate (m flow : Nat) (c : Cell) (s : State) : TxCell :=
  let q := s.fab.flowSeq.get 0 flow
  let id := match s.image with
    | some p => p.id
    | none => 0
  let best := c.type = cellBe || c.type = cellIdent
  let c1 := { c with
    figure := s.figureNow % 8, pavane := id, period := BitVec.ofNat 32 (m / 8000), step := m % 8000
    flow := flow, seq := if best then 0 else q }
  ⟨some c1, if best then s else s.modFab (fun f => { f with flowSeq := f.flowSeq.set 0 flow (q + 1) })⟩

/-- No cell in the Step. -/
def txIdle (s : State) : TxCell := ⟨none, s⟩

/-- Forward a held cell on lane `n` in Step `m` (R367). A cell whose HOPS would exceed 15 is discarded. -/
def forward (n m : Nat) (h : HeldCell) (s : State) : TxCell :=
  let s1 := s.modFab (fun f => { f with held := f.held.erase h })
  if 15 < h.cell.hops + 1 then
    ⟨none, s1.modLaneRegs h.lane (fun r => { r with discardUnexpected := satInc r.discardUnexpected })⟩
  else
    let c := { h.cell with period := BitVec.ofNat 32 (m / 8000), step := m % 8000, hops := h.cell.hops + 1 }
    ⟨some (if c.type = cellTime then { c with
      payload := addResidence (stepTime m - h.arrived) (s.asymmetry h.lane) (s.asymmetry n) c.payload } else c), s1⟩

/-- A transmit LOCAL entry of flow `f` (Table 10.9, FLOW_TABLE). On a management flow the first notice that waits goes out
(R562, log entry 37). The destination of fronthaul and of Dome cells is stated
nowhere: a free value. -/
def txLocal (m f : Nat) (payload : StepPayload) (s : State) : TxCell :=
  match s.endpoint f with
  | some (1, arg) =>
    match fhOut arg payload (stepTime m) s with
    | (some l, s1) => originate m f (plainCell cellFh (s.freeValue % 65536) s.chipId (l.take payloadMax)) s1.useFree
    | (none, s1) => txIdle s1
  | some (5, _) =>
    match s.rel.notices with
    | (dst, l) :: rest => originate m f (plainCell cellMgmt dst s.chipId l) { s with rel := { s.rel with notices := rest } }
    | [] =>
      match payload with
      | .bytes l =>
        if l.isEmpty then txIdle s
        else originate m f (plainCell cellMgmt (s.freeValue % 65536) s.chipId (l.take payloadMax)) s.useFree
      | _ => txIdle s
  | some (_, _) =>
    match rmTake f (stepTime m) s with
    | (some c, s1) => originate m f c s1
    | (none, s1) => txIdle s1
  | none => txIdle s

/-- A transmit TRANSIT entry: the cell accepted in its IN_LANE and IN_STEP, or idle fill (R368). -/
def txTransit (n m r : Nat) (s : State) : TxCell :=
  match s.fab.held.find? (fun h =>
      !h.oldSet && h.lane == field r 23 18 && h.step == field r 17 5 && decide (h.readyAt ≤ stepTime m)) with
  | some h => forward n m h s
  | none => ⟨none, s.modLaneRegs n (fun x => { x with transitEmpty := satInc x.transitEmpty })⟩

/-- A Step that no scheduled cell takes: a best-effort cell that a decision chose, or an IDENT cell in the first 64 Steps
of UP (R355). -/
def txUnclaimed (n m : Nat) (s : State) : TxCell :=
  match if s.image.isSome then bePicked n m s else (none, s) with
  | (some c, s1) =>
    let o := originate m noFlow c s1
    if c.hops = 0 then o
    else ⟨some { c with period := BitVec.ofNat 32 (m / 8000), step := m % 8000 }, s1⟩
  | (none, s1) =>
    if (s.lane n).upSteps < 64 ∧ s.dome.chipId ≠ 0xFFFF then originate m noFlow (identCell s.chipId n) s1 else txIdle s1

/-- Count a scheduled cell that is sent. -/
def TxCell.scheduled (n : Nat) (x : TxCell) : TxCell :=
  if x.cell.isSome then ⟨x.cell, countBelfry 0x1001 (some n) 1 x.state⟩ else x

/-- An IDENT cell in place of idle fill during the first 64 Steps of UP. -/
def TxCell.orIdent (n m : Nat) (x : TxCell) : TxCell :=
  if x.cell.isNone ∧ (x.state.lane n).upSteps < 64 ∧ x.state.dome.chipId ≠ 0xFFFF then
    originate m noFlow (identCell x.state.chipId n) x.state
  else x

/-- What an UP or SUSPECT lane sends in Step `m`; after a fatal error no scheduled and no best-effort cell (R531). -/
def txPlan (n m : Nat) (payload : StepPayload) (s : State) : TxCell :=
  if s.rel.fatal then (txIdle s).orIdent n m else
  let entry := if s.planOpen then s.entry n false (m % 8000) else none
  let kind := match entry with
    | some r => field r 43 40
    | none => 0
  let live := s.image.isSome
  let old := if s.planOpen then s.oldTransit n (m % 8000) else none
  let r := entry.getD 0
  -- an old-path cell whose Step the new step set claims with another KIND is dropped (R371)
  let s := match old with
    | some h => if kind = 0 ∨ kind = 5 then s
        else s.modFab (fun f => { f with held := f.held.erase h, oldDrops := satInc f.oldDrops })
    | none => s
  match kind with
  | 1 => (if live then (txLocal m (field r 39 24) payload s).scheduled n else txIdle s).orIdent n m
  | 2 => (if live then (txTransit n m r s).scheduled n else txIdle s).orIdent n m
  | 3 =>
    let partner := match s.stepImage with
      | some (p, _) => partnerChip (p.lane n)
      | none => 0
    let o := originate m 0 (plainCell cellHeartbeat partner s.chipId (s.heartbeatBytes n)) s
    TxCell.scheduled n ⟨o.cell, o.state.modLane n (fun l => { l with hbSeq := l.hbSeq + 1 })⟩
  | 4 =>
    let partner := match s.stepImage with
      | some (p, _) => partnerChip (p.lane n)
      | none => 0
    match timeMessage n (stepTime m) s with
    | (some l, s1) => (originate m 0 (plainCell cellTime partner s.chipId l) s1).scheduled n
    | (none, s1) => (txIdle s1).orIdent n m
  | 0 =>
    match old with
    | some h => ((forward n m h s).scheduled n).orIdent n m
    | none => txUnclaimed n m s
  | 5 =>
    match old with
    | some h => ((forward n m h s).scheduled n).orIdent n m
    | none => (txIdle s).orIdent n m
  | _ => (txIdle s).orIdent n m

/-- A lane that is neither UP nor SUSPECT drops the cell of a TRANSIT entry (R368). -/
def txDown (n m : Nat) (s : State) : State :=
  match if s.planOpen && s.image.isSome then s.entry n false (m % 8000) else none with
  | some r =>
    if field r 43 40 = 2 then
      match s.fab.held.find? (fun h => !h.oldSet && h.lane == field r 23 18 && h.step == field r 17 5) with
      | some h => (s.modFab (fun f => { f with held := f.held.erase h })).modLaneRegs n
          (fun x => { x with txDrops := satInc x.txDrops })
      | none => s
    else s
  | none => s

/-- The cell of lane `n` in Step `m`, by its state (R354). -/
def txStep (n m : Nat) (payload : StepPayload) (s : State) : TxCell :=
  match (s.lane n).regs.state with
  | .up | .suspect =>
    let x := txPlan n m payload s
    ⟨x.cell, x.state.modLane n (fun l => { l with upSteps := l.upSteps + 1 })⟩
  | .verifying =>
    if s.dome.chipId = 0xFFFF then ⟨none, txDown n m s⟩ else originate m noFlow (identCell s.chipId n) (txDown n m s)
  | _ => ⟨none, txDown n m s⟩

/-- FLAGS of this chip's markers: the active Figure, TIME_LOCKED, ACTIVE (R347). -/
def State.markerFlags (s : State) : Nat :=
  s.figureNow % 8 + flagAt (s.time.servo = tsLocked) 3 + flagAt s.image.isSome 4

/-- STEP_FRAME_TRANSMIT: the frame of the Step that hall time is in, once. `payload` is what the radio work or the Dome hands
over for a Step of its flow. A DISABLED or TRAINING lane sends no frame (R354). -/
def stepFrameTransmit (n : Nat) (payload : StepPayload) (s : State) : State :=
  let m := stepCount s.now
  let l := s.lane n
  if !s.lanesRun || decide (m < l.txNext) then s
  else
    let x := txStep n m payload (s.modLane n (fun l => { l with txNext := m + 1 }))
    if l.regs.state = .disabled || l.regs.state = .training then x.state
    else x.state.emit (.frame n (m % 8000) (m / 8000) (markerBytes n m s.markerFlags s.chipId) x.cell)

def execStepFrameTransmit (n : Nat) (payload : StepPayload) (s : State) : Host.Outcome State Fault Refusal :=
  .next (stepFrameTransmit n payload s)

/-! ### STEP_FRAME_RECEIVE (R348, R352, R353, R357) -/

/-- Count a discard of lane `n`. -/
def discardCrc (n : Nat) (s : State) : State :=
  errRecord 8 0 n 0 0 0 0 (s.modLaneRegs n (fun r => { r with discardCrc := satInc r.discardCrc }))
def discardUnexpected (n : Nat) (s : State) : State :=
  s.modLaneRegs n (fun r => { r with discardUnexpected := satInc r.discardUnexpected })
def discardStale (n : Nat) (s : State) : State := s.modLaneRegs n (fun r => { r with discardStale := satInc r.discardStale })

/-- RX_OFFSET of a marker that arrives at hall time `t` and names Step `step` of the period whose low 16 bits are `period`: from the
start of that Step, the one nearest now, in units of 1/16 BCLK. -/
def State.rxOffset (s : State) (t step period : Nat) : Int :=
  let p := s.now / periodUnits
  let base := p / 65536 * 65536 + period
  let best := if base + 32768 < p then base + 65536 else if p + 32768 < base then base - 65536 else base
  (((t : Int) - (best * periodUnits + step * stepUnits : Nat)) * 16) / (max 1 s.time.incr : Nat)

/-- The delay bound of a lane (R357). -/
def State.delayBound (s : State) (n : Nat) : Int :=
  let r := match s.image with
    | some p => readySteps (p.lane n)
    | none => 16
  (r * 850 : Nat) - 1754

/-- A valid marker, at hall time `t`: RX_OFFSET while both ends are LOCKED, and the bound while a Pavane is active. -/
def markerIn (n t : Nat) (k : Marker) (s : State) : State :=
  if s.time.servo = tsLocked ∧ k.locked then
    let o := s.rxOffset t k.step k.period
    let beyond := s.image.isSome && decide (s.delayBound n < o)
    let s1 := s.modLane n (fun l => { l with
      regs := { l.regs with rxOffset := BitVec.ofNat 16 (ofSigned 16 o), delayValid := true },
      overBound := if beyond then l.overBound + 1 else 0 })
    if (s1.lane n).overBound = 16 ∧ (s1.lane n).regs.state.carries then laneOut n .down causeDelay s1 else s1
  else s.modLane n (fun l => { l with regs := { l.regs with delayValid := false }, overBound := 0 })

/-- An invalid marker: the eighth in a row takes an UP or SUSPECT lane DOWN (R356). -/
def markerLost (n : Nat) (s : State) : State :=
  let s1 := s.modLane n (fun l => { l with badMarkers := l.badMarkers + 1 })
  if 8 ≤ (s1.lane n).badMarkers ∧ (s1.lane n).regs.state.carries then laneOut n .down causeMarker s1 else s1

/-- The Step and period of a frame (R348): from its marker, else one Step after the last; Step 0 follows in the next
period. -/
def Lane.frameStep (l : Lane) (k : Marker) : Nat × Nat :=
  if k.ok then (k.step, k.period)
  else if l.lastStep + 1 < 8000 then (l.lastStep + 1, l.lastPeriod) else (0, (l.lastPeriod + 1) % 65536)

/-- What the configuration memory's lane map gives for lane `n`: the partner's chip and lane. -/
def State.partner (s : State) (n : Nat) : Nat × Nat :=
  let c := s.dome.cfg.lanes.get LaneCfg.off n
  (c.chip.toNat, c.lane.toNat)

/-- An accepted IDENT cell (R353, R355). -/
def identIn (n : Nat) (c : Cell) (s : State) : State :=
  let who := (c.src, c.infoBytes 24 1 % 64)
  match (s.lane n).regs.state with
  | .verifying =>
    if s.dome.chipId = 0xFFFF then s
    else if who ≠ s.partner n then laneOut n .failed causeIdentity s
    else
      let s1 := s.modLane n (fun l => { l with
        idents := l.idents + 1,
        regs := { l.regs with partnerChip := BitVec.ofNat 16 who.1, partnerLane := BitVec.ofNat 6 who.2 } })
      if 16 ≤ (s1.lane n).idents then
        s1.modLane n (fun l => { l with regs := { l.regs with state := .up }, since := s.clock.tick, upSteps := 0 })
      else s1
  | .up | .suspect => if who = s.partner n then s else laneOut n .failed causeIdentity s
  | _ => s

/-- An accepted heartbeat of the lane's partner (R374, R375, R522, R524), in Step `m` counted from the epoch. -/
def heartbeatIn (n m : Nat) (c : Cell) (s : State) : State :=
  let (p, id) := match s.stepImage with
    | some (p, _) => (partnerChip (p.lane n), p.id.toNat)
    | none => (0, 0)
  if c.src ≠ p then s
  else
    let ready := decide ((c.payload.getD 8 0).toNat / 16 % 4 = 2) && decide (leValue ((c.payload.drop 4).take 4) = id)
    let health := leValue ((c.payload.drop 10).take 2)
    let note (x : Liveness) : Liveness := { x with seen := true, good := x.good && ready, health := health }
    let s1 := { s with rel := { s.rel with live := s.rel.live.modify Liveness.reset p note } }
    let s2 := s1.modLane n (fun l => { l with
      regs := { l.regs with hbMisses := 0, hbGood := satInc l.regs.hbGood }
      hbGot := m :: l.hbGot.filter (fun x => decide (m ≤ x + 16000)) })
    if (s2.lane n).regs.state = .suspect ∧ 4 ≤ (s2.lane n).regs.hbGood then
      s2.modLaneRegs n (fun r => { r with state := .up })
    else s2

/-- The wire timestamp of a message, in units of 2^-32 ns: 48 bits of seconds, so a difference is taken modulo 2^48 s. -/
def ptpStamp (l : List Byte) : Int :=
  ((beValue ((l.drop 34).take 6) * nsPerSec + beValue ((l.drop 40).take 4)) * 2 ^ 32 : Nat)

/-- The correctionField of a message, in units of 2^-32 ns. -/
def ptpCorrection (l : List Byte) : Int := toSigned 64 (beValue ((l.drop 8).take 8)) * 2 ^ 16

/-- A difference of two times of the wire: the one nearest 0. -/
def wireDiff (d : Int) : Int :=
  let w : Int := (2 ^ 48 * nsPerSec * 2 ^ 32 : Nat)
  let r := d % w
  if w < 2 * r then r - w else r

/-- May a message be taken: domainNumber is the configured one, and twoStepFlag is 0 (Table 2.3)? -/
def State.ptpTaken (s : State) (l : List Byte) : Bool :=
  decide ((l.getD 4 0).toNat = s.dome.cfg.domain) && !bitAt (l.getD 6 0).toNat 1

/-- A Sync of the upstream lane, whose header crossed the lands at `t2`: its way is t2 − t1 without the correctionField and the
lane's asymmetry, its offset what the way has beyond the mean path delay (R64, R68). -/
def syncIn (n t2 : Nat) (l : List Byte) (s : State) : State :=
  let way := wireDiff ((t2 : Int) - ptpStamp l) - ptpCorrection l - s.asymmetry n * 2 ^ 16
  syncSeen (way - s.time.pathDelay) (s.modTime (fun t => { t with forward := way }))

/-- The answer to this chip's Delay_Req of hall time t3: the way back is t4 − t3 − correctionField, and the mean path delay half of
what the two ways sum to (R64). -/
def delayRespIn (l : List Byte) (s : State) : State :=
  match s.time.reqSent with
  | some (port, seq, t3) =>
    if beValue ((l.drop 44).take 10) = port ∧ beValue ((l.drop 30).take 2) = seq then
      let up := wireDiff (ptpStamp l - (t3 : Int)) - ptpCorrection l
      s.modTime (fun t => { t with reqSent := none, pathDelay := (t.forward + up) / 2 })
    else s
  | none => s

/-- An accepted TIME cell that ends here, whose header crossed the lands at hall time `t` (R65, R67): a Sync of the upstream lane
is measured, a Delay_Req waits for its answer; a message that the device does not support is discarded and counted (Table 2.3). -/
def timeIn (n t : Nat) (c : Cell) (s : State) : State :=
  let l := c.payload
  let ty := (l.headD 0).toNat % 16
  if !s.ptpTaken l then discardUnexpected n s
  else if ty = ptpSync then (if s.upstream n then syncIn n t l s else s)
  else if ty = ptpDelayReq then
    let q := some (t, beValue ((l.drop 20).take 10), beValue ((l.drop 30).take 2), beValue ((l.drop 8).take 8))
    s.modLane n (fun l => { l with delayReq := q })
  else if ty = ptpDelayResp then (if s.upstream n then delayRespIn l s else s)
  else discardUnexpected n s

/-- Cells that a KIND admits (Table 10.10). -/
def kindAdmits (kind type : Nat) : Bool :=
  match kind with
  | 1 => [cellData, cellFh, cellRmem, cellMgmt].contains type
  | 2 => [cellData, cellFh, cellTime, cellRmem, cellMgmt].contains type
  | 3 => type == cellHeartbeat
  | 4 => type == cellTime
  | _ => false

/-- Outcome of checks 5 and 6 of Table 10.5: stale, unexpected, or the entry's KIND (0 for an unclaimed Step) with whether
the cell is of the previous step set. -/
inductive RxCheck where
  | stale
  | unexpected
  | pass (kind : Nat) (old : Bool)
  deriving DecidableEq, Repr

/-- Check 6 against an entry. -/
def rxEntry (c : Cell) (old : Bool) (e : Option Nat) : RxCheck :=
  match e with
  | none => if c.type = cellBe then .pass 0 old else .unexpected
  | some r => if kindAdmits (field r 43 40) c.type && field r 39 24 == c.flow then .pass (field r 43 40) old else .unexpected

/-- Checks 5 and 6 of Table 10.5; in time-only mode R365. -/
def State.rxCheck (s : State) (n : Nat) (c : Cell) : RxCheck :=
  match s.image with
  | some p =>
    if c.pavane ≠ p.id then .stale
    else match p.stepSet c.figure, p.stepSet s.fab.figure with
      | some x, some a =>
        if x = a then rxEntry c false (p.entryAt a n true c.step)
        else match s.fab.drain with
          | some (o, _) => if x = o then rxEntry c true (p.entryAt o n true c.step) else .stale
          | none => .stale
      | _, _ => .stale
  | none => match s.stepSet with
    | some (p, x) =>
      let kind := if c.type = cellTime then 4 else 3
      if c.type = cellTime || c.type = cellHeartbeat then
        if (p.steps.get [] x).any (fun r => bitAt r 50 && field r 49 44 == n && field r 43 40 == kind) then .pass kind false
        else .unexpected
      else if (p.entryAt x n true c.step).isNone && c.type == cellBe then .pass 0 false
      else .unexpected
    | none => if c.type = cellBe then .pass 0 false else .unexpected

/-- The hall time at which the cell of a marker that arrives at `t` is ready: 48 BCLK after the end of its frame (R366). -/
def State.readyTime (s : State) (t : Nat) : Nat := t + stepUnits + 48 * s.time.incr

/-- Hall time of the start of the Step of a received frame, in the period nearest now. -/
def State.frameStart (s : State) (step period : Nat) : Nat :=
  let p := s.now / periodUnits
  let base := p / 65536 * 65536 + period
  let best := if base + 32768 < p then base + 65536 else if p + 32768 < base then base - 65536 else base
  best * periodUnits + step * stepUnits

/-- The chip through which this chip reaches a near-set chip with VIA = 1: the partner of the lane that sends its request flow
(R377, R523). -/
def State.intermediate (s : State) (chip : Nat) : Option Nat :=
  match s.nearSet.find? (fun r => field r 63 48 == chip), s.stepSet with
  | some r, some (p, x) =>
    if bitAt r 0 then
      ((p.steps.get [] x).find? (fun e => !bitAt e 50 && field e 43 40 == 1 && field e 39 24 == field r 47 32)).map
        (fun e => partnerChip (p.lane (field e 49 44)))
    else none
  | _, _ => none

/-- A MGMT cell arrives (R523, R562): a notice rings the Dome, and acts if its subject is reached through its sender. -/
def noticeIn (c : Cell) (s : State) : State :=
  let kind := (c.payload.headD 0).toNat
  let chip := leValue ((c.payload.drop 2).take 2)
  if !(kind = 1 || kind = 2) then s
  else
    let s1 := ringDome 2 s
    if s.intermediate chip = some c.src then
      if kind = 1 then (if s.rm.lost.contains chip then s1 else chipLost chip s1)
      else if s.rm.lost.contains chip then chipReturned chip s1 else s1
    else s1

/-- A cell that ends at this chip, by its type; its header crossed the lands at hall time `t`. -/
def localIn (n step period t : Nat) (c : Cell) (s : State) : State :=
  if c.type = cellFh then fhCellIn c (s.frameStart step period) s
  else if c.type = cellRmem then rmCellIn (stepCount (s.frameStart step period) * 64 + n) c s
  else if c.type = cellData then dataCellIn (stepCount (s.frameStart step period) * 64 + n) c s
  else if c.type = cellMgmt then noticeIn c s
  else if c.type = cellHeartbeat then heartbeatIn n (stepCount (s.frameStart step period)) c s
  else if c.type = cellTime then timeIn n t c s
  else s

/-- An accepted cell of an UP or SUSPECT lane, whose header crossed the lands at hall time `t`, goes to its place: best-effort, held
for forwarding, or local. The capture channels see every TIME cell (Table 2.6). -/
def dispatchCell (n step period t kind : Nat) (old : Bool) (c : Cell) (s : State) : State :=
  if kind = 0 then beCellIn n (s.readyTime t) c s
  else
    let s0 := countBelfry 0x1002 (some n) 1 s
    let s1 := if c.type = cellTime then captureAt (hallOf t) 7 n true s0 else s0
    if kind = 2 then
      let h1 : HeldCell := ⟨c, n, step, t, s.readyTime t, old⟩
      s1.modFab (fun f => { f with
        held := f.held.filter (fun h => !(h.lane == n && h.step == step && h.oldSet == old)) ++ [h1] })
    else localIn n step period t c s1

/-- A cell that has passed checks 1 to 4 (R352, R353). -/
def cellChecked (n step period t : Nat) (c : Cell) (pcrcOk : Bool) (s : State) : State :=
  let st := (s.lane n).regs.state
  if c.type = cellIdent then
    if !(st = .verifying || st.carries) then s
    else if !pcrcOk then discardCrc n s
    else identIn n c s
  else if !st.carries then s
  else match s.rxCheck n c with
    | .stale => discardStale n s
    | .unexpected => discardUnexpected n s
    | .pass kind old => if pcrcOk then dispatchCell n step period t kind old c s else discardCrc n s

/-- The cell of a frame: checks 1 to 4 of Table 10.5. The codewords that fail check 1 are counted with the frame. -/
def cellIn (n step period : Nat) (f : FrameIn) (s : State) : State :=
  if f.bytes.isEmpty then s
  else if !fecHolds f.errors f.bytes.length then errRecord 8 0 n 0 0 0 0 s
  else match readCell f.bytes with
    | .badHeader => discardCrc n s
    | .illegal => discardUnexpected n s
    | .cell c ok =>
      if c.step ≠ step || c.period.toNat % 65536 ≠ period then discardUnexpected n s else cellChecked n step period (s.nowAt f.phase) c ok s

/-- Does a lane take frames in? -/
def LaneState.listens (x : LaneState) : Bool := x.carries || x = .aligning || x = .verifying

/-- STEP_FRAME_RECEIVE: a frame arrives now, the header of its cell at its sixteenth of this BCLK (R65). Corrected codewords and uncorrectable ones are counted (R345, R379), the marker is taken (R348, R356,
R357), then the cell. A lane that carries no cells discards them uncounted (R354). -/
def stepFrameReceive (n : Nat) (f : FrameIn) (s : State) : State :=
  let l := s.lane n
  if !s.lanesRun || !l.regs.state.listens then s
  else
    let k := readMarker f.marker
    let (step, period) := l.frameStep k
    let s1 := countBelfry 0x1004 (some n) (fecCorrected f.errors) (s.modLaneRegs n (fun r => { r with
      fecCorr := satAdd r.fecCorr (fecCorrected f.errors), fecUncorr := satAdd r.fecUncorr (fecFailed f.errors) }))
    let s2 := s1.modLane n (fun l => { l with
      lastStep := step, lastPeriod := period, badMarkers := if k.ok then 0 else l.badMarkers })
    let s3 := if k.ok then markerIn n (s.nowAt f.phase) k s2 else markerLost n s2
    if (s3.lane n).regs.state.listens && !((s3.lane n).regs.state = .aligning) then cellIn n step period f s3 else s3

def execStepFrameReceive (n : Nat) (f : FrameIn) (s : State) : Host.Outcome State Fault Refusal :=
  .next (stepFrameReceive n f s)

/-! ### Heartbeats (R374, R375) -/

/-- Count a miss: three in a row make an UP lane SUSPECT, which the Dome and the radio partition feel. -/
def countMiss (n : Nat) (s : State) : State :=
  let miss (r : LaneRegs) : LaneRegs :=
    { r with hbMisses := satInc r.hbMisses, hbGood := 0, hbMissed := r.hbMissed + 1 }
  let s1 := countBelfry 0x1005 (some n) 1 (s.modLaneRegs n miss)
  if (s1.lane n).regs.state = .up ∧ 3 ≤ (s1.lane n).regs.hbMisses then
    radioPartFault (.lane n) (ringDome 1 (errRecord 9 1 n 0 0 0 0 (s1.modLaneRegs n (fun r => { r with state := .suspect }))))
  else s1

/-- Receive HEARTBEAT entries of a lane: their Steps, in order. -/
def Pavane.heartbeatSteps (p : Pavane) (set n : Nat) : List Nat :=
  ((p.steps.get [] set).filter (fun r => bitAt r 50 && field r 49 44 == n && field r 43 40 == 3)).map (fun r => field r 63 51)

/-- The first receive HEARTBEAT entry that has ended without its heartbeat, counted from the epoch. A Step of the partner
ends here READY_STEPS Steps after its start at the latest (DEDUCED from R366, log entry 30). -/
def State.missedStep (s : State) (n : Nat) : Option Nat :=
  match s.image with
  | some p =>
    match p.stepSet s.fab.figure with
    | some x =>
      let l := s.lane n
      let here := s.now / periodUnits
      let steps := p.heartbeatSteps x n
      let all := steps.map (· + (here - 1) * 8000) ++ steps.map (· + here * 8000)
      all.find? (fun m => decide (l.hbNext ≤ m) && !l.hbGot.contains m &&
        decide (stepTime m + readySteps (p.lane n) * stepUnits ≤ s.now))
    | none => none
  | none => none

/-- HEARTBEAT_MISS: an entry that ended without its heartbeat; in time-only mode a period without one. -/
def heartbeatMiss (n : Nat) (s : State) : State :=
  if s.image.isSome then
    match s.missedStep n with
    | some m => countMiss n (s.modLane n (fun l => { l with hbNext := m + 1 }))
    | none => s
  else if s.timeOnly.isSome then
    let here := s.now / periodUnits
    let l := s.lane n
    if l.hbNext < here * 8000 then
      let s1 := s.modLane n (fun l => { l with hbNext := here * 8000 })
      if l.hbGot.any (fun m => m / 8000 + 1 == here) then s1 else countMiss n s1
    else s
  else s

def execHeartbeatMiss (n : Nat) (s : State) : Host.Outcome State Fault Refusal := .next (heartbeatMiss n s)

/-- Lane partners of the image that the plan follows. -/
def State.partners (s : State) : List Nat :=
  match s.stepImage with
  | some (p, _) => ((p.laneMap.filter (fun r => bitAt r 63)).map partnerChip).eraseDups
  | none => []

/-- A period ends: silent and good periods of the partners (R522, R524). -/
def livenessPeriod (s : State) : State :=
  let watch := s.clk.chipState = .ready && s.stepImage.isSome
  let upd (x : Liveness) : Liveness :=
    { x with
      seen := false
      good := true
      silent := if !watch || x.seen then 0 else x.silent + 1
      goodRun := if x.seen && x.good then x.goodRun + 1 else 0 }
  { s with rel := { s.rel with live := s.rel.live.modifyAll Liveness.reset s.partners (fun _ x => upd x) } }

end Sys2Proof.Machine
end

