-- ==== Sys2Proof/Machine/PavaneImage.lean ====
section
/-! DEFINITION. Pavane images (R358 to R360, R604, R438): reading one and the checks of PAVANE_LOAD (R363). -/

namespace Sys2Proof.Machine

open Sys2Proof

/-! ### Records -/

/-- A mask of bits `hi:lo`. -/
def rangeMask (r : Nat × Nat) : Nat := 2 ^ (r.1 + 1) - 2 ^ r.2

/-- Are all bits of a record of `w` bits outside the named fields 0? -/
def onlyFields (w : Nat) (fields : List (Nat × Nat)) (r : Nat) : Bool :=
  r &&& (2 ^ w - 1 - (fields.map rangeMask).sum) == 0

/-- Records of `size` bytes in a section. -/
def sectionRecords (size : Nat) (l : List Byte) : List Nat :=
  (List.range (l.length / size)).map (fun i => leValue ((l.drop (i * size)).take size))

/-- A section table entry with its bytes (R358). -/
structure Section where
  type  : Nat
  scope : Nat
  index : Nat
  ok    : Bool
  bytes : List Byte
  deriving DecidableEq, Repr

/-- TYPE codes of Table 10.9. -/
abbrev secLaneMap : Nat := 1
abbrev secSteps : Nat := 2
abbrev secFlows : Nat := 3
abbrev secNear : Nat := 4
abbrev secSync : Nat := 5
abbrev secXbar : Nat := 6
abbrev secHbm : Nat := 7
abbrev secBelfry : Nat := 8
abbrev secStore : Nat := 9
abbrev secWindows : Nat := 10
abbrev secEngines : Nat := 11
abbrev secRadio : Nat := 12

/-- Bytes of a record of a section. -/
def recordSize (type : Nat) : Nat := if type = secStore ∨ type = secRadio then 32 else 8

/-- Is a section common to all Figures? -/
def sectionCommon (type : Nat) : Bool :=
  [secLaneMap, secXbar, secHbm, secBelfry, secStore].contains type

/-- The largest INDEX of a section. -/
def sectionIndexMax (type : Nat) : Nat := if type = secXbar then 3 else if type = secHbm then 23 else 0

/-- Read a section table entry of an image of `total` bytes. -/
def readSection (l : List Byte) (total i : Nat) : Section :=
  let e := leValue ((l.drop (0xC0 + 16 * i)).take 16)
  let off := field e 63 32
  let n := field e 95 64
  { type := field e 31 24, scope := field e 23 20, index := field e 19 0
    ok := decide (off + n ≤ total) && decide (field e 127 96 = 0)
    bytes := (l.drop off).take n }

/-- Header facts of an image (Table 10.8) with its Figure descriptors and sections. -/
structure ImageHead where
  ok       : Bool
  chip     : Nat
  id       : Nat
  bytes    : Nat
  figures  : Nat
  descs    : List Nat
  sections : List Section
  deriving DecidableEq, Repr

/-- Most bytes of an image, and of both slots together. -/
def imageMax : Nat := 16777216

/-- Read an image's header from the bytes of its tiles. -/
def readHead (l : List Byte) : ImageHead :=
  let h := leValue (l.take 64)
  let n := field h 159 128
  let sections := field h 207 200
  let img := l.take n
  let crcOk := decide (crc32c (img.take 20 ++ List.replicate 4 0 ++ img.drop 24) = field h 191 160)
  let descs := (List.range 8).map (fun f => leValue ((l.drop (0x40 + 16 * f)).take 16))
  let figures := field h 195 192
  let descOk := (List.range 8).all (fun f =>
    onlyFields 128 [(31, 31), (2, 0)] (descs.getD f 0) && (bitAt (descs.getD f 0) 31 == decide (f < figures)))
  { ok := decide (field h 31 0 = 0x4A485650) && decide (field h 47 32 = 1) && decide (field h 95 64 ≠ 0)
      && decide (0xC0 ≤ n ∧ n ≤ imageMax ∧ n ≤ l.length) && crcOk && decide (1 ≤ figures ∧ figures ≤ 8)
      && decide (1 ≤ sections) && decide (0xC0 + 16 * sections ≤ n) && descOk
      && onlyFields 512 [(31, 0), (47, 32), (95, 64), (111, 96), (159, 128), (191, 160), (195, 192), (207, 200)] h
    chip := field h 111 96, id := field h 95 64, bytes := n, figures := figures, descs := descs.map (· % 2 ^ 32)
    sections := (List.range sections).map (readSection img n) }

/-- The records of a section, if the image has it. -/
def ImageHead.find (h : ImageHead) (type scope index : Nat) : Option (List Nat) :=
  (h.sections.find? (fun x => x.type == type && x.scope == scope && x.index == index)).map
    (fun x => sectionRecords (recordSize type) x.bytes)

/-- Records of every section of a type, by SCOPE or by INDEX. -/
def ImageHead.table (h : ImageHead) (type : Nat) (byIndex : Bool) : Tab (List Nat) :=
  (h.sections.filter (fun x => x.type == type)).foldl (fun t x =>
    t.set [] (if byIndex then x.index else x.scope) (sectionRecords (recordSize type) x.bytes)) Tab.empty

/-- The image that a header describes. -/
def ImageHead.image (h : ImageHead) : Pavane where
  id := BitVec.ofNat 32 h.id
  bytes := h.bytes
  figures := h.descs
  laneMap := (h.find secLaneMap 15 0).getD []
  steps := h.table secSteps false
  flows := h.table secFlows false
  near := h.table secNear false
  sync := h.table secSync false
  xbar := h.table secXbar true
  hbm := h.table secHbm true
  belfry := (h.find secBelfry 15 0).getD []
  store := (h.find secStore 15 0).getD []
  windows := h.table secWindows false
  engines := h.table secEngines false
  radio := h.table secRadio false

/-! ### The checks of R363 -/

/-- Step sets that PRESENT Figures name. -/
def Pavane.stepSets (p : Pavane) : List Nat := (p.figureList.filterMap p.stepSet).eraseDups

/-- Sections: known TYPE, in the image, whole records, right SCOPE and INDEX, none twice, none of the required ones
missing. -/
def ImageHead.sectionsOk (h : ImageHead) (p : Pavane) : Bool :=
  h.sections.all (fun x => decide (1 ≤ x.type ∧ x.type ≤ 12) && x.ok && decide (x.bytes.length % recordSize x.type = 0)
    && decide (x.index ≤ sectionIndexMax x.type)
    && (if sectionCommon x.type then x.scope == 15
        else if x.type = secSteps then p.stepSets.contains x.scope else p.figureList.contains x.scope))
  && decide (h.sections.map (fun x => (x.type, x.scope, x.index))).Nodup
  && (h.find secLaneMap 15 0).isSome && (h.find secStore 15 0).isSome
  && p.stepSets.all (fun x => (h.find secSteps x 0).isSome)
  && p.figureList.all (fun f => (h.find secSync f 0).isSome && (h.find secWindows f 0).isSome)

/-- LANE_MAP: 64 records, no reserved field, READY_STEPS in range, and the partners of the configuration memory. -/
def Pavane.lanesOk (p : Pavane) (cfg : CfgData) : Bool :=
  decide (p.laneMap.length = 64)
  && (List.range 64).all (fun n =>
    let r := p.lane n
    let c := cfg.lanes.get LaneCfg.off n
    onlyFields 64 [(63, 63), (62, 62), (61, 56), (55, 40), (36, 32)] r
    && (!bitAt r 63 || (decide (3 ≤ readySteps r ∧ readySteps r ≤ 16) && c.enabled
          && decide (partnerChip r = c.chip.toNat) && decide (field r 61 56 = c.lane.toNat))))

/-- The key by which step-table entries are sorted: LANE, then STEP, then DIR. -/
def stepKey (r : Nat) : Nat := (field r 49 44 * 8000 + field r 63 51) * 2 + field r 50 50

/-- Does a list of numbers strictly rise? -/
def rising : List Nat → Bool
  | a :: b :: r => decide (a < b) && rising (b :: r)
  | _ => true

/-- A step-table entry (R360, R366). -/
def Pavane.entryOk (p : Pavane) (r : Nat) : Bool :=
  let kind := field r 43 40
  let txTransit := kind == 2 && !bitAt r 50
  let inLane := p.lane (field r 23 18)
  let d := (field r 63 51 + 8000 - field r 17 5) % 8000
  decide (field r 63 51 < 8000) && decide (1 ≤ kind ∧ kind ≤ 6) && decide (field r 4 0 = 0)
  && (decide (kind ≤ 2) || decide (field r 39 24 = 0))
  && (if txTransit then bitAt inLane 63 && decide (field r 17 5 < 8000)
        && decide (readySteps inLane ≤ d ∧ d ≤ readySteps inLane + 15)
      else decide (field r 23 5 = 0))

/-- A STEP_TABLE: entries in order, each sound, and the heartbeats of R373. -/
def Pavane.stepsOk (p : Pavane) (set : Nat) : Bool :=
  let l := p.steps.get [] set
  l.all p.entryOk && rising (l.map stepKey)
  && (List.range 64).all (fun n => !bitAt (p.lane n) 63 || [false, true].all (fun d =>
       l.any (fun r => field r 49 44 == n && bitAt r 50 == d && field r 43 40 == 3)))

/-- FLOW_TABLE and NEAR_SET of a Figure (R359, R377). -/
def Pavane.flowsOk (p : Pavane) (own fig : Nat) : Bool :=
  let near := p.near.get [] fig
  (p.flows.get [] fig).all (fun r => onlyFields 64 [(63, 24)] r && decide (1 ≤ field r 47 40 ∧ field r 47 40 ≤ 5)
      && (decide (field r 47 40 ≠ 1) || decide (field r 39 24 ≤ 383)))
  && near.all (fun r => onlyFields 64 [(63, 16), (0, 0)] r && decide (field r 63 48 ≠ own))
  && decide (near.length ≤ 4096) && decide (near.map (fun r => field r 63 48)).Nodup

/-- SYNC of a Figure: one record. -/
def Pavane.syncOk (p : Pavane) (fig : Nat) : Bool :=
  let l := p.sync.get [] fig
  decide (l.length = 1) && l.all (onlyFields 64 [(63, 63), (5, 0)])

/-- The CCLK of a crossbar record's connections. -/
def xbarTimes (r : Nat) : List Nat := (List.range (field r 43 32)).map (fun i => field r 63 44 + i * field r 31 20)

/-- CROSSBAR_PLAN of a Tower: ranges, the idle tail (R62), one source for a DEST in a CCLK (R18). -/
def Pavane.xbarOk (p : Pavane) (t : Nat) : Bool :=
  let l := p.xbar.get [] t
  l.all (fun r => onlyFields 64 [(63, 12)] r && decide (1 ≤ field r 43 32) && decide (field r 19 16 ≤ 14)
    && decide (field r 15 12 ≤ 14) && (xbarTimes r).all (fun c => decide (c < planEnd)))
  && decide ((l.map (fun r => (xbarTimes r).eraseDups.map (fun c => (field r 19 16, c)))).flatten).Nodup

/-- Frames of an HBM record. -/
def hbmFrames (r : Nat) : List Nat := (List.range (field r 47 32)).map (fun i => field r 63 48 + i * field r 31 16)

/-- Frames in a period (R254). -/
def framesPerPeriod : Nat := 50000

/-- OWNER codes that a record of controller `h` may carry (Table 10.9): its own Tower's Spires, the Belfry port, a Spire of another
Tower. -/
def hbmOwnerOk (h o : Nat) : Bool := decide (o ≤ 32) || decide (64 ≤ o ∧ o ≤ 191 ∧ (o - 64) / 32 ≠ h / 6)

/-- Do refresh points come at most 3,200 plan CCLK apart, counted across the period start (R257)? -/
def refreshOk (fs : List Nat) : Bool :=
  match ascending fs with
  | [] => false
  | a :: r =>
    let all := (a :: r) ++ [a + framesPerPeriod]
    (all.zip (all.drop 1)).all (fun g => decide (17 * (g.2 - g.1) ≤ 3200))

/-- HBM_PLAN of a controller, if the image holds one. -/
def Pavane.hbmOk (p : Pavane) (h : Nat) : Bool :=
  let l := p.hbm.get [] h
  let slots := l.filter (fun r => field r 15 12 ≠ 15)
  let refresh := ((l.filter (fun r => field r 15 12 == 15)).map hbmFrames).flatten.eraseDups
  let given := (slots.map (fun r => (hbmFrames r).eraseDups.map (fun f => (f, field r 15 12)))).flatten
  l.all (fun r => onlyFields 64 [(63, 4)] r
    && (if field r 15 12 = 15 then field r 11 4 == 0 else hbmOwnerOk h (field r 11 4))
    && (hbmFrames r).all (fun f => decide (f < framesPerPeriod)
         && decide (17 * f + (if field r 15 12 = 15 then 0 else field r 15 12) < planEnd)))
  && decide given.Nodup && given.all (fun x => !refresh.contains x.1)
  && refreshOk refresh

/-- BELFRY_PLAN: the idle tail (R62); a BCLK lies at twice its number of CCLK. -/
def Pavane.belfryOk (p : Pavane) : Bool :=
  p.belfry.all (fun r => onlyFields 64 [(63, 5)] r
    && (decide (field r 44 33 = 0) ||
        decide (2 * (field r 63 45 + (field r 44 33 - 1) * field r 32 17) < planEnd)))

/-- STORE_PLAN: 32 records; a defined stream's controller has an HBM_PLAN. -/
def Pavane.storeOk (p : Pavane) (h : ImageHead) : Bool :=
  decide (p.store.length = 32)
  && p.store.all (fun r => decide (r % 256 ≤ 32) && onlyFields 256 [(7, 0), (63, 32)] r
    && (List.range 4).all (fun j =>
      let b := field r (8 * (4 + j) + 7) (8 * (4 + j))
      !bitAt b 5 && (if bitAt b 6 then decide (b % 32 ≤ 23) && (h.find secHbm 15 (b % 32)).isSome else b == 0)))

/-- Windows of a Spire in order: bounds and gaps (R439). -/
def windowsOk (ws : List (Nat × Nat)) : Bool :=
  decide (ws.length ≤ 16)
  && ws.all (fun w => decide (w.1 + 64 ≤ w.2 ∧ w.2 ≤ planEnd))
  && (match ws with
      | [] => true
      | a :: _ =>
        let next := (ws.drop 1) ++ [(a.1 + planPeriod, 0)]
        (ws.zip next).all (fun x => decide (x.1.2 + 4400 ≤ x.2.1)))

/-- WINDOW_PLAN of a Figure (R438, R439). -/
def Pavane.windowsOk (p : Pavane) (fig : Nat) : Bool :=
  let l := p.windows.get [] fig
  let roles := l.take 32
  let wins := l.drop 32
  decide (roles.map (fun r => field r 52 48)).Nodup && decide (roles.length = 32)
  && roles.all (fun r => decide (field r 63 60 = 1) && onlyFields 64 [(63, 60), (52, 48), (1, 0)] r && decide (r % 4 ≠ 3))
  && wins.all (fun r => decide (field r 63 60 = 2) && onlyFields 64 [(63, 60), (52, 48), (39, 0)] r)
  && rising (wins.map (fun r => field r 52 48 * 2 ^ 20 + field r 39 20))
  && (List.range 32).all (fun k =>
    let ws := p.winOf fig k
    let borrow := decide (p.role fig k = .borrowable)
    (borrow || ws.isEmpty) && Sys2Proof.Machine.windowsOk ws
    && (if borrow then decide (1 ≤ p.jobLimit k ∧ p.jobLimit k ≤ 31) else p.jobLimit k == 32))

/-- Instances of an engine, in the row order of Table 9.7. -/
def engineInstances (e : Nat) : Nat := [16, 24, 8, 8, 8, 4, 8].getD e 0

/-- Do two spans of BCLK, START and LENGTH, meet? -/
def spansMeet (a b : Nat × Nat) : Bool := decide (a.1 < b.1 + b.2 ∧ b.1 < a.1 + a.2)

/-- No two entries of one engine instance overlap. -/
def engineClear : List Nat → Bool
  | [] => true
  | r :: rest =>
    rest.all (fun q => field q 63 55 != field r 63 55 || !spansMeet (field r 54 36, field r 35 20) (field q 54 36, field q 35 20))
    && engineClear rest

/-- ENGINE_PLAN of a Figure (R332). -/
def Pavane.enginesOk (p : Pavane) (fig : Nat) : Bool :=
  let l := p.engines.get [] fig
  l.all (fun r => decide (field r 59 55 < engineInstances (field r 63 60)) && decide (field r 54 36 + field r 35 20 ≤ 424968))
  && engineClear l

/-- A kind 0x1 record of RADIO_MAP (R314, R604). -/
def radioGroupOk (r : Nat) : Bool :=
  let mu := field r 13 12
  let f (i : Nat) : Nat := recBytes r i 2
  onlyFields 256 [(3, 0), (13, 8), (51, 32), (159, 64)] r && decide (mu ≤ 2) && decide (field r 51 32 < 1000000 / 2 ^ mu)
  && decide (200 ≤ f 8 ∧ f 8 ≤ f 10 ∧ f 10 ≤ 5000) && decide (100 ≤ f 12 ∧ f 12 ≤ 2500)
  && decide (100 ≤ f 14 ∧ f 14 ≤ 2000) && decide (500 ≤ f 16 ∧ f 16 ≤ 4000)
  && decide (1000 / 2 ^ mu ≤ f 18 ∧ f 18 ≤ 4000)

/-- A kind 0x2 record of RADIO_MAP (R604). -/
def Pavane.radioCellOk (p : Pavane) (groups : List Nat) (r : Nat) : Bool :=
  let bw := recBytes r 5 1
  onlyFields 256 [(3, 0), (24, 16), (35, 32), (47, 40), (55, 48), (60, 56), (67, 64), (76, 72), (191, 96)] r
  && decide (recBytes r 2 2 ≤ 383) && decide (1 ≤ recBytes r 6 1 ∧ recBytes r 6 1 ≤ 64)
  && decide (1 ≤ recBytes r 7 1 ∧ recBytes r 7 1 ≤ 16) && decide (1 ≤ recBytes r 8 1 ∧ recBytes r 8 1 ≤ 8)
  && decide (recBytes r 9 1 ≤ 23)
  && (List.range 64).all (fun n => !bitAt (recBytes r 16 8) n || bitAt (p.lane n) 62)
  && (match groups.find? (fun g => field g 11 8 == recBytes r 4 1) with
      | some g => if field g 13 12 = 0 then decide (5 ≤ bw ∧ bw ≤ 50) else decide (10 ≤ bw ∧ bw ≤ 100)
      | none => false)

/-- Radio capacity units of a 100 MHz carrier by antenna ports (Table 9.8); a count between two rows costs as the next row
(log entry 49). -/
def rcuOf (ports : Nat) : Nat :=
  if ports ≤ 4 then 1 else if ports ≤ 8 then 2 else if ports ≤ 16 then 3 else if ports ≤ 32 then 4 else 6

/-- Quarters of a capacity unit that a cell costs (R331). -/
def rcuQuarters (ports bw : Nat) : Nat := rcuOf ports * ((bw + 24) / 25)

/-- Quarters of a capacity unit that a chip has: 384 units. -/
def rcuMax : Nat := 1536

/-- RADIO_MAP of a Figure: its records, and the capacity that its cell slots take (R331, log entry 49). -/
def Pavane.radioOk (p : Pavane) (fig : Nat) : Bool :=
  let l := p.radio.get [] fig
  let groups := l.filter (fun r => r % 256 == 1)
  let cells := l.filter (fun r => r % 256 == 2)
  l.all (fun r => r % 256 == 1 || r % 256 == 2)
  && groups.all radioGroupOk && decide (groups.map (fun r => field r 11 8)).Nodup
  && cells.all (p.radioCellOk groups) && decide (cells.map (fun r => recBytes r 2 2)).Nodup
  && decide ((cells.map (fun r => rcuQuarters (recBytes r 6 1) (recBytes r 5 1))).sum ≤ rcuMax)

/-- Does an image pass every check of R363? -/
def ImageHead.sound (h : ImageHead) (own : Nat) (cfg : CfgData) : Bool :=
  let p := h.image
  h.ok && decide (h.chip = own) && h.sectionsOk p && p.lanesOk cfg && p.stepSets.all p.stepsOk && p.storeOk h
  && (List.range 4).all p.xbarOk
  && (List.range 24).all (fun c => (h.find secHbm 15 c).isNone || p.hbmOk c)
  && p.belfryOk
  && p.figureList.all (fun f => p.flowsOk own f && p.syncOk f && p.windowsOk f && p.enginesOk f && p.radioOk f)

end Sys2Proof.Machine
end

