-- ==== Sys2Proof/Machine/Pavane.lean ====
section
/-! DEFINITION. The Pavane commands (R362 to R364), activation, Figure switches and the drain period (R369 to R371). -/

namespace Sys2Proof.Machine

open Sys2Proof

/-- May a slot's contents change: not active, no activation pending (Table 10.11)? -/
def State.slotFree (s : State) (b : Bool) : Bool :=
  decide (s.fab.active ≠ some b) &&
    (match s.fab.activation with
     | some d => d.slotB != b
     | none => true)

/-- Set a slot. -/
def setSlot (b : Bool) (p : Option Pavane) (s : State) : State :=
  s.modFab (fun f => if b then { f with slotB := p } else { f with slotA := p })

/-- Bytes of the image in a slot. -/
def FabState.slotBytes (f : FabState) (b : Bool) : Nat := ((f.slot b).map (·.bytes)).getD 0

/-! ### PAVANE_LOAD -/

/-- The body of PAVANE_LOAD: the image is read and checked; it stays in progress until PAVANE_LOAD_COMPLETE. -/
def pavaneLoadBody (iss : Issuer) (b : Bool) (first tiles : Nat) (s : State) : State × Option Reply :=
  let l := tileRange first tiles
  let len := tiles * tileBytes
  if !rangeOk first tiles 64 then refuse stBadArg s
  else if !s.slotFree b then refuse stConflict s
  else if l.any (fun n => (s.tile n).lease ≠ 0 || (s.tile n).radio) then refuse stBadArg s
  else if l.any (fun n => !(s.tile n).inHbm || (s.tile n).pin = 0) then refuse stConflict s
  else
    let bytes := s.runRead first 0 (tiles + 1) len
    let h := readHead bytes
    let poisoned := s.runPoisoned first 0 (tiles + 1) (min len (max 64 h.bytes))
    if poisoned then (consumePoison 1 s, some (.of stUnusable))
    else if !h.sound s.chipId s.dome.cfg then refuse stBadArg s
    else if imageMax < h.bytes + s.fab.slotBytes (!b) then refuse stNoResource s
    else (s.modFab (fun f => { f with load := f.load ++ [⟨b, h.image, iss⟩] }), none)

def execPavaneLoad (iss : Issuer) (b : Bool) (first tiles : Nat) (s : State) : Host.Outcome State Fault Refusal :=
  .next (queueCommand 0x30 iss (pavaneLoadBody iss b first tiles) s)

/-- PAVANE_LOAD_COMPLETE: the oldest load stores its image, if its slot is still free and the image still fits. -/
def pavaneLoadComplete (s : State) : State :=
  match s.fab.load with
  | [] => s
  | x :: rest =>
    let s1 := s.modFab (fun f => { f with load := rest })
    if !s.slotFree x.slotB then complete x.issuer 0x30 (.of stConflict) s1
    else if imageMax < x.image.bytes + s.fab.slotBytes (!x.slotB) then complete x.issuer 0x30 (.of stNoResource) s1
    else complete x.issuer 0x30 (.of stOk) (setSlot x.slotB (some x.image) s1)

def execPavaneLoadComplete (s : State) : Host.Outcome State Fault Refusal := .next (pavaneLoadComplete s)

/-! ### PAVANE_ACTIVATE (R364) -/

/-- 1 ms of hall time. -/
def milliUnits : Nat := nsUnits 1000000

/-- Is a time a period start at least 1 ms away? -/
def State.periodAhead (s : State) (t : Nat) : Bool := decide (t % periodUnits = 0) && decide (s.now + milliUnits ≤ t)

/-- Is every lane with entries in a Figure's step set UP with a valid RX_OFFSET within its delay bound? -/
def State.lanesReady (s : State) (p : Pavane) (fig : Nat) : Bool :=
  match p.stepSet fig with
  | none => false
  | some x => (List.range 64).all (fun n =>
      let r := (s.lane n).regs
      !((p.steps.get [] x).any (fun e => field e 49 44 == n)) ||
        (r.state = .up && r.delayValid &&
          decide (toSigned 16 r.rxOffset.toNat ≤ (readySteps (p.lane n) * 850 : Nat) - 1754)))

/-- Do the conditions of R364 on the state allow an image with a Figure to become active? R29, R59, R63, R245, R300, R441
and R503 stand among them. -/
def State.mayActivate (s : State) (p : Pavane) (fig : Nat) : Bool :=
  s.clk.chipState = .ready && s.time.servo = tsLocked && s.fab.switch.isNone && incrInActiveRange s.time.incr
  && s.towersAllow p && s.spiresAllow p && s.cellsAllow p fig && s.testAllows p p.figureList && s.lanesReady p fig

/-- The body of PAVANE_ACTIVATE. -/
def pavaneActivateBody (iss : Issuer) (b : Bool) (fig at_ : Nat) (s : State) : State × Option Reply :=
  match s.fab.slot b with
  | none => refuse stBadArg s
  | some p =>
    if (p.stepSet fig).isNone || !s.periodAhead at_ then refuse stBadArg s
    else if s.fab.activation.isSome || !s.mayActivate p fig then refuse stConflict s
    else (s.modFab (fun f => { f with activation := some ⟨b, fig, at_, iss⟩ }), some (.of stDeferred))

def execPavaneActivate (iss : Issuer) (b : Bool) (fig at_ : Nat) (s : State) : Host.Outcome State Fault Refusal :=
  .next (queueCommand 0x31 iss (pavaneActivateBody iss b fig at_) s)

/-- JOB_LIMIT of a Spire follows the image; a change wipes the radio reserve (R243, R244). -/
def loadLimits (p : Pavane) (s : State) : State :=
  (List.range 32).foldl (fun t k =>
    let n := p.jobLimit k
    if (t.spire k).xb.jobLimit.toNat = n then t
    else (t.modXb k (fun x => { x with jobLimit := BitVec.ofNat 6 n })).modStore k
      (fun m => m.clearRange (n * 2 ^ 20) (2 ^ 25 - n * 2 ^ 20))) s

/-- The heartbeats of every lane are judged from a period on. -/
def judgeFrom (period : Nat) (s : State) : State :=
  let from_ (l : Lane) : Lane := { l with hbNext := max l.hbNext (period * 8000) }
  s.modFab (fun f => { f with lanes := f.lanes.modifyAll Lane.reset (List.range 64) (fun _ l => from_ l) })

/-- Outcome of the latest deferred command at its AT; the Dome is notified (R565, bit 3). -/
def pavStatus (st : Nat) (s : State) : State :=
  ringDome 3 (s.modFab (fun f => { f with lastStatus := BitVec.ofNat 8 st }))

/-- A pending activation meets its period start, whose target is `t`: the conditions are checked again. -/
def takeActivation (t : Nat) (s : State) : State :=
  match s.fab.activation with
  | none => s
  | some d =>
    if t < d.at_ then s
    else
      let s1 := s.modFab (fun f => { f with activation := none })
      match s.fab.slot d.slotB with
      | none => pavStatus stConflict s1
      | some p =>
        if !s1.mayActivate p d.figure then pavStatus stConflict s1
        else
          let s2 := pavStatus stOk (s1.modFab (fun f => { f with
            active := some d.slotB, figure := d.figure, drain := none, held := f.held.filter (fun h => !h.oldSet) }))
          regainFar (judgeFrom (t / periodUnits) (loadGroups p d.figure (loadLimits p s2)))

/-! ### FIGURE_SWITCH (R369 to R371) -/

/-- The body of FIGURE_SWITCH. -/
def figureSwitchBody (iss : Issuer) (fig at_ : Nat) (s : State) : State × Option Reply :=
  match s.image with
  | none => refuse stConflict s
  | some p =>
    if s.fab.activation.isSome || s.fab.switch.isSome || s.fab.drain.isSome then refuse stConflict s
    else if (p.stepSet fig).isNone || !s.periodAhead at_ then refuse stBadArg s
    else if !s.towersAllow p || !s.cellsAllow p fig || !s.testAllows p [fig] then refuse stConflict s
    else (s.modFab (fun f => { f with
      switch := some ⟨f.active.getD false, fig, at_, iss⟩, figAt := hallOf at_ }), some (.of stDeferred))

def execFigureSwitch (iss : Issuer) (fig at_ : Nat) (s : State) : Host.Outcome State Fault Refusal :=
  .next (queueCommand 0x32 iss (figureSwitchBody iss fig at_) s)

/-- Jobs that hold a Spire which a Figure makes radio-owned end with ST_PREEMPTED (R441). -/
def preemptFor (p : Pavane) (fig : Nat) (s : State) : State :=
  (List.range 32).foldl (fun t k =>
    if (t.spire k).seq.mode.working && p.role fig k = .radioOwned && t.role k ≠ .radioOwned then
      endJob (t.spire k).ctx.jobId stPreempted 0 0 noSpire t
    else t) s

/-- Chips that leave the near set are lost to this chip (R419). -/
def loseFar (p : Pavane) (old fig : Nat) (s : State) : State :=
  let chips (f : Nat) : List Nat := (p.near.get [] f).map (fun r => field r 63 48)
  ((chips old).filter (fun c => !(chips fig).contains c)).foldl (fun t c => rmLose c (loseBehind c t)) s

/-- The Figure switchover, with target `t` (R370, R371, R604, R338). R29 and R300 must still hold. A Figure that gives the
chip gateway flows wakes PD_27 (R569). -/
def switchover (fig t : Nat) (s : State) : State :=
  match s.image with
  | none => s
  | some p =>
    match p.stepSet fig, p.stepSet s.fab.figure with
    | some x, some a =>
      let s0 := s.modFab (fun f => { f with switch := none })
      if !s.towersAllow p || !s.cellsAllow p fig then failLosing (pavStatus stConflict s0)
      else
        let old := s.fab.figure
        let s1 := preemptFor p fig s0
        let s2 := pavStatus stOk (s1.modFab (fun f => { f with
          figPrev := some old, figure := fig, figAt := hallOf t
          drain := if x = a then f.drain else some (a, t / periodUnits)
          held := if x = a then f.held else f.held.map (fun h => { h with oldSet := true }) }))
        let s3 := loadGroups p fig (regainFar (loseFar p old fig s2))
        let s4 := if x = a then retryParts (recoverCells s3) else recoverCells s3
        let s5 := if s4.isGateway then touchDomain 27 s4 else s4
        if x = a then s5 else judgeFrom (t / periodUnits) s5
    | _, _ => s

/-- An armed switch meets the period start whose target is `t`. -/
def takeSwitch (t : Nat) (s : State) : State :=
  match s.fab.switch with
  | some d => if d.at_ ≤ t then switchover d.figure t s else s
  | none => s

/-! ### PAVANE_CLEAR, DRAIN_PERIOD_END -/

/-- The body of PAVANE_CLEAR. -/
def pavaneClearBody (b : Bool) (s : State) : State × Option Reply :=
  if s.slotFree b then (setSlot b none s, some (.of stOk)) else refuse stConflict s

def execPavaneClear (iss : Issuer) (b : Bool) (s : State) : Host.Outcome State Fault Refusal :=
  .next (queueCommand 0x33 iss (pavaneClearBody b) s)

/-- DRAIN_PERIOD_END (R371): the period after the hall switch is over; old cells that are still held are dropped, and requests
sent before the switch are retransmitted (R417). -/
def drainPeriodEnd (s : State) : State :=
  match s.fab.drain with
  | some (_, p) =>
    if p < s.now / periodUnits then
      let olds := (s.fab.held.filter (·.oldSet)).length
      retryParts (rmDrainEnd (p * periodUnits) (s.modFab (fun f => { f with
        drain := none, oldDrops := satAdd f.oldDrops olds, held := f.held.filter (fun h => !h.oldSet) })))
    else s
  | none => s

def execDrainPeriodEnd (s : State) : Host.Outcome State Fault Refusal := .next (drainPeriodEnd s)

end Sys2Proof.Machine
end

