-- ==== Sys2Proof/Machine/ResetOps.lean ====
section
/-! DEFINITION. The chip reset and what it keeps (02, 08, 15 to 18), and the selector of the configuration memory (16). -/

namespace Sys2Proof.Machine

open Sys2Proof

/-! ### The selector (R542, R549) -/

/-- The copy that is the selector, with its number; ACTIVE = A and TRIAL = 0 if no copy is valid. -/
def DomeState.selector (d : DomeState) : Nat × Selector :=
  let a := d.copies.get Selector.none_ 0
  let b := d.copies.get Selector.none_ 1
  if b.valid && (!a.valid || decide (a.seq < b.seq)) then (1, b) else (0, a)

/-- Write the selector: always the other copy, with SEQ + 1. -/
def DomeState.writeSelector (activeB : Bool) (trial : Nat) (d : DomeState) : DomeState :=
  let x := d.selector
  { d with copies := d.copies.set Selector.none_ (1 - x.1) ⟨true, x.2.seq + 1, activeB, trial⟩ }

/-- What the ROM does with the selector at every reset, before any image is read (R549). -/
def DomeState.applySelector (d : DomeState) : DomeState :=
  let x := d.selector.2
  if x.trial = 2 then d.writeSelector (!x.activeB) 0
  else if x.trial = 1 then d.writeSelector x.activeB 2
  else d

/-- The bank image of a bank. -/
def DomeState.bank (d : DomeState) (b : Bool) : BankImg := if b then d.bankBImg else d.bankA

/-- Change a bank. -/
def DomeState.setBank (b : Bool) (x : BankImg) (d : DomeState) : DomeState :=
  if b then { d with bankBImg := x } else { d with bankA := x }

/-- A bank whose header is erased. -/
def BankImg.erased (x : BankImg) : BankImg :=
  { x with magic := 0xFFFFFFFF, format := 0xFFFF, bytes := 0xFFFFFFFF, count := 0xFFFFFFFF, crc := 0xFFFFFFFF }

/-! ### What a reset keeps -/

/-- What the flash packages hold through a reset (R292, Table 8.9): acknowledged copies with their places, erase and read counts (after
a power loss those of POWER_FAIL_N, which the journal holds), retired blocks, the journal. A write that is not acknowledged is lost. CLEAN will report whether the journal is complete: it is
after POWER_FAIL_N, and at any other reset if no write was under way (DEDUCED, log entry 31). -/
def FlashState.keep (powerLoss : Bool) (f : FlashState) : FlashState :=
  { FlashState.reset with
    found := f.found, stripes := f.stripes, mem := f.mem, wseq := f.wseq, filling := f.filling
    blocks := if powerLoss && f.noProgram then
        f.blocks.modifyAll FlashBlock.reset f.blocks.keys (fun n b =>
          { b with erases := (f.saved.get FlashBlock.reset n).erases, reads := (f.saved.get FlashBlock.reset n).reads })
      else f.blocks
    journal := if powerLoss then f.noProgram && f.journal else (f.noProgram && f.journal) || f.inflight.isEmpty }

/-- Does a reset keep the dump (R533)? -/
def ResetCause.keepsDump : ResetCause → Bool
  | .chipResetCmd | .resetPin | .domeWdog => true
  | _ => false

/-- The stacks after a reset: the dump region of the map Tower's stack, if the dump is kept. -/
def State.keptStacks (cause : ResetCause) (s : State) : Tab HbmStack :=
  match s.rel.dump with
  | some d =>
    if cause.keepsDump then
      let h := 6 * d.tower + 5
      Tab.empty.set HbmStack.reset h
        { HbmStack.reset with mem := Mem.empty.copyFrom dumpBase (s.stack h).mem dumpBase dumpBytes }
    else Tab.empty
  | none => Tab.empty

/-- What the power manager's wake island and PWR_RETAIN keep (R570, R586, Table 18.5). -/
def PwrState.keep (cause : ResetCause) (p : PwrState) : PwrState :=
  if cause = .powerOn then PwrState.reset
  else
    let asleep := decide (p.mode = .deep) && decide (cause = .resetPin)
    { PwrState.reset with
      wakeEnable := p.wakeEnable, wakePolarity := p.wakePolarity, woke := p.woke,
      retain := if p.mode = .off || asleep then Mem.empty else p.retain }

/-- The pins after a reset: inputs as they are, outputs at reset, THERMTRIP_N low until a POWER_ON reset (R599). -/
def PinState.keep (cause : ResetCause) (p : PinState) : PinState :=
  { p with trips := decide (cause ≠ .powerOn) && p.trips, ppsOut := false, tout := 0, resetHeld := false }

/-- The Dome after a reset: the configuration memory with its selector copies, banks and log, and DEBUG_CTRL.PENDING, which
lies in the wake island (R541, R558). A reset during STAGE leaves the inactive bank partial, its header unwritten (Table 16.9). -/
def DomeState.keep (cause : ResetCause) (d : DomeState) : DomeState :=
  let b := !d.selector.2.activeB
  let e := if d.stage.isSome then d.setBank b (d.bank b).erased else d
  { DomeState.reset with
    copies := d.copies, bankA := e.bankA, bankBImg := e.bankBImg, log := d.log,
    pending := if cause = .powerOn then none else d.pending }

/-- Reset the chip (R50): every register at its reset value, the chip held until RESET_RELEASE. Queued log records that were
not written are lost. -/
def chipReset (cause : ResetCause) (s : State) : State :=
  { State.reset with
    clk := { ClkState.reset with pendingReset := some cause }
    hbm := s.keptStacks cause
    flash := s.flash.keep (decide (cause = .powerOn))
    rel := { RelState.reset with dump := if cause.keepsDump then s.rel.dump else none }
    dome := s.dome.keep cause
    pwr := s.pwr.keep cause
    pins := s.pins.keep cause
    out := s.out
    free := s.free
    pending := s.pending }

/-! ### Towers out of service (R28, R46, R47, R520) -/

/-- Tower `t` is out of service until the next chip reset: its link has failed, its Spires' bits and scores are cleared.
A score of 0 lies at or below FENCE_AT, so its Spires are fenced (R519; DEDUCED, log entry 32). -/
def towerOut (t : Nat) (s : State) : State :=
  let ks := tileRange (8 * t) 8
  let s1 := { s with
    clk := { s.clk with towerFail := s.clk.towerFail ||| BitVec.twoPow 4 t }
    rel := { s.rel with
      towerOut := s.rel.towerOut ||| BitVec.twoPow 4 t
      inService := ks.foldl (fun (b : BitVec 32) k => b &&& ~~~BitVec.twoPow 32 k) s.rel.inService } }
  ks.foldl (fun u k => fenceSpire k (u.modHealth k (fun h => { h with score := 0 }))) s1

/-- The map Tower `t` has left service (R263): the READY bits clear, moves that involve flash stop, the map is rebuilt on the
next Tower, and a dump held there is lost. -/
def mapTowerLost (t : Nat) (s : State) : State :=
  let s1 := (s.tier.moves.filter (fun m => s.moveUsesFlash m)).foldl (fun u m => stopMove m u) s
  { s1 with
    tier := { s1.tier with ready := false, rebuilding := true }
    flash := { s1.flash with ready := false }
    rel := { s1.rel with dump := s1.rel.dump.filter (fun d => d.tower != t) } }

end Sys2Proof.Machine
end

