-- ==== Sys2Proof/Machine/Clocking.lean ====
section
/-! DEFINITION. Reset release, the Minuet, loss of clocks and links (02), the operating mode and droops (03), and the writes of
the counters block (03). -/

namespace Sys2Proof.Machine

open Sys2Proof

/-- Change the clocks' state. -/
def State.modClk (s : State) (f : ClkState → ClkState) : State := { s with clk := f s.clk }

/-! ### The Minuet (R41 to R50) -/

/-- RESET_RELEASE: the cause is recorded; a debug boot begins if a token is pending and the cause is not POWER_ON (R558). -/
def resetRelease (s : State) : State :=
  match s.clk.pendingReset with
  | none => s
  | some c =>
    let debug := s.dome.pending.isSome && decide (c ≠ .powerOn)
    let dome := { s.dome with
      debug := debug, debugLevel := if debug then s.dome.pending.getD 0 else 0
      pending := if debug then none else s.dome.pending }
    { s with
      clk := { s.clk with pendingReset := none, rstCause := c, refPresent := true }
      pins := { s.pins with resetN := true }
      dome := dome }

def execResetRelease (s : State) : Host.Outcome State Fault Refusal := .next (resetRelease s)

/-- Does the Minuet run? -/
def ClkState.inMinuet (c : ClkState) : Bool :=
  c.pendingReset.isNone && c.refPresent && !c.done && !c.failed

/-- The root edge on which phase 1 releases the dividers: SCLK, the slowest, divides CCLK by 16, and every divider starts from one
edge, so that its edges coincide with those of the faster clocks from then on (R42). -/
def releaseTick (tick : Nat) : Nat := (tick + 15) / 16 * 16

/-- Phase 1 releases every divider on one root edge, from which CCLK, BCLK and SCLK edges count (R42, R103). PHASE reads 1 from the
lock and 2 from the first edge after the release, at which phase 2 begins (Table 2.2, log entry 33). -/
def startPhase1 (s : State) : State :=
  { s with
    clock := { tick := releaseTick s.clock.tick, edges := 0, bclk := 0, plan := 0, skip := 0 }
    clk := { s.clk with attempts := s.clk.attempts + 1, phase1Done := true, phase := 1 } }

/-- PLL_LOCK: every PLL is locked, and phase 1 runs. A root PLL that has locked again after a loss during the Minuet takes
ROOT_LOCK up. -/
def pllLock (s : State) : State :=
  if s.clk.inMinuet then
    let s1 := s.modClk (fun c => { c with lanePll := true, hbmPll := true, uciePll := true, rootLock := true })
    if s.clk.phase1Done then s1 else startPhase1 s1
  else s

def execPllLock (s : State) : Host.Outcome State Fault Refusal := .next (pllLock s)

/-- MINUET_PHASE_2_COMPLETE (R43, R44): the second failed read-back fails the chip, which the ROM reports over I3C. -/
def minuetPhase2 (ok : Bool) (s : State) : State :=
  if s.clk.inMinuet && s.clk.phase1Done && decide (s.clk.phase ≠ 3) then
    if ok then s.modClk (fun c => { c with phase := 3 })
    else if s.clk.attempts = 1 then startPhase1 s
    else (s.modClk (fun c => { c with failed := true, chipState := .failed })).emit .romFailure
  else s

def execMinuetPhase2Complete (ok : Bool) (s : State) : Host.Outcome State Fault Refusal := .next (minuetPhase2 ok s)

/-- The latency of every UCIe link (R45). -/
def linkLatency : Nat := 24

/-- The phase 3 result of a link: the raw latencies of its two directions, of which the larger counts, or none if training failed
(R45, R49). DESIGN CHOICE (log entry 138): RAW_LAT reads 0 after a failed training and 255 where the latency exceeds the field. -/
def linkResult : Option (Nat × Nat) → UcieLat
  | none => ⟨2, 0, 0⟩
  | some (down, up) =>
    let raw := max down up
    if raw ≤ linkLatency then ⟨1, BitVec.ofNat 8 raw, BitVec.ofNat 8 (linkLatency - raw)⟩
    else ⟨3, BitVec.ofNat 8 (min raw 255), 0⟩

/-- Record one link's result; a failed link's Tower is out of service (R46). -/
def recordLink (s : State) (p : Nat × Option (Nat × Nat)) : State :=
  let r := linkResult p.2
  let s1 := s.modClk (fun c => { c with lat := c.lat.set UcieLat.reset p.1 r })
  if r.result = 1 then s1 else towerOut p.1 s1

/-- A dump survives only if the same Tower is again the highest in service (R533). -/
def checkDump (s : State) : State :=
  match s.rel.dump with
  | some d => if s.mapTower = some d.tower then s else { s with rel := { s.rel with dump := none }, hbm := Tab.empty }
  | none => s

/-- The condition ALERT arises at the Minuet's end if VR_ALERT_N is low then (Table 18.5): no Spire runs yet. -/
def alertAtBoot (s : State) : State :=
  if s.pins.vrAlertN then s
  else { s with pwr := { s.pwr with
    estop := true, causes := s.pwr.causes ||| 1, estops := satInc s.pwr.estops, clearSince := some s.clock.tick } }

/-- MINUET_PHASE_3_COMPLETE: DONE, BOOT, and the ROM applies the selector (R549); the radio domains are on. PHASE
keeps 3, its last phase (DESIGN CHOICE, log entry 138: R48 speaks of the phase in progress). -/
def minuetPhase3 (l : List (Option (Nat × Nat))) (s : State) : State :=
  if s.clk.inMinuet && decide (s.clk.phase = 3) then
    let s1 := checkDump ((((List.range 4).zip l)).foldl recordLink s)
    let s2 := s1.modClk (fun c => { c with done := true, chipState := .boot })
    alertAtBoot { s2 with
      radio := { s2.radio with dlOn := true, ulOn := true }
      dome := s2.dome.applySelector }
  else s

def execMinuetPhase3Complete (l0 l1 l2 l3 : Option (Nat × Nat)) (s : State) : Host.Outcome State Fault Refusal :=
  .next (minuetPhase3 [l0, l1, l2, l3] s)

/-- ROOT_PLL_LOSS after the Minuet (R40); before it, ROOT_LOCK falls until PLL_LOCK comes again (R39). -/
def rootPllLoss (s : State) : State :=
  if s.clk.done then chipReset .clockLoss s else s.modClk (fun c => { c with rootLock := false })

def execRootPllLoss (s : State) : Host.Outcome State Fault Refusal := .next (rootPllLoss s)

/-- UCIE_TRAINING_LOSS of Tower `t`'s link after the Minuet (R47, R263, Table 8.10, Table 15.1 row 10). -/
def ucieTrainingLoss (t : Nat) (s : State) : State :=
  if s.clk.done && decide (t < 4) && !s.rel.towerOut.getLsbD t then
    let isMap := decide (s.mapTower = some t)
    let s1 := errRecord 10 4 t 0 0 0 0 (towerOut t s)
    let s2 := dropQueues t (loseTower t s1)
    if isMap then mapTowerLost t s2 else s2
  else s

def execUcieTrainingLoss (t : Nat) (s : State) : Host.Outcome State Fault Refusal := .next (ucieTrainingLoss t s)

/-! ### The operating mode (R95 to R99) -/

/-- Set CLK_MODE.STATUS. -/
def modeStatus (st : Nat) (s : State) : State := s.modClk (fun c => { c with modeStatus := BitVec.ofNat 8 st })

/-- Is a radio cell active, or is a radio cell activation pending? Live cells are those that start, are ACTIVE or stop. -/
def State.radioBusy (s : State) : Bool := !s.liveCells.isEmpty

/-- CLK_MODE_WRITE (R95, R96): the mode waits for the next period start. -/
def clkModeWrite (mid v : Nat) (s : State) : State :=
  if 1 < mid then s
  else if bitAt v 0 && s.radioBusy then modeStatus stConflict s
  else modeStatus stOk (s.modClk (fun c => { c with modeStaged := bitAt v 0 }))

def execClkModeWrite (mid : Nat) (v : Word) (s : State) : Host.Outcome State Fault Refusal :=
  .next (onBus (clkModeWrite mid v.toNat) s)

/-- The stretch budget of a period with increment `i` (R99). -/
def stretchBudget (i : Nat) : Nat := min 64 (2 * (500000 * 2 ^ 32 / i) - 849936)

/-- Jobs that hold a Spire now. -/
def State.holdingJobs (s : State) : List Nat :=
  (s.dsp.running.filter (fun j => j.spires.any (fun k => decide ((s.spire k).ctx = .job j.id)))).map (·.id)

/-- DROOP_DETECTION (R98, R102): in stretch-permitted operation within budget, the next CCLK edge is suppressed and counted;
otherwise the adaptive voltage loop alone handles it. -/
def droopDetection (s : State) : State :=
  if s.clk.mode && decide (s.clk.stretchUsed.toNat < s.clk.budget) then
    let s1 := { s with
      clock := { s.clock with skip := s.clock.skip + 1 }
      clk := { s.clk with stretchUsed := s.clk.stretchUsed + 1 } }
    countNd 1 1 s.holdingJobs s1
  else s

def execDroopDetection (s : State) : Host.Outcome State Fault Refusal := .next (droopDetection s)

/-! ### Counters (R101, R108, R110) -/

/-- NDC_CLEAR. -/
def ndcClear (mid : Nat) (s : State) : State :=
  if mid ≤ 1 then { s with cnt := { s.cnt with ndc := Tab.empty } } else s

def execNdcClear (mid : Nat) (s : State) : Host.Outcome State Fault Refusal :=
  .next (bar0Row mid 0x30078 1 (ndcClear mid) s)

/-- CNT_FREEZE_WRITE. -/
def cntFreezeWrite (mid v : Nat) (s : State) : State :=
  if mid ≤ 1 then { s with cnt := { s.cnt with freeze := bitAt v 0 } } else s

def execCntFreezeWrite (mid : Nat) (v : Word) (s : State) : Host.Outcome State Fault Refusal :=
  .next (bar0Row mid 0x30000 v (cntFreezeWrite mid v.toNat) s)

/-- Does a job hold Spire `k` through its lease page: from LOADING until WIPING begins (R496)? -/
def State.windowOpen (s : State) (lease k : Nat) : Bool :=
  decide (s.holder k = some lease) &&
    (match (s.spire k).seq.mode with
     | .loading | .armed | .running | .stopped | .replay | .ending | .faulted => true
     | _ => false)

/-- May a MID write an event select of Spire `k` (R109): MID 0 and MID 1 while no job holds it; else the owning lease alone,
through its page. Registers of a Spire that is not in service do not change (R34). -/
def State.evselOk (s : State) (mid k : Nat) : Bool :=
  s.inService k &&
    (match s.holder k with
     | none => decide (mid ≤ 1)
     | some n => decide (n ≠ 0) && decide (mid = n + 1) && s.windowOpen n k)

/-- The value written to a Spire's event select, with its counter at 0. -/
def Pmc.select (v : Nat) (p : Pmc) : Pmc :=
  { p with
    count := 0, enable := bitAt v 31, ovf := p.ovf && !bitAt v 30, ovfIrq := bitAt v 29
    event := BitVec.ofNat 16 v }

/-- The value written to a Belfry event select, with its counter at 0. -/
def BelfryCounter.select (v : Nat) (b : BelfryCounter) : BelfryCounter :=
  { b with
    count := 0, enable := bitAt v 31, ovf := b.ovf && !bitAt v 30, ovfIrq := bitAt v 29
    inst := BitVec.ofNat 8 (field v 23 16), event := BitVec.ofNat 16 v }

/-- EVSEL_WRITE: of counter `n` of a Spire, or of the Belfry. -/
def evselWrite (mid : Nat) (sp : Option Nat) (n v : Nat) (s : State) : State :=
  match sp with
  | some k =>
    if s.evselOk mid k && decide (k < 32) && decide (n < 8) then
      s.modSpire k (fun p => { p with cnt := { p.cnt with pmc := p.cnt.pmc.modify Pmc.reset n (Pmc.select v) } })
    else s
  | none =>
    if decide (mid ≤ 1) && decide (n < 16) then
      { s with cnt := { s.cnt with bpmc := s.cnt.bpmc.modify BelfryCounter.reset n (BelfryCounter.select v) } }
    else s

def execEvselWrite (mid : Nat) (spire : Option Nat) (n : Nat) (v : Word) (s : State) : Host.Outcome State Fault Refusal :=
  .next (match spire with
    | some k =>
      if mid ≤ 1 then bar0Row mid (spireOffset k (0x40100 + 0x20 * n)) v (evselWrite mid spire n v.toNat) s
      else onBus (evselWrite mid spire n v.toNat) s
    | none => bar0Row mid (0x30200 + 0x20 * n) v (evselWrite mid none n v.toNat) s)

end Sys2Proof.Machine
end

