-- ==== Sys2Proof/Machine/RiscV.lean ====
section
/-! DEFINITION. RV64IMA in user mode (07, R226): the instruction encodings and results of the RISC-V base and its M and A
extensions (PRESUMED from the RISC-V specification that R226 names, log entry 25). -/

namespace Sys2Proof.Machine

open Sys2Proof

/-- What an instruction does, its source registers read. Loads, stores and atomics carry their address; `w` is in bytes. -/
inductive RvOp where
  | reg (rd : Nat) (v : DWord)
  | jump (rd : Nat) (target : DWord)
  | branch (taken : Bool) (target : DWord)
  | load (rd : Nat) (addr : DWord) (w : Nat) (signed : Bool)
  | store (addr : DWord) (w : Nat) (v : DWord)
  | lr (rd : Nat) (addr : DWord) (w : Nat)
  | sc (rd : Nat) (addr : DWord) (w : Nat) (v : DWord)
  | amo (rd : Nat) (addr : DWord) (w : Nat) (f5 : Nat) (v : DWord)
  | custom (f3 f7 rd rs1 rs2 : Nat)
  | fence
  | illegal
  deriving DecidableEq, Repr

/-- The low 32 bits of a value, sign-extended. -/
def sext32 (x : DWord) : DWord := (x.setWidth 32).signExtend 64

/-- A number's low `w` bits as a signed 64-bit value. -/
def simm (w n : Nat) : DWord := (BitVec.ofNat w n).signExtend 64

/-! ### Immediates -/

def immI (x : Nat) : DWord := simm 12 (field x 31 20)
def immS (x : Nat) : DWord := simm 12 (field x 11 7 + field x 31 25 * 2 ^ 5)
def immB (x : Nat) : DWord :=
  simm 13 (field x 11 8 * 2 + field x 30 25 * 2 ^ 5 + field x 7 7 * 2 ^ 11 + field x 31 31 * 2 ^ 12)
def immU (x : Nat) : DWord := simm 32 (field x 31 12 * 2 ^ 12)
def immJ (x : Nat) : DWord :=
  simm 21 (field x 30 21 * 2 + field x 20 20 * 2 ^ 11 + field x 19 12 * 2 ^ 12 + field x 31 31 * 2 ^ 20)

/-! ### Arithmetic -/

/-- Operations of OP and OP-IMM by funct3; `alt` is bit 30. -/
def aluOp (f3 : Nat) (alt : Bool) (a b : DWord) : DWord :=
  match f3 with
  | 0 => if alt then a - b else a + b
  | 1 => a <<< (b.toNat % 64)
  | 2 => if a.toInt < b.toInt then 1 else 0
  | 3 => if a.toNat < b.toNat then 1 else 0
  | 4 => a ^^^ b
  | 5 => if alt then a.sshiftRight (b.toNat % 64) else a >>> (b.toNat % 64)
  | 6 => a ||| b
  | _ => a &&& b

/-- Operations of OP-32 and OP-IMM-32 by funct3: 0, 1 and 5. -/
def aluOp32 (f3 : Nat) (alt : Bool) (a b : DWord) : DWord :=
  let x : BitVec 32 := a.setWidth 32
  let y : BitVec 32 := b.setWidth 32
  let r : BitVec 32 := match f3 with
    | 0 => if alt then x - y else x + y
    | 1 => x <<< (y.toNat % 32)
    | _ => if alt then x.sshiftRight (y.toNat % 32) else x >>> (y.toNat % 32)
  r.signExtend 64

/-- Signed division of RISC-V on `w` bits: by zero −1, the overflow case the dividend. -/
def divS (w : Nat) (a b : Int) : Int :=
  if b = 0 then -1 else if a = -(2 ^ (w - 1) : Int) ∧ b = -1 then a else a.tdiv b

/-- Signed remainder of RISC-V: by zero the dividend, the overflow case 0. -/
def remS (w : Nat) (a b : Int) : Int :=
  if b = 0 then a else if a = -(2 ^ (w - 1) : Int) ∧ b = -1 then 0 else a.tmod b

/-- Operations of the M extension on 64 bits by funct3. -/
def mulOp (f3 : Nat) (a b : DWord) : DWord :=
  match f3 with
  | 0 => a * b
  | 1 => BitVec.ofInt 64 (a.toInt * b.toInt / 2 ^ 64)
  | 2 => BitVec.ofInt 64 (a.toInt * (b.toNat : Int) / 2 ^ 64)
  | 3 => BitVec.ofNat 64 (a.toNat * b.toNat / 2 ^ 64)
  | 4 => BitVec.ofInt 64 (divS 64 a.toInt b.toInt)
  | 5 => if b = 0 then BitVec.allOnes 64 else BitVec.ofNat 64 (a.toNat / b.toNat)
  | 6 => BitVec.ofInt 64 (remS 64 a.toInt b.toInt)
  | _ => if b = 0 then a else BitVec.ofNat 64 (a.toNat % b.toNat)

/-- Operations of the M extension on 32 bits by funct3: 0, 4, 5, 6 and 7. -/
def mulOp32 (f3 : Nat) (a b : DWord) : DWord :=
  let x : BitVec 32 := a.setWidth 32
  let y : BitVec 32 := b.setWidth 32
  let r : BitVec 32 := match f3 with
    | 0 => x * y
    | 4 => BitVec.ofInt 32 (divS 32 x.toInt y.toInt)
    | 5 => if y = 0 then BitVec.allOnes 32 else BitVec.ofNat 32 (x.toNat / y.toNat)
    | 6 => BitVec.ofInt 32 (remS 32 x.toInt y.toInt)
    | _ => if y = 0 then x else BitVec.ofNat 32 (x.toNat % y.toNat)
  r.signExtend 64

/-- Is a branch of this funct3 taken? None for a reserved code. -/
def branchTaken (f3 : Nat) (a b : DWord) : Option Bool :=
  match f3 with
  | 0 => some (a == b)
  | 1 => some (a != b)
  | 4 => some (decide (a.toInt < b.toInt))
  | 5 => some (decide (b.toInt ≤ a.toInt))
  | 6 => some (decide (a.toNat < b.toNat))
  | 7 => some (decide (b.toNat ≤ a.toNat))
  | _ => none

/-- The word that an AMO leaves, by funct5, on `w` bytes. -/
def amoResult (f5 w old v : Nat) : Option Nat :=
  let n := 8 * w
  let a := v % 2 ^ n
  let less := decide (toSigned n a < toSigned n old)
  match f5 with
  | 0 => some ((old + a) % 2 ^ n)
  | 1 => some a
  | 4 => some (old ^^^ a)
  | 8 => some (old ||| a)
  | 12 => some (old &&& a)
  | 16 => some (if less then a else old)
  | 20 => some (if less then old else a)
  | 24 => some (min old a)
  | 28 => some (max old a)
  | _ => none

/-! ### Decoding -/

/-- OP-IMM. -/
def decodeOpImm (x rd f3 : Nat) (a : DWord) : RvOp :=
  if f3 = 1 then
    if field x 31 26 = 0 then .reg rd (aluOp 1 false a (BitVec.ofNat 64 (field x 25 20))) else .illegal
  else if f3 = 5 then
    if field x 31 26 = 0 then .reg rd (aluOp 5 false a (BitVec.ofNat 64 (field x 25 20)))
    else if field x 31 26 = 16 then .reg rd (aluOp 5 true a (BitVec.ofNat 64 (field x 25 20)))
    else .illegal
  else .reg rd (aluOp f3 false a (immI x))

/-- OP-IMM-32. -/
def decodeOpImm32 (x rd f3 f7 : Nat) (a : DWord) : RvOp :=
  let sh := BitVec.ofNat 64 (field x 24 20)
  if f3 = 0 then .reg rd (aluOp32 0 false a (immI x))
  else if f3 = 1 ∧ f7 = 0 then .reg rd (aluOp32 1 false a sh)
  else if f3 = 5 ∧ f7 = 0 then .reg rd (aluOp32 5 false a sh)
  else if f3 = 5 ∧ f7 = 32 then .reg rd (aluOp32 5 true a sh)
  else .illegal

/-- OP. -/
def decodeOp (rd f3 f7 : Nat) (a b : DWord) : RvOp :=
  if f7 = 0 then .reg rd (aluOp f3 false a b)
  else if f7 = 1 then .reg rd (mulOp f3 a b)
  else if f7 = 32 ∧ (f3 = 0 ∨ f3 = 5) then .reg rd (aluOp f3 true a b)
  else .illegal

/-- OP-32. -/
def decodeOp32 (rd f3 f7 : Nat) (a b : DWord) : RvOp :=
  if f7 = 0 ∧ (f3 = 0 ∨ f3 = 1 ∨ f3 = 5) then .reg rd (aluOp32 f3 false a b)
  else if f7 = 32 ∧ (f3 = 0 ∨ f3 = 5) then .reg rd (aluOp32 f3 true a b)
  else if f7 = 1 ∧ (f3 = 0 ∨ 4 ≤ f3) then .reg rd (mulOp32 f3 a b)
  else .illegal

/-- LOAD. -/
def decodeLoad (rd f3 : Nat) (addr : DWord) : RvOp :=
  match f3 with
  | 0 => .load rd addr 1 true
  | 1 => .load rd addr 2 true
  | 2 => .load rd addr 4 true
  | 3 => .load rd addr 8 true
  | 4 => .load rd addr 1 false
  | 5 => .load rd addr 2 false
  | 6 => .load rd addr 4 false
  | _ => .illegal

/-- AMO. -/
def decodeAmo (rd f3 f5 rs2 : Nat) (a b : DWord) : RvOp :=
  if f3 ≠ 2 ∧ f3 ≠ 3 then .illegal
  else
    let w := if f3 = 3 then 8 else 4
    if f5 = 2 then (if rs2 = 0 then .lr rd a w else .illegal)
    else if f5 = 3 then .sc rd a w b
    else if (amoResult f5 w 0 0).isSome then .amo rd a w f5 b
    else .illegal

/-- Decode a 32-bit instruction with the registers' values. ECALL, EBREAK and CSR accesses are illegal: no rule of the
spec gives a user-mode program an environment (DEDUCED, log entry 25). -/
def rvDecode (x : Nat) (reg : Nat → DWord) (pc : DWord) : RvOp :=
  let rd := field x 11 7
  let f3 := field x 14 12
  let rs1 := field x 19 15
  let rs2 := field x 24 20
  let f7 := field x 31 25
  let a := reg rs1
  let b := reg rs2
  match field x 6 0 with
  | 0x37 => .reg rd (immU x)
  | 0x17 => .reg rd (pc + immU x)
  | 0x6F => .jump rd (pc + immJ x)
  | 0x67 => if f3 = 0 then .jump rd ((a + immI x) &&& ~~~1) else .illegal
  | 0x63 => match branchTaken f3 a b with
    | some t => .branch t (pc + immB x)
    | none => .illegal
  | 0x03 => decodeLoad rd f3 (a + immI x)
  | 0x23 => if f3 ≤ 3 then .store (a + immS x) (2 ^ f3) b else .illegal
  | 0x13 => decodeOpImm x rd f3 a
  | 0x1B => decodeOpImm32 x rd f3 f7 a
  | 0x33 => decodeOp rd f3 f7 a b
  | 0x3B => decodeOp32 rd f3 f7 a b
  | 0x0F => if f3 = 0 then .fence else .illegal
  | 0x2F => decodeAmo rd f3 (f7 / 4) rs2 a b
  | 0x0B => .custom f3 f7 rd rs1 rs2
  | _ => .illegal

end Sys2Proof.Machine
end

