-- ==== Sys2Proof/Machine/ControlCore.lean ====
section
/-! DEFINITION. The control core (07): which thread issues, the custom instructions of Table 7.7, the state path (06), and
the RV64IMA instructions on the Spire's store. -/

namespace Sys2Proof.Machine

open Sys2Proof

/-! ### Threads (R227) -/

/-- Register `n` of a thread. -/
def Thread.reg (t : Thread) (n : Nat) : DWord := if n = 0 then 0 else t.x.get 0 n

/-- A thread waiting on a flag becomes ready when its condition holds. -/
def Thread.flagWake (flags : BitVec 16) (t : Thread) : Thread :=
  match t.wait with
  | .flag n v => if flags.getLsbD n = v then t.wake else t
  | _ => t

/-- Wake the threads of Spire `k` whose flag condition holds now. -/
def wakeFlags (k : Nat) (s : State) : State :=
  let f := (s.spire k).seq.flagsNow s.cyc
  s.modCc k (fun c => { c with threads := c.threads.modifyAll Thread.reset (List.range 8) (fun _ t => t.flagWake f) })

/-- Do the control core's threads run in this state of the Spire? Windows, reclaims and stops leave them running
(R229). -/
def SpireMode.threadsRun (m : SpireMode) : Bool := m = .running || m = .stopped || m = .replay

/-- The thread that issues next: the running one, else the next ready one in cyclic order after the last. -/
def CcState.next (c : CcState) : Option Nat :=
  let r := c.running.toNat
  if (c.threads.get Thread.reset r).mode = .running then some r
  else ((List.range 8).map (fun i => (r + 1 + i) % 8)).find? (fun t => (c.threads.get Thread.reset t).mode = .ready)

/-- May thread `t` of Spire `k` issue in this CCLK? -/
def State.ccMay (s : State) (k t : Nat) : Bool :=
  let p := s.spire k
  p.seq.mode.threadsRun && !p.seq.stoppedFault && decide (p.cc.nextAt ≤ s.cyc) && decide (p.cc.next = some t)

/-- Thread `t` issues an instruction: it is the running one, and its program counter passes the instruction; the next
issue comes `n` CCLK later at the earliest. -/
def ccBegin (k t n : Nat) (s : State) : State :=
  s.modCc k (fun c => { c with
    running := BitVec.ofNat 3 t, nextAt := s.cyc + n
    threads := c.threads.modify Thread.reset t (fun x => { x with mode := .running, pc := x.pc + 4 }) })

/-- A control-core fault (R224, R226): SEQ_FAULT names the thread and bits 24:5 of the instruction's address. -/
def ccFault (k t cause : Nat) (s : State) : State :=
  programFault k false cause t (field (s.thread k t).pc.toNat 24 5) s

/-- Thread `t` switches out, waiting for `w`. -/
def switchOut (k t : Nat) (w : ThreadWait) (s : State) : State :=
  countSpire k 0x0402 1 (s.modThread k t (fun x => { x with mode := .waiting, wait := w }))

/-- Thread `t` switches out and is ready again at once. -/
def switchReady (k t : Nat) (s : State) : State :=
  countSpire k 0x0402 1 (s.modThread k t (fun x => { x with mode := .ready, wait := .nothing }))

/-- Carry out an instruction of thread `t` if it may issue now. -/
def ccIssue (k t : Nat) (f : State → State) (s : State) : State :=
  let s1 := wakeFlags k s
  if s1.ccMay k t then f s1 else s

/-! ### Remote instructions (R400 to R406, R424) -/

/-- The job and the lease of a Spire's threads. -/
def State.threadJob (s : State) (k : Nat) : Nat × Nat :=
  let j := (s.spire k).ctx.jobId
  (j, s.jobLease j)

/-- Source context of a thread. -/
def threadCtx (k t : Nat) : Nat := 8 * k + t

/-- A load or an atomic: refused unsent with rd + 1 the status, or sent with the thread waiting for its reply. -/
def remoteRead (k t op rd : Nat) (addr operand swap : DWord) (s : State) : State :=
  let (job, lease) := s.threadJob k
  let s1 := countSpire k 0x0401 1 (ccBegin k t 1 s)
  match s.rmRefusal job op addr with
  | some st => (switchReady k t s1).modThread k t (fun x => (x.setX rd 0).setX (rd + 1) (BitVec.ofNat 64 st))
  | none => rmIssue (.thread k t rd) (threadCtx k t) lease job op (s.rmVia addr) addr operand swap
      (switchOut k t (.remote rd) s1)

/-- Is rd an even register from x2 to x30 (R401)? -/
def pairOk (rd : Nat) : Bool := rd % 2 == 0 && decide (2 ≤ rd ∧ rd ≤ 30)

/-- RLD. -/
def ccRld (k t f rd rs1 : Nat) (s : State) : State :=
  if f ≤ 1 ∧ pairOk rd then remoteRead k t f rd ((s.thread k t).reg rs1) 0 0 s else ccFault k t 0x0B s

/-- RST: the local engine accepts the store 60 CCLK after issue; a refusal is its status. -/
def ccRst (k t f rd rs1 rs2 : Nat) (s : State) : State :=
  if f = 2 ∨ f = 3 then
    let x := s.thread k t
    let v := if f = 2 then BitVec.ofNat 64 ((x.reg rs2).toNat % 2 ^ 32) else x.reg rs2
    let (job, lease) := s.threadJob k
    let s1 := countSpire k 0x0401 1 (ccBegin k t 1 s)
    let st := s.rmRefusal job f (x.reg rs1)
    let s2 := switchOut k t (.store rd (s.cyc + storeAccept) (st.getD stOk)) s1
    if st.isSome then s2
    else rmIssue (.thread k t rd) (threadCtx k t) lease job f (s.rmVia (x.reg rs1)) (x.reg rs1) v 0 s2
  else ccFault k t 0x0B s

/-- RAMO. CAS32 takes compare and swap from the two halves of rs2, CAS64 from rs2 and the register after it. -/
def ccRamo (k t f rd rs1 rs2 : Nat) (s : State) : State :=
  let x := s.thread k t
  let b := x.reg rs2
  if opAtomic f && pairOk rd && (decide (f ≠ 15) || rs2 % 2 == 0) then
    let low := BitVec.ofNat 64 (b.toNat % 2 ^ 32)
    let swap := if f = 15 then x.reg (rs2 + 1) else if f = 14 then b >>> 32 else 0
    remoteRead k t f rd (x.reg rs1) (if f % 2 = 0 then low else b) swap s
  else ccFault k t 0x0B s

/-- RFENCE. -/
def ccRfence (k t rd : Nat) (s : State) : State :=
  let (job, lease) := s.threadJob k
  let s1 := switchOut k t (.fence rd) (countSpire k 0x0401 1 (ccBegin k t 1 s))
  rmFence (.thread k t rd) (threadCtx k t) lease job s1

/-! ### The state path (R204, R205, R229) -/

/-- CCLK of an access. -/
def pathLen : Nat := 6

/-- The CCLK after the last vector load or store in flight has completed: a load's result is visible from `land` on, a store's write
is made in `land`. -/
def VuState.memDone (v : VuState) : Nat :=
  (v.flights.map (fun f => match f.kind with
    | .arith => 0
    | .store _ => f.land + 1
    | _ => f.land)).foldl max 0

/-- The first access starts, if BANK_M is in use. -/
def pathStart (k : Nat) (s : State) : State :=
  let v := (s.spire k).vu
  match (s.spire k).cc.paths with
  | p :: rest =>
    if p.due.isSome || v.inS then s
    else s.modCc k (fun c => { c with paths := { p with due := some (max s.cyc v.memDone + pathLen) } :: rest })
  | [] => s

/-- Issue an access. -/
def pathAccess (k t : Nat) (write : Bool) (index : Nat) (v : DWord) (rd : Nat) (s : State) : State :=
  let s1 := switchOut k t .path (ccBegin k t 1 s)
  pathStart k (s1.modCc k (fun c => { c with paths := c.paths ++ [⟨t, write, index, v, rd, s.cyc, none⟩] }))

/-- SPR.R. -/
def ccSprR (k t rd rs1 : Nat) (s : State) : State := pathAccess k t false ((s.thread k t).reg rs1).toNat 0 rd s

/-- SPR.W. -/
def ccSprW (k t rs1 rs2 : Nat) (s : State) : State :=
  pathAccess k t true ((s.thread k t).reg rs1).toNat ((s.thread k t).reg rs2) 0 s

/-- State words that exist. -/
def stateWords : Nat := 45

/-- STATE_PATH_ACCESS_END: the word is read or written in BANK_M, the thread is ready, and the next access starts. -/
def pathEnd (k : Nat) (s : State) : State :=
  match (s.spire k).cc.paths with
  | [] => s
  | p :: rest =>
    match p.due with
    | none => s
    | some d =>
      if s.cyc < d then s
      else
        let s1 := s.modCc k (fun c => { c with paths := rest })
        let s2 :=
          if p.write then
            if p.index < stateWords then s1.modVu k (fun v => { v with bankM := v.bankM.setStateWord p.index p.value.toNat })
            else programFault k false 0x08 0 (field ((s1.thread k p.thread).pc.toNat - 4) 24 5) s1
          else s1.modThread k p.thread (fun x => x.setX p.rd (BitVec.ofNat 64 ((s1.spire k).vu.bankM.stateWord p.index)))
        pathStart k (s2.modThread k p.thread Thread.wake)

def execStatePathAccessEnd (k : Nat) (s : State) : Host.Outcome State Fault Refusal := .next (pathEnd k s)

/-! ### Flags and YIELD (R227, R228) -/

/-- FLAG. A number in rs1 above 15 names no flag; which one the instruction acts on is a free value then (log entry 26). -/
def ccFlag (k t f rd rs1 rs2 : Nat) (s : State) : State :=
  let v := ((s.thread k t).reg rs1).toNat
  let n := if v < 16 then v else s.freeValue % 16
  let s0 := ccBegin k t 1 (if v < 16 then s else s.useFree)
  let now := ((s.spire k).seq.flagsNow s.cyc).getLsbD n
  match f with
  | 0 => s0.modSeq k (fun q => q.changeFlags s.cyc (BitVec.twoPow 16 n) 0)
  | 1 => s0.modSeq k (fun q => q.changeFlags s.cyc 0 (BitVec.twoPow 16 n))
  | 2 => s0.modThread k t (fun x => x.setX rd (BitVec.ofNat 64 (b2n now)))
  | 3 =>
    let want := ((s.thread k t).reg rs2).getLsbD 0
    if now = want then switchReady k t s0 else switchOut k t (.flag n want) s0
  | _ => ccFault k t 0x0B s

/-- YIELD. -/
def ccYield (k t : Nat) (s : State) : State := switchReady k t (ccBegin k t 1 s)

/-- The custom instructions by funct3. -/
def ccCustom (k t f3 f7 rd rs1 rs2 : Nat) (s : State) : State :=
  match f3 with
  | 0 => ccRld k t f7 rd rs1 s
  | 1 => ccRst k t f7 rd rs1 rs2 s
  | 2 => ccRamo k t f7 rd rs1 rs2 s
  | 3 => ccRfence k t rd s
  | 4 => ccSprR k t rd rs1 s
  | 5 => ccSprW k t rs1 rs2 s
  | 6 => ccFlag k t f7 rd rs1 rs2 s
  | _ => ccYield k t s

def execRld (k t f rd rs1 : Nat) (s : State) : Host.Outcome State Fault Refusal := .next (ccIssue k t (ccRld k t f rd rs1) s)

def execRst (k t f rd rs1 rs2 : Nat) (s : State) : Host.Outcome State Fault Refusal :=
  .next (ccIssue k t (ccRst k t f rd rs1 rs2) s)

def execRamo (k t f rd rs1 rs2 : Nat) (s : State) : Host.Outcome State Fault Refusal :=
  .next (ccIssue k t (ccRamo k t f rd rs1 rs2) s)

def execRfence (k t rd : Nat) (s : State) : Host.Outcome State Fault Refusal := .next (ccIssue k t (ccRfence k t rd) s)

def execSprR (k t rd rs1 : Nat) (s : State) : Host.Outcome State Fault Refusal := .next (ccIssue k t (ccSprR k t rd rs1) s)

def execSprW (k t rs1 rs2 : Nat) (s : State) : Host.Outcome State Fault Refusal := .next (ccIssue k t (ccSprW k t rs1 rs2) s)

def execFlag (k t f rd rs1 rs2 : Nat) (s : State) : Host.Outcome State Fault Refusal :=
  .next (ccIssue k t (ccFlag k t f rd rs1 rs2) s)

def execYield (k t : Nat) (s : State) : Host.Outcome State Fault Refusal := .next (ccIssue k t (ccYield k t) s)

/-! ### Local memory (R143, R220, R226, R248, R251, Table 15.2) -/

/-- CCLK from a local load to its data. -/
def localLoad : Nat := 3

/-- Does an access of this CCLK with a precedence name the bank of address `a` (R248, R505)? -/
def State.bankBusy (s : State) (k a : Nat) : Bool :=
  (s.testBanks k).getLsbD (bankOf a) || (s.spire k).recent.any (fun x => x.at_ == s.cyc && x.bank == bankOf a && (match x.undo with
    | .write _ _ _ .other => false
    | _ => true))

/-- Why a local access cannot be made, if so: misaligned, or outside the owned part. -/
def State.localFault (s : State) (k : Nat) (a : DWord) (w : Nat) : Option Nat :=
  if a.toNat % w ≠ 0 then some 0x0B
  else if !s.ownsRange k false a.toNat w then some 0x04
  else none

/-- Read the store for thread `t`, handing the value on; the thread waits in place for 3 CCLK. -/
def localRead (k t : Nat) (a : DWord) (w : Nat) (f : Nat → State → State) (s : State) : State :=
  match s.localFault k a w with
  | some c => ccFault k t c s
  | none =>
    let n := a.toNat
    let p := s.spire k
    if s.bankBusy k n then s
    else if p.isPending n w then ccFault k t 0x03 (f 0 (ccBegin k t localLoad s))
    else if p.store.poisonedAt n then
      let s1 := consumePoison 1 s
      if s.radioWork k false then loseWindowSlots k (f 0 (ccBegin k t localLoad s1)) else poisonEnd k s1
    else f (p.store.readLE n w) (ccBegin k t localLoad (countSpire k 0x0501 1 s))

/-- Write the store. A write of part of a word leaves its poison bit (R251). Every thread's reservation on those bytes
ends. -/
def localPut (k n w v : Nat) (s : State) : State :=
  let s1 := countSpire k 0x0501 1 ((noteWrite k (wordOf n) .other s).modStore k (fun m => m.writeLE n w v))
  let drop (r : Option Nat) : Option Nat := r.filter (fun x => x / 8 != n / 8)
  s1.modCc k (fun c => { c with
    threads := c.threads.modifyAll Thread.reset (List.range 8) (fun _ x => { x with resv := drop x.resv }) })

/-- A store of thread `t`: a protected range takes no write (R220). -/
def localWrite (k t : Nat) (a : DWord) (w : Nat) (v : DWord) (s : State) : State :=
  match s.localFault k a w with
  | some c => ccFault k t c s
  | none =>
    let n := a.toNat
    if s.bankBusy k n then s
    else if (s.spire k).isProtected s.cyc n w then ccFault k t 0x09 s
    else localPut k n w v.toNat (ccBegin k t 1 s)

/-- A value of `w` bytes, sign- or zero-extended. -/
def loadValue (w : Nat) (signed : Bool) (x : Nat) : DWord := if signed then simm (8 * w) x else BitVec.ofNat 64 x

/-- Set a register of thread `t`. -/
def putX (k t rd : Nat) (v : DWord) (s : State) : State := s.modThread k t (fun x => x.setX rd v)

/-- Carry out a decoded instruction of thread `t`. -/
def rvExec (k t : Nat) (op : RvOp) (s : State) : State :=
  let pc := (s.thread k t).pc
  let go (target : DWord) (u : State) : State :=
    if target.toNat % 4 ≠ 0 then ccFault k t 0x0B s else u.modThread k t (fun x => { x with pc := target })
  match op with
  | .reg rd v => putX k t rd v (ccBegin k t 1 s)
  | .jump rd target => go target (putX k t rd (pc + 4) (ccBegin k t 1 s))
  | .branch taken target => if taken then go target (ccBegin k t 1 s) else ccBegin k t 1 s
  | .load rd a w signed => localRead k t a w (fun x u => putX k t rd (loadValue w signed x) u) s
  | .store a w v => localWrite k t a w v s
  | .lr rd a w => localRead k t a w (fun x u =>
      putX k t rd (loadValue w true x) (u.modThread k t (fun y => { y with resv := some a.toNat }))) s
  | .sc rd a w v =>
    if (s.localFault k a w).isSome then localWrite k t a w v s
    else if (s.thread k t).resv = some a.toNat then
      if s.bankBusy k a.toNat || (s.spire k).isProtected s.cyc a.toNat w then localWrite k t a w v s
      else putX k t rd 0 (localWrite k t a w v s)
    else putX k t rd 1 ((ccBegin k t 1 s).modThread k t (fun y => { y with resv := none }))
  | .amo rd a w f5 v =>
    if (s.localFault k a w).isNone && (s.spire k).isProtected s.cyc a.toNat w then ccFault k t 0x09 s
    else localRead k t a w (fun x u =>
      putX k t rd (loadValue w true x) (localPut k a.toNat w ((amoResult f5 w x v.toNat).getD x) u)) s
  | .custom f3 f7 rd rs1 rs2 => ccCustom k t f3 f7 rd rs1 rs2 s
  | .fence => ccBegin k t 1 s
  | .illegal => ccFault k t 0x0B s

/-- Fetch and execute the instruction at thread `t`'s program counter. The fetch waits in place for a busy bank (R248), and faults
on a pending range (R143). -/
def ccStep (k t : Nat) (s : State) : State :=
  let x := s.thread k t
  let a := x.pc.toNat
  if a % 4 ≠ 0 || !s.ownsRange k false a 4 then ccFault k t 0x0B s
  else if s.bankBusy k a then s
  else if (s.spire k).isPending a 4 then ccFault k t 0x03 s
  else if (s.spire k).store.poisonedAt a && !s.radioWork k false then poisonEnd k (consumePoison 1 s)
  else
    let w := if (s.spire k).store.poisonedAt a then 0 else (s.spire k).store.readLE a 4
    rvExec k t (rvDecode w x.reg x.pc) (countSpire k 0x0501 1 s)

def execControlCoreInstruction (k t : Nat) (s : State) : Host.Outcome State Fault Refusal := .next (ccIssue k t (ccStep k t) s)

end Sys2Proof.Machine
end

