-- ==== Sys2Proof/Machine/JobImages.lean ====
section
/-! DEFINITION. Job images (13 'Job images'): reading one from tiles, and the checks of Table 13.4. -/

namespace Sys2Proof.Machine

open Sys2Proof

/-- `n` bytes at offset `o` of a byte string, little-endian. -/
def bytesLE (l : List Byte) (o n : Nat) : Nat := leValue ((l.drop o).take n)

/-- Bytes of an image header. -/
def jobHeadBytes : Nat := 64

/-- The largest job image. -/
def jobImageMax : Nat := 33554432

/-- SPIRES values that a job may name. -/
def spiresLegal (n : Nat) : Bool := decide (1 ≤ n ∧ n ≤ 8) || n == 16 || n == 24 || n == 32

/-- Rank entry `r` of an image. -/
def readRank (l : List Byte) (r : Nat) : RankEntry :=
  let o := jobHeadBytes + 64 * r
  ⟨bytesLE l o 4, bytesLE l (o + 4) 4, bytesLE l (o + 8) 1, (List.range 8).map (fun t => bytesLE l (o + 12 + 4 * t) 4)⟩

/-- Are the bytes of rank entry `r` that hold nothing 0? -/
def rankReservedOk (l : List Byte) (r : Nat) : Bool :=
  let o := jobHeadBytes + 64 * r
  bytesLE l (o + 9) 3 == 0 && bytesLE l (o + 44) 20 == 0

/-- Segment table entry `i` of an image of `spires` ranks. -/
def readSegment (l : List Byte) (spires i : Nat) : Segment :=
  let o := jobHeadBytes + 64 * spires + 16 * i
  ⟨bytesLE l o 1, bytesLE l (o + 4) 4, bytesLE l (o + 8) 4, bytesLE l (o + 12) 4⟩

/-- The rank code for every rank. -/
def everyRank : Nat := 0xFF

/-- SPIRES, STORE_MIB and SEGMENTS of a header. -/
def headSpires (l : List Byte) : Nat := bytesLE l 0x0C 1 % 64
def headStore (l : List Byte) : Nat := bytesLE l 0x0D 1 % 64
def headSegments (l : List Byte) : Nat := bytesLE l 0x18 1

/-- The job image with its tables. -/
def readJobImage (l : List Byte) : JobImage where
  pavane := BitVec.ofNat 32 (bytesLE l 8 4)
  startStep := bytesLE l 0x0E 2
  storeMib := headStore l
  spires := headSpires l
  bytes := bytesLE l 0x10 4
  ranks := (List.range (headSpires l)).map (readRank l)
  segments := (List.range (headSegments l)).map (readSegment l (headSpires l))

/-- CRC of an image, with its CRC field taken as 0. -/
def jobCrc (l : List Byte) : Nat := crc32c (l.take 0x14 ++ List.replicate 4 0 ++ l.drop 0x18)

/-- Check 3 of Table 13.4 on an image: MAGIC, FORMAT, CRC, reserved fields, ranges. -/
def headOk (l : List Byte) : Bool :=
  bytesLE l 0 4 == 0x564A4F42 && bytesLE l 4 2 == 1 && bytesLE l 6 2 == 0
  && spiresLegal (headSpires l) && bytesLE l 0x0C 1 / 64 == 0 && bytesLE l 0x0D 1 / 64 == 0
  && decide (1 ≤ headStore l ∧ headStore l ≤ 32)
  && (decide (bytesLE l 0x0E 2 < 8000) || bytesLE l 0x0E 2 == 0xFFFF)
  && decide (1 ≤ headSegments l) && bytesLE l 0x19 3 == 0 && bytesLE l 0x1C 36 == 0
  && (List.range (headSpires l)).all (rankReservedOk l)
  && bytesLE l 0x14 4 == jobCrc l

/-- Are two segments of the same rank, and do their store bytes overlap? -/
def Segment.clashes (a b : Segment) : Bool :=
  (a.rank == b.rank || a.rank == everyRank || b.rank == everyRank) && rangesMeet (a.addr, a.bytes) (b.addr, b.bytes)

/-- Does no segment of a list clash with another? -/
def segmentsApart : List Segment → Bool
  | [] => true
  | a :: r => r.all (fun b => !a.clashes b) && segmentsApart r

/-- Check 4 of Table 13.4. -/
def segmentsOk (l : List Byte) (img : JobImage) : Bool :=
  img.segments.all (fun g =>
    decide (g.offset + g.bytes ≤ img.bytes) && decide (g.addr + g.bytes ≤ img.storeMib * 2 ^ 20)
    && (g.rank == everyRank || decide (g.rank < img.spires)) && !rangesMeet (g.addr, g.bytes) (0, 64))
  && segmentsApart img.segments
  && (List.range img.segments.length).all (fun i => bytesLE l (jobHeadBytes + 64 * img.spires + 16 * i + 1) 3 == 0)

/-! ### Placement (R446, R447) -/

/-- The choice of R447 among the Spires that a test admits. -/
def choosePlaces (n : Nat) (ok : Nat → Bool) : Option (List Nat) :=
  let free (t : Nat) : List Nat := (tileRange (8 * t) 8).filter ok
  if n ≤ 8 then
    match (List.range 4).find? (fun t => decide (n ≤ (free t).length)) with
    | some t => some ((free t).take n)
    | none => none
  else
    let whole := (List.range 4).filter (fun t => decide ((free t).length = 8))
    if n / 8 ≤ whole.length then some ((whole.take (n / 8)).flatMap (fun t => tileRange (8 * t) 8)) else none

/-- Could a job ever be placed under a Figure of an image (check 8 of Table 13.4)? -/
def State.figureHolds (s : State) (p : Pavane) (img : JobImage) (fig : Nat) : Bool :=
  (choosePlaces img.spires (fun k =>
    s.inService k && decide (img.storeMib ≤ p.jobLimit k)
    && (match p.role fig k with
        | .inferenceOnly => true
        | .borrowable => img.pavane == p.id
        | .radioOwned => false))).isSome

/-- Check 8 of Table 13.4 under the active Pavane. -/
def State.couldPlace (s : State) (img : JobImage) : Bool :=
  match s.image with
  | some p => p.figureList.any (fun f => s.figureHolds p img f)
  | none => false

/-- Spires that a lease's jobs hold. -/
def State.heldBy (s : State) (lease : Nat) : Nat :=
  ((List.range 32).filter (fun k => decide (s.holder k = some lease))).length

end Sys2Proof.Machine
end

