-- ==== Sys2Proof/Machine/Dispatcher.lean ====
section
/-! DEFINITION. The dispatcher (13): submission, placement, loading, endings, completion records, surge reclaim. -/

namespace Sys2Proof.Machine

open Sys2Proof

/-- Change the dispatcher. -/
def State.modDsp (s : State) (f : DspState → DspState) : State := { s with dsp := f s.dsp }

/-! ### JOB_SUBMIT (R443) -/

/-- Most tiles of a job image. -/
def jobTilesMax : Nat := 128

/-- Jobs that the queue holds. -/
def jobQueueMax : Nat := 4096

/-- May an issuer use a tile for its image: a lease its own tiles, the host tiles of lease 0 with RADIO 0? -/
def State.imageTile (s : State) (iss : Issuer) (n : Nat) : Bool :=
  decide ((s.tile n).lease.toNat = iss.lease) && !(s.tile n).radio

/-- Jobs that a lease has in the queue. -/
def State.queuedBy (s : State) (lease : Nat) : Nat := (s.dsp.queue.filter (fun j => j.lease == lease)).length

/-- The checks 3 to 8 of Table 13.4, in order, on an image of `len` bytes of tiles. -/
def State.jobRefusal (s : State) (lease : Nat) (bytes : List Byte) : Option Nat :=
  let img := readJobImage bytes
  if !headOk bytes then some stBadArg
  else if !segmentsOk bytes img then some stBadArg
  else if (s.leaseOf lease).maxSpires.toNat < img.spires then some stNoResource
  else if (s.leaseOf lease).queueLimit.toNat ≤ s.queuedBy lease || decide (jobQueueMax ≤ s.dsp.queue.length) then
    some stNoResource
  else if s.clk.chipState ≠ .ready || s.fab.active.isNone then some stConflict
  else if !s.couldPlace img then some stNoResource
  else none

/-- Function, pair and CID of an issuer. -/
def Issuer.pairOf : Issuer → Nat × Nat
  | .dome => (0, 0)
  | .ring f q _ => (f, q)

/-- Queue an accepted job; JOB_IDs go from 1 and wrap to 1. -/
def queueJob (iss : Issuer) (first tiles user : Nat) (img : JobImage) (s : State) : State × Option Reply :=
  let id := s.dsp.nextId
  let j : Job := {
    id := id.toNat, lease := iss.lease, func := iss.pairOf.1, qp := iss.pairOf.2, user := BitVec.ofNat 32 user
    first := first, tiles := tiles, image := img, phase := .queued, spires := [], ended := Tab.empty, abnormal := none
    lastPlan := 0, ndc := 0, stops := 0, replays := 0, silent := false, startAt := none }
  (s.modDsp (fun d => { d with
    queue := d.queue ++ [j], nextId := if id = BitVec.allOnes 32 then 1 else id + 1 }), some ⟨stOk, id.toNat, 0⟩)

/-- The body of JOB_SUBMIT. A poisoned word of the image refuses the job with ST_UNUSABLE (Table 15.2). -/
def jobSubmitBody (iss : Issuer) (first tiles user : Nat) (s : State) : State × Option Reply :=
  let l := tileRange first tiles
  let len := tiles * tileBytes
  if !rangeOk first tiles jobTilesMax then refuse stBadArg s
  else if l.any (fun n => !s.imageTile iss n) then refuse stBadArg s
  else if l.any (fun n => !(s.tile n).inHbm || (s.tile n).pin = 0) then refuse stConflict s
  else
    let head := s.runRead first 0 (tiles + 1) jobHeadBytes
    let n := bytesLE head 0x10 4
    let read := if n ≤ len ∧ n ≤ jobImageMax then max n jobHeadBytes else jobHeadBytes
    if s.runPoisoned first 0 (tiles + 1) read then (consumePoison 1 s, some (.of stUnusable))
    else if len < n ∨ jobImageMax < n then refuse stBadArg s
    else
      let bytes := (s.runRead first 0 (tiles + 1) n)
      match s.jobRefusal iss.lease bytes with
      | some st => refuse st s
      | none => queueJob iss first tiles user (readJobImage bytes) s

def execJobSubmit (iss : Issuer) (first tiles user : Nat) (s : State) : Host.Outcome State Fault Refusal :=
  .next (queueCommand 0x20 iss (jobSubmitBody iss first tiles user) s)

/-! ### Completion records (R458, R475) -/

/-- The hall time that a job-end record carries: the plan time (R88, R89) of the last release; a free value if no pass of
the job was released. -/
def State.jobPlanTime (s : State) (j : Job) : HallTime :=
  if j.lastPlan = 0 then hallOf s.freeValue
  else
    let back := s.time.periods - j.lastPlan / planPeriod
    hallOf (s.time.periodTarget - back * periodUnits + j.lastPlan % planPeriod * 2 ^ 32 * 10 / 17)

/-- Bytes 0 to 59 of a job-end record (Tables 14.4 and 14.5). `code` is byte 16, `rank` byte 17. -/
def jobRecord (sqHead status code rank bundle : Nat) (j : Job) (t : HallTime) : Record :=
  let bytes := leBytes 0xFFFF 2 ++ leBytes 0x20 1 ++ leBytes status 1 ++ leBytes sqHead 2 ++ leBytes 1 2
    ++ leBytes j.id 4 ++ leBytes j.user.toNat 4 ++ leBytes code 1 ++ leBytes rank 1 ++ leBytes 0 2 ++ leBytes bundle 4
    ++ leBytes t.sec.toNat 8 ++ leBytes t.ns.toNat 4 ++ leBytes t.frac.toNat 4 ++ leBytes (min j.ndc 0xFFFF) 2
    ++ leBytes (min j.stops 0xFFFF) 2 ++ leBytes (min j.replays 0xFFFF) 2
  ⟨BitVec.ofNat 480 (leValue bytes)⟩

/-- Write the record of a job that has ended to its pair's completion ring; a job of a lease in reset writes none (R481). -/
def recordJob (status code rank bundle : Nat) (j : Job) (s : State) : State :=
  if j.silent || !(s.pair j.func j.qp).enable then s
  else
    let r := jobRecord (s.pair j.func j.qp).sqHead.toNat status code rank bundle j (s.jobPlanTime j)
    (s.modPair j.func j.qp (fun p => { p with waiting := p.waiting ++ [r] })).useFree

/-- Record of a job that never started. -/
def recordUnstarted (status : Nat) (j : Job) (s : State) : State := recordJob status 0 0xFF 0 j s

/-- Have all ranks of a job issued END? -/
def Job.allEnded (j : Job) : Bool :=
  !j.spires.isEmpty && (List.range j.spires.length).all (fun r => decide (j.ended.get 0 r ≠ 0))

/-- Status, byte 16, rank and bundle index of a job's record. -/
def Job.outcome (j : Job) : Nat × Nat × Nat × Nat :=
  match j.abnormal with
  | some a =>
    (a.status, if a.status = stBadArg then a.cause else 0,
      if a.rank < j.spires.length then a.rank else 0xFF, if a.status = stBadArg then a.bundle else 0)
  | none => (stOk, j.ended.get 0 0 - 1, 0xFF, 0)

/-- Has Spire `k` left the work of job `id`: is it wiped, FAULTED or FENCED, with no transfer left (R458)? -/
def State.leftBy (s : State) (id k : Nat) : Bool :=
  decide ((s.spire k).ctx ≠ .job id)
  || (((s.spire k).seq.mode = .faulted || (s.spire k).seq.mode = .fenced || (s.spire k).seq.mode = .off)
      && (s.spire k).xfers.isEmpty)

/-- JOB_COMPLETION: every Spire of the job has left ENDING; the record is written, and the job's quarantines of chips end
(R525). -/
def jobCompletion (id : Nat) (s : State) : State :=
  match s.job id with
  | none => s
  | some j =>
    if j.phase ≠ .queued && !j.spires.isEmpty && j.spires.all (fun k => s.leftBy id k) then
      let o := j.outcome
      let s1 := recordJob o.1 o.2.1 o.2.2.1 o.2.2.2 j s
      { s1.modDsp (fun d => { d with running := d.running.filter (fun x => x.id != id) }) with
        rm := { s1.rm with jobLost := s1.rm.jobLost.filter (fun p => p.1 != id) } }
    else s

def execJobCompletion (job : Nat) (s : State) : Host.Outcome State Fault Refusal := .next (jobCompletion job s)

/-! ### JOB_CANCEL (R459) -/

/-- End a running job with ST_PREEMPTED, unless every Spire has issued END (R463). -/
def preemptJob (j : Job) (s : State) : State :=
  if j.allEnded then s else endJob j.id stPreempted 0 0 noSpire s

/-- Does an issuer own a job, or may the host cancel it? -/
def Issuer.mayCancel (iss : Issuer) (j : Job) : Bool := iss.isHost || j.lease == iss.lease

/-- The body of JOB_CANCEL. A job of another lease gives ST_STATE_CONFLICT to a lease, as one that does not exist. -/
def jobCancelBody (iss : Issuer) (id : Nat) (s : State) : State × Option Reply :=
  match s.dsp.queue.find? (fun j => j.id == id && iss.mayCancel j) with
  | some j =>
    (recordUnstarted stPreempted j (s.modDsp (fun d => { d with queue := d.queue.filter (fun x => x.id != id) })),
      some (.of stOk))
  | none =>
    match s.dsp.running.find? (fun j => j.id == id && iss.mayCancel j) with
    | some j => (preemptJob j s, some (.of stOk))
    | none => refuse stConflict s

def execJobCancel (iss : Issuer) (job : Nat) (s : State) : Host.Outcome State Fault Refusal :=
  .next (queueCommand 0x21 iss (jobCancelBody iss job) s)

/-! ### Placement (R445 to R450) -/

/-- Is Spire `k` eligible for a job (R446, R517)? -/
def State.eligible (s : State) (j : Job) (k : Nat) : Bool :=
  s.inService k && s.domainOn (k / 2) && decide ((s.spire k).seq.mode = .idle) && !(s.spire k).seq.reclaim
  && !(s.healthOf k).quarantined
  && (match s.role k with
      | .inferenceOnly => true
      | .borrowable => decide (s.image.map (·.id) = some j.image.pavane)
      | .radioOwned => false)
  && decide (j.image.storeMib ≤ (s.spire k).xb.jobLimit.toNat)
  && decide (s.heldBy j.lease + j.image.spires ≤ (s.leaseOf j.lease).maxSpires.toNat)

/-- Place a job on Spires: LOAD on every one. -/
def placeJob (j : Job) (ks : List Nat) (s : State) : State :=
  let s1 := s.modDsp (fun d => { d with
    queue := d.queue.filter (fun x => x.id != j.id), running := d.running ++ [{ j with phase := .loading, spires := ks }] })
  ks.foldl (fun t k => setCmdStatus k stOk (startClean k (t.modSpire k (fun p => { p with ctx := .job j.id })))) s1

/-- Place the head, and each job that becomes the head after it, while placement gives Spires. -/
def placeHeads : Nat → State → State
  | 0, s => s
  | n + 1, s =>
    match s.dsp.queue with
    | [] => s
    | j :: _ =>
      match choosePlaces j.image.spires (s.eligible j) with
      | some ks => placeHeads n (placeJob j ks s)
      | none => s

/-- PLACEMENT. -/
def placement (s : State) : State := placeHeads s.dsp.queue.length s

def execPlacement (s : State) : Host.Outcome State Fault Refusal := .next (placement s)

/-- A Pavane or Figure has become active: queued jobs that could never be placed complete with ST_NO_RESOURCE (R450). -/
def retestQueue (s : State) : State :=
  let gone := s.dsp.queue.filter (fun j => !s.couldPlace j.image)
  gone.foldl (fun t j => recordUnstarted stNoResource j t)
    (s.modDsp (fun d => { d with queue := d.queue.filter (fun j => !gone.contains j) }))

/-! ### Loading (R443, R444, R449) -/

/-- The placement record of rank `r` (R444). -/
def placementRecord (s : State) (j : Job) (r : Nat) : List Byte :=
  leBytes j.id 4 ++ leBytes r 2 ++ leBytes j.image.spires 2 ++ leBytes s.dome.chipId.toNat 2 ++ leBytes j.lease 2
    ++ leBytes ((s.image.map (·.id.toNat)).getD 0) 4
    ++ (List.range 32).map (fun i => BitVec.ofNat 8 (j.spires.getD i 0xFF)) ++ List.replicate 16 0

/-- The segments of rank `r`, as store address and bytes read from the image's tiles. -/
def State.rankSegments (s : State) (j : Job) (r : Nat) : List (Nat × List Byte) :=
  (j.image.segments.filter (fun g => g.rank == everyRank || g.rank == r)).map
    (fun g => (g.addr, s.runRead j.first g.offset (j.tiles + 1) g.bytes))

/-- Load Spire `k`, rank `r` of a job: segments in table order, the placement record, start, handler, threads. -/
def loadRank (k r : Nat) (j : Job) (s : State) : State :=
  let n := s.jobPart k
  let e := j.image.ranks.getD r ⟨0, 0, 0, []⟩
  let s1 := s.modStore k (fun m => (m.loadSegments n (s.rankSegments j r)).writeBytes 0 (placementRecord s j r))
  (setStart k e.start e.ivec e.threads e.starts s1).modSeq k (fun q => { q with mode := .armed })

/-- LOAD_COMPLETE: the start wipe is over, the image is in place and the Spire is ARMED. A tile of the image that is no longer READY in HBM, or a
poisoned word of it, ends the job before it starts. -/
def loadComplete (k : Nat) (s : State) : State :=
  if (s.spire k).seq.mode ≠ .loading || (s.spire k).seq.reclaim || (s.spire k).vu.inS || decide (0 < (s.spire k).seq.wipeLeft) then s
  else
    match s.job (s.spire k).ctx.jobId with
    | none => s.modSeq k (fun q => { q with mode := .armed })
    | some j =>
      if (tileRange j.first j.tiles).any (fun n => !(s.tile n).inHbm) then endJob j.id stConflict 0 0 noSpire s
      else if s.runPoisoned j.first 0 (j.tiles + 1) j.image.bytes then
        endJob j.id stUnusable 0 0 noSpire (consumePoison 1 s)
      else dispatchStart j.id (loadRank k (rankOf k j.spires) j s)

def execLoadComplete (k : Nat) (s : State) : Host.Outcome State Fault Refusal := .next (loadComplete k s)

/-! ### Surge reclaim (R452 to R455) -/

/-- Can Spire `k` be taken (R452)? -/
def State.takeable (s : State) (k : Nat) : Bool :=
  decide (s.role k = .borrowable) && s.inService k && s.domainOn (k / 2)
  && !((s.spire k).seq.mode = .faulted || (s.spire k).seq.mode = .fenced)
  && decide (s.jobPart k ≤ bundleAddr s.dsp.reclaimEntry.toNat) && decide (bundleAddr s.dsp.reclaimEntry.toNat + 32 ≤ 2 ^ 25)

/-- Take Spire `k` (Table 13.5). -/
def reclaimSpire (k : Nat) (s : State) : State :=
  let q := (s.spire k).seq
  let s1 := s.modSeq k (fun x => { x with reclaim := true })
  let s2 := s1.modDsp (fun d => { d with entered := d.entered &&& ~~~BitVec.twoPow 32 k })
  if q.window then s2
  else
    match q.mode with
    | .running | .armed | .replay | .stopped => stopSpire k true s2
    | .idle | .loading | .wiping => setPhase k (.switching (s.cyc + switchLen) true) s2
    | _ => s2

/-- DSP_RECLAIM_MASK_WRITE. Spires that an earlier reclaim holds stay reclaimed. An order that takes none is done at once. -/
def reclaimOrder (mid mask : Nat) (s : State) : State :=
  if mid ≠ 0 then s
  else
    let named := (List.range 32).filter (fun k => bitAt mask k)
    let fresh := named.filter (fun k => !(s.spire k).seq.reclaim && s.takeable k)
    let missed := named.filter (fun k => !(s.spire k).seq.reclaim && !s.takeable k)
    let held := named.filter (fun k => (s.spire k).seq.reclaim)
    let bits (l : List Nat) : BitVec 32 := l.foldl (fun b k => b ||| BitVec.twoPow 32 k) 0
    let s1 := s.modDsp (fun d => { d with
      reclaimDone := false, taken := bits (fresh ++ held), notTaken := bits missed
      windowed := (d.windowed &&& bits held) ||| bits (fresh.filter (fun k => (s.spire k).seq.window)) })
    let s2 := fresh.foldl (fun t k => reclaimSpire k t) s1
    if (fresh ++ held).isEmpty then ringDome 6 (s2.modDsp (fun d => { d with reclaimDone := true })) else s2

def execDspReclaimMaskWrite (mid : Nat) (v : Word) (s : State) : Host.Outcome State Fault Refusal :=
  .next (bar0Row mid 0x50024 v (reclaimOrder mid v.toNat) s)

/-- RECLAIM_DONE (R454, R565): the entry bundle issues on every taken Spire that was not in a window. -/
def reclaimDone (s : State) : State :=
  if !s.dsp.reclaimDone && decide (s.dsp.taken ≠ 0) && decide (s.dsp.taken &&& ~~~(s.dsp.entered ||| s.dsp.windowed) = 0) then
    ringDome 6 (s.modDsp (fun d => { d with reclaimDone := true }))
  else s

def execReclaimDone (s : State) : Host.Outcome State Fault Refusal := .next (reclaimDone s)

/-! ### Migration write logging (R460 to R462) -/

/-- Tiles of one bitmap, and of both. -/
def bitmapTiles : Nat := 8

/-- Zero a bitmap. -/
def zeroBitmap (tile : Nat) (s : State) : State :=
  (tileRange tile bitmapTiles).foldl (fun t n =>
    if (t.tile n).inHbm then zeroPlace (t.tile n).stack.toNat (t.tile n).place.toNat t else t) s

/-- The body of LOG_START. -/
def logStartBody (lease tile iova pages : Nat) (s : State) : State × Option Reply :=
  let tiles := tileRange tile (2 * bitmapTiles)
  if !(decide (1 ≤ lease ∧ lease ≤ 4095) && decide (1 ≤ pages ∧ pages ≤ 16777216) && decide (iova < 2 ^ 52)
      && rangeOk tile (2 * bitmapTiles) (2 * bitmapTiles)) then refuse stBadArg s
  else if tiles.any (fun n => (s.tile n).lease ≠ 0 || (s.tile n).radio) then refuse stBadArg s
  else if (s.leaseOf lease).log.on || tiles.any (fun n => !(s.tile n).inHbm || (s.tile n).pin = 0) then refuse stConflict s
  else
    let set (l : LogState) : LogState := { l with
      on := true, activeB := false, pages := BitVec.ofNat 25 pages, iova := BitVec.ofNat 52 iova, tile := BitVec.ofNat 24 tile }
    ((zeroBitmap tile s).modLease lease (fun x => { x with log := set x.log }), some (.of stOk))

def execLogStart (iss : Issuer) (lease tile iova pages : Nat) (s : State) : Host.Outcome State Fault Refusal :=
  .next (queueCommand 0x22 iss (logStartBody lease tile iova pages) s)

/-- The body of LOG_FLIP. Every write that the device has issued is complete, so the flip is, too. -/
def logFlipBody (lease : Nat) (s : State) : State × Option Reply :=
  let l := (s.leaseOf lease).log
  if !l.on || l.flipping then refuse stConflict s
  else
    let other := l.tile.toNat + (if l.activeB then 0 else bitmapTiles)
    ((zeroBitmap other s).modLease lease (fun x => { x with log := { x.log with activeB := !x.log.activeB } }), some (.of stOk))

def execLogFlip (iss : Issuer) (lease : Nat) (s : State) : Host.Outcome State Fault Refusal :=
  .next (queueCommand 0x23 iss (logFlipBody lease) s)

/-- Logging of a lease ends; both bitmaps stand. -/
def stopLog (lease : Nat) (s : State) : State := s.modLease lease (fun x => { x with log := { x.log with on := false } })

/-- The body of LOG_STOP. -/
def logStopBody (lease : Nat) (s : State) : State × Option Reply :=
  if !(s.leaseOf lease).log.on || (s.leaseOf lease).log.flipping then refuse stConflict s
  else (stopLog lease s, some (.of stOk))

def execLogStop (iss : Issuer) (lease : Nat) (s : State) : Host.Outcome State Fault Refusal :=
  .next (queueCommand 0x24 iss (logStopBody lease) s)

/-! ### Lease reset (R481, R482) -/

/-- Start the reset of lease `n`: its rings stop, queued jobs leave silently, running jobs end; of the commands that have been
started, tier commands complete and the rest is gone (R481). -/
def startLeaseReset (n : Nat) (s : State) : State :=
  if (s.leaseOf n).resetting then s
  else
    let s1 := s.modLease n (fun x => { x with resetting := true })
    let mine (c : Instr) : Bool := decide ((issuerOf c).map (·.lease) = some n) && !isTier c
    let s2 := { s1 with started := s1.started.filter (fun c => !mine c) }
    let s3 := s2.modDsp (fun d => { d with
      queue := d.queue.filter (fun j => j.lease != n)
      running := d.running.map (fun j => if j.lease = n then { j with silent := true } else j) })
    (s3.dsp.running.filter (fun j => j.lease == n)).foldl (fun t j => preemptJob j t) s3

/-- LEASE_RESET: a function-level reset, or ENABLE written from 1 to 0. -/
def leaseReset (n : Nat) (flr : Bool) (s : State) : State :=
  if n = 0 then s
  else if flr then startLeaseReset n s
  else if (s.leaseOf n).enable then startLeaseReset n (s.modLease n (fun x => { x with enable := false }))
  else s

def execLeaseReset (lease : Nat) (flr : Bool) (s : State) : Host.Outcome State Fault Refusal :=
  .next (leaseReset lease flr s)

end Sys2Proof.Machine
end

