-- ==== Sys2Proof/Machine/BankImage.lean ====
section
/-! DEFINITION. Images and banks of the configuration memory (R540 to R546): verified images, valid banks, the checks of CONFIG, and
the bank image that the Dome builds. -/

namespace Sys2Proof.Machine

open Sys2Proof

/-! ### Signed images (R544) -/

/-- MAGIC of a signed image. -/
abbrev imageMagic : Nat := 0x474D4956

/-- Bytes of a header, of a modulus and of a signature. -/
abbrev imageHeader : Nat := 64
abbrev keyBytes : Nat := 512
abbrev saltBytes : Nat := 64

/-- The 64 bytes of an image's header; those that R544 does not name are 0x00. -/
def Image.header (x : Image) : List Byte :=
  leBytes x.magic 4 ++ leBytes x.kind 1 ++ leBytes x.signer 1 ++ leBytes 0 2 ++ leBytes x.version.toNat 4 ++ leBytes x.bodyBytes 4
    ++ leBytes 0 48

/-- What the signature is over. -/
def Image.message (x : Image) : List Byte := x.header ++ x.body

/-- The bytes of an image. -/
def Image.size (x : Image) : Nat := imageHeader + x.bodyBytes + 2 * keyBytes

/-- Is the header that of an image of this KIND? -/
def Image.headerOk (x : Image) (kind : Nat) : Bool :=
  decide (x.magic = imageMagic ∧ x.kind = kind ∧ x.body.length = x.bodyBytes ∧ x.modulus.length = keyBytes)

/-- Does the modulus hash to the vendor key hash that is fixed in ROM? -/
def Image.vendorKey (x : Image) : Bool := decide (Config.sha512 x.modulus = Config.sha512 Config.vendorModulus)

/-- Is the signature valid under the image's own modulus? -/
def Image.signatureOk (x : Image) : Bool :=
  decide (x.salt.length = saltBytes ∧ x.signature = Config.pssSignature x.modulus x.message x.salt)

/-- Does the signer's key stand: the vendor's by its hash, the operator's by `cert`, the key that the verified OPERATOR_CERT carries? -/
def Image.keyOk (x : Image) (cert : Option (List Byte)) : Bool :=
  if x.signer = 0 then x.vendorKey else decide (x.signer = 1) && decide (cert = some x.modulus)

/-- Is an image of this KIND verified? -/
def Image.verified (x : Image) (kind : Nat) (cert : Option (List Byte)) : Bool := x.headerOk kind && x.keyOk cert && x.signatureOk

/-- The signer that Table 16.3 names for a KIND: 0 vendor, 1 operator; IDENTITY has none, and a token either. -/
def kindSigner : Nat → Option Nat
  | 1 | 2 | 3 => some 0
  | 4 => some 1
  | _ => none

/-- The largest size of an image (Table 16.3). -/
def kindMax : Nat → Nat
  | 1 | 2 => 2 ^ 20
  | 3 | 6 => 2 ^ 11
  | 4 => 2 ^ 24
  | 5 => 2 ^ 16
  | _ => 0

/-! ### Banks (R543, R545) -/

/-- MAGIC and FORMAT of a bank header, and its bytes and those of an entry. -/
abbrev bankMagic : Nat := 0x4B4E4142
abbrev bankFormat : Nat := 1
abbrev bankHeaderBytes : Nat := 64
abbrev entryBytes : Nat := 16

/-- Bytes 0 to 59 of the bank header; those that R543 does not name are 0x00. -/
def BankImg.header (x : BankImg) : List Byte :=
  leBytes x.magic 4 ++ leBytes x.format 4 ++ leBytes x.bytes 4 ++ leBytes x.count 4 ++ leBytes 0 44

/-- Bytes of a bank of a memory with `c` bytes (R541). -/
def bankRoom (c : Nat) : Nat := (c - 2 ^ 22) / 2

/-- Does the bank header hold? -/
def BankImg.headerOk (x : BankImg) (c : Nat) : Bool :=
  decide (x.magic = bankMagic ∧ x.format = bankFormat ∧ x.bytes ≤ min (2 ^ 26) (bankRoom c) ∧ 4 ≤ x.count ∧ x.count ≤ 5
    ∧ x.count = x.entries.length) && decide (x.crc = crc32c x.header)

/-- The image of a KIND. -/
def BankImg.image (x : BankImg) (kind : Nat) : Option Image := (x.entries.find? (fun e => e.kind == kind)).map (·.image)

/-- Do two entries lie apart? -/
def BankEntry.apart (a b : BankEntry) : Bool := decide (a.offset + a.bytes ≤ b.offset ∨ b.offset + b.bytes ≤ a.offset)

/-- Do all entries lie apart, each with a KIND of its own? -/
def entriesApart : List BankEntry → Bool
  | [] => true
  | a :: l => l.all (fun b => a.apart b && decide (a.kind ≠ b.kind)) && entriesApart l

/-- Is every required image there, each KIND of Table 16.3 at most once, the entries within BANK_BYTES and apart, no image over its size
(Table 16.3; log entry 146), and each signed image within its entry? -/
def BankImg.entriesOk (x : BankImg) : Bool :=
  [1, 3, 4, 5].all (fun k => (x.image k).isSome)
    && x.entries.all (fun e => decide (1 ≤ e.kind ∧ e.kind ≤ 5 ∧ e.offset + e.bytes ≤ x.bytes ∧ e.bytes ≤ kindMax e.kind
      ∧ (e.kind = 5 ∨ e.image.size ≤ e.bytes)))
    && entriesApart x.entries

/-- The key that the verified OPERATOR_CERT carries: its body (log entry 146). -/
def BankImg.certKey (x : BankImg) : Option (List Byte) :=
  match x.image 3 with
  | some i => if i.signer = 0 ∧ i.verified 3 none then some i.body else none
  | none => none

/-- The signed images of a bank. -/
def BankImg.signed (x : BankImg) : List BankEntry := x.entries.filter (fun e => e.kind != 5)

/-- Does every vendor-signed image carry the vendor's key? -/
def BankImg.vendorOk (x : BankImg) : Bool := x.signed.all (fun e => decide (e.image.signer ≠ 0) || e.image.vendorKey)

/-- Is every signed image verified, by the signer of Table 16.3? -/
def BankImg.signaturesOk (x : BankImg) : Bool :=
  x.signed.all (fun e => decide (kindSigner e.kind = some e.image.signer) && e.image.verified e.kind x.certKey)

/-! ### CONFIG (R546) -/

/-- TYPEs of Table 16.4. -/
def recordTypes : List Nat := [1, 2, 3, 4, 5, 6, 7, 8]

/-- Is every required record there, none repeated, no TYPE unknown, and no value out of range: CHIP_ID up to 0xFFFE, at most 64 pairs of
MIDs? -/
def BankImg.configOk (x : BankImg) : Bool :=
  [1, 2, 3, 4, 5, 8].all (fun t => x.records.contains t) && x.records.all (fun t => recordTypes.contains t) && decide x.records.Nodup
    && decide (x.cfg.chipId ≠ 0xFFFF)
    && (match x.cfg.mbBind with
        | some l => x.records.contains 6 && decide (l.length ≤ 64) && l.all (fun p => decide (p.1 < 2 ^ 13 ∧ p.2 < 2 ^ 13))
        | none => !x.records.contains 6)
    && x.cfg.mgmtNet == x.records.contains 7

/-! ### The outcome (DOME_STATUS.BOOT_ERROR) -/

/-- BOOT_ERROR of a memory that is absent or unreadable, and of a bank header. -/
abbrev errMemory : Byte := 1
abbrev errHeader : Byte := 3

/-- The reason for which a bank of a memory with `c` bytes is not valid; 0 for a valid one (R545). The spec gives no order of the checks
(log entry 146). -/
def BankImg.error (x : BankImg) (c : Nat) : Byte :=
  if !x.headerOk c then errHeader
  else if !x.entriesOk then 6
  else if !x.vendorOk then 5
  else if !x.signaturesOk then 4
  else if !x.configOk then 7
  else 0

/-- VERSION of the image of a KIND; 0 if the bank holds none. -/
def BankImg.version (x : BankImg) (kind : Nat) : Word := ((x.image kind).map (·.version)).getD 0

/-- Segments of the TEST_PACK; 0 if none. -/
def BankImg.packSegments (x : BankImg) : Nat := if (x.image 2).isSome then x.segments else 0

/-- SHA-512 of an image's bytes; 0 if the bank holds none (Table 16.7). -/
def BankImg.digest (x : BankImg) (kind : Nat) : Nat :=
  match x.image kind with
  | some i => Config.sha512 (i.message ++ i.modulus ++ leBytes i.signature keyBytes)
  | none => 0

/-! ### The bank image that the Dome builds (R552, R556; log entry 146) -/

/-- The bytes that an image takes in a bank. -/
def BankEntry.room (e : BankEntry) : Nat := if e.kind = 5 then e.bytes else e.image.size

/-- The entries laid out one after another from an offset. -/
def layOut : Nat → List BankEntry → List BankEntry
  | _, [] => []
  | o, e :: l => { e with offset := o, bytes := e.room } :: layOut (o + e.room) l

/-- A bank with these images, its header written by the Dome. -/
def BankImg.build (x : BankImg) (l : List BankEntry) : BankImg :=
  let start := bankHeaderBytes + entryBytes * l.length
  let y := { x with
    magic := bankMagic
    format := bankFormat
    bytes := start + (l.map BankEntry.room).sum
    count := l.length
    entries := layOut start l }
  { y with crc := crc32c y.header }

/-- Entries of some kinds. -/
def BankImg.ofKinds (x : BankImg) (ks : List Nat) : List BankEntry := x.entries.filter (fun (e : BankEntry) => ks.contains e.kind)

/-- The kinds that a STAGE of this KIND supplies. -/
def stageKinds : Nat → List Nat
  | 0 => [1, 2, 3, 4]
  | 1 => [1]
  | 2 => [2]
  | _ => [3, 4]

/-- The bank that a STAGE builds: the supplied images in place of their kinds, every other one from the active bank (a bank image may
come without a TEST_PACK). -/
def stagedBank (kind : Nat) (new active : BankImg) : BankImg :=
  let ks := if kind = 0 ∧ new.image 2 = none then [1, 3, 4] else stageKinds kind
  let cfg := if ks.contains 4 then new else active
  let pack := if ks.contains 2 then new else active
  { active with records := cfg.records, cfg := cfg.cfg, segments := pack.segments }.build
    (new.ofKinds ks ++ active.entries.filter (fun (e : BankEntry) => !ks.contains e.kind))

/-- A received bank image with the IDENTITY of a bank whose IDENTITY unwraps (R552). -/
def recoveredBank (x a b : BankImg) : BankImg :=
  if a.identity || b.identity then
    { x with identity := true }.build (x.ofKinds [1, 2, 3, 4] ++ (if a.identity then a else b).ofKinds [5])
  else { x with identity := false }

end Sys2Proof.Machine
end

