-- ==== Sys2Proof/Machine/Recompute.lean ====
section
/-! DEFINITION. The recompute of a pass on a referee (R512, R515, R516): what the referee's array makes of the original's store, by the
functions of the array itself. -/

namespace Sys2Proof.Machine

open Sys2Proof

/-- A recompute so far: the pass as the referee has it, whether a check of the referee's own has disagreed, and the array side of the
comparison that failed on the original, with its inexact terms. -/
structure Redo where
  pass    : Pass
  own     : Bool
  side    : Int
  inexact : Nat

/-- A word of the original's store as the referee reads it: 0 where the read is lost, or the word poisoned (log entry 149). -/
def redoWord (m : Mem) (x : RecomputeResult) (a : Nat) : Nat :=
  if x.lost.contains a || m.poisonedAt a then 0 else m.readLE a 32

/-- Words as one little-endian number. -/
def redoWords (rd : Nat → Nat) (l : List Nat) : Nat := l.foldr (fun a n => rd a + 2 ^ 256 * n) 0

/-- The plane that the referee loads. -/
def PassDesc.redoPlane (d : PassDesc) (rd : Nat → Nat) : Plane where
  rows := (List.range d.tileRows).foldl (fun t i =>
    t.set 0 i (BitVec.ofNat 2048 (redoWords rd (wordsOf (d.tileAddr + 256 * i) (32 * d.rowWords))))) Tab.empty
  side := d.sideOrder.foldl (fun t m => t.set 0 m (BitVec.ofNat 256 (rd (d.sideAddr + 32 * m)))) Tab.empty

/-- Input vector `j`. -/
def PassDesc.redoVector (d : PassDesc) (rd : Nat → Nat) (j : Nat) : VecIn where
  index := j
  elems := redoWords rd (wordsOf (d.xAddr + j * d.xStride) d.xBytes)
  scales := if fmtMx d.fmtX && decide (0 < d.k) then rd (d.xsAddr + j * d.xsStride) else 0
  inits := if d.init = 2 then
      d.longRuns.foldl (fun n run =>
        n + redoWords rd (wordsOf (d.initAddr + j * d.initStride + run.1) run.2) % 2 ^ (8 * run.2) * 2 ^ (8 * run.1)) 0
    else 0
  at_ := 0

/-- The upset of a vector. -/
def RecomputeResult.upset (x : RecomputeResult) (j : Nat) : ArrayUpset := ((x.upsets.find? (fun p => p.1 == j)).map (·.2)).getD .none

/-- Does a part of a vector's check fail on the referee? -/
def redoFails (p : Pass) (v : VecIn) (r : VecResult) (u : ArrayUpset) (im : Bool) : Bool :=
  !withinHalfUnits p.desc.wexp (checkDiff p.desc.wexp (r.net p.desc im) (checkColumn p v u im)) (if im then r.inexIm else r.inexRe)

/-- The next vector of a recompute, with its check. -/
def redoStep (rd : Nat → Nat) (x : RecomputeResult) (f : RefSide) (z : Redo) (j : Nat) : Redo :=
  let p := z.pass
  let d := p.desc
  let v := d.redoVector rd j
  let u := x.upset j
  let r := vecResult p v u
  let q := addInputs d v.elems v.scales p
  let here := !f.row && decide (f.vector = j)
  { pass := { q with
      inexactRe := q.inexactRe + r.inexRe, inexactIm := q.inexactIm + r.inexIm, clamped := q.clamped + r.clamped
      totalRe := q.totalRe + r.net d false, totalIm := q.totalIm + r.net d true
      inDigest := d.vectorDigest v q.inDigest, longDigest := longDigestOf r.vals q.longDigest }
    own := z.own || (decide (r.clamped = 0) &&
      (redoFails p v r u false || (decide (fmtGroup d.fmtW = 3) && redoFails p v r u true)))
    side := if here then d.partSum f.imag r.vals else z.side
    inexact := if here then (if f.imag then r.inexIm else r.inexRe) else z.inexact }

/-- The whole recompute of descriptor `d`, at `addr`, from a store; the array side is that of the comparison `f`. -/
def redo (m : Mem) (d : PassDesc) (addr : Nat) (x : RecomputeResult) (f : RefSide) : Redo :=
  let rd := redoWord m x
  let plane := d.redoPlane rd
  let q : QueuedPass := ⟨d, addr, 0, false, 0⟩
  let p0 := q.start 0 0 0
  let p := { p0 with plane := plane, inDigest := d.planeDigest plane p0.inDigest }
  let z := (List.range d.v).foldl (redoStep rd x f) ⟨p, false, 0, 0⟩
  let row := decide (z.pass.clamped = 0) &&
    ((rowDiff z.pass x.row false).isSome || (decide (fmtGroup d.fmtW = 3) && (rowDiff z.pass x.row true).isSome))
  { z with
    own := z.own || row
    side := if f.row then (if f.imag then z.pass.totalIm else z.pass.totalRe) else z.side
    inexact := if f.row then (if f.imag then z.pass.inexactIm else z.pass.inexactRe) else z.inexact }

/-- Does the referee's array side lie within the bound of ref (R512)? -/
def Redo.bound (z : Redo) (f : RefSide) : Bool :=
  withinHalfUnits z.pass.desc.wexp (checkDiff z.pass.desc.wexp (z.side - f.inits) f.column) z.inexact

/-- Does the referee's input digest, and its long digest, match the pass's? -/
def Redo.inputSame (z : Redo) (p : ReleaseRec) : Bool := z.pass.inDigest == p.inDigest
def Redo.longSame (z : Redo) (p : ReleaseRec) : Bool := z.pass.longDigest == p.longDigest

/-- The recompute `r` of this window. The referee reads a disputed pass's descriptor from the original's store (R511); a shadow's is the
release record's (R515). -/
def State.redoOf (s : State) (r : Recompute) (x : RecomputeResult) (f : RefSide) : Redo :=
  let m := (s.spire r.original).store
  let a := r.pass.addr
  let d := if r.shadow then r.pass.desc else decodeDesc (redoWords (redoWord m x) [a, a + 32])
  redo m d a x f

/-- The CCLK in which a recompute's outcome takes effect: the one after the verdict, which stands 16 CCLK after the release (R513). -/
def Recompute.due (r : Recompute) : Nat := r.start + r.pass.desc.worstLength + 16

end Sys2Proof.Machine
end

