-- ==== Sys2Proof/Machine/Reliability.lean ====
section
/-! DEFINITION. The reliability block (15): the test window with its visits, recomputes and shadows, liveness of chips, the
expulsion governor, margins, fatal errors and the dump. -/

namespace Sys2Proof.Machine

open Sys2Proof

/-- Change the reliability block. -/
def State.modRel (s : State) (f : RelState → RelState) : State := { s with rel := f s.rel }

/-- CCLK ticks of the root in a second. -/
def tickSecond : Nat := 1700000000

/-! ### Visits (R508) -/

/-- Can a test segment run on Spire `k`: in service (so not fenced), its domain on? -/
def State.testable (s : State) (k : Nat) : Bool := s.inService k && s.domainOn (k / 2)

/-- The 32 Spires in ascending cyclic order from `n`. -/
def spiresFrom (n : Nat) : List Nat := (List.range 32).map (fun i => (n + i) % 32)

/-- Spires that a rotation from `n` passes over because their domains are gated. -/
def State.passes (s : State) : List Nat :=
  ((spiresFrom s.rel.rotation).takeWhile (fun k => !s.testable k)).filter s.inService

/-- A visit that has begun goes on while its Spire can be tested. -/
def State.visitGoesOn (s : State) : Option Visit := s.rel.visit.filter (fun v => s.testable v.spire)

/-- The current or next visit (R508): the one in progress, a confirmation visit in the order of requests, a rotation visit
owed since a domain was gated, the next rotation visit. -/
def State.nextVisit (s : State) : Option Visit :=
  match s.visitGoesOn with
  | some v => some v
  | none =>
    match s.rel.confirmQueue.find? s.testable with
    | some k => some ⟨k, 0, true, false⟩
    | none =>
      match s.rel.passedOver.find? s.testable with
      | some k => some ⟨k, 0, false, false⟩
      | none => ((spiresFrom s.rel.rotation).find? s.testable).map (fun k => ⟨k, 0, false, false⟩)

/-- A rotation visit that ends early because its Spire's domain was gated is owed. -/
def dropVisit (s : State) : State :=
  match s.rel.visit with
  | some v =>
    if s.testable v.spire then s
    else
      let owed := if !v.confirm && s.inService v.spire && !s.rel.passedOver.contains v.spire then
          s.rel.passedOver ++ [v.spire] else s.rel.passedOver
      s.modRel (fun r => { r with visit := none, passedOver := owed })
  | none => s

/-- The rotation moves past a Spire that it visits. -/
def rotateTo (k : Nat) (s : State) : State :=
  if s.rel.passedOver.contains k then s.modRel (fun r => { r with passedOver := r.passedOver.filter (· != k) })
  else
    let passed := s.passes.filter (fun x => !s.rel.passedOver.contains x)
    s.modRel (fun r => { r with rotation := (k + 1) % 32, passedOver := r.passedOver ++ passed })

/-- The test segment of this window. -/
def chooseSegment (s : State) : State :=
  let s := dropVisit s
  if !s.rel.packLoaded then s
  else match s.nextVisit with
    | none => s
    | some v =>
      let fresh := s.rel.visit.isNone
      let s1 := if fresh && !v.confirm then rotateTo v.spire s else s
      s1.modRel (fun r => { r with visit := some v, segment := some v.spire })

/-- The last segment of a visit is done (R509, R517 to R520). The −200 changes that wait for a passed confirmation visit
follow it. -/
def visitDone (v : Visit) (s : State) : State :=
  let k := v.spire
  let s1 := s.modRel (fun r => { r with visit := none, confirmQueue := if v.confirm then r.confirmQueue.filter (· != k) else r.confirmQueue })
  let s2 := s1.modRelCounters (fun c => { c with visits := satInc c.visits })
  if v.failed then
    let s3 := (s2.modRelCounters (fun c => { c with visitsFailed := satInc c.visitsFailed })).modHealth k
      (fun h => { h with last := 7, confirm := h.confirm && !v.confirm })
    let job := (s.spire k).ctx.jobId
    fenceByRel k (errRecord 7 3 k (s.jobLease job) 0 job 0 s3)
  else
    let s3 := changeScore k 25 (s2.modHealth k (fun h => { h with last := 6 }))
    if !v.confirm then s3
    else
      let n := (s3.healthOf k).deduct
      let s4 := s3.modHealth k (fun h => { h with quarantined := false, confirm := false, deduct := 0 })
      let s5 := if n = 0 then s4 else changeScore k (-200 * (n : Int)) s4
      if (s5.spire k).seq.mode = .faulted then returnSpire k s5 else s5

/-- Bits of BANK_S that a test segment leaves are zeroed, but on a radio-owned and on a reclaimed Spire (R505, R506). -/
def zeroShadowBank (k : Nat) (s : State) : State :=
  if s.role k = .radioOwned || (s.spire k).seq.reclaim then s
  else s.modVu k (fun v => { v with bankS := Bank.reset })

/-- TEST_SEGMENT_COMPLETE: `differs` says that a signature of the segment differs from its expected value. -/
def testSegmentComplete (differs : Bool) (s : State) : State :=
  match s.rel.segment, s.rel.visit with
  | some k, some v =>
    let s1 := zeroShadowBank k (s.modRel (fun r => { r with segment := none }))
    let w : Visit := { v with segment := v.segment + 1, failed := v.failed || differs }
    if w.segment < s.rel.segments then s1.modRel (fun r => { r with visit := some w }) else visitDone w s1
  | _, _ => s

def execTestSegmentComplete (differs : Bool) (s : State) : Host.Outcome State Fault Refusal :=
  .next (testSegmentComplete differs s)

/-! ### Referees and verdicts (R510 to R514) -/

/-- The Spires after `k` in ascending cyclic order within its Tower. -/
def towerAfter (k : Nat) : List Nat := (List.range 7).map (fun i => k / 8 * 8 + (k % 8 + i + 1) % 8)

/-- May Spire `r` be a referee in this window (R511)? A reclaimed Spire takes part as a radio-owned one does (R506), so it is
none either (DEDUCED, log entry 38). -/
def State.refereeOk (s : State) (r : Nat) : Bool :=
  let m := (s.spire r).seq.mode
  s.inService r && s.role r ≠ .radioOwned && !(s.spire r).seq.reclaim && m ≠ .faulted && m ≠ .fenced
  && !(s.healthOf r).quarantined && s.domainOn (r / 2) && decide (s.rel.segment ≠ some r)

/-- The referee of Spire `k`'s passes. -/
def State.referee (s : State) (k : Nat) : Option Nat := (towerAfter k).find? s.refereeOk

/-- Verdicts on a disputed pass (Table 15.3). -/
inductive Verdict where
  | checker | array | none_ | noReferee
  deriving DecidableEq, Repr

/-- OUTCOME of the error record (Table 15.5): NO_REFEREE quarantines a Spire. -/
def Verdict.outcome : Verdict → Nat
  | .checker => 7
  | .array => 8
  | .none_ => 9
  | .noReferee => 2

/-- LAST of REL_SPIRE_s. -/
def Verdict.last : Verdict → BitVec 3
  | .checker => 1
  | .array => 2
  | .none_ => 3
  | .noReferee => 4

/-- Count a verdict. -/
def Verdict.count (v : Verdict) (c : RelCounters) : RelCounters :=
  match v with
  | .checker => { c with vChecker := satInc c.vChecker }
  | .array => { c with vArray := satInc c.vArray }
  | .none_ | .noReferee => { c with vNone := satInc c.vNone }

/-- The held pass of Spire `k` is released (R140): the Spire replays what the disagreement took from the array. -/
def releaseHeld (k : Nat) (s : State) : State :=
  match (s.spire k).arr.passes with
  | [] => s
  | p :: rest =>
    let s1 := s.modArr k (fun a => { a with
      passes := { p with held := false, failed := false } :: rest, verdictWait := false })
    let s2 := releaseFirst k s1
    if (s2.spire k).seq.replay.isEmpty then endReplay k s2
    else
      replayIssue k (s2.cyc + 1) (s2.modSeq k (fun q => { q with
        mode := if q.mode = .running then .replay else q.mode }))

/-- The held pass of Spire `k` is abandoned and its job ends on every Spire (R457). -/
def endHeld (d : Dispute) (status : Nat) (s : State) : State :=
  match (s.spire d.spire).arr.passes with
  | [] => s
  | p :: _ =>
    let s1 := dropHeld d.spire p s
    if d.job = 0 then s1 else endJob d.job status 0 0 d.spire (enterEnding d.spire s1)

/-- Quarantine a Spire after the job that holds it, or now if none does (Table 15.3). -/
def quarantineLater (k : Nat) (s : State) : State :=
  if (s.spire k).ctx.jobId = 0 then quarantine k s
  else s.modRel (fun r => { r with quarAfter := if r.quarAfter.contains k then r.quarAfter else r.quarAfter ++ [k] })

/-- A verdict with its outcome (R513, Table 15.3). A dispute that a stop has ended changes only scores, quarantines and fences
(R534). -/
def verdict (v : Verdict) (d : Dispute) (ref : Option Nat) (s : State) : State :=
  let k := d.spire
  let s1 := ((disputeRecord v.outcome d s).modRelCounters v.count).modHealth k (fun h => { h with last := v.last })
  let s2 := dropDispute k s1
  match v with
  | .checker => changeScore k (-100) (quarantineLater k (if d.stopped then s2 else releaseHeld k s2))
  | .array => fenceByRel k (if d.stopped then s2 else endHeld d stFault s2)
  | .none_ =>
    let s3 := fenceByRel k (if d.stopped then s2 else endHeld d stUnusable s2)
    match ref with
    | some r => changeScore r (-300) (quarantine r s3)
    | none => s3
  | .noReferee => quarantine k (if d.stopped then s2 else endHeld d stUnusable s2)

/-- A referee whose own checks disagreed is quarantined (R512, R516); its record is a VOID. -/
def voidReferee (r : Nat) (s : State) : State := quarantine r (errRecord 3 10 r 0 0 0 0 s)

/-- Attempts after which a dispute has no referee (R512). -/
def maxAttempts : Nat := 4

/-- A VOID attempt. -/
def voidAttempt (d : Dispute) (s : State) : State :=
  let s1 := s.modRelCounters (fun c => { c with voids := satInc c.voids })
  if d.stopped then dropDispute d.spire (disputeRecord 2 d s1)
  else if maxAttempts ≤ d.attempts + 1 then verdict .noReferee d none s1
  else
    let tried (x : Dispute) : Dispute := if x.spire = d.spire then { x with attempts := x.attempts + 1 } else x
    s1.modRel (fun r => { r with disputes := r.disputes.map tried })

/-- The recompute of Tower `t` whose result has not come. -/
def State.runningRecompute (s : State) (t : Nat) (shadow : Bool) : Option Recompute :=
  s.rel.recomputes.find? (fun r => r.tower == t && r.shadow == shadow && !r.done)

/-- The result of a recompute has come; its referee stays one until the window ends (R534). -/
def recomputeDone (r : Recompute) (s : State) : State :=
  let mark (z : Recompute) : Recompute := if z = r then { z with done := true } else z
  s.modRel (fun y => { y with recomputes := y.recomputes.map mark })

/-- RECOMPUTE_COMPLETE of Tower `t`, from the CCLK in which its outcome takes effect (R513): the referee's recompute is judged
(R512). -/
def recomputeComplete (t : Nat) (x : RecomputeResult) (s : State) : State :=
  match s.runningRecompute t false with
  | none => s
  | some r =>
    if s.cyc < r.due then s
    else
      let s2 := recomputeDone r s
      match s.disputeOf r.original with
      | none => s2
      | some d =>
        let z := s.redoOf r x d.ref
        if z.own then voidAttempt d (voidReferee r.referee s2)
        else if !z.inputSame r.pass then voidAttempt d s2
        else if z.longSame r.pass then verdict .checker d (some r.referee) s2
        else if z.bound d.ref then verdict .array d (some r.referee) s2
        else verdict .none_ d (some r.referee) s2

def execRecomputeComplete (tower : Nat) (result : RecomputeResult) (s : State) : Host.Outcome State Fault Refusal :=
  .next (recomputeComplete tower result s)

/-! ### Shadow recompute (R515, R516) -/

/-- A shadow recompute is AGREE, VOID or MISMATCH (R516). -/
def shadowOutcome (r : Recompute) (z : Redo) (s : State) : State :=
  if z.own || !z.inputSame r.pass then
    let s2 := s.modRelCounters (fun c => { c with shadowVoid := satInc c.shadowVoid })
    if z.own then voidReferee r.referee s2 else s2
  else if z.longSame r.pass then s
  else
    let s2 := s.modRelCounters (fun c => { c with shadowMismatch := satInc c.shadowMismatch })
    let s3 := errRecord 4 11 r.original (s.jobLease r.pass.job) r.pass.tag r.pass.job 0 s2
    [r.original, r.referee].foldl (fun u k =>
      changeScore k (-300) (quarantine k (u.modHealth k (fun h => { h with last := 5 })))) s3

/-- SHADOW_RECOMPUTE_COMPLETE of Tower `t`. -/
def shadowRecomputeComplete (t : Nat) (x : RecomputeResult) (s : State) : State :=
  match s.runningRecompute t true with
  | none => s
  | some r =>
    if s.cyc < r.due then s
    else
      shadowOutcome r (s.redoOf r x ⟨false, false, 0, 0, 0⟩)
        ((recomputeDone r s).modRelCounters (fun c => { c with shadowRun := satInc c.shadowRun }))

def execShadowRecomputeComplete (tower : Nat) (result : RecomputeResult) (s : State) : Host.Outcome State Fault Refusal :=
  .next (shadowRecomputeComplete tower result s)

/-! ### The test window (R501, R504) -/

/-- Is plan time inside the test window, with test windows in force (R501)? -/
def State.inTestWindow (s : State) : Bool :=
  let p := s.clock.plan
  s.rel.testEnable && s.pwr.mode = .run && s.hasPlan && s.stepImage.isSome
  && decide (s.rel.testStart.toNat ≤ p ∧ p < s.rel.testStart.toNat + s.rel.testLen.toNat)

/-- The held pass of a dispute, if it waits for its recompute. -/
def State.heldPass (s : State) (d : Dispute) : Option Pass :=
  if d.stopped then none else (s.spire d.spire).arr.passes.head?.filter (·.held)

/-- The CCLK in which a recompute of this window starts: 16 CCLK of entry, 3 to accept the descriptor (R502). -/
def State.redoStart (s : State) : Nat := s.cyc - (s.clock.plan - s.rel.testStart.toNat) + 19

/-- Disputes of Tower `t`, lower-numbered originals first. -/
def State.towerDisputes (s : State) (t : Nat) : List Dispute :=
  (tileRange (8 * t) 8).filterMap (fun k => (s.disputeOf k).filter (fun d => (s.heldPass d).isSome))

/-- A recompute of this window. -/
def addRecompute (x : Recompute) (s : State) : State := s.modRel (fun r => { r with recomputes := r.recomputes ++ [x] })

/-- The recompute of Tower `t` in this window (R504, R512, R515, R534): disputes without a referee end; the first with one is
recomputed; else the Tower's shadow pass, which a dispute or the want of a referee drops. -/
def chooseRecompute (s : State) (t : Nat) : State :=
  let ds := s.towerDisputes t
  let s1 := (ds.filter (fun d => (s.referee d.spire).isNone)).foldl (fun u d => verdict .noReferee d none u) s
  let run := ds.find? (fun d => (s.referee d.spire).isSome)
  let s2 := match run.bind (fun d => (s.heldPass d).map (fun p => (d, p))) with
    | some (d, p) =>
      addRecompute ⟨t, d.spire, (s.referee d.spire).getD 0, false, false, p.record d.job, s.redoStart⟩ s1
    | none => s1
  match s2.rel.shadow.get none t with
  | none => s2
  | some k =>
    let s3 := s2.modRel (fun r => { r with shadow := r.shadow.set none t none })
    if !s.rel.shadowEnable then s3
    else
      match run, s.referee k, s.rel.records.get none k with
      | none, some x, some p => addRecompute ⟨t, k, x, true, false, p, s.redoStart⟩ s3
      | _, _, _ => s3.modRelCounters (fun c => { c with shadowSkipped := satInc c.shadowSkipped })

/-- TEST_WINDOW_START: every Spire enters its window; the segment and the recomputes of the window are chosen. -/
def testWindowStart (s : State) : State :=
  if s.inTestWindow && !s.rel.testActive then
    let s1 := (List.range 32).foldl (fun t k => windowStart k t) s
    let s2 := s1.modRel (fun r => { r with testActive := true, segment := none, recomputes := [] })
    (List.range 4).foldl chooseRecompute (chooseSegment s2)
  else s

def execTestWindowStart (s : State) : Host.Outcome State Fault Refusal := .next (testWindowStart s)

/-- Disputes that a stop has ended, and whose recompute gave no verdict, go. -/
def dropStopped (s : State) : State :=
  (s.rel.disputes.filter (·.stopped)).foldl (fun u d => dropDispute d.spire (disputeRecord 2 d u)) s

/-- TEST_WINDOW_END: the Spires switch back, and fences that waited for the window are issued (R534). -/
def testWindowEnd (s : State) : State :=
  if s.rel.testActive && !s.inTestWindow then
    let late := s.rel.fenceAfter
    let s1 := (dropStopped s).modRel (fun r => { r with
      testActive := false, segment := none, recomputes := [], fenceAfter := [] })
    late.foldl (fun t k => fenceSpire k t) ((List.range 32).foldl (fun t k => windowEnd k t) s1)
  else s

def execTestWindowEnd (s : State) : Host.Outcome State Fault Refusal := .next (testWindowEnd s)

/-! ### Settings (R502, R515, R535) -/

/-- LAST_STATUS of REL_STATUS. -/
def relStatus (st : Nat) (s : State) : State := s.modRel (fun r => { r with lastStatus := BitVec.ofNat 8 st })

/-- May the test settings be written: in BOOT and TIME_ACQUIRE? -/
def State.testSettable (s : State) : Bool := s.clk.chipState = .boot || s.clk.chipState = .timeAcquire

/-- Limits of TEST_START and TEST_LEN (R502). -/
def testLimits (start len : Nat) : Bool := decide (4420 ≤ len ∧ len ≤ 16000 ∧ start + len ≤ planEnd)

/-- REL_TEST_CFG_WRITE. -/
def relTestCfgWrite (mid v : Nat) (s : State) : State :=
  if mid ≠ 0 then s
  else if !s.testSettable then relStatus stConflict s
  else if !testLimits (field v 19 0) s.rel.testLen.toNat then relStatus stBadArg s
  else relStatus stOk (s.modRel (fun r => { r with testEnable := bitAt v 31, testStart := BitVec.ofNat 20 v }))

def execRelTestCfgWrite (mid : Nat) (v : Word) (s : State) : Host.Outcome State Fault Refusal :=
  .next (bar0Row mid 0x3C0004 v (relTestCfgWrite mid v.toNat) s)

/-- REL_TEST_LEN_WRITE. -/
def relTestLenWrite (mid v : Nat) (s : State) : State :=
  if mid ≠ 0 then s
  else if !s.testSettable then relStatus stConflict s
  else if !testLimits s.rel.testStart.toNat (field v 15 0) then relStatus stBadArg s
  else relStatus stOk (s.modRel (fun r => { r with testLen := BitVec.ofNat 16 v }))

def execRelTestLenWrite (mid : Nat) (v : Word) (s : State) : Host.Outcome State Fault Refusal :=
  .next (bar0Row mid 0x3C0008 v (relTestLenWrite mid v.toNat) s)

/-- REL_SHADOW_CFG, written under R502; SHADOW_K runs from 8 to 30. -/
def relShadowCfgWrite (mid v : Nat) (s : State) : State :=
  if mid ≠ 0 then s
  else if !s.testSettable then relStatus stConflict s
  else if field v 4 0 < 8 ∨ 30 < field v 4 0 then relStatus stBadArg s
  else relStatus stOk (s.modRel (fun r => { r with shadowEnable := bitAt v 31, shadowK := BitVec.ofNat 5 v }))

/-! ### Chip score, liveness, the governor (R521 to R527) -/

/-- The chip score (R521). -/
def State.chipScore (s : State) : Nat :=
  let sum := (List.range 32).foldl (fun n k => n + (s.healthOf k).score) 0
  let failed := ((List.range 64).filter (fun n => decide ((s.lane n).regs.state = .failed))).length
  min 1000 (sum / 32 - 20 * failed)

/-- Change the governor. -/
def State.modGov (s : State) (f : Governor → Governor) : State := s.modRel (fun r => { r with gov := f r.gov })

/-- The score by which the governor judges a chip (R526). -/
def State.govScore (s : State) (chip : Nat) : Nat :=
  if chip = s.chipId then s.rel.chipHealth.toNat else (s.rel.live.get Liveness.reset chip).health

/-- The chips that can be candidates: this chip, and its lane partners that are not lost. -/
def State.govChips (s : State) : List Nat :=
  ascending (s.chipId :: s.partners.filter (fun c => decide (c ≠ s.chipId) && !s.rm.lost.contains c))

/-- Is a chip's score at most 1,000 − D? -/
def State.isCandidate (s : State) (chip : Nat) : Bool := decide (s.govScore chip + s.rel.gov.d.toNat ≤ 1000)

/-- One token, in 1/256 token. -/
def tokenUnit : Nat := 256

/-- An expulsion recommendation, with a token (R526). -/
def recommend (chip : Nat) (s : State) : State :=
  errRecord 0 13 chip 0 0 0 0 (s.modGov (fun g => { g with
    tokens := g.tokens - tokenUnit, fullSince := none, recs := satInc g.recs
    suspects := g.suspects.filter (· != chip) }))

/-- At a change of D the suspects are evaluated again, in ascending chip ID (R527). -/
def recheckSuspects (s : State) : State :=
  (ascending s.rel.gov.suspects).foldl (fun t c =>
    if !(t.govChips.contains c && t.isCandidate c) then
      t.modGov (fun g => { g with suspects := g.suspects.filter (· != c), candidates := g.candidates.filter (· != c) })
    else if tokenUnit ≤ t.rel.gov.tokens then recommend c t
    else t) s

/-- A chip becomes a candidate (R526). -/
def newCandidate (s : State) (chip : Nat) : State :=
  if tokenUnit ≤ s.rel.gov.tokens then recommend chip s
  else
    let d := min 950 (s.rel.gov.d.toNat + s.rel.gov.step.toNat)
    let s1 := s.modGov (fun g => { g with
      suspects := if g.suspects.contains chip then g.suspects else g.suspects ++ [chip] })
    if d ≤ s.rel.gov.d.toNat then s1 else recheckSuspects (s1.modGov (fun g => { g with d := BitVec.ofNat 10 d }))

/-- The governor looks at every chip, at each period start (log entry 39). -/
def governorStep (s : State) : State :=
  s.govChips.foldl (fun t c =>
    if t.isCandidate c then
      if t.rel.gov.candidates.contains c then t
      else newCandidate (t.modGov (fun g => { g with candidates := g.candidates ++ [c] })) c
    else t.modGov (fun g => { g with candidates := g.candidates.filter (· != c) })) s

/-- A period start: the chip score, then the governor. -/
def healthPeriod (s : State) : State :=
  governorStep (s.modRel (fun r => { r with chipHealth := BitVec.ofNat 10 s.chipScore }))

/-- CHIP_LOST_DECLARATION (R522). -/
def chipLostDeclaration (chip : Nat) (s : State) : State :=
  if s.clk.chipState = .ready && s.stepImage.isSome && s.partners.contains chip && decide (chip ≠ s.chipId)
      && decide (8 ≤ (s.rel.live.get Liveness.reset chip).silent) && !s.rm.lost.contains chip then declareLost chip s
  else s

def execChipLostDeclaration (chip : Nat) (s : State) : Host.Outcome State Fault Refusal :=
  .next (chipLostDeclaration chip s)

/-- CHIP_RETURN (R524). -/
def chipReturn (chip : Nat) (s : State) : State :=
  if s.rm.lost.contains chip && s.partners.contains chip && decide (16 ≤ (s.rel.live.get Liveness.reset chip).goodRun) then
    declareReturn chip s
  else s

def execChipReturn (chip : Nat) (s : State) : Host.Outcome State Fault Refusal := .next (chipReturn chip s)

/-- CCLK ticks of an hour. -/
def tickHour : Nat := 3600 * tickSecond

/-- Tokens earned since the last refill (R526), up to BURST; what is short of 1/256 token is carried. -/
def Governor.refill (now : Nat) (g : Governor) : Governor :=
  let earned := g.rate.toNat * (now - g.lastTick) + g.carry
  let cap := g.burst.toNat * tokenUnit
  let n := g.tokens + earned / tickHour
  if cap ≤ n then
    { g with tokens := cap, carry := 0, lastTick := now, fullSince := some (g.fullSince.getD now) }
  else { g with tokens := n, carry := earned % tickHour, lastTick := now, fullSince := none }

/-- GOV_TOKEN_REFILL. -/
def govTokenRefill (s : State) : State := s.modGov (Governor.refill s.clock.tick)

def execGovTokenRefill (s : State) : Host.Outcome State Fault Refusal := .next (govTokenRefill s)

/-- GOV_LOWER_EXPIRY (R527). -/
def govLowerExpiry (s : State) : State :=
  match s.rel.gov.fullSince with
  | none => s
  | some t =>
    if t + s.rel.gov.lower.toNat * 60 * tickSecond ≤ s.clock.tick then
      let g := s.rel.gov
      let d := max g.dBase.toNat (g.d.toNat - g.step.toNat)
      let s1 := s.modGov (fun x => { x with fullSince := some s.clock.tick })
      if d < g.d.toNat then recheckSuspects (s1.modGov (fun x => { x with d := BitVec.ofNat 10 d })) else s1
    else s

def execGovLowerExpiry (s : State) : Host.Outcome State Fault Refusal := .next (govLowerExpiry s)

/-! ### Margins (R528, R529) -/

/-- What an alarm becomes at a reading: whether a record is written, whether the alarm stands, since when the reading has been
above the recovery level. -/
def alarmAt (low above : Bool) (now : Nat) (alarm : Bool) (since : Option Nat) : Bool × Bool × Option Nat :=
  if low then (!alarm, true, none)
  else if !alarm then (false, false, none)
  else if above then
    if tickSecond ≤ now - since.getD now then (false, false, none) else (false, true, some (since.getD now))
  else (false, true, none)

/-- PATH_MONITOR_SAMPLE: monitor `n` reports a slack in ps. -/
def pathMonitorSample (n slack : Nat) (s : State) : State :=
  let v := min slack 0xFFFF
  let at_ := s.rel.pmAlarmAt.toNat
  let p := s.rel.pm.get PathMon.reset n
  let (rings, alarm, since) := alarmAt (decide (v < at_)) (decide (at_ + 5 < v)) s.clock.tick p.alarm p.since
  let q : PathMon :=
    { seen := true, lowest := if p.seen then BitVec.ofNat 16 (min p.lowest.toNat v) else BitVec.ofNat 16 v
      latest := BitVec.ofNat 16 v, alarm := alarm, since := since, recent := some (min v (p.recent.getD v)) }
  let s1 := s.modRel (fun r => { r with pm := r.pm.set PathMon.reset n q })
  if rings then errRecord 12 12 n 0 0 0 v s1 else s1

def execPathMonitorSample (n slack : Nat) (s : State) : Host.Outcome State Fault Refusal :=
  .next (pathMonitorSample n slack s)

/-- OPTICAL_POWER_READ: the power of lane `n` in 0.1 dBm, or none without an optical engine. -/
def opticalPowerRead (n : Nat) (power : Option Int) (s : State) : State :=
  if !(s.lane n).regs.enable then s
  else match power with
    | none => s.modRel (fun r => { r with opt := r.opt.set OptPower.reset n OptPower.reset })
    | some x =>
      let at_ := toSigned 16 s.rel.optAlarmAt.toNat
      let p := s.rel.opt.get OptPower.reset n
      let (rings, alarm, since) := alarmAt (decide (x < at_)) (decide (at_ + 5 < x)) s.clock.tick p.alarm p.since
      let q : OptPower := ⟨true, alarm, BitVec.ofNat 16 (ofSigned 16 x), since⟩
      let s1 := s.modRel (fun r => { r with opt := r.opt.set OptPower.reset n q })
      if rings then errRecord 13 12 n 0 0 0 (ofSigned 32 x) s1 else s1

def execOpticalPowerRead (lane : Nat) (power : Option Int) (s : State) : Host.Outcome State Fault Refusal :=
  .next (opticalPowerRead lane power s)

/-- REL_PM_CLEAR. -/
def relPmClear (mid : Nat) (s : State) : State :=
  if 1 < mid then s
  else s.modRel (fun r => { r with
    pm := r.pm.modifyAll PathMon.reset (List.range 64) (fun _ p => { p with lowest := p.latest }) })

def execRelPmClear (mid : Nat) (s : State) : Host.Outcome State Fault Refusal :=
  .next (bar0Row mid 0x3C2104 1 (relPmClear mid) s)

/-- CORRECTION_SUMMARY (R499): a record with the corrections since the last one, if there were any. -/
def correctionSummary (s : State) : State :=
  if s.rel.corrections = 0 then s
  else errRecord 1 0 0 0 0 0 s.rel.corrections (s.modRel (fun r => { r with corrections := 0 }))

def execCorrectionSummary (s : State) : Host.Outcome State Fault Refusal := .next (correctionSummary s)

/-! ### Fatal errors and the dump (R531 to R533) -/

/-- ID_DEVICE (R7). -/
def idDevice : Nat := 0x96402000

/-- STATE of a dump. -/
abbrev dumpWriting : Byte := 1
abbrev dumpComplete : Byte := 2

/-- SEQ of the next dump. -/
def State.nextDump (s : State) : Nat :=
  match s.rel.dump with
  | some d => if d.state = dumpComplete then d.seq.toNat + 1 else 1
  | none => 1

/-- Write bytes at an offset of the dump region of Tower `t`. -/
def dumpWrite (t off : Nat) (l : List Byte) (s : State) : State :=
  s.modStack (6 * t + 5) (fun x => { x with mem := x.mem.writeBytes (dumpBase + off) l })

/-- FATAL_DUMP_COMPLETE: STATE = COMPLETE is written last, then the Dome resets the chip with CHIP_RESET_CMD. -/
def fatalDumpComplete (s : State) : State :=
  if !s.rel.fatal then s
  else
    match s.rel.dump with
    | some d =>
      if d.state = dumpWriting && !d.stopped then
        chipReset .chipResetCmd (dumpWrite d.tower 12 [dumpComplete] (s.modRel (fun r => { r with
          dump := some { d with state := dumpComplete } })))
      else chipReset .chipResetCmd s
    | none => chipReset .chipResetCmd s

def execFatalDumpComplete (s : State) : Host.Outcome State Fault Refusal := .next (fatalDumpComplete s)

/-- REL_DUMP_CLEAR (R533). -/
def relDumpClear (mid : Nat) (s : State) : State :=
  if 1 < mid then s
  else
    match s.rel.dump with
    | some d => dumpWrite d.tower 12 [0] (s.modRel (fun r => { r with dump := some { d with state := 0 } }))
    | none => s

def execRelDumpClear (mid : Nat) (s : State) : Host.Outcome State Fault Refusal :=
  .next (bar0Row mid 0x3C5000 1 (relDumpClear mid) s)

end Sys2Proof.Machine
end

