-- ==== Sys2Proof/Machine/HostPort.lean ====
section
/-! DEFINITION. Queue pairs, receive rings, doorbells, mailbox channels, CXL.mem and the CXL primary mailbox (14). -/

namespace Sys2Proof.Machine

open Sys2Proof

/-! ### Queue pairs (R470, R471, R476, R478) -/

/-- Do writes of a MID reach its function's rings? The Dome has none; those of a lease in reset are ignored (R481). -/
def State.ringsOpen (s : State) (mid : Nat) : Bool :=
  decide (1 ≤ mid ∧ mid ≤ 4096) && !(decide (mid ≠ 1) && (s.leaseOf (mid - 1)).resetting)

/-- Slots of a ring of 2^n. -/
def ringSize (log2 : BitVec 5) : Nat := 2 ^ log2.toNat

/-- A pair as it is set up by ENABLE: pointers at 0, the next record carries PHASE 1, no ERROR. -/
def Pair.start (p : Pair) : Pair :=
  { p with
    enable := true, sqTail := 0, sqHead := 0, cqHead := 0, cqTail := 0, error := false, phase := true, inProgress := []
    waiting := [], used := 0 }

/-- QP_CTRL_WRITE. -/
def qpCtrlWrite (mid qp v : Nat) (s : State) : State :=
  if s.ringsOpen mid then
    s.modPair (mid - 1) qp (fun p =>
      if bitAt v 0 then (if p.enable then p else p.start)
      else { p with enable := false, offAt := if p.enable then s.bclkTick + 1 else p.offAt })
  else s

def execQpCtrlWrite (mid qp : Nat) (v : Word) (s : State) : Host.Outcome State Fault Refusal :=
  .next (onBus (qpCtrlWrite mid qp v.toNat) s)

/-- Entries that lie between two pointers of a ring. -/
def ringDist (size a b : Nat) : Nat := (b + size - a % size) % size

/-- A pair or ring of function `f` is in ERROR: doorbell bit 31 (R478). -/
def ringError (f : Nat) (s : State) : State := ringFunc f 31 s

/-- Does a new SQ_TAIL break the ring's rules: at or above its size, or past its capacity? -/
def Pair.badTail (p : Pair) (v : Nat) : Bool :=
  let n := ringSize p.sqLog2
  decide (n ≤ v)
  || decide (n - 1 < ringDist n p.sqHead.toNat p.sqTail.toNat + ringDist n p.sqTail.toNat v)

/-- SQ_TAIL_WRITE. In the BCLK that clears ENABLE it has no effect (Table 14.7). The host's bad value is a host argument error: the pointer then holds a free value (R480, log entry 28). -/
def sqTailWrite (mid qp v : Nat) (s : State) : State :=
  let f := mid - 1
  let p := s.pair f qp
  let put (x : Nat) (t : State) : State := t.modPair f qp (fun y => { y with sqTail := BitVec.ofNat 16 x })
  if !s.ringsOpen mid || p.error then s
  else if !p.enable then (if p.offAt = s.bclkTick + 1 then s else put v s)
  else if p.badTail v then
    if f = 0 then (put (s.freeValue % ringSize p.sqLog2) s).useFree
    else ringError f (s.modPair f qp (fun y => { y with error := true }))
  else put v s

def execSqTailWrite (mid qp : Nat) (v : Word) (s : State) : Host.Outcome State Fault Refusal :=
  .next (onBus (sqTailWrite mid qp (v.toNat % 2 ^ 16)) s)

/-- CQ_HEAD_WRITE: slots up to the new head are released. -/
def cqHeadWrite (mid qp v : Nat) (s : State) : State :=
  if s.ringsOpen mid then
    s.modPair (mid - 1) qp (fun p =>
      let n := ringSize p.cqLog2
      { p with cqHead := BitVec.ofNat 16 v, used := p.used - ringDist n p.cqHead.toNat v })
  else s

def execCqHeadWrite (mid qp : Nat) (v : Word) (s : State) : Host.Outcome State Fault Refusal :=
  .next (onBus (cqHeadWrite mid qp (v.toNat % 2 ^ 16)) s)

/-- COMPLETION_RECORD_WRITE: the oldest waiting record goes to the next released slot, its PHASE word last (R476); bit `q` of
the function's doorbell is set. -/
def completionRecord (f q : Nat) (s : State) : State :=
  let p := s.pair f q
  let n := ringSize p.cqLog2
  match p.waiting with
  | [] => s
  | r :: rest =>
    if !p.enable || decide (n ≤ p.used) then s
    else
      let a := p.cqBase.toNat + 64 * p.cqTail.toNat
      let next := (p.cqTail.toNat + 1) % n
      let s1 := writeHost f (a + 60) (leBytes (b2n p.phase) 4) (writeHost f a (leBytes r.body.toNat 60) s)
      let s2 := s1.modPair f q (fun y => { y with
        waiting := rest, used := y.used + 1, cqTail := BitVec.ofNat 16 next, phase := if next = 0 then !y.phase else y.phase })
      ringFunc f q (countBelfry 0x1602 none 1 s2)

def execCompletionRecordWrite (func qp : Nat) (s : State) : Host.Outcome State Fault Refusal :=
  .next (completionRecord func qp s)

/-! ### Submission entries (R472, Table 14.3) -/

/-- The time AT of an entry, in units of 2^-32 ns. -/
def entryAt (e : List Byte) : Nat := unitsAt (bytesLE e 16 8) (bytesLE e 24 4)

/-- FIRST and COUNT. -/
def entryFirst (e : List Byte) : Nat := bytesLE e 8 4 % 2 ^ 24
def entryCount (e : List Byte) : Nat := bytesLE e 12 4

/-- Entries of a BOUNDARY list. -/
def boundaryList (l : List Byte) (n : Nat) : List TileRange :=
  (List.range n).map (fun i =>
    let x := bytesLE l (8 * i) 8
    ⟨field x 23 0, field x 40 24, field x 52 48⟩)

/-- The argument bits of each opcode, as (first byte, bytes, mask) triples; every other bit of bytes 8 to 63 is
reserved. -/
def entryFields (op : Nat) : List (Nat × Nat × Nat) :=
  match op with
  | 0x01 => [(8, 4, 0xFFFFFF), (12, 4, 0xFFFFFFFF), (16, 2, 0xFFFF), (18, 1, 0xFF), (19, 1, 0xFF), (20, 1, 1)]
  | 0x02 | 0x04 | 0x05 => [(8, 4, 0xFFFFFF), (12, 4, 0xFFFFFFFF)]
  | 0x03 => [(8, 4, 0xFFFFFF), (12, 4, 0xFFFFFFFF), (18, 1, 0xFF), (19, 1, 0xFF), (20, 1, 6)]
  | 0x06 => [(8, 4, 0xFFFFFF), (12, 4, 0xFFFFFFFF), (16, 8, 2 ^ 64 - 1)]
  | 0x07 => [(8, 4, 0xFFFFFF), (12, 4, 0xFFFFFFFF), (16, 2, 0xFFFF)]
  | 0x08 => [(8, 2, 0xFFFF), (10, 1, 0xFF), (11, 1, 0xFF), (16, 8, 2 ^ 64 - 1)]
  | 0x10 => [(8, 2, 0xFFFF), (10, 2, 0xFFFF), (12, 1, 0x37), (14, 2, 0xFFFF), (16, 4, 2 ^ 32 - 1), (24, 8, 2 ^ 64 - 1)]
  | 0x11 => [(8, 1, 15), (16, 8, 2 ^ 64 - 1), (24, 8, 2 ^ 64 - 1), (32, 8, 2 ^ 64 - 1)]
  | 0x20 => [(8, 4, 2 ^ 32 - 1), (12, 2, 0xFFFF), (16, 4, 2 ^ 32 - 1)]
  | 0x21 => [(8, 4, 2 ^ 32 - 1)]
  | 0x22 => [(8, 2, 0xFFFF), (12, 4, 2 ^ 32 - 1), (16, 8, 2 ^ 64 - 1), (24, 4, 2 ^ 32 - 1)]
  | 0x23 | 0x24 => [(8, 2, 0xFFFF)]
  | 0x30 => [(8, 1, 0xFF), (12, 4, 2 ^ 32 - 1), (28, 1, 0xFF)]
  | 0x31 => [(8, 1, 0xFF), (9, 1, 0xFF), (16, 8, 2 ^ 64 - 1), (24, 4, 2 ^ 32 - 1)]
  | 0x32 => [(9, 1, 0xFF), (16, 8, 2 ^ 64 - 1), (24, 4, 2 ^ 32 - 1)]
  | 0x33 => [(8, 1, 0xFF)]
  | 0x40 => [(32, 32, 2 ^ 256 - 1)]
  | 0x41 | 0x42 => [(8, 2, 0xFFFF), (16, 8, 2 ^ 64 - 1), (24, 4, 2 ^ 32 - 1)]
  | 0x43 => [(8, 2, 0xFFFF)]
  | 0x50 => [(8, 1, 0xFF), (9, 1, 1)]
  | 0x51 | 0x52 => [(8, 4, 0x3FFFFFFF)]
  | 0x53 => [(8, 1, 0xFF)]
  | 0x54 => [(8, 2, 0xFFFF)]
  | _ => []

/-- Are an entry's reserved bits 0? -/
def entryReservedOk (e : List Byte) : Bool :=
  let named := (entryFields (bytesLE e 0 1)).map (fun f => f.2.2 * 2 ^ (8 * f.1))
  decide (bytesLE e 1 1 < 2) && bytesLE e 4 4 == 0
    && (leValue (e.drop 8) * 2 ^ 64 &&& (2 ^ 512 - 1 - named.sum)) == 0

/-- The command that an entry holds; `data` is what the device reads at the entry's address: the list of BOUNDARY, the payload
of BE_SEND. None: an opcode outside Table 14.3, or a SLOT or TARGET byte that names nothing. -/
def entryCommand (iss : Issuer) (e data : List Byte) : Option Instr :=
  let b (o n : Nat) : Nat := bytesLE e o n
  let slot (f : Bool → Instr) : Option Instr := if b 8 1 ≤ 1 then some (f (b 8 1 == 1)) else none
  match b 0 1 with
  | 0x01 => some (.alloc iss ⟨entryFirst e, entryCount e, b 16 2, b 18 1, b 19 1, bitAt (b 20 1) 0⟩)
  | 0x02 => some (.free iss (entryFirst e) (entryCount e))
  | 0x03 => some (.move iss ⟨entryFirst e, entryCount e, b 18 1, b 19 1, bitAt (b 20 1) 1, bitAt (b 20 1) 2⟩)
  | 0x04 => some (.pin iss (entryFirst e) (entryCount e))
  | 0x05 => some (.unpin iss (entryFirst e) (entryCount e))
  | 0x06 => some (.query iss (entryFirst e) (entryCount e) (b 16 8))
  | 0x07 => some (.assign iss (entryFirst e) (entryCount e) (b 16 2))
  | 0x08 => some (.boundary iss (b 8 2) (boundaryList data (b 10 1)) (boundaryList (data.drop (8 * b 10 1)) (b 11 1)))
  | 0x10 => some (.beSend iss ⟨b 8 2, b 10 2, b 12 1 % 8, b 12 1 / 16 % 4, b 14 2, BitVec.ofNat 32 (b 16 4), data⟩)
  | 0x11 => some (.rmemOp iss (b 8 1 % 16) (BitVec.ofNat 64 (b 16 8)) (BitVec.ofNat 64 (b 24 8)) (BitVec.ofNat 64 (b 32 8)))
  | 0x12 => some (.rmemFence iss)
  | 0x20 => some (.jobSubmit iss (b 8 4) (b 12 2) (b 16 4))
  | 0x21 => some (.jobCancel iss (b 8 4))
  | 0x22 => some (.logStart iss (b 8 2) (b 12 4) (b 16 8) (b 24 4))
  | 0x23 => some (.logFlip iss (b 8 2))
  | 0x24 => some (.logStop iss (b 8 2))
  | 0x30 => slot (fun x => .pavaneLoad iss x (b 12 4) (b 28 1))
  | 0x31 => slot (fun x => .pavaneActivate iss x (b 9 1) (entryAt e))
  | 0x32 => some (.figureSwitch iss (b 9 1) (entryAt e))
  | 0x33 => slot (fun x => .pavaneClear iss x)
  | 0x40 => some (.cellConfig iss (BitVec.ofNat 256 (b 32 32)))
  | 0x41 => some (.cellStart iss (b 8 2) (entryAt e))
  | 0x42 => some (.cellStop iss (b 8 2) (entryAt e))
  | 0x43 => some (.cellClear iss (b 8 2))
  | 0x50 => some (.pwrState iss (b 8 1) (bitAt (b 9 1) 0))
  | 0x51 => some (.pwrGate iss (b 8 4))
  | 0x52 => some (.pwrUngate iss (b 8 4))
  | 0x53 => some (.pwrWakeCfg iss (BitVec.ofNat 8 (b 8 1)).toNat)
  | 0x54 => some (.pwrCap iss (b 8 2))
  | _ => none

/-- Can a pair start its next entry: enabled, no ERROR, an entry there, no record waiting and a slot free (R476)? -/
def Pair.canFetch (p : Pair) : Bool :=
  p.enable && !p.error && decide (p.sqHead ≠ p.sqTail) && p.waiting.isEmpty && decide (p.used < ringSize p.cqLog2)

/-- SUBMISSION_FETCH: the next entry starts, with FENCE only after every earlier command of its ring (R471). Its command waits
for its own row, or is refused here: an opcode that its issuer may not send (R473), reserved bits of a lease's entry (R478),
an argument that names no command. The host's reserved bits are a host argument error (R479). -/
def submissionFetch (f q : Nat) (entry data : List Byte) (s : State) : State :=
  let p := s.pair f q
  let e := entry.take 64
  let fence := bitAt (bytesLE e 1 1) 0
  if !p.canFetch || e.length ≠ 64 || (f ≠ 0 && (s.leaseOf f).resetting) || (fence && !p.inProgress.isEmpty) then s
  else
    let cid := bytesLE e 2 2
    let op := bytesLE e 0 1
    let iss : Issuer := .ring f q cid
    let s1 := s.modPair f q (fun y => { y with
      sqHead := BitVec.ofNat 16 ((y.sqHead.toNat + 1) % ringSize y.sqLog2), inProgress := y.inProgress ++ [cid] })
    if !opcodeAllowed iss op then complete iss op (.of stBadArg) s1
    else if !entryReservedOk e then
      if f = 0 then complete iss op (.of (s1.freeValue % statusCount)) s1.useFree else complete iss op (.of stBadArg) s1
    else
      match entryCommand iss e data with
      | some c => { s1 with started := s1.started ++ [c] }
      | none => complete iss op (.of stBadArg) s1

def execSubmissionFetch (func qp : Nat) (entry data : List Byte) (s : State) : Host.Outcome State Fault Refusal :=
  .next (submissionFetch func qp entry data s)

/-! ### Receive rings (R491, R478) -/

/-- BERX_HEAD_WRITE: slots are released; a lease's value at or above the size, or past the filled slots, puts the ring in
ERROR; the host's is a host argument error. -/
def berxHeadWrite (mid v : Nat) (s : State) : State :=
  let f := mid - 1
  let r := (s.func f).rx
  let n := ringSize r.log2
  let put (x used : Nat) (t : State) : State := t.modFunc f (fun y => { y with
    rx := { y.rx with head := BitVec.ofNat 16 x, used := used } })
  let gone := ringDist n r.head.toNat v
  if !s.ringsOpen mid || r.error then s
  else if !r.enable then put v r.used s
  else if n ≤ v || r.used < gone then
    if f = 0 then (put (s.freeValue % n) r.used s).useFree
    else ringError f (s.modFunc f (fun y => { y with rx := { y.rx with error := true } }))
  else put v (r.used - gone) s

def execBerxHeadWrite (mid : Nat) (v : Word) (s : State) : Host.Outcome State Fault Refusal :=
  .next (onBus (berxHeadWrite mid (v.toNat % 2 ^ 16)) s)

/-! ### Doorbell masks (R487, R565) -/

/-- DB_MASK_WRITE: a vector goes out for every bit written 0 whose doorbell bit is 1. -/
def dbMaskWrite (mid : Nat) (v : Word) (s : State) : State :=
  if mid = 0 then { s with dome := { s.dome with dbMask := v } }
  else if s.ringsOpen mid then
    let f := mid - 1
    let s1 := s.modFunc f (fun y => { y with dbMask := v })
    ((List.range 32).filter (fun i => (s.func f).dbStatus.getLsbD i && !v.getLsbD i)).foldl (fun t i => sendVector f i t) s1
  else s

def execDbMaskWrite (mid : Nat) (v : Word) (s : State) : Host.Outcome State Fault Refusal :=
  .next (onBus (dbMaskWrite mid v) s)

/-! ### Mailbox channels (R488 to R490) -/

/-- Channel `c`. -/
def State.channel (s : State) (c : Nat) : Channel := s.host.channels.get Channel.reset c

/-- Change channel `c`. -/
def State.modChannel (s : State) (c : Nat) (f : Channel → Channel) : State :=
  { s with host := { s.host with channels := s.host.channels.modify Channel.reset c f } }

/-- Is a MID the bound sender, or receiver, of a channel? -/
def Channel.sends (c : Channel) (mid : Nat) : Bool := c.valid && decide (c.sender.toNat = mid)
def Channel.receives (c : Channel) (mid : Nat) : Bool := c.valid && decide (c.receiver.toNat = mid)

/-- May a MID use its channels now? A push of a lease in reset has no effect (R482). -/
def State.midOpen (s : State) (mid : Nat) : Bool := decide (mid = 0) || s.ringsOpen mid

/-- Words of a FIFO. -/
def fifoMax : Nat := 32

/-- Push a word; into a full FIFO it is dropped and sets OVERRUN, unless a pop of the same BCLK makes room for it (Table 14.7). The
receiver's bit 16 is set. -/
def push (c : Nat) (v : Word) (s : State) : State :=
  let x := s.channel c
  if fifoMax ≤ x.fifo.length then
    s.modChannel c (fun y => { y with
      overrun := true, late := y.late.filter (fun l => l.2.1 == s.bclkTick) ++ [(v, s.bclkTick, y.overrun)] })
  else ringMid x.receiver.toNat 16 (s.modChannel c (fun y => { y with fifo := y.fifo ++ [(v, s.bclkTick)] }))

/-! ### Requests to the Dome (R555) -/

/-- Does the Dome work: in Run, Idle and Sleep? -/
def State.domeWorks (s : State) : Bool := s.dome.running && decide (s.pwr.mode ≠ .deep) && decide (s.pwr.mode ≠ .off)

/-- The MID that asks on a channel bound to the Dome. -/
def State.requester (s : State) (c : Nat) : Option Nat :=
  let x := s.channel c
  if x.receives 0 then some x.sender.toNat else none

/-- Reply on the channel bound from the Dome to a MID. -/
def domeReply (mid type tag : Nat) (words : List Nat) (s : State) : State :=
  match (List.range 64).find? (fun c => (s.channel c).sends 0 && (s.channel c).receives mid) with
  | some c =>
    let head := (type + 0x80) * 2 ^ 24 + tag % 256 * 2 ^ 16 + words.length
    (head :: words).foldl (fun t w => push c (word w) t) (s.emit (.mailbox c (head :: words)))
  | none => s

/-- A request of TYPE `type` on a channel: refused after a fatal error (R531), and from a lease if it is the host's. -/
def domeRequest (c type tag : Nat) (hostOnly : Bool) (f : Nat → State → State) (s : State) : State :=
  match s.requester c with
  | none => s
  | some mid =>
    if !s.domeWorks then s
    else if s.rel.fatal then domeReply mid type tag [stConflict] s
    else if hostOnly && decide (mid ≠ 1) then domeReply mid type tag [stBadArg] s
    else f mid s

/-- Is a TYPE one of Table 16.8? Those requests are commands of their own. -/
def knownRequest (type : Nat) : Bool := decide (1 ≤ type ∧ type ≤ 4)

/-- A request to the Dome has come whole: an unknown TYPE gives ST_BAD_ARGUMENT. -/
def domeMessage (c : Nat) (head : Word) (s : State) : State :=
  let type := fieldW head 31 24
  let tag := fieldW head 23 16
  if knownRequest type then s else domeRequest c type tag false (fun mid => domeReply mid type tag [stBadArg]) s

/-- A word has entered the FIFO of a channel: of one that is bound to the Dome it is a header, or a payload word of the header before
it. -/
def messageWord (c : Nat) (v : Word) (s : State) : State :=
  let x := s.channel c
  if !x.receives 0 then s
  else
    let head := if x.left = 0 then v else x.head
    let left := if x.left = 0 then fieldW v 15 0 else x.left - 1
    let s1 := s.modChannel c (fun y => { y with head := head, left := left })
    if left = 0 then domeMessage c head s1 else s1

/-- MB_TX_WRITE by the sender. -/
def mbTxWrite (mid c : Nat) (v : Word) (s : State) : State :=
  if (s.channel c).sends mid && s.midOpen mid then
    if fifoMax ≤ (s.channel c).fifo.length then push c v s else messageWord c v (push c v s)
  else s

def execMbTxWrite (mid c : Nat) (v : Word) (s : State) : Host.Outcome State Fault Refusal :=
  .next (onBus (mbTxWrite mid c v) s)

/-- A drain-to-empty request is met when the FIFO is empty: the sender's bit 17 is set. -/
def settleDrain (c : Nat) (s : State) : State :=
  let x := s.channel c
  if x.drainIrq && x.fifo.isEmpty then
    ringMid x.sender.toNat 17 (s.modChannel c (fun y => { y with drainIrq := false }))
  else s

/-- What a read of MB_c_RX returns to a MID: the oldest word once it is readable, from the second BCLK after its push. -/
def State.rxWord (s : State) (mid c : Nat) : Word :=
  let x := s.channel c
  match x.fifo with
  | (v, t) :: _ => if x.receives mid && decide (t + 2 ≤ s.bclkTick) then v else 0
  | [] => 0

/-- What is left after a pop in BCLK `b`: a push of that BCLK that found the FIFO full has its place now. -/
def Channel.popped (b : Nat) (rest : List (Word × Nat)) (x : Channel) : Channel :=
  match x.late.filter (fun l => l.2.1 == b) with
  | (v, _, was) :: more =>
    { x with fifo := rest ++ [(v, b)], late := more, overrun := if more.isEmpty then was else x.overrun }
  | [] => { x with fifo := rest }

/-- The word that takes the place of a pop in BCLK `b`, if one does. -/
def Channel.entering (b : Nat) (x : Channel) : Option Word := ((x.late.filter (fun l => l.2.1 == b)).head?).map (·.1)

/-- MB_RX_READ by the receiver: the oldest readable word is popped. -/
def mbRxRead (mid c : Nat) (s : State) : State :=
  let x := s.channel c
  match x.fifo with
  | (_, t) :: rest =>
    if x.receives mid && decide (t + 2 ≤ s.bclkTick) then
      let s1 := settleDrain c (s.modChannel c (Channel.popped s.bclkTick rest))
      match x.entering s.bclkTick with
      | some v => messageWord c v s1
      | none => s1
    else s
  | [] => s

def execMbRxRead (mid c : Nat) (s : State) : Host.Outcome State Fault Refusal :=
  .next (onBus (mbRxRead mid c) s)

/-- MB_CTRL_WRITE by the sender: OVERRUN is W1C, DRAIN_IRQ requests. -/
def mbCtrlWrite (mid c v : Nat) (s : State) : State :=
  if (s.channel c).sends mid && s.midOpen mid then
    settleDrain c (s.modChannel c (fun y => { y with overrun := y.overrun && !bitAt v 1, drainIrq := bitAt v 0 }))
  else s

def execMbCtrlWrite (mid c : Nat) (v : Word) (s : State) : Host.Outcome State Fault Refusal :=
  .next (onBus (mbCtrlWrite mid c v.toNat) s)

/-- MB_BIND_WRITE: the Dome's, before the lock; VALID with a MID out of range or equal MIDs has no effect. -/
def mbBindWrite (mid c : Nat) (v : Word) (s : State) : State :=
  let a := fieldW v 28 16
  let b := fieldW v 12 0
  if mid ≠ 0 || s.host.locked || (bitW v 31 && (decide (4096 < a) || decide (4096 < b) || a == b)) then s
  else s.modChannel c (fun y => { y with valid := bitW v 31, sender := BitVec.ofNat 13 a, receiver := BitVec.ofNat 13 b })

def execMbBindWrite (mid c : Nat) (v : Word) (s : State) : Host.Outcome State Fault Refusal :=
  .next (onBus (mbBindWrite mid c v) s)

/-- MB_LOCK_WRITE: the Dome's, before the lock. -/
def mbLockWrite (mid : Nat) (v : Word) (s : State) : State :=
  if mid ≠ 0 || s.host.locked then s else { s with host := { s.host with locked := bitW v 0 } }

def execMbLockWrite (mid : Nat) (v : Word) (s : State) : Host.Outcome State Fault Refusal :=
  .next (onBus (mbLockWrite mid v) s)

/-! ### The end of a lease reset (R481) -/

/-- Empty the channels of which a MID is the receiver. -/
def emptyChannels (mid : Nat) (s : State) : State :=
  (List.range 64).foldl (fun t c =>
    if (t.channel c).receives mid then settleDrain c (t.modChannel c (fun y => { y with fifo := [] })) else t) s

/-- LEASE_RESET_COMPLETE: no job and no tier command of the lease is left; logging stops, its channels are emptied, its page is reset. -/
def leaseResetComplete (n : Nat) (s : State) : State :=
  if (s.leaseOf n).resetting && !s.dsp.running.any (fun j => j.lease == n)
      && !s.started.any (fun c => decide ((issuerOf c).map (·.lease) = some n)) then
    let s1 := emptyChannels (n + 1) (stopLog n s)
    ({ s1 with host := { s1.host with funcs := s1.host.funcs.set Func.reset n Func.reset } }).modLease n
      (fun x => { x with resetting := false })
  else s

def execLeaseResetComplete (lease : Nat) (s : State) : Host.Outcome State Fault Refusal :=
  .next (leaseResetComplete lease s)

/-! ### CXL.mem (R468, R469) -/

/-- The HBM controller at which an access to a tile queues: that of the tile, or of the MOVE that brings it into HBM. -/
def State.accessStack (s : State) (n : Nat) : Option Nat :=
  let e := s.tile n
  if e.state = .moving && e.tier = .flash then
    (s.tier.moves.find? (fun m => m.toHbm && decide (m.first ≤ n ∧ n < m.first + m.count))).map (·.stack)
  else if e.tier = .hbm && (e.state = .ready || e.state = .moving) then some e.stack.toNat
  else none

/-- DPA of a request. -/
def CxlReq.addr : CxlReq → Nat
  | .read _ a _ => a
  | .write _ a _ _ => a

/-- The parts of an access that lie in one HBM beat each (R259): every part is a request of its own with the access's tag. -/
def CxlReq.parts : CxlReq → List CxlReq
  | .read t a l => (List.range ((l + a % 1024 + 1023) / 1024)).map (fun i =>
      let lo := max a ((a / 1024 + i) * 1024)
      .read t lo (min (a + l) ((a / 1024 + i + 1) * 1024) - lo))
  | .write t a d p => (List.range ((d.length + a % 1024 + 1023) / 1024)).map (fun i =>
      let lo := max a ((a / 1024 + i) * 1024)
      .write t lo ((d.drop (lo - a)).take ((a / 1024 + i + 1) * 1024 - lo)) p)

/-- The open-slot request of an access within one beat. -/
def CxlReq.op : CxlReq → OpenOp
  | .read t a l => .hostRead t a l
  | .write t a d p => .hostWrite t a d p

/-- One part of an access queues at its tile's stack, or is denied when its tile has none; the other conditions of R469 are met at
its open slot (Table 14.7). -/
def cxlPart (s : State) (r : CxlReq) : State :=
  let n := r.addr / tileBytes
  let s1 := countBelfry 0x1302 none 1 s
  match (if n < tileCount then s1.accessStack n else none) with
  | some h => arrive h r.op (some n) s1
  | none => denyOp s1 r.op

/-- CXL_MEM_REQUEST: a chip in Idle or Sleep returns to Run first (R573). The parts of the access go their ways in order of
address. -/
def cxlRequest (r : CxlReq) (s : State) : State :=
  r.parts.foldl cxlPart (countBelfry 0x1601 none 1 (returnToRun s))

def execCxlMemRequest (req : CxlReq) (s : State) : Host.Outcome State Fault Refusal := .next (cxlRequest req s)

/-! ### The CXL primary mailbox (Table 14.1); opcodes and return codes are those of CXL (PRESUMED, log entry 34) -/

abbrev cxlIdentify : Nat := 0x4000
abbrev cxlSupportedLogs : Nat := 0x0400
abbrev cxlGetLog : Nat := 0x0401
abbrev cxlGetEvents : Nat := 0x0100
abbrev cxlClearEvents : Nat := 0x0101
abbrev cxlPoisonList : Nat := 0x4300

/-- Return codes Success and Unsupported. -/
abbrev cxlSuccess : Nat := 0
abbrev cxlUnsupported : Nat := 0x15

/-- Volatile capacity: 4 TiB. -/
def cxlCapacity : Nat := 2 ^ 42

def execIdentifyMemoryDevice (s : State) : Host.Outcome State Fault Refusal :=
  .next (s.emit (.cxlMailbox cxlSuccess [cxlCapacity]))

/-- The one log is the Command Effects Log. -/
def execGetSupportedLogs (s : State) : Host.Outcome State Fault Refusal := .next (s.emit (.cxlMailbox cxlSuccess [1]))

/-- The Command Effects Log names the supported opcodes. -/
def execGetLog (s : State) : Host.Outcome State Fault Refusal :=
  .next (s.emit (.cxlMailbox cxlSuccess
    [cxlIdentify, cxlSupportedLogs, cxlGetLog, cxlGetEvents, cxlClearEvents, cxlPoisonList]))

/-- The first `max` event records. -/
def execGetEventRecords (max : Nat) (s : State) : Host.Outcome State Fault Refusal :=
  .next (s.emit (.cxlMailbox cxlSuccess ((s.host.events.take max).map (·.toNat))))

/-- Clear the event records with these handles. -/
def clearEvents (handles : List Nat) (s : State) : State :=
  { s with host := { s.host with events := s.host.events.filter (fun w => !handles.contains w.toNat) } }

def execClearEventRecords (handles : List Nat) (s : State) : Host.Outcome State Fault Refusal :=
  .next ((clearEvents handles s).emit (.cxlMailbox cxlSuccess []))

/-- DPAs of the poisoned 32-byte words of a tile in HBM that the host may reach. -/
def State.tilePoison (s : State) (n : Nat) : List Nat :=
  let e := s.tile n
  if s.hostReaches n then
    ((s.stack e.stack.toNat).mem.poison.filter (fun w => w * 32 / tileBytes == e.place.toNat)).map
      (fun w => n * tileBytes + w * 32 % tileBytes)
  else []

/-- The poison list of a DPA range. -/
def State.poisonList (s : State) (addr len : Nat) : List Nat :=
  (s.tier.map.keys.flatMap (fun n => s.tilePoison n)).filter (fun a => decide (addr ≤ a ∧ a < addr + len))

def execGetPoisonList (addr len : Nat) (s : State) : Host.Outcome State Fault Refusal :=
  .next (s.emit (.cxlMailbox cxlSuccess (s.poisonList addr len)))

def execCxlMailboxUnsupported (opcode : Nat) (s : State) : Host.Outcome State Fault Refusal :=
  let served := [cxlIdentify, cxlSupportedLogs, cxlGetLog, cxlGetEvents, cxlClearEvents, cxlPoisonList].contains opcode
  .next (if served then s else s.emit (.cxlMailbox cxlUnsupported []))

end Sys2Proof.Machine
end

