-- ==== Sys2Proof/Machine/Tdisp.lean ====
section
/-! DEFINITION. TDISP messages of a lease's TDI and IDE streams (14 'TDISP and IDE'). -/

namespace Sys2Proof.Machine

open Sys2Proof

/-- Answer a TDISP message. -/
def tdispReply (lease : Nat) (ok : Bool) (v : List Nat) (s : State) : State := s.emit (.tdisp lease ok v)

/-- A TDISP message comes to the Dome in an SPDM message (R483): its firmware answers it if it runs. -/
def tdispRequest (f : State → State) (s : State) : State := if s.domeWorks then f s else s

/-- Code of a TDI state (LP_STATUS). -/
def TdiState.code : TdiState → Nat
  | .unlocked => 0
  | .locked => 1
  | .run => 2
  | .error => 3

/-- Is a lease a TDI? The physical function is none (Table 14.1). -/
def isTdi (n : Nat) : Bool := decide (1 ≤ n ∧ n ≤ 4095)

/-- A TDI enters ERROR (R484, Table 14.6): its jobs end with ST_PREEMPTED, and doorbell bit 31 of the lease is set. Queued jobs
leave the queue. -/
def tdiError (n : Nat) (s : State) : State :=
  if !isTdi n || decide ((s.leaseOf n).tdi = .error) then s
  else
    let s1 := ringFunc n 31 (s.modLease n (fun x => { x with tdi := .error }))
    let queued := s1.dsp.queue.filter (fun j => j.lease == n)
    let s2 := queued.foldl (fun t j => recordUnstarted stPreempted j t)
      (s1.modDsp (fun d => { d with queue := d.queue.filter (fun j => j.lease != n) }))
    (s2.dsp.running.filter (fun j => j.lease == n)).foldl (fun t j => preemptJob j t) s2

/-- The TDISP version that is answered: 1.0 (PRESUMED, log entry 35: no rule gives the values of these replies). -/
def tdispVersion : Nat := 0x10

def execTdispGetVersion (lease : Nat) (s : State) : Host.Outcome State Fault Refusal :=
  .next (tdispRequest (tdispReply lease (isTdi lease) [tdispVersion]) s)

def execTdispGetCapabilities (lease : Nat) (s : State) : Host.Outcome State Fault Refusal :=
  .next (tdispRequest (tdispReply lease (isTdi lease) []) s)

/-- LOCK_INTERFACE: from CONFIG_UNLOCKED; a chip without an identity locks none (R548). The TDI binds its stream (R485). -/
def lockInterface (n stream : Nat) (s : State) : State :=
  if isTdi n && decide ((s.leaseOf n).tdi = .unlocked) && s.dome.identityOk then
    let s1 := s.modLease n (fun x => { x with tdi := .locked })
    tdispReply n true [] { s1 with host := { s1.host with ideBound := s1.host.ideBound.set 0 n (stream + 1) } }
  else tdispReply n false [] s

def execLockInterface (lease stream : Nat) (s : State) : Host.Outcome State Fault Refusal :=
  .next (tdispRequest (lockInterface lease stream) s)

/-- The bytes of a lease page, the one MMIO range of a TDI. -/
def leasePageBytes : Nat := 65536

/-- GET_DEVICE_INTERFACE_REPORT names the lease page: its offset in the VF's BAR0 and its length. -/
def execGetDeviceInterfaceReport (lease : Nat) (s : State) : Host.Outcome State Fault Refusal :=
  .next (tdispRequest (tdispReply lease (isTdi lease) [0, leasePageBytes]) s)

def execGetDeviceInterfaceState (lease : Nat) (s : State) : Host.Outcome State Fault Refusal :=
  .next (tdispRequest (tdispReply lease (isTdi lease) [(s.leaseOf lease).tdi.code]) s)

/-- START_INTERFACE: from CONFIG_LOCKED to RUN. -/
def startInterface (n : Nat) (s : State) : State :=
  if isTdi n && decide ((s.leaseOf n).tdi = .locked) then
    tdispReply n true [] (s.modLease n (fun x => { x with tdi := .run }))
  else tdispReply n false [] s

def execStartInterface (lease : Nat) (s : State) : Host.Outcome State Fault Refusal := .next (tdispRequest (startInterface lease) s)

/-- STOP_INTERFACE: the lease reset of R481, and CONFIG_UNLOCKED. -/
def stopInterface (n : Nat) (s : State) : State :=
  if isTdi n then
    let s1 := startLeaseReset n (s.modLease n (fun x => { x with tdi := .unlocked }))
    tdispReply n true [] { s1 with host := { s1.host with ideBound := s1.host.ideBound.set 0 n 0 } }
  else tdispReply n false [] s

def execStopInterface (lease : Nat) (s : State) : Host.Outcome State Fault Refusal := .next (tdispRequest (stopInterface lease) s)

/-- A stream leaves the secure state: every TDI bound to it that is locked or runs enters ERROR (R485). -/
def streamInsecure (stream : Nat) (s : State) : State :=
  let s1 := { s with host := { s.host with secure := s.host.secure.filter (· != stream) } }
  let bound := (s.host.ideBound.entries.filter (fun p => p.2 == stream + 1)).map (·.1)
  (bound.filter (fun n => s.confidential n)).foldl (fun t n => tdiError n t) s1

/-- IDE_CHECK_FAILURE: the traffic is dropped, and a secure stream becomes insecure. -/
def ideCheckFailure (stream : Nat) (s : State) : State :=
  if s.host.secure.contains stream then streamInsecure stream s else s

def execIdeCheckFailure (stream : Nat) (s : State) : Host.Outcome State Fault Refusal := .next (ideCheckFailure stream s)

end Sys2Proof.Machine
end

