-- ==== Sys2Proof/Machine/Dome.lean ====
section
/-! DEFINITION. The Dome (16): boot and recovery, the watchdog, SPDM, the mailbox requests, staging, debug unlock and the
log. -/

namespace Sys2Proof.Machine

open Sys2Proof

/-- Change the Dome. -/
def State.modDome (s : State) (f : DomeState → DomeState) : State := { s with dome := f s.dome }

/-! ### Boot (R549 to R552) -/

/-- Log records that wait take their SEQ from the highest record in the log on (R561). -/
def renumber (base : Word) (q : List LogRec) : List LogRec := q.zipIdx.map (fun p => { p.1 with seq := base + BitVec.ofNat 32 p.2 })

/-- The next SEQ after the records of the log. -/
def nextLogSeq (l : List LogRec) : Word :=
  match l.getLast? with
  | some r => r.seq + 1
  | none => 0

/-- 100 ms in CCLK ticks. -/
def tick100ms : Nat := 170000000

/-- Firmware of bank `b` starts (R538, R547, R551, R558, R559, R561): versions, identity, nonce, the watchdog, the test pack. -/
def bootBank (b fallback : Bool) (err : Byte) (x : BootRead) (s : State) : State :=
  let i := s.dome.bank b
  let base := nextLogSeq s.dome.log
  let s1 := s.modDome (fun d => { d with
    bankB := b
    trial := d.selector.2.trial == 2
    fallback := fallback
    identityOk := x.unwraps && i.identity && !d.debug
    bootError := err
    fwVersion := i.version 1
    cfgVersion := i.version 4
    packVersion := i.version 2
    running := true
    wdogAt := some s.clock.tick
    nonce := x.nonce
    logQueue := renumber base d.logQueue
    logSeq := base + BitVec.ofNat 32 d.logQueue.length
    heartbeats := s.clock.tick / tick100ms })
  let s2 := s1.modRel (fun r => { r with packLoaded := decide (0 < i.packSegments), segments := i.packSegments })
  logEvent (.reset s.clk.rstCause) (logEvent (.boot b fallback false) s2)

/-- FIRMWARE_START: the parameter tables give the memory's size (R540); then the active bank boots, or the other one if it is not valid
(R549); with no valid bank, recovery. -/
def firmwareStart (x : BootRead) (s : State) : State :=
  let d := s.dome
  let c := x.capacity
  if !(s.clk.chipState = .boot) || d.running || d.recovery then s
  else
    let a := d.selector.2.activeB
    let s1 := s.modDome (fun d => { d with capacity := c })
    if !x.memory then s.modDome (fun d => { d with recovery := true, bootError := errMemory })
    else if (d.bank a).error c = 0 then bootBank a false 0 x s1
    else if (d.bank (!a)).error c = 0 then
      bootBank (!a) true ((d.bank a).error c) x (s1.modDome (fun d => d.writeSelector (!a) 0))
    else s1.modDome (fun d => { d with recovery := true, bootError := (d.bank (!a)).error c })

def execFirmwareStart (b : BootRead) (s : State) : Host.Outcome State Fault Refusal := .next (firmwareStart b s)

/-- CONFIG_APPLIED: CHIP_ID, trims and settings, and the lanes of LANE_MAP are enabled. -/
def configApplied (s : State) : State :=
  if s.clk.chipState = .boot && s.dome.running && decide (s.dome.chipId = 0xFFFF) then
    let c := (s.dome.bank s.dome.bankB).cfg
    let s1 := s.modDome (fun d => { d with cfg := c, chipId := c.chipId })
    ((List.range 64).filter (fun n => (c.lanes.get LaneCfg.off n).enabled)).foldl (fun t n => laneEnable n true t) s1
  else s

def execConfigApplied (s : State) : Host.Outcome State Fault Refusal := .next (configApplied s)

/-- Bindings of the mailbox channels (Table 16.4, R488). -/
def CfgData.bindings (c : CfgData) : List (Nat × Nat) := c.mbBind.getD [(1, 0), (0, 1)]

/-- Load the bindings in the order of the channels. -/
def bindChannels (l : List (Nat × Nat)) (s : State) : State :=
  l.zipIdx.foldl (fun t p => t.modChannel p.2 (fun y => { y with
    valid := true, sender := BitVec.ofNat 13 p.1.1, receiver := BitVec.ofNat 13 p.1.2 })) s

/-- Ticks of CCLK in a µs. -/
def tickMicro : Nat := 1700

/-- TIME_ACQUIRE_ENTRY: the bindings are loaded and locked, and a trial boot is committed (R550). -/
def timeAcquireEntry (s : State) : State :=
  if s.clk.chipState = .boot && s.dome.running && decide (s.dome.chipId ≠ 0xFFFF) then
    let s1 := if s.host.locked then s else bindChannels s.dome.cfg.bindings s
    let s2 := { s1 with
      host := { s1.host with locked := true }
      clk := { s1.clk with chipState := .timeAcquire } }
    s2.modDome (fun d =>
      let e := if d.trial then d.writeSelector d.bankB 0 else d
      { e with trial := false, bootUs := BitVec.ofNat 32 (s.clock.tick / tickMicro) })
  else s

def execTimeAcquireEntry (s : State) : Host.Outcome State Fault Refusal := .next (timeAcquireEntry s)

/-- RECOVERY_IMAGE_RECEIVE (R552): a valid bank image goes to bank A with an IDENTITY that unwraps, and the chip resets
(CHIP_RESET_CMD, DEDUCED, log entry 41). -/
def recoveryImageReceive (x : BankImg) (s : State) : State :=
  let y := recoveredBank x s.dome.bankA s.dome.bankBImg
  if s.dome.recovery && decide (y.error s.dome.capacity = 0) then
    let put (d : DomeState) : DomeState := (d.setBank false y).writeSelector false 0
    chipReset .chipResetCmd (s.modDome put)
  else s

def execRecoveryImageReceive (image : BankImg) (s : State) : Host.Outcome State Fault Refusal :=
  .next (recoveryImageReceive image s)

/-! ### Watchdog and heartbeat (R538) -/

/-- Restart the watchdog. -/
def kick (s : State) : State :=
  if s.dome.wdogAt.isSome then s.modDome (fun d => { d with wdogAt := some s.clock.tick }) else s

/-- WATCHDOG_KICK. -/
def execWatchdogKick (mid : Nat) (s : State) : Host.Outcome State Fault Refusal := .next (onBus (fun t => if mid = 0 then kick t else t) s)

/-- Ticks of CCLK in a ms. -/
def tickMilli : Nat := 1700000

/-- WATCHDOG_EXPIRY: the record of row 14 is written (R499), its OUTCOME a free value, for Table 15.5 names none (log entry 149), and
the chip resets with DOME_WDOG. -/
def watchdogExpiry (s : State) : State :=
  match s.dome.wdogAt with
  | some t =>
    if s.domeWorks && decide (t + s.dome.wdogTimeout.toNat * tickMilli ≤ s.clock.tick) then
      chipReset .domeWdog (errRecord 14 (s.freeValue % 15) 0 0 0 0 0 s.useFree)
    else s
  | none => s

def execWatchdogExpiry (s : State) : Host.Outcome State Fault Refusal := .next (watchdogExpiry s)

/-- DOME_MCTP_HEARTBEAT, every 100 ms. -/
def domeHeartbeat (s : State) : State :=
  if s.domeWorks && decide ((s.dome.heartbeats + 1) * tick100ms ≤ s.clock.tick) then
    (s.modDome (fun d => { d with heartbeats := d.heartbeats + 1 })).emit (.mctp .heartbeat)
  else s

def execDomeMctpHeartbeat (s : State) : Host.Outcome State Fault Refusal := .next (domeHeartbeat s)

/-! ### SPDM (R553, R554). The order of requests is SPDM 1.3's (PRESUMED, log entry 42) -/

/-- Change the SPDM responder. -/
def State.modSpdm (s : State) (f : SpdmState → SpdmState) : State := s.modDome (fun d => { d with spdm := f d.spdm })

/-- Answer an SPDM request. -/
def spdmReply (r : SpdmReply) (s : State) : State := s.emit (.spdm r)

/-- A message waits (R565, bit 9); the responder takes it if firmware runs. -/
def spdmRequest (f : State → State) (s : State) : State := if s.domeWorks then f (ringDome 9 s) else s

/-- A request that needs agreed algorithms. -/
def spdmAgreed (f : State → State) (s : State) : State :=
  spdmRequest (fun t => if t.dome.spdm.algs then f t else spdmReply .errorUnexpected t) s

/-- GET_VERSION starts the connection anew. -/
def spdmVersion (s : State) : State :=
  spdmReply .version (s.modSpdm (fun x => { x with version := true, caps := false, algs := false }))

def execSpdmGetVersion (s : State) : Host.Outcome State Fault Refusal := .next (spdmRequest spdmVersion s)

def spdmCapabilities (s : State) : State :=
  if s.dome.spdm.version then spdmReply .capabilities (s.modSpdm (fun x => { x with caps := true }))
  else spdmReply .errorUnexpected s

def execSpdmGetCapabilities (s : State) : Host.Outcome State Fault Refusal := .next (spdmRequest spdmCapabilities s)

/-- NEGOTIATE_ALGORITHMS: `common` says that the requester offers those of Table 16.6. -/
def spdmNegotiate (common : Bool) (s : State) : State :=
  if !s.dome.spdm.caps then spdmReply .errorUnexpected s
  else if common then spdmReply .algorithms (s.modSpdm (fun x => { x with algs := true }))
  else spdmReply .errorUnsupported s

def execNegotiateAlgorithms (common : Bool) (s : State) : Host.Outcome State Fault Refusal :=
  .next (spdmRequest (spdmNegotiate common) s)

def execGetDigests (s : State) : Host.Outcome State Fault Refusal := .next (spdmAgreed (spdmReply .digests) s)

def execGetCertificate (s : State) : Host.Outcome State Fault Refusal := .next (spdmAgreed (spdmReply .certificate) s)

/-- What needs the identity key is answered with ERROR (Unspecified) without one (R548). -/
def withIdentity (f : State → State) (s : State) : State :=
  if s.dome.identityOk then f s else spdmReply .errorUnspecified s

def execChallenge (s : State) : Host.Outcome State Fault Refusal :=
  .next (spdmAgreed (withIdentity (spdmReply .challengeAuth)) s)

/-- VERSIONs of images 0x01 to 0x04 of the bank that booted. -/
def State.versions (s : State) : List Nat :=
  [s.dome.fwVersion.toNat, s.dome.packVersion.toNat, ((s.dome.bank s.dome.bankB).version 3).toNat, s.dome.cfgVersion.toNat]

/-- SHA-512 digests of blocks 1 to 5 and 7 of Table 16.7: ROM, FIRMWARE, CONFIG, OPERATOR_CERT, TEST_PACK, the active Pavane; 0 for one
that is not there. -/
def State.digests (s : State) : List Nat :=
  let b := s.dome.bank s.dome.bankB
  [Config.romDigest, b.digest 1, b.digest 4, b.digest 3, b.digest 2,
    match s.image with
    | some p => Config.pavaneDigest p.id.toNat
    | none => 0]

/-- GET_MEASUREMENTS: the digests, and block 6. -/
def measurements (s : State) : State :=
  let d := s.dome
  spdmReply (.measurements s.digests s.versions
    [b2n d.bankB, b2n d.trial, b2n d.fallback, b2n d.debug, d.debugLevel.toNat]) s

def execGetMeasurements (signed : Bool) (s : State) : Host.Outcome State Fault Refusal :=
  .next (spdmAgreed (if signed then withIdentity measurements else measurements) s)

/-- Sessions at once. -/
def maxSessions : Nat := 8

/-- KEY_EXCHANGE with a new session's identifier. -/
def keyExchange (id : Nat) (s : State) : State :=
  let l := s.dome.spdm.sessions
  if maxSessions ≤ l.length then spdmReply .errorSessionLimit s
  else if l.any (fun x => x.id == id) then spdmReply .errorInvalidSession s
  else spdmReply (.keyExchange id) (s.modSpdm (fun x => { x with sessions := x.sessions ++ [⟨id, false⟩] }))

def execKeyExchange (session : Nat) (s : State) : Host.Outcome State Fault Refusal :=
  .next (spdmAgreed (withIdentity (keyExchange session)) s)

/-- FINISH of a session whose handshake is under way. -/
def finishSession (id : Nat) (s : State) : State :=
  if s.dome.spdm.sessions.any (fun x => x.id == id && !x.open_) then
    let open_ (x : SpdmSession) : SpdmSession := if x.id = id then { x with open_ := true } else x
    spdmReply .finish (s.modSpdm (fun y => { y with sessions := y.sessions.map open_ }))
  else spdmReply .errorInvalidSession s

def execFinish (session : Nat) (s : State) : Host.Outcome State Fault Refusal := .next (spdmRequest (finishSession session) s)

/-- A request inside an open session. -/
def inSession (id : Nat) (f : State → State) (s : State) : State :=
  if s.dome.spdm.sessions.any (fun x => x.id == id && x.open_) then f s else spdmReply .errorInvalidSession s

def execSpdmHeartbeat (session : Nat) (s : State) : Host.Outcome State Fault Refusal :=
  .next (spdmRequest (inSession session (spdmReply .heartbeatAck)) s)

def execKeyUpdate (session : Nat) (s : State) : Host.Outcome State Fault Refusal :=
  .next (spdmRequest (inSession session (spdmReply .keyUpdateAck)) s)

/-- END_SESSION closes the session. -/
def endSession (id : Nat) (s : State) : State :=
  spdmReply .endSessionAck (s.modSpdm (fun x => { x with sessions := x.sessions.filter (fun y => y.id != id) }))

def execEndSession (session : Nat) (s : State) : Host.Outcome State Fault Refusal :=
  .next (spdmRequest (inSession session (endSession session)) s)

/-- VENDOR_DEFINED_REQUEST carries IDE_KM and TDISP messages (R485, R553); a TDISP message is a command of its own. -/
def vendorRequest (m : VendorMsg) (s : State) : State :=
  match m with
  | .ideKeyProgram n =>
    let l := if s.host.secure.contains n then s.host.secure else s.host.secure ++ [n]
    spdmReply .vendorDefined { s with host := { s.host with secure := l } }
  | .ideStop n => spdmReply .vendorDefined (if s.host.secure.contains n then streamInsecure n s else s)
  | .tdisp => spdmReply .vendorDefined s
  | .other => spdmReply .errorUnsupported s

def execVendorDefinedRequest (session : Nat) (carries : VendorMsg) (s : State) : Host.Outcome State Fault Refusal :=
  .next (spdmRequest (inSession session (vendorRequest carries)) s)

/-! ### Mailbox requests (R555, Table 16.8) -/

/-- CHIP_STATE codes (DOME_STATUS). -/
def ChipState.code : ChipState → Nat
  | .minuet => 0
  | .boot => 1
  | .timeAcquire => 2
  | .ready => 3
  | .failed => 4

/-- DOME_STATUS (R564). -/
def State.domeStatus (s : State) : Nat :=
  let d := s.dome
  s.clk.chipState.code * 2 ^ 28 + flagAt d.bankB 27 + flagAt d.trial 26 + flagAt d.fallback 25 + flagAt d.debug 24
  + d.debugLevel.toNat * 2 ^ 22 + flagAt d.identityOk 21 + flagAt d.recovery 20 + d.bootError.toNat * 2 ^ 8

/-- GET_INFO. -/
def getInfo (tag mid : Nat) (s : State) : State := domeReply mid 1 tag ([stOk] ++ s.versions ++ [s.domeStatus]) s

def execGetInfo (channel tag : Nat) (s : State) : Host.Outcome State Fault Refusal :=
  .next (domeRequest channel 1 tag false (getInfo tag) s)

/-- Are these tiles lease 0's? -/
def State.hostTiles (s : State) (l : List Nat) : Bool := l.all (fun n => decide ((s.tile n).lease = 0) && !(s.tile n).radio)

/-- Are these tiles READY in HBM with PIN at least 1? -/
def State.pinnedTiles (s : State) (l : List Nat) : Bool := l.all (fun n => (s.tile n).inHbm && decide ((s.tile n).pin ≠ 0))

/-- May a STAGE begin (R556)? -/
def State.mayStage (s : State) : Bool := s.dome.stage.isNone && decide (s.dome.selector.2.trial ≠ 1) && !s.dome.trial

/-- STAGE: the images are taken from the tiles, and the reply comes with STAGE_COMPLETE. A refusal is logged (R560). -/
def stage (c tag kind first tiles mid : Nat) (s : State) : State :=
  let l := tileRange first tiles
  let no (st : Nat) (t : State) : State := domeReply mid 2 tag [st] (logEvent (.stage st) t)
  if 3 < kind ∨ !rangeOk first tiles 256 ∨ !s.hostTiles l then no stBadArg s
  else if !s.pinnedTiles l ∨ !s.mayStage then no stConflict s
  else if s.runPoisoned first 0 (tiles + 1) (tiles * tileBytes) then no stUnusable (consumePoison 1 s)
  else s.modDome (fun d => { d with stage := some ⟨c, tag, kind, first, tiles⟩ })

def execStage (channel tag kind first tiles : Nat) (s : State) : Host.Outcome State Fault Refusal :=
  .next (domeRequest channel 2 tag true (stage channel tag kind first tiles) s)

/-- STAGE_COMPLETE: `supplied` holds the supplied images; `programs` says that the memory does not refuse to program. The built bank is
checked, and either the selector is written or the bank's header is erased (R556). -/
def stageComplete (programs : Bool) (supplied : BankImg) (s : State) : State :=
  match s.dome.stage with
  | none => s
  | some j =>
    let a := s.dome.selector.2.activeB
    let x := stagedBank j.kind supplied (s.dome.bank a)
    let st := if !programs then stConflict else if x.error s.dome.capacity ≠ 0 then stBadArg else stOk
    let s1 := s.modDome (fun d =>
      let e := { d with stage := none }
      if st = stOk then (e.setBank (!a) x).writeSelector (!a) 1 else if programs then e.setBank (!a) x.erased else e)
    let s2 := logEvent (.stage st) s1
    match s2.requester j.channel with
    | some mid => domeReply mid 2 j.tag [st] s2
    | none => s2

def execStageComplete (e : StageEnd) (s : State) : Host.Outcome State Fault Refusal :=
  .next (stageComplete e.programs e.supplied s)

/-- CHIP_RESET: no reply, the chip resets. During a fatal error the dump's own reset comes instead (Table 16.9). -/
def chipResetRequest (tag mid : Nat) (s : State) : State :=
  if mid ≠ 1 then domeReply mid 3 tag [stBadArg] s else chipReset .chipResetCmd s

def execChipReset (channel tag : Nat) (s : State) : Host.Outcome State Fault Refusal :=
  .next (if s.rel.fatal then s else domeRequest channel 3 tag false (chipResetRequest tag) s)

/-- The 64 bytes of a log record (R560); CODE and DATA are firmware's: free values. -/
def LogRec.bytes (r : LogRec) (free : Nat) : List Byte :=
  let l := leBytes r.seq.toNat 4 ++ leBytes r.sec.toNat 8 ++ leBytes r.ns.toNat 4 ++ leBytes (Config.freeNat free) 2
    ++ leBytes 0 2 ++ leBytes (Config.freeNat (free + 1)) 40
  l ++ leBytes (crc32c l) 4

/-- Write bytes of a tile in HBM. -/
def tileWrite (n o : Nat) (l : List Byte) (s : State) : State :=
  let e := s.tile n
  s.modStack e.stack.toNat (fun x => { x with mem := (x.mem.writeBytes (e.byteAt o) l).clearPoison (e.byteAt o) l.length })

/-- Bytes of a log record. -/
def logRecBytes : Nat := 64

/-- LOG_READ copies records from FROM_SEQ on to lease 0's tiles, which must be as for STAGE (DEDUCED, log entry 43). -/
def logRead (tag fromSeq count first mid : Nat) (s : State) : State :=
  if count = 0 ∨ 4096 < count ∨ !rangeOk first 1 1 ∨ !s.hostTiles [first] then domeReply mid 4 tag [stBadArg, 0] s
  else if !s.pinnedTiles [first] then domeReply mid 4 tag [stConflict, 0] s
  else
    let rs := (s.dome.log.filter (fun r => decide (fromSeq ≤ r.seq.toNat))).take count
    let s1 := rs.zipIdx.foldl (fun t p =>
      ((tileWrite first (p.2 * logRecBytes) (p.1.bytes t.free) t).useFree).useFree) s
    domeReply mid 4 tag [stOk, rs.length] s1

def execLogRead (channel tag fromSeq count first : Nat) (s : State) : Host.Outcome State Fault Refusal :=
  .next (domeRequest channel 4 tag true (logRead tag fromSeq count first) s)

/-! ### The log (R561) -/

/-- Records of a sector, and sectors of the log partition. -/
def sectorRecords : Nat := 1024
def logSectors : Nat := 63

/-- The log with a record written; when its last sector fills, the oldest is erased. -/
def logAppend (r : LogRec) (l : List LogRec) : List LogRec :=
  let m := l ++ [r]
  if logSectors * sectorRecords ≤ m.length then m.drop sectorRecords else m

/-- LOG_RECORD_WRITE. -/
def logRecordWrite (s : State) : State :=
  if !s.domeWorks then s
  else match s.dome.logQueue with
    | [] => s
    | r :: rest => s.modDome (fun d => { d with logQueue := rest, log := logAppend r d.log })

def execLogRecordWrite (s : State) : Host.Outcome State Fault Refusal := .next (logRecordWrite s)

/-! ### Debug unlock (R557 to R559) -/

/-- Is a debug token accepted (R558)? `cert` is the operator's key. -/
def DebugToken.accepted (t : DebugToken) (cert : Option (List Byte)) (nonce : DWord) : Bool :=
  t.image.verified 6 cert && decide (t.digest = Config.deviceKeyDigest) && decide (t.nonce = nonce)
    && (decide (t.level = 1) || (decide (t.level = 2) && decide (t.image.signer = 0)))

/-- DEBUG_TOKEN_RECEIVE. -/
def debugTokenReceive (t : DebugToken) (s : State) : State :=
  if !s.domeWorks then s
  else if t.accepted (s.dome.bank s.dome.bankB).certKey s.dome.nonce then
    logEvent (.token true) (s.modDome (fun d => { d with pending := some (BitVec.ofNat 2 t.level) }))
  else logEvent (.token false) (s.modDome (fun d => { d with tokensRefused := satInc d.tokensRefused }))

def execDebugTokenReceive (tok : DebugToken) (s : State) : Host.Outcome State Fault Refusal := .next (debugTokenReceive tok s)

/-- The debug level at which a JTAG instruction is open (R557). -/
def JtagOp.level : JtagOp → Nat
  | .idcode | .bypass | .samplePreload | .extest | .ieee1149_6 => 0
  | .domeDebug => 1
  | .scan | .spireDebug => 2

/-- A number for a JTAG instruction in what the model sends out. -/
def JtagOp.code : JtagOp → Nat
  | .idcode => 0
  | .bypass => 1
  | .samplePreload => 2
  | .extest => 3
  | .ieee1149_6 => 4
  | .domeDebug => 5
  | .scan => 6
  | .spireDebug => 7

/-- JTAG_INSTRUCTION: it runs if the boot's level opens it. What a scan or a debugger then does is outside the model. -/
def jtagInstruction (op : JtagOp) (s : State) : State :=
  if op.level ≤ s.dome.debugLevel.toNat then s.emit (.jtag op.code) else s

def execJtagInstruction (op : JtagOp) (s : State) : Host.Outcome State Fault Refusal := .next (jtagInstruction op s)

end Sys2Proof.Machine
end

