-- ==== Sys2Proof/Machine/Flash.lean ====
section
/-! DEFINITION. The flash tier's own events (08 'The flash tier'): page reads and retries, acknowledged writes,
relocations. -/

namespace Sys2Proof.Machine

open Sys2Proof

/-- Retry levels of a page read (R288). -/
def retryMax : Nat := 8

/-- A page of a tile cannot be read at the last level: the tile becomes LOST and the reliability block is told. -/
def flashUnreadable (n : Nat) (s : State) : State :=
  let s1 := loseTile n { s with flash := s.flash.clearRetry n }
  errRecord 11 1 0 (s.tile n).lease.toNat 0 0 0 s1

/-- Page `i` of tile `n` has been read: a MOVE into HBM has its data. A tile whose zeros are not yet written reads as zeros. -/
def pageArrives (n i : Nat) (s : State) : State :=
  let s1 := { s with flash := { s.flash with retry := s.flash.retry.set 0 (16 * n + i) 0 } }
  if (s.tile n).state = .moving && (s.tier.moves.any (fun m => s.copying m = some n)) then
    let a := n * tileBytes + i * pageBytes
    { s1 with flash := { s1.flash with staged := s1.flash.staged.copyFrom a s1.flash.mem a pageBytes } }.modCopy n
      (fun c => { c with pages := c.pages ||| BitVec.twoPow 16 i })
  else s1

/-- FLASH_PAGE_READ of page `i`: it is corrected, retried at the next level (category 2), or lost after eight steps. Every read
counts on its block (R289). -/
def flashPageRead (n i : Nat) (ok : Bool) (s : State) : State :=
  if s.flash.ready && (s.tile n).tier = .flash && ((s.tile n).state = .ready || (s.tile n).state = .moving) then
    let s1 := { s with flash := s.flash.countRead n i }
    if ok then pageArrives n i s1
    else
      let l := s.flash.retry.get 0 (16 * n + i)
      if l < retryMax then
        countNd 2 1 (s.jobsOfLease (s.tile n).lease.toNat) { s1 with flash := { s1.flash with retry := s1.flash.retry.set 0 (16 * n + i) (l + 1) } }
      else flashUnreadable n s1
  else s

def execFlashPageRead (n : Nat) (r : PageRead) (s : State) : Host.Outcome State Fault Refusal :=
  .next (flashPageRead n r.page r.ok s)

/-- The stripe of a tile is programmed: its spare holds LEASE, RADIO and the next write sequence number (R287). `none` while a
channel has no free block. -/
def FlashState.keepStripe (f : FlashState) (n : Nat) (e : TileEntry) : Option FlashState :=
  match f.programStripe flashChannels with
  | some (f1, l) =>
    let a := n * tileBytes
    some { f1 with
      wseq := f1.wseq + 1
      stripes := f1.stripes.set Stripe.none n ⟨e.lease, e.radio, f1.wseq + 1, l⟩
      mem := f1.mem.copyFrom a f1.staged a tileBytes
      staged := f1.staged.clearRange a tileBytes
      inflight := f1.inflight.erase n }
  | none => none

/-- The journal is complete when the last program in progress has finished after POWER_FAIL_N (R291). -/
def FlashState.closeJournal (f : FlashState) : FlashState :=
  if f.noProgram && f.inflight.isEmpty then { f with journal := true } else f

/-- FLASH_WRITE_ACK: the 16 pages of a tile and its journal record are programmed; the flash holds the new copy. A channel whose
block has failed the program retires it, and its page is written elsewhere (R289). -/
def flashWriteAck (n : Nat) (failed : Option Nat) (s : State) : State :=
  if s.flash.inflight.contains n then
    match failed with
    | some c =>
      match s.flash.open_ c with
      | (f, some b) => { s with flash := f.retire b }
      | (_, none) => s
    | none =>
      match s.flash.keepStripe n (s.tile n) with
      | some f =>
        let f1 := f.closeJournal
        startFlashWrites (if (s.tile n).state = .moving then { s with flash := { f1 with acked := f1.acked ++ [n] } }
          else { s with flash := f1 }.modTile n (fun e => { e with flashCopy := true }))
      | none => s
  else s

/-- Must the data of block `n` be relocated (R289): it has reached READ_LIMIT, or it is its channel's least worn block and the
erase counts of the channel differ by more than WEAR_SPREAD? -/
def FlashState.mustRelocate (f : FlashState) (spread limit n : Nat) : Bool :=
  let c := blockChannel n
  let l := ((f.fresh c).toList ++ f.noted c).filter (fun b => f.usable b)
  let low := (leastOf (l.map (fun b => (f.block b).erases))).getD 0
  let high := l.foldl (fun x b => max x (f.block b).erases) 0
  decide (limit ≤ (f.block n).reads) || (decide ((f.block n).erases = low) && decide (spread < high - low))

/-- FLASH_RELOCATION: the valid pages of a block are written elsewhere on its channel and the block is erased, or retired if the
erase fails (R289); no Tile Map entry changes. -/
def flashRelocation (n : Nat) (ok : Bool) (s : State) : State :=
  let f := s.flash
  let c := s.dome.cfg
  if f.noProgram || !s.domainOn 26 || !f.usable n || !f.mustRelocate c.wearSpread c.readLimit n then s
  else
    let f0 := if f.filling.get 0 (blockChannel n) = n + 1 then { f with filling := f.filling.set 0 (blockChannel n) 0 } else f
    match f0.movePages n (f0.tilesIn n) with
    | some f1 => { s with flash := { (if ok then f1.erase n else f1.retire n) with relocs := satInc f1.relocs } }
    | none => s

def execFlashRelocation (e : BlockErase) (s : State) : Host.Outcome State Fault Refusal :=
  .next (flashRelocation e.block e.ok s)

end Sys2Proof.Machine
end

