-- ==== Sys2Proof/Machine/Power.lean ====
section
/-! DEFINITION. The power manager (17) and the control pins (18): domains, power states, the regulator interface, throttling,
emergency stops, sensors. -/

namespace Sys2Proof.Machine

open Sys2Proof

/-- Change the power manager. -/
def State.modPwr (s : State) (f : PwrState → PwrState) : State := { s with pwr := f s.pwr }

/-! ### Domains (R567 to R569, Table 17.2) -/

/-- Domains that nothing gates. -/
def neverGated (d : Nat) : Bool := d == 22 || d == 25 || d == 28 || d == 29

/-- May Spire `k` lose its power: IDLE, OFF or FENCED, inference-only, not reclaimed? -/
def State.spireGates (s : State) (k : Nat) : Bool :=
  let q := (s.spire k).seq
  (q.mode = .idle || q.mode = .off || q.mode = .fenced) && s.role k = .inferenceOnly && !q.reclaim

/-- Does a step set of the active Pavane hold an entry on a lane of a half of the fabric? -/
def State.fabricUsed (s : State) (west : Bool) : Bool :=
  match s.image with
  | some p => p.stepSets.any (fun x => (p.steps.get [] x).any (fun r => decide (field r 49 44 < 32) == west))
  | none => false

/-- The condition of Table 17.2. A waking domain has been accessed first (Table 17.7). -/
def State.gateOk (s : State) (d : Nat) : Bool :=
  !s.pwr.waking.getLsbD d &&
  (if d < 16 then s.spireGates (2 * d) && s.spireGates (2 * d + 1)
   else if d < 20 then (List.range 4).all (fun j => !s.pwr.domains.getLsbD (4 * (d - 16) + j)) && s.image.isNone
   else if d < 22 then !s.fabricUsed (d == 20)
   else if d = 23 ∨ d = 24 then s.liveCells.isEmpty
   else if d = 26 then s.flash.inflight.isEmpty && s.flash.waits.isEmpty && s.tier.moves.all (fun m => !s.moveUsesFlash m)
   else if d = 27 then !s.isGateway && s.rm.lines.entries.isEmpty
   else false)

/-- What a Spire holds once its domain is off: a fenced one stays FENCED (R519), and its registers return their values as at the
fencing (R34). The crossbar's registers lie in the Tower's common domain. -/
def Spire.powerOff (p : Spire) : Spire :=
  if p.seq.mode = .fenced then
    { p with store := Mem.empty, vu := { p.vu with bankM := Bank.reset, bankS := Bank.reset } }
  else { Spire.reset with seq := { Spire.reset.seq with mode := .off }, xb := p.xb }

/-- Tower `t`'s common domain is off: the counts of its controllers and the registers of its crossbar. -/
def loseTowerCommon (t : Nat) (s : State) : State :=
  let s1 := (List.range 6).foldl (fun u c => u.modStack (6 * t + c) (fun x => { x with
    symCorr := 0, symUncorr := 0, openWaits := 0 })) s
  (tileRange (8 * t) 8).foldl (fun u k =>
    if (u.spire k).seq.mode = .fenced then u else u.modSpire k (fun p => { p with xb := XbState.reset })) s1

/-- Lanes of a fabric domain. -/
def fabricLanes (d : Nat) : List Nat := tileRange (32 * (d - 20)) 32

/-- The lanes of a fabric domain go DOWN with CAUSE 0 (R568). Those that are DISABLED stay so. -/
def lanesOff (d : Nat) (s : State) : State :=
  ((fabricLanes d).filter (fun n => decide ((s.lane n).regs.state ≠ .disabled))).foldl (fun t n => laneOut n .down 0 t) s

/-- A lane's registers once its domain has been gated: ENABLE stays, for a woken lane looks at it (R569, log entry 119). -/
def LaneRegs.gated (r : LaneRegs) : LaneRegs := { LaneRegs.reset with state := r.state, enable := r.enable }

/-- A fabric domain is off: its lanes are DOWN and their registers lost. -/
def loseFabric (d : Nat) (s : State) : State :=
  (fabricLanes d).foldl (fun t n => t.modLaneRegs n LaneRegs.gated) (lanesOff d s)

/-- A radio domain is off; with both of them the contents of the radio buffers are lost (DESIGN CHOICE, log entry 119: the spec does
not say which domain the buffers lie in). -/
def RadioState.loseBuffers (r : RadioState) : RadioState := if r.dlOn || r.ulOn then r else { r with buf := Mem.empty }

/-- Domain `d` loses its registers and SRAMs (R568). Stacks of a Tower keep their contents. -/
def loseDomain (d : Nat) (s : State) : State :=
  if d < 16 then (s.modSpire (2 * d) Spire.powerOff).modSpire (2 * d + 1) Spire.powerOff
  else if d < 20 then loseTowerCommon (d - 16) s
  else if d < 22 then loseFabric d s
  else if d = 23 then s.modRadio (fun r => { r with dlOn := false }.loseBuffers)
  else if d = 24 then s.modRadio (fun r => { r with ulOn := false }.loseBuffers)
  else if d = 27 then s.modRm (fun m => { m with lines := Tab.empty })
  else s

/-- Gate one domain. -/
def gateDomain (s : State) (d : Nat) : State :=
  if s.pwr.domains.getLsbD d then
    loseDomain d (s.modPwr (fun p => { p with domains := p.domains &&& ~~~BitVec.twoPow 30 d }))
  else s

/-- Domains that a mask names. -/
def maskDomains (mask : Nat) : List Nat := (List.range 30).filter (fun d => bitAt mask d)

/-- The body of PWR_GATE. -/
def pwrGateBody (mask : Nat) (s : State) : State × Option Reply :=
  let l := maskDomains mask
  if 2 ^ 30 ≤ mask || l.any neverGated then refuse stBadArg s
  else if l.any (fun d => !s.gateOk d) then refuse stConflict s
  else (l.foldl gateDomain s, some (.of stOk))

def execPwrGate (issuer : Issuer) (mask : Nat) (s : State) : Host.Outcome State Fault Refusal :=
  .next (queueCommand 0x51 issuer (pwrGateBody mask) s)

/-- The body of PWR_UNGATE: it completes once every named domain is ready. -/
def pwrUngateBody (iss : Issuer) (mask : Nat) (s : State) : State × Option Reply :=
  let l := maskDomains mask
  if 2 ^ 30 ≤ mask then refuse stBadArg s
  else if l.all s.domainOn then (s, some (.of stOk))
  else ((touchDomains l s).modPwr (fun p => { p with wakers := p.wakers ++ [(iss, mask)] }), none)

def execPwrUngate (issuer : Issuer) (mask : Nat) (s : State) : Host.Outcome State Fault Refusal :=
  .next (queueCommand 0x52 issuer (pwrUngateBody issuer mask) s)

/-- Store CCLK of a woken Spire's wipe (R569). -/
def wakeWipe : Nat := 16384

/-- A woken Spire wipes its whole store; its JOB_LIMIT is the active Pavane's. -/
def wakeSpire (k : Nat) (s : State) : State :=
  let n : BitVec 6 := match s.image with
    | some p => BitVec.ofNat 6 (p.jobLimit k)
    | none => (s.spire k).xb.jobLimit
  if (s.spire k).seq.mode = .off then
    s.modSpire k (fun p => { p with
      seq := { p.seq with mode := .wiping, wipeLeft := wakeWipe }, xb := { p.xb with jobLimit := n } })
  else s

/-- What a woken domain does. -/
def domainWoke (d : Nat) (s : State) : State :=
  if d < 16 then wakeSpire (2 * d + 1) (wakeSpire (2 * d) s)
  else if d = 20 ∨ d = 21 then
    ((fabricLanes d).filter (fun n => (s.lane n).regs.enable)).foldl (fun t n => t.modLane n (Lane.train t.clock.tick)) s
  else if d = 23 then s.modRadio (fun r => { r with dlOn := true })
  else if d = 24 then s.modRadio (fun r => { r with ulOn := true })
  else if d = 26 then startFlashWrites s
  else s

/-- PWR_UNGATE commands whose domains are all ready complete. -/
def serveWakers (s : State) : State :=
  let ready (w : Issuer × Nat) : Bool := (maskDomains w.2).all s.domainOn
  (s.pwr.wakers.filter ready).foldl (fun t w => complete w.1 0x52 (.of stOk) t)
    (s.modPwr (fun p => { p with wakers := p.wakers.filter (fun w => !ready w) }))

/-- DOMAIN_READY. -/
def domainReady (d : Nat) (s : State) : State :=
  if s.pwr.waking.getLsbD d then
    serveWakers (domainWoke d (s.modPwr (fun p => { p with
      waking := p.waking &&& ~~~BitVec.twoPow 30 d, domains := p.domains ||| BitVec.twoPow 30 d })))
  else s

/-! ### Power states (R570 to R576) -/

/-- Codes of Table 17.5. -/
def powerMode : Nat → Option PowerMode
  | 0 => some .run
  | 1 => some .idle
  | 2 => some .sleep
  | 3 => some .deep
  | 4 => some .off
  | _ => none

/-- Does a Spire let the chip into a low-power state? -/
def State.spireQuiet (s : State) (k : Nat) : Bool :=
  let q := (s.spire k).seq
  (q.mode = .idle || q.mode = .off || q.mode = .fenced) && !q.reclaim

/-- Does the active Figure route transit through the chip? -/
def State.routesTransit (s : State) : Bool :=
  match s.image with
  | some p => match p.stepSet s.fab.figure with
    | some x => (p.steps.get [] x).any (fun r => !bitAt r 50 && field r 43 40 == 2)
    | none => false
  | none => false

/-- Conditions of every low-power state (Table 17.4). -/
def State.quiet (s : State) : Bool :=
  s.liveCells.isEmpty && (List.range 32).all s.spireQuiet && s.dsp.queue.isEmpty && s.tier.moves.isEmpty
    && s.transferTable.isEmpty

/-- Conditions of Sleep and below. -/
def State.fabricQuiet (s : State) : Bool := !s.routesTransit && decide (s.rm.outstanding = 0)

/-- The conditions of Table 17.4. -/
def State.entryOk (s : State) (m : PowerMode) : Bool :=
  match m with
  | .run => true
  | .idle => s.quiet
  | .sleep => s.quiet && s.fabricQuiet
  | .deep | .off => s.quiet && s.fabricQuiet && s.dome.stage.isNone

/-- Enter Idle or Sleep. Sleep takes the lanes down. -/
def enterLight (m : PowerMode) (s : State) : State :=
  let s1 := if m = .sleep then lanesOff 21 (lanesOff 20 s) else s
  let s2 := if m = .sleep && s.follows && decide (s.time.servo ≠ tsHoldover) then holdOver s1 else s1
  s2.modPwr (fun p => { p with mode := m })

/-- Enter a state whose conditions hold: Deep sleep and Off wait for the flash (R575). -/
def enterPower (m : PowerMode) (who : Option Issuer) (s : State) : State × Option Reply :=
  match m with
  | .run => (s, some (.of stOk))
  | .idle | .sleep => (enterLight m s, some (.of stOk))
  | .deep | .off => (s.modPwr (fun p => { p with deepTarget := some (m, who) }), none)

/-- The body of PWR_STATE. -/
def pwrStateBody (iss : Issuer) (target : Nat) (atTrigger : Bool) (s : State) : State × Option Reply :=
  match powerMode target with
  | none => refuse stBadArg s
  | some m =>
    if !(s.clk.chipState = .timeAcquire || s.clk.chipState = .ready) then refuse stConflict s
    else if s.pwr.entry.isSome || s.pwr.deepTarget.isSome then refuse stConflict s
    else
      let s1 := if s.pwr.mode = m then s else returnToRun s
      if s1.pwr.mode = m then (s1, some (.of stOk))
      else if !s1.entryOk m then refuse stConflict s
      else if atTrigger then (s1.modPwr (fun p => { p with entry := some m }), some (.of stDeferred))
      else enterPower m (some iss) s1

def execPwrState (issuer : Issuer) (target : Nat) (atTrigger : Bool) (s : State) : Host.Outcome State Fault Refusal :=
  .next (queueCommand 0x50 issuer (pwrStateBody issuer target atTrigger) s)

/-- LAST_STATUS of PWR_STATUS. -/
def pwrStatus (st : Nat) (s : State) : State := s.modPwr (fun p => { p with lastStatus := BitVec.ofNat 8 st })

/-- The armed entry meets its trigger (R572): the conditions are checked again. -/
def powerEntryFires (s : State) : State :=
  match s.pwr.entry with
  | none => s
  | some m =>
    let s1 := s.modPwr (fun p => { p with entry := none })
    if s1.entryOk m then pwrStatus stOk (enterPower m none s1).1 else pwrStatus stConflict s1

/-- The chip with every domain off, in Deep sleep or Off: only the wake island and, in Deep sleep, PWR_RETAIN keep their
contents. It is held so until a wake pin or RESET_N. -/
def switchOff (m : PowerMode) (s : State) : State :=
  let t := chipReset .wake s
  { t with
    clk := { t.clk with pendingReset := none }
    pwr := { t.pwr with mode := if m = .off then .off else .deep, domains := 0, retain := if m = .off then Mem.empty else t.pwr.retain } }

/-- DEEP_SLEEP_ENTRY (R575): no flash write is unacknowledged; the journal is written, the record and the message go out. -/
def deepSleepEntry (s : State) : State :=
  match s.pwr.deepTarget with
  | none => s
  | some (m, who) =>
    if s.flash.inflight.isEmpty && s.flash.waits.isEmpty then
      let s1 := { s with flash := s.flash.writeJournal }
      let s2 := match who with
        | some iss => complete iss 0x50 (.of stOk) s1
        | none => s1
      switchOff m (s2.emit (.mctp (.entering m)))
    else s

def execDeepSleepEntry (s : State) : Host.Outcome State Fault Refusal := .next (deepSleepEntry s)

/-- The body of PWR_WAKE_CFG. -/
def pwrWakeCfgBody (v : Nat) (s : State) : State × Option Reply :=
  (s.modPwr (fun p => { p with
    wakeEnable := BitVec.ofNat 4 (field v 3 0), wakePolarity := BitVec.ofNat 4 (field v 7 4) }), some (.of stOk))

def execPwrWakeCfg (issuer : Issuer) (v : Word) (s : State) : Host.Outcome State Fault Refusal :=
  .next (queueCommand 0x53 issuer (pwrWakeCfgBody v.toNat) s)

/-- The body of PWR_CAP. -/
def pwrCapBody (cap : Nat) (s : State) : State × Option Reply :=
  if cap < 1000 ∨ 2400 < cap then refuse stBadArg s
  else (s.modPwr (fun p => { p with cap := BitVec.ofNat 12 cap }), some (.of stOk))

def execPwrCap (issuer : Issuer) (cap : Nat) (s : State) : Host.Outcome State Fault Refusal :=
  .next (queueCommand 0x54 issuer (pwrCapBody cap) s)

/-- WAKE_PIN: an enabled pin has been at its active level for 1 µs (R574). Low on RESET_N it is ignored (Table 18.5). -/
def wakePin (i : Nat) (s : State) : State :=
  let lvl : BitVec 4 := BitVec.twoPow 4 i
  let up := s.pwr.wakePolarity.getLsbD i
  if !s.pwr.wakeEnable.getLsbD i || !s.pins.resetN then s
  else
    let s1 := { s with pins := { s.pins with wake := if up then s.pins.wake ||| lvl else s.pins.wake &&& ~~~lvl } }
    match s.pwr.mode with
    | .run => s1
    | .idle | .sleep => returnToRun (s1.modPwr (fun p => { p with woke := lvl }))
    | .deep | .off => (chipReset .wake s1).modPwr (fun p => { p with woke := lvl })

def execWakePin (i : Nat) (s : State) : Host.Outcome State Fault Refusal := .next (wakePin i s)

/-! ### The regulator interface (R577 to R579) -/

/-- Rail select `r`. -/
def State.rail (s : State) (r : Nat) : Rail := s.pwr.rails.get Rail.reset r

/-- Change rail select `r`. -/
def State.modRail (s : State) (r : Nat) (f : Rail → Rail) : State :=
  s.modPwr (fun p => { p with rails := p.rails.modify Rail.reset r f })

/-- Send a request. -/
def avsAsk (r : Nat) (ask : AvsAsk) (tries : Nat) (s : State) : State :=
  (s.modPwr (fun p => { p with request := some ⟨r, ask, s.clock.tick, tries⟩ })).emit (.avs r ask)

/-- Rail selects, and telemetry reads of a round: the voltage and the current of each. -/
def railCount : Nat := 16

/-- The next telemetry read: the voltage, then the current, of each rail present in turn (DESIGN CHOICE, log entry 44). -/
def telemetryNext (s : State) : State :=
  let n := s.pwr.nextRead
  match ((List.range (2 * railCount)).map (fun i => (n + i) % (2 * railCount))).find? (fun i => (s.rail (i / 2)).present) with
  | some i => avsAsk (i / 2) (if i % 2 = 0 then .readVoltage else .readCurrent) 0
      (s.modPwr (fun p => { p with nextRead := (i + 1) % (2 * railCount) }))
  | none => s

/-- With no request outstanding the bus sends the next one: a probe in BOOT, a voltage that waits, a voltage read of a rail that
settles, telemetry. -/
def avsSend (s : State) : State :=
  if s.pwr.request.isSome || !s.clk.done || s.clk.failed || s.pwr.mode = .deep || s.pwr.mode = .off then s
  else if s.clk.chipState = .boot && decide (s.pwr.probed < railCount) then
    avsAsk s.pwr.probed .readVoltage 0 (s.modPwr (fun p => { p with probed := p.probed + 1 }))
  else
    match s.pwr.queue.find? (fun q => (s.rail q.1).settle.isNone) with
    | some q => avsAsk q.1 (.write q.2) 0 (s.modPwr (fun p => { p with queue := p.queue.erase q }))
    | none =>
      match (List.range railCount).find? (fun r => (s.rail r).settle.isSome) with
      | some r => avsAsk r .readVoltage 0 s
      | none => telemetryNext s

/-- Ticks of CCLK in 5 µs and in 50 µs. -/
def tick5us : Nat := 8500
def tick50us : Nat := 85000

/-- A rail is settled by a voltage within 5 mV of the request, or after 50 µs. -/
def Rail.settled (v now : Nat) (r : Rail) : Rail :=
  match r.settle with
  | none => r
  | some t =>
    let near := decide (v ≤ r.setpoint.toNat + 5 ∧ r.setpoint.toNat ≤ v + 5)
    if near ∨ t + tick50us ≤ now then { r with settle := none } else r

/-- A rail that answers in BOOT is present; rails 0 to 4 are adjustable and stand at 0.80 V (R579). -/
def Rail.found (r : Nat) (x : Rail) : Rail :=
  if x.present then x
  else if r ≤ 4 then { x with present := true, adjustable := true, setpoint := 800 } else { x with present := true }

/-- What an acknowledged request does. -/
def avsDone (q : AvsRequest) (value : Nat) (s : State) : State :=
  let now := s.clock.tick
  let s1 := (s.modPwr (fun p => { p with request := none })).modRail q.rail (Rail.found q.rail)
  match q.ask with
  | .write mv => s1.modRail q.rail (fun r => { r with setpoint := BitVec.ofNat 12 mv, settle := some now })
  | .readVoltage => s1.modRail q.rail (fun r => { r with voltage := BitVec.ofNat 16 value }.settled value now)
  | .readCurrent => s1.modRail q.rail (fun r => { r with current := BitVec.ofNat 16 value })

/-- A request that is not acknowledged: up to three retries, then the rail is absent (in BOOT, before it has answered) or at
FAULT. -/
def avsFail (q : AvsRequest) (s : State) : State :=
  if q.tries < 3 then avsAsk q.rail q.ask (q.tries + 1) s
  else
    let s1 := s.modPwr (fun p => { p with request := none, queue := p.queue.filter (fun x => x.1 != q.rail) })
    avsSend (s1.modRail q.rail (fun r => if r.present then { r with fault := true, settle := none } else r))

/-- AVS_RESPONSE. -/
def avsResponse (crcOk : Bool) (ack value : Nat) (s : State) : State :=
  match s.pwr.request with
  | none => s
  | some q => if crcOk && ack = 0 then avsSend (avsDone q value s) else avsFail q s

def execAvsResponse (crcOk : Bool) (ack value : Nat) (s : State) : Host.Outcome State Fault Refusal :=
  .next (avsResponse crcOk ack value s)

/-- AVS_TIMEOUT: 5 µs without acknowledgement. -/
def avsTimeout (s : State) : State :=
  match s.pwr.request with
  | none => s
  | some q => if q.sent + tick5us ≤ s.clock.tick then avsFail q s else s

def execAvsTimeout (s : State) : Host.Outcome State Fault Refusal := .next (avsTimeout s)

/-- The path monitors of a core rail (R579). -/
def railMonitors (r : Nat) : List Nat := if r < 4 then tileRange (12 * r) 12 else tileRange 48 16

/-- The lowest slack of a rail's monitors over the last 50 µs. -/
def State.railSlack (s : State) (r : Nat) : Option Nat :=
  leastOf ((railMonitors r).filterMap (fun n => (s.rel.pm.get PathMon.reset n).recent))

/-- Limits of a requested voltage in mV. -/
def voltMin : Nat := 620
def voltMax : Nat := 860

/-- The voltage that the loop asks for (Table 17.6). -/
def loopTarget (stretch : Bool) (slack v : Nat) : Nat :=
  let lo := if stretch then 18 else 30
  let hi := if stretch then 30 else 45
  if slack < lo then min voltMax (v + 10) else if hi < slack then max voltMin (v - 5) else v

/-- Does the loop run for a rail: suspended in Idle for the Tower rails, in Sleep for all (R579)? -/
def State.loopRuns (s : State) (r : Nat) : Bool :=
  s.pwr.mode = .run || (s.pwr.mode = .idle && r == 4)

/-- One rail's turn in the loop. A rail that settles, or whose request waits, asks nothing further (R578). -/
def loopRail (s : State) (r : Nat) : State :=
  let x := s.rail r
  let busy := x.settle.isSome || s.pwr.queue.any (fun q => q.1 == r) ||
    (match s.pwr.request with
     | some q => q.rail == r && (match q.ask with
       | .write _ => true
       | _ => false)
     | none => false)
  if !x.adjustable || x.fault || busy || !s.loopRuns r then s
  else match s.railSlack r with
    | none => s
    | some g =>
      let v := loopTarget s.clk.mode g x.setpoint.toNat
      if v = x.setpoint.toNat then s else s.modPwr (fun p => { p with queue := p.queue ++ [(r, v)] })

/-- AVS_LOOP_TICK, every 50 µs from TIME_ACQUIRE on. -/
def avsLoopTick (s : State) : State :=
  if (s.clk.chipState = .timeAcquire || s.clk.chipState = .ready) && decide (s.pwr.loopAt + tick50us ≤ s.clock.tick) then
    let s1 := (List.range 5).foldl loopRail s
    let s2 := s1.modRel (fun r => { r with
      pm := r.pm.modifyAll PathMon.reset (List.range 64) (fun _ p => { p with recent := none }) })
    avsSend (s2.modPwr (fun p => { p with loopAt := s.clock.tick }))
  else s

def execAvsLoopTick (s : State) : Host.Outcome State Fault Refusal := .next (avsLoopTick s)

/-! ### Throttling and emergency stops (R580 to R583) -/

/-- TEMP_MAX: the highest sampled reading with its sensor (R564). -/
def State.tempMax (s : State) : Int × Nat :=
  (List.range 96).foldl (fun b n =>
    let t := toSigned 16 (s.dome.temps.get 0 n).toNat
    if n = 0 ∨ b.1 < t then (t, n) else b) (0, 0)

/-- A temperature of whole °C in 1/16 °C. -/
def degrees (c : Int) : Int := 16 * c

/-- Module power P in W: mV times 0.1 A over every rail present. -/
def State.modulePower (s : State) : Nat :=
  ((List.range railCount).foldl (fun n r =>
    n + (if (s.rail r).present then (s.rail r).voltage.toNat * (s.rail r).current.toNat else 0)) 0) / 10000

/-- Samples that the mean takes in. -/
def meanOf : Nat := 100

/-- Does the mean of the last 100 samples exceed 2,400 W? Before the hundredth, those taken so far (log entry 45). -/
def sustained (l : List Nat) : Bool := decide (2400 * l.length < l.sum)

/-- Causes of an emergency stop, as bits. -/
abbrev causeAlert : Nat := 0
abbrev causePeak : Nat := 1
abbrev causeSustained : Nat := 2
abbrev causeThermal : Nat := 3
abbrev causePowerFail : Nat := 4

/-- Are the conditions that samples show absent (R583)? -/
def State.samplesQuiet (s : State) : Bool :=
  decide (s.pwr.samples.headD 0 ≤ 2700) && !sustained s.pwr.samples && decide (s.tempMax.1 < degrees 90)

/-- A condition arises (R582): its bit is set; a stop starts unless one is in force, with the causes of the one before cleared
(DEDUCED, log entry 46). -/
def estopRaise (cause : Nat) (s : State) : State :=
  let bit : BitVec 5 := BitVec.twoPow 5 cause
  let s1 := s.modPwr (fun p => { p with
    causes := if p.estop then p.causes ||| bit else bit
    clearSince := if s.samplesQuiet then some s.clock.tick else none })
  if s.pwr.estop then s1
  else (List.range 32).foldl (fun t k => powerStop k t)
    (s1.modPwr (fun p => { p with estop := true, estops := satInc p.estops }))

/-- After a sample: since when the conditions have been absent. -/
def noteQuiet (s : State) : State :=
  s.modPwr (fun p => { p with
    clearSince := if s.samplesQuiet then some (p.clearSince.getD s.clock.tick) else none })

/-- The level after a sample (R580). -/
def State.nextLevel (s : State) (p : Nat) : Nat :=
  let l := min s.pwr.level s.throttleMax
  let cap := s.pwr.cap.toNat
  let n := if cap < p ∨ degrees 92 ≤ s.tempMax.1 then l + 1 else if p + 50 < cap then l - 1 else l
  min n s.throttleMax

/-- Set the level; replays of Spires that it releases go on. -/
def setLevel (n : Nat) (s : State) : State :=
  let s1 := s.modPwr (fun p => { p with level := n })
  ((List.range 32).filter (fun k => s.throttled k && !s1.throttled k)).foldl (fun t k => replayIssue k t.cyc t) s1

/-- The number of whole 100 µs of hall time. -/
def State.sampleNo (s : State) : Nat := s.now / nsUnits 100000

/-- THROTTLE_SAMPLE: P is formed; the stop comes before the level, which holds while one is in force. -/
def throttleSample (s : State) : State :=
  if !s.clk.done || !s.timeRuns || s.sampleNo = s.pwr.sampleAt then s
  else
    let p := s.modulePower
    let s1 := s.modPwr (fun x => { x with samples := (p :: x.samples).take meanOf, sampleAt := s.sampleNo })
    let s2 := noteQuiet s1
    let s3 := if 2700 < p then estopRaise causePeak s2 else s2
    let s4 := if sustained s1.pwr.samples then estopRaise causeSustained s3 else s3
    if s4.pwr.estop then s4 else setLevel (s4.nextLevel p) s4

def execThrottleSample (s : State) : Host.Outcome State Fault Refusal := .next (throttleSample s)

/-- VR_ALERT: VR_ALERT_N falls. -/
def vrAlert (s : State) : State :=
  let s1 := { s with pins := { s.pins with vrAlertN := false } }
  if s.clk.done then estopRaise causeAlert s1 else s1

def execVrAlert (s : State) : Host.Outcome State Fault Refusal := .next (vrAlert s)

/-- 100 µs in CCLK ticks. -/
def tick100us : Nat := 170000

/-- ESTOP_END: VR_ALERT_N and POWER_FAIL_N have been high, and every other condition absent, for 100 µs (R583). -/
def estopEnd (s : State) : State :=
  match s.pwr.clearSince with
  | none => s
  | some t =>
    if s.pwr.estop && s.samplesQuiet && decide (t + tick100us ≤ s.clock.tick) then
      let s1 := { s with
        pins := { s.pins with vrAlertN := true, powerFailN := true }
        pwr := { s.pwr with estop := false, clearSince := none, stopped := [], owed := [] } }
      let s2 := setLevel (min 16 s1.throttleMax) s1
      s.pwr.stopped.foldl (fun u k => resumeSpire k u) s2
    else s

def execEstopEnd (s : State) : Host.Outcome State Fault Refusal := .next (estopEnd s)

/-! ### Sensors (R539, R599) -/

/-- The wake island drives THERMTRIP_N low at 105 °C. -/
def thermtrip (s : State) : State := { s with pins := { s.pins with trips := true } }

/-- SENSOR_SAMPLE: readings of the 96 thermal sensors in 1/16 °C and of the 48 voltage monitors in mV; missing readings keep
their registers. -/
def sensorSample (temps volts : List Nat) (s : State) : State :=
  if !s.domeWorks then s
  else
    let put (l : List Nat) (n : Nat) (t : Tab (BitVec 16)) : Tab (BitVec 16) :=
      ((l.take n).zipIdx).foldl (fun u p => u.set 0 p.2 (BitVec.ofNat 16 p.1)) t
    let was := s.tempMax.1
    let s1 := s.modDome (fun d => { d with sampled := true, temps := put temps 96 d.temps, volts := put volts 48 d.volts })
    let c := s.dome.cfg
    let hot := (temps.take 96).any (fun t => decide (c.tempHigh < toSigned 16 t))
    let off := (volts.take 48).any (fun v => decide (v < c.voltLow) || decide (c.voltHigh < v))
    let s2 := if (hot || off) && decide (s.dome.chipId ≠ 0xFFFF) then ringDome 8 s1 else s1
    let s3 := if degrees 105 ≤ s2.tempMax.1 then thermtrip s2 else s2
    let s4 := noteQuiet s3
    if degrees 95 ≤ s4.tempMax.1 ∧ (was < degrees 95 ∨ !s.dome.sampled ∨ !s.pwr.estop) then estopRaise causeThermal s4 else s4

def execSensorSample (temps volts : List Nat) (s : State) : Host.Outcome State Fault Refusal :=
  .next (sensorSample temps volts s)

/-- WAKE_ISLAND_THERMTRIP: a sensor reads `temp` °C while the Dome does not sample. -/
def execWakeIslandThermtrip (temp : Int) (s : State) : Host.Outcome State Fault Refusal :=
  .next (if 105 ≤ temp then thermtrip s else s)

/-! ### Pins and supplies (R291, R292, R597, R598) -/

/-- An entry to Deep sleep or Off is cancelled (Table 17.7). -/
def cancelDeep (s : State) : State :=
  match s.pwr.deepTarget with
  | some (_, some iss) => complete iss 0x50 (.of stConflict) (s.modPwr (fun p => { p with deepTarget := none }))
  | some (_, none) => pwrStatus stConflict (s.modPwr (fun p => { p with deepTarget := none }))
  | none => s

/-- POWER_FAIL: no further NAND program or erase starts, the journal's counts are written, an emergency stop starts. -/
def powerFail (s : State) : State :=
  let s1 := cancelDeep { s with
    pins := { s.pins with powerFailN := false, failAt := some s.clock.tick }
    flash := s.flash.writeJournal }
  if s.clk.done then estopRaise causePowerFail s1 else s1

def execPowerFail (s : State) : Host.Outcome State Fault Refusal := .next (powerFail s)

/-- POWER_FAIL_RECOVERY: POWER_FAIL_N has been high for 100 ms, so it fell no later than that ago. -/
def powerFailRecovery (s : State) : State :=
  match s.pins.failAt with
  | some t =>
    if t + tick100ms ≤ s.clock.tick then
      startFlashWrites { s with
        pins := { s.pins with powerFailN := true, failAt := none }
        flash := { s.flash with noProgram := false, journal := false } }
    else s
  | none => s

/-- Is POWER_FAIL_N low with the journal unwritten (R291)? -/
def State.journalDue (s : State) : Bool := s.flash.noProgram && !s.flash.journal

/-- A reset of RESET_N that has waited for the journal proceeds (Table 18.5). -/
def heldReset (s : State) : State := if s.pins.resetHeld && !s.journalDue then chipReset .resetPin s else s

/-- POWER_FAIL_RECOVERY ends the wait of a held reset too. -/
def execPowerFailRecovery (s : State) : Host.Outcome State Fault Refusal := .next (heldReset (powerFailRecovery s))

def execFlashWriteAck (a : WriteAck) (s : State) : Host.Outcome State Fault Refusal :=
  .next (heldReset (flashWriteAck a.tile (a.failed.map (·.val)) s))

/-- RESET_PIN_ASSERT: RESET_N is low for `us` µs. Below 1 µs it is ignored; from 10 µs on the chip resets; between, whether it
does is left open: a free value. While the journal is unwritten after POWER_FAIL_N the reset waits for it. -/
def resetPinAssert (us : Nat) (s : State) : State :=
  let reset (t : State) : State := heldReset { t with pins := { t.pins with resetN := false, resetHeld := true } }
  if 10 ≤ us then reset s
  else if us = 0 then s
  else if s.freeValue % 2 = 1 then reset s.useFree else s.useFree

def execResetPinAssert (us : Nat) (s : State) : Host.Outcome State Fault Refusal := .next (resetPinAssert us s)

/-- POWER_LOSS: what comes back at the next power-on (R292). -/
def execPowerLoss (s : State) : Host.Outcome State Fault Refusal := .next (chipReset .powerOn s)

end Sys2Proof.Machine
end

