-- ==== Sys2Proof/Machine/Trigger.lean ====
section
/-! DEFINITION. The firing of trigger channels (02), counter snapshots (03), and what a period start does. -/

namespace Sys2Proof.Machine

open Sys2Proof

/-! ### Counter snapshot (R111, R112) -/

/-- Is Spire `k` captured: not gated, fenced or out of service? -/
def State.captured (s : State) (k : Nat) : Bool := s.inService k && s.domainOn (k / 2) && !(s.healthOf k).fenced

/-- The captured counters of a Spire. -/
def SpireCounters.snapshot (cyc : Nat) (c : SpireCounters) : SpireCounters :=
  { c with
    snapCycle := BitVec.ofNat 64 (c.frozen.getD cyc)
    pmc := c.pmc.modifyAll Pmc.reset (List.range 8) (fun _ p => { p with snap := p.count }) }

/-- Captured Spires, as SNAP_VALID shows them. -/
def State.snapMask (s : State) : Word :=
  (List.range 32).foldl (fun (m : Word) k => if s.captured k then m ||| BitVec.twoPow 32 k else m) 0

/-- A snapshot. No action of the same BCLK that comes before it changes a counter's Spire, so what it copies is what stood at
the start; event counts that a switchover or period start adds are taken from `old`, the state at the start (R79). -/
def snapshot (old s : State) : State :=
  let ks := (List.range 32).filter old.captured
  let copy (t : State) (k : Nat) : State :=
    let c := (old.spire k).cnt.snapshot old.cyc
    t.modSpire k (fun p => { p with cnt := { p.cnt with
      snapCycle := c.snapCycle
      pmc := p.cnt.pmc.modifyAll Pmc.reset (List.range 8) (fun i x => { x with snap := (c.pmc.get Pmc.reset i).snap }) } })
  let s1 := ks.foldl copy s
  let put (i : Nat) (b : BelfryCounter) : BelfryCounter := { b with snap := (old.cnt.bpmc.get BelfryCounter.reset i).count }
  { s1 with cnt := { s1.cnt with
    snapSeq := s1.cnt.snapSeq + 1
    snapTime := old.time.hall
    snapValid := old.snapMask
    snapNdc := old.cnt.ndc
    bpmc := s1.cnt.bpmc.modifyAll BelfryCounter.reset (List.range 16) put } }

/-! ### Period start (R31, R54, R62, R79, R96, R99, R521, R573) -/

/-- The increment in force from this period start on. One that waits and that lies outside the range of R63 while a Pavane is active,
as when this period start activates one, is ignored (DEDUCED from R63, log entry 139). -/
def State.periodIncr (s : State) : Nat :=
  match s.time.incrNext with
  | some x => if s.fab.active.isNone || incrInActiveRange x then x else s.time.incr
  | none => s.time.incr

/-- The clocks at a period start: the mode staged, the increment that waits, the stretch budget. -/
def clocksPeriod (s : State) : State :=
  let i := s.periodIncr
  let t := { s.time with
    incr := i, incrNext := none
    incrRejects := if s.time.incrNext.getD i = i then s.time.incrRejects else satInc s.time.incrRejects }
  { s with
    clock := { s.clock with plan := 0 }
    time := t
    clk := { s.clk with mode := s.clk.modeStaged, stretchUsed := 0, budget := stretchBudget i } }

/-- The active Pavane and Figure. -/
def State.plan (s : State) : Option Bool × Nat := (s.fab.active, s.fab.figure)

/-- What is due at the period start with target `t`: switch and activation, the end of the old period, the new one. -/
def periodStart (t : Nat) (s : State) : State :=
  let s1 := takeActivation t (takeSwitch t s)
  let s2 := livenessPeriod (drainPeriodEnd s1)
  let s3 := (clocksPeriod s2).modTime (fun x => { x with periods := x.periods + 1, periodTarget := t })
  let s4 := healthPeriod (beSample (s3.modPwr (fun p => { p with restart := false })))
  if s4.plan = s.plan then s4 else retestQueue s4

/-! ### TRIG_n_CTRL (R77, R311) -/

/-- Instances of the channel's registers that are past at an ARM (R76). -/
def TrigChan.missedAt (c : TrigChan) (now : Nat) : Nat :=
  if now < c.targetReg then 0 else if c.periodReg = 0 then 1 else (now - c.targetReg) / c.periodReg + 1

/-- Slot starts that an ARM by MID 0 finds past, as group, number and first target: those counted MISSED (R76, R311). The starts of a
channel that a write disarms are lost when they pass (`slotStartsPass`). -/
def slotsNotFired (c : TrigChan) (now : Nat) (v : Word) : Nat × Nat × Nat :=
  if c.armed then (0, 0, 0)
  else if bitW v 31 && decide (fieldW v 27 24 = 3) && c.armOk 3 (fieldW v 20 16) then
    (fieldW v 20 16, c.missedAt now, c.targetReg)
  else (0, 0, 0)

/-- A write of TRIG_n_CTRL takes effect: slot starts that it takes away are lost (R311). -/
def trigCtrlTakes (mid n : Nat) (v : Word) (s : State) : State :=
  let x := slotsNotFired (s.trigger n) s.now v
  let s1 := s.modTrigger n (fun c => c.regWrite mid 0 s.now v)
  if mid = 0 ∧ x.2.1 ≠ 0 then radioSlotsLost x.1 x.2.1 x.2.2 s1 else s1

/-- Does channel `n` fire in this BCLK (R74)? -/
def State.triggerDue (s : State) (n : Nat) : Bool := s.timeRuns && (s.trigger n).due s.now

/-- A write of the register at offset `o` of trigger channel `n`. In the BCLK in which the channel fires it waits for the firing; a
disarm in an earlier BCLK stops the firing of every later one (R77). -/
def trigWrite (mid n o : Nat) (v : Word) (s : State) : State :=
  if s.triggerDue n then s.modTrigger n (fun c => c.deferWrite mid o v)
  else if o = 0 then trigCtrlTakes mid n v s
  else s.modTrigger n (fun c => c.regWrite mid o s.now v)

/-- TRIG_CTRL_WRITE (R77): from MID 0 or MID 1; no other MID reaches the register. -/
def trigCtrlWrite (mid n : Nat) (v : Word) (s : State) : State := if 1 < mid then s else trigWrite mid n 0 v s

/-- The writes that waited for the firing of channel `n` take effect, oldest first. -/
def lateWrites (s : State) (n : Nat) : State :=
  let l := (s.trigger n).late
  l.foldl (fun t w => if w.1 = 0 then trigCtrlTakes w.2.1 n w.2.2 t else t.modTrigger n (fun c => c.regWrite w.2.1 w.1 t.now w.2.2))
    (s.modTrigger n (fun c => { c with late := [] }))

def execTrigCtrlWrite (mid n : Nat) (v : Word) (s : State) : Host.Outcome State Fault Refusal :=
  .next (onBus (trigCtrlWrite mid n v) s)

/-! ### Actions (R74 to R80) -/

/-- A time-output pin takes a level at the target itself (R74); the capture channels see an edge. -/
def pinEdge (arg t : Nat) (s : State) : State :=
  let i := arg % 4
  let up := bitAt arg 3
  if s.pins.tout.getLsbD i = up then s
  else
    let m : BitVec 4 := BitVec.twoPow 4 i
    captureAt (hallOf t) (3 + i) 0 up
      { s with pins := { s.pins with tout := if up then s.pins.tout ||| m else s.pins.tout &&& ~~~m } }

/-- The gated domains that an action needs (R80): a slot start the downlink and the uplink engines, a switch to a Figure with
gateway flows the gateway. -/
def State.actionNeeds (s : State) (c : TrigChan) : List Nat :=
  if c.action.toNat = 3 then [23, 24]
  else if c.action.toNat = 2 && (s.modFab (fun f => { f with figure := c.arg.toNat })).isGateway then [27]
  else []

/-- Is the action of a channel suppressed (R80, Table 2.7)? -/
def State.suppresses (s : State) (c : TrigChan) : Bool :=
  let a := c.action.toNat
  if s.pwr.mode = .sleep then (decide (1 ≤ a ∧ a ≤ 4)) || (a == 7 && decide (c.mid ≠ 0))
  else !(s.actionNeeds c).all s.domainOn

/-- The order in which the actions of one BCLK take effect (R79). -/
def actionOrder : List Nat := [2, 1, 3, 4, 6, 5, 7]

/-- A fired action; `old` is the state at the start of the BCLK. -/
def fireAction (old : State) (c : TrigChan) (s : State) : State :=
  let arg := c.arg.toNat
  match c.action.toNat with
  | 1 => periodStart c.target s
  | 2 =>
    let s1 := switchover arg c.target s
    if s1.plan = s.plan then s1 else retestQueue s1
  | 3 => radioSlotStart arg c.target s
  | 4 => snapshot old s
  | 5 => powerEntryFires s
  | 6 => pinEdge arg c.target s
  | 7 => ringMid c.mid arg s
  | _ => s

/-- What a channel becomes when it fires (R75). -/
def TrigChan.fired (suppressed : Bool) (c : TrigChan) : TrigChan :=
  { c with
    fires := c.fires + 1
    suppressed := c.suppressed || suppressed
    armed := decide (c.period ≠ 0)
    target := c.target + c.period }

/-- The channels that fire now. -/
def State.firing (s : State) : List Nat :=
  (List.range 32).filter (fun n => (s.trigger n).due s.now)

/-- A radio slot start whose action is suppressed opens no slot: the slots that it would open are lost. -/
def suppressAction (c : TrigChan) (s : State) : State :=
  if c.action.toNat = 3 then radioSlotsLost c.arg.toNat 1 c.target s else s

/-- The action of one channel, or its suppression. -/
def channelActs (old : State) (s : State) (n : Nat) : State :=
  let c := old.trigger n
  if old.suppresses c then suppressAction c s else fireAction old c s

/-- TRIGGER_FIRE: the channels that are due fire, their actions take effect in R79's order, and the writes that landed in this BCLK
come after. -/
def triggerFire (s : State) : State :=
  if !s.timeRuns then s
  else
    let l := s.firing
    let s1 := l.foldl (fun t n => t.modTrigger n (TrigChan.fired (s.suppresses (s.trigger n)))) s
    let inOrder := actionOrder.flatMap (fun a => l.filter (fun n => (s.trigger n).action.toNat == a))
    l.foldl lateWrites (inOrder.foldl (channelActs s) s1)

def execTriggerFire (s : State) : Host.Outcome State Fault Refusal := .next (triggerFire s)

end Sys2Proof.Machine
end

