-- ==== Sys2Proof/Machine/Registers.lean ====
section
/-! DEFINITION. REGISTER_WRITE: a write of a 32-bit register through BAR0 (page 0) or through a lease's page (R2 to R11, R32 to
R35, R466, R467). Fields take the value by their access types (R5); a register whose write is a row of the opcode table of its
own acts as that row does. -/

namespace Sys2Proof.Machine

open Sys2Proof

/-! ### Helpers -/

/-- What a W1C field of `w` bits becomes: each bit written 1 clears (Table 0.2). -/
def w1c {w : Nat} (x : BitVec w) (v : Nat) : BitVec w := x &&& ~~~(BitVec.ofNat w v)

/-- A value that keeps a field's limits; out of them it is a host argument error, and the field takes a free value within them
(R479, R480). -/
def withinOrFree (lo hi x : Nat) (s : State) : Nat × State :=
  if lo ≤ x ∧ x ≤ hi then (x, s) else (lo + s.freeValue % (hi - lo + 1), s.useFree)

/-! ### Time unit (02) -/

/-- May firmware move TIME_STATE.STATE so: LOCKED is declared under R68's condition and left only for HOLDOVER? -/
def State.servoMay (s : State) (x : BitVec 3) : Bool :=
  if s.time.servo = tsLocked then decide (x = tsHoldover) else decide (x ≠ tsLocked) || s.lockHolds

/-- TIME_STATE, written by firmware (R68, R70): a change of STATE is logged, and one to HOLDOVER rings the Dome's bit 7. A change that
R68 rules out is not made (DEDUCED, log entry 139). -/
def timeStateWrite (v : Word) (s : State) : State :=
  let x : BitVec 3 := BitVec.ofNat 3 (fieldW v 2 0)
  let s1 := s.modTime (fun t => { t with role := bitW v 4 })
  if x = s.time.servo || !s1.servoMay x then s1
  else if x = tsHoldover then ringDome 7 (setServo x s1)
  else setServo x s1

/-- PPS_OUT_CTRL (R71, R73). -/
def ppsOutCtrlWrite (v : Word) (s : State) : State :=
  s.modTime (fun t => { t with
    ppsEnable := bitW v 31, ppsWidth := BitVec.ofNat 10 v.toNat
    ppsSec := if bitW v 31 && !t.ppsEnable then t.hall.sec else t.ppsSec })

/-- TIME_SET_CTRL: MODE, and GO (R72). -/
def timeSetCtrlWrite (v : Word) (s : State) : State :=
  if bitW v 0 then timeSetGo 0 (bitW v 1) s else s.modTime (fun t => { t with setMode := bitW v 1 })

/-- Registers that MID 0 alone writes, by their offset in the time unit. -/
def timeDomeWrite (o : Nat) (v : Word) (s : State) : State :=
  match o with
  | 0x00 => timeStateWrite v s
  | 0x30 => s.modTime (fun t => { t with setSecLo := v })
  | 0x34 => s.modTime (fun t => { t with setSecHi := v })
  | 0x38 => s.modTime (fun t => { t with setNs := v })
  | 0x3C => s.modTime (fun t => { t with setFrac := v })
  | 0x40 => timeSetCtrlWrite v s
  | 0x50 => ppsOutCtrlWrite v s
  | _ => s

/-- CAP_c_CTRL (R83): the fields, and then a strobe. -/
def capCtrlWrite (mid c : Nat) (v : Word) (s : State) : State :=
  let set (x : CapChan) : CapChan :=
    { x with
      enable := bitW v 31, edge := bitW v 30, arg := BitVec.ofNat 6 (fieldW v 21 16), source := BitVec.ofNat 4 v.toNat }
  let s1 := { s with cap := s.cap.modify CapChan.reset c set }
  if bitW v 29 then capStrobeWrite mid s1 else s1

/-- The time unit's block. TIME_LATCH serves MID 1; the Dome has a latch of its own (R60). -/
def timeWrite (mid o : Nat) (v : Word) (s : State) : State :=
  if o = 0x04 then (if mid = 1 && bitW v 0 then timeLatch 1 s else s)
  else if o = 0x20 then timeIncrLoWrite mid v s
  else if o = 0x24 then timeIncrHiWrite mid v s
  else
    match regIndex o 0x100 0x20 32, regIndex o 0x800 0x20 8 with
    | some (n, r), _ => trigWrite mid n r v s
    | _, some (c, r) => if r = 0 then capCtrlWrite mid c v s else s
    | _, _ => if mid = 0 then timeDomeWrite o v s else s

/-! ### Clocks and power, counters (02, 03, 17) -/

/-- The clocks, reset and power block: CLK_MODE, PWR_WAKE.WOKE, PWR_RETAIN. -/
def clockWrite (mid o : Nat) (v : Word) (s : State) : State :=
  if o = 0x40 then clkModeWrite mid v.toNat s
  else if o = 0x114 then s.modPwr (fun p => { p with woke := w1c p.woke (fieldW v 11 8) })
  else if 0x8000 ≤ o then s.modPwr (fun p => { p with retain := p.retain.writeLE (o - 0x8000) 4 v.toNat })
  else s

/-- The counters block. -/
def counterWrite (mid o : Nat) (v : Word) (s : State) : State :=
  if o = 0 then cntFreezeWrite mid v.toNat s
  else if o = 0x78 then (if bitW v 0 then ndcClear mid s else s)
  else
    match regIndex o 0x200 0x20 16 with
    | some (n, 0) => evselWrite mid none n v.toNat s
    | _ => s

/-! ### Functions: rings, doorbells, MSI-X (14) -/

/-- Doorbell bits that were given `b` as their BCLK. -/
def bitsAt (t : Tab Nat) (b : Nat) : Word := (t.entries.filter (fun p => p.2 == b)).foldl (fun w p => w ||| BitVec.twoPow 32 p.1) 0

/-- DB_STATUS of a MID after a write that clears bits (R487, Tables 14.6 and 14.7): a bit that the device sets in this BCLK stays
1, bit 16 as long as a channel for the MID holds a word. -/
def State.doorbellLeft (s : State) (mid : Nat) (setAt : Tab Nat) (x v : Word) : Word :=
  let full := (List.range 64).any (fun c => (s.channel c).receives mid && !(s.channel c).fifo.isEmpty)
  w1c x v.toNat ||| (x &&& bitsAt setAt (s.bclkTick + 1)) ||| (if full then x &&& 0x10000 else 0)

/-- A write of DB_STATUS of function `f`. -/
def doorbellWrite (f : Nat) (v : Word) (s : State) : State :=
  s.modFunc f (fun y =>
    let left := s.doorbellLeft (f + 1) y.dbSetAt y.dbStatus v
    let gone := (List.range 32).filter (fun i => y.dbStatus.getLsbD i && !left.getLsbD i)
    { y with dbStatus := left, dbClearAt := gone.foldl (fun t i => t.set 0 i (s.bclkTick + 1)) y.dbClearAt })

/-- A word of a function's MSI-X table; a vector that is unmasked while its pending bit is set is sent (PCIe). -/
def msixWrite (f i : Nat) (v : Word) (s : State) : State :=
  let x : Word := v ^^^ (if i % 4 = 3 then 1 else 0)
  let s1 := s.modFunc f (fun y => { y with msix := y.msix.set 0 i x })
  if i % 4 = 3 && !bitW v 0 && (s.func f).pba.getLsbD (i / 4) then
    (s1.modFunc f (fun y => { y with pba := w1c y.pba (2 ^ (i / 4)) })).emit (.msix f (i / 4))
  else s1

/-- Set QP_CTRL.STATUS. -/
def pairStatus (f q st : Nat) (s : State) : State := s.modPair f q (fun p => { p with status := BitVec.ofNat 8 st })

/-- A base register of a pair: SQ_BASE_LO, SQ_BASE_HI, CQ_BASE_LO, CQ_BASE_HI. -/
def Pair.setBase (i : Nat) (v : Word) (p : Pair) : Pair :=
  match i with
  | 0 => { p with sqBase := withLo p.sqBase v }
  | 1 => { p with sqBase := withHi p.sqBase v }
  | 2 => { p with cqBase := withLo p.cqBase v }
  | _ => { p with cqBase := withHi p.cqBase v }

/-- A low base register keeps its reserved bits 11:0 at 0. -/
def pageAligned (v : Word) : Bool := fieldW v 11 0 == 0

/-- A legal value of a low base register that a host argument error leaves (R480). -/
def State.freeBase (s : State) : Word := word (s.freeValue % 2 ^ 20 * 4096)

/-- A base register of pair `q` (R470, R478, R479). -/
def pairBaseWrite (f q i : Nat) (v : Word) (s : State) : State :=
  if (s.pair f q).enable then pairStatus f q stConflict s
  else if i % 2 = 1 || pageAligned v then s.modPair f q (Pair.setBase i v)
  else if f = 0 then (s.modPair f q (Pair.setBase i s.freeBase)).useFree
  else pairStatus f q stBadArg s

/-- Limits of a ring's LOG2 (R470). -/
def log2Ok (x : Nat) : Bool := decide (4 ≤ x ∧ x ≤ 16)

/-- QP_SIZE (R470, R478, R479). -/
def qpSizeWrite (f q : Nat) (v : Word) (s : State) : State :=
  let a := fieldW v 4 0
  let b := fieldW v 12 8
  let put (x y : Nat) (t : State) : State := t.modPair f q (fun p => { p with sqLog2 := BitVec.ofNat 5 x, cqLog2 := BitVec.ofNat 5 y })
  if (s.pair f q).enable then pairStatus f q stConflict s
  else if log2Ok a && log2Ok b then put a b s
  else if f = 0 then (put (4 + s.freeValue % 13) (4 + s.freeValue / 13 % 13) s).useFree
  else pairStatus f q stBadArg s

/-- A register of pair `q` of the function of a MID (Table 14.9). -/
def pairWrite (mid q o : Nat) (v : Word) (s : State) : State :=
  if !s.ringsOpen mid then s
  else
    let f := mid - 1
    match o with
    | 0x00 => pairBaseWrite f q 0 v s
    | 0x04 => pairBaseWrite f q 1 v s
    | 0x08 => pairBaseWrite f q 2 v s
    | 0x0C => pairBaseWrite f q 3 v s
    | 0x10 => qpSizeWrite f q v s
    | 0x14 => qpCtrlWrite mid q v.toNat s
    | 0x18 => sqTailWrite mid q (v.toNat % 2 ^ 16) s
    | 0x20 => cqHeadWrite mid q (v.toNat % 2 ^ 16) s
    | _ => s

/-- A receive ring as it is set up by ENABLE (R470, R495). -/
def RxRing.start (r : RxRing) : RxRing :=
  { r with enable := true, error := false, head := 0, tail := 0, phase := true, used := 0 }

/-- A receive ring with ENABLE written, and LOG2 if it was not enabled. -/
def RxRing.ctrl (log2 : Nat) (on : Bool) (r : RxRing) : RxRing :=
  if r.enable then { r with enable := on }
  else
    let x := { r with log2 := BitVec.ofNat 5 log2 }
    if on then x.start else x

/-- BERX_CTRL (R478, R479, R495). -/
def rxCtrlWrite (f : Nat) (v : Word) (s : State) : State :=
  let n := fieldW v 12 8
  let put (n : Nat) (t : State) : State := t.modFunc f (fun y => { y with rx := y.rx.ctrl n (bitW v 0) })
  if log2Ok n then put n s
  else if f = 0 then (put (4 + s.freeValue % 13) s).useFree
  else s

/-- A base register of the receive ring. -/
def rxBaseWrite (f : Nat) (hi : Bool) (v : Word) (s : State) : State :=
  let put (v : Word) (t : State) : State := t.modFunc f (fun y => { y with
    rx := { y.rx with base := if hi then withHi y.rx.base v else withLo y.rx.base v } })
  if (s.func f).rx.enable then s
  else if hi || pageAligned v then put v s
  else if f = 0 then (put s.freeBase s).useFree
  else s

/-- A register of the receive ring of the function of a MID (Table 14.10). -/
def rxWrite (mid o : Nat) (v : Word) (s : State) : State :=
  if !s.ringsOpen mid then s
  else
    let f := mid - 1
    match o with
    | 0x00 => rxBaseWrite f false v s
    | 0x04 => rxBaseWrite f true v s
    | 0x08 => rxCtrlWrite f v s
    | 0x0C => berxHeadWrite mid (v.toNat % 2 ^ 16) s
    | _ => s

/-- A register of channel `c` (Table 14.12). -/
def channelWrite (mid c o : Nat) (v : Word) (s : State) : State :=
  if o = 0 then mbTxWrite mid c v s else if o = 0x0C then mbCtrlWrite mid c v.toNat s else s

/-- The mailboxes block of BAR0 (Table 14.8). The Dome reaches the bindings and the channels; the rest serves MID 1. -/
def mailboxWrite (mid o : Nat) (v : Word) (s : State) : State :=
  match regIndex o 0 4 64, regIndex o 0x1000 0x20 64, regIndex o 0x3000 0x40 8, regIndex o 0x8000 4 128 with
  | some (c, _), _, _, _ => mbBindWrite mid c v s
  | _, some (c, r), _, _ => channelWrite mid c r v s
  | _, _, some (q, r), _ => if mid = 1 then pairWrite 1 q r v s else s
  | _, _, _, some (i, _) => if mid = 1 then msixWrite 0 i v s else s
  | _, _, _, _ =>
    if o = 0x100 then mbLockWrite mid v s
    else if mid ≠ 1 then s
    else if o = 0x2000 then doorbellWrite 0 v s
    else if o = 0x2004 then dbMaskWrite 1 v s
    else if 0x3200 ≤ o ∧ o < 0x3214 then rxWrite 1 (o - 0x3200) v s
    else s

/-- Spire window `k` of a lease's page (R496, Table 14.11). -/
def windowWrite (n k o : Nat) (v : Word) (s : State) : State :=
  if !s.windowOpen n k || !s.inService k then s
  else if o = 0x18 then s.modArr k (fun a => { a with sticky := w1c a.sticky v.toNat })
  else if o = 0x44 then s.modVu k (fun u => { u with stickyM := w1c u.stickyM v.toNat })
  else
    match regIndex o 0x100 0x20 8 with
    | some (i, 0) => evselWrite (n + 1) (some k) i v.toNat s
    | _ => s

/-- The page of lease `n` (Table 14.2). -/
def leasePageWrite (n o : Nat) (v : Word) (s : State) : State :=
  let mid := n + 1
  match regIndex o 0x100 0x40 8, regIndex o 0x1000 0x20 64, regIndex o 0x4000 0x200 32, regIndex o 0xE000 4 128 with
  | some (q, r), _, _, _ => pairWrite mid q r v s
  | _, some (c, r), _, _ => channelWrite mid c r v s
  | _, _, some (k, r), _ => windowWrite n k r v s
  | _, _, _, some (i, _) => msixWrite n i v s
  | _, _, _, _ =>
    if o = 0x10 then (if bitW v 0 then timeLatch mid s else s)
    else if o = 0x800 then doorbellWrite n v s
    else if o = 0x804 then dbMaskWrite mid v s
    else if 0x400 ≤ o ∧ o < 0x414 then rxWrite mid (o - 0x400) v s
    else s

/-! ### Leases, quotas, meters, grants: what R484 guards (08, 11, 12, 13) -/

/-- A host write that R484 forbids while lease `n` is assigned to a confidential virtual machine: it has no effect, and the TDI
enters ERROR. -/
def guarded (mid n : Nat) (f : State → State) (s : State) : State :=
  if mid = 1 && isTdi n && s.confidential n then tdiError n s else f s

/-- LEASE_n_CFG (R434, R464). ENABLE written from 1 to 0 starts the lease's reset; lease 0's ENABLE does not change. -/
def leaseCfgWrite (n : Nat) (v : Word) (s : State) : State :=
  let x := withinOrFree 0 32 (fieldW v 21 16) s
  let s1 := x.2.modLease n (fun l => { l with maxSpires := BitVec.ofNat 6 x.1, queueLimit := BitVec.ofNat 8 v.toNat })
  if n = 0 then s1
  else if bitW v 31 then s1.modLease n (fun l => { l with enable := true })
  else leaseReset n false s1

/-- The dispatcher's blocks. -/
def dispatcherWrite (mid o : Nat) (v : Word) (s : State) : State :=
  match regIndex o 0x10000 0x10 4096, regIndex o 0x20000 0x10 4096 with
  | some (n, 0), _ => guarded mid n (leaseCfgWrite n v) s
  | _, some (n, 0) =>
    if n = 0 then s
    else s.modLease n (fun l => { l with log := { l.log with overflow := l.log.overflow && !bitW v 29 } })
  | _, _ =>
    if mid ≠ 0 then s
    else if o = 0x20 then s.modDsp (fun d => { d with reclaimEntry := BitVec.ofNat 20 v.toNat })
    else if o = 0x24 then reclaimOrder 0 v.toNat s
    else s

/-- Quotas of lease `n` (R280, R295). -/
def tierWrite (mid o : Nat) (v : Word) (s : State) : State :=
  match regIndex o 0x8000 0x10 4096 with
  | some (n, r) =>
    if n = 0 || 4 < r then s
    else
      let set (q : Quota) : Quota :=
        if r = 0 then { q with hbmQuota := BitVec.ofNat 25 v.toNat } else { q with flashQuota := BitVec.ofNat 25 v.toNat }
      guarded mid n (fun t => { t with tier := { t.tier with quotas := t.tier.quotas.modify Quota.reset n set } }) s
  | none => s

/-- A register of a best-effort queue (R399). -/
def beQueueWrite (n q o : Nat) (v : Word) (s : State) : State :=
  match o with
  | 0x00 => s.modBeQueue n q (fun u => { u with shapeEn := bitW v 31, weight := BitVec.ofNat 8 (fieldW v 23 16) })
  | 0x04 =>
    let x := withinOrFree 0 2048 (fieldW v 11 0) s
    x.2.modBeQueue n q (fun u => { u with yLimit := BitVec.ofNat 12 (fieldW v 27 16), qLimit := BitVec.ofNat 12 x.1 })
  | 0x08 => s.modBeQueue n q (fun u => { u with rate := BitVec.ofNat 24 v.toNat })
  | 0x0C => s.modBeQueue n q (fun u => { u with burst := BitVec.ofNat 24 v.toNat })
  | _ => s

/-- A register of a lease's meter (R399); a write of MODE 5 to 7 has no effect (Table 11.2). -/
def Meter.write (o : Nat) (v : Word) (m : Meter) : Meter :=
  match o with
  | 0x00 => if 4 < fieldW v 31 29 then m else { m with mode := BitVec.ofNat 3 (fieldW v 31 29), qmask := BitVec.ofNat 8 v.toNat }
  | 0x04 => { m with cir := BitVec.ofNat 24 v.toNat }
  | 0x08 => { m with cbs := BitVec.ofNat 24 v.toNat }
  | 0x0C => { m with pir := BitVec.ofNat 24 v.toNat }
  | 0x10 => { m with pbs := BitVec.ofNat 24 v.toNat }
  | _ => m

/-- BE_ROUTE_w: four routes (R383); bit 6 of each is reserved. -/
def beRouteWrite (w : Nat) (v : Word) (s : State) : State :=
  let put (t : Tab Byte) (j : Nat) : Tab Byte := t.set 0 (4 * w + j) (BitVec.ofNat 8 (fieldW v (8 * j + 7) (8 * j)) &&& 0xBF)
  s.modBe (fun b => { b with routes := (List.range 4).foldl put b.routes })

/-- The traffic manager's block. -/
def trafficWrite (mid o : Nat) (v : Word) (s : State) : State :=
  match regIndex o 0x1000 0x200 64, regIndex o 0x10000 0x20 4096, regIndex o 0x30000 4 16384 with
  | some (n, r), _, _ => if r < 0x100 then beQueueWrite n (r / 0x20) (r % 0x20) v s else s
  | _, some (m, r), _ => if m = 0 then s else guarded mid m (fun t => t.modMeter m (Meter.write r v)) s
  | _, _, some (w, _) => beRouteWrite w v s
  | _, _, _ => s

/-- Grant `g`. -/
def State.grant (s : State) (g : Nat) : Grant := s.rm.grants.get Grant.reset g

/-- Register A or B of a grant, written. -/
def Grant.put (b : Bool) (v : Word) (x : Grant) : Grant :=
  if b then { x with local_ := BitVec.ofNat 12 v.toNat }
  else
    { x with
      valid := bitW v 31, write := bitW v 30, spire := bitW v 29
      srcLease := BitVec.ofNat 12 (fieldW v 27 16), srcChip := BitVec.ofNat 16 v.toNat }

/-- Another VALID entry with the same source as entry `g` would then have. -/
def State.sameGrant (s : State) (g : Nat) (x : Grant) : Option Nat :=
  s.rm.grants.keys.find? (fun i => i != g && (s.grant i).valid && (s.grant i).srcChip == x.srcChip && (s.grant i).srcLease == x.srcLease)

/-- Put a grant. -/
def setGrant (g : Nat) (x : Grant) (s : State) : State := s.modRm (fun m => { m with grants := m.grants.set Grant.reset g x })

/-- RM_GRANT_g_A or _B (R409, R433). Two VALID entries with one source are a host argument error: which of the two stands is
left open. -/
def grantWrite (g : Nat) (b : Bool) (v : Word) (s : State) : State :=
  let x := (s.grant g).put b v
  match (if x.valid then s.sameGrant g x else none) with
  | none => setGrant g x s
  | some i =>
    if s.freeValue % 2 = 0 then (setGrant g { x with valid := false } s).useFree
    else (setGrant g x (setGrant i { s.grant i with valid := false } s)).useFree

/-- A write of a grant, which R484 guards for the local lease that it names or would name. -/
def guardedGrant (mid g : Nat) (b : Bool) (v : Word) (s : State) : State :=
  let old := (s.grant g).local_.toNat
  let new := ((s.grant g).put b v).local_.toNat
  if mid = 1 && ((isTdi old && s.confidential old) || (isTdi new && s.confidential new)) then
    [old, new].foldl (fun t n => if isTdi n && s.confidential n then tdiError n t else t) s
  else grantWrite g b v s

/-- The remote-memory block. -/
def remoteWrite (mid o : Nat) (v : Word) (s : State) : State :=
  if o = 8 then regainFar (s.modRmRegs (fun r => { r with gwValid := bitW v 31, gwChip := BitVec.ofNat 16 v.toNat }))
  else
    match regIndex o 0x1000 8 4096 with
    | some (g, r) => guardedGrant mid g (decide (r = 4)) v s
    | none => s

/-! ### Reliability (15) -/

/-- GOV_RATE: what the old rate has earned stays. -/
def govRateWrite (v : Word) (s : State) : State :=
  s.modGov (fun g => { g.refill s.clock.tick with rate := BitVec.ofNat 16 v.toNat })

/-- GOV_BURST: the token count is capped at it. -/
def govBurstWrite (v : Word) (s : State) : State :=
  let x := withinOrFree 1 255 (fieldW v 7 0) s
  let cap := x.1 * tokenUnit
  let set (g : Governor) : Governor :=
    if cap ≤ g.tokens then { g with burst := BitVec.ofNat 8 x.1, tokens := cap, fullSince := some (g.fullSince.getD s.clock.tick) }
    else { g with burst := BitVec.ofNat 8 x.1, fullSince := none }
  x.2.modGov (fun g => set (g.refill s.clock.tick))

/-- The reliability block. -/
def reliabilityWrite (mid o : Nat) (v : Word) (s : State) : State :=
  match o with
  | 0x0004 => relTestCfgWrite mid v.toNat s
  | 0x0008 => relTestLenWrite mid v.toNat s
  | 0x000C => relShadowCfgWrite mid v.toNat s
  | 0x0010 =>
    (List.range 32).foldl (fun t k => changeScore k 0 t) (s.modRel (fun r => { r with fenceAt := BitVec.ofNat 10 v.toNat }))
  | 0x0200 => govRateWrite v s
  | 0x0204 => govBurstWrite v s
  | 0x0208 => s.modGov (fun g => { g with dBase := BitVec.ofNat 10 (fieldW v 25 16), step := BitVec.ofNat 10 v.toNat })
  | 0x0210 => s.modGov (fun g => { g with lower := BitVec.ofNat 16 v.toNat })
  | 0x2100 => s.modRel (fun r => { r with pmAlarmAt := BitVec.ofNat 16 v.toNat })
  | 0x2104 => if bitW v 0 then relPmClear mid s else s
  | 0x3100 => s.modRel (fun r => { r with optAlarmAt := BitVec.ofNat 16 v.toNat })
  | 0x5000 => if bitW v 0 then relDumpClear mid s else s
  | 0x5004 => s.modRel (fun r => { r with dumpOffset := BitVec.ofNat 12 v.toNat })
  | _ => s

/-! ### Dome window (16) -/

/-- DOME_WDOG (R538): TIMEOUT from 10 to 10,000 ms, others ignored; and KICK. -/
def wdogWrite (v : Word) (s : State) : State :=
  let n := fieldW v 15 0
  let s1 := if 10 ≤ n ∧ n ≤ 10000 then s.modDome (fun d => { d with wdogTimeout := BitVec.ofNat 16 n }) else s
  if bitW v 31 then kick s1 else s1

/-- The Dome window: only MID 0 writes (R564). -/
def domeWrite (mid o : Nat) (v : Word) (s : State) : State :=
  if mid ≠ 0 then s
  else
    match o with
    | 0x014 => wdogWrite v s
    | 0x100 => if bitW v 0 then timeLatch 0 s else s
    | 0x800 => s.modDome (fun d => { d with dbStatus := s.doorbellLeft 0 d.dbSetAt d.dbStatus v })
    | 0x804 => dbMaskWrite 0 v s
    | _ => s

/-! ### Towers and Spires (R9, R33, R34) -/

/-- SEQ_CMD (R231, R240): the Dome's. No register holds an image: a LOAD written here starts the load and its wipe, and the Dome writes
the segments into the store by other means (DESIGN CHOICE, log entry 142). -/
def seqCmdWrite (mid k : Nat) (v : Word) (s : State) : State :=
  let cause := fieldW v 9 8
  match fieldW v 3 0 with
  | 0 => s
  | 1 => spireLoad k RadioImage.none s
  | 2 => spireStart k s
  | 3 => stopCommand mid k cause s
  | 4 => resumeCommand mid k cause s
  | 5 => abortCommand mid k s
  | 6 => fenceCommand mid k s
  | _ => setCmdStatus k stBadArg s

/-- Is Spire `k` held by a lease that is assigned to a confidential virtual machine (R147, R208)? -/
def State.spireSealed (s : State) (k : Nat) : Bool := (s.holder k).any s.confidential

/-- Registers of Spire `k` by their offset from the Spire base. -/
def spireWrite (mid k o : Nat) (v : Word) (s : State) : State :=
  if !s.inService k then s
  else if o = 0x00018 then
    if mid = 1 && !s.spireSealed k then s.modArr k (fun a => { a with sticky := w1c a.sticky v.toNat }) else s
  else if o = 0x10004 then
    if mid = 1 && !s.spireSealed k then s.modVu k (fun u => { u with stickyM := w1c u.stickyM v.toNat }) else s
  else if o = 0x10010 then (if mid = 0 then s.modVu k (fun u => { u with stickyS := w1c u.stickyS v.toNat }) else s)
  else if o = 0x20004 then (if mid = 0 then seqCmdWrite mid k v s else s)
  else if o = 0x20008 then (if mid = 0 then s.modSeq k (fun q => { q with startCclk := BitVec.ofNat 20 v.toNat }) else s)
  else
    match regIndex o 0x40100 0x20 8 with
    | some (n, 0) => evselWrite mid (some k) n v.toNat s
    | _ => s

/-- XB_CLASH_k: VALID clears when bits 5:0 are all 0. -/
def XbState.clearClash (v : Word) (x : XbState) : XbState :=
  let c := w1c x.clash v.toNat
  { x with clash := c, clashValid := x.clashValid && decide (c ≠ 0) }

/-- Tower `t`'s own registers, by their offset from the Tower base: the crossbar's W1C bits. -/
def towerWrite (t o : Nat) (v : Word) (s : State) : State :=
  match regIndex o 0x18000 0x20 8 with
  | some (j, 0x04) => s.modXb (8 * t + j) (XbState.clearClash v)
  | some (j, 0x0C) => s.modXb (8 * t + j) (fun x => { x with refused := x.refused && !bitW v 0 })
  | _ => s

/-! ### BAR0 -/

/-- The write itself. A Tower that is out of service takes no write, in its own registers either (DESIGN CHOICE, log entry 138: R34
says it of its Spires'). -/
def bar0Write (mid off : Nat) (v : Word) (s : State) : State :=
  match towerOf off with
  | some (t, sp, o) =>
    if s.rel.towerOut.getLsbD t then s
    else (match sp with
      | some k => spireWrite mid k o v s
      | none => towerWrite t o v s)
  | none =>
    if off < 0x10000 then s
    else if off < 0x20000 then timeWrite mid (off - 0x10000) v s
    else if off < 0x30000 then clockWrite mid (off - 0x20000) v s
    else if off < 0x40000 then counterWrite mid (off - 0x30000) v s
    else if off < 0x50000 then mailboxWrite mid (off - 0x40000) v s
    else if off < 0x80000 then dispatcherWrite mid (off - 0x50000) v s
    else if off < 0x100000 then tierWrite mid (off - 0x80000) v s
    else if off < 0x140000 then
      (if off % 0x1000 = 4 then laneCtrlWrite mid ((off - 0x100000) / 0x1000) v s else s)
    else if off < 0x200000 then s
    else if off < 0x280000 then trafficWrite mid (off - 0x200000) v s
    else if off < 0x300000 then remoteWrite mid (off - 0x280000) v s
    else if off < 0x3C0000 then s
    else if off < 0x3E0000 then reliabilityWrite mid (off - 0x3C0000) v s
    else if off < 0x400000 then domeWrite mid (off - 0x3E0000) v s
    else s

/-- A write to BAR0 by MID 0 or MID 1: it has no effect at an unimplemented offset (R4). -/
def bar0Access (mid off : Nat) (v : Word) (s : State) : State :=
  if listed off then regWrite mid off v (bar0Write mid off v) s else s

/-- Is an access a naturally aligned 32-bit one (R2)? -/
def alignedAccess (off size : Nat) : Bool := size == 4 && off % 4 == 0

/-- A write that breaks R2 is a host argument error (R3): it has no effect, or, where R480's bounds hold whatever the value, a free
value is written. -/
def brokenAccess (mid off : Nat) (s : State) : State :=
  if !boundedAccess off || s.freeValue % 2 = 0 then s.useFree else bar0Access mid (off / 4 * 4) (word (s.freeValue / 2)) s.useFree

/-- REGISTER_WRITE by a MID: page 0 is BAR0, which MID 0 and MID 1 reach; page n is lease n's, which its own MID reaches (R11,
R466, R478). A request with an unassigned MID is refused with ST_BAD_ARGUMENT (R12). -/
def registerWrite (mid page off size : Nat) (v : Word) (s : State) : State :=
  if !s.reachable then s
  else if !midAssigned mid then s.emit (.denied mid stBadArg)
  else if page = 0 then
    if 1 < mid || 0x08000000 ≤ off then s
    else if alignedAccess off size then bar0Access mid off v s
    else brokenAccess mid off s
  else if page ≤ 4095 && mid == page + 1 && alignedAccess off size && decide (off < 0x10000) then leasePageWrite page off v s
  else s

def execRegisterWrite (mid page off size : Nat) (v : Word) (s : State) : Host.Outcome State Fault Refusal :=
  .next (registerWrite mid page off size v s)

/-! ### A domain becomes ready (R35, R569) -/

/-- Make the writes that wait for domains which are all on now. -/
def servedWrites (s : State) : State :=
  let due (w : Nat × Nat × Word) : Bool := (domainOf w.2.1).all s.domainOn
  (s.pwr.writes.filter due).foldl (fun t w => bar0Write w.1 w.2.1 w.2.2 t)
    (s.modPwr (fun p => { p with writes := p.writes.filter (fun w => !due w) }))

/-- DOMAIN_READY. -/
def execDomainReady (k : Nat) (s : State) : Host.Outcome State Fault Refusal := .next (servedWrites (domainReady k s))

end Sys2Proof.Machine
end

