-- ==== Sys2Proof/Machine/RegRead.lean ====
section
/-! DEFINITION. What every register reads as: an observation of the state over the register map of BAR0 (Table 1.4, Table 1.5)
and of a lease's page (Table 14.2). No register but MB_c_RX changes state when read (R6), and its read is a row of its own. An
unimplemented offset and a WO field read 0 (R4, Table 0.2). -/

namespace Sys2Proof.Machine

open Sys2Proof

/-! ### Helpers -/

/-- Bits of a list, number i of the list in bit i. -/
def bitsOf (n : Nat) (f : Nat → Bool) : Nat := (List.range n).foldl (fun x i => x + flagAt (f i) i) 0

/-- Word `i` of a hall time: SEC_LO, SEC_HI, NS, FRAC. -/
def HallTime.word (h : HallTime) (i : Nat) : Nat :=
  match i with
  | 0 => h.sec.toNat % 2 ^ 32
  | 1 => h.sec.toNat / 2 ^ 32
  | 2 => h.ns.toNat
  | 3 => h.frac.toNat
  | _ => 0

/-- Low or high word of a wide value, by the offset 0 or 4. -/
def halfAt (x o : Nat) : Nat := if o = 0 then x % 2 ^ 32 else if o = 4 then x / 2 ^ 32 else 0

/-- A word of an array of 32-bit registers whose offset is a multiple of 4. -/
def wordsAt (o base count : Nat) : Option Nat :=
  (regIndex o base 4 count).bind (fun p => if p.2 = 0 then some p.1 else none)

/-! ### Time unit (02) -/

/-- A register of a trigger channel. -/
def TrigChan.reg (c : TrigChan) (o : Nat) : Nat :=
  match o with
  | 0x00 => flagAt c.armed 31 + c.action.toNat * 2 ^ 24 + c.arg.toNat * 2 ^ 16
  | 0x04 => c.tgtSecLo.toNat
  | 0x08 => c.tgtSecHi.toNat
  | 0x0C => c.tgtNs.toNat
  | 0x10 => c.tgtFrac.toNat
  | 0x14 => c.perNs.toNat
  | 0x18 => c.perFrac.toNat
  | 0x1C => c.fires.toNat * 2 ^ 16 + c.missed.toNat * 2 ^ 8 + flagAt c.armed 3 + flagAt c.refused 2
      + flagAt c.disarmedBySet 1 + flagAt c.suppressed 0
  | _ => 0

/-- A register of a capture channel. -/
def CapChan.reg (c : CapChan) (o : Nat) : Nat :=
  if o = 0 then flagAt c.enable 31 + flagAt c.edge 30 + c.arg.toNat * 2 ^ 16 + c.source.toNat
  else if o = 0x14 then c.seq.toNat
  else c.time.word (o / 4 - 1)

/-- The time unit's registers. -/
def State.timeReg (s : State) (o : Nat) : Nat :=
  let t := s.time
  match regIndex o 0x100 0x20 32, regIndex o 0x800 0x20 8 with
  | some (n, r), _ => (s.trigger n).reg r
  | _, some (c, r) => (s.cap.get CapChan.reset c).reg r
  | _, _ =>
    match o with
    | 0x00 => flagAt t.role 4 + t.servo.toNat
    | 0x08 => t.latched.word 0
    | 0x0C => t.latched.word 1
    | 0x10 => t.latched.word 2
    | 0x14 => t.latched.word 3
    | 0x20 => t.incrLo.toNat
    | 0x24 => t.incrHi.toNat
    | 0x28 => t.incrRejects.toNat
    | 0x30 => t.setSecLo.toNat
    | 0x34 => t.setSecHi.toNat
    | 0x38 => t.setNs.toNat
    | 0x3C => t.setFrac.toNat
    | 0x40 => t.setStatus.toNat * 2 ^ 24 + flagAt t.setMode 1
    | 0x50 => flagAt t.ppsEnable 31 + t.ppsWidth.toNat
    | _ => 0

/-! ### Clocks, reset and power (02, 03, 17) -/

/-- The bit of RST_CAUSE. -/
def ResetCause.code : ResetCause → Nat
  | .powerOn => 1
  | .resetPin => 2
  | .chipResetCmd => 4
  | .domeWdog => 8
  | .clockLoss => 16
  | .wake => 32

/-- Codes of the power states (PWR_STATUS); in Deep sleep and Off no register is read. -/
def PowerMode.code : PowerMode → Nat
  | .run => 0
  | .idle => 1
  | .sleep => 2
  | .deep => 3
  | .off => 4

/-- PWR_DOMAINS: in Sleep the fabric's and the radio's domains are off (Table 17.3). -/
def State.pwrDomains (s : State) : Nat :=
  (s.pwr.domains &&& ~~~(if s.pwr.mode = .sleep then 0x1B00000 else 0)).toNat

/-- Mean of the last samples of P, as PWR_MODULE_W gives it. -/
def State.meanPower (s : State) : Nat :=
  let l := s.pwr.samples
  if l.length = 0 then 0 else l.sum / l.length

/-- The clocks, reset and power block. -/
def State.clockReg (s : State) (o : Nat) : Nat :=
  let c := s.clk
  let p := s.pwr
  if 0x8000 ≤ o then p.retain.readLE (o - 0x8000) 4
  else
    match wordsAt o 0x20 4, regIndex o 0x200 8 16 with
    | some t, _ =>
      let x := c.lat.get UcieLat.reset t
      x.result.toNat * 2 ^ 30 + x.raw.toNat * 2 ^ 8 + x.pad.toNat
    | _, some (r, 0) =>
      let x := s.rail r
      flagAt x.present 31 + flagAt x.fault 30 + flagAt x.adjustable 29 + x.setpoint.toNat
    | _, some (r, 4) => (s.rail r).current.toNat * 2 ^ 16 + (s.rail r).voltage.toNat
    | _, _ =>
      match o with
      | 0x00 => flagAt c.lanePll 4 + flagAt c.hbmPll 3 + flagAt c.uciePll 2 + flagAt c.rootLock 1 + flagAt c.refPresent 0
      | 0x04 => c.rstCause.code
      | 0x10 => c.towerFail.toNat * 2 ^ 12 + c.attempts.toNat * 2 ^ 8 + c.phase.toNat * 2 ^ 2 + flagAt c.failed 1 + flagAt c.done 0
      | 0x40 => c.modeStatus.toNat * 2 ^ 24 + c.stretchUsed.toNat * 2 ^ 8 + flagAt c.modeStaged 0
      | 0x100 => p.mode.code * 2 ^ 28 + flagAt p.entry.isSome 27 + flagAt p.estop 26 + p.causes.toNat * 2 ^ 16
          + p.lastStatus.toNat * 2 ^ 8 + min p.level s.throttleMax
      | 0x104 => s.pwrDomains
      | 0x10C => p.cap.toNat
      | 0x110 => s.meanPower * 2 ^ 16 + p.samples.headD 0
      | 0x114 => p.woke.toNat * 2 ^ 8 + p.wakePolarity.toNat * 2 ^ 4 + p.wakeEnable.toNat
      | 0x118 => p.estops.toNat
      | 0x11C => p.holds.toNat
      | _ => 0

/-! ### Counters (03) -/

/-- The counters block. -/
def State.counterReg (s : State) (o : Nat) : Nat :=
  let c := s.cnt
  match regIndex o 0x40 8 7, regIndex o 0x80 8 7, regIndex o 0x200 0x20 16 with
  | some (k, r), _, _ => halfAt (c.ndc.get 0 k).toNat r
  | _, some (k, r), _ => halfAt (c.snapNdc.get 0 k).toNat r
  | _, _, some (n, r) =>
    let b := c.bpmc.get BelfryCounter.reset n
    if r = 0 then flagAt b.enable 31 + flagAt b.ovf 30 + flagAt b.ovfIrq 29 + b.inst.toNat * 2 ^ 16 + b.event.toNat
    else if r = 4 ∨ r = 8 then halfAt b.count.toNat (r - 4)
    else if r = 0x10 ∨ r = 0x14 then halfAt b.snap.toNat (r - 0x10)
    else 0
  | _, _, _ =>
    match o with
    | 0x00 => flagAt c.freeze 0
    | 0x04 => c.snapSeq.toNat
    | 0x08 => c.snapTime.word 0
    | 0x0C => c.snapTime.word 1
    | 0x10 => c.snapTime.word 2
    | 0x14 => c.snapTime.word 3
    | 0x18 => c.snapValid.toNat
    | _ => 0

/-! ### Mailboxes, rings (14) -/

/-- MB_RX_PENDING of a MID: channels `base` to `base` + 31. -/
def State.rxPending (s : State) (mid base : Nat) : Nat :=
  bitsOf 32 (fun i => (s.channel (base + i)).receives mid && !(s.channel (base + i)).fifo.isEmpty)

/-- A register of a mailbox channel as a MID reads it. MB_c_CTRL is the sender's. -/
def State.channelReg (s : State) (mid c o : Nat) : Nat :=
  let x := s.channel c
  match o with
  | 0x04 => (s.rxWord mid c).toNat
  | 0x08 =>
    if x.sends mid || x.receives mid then flagAt (x.sends mid) 31 + flagAt (x.receives mid) 30 + x.fifo.length else 0
  | 0x0C => if x.sends mid then flagAt x.overrun 1 + flagAt x.drainIrq 0 else 0
  | _ => 0

/-- A register of a queue pair (Table 14.9). -/
def Pair.reg (p : Pair) (o : Nat) : Nat :=
  match o with
  | 0x00 => halfAt p.sqBase.toNat 0
  | 0x04 => halfAt p.sqBase.toNat 4
  | 0x08 => halfAt p.cqBase.toNat 0
  | 0x0C => halfAt p.cqBase.toNat 4
  | 0x10 => p.cqLog2.toNat * 2 ^ 8 + p.sqLog2.toNat
  | 0x14 => p.status.toNat * 2 ^ 24 + flagAt p.enable 0
  | 0x18 => p.sqTail.toNat
  | 0x1C => p.sqHead.toNat
  | 0x20 => p.cqHead.toNat
  | 0x24 => p.cqTail.toNat
  | 0x28 => flagAt p.error 31 + p.inProgress.length % 2 ^ 16
  | _ => 0

/-- A register of a receive ring (Table 14.10). -/
def RxRing.reg (r : RxRing) (o : Nat) : Nat :=
  match o with
  | 0x00 => halfAt r.base.toNat 0
  | 0x04 => halfAt r.base.toNat 4
  | 0x08 => flagAt r.error 31 + r.log2.toNat * 2 ^ 8 + flagAt r.enable 0
  | 0x0C => r.head.toNat
  | 0x10 => r.tail.toNat
  | _ => 0

/-- The mailboxes block. -/
def State.mailboxReg (s : State) (mid o : Nat) : Nat :=
  match wordsAt o 0 64, regIndex o 0x1000 0x20 64, regIndex o 0x3000 0x40 8, wordsAt o 0x8000 128 with
  | some c, _, _, _ =>
    let x := s.channel c
    flagAt x.valid 31 + x.sender.toNat * 2 ^ 16 + x.receiver.toNat
  | _, some (c, r), _, _ => s.channelReg mid c r
  | _, _, some (q, r), _ => (s.pair 0 q).reg r
  | _, _, _, some i => ((s.func 0).msixWord i).toNat
  | _, _, _, _ =>
    if 0x3200 ≤ o then (if o < 0x3214 then (s.func 0).rx.reg (o - 0x3200)
      else if o = 0x3400 then s.host.denied.toNat
      else if o = 0x9000 then (s.func 0).pba.toNat else 0)
    else
      match o with
      | 0x0100 => flagAt s.host.locked 0
      | 0x1800 => s.rxPending mid 0
      | 0x1804 => s.rxPending mid 32
      | 0x2000 => (s.func 0).dbStatus.toNat
      | 0x2004 => (s.func 0).dbMask.toNat
      | _ => 0

/-! ### Dispatcher, leases, tier engine (08, 13) -/

/-- Is Spire `k` IDLE and not reclaimed (DSP_FREE_MASK)? Before the Minuet is done none is. -/
def State.freeSpire (s : State) (k : Nat) : Bool :=
  s.clk.done && s.inService k && decide ((s.spire k).seq.mode = .idle) && !(s.spire k).seq.reclaim

/-- Two bits of a role: 3 while no Pavane is active. -/
def State.roleCode (s : State) (k : Nat) : Nat :=
  if s.image.isNone then 3
  else
    match s.role k with
    | .radioOwned => 0
    | .inferenceOnly => 1
    | .borrowable => 2

/-- DSP_ROLES of the Spires from `base` on. -/
def State.rolesWord (s : State) (base : Nat) : Nat := (List.range 16).foldl (fun x i => x + s.roleCode (base + i) * 4 ^ i) 0

/-- LEASE_n_CFG. -/
def State.leaseCfg (s : State) (n : Nat) : Nat :=
  let l := s.leaseOf n
  flagAt (s.leaseEnabled n) 31 + flagAt (decide (n = 0)) 30 + l.maxSpires.toNat * 2 ^ 16 + l.queueLimit.toNat

/-- LEASE_n_USE. -/
def State.leaseUse (s : State) (n : Nat) : Nat := s.heldBy n * 2 ^ 16 + s.queuedBy n

/-- LOG_n_CTRL. -/
def LogState.ctrl (l : LogState) : Nat :=
  flagAt l.on 31 + flagAt l.activeB 30 + flagAt l.overflow 29 + flagAt l.flipping 28 + l.pages.toNat

/-- The dispatcher's blocks. -/
def State.dispatcherReg (s : State) (o : Nat) : Nat :=
  let d := s.dsp
  match regIndex o 0x10000 0x10 4096, regIndex o 0x20010 0x10 4095 with
  | some (n, r), _ => if r = 0 then s.leaseCfg n else if r = 4 then s.leaseUse n else 0
  | _, some (n, r) =>
    let l := (s.leaseOf (n + 1)).log
    match r with
    | 0x0 => l.ctrl
    | 0x4 => l.iova.toNat % 2 ^ 32
    | 0x8 => l.iova.toNat / 2 ^ 32
    | 0xC => l.tile.toNat
    | _ => 0
  | _, _ =>
    match o with
    | 0x00 => flagAt d.reclaimDone 31 + d.queue.length * 2 ^ 16 + ((List.range 32).filter s.freeSpire).length
    | 0x04 => (d.queue.head?.map (·.id)).getD 0
    | 0x08 => s.rolesWord 0
    | 0x0C => s.rolesWord 16
    | 0x10 => bitsOf 32 s.freeSpire
    | 0x20 => d.reclaimEntry.toNat
    | 0x28 => bitsOf 32 (fun k => (s.spire k).seq.reclaim)
    | 0x2C => d.notTaken.toNat
    | 0x30 => d.deferrals.toNat
    | 0x34 => d.overruns.toNat
    | _ => 0

/-- The tier engine's block. -/
def State.tierReg (s : State) (o : Nat) : Nat :=
  match regIndex o 0x100 8 24, regIndex o 0x8010 0x10 4095 with
  | some (h, r), _ => if r = 0 then s.freePlaces h else if r = 4 then (s.stack h).wipeQueue.length else 0
  | _, some (m, r) =>
    let n := m + 1
    match r with
    | 0x0 => (s.quotaOf n).hbmQuota.toNat
    | 0x4 => (s.quotaOf n).flashQuota.toNat
    | 0x8 => s.hbmUsed n
    | 0xC => s.flashUsed n
    | _ => 0
  | _, _ => if o = 0 then flagAt s.tier.ready 31 + flagAt s.flash.present 30 + s.transferTable.length else 0

/-- The flash block. -/
def State.flashReg (s : State) (o : Nat) : Nat :=
  let f := s.flash
  match o with
  | 0x00 => flagAt f.ready 31 + flagAt f.clean 30 + f.packageCount * 2 ^ 16 + f.wear s.dome.cfg.rated
  | 0x04 => f.cap
  | 0x08 => f.badCount
  | 0x0C => f.relocs.toNat
  | 0x10 => f.inflight.length
  | _ => 0

/-! ### Fabric (10, 11, 12) -/

/-- Lane state codes (Table 10.6). -/
def LaneState.code : LaneState → Nat
  | .disabled => 0
  | .training => 1
  | .aligning => 2
  | .verifying => 3
  | .up => 4
  | .suspect => 5
  | .down => 6
  | .failed => 7

/-- A register of a lane (R379). -/
def LaneRegs.reg (l : LaneRegs) (o : Nat) : Nat :=
  match o with
  | 0x00 => l.state.code * 2 ^ 28 + l.cause.toNat * 2 ^ 24 + flagAt l.delayValid 22 + l.partnerLane.toNat * 2 ^ 16
      + l.partnerChip.toNat
  | 0x04 => l.status.toNat * 2 ^ 24 + flagAt l.enable 0
  | 0x08 => l.rxOffset.toNat
  | 0x0C => l.hbMisses.toNat * 2 ^ 24 + l.hbGood.toNat * 2 ^ 16 + l.hbMissed.toNat
  | 0x10 => l.fecCorr.toNat
  | 0x14 => l.fecUncorr.toNat
  | 0x18 => l.discardCrc.toNat
  | 0x1C => l.discardUnexpected.toNat
  | 0x20 => l.discardStale.toNat
  | 0x24 => l.txDrops.toNat
  | 0x28 => l.transitEmpty.toNat
  | 0x2C => l.retrains.toNat
  | 0x30 => l.eq.toNat
  | _ => 0

/-- PAV_STATUS. -/
def State.pavStatusReg (s : State) : Nat :=
  let f := s.fab
  let slot := match f.active with
    | none => 0
    | some false => 1
    | some true => 2
  let mode := if s.image.isSome then 2 else if s.timeOnly.isSome then 1 else 0
  slot * 2 ^ 30 + mode * 2 ^ 28 + flagAt f.activation.isSome 27 + flagAt f.switch.isSome 26 + flagAt f.drain.isSome 25
  + f.figure * 2 ^ 16 + f.lastStatus.toNat

/-- PAVANE_ID of a slot; 0 if it is empty. -/
def idOf (p : Option Pavane) : Nat := (p.map (·.id.toNat)).getD 0

/-- Lanes from `base` on that are UP or SUSPECT, or SUSPECT alone. -/
def State.lanesIn (s : State) (base : Nat) (suspectOnly : Bool) : Nat :=
  bitsOf 32 (fun i =>
    let x := (s.lane (base + i)).regs.state
    if suspectOnly then decide (x = .suspect) else x.carries)

/-- The fabric's common registers. -/
def State.fabricReg (s : State) (o : Nat) : Nat :=
  let f := s.fab
  match o with
  | 0x00 => s.pavStatusReg
  | 0x04 => idOf s.image
  | 0x08 => idOf f.slotA
  | 0x0C => idOf f.slotB
  | 0x10 => flagAt f.figPrev.isSome 31 + f.figPrev.getD 0
  | 0x14 => f.figAt.word 0
  | 0x18 => f.figAt.word 1
  | 0x1C => f.figAt.word 2
  | 0x20 => f.oldDrops.toNat
  | 0x24 => s.nearSet.length
  | 0x28 => s.lanesIn 0 false
  | 0x2C => s.lanesIn 32 false
  | 0x30 => s.lanesIn 0 true
  | 0x34 => s.lanesIn 32 true
  | _ => 0

/-- A register of a best-effort queue. -/
def BeQueue.reg (u : BeQueue) (o : Nat) : Nat :=
  match o with
  | 0x00 => flagAt u.shapeEn 31 + u.weight.toNat * 2 ^ 16
  | 0x04 => u.yLimit.toNat * 2 ^ 16 + u.qLimit.toNat
  | 0x08 => u.rate.toNat
  | 0x0C => u.burst.toNat
  | 0x10 => u.cells.length
  | 0x14 => u.sent.toNat
  | 0x18 => u.drops.toNat
  | _ => 0

/-- A register of a lease's meter. -/
def Meter.reg (m : Meter) (o : Nat) : Nat :=
  match o with
  | 0x00 => m.mode.toNat * 2 ^ 29 + m.qmask.toNat
  | 0x04 => m.cir.toNat
  | 0x08 => m.cbs.toNat
  | 0x0C => m.pir.toNat
  | 0x10 => m.pbs.toNat
  | 0x14 => m.green.toNat
  | 0x18 => m.yellow.toNat
  | 0x1C => m.red.toNat
  | _ => 0

/-- A word of a slot of the sample ring. -/
def SampleSlot.reg (x : SampleSlot) (o : Nat) : Nat :=
  if o = 0 then x.period.toNat
  else if o = 4 then x.seq.toNat
  else
    match regIndex o 0x100 0x20 64 with
    | some (n, r) => (x.entries.get 0 (8 * n + r / 4)).toNat
    | none => 0

/-- The traffic manager's block; a slot of the sample ring is 0x1000 bytes long. -/
def State.trafficReg (s : State) (o : Nat) : Nat :=
  let b := s.be
  match regIndex o 0x1000 0x200 64, regIndex o 0x10000 0x20 4096, wordsAt o 0x30000 16384, regIndex o 0x40000 0x1000 16 with
  | some (n, r), _, _, _ => if r < 0x100 then (s.beQueue n (r / 0x20)).reg (r % 0x20) else 0
  | _, some (m, r), _, _ => (s.meter m).reg r
  | _, _, some w, _ => (List.range 4).foldl (fun x j => x + (b.routes.get 0 (4 * w + j)).toNat * 2 ^ (8 * j)) 0
  | _, _, _, some (i, r) => (b.samples.get SampleSlot.reset i).reg r
  | _, _, _, _ =>
    match o with
    | 0x0 => b.used
    | 0x4 => b.rxDrops.toNat
    | 0x8 => b.noRoute.toNat
    | 0xC => b.hopDrops.toNat
    | _ => 0

/-- The two registers of a grant. -/
def Grant.reg (g : Grant) (o : Nat) : Nat :=
  if o = 0 then flagAt g.valid 31 + flagAt g.write 30 + flagAt g.spire 29 + g.srcLease.toNat * 2 ^ 16 + g.srcChip.toNat
  else if o = 4 then g.local_.toNat
  else 0

/-- The remote-memory block. -/
def State.remoteReg (s : State) (o : Nat) : Nat :=
  let m := s.rm
  let c := m.regs
  match regIndex o 0x1000 8 4096 with
  | some (g, r) => (s.grant g).reg r
  | none =>
    match o with
    | 0x00 => flagAt s.isGateway 31 + m.replayUsed
    | 0x04 => c.incarnation.toNat
    | 0x08 => flagAt c.gwValid 31 + c.gwChip.toNat
    | 0x0C => m.outstanding
    | 0x10 => (m.lines.entries.filter (fun p => p.2.used)).length
    | 0x20 => c.retx.toNat
    | 0x24 => c.timeouts.toNat
    | 0x28 => c.stale.toNat
    | 0x2C => c.expired.toNat
    | 0x30 => c.poisonDrops.toNat
    | 0x34 => c.refusedFull.toNat
    | 0x38 => c.releasedUnacked.toNat
    | _ => 0

/-! ### Radio (09) -/

/-- A register of a timing group (R340). -/
def RadioGroup.reg (g : RadioGroup) (o : Nat) : Nat :=
  match o with
  | 0x00 => flagAt g.defined 31 + g.mu.toNat * 2 ^ 28
  | 0x04 => g.offsetNs.toNat
  | 0x08 => g.dlAdvMax.toNat * 2 ^ 16 + g.dlAdvMin.toNat
  | 0x0C => g.cpLead.toNat * 2 ^ 16 + g.ulLatest.toNat
  | 0x10 => g.reqLead.toNat * 2 ^ 16 + g.resultLag.toNat
  | 0x14 => g.sfn.toNat * 2 ^ 16 + g.slot.toNat
  | 0x18 => g.asn.toNat
  | 0x1C => g.lost.toNat
  | _ => 0

/-- Cell state codes (Table 9.9). -/
def CellState.code : CellState → Nat
  | .empty => 0
  | .configured => 1
  | .starting => 2
  | .active => 3
  | .stopping => 4
  | .failed => 5

/-- A register of a radio cell. -/
def RadioCell.reg (c : RadioCell) (o : Nat) : Nat :=
  match o with
  | 0x00 => c.state.code * 2 ^ 28 + c.group.toNat * 2 ^ 24 + c.lastStatus.toNat * 2 ^ 16 + c.failCause.toNat * 2 ^ 13 + c.pci.toNat
  | 0x04 => c.slotsLost.toNat
  | 0x08 => c.reqMissing.toNat
  | 0x0C => c.ulLate.toNat
  | 0x10 => c.target.toNat * 2 ^ 24 + c.freezes.toNat * 2 ^ 12 + c.saturations.toNat
  | _ => 0

/-- Quarters of a capacity unit that the live cells take (R331). -/
def State.liveQuarters (s : State) : Nat := (s.liveCells.map (fun n => rcuQuarters (s.cell n).ports ((s.cell n).cfg 1 11 4))).sum

/-- The radio block (R340). -/
def State.radioReg (s : State) (o : Nat) : Nat :=
  let r := s.radio
  match regIndex o 0x100 0x20 16, regIndex o 0x4000 0x40 384 with
  | some (n, x), _ => (r.groups.get RadioGroup.reset n).reg x
  | _, some (n, x) => (s.cell n).reg x
  | _, _ =>
    match o with
    | 0x00 => flagAt r.dlOn 31 + flagAt r.ulOn 30 + s.liveQuarters * 2 ^ 16 + s.liveCells.length
    | 0x10 => r.fftIn.toNat
    | 0x14 => r.ldpcIn.toNat
    | 0x18 => 15 * 2 ^ 28 + r.miscIn.toNat
    | 0x1C => r.corrIn.toNat
    | 0x20 => r.idleEntries.toNat
    | 0x24 => r.fftSat.toNat
    | 0x40 => r.ulLate.toNat
    | 0x44 => r.ulEarly.toNat
    | 0x48 => r.discard.toNat
    | 0x4C => r.dup.toNat
    | 0x50 => r.seqGap.toNat
    | _ => 0

/-! ### Reliability (15) -/

/-- REL_SPIRE_s. -/
def SpireHealth.reg (h : SpireHealth) : Nat :=
  flagAt h.quarantined 31 + flagAt h.confirm 30 + flagAt h.fenced 29 + h.last.toNat * 2 ^ 26 + h.score

/-- Bytes of an error record (Table 15.5). -/
def ErrRec.bytes (r : ErrRec) : List Byte :=
  leBytes r.seq.toNat 4 ++ leBytes r.sec.toNat 8 ++ leBytes r.ns.toNat 4 ++ leBytes r.detector 1 ++ leBytes r.outcome 1
  ++ leBytes r.inst 2 ++ leBytes r.lease 2 ++ leBytes r.tag 2 ++ leBytes r.job 4 ++ leBytes r.detail 4

/-- The dump aperture (R532): the dump as its stack holds it; past the header it is free while the Dome is still writing. -/
def State.dumpWord (s : State) (o : Nat) : Nat :=
  match s.rel.dump with
  | none => 0
  | some d =>
    let a := s.rel.dumpOffset.toNat * 65536 + o
    if a < 0x40 || decide (d.state ≠ dumpWriting) then (s.stack (6 * d.tower + 5)).mem.readLE (dumpBase + a) 4
    else leValue ((List.range 4).map (fun i => BitVec.ofNat 8 (Config.freeByte d.seq.toNat (a + i))))

/-- Spire of the current or next visit. -/
def State.visitSpire (s : State) : Nat :=
  match s.nextVisit with
  | some v => v.spire
  | none => s.rel.rotation

/-- The counters of the reliability block, from REL_DISPUTES on. -/
def RelCounters.reg (c : RelCounters) (i : Nat) : Nat :=
  ([c.disputes, c.vChecker, c.vArray, c.vNone, c.voids, c.shadowRun, c.shadowSkipped, c.shadowVoid, c.shadowMismatch,
    c.visits, c.visitsFailed, c.tainted, c.poisonConsumed].getD i 0).toNat

/-- The reliability block (R535). -/
def State.relReg (s : State) (o : Nat) : Nat :=
  let r := s.rel
  let g := r.gov
  if 0x10000 ≤ o then s.dumpWord (o - 0x10000)
  else
    match wordsAt o 0x20 13, wordsAt o 0x100 32, wordsAt o 0x1000 256, wordsAt o 0x2000 64, wordsAt o 0x3000 64,
        regIndex o 0x8000 32 1024 with
    | some i, _, _, _, _, _ => r.counters.reg i
    | _, some k, _, _, _, _ => (s.healthOf k).reg
    | _, _, some w, _, _, _ => bitsOf 32 (fun j => s.rm.lost.contains (32 * w + j))
    | _, _, _, some n, _, _ =>
      let p := r.pm.get PathMon.reset n
      p.lowest.toNat * 2 ^ 16 + p.latest.toNat
    | _, _, _, _, some n, _ =>
      let p := r.opt.get OptPower.reset n
      flagAt p.valid 31 + flagAt p.alarm 30 + p.power.toNat
    | _, _, _, _, _, some (i, x) => leValue (((r.ring.get ErrRec.blank i).bytes.drop x).take 4)
    | _, _, _, _, _, _ =>
      match o with
      | 0x0000 => flagAt r.fatal 31 + flagAt (r.dump.any (fun d => decide (d.state = dumpComplete))) 30 + flagAt r.testActive 29
          + flagAt r.packLoaded 28 + r.lastStatus.toNat * 2 ^ 16 + s.visitSpire * 2 ^ 8 + r.disputes.length
      | 0x0004 => flagAt r.testEnable 31 + r.testStart.toNat
      | 0x0008 => r.testLen.toNat
      | 0x000C => flagAt r.shadowEnable 31 + r.shadowK.toNat
      | 0x0010 => r.fenceAt.toNat
      | 0x0014 => r.chipHealth.toNat
      | 0x0200 => g.rate.toNat
      | 0x0204 => g.burst.toNat
      | 0x0208 => g.dBase.toNat * 2 ^ 16 + g.step.toNat
      | 0x020C => g.d.toNat * 2 ^ 16 + (g.refill s.clock.tick).tokens / tokenUnit
      | 0x0210 => g.lower.toNat
      | 0x0214 => g.recs.toNat
      | 0x0218 => g.suspects.length
      | 0x2100 => r.pmAlarmAt.toNat
      | 0x3100 => r.optAlarmAt.toNat
      | 0x4000 => r.counters.errSeq.toNat
      | 0x5004 => r.dumpOffset.toNat
      | _ => 0

/-! ### Dome window (16) -/

/-- Two's complement of a temperature in 16 bits. -/
def temp16 (x : Int) : Nat := ofSigned 16 x

/-- The Dome window (R564); the Dome's own latch and doorbells are read by MID 0 alone. -/
def State.domeReg (s : State) (mid o : Nat) : Nat :=
  let d := s.dome
  match wordsAt o 0x1000 96, wordsAt o 0x1200 48 with
  | some n, _ => flagAt d.sampled 31 + (d.temps.get 0 n).toNat
  | _, some n => flagAt d.sampled 31 + (d.volts.get 0 n).toNat
  | _, _ =>
    if o = 0x1300 then s.tempMax.2 * 2 ^ 16 + temp16 s.tempMax.1
    else if 0x100 ≤ o then
      if mid ≠ 0 then 0
      else if 0x104 ≤ o ∧ o ≤ 0x110 then s.time.domeLatched.word ((o - 0x104) / 4)
      else if o = 0x800 then d.dbStatus.toNat
      else if o = 0x804 then d.dbMask.toNat
      else 0
    else
      match o with
      | 0x00 => s.domeStatus
      | 0x04 => d.fwVersion.toNat
      | 0x08 => d.cfgVersion.toNat
      | 0x0C => d.packVersion.toNat
      | 0x10 => d.bootUs.toNat
      | 0x14 => d.wdogTimeout.toNat
      | 0x18 => halfAt d.nonce.toNat 0
      | 0x1C => halfAt d.nonce.toNat 4
      | 0x20 => (match d.pending with
          | some l => 2 ^ 31 + l.toNat * 2 ^ 28
          | none => 0) + d.tokensRefused.toNat
      | 0x30 => d.logSeq.toNat
      | 0x34 => d.logLost.toNat
      | _ => 0

/-! ### Spires and Towers (03, 04, 06, 07, 08, 17) -/

/-- ARR_STATUS.STATE: 0 IDLE, 1 LOADING, 2 STREAMING, 3 FINISHING, 4 HELD. -/
def ArrState.stateCode (a : ArrState) (c : Nat) : Nat :=
  if a.passes.any (·.held) then 4
  else
    match a.passes.getLast? with
    | none => 0
    | some p =>
      if !p.swapped && decide (c < p.start + p.load) then 1
      else if !p.swapped || decide (p.entered < p.desc.v) then 2
      else 3

/-- A register of the matrix array (R147 to R149) in CCLK `c`. -/
def ArrState.reg (a : ArrState) (c o : Nat) : Nat :=
  match o with
  | 0x00 => a.lastRefusal.toNat * 2 ^ 24 + a.stateCode c * 2 ^ 16 + a.passes.length * 2 ^ 12 + flagAt a.queued.isSome 8
  | 0x04 => a.started.toNat
  | 0x08 => a.released.toNat
  | 0x0C => a.lastTag.toNat * 2 ^ 16 + a.lastFlags.toNat
  | 0x10 => a.lastInexact.toNat
  | 0x14 => a.lastClamp.toNat
  | 0x18 => a.sticky.toNat
  | 0x20 => flagAt a.dis.valid 31 + flagAt a.dis.row 30 + flagAt a.dis.imag 29 + a.dis.vector.toNat * 2 ^ 16 + a.dis.tag.toNat
  | 0x24 => a.dis.seq.toNat
  | 0x28 => halfAt a.dis.diff.toNat 0
  | 0x2C => halfAt a.dis.diff.toNat 4
  | 0x30 => a.dis.tol.toNat
  | _ => 0

/-- VU_STATUS.CLASS (R208): 0 no work, 1 inference class, 2 radio class and every work of BANK_S. -/
def Spire.classCode (p : Spire) : Nat :=
  if p.vu.inS then 2
  else
    match p.ctx with
    | .none => 0
    | .job _ => 1
    | .radio => 2

/-- VU_STATUS. -/
def Spire.vuStatus (p : Spire) : Nat :=
  let v := p.vu
  let phase := match v.phase with
    | .steady => 0
    | .draining _ _ => 1
    | .switching _ _ => 2
  p.classCode * 2 ^ 30 + flagAt v.inS 29 + phase * 2 ^ 27 + flagAt v.stopped 26
  + bitsOf 4 (fun i => ((v.bank v.inS).level i).active) * 2 ^ 16

/-- VU_RESIDUE_INFO. -/
def ResidueInfo.reg (r : ResidueInfo) : Nat :=
  flagAt r.valid 31 + r.unit.toNat * 2 ^ 28 + r.lane.toNat * 2 ^ 22 + r.vop.toNat * 2 ^ 8 + flagAt r.inS 0

/-- SEQ_STATUS.STATE (Table 7.8). -/
def SpireMode.code : SpireMode → Nat
  | .off => 0
  | .idle => 1
  | .loading => 2
  | .armed => 3
  | .running => 4
  | .stopped => 5
  | .replay => 6
  | .ending => 7
  | .wiping => 8
  | .faulted => 9
  | .fenced => 10

/-- Entries of the replay list that are not released yet, those re-issued among them (R235, R240). -/
def Spire.replayLeft (p : Spire) : Nat :=
  if p.seq.mode = .replay then
    p.seq.replay.length + p.seq.replaying.length + (if p.arr.queued.isSome then 1 else 0) + p.arr.passes.length
  else p.seq.replay.length

/-- SEQ_STATUS. -/
def Spire.seqStatus (p : Spire) : Nat :=
  let q := p.seq
  q.mode.code * 2 ^ 28 + flagAt q.stopPower 27 + flagAt q.stopReclaim 26 + flagAt (q.getHold p.vu.inS).isSome 25
  + flagAt q.inHandler 24 + p.replayLeft * 2 ^ 21 + flagAt q.stoppedFault 20 + q.pc.toNat

/-- SEQ_FAULT. -/
def FaultRec.reg (f : FaultRec) : Nat :=
  flagAt f.valid 31 + flagAt f.inS 30 + f.cause.toNat * 2 ^ 24 + f.thread.toNat * 2 ^ 21 + f.pc.toNat

/-- Two bits of a thread's state. -/
def ThreadMode.code : ThreadMode → Nat
  | .halted => 0
  | .ready => 1
  | .running => 2
  | .waiting => 3

/-- CC_STATUS. -/
def CcState.status (c : CcState) : Nat :=
  c.running.toNat * 2 ^ 16 + (List.range 8).foldl (fun x n => x + (c.threads.get Thread.reset n).mode.code * 4 ^ n) 0

/-- A programmable counter's registers, at the offsets of R115. -/
def Pmc.reg (p : Pmc) (o : Nat) : Nat :=
  if o = 0 then flagAt p.enable 31 + flagAt p.ovf 30 + flagAt p.ovfIrq 29 + p.event.toNat
  else if o = 4 ∨ o = 8 then halfAt p.count.toNat (o - 4)
  else if o = 0x10 ∨ o = 0x14 then halfAt p.snap.toNat (o - 0x10)
  else 0

/-- A Spire's counters (R115), but the programmable ones. -/
def State.cycleReg (s : State) (k o : Nat) : Nat :=
  let c := (s.spire k).cnt
  if o < 8 then halfAt (c.frozen.getD s.clock.edges) o else if o < 16 then halfAt c.snapCycle.toNat (o - 8) else 0

/-- A register of Spire `k` by its offset from the Spire base, as MID 0 or MID 1 reads it: while a lease that is assigned to a
confidential virtual machine holds the Spire, what R109, R147, R208 and R240 name reads 0 for MID 1. -/
def State.spireReg (s : State) (mid k o : Nat) : Nat :=
  let p := s.spire k
  let hidden := decide (mid = 1) && s.spireSealed k
  let c := p.cnt.frozen.getD s.clock.edges
  let shown (x : Nat) : Nat := if hidden then 0 else x
  if o < 0x100 then (if 0x0C ≤ o then shown (p.arr.reg c o) else p.arr.reg c o)
  else
    match regIndex o 0x40100 0x20 8, wordsAt o 0x30100 8 with
    | some (n, r), _ => shown ((p.cnt.pmc.get Pmc.reset n).reg r)
    | _, some n => shown (field (s.thread k n).pc.toNat 24 0)
    | _, _ =>
      if 0x40000 ≤ o then (if 0x40008 ≤ o then shown (s.cycleReg k (o - 0x40000)) else s.cycleReg k (o - 0x40000))
      else
        match o with
        | 0x10000 => p.vuStatus
        | 0x10004 => shown p.vu.stickyM.toNat
        | 0x10008 => shown p.vu.residue.reg
        | 0x1000C => shown p.vu.residueCycle.toNat
        | 0x10010 => p.vu.stickyS.toNat
        | 0x20000 => p.seqStatus
        | 0x20004 => p.seq.status.toNat * 2 ^ 24
        | 0x20008 => p.seq.startCclk.toNat
        | 0x2000C => p.seq.ivec.toNat
        | 0x20010 => shown p.seq.fault.reg
        | 0x20014 => shown p.seq.faultCycle.toNat
        | 0x20018 => shown (p.seq.flagsNow c).toNat
        | 0x2001C => p.seq.passes.toNat * 2 ^ 16 + p.seq.stops.toNat
        | 0x30000 => p.cc.status
        | _ => 0

/-- Crossbar port registers of a Spire, from XB_STORE_k on. -/
def XbState.reg (x : XbState) (o : Nat) : Nat :=
  match o with
  | 0x00 => x.jobLimit.toNat
  | 0x04 => flagAt x.clashValid 31 + x.clashBank.toNat * 2 ^ 16 + x.clash.toNat
  | 0x08 => x.clashCycle.toNat
  | 0x0C => x.lastRefusal.toNat * 2 ^ 24 + bitsOf 4 (fun j => (x.streams.get Stream.reset j).queued.isSome) * 2 ^ 12
      + bitsOf 4 (fun j => (x.streams.get Stream.reset j).active.isSome) * 2 ^ 8 + flagAt x.refused 0
  | _ => 0

/-- A register of an HBM4 controller. -/
def HbmStack.reg (x : HbmStack) (o : Nat) : Nat :=
  match o with
  | 0x0 => flagAt x.trained 31 + flagAt x.hot 30 + flagAt x.bootWiped 29 + x.queue.length
  | 0x4 => x.symCorr.toNat
  | 0x8 => x.symUncorr.toNat
  | 0xC => x.openWaits.toNat
  | _ => 0

/-- TWR_POWER of Tower `t` (R586, Table 17.3). -/
def State.towerPower (s : State) (t : Nat) : Nat :=
  flagAt (s.pwr.domains.getLsbD (16 + t)) 31 + flagAt (decide (s.pwr.mode = .run)) 30
  + flagAt (decide (s.pwr.mode = .idle) || decide (s.pwr.mode = .sleep)) 29
  + bitsOf 4 (fun j => s.pwr.domains.getLsbD (4 * t + j))

/-- Tower `t`'s own registers. -/
def State.towerReg (s : State) (t o : Nat) : Nat :=
  match regIndex o 0x18000 0x20 8, regIndex o 0x20000 0x10000 6 with
  | some (j, r), _ => (s.spire (8 * t + j)).xb.reg r
  | _, some (c, r) => (s.stack (6 * t + c)).reg r
  | _, _ => if o = 0 then t else if o = 4 then s.towerPower t else 0

/-! ### BAR0 and the lease page -/

/-- What MID 0 or MID 1 reads at an aligned offset of BAR0. -/
def State.bar0Reg (s : State) (mid off : Nat) : Nat :=
  match towerOf off with
  | some (_, some k, o) => s.spireReg mid k o
  | some (t, none, o) => s.towerReg t o
  | none =>
    if off < 0x10000 then
      (match off with
       | 0x0 => idDevice
       | 0x4 => s.chipId
       | 0x8 => s.rel.inService.toNat
       | _ => 0)
    else if off < 0x20000 then s.timeReg (off - 0x10000)
    else if off < 0x30000 then s.clockReg (off - 0x20000)
    else if off < 0x40000 then s.counterReg (off - 0x30000)
    else if off < 0x50000 then s.mailboxReg mid (off - 0x40000)
    else if off < 0x80000 then s.dispatcherReg (off - 0x50000)
    else if off < 0x100000 then s.tierReg (off - 0x80000)
    else if off < 0x140000 then (s.lane ((off - 0x100000) / 0x1000)).regs.reg (off % 0x1000)
    else if off < 0x200000 then s.fabricReg (off - 0x140000)
    else if off < 0x280000 then s.trafficReg (off - 0x200000)
    else if off < 0x300000 then s.remoteReg (off - 0x280000)
    else if off < 0x380000 then s.radioReg (off - 0x300000)
    else if off < 0x3C0000 then s.flashReg (off - 0x380000)
    else if off < 0x3E0000 then s.relReg (off - 0x3C0000)
    else if off < 0x400000 then s.domeReg mid (off - 0x3E0000)
    else 0

/-- Spire window `k` of lease `n` (R496, Table 14.11): 0 outside LOADING to WIPING of the lease's own job. -/
def State.windowReg (s : State) (n k o : Nat) : Nat :=
  let p := s.spire k
  let c := p.cnt.frozen.getD s.clock.edges
  if !s.windowOpen n k then 0
  else if o ≤ 0x30 then p.arr.reg c o
  else
    match regIndex o 0x100 0x20 8 with
    | some (i, r) => (p.cnt.pmc.get Pmc.reset i).reg r
    | none =>
      match o with
      | 0x40 => p.vuStatus
      | 0x44 => p.vu.stickyM.toNat
      | 0x48 => p.vu.residue.reg
      | 0x4C => p.vu.residueCycle.toNat
      | 0x50 => p.seqStatus
      | 0x54 => p.seq.fault.reg
      | 0x58 => (p.seq.flagsNow c).toNat
      | _ => 0

/-- LP_STATUS (R497). -/
def State.leaseStatus (s : State) (n : Nat) : Nat :=
  flagAt (s.leaseOf n).resetting 31 + (s.leaseOf n).tdi.code * 2 ^ 28 + flagAt (s.leaseEnabled n) 27 + n

/-- The read-only views of the lease page, from 0x0900 on. -/
def State.leaseView (s : State) (n i : Nat) : Nat :=
  match i with
  | 0 => (s.quotaOf n).hbmQuota.toNat
  | 1 => (s.quotaOf n).flashQuota.toNat
  | 2 => s.hbmUsed n
  | 3 => s.flashUsed n
  | 4 => s.leaseUse n
  | 5 => (s.leaseOf n).log.ctrl
  | 6 => (s.meter n).green.toNat
  | 7 => (s.meter n).yellow.toNat
  | 8 => (s.meter n).red.toNat
  | _ => 0

/-- What lease `n` reads at an aligned offset of its page (Table 14.2). -/
def State.leaseReg (s : State) (n o : Nat) : Nat :=
  let f := s.func n
  match regIndex o 0x100 0x40 8, wordsAt o 0x900 9, regIndex o 0x1000 0x20 64, regIndex o 0x4000 0x200 32, wordsAt o 0xE000 128 with
  | some (q, r), _, _, _, _ => (s.pair n q).reg r
  | _, some i, _, _, _ => s.leaseView n i
  | _, _, some (c, r), _, _ => s.channelReg (n + 1) c r
  | _, _, _, some (k, r), _ => s.windowReg n k r
  | _, _, _, _, some i => (f.msixWord i).toNat
  | _, _, _, _, _ =>
    if 0x400 ≤ o ∧ o < 0x414 then f.rx.reg (o - 0x400)
    else
      match o with
      | 0x0000 => s.leaseStatus n
      | 0x0014 => f.latch.word 0
      | 0x0018 => f.latch.word 1
      | 0x001C => f.latch.word 2
      | 0x0020 => f.latch.word 3
      | 0x0800 => f.dbStatus.toNat
      | 0x0804 => f.dbMask.toNat
      | 0x1800 => s.rxPending (n + 1) 0
      | 0x1804 => s.rxPending (n + 1) 32
      | 0xF000 => f.pba.toNat
      | _ => 0

/-- What the register at a naturally aligned offset holds for a reader: page 0 is BAR0, which MID 0 and MID 1 reach; page n is lease n's, which MID
n + 1 reaches (R11, R12). Anything else reads 0. -/
def State.readReg (s : State) (mid page off : Nat) : Word :=
  if page = 0 then (if mid ≤ 1 then word (s.bar0Reg mid off) else 0)
  else if mid = page + 1 then word (s.leaseReg page off)
  else 0

/-- A read of a register by a MID, which no row of the table stands for: the state after it, and what it returns, none while it
waits for a gated domain. A read of BAR0 returns the chip to Run where the state has stopped the block (R573), wakes the gated
domain of its block, and completes once the domain is ready (R35, R569); an unimplemented offset returns 0 (R4). One that breaks R2
is a host argument error and returns a free value (R3, R480); on a lease's page it returns 0 (R478). A request with an unassigned
MID is refused (R12). -/
def registerRead (mid page off size : Nat) (s : State) : State × Option Word :=
  if !s.reachable then (s, some 0)
  else if !midAssigned mid then (s.emit (.denied mid stBadArg), some 0)
  else if page = 0 then
    if 1 < mid || 0x08000000 ≤ off then (s, some 0)
    else if !alignedAccess off size then (s.useFree, some (word s.freeValue))
    else if !listed off then (s, some 0)
    else
      let s1 := if s.blockStopped off then returnToRun s else s
      if (domainOf off).all s1.domainOn then (s1, some (s1.readReg mid 0 off)) else (touchDomains (domainOf off) s1, none)
  else if alignedAccess off size then (s, some (s.readReg mid page off))
  else (s, some 0)

end Sys2Proof.Machine
end

