-- ==== Sys2Proof/Machine/Dump.lean ====
section
/-! DEFINITION. The dump of a fatal error (R531, R532): its header, its section entries and its sections. -/

namespace Sys2Proof.Machine

open Sys2Proof

/-! ### Sections (Table 15.7; the order, the place of the bodies and the forms of the pairs are log entry 40's) -/

/-- Bytes whose form and content the spec leaves to the Dome's firmware. -/
def firmwareBytes (seq kind count : Nat) : List Byte :=
  (List.range count).map (fun i => BitVec.ofNat 8 (Config.freeByte (seq * 16 + kind) i))

/-- The listed offsets from `base` on, `count` words. -/
def listedFrom (base count : Nat) : List Nat := ((List.range count).map (fun i => base + 4 * i)).filter listed

/-- Pairs of an offset and its register's value. -/
def State.registerPairs (s : State) (offs : List Nat) : List Byte :=
  offs.flatMap (fun o => leBytes o 4 ++ leBytes (s.bar0Reg 0 o) 4)

/-- The error ring, all 1,024 slots. -/
def State.ringBytes (s : State) : List Byte := (List.range 1024).flatMap (fun i => (s.rel.ring.get ErrRec.blank i).bytes)

/-- The last 1,024 records of the Dome log. -/
def State.logTail (s : State) : List Byte :=
  (s.dome.log.drop (s.dome.log.length - sectorRecords)).zipIdx.flatMap (fun p => p.1.bytes (s.free + 17 + 2 * p.2))

/-- Bytes of the Dome's SRAM. -/
def sramBytes : Nat := 2097152

/-- The sections of dump `seq`, each with its TYPE: those of Table 15.7, then firmware's own, up to eight. -/
def State.dumpSections (s : State) (seq : Nat) : List (Nat × List Byte) :=
  let opened (t : Nat) : Nat × List Byte := (t, firmwareBytes seq t (Config.freeNat (s.free + 1 + t) % 1048576))
  [(1, s.registerPairs (listedFrom 0 0x400000)), (2, s.registerPairs (listedFrom 0x01000000 0x1000000)), (3, s.ringBytes),
   (4, s.logTail), (5, firmwareBytes seq 5 sramBytes)]
  ++ ([6, 7] ++ (List.range (s.freeValue % 9)).map (8 + ·)).map opened

/-- The 16-byte entries of sections whose bodies follow one another from `off` on. -/
def sectionEntries : Nat → List (Nat × List Byte) → List Byte
  | _, [] => []
  | off, (t, l) :: rest =>
    leBytes t 2 ++ leBytes 0 2 ++ leBytes off 4 ++ leBytes l.length 4 ++ leBytes (crc32c l) 4
      ++ sectionEntries (off + l.length) rest

/-- Bytes of the header, and what follows it: the entries, then the bodies. -/
def dumpHeadBytes : Nat := 64

def dumpBody (l : List (Nat × List Byte)) : List Byte :=
  sectionEntries (dumpHeadBytes + 16 * l.length) l ++ l.flatMap (·.2)

/-! ### The header (Table 15.6) -/

/-- The dump header but for its CRC, over a dump of these sections and bytes. -/
def dumpHead (seq state detector sections bytes : Nat) (s : State) : List Byte :=
  leBytes 0x504D5544 4 ++ leBytes 1 4 ++ leBytes seq 4 ++ leBytes state 4
  ++ leBytes s.time.hall.sec.toNat 8 ++ leBytes s.time.hall.ns.toNat 4 ++ leBytes s.chipId 4
  ++ leBytes (detector % 256 + 14 * 256) 2 ++ leBytes sections 2
  ++ leBytes bytes 4 ++ leBytes idDevice 4 ++ leBytes s.dome.fwVersion.toNat 4

/-- The whole dump as it stands while it is being written: STATE is WRITING, and the CRC takes it as COMPLETE. -/
def State.dumpImage (s : State) (seq detector : Nat) : List Byte :=
  let l := s.dumpSections seq
  let body := dumpBody l
  let head (state : Nat) : List Byte := dumpHead seq state detector l.length (dumpHeadBytes + body.length) s
  head 1 ++ leBytes (crc32c (head 2)) 4 ++ leBytes 0 12 ++ body

/-- The Dome begins the dump on the highest Tower in service, if its stack is trained. -/
def startDump (detector : Nat) (s : State) : State :=
  match s.mapTower with
  | none => s
  | some t =>
    if (s.stack (6 * t + 5)).trained then
      let seq := s.nextDump
      let s1 := dumpWrite t 0 (s.dumpImage seq detector) s
      { s1 with free := s1.free + 17 + 2 * sectorRecords, rel := { s1.rel with dump := some ⟨t, dumpWriting, BitVec.ofNat 32 seq, false⟩ } }
    else s

/-- FATAL_ERROR (R531): counters freeze, the record is written, the dump begins; a fatal error while the dump is being written
stops the writing (Table 15.8). -/
def fatalError (detector : Nat) (s : State) : State :=
  if !s.clk.done then s
  else
    let s1 := logEvent .fatal (errRecord detector 14 0 0 0 0 0 { s with cnt := { s.cnt with freeze := true } })
    let stop (d : Dump) : Dump := if d.state = dumpWriting then { d with stopped := true } else d
    if s.rel.fatal then s1.modRel (fun r => { r with dump := r.dump.map stop })
    else startDump detector (s1.modRel (fun r => { r with fatal := true }))

def execFatalError (detector : Nat) (s : State) : Host.Outcome State Fault Refusal := .next (fatalError detector s)

end Sys2Proof.Machine
end

