-- ==== Sys2Proof/Machine/Dispatch.lean ====
section
/-! DEFINITION. Dispatch: the meaning of each command. -/

namespace Sys2Proof.Machine

open Sys2Proof

/-- The effect of a command on everything but the queue. -/
def exec (i : Instr) (s : State) : Host.Outcome State Fault Refusal :=
  match i with
  | .registerWrite mid page off size v => Sys2Proof.Machine.execRegisterWrite mid page off size v s
  | .resetRelease => Sys2Proof.Machine.execResetRelease s
  | .pllLock => Sys2Proof.Machine.execPllLock s
  | .minuetPhase2Complete ok => Sys2Proof.Machine.execMinuetPhase2Complete ok s
  | .minuetPhase3Complete l0 l1 l2 l3 => Sys2Proof.Machine.execMinuetPhase3Complete l0 l1 l2 l3 s
  | .rootPllLoss => Sys2Proof.Machine.execRootPllLoss s
  | .ucieTrainingLoss t => Sys2Proof.Machine.execUcieTrainingLoss t s
  | .timeIncrLoWrite mid v => Sys2Proof.Machine.execTimeIncrLoWrite mid v s
  | .timeIncrHiWrite mid v => Sys2Proof.Machine.execTimeIncrHiWrite mid v s
  | .timeSetGo mid mode => Sys2Proof.Machine.execTimeSetGo mid mode s
  | .ppsInEdge edge => Sys2Proof.Machine.execPpsInEdge edge s
  | .capStrobeWrite mid c => Sys2Proof.Machine.execCapStrobeWrite mid c s
  | .timeLatch mid => Sys2Proof.Machine.execTimeLatch mid s
  | .setReady => Sys2Proof.Machine.execSetReady s
  | .syncHoldover => Sys2Proof.Machine.execSyncHoldover s
  | .timeLocked => Sys2Proof.Machine.execTimeLocked s
  | .ppsOutSecond => Sys2Proof.Machine.execPpsOutSecond s
  | .ppsOutPulseEnd => Sys2Proof.Machine.execPpsOutPulseEnd s
  | .trigCtrlWrite mid n v => Sys2Proof.Machine.execTrigCtrlWrite mid n v s
  | .triggerFire => Sys2Proof.Machine.execTriggerFire s
  | .clkModeWrite mid v => Sys2Proof.Machine.execClkModeWrite mid v s
  | .droopDetection => Sys2Proof.Machine.execDroopDetection s
  | .ndcClear mid => Sys2Proof.Machine.execNdcClear mid s
  | .cntFreezeWrite mid v => Sys2Proof.Machine.execCntFreezeWrite mid v s
  | .evselWrite mid spire n v => Sys2Proof.Machine.execEvselWrite mid spire n v s
  | .bundleIssue k fetch => Sys2Proof.Machine.execBundleIssue k fetch s
  | .nop k => Sys2Proof.Machine.execNop k s
  | .br k target => Sys2Proof.Machine.execBr k target s
  | .brf k flag sense target => Sys2Proof.Machine.execBrf k flag sense target s
  | .vrep k level len count => Sys2Proof.Machine.execVrep k level len count s
  | .issue k desc => Sys2Proof.Machine.execIssue k desc s
  | .wrel k => Sys2Proof.Machine.execWrel k s
  | .wflag k flag sense => Sys2Proof.Machine.execWflag k flag sense s
  | .wplan k pcclk => Sys2Proof.Machine.execWplan k pcclk s
  | .flags k set clear => Sys2Proof.Machine.execFlags k set clear s
  | .ret k => Sys2Proof.Machine.execRet k s
  | .ctlEnd k code => Sys2Proof.Machine.execCtlEnd k code s
  | .wend k => Sys2Proof.Machine.execWend k s
  | .holdRelease k => Sys2Proof.Machine.execHoldRelease k s
  | .vectorResult k upset => Sys2Proof.Machine.execVectorResult k upset s
  | .drainComplete k => Sys2Proof.Machine.execDrainComplete k s
  | .bankSwitchComplete k => Sys2Proof.Machine.execBankSwitchComplete k s
  | .windowStart k => Sys2Proof.Machine.execWindowStart k s
  | .windowOverrun k => Sys2Proof.Machine.execWindowOverrun k s
  | .windowEnd k => Sys2Proof.Machine.execWindowEnd k s
  | .tileLoadStart k => Sys2Proof.Machine.execTileLoadStart k s
  | .passStart k => Sys2Proof.Machine.execPassStart k s
  | .passSwap k => Sys2Proof.Machine.execPassSwap k s
  | .perVectorCheck k upset => Sys2Proof.Machine.execPerVectorCheck k upset s
  | .checksumRowStep k upset => Sys2Proof.Machine.execChecksumRowStep k upset s
  | .passRelease k => Sys2Proof.Machine.execPassRelease k s
  | .rld k t f rd rs1 => Sys2Proof.Machine.execRld k t f rd rs1 s
  | .rst k t f rd rs1 rs2 => Sys2Proof.Machine.execRst k t f rd rs1 rs2 s
  | .ramo k t f rd rs1 rs2 => Sys2Proof.Machine.execRamo k t f rd rs1 rs2 s
  | .rfence k t rd => Sys2Proof.Machine.execRfence k t rd s
  | .sprR k t rd rs1 => Sys2Proof.Machine.execSprR k t rd rs1 s
  | .sprW k t rs1 rs2 => Sys2Proof.Machine.execSprW k t rs1 rs2 s
  | .statePathAccessEnd k => Sys2Proof.Machine.execStatePathAccessEnd k s
  | .flag k t f rd rs1 rs2 => Sys2Proof.Machine.execFlag k t f rd rs1 rs2 s
  | .yield k t => Sys2Proof.Machine.execYield k t s
  | .controlCoreInstruction k t => Sys2Proof.Machine.execControlCoreInstruction k t s
  | .spireLoad k img => Sys2Proof.Machine.execSpireLoad k img s
  | .loadComplete k => Sys2Proof.Machine.execLoadComplete k s
  | .spireStart k => Sys2Proof.Machine.execSpireStart k s
  | .spireStartTime k => Sys2Proof.Machine.execSpireStartTime k s
  | .spireStop mid k cause => Sys2Proof.Machine.execSpireStop mid k cause s
  | .spireResume mid k cause => Sys2Proof.Machine.execSpireResume mid k cause s
  | .spireAbort mid k => Sys2Proof.Machine.execSpireAbort mid k s
  | .spireFence mid k => Sys2Proof.Machine.execSpireFence mid k s
  | .spireReturn k => Sys2Proof.Machine.execSpireReturn k s
  | .wipeComplete k => Sys2Proof.Machine.execWipeComplete k s
  | .transferAccept k => Sys2Proof.Machine.execTransferAccept k s
  | .hbmBeat k beat => Sys2Proof.Machine.execHbmBeat k beat s
  | .transferComplete k stream => Sys2Proof.Machine.execTransferComplete k stream s
  | .openSlot slot => Sys2Proof.Machine.execOpenSlot slot s
  | .hbmRefreshPoint h => Sys2Proof.Machine.execHbmRefreshPoint h s
  | .bootWipeStart h => Sys2Proof.Machine.execBootWipeStart h s
  | .bootWipeComplete h => Sys2Proof.Machine.execBootWipeComplete h s
  | .placeWipeComplete h => Sys2Proof.Machine.execPlaceWipeComplete h s
  | .tileMapRebuildComplete => Sys2Proof.Machine.execTileMapRebuildComplete s
  | .alloc issuer a => Sys2Proof.Machine.execAlloc issuer a s
  | .free issuer first count => Sys2Proof.Machine.execFree issuer first count s
  | .move issuer a => Sys2Proof.Machine.execMove issuer a s
  | .moveTileCommit => Sys2Proof.Machine.execMoveTileCommit s
  | .pin issuer first count => Sys2Proof.Machine.execPin issuer first count s
  | .unpin issuer first count => Sys2Proof.Machine.execUnpin issuer first count s
  | .query issuer first count buffer => Sys2Proof.Machine.execQuery issuer first count buffer s
  | .assign issuer first count lease => Sys2Proof.Machine.execAssign issuer first count lease s
  | .boundary issuer lease leaves joins => Sys2Proof.Machine.execBoundary issuer lease leaves joins s
  | .flashPageRead tile read => Sys2Proof.Machine.execFlashPageRead tile read s
  | .flashWriteAck ack => Sys2Proof.Machine.execFlashWriteAck ack s
  | .flashRelocation erase => Sys2Proof.Machine.execFlashRelocation erase s
  | .powerFail => Sys2Proof.Machine.execPowerFail s
  | .powerFailRecovery => Sys2Proof.Machine.execPowerFailRecovery s
  | .cellConfig issuer block => Sys2Proof.Machine.execCellConfig issuer block s
  | .cellStart issuer cell at_ => Sys2Proof.Machine.execCellStart issuer cell at_ s
  | .cellStop issuer cell at_ => Sys2Proof.Machine.execCellStop issuer cell at_ s
  | .cellClear issuer cell => Sys2Proof.Machine.execCellClear issuer cell s
  | .cellStartTime cell => Sys2Proof.Machine.execCellStartTime cell s
  | .cellStopTime cell => Sys2Proof.Machine.execCellStopTime cell s
  | .dlRecordRead cell => Sys2Proof.Machine.execDlRecordRead cell s
  | .ulRecordWrite cell expected messages => Sys2Proof.Machine.execUlRecordWrite cell expected messages s
  | .symbolPowerEstimate cell stream => Sys2Proof.Machine.execSymbolPowerEstimate cell stream s
  | .engineEntryStart entry work => Sys2Proof.Machine.execEngineEntryStart entry work s
  | .engineDescriptorDone entry data => Sys2Proof.Machine.execEngineDescriptorDone entry data s
  | .radioFault f => Sys2Proof.Machine.execRadioFault f s
  | .stepFrameTransmit lane payload => Sys2Proof.Machine.execStepFrameTransmit lane payload s
  | .stepFrameReceive lane frame => Sys2Proof.Machine.execStepFrameReceive lane frame s
  | .laneCtrlWrite mid lane v => Sys2Proof.Machine.execLaneCtrlWrite mid lane v s
  | .laneRetrain mid lane => Sys2Proof.Machine.execLaneRetrain mid lane s
  | .laneTrainingDone lane => Sys2Proof.Machine.execLaneTrainingDone lane s
  | .laneAlignDone lane => Sys2Proof.Machine.execLaneAlignDone lane s
  | .laneBringupTimeout lane => Sys2Proof.Machine.execLaneBringupTimeout lane s
  | .laneDownExpiry lane => Sys2Proof.Machine.execLaneDownExpiry lane s
  | .heartbeatMiss lane => Sys2Proof.Machine.execHeartbeatMiss lane s
  | .pavaneLoad issuer slotB first tiles => Sys2Proof.Machine.execPavaneLoad issuer slotB first tiles s
  | .pavaneActivate issuer slotB figure at_ => Sys2Proof.Machine.execPavaneActivate issuer slotB figure at_ s
  | .figureSwitch issuer figure at_ => Sys2Proof.Machine.execFigureSwitch issuer figure at_ s
  | .pavaneClear issuer slotB => Sys2Proof.Machine.execPavaneClear issuer slotB s
  | .drainPeriodEnd => Sys2Proof.Machine.execDrainPeriodEnd s
  | .beSend issuer a => Sys2Proof.Machine.execBeSend issuer a s
  | .beDecision lane => Sys2Proof.Machine.execBeDecision lane s
  | .tokenRefill => Sys2Proof.Machine.execTokenRefill s
  | .rmemOp issuer op addr operand swap => Sys2Proof.Machine.execRmemOp issuer op addr operand swap s
  | .rmemFence issuer => Sys2Proof.Machine.execRmemFence issuer s
  | .rmemRequestApply => Sys2Proof.Machine.execRmemRequestApply s
  | .rmemRetransmit ctx tag => Sys2Proof.Machine.execRmemRetransmit ctx tag s
  | .rmemTimeout ctx tag => Sys2Proof.Machine.execRmemTimeout ctx tag s
  | .rmemAckSend ctx tag => Sys2Proof.Machine.execRmemAckSend ctx tag s
  | .replayRecordExpiry => Sys2Proof.Machine.execReplayRecordExpiry s
  | .stagingLineTransfer line => Sys2Proof.Machine.execStagingLineTransfer line s
  | .stagingWaitTimeout => Sys2Proof.Machine.execStagingWaitTimeout s
  | .jobSubmit issuer first tiles user => Sys2Proof.Machine.execJobSubmit issuer first tiles user s
  | .jobCancel issuer job => Sys2Proof.Machine.execJobCancel issuer job s
  | .placement => Sys2Proof.Machine.execPlacement s
  | .jobCompletion job => Sys2Proof.Machine.execJobCompletion job s
  | .dspReclaimMaskWrite mid v => Sys2Proof.Machine.execDspReclaimMaskWrite mid v s
  | .reclaimDone => Sys2Proof.Machine.execReclaimDone s
  | .logStart issuer lease tile iova pages => Sys2Proof.Machine.execLogStart issuer lease tile iova pages s
  | .logFlip issuer lease => Sys2Proof.Machine.execLogFlip issuer lease s
  | .logStop issuer lease => Sys2Proof.Machine.execLogStop issuer lease s
  | .leaseReset lease flr => Sys2Proof.Machine.execLeaseReset lease flr s
  | .leaseResetComplete lease => Sys2Proof.Machine.execLeaseResetComplete lease s
  | .qpCtrlWrite mid qp v => Sys2Proof.Machine.execQpCtrlWrite mid qp v s
  | .sqTailWrite mid qp v => Sys2Proof.Machine.execSqTailWrite mid qp v s
  | .submissionFetch func qp entry data => Sys2Proof.Machine.execSubmissionFetch func qp entry data s
  | .completionRecordWrite func qp => Sys2Proof.Machine.execCompletionRecordWrite func qp s
  | .cqHeadWrite mid qp v => Sys2Proof.Machine.execCqHeadWrite mid qp v s
  | .berxHeadWrite mid v => Sys2Proof.Machine.execBerxHeadWrite mid v s
  | .dbMaskWrite mid v => Sys2Proof.Machine.execDbMaskWrite mid v s
  | .mbTxWrite mid c v => Sys2Proof.Machine.execMbTxWrite mid c v s
  | .mbRxRead mid c => Sys2Proof.Machine.execMbRxRead mid c s
  | .mbCtrlWrite mid c v => Sys2Proof.Machine.execMbCtrlWrite mid c v s
  | .mbBindWrite mid c v => Sys2Proof.Machine.execMbBindWrite mid c v s
  | .mbLockWrite mid v => Sys2Proof.Machine.execMbLockWrite mid v s
  | .cxlMemRequest req => Sys2Proof.Machine.execCxlMemRequest req s
  | .identifyMemoryDevice => Sys2Proof.Machine.execIdentifyMemoryDevice s
  | .getSupportedLogs => Sys2Proof.Machine.execGetSupportedLogs s
  | .getLog => Sys2Proof.Machine.execGetLog s
  | .getEventRecords max => Sys2Proof.Machine.execGetEventRecords max s
  | .clearEventRecords handles => Sys2Proof.Machine.execClearEventRecords handles s
  | .getPoisonList addr len => Sys2Proof.Machine.execGetPoisonList addr len s
  | .cxlMailboxUnsupported opcode => Sys2Proof.Machine.execCxlMailboxUnsupported opcode s
  | .tdispGetVersion lease => Sys2Proof.Machine.execTdispGetVersion lease s
  | .tdispGetCapabilities lease => Sys2Proof.Machine.execTdispGetCapabilities lease s
  | .lockInterface lease stream => Sys2Proof.Machine.execLockInterface lease stream s
  | .getDeviceInterfaceReport lease => Sys2Proof.Machine.execGetDeviceInterfaceReport lease s
  | .getDeviceInterfaceState lease => Sys2Proof.Machine.execGetDeviceInterfaceState lease s
  | .startInterface lease => Sys2Proof.Machine.execStartInterface lease s
  | .stopInterface lease => Sys2Proof.Machine.execStopInterface lease s
  | .ideCheckFailure stream => Sys2Proof.Machine.execIdeCheckFailure stream s
  | .testWindowStart => Sys2Proof.Machine.execTestWindowStart s
  | .testSegmentComplete differs => Sys2Proof.Machine.execTestSegmentComplete differs s
  | .recomputeComplete tower result => Sys2Proof.Machine.execRecomputeComplete tower result s
  | .shadowRecomputeComplete tower result => Sys2Proof.Machine.execShadowRecomputeComplete tower result s
  | .testWindowEnd => Sys2Proof.Machine.execTestWindowEnd s
  | .relTestCfgWrite mid v => Sys2Proof.Machine.execRelTestCfgWrite mid v s
  | .relTestLenWrite mid v => Sys2Proof.Machine.execRelTestLenWrite mid v s
  | .relDumpClear mid => Sys2Proof.Machine.execRelDumpClear mid s
  | .relPmClear mid => Sys2Proof.Machine.execRelPmClear mid s
  | .chipLostDeclaration chip => Sys2Proof.Machine.execChipLostDeclaration chip s
  | .chipReturn chip => Sys2Proof.Machine.execChipReturn chip s
  | .govTokenRefill => Sys2Proof.Machine.execGovTokenRefill s
  | .govLowerExpiry => Sys2Proof.Machine.execGovLowerExpiry s
  | .pathMonitorSample n slack => Sys2Proof.Machine.execPathMonitorSample n slack s
  | .opticalPowerRead lane power => Sys2Proof.Machine.execOpticalPowerRead lane power s
  | .correctionSummary => Sys2Proof.Machine.execCorrectionSummary s
  | .fatalError detector => Sys2Proof.Machine.execFatalError detector s
  | .fatalDumpComplete => Sys2Proof.Machine.execFatalDumpComplete s
  | .firmwareStart b => Sys2Proof.Machine.execFirmwareStart b s
  | .configApplied => Sys2Proof.Machine.execConfigApplied s
  | .timeAcquireEntry => Sys2Proof.Machine.execTimeAcquireEntry s
  | .recoveryImageReceive image => Sys2Proof.Machine.execRecoveryImageReceive image s
  | .watchdogKick mid => Sys2Proof.Machine.execWatchdogKick mid s
  | .watchdogExpiry => Sys2Proof.Machine.execWatchdogExpiry s
  | .domeMctpHeartbeat => Sys2Proof.Machine.execDomeMctpHeartbeat s
  | .sensorSample temps volts => Sys2Proof.Machine.execSensorSample temps volts s
  | .spdmGetVersion => Sys2Proof.Machine.execSpdmGetVersion s
  | .spdmGetCapabilities => Sys2Proof.Machine.execSpdmGetCapabilities s
  | .negotiateAlgorithms common => Sys2Proof.Machine.execNegotiateAlgorithms common s
  | .getDigests => Sys2Proof.Machine.execGetDigests s
  | .getCertificate => Sys2Proof.Machine.execGetCertificate s
  | .challenge => Sys2Proof.Machine.execChallenge s
  | .getMeasurements signed => Sys2Proof.Machine.execGetMeasurements signed s
  | .keyExchange session => Sys2Proof.Machine.execKeyExchange session s
  | .finish session => Sys2Proof.Machine.execFinish session s
  | .spdmHeartbeat session => Sys2Proof.Machine.execSpdmHeartbeat session s
  | .keyUpdate session => Sys2Proof.Machine.execKeyUpdate session s
  | .endSession session => Sys2Proof.Machine.execEndSession session s
  | .vendorDefinedRequest session carries => Sys2Proof.Machine.execVendorDefinedRequest session carries s
  | .getInfo channel tag => Sys2Proof.Machine.execGetInfo channel tag s
  | .stage channel tag kind first tiles => Sys2Proof.Machine.execStage channel tag kind first tiles s
  | .stageComplete done => Sys2Proof.Machine.execStageComplete done s
  | .chipReset channel tag => Sys2Proof.Machine.execChipReset channel tag s
  | .logRead channel tag fromSeq count first => Sys2Proof.Machine.execLogRead channel tag fromSeq count first s
  | .logRecordWrite => Sys2Proof.Machine.execLogRecordWrite s
  | .debugTokenReceive tok => Sys2Proof.Machine.execDebugTokenReceive tok s
  | .jtagInstruction op => Sys2Proof.Machine.execJtagInstruction op s
  | .pwrState issuer target atTrigger => Sys2Proof.Machine.execPwrState issuer target atTrigger s
  | .deepSleepEntry => Sys2Proof.Machine.execDeepSleepEntry s
  | .pwrGate issuer mask => Sys2Proof.Machine.execPwrGate issuer mask s
  | .pwrUngate issuer mask => Sys2Proof.Machine.execPwrUngate issuer mask s
  | .pwrWakeCfg issuer v => Sys2Proof.Machine.execPwrWakeCfg issuer v s
  | .pwrCap issuer cap => Sys2Proof.Machine.execPwrCap issuer cap s
  | .domainReady k => Sys2Proof.Machine.execDomainReady k s
  | .wakePin w => Sys2Proof.Machine.execWakePin w s
  | .avsResponse crcOk ack value => Sys2Proof.Machine.execAvsResponse crcOk ack value s
  | .avsTimeout => Sys2Proof.Machine.execAvsTimeout s
  | .avsLoopTick => Sys2Proof.Machine.execAvsLoopTick s
  | .throttleSample => Sys2Proof.Machine.execThrottleSample s
  | .vrAlert => Sys2Proof.Machine.execVrAlert s
  | .estopEnd => Sys2Proof.Machine.execEstopEnd s
  | .resetPinAssert us => Sys2Proof.Machine.execResetPinAssert us s
  | .pavaneLoadComplete => Sys2Proof.Machine.execPavaneLoadComplete s
  | .stackTemperatureReport h temp => Sys2Proof.Machine.execStackTemperatureReport h temp s
  | .powerLoss => Sys2Proof.Machine.execPowerLoss s
  | .wakeIslandThermtrip temp => Sys2Proof.Machine.execWakeIslandThermtrip temp s
  | .localEngineStoreAccept k t => Sys2Proof.Machine.execLocalEngineStoreAccept k t s

end Sys2Proof.Machine
end

