-- ==== Sys2Proof/Machine/Tick.lean ====
section
/-! DEFINITION. The tick of the clock root, which is what a step does with no command waiting (log entry 10): the clock edges, and
what the spec ties to every edge of CCLK or BCLK without a row of the opcode table. A BCLK edge coincides with every second
tick. -/

namespace Sys2Proof.Machine

open Sys2Proof

/-! ### One CCLK of one Spire -/

/-- The store accesses of this CCLK, in the order of their precedence (R247, R505): the test path's reads go before them; the array's
writes are made first, and a crossbar beat that names their bank may take them away again. -/
def storeAccesses (k : Nat) (s : State) : Acc :=
  vectorAccesses k (loadAccesses k (crossbarAccesses k ⟨s.testBanks k, arrayWrites k s⟩))

/-- Is this CCLK one that events which count clock cycles count: plan CCLK 0 to 849,935 (R105)? -/
def State.countsCycles (s : State) : Bool := s.hasPlan && decide (s.clock.plan < planEnd)

/-- Does the sequencer wait for an owned slot: a WFLAG hold lasts while a transfer is active (event 0x0303, log entry 48)? -/
def Spire.waitsSlot (p : Spire) : Bool :=
  let h := if p.vu.inS then p.seq.holdS else p.seq.hold
  (match h with
   | some (.wflag _ _) => true
   | _ => false) && (List.range 4).any (fun j => (p.xb.streams.get Stream.reset j).active.isSome)

/-- Is no thread ready, so that the core issues nothing (event 0x0403, R227)? -/
def CcState.noneReady (c : CcState) : Bool := c.next.isNone

/-- Count event `ev` of Spire `k` once if it occurs. -/
def countIf (k ev : Nat) (on : Bool) (s : State) : State := if on then countSpire k ev 1 s else s

/-- The events of this CCLK that no command marks: 0x0104, 0x0303, 0x0403 and, for each stream, 0x0603 (Table 3.4). -/
def cycleEvents (k : Nat) (s : State) : State :=
  let p := s.spire k
  let on := s.countsCycles
  let s1 := countIf k 0x0104 (on && !p.arr.passes.isEmpty) s
  let s2 := countIf k 0x0303 (on && p.waitsSlot) s1
  let s3 := countIf k 0x0403 (on && p.cc.noneReady) s2
  countSpire k 0x0603 ((List.range 4).filter (fun j => s.idleSlot k j)).length s3

/-- A wipe goes on while neither a window nor a reclaim has the store, in CCLK in which no access with a precedence names a bank
(R244, R248): its 64 words name every bank (DEDUCED, log entry 140: they are written together). -/
def wipeCycle (k : Nat) (used : BitVec 64) (s : State) : State :=
  s.modSeq k (fun q =>
    if (q.mode = .wiping || q.mode = .loading || q.fencing) && !q.window && !q.reclaim && decide (used = 0) then
      { q with wipeLeft := q.wipeLeft - 1 } else q)

/-- One CCLK of Spire `k`. A Spire that is fenced only finishes its wipe (R34, Table 7.10) and the GET beats that have been read
from HBM (R274). -/
def spireCycle (s : State) (k : Nat) : State :=
  if !s.domainOn (k / 2) || s.rel.towerOut.getLsbD (k / 8) then s
  else if s.inService k then
    let r := storeAccesses k (readIssues k (readXferDescs k s))
    wipeCycle k r.used (cycleEvents k (pathStart k (wakeFlags k (vectorsEnter k r.s))))
  else
    let r := crossbarAccesses k ⟨0, s⟩
    wipeCycle k r.used r.s

/-! ### Edges -/

/-- Do the Towers' CCLK run: after phase 1, in Run (R570)? -/
def State.cclkRuns (s : State) : Bool := s.clk.phase1Done && decide (s.pwr.mode = .run)

/-- A CCLK edge: suppressed if a droop has asked for it (R98), else it advances SPC_CYCLE and the plan position (R31, R103), and
every Spire that holds anything makes its CCLK. In Idle the plan goes on, in the Belfry alone. -/
def cclkEdge (s : State) : State :=
  if 0 < s.clock.skip then { s with clock := { s.clock with skip := s.clock.skip - 1 } }
  else if s.cclkRuns then
    let s1 := { s with clock := { s.clock with edges := s.clock.edges + 1, plan := s.clock.plan + 1 } }
    s1.spires.keys.foldl spireCycle s1
  else if s.clk.phase1Done && decide (s.pwr.mode = .idle) then
    { s with clock := { s.clock with plan := s.clock.plan + 1 } }
  else s

/-- The time unit's own BCLK tick, which is never stretched: hall time takes its next value `h` (R51, R98). -/
def hallEdge (h : HallTime) (s : State) : State := s.modTime (fun t => { t with hall := h, edgeAt := none })

/-- A BCLK edge: cells whose forwarding time has come join their queues, and the regulator bus takes its next request. -/
def bclkEdge (s : State) : State :=
  let s1 := { s with clock := { s.clock with bclk := s.clock.bclk + 1 } }
  avsSend (routeReady s1)

/-- The tick at which phase 2 of the Minuet begins: the first after the release of the dividers (Table 2.2). -/
def minuetTick (s : State) : State :=
  if s.clk.phase1Done && decide (s.clk.phase = 1) then s.modClk (fun c => { c with phase := 2 }) else s

/-- One tick of the root: a CCLK edge, and with every second one a BCLK edge, once the dividers run (R42). A suppressed CCLK edge
takes the BCLK edge that coincides with it along, but hall time's own tick (R98). -/
def rootTick (s : State) : State :=
  if s.clk.pendingReset.isSome then s
  else
    let s1 := minuetTick (cclkEdge { s with clock := { s.clock with tick := s.clock.tick + 1 } })
    if (s.clock.tick + 1) % 2 = 0 && s.clk.phase1Done then
      let s2 := slotStartsPass s1.now (hallEdge s.nextHall s1)
      if 0 < s.clock.skip then s2 else bclkEdge s2
    else s1

/-- The step of an empty queue. -/
def tick (s : State) : Host.Outcome State Fault Refusal := .next (rootTick s)

end Sys2Proof.Machine
end

