-- ==== Sys2Proof/Safety.lean ====
section
/-! DEFINITION. Safety: the limits that the spec sets to State's counts and the conditions, on the state and the operands alone, under
which statements say that a command has its effect. -/

namespace Sys2Proof.Machine

open Sys2Proof

/-! ### Limits -/

/-- A hall time whose nanoseconds field holds at most 999,999,999 (R51). -/
def HallTime.ok (h : HallTime) : Bool := decide (h.ns.toNat ≤ 999999999)

/-- Words that a mailbox channel's FIFO holds (R488). -/
abbrev fifoLimit : Nat := 32

/-- The invariant. Hall time, the hall time that waits for 1PPS_IN and the one that the next BCLK edge gives after a coarse set hold a
legal nanoseconds value (R51, R72); the throttle level is
at most 32 (Table 17.10); no mailbox FIFO holds more than 32 words (R488); and CHIP_STATE is BOOT, TIME_ACQUIRE or READY only
after the Minuet is done, and FAILED only after it failed (R41, R44); and in READY no hall time waits for 1PPS_IN (R72). -/
def State.inv (s : State) : Prop :=
  s.time.hall.ok = true ∧ (∀ h, s.time.setPending = some h ∨ s.time.edgeAt = some h → h.ok = true) ∧ s.pwr.level ≤ 32 ∧
    (∀ c, (s.host.channels.get Channel.reset c).fifo.length ≤ fifoLimit) ∧
    (s.clk.chipState ≠ .minuet → s.clk.chipState ≠ .failed → s.clk.done = true) ∧
    (s.clk.chipState = .failed → s.clk.failed = true) ∧ (s.clk.chipState = .ready → s.time.setPending = none)

/-- How CHIP_STATE may move without a reset: not at all, or one place on in its order, to FAILED from MINUET alone, to READY only while
TIME_STATE is LOCKED (R44, R56, Chip states and Ready). -/
def State.chipMoves (s t : State) : Prop :=
  t.clk.chipState = s.clk.chipState ∨
    (s.clk.chipState = .minuet ∧ (t.clk.chipState = .boot ∨ t.clk.chipState = .failed)) ∨
    (s.clk.chipState = .boot ∧ t.clk.chipState = .timeAcquire) ∨
    (s.clk.chipState = .timeAcquire ∧ t.clk.chipState = .ready ∧ s.time.servo = tsLocked)

/-- A chip that a reset has just put back, or that has entered Deep sleep or Off: every clock register is at its reset value, and either
a reset is under way or the power state is one of the two (R50, R58, R570). -/
def State.fresh (s : State) : Prop :=
  s.clk = { ClkState.reset with pendingReset := s.clk.pendingReset } ∧
    (s.clk.pendingReset.isSome = true ∨ s.pwr.mode = .deep ∨ s.pwr.mode = .off)

/-! ### Register rows -/

/-- Has an access to the register at offset `off` of BAR0 its effect at once: can the chip be reached, does the register's block run in
the power state (R573), and are its power domains on (R35)? -/
def State.serves (s : State) (off : Nat) : Bool := s.reachable && !s.blockStopped off && (domainOf off).all s.domainOn

/-! ### Queue commands -/

/-- The state in which a queue command's own body runs: the command is no longer one that SUBMISSION_FETCH has started, and a chip in
Idle or Sleep has returned to Run, unless it is a power command (R573). -/
def State.begun (s : State) (op : Nat) (iss : Issuer) : State :=
  if isPowerOp op then takeStarted iss s else returnToRun (takeStarted iss s)

/-- Does a queue command pass the checks that come before every one: a chip that can be reached, no lease reset under way (R482), no fatal error (R531), an opcode of
the issuer's (R473), a lease that is enabled (R434) and whose TDI is not in ERROR (R484)? -/
def State.accepts (s : State) (op : Nat) (iss : Issuer) : Bool :=
  s.reachable && !s.rel.fatal && opcodeAllowed iss op &&
    (!iss.isLease || (!(s.leaseOf iss.lease).resetting && decide ((s.leaseOf iss.lease).tdi ≠ .error) &&
      s.leaseEnabled iss.lease))

end Sys2Proof.Machine
end

