-- ==== Sys2Proof/Certificates/Slice0/Obligations.lean ====
section
/-! DEFINITION. The statements for the provers. -/

open Sys2Proof Sys2Proof.Machine

/-- For every command c and state s whose queue is c followed by some rest, a step of s is exec of c on s with the
queue's rest. (The queue is the model's own.) -/
def Obligations.StepRunsFrontCommand : Prop :=

  ∀ (c : Instr) (rest : List Instr) (s : State), s.pending = c :: rest →
    step s = exec c { s with pending := rest }

/-- RESET_RELEASE records the reset's cause and ends the hold. PLL_LOCK in the Minuet locks every PLL, counts an
attempt and starts every divider on the next edge of the 16-tick grid, from whose first edge CCLK edges, BCLK
edges and the plan position count; PHASE reads 1. Phase 2 goes on to phase 3, or restarts from phase 1 after a
first failure, or ends in CHIP_STATE = FAILED after a second, which the ROM reports. Phase 3 ends with DONE and
CHIP_STATE = BOOT, whatever the links' results, and when both directions of all four links train with a raw
latency of at most 24 CCLK, each link's UCIE_LAT reads the larger raw latency and the padding that makes 24. A
loss of root lock after the Minuet resets the chip, with CLOCK_LOSS as the cause to be recorded. -/
def Obligations.MinuetRunsToBoot : Prop :=

  (∀ (s : State) (c : ResetCause), s.clk.pendingReset = some c →
    ∃ t, exec .resetRelease s = .next t ∧ t.clk = { s.clk with pendingReset := none, rstCause := c, refPresent := true } ∧
      t = { s with clk := t.clk, pins := { s.pins with resetN := true }, dome := t.dome }) ∧
  (∀ s : State, s.clk.inMinuet = true → s.clk.phase1Done = false →
    exec .pllLock s = .next { s with
      clock := { tick := (s.clock.tick + 15) / 16 * 16, edges := 0, bclk := 0, plan := 0, skip := 0 }
      clk := { s.clk with lanePll := true, hbmPll := true, uciePll := true, rootLock := true, phase1Done := true, phase := 1,
                          attempts := s.clk.attempts + 1 } }) ∧
  (∀ s : State, s.clk.inMinuet = true → s.clk.phase1Done = true → s.clk.phase ≠ 3 →
    exec (.minuetPhase2Complete true) s = .next { s with clk := { s.clk with phase := 3 } } ∧
    exec (.minuetPhase2Complete false) s =
      .next (if s.clk.attempts = 1 then { s with
          clock := { tick := (s.clock.tick + 15) / 16 * 16, edges := 0, bclk := 0, plan := 0, skip := 0 }
          clk := { s.clk with phase1Done := true, phase := 1, attempts := 2 } }
        else { s with clk := { s.clk with failed := true, chipState := .failed }, out := .romFailure :: s.out })) ∧
  (∀ (s : State) (l0 l1 l2 l3 : Option (Nat × Nat)), s.clk.inMinuet = true → s.clk.phase = 3 →
    ∃ t, exec (.minuetPhase3Complete l0 l1 l2 l3) s = .next t ∧ t.clk.done = true ∧ t.clk.chipState = .boot) ∧
  (∀ (s : State) (d u : Nat → Nat), s.clk.inMinuet = true → s.clk.phase = 3 → (∀ n, n < 4 → max (d n) (u n) ≤ 24) →
    ∃ t, exec (.minuetPhase3Complete (some (d 0, u 0)) (some (d 1, u 1)) (some (d 2, u 2)) (some (d 3, u 3))) s = .next t ∧
      t.clk.towerFail = s.clk.towerFail ∧
      ∀ n, n < 4 → t.clk.lat.get UcieLat.reset n = ⟨1, BitVec.ofNat 8 (max (d n) (u n)), BitVec.ofNat 8 (24 - max (d n) (u n))⟩) ∧
  (∀ s : State, s.clk.done = true →
    ∃ t, exec .rootPllLoss s = .next t ∧ t.clk = { ClkState.reset with pendingReset := some .clockLoss } ∧
      t.time = TimeState.reset ∧ t.leases = Tab.empty ∧ t.out = s.out)

/-- For every state of a chip that can be reached and every value: TIME_INCR_LO or TIME_INCR_HI written by a MID
other than 0 changes nothing but TIME_INCR_REJECTS, which counts it (and stays at its largest value). A
TIME_SET_GO from another MID changes nothing and is not counted. Every reset leaves the nominal increment. -/
def Obligations.TimeIncrementIsTheDomes : Prop :=

  (∀ (s : State) (mid : Nat) (v : Word), s.reachable = true → mid ≠ 0 →
    exec (.timeIncrLoWrite mid v) s =
      .next { s with time := { s.time with incrRejects := satInc s.time.incrRejects } } ∧
    exec (.timeIncrHiWrite mid v) s =
      .next { s with time := { s.time with incrRejects := satInc s.time.incrRejects } }) ∧
  (∀ (s : State) (mid : Nat) (mode : Bool), mid ≠ 0 → exec (.timeSetGo mid mode) s = .next s) ∧
  (∀ (s : State) (c : ResetCause), (chipReset c s).time.incr = 0x12D2D2D2D)

/-- On a chip that can be reached: TIME_INCR_LO written by MID 0 only stages its value. TIME_INCR_HI written by MID
0 commits the staged low bits with bits 3:0 of the value: in range (0x1_2D1D_C199 to 0x1_2D3C_98C1, and
0x1_2D27_64D5 to 0x1_2D32_F585 while a Pavane is active) the increment in force takes it in fixed operation, and
the next period start takes it in stretch-permitted operation; out of range the increment in force is unchanged
and the commit is counted. -/
def Obligations.TimeIncrementCommit : Prop :=

  (∀ (s : State) (v : Word), s.reachable = true →
    exec (.timeIncrLoWrite 0 v) s = .next { s with time := { s.time with incrLo := v } }) ∧
  (∀ (s : State) (v : Word) (x : Nat), s.reachable = true → x = v.toNat % 16 * 2 ^ 32 + s.time.incrLo.toNat →
    let hi := BitVec.ofNat 4 (v.toNat % 16)
    let ok := (0x12D1DC199 ≤ x ∧ x ≤ 0x12D3C98C1) ∧ (s.fab.active = none ∨ (0x12D2764D5 ≤ x ∧ x ≤ 0x12D32F585))
    (ok → s.clk.mode = false →
      exec (.timeIncrHiWrite 0 v) s = .next { s with time := { s.time with incrHi := hi, incr := x } }) ∧
    (ok → s.clk.mode = true →
      exec (.timeIncrHiWrite 0 v) s = .next { s with time := { s.time with incrHi := hi, incrNext := some x } }) ∧
    (¬ ok →
      exec (.timeIncrHiWrite 0 v) s =
        .next { s with time := { s.time with incrHi := hi, incrRejects := satInc s.time.incrRejects } }))

/-- On a chip that can be reached, TIME_SET_GO by MID 0: outside BOOT and TIME_ACQUIRE, STATUS reads
ST_STATE_CONFLICT and hall time is unchanged; a nanoseconds value above 999,999,999 gives ST_BAD_ARGUMENT; in
MODE 0 the TIME_SET value is loaded at the next BCLK edge (edgeAt; hall time reads it at once, log entry 56),
every armed trigger channel is disarmed with DISARMED_BY_SET set, and STATUS reads ST_OK; in MODE 1 the value
waits with ST_DEFERRED, and a rising edge of 1PPS_IN loads it, so that the next BCLK edge gives the value and
the part of the increment that is left of the BCLK. A 1PPS_IN edge with no value waiting changes only the pin
and the capture channels. -/
def Obligations.CoarseSetOnlyBeforeReady : Prop :=

  (∀ (s : State) (mode : Bool), s.reachable = true → s.clk.chipState ≠ .boot → s.clk.chipState ≠ .timeAcquire →
    exec (.timeSetGo 0 mode) s = .next { s with time := { s.time with setMode := mode, setStatus := 1 } }) ∧
  (∀ (s : State) (mode : Bool), s.reachable = true → s.clk.chipState = .boot ∨ s.clk.chipState = .timeAcquire →
    999999999 < s.time.setNs.toNat →
    exec (.timeSetGo 0 mode) s = .next { s with time := { s.time with setMode := mode, setStatus := 2 } }) ∧
  (∀ s : State, s.reachable = true → s.clk.chipState = .boot ∨ s.clk.chipState = .timeAcquire → s.time.setNs.toNat ≤ 999999999 →
    let v : HallTime := ⟨s.time.setSecHi ++ s.time.setSecLo, s.time.setNs, s.time.setFrac⟩
    (∃ t, exec (.timeSetGo 0 false) s = .next t ∧ t.time.hall = v ∧ t.time.edgeAt = some v ∧
      t.time.setStatus = 0 ∧ t.time.setPending = none ∧
      (∀ n < 32, t.trigger n = if (s.trigger n).armed then { s.trigger n with armed := false, disarmedBySet := true }
        else s.trigger n) ∧ t = { s with time := t.time, trig := t.trig }) ∧
    exec (.timeSetGo 0 true) s = .next { s with time := { s.time with
      setMode := true, setStatus := 8, setPending := some v } }) ∧
  (∀ (s : State) (h : HallTime) (phase : Fin 16), s.time.setPending = some h →
    ∃ t, exec (.ppsInEdge ⟨true, phase⟩) s = .next t ∧ t.time.hall = h ∧
      t.time.edgeAt = some (hallOf (h.units + s.time.incr * (16 - phase.val) / 16)) ∧ t.time.setPending = none ∧ t.time.setStatus = 0 ∧
      t.pins.ppsIn = true) ∧
  (∀ (s : State) (r : Bool) (phase : Fin 16), s.time.setPending = none ∨ r = false →
    ∃ t, exec (.ppsInEdge ⟨r, phase⟩) s = .next t ∧ t = { s with pins := { s.pins with ppsIn := r }, cap := t.cap })

/-- On a chip that can be reached, TIME_LATCH by MID 0, MID 1 or a lease's MID puts the hall time of the next BCLK
edge into that MID's own latch and changes nothing else. CAP_STROBE by MID 0 or MID 1: every enabled channel
whose SOURCE is that MID's STROBE (8 or 9) records hall time and counts, whichever channel is named (log entry
138), and every other channel and everything else is unchanged. While ENABLE is 1, PPS_OUT_SECOND at a new whole
second raises 1PPS_OUT, whose pulse ends WIDTH ms later, and every enabled channel whose SOURCE is 1PPS_OUT (2)
with the rising edge selected records that second; PPS_OUT_PULSE_END at or after that end lowers the pin, and
the channels that select the falling edge record the end. Nothing else changes. -/
def Obligations.LatchesAndCaptures : Prop :=

  (∀ s : State, s.reachable = true →
    exec (.timeLatch 0) s = .next { s with time := { s.time with domeLatched := s.nextHall } } ∧
    exec (.timeLatch 1) s = .next { s with time := { s.time with latched := s.nextHall } }) ∧
  (∀ (s : State) (n : Nat), s.reachable = true → 1 ≤ n → n ≤ 4095 →
    exec (.timeLatch (n + 1)) s = .next (s.modFunc n (fun f => { f with latch := s.nextHall }))) ∧
  (∀ (s : State) (mid : Nat) (c : Fin 8), s.reachable = true → mid ≤ 1 →
    ∃ t, exec (.capStrobeWrite mid c) s = .next t ∧ t = { s with cap := t.cap } ∧
      ∀ i < 8, t.cap.get CapChan.reset i =
        let x := s.cap.get CapChan.reset i
        if x.enable = true ∧ x.source.toNat = 8 + mid then { x with time := s.time.hall, seq := x.seq + 1 } else x) ∧
  (∀ s : State, s.time.ppsEnable = true → s.time.ppsSec < s.time.hall.sec →
    ∃ t, exec .ppsOutSecond s = .next t ∧ t.pins = { s.pins with ppsOut := true } ∧
      t.time = { s.time with
        ppsSec := s.time.hall.sec
        ppsFall := some (unitsAt s.time.hall.sec.toNat (ppsWidthMs s.time.ppsWidth.toNat * 1000000)) } ∧
      (∀ i < 8, t.cap.get CapChan.reset i =
        let x := s.cap.get CapChan.reset i
        if x.enable = true ∧ x.source = 2 ∧ x.edge = false then { x with time := ⟨s.time.hall.sec, 0, 0⟩, seq := x.seq + 1 } else x) ∧
      t = { s with pins := t.pins, time := t.time, cap := t.cap }) ∧
  (∀ (s : State) (u : Nat), s.time.ppsFall = some u → u ≤ s.now →
    ∃ t, exec .ppsOutPulseEnd s = .next t ∧ t.pins = { s.pins with ppsOut := false } ∧
      (∀ i < 8, t.cap.get CapChan.reset i =
        let x := s.cap.get CapChan.reset i
        if x.enable = true ∧ x.source = 2 ∧ x.edge = true then { x with time := hallOf u, seq := x.seq + 1 } else x) ∧
      t = { s with pins := t.pins, time := { s.time with ppsFall := none }, cap := t.cap })

/-- SET_READY in TIME_ACQUIRE while TIME_STATE is LOCKED makes CHIP_STATE READY, and INCARNATION takes the low 16
bits of the period number; a deferred coarse set is cancelled with ST_STATE_CONFLICT. In every other state it
has no effect. A follower that has had no Sync for 8 periods goes to HOLDOVER in fixed operation with the
increment that the servo holds (State.heldIncr) in force and committed, the count of Sync within the bound
starts anew, and the Dome's doorbell bit 7 is set. TIME_LOCKED declares LOCKED where the lock condition holds
(State.lockHolds) and does nothing otherwise. A change of the servo's state is logged while the log takes
records. -/
def Obligations.ReadyAndServoStates : Prop :=

  (∀ s : State, s.clk.chipState = .timeAcquire → s.time.servo = 3 →
    ∃ t, exec .setReady s = .next t ∧ t.clk = { s.clk with chipState := .ready } ∧
      t.rm.regs.incarnation = BitVec.ofNat 16 (s.now / periodUnits) ∧ t.time.hall = s.time.hall ∧ t.time.incr = s.time.incr ∧
      t.time.setPending = none ∧
      (s.time.setPending ≠ none → t.time.setStatus = 1) ∧
      t = { s with clk := t.clk, rm := t.rm, time := t.time }) ∧
  (∀ s : State, s.clk.chipState ≠ .timeAcquire ∨ s.time.servo ≠ 3 → exec .setReady s = .next s) ∧
  (∀ s : State, s.time.role = false → s.time.servo ≠ 4 → s.time.lastSync + 8 ≤ s.time.periods → s.clk.mode = false →
    ∃ t, exec .syncHoldover s = .next t ∧
      t.time = { s.time with
        servo := 4, inBound := 0, incr := s.heldIncr, incrLo := BitVec.ofNat 32 s.heldIncr
        incrHi := BitVec.ofNat 4 (s.heldIncr / 2 ^ 32) } ∧ t.dome.dbStatus.getLsbD 7 = true ∧
      t = { s with time := t.time, dome := t.dome, free := t.free }) ∧
  (∀ s : State, s.lockHolds = false ∨ s.time.servo = 3 → exec .timeLocked s = .next s) ∧
  (∀ s : State, s.time.servo ≠ 3 → s.lockHolds = true →
    ∃ t, exec .timeLocked s = .next t ∧ t.time = { s.time with servo := 3 } ∧ t = { s with time := t.time, dome := t.dome } ∧
      (s.dome.logQueue.length < 256 →
        t.dome.logQueue = s.dome.logQueue ++ [⟨s.dome.logSeq, s.time.hall.sec, s.time.hall.ns, .timeState 3⟩]))

/-- On a chip that can be reached: a write of TRIG_n_CTRL in the BCLK in which the channel fires waits for the
firing (R77). In every other BCLK, a write by MID 1 that sets one of the Dome's actions 1 to 3, or touches a
channel that holds one, only sets REFUSED. A write with ARM 1 by MID 0 to a channel that is not armed, with an
action and argument of Table 2.5, a legal target and a period that is 0 or at least 16 nominal BCLK, arms it
with the registers' target and period if the target is still to come; a one-shot channel whose target is past
does not arm and counts one MISSED. A write with ARM 0 to an armed channel disarms it. No other channel changes. -/
def Obligations.TriggerChannelsAreArmed : Prop :=

  (∀ (s : State) (mid : Nat) (n : Fin 32) (v : Word), s.reachable = true → mid ≤ 1 → s.triggerDue n = true →
    exec (.trigCtrlWrite mid n v) s = .next (s.modTrigger n (fun c => { c with late := c.late ++ [(0, mid, v)] }))) ∧
  (∀ (s : State) (n : Fin 32) (v : Word), s.reachable = true → s.triggerDue n = false →
    (let a := fieldW v 27 24; 1 ≤ a ∧ a ≤ 3) ∨ (let a := (s.trigger n).action.toNat; 1 ≤ a ∧ a ≤ 3) →
    exec (.trigCtrlWrite 1 n v) s = .next (s.modTrigger n (fun c => { c with refused := true }))) ∧
  (∀ (s : State) (n : Fin 32) (v : Word), s.reachable = true → (s.trigger n).armed = false → bitW v 31 = true →
    (s.trigger n).armOk (fieldW v 27 24) (fieldW v 20 16) = true → s.now < (s.trigger n).targetReg →
    ∃ t, exec (.trigCtrlWrite 0 n v) s = .next t ∧ t = { s with trig := t.trig } ∧
      t.trigger n = { s.trigger n with
        armed := true, action := BitVec.ofNat 4 (fieldW v 27 24), arg := BitVec.ofNat 5 (fieldW v 20 16), mid := 0, missed := 0,
        target := (s.trigger n).targetReg, period := (s.trigger n).periodReg } ∧
      ∀ m, m ≠ n.val → t.trigger m = s.trigger m) ∧
  (∀ (s : State) (n : Fin 32) (v : Word), s.reachable = true → (s.trigger n).armed = false → bitW v 31 = true →
    fieldW v 27 24 ≠ 3 → (s.trigger n).armOk (fieldW v 27 24) (fieldW v 20 16) = true → (s.trigger n).targetReg ≤ s.now →
    (s.trigger n).periodReg = 0 →
    ∃ t, exec (.trigCtrlWrite 0 n v) s = .next t ∧ t = { s with trig := t.trig } ∧
      (t.trigger n).armed = false ∧ (t.trigger n).missed = 1) ∧
  (∀ (s : State) (n : Fin 32) (v : Word), s.reachable = true → (s.trigger n).armed = true → s.now < (s.trigger n).target →
    bitW v 31 = false →
    ∃ t, exec (.trigCtrlWrite 0 n v) s = .next t ∧ t = { s with trig := t.trig } ∧
      t.trigger n = { s.trigger n with
        armed := false, action := BitVec.ofNat 4 (fieldW v 27 24), arg := BitVec.ofNat 5 (fieldW v 20 16) } ∧
      ∀ m, m ≠ n.val → t.trigger m = s.trigger m)

/-- While hall time runs, TRIGGER_FIRE fires exactly the armed channels whose target is at or before the hall time
now: such a channel, unless a register write of the same BCLK waits on it, counts a firing, a one-shot channel
disarms, a periodic one's target advances by exactly the period, and SUPPRESSED is set where the power state or
a gated domain suppresses its action. Every other channel is unchanged, whatever the actions do. If the one
channel that fires is an interrupt to the Dome, the Dome's doorbell bit of its ARG is set, a register write that
waits on the channel takes effect after the firing (R77), and nothing else changes. If it is a period start, the
plan position is 0 and a waiting increment within 75 ppm is in force. -/
def Obligations.TriggersFireAndAdvance : Prop :=

  (∀ s : State, s.timeRuns = true →
    ∃ t, exec .triggerFire s = .next t ∧ ∀ n < 32,
      ((s.trigger n).armed = true ∧ (s.trigger n).target ≤ s.now → (s.trigger n).late = [] →
        t.trigger n = { s.trigger n with
          fires := (s.trigger n).fires + 1, suppressed := (s.trigger n).suppressed || s.suppresses (s.trigger n),
          armed := decide ((s.trigger n).period ≠ 0), target := (s.trigger n).target + (s.trigger n).period }) ∧
      (¬ ((s.trigger n).armed = true ∧ (s.trigger n).target ≤ s.now) → t.trigger n = s.trigger n)) ∧
  (∀ (s : State) (n : Nat) (l : List (Nat × Word)), s.timeRuns = true → s.firing = [n] → (s.trigger n).action = 7 →
    (s.trigger n).mid = 0 → (s.trigger n).late = l.map (fun w => (w.1 + 4, 0, w.2)) →
    let fired := { (s.trigger n) with
      fires := (s.trigger n).fires + 1, armed := decide ((s.trigger n).period ≠ 0)
      target := (s.trigger n).target + (s.trigger n).period, late := [] }
    ∃ t, exec .triggerFire s = .next t ∧
      t.dome = { s.dome with
        dbStatus := s.dome.dbStatus ||| BitVec.twoPow 32 (s.trigger n).arg.toNat
        dbSetAt := s.dome.dbSetAt.set 0 (s.trigger n).arg.toNat (s.bclkTick + 1) } ∧
      t.trigger n = l.foldl (fun c w => c.regWrite 0 (w.1 + 4) s.now w.2) fired ∧
      t = { s with trig := t.trig, dome := t.dome }) ∧
  (∀ (s : State) (n : Nat), s.timeRuns = true → s.firing = [n] → (s.trigger n).action = 1 → s.pwr.mode ≠ .sleep →
    (s.trigger n).late = [] → (∀ x, s.time.incrNext = some x → incrInActiveRange x = true) →
    ∃ t, exec .triggerFire s = .next t ∧ t.clock.plan = 0 ∧ t.time.incr = s.time.incrNext.getD s.time.incr)

/-- On a chip that can be reached, a write of CLK_MODE by MID 0 or MID 1: MODE = 1 while a radio cell is active or
starting is refused with ST_STATE_CONFLICT and changes nothing else; any other write stages MODE for the next
period start and reads ST_OK. A droop detection while MODE = 1 and the stretch of this period is below its
budget suppresses one more CCLK edge, counts it in the period's stretch, and, unless the counts are frozen, in
category 1 and in the total. A droop outside that changes nothing. -/
def Obligations.ClockModeAndDroops : Prop :=

  (∀ (s : State) (mid : Nat) (v : Word), s.reachable = true → mid ≤ 1 →
    exec (.clkModeWrite mid v) s = .next
      (if bitW v 0 = true ∧ s.radioBusy = true then { s with clk := { s.clk with modeStatus := 1 } }
       else { s with clk := { s.clk with modeStatus := 0, modeStaged := bitW v 0 } })) ∧
  (∀ s : State, s.clk.mode = true → s.clk.stretchUsed.toNat < s.clk.budget →
    ∃ t, exec .droopDetection s = .next t ∧ t.clock = { s.clock with skip := s.clock.skip + 1 } ∧
      t.clk = { s.clk with stretchUsed := s.clk.stretchUsed + 1 } ∧
      (s.cnt.freeze = false → t.cnt.ndc.get 0 1 = s.cnt.ndc.get 0 1 + 1 ∧ t.cnt.ndc.get 0 6 = s.cnt.ndc.get 0 6 + 1) ∧
      (s.cnt.freeze = true → t.cnt = s.cnt) ∧
      t = { s with clock := t.clock, clk := t.clk, cnt := t.cnt, dsp := t.dsp }) ∧
  (∀ s : State, s.clk.mode = false ∨ s.clk.budget ≤ s.clk.stretchUsed.toNat → exec .droopDetection s = .next s)

/-- Where the access is served (the chip can be reached, the counters' domain is on and the power state lets it be):
NDC_CLEAR sets all seven counts to 0. CNT_FREEZE.FREEZE holds or releases the counts. A write of a Belfry event
select by MID 0 or MID 1, and of a Spire event select by a MID that R109 lets write it, sets that counter to 0,
its ENABLE, OVF_IRQ and EVENT to the value's bits 31, 29 and 15:0, clears OVF if bit 30 is written 1, and
changes no other counter. -/
def Obligations.CounterRegisters : Prop :=

  (∀ (s : State) (mid : Nat), s.serves 0x30078 = true → mid ≤ 1 →
    ∃ t, exec (.ndcClear mid) s = .next t ∧ t = { s with cnt := { s.cnt with ndc := t.cnt.ndc } } ∧
      ∀ i, t.cnt.ndc.get 0 i = 0) ∧
  (∀ (s : State) (mid : Nat) (v : Word), s.serves 0x30000 = true → mid ≤ 1 →
    exec (.cntFreezeWrite mid v) s = .next { s with cnt := { s.cnt with freeze := bitW v 0 } }) ∧
  (∀ (s : State) (mid : Nat) (n : Fin 16) (v : Word), s.serves (0x30200 + 0x20 * n.val) = true → mid ≤ 1 →
    ∃ t, exec (.evselWrite mid none n v) s = .next t ∧ t = { s with cnt := { s.cnt with bpmc := t.cnt.bpmc } } ∧
      t.cnt.bpmc.get BelfryCounter.reset n = { s.cnt.bpmc.get BelfryCounter.reset n with
        count := 0, enable := bitW v 31, ovf := (s.cnt.bpmc.get BelfryCounter.reset n).ovf && !bitW v 30, ovfIrq := bitW v 29,
        inst := BitVec.ofNat 8 (fieldW v 23 16), event := BitVec.ofNat 16 v.toNat } ∧
      ∀ m, m ≠ n.val → t.cnt.bpmc.get BelfryCounter.reset m = s.cnt.bpmc.get BelfryCounter.reset m) ∧
  (∀ (s : State) (mid k : Nat) (n : Fin 16) (v : Word), k < 32 → n.val < 8 → s.evselOk mid k = true →
    s.reachable = true → (mid ≤ 1 → s.serves (spireOffset k (0x40100 + 0x20 * n.val)) = true) →
    ∃ t, exec (.evselWrite mid (some k) n v) s = .next t ∧
      t = s.modSpire k (fun p => { p with cnt := (t.spire k).cnt }) ∧
      (t.spire k).cnt = { (s.spire k).cnt with pmc := (t.spire k).cnt.pmc } ∧
      (t.spire k).cnt.pmc.get Pmc.reset n = { (s.spire k).cnt.pmc.get Pmc.reset n with
        count := 0, enable := bitW v 31, ovf := ((s.spire k).cnt.pmc.get Pmc.reset n).ovf && !bitW v 30, ovfIrq := bitW v 29,
        event := BitVec.ofNat 16 v.toNat } ∧
      ∀ m, m ≠ n.val → (t.spire k).cnt.pmc.get Pmc.reset m = (s.spire k).cnt.pmc.get Pmc.reset m)

/-- UCIE_TRAINING_LOSS of Tower t after the Minuet, while the Tower is in service: the Tower is out of service and
its link's failure shows, whatever else is recorded, lost and moved. A loss that names a Tower already out, or
before the Minuet's end, changes nothing. -/
def Obligations.LinkLossTakesTheTowerOut : Prop :=

  (∀ (s : State) (k : Fin 4), s.clk.done = true → s.rel.towerOut.getLsbD k = false →
    ∃ t, exec (.ucieTrainingLoss k) s = .next t ∧ t.rel.towerOut = s.rel.towerOut ||| BitVec.twoPow 4 k ∧
      t.clk.towerFail = s.clk.towerFail ||| BitVec.twoPow 4 k ∧ t.time.hall = s.time.hall ∧ t.host.locked = s.host.locked) ∧
  (∀ (s : State) (k : Fin 4), s.clk.done = false ∨ s.rel.towerOut.getLsbD k = true → exec (.ucieTrainingLoss k) s = .next s)

/-- On a chip that can be reached, by a MID of Table 0.3: an aligned 32-bit write by MID 0 or MID 1 to a register of
BAR0 that is served is that register's write (bar0Write), and to an offset of no register it has no effect; one
to a register whose domain is gated wakes the domain and waits, a chip in Idle or Sleep returning to Run for it
first if the block is stopped. An aligned write by MID n + 1 to page n of 1 to 4,095 is that page's write
(leasePageWrite). For instance: TIME_SET_SEC_LO by MID 0 sets that register, PM_ALARM_AT by MID 1 its 16 bits,
TIME_LATCH by MID n + 1 its own latch. A write to page n by another MID has no effect, nor has a write by a
lease to BAR0; a write by a MID that Table 0.3 does not assign is answered ST_BAD_ARGUMENT and has no other
effect; and a chip in a reset, in Deep sleep or Off has none. -/
def Obligations.RegisterWritesTakeTheirFields : Prop :=

  (∀ (s : State) (mid off : Nat) (v : Word), s.reachable = true → mid ≤ 1 → off < 0x08000000 → off % 4 = 0 →
    (listed off = true → s.serves off = true → exec (.registerWrite mid 0 off 4 v) s = .next (bar0Write mid off v s)) ∧
    (listed off = false → exec (.registerWrite mid 0 off 4 v) s = .next s) ∧
    (listed off = true → s.blockStopped off = false → (domainOf off).all s.domainOn = false →
      exec (.registerWrite mid 0 off 4 v) s = .next { touchDomains (domainOf off) s with
        pwr := { (touchDomains (domainOf off) s).pwr with writes := (touchDomains (domainOf off) s).pwr.writes ++ [(mid, off, v)] } }) ∧
    (listed off = true → s.blockStopped off = true → (domainOf off).all (returnToRun s).domainOn = true →
      exec (.registerWrite mid 0 off 4 v) s = .next (bar0Write mid off v (returnToRun s)))) ∧
  (∀ (s : State) (n off : Nat) (v : Word), s.reachable = true → 1 ≤ n → n ≤ 4095 → off < 0x10000 → off % 4 = 0 →
    exec (.registerWrite (n + 1) n off 4 v) s = .next (leasePageWrite n off v s)) ∧
  (∀ (s : State) (v : Word), s.reachable = true → s.pwr.mode = .run →
    exec (.registerWrite 0 0 0x10030 4 v) s = .next { s with time := { s.time with setSecLo := v } } ∧
    exec (.registerWrite 1 0 0x3C2100 4 v) s = .next { s with rel := { s.rel with pmAlarmAt := BitVec.ofNat 16 v.toNat } }) ∧
  (∀ (s : State) (n : Nat), s.reachable = true → 1 ≤ n → n ≤ 4095 →
    exec (.registerWrite (n + 1) n 0x10 4 1) s = .next (s.modFunc n (fun f => { f with latch := s.nextHall }))) ∧
  (∀ (s : State) (page mid off size : Nat) (v : Word), midAssigned mid = true →
    (mid ≠ page + 1 → page ≠ 0 → exec (.registerWrite mid page off size v) s = .next s) ∧
    (1 < mid → exec (.registerWrite mid 0 off size v) s = .next s)) ∧
  (∀ (s : State) (page mid off size : Nat) (v : Word),
    (s.reachable = false → exec (.registerWrite mid page off size v) s = .next s) ∧
    (s.reachable = true → midAssigned mid = false →
      exec (.registerWrite mid page off size v) s = .next { s with out := .denied mid stBadArg :: s.out }))

/-- On a Spire whose bank in use may issue a bundle now: NOP goes on with the next bundle in sequence (repeat bodies
end as R186 has it) in the next CCLK; BR goes to its target, which issues 4 CCLK later; BRF in BANK_M branches
if the flag as visible now has the sense asked for, else goes on; VREP in BANK_M or BANK_S that nests legally
sets its level and goes on, and with COUNT 0 skips its body; FLAGS in BANK_M sets and clears flags, visible from
the next CCLK, SET winning. Nothing else of the sequencer changes, and no other Spire does. -/
def Obligations.ControlOperationsMoveThePc : Prop :=

  ∀ (s : State) (k : Fin 32), s.canIssue k = true →
    let q := (s.spire k).seq
    let inS := (s.spire k).vu.inS
    let b := (s.spire k).vu.bank inS
    let pc := q.nextPc inS
    let go := q.goto inS (b.after pc).2 (s.cyc + 1)
    (∃ t, exec (.nop k) s = .next t ∧ (t.spire k).seq = go ∧ ∀ j, j ≠ k.val → t.spire j = s.spire j) ∧
    (∀ a < 2 ^ 20, ∃ t, exec (.br k a) s = .next t ∧ (t.spire k).seq = q.goto inS a (s.cyc + 4) ∧
      ∀ j, j ≠ k.val → t.spire j = s.spire j) ∧
    (∀ (f : Fin 16) (sense : Bool), ∀ a < 2 ^ 20, inS = false →
      ∃ t, exec (.brf k f sense a) s = .next t ∧
        (t.spire k).seq = (if (q.flagsNow s.cyc).getLsbD f = sense then q.goto inS a (s.cyc + 4) else go) ∧
        ∀ j, j ≠ k.val → t.spire j = s.spire j) ∧
    (∀ l < 4, ∀ len < 2 ^ 12, ∀ count < 2 ^ 16, b.badNesting l len pc = false → 0 < count →
      ∃ t, exec (.vrep k l len count) s = .next t ∧ (t.spire k).seq = q.goto inS (pc + 1) (s.cyc + 1) ∧
        ((t.spire k).vu.bank inS).level l =
          ⟨BitVec.ofNat 25 (32 * (pc + 1)), BitVec.ofNat 25 (32 * (pc + 1 + len)), BitVec.ofNat 16 count, true⟩ ∧
        ∀ j, j ≠ k.val → t.spire j = s.spire j) ∧
    (∀ l < 4, ∀ len < 2 ^ 12, b.badNesting l len pc = false →
      ∃ t, exec (.vrep k l len 0) s = .next t ∧
        (t.spire k).seq = q.goto inS (b.after (pc + 1 + len)).2 (s.cyc + 1)) ∧
    (∀ set < 2 ^ 16, ∀ clear < 2 ^ 16, inS = false →
      ∃ t, exec (.flags k set clear) s = .next t ∧
        (t.spire k).seq = go.changeFlags s.cyc (BitVec.ofNat 16 set) (BitVec.ofNat 16 clear) ∧
        ∀ j, j ≠ k.val → t.spire j = s.spire j)

/-- On a Spire whose bank in use may issue a bundle now, WREL, WFLAG (BANK_M), WPLAN, ISSUE and END (BANK_M) go on
with the next bundle; if their condition is not met now the bank holds, and if it is met: WREL, WFLAG and WPLAN
hold nothing, an ISSUE that may be carried out joins the issues that wait for their decision, and END of a
context in BANK_M with no pass left takes the Spire to ENDING with a drain of 12 CCLK. WEND in BANK_S ends
running reclaim work, or window work with no reclaim pending, and the drain back to BANK_M begins. RET in a
handler of BANK_M resumes at the interrupted bundle; in BANK_S it begins the drain back. HOLD_RELEASE with the
hold's condition met takes a WREL, WFLAG or WPLAN hold away, and the bundle after it may issue in the next CCLK. -/
def Obligations.HoldsAndEndings : Prop :=

  ∀ (s : State) (k : Fin 32),
    let q := (s.spire k).seq
    let inS := (s.spire k).vu.inS
    let pc := q.nextPc inS
    let go := q.goto inS (((s.spire k).vu.bank inS).after pc).2 (s.cyc + 1)
    (s.canIssue k = true →
      (∃ t, exec (.wrel k) s = .next t ∧
        (t.spire k).seq = if (s.spire k).passesGone = true then go else go.setHold inS (some .wrel)) ∧
      (∀ (f : Fin 16) (sense : Bool), inS = false → ∃ t, exec (.wflag k f sense) s = .next t ∧
        (t.spire k).seq = if ((q.flagsNow s.cyc).getLsbD f == sense) = true then go else go.setHold inS (some (.wflag f sense))) ∧
      (∀ p < 849936, ∃ t, exec (.wplan k p) s = .next t ∧
        (t.spire k).seq = if s.hasPlan = true ∧ s.nextPlan p ≤ s.planTotal then go
          else go.setHold inS (some (.wplan (s.nextPlan p)))) ∧
      (∀ d < 2 ^ 20, d % 2 = 0 → q.dueIssue s.cyc = none → ∃ t, exec (.issue k d) s = .next t ∧
        (t.spire k).seq = if s.issueAllowed k inS (32 * d) = true
          then { go with issues := q.issues ++ [⟨32 * d, s.cyc, false, inS, (go.nextPc inS) - 1, none, none⟩] }
          else go.setHold inS (some (.issue (32 * d)))) ∧
      (∀ c < 256, inS = false → (s.spire k).passesGone = false → ∃ t, exec (.ctlEnd k c) s = .next t ∧
        (t.spire k).seq = go.setHold inS (some (.endCtx c))) ∧
      (∀ c < 256, inS = false → (s.spire k).passesGone = true → ∃ t, exec (.ctlEnd k c) s = .next t ∧
        (t.spire k).seq.mode = .ending ∧ (t.spire k).vu.phase = .draining (s.cyc + 12) .ending) ∧
      (q.inHandler = true → inS = false → ∃ t, exec (.ret k) s = .next t ∧
        (t.spire k).seq = { go.goto false q.resume.toNat (s.cyc + 1) with inHandler := false }) ∧
      (q.inHandler = true → inS = true → ∃ t, exec (.ret k) s = .next t ∧
        (t.spire k).seq = { go with inHandler := false } ∧ (t.spire k).vu.phase = .draining (s.cyc + 13) .toMain) ∧
      (inS = true → s.reclaimRuns k = true → ∃ t, exec (.wend k) s = .next t ∧
        (t.spire k).seq = { go with reclaim := false, stopReclaim := false } ∧
        (t.spire k).vu.phase = .draining (s.cyc + 13) .toMain) ∧
      (inS = true → q.window = true → q.reclaim = false → s.role k ≠ .radioOwned → ∃ t, exec (.wend k) s = .next t ∧
        (t.spire k).seq = { go with windowOver := true } ∧ (t.spire k).vu.phase = .draining (s.cyc + 13) .toMain)) ∧
    (∀ h : Hold, q.getHold inS = some h → s.bankGoes k inS = true → s.holdMet k inS h = true →
      (h = .wrel ∨ (∃ f b, h = .wflag f b) ∨ ∃ p, h = .wplan p) →
      ∃ t, exec (.holdRelease k) s = .next t ∧ (t.spire k).seq = { q.setHold inS none with nextIssue := s.cyc + 1 } ∧
        ∀ j, j ≠ k.val → t.spire j = s.spire j)

/-- On a Spire whose bank in use may issue: the bundle at its pc, inside the owned part, in no pending output range,
not poisoned and fetched with no symbol error, with no store access of the last three CCLK and no array write of
this CCLK to clash with, that decodes to a bundle with only a control operation NOP goes on with the next
bundle; with an arithmetic operation beside it whose registers are legal, that operation joins the operations in
flight after those that have landed, computed from the registers as they stand then. If the two sequencers
differ, the Spire is FAULTED and SEQ_FAULT records cause 0x20 with the bank and the bundle index, in a CCLK the
bank cannot issue in because of a hold as well. VECTOR_RESULT lands the first result that is due, in the order
of R176, and changes nothing else. -/
def Obligations.BundlesIssueAndResultsLand : Prop :=

  (∀ (s : State) (k : Fin 32), s.canIssue k = true →
    let inS := (s.spire k).vu.inS
    let pc := (s.spire k).seq.nextPc inS
    s.ownsRange k inS (32 * pc) 32 = true → (s.spire k).isPending (32 * pc) 32 = false →
    (s.spire k).store.poisonedAt (32 * pc) = false → (s.spire k).recent = [] →
    (∀ b : Bundle, (∀ p ∈ (s.spire k).arr.passes, ∀ w ∈ p.wrote, bankOf w.addr ≠ bankOf (32 * pc)) →
      decodeBundle ((s.spire k).store.readLE (32 * pc) 32) = some b →
      b.ctl = .nop → b.ip = false → b.vl = .none_ → b.vs = .none_ → b.xf = .none_ →
      (b.va.vop = 0 ∨ ¬ (vopPair b.va.vop = true ∧ b.va.d % 2 = 1)) →
      ∃ t, exec (.bundleIssue k ⟨false, 0⟩) s = .next t ∧
        (t.spire k).seq = (s.spire k).seq.goto inS (((s.spire k).vu.bank inS).after pc).2 (s.cyc + 1) ∧
        (let v := (s.spire k).vu.landDue s.cyc (s.spire k).vu.flights.length
         (t.spire k).vu.flights = v.flights ++
           (if b.va.vop = 0 then [] else [b.va.run v inS s.cyc (Config.vbcastScalar k s.free)])) ∧
        ∀ j, j ≠ k.val → t.spire j = s.spire j) ∧
    (∃ t, exec (.bundleIssue k ⟨true, 0⟩) s = .next t ∧ (t.spire k).seq.mode = .faulted ∧
      (t.spire k).seq.fault = ⟨true, inS, 0x20, 0, BitVec.ofNat 20 pc⟩)) ∧
  (∀ (s : State) (k : Fin 32), s.canIssue k = false → s.compares k = true →
    ∃ t, exec (.bundleIssue k ⟨true, 0⟩) s = .next t ∧ (t.spire k).seq.mode = .faulted ∧
      (t.spire k).seq.fault = ⟨true, (s.spire k).vu.inS, 0x20, 0, BitVec.ofNat 20 ((s.spire k).seq.nextPc (s.spire k).vu.inS)⟩) ∧
  (∀ (s : State) (k : Fin 32) (f : VFlight), firstLanding (s.spire k).vu.flights = some f → f.land ≤ s.cyc →
    exec (.vectorResult k ⟨none, []⟩) s = .next (s.modVu k (fun v => v.landOne f)))

/-- DRAIN_COMPLETE of a drain that is over: an interrupt's drain enters the handler in BANK_M with the interrupted
bundle as the resume point; a drain for the other bank begins the 4 CCLK bank switch. BANK_SWITCH_COMPLETE of a
switch that is over puts the other bank in use. WINDOW_START on a Spire that takes windows, in BANK_M and steady
with no reclaim, puts the window in force and drains BANK_M for 12 CCLK towards BANK_S. WINDOW_OVERRUN, when
window work has not issued WEND by END - 17, ends the window's work, counts the overrun, notifies the Dome (bit
5) and begins the drain back. WINDOW_END with no reclaim, on a running Spire in BANK_M with nothing held,
waiting or owed (by the power manager or by the Dome), puts the window out of force and lets its next bundle
issue now. -/
def Obligations.DrainsSwitchesAndWindows : Prop :=

  (∀ (s : State) (k : Fin 32) (u : Nat), (s.spire k).vu.phase = .draining u .interrupt → u ≤ s.cyc →
    (s.spire k).vu.inS = false → (s.spire k).seq.mode = .running → (s.spire k).seq.window = false → (s.spire k).seq.reclaim = false →
    ∃ t, exec (.drainComplete k) s = .next t ∧ (t.spire k).vu.phase = .steady ∧
      (t.spire k).seq = { (s.spire k).seq with
        inHandler := true, resume := (s.spire k).seq.pc, pc := (s.spire k).seq.ivec, nextIssue := s.cyc }) ∧
  (∀ (s : State) (k : Fin 32) (u : Nat), (s.spire k).vu.phase = .draining u .toShadow → u ≤ s.cyc →
    (s.spire k).seq.mode ≠ .ending →
    ∃ t, exec (.drainComplete k) s = .next t ∧ (t.spire k).vu.phase = .switching (s.cyc + 4) true ∧
      (t.spire k).seq = (s.spire k).seq ∧ ∀ j, j ≠ k.val → t.spire j = s.spire j) ∧
  (∀ (s : State) (k : Fin 32) (u : Nat), (s.spire k).vu.phase = .draining u .toMain → u ≤ s.cyc →
    (s.spire k).seq.mode ≠ .ending →
    ∃ t, exec (.drainComplete k) s = .next t ∧ (t.spire k).vu.phase = .switching (s.cyc + 4) false ∧
      (t.spire k).seq = (s.spire k).seq ∧ ∀ j, j ≠ k.val → t.spire j = s.spire j) ∧
  (∀ (s : State) (k : Fin 32) (u : Nat), (s.spire k).vu.phase = .switching u true → u ≤ s.cyc →
    ∃ t, exec (.bankSwitchComplete k) s = .next t ∧ (t.spire k).vu.inS = true ∧ (t.spire k).vu.phase = .steady ∧
      ∀ j, j ≠ k.val → t.spire j = s.spire j) ∧
  (∀ (s : State) (k : Fin 32) (u : Nat), (s.spire k).vu.phase = .switching u false → u ≤ s.cyc →
    (s.spire k).seq.mode ≠ .stopped → s.pwr.owed = [] → s.pwr.owedDome = [] → (s.spire k).seq.window = false → (s.spire k).seq.reclaim = false →
    ∃ t, exec (.bankSwitchComplete k) s = .next t ∧ (t.spire k).vu.inS = false ∧ (t.spire k).vu.phase = .steady ∧
      (t.spire k).seq.nextIssue = s.cyc ∧ ∀ j, j ≠ k.val → t.spire j = s.spire j) ∧
  (∀ (s : State) (k : Fin 32) (a e : Nat) (test : Bool), s.windowNow k = some (a, e, test) → s.hasPlan = true →
    (s.spire k).seq.window = false → (s.spire k).seq.mode.takesWindows = true → (s.spire k).seq.reclaim = false →
    (s.spire k).vu.phase = .steady → (s.spire k).vu.inS = false →
    ∃ t, exec (.windowStart k) s = .next t ∧
      (t.spire k).seq = { (s.spire k).seq with
        window := true, windowEnd := s.time.periods * planPeriod + e, windowTest := test, windowOver := false } ∧
      (t.spire k).vu.phase = .draining (s.cyc + 12) .toShadow ∧ ∀ j, j ≠ k.val → t.spire j = s.spire j) ∧
  (∀ (s : State) (k : Fin 32), s.overrunDue k = true →
    ∃ t, exec (.windowOverrun k) s = .next t ∧
      (t.spire k).seq = { (s.spire k).seq with windowOver := true, holdS := none } ∧
      t.dsp = { s.dsp with overruns := satInc s.dsp.overruns } ∧ t.dome.dbStatus.getLsbD 5 = true ∧
      ((s.spire k).vu.inS = true → (s.spire k).seq.reclaim = false →
        (t.spire k).vu.phase = .draining (s.cyc + 13) .toMain) ∧ ∀ j, j ≠ k.val → t.spire j = s.spire j) ∧
  (∀ (s : State) (k : Fin 32), (s.spire k).seq.window = true → (s.spire k).seq.windowEnd ≤ s.planTotal →
    (s.spire k).seq.reclaim = false → (s.spire k).vu.inS = false → (s.spire k).vu.phase = .steady →
    (s.spire k).seq.mode = .running → (s.spire k).seq.hold = none → s.pwr.owed = [] → s.pwr.owedDome = [] →
    ∃ t, exec (.windowEnd k) s = .next t ∧ (t.spire k).seq = { (s.spire k).seq with
        window := false, windowTest := false, windowOver := false, sStopped := false, holdS := none, nextIssue := s.cyc } ∧
      ∀ j, j ≠ k.val → t.spire j = s.spire j)

/-- LOAD of a radio program on an IDLE Spire in service whose domain is on wipes the job part and the registers of
the job that was there (16 KB per step of JOB_LIMIT to wipe still), writes its segments below the job part's
end, sets the start, the handler and the threads, and leaves LOADING with ST_OK; on any other Spire it is
ST_CONFLICT and nothing else. LOAD_COMPLETE, when nothing is left to wipe, of a program without a job leaves
ARMED; of a job whose tiles are in HBM and clean, it loads the rank and starts the job if all are ARMED. START
in ARMED with a CCLK inside the plan sets the start, else ST_BAD_ARGUMENT, and in another state ST_CONFLICT.
When the start CCLK has come, an ARMED Spire runs: its next bundle issues now and its threads named are ready.
RETURN of a FAULTED Spire starts its wipe. WIPE_COMPLETE with nothing left to wipe and no window or reclaim
zeroes the job part and leaves IDLE. -/
def Obligations.SpiresLoadStartAndWipe : Prop :=

  ∀ (s : State) (k : Fin 32),
    let q := (s.spire k).seq
    (∀ img : RadioImage, q.mode = .idle → s.commandable k = true →
      ∃ t, exec (.spireLoad k img) s = .next t ∧
        (t.spire k).store = ((s.spire k).store.clearRange 0 (s.jobPart k)).loadSegments (s.jobPart k) img.segments ∧
        (t.spire k).ctx = .radio ∧
        (t.spire k).seq = { (s.spire k).wipeRegs.seq with
          pc := BitVec.ofNat 20 img.start, ivec := BitVec.ofNat 20 img.ivec, starts := BitVec.ofNat 8 img.threads
          mode := .loading, wipeLeft := (s.spire k).xb.jobLimit.toNat * 512, status := 0 } ∧
        (t.spire k).cc = loadThreads img.starts CcState.reset ∧ ∀ j, j ≠ k.val → t.spire j = s.spire j) ∧
    (∀ img : RadioImage, (q.mode ≠ .idle ∨ s.commandable k = false) →
      exec (.spireLoad k img) s = .next (setCmdStatus k stConflict s)) ∧
    (q.mode = .loading → q.reclaim = false → (s.spire k).vu.inS = false → q.wipeLeft = 0 →
      (s.job (s.spire k).ctx.jobId = none →
        exec (.loadComplete k) s = .next (s.modSeq k (fun x => { x with mode := .armed }))) ∧
      (∀ j, s.job (s.spire k).ctx.jobId = some j → (∀ n ∈ tileRange j.first j.tiles, (s.tile n).inHbm = true) →
        s.runPoisoned j.first 0 (j.tiles + 1) j.image.bytes = false →
        exec (.loadComplete k) s = .next (dispatchStart j.id (loadRank k (rankOf k j.spires) j s)))) ∧
    exec (.spireStart k) s = .next (
      if q.mode ≠ .armed then setCmdStatus k stConflict s
      else if 849936 ≤ q.startCclk.toNat then setCmdStatus k stBadArg s
      else setCmdStatus k stOk (s.modSeq k (fun x => { x with
        startSet := true, startAt := s.nextPlan x.startCclk.toNat }))) ∧
    (q.mode = .armed → q.startSet = true → s.hasPlan = true → q.startAt ≤ s.planTotal →
      ∃ t, exec (.spireStartTime k) s = .next t ∧
        (t.spire k).seq = { q with mode := .running, startSet := false, nextIssue := s.cyc } ∧
        (∀ i < 8, q.starts.getLsbD i = true → (t.thread k i).mode = .ready) ∧ ∀ j, j ≠ k.val → t.spire j = s.spire j) ∧
    exec (.spireReturn k) s = .next (
      if q.mode = .faulted then setCmdStatus k stOk (startWipe k s) else setCmdStatus k stConflict s) ∧
    (q.mode = .wiping → q.wipeLeft = 0 → q.window = false → q.reclaim = false →
      ∃ t, exec (.wipeComplete k) s = .next t ∧ (t.spire k).seq = { q with mode := .idle, fencing := false } ∧
        (t.spire k).store = (s.spire k).store.clearRange 0 (s.jobPart k) ∧ ∀ j, j ≠ k.val → t.spire j = s.spire j)

/-- Where SEQ_CMD of the Spire is served: STOP for POWER of a RUNNING Spire in service in BANK_M that is steady
leaves STOPPED with the power cause and a drain of 12 CCLK from its bundle boundary; while a window or reclaim
work holds it (stopOwed) the STOP is owed instead; in a state other than ARMED, RUNNING, REPLAY and STOPPED it
is ST_CONFLICT. RESUME for POWER takes an owed STOP of the Dome back; of a STOPPED Spire with that cause alone
and nothing to replay it leaves RUNNING, the next bundle in the next CCLK; otherwise ST_CONFLICT. Either command
with another CAUSE is ST_BAD_ARGUMENT. ABORT of a working Spire in service in BANK_M that is steady, with no
job, leaves ENDING with a drain of 12 CCLK; of an IDLE one ST_CONFLICT. FENCE leaves FENCED with ST_OK, the
counters frozen, the Spire's ID_SPIRES bit and score 0, and changes no other Spire where no job and no radio
cell use it; on an OFF or FENCED Spire it is ST_CONFLICT. From a master that is not the Dome none of the four
has an effect. -/
def Obligations.SpiresStopResumeAndLeave : Prop :=

  ∀ (s : State) (k : Fin 32),
    let q := (s.spire k).seq
    let v := (s.spire k).vu
    s.serves (spireOffset k 0x20004) = true →
    (q.mode = .running → v.inS = false → v.phase = .steady → s.stopOwed k = false → s.inService k = true →
      ∃ t, exec (.spireStop 0 k 2) s = .next t ∧ (t.spire k).seq.mode = .stopped ∧ (t.spire k).seq.stopPower = true ∧
        (t.spire k).seq.fromArmed = false ∧ (t.spire k).seq.pc = q.pc ∧ (t.spire k).seq.status = 0 ∧
        (t.spire k).vu.phase = .draining (s.boundary k + 12) .stopPower ∧ ∀ j, j ≠ k.val → t.spire j = s.spire j) ∧
    (s.stopOwed k = true → q.mode ∈ [.armed, .running, .replay] → s.pwr.owedDome.contains k = false →
      exec (.spireStop 0 k 2) s = .next (setCmdStatus k stOk { s with pwr := { s.pwr with owedDome := s.pwr.owedDome ++ [k.val] } })) ∧
    (s.pwr.owedDome.contains k = true →
      exec (.spireResume 0 k 2) s = .next (setCmdStatus k stOk { s with pwr := { s.pwr with
        owedDome := s.pwr.owedDome.filter (· != k.val) } })) ∧
    (q.mode ∉ [.armed, .running, .replay, .stopped] → exec (.spireStop 0 k 2) s = .next (setCmdStatus k stConflict s)) ∧
    (q.mode = .stopped → q.stopPower = true → q.stopReclaim = false → q.fromArmed = false → q.replay = [] → q.issues = [] →
      s.pwr.owedDome.contains k = false → s.inService k = true →
      ∃ t, exec (.spireResume 0 k 2) s = .next t ∧ (t.spire k).seq = { q with
          mode := .running, stopPower := false, nextIssue := s.cyc + 1, status := 0 } ∧
        (t.spire k).vu = v ∧ ∀ j, j ≠ k.val → t.spire j = s.spire j) ∧
    ((q.mode ≠ .stopped ∨ q.stopPower = false) → s.pwr.owedDome.contains k = false → exec (.spireResume 0 k 2) s = .next (setCmdStatus k stConflict s)) ∧
    (∀ c, c ≠ 2 → exec (.spireStop 0 k c) s = .next (setCmdStatus k stBadArg s) ∧
      exec (.spireResume 0 k c) s = .next (setCmdStatus k stBadArg s)) ∧
    (q.mode.abortable = true → (s.spire k).ctx.jobId = 0 → v.inS = false → v.phase = .steady → s.inService k = true →
      ∃ t, exec (.spireAbort 0 k) s = .next t ∧ (t.spire k).seq.mode = .ending ∧ (t.spire k).seq.status = 0 ∧
        (t.spire k).vu.phase = .draining (s.cyc + 12) .ending ∧ ∀ j, j ≠ k.val → t.spire j = s.spire j) ∧
    (q.mode.abortable = false → exec (.spireAbort 0 k) s = .next (setCmdStatus k stConflict s)) ∧
    (q.mode ≠ .off → q.mode ≠ .fenced → (s.spire k).ctx.jobId = 0 → s.role k ≠ .radioOwned →
      ∃ t, exec (.spireFence 0 k) s = .next t ∧ (t.spire k).seq.mode = .fenced ∧ (t.spire k).seq.status = 0 ∧
        (t.spire k).cnt.frozen = some s.cyc ∧ t.rel.inService.getLsbD k = false ∧
        (t.healthOf k).fenced = true ∧ (t.healthOf k).score = 0 ∧ ∀ j, j ≠ k.val → t.spire j = s.spire j) ∧
    ((q.mode = .off ∨ q.mode = .fenced) → exec (.spireFence 0 k) s = .next (setCmdStatus k stConflict s)) ∧
    (∀ m, m ≠ 0 → ∀ c, exec (.spireStop m k c) s = .next s ∧ exec (.spireResume m k c) s = .next s ∧
      exec (.spireAbort m k) s = .next s ∧ exec (.spireFence m k) s = .next s)

/-- The ISSUE decision that is due, three CCLK after the bundle, on the descriptor as it was read, clean, that no
rule refuses puts the descriptor into the array's queue, or after a stop (judged against the array as it stood
then) into the replay list. TILE_LOAD_START with a queued descriptor, no load in progress and every pass
swapped, from the CCLK after the last swap, begins a load into an empty shadow plane. PASS_START of a queued
descriptor that may start takes the next sequence number; the earliest next start is the pass's last vector plus
its interval. PASS_SWAP, when the load of the last pass is done, makes the shadow plane the active one.
PASS_RELEASE of the first pass at its release CCLK, checked and with no failure, writes its last results to the
store, takes it out of the array and shows its tag, flags and counts; with a failure and no poison it is held.
No other Spire changes. -/
def Obligations.TilesLoadAndPassesStart : Prop :=

  ∀ (s : State) (k : Fin 32),
    let p := s.spire k
    let a := p.arr
    (∀ (d w : Nat) (i : IssueCheck), p.seq.dueIssue s.cyc = some i → i.word = some (w, false) →
      s.refusalOf k i.inS i.desc (decodeDesc w) (i.asAt.getD a.view) = none →
      exec (.issue k d) s = .next (
        let u := s.modSeq k (fun q => { q with issues := q.issues.erase i })
        if i.asAt.isSome = true then u.modSeq k (fun q => { q with replay := (q.replay ++ [i.desc]).take 4 })
        else u.modArr k (fun x => { x with queued := some ⟨decodeDesc w, i.desc, s.cyc, false, 0⟩ }))) ∧
    (a.queued.isSome = true → a.load = none → a.allSwapped = true → (a.passes = [] ∨ a.lastSwap + 1 ≤ s.cyc) →
      exec (.tileLoadStart k) s = .next (s.modArr k (fun x => { x with shadow := Plane.empty, load := some ⟨s.cyc, 0⟩ }))) ∧
    (∀ q, a.queued = some q → a.mayStart s.cyc = true → p.seq.mode ≠ .replay →
      let r := q.start (a.started + 1).toNat s.cyc ((a.load.getD ⟨s.cyc, 0⟩).left q.desc s.cyc)
      exec (.passStart k) s = .next (s.modArr k (fun x => { (if x.load.isSome then x else x.beginLoad s.cyc) with
        queued := none, started := x.started + 1, passes := x.passes ++ [r], nextStart := r.lastEnter + q.desc.interval }))) ∧
    (∀ r, a.passes.getLast? = some r → r.swapped = false → r.start + r.load ≤ s.cyc →
      exec (.passSwap k) s = .next (s.modArr k (fun x => { x with
        active := x.shadow, shadow := Plane.empty, load := none, lastSwap := s.cyc
        passes := x.passes.map (fun y => if y.seq = r.seq then { y with
          swapped := true, plane := x.shadow, inDigest := y.desc.planeDigest x.shadow y.inDigest } else y) }))) ∧
    (∀ r rest, a.passes = r :: rest → r.releaseAt ≤ s.cyc → r.rowDone = true → r.checked = r.desc.v → r.held = false →
      (r.failed = false → p.seq.mode ≠ .replay →
        ∃ t, exec (.passRelease k) s = .next t ∧ (t.spire k).arr = { a with
            lastReads := r.desc.reads r.addr, releasedAt := s.cyc
            passes := rest, released := BitVec.ofNat 32 r.seq, lastTag := BitVec.ofNat 16 r.desc.tag, lastFlags := r.flags
            lastInexact := BitVec.ofNat 32 (r.inexactRe + r.inexactIm), lastClamp := BitVec.ofNat 32 r.clamped } ∧
          (t.spire k).seq = p.seq ∧ (t.spire k).store = r.writes.foldl Mem.arrWrite p.store ∧ ∀ j, j ≠ k.val → t.spire j = s.spire j) ∧
      (r.failed = true → r.tainted = false →
        exec (.passRelease k) s = .next (s.modArr k (fun x => { x with
          passes := x.passes.map (fun y => if y.seq = r.seq then { y with held := true } else y) }))))

/-- PER_VECTOR_CHECK takes the oldest vector whose check is due, hands its result words to the array's writes and
adds its counts to its pass; the store is not yet changed. A vector of a poisoned pass or with a clamped product
is skipped, and if it is not skipped and each part's sum agrees with its checksum column, nothing else of the
array's passes changes. If the difference of a real format is outside the bound, the disagreement record names
it, the array waits for the verdict and starts nothing. CHECKSUM_ROW_STEP makes the row check of the pass that
is due for it in the same way, skipped where the pass is poisoned or a product was clamped. -/
def Obligations.ChecksCountAndFail : Prop :=

  ∀ (s : State) (k : Fin 32),
    (∀ (u : ArrayUpset) (p : Pass) (v : VecIn), dueVector s.cyc (s.spire k).arr.passes = some (p, v) →
      let d := p.desc
      let r := vecResult p v u
      let skip := p.tainted || decide (0 < r.clamped)
      let inexact (im : Bool) : Nat := if im then r.inexIm else r.inexRe
      let diff (im : Bool) : Int := checkDiff d.wexp (r.net d im) (checkColumn p v u im)
      let ws := (resultWrites d (v.at_ + 10) v.index r p.tainted).1
      let sats := (resultWrites d (v.at_ + 10) v.index r p.tainted).2
      ((skip = true ∨ ∀ im, (im = true → fmtGroup d.fmtW = 3) → withinHalfUnits d.wexp (diff im) (inexact im) = true) →
        ∃ t, exec (.perVectorCheck k u) s = .next t ∧
          (t.spire k).arr.passes = (s.spire k).arr.passes.map (fun x => if x.seq = p.seq then { x with
            writes := x.writes ++ ws
            checked := x.checked + 1, vectors := x.vectors.erase v
            inexactRe := x.inexactRe + r.inexRe, inexactIm := x.inexactIm + r.inexIm, clamped := x.clamped + r.clamped
            skipped := x.skipped || skip, saturated := x.saturated || decide (0 < sats)
            totalRe := x.totalRe + r.net d false, totalIm := x.totalIm + r.net d true
            longDigest := longDigestOf r.vals x.longDigest } else x) ∧
          (t.spire k).store = (s.spire k).store ∧
          (t.spire k).seq = (s.spire k).seq ∧ ∀ j, j ≠ k.val → t.spire j = s.spire j) ∧
      (skip = false → fmtGroup d.fmtW ≠ 3 → withinHalfUnits d.wexp (diff false) (inexact false) = false →
        ∃ t, exec (.perVectorCheck k u) s = .next t ∧ (t.spire k).arr.verdictWait = true ∧ (t.spire k).arr.queued = none ∧
          (t.spire k).arr.dis = ⟨true, false, false, BitVec.ofNat 13 v.index, BitVec.ofNat 16 d.tag,
            BitVec.ofNat 32 p.seq, diffHalfUnits d.wexp (diff false), BitVec.ofNat 32 (inexact false)⟩)) ∧
    (∀ (u : ArrayUpset) (p : Pass), dueRow s.cyc (s.spire k).arr.passes = some p →
      let d := p.desc
      let diff (im : Bool) : Int := checkDiff d.wexp ((if im then p.totalIm else p.totalRe) + u.accDelta (if im then d.n else 0))
        ((if im then checksumIm d p.plane (fun i => p.uRe.get 0 i) (fun i => p.uIm.get 0 i)
          else checksumRe d p.plane (fun i => p.uRe.get 0 i) (fun i => p.uIm.get 0 i)) + u.sideDelta im)
      let inexact (im : Bool) : Nat := if im then p.inexactIm else p.inexactRe
      let mark (skip : Bool) (x : Pass) : Pass :=
        if x.seq = p.seq then { x with rowDone := true, rowSkip := skip, skipped := x.skipped || x.tainted } else x
      ((p.tainted || decide (0 < p.clamped)) = true →
        exec (.checksumRowStep k u) s = .next ((s.modArr k (fun a => { a with passes := a.passes.map (mark true) })).modArr k
          (fun a => a.stick 8))) ∧
      ((p.tainted || decide (0 < p.clamped)) = false →
        (∀ im, (im = true → fmtGroup d.fmtW = 3) → withinHalfUnits d.wexp (diff im) (inexact im) = true) →
        exec (.checksumRowStep k u) s = .next (s.modArr k (fun a => { a with passes := a.passes.map (mark false) }))) ∧
      ((p.tainted || decide (0 < p.clamped)) = false → fmtGroup d.fmtW ≠ 3 →
        withinHalfUnits d.wexp (diff false) (inexact false) = false →
        ∃ t, exec (.checksumRowStep k u) s = .next t ∧ (t.spire k).arr.verdictWait = true ∧ (t.spire k).arr.queued = none ∧
          (t.spire k).arr.dis = ⟨true, true, false, BitVec.ofNat 13 (d.v - 1), BitVec.ofNat 16 d.tag,
            BitVec.ofNat 32 p.seq, diffHalfUnits d.wexp (diff false), BitVec.ofNat 32 (inexact false)⟩))

/-- When thread t of a Spire may issue, with x its registers: FLAG set and clear change the flag named in rs1 from
the next CCLK on, FLAG read puts the flag as visible now into rd, and FLAG wait switches the thread out, ready
at once if the flag has the value of rs2's bit 0, else waiting for it; YIELD makes the thread ready. SPR.R and
SPR.W with no access before them and BANK_M in use start an access of 6 CCLK after the last vector load or
store, the thread waiting. At its end a read puts the state word into rd and a write of an existing word sets it
in BANK_M, and the thread is ready. The local engine's acceptance of a store, due and not held behind 64 others,
puts the status into rd and the thread is ready. -/
def Obligations.ThreadsTouchFlagsAndStateWords : Prop :=

  ∀ (s : State) (k : Fin 32) (th : Fin 8),
    let w := wakeFlags k s
    let x := w.thread k th
    let on : Thread := { x with mode := .running, pc := x.pc + 4 }
    let now (n : Nat) : Bool := ((w.spire k).seq.flagsNow w.cyc).getLsbD n
    (w.ccMay k th = true →
      (∀ (rd rs1 rs2 : Fin 32) (n : Nat), n < 16 → (x.reg rs1).toNat = n →
        (∃ t, exec (.flag k th 0 rd rs1 rs2) s = .next t ∧ t.thread k th = on ∧
          (t.spire k).seq = (s.spire k).seq.changeFlags s.cyc (BitVec.twoPow 16 n) 0 ∧ ∀ j, j ≠ k.val → t.spire j = s.spire j) ∧
        (∃ t, exec (.flag k th 1 rd rs1 rs2) s = .next t ∧ t.thread k th = on ∧
          (t.spire k).seq = (s.spire k).seq.changeFlags s.cyc 0 (BitVec.twoPow 16 n) ∧ ∀ j, j ≠ k.val → t.spire j = s.spire j) ∧
        (∃ t, exec (.flag k th 2 rd rs1 rs2) s = .next t ∧ t.thread k th = on.setX rd (BitVec.ofNat 64 (b2n (now n))) ∧
          (t.spire k).seq = (s.spire k).seq ∧ ∀ j, j ≠ k.val → t.spire j = s.spire j) ∧
        (∃ t, exec (.flag k th 3 rd rs1 rs2) s = .next t ∧
          t.thread k th = (if now n = (x.reg rs2).getLsbD 0 then { on with mode := .ready, wait := .nothing }
            else { on with mode := .waiting, wait := .flag n ((x.reg rs2).getLsbD 0) }) ∧
          (t.spire k).seq = (s.spire k).seq ∧ ∀ j, j ≠ k.val → t.spire j = s.spire j)) ∧
      (∃ t, exec (.yield k th) s = .next t ∧ t.thread k th = { on with mode := .ready, wait := .nothing } ∧
        (t.spire k).seq = (s.spire k).seq ∧ ∀ j, j ≠ k.val → t.spire j = s.spire j) ∧
      ((s.spire k).cc.paths = [] → (s.spire k).vu.inS = false → ∀ (rd rs1 rs2 : Fin 32),
        (∃ t, exec (.sprR k th rd rs1) s = .next t ∧ t.thread k th = { on with mode := .waiting, wait := .path } ∧
          (t.spire k).cc.paths = [⟨th, false, (x.reg rs1).toNat, 0, rd, s.cyc, some (max s.cyc (s.spire k).vu.memDone + 6)⟩] ∧
          (t.spire k).vu = (s.spire k).vu ∧ ∀ j, j ≠ k.val → t.spire j = s.spire j) ∧
        (∃ t, exec (.sprW k th rs1 rs2) s = .next t ∧ t.thread k th = { on with mode := .waiting, wait := .path } ∧
          (t.spire k).cc.paths = [⟨th, true, (x.reg rs1).toNat, x.reg rs2, 0, s.cyc, some (max s.cyc (s.spire k).vu.memDone + 6)⟩] ∧
          (t.spire k).vu = (s.spire k).vu ∧ ∀ j, j ≠ k.val → t.spire j = s.spire j))) ∧
    (∀ (p : PathAccess) (d : Nat), (s.spire k).cc.paths = [p] → p.due = some d → d ≤ s.cyc → p.thread = th.val →
      (p.write = false → ∃ t, exec (.statePathAccessEnd k) s = .next t ∧ (t.spire k).cc.paths = [] ∧
        t.thread k th = ((s.thread k th).setX p.rd (BitVec.ofNat 64 ((s.spire k).vu.bankM.stateWord p.index))).wake ∧
        (t.spire k).vu = (s.spire k).vu ∧ ∀ j, j ≠ k.val → t.spire j = s.spire j) ∧
      (p.write = true → p.index < 45 → ∃ t, exec (.statePathAccessEnd k) s = .next t ∧ (t.spire k).cc.paths = [] ∧
        t.thread k th = (s.thread k th).wake ∧
        (t.spire k).vu = { (s.spire k).vu with bankM := (s.spire k).vu.bankM.setStateWord p.index p.value.toNat } ∧
        ∀ j, j ≠ k.val → t.spire j = s.spire j)) ∧
    (∀ rd due st, (s.thread k th).wait = .store rd due st → due ≤ s.cyc →
      (∀ r ∈ s.rm.reqs, r.ctx = 8 * k.val + th.val → r.queued = false) →
      exec (.localEngineStoreAccept k th) s =
        .next (s.modThread k th (fun y => (y.setX rd (BitVec.ofNat 64 st)).wake)))

/-- When thread t of a Spire may issue and fetches from its owned store, aligned, from a free bank, settled and
without poison, the word there: a register instruction writes rd and goes on to the next word, a jump writes the
link and goes to an aligned target, a taken branch goes to it, a load of owned, aligned, free, settled and clean
bytes writes rd after 3 CCLK, and a store of owned, aligned, free and unprotected bytes writes them. RLD, RST
and RAMO refused by Table 12.2 send nothing: the status stands in rd + 1 (RLD, RAMO) and the thread is ready at
once, or it is RST's acceptance status; allowed, the request is queued with its address and operands and the
thread waits for the reply, or for the acceptance 60 CCLK later. A function code or a register pair that is not
allowed is program fault 0x0B. RFENCE waits for the context's writes. -/
def Obligations.ThreadsRunRiscVAndReachFarMemory : Prop :=

  ∀ (s : State) (k : Fin 32) (th : Fin 8),
    let w := wakeFlags k s
    let x := w.thread k th
    let on : Thread := { x with mode := .running, pc := x.pc + 4 }
    let job := (w.spire k).ctx.jobId
    let lease := w.jobLease job
    let sent := countSpire k 0x0401 1 (ccBegin k th 1 w)
    w.ccMay k th = true →
    (x.pc.toNat % 4 = 0 → w.ownsRange k false x.pc.toNat 4 = true → w.bankBusy k x.pc.toNat = false →
      (w.spire k).isPending x.pc.toNat 4 = false → (w.spire k).store.poisonedAt x.pc.toNat = false →
      (∀ rd v, rvDecode ((w.spire k).store.readLE x.pc.toNat 4) x.reg x.pc = .reg rd v →
        ∃ t, exec (.controlCoreInstruction k th) s = .next t ∧ t.thread k th = on.setX rd v ∧
          (t.spire k).cc.nextAt = s.cyc + 1 ∧ (t.spire k).store = (s.spire k).store ∧ ∀ j, j ≠ k.val → t.spire j = s.spire j) ∧
      (∀ rd a, rvDecode ((w.spire k).store.readLE x.pc.toNat 4) x.reg x.pc = .jump rd a → a.toNat % 4 = 0 →
        ∃ t, exec (.controlCoreInstruction k th) s = .next t ∧ t.thread k th = { on.setX rd (x.pc + 4) with pc := a } ∧
          (t.spire k).store = (s.spire k).store ∧ ∀ j, j ≠ k.val → t.spire j = s.spire j) ∧
      (∀ taken a, rvDecode ((w.spire k).store.readLE x.pc.toNat 4) x.reg x.pc = .branch taken a → a.toNat % 4 = 0 →
        ∃ t, exec (.controlCoreInstruction k th) s = .next t ∧ t.thread k th = (if taken then { on with pc := a } else on) ∧
          (t.spire k).store = (s.spire k).store ∧ ∀ j, j ≠ k.val → t.spire j = s.spire j) ∧
      (∀ rd a n sg, rvDecode ((w.spire k).store.readLE x.pc.toNat 4) x.reg x.pc = .load rd a n sg →
        w.localFault k a n = none → w.bankBusy k a.toNat = false → (w.spire k).isPending a.toNat n = false →
        (w.spire k).store.poisonedAt a.toNat = false →
        ∃ t, exec (.controlCoreInstruction k th) s = .next t ∧
          t.thread k th = on.setX rd (loadValue n sg ((s.spire k).store.readLE a.toNat n)) ∧
          (t.spire k).cc.nextAt = s.cyc + 3 ∧ (t.spire k).store = (s.spire k).store ∧ ∀ j, j ≠ k.val → t.spire j = s.spire j) ∧
      (∀ a n v, rvDecode ((w.spire k).store.readLE x.pc.toNat 4) x.reg x.pc = .store a n v →
        w.localFault k a n = none → w.bankBusy k a.toNat = false → (w.spire k).isProtected s.cyc a.toNat n = false →
        ∃ t, exec (.controlCoreInstruction k th) s = .next t ∧ (t.thread k th).pc = on.pc ∧ (t.thread k th).x = on.x ∧
          (t.spire k).store = (s.spire k).store.writeLE a.toNat n v.toNat ∧ ∀ j, j ≠ k.val → t.spire j = s.spire j)) ∧
    (∀ (f : Nat) (rd rs1 : Fin 32), f ≤ 1 → pairOk rd = true →
      (∀ st, w.rmRefusal job f (x.reg rs1) = some st → ∃ t, exec (.rld k th f rd rs1) s = .next t ∧ t.rm = s.rm ∧
        t.thread k th = (({ on with mode := .ready, wait := .nothing } : Thread).setX rd 0).setX (rd + 1) (BitVec.ofNat 64 st)) ∧
      (w.rmRefusal job f (x.reg rs1) = none → exec (.rld k th f rd rs1) s = .next
        (rmIssue (.thread k th rd) (8 * k + th) lease job f (w.rmVia (x.reg rs1)) (x.reg rs1) 0 0
          (switchOut k th (.remote rd) sent)))) ∧
    (∀ (f : Nat) (rd rs1 rs2 : Fin 32), f = 2 ∨ f = 3 →
      (∀ st, w.rmRefusal job f (x.reg rs1) = some st → ∃ t, exec (.rst k th f rd rs1 rs2) s = .next t ∧ t.rm = s.rm ∧
        t.thread k th = { on with mode := .waiting, wait := .store rd (s.cyc + 60) st }) ∧
      (w.rmRefusal job f (x.reg rs1) = none → exec (.rst k th f rd rs1 rs2) s = .next
        (rmIssue (.thread k th rd) (8 * k + th) lease job f (w.rmVia (x.reg rs1)) (x.reg rs1)
          (if f = 2 then BitVec.ofNat 64 ((x.reg rs2).toNat % 2 ^ 32) else x.reg rs2) 0
          (switchOut k th (.store rd (w.cyc + 60) 0) sent)))) ∧
    (∀ (f : Nat) (rd rs1 rs2 : Fin 32), opAtomic f = true → f ≠ 15 → pairOk rd = true →
      (∀ st, w.rmRefusal job f (x.reg rs1) = some st → ∃ t, exec (.ramo k th f rd rs1 rs2) s = .next t ∧ t.rm = s.rm ∧
        t.thread k th = (({ on with mode := .ready, wait := .nothing } : Thread).setX rd 0).setX (rd + 1) (BitVec.ofNat 64 st)) ∧
      (w.rmRefusal job f (x.reg rs1) = none → exec (.ramo k th f rd rs1 rs2) s = .next
        (rmIssue (.thread k th rd) (8 * k + th) lease job f (w.rmVia (x.reg rs1)) (x.reg rs1)
          (if f % 2 = 0 then BitVec.ofNat 64 ((x.reg rs2).toNat % 2 ^ 32) else x.reg rs2)
          (if f = 14 then x.reg rs2 >>> 32 else 0) (switchOut k th (.remote rd) sent)))) ∧
    (∀ (rd rs1 rs2 : Fin 32), rs2.val % 2 = 0 → pairOk rd = true → w.rmRefusal job 15 (x.reg rs1) = none →
      exec (.ramo k th 15 rd rs1 rs2) s = .next
        (rmIssue (.thread k th rd) (8 * k + th) lease job 15 (w.rmVia (x.reg rs1)) (x.reg rs1) (x.reg rs2) (x.reg (rs2 + 1))
          (switchOut k th (.remote rd) sent))) ∧
    (∀ (f : Nat) (rd rs1 rs2 : Fin 32),
      (1 < f ∨ pairOk rd = false → exec (.rld k th f rd rs1) s = .next (ccFault k th 0x0B w)) ∧
      (f ≠ 2 → f ≠ 3 → exec (.rst k th f rd rs1 rs2) s = .next (ccFault k th 0x0B w)) ∧
      (opAtomic f = false ∨ pairOk rd = false ∨ (f = 15 ∧ rs2.val % 2 = 1) →
        exec (.ramo k th f rd rs1 rs2) s = .next (ccFault k th 0x0B w))) ∧
    (∀ rd : Fin 32, exec (.rfence k th rd) s = .next
      (rmFence (.thread k th rd) (8 * k + th) lease job (switchOut k th (.fence rd) sent)))

/-- TRANSFER_ACCEPT decides the first request 64 CCLK after its issue: allowed by Table 8.5 it goes on its stream,
active if the stream is idle and else queued, its beats from CCLK c + 65; refused, nothing moves, the status
stands in XB_LAST_REFUSAL and the flag is set if the descriptor asks for it. HBM_BEAT with a PUT beat whose slot
has come writes its 1,024 bytes and their poison into the stack at its place; with none, the stream's GET that
owns the command slot and its path's entries reads 1,024 bytes, which land in the store a fixed lag later (with
no symbol in error). TRANSFER_COMPLETE after the last beat makes the queued transfer active and sets the flag.
Beats and completions change no Spire but their own and, for a GET, those whose own streams take the same beat
from the crossbar. -/
def Obligations.TransfersAcceptMoveAndEnd : Prop :=

  ∀ (s : State) (k : Fin 32),
    let xb := (s.spire k).xb
    (∀ r rest x, xb.requests = r :: rest → r.at_ + 64 ≤ s.cyc → r.desc = some x →
      let d := decodeXferDesc x
      let e := s.tile d.tile
      (s.xferRefusal k r d = none →
        ∃ t, exec (.transferAccept k) s = .next t ∧ (t.spire k).xb = { xb with
          requests := rest
          streams := xb.streams.modify Stream.reset r.stream (fun q => q.accept
            ⟨r.isGet, d.tile, d.first, d.beats, 0, d.addr, e.stack.toNat, e.place.toNat, d.flagEn, d.flag, r.inS, r.at_ + 65, 0, r.pc⟩) } ∧
          (t.spire k).seq = (s.spire k).seq ∧ ∀ j, j ≠ k.val → t.spire j = s.spire j) ∧
      (∀ st, s.xferRefusal k r d = some st →
        ∃ t, exec (.transferAccept k) s = .next t ∧ (t.spire k).xb = { xb with
          requests := rest, lastRefusal := BitVec.ofNat 8 st, refused := true } ∧
          (t.spire k).seq = (if d.flagEn then (s.spire k).seq.changeFlags s.cyc (BitVec.twoPow 16 d.flag) 0 else (s.spire k).seq) ∧
          ∀ j, j ≠ k.val → t.spire j = s.spire j)) ∧
    (∀ (j : Fin 4) (b : Beat), xb.puts.find? (fun b => b.stream == j.val && decide (b.due ≤ s.cyc)) = some b →
      ∃ t, exec (.hbmBeat k ⟨j, []⟩) s = .next t ∧
        (t.stack b.stack).mem = (s.stack b.stack).mem.writeBeat (b.place * tileBytes + 1024 * b.beat) b.data b.poison ∧
        (∀ h, h ≠ b.stack → t.stack h = s.stack h) ∧ (t.spire k).xb.puts = xb.puts.erase b ∧
        (t.spire k).store = (s.spire k).store ∧ ∀ i, i ≠ k.val → t.spire i = s.spire i) ∧
    (∀ (j : Fin 4) (x : Xfer), xb.puts.find? (fun b => b.stream == j.val && decide (b.due ≤ s.cyc)) = none →
      (xb.streams.get Stream.reset j).turn = some x → x.isGet = true → x.from_ ≤ s.cyc → s.ownsSlot k j x.stack false 0 = true →
      xb.gotBeat j (s.cyc + getLag k x.stack) = false →
      ∃ t, exec (.hbmBeat k ⟨j, []⟩) s = .next t ∧
        (t.spire k).xb.gets = xb.gets ++ [⟨j, x.stack, x.place, x.first + x.next, x.storeAddr + 1024 * x.next,
          s.cyc + getLag k x.stack, (s.stack x.stack).mem.readBytes (x.place * tileBytes + 1024 * (x.first + x.next)) 1024,
          (s.stack x.stack).mem.beatPoison (x.place * tileBytes + 1024 * (x.first + x.next)),
          decide (x.next + 1 = x.beats), x.inS, x.pc⟩] ∧
        t.hbm = s.hbm ∧ ∀ i, i ≠ k.val → (∀ j', s.copies x i j' = false) → t.spire i = s.spire i) ∧
    (∀ (j : Fin 4) (x : Xfer), (xb.streams.get Stream.reset j).active = some x → x.next = x.beats → 0 < x.lastAt →
      x.lastAt ≤ s.cyc →
      ∃ t, exec (.transferComplete k j) s = .next t ∧ (t.spire k).xb = { xb with
          streams := xb.streams.set Stream.reset j ⟨(xb.streams.get Stream.reset j).queued, none⟩ } ∧
        (t.spire k).seq = (if x.flagEn then (s.spire k).seq.changeFlags s.cyc (BitVec.twoPow 16 x.flag) 0 else (s.spire k).seq) ∧
        ∀ i, i ≠ k.val → t.spire i = s.spire i)

/-- OPEN_SLOT of a trained controller of a Tower in service whose domain is on, in an open slot, with no MOVE in
progress and nothing to wipe, takes the one request in its queue that no MOVE blocks: a host read of a tile it
may reach emits the tile's bytes, with poison if a word of them is poisoned, of a tile it may not reach zeros
with poison, counted as denied; a wipe beat zeroes its 1,024 bytes (a counter that overflows then may send its
interrupt as well). HBM_REFRESH_POINT in a refresh frame counts a refresh, unless the stack is cool and this is
the second of a pair, and turns the parity. STACK_TEMPERATURE_REPORT sets HOT above 85, clears it below 80, else
leaves it. BOOT_WIPE_START after the Minuet trains an untrained stack of a Tower in service. BOOT_WIPE_COMPLETE
frees every place and zeroes the stack but the dump region. PLACE_WIPE_COMPLETE after 256 beats frees the place.
Each changes no other stack. -/
def Obligations.ControllersServeRefreshAndWipe : Prop :=

  ∀ (s : State) (h : Fin 24),
    let x := s.stack h
    (∀ r : OpenReq, s.rel.towerOut.getLsbD (stackTower h) = false → s.domainOn (16 + stackTower h) = true → x.trained = true →
      s.openSlotNow h = true → x.wipeQueue = [] → x.bootWiping = false → s.tier.moves = [] →
      x.queue = [r] → x.waiting = [] → s.blocked r = false →
      (∀ tag a n, r.op = .hostRead tag a n →
        (s.hostReaches (a / tileBytes) = true →
          let e := s.tile (a / tileBytes)
          let at_ := e.byteAt (a % tileBytes)
          let m := (s.stack e.stack.toNat).mem
          let bad := (List.range 32).any (fun i => (m.beatPoison (at_ / 1024 * 1024)).getLsbD i &&
            decide (at_ % 1024 / 32 ≤ i ∧ 32 * i < at_ % 1024 + n))
          ∃ t l, exec (.openSlot ⟨h, []⟩) s = .next t ∧ t.stack h = { x with queue := [] } ∧
            t.out = l ++ .cxlData tag (((m.readBytes (at_ / 1024 * 1024) 1024).drop (at_ % 1024)).take n) bad :: s.out ∧
            t.host.denied = s.host.denied ∧ ∀ g, g ≠ h.val → t.stack g = s.stack g) ∧
        (s.hostReaches (a / tileBytes) = false →
          ∃ t l, exec (.openSlot ⟨h, []⟩) s = .next t ∧ t.stack h = { x with queue := [] } ∧
            t.out = l ++ .cxlData tag (List.replicate n 0) true :: s.out ∧ t.host.denied = satInc s.host.denied ∧
            ∀ g, g ≠ h.val → t.stack g = s.stack g)) ∧
      (∀ p b, r.op = .wipe p b →
        ∃ t l, exec (.openSlot ⟨h, []⟩) s = .next t ∧ t.stack h = { x with
            queue := [], mem := x.mem.clearRange (p * tileBytes + 1024 * b) 1024, wipeBeat := x.wipeBeat + 1 } ∧
          t.out = l ++ s.out ∧ ∀ g, g ≠ h.val → t.stack g = s.stack g)) ∧
    (x.trained = true → s.refreshFrame h = true → s.rel.towerOut.getLsbD (stackTower h) = false → x.queue = [] → x.waiting = [] →
      ∃ t, exec (.hbmRefreshPoint h) s = .next t ∧ t.stack h = { x with
          parity := !x.parity, refreshes := if x.hot = false ∧ x.parity = true then x.refreshes else x.refreshes + 1 } ∧
        ∀ g, g ≠ h.val → t.stack g = s.stack g) ∧
    (∀ temp : Int, exec (.stackTemperatureReport h temp) s = .next (s.modStack h (fun y => { y with
      hot := if 85 < temp then true else if temp < 80 then false else y.hot }))) ∧
    (s.clk.done = true → s.rel.towerOut.getLsbD (stackTower h) = false → x.trained = false →
      exec (.bootWipeStart h) s = .next (s.modStack h (fun y => { y with trained := true, bootWiping := true }))) ∧
    (x.bootWiping = true →
      exec (.bootWipeComplete h) s = .next (s.modStack h (fun y => { y with
        bootWiping := false, bootWiped := true, used := [], wipeQueue := [], wipeBeat := 0
        queue := y.queue.filter (fun r => r.op != .bootWipe)
        mem := if s.holdsDump h then Mem.empty.copyFrom dumpBase y.mem dumpBase dumpBytes else Mem.empty }))) ∧
    (∀ p rest, x.wipeQueue = p :: rest → 256 ≤ x.wipeBeat →
      exec (.placeWipeComplete h) s = .next (s.modStack h (fun y => { y with
        wipeQueue := rest, wipeBeat := 0, used := y.used.filter (· != p) })))

/-- For an issuer whose command passes the checks that come before every queue command, on a ready Tile Map and a
legal range of tiles that the issuer may name: ALLOC into HBM of free tiles, quota and places at hand, makes
each READY in the lowest free places of the stack, zeroed, for the lease, unpinned; ALLOC into flash makes each
READY with a flash copy. FREE of READY or LOST tiles that are neither pinned nor in transfer makes them free.
PIN adds one and UNPIN takes one off each pin count. ASSIGN gives READY, loose tiles to a lease within its
quota. QUERY writes the entries' words to the buffer and answers the count. BOUNDARY of one lease frees its
leaving tiles and allocates the joining ones, pinned once. No other tile changes and the status is ST_OK. With
the map not ready the status is ST_CONFLICT, and for a host's FREE, PIN, UNPIN or ASSIGN of a radio tile
ST_BAD_ARGUMENT, and nothing else changes. -/
def Obligations.TileCommandsChangeTheMap : Prop :=

  ∀ (s : State) (iss : Issuer) (first count : Nat),
    let tiles := tileRange first count
    let named (u : State) (most : Nat) : Prop := rangeOk first count most = true ∧ ∀ n ∈ tiles, u.mayName iss n = true
    let others (u v : State) : Prop := ∀ n, n ∉ tiles → v.tile n = u.tile n
    (∀ a : AllocArgs, s.accepts 1 iss = true → a.first = first → a.count = count →
      let u := s.begun 1 iss
      u.tier.ready = true → named u 65536 → a.lease < 4096 → iss = .dome ∧ a.radio = false ∨ iss.isLease = false ∧ a.radio = false →
      (∀ n ∈ tiles, (u.tile n).state = .free) →
      (a.tier = 1 → a.stack < 24 → u.hbmOver a.lease count = false → count ≤ u.freePlaces a.stack →
        ∃ v, exec (.alloc iss a) s = .next (complete iss 1 (.of stOk) v) ∧ others u v ∧
          (∀ i, i < (u.lowest a.stack count).length → i < count → v.tile (first + i) =
            ⟨.hbm, .ready, false, false, BitVec.ofNat 12 a.lease, 0, BitVec.ofNat 5 a.stack,
              BitVec.ofNat 18 ((u.lowest a.stack count).getD i 0)⟩) ∧ v.spires = u.spires) ∧
      (a.tier = 2 → u.flash.ready = true → u.flashOver a.lease count = false → u.flashFull count = false →
        ∃ v, exec (.alloc iss a) s = .next (complete iss 1 (.of stOk) v) ∧ others u v ∧
          (∀ n ∈ tiles, v.tile n = ⟨.flash, .ready, false, true, BitVec.ofNat 12 a.lease, 0, 0, 0⟩) ∧ v.spires = u.spires)) ∧
    (s.accepts 2 iss = true →
      let u := s.begun 2 iss
      u.tier.ready = true → named u 65536 →
      (∀ n ∈ tiles, ((u.tile n).state = .ready ∨ (u.tile n).state = .lost) ∧ u.loose n = true ∧
        (iss.isHost = true → u.sealed n = false)) →
      ∃ v, exec (.free iss first count) s = .next (complete iss 2 (.of stOk) v) ∧ others u v ∧
        (∀ n ∈ tiles, v.tile n = TileEntry.free) ∧ v.spires = u.spires) ∧
    (s.accepts 4 iss = true →
      let u := s.begun 4 iss
      u.tier.ready = true → named u 65536 → (∀ n ∈ tiles, (u.tile n).state = .ready ∧ (u.tile n).pin ≠ 127) →
      ∃ v, exec (.pin iss first count) s = .next (complete iss 4 (.of stOk) v) ∧ others u v ∧
        (∀ n ∈ tiles, v.tile n = { u.tile n with pin := (u.tile n).pin + 1 }) ∧ v = { u with tier := v.tier }) ∧
    (s.accepts 5 iss = true →
      let u := s.begun 5 iss
      u.tier.ready = true → named u 65536 →
      (∀ n ∈ tiles, ((u.tile n).state = .ready ∨ (u.tile n).state = .lost) ∧ (u.tile n).pin ≠ 0) →
      ∃ v, exec (.unpin iss first count) s = .next (complete iss 5 (.of stOk) v) ∧ others u v ∧
        (∀ n ∈ tiles, v.tile n = { u.tile n with pin := (u.tile n).pin - 1 }) ∧ v = { u with tier := v.tier }) ∧
    (∀ lease : Nat, s.accepts 7 iss = true →
      let u := s.begun 7 iss
      let fresh := tiles.filter (fun n => (u.tile n).lease.toNat ≠ lease)
      u.tier.ready = true → named u 65536 → lease < 4096 →
      (∀ n ∈ tiles, (u.tile n).state = .ready ∧ u.loose n = true ∧ (iss.isHost = true → u.sealed n = false)) →
      u.hbmOver lease ((fresh.filter (fun n => (u.tile n).tier = .hbm)).length) = false →
      u.flashOver lease ((fresh.filter (fun n => (u.tile n).flashCopy)).length) = false →
      ∃ v, exec (.assign iss first count lease) s = .next (complete iss 7 (.of stOk) v) ∧ others u v ∧
        (∀ n ∈ tiles, v.tile n = { u.tile n with lease := BitVec.ofNat 12 lease }) ∧ v = { u with tier := v.tier }) ∧
    (∀ buffer : Nat, s.accepts 6 iss = true →
      let u := s.begun 6 iss
      let data := tiles.foldr (fun n acc => leBytes (u.tile n).word 8 ++ acc) []
      named u 4096 →
      exec (.query iss first count buffer) s = .next (complete iss 6 ⟨stOk, count, 0⟩
        (match iss with
         | .dome => u.emit (.domeWrite buffer data)
         | .ring f _ _ => writeHost f buffer data u))) ∧
    (∀ (lease : Nat) (leaves joins : List TileRange), s.accepts 8 iss = true →
      let u := s.begun 8 iss
      let l := if iss.isLease then iss.lease else lease
      let out := rangeTiles leaves
      u.tier.ready = true → leaves.length ≤ 64 → joins.length ≤ 64 → l < 4096 →
      (∀ r ∈ leaves ++ joins, rangeOk r.first r.count 65536 = true) → (∀ r ∈ joins, r.stack < 24) → out.Nodup → (rangeTiles joins).Nodup →
      u.hostNamesRadio iss (out ++ rangeTiles joins) = false →
      leaveCheck u l out = none → joinCheck u l out joins (u.hbmUsed l - out.length) Tab.empty = none →
      exec (.boundary iss lease leaves joins) s = .next (complete iss 8 (.of stOk)
        (joins.foldl (fun t r => allocHbm (tileRange r.first r.count) r.stack l false 1 t) (out.foldl (fun t n => freeTile n t) u)))) ∧
    (∀ (a : AllocArgs) (lease : Nat),
      (s.accepts 1 iss = true → (s.begun 1 iss).tier.ready = false →
        exec (.alloc iss a) s = .next (complete iss 1 (.of stConflict) (takeStarted iss s))) ∧
      (s.accepts 2 iss = true → (s.begun 2 iss).tier.ready = false →
        exec (.free iss first count) s = .next (complete iss 2 (.of stConflict) (takeStarted iss s))) ∧
      (s.accepts 4 iss = true → (s.begun 4 iss).tier.ready = false →
        exec (.pin iss first count) s = .next (complete iss 4 (.of stConflict) (takeStarted iss s))) ∧
      (s.accepts 7 iss = true → (s.begun 7 iss).tier.ready = false →
        exec (.assign iss first count lease) s = .next (complete iss 7 (.of stConflict) (takeStarted iss s)))) ∧
    (iss.isHost = true → rangeOk first count 65536 = true → (∃ n ∈ tiles, (s.tile n).radio = true) → s.tier.ready = true →
      (s.accepts 2 iss = true → exec (.free iss first count) s = .next (complete iss 2 (.of stBadArg) (takeStarted iss s))) ∧
      (s.accepts 4 iss = true → exec (.pin iss first count) s = .next (complete iss 4 (.of stBadArg) (takeStarted iss s))) ∧
      (s.accepts 5 iss = true → exec (.unpin iss first count) s = .next (complete iss 5 (.of stBadArg) (takeStarted iss s))) ∧
      (∀ lease, s.accepts 7 iss = true →
        exec (.assign iss first count lease) s = .next (complete iss 7 (.of stBadArg) (takeStarted iss s))))

/-- A MOVE that passes the checks and that no rule of R283 refuses makes its tiles MOVING and no other, takes the
lowest free places of its stack for a move to HBM, and joins the moves in progress; it answers nothing yet.
MOVE_TILE_COMMIT takes the first move whose next tile is ready. Into HBM, with a clean source, the entry changes
at once to READY at the reserved place, whose bytes the move's beats have written: the commit changes no byte of
any stack. The place it came from is queued for its wipe, or, from flash without KEEP_FLASH, its flash copy is
trimmed. A move to flash leaves it READY in flash with a flash copy. A tile whose source could not be read
becomes LOST, and a LOST tile is counted. No other entry changes. After its last tile the move is over and
completes with ST_OK, or ST_FAULT if a tile was lost, and the counts; before, its next tile is the one after. -/
def Obligations.MovesRunTileByTile : Prop :=

  (∀ (s : State) (iss : Issuer) (a : MoveArgs), s.accepts 3 iss = true →
    let u := s.begun 3 iss
    let tiles := tileRange a.first a.count
    let toHbm := decide (a.tier = 1)
    let places := if toHbm then u.lowest a.stack a.count else []
    u.moveRefusal iss a = none →
    ∃ v, exec (.move iss a) s = .next (startFlashWrites v) ∧
      v.tier.moves = u.tier.moves ++ [⟨iss, a.first, a.count, toHbm, a.stack, a.keep, a.discard, places, 0, 0, 0⟩] ∧
      (∀ n, v.tile n = if n ∈ tiles then { u.tile n with state := .moving } else u.tile n) ∧
      v.hbm = (if toHbm then takePlaces a.stack places u else u).hbm ∧ v.spires = u.spires) ∧
  (∀ (s : State) (m : MoveJob), s.tier.moves.find? (fun m => s.commitReady m) = some m →
    let n := m.first + m.next
    let e := s.tile n
    let p := m.places.getD m.next 0
    let done (ok : Bool) : MoveJob :=
      { m with next := m.next + 1, moved := if ok then m.moved + 1 else m.moved, lost := if ok then m.lost else m.lost + 1 }
    let follows (ok : Bool) (v : State) : Prop :=
      (m.next + 1 = m.count → exec .moveTileCommit s = .next (startFlashWrites
        (complete m.issuer 3 ⟨if (done ok).lost = 0 then stOk else stFault, (done ok).moved, (done ok).lost⟩ v)) ∧
        v.tier.moves = s.tier.moves.erase m) ∧
      (m.next + 1 ≠ m.count → exec .moveTileCommit s = .next (startFlashWrites v) ∧
        v.tier.moves = s.tier.moves.map (fun x => if x = m then done ok else x))
    (e.state = .lost → ∃ v, follows false v ∧ ∀ i, v.tile i = s.tile i) ∧
    (e.state ≠ .lost → (s.copyOf n).bad = true →
      ∃ v, follows false v ∧ ∀ i, v.tile i = if i = n then { e with state := .lost } else s.tile i) ∧
    (e.state ≠ .lost → m.toHbm = true → e.tier = .hbm → (s.copyOf n).bad = false → e.stack.toNat ≠ m.stack →
      ∃ v, follows true v ∧
        (∀ i, v.tile i = if i = n then { e with tier := .hbm, state := .ready, stack := BitVec.ofNat 5 m.stack, place := BitVec.ofNat 18 p }
          else s.tile i) ∧
        (∀ h, (v.stack h).mem = (s.stack h).mem) ∧
        (v.stack e.stack.toNat).wipeQueue = (s.stack e.stack.toNat).wipeQueue ++ [e.place.toNat]) ∧
    (e.state ≠ .lost → m.toHbm = true → e.tier = .flash → (s.copyOf n).bad = false →
      ∃ v, follows true v ∧
        (∀ i, v.tile i = if i = n then { e with tier := .hbm, state := .ready, stack := BitVec.ofNat 5 m.stack, place := BitVec.ofNat 18 p, flashCopy := (m.keep && e.flashCopy) } else s.tile i) ∧
        v.hbm = s.hbm ∧ v.flash.stripes = if m.keep then s.flash.stripes else s.flash.stripes.set Stripe.none n Stripe.none) ∧
    (e.state ≠ .lost → m.toHbm = false → (s.copyOf n).bad = false →
      ∃ v, follows true v ∧
        (∀ i, v.tile i = if i = n then { e with tier := .flash, state := .ready, flashCopy := true, stack := 0, place := 0 }
          else s.tile i)))

/-- FLASH_PAGE_READ of a page of a tile in flash on a ready tier: a read counts on the page's block; a corrected one
puts that page's retry level at 0, and the page joins the copy of a tile that a move reads; a failed one goes to
the next level and counts one event of category 2; at the last level the tile is LOST. FLASH_WRITE_ACK of a
write in flight makes the staged bytes the tile's flash copy, with LEASE, RADIO and the next write sequence
number in its spare and a page of each channel; a failed program retires the channel's block and the write stays
in flight. FLASH_RELOCATION of a block due for it moves its valid pages, erases the block, or retires it if the
erase fails, and counts; one not due, or after NAND programs have stopped, does nothing.
TILE_MAP_REBUILD_COMPLETE after a reset makes the map ready and maps every tile with a flash copy as READY in
flash; after the loss of the map Tower the entries stand; without packages or a Tower no tile is in flash.
POWER_FAIL stops NAND programs, writes the journal's counts and starts an emergency stop. POWER_FAIL_RECOVERY,
100 ms after the signal rose, takes both back. -/
def Obligations.FlashKeepsItsCopies : Prop :=

  (∀ (s : State) (n : Nat) (i : Fin 16), s.flash.ready = true → (s.tile n).tier = .flash → ((s.tile n).state = .ready ∨ (s.tile n).state = .moving) →
    let f := s.flash.countRead n i
    let k := 16 * n + i.val
    let u := { s with flash := f }
    let moved := (decide ((u.tile n).state = .moving) && u.tier.moves.any (fun m => u.copying m = some n))
    (moved = false → exec (.flashPageRead n ⟨i, true⟩) s = .next { s with flash := { f with retry := f.retry.set 0 k 0 } }) ∧
    (moved = true → ∃ t, exec (.flashPageRead n ⟨i, true⟩) s = .next t ∧
      t.copyOf n = { s.copyOf n with pages := (s.copyOf n).pages ||| BitVec.twoPow 16 i } ∧
      t.flash = { f with retry := f.retry.set 0 k 0, staged := f.staged.copyFrom (n * tileBytes + i * 16384) f.mem (n * tileBytes + i * 16384) 16384 }) ∧
    (s.flash.retry.get 0 k < 8 → exec (.flashPageRead n ⟨i, false⟩) s = .next
      (countNd 2 1 (s.jobsOfLease (s.tile n).lease.toNat) { s with flash := { f with retry := f.retry.set 0 k (s.flash.retry.get 0 k + 1) } })) ∧
    (8 ≤ s.flash.retry.get 0 k → ∃ t, exec (.flashPageRead n ⟨i, false⟩) s = .next t ∧
      (∀ j, t.tile j = if j = n then { s.tile n with state := .lost } else s.tile j) ∧ t.flash.retry.get 0 k = 0)) ∧
  (∀ (s : State) (n : Nat) (f : FlashState), s.flash.inflight.contains n = true → s.flash.keepStripe n (s.tile n) = some f →
    (f.inflight = s.flash.inflight.erase n ∧ f.wseq = s.flash.wseq + 1 ∧
      f.mem = s.flash.mem.copyFrom (n * tileBytes) s.flash.staged (n * tileBytes) tileBytes ∧
      f.staged = s.flash.staged.clearRange (n * tileBytes) tileBytes ∧
      (∃ l, f.stripes = s.flash.stripes.set Stripe.none n ⟨(s.tile n).lease, (s.tile n).radio, s.flash.wseq + 1, l⟩ ∧ l.length = 16)) ∧
    ((s.tile n).state = .moving → exec (.flashWriteAck ⟨n, none⟩) s = .next (heldReset (startFlashWrites
      { s with flash := { f.closeJournal with acked := f.closeJournal.acked ++ [n] } }))) ∧
    ((s.tile n).state ≠ .moving → exec (.flashWriteAck ⟨n, none⟩) s = .next (heldReset (startFlashWrites
      (({ s with flash := f.closeJournal } : State).modTile n (fun e => { e with flashCopy := true })))))) ∧
  (∀ (s : State) (n b : Nat) (c : Fin 16) (f : FlashState), s.flash.inflight.contains n = true → s.flash.open_ c = (f, some b) →
    exec (.flashWriteAck ⟨n, some c⟩) s = .next (heldReset { s with flash := f.retire b }) ∧ ((f.retire b).block b).bad = true) ∧
  (∀ (s : State) (b : Nat) (ok : Bool) (f : FlashState), s.flash.noProgram = false → s.domainOn 26 = true → s.flash.usable b = true →
    s.flash.mustRelocate s.dome.cfg.wearSpread s.dome.cfg.readLimit b = true →
    (let f0 := if s.flash.filling.get 0 (blockChannel b) = b + 1 then { s.flash with filling := s.flash.filling.set 0 (blockChannel b) 0 } else s.flash
     f0.movePages b (f0.tilesIn b) = some f) →
    exec (.flashRelocation ⟨b, ok⟩) s = .next { s with flash := { (if ok then f.erase b else f.retire b) with relocs := satInc f.relocs } }) ∧
  (∀ (s : State) (b : Nat) (ok : Bool), s.flash.usable b = false ∨ s.flash.noProgram = true ∨
    s.flash.mustRelocate s.dome.cfg.wearSpread s.dome.cfg.readLimit b = false →
    exec (.flashRelocation ⟨b, ok⟩) s = .next s) ∧
  (∀ s : State, s.tier.ready = false → s.clk.done = true →
    let found := if s.tier.rebuilding then s.flash.found else cardFlash
    ∃ t, exec .tileMapRebuildComplete s = .next t ∧ t.tier.ready = true ∧ t.tier.rebuilding = false ∧ t.flash.found = found ∧
      t.flash.ready = (decide (found.packages ≠ 0) && s.mapTower.isSome) ∧ t.flash.present = t.flash.ready ∧
      (t.flash.ready = true → s.tier.rebuilding = true → t.tier.map = s.tier.map) ∧
      (t.flash.ready = true → s.tier.rebuilding = false → ∀ n,
        t.tile n = if n ∈ s.flash.copies then ⟨.flash, .ready, false, true, 0, 0, 0, 0⟩ else s.tile n) ∧
      (t.flash.ready = false → ∀ n, (t.tile n).tier ≠ .flash) ∧ t.spires = s.spires) ∧
  (∀ s : State, s.pwr.deepTarget = none →
    let u := { s with
      pins := { s.pins with powerFailN := false, failAt := some s.clock.tick }
      flash := { s.flash with noProgram := true, journal := s.flash.inflight.isEmpty, saved := s.flash.blocks } }
    exec .powerFail s = .next (if s.clk.done = true then estopRaise causePowerFail u else u)) ∧
  (∀ (s : State) (f : Nat), s.pins.failAt = some f → f + 170000000 ≤ s.clock.tick → s.pins.resetHeld = false →
    exec .powerFailRecovery s = .next (startFlashWrites { s with
      pins := { s.pins with powerFailN := true, failAt := none }
      flash := { s.flash with noProgram := false, journal := false } }))

/-- For an issuer whose command passes the checks before every queue command: CELL_CONFIG of a legal block, an EMPTY
or CONFIGURED cell with a cell slot of that shape and pinned ring tiles in HBM stores the block and leaves
CONFIGURED. CELL_START of a CONFIGURED cell in a READY, locked chip with a cell slot, at a slot start that lies
REQ_LEAD and 1 ms ahead, leaves STARTING with the first slot to serve. CELL_STOP takes a STARTING cell back to
CONFIGURED, and sets the end slot of an ACTIVE one at a slot start at least 1 ms ahead. CELL_CLEAR of a
CONFIGURED or FAILED cell leaves EMPTY and keeps the counts. Each answers ST_OK, noted as the cell's last
status, and changes no other cell; in a state where it does not apply it answers ST_STATE_CONFLICT, and that
note is its only effect. CELL_START_TIME makes a STARTING cell ACTIVE with gains, soft buffers and sequence
numbers anew, or FAILED without a cell slot; CELL_STOP_TIME makes an ACTIVE cell STOPPING. -/
def Obligations.RadioCellsFollowTheirCommands : Prop :=

  ∀ (s : State) (iss : Issuer) (n : Nat), n < 384 →
    let rest (u v : State) : Prop := (∀ m, m ≠ n → v.cell m = u.cell m) ∧ v.spires = u.spires
    (∀ block : BitVec 256, field block.toNat 8 0 = n → s.accepts 0x40 iss = true →
      let u := s.begun 0x40 iss
      let c : RadioCell := { RadioCell.reset with block := block }
      (∀ d, u.blockOk n c = true → u.cellSlot n = some d → u.shapeOk c d = true →
        ((u.cell n).state = .empty ∨ (u.cell n).state = .configured) →
        (∀ t ∈ c.ringTiles, (u.tile t).inHbm = true ∧ (u.tile t).pin ≠ 0) →
        ∃ v, exec (.cellConfig iss block) s = .next (complete iss 0x40 (.of stOk) v) ∧ rest u v ∧
          v.cell n = { u.cell n with
            state := .configured, block := block, group := BitVec.ofNat 4 (c.cfg 1 3 0), pci := BitVec.ofNat 10 (c.cfg 0 25 16)
            target := BitVec.ofNat 8 (c.cfg 3 7 0), failCause := 0, lastStatus := 0 }) ∧
      (u.blockOk n c = true → u.cellSlot n = none → exec (.cellConfig iss block) s = .next (complete iss 0x40 (.of stConflict)
        ((takeStarted iss s).modCell n (fun x => { x with lastStatus := 1 }))))) ∧
    (∀ at_ : Nat, s.accepts 0x41 iss = true →
      let u := s.begun 0x41 iss
      let g := u.groupOf n
      ∀ a, g.startsAt at_ = some a → u.now + nsUnits (g.reqLead.toNat * 1000 + 1000000) ≤ at_ →
      ((u.cell n).state = .configured → u.clk.chipState = .ready → u.time.servo = 3 → u.clk.mode = false →
        u.clk.modeStaged = false → (u.cellSlot n).isSome = true → u.oddPeriods = false →
        ∃ v, exec (.cellStart iss n at_) s = .next (complete iss 0x41 (.of stOk) v) ∧ rest u v ∧
          v.cell n = { u.cell n with
            state := .starting, startAt := at_, stopAt := none, nextRead := a, nextUl := a, endSlot := none, lastStatus := 0 }) ∧
      ((u.cell n).state ≠ .configured → exec (.cellStart iss n at_) s = .next (complete iss 0x41 (.of stConflict)
        ((takeStarted iss s).modCell n (fun x => { x with lastStatus := 1 }))))) ∧
    (∀ at_ : Nat, s.accepts 0x42 iss = true →
      let u := s.begun 0x42 iss
      ((u.cell n).state = .starting →
        ∃ v, exec (.cellStop iss n at_) s = .next (complete iss 0x42 (.of stOk) v) ∧ rest u v ∧
          v.cell n = { u.cell n with state := .configured, lastStatus := 0 }) ∧
      (∀ a, (u.cell n).state = .active → (u.groupOf n).startsAt at_ = some a → u.now + nsUnits 1000000 ≤ at_ →
        ∃ v, exec (.cellStop iss n at_) s = .next (complete iss 0x42 (.of stOk) v) ∧ rest u v ∧
          v.cell n = { u.cell n with stopAt := some at_, endSlot := some a, lastStatus := 0 }) ∧
      ((u.cell n).state ≠ .starting → (u.cell n).state ≠ .active →
        exec (.cellStop iss n at_) s = .next (complete iss 0x42 (.of stConflict)
          ((takeStarted iss s).modCell n (fun x => { x with lastStatus := 1 }))))) ∧
    (s.accepts 0x43 iss = true →
      let u := s.begun 0x43 iss
      (((u.cell n).state = .configured ∨ (u.cell n).state = .failed) →
        ∃ v, exec (.cellClear iss n) s = .next (complete iss 0x43 (.of stOk) v) ∧ rest u v ∧
          v.cell n = { RadioCell.reset with
            slotsLost := (u.cell n).slotsLost, reqMissing := (u.cell n).reqMissing, ulLate := (u.cell n).ulLate
            freezes := (u.cell n).freezes, saturations := (u.cell n).saturations, lastStatus := 0 }) ∧
      ((u.cell n).state ≠ .configured → (u.cell n).state ≠ .failed →
        exec (.cellClear iss n) s = .next (complete iss 0x43 (.of stConflict)
          ((takeStarted iss s).modCell n (fun x => { x with lastStatus := 1 }))))) ∧
    (∀ k : Fin 384, k.val = n →
      ((s.cell n).state = .starting → (s.cell n).startAt ≤ s.now →
        exec (.cellStartTime k) s = .next (s.modCell n (fun x =>
          if (s.cellSlot n).isSome = true then { x with
            state := .active, streams := Tab.empty, soft := [], seqTx := Tab.empty, seqRx := Tab.empty, txPrb := Tab.empty }
          else { x with state := .failed, failCause := 4 }))) ∧
      (∀ t, (s.cell n).state = .active → (s.cell n).stopAt = some t → t ≤ s.now →
        exec (.cellStopTime k) s = .next (s.modCell n (fun x => { x with state := .stopping }))))

/-- DL_RECORD_READ at T(s, 0) - REQ_LEAD of the next slot of a live cell goes on to the slot after; a clean record
for that slot is taken, one that is not for it makes the slot empty and is counted, a poisoned one loses the
slot. UL_RECORD_WRITE at the slot's end goes on to the next, forgets the slot's marks, puts zeros where expected
PRBs did not come and counts them, and leaves a STOPPING cell CONFIGURED after its last. SYMBOL_POWER_ESTIMATE
sets the gain from the oldest complete symbol, for two symbols later, unless a detection holds it.
ENGINE_ENTRY_START of an entry whose time has come runs its descriptor if it fits and its instance serves, else
the entry is idle and counted. ENGINE_DESCRIPTOR_DONE puts an engine's bytes into the radio buffers; a
correlator's PRACH work reports the peaks that reach THRESH times the noise, and a detection on a PRACH stream
holds its gain. RADIO_FAULT of an instance in service takes it out; a poisoned sample is counted. -/
def Obligations.RadioRecordsEnginesAndFaults : Prop :=

  (∀ (s : State) (k : Fin 384),
    let c := s.cell k
    let a := c.nextRead
    let t := c.recordTile c.dlRing a
    let h := leValue (s.tileRead t 0 64)
    let good : Bool := decide (field h 31 0 = a % 2 ^ 32 ∧ field h 71 64 = 0xA5 ∧ field h 63 32 ≤ c.recordRoom)
    let bad : Bool := s.tilePoisoned t 0 64 || (good && s.runPoisoned t 64 5 (field h 63 32))
    c.live = true → c.serves a = true → (s.groupOf k).slotStart a ≤ s.nowExact + nsExact ((s.groupOf k).reqLead.toNat * 1000) →
    (bad = false → exec (.dlRecordRead k) s = .next (if good = true then s.modCell k (fun x => { x with nextRead := a + 1 })
      else (s.modCell k (fun x => { x with nextRead := a + 1 })).modCell k (fun x => { x with
        reqMissing := satInc x.reqMissing, emptySlots := x.emptySlots ++ [a] }))) ∧
    (bad = true → ∃ v, exec (.dlRecordRead k) s = .next v ∧ (∀ m, m ≠ k.val → v.cell m = s.cell m) ∧
      v.cell k = { c with nextRead := a + 1, slotsLost := satInc c.slotsLost, lostSlots := c.lostSlots ++ [a] })) ∧
  (∀ (s : State) (k : Fin 384) (expected : List UlRange) (l : List Byte),
    let c := s.cell k
    let a := c.nextUl
    (c.state = .active ∨ c.state = .stopping) → c.serves a = true → (s.groupOf k).slotStart a ≤ s.nowExact →
    ∃ v, exec (.ulRecordWrite k expected l) s = .next v ∧ (∀ m, m ≠ k.val → v.cell m = s.cell m) ∧ v.spires = s.spires ∧
      v.radio.buf = (c.missing a expected).foldl (fun b x => b.clearRange (sampleAt k x.1 a x.2.1 x.2.2) 48) s.radio.buf ∧
      v.cell k = { c with
        nextUl := a + 1, ulLate := satAdd c.ulLate (c.missing a expected).length
        lostSlots := c.lostSlots.filter (· != a), emptySlots := c.emptySlots.filter (· != a)
        prbs := c.prbs.filter (fun p => a < p / (128 * 14 * 512))
        state := if c.state = .stopping ∧ c.serves (a + 1) = false then .configured else c.state }) ∧
  (∀ (s : State) (k : Fin 384) (i m sum n : Nat) (rest : List (Nat × Nat × Nat)),
    let c := s.cell k
    let st := c.streams.get StreamGain.reset i
    let g := nextGain st.g.toNat (gainTarget c.target.toNat) sum n
    st.sums = (m, sum, n) :: rest → st.frozen = none →
    (s.groupOf k).symbolStart (m / 14) (m % 14) + nsExact ((s.groupOf k).ulLatest.toNat * 100) ≤ s.nowExact →
    exec (.symbolPowerEstimate k i) s = .next (s.modCell k (fun x => { x with
      streams := x.streams.set StreamGain.reset i { st with
        sums := rest, g := BitVec.ofNat 6 g, hist := ((m + 2, g) :: st.hist).take 4 } }))) ∧
  (∀ (s : State) (entry r : Nat) (w : Option EngineWork) (e : Engine),
    let start := field r 54 36
    let len := field r 35 20
    let unit := field r 59 55
    let p := s.clock.plan / 2
    let fits := w.filter (fun x => decide (x.engine = e) && x.ok && decide (x.occupancy len ≤ len) && s.radio.serves e unit)
    s.enginePlan[entry]? = some r → engineOf (field r 63 60) = some e → s.hasPlan = true → start ≤ p → p < start + len →
    s.radio.runs = [] →
    exec (.engineEntryStart entry w) s = .next (s.modRadio (fun x => { x with
      runs := [⟨e, unit, entry, fits, s.bclk + (match fits with
        | some y => y.occupancy len
        | none => start + len - p)⟩]
      idleEntries := if fits.isSome then x.idleEntries else satInc x.idleEntries }))) ∧
  (∀ (s : State) (r : EngineRun) (k out : Nat) (data : List Byte),
    s.radio.runs = [r] → r.work = some (.ldpcEnc k) → r.until_ ≤ s.bclk →
    ∃ v, exec (.engineDescriptorDone r.entry (.bytes out data)) s = .next v ∧
      v = { s with radio := v.radio } ∧ v.radio = { s.radio with runs := [], buf := s.radio.buf.writeBytes out (data.take (96 * 2 ^ 20 - out)) }) ∧
  (∀ (s : State) (r : EngineRun) (n i last thresh noise : Nat) (peaks : List PrachPeak),
    s.radio.runs = [r] → r.work = some .correlate → r.until_ ≤ s.bclk → peaks.length ≤ 64 →
    let found := peaks.filter (fun p => decide (thresh * noise ≤ p.power))
    ∃ v, exec (.engineDescriptorDone r.entry (.prach n i last thresh noise peaks)) s = .next v ∧ v = { s with radio := v.radio } ∧
      v.radio.reports.get none r.entry = some (.prach n i found) ∧ (∀ m, m ≠ n → v.cell m = s.cell m) ∧
      ((found = [] ∨ i < 64) → v.cell n = s.cell n) ∧
      (found ≠ [] → 64 ≤ i → v.cell n = { s.cell n with
        freezes := (s.cell n).freezes + 1
        streams := (s.cell n).streams.modify StreamGain.reset i (fun y => { y with frozen := some (s.symbolNow n, last) }) })) ∧
  (∀ (s : State) (u : Nat),
    (∀ e : Engine, s.radio.serves e u = true → s.cellsUsing .engine = [] →
      exec (.radioFault (.engineOut e u)) s = .next (s.modRadio (fun r => r.retire e u))) ∧
    exec (.radioFault (.sample u)) s = .next (consumePoison 1 s) ∧
    ((s.lane u).regs.state = .up → exec (.radioFault (.laneOut u)) s = .next s))

/-- Only MID 0 and 1 write LANE_n_CTRL, at BAR0 0x100004 + 0x1000 n, on a chip that serves it at once. ENABLE = 1
starts the bring-up of a DISABLED or FAILED lane; ENABLE = 0 disables a lane, but one on which the active Figure
has entries only answers ST_STATE_CONFLICT. RETRAIN sends an UP or SUSPECT lane DOWN with cause RETRAIN (after
ENABLE in the same write), and is a conflict otherwise. A lane that goes out loses its best-effort queues and
held transit cells. Training within its time leads to ALIGNING (LANE_n_EQ is a free value), alignment to
VERIFYING; an overrun leads to DOWN with TRAIN or MARKER, or to FAILED with IDENTITY. After 1 ms a DOWN lane
trains again and counts it. A missed heartbeat is counted and makes an UP lane SUSPECT at the third in a row. -/
def Obligations.LanesTrainAndGoOut : Prop :=

  (∀ (s : State) (n : Fin 64),
    let l := s.lane n
    let others (t : State) : Prop := ∀ m, m ≠ n.val → t.lane m = s.lane m
    let same (t : State) : Prop := t = { s with fab := { s.fab with lanes := t.fab.lanes } } ∧ others t
    let outAs (t : State) (x : LaneState) (cause : BitVec 4) (status : Byte) (on : Bool) : Prop :=
      t = { s with fab := t.fab, be := t.be, radio := t.radio, dome := { s.dome with dbStatus := t.dome.dbStatus, dbSetAt := t.dome.dbSetAt } } ∧
      others t ∧ (∀ q, q < 8 → (t.beQueue n q).cells = []) ∧
      t.lane n = { l with
        regs := { l.regs with
          state := x, cause := cause, delayValid := false, status := status, enable := on
          txDrops := satAdd l.regs.txDrops (s.fab.held.filter (fun h => s.heldFor h == some n.val)).length }
        since := s.clock.tick, badMarkers := 0, idents := 0, upSteps := 0, overBound := 0 }
    (∀ mid v, 1 < mid → exec (.laneCtrlWrite mid n v) s = .next s ∧ exec (.laneRetrain mid n) s = .next s) ∧
    (∀ mid v, mid ≤ 1 → s.serves (0x100004 + 0x1000 * n) = true → ∃ t, exec (.laneCtrlWrite mid n v) s = .next t ∧
      (bitW v 0 = true → bitW v 1 = false → same t ∧
        t.lane n = (let x := { l with regs := { l.regs with enable := true, status := 0 } }
          if l.regs.state = .disabled ∨ l.regs.state = .failed then x.train s.clock.tick else x)) ∧
      (bitW v 0 = true → bitW v 1 = true → l.regs.state.carries = true → outAs t .down 5 0 true) ∧
      (bitW v 0 = false → bitW v 1 = false → l.regs.state = .disabled →
        same t ∧ t.lane n = { l with regs := { l.regs with enable := false, status := 0 } }) ∧
      (bitW v 0 = false → bitW v 1 = false → l.regs.state ≠ .disabled → s.laneUsed n = true →
        same t ∧ t.lane n = { l with regs := { l.regs with status := 1 } }) ∧
      (bitW v 0 = false → bitW v 1 = false → l.regs.state ≠ .disabled → s.laneUsed n = false →
        outAs t .disabled l.regs.cause 0 false)) ∧
    (∀ mid, mid ≤ 1 → s.serves (0x100004 + 0x1000 * n) = true → ∃ t, exec (.laneRetrain mid n) s = .next t ∧
      (l.regs.state.carries = true → outAs t .down 5 0 l.regs.enable) ∧
      (l.regs.state.carries = false → same t ∧ t.lane n = { l with regs := { l.regs with status := 1 } })) ∧
    (l.regs.state = .training → s.clock.tick ≤ l.since + trainMax → exec (.laneTrainingDone n) s = .next
      (s.modLane n (fun x => { x with regs := { x.regs with state := .aligning, eq := BitVec.ofNat 32 s.freeValue } })).useFree) ∧
    (l.regs.state = .aligning → s.clock.tick ≤ l.since + alignMax → exec (.laneAlignDone n) s = .next
      (s.modLane n (fun x => { x with regs := { x.regs with state := .verifying }, idents := 0 }))) ∧
    (∃ t, exec (.laneBringupTimeout n) s = .next t ∧
      (l.regs.state = .training → l.since + trainMax < s.clock.tick → outAs t .down 1 l.regs.status l.regs.enable) ∧
      (l.regs.state = .aligning → l.since + alignMax < s.clock.tick → outAs t .down 2 l.regs.status l.regs.enable) ∧
      (l.regs.state = .verifying → l.since + verifyMax < s.clock.tick → s.dome.chipId ≠ 0xFFFF →
        outAs t .failed 3 l.regs.status l.regs.enable)) ∧
    (l.regs.state = .down → s.lanesRun = true → s.domainOn (20 + n / 32) = true → l.since + downTicks ≤ s.clock.tick →
      ∃ t, exec (.laneDownExpiry n) s = .next t ∧ same t ∧
        t.lane n = (let x := l.train s.clock.tick; { x with regs := { x.regs with retrains := satInc x.regs.retrains } })) ∧
    (∀ m, s.image.isSome = true → s.missedStep n = some m → ∃ t, exec (.heartbeatMiss n) s = .next t ∧ others t ∧
      t = { s with cnt := t.cnt, host := t.host, out := t.out, fab := t.fab, radio := t.radio, rel := t.rel,
                   dome := { s.dome with dbStatus := t.dome.dbStatus, dbSetAt := t.dome.dbSetAt } } ∧
      t.lane n = { l with
        hbNext := m + 1
        regs := { l.regs with
          hbMisses := satInc l.regs.hbMisses, hbGood := 0, hbMissed := l.regs.hbMissed + 1
          state := if l.regs.state = .up ∧ 3 ≤ satInc l.regs.hbMisses then .suspect else l.regs.state } }))

/-- STEP_FRAME_TRANSMIT sends one frame per lane and Step, none from a DISABLED or TRAINING lane. Without an active
Pavane a lane that carries no cells sends idle fill, and a VERIFYING lane an IDENT cell with its CHIP_ID and
lane. On an UP or SUSPECT lane a HEARTBEAT entry sends the heartbeat payload to the lane's partner and raises
HB_SEQ; a TRANSIT entry forwards the held cell that is ready with PERIOD and STEP of the Step and HOPS raised by
1. STEP_FRAME_RECEIVE takes nothing in on a lane without marker lock; with a valid marker it takes Step and
period, counts corrected and uncorrectable codewords, and takes no cell of an uncorrectable one; the eighth
invalid marker in a row takes an UP lane DOWN with cause MARKER; the sixteenth good IDENT cell brings a
VERIFYING lane UP, and one that names another chip or lane sends it to FAILED. -/
def Obligations.FramesGoOutAndComeIn : Prop :=

  (∀ (s : State) (n : Fin 64) (payload : StepPayload),
    let m := stepCount s.now
    let l := s.lane n
    let live : Prop := s.lanesRun = true ∧ l.txNext ≤ m
    let frame (c : Option Cell) : Out := .frame n (m % 8000) (m / 8000) (markerBytes n m s.markerFlags s.chipId) c
    let sent : State := s.modLane n (fun x => { x with txNext := m + 1 })
    (s.lanesRun = false ∨ m < l.txNext → exec (.stepFrameTransmit n payload) s = .next s) ∧
    (live → s.image = none →
      (l.regs.state = .disabled ∨ l.regs.state = .training → exec (.stepFrameTransmit n payload) s = .next sent) ∧
      (l.regs.state = .aligning ∨ l.regs.state = .down ∨ l.regs.state = .failed ∨
          (l.regs.state = .verifying ∧ s.dome.chipId = 0xFFFF) →
        exec (.stepFrameTransmit n payload) s = .next (sent.emit (frame none))) ∧
      (l.regs.state = .verifying → s.dome.chipId ≠ 0xFFFF → ∃ t c, exec (.stepFrameTransmit n payload) s = .next t ∧
        t = sent.emit (frame (some c)) ∧ c.type = 8 ∧ c.src = s.chipId ∧ c.flow = 0xFFFF ∧ c.infoBytes 24 1 % 64 = n ∧
        c.payload = [])) ∧
    (∀ r, live → l.regs.state.carries = true → s.planOpen = true → s.rel.fatal = false → s.entry n false (m % 8000) = some r →
      s.oldTransit n (m % 8000) = none →
      (∀ p f, field r 43 40 = 3 → s.stepImage = some (p, f) → ∃ t c, exec (.stepFrameTransmit n payload) s = .next t ∧
        t.out.head? = some (frame (some c)) ∧ c.type = 4 ∧ c.dst = partnerChip (p.lane n) ∧ c.flow = 0 ∧
        c.payload = s.heartbeatBytes n ∧ (t.lane n).hbSeq = l.hbSeq + 1 ∧ (t.lane n).upSteps = l.upSteps + 1) ∧
      (∀ h, field r 43 40 = 2 → s.image.isSome = true → s.fab.held.find? (fun h =>
          !h.oldSet && h.lane == field r 23 18 && h.step == field r 17 5 && decide (h.readyAt ≤ stepTime m)) = some h →
        h.cell.hops + 1 ≤ 15 → h.cell.type ≠ 3 → ∃ t, exec (.stepFrameTransmit n payload) s = .next t ∧
        t.out.head? = some (frame (some { h.cell with
          period := BitVec.ofNat 32 (m / 8000), step := m % 8000, hops := h.cell.hops + 1 })) ∧
        t.fab.held = s.fab.held.erase h))) ∧
  (∀ (s : State) (n : Fin 64) (f : FrameIn),
    let l := s.lane n
    let k := readMarker f.marker
    let at_ := l.frameStep k
    (s.lanesRun = false ∨ l.regs.state.listens = false → exec (.stepFrameReceive n f) s = .next s) ∧
    (s.lanesRun = true → l.regs.state.listens = true → k.ok = true → (s.time.servo ≠ tsLocked ∨ k.locked = false) →
      let base : Lane := { l with
        lastStep := at_.1, lastPeriod := at_.2, badMarkers := 0, overBound := 0
        regs := { l.regs with fecCorr := satAdd l.regs.fecCorr (fecCorrected f.errors), fecUncorr := satAdd l.regs.fecUncorr (fecFailed f.errors), delayValid := false } }
      ∃ t, exec (.stepFrameReceive n f) s = .next t ∧
        (f.bytes = [] ∨ l.regs.state = .aligning → t.lane n = base ∧
          t = { s with cnt := t.cnt, host := t.host, out := t.out, fab := { s.fab with lanes := t.fab.lanes } }) ∧
        (f.bytes ≠ [] → l.regs.state ≠ .aligning → fecHolds f.errors f.bytes.length = false → t.lane n = base) ∧
        (∀ c, f.bytes ≠ [] → fecHolds f.errors f.bytes.length = true → readCell f.bytes = .cell c true → c.type = 8 → c.step = at_.1 →
          c.period.toNat % 65536 = at_.2 → l.regs.state = .verifying → s.dome.chipId ≠ 0xFFFF →
          ((c.src, c.infoBytes 24 1 % 64) = s.partner n → l.idents = 15 →
            (t.lane n).regs.state = .up ∧ (t.lane n).since = s.clock.tick ∧ (t.lane n).upSteps = 0 ∧
            (t.lane n).regs.partnerChip = BitVec.ofNat 16 c.src) ∧
          ((c.src, c.infoBytes 24 1 % 64) ≠ s.partner n →
            (t.lane n).regs.state = .failed ∧ (t.lane n).regs.cause = 3))) ∧
    (s.lanesRun = true → l.regs.state.carries = true → k.ok = false → l.badMarkers = 7 →
      ∃ t, exec (.stepFrameReceive n f) s = .next t ∧ (t.lane n).regs.state = .down ∧ (t.lane n).regs.cause = 2 ∧
        (t.lane n).since = s.clock.tick))

/-- An accepted PAVANE_LOAD into a slot that is neither active nor about to be, from READY HBM tiles of lease 0 with
a pin, of a sound image that fits beside the other slot, starts the load; a busy slot answers ST_STATE_CONFLICT,
an unsound image ST_BAD_ARGUMENT, one that does not fit ST_NO_RESOURCE, a refused command has no other effect.
PAVANE_LOAD_COMPLETE stores the oldest image and answers ST_OK. PAVANE_ACTIVATE of a stored image with a present
Figure and a period start at least 1 ms ahead answers ST_DEFERRED and pends if the conditions of R364 hold, else
ST_STATE_CONFLICT; an empty slot or another AT is ST_BAD_ARGUMENT. FIGURE_SWITCH arms the switch and shows its
AT under its own conditions. PAVANE_CLEAR empties a free slot. DRAIN_PERIOD_END, after its period, drops and
counts the old cells still held and retransmits requests sent before the switch, and then looks again at parts
of the radio partition that wait. -/
def Obligations.PavaneCommandsAndTheDrainPeriod : Prop :=

  (∀ (s : State) (iss : Issuer) (b : Bool),
    (∀ first tiles : Nat, s.accepts 0x30 iss = true →
      let u := s.begun 0x30 iss
      let l := tileRange first tiles
      let len := tiles * tileBytes
      let h := readHead (u.runRead first 0 (tiles + 1) len)
      let ok : Prop := rangeOk first tiles 64 = true ∧ u.slotFree b = true ∧
        (∀ n ∈ l, (u.tile n).lease = 0 ∧ (u.tile n).radio = false ∧ (u.tile n).inHbm = true ∧ (u.tile n).pin ≠ 0) ∧
        u.runPoisoned first 0 (tiles + 1) (min len (max 64 h.bytes)) = false
      let done (st : Nat) : Prop := exec (.pavaneLoad iss b first tiles) s = .next (complete iss 0x30 (.of st) (takeStarted iss s))
      (rangeOk first tiles 64 = true → u.slotFree b = false → done stConflict) ∧
      (ok → h.sound u.chipId u.dome.cfg = false → done stBadArg) ∧
      (ok → h.sound u.chipId u.dome.cfg = true → imageMax < h.bytes + u.fab.slotBytes (!b) → done stNoResource) ∧
      (ok → h.sound u.chipId u.dome.cfg = true → h.bytes + u.fab.slotBytes (!b) ≤ imageMax →
        exec (.pavaneLoad iss b first tiles) s = .next { u with fab := { u.fab with load := u.fab.load ++ [⟨b, h.image, iss⟩] } })) ∧
    (∀ fig at_ : Nat, s.accepts 0x31 iss = true →
      let u := s.begun 0x31 iss
      (u.fab.slot b = none → exec (.pavaneActivate iss b fig at_) s = .next (complete iss 0x31 (.of stBadArg) (takeStarted iss s))) ∧
      (∀ p, u.fab.slot b = some p →
        ((p.stepSet fig = none ∨ ¬ (at_ % periodUnits = 0 ∧ u.now + nsUnits 1000000 ≤ at_)) →
          exec (.pavaneActivate iss b fig at_) s = .next (complete iss 0x31 (.of stBadArg) (takeStarted iss s))) ∧
        (p.stepSet fig ≠ none → at_ % periodUnits = 0 → u.now + nsUnits 1000000 ≤ at_ →
          exec (.pavaneActivate iss b fig at_) s = .next (
            if u.fab.activation = none ∧ u.mayActivate p fig = true then
              complete iss 0x31 (.of stDeferred) { u with fab := { u.fab with activation := some ⟨b, fig, at_, iss⟩ } }
            else complete iss 0x31 (.of stConflict) (takeStarted iss s))))) ∧
    (∀ fig at_ : Nat, s.accepts 0x32 iss = true →
      let u := s.begun 0x32 iss
      (u.image = none → exec (.figureSwitch iss fig at_) s = .next (complete iss 0x32 (.of stConflict) (takeStarted iss s))) ∧
      (∀ p, u.image = some p → u.fab.activation = none → u.fab.switch = none → u.fab.drain = none →
        (¬ (at_ % periodUnits = 0 ∧ u.now + nsUnits 1000000 ≤ at_) →
          exec (.figureSwitch iss fig at_) s = .next (complete iss 0x32 (.of stBadArg) (takeStarted iss s))) ∧
        (p.stepSet fig ≠ none → at_ % periodUnits = 0 → u.now + nsUnits 1000000 ≤ at_ →
          u.towersAllow p = true → u.cellsAllow p fig = true → u.testAllows p [fig] = true →
          exec (.figureSwitch iss fig at_) s = .next (complete iss 0x32 (.of stDeferred) { u with fab := { u.fab with
            switch := some ⟨u.fab.active.getD false, fig, at_, iss⟩, figAt := hallOf at_ } })))) ∧
    (s.accepts 0x33 iss = true →
      let u := s.begun 0x33 iss
      exec (.pavaneClear iss b) s = .next (
        if u.slotFree b = true then complete iss 0x33 (.of stOk) { u with fab :=
          if b = true then { u.fab with slotB := none } else { u.fab with slotA := none } }
        else complete iss 0x33 (.of stConflict) (takeStarted iss s)))) ∧
  (∀ s : State,
    (s.fab.load = [] → exec .pavaneLoadComplete s = .next s) ∧
    (∀ x rest, s.fab.load = x :: rest → s.slotFree x.slotB = true →
      x.image.bytes + s.fab.slotBytes (!x.slotB) ≤ imageMax →
      exec .pavaneLoadComplete s = .next (complete x.issuer 0x30 (.of stOk) { s with fab :=
        if x.slotB = true then { s.fab with load := rest, slotB := some x.image }
        else { s.fab with load := rest, slotA := some x.image } }))) ∧
  (∀ (s : State) (a p : Nat), s.fab.drain = some (a, p) →
    let olds := (s.fab.held.filter (·.oldSet)).length
    let again := s.rm.reqs.filter (fun r => r.open_ && decide (r.dst ≠ s.chipId) && r.sent.any (fun t => decide (t < p * periodUnits)))
    (s.now / periodUnits ≤ p → exec .drainPeriodEnd s = .next s) ∧
    (p < s.now / periodUnits → ∃ v, exec .drainPeriodEnd s = .next (retryParts v) ∧ v = { s with fab := v.fab, rm := v.rm } ∧
      v.fab = { s.fab with
        drain := none, oldDrops := satAdd s.fab.oldDrops olds, held := s.fab.held.filter (fun h => !h.oldSet) } ∧
      (again = [] → v.rm = s.rm) ∧
      (∀ r, again = [r] → (∀ n, r.owner ≠ .line n) → v.rm.outbox = s.rm.outbox ++ [r.record s.chipId true] ∧
        v.rm.regs.retx = satInc s.rm.regs.retx)))

/-- An accepted BE_SEND with arguments in range, to another chip that has a route, puts one best-effort cell of 64 +
LENGTH bytes at the end of the route's queue when R385 admits it, yellow when the meter of a lease says so,
debiting the meter; a cell that wakes an empty queue gets the finish tag V + ceil(length x 65536 / WEIGHT). A
red cell, and one that is not admitted, is refused with ST_NO_RESOURCE and counted; a chip without a route, and
for a lease a queue outside QMASK, is ST_BAD_ARGUMENT with no other effect. BE_DECISION takes a refill that is
due, then sends the head of the eligible queue with the smallest finish tag (ties to the lowest queue) in its
Step: V, SENT and the tokens of a shaper follow; with no Step to decide nothing is sent. After it, queues that
woke in its BCLK take their tags anew and received cells that are ready are routed; with neither nothing more
changes. TOKEN_REFILL at a new microsecond first takes the staged values, then adds, capped at the burst. -/
def Obligations.BestEffortCellsAreSentAndScheduled : Prop :=

  (∀ (s : State) (iss : Issuer) (a : BeArgs), s.accepts 0x10 iss = true →
    let u := s.begun 0x10 iss
    let m := iss.lease
    let b := (64 + a.len) * 256
    let r := if m = 0 then (if a.colour = 1 then Colour.yellow else Colour.green, 0, 0) else (u.meter m).colour b (decide (a.colour = 1))
    let named : Prop := a.queue < 8 ∧ a.colour < 2 ∧ a.len ≤ 2752 ∧ a.dstLease < 4096 ∧ a.dstChip < 65536 ∧
      (iss.isLease = true → (u.meter m).qmask.getLsbD a.queue = true)
    (iss.isLease = true → (u.meter m).qmask.getLsbD a.queue = false →
      exec (.beSend iss a) s = .next (complete iss 0x10 (.of stBadArg) (takeStarted iss s))) ∧
    (named → a.dstChip ≠ u.chipId →
      (u.beRoute a.dstChip = none → exec (.beSend iss a) s = .next (complete iss 0x10 (.of stBadArg) (takeStarted iss s))) ∧
      (∀ n, u.beRoute a.dstChip = some n →
        (r.1 = .red → ∃ v, exec (.beSend iss a) s = .next (complete iss 0x10 (.of stNoResource) v) ∧
          v = { takeStarted iss s with be := v.be, cnt := v.cnt, host := v.host, out := v.out } ∧ v.be.queues = u.be.queues ∧
          v.meter m = { u.meter m with red := satInc (u.meter m).red }) ∧
        (r.1 ≠ .red → u.admits n a.queue (if r.1 = .yellow then 1 else 0) = false →
          ∃ v, exec (.beSend iss a) s = .next (complete iss 0x10 (.of stNoResource) v) ∧ v = { takeStarted iss s with be := v.be } ∧
          v.beQueue n a.queue = { u.beQueue n a.queue with drops := satInc (u.beQueue n a.queue).drops }) ∧
        (r.1 ≠ .red → u.admits n a.queue (if r.1 = .yellow then 1 else 0) = true →
          ∃ v c, exec (.beSend iss a) s = .next (complete iss 0x10 (.of stOk) v) ∧ v = { u with be := v.be, free := u.free + 1 } ∧
          c.type = 6 ∧ c.flow = 0xFFFF ∧ c.dst = a.dstChip ∧ c.src = u.chipId ∧ c.seq = 0 ∧ c.length = 64 + a.len ∧
          v.beQueue n a.queue = { u.beQueue n a.queue with
            cells := (u.beQueue n a.queue).cells ++ [⟨c, u.now⟩]
            finish := if (u.beQueue n a.queue).cells = [] then u.vtime n +
                BitVec.ofNat 64 (((64 + a.len) * 65536 + (u.beQueue n a.queue).weight.toNat - 1) / (u.beQueue n a.queue).weight.toNat)
              else (u.beQueue n a.queue).finish } ∧
          (m ≠ 0 → (v.meter m).tc = r.2.1 ∧ (v.meter m).tp = r.2.2))))) ∧
  (∀ (s : State) (n : Fin 64),
    let w := tokenRefill s
    let after (v : State) : State := routeReady ((w.wokenNow n).foldl (rewake n) v)
    (w.decisionStep n = none → exec (.beDecision n) s = .next (after w)) ∧
    (∀ k q h rest, w.decisionStep n = some k →
      (w.beQueue n q).cells = h :: rest → q < 8 → (w.beQueue n q).eligible w.now = true →
      (∀ p, p < 8 → (w.beQueue n p).eligible w.now = true →
        vAfter (w.beQueue n p).finish (w.beQueue n q).finish = true ∨ ((w.beQueue n p).finish = (w.beQueue n q).finish ∧ q ≤ p)) →
      ∃ v, exec (.beDecision n) s = .next (after v) ∧
        v = { w with be := v.be, cnt := v.cnt, dsp := v.dsp, host := v.host, out := v.out, free := w.free + 1 } ∧
        (v.beQueue n q).cells = rest ∧ (v.beQueue n q).sent = satInc (w.beQueue n q).sent ∧
        (v.beQueue n q).tokens = (if (w.beQueue n q).shapeOn = true then (w.beQueue n q).tokens - (h.cell.length * 256 : Nat)
          else (w.beQueue n q).tokens) ∧
        v.be.picked.get [] n = w.be.picked.get [] n ++ [(k, h.cell)] ∧ v.be.decided.get 0 n = k + 1 ∧
        v.vtime n = (if vAfter (w.beQueue n q).finish (w.vtime n) = true then (w.beQueue n q).finish else w.vtime n)) ∧
    (∀ v, v.be.transit = [] → w.wokenNow n = [] → after v = v)) ∧
  (∀ s : State,
    let us := s.now / nsUnits 1000
    (us ≤ s.be.lastRefill → exec .tokenRefill s = .next s) ∧
    (s.be.lastRefill < us → ∃ v, exec .tokenRefill s = .next v ∧ v = { s with be := v.be } ∧ v.be.lastRefill = us ∧
      v.be.queues = s.be.queues.modifyAll BeQueue.reset s.be.queues.keys (fun _ u => { u with
        shapeOn := u.shapeEn, rateNow := u.rate, burstNow := u.burst
        tokens := if u.shapeEn = true then min (u.tokens + u.rate.toNat) (u.burst.toNat * 256 : Nat) else u.tokens }) ∧
      v.be.meters = s.be.meters.modifyAll Meter.reset s.be.meters.keys (fun _ m => { m with
        modeNow := m.mode, cirNow := m.cir, cbsNow := m.cbs, pirNow := m.pir, pbsNow := m.pbs
        tc := min (m.tc + m.cir.toNat) (m.cbs.toNat * 256), tp := min (m.tp + m.pir.toNat) (m.pbs.toNat * 256) })))

/-- An accepted RMEM_OP to which a row of Table 12.2 applies completes with that row's status. One that may go at
once, to another chip, gets a tag whose generation it raises, stays outstanding, and its request record waits
for its flow; the command stays in progress. RMEM_FENCE with no write of the host outstanding completes at once,
with ST_OK or the status of the one write since the fence before that failed; otherwise it waits for those
writes. RMEM_RETRANSMIT, at 1, 2 and 3 ms after the first transmission, sends the request again, marked, and
counts it. RMEM_TIMEOUT at 6 ms counts it, quarantines the target for the issuing job, ends the request with
ST_TARGET_LOST for its owner, and frees what waited for it. RMEM_ACK_SEND, 1.5 ms after the last transmission of
a replied write, sends its acknowledgement and lets its tag rest. None acts before its time. -/
def Obligations.RemoteRequestsAreIssuedAndEnd : Prop :=

  (∀ (s : State) (iss : Issuer) (op : Nat) (addr operand swap : DWord), s.accepts 0x11 iss = true →
    let u := s.begun 0x11 iss
    (∀ st, u.rmRefusal 0 (op % 16) addr = some st →
      exec (.rmemOp iss op addr operand swap) s =
        .next (complete iss 0x11 (.of st) (if refusedStatus st = true then takeStarted iss s else u))) ∧
    (∀ t, u.rmRefusal 0 (op % 16) addr = none → u.rmVia addr ≠ u.chipId → u.freeTag 256 = some t →
      (∀ r ∈ u.rm.reqs, r.queued = false ∧ r.ctx ≠ 256) → u.rm.fences = [] →
      (u.rm.reqs.filter (fun r => r.open_)).length < 16384 →
      let g := ((u.rm.tag 256 t).gen + 1) % 16
      let r : RmRequest := ⟨u.rm.nextUid, false, 256, t, g, op % 16, addr, operand, swap, 0, 0, .host iss, u.rmVia addr,
        none, 0, 0, none, false, false⟩
      exec (.rmemOp iss op addr operand swap) s = .next { u with rm := { u.rm with
        nextUid := u.rm.nextUid + 1, reqs := u.rm.reqs ++ [r], outbox := u.rm.outbox ++ [r.record u.chipId false]
        tags := u.rm.tags.modify TagUse.reset (256 * 4096 + t) (fun x => { x with gen := g, used := true }) } })) ∧
  (∀ (s : State) (iss : Issuer), s.accepts 0x12 iss = true →
    let u := s.begun 0x12 iss
    let ws := u.rm.reqs.filter (fun r => r.ctx == 256 && opWrites r.op && r.reply.isNone)
    (∀ f ∈ u.rm.fences, f.waits ≠ []) → (∀ r ∈ ws, r.dst = addrChip r.addr) →
    let f : RmFence := ⟨256, .host iss, u.rm.nextUid, ws.map (·.uid), (u.rm.badWrites.filter (·.1 == 256)).map (·.2)⟩
    let after (fs : List RmFence) : State := { u with rm := { u.rm with
      nextUid := u.rm.nextUid + 1, fences := fs, badWrites := u.rm.badWrites.filter (·.1 != 256) } }
    (ws = [] → exec (.rmemFence iss) s = .next (complete iss 0x12 (.of f.status) (after u.rm.fences))) ∧
    (f.bad = [] → f.status = stOk) ∧ (∀ uid st, f.bad = [(uid, st)] → f.status = st) ∧
    (ws ≠ [] → exec (.rmemFence iss) s = .next (after (u.rm.fences ++ [f])))) ∧
  (∀ (s : State) (ctx tag : Nat),
    (∀ r t, s.rm.reqs.find? (fun r => r.ctx == ctx && r.tag == tag && r.open_) = some r → r.sent = some t →
      (r.tries < 3 → t + nsUnits ((r.tries + 1) * 1000000) ≤ s.now → r.dst ≠ s.chipId → (∀ n, r.owner ≠ .line n) →
        exec (.rmemRetransmit ctx tag) s = .next { s with rm := { s.rm with
          reqs := s.rm.reqs.map (fun x => if x.uid = r.uid then { r with tries := r.tries + 1 } else x)
          outbox := s.rm.outbox ++ [r.record s.chipId true]
          regs := { s.rm.regs with retx := satInc s.rm.regs.retx } } }) ∧
      (¬ (r.tries < 3 ∧ t + nsUnits ((r.tries + 1) * 1000000) ≤ s.now) → exec (.rmemRetransmit ctx tag) s = .next s) ∧
      (s.now < t + nsUnits 6000000 → exec (.rmemTimeout ctx tag) s = .next s) ∧
      (t + nsUnits 6000000 ≤ s.now → (∀ n, r.owner ≠ .line n) → r.op ≠ 16 →
        ∃ v, exec (.rmemTimeout ctx tag) s = .next v ∧ v.rm.regs = { s.rm.regs with timeouts := satInc s.rm.regs.timeouts } ∧
          v.rm.jobLost.contains (r.job, addrChip r.addr) = true ∧ (∀ x ∈ v.rm.reqs, x.uid ≠ r.uid) ∧
          v.rm.fences = (s.rm.fences.map (RmFence.settle r.uid stTargetLost)).filter (fun f => !f.waits.isEmpty))) ∧
    (∀ r, s.rm.reqs.find? (fun r => r.ctx == ctx && r.tag == tag && r.ackDue) = some r →
      (s.now < r.lastTx + nsUnits 1500000 → exec (.rmemAckSend ctx tag) s = .next s) ∧
      (r.lastTx + nsUnits 1500000 ≤ s.now → r.dst ≠ s.chipId →
        exec (.rmemAckSend ctx tag) s = .next { s with rm := { s.rm with
          reqs := s.rm.reqs.filter (fun x => x.uid != r.uid)
          outbox := s.rm.outbox ++ [r.ack s.chipId]
          tags := s.rm.tags.modify TagUse.reset (r.ctx * 4096 + r.tag) (fun x => { x with used := false }) } })))

/-- RMEM_REQUEST_APPLY takes the first record that may go. One for a gated domain wakes it and waits. With no replay
record of its source, context and tag: one that a row of Table 12.4 refuses is answered with that status; a load
of a word that is not poisoned is answered with the word; a store, or an atomic on a Spire's store, writes the
word, keeps a replay record and answers; an atomic on a stack reads its word in its first slot, waits, and
writes and answers in its second; ST_OK in each case, after 256 BCLK. A poisoned word answers ST_UNUSABLE and is
counted. REPLAY_RECORD_EXPIRY drops a record 8 ms after its last reply and counts it. STAGING_LINE_TRANSFER of a
due store line sends it to its far chip in two DATA cells as one store request; STAGING_WAIT_TIMEOUT answers
ST_NO_RESOURCE to a request that has waited 1 ms for a line. Nothing happens before its time. -/
def Obligations.TargetsAndGatewaysServe : Prop :=

  (∀ s : State,
    (s.nextRecord s.rm.inbox [] = none → exec .rmemRequestApply s = .next s) ∧
    (∀ r, s.nextRecord s.rm.inbox [] = some r →
      let s0 : State := { s with rm := { s.rm with inbox := s.rm.inbox.erase r } }
      let ans (t : State) (st : Nat) (data : DWord) : State := { t with rm := { t.rm with
        outbox := t.rm.outbox ++ [replyRecord s.chipId s.rm.regs.incarnation.toNat r st data false (s.now + 256 * s.time.incr)] } }
      (∀ d, s.addrDomain r.addr = some d → s.domainOn d = false → exec .rmemRequestApply s = .next { s with pwr := { s.pwr with
        waking := if (s.pwr.domains.getLsbD d || s.pwr.waking.getLsbD d) = true then s.pwr.waking
          else s.pwr.waking ||| BitVec.twoPow 30 d } }) ∧
      ((∀ d, s.addrDomain r.addr = some d → s.domainOn d = true) → r.src ≠ s.chipId →
        let u := useSlot r s0
        let m := (s.rmMem r.addr).1
        let o := (s.rmMem r.addr).2
        let written (old : Nat) (v : State) : Prop :=
          let back : DWord := if opAtomic r.op = true then BitVec.ofNat 64 old else 0
          v.rm = { (ans u stOk back).rm with
            replay := s.rm.replay ++ [⟨r.src, r.ctx, r.tag, r.gen, stOk, back, opAtomic r.op, s.now⟩] } ∧
          (addrSpire r.addr = true → v.hbm = s.hbm ∧ (v.spire (addrStore r.addr).1).store =
            m.writeLE o (opBytes r.op) (opResult r.op old r.operand.toNat r.swap.toNat)) ∧
          (addrSpire r.addr = false → v.spires = s.spires ∧ (v.stack (s.tile (addrTile r.addr).1).stack.toNat).mem =
            m.writeLE o (opBytes r.op) (opResult r.op old r.operand.toNat r.swap.toNat))
        (r.mid = none → s.rm.match_ r = .none_ →
          (∀ st, s0.targetRefusal r = some st → st ≠ stNoResource → exec .rmemRequestApply s = .next (ans s0 st 0)) ∧
          (s0.targetRefusal r = none → r.kind = 1 → r.ctx < 8192 →
            let old := m.readLE o (opBytes r.op)
            (m.poisonedAt o = true → ∃ v, exec .rmemRequestApply s = .next v ∧ v.rm = (ans u stUnusable 0).rm ∧
              v.rel.counters.poisonConsumed = satAdd s.rel.counters.poisonConsumed 1 ∧ v = { s with rm := v.rm, rel := v.rel }) ∧
            (m.poisonedAt o = false → opWrites r.op = false →
              exec .rmemRequestApply s = .next (ans u stOk (BitVec.ofNat 64 old))) ∧
            (m.poisonedAt o = false → opAtomic r.op = true → addrSpire r.addr = false →
              exec .rmemRequestApply s = .next { u with rm := { u.rm with
                inbox := { r with mid := some (BitVec.ofNat 64 old) } :: u.rm.inbox } }) ∧
            (m.poisonedAt o = false → opWrites r.op = true → (opAtomic r.op = false ∨ addrSpire r.addr = true) →
              ∃ v, exec .rmemRequestApply s = .next v ∧ written old v))) ∧
        (∀ w, r.mid = some w → opWrites r.op = true → ∃ v, exec .rmemRequestApply s = .next v ∧ written w.toNat v)))) ∧
  (∀ s : State,
    ((∀ p ∈ s.rm.replay, s.now < p.last + nsUnits 8000000) → exec .replayRecordExpiry s = .next s) ∧
    (∀ p, s.rm.replay.find? (fun p => decide (p.last + nsUnits 8000000 ≤ s.now)) = some p →
      exec .replayRecordExpiry s = .next { s with rm := { s.rm with
        replay := s.rm.replay.erase p, regs := { s.rm.regs with releasedUnacked := satInc s.rm.regs.releasedUnacked } } }) ∧
    ((∀ r ∈ s.rm.waiting, s.now < r.ready + nsUnits 1000000) → exec .stagingWaitTimeout s = .next s) ∧
    (∀ r, s.rm.waiting.find? (fun r => decide (r.ready + nsUnits 1000000 ≤ s.now)) = some r →
      exec .stagingWaitTimeout s = .next { s with rm := { s.rm with
        waiting := s.rm.waiting.erase r
        outbox := s.rm.outbox ++ [replyRecord s.chipId s.rm.regs.incarnation.toNat r stNoResource 0 false (s.now + 256 * s.time.incr)] } })) ∧
  (∀ (s : State) (n : Fin 8192),
    let l := s.line n
    (s.lineDue l = false → exec (.stagingLineTransfer n) s = .next s) ∧
    (∀ t, s.lineDue l = true → (∀ r ∈ s.rm.reqs, r.queued = false ∧ r.ctx ≠ lineCtx n) → s.rm.fences = [] →
      (s.rm.reqs.filter (fun r => r.open_)).length < 16384 → s.freeTag (lineCtx n) = some t →
      ∃ v r c d, exec (.stagingLineTransfer n) s = .next v ∧ v = { s with rm := v.rm } ∧ v.line n = { l with moving := true } ∧
        v.rm.reqs = s.rm.reqs ++ [r] ∧ r.op = 3 ∧ r.tag = t ∧ r.dst = l.far ∧ r.addr = l.block ∧ r.owner = .line n ∧ r.queued = false ∧
        v.rm.cells = s.rm.cells ++ [c, d] ∧ c.type = 1 ∧ d.type = 1 ∧ c.dst = l.far ∧ d.dst = l.far ∧
        c.payload.take 2048 = l.data.readBytes 0 2048 ∧ d.payload.take 2048 = l.data.readBytes 2048 2048))

/-- JOB_SUBMIT of tiles that are the issuer's, in HBM and pinned, whose image has no poisoned word and passes the
checks of Table 13.4, puts a job at the end of the queue, answers ST_OK with its JOB_ID, and the next JOB_ID
follows (after FFFF_FFFFH comes 1); an image that fails a check, a tile that is not the issuer's, and one that
is not pinned in HBM are refused with that check's status and no other effect. PLACEMENT does nothing on an
empty queue or if the choice of R447 gives the head no Spires; a lone head that gets Spires runs on them: each
is LOADING with status ST_OK (where it is in service) and the job's number, its counters and the bytes of its
job part zeroed, the rest of its store kept. JOB_COMPLETION of a running job whose Spires have all left it takes
it from the running jobs and, with its pair enabled and its lease not in reset, appends its record to the pair's
completion ring; before that nothing happens. JOB_CANCEL of a queued job of the issuer removes it and records
ST_PREEMPTED; of a running one ends it with ST_PREEMPTED unless all ranks have issued END; of any other answers
ST_STATE_CONFLICT. -/
def Obligations.JobsAreSubmittedPlacedAndEnd : Prop :=

  (∀ (s : State) (iss : Issuer) (first tiles user : Nat), s.accepts 0x20 iss = true →
    let u := s.begun 0x20 iss
    let l := tileRange first tiles
    let n := bytesLE (u.runRead first 0 (tiles + 1) jobHeadBytes) 0x10 4
    let bytes := u.runRead first 0 (tiles + 1) n
    rangeOk first tiles 128 = true →
    ((∃ t ∈ l, u.imageTile iss t = false) → exec (.jobSubmit iss first tiles user) s = .next (complete iss 0x20 (.of stBadArg) (takeStarted iss s))) ∧
    ((∀ t ∈ l, u.imageTile iss t = true) → (∃ t ∈ l, (u.tile t).inHbm = false ∨ (u.tile t).pin = 0) →
      exec (.jobSubmit iss first tiles user) s = .next (complete iss 0x20 (.of stConflict) (takeStarted iss s))) ∧
    ((∀ t ∈ l, u.imageTile iss t = true ∧ (u.tile t).inHbm = true ∧ (u.tile t).pin ≠ 0) →
      n ≤ tiles * 262144 → n ≤ jobImageMax → u.runPoisoned first 0 (tiles + 1) (max n jobHeadBytes) = false →
      (∀ st, u.jobRefusal iss.lease bytes = some st → exec (.jobSubmit iss first tiles user) s = .next (complete iss 0x20 (.of st) (takeStarted iss s))) ∧
      (u.jobRefusal iss.lease bytes = none → ∃ j : Job,
        exec (.jobSubmit iss first tiles user) s = .next (complete iss 0x20 ⟨stOk, u.dsp.nextId.toNat, 0⟩ { u with dsp := { u.dsp with
          queue := u.dsp.queue ++ [j], nextId := if u.dsp.nextId = 0xFFFFFFFF then 1 else u.dsp.nextId + 1 } }) ∧
        j.id = u.dsp.nextId.toNat ∧ j.lease = iss.lease ∧ j.image = readJobImage bytes ∧ j.first = first ∧ j.tiles = tiles ∧
        j.user = BitVec.ofNat 32 user ∧ j.phase = .queued ∧ j.spires = [] ∧ j.abnormal = none))) ∧
  (∀ s : State,
    (s.dsp.queue = [] → exec .placement s = .next s) ∧
    (∀ j rest, s.dsp.queue = j :: rest → choosePlaces j.image.spires (s.eligible j) = none → exec .placement s = .next s) ∧
    (∀ j ks, s.dsp.queue = [j] → choosePlaces j.image.spires (s.eligible j) = some ks →
      ∃ v, exec .placement s = .next v ∧ v = { s with dsp := v.dsp, spires := v.spires } ∧
        v.dsp = { s.dsp with queue := [], running := s.dsp.running ++ [{ j with phase := .loading, spires := ks }] } ∧
        ∀ k, (k ∉ ks → v.spire k = s.spire k) ∧
          (k ∈ ks → (v.spire k).seq.mode = .loading ∧ (v.spire k).ctx = .job j.id ∧ (v.spire k).cnt.pmc = Tab.empty ∧
            (s.inService k = true → (v.spire k).seq.status = BitVec.ofNat 8 stOk) ∧
            ∀ b, (v.spire k).store.read8 b = if b < s.jobPart k then Mem.blank else (s.spire k).store.read8 b))) ∧
  (∀ (s : State) (id : Nat),
    (s.job id = none → exec (.jobCompletion id) s = .next s) ∧
    (∀ j, s.job id = some j → (∃ k ∈ j.spires, s.leftBy id k = false) → exec (.jobCompletion id) s = .next s) ∧
    (∀ j, s.job id = some j → j.phase ≠ .queued → j.spires ≠ [] → (∀ k ∈ j.spires, s.leftBy id k = true) →
      ∃ v, exec (.jobCompletion id) s = .next v ∧ v.dsp = { s.dsp with running := s.dsp.running.filter (fun x => x.id != id) } ∧
        v.rm.jobLost = s.rm.jobLost.filter (fun p => p.1 != id) ∧ v.spires = s.spires ∧ v.hbm = s.hbm ∧
        (j.silent = true ∨ (s.pair j.func j.qp).enable = false → v.host = s.host) ∧
        (j.silent = false → (s.pair j.func j.qp).enable = true →
          (v.pair j.func j.qp).waiting = (s.pair j.func j.qp).waiting ++ [jobRecord (s.pair j.func j.qp).sqHead.toNat j.outcome.1 j.outcome.2.1
            j.outcome.2.2.1 j.outcome.2.2.2 j (s.jobPlanTime j)]))) ∧
  (∀ (s : State) (iss : Issuer) (id : Nat), s.accepts 0x21 iss = true →
    let u := s.begun 0x21 iss
    (∀ j, u.dsp.queue.find? (fun j => j.id == id && iss.mayCancel j) = some j →
      exec (.jobCancel iss id) s = .next (complete iss 0x21 (.of stOk) (recordJob stPreempted 0 0xFF 0 j
        { u with dsp := { u.dsp with queue := u.dsp.queue.filter (fun x => x.id != id) } }))) ∧
    (u.dsp.queue.find? (fun j => j.id == id && iss.mayCancel j) = none →
      (∀ j, u.dsp.running.find? (fun j => j.id == id && iss.mayCancel j) = some j →
        (j.allEnded = true → exec (.jobCancel iss id) s = .next (complete iss 0x21 (.of stOk) u)) ∧
        (j.allEnded = false → exec (.jobCancel iss id) s = .next (complete iss 0x21 (.of stOk) (endJob j.id stPreempted 0 0 noSpire u)))) ∧
      (u.dsp.running.find? (fun j => j.id == id && iss.mayCancel j) = none →
        exec (.jobCancel iss id) s = .next (complete iss 0x21 (.of stConflict) (takeStarted iss s)))))

/-- DSP_RECLAIM_MASK_WRITE by the Dome that takes no Spire is done at once, its mask not taken, with doorbell 6; one
that names a single takeable IDLE Spire outside a radio window takes it, marks it reclaimed and starts its
switch; no other MID has an effect. RECLAIM_DONE sets its bit and doorbell 6 once every Spire taken has entered
or was in a window, else does nothing. LOG_START with good arguments on 16 pinned HBM tiles of lease 0 zeroes
bitmap A, makes it active and logs from then on; LOG_FLIP zeroes the inactive bitmap and makes it active;
LOG_STOP ends logging; each is refused with ST_STATE_CONFLICT with no other effect where logging is on, or off,
against it. LEASE_RESET, a function-level reset or ENABLE written from 1 to 0, drops the lease's started
commands but those of the tier engine, and its queued jobs, silences its running jobs and ends them, unless one
runs; LEASE_RESET_COMPLETE, once none of its jobs and commands is left, stops its logging, empties the channels
it receives, resets its page and ends the reset. -/
def Obligations.ReclaimLogsAndLeaseResets : Prop :=

  (∀ (s : State) (mask : Word), s.serves 0x50024 = true →
    (∀ mid : Nat, mid ≠ 0 → exec (.dspReclaimMaskWrite mid mask) s = .next s) ∧
    ((∀ k, k < 32 → bitAt mask.toNat k = true → (s.spire k).seq.reclaim = false ∧ s.takeable k = false) →
      ∃ v, exec (.dspReclaimMaskWrite 0 mask) s = .next v ∧ v = { s with dsp := v.dsp, dome := v.dome } ∧
        v.dsp.reclaimDone = true ∧ v.dsp.taken = 0 ∧ v.dome.dbStatus = s.dome.dbStatus ||| BitVec.twoPow 32 6) ∧
    (∀ k : Fin 32, mask = BitVec.twoPow 32 k → s.takeable k = true → (s.spire k).seq.reclaim = false → (s.spire k).seq.window = false →
      (s.spire k).seq.mode = .idle →
      ∃ v, exec (.dspReclaimMaskWrite 0 mask) s = .next v ∧ v = { s with dsp := v.dsp, spires := v.spires } ∧
        v.dsp.reclaimDone = false ∧ v.dsp.taken = mask ∧ v.dsp.notTaken = 0 ∧
        (v.spire k).seq = { (s.spire k).seq with reclaim := true } ∧ (v.spire k).vu.phase = .switching (s.cyc + switchLen) true ∧
        ∀ j : Nat, j ≠ k → v.spire j = s.spire j)) ∧
  (∀ s : State,
    (s.dsp.reclaimDone = false → s.dsp.taken ≠ 0 → s.dsp.taken &&& ~~~(s.dsp.entered ||| s.dsp.windowed) = 0 → exec .reclaimDone s =
      .next { s with dsp := { s.dsp with reclaimDone := true }, dome := { s.dome with dbStatus := s.dome.dbStatus ||| BitVec.twoPow 32 6, dbSetAt := s.dome.dbSetAt.set 0 6 (s.bclkTick + 1) } }) ∧
    (s.dsp.reclaimDone = true ∨ s.dsp.taken = 0 ∨ s.dsp.taken &&& ~~~(s.dsp.entered ||| s.dsp.windowed) ≠ 0 → exec .reclaimDone s = .next s)) ∧
  (∀ (s : State) (iss : Issuer) (lease tile iova pages : Nat),
    let zeroed (u v : State) (first : Nat) : Prop := ∀ t ∈ tileRange first 8, (u.tile t).inHbm = true → ∀ i, i < tileBytes →
      (v.stack (u.tile t).stack.toNat).mem.read8 ((u.tile t).place.toNat * tileBytes + i) = Mem.blank
    (s.accepts 0x22 iss = true →
      let u := s.begun 0x22 iss
      1 ≤ lease → lease ≤ 4095 → 1 ≤ pages → pages ≤ 16777216 → iova < 2 ^ 52 → rangeOk tile 16 16 = true →
      (∀ t ∈ tileRange tile 16, (u.tile t).lease = 0 ∧ (u.tile t).radio = false) →
      ((u.leaseOf lease).log.on = true → exec (.logStart iss lease tile iova pages) s = .next (complete iss 0x22 (.of stConflict) (takeStarted iss s))) ∧
      ((u.leaseOf lease).log.on = false → (∀ t ∈ tileRange tile 16, (u.tile t).inHbm = true ∧ (u.tile t).pin ≠ 0) →
        ∃ v, exec (.logStart iss lease tile iova pages) s = .next (complete iss 0x22 (.of stOk) v) ∧ v = { u with hbm := v.hbm, leases := v.leases } ∧
          zeroed u v tile ∧ (v.leaseOf lease).log = { (u.leaseOf lease).log with
            on := true, activeB := false, pages := BitVec.ofNat 25 pages, iova := BitVec.ofNat 52 iova, tile := BitVec.ofNat 24 tile })) ∧
    (s.accepts 0x23 iss = true →
      let u := s.begun 0x23 iss
      let l := (u.leaseOf lease).log
      (l.on = false ∨ l.flipping = true → exec (.logFlip iss lease) s = .next (complete iss 0x23 (.of stConflict) (takeStarted iss s))) ∧
      (l.on = true → l.flipping = false →
        ∃ v, exec (.logFlip iss lease) s = .next (complete iss 0x23 (.of stOk) v) ∧ v = { u with hbm := v.hbm, leases := v.leases } ∧
          zeroed u v (l.tile.toNat + (if l.activeB = true then 0 else 8)) ∧ (v.leaseOf lease).log = { l with activeB := !l.activeB })) ∧
    (s.accepts 0x24 iss = true →
      let u := s.begun 0x24 iss
      let l := (u.leaseOf lease).log
      (l.on = false ∨ l.flipping = true → exec (.logStop iss lease) s = .next (complete iss 0x24 (.of stConflict) (takeStarted iss s))) ∧
      (l.on = true → l.flipping = false → ∃ v, exec (.logStop iss lease) s = .next (complete iss 0x24 (.of stOk) v) ∧
        v = { u with leases := v.leases } ∧ (v.leaseOf lease).log = { l with on := false } ∧ ∀ m, m ≠ lease → v.leaseOf m = u.leaseOf m))) ∧
  (∀ (s : State) (i : Fin 4096) (flr : Bool),
    let n := i.val
    (n = 0 ∨ (s.leaseOf n).resetting = true ∧ flr = true ∨ flr = false ∧ (s.leaseOf n).enable = false →
      exec (.leaseReset i flr) s = .next s) ∧
    (n ≠ 0 → (s.leaseOf n).resetting = false → (flr = true ∨ (s.leaseOf n).enable = true) →
      ∃ v w : State, exec (.leaseReset i flr) s = .next v ∧ v = (w.dsp.running.filter (fun j => j.lease == n)).foldl (fun t j => preemptJob j t) w ∧
        w = { s with leases := w.leases, dsp := w.dsp, started := w.started } ∧
        w.leaseOf n = { s.leaseOf n with resetting := true, enable := if flr = true then (s.leaseOf n).enable else false } ∧
        (∀ m, m ≠ n → w.leaseOf m = s.leaseOf m) ∧ w.dsp.queue = s.dsp.queue.filter (fun j => j.lease != n) ∧
        w.dsp.running = s.dsp.running.map (fun j => if j.lease = n then { j with silent := true } else j) ∧
        ∀ c ∈ w.started, c ∈ s.started ∧ ((issuerOf c).map (·.lease) ≠ some n ∨ isTier c = true))) ∧
  (∀ (s : State) (i : Fin 4096),
    let n := i.val
    ((s.leaseOf n).resetting = false ∨ (∃ j ∈ s.dsp.running, j.lease = n) ∨ (∃ c ∈ s.started, (issuerOf c).map (·.lease) = some n) →
      exec (.leaseResetComplete i) s = .next s) ∧
    ((s.leaseOf n).resetting = true → (∀ j ∈ s.dsp.running, j.lease ≠ n) → (∀ c ∈ s.started, (issuerOf c).map (·.lease) ≠ some n) →
      ∃ v, exec (.leaseResetComplete i) s = .next v ∧ v.func n = Func.reset ∧
        v.leaseOf n = { s.leaseOf n with resetting := false, log := { (s.leaseOf n).log with on := false } } ∧
        (∀ m, m ≠ n → v.leaseOf m = s.leaseOf m) ∧ v.spires = s.spires ∧ v.hbm = s.hbm ∧ v.dsp = s.dsp ∧
        ∀ c, c < 64 → (v.channel c).fifo = if (s.channel c).receives (n + 1) = true then [] else (s.channel c).fifo))

/-- On a chip that is not in reset or off: a write of a ring register by the Dome, by no function, or by a lease in
reset has no effect. QP_CTRL_WRITE with ENABLE 1 on a disabled pair starts it with its pointers at 0, PHASE 1
and no ERROR, with ENABLE 0 disables it, and changes no other pair. SQ_TAIL_WRITE within the ring stores the
tail, as it does on a disabled pair, unless that was disabled in this BCLK; a lease's value at or above the size
or past the capacity sets ERROR and doorbell bit 31. SUBMISSION_FETCH of an entry that can start advances
SQ_HEAD, holds its CID in progress and starts its command; one whose opcode its issuer may not send, or with a
lease's reserved bits, is completed with ST_BAD_ARGUMENT; where nothing can start it does nothing.
COMPLETION_RECORD_WRITE of an enabled pair with a free slot writes the body and then the PHASE word of the
oldest record at the tail slot, advances the tail and, at the ring's end, turns PHASE. CQ_HEAD_WRITE and
BERX_HEAD_WRITE store the head and release the slots up to it. DB_MASK_WRITE stores the Dome's or the function's
mask. -/
def Obligations.QueuePairsRingsAndDoorbells : Prop :=

  (∀ (s : State) (mid : Nat) (qp : Fin 8) (v : Word), s.reachable = true →
    (s.ringsOpen mid = false → exec (.qpCtrlWrite mid qp v) s = .next s ∧ exec (.sqTailWrite mid qp v) s = .next s ∧
      exec (.cqHeadWrite mid qp v) s = .next s ∧ exec (.berxHeadWrite mid v) s = .next s ∧ (mid ≠ 0 → exec (.dbMaskWrite mid v) s = .next s)) ∧
    (s.ringsOpen mid = true →
      let f := mid - 1
      let p := s.pair f qp
      let x := v.toNat % 2 ^ 16
      (∃ t, exec (.qpCtrlWrite mid qp v) s = .next t ∧ t = { s with host := t.host } ∧
        (∀ m q, m ≠ f ∨ q ≠ qp.val → t.pair m q = s.pair m q) ∧
        (bitAt v.toNat 0 = false → t.pair f qp = { p with
          enable := false, offAt := if p.enable = true then s.bclkTick + 1 else p.offAt }) ∧
        (bitAt v.toNat 0 = true → p.enable = true → t.pair f qp = p) ∧
        (bitAt v.toNat 0 = true → p.enable = false → t.pair f qp = { p with
          enable := true, sqTail := 0, sqHead := 0, cqHead := 0, cqTail := 0, error := false, phase := true, inProgress := []
          waiting := [], used := 0 })) ∧
      (p.error = true → exec (.sqTailWrite mid qp v) s = .next s) ∧
      (p.error = false → p.enable = false → p.offAt = s.bclkTick + 1 → exec (.sqTailWrite mid qp v) s = .next s) ∧
      (p.error = false → (p.enable = false ∧ p.offAt ≠ s.bclkTick + 1 ∨ p.enable = true ∧ x < 2 ^ p.sqLog2.toNat ∧
          ringDist (2 ^ p.sqLog2.toNat) p.sqHead.toNat p.sqTail.toNat + ringDist (2 ^ p.sqLog2.toNat) p.sqTail.toNat x ≤ 2 ^ p.sqLog2.toNat - 1) →
        ∃ t, exec (.sqTailWrite mid qp v) s = .next t ∧ t = { s with host := t.host } ∧ t.pair f qp = { p with sqTail := BitVec.ofNat 16 x }) ∧
      (p.error = false → p.enable = true → f ≠ 0 → 2 ^ p.sqLog2.toNat ≤ x →
        ∃ t, exec (.sqTailWrite mid qp v) s = .next t ∧ t.pair f qp = { p with error := true } ∧
          (t.func f).dbStatus = (s.func f).dbStatus ||| BitVec.twoPow 32 31) ∧
      (∃ t, exec (.cqHeadWrite mid qp v) s = .next t ∧ t = { s with host := t.host } ∧ t.pair f qp = { p with
        cqHead := BitVec.ofNat 16 x, used := p.used - ringDist (2 ^ p.cqLog2.toNat) p.cqHead.toNat x }) ∧
      (let r := (s.func f).rx
       let gone := ringDist (2 ^ r.log2.toNat) r.head.toNat x
       r.error = false → r.enable = true → x < 2 ^ r.log2.toNat → gone ≤ r.used →
        ∃ t, exec (.berxHeadWrite mid v) s = .next t ∧ t = { s with host := t.host } ∧
          (t.func f).rx = { r with head := BitVec.ofNat 16 x, used := r.used - gone }) ∧
      ((∀ i, i < 32 → (s.func f).dbStatus.getLsbD i = true → v.getLsbD i = true) →
        exec (.dbMaskWrite mid v) s = .next (s.modFunc f (fun y => { y with dbMask := v }))))) ∧
  (∀ (s : State) (v : Word), s.reachable = true → exec (.dbMaskWrite 0 v) s = .next { s with dome := { s.dome with dbMask := v } }) ∧
  (∀ (s : State) (f : Fin 4096) (q : Fin 8) (entry data : List Byte),
    let p := s.pair f q
    let e := entry.take 64
    let iss : Issuer := .ring f q (bytesLE e 2 2)
    let s1 := s.modPair f q (fun y => { y with
      sqHead := BitVec.ofNat 16 ((y.sqHead.toNat + 1) % 2 ^ y.sqLog2.toNat), inProgress := y.inProgress ++ [bytesLE e 2 2] })
    (p.enable = false ∨ p.error = true ∨ p.sqHead = p.sqTail ∨ p.waiting ≠ [] → exec (.submissionFetch f q entry data) s = .next s) ∧
    (p.enable = true → p.error = false → p.sqHead ≠ p.sqTail → p.waiting = [] → p.used < 2 ^ p.cqLog2.toNat → e.length = 64 →
      (f.val ≠ 0 → (s.leaseOf f).resetting = false) → (bitAt (bytesLE e 1 1) 0 = true → p.inProgress = []) →
      (opcodeAllowed iss (bytesLE e 0 1) = false → exec (.submissionFetch f q entry data) s = .next (complete iss (bytesLE e 0 1) (.of stBadArg) s1)) ∧
      (opcodeAllowed iss (bytesLE e 0 1) = true → entryReservedOk e = false → f.val ≠ 0 →
        exec (.submissionFetch f q entry data) s = .next (complete iss (bytesLE e 0 1) (.of stBadArg) s1)) ∧
      (∀ c, opcodeAllowed iss (bytesLE e 0 1) = true → entryReservedOk e = true → entryCommand iss e data = some c →
        exec (.submissionFetch f q entry data) s = .next { s1 with started := s1.started ++ [c] }))) ∧
  (∀ (s : State) (f : Fin 4096) (q : Fin 8),
    let p := s.pair f q
    (p.waiting = [] ∨ p.enable = false ∨ 2 ^ p.cqLog2.toNat ≤ p.used → exec (.completionRecordWrite f q) s = .next s) ∧
    (∀ r rest, p.waiting = r :: rest → p.enable = true → p.used < 2 ^ p.cqLog2.toNat → (f.val = 0 ∨ (s.leaseOf f).log.on = false) →
      let a := p.cqBase.toNat + 64 * p.cqTail.toNat
      let next := (p.cqTail.toNat + 1) % 2 ^ p.cqLog2.toNat
      ∃ t l, exec (.completionRecordWrite f q) s = .next t ∧ t = { s with host := t.host, out := t.out, cnt := t.cnt } ∧
        t.pair f q = { p with waiting := rest, used := p.used + 1, cqTail := BitVec.ofNat 16 next, phase := if next = 0 then !p.phase else p.phase } ∧
        t.out = l ++ .hostWrite f (a + 60) (leBytes (b2n p.phase) 4) :: .hostWrite f a (leBytes r.body.toNat 60) :: s.out ∧
        (t.func f).dbStatus.getLsbD q = true))

/-- On a chip that is not in reset or off: MB_TX_WRITE by a channel's bound sender pushes the word at the FIFO's end
with the BCLK of the push, if fewer than 32 words wait, and a channel that the Dome receives counts it into a
message (the head word's low half gives the words that follow); on a full FIFO the word is dropped and OVERRUN
set, unless the receiver pops in the same BCLK: then the word enters after all. MB_RX_READ by the bound receiver
pops the oldest word from the second BCLK after its push on; a read of the register before gives that word.
MB_CTRL_WRITE by the sender clears OVERRUN where bit 1 is 1 and, with bit 0 set, waits for an empty FIFO: one
that is empty already raises the sender's doorbell bit 17 at once. MB_BIND_WRITE by the Dome before the lock
binds the channel, unless VALID is written with a MID above 4096 or two equal ones; MB_LOCK_WRITE by the Dome
before the lock writes the lock. A write by any other MID, and by the Dome after the lock, has no effect; no
channel but c changes. -/
def Obligations.MailboxChannelsPassWords : Prop :=

  (∀ (s : State) (mid : Nat) (c : Fin 64) (v : Word), s.reachable = true →
    let x := s.channel c
    let b := s.clock.tick / 2
    (x.sends mid = false ∨ s.midOpen mid = false → exec (.mbTxWrite mid c v) s = .next s ∧ exec (.mbCtrlWrite mid c v) s = .next s) ∧
    (x.sends mid = true → s.midOpen mid = true →
      (32 ≤ x.fifo.length → ∃ t, exec (.mbTxWrite mid c v) s = .next t ∧ t = { s with host := t.host } ∧
        t.channel c = { x with overrun := true, late := x.late.filter (fun l => l.2.1 == b) ++ [(v, b, x.overrun)] }) ∧
      (x.fifo.length < 32 → ∃ t, exec (.mbTxWrite mid c v) s = .next (messageWord c v t) ∧ t = { s with host := t.host, dome := t.dome, out := t.out } ∧
        t.channel c = { x with fifo := x.fifo ++ [(v, b)] } ∧ (∀ d, d ≠ c.val → t.channel d = s.channel d) ∧
        (x.receives 0 = false → messageWord c v t = t) ∧
        (x.receives 0 = true → 1 < x.left → messageWord c v t = t.modChannel c (fun y => { y with left := x.left - 1 })) ∧
        (x.receives 0 = true → x.left = 0 → v.toNat % 65536 ≠ 0 →
          messageWord c v t = t.modChannel c (fun y => { y with head := v, left := v.toNat % 65536 }))) ∧
      (∃ t, exec (.mbCtrlWrite mid c v) s = .next t ∧ t = { s with host := t.host, dome := t.dome, out := t.out } ∧
        t.channel c = { x with overrun := x.overrun && !bitAt v.toNat 1, drainIrq := bitAt v.toNat 0 && !x.fifo.isEmpty } ∧
        (bitAt v.toNat 0 = true → x.fifo = [] → 0 < x.sender.toNat → (t.func (x.sender.toNat - 1)).dbStatus.getLsbD 17 = true) ∧
        (bitAt v.toNat 0 = true → x.fifo = [] → x.sender.toNat = 0 → t.dome.dbStatus.getLsbD 17 = true)))) ∧
  (∀ (s : State) (mid : Nat) (c : Fin 64), s.reachable = true →
    let x := s.channel c
    let b := s.clock.tick / 2
    (x.fifo = [] ∨ x.receives mid = false → exec (.mbRxRead mid c) s = .next s) ∧
    (∀ v t rest, x.fifo = (v, t) :: rest → x.receives mid = true →
      (b < t + 2 → exec (.mbRxRead mid c) s = .next s ∧ s.rxWord mid c = 0) ∧
      (t + 2 ≤ b → s.rxWord mid c = v ∧
        (x.late.filter (fun l => l.2.1 == b) = [] → ∃ u, exec (.mbRxRead mid c) s = .next u ∧
          u = { s with host := u.host, dome := u.dome, out := u.out } ∧
          u.channel c = { x with fifo := rest, drainIrq := x.drainIrq && !rest.isEmpty } ∧ ∀ d, d ≠ c.val → u.channel d = s.channel d) ∧
        (∀ w a was more, x.late.filter (fun l => l.2.1 == b) = (w, a, was) :: more → x.receives 0 = false → ∃ u, exec (.mbRxRead mid c) s = .next u ∧
          u = { s with host := u.host } ∧
          u.channel c = { x with fifo := rest ++ [(w, b)], late := more, overrun := if more = [] then was else x.overrun } ∧
          ∀ d, d ≠ c.val → u.channel d = s.channel d)))) ∧
  (∀ (s : State) (mid : Nat) (c : Fin 64) (v : Word), s.reachable = true →
    let a := (v.extractLsb' 16 13)
    let b := (v.extractLsb' 0 13)
    (mid ≠ 0 ∨ s.host.locked = true → exec (.mbBindWrite mid c v) s = .next s ∧ exec (.mbLockWrite mid v) s = .next s) ∧
    (s.host.locked = false →
      exec (.mbLockWrite 0 v) s = .next { s with host := { s.host with locked := v.getLsbD 0 } } ∧
      (v.getLsbD 31 = true → (4096 < a.toNat ∨ 4096 < b.toNat ∨ a = b) → exec (.mbBindWrite 0 c v) s = .next s) ∧
      (v.getLsbD 31 = false ∨ a.toNat ≤ 4096 ∧ b.toNat ≤ 4096 ∧ a ≠ b →
        ∃ t, exec (.mbBindWrite 0 c v) s = .next t ∧ t = { s with host := t.host } ∧
          t.channel c = { s.channel c with valid := v.getLsbD 31, sender := a, receiver := b } ∧ ∀ d, d ≠ c.val → t.channel d = s.channel d)))

/-- CXL_MEM_REQUEST returns a chip in Idle or Sleep to Run. An access that crosses from one beat of 1,024 bytes into
the next makes one request for each beat, in order. A request within one beat, for a tile READY in HBM, joins
those that wait at its stack's queue, which takes them in as it has room: with none waiting and room it goes to
the queue's end, with no room for any it waits; one that reaches no tile of HBM is answered with CXL poison, or
for a write with a drop, and counted in CXL_MEM_DENIED. The mailbox commands of Table 14.1 answer Success and
change nothing else: the capacity of 4 TiB, the one log, the opcodes it names, the first records, the poisoned
words of a DPA range in READY HBM tiles that the host may reach; CLEAR_EVENT_RECORDS takes the records of the
given handles out. Any other opcode answers Unsupported. The opcodes and return codes are the model's choice
(log entry 34). -/
def Obligations.CxlAccessesAndTheMailbox : Prop :=

  (∀ (s : State) (r : CxlReq),
    let u := returnToRun s
    let n := r.addr / 262144
    let len := match r with
      | .read _ _ l => l
      | .write _ _ d _ => d.length
    (∃ v, exec (.cxlMemRequest r) s = .next v ∧ v.pwr.mode = u.pwr.mode ∧ v.pwr.mode ≠ .idle ∧ v.pwr.mode ≠ .sleep) ∧
    (∀ t a l, r = .read t a l → 1024 < a % 1024 + l → a % 1024 + l ≤ 2048 →
      exec (.cxlMemRequest r) s = .next ([CxlReq.read t a (1024 - a % 1024), .read t (a + (1024 - a % 1024)) (l - (1024 - a % 1024))].foldl cxlPart
        (countBelfry 0x1601 none 1 u))) ∧
    (1 ≤ len → r.addr % 1024 + len ≤ 1024 → n < 2 ^ 24 → (u.tile n).tier = .hbm → (u.tile n).state = .ready →
      let h := (u.tile n).stack.toNat
      let q : OpenReq := ⟨r.op, some n, s.cyc, false⟩
      ∃ v, exec (.cxlMemRequest r) s = .next v ∧ v.tier = u.tier ∧ v.host.denied = s.host.denied ∧ (∀ j, j ≠ h → v.stack j = s.stack j) ∧
        v.stack h = { s.stack h with waiting := (s.stack h).waiting ++ [q] }.takeIn ∧
        ((s.stack h).waiting = [] → (s.stack h).roomFor r.op = true → v.stack h = { s.stack h with queue := (s.stack h).queue ++ [q] }) ∧
        (((s.stack h).waiting ++ [q]).any (fun x => (s.stack h).roomFor x.op) = false →
          v.stack h = { s.stack h with waiting := (s.stack h).waiting ++ [q] })) ∧
    (1 ≤ len → r.addr % 1024 + len ≤ 1024 →
      (2 ^ 24 ≤ n ∨ (u.tile n).tier ≠ .hbm ∧ (u.tile n).state ≠ .moving ∨ (u.tile n).state = .free ∨ (u.tile n).state = .lost) →
      ∃ v l, exec (.cxlMemRequest r) s = .next v ∧ v.hbm = s.hbm ∧ v.tier = s.tier ∧ v.host.denied = satInc s.host.denied ∧
        v.out = (match r with
          | .read tag _ len => Out.cxlData tag (List.replicate len 0) true
          | .write tag _ _ _ => Out.cxlAck tag true) :: l ++ s.out)) ∧
  (∀ (s : State) (max : Nat) (handles : List Nat) (op : Nat),
    let answer (code : Nat) (l : List Nat) : State := { s with out := .cxlMailbox code l :: s.out }
    exec .identifyMemoryDevice s = .next (answer 0 [4398046511104]) ∧
    exec .getSupportedLogs s = .next (answer 0 [1]) ∧
    exec .getLog s = .next (answer 0 [0x4000, 0x0400, 0x0401, 0x0100, 0x0101, 0x4300]) ∧
    exec (.getEventRecords max) s = .next (answer 0 ((s.host.events.take max).map (·.toNat))) ∧
    (∃ v, exec (.clearEventRecords handles) s = .next v ∧ v = { answer 0 [] with host := v.host } ∧
      v.host = { s.host with events := s.host.events.filter (fun w => !handles.contains w.toNat) }) ∧
    (op ∉ [0x4000, 0x0400, 0x0401, 0x0100, 0x0101, 0x4300] → exec (.cxlMailboxUnsupported op) s = .next (answer 0x15 []))) ∧
  (∀ (s : State) (addr len : Nat), ∃ l : List Nat, exec (.getPoisonList addr len) s = .next { s with out := .cxlMailbox 0 l :: s.out } ∧
    ∀ a, a ∈ l ↔ (addr ≤ a ∧ a < addr + len) ∧ a % 32 = 0 ∧ s.hostReaches (a / 262144) = true ∧
      (s.tile (a / 262144)).place.toNat * 8192 + a % 262144 / 32 ∈ (s.stack (s.tile (a / 262144)).stack.toNat).mem.poison)

/-- The Dome's firmware answers TDISP: before it runs, or in Deep sleep or off, a message does nothing. While it
works: LOCK_INTERFACE takes a lease's interface from CONFIG_UNLOCKED to CONFIG_LOCKED and binds its stream, on a
chip that has an identity; START_INTERFACE takes it from CONFIG_LOCKED to RUN; in any other state, and for lease
0, each is refused with no other effect. STOP_INTERFACE is the lease reset of R481, leaves the interface
CONFIG_UNLOCKED and its stream unbound. The report names the lease page, the state message the state; these and
the version and capability messages change nothing else (the values replied are the model's choice, log entry
35). IDE_CHECK_FAILURE of a stream that is secure makes it insecure, and an interface bound to it that is locked
or runs enters ERROR with doorbell bit 31; of a stream that is not secure it changes nothing. -/
def Obligations.InterfacesLockRunAndStop : Prop :=

  (∀ (s : State) (i : Fin 4096) (stream : Nat),
    let n := i.val
    let answer (ok : Bool) (l : List Nat) : State := { s with out := .tdisp n ok l :: s.out }
    (s.domeWorks = false → ∀ c, c ∈ [Instr.tdispGetVersion i, .tdispGetCapabilities i, .getDeviceInterfaceReport i, .getDeviceInterfaceState i,
      .lockInterface i stream, .startInterface i, .stopInterface i] → exec c s = .next s) ∧
    (s.domeWorks = true →
    (exec (.tdispGetVersion i) s = .next (answer (decide (n ≠ 0)) [0x10])) ∧
    (exec (.tdispGetCapabilities i) s = .next (answer (decide (n ≠ 0)) [])) ∧
    (exec (.getDeviceInterfaceReport i) s = .next (answer (decide (n ≠ 0)) [0, 65536])) ∧
    (exec (.getDeviceInterfaceState i) s = .next (answer (decide (n ≠ 0)) [match (s.leaseOf n).tdi with
      | .unlocked => 0 | .locked => 1 | .run => 2 | .error => 3])) ∧
    (n ≠ 0 → (s.leaseOf n).tdi = .unlocked → s.dome.identityOk = true → ∃ v, exec (.lockInterface i stream) s = .next v ∧
      v = { answer true [] with leases := v.leases, host := v.host } ∧ v.leaseOf n = { s.leaseOf n with tdi := .locked } ∧
      (∀ m, m ≠ n → v.leaseOf m = s.leaseOf m) ∧ v.host = { s.host with ideBound := s.host.ideBound.set 0 n (stream + 1) }) ∧
    (n = 0 ∨ (s.leaseOf n).tdi ≠ .unlocked ∨ s.dome.identityOk = false → exec (.lockInterface i stream) s = .next (answer false [])) ∧
    (n ≠ 0 → (s.leaseOf n).tdi = .locked → ∃ v, exec (.startInterface i) s = .next v ∧
      v = { answer true [] with leases := v.leases } ∧ v.leaseOf n = { s.leaseOf n with tdi := .run } ∧ ∀ m, m ≠ n → v.leaseOf m = s.leaseOf m) ∧
    (n = 0 ∨ (s.leaseOf n).tdi ≠ .locked → exec (.startInterface i) s = .next (answer false [])) ∧
    (n ≠ 0 → ∃ w t, exec (.leaseReset i true) w = .next t ∧ w = { s with leases := w.leases } ∧ w.leaseOf n = { s.leaseOf n with tdi := .unlocked } ∧
      (∀ m, m ≠ n → w.leaseOf m = s.leaseOf m) ∧
      exec (.stopInterface i) s = .next { t with host := { t.host with ideBound := t.host.ideBound.set 0 n 0 }, out := .tdisp n true [] :: t.out }) ∧
    (n = 0 → exec (.stopInterface i) s = .next (answer false [])))) ∧
  (∀ (s : State) (stream : Nat),
    let bound := ((s.host.ideBound.entries.filter (fun p => p.2 == stream + 1)).map (·.1)).filter (fun n => s.confidential n)
    (stream ∉ s.host.secure → exec (.ideCheckFailure stream) s = .next s) ∧
    (stream ∈ s.host.secure → bound = [] →
      exec (.ideCheckFailure stream) s = .next { s with host := { s.host with secure := s.host.secure.filter (· != stream) } }) ∧
    (∀ n, stream ∈ s.host.secure → bound = [n] → 1 ≤ n → n ≤ 4095 → (s.leaseOf n).tdi ≠ .error → (∀ j ∈ s.dsp.queue ++ s.dsp.running, j.lease ≠ n) →
      ∃ v, exec (.ideCheckFailure stream) s = .next v ∧ v = { s with host := v.host, leases := v.leases, out := v.out } ∧
        v.leaseOf n = { s.leaseOf n with tdi := .error } ∧ (v.func n).dbStatus = (s.func n).dbStatus ||| BitVec.twoPow 32 31 ∧
        v.host.secure = s.host.secure.filter (· != stream)))

/-- TEST_WINDOW_START in a window that is not yet open, with no dispute and no shadow pass waiting, opens it, lets
every Spire enter its window, and chooses the segment: of the visit in progress, else of the next Spire in
rotation. TEST_WINDOW_END after it, with nothing left over, closes it and lets every Spire switch back.
TEST_SEGMENT_COMPLETE counts a segment that is not the visit's last and zeroes BANK_S of a Spire that is neither
radio-owned nor reclaimed; the last of a passed visit ends it, counts it and adds 25 to the score; that of a
failed one fences an idle Spire. RECOMPUTE_COMPLETE before the recompute's 16 CCLK after its release are over
changes nothing; then, the referee's own checks passed: with another input it is a VOID attempt, of four; one
that repeats the long digest of a dispute that a stop ended is a verdict on the checker: counted, −100.
SHADOW_RECOMPUTE_COMPLETE counts, with another input as VOID. Settings are written by the Dome in BOOT and
TIME_ACQUIRE within the limits of R502. REL_DUMP_CLEAR clears STATE of the dump, REL_PM_CLEAR the lowest slacks. -/
def Obligations.TestWindowsVisitsAndVerdicts : Prop :=

  (∀ s : State,
    let w := (List.range 32).foldl (fun t k => windowStart k t) s
    (s.inTestWindow = false ∨ s.rel.testActive = true → exec .testWindowStart s = .next s) ∧
    (s.inTestWindow = true → s.rel.testActive = false → w.rel.disputes = [] → (∀ t, t < 4 → w.rel.shadow.get none t = none) →
      ∃ v, exec .testWindowStart s = .next v ∧ v = { w with rel := v.rel } ∧ v.rel.testActive = true ∧ v.rel.recomputes = [] ∧
        (w.rel.packLoaded = false → v.rel.segment = none) ∧
        (∀ x, w.rel.packLoaded = true → w.rel.visit = some x → w.testable x.spire = true → v.rel.segment = some x.spire ∧ v.rel.visit = some x ∧
          v.rel.rotation = w.rel.rotation) ∧
        (w.rel.packLoaded = true → w.rel.visit = none → w.rel.confirmQueue = [] → w.rel.passedOver = [] → w.rel.rotation < 32 →
          w.testable w.rel.rotation = true → v.rel.segment = some w.rel.rotation ∧ v.rel.visit = some ⟨w.rel.rotation, 0, false, false⟩ ∧
          v.rel.rotation = (w.rel.rotation + 1) % 32)) ∧
    (s.rel.testActive = false ∨ s.inTestWindow = true → exec .testWindowEnd s = .next s) ∧
    (s.rel.testActive = true → s.inTestWindow = false → s.rel.disputes = [] → s.rel.fenceAfter = [] →
      exec .testWindowEnd s = .next ((List.range 32).foldl (fun t k => windowEnd k t)
        { s with rel := { s.rel with testActive := false, segment := none, recomputes := [], fenceAfter := [] } }))) ∧
  (∀ (s : State) (differs : Bool),
    (s.rel.segment = none ∨ s.rel.visit = none → exec (.testSegmentComplete differs) s = .next s) ∧
    (∀ k x, s.rel.segment = some k → s.rel.visit = some x →
      let failed := x.failed || differs
      (x.segment + 1 < s.rel.segments → ∃ v, exec (.testSegmentComplete differs) s = .next v ∧ v = { s with rel := v.rel, spires := v.spires } ∧
        v.rel = { s.rel with segment := none, visit := some { x with segment := x.segment + 1, failed := failed } } ∧
        (∀ j, j ≠ k → v.spire j = s.spire j) ∧ (v.spire k).seq = (s.spire k).seq ∧
        (s.role k ≠ .radioOwned → (s.spire k).seq.reclaim = false → (v.spire k).vu.bankS = Bank.reset)) ∧
      (s.rel.segments ≤ x.segment + 1 → failed = false → x.confirm = false → s.rel.fenceAt.toNat < min 1000 ((s.healthOf x.spire).score + 25) →
        ∃ v, exec (.testSegmentComplete differs) s = .next v ∧ v = { s with rel := v.rel, spires := v.spires } ∧ v.rel.visit = none ∧
          v.rel.segment = none ∧ v.rel.counters = { s.rel.counters with visits := satInc s.rel.counters.visits } ∧
          v.healthOf x.spire = { s.healthOf x.spire with last := 6, score := min 1000 ((s.healthOf x.spire).score + 25) }) ∧
      (s.rel.segments ≤ x.segment + 1 → failed = true → (s.spire x.spire).ctx.jobId = 0 → (s.spire x.spire).seq.mode = .idle →
        s.role x.spire ≠ .radioOwned → s.referees x.spire = false →
        ∃ v, exec (.testSegmentComplete differs) s = .next v ∧ (v.spire x.spire).seq.mode = .fenced ∧ (v.healthOf x.spire).fenced = true ∧
          (v.healthOf x.spire).score = 0 ∧ (x.spire < 32 → v.rel.inService.getLsbD x.spire = false)))) ∧
  (∀ (s : State) (t : Fin 4) (x : RecomputeResult),
    (∀ r, s.runningRecompute t false = some r → s.cyc < r.due → exec (.recomputeComplete t x) s = .next s) ∧
    (∀ r, s.runningRecompute t true = some r → s.cyc < r.due → exec (.shadowRecomputeComplete t x) s = .next s) ∧
    (s.runningRecompute t false = none → exec (.recomputeComplete t x) s = .next s) ∧
    (s.runningRecompute t true = none → exec (.shadowRecomputeComplete t x) s = .next s) ∧
    (∀ r, s.runningRecompute t false = some r → r.due ≤ s.cyc →
      let done : List Recompute := s.rel.recomputes.map (fun z => if z = r then { z with done := true } else z)
      (s.disputeOf r.original = none → exec (.recomputeComplete t x) s = .next { s with rel := { s.rel with recomputes := done } }) ∧
      (∀ d, s.disputeOf r.original = some d →
        let z := s.redoOf r x d.ref
        (z.own = false → z.inputSame r.pass = false → d.stopped = false → d.attempts < 3 →
          exec (.recomputeComplete t x) s = .next { s with rel := { s.rel with
            recomputes := done, counters := { s.rel.counters with voids := satInc s.rel.counters.voids }
            disputes := s.rel.disputes.map (fun y => if y.spire = d.spire then { y with attempts := y.attempts + 1 } else y) } }) ∧
        (z.own = false → z.inputSame r.pass = true → z.longSame r.pass = true → d.stopped = true → (s.spire d.spire).ctx.jobId = 0 →
          (s.healthOf d.spire).fenced = false → 100 ≤ (s.healthOf d.spire).score → s.rel.fenceAt.toNat < (s.healthOf d.spire).score - 100 →
          (s.healthOf d.spire).score ≤ 1000 →
          ∃ v, exec (.recomputeComplete t x) s = .next v ∧ v.spires = s.spires ∧ v.rel.disputes = s.rel.disputes.filter (fun y => y.spire != d.spire) ∧
            v.rel.counters.vChecker = satInc s.rel.counters.vChecker ∧ v.healthOf d.spire = { s.healthOf d.spire with
              last := 1, quarantined := true, confirm := true, score := (s.healthOf d.spire).score - 100 }))) ∧
    (∀ r, s.runningRecompute t true = some r → r.due ≤ s.cyc →
      let z := s.redoOf r x ⟨false, false, 0, 0, 0⟩
      let done : List Recompute := s.rel.recomputes.map (fun z => if z = r then { z with done := true } else z)
      let run := satInc s.rel.counters.shadowRun
      (z.own = false → z.inputSame r.pass = false → exec (.shadowRecomputeComplete t x) s = .next { s with rel := { s.rel with recomputes := done, counters := { s.rel.counters with shadowRun := run, shadowVoid := satInc s.rel.counters.shadowVoid } } }) ∧
      (z.own = false → z.inputSame r.pass = true → z.longSame r.pass = true → exec (.shadowRecomputeComplete t x) s = .next { s with rel := { s.rel with
        recomputes := done, counters := { s.rel.counters with shadowRun := run } } }))) ∧
  (∀ (s : State) (mid : Nat) (v : Word), (∀ off, off ∈ [0x3C0004, 0x3C0008, 0x3C5000, 0x3C2104] → s.serves off = true) →
    let settable : Prop := s.clk.chipState = .boot ∨ s.clk.chipState = .timeAcquire
    let status (t : State) (st : Nat) : State := { t with rel := { t.rel with lastStatus := BitVec.ofNat 8 st } }
    let start := v.toNat % 2 ^ 20
    let len := v.toNat % 2 ^ 16
    (mid ≠ 0 → exec (.relTestCfgWrite mid v) s = .next s ∧ exec (.relTestLenWrite mid v) s = .next s) ∧
    (¬ settable → exec (.relTestCfgWrite 0 v) s = .next (status s stConflict) ∧ exec (.relTestLenWrite 0 v) s = .next (status s stConflict)) ∧
    (settable → testLimits start s.rel.testLen.toNat = false → exec (.relTestCfgWrite 0 v) s = .next (status s stBadArg)) ∧
    (settable → testLimits start s.rel.testLen.toNat = true → exec (.relTestCfgWrite 0 v) s =
      .next (status { s with rel := { s.rel with testEnable := bitAt v.toNat 31, testStart := BitVec.ofNat 20 v.toNat } } stOk)) ∧
    (settable → testLimits s.rel.testStart.toNat len = false → exec (.relTestLenWrite 0 v) s = .next (status s stBadArg)) ∧
    (settable → testLimits s.rel.testStart.toNat len = true → exec (.relTestLenWrite 0 v) s =
      .next (status { s with rel := { s.rel with testLen := BitVec.ofNat 16 v.toNat } } stOk)) ∧
    (1 < mid → exec (.relDumpClear mid) s = .next s ∧ exec (.relPmClear mid) s = .next s) ∧
    (mid ≤ 1 → (s.rel.dump = none → exec (.relDumpClear mid) s = .next s) ∧
      (∀ d, s.rel.dump = some d → ∃ u, exec (.relDumpClear mid) s = .next u ∧ u = { s with rel := u.rel, hbm := u.hbm } ∧
        u.rel = { s.rel with dump := some { d with state := 0 } } ∧ (u.stack (6 * d.tower + 5)).mem.read8 (dumpBase + 12) = 0 ∧
        ∀ a, a ≠ dumpBase + 12 → (u.stack (6 * d.tower + 5)).mem.read8 a = (s.stack (6 * d.tower + 5)).mem.read8 a) ∧
      (∃ u, exec (.relPmClear mid) s = .next u ∧ u = { s with rel := { s.rel with pm := u.rel.pm } } ∧
        ∀ n, n < 64 → u.rel.pm.get PathMon.reset n = { s.rel.pm.get PathMon.reset n with lowest := (s.rel.pm.get PathMon.reset n).latest })))

/-- CHIP_LOST_DECLARATION of another lane partner silent for 8 periods, on a READY chip, marks it lost once, drops
its replay records, takes it from the governor's lists, writes a record and tells every near-set chip;
CHIP_RETURN of a lost partner with 16 good periods clears its mark and tells them, and the chip's kept
INCARNATION goes; otherwise neither does anything. GOV_TOKEN_REFILL adds the tokens earned since the last one up
to BURST and carries the rest. GOV_LOWER_EXPIRY, once the bucket has been full for LOWER minutes, lowers D by
its step, not below D_BASE. PATH_MONITOR_SAMPLE and OPTICAL_POWER_READ store the reading; one below the alarm
level raises the alarm and writes one record. CORRECTION_SUMMARY records the corrections since the last, if any.
FATAL_ERROR in Run freezes the counters, writes a record and sets FATAL, and the dump begins if its stack is
trained; a second one stops the writing. FATAL_DUMP_COMPLETE writes STATE = COMPLETE last and resets the chip,
the dump kept. -/
def Obligations.LossGovernorMarginsAndFatalErrors : Prop :=

  (∀ (s : State) (chip : Nat),
    let due := s.clk.chipState = .ready ∧ s.stepImage.isSome = true ∧ chip ∈ s.partners ∧ chip ≠ s.chipId ∧ 8 ≤ (s.rel.live.get Liveness.reset chip).silent ∧
      chip ∉ s.rm.lost
    (¬ due → exec (.chipLostDeclaration chip) s = .next s) ∧
    (due → (∀ r ∈ s.rm.reqs, r.reply = none → r.dst ≠ chip ∧ addrChip r.addr ≠ chip) →
      ∃ v, exec (.chipLostDeclaration chip) s = .next v ∧
        v.rm = { s.rm with lost := s.rm.lost ++ [chip], replay := s.rm.replay.filter (fun r => r.src != chip) } ∧
        v.rel.gov = { s.rel.gov with candidates := s.rel.gov.candidates.filter (· != chip), suspects := s.rel.gov.suspects.filter (· != chip) } ∧
        v.rel.counters = { s.rel.counters with errSeq := satInc s.rel.counters.errSeq } ∧
        (v.rel.live.get Liveness.reset chip) = { s.rel.live.get Liveness.reset chip with goodRun := 0 } ∧
        v.rel.notices = s.rel.notices ++ s.nearSet.map (fun r => (field r 63 48, noticeBytes 1 chip (s.now / periodUnits) (s.rm.incs.get 0 chip - 1)))) ∧
    (chip ∈ s.rm.lost → chip ∈ s.partners → 16 ≤ (s.rel.live.get Liveness.reset chip).goodRun →
      ∃ v, exec (.chipReturn chip) s = .next v ∧ v.rm = { s.rm with lost := s.rm.lost.filter (· != chip), incs := s.rm.incs.set 0 chip 0 } ∧
        v.rel.counters = { s.rel.counters with errSeq := satInc s.rel.counters.errSeq } ∧
        v.rel.notices = s.rel.notices ++ s.nearSet.map (fun r => (field r 63 48, noticeBytes 2 chip (s.now / periodUnits) 0))) ∧
    (chip ∉ s.rm.lost ∨ chip ∉ s.partners ∨ (s.rel.live.get Liveness.reset chip).goodRun < 16 → exec (.chipReturn chip) s = .next s)) ∧
  (∀ s : State,
    let g := s.rel.gov
    let earned := g.rate.toNat * (s.clock.tick - g.lastTick) + g.carry
    let put (x : Governor) : State := { s with rel := { s.rel with gov := x } }
    (g.tokens + earned / 6120000000000 < g.burst.toNat * 256 → exec .govTokenRefill s = .next (put { g with
      tokens := g.tokens + earned / 6120000000000, carry := earned % 6120000000000, lastTick := s.clock.tick, fullSince := none })) ∧
    (g.burst.toNat * 256 ≤ g.tokens + earned / 6120000000000 → exec .govTokenRefill s = .next (put { g with
      tokens := g.burst.toNat * 256, carry := 0, lastTick := s.clock.tick, fullSince := some (g.fullSince.getD s.clock.tick) })) ∧
    (g.fullSince = none → exec .govLowerExpiry s = .next s) ∧
    (∀ t, g.fullSince = some t →
      (s.clock.tick < t + g.lower.toNat * 60 * 1700000000 → exec .govLowerExpiry s = .next s) ∧
      (t + g.lower.toNat * 60 * 1700000000 ≤ s.clock.tick → g.suspects = [] → g.dBase.toNat ≤ g.d.toNat → exec .govLowerExpiry s = .next (put { g with
        fullSince := some s.clock.tick, d := BitVec.ofNat 10 (max g.dBase.toNat (g.d.toNat - g.step.toNat)) })))) ∧
  (∀ (s : State) (n : Fin 64) (slack : Nat) (power : Option Int),
    let p := s.rel.pm.get PathMon.reset n
    let v := min slack 0xFFFF
    let o := s.rel.opt.get OptPower.reset n
    let level := toSigned 16 s.rel.optAlarmAt.toNat
    (∃ u, exec (.pathMonitorSample n slack) s = .next u ∧ (u.rel.pm.get PathMon.reset n).latest = BitVec.ofNat 16 v ∧
      (u.rel.pm.get PathMon.reset n).lowest = (if p.seen = true then BitVec.ofNat 16 (min p.lowest.toNat v) else BitVec.ofNat 16 v) ∧
      (∀ m, m ≠ n.val → u.rel.pm.get PathMon.reset m = s.rel.pm.get PathMon.reset m) ∧
      (v < s.rel.pmAlarmAt.toNat → (u.rel.pm.get PathMon.reset n).alarm = true ∧
        u.rel.counters.errSeq = if p.alarm = true then s.rel.counters.errSeq else satInc s.rel.counters.errSeq) ∧
      (s.rel.pmAlarmAt.toNat ≤ v → p.alarm = false → (u.rel.pm.get PathMon.reset n).alarm = false) ∧
      (s.rel.pmAlarmAt.toNat ≤ v → u.rel.counters = s.rel.counters)) ∧
    ((s.lane n).regs.enable = false → exec (.opticalPowerRead n power) s = .next s) ∧
    ((s.lane n).regs.enable = true → power = none → ∃ u, exec (.opticalPowerRead n power) s = .next u ∧ u = { s with rel := { s.rel with opt := u.rel.opt } } ∧
      u.rel.opt.get OptPower.reset n = OptPower.reset) ∧
    (∀ x : Int, (s.lane n).regs.enable = true → power = some x → ∃ u, exec (.opticalPowerRead n power) s = .next u ∧
      (u.rel.opt.get OptPower.reset n).valid = true ∧ (u.rel.opt.get OptPower.reset n).power = BitVec.ofNat 16 (ofSigned 16 x) ∧
      (x < level → (u.rel.opt.get OptPower.reset n).alarm = true ∧
        u.rel.counters.errSeq = if o.alarm = true then s.rel.counters.errSeq else satInc s.rel.counters.errSeq) ∧
      (level ≤ x → u.rel.counters = s.rel.counters))) ∧
  (∀ s : State,
    (s.rel.corrections = 0 → exec .correctionSummary s = .next s) ∧
    (s.rel.corrections ≠ 0 → ∃ v, exec .correctionSummary s = .next v ∧ v.rel.corrections = 0 ∧
      v.rel.counters = { s.rel.counters with errSeq := satInc s.rel.counters.errSeq } ∧ v.dome.dbStatus.getLsbD 0 = true)) ∧
  (∀ (s : State) (d : Nat),
    (s.clk.done = false → exec (.fatalError d) s = .next s) ∧
    (s.clk.done = true → s.rel.fatal = false → ∃ v, exec (.fatalError d) s = .next v ∧ v.rel.fatal = true ∧ v.cnt.freeze = true ∧
      v.rel.counters = { s.rel.counters with errSeq := satInc s.rel.counters.errSeq } ∧ v.spires = s.spires ∧ v.rm = s.rm ∧
      (s.mapTower = none → v.rel.dump = s.rel.dump) ∧
      (∀ t, s.mapTower = some t → ((s.stack (6 * t + 5)).trained = false → v.rel.dump = s.rel.dump) ∧
        ((s.stack (6 * t + 5)).trained = true → v.rel.dump = some ⟨t, 1, BitVec.ofNat 32 s.nextDump, false⟩))) ∧
    (s.clk.done = true → s.rel.fatal = true → ∃ v, exec (.fatalError d) s = .next v ∧ v.rel.fatal = true ∧ v.cnt.freeze = true ∧
      v.rel.dump = s.rel.dump.map (fun x => if x.state = 1 then { x with stopped := true } else x)) ∧
    (s.rel.fatal = false → exec .fatalDumpComplete s = .next s) ∧
    (s.rel.fatal = true → ∃ v, exec .fatalDumpComplete s = .next v ∧ v.clk = { ClkState.reset with pendingReset := some .chipResetCmd } ∧
      v.rel = { RelState.reset with dump := v.rel.dump } ∧ v.spires = State.reset.spires ∧ v.rm = State.reset.rm ∧ v.pending = s.pending ∧
      (∀ x, s.rel.dump = some x → x.state = 1 → x.stopped = false → v.rel.dump = some { x with state := 2 }) ∧
      (∀ x, s.rel.dump = some x → (x.state ≠ 1 ∨ x.stopped = true) → v.rel.dump = some x)))

/-- In BOOT with neither firmware nor recovery: FIRMWARE_START with the memory absent begins recovery with
BOOT_ERROR 1; with a valid active bank firmware runs from it, its images' versions, the nonce and the armed
watchdog are set, and IDENTITY_OK follows the unwrap unless it is a debug boot; with only the other bank valid
the selector goes to it with TRIAL 0 and FALLBACK is set; with none, recovery begins with the last bank's
reason. Otherwise it does nothing. CONFIG_APPLIED takes the booted bank's CONFIG and CHIP_ID once and enables
the lanes of LANE_MAP and no others. TIME_ACQUIRE_ENTRY locks the channels and enters TIME_ACQUIRE; a trial boot
is committed by a selector with TRIAL 0. RECOVERY_IMAGE_RECEIVE in recovery of an image that is valid with the
IDENTITY of the bank that has one writes bank A and the selector and resets the chip (CHIP_RESET_CMD, log entry
41); else nothing. WATCHDOG_KICK by MID 0 restarts the watchdog, WATCHDOG_EXPIRY after TIMEOUT resets the chip
with DOME_WDOG, the banks kept if no STAGE is under way. DOME_MCTP_HEARTBEAT goes out every 100 ms.
SENSOR_SAMPLE stores the readings; from 105 °C THERMTRIP_N is driven. -/
def Obligations.DomeBootsRecoversAndIsWatched : Prop :=

  (∀ (s : State) (x : BootRead),
    let a := s.dome.selector.2.activeB
    let due := s.clk.chipState = .boot ∧ s.dome.running = false ∧ s.dome.recovery = false
    let runs (b fell : Bool) (err : Byte) (v : State) : Prop :=
      v.dome.running = true ∧ v.dome.bankB = b ∧ v.dome.fallback = fell ∧ v.dome.bootError = err ∧ v.dome.recovery = false ∧
      v.dome.identityOk = (x.unwraps && (s.dome.bank b).identity && !s.dome.debug) ∧ v.dome.fwVersion = (s.dome.bank b).version 1 ∧
      v.dome.cfgVersion = (s.dome.bank b).version 4 ∧ v.dome.packVersion = (s.dome.bank b).version 2 ∧ v.dome.nonce = x.nonce ∧
      v.dome.wdogAt = some s.clock.tick ∧ v.dome.wdogTimeout = s.dome.wdogTimeout ∧ v.rel.segments = (s.dome.bank b).packSegments ∧ v.dome.capacity = x.capacity ∧
      v = { s with dome := v.dome, rel := { s.rel with packLoaded := decide (0 < (s.dome.bank b).packSegments), segments := (s.dome.bank b).packSegments } }
    (¬ due → exec (.firmwareStart x) s = .next s) ∧
    (due → x.memory = false → exec (.firmwareStart x) s = .next { s with dome := { s.dome with recovery := true, bootError := 1 } }) ∧
    (due → x.memory = true → (s.dome.bank a).error x.capacity = 0 → ∃ v, exec (.firmwareStart x) s = .next v ∧ runs a false 0 v ∧
      v.dome.copies = s.dome.copies ∧ v.dome.trial = (s.dome.selector.2.trial == 2)) ∧
    (due → x.memory = true → (s.dome.bank a).error x.capacity ≠ 0 → (s.dome.bank (!a)).error x.capacity = 0 → ∃ v, exec (.firmwareStart x) s = .next v ∧
      runs (!a) true ((s.dome.bank a).error x.capacity) v ∧
      v.dome.copies = s.dome.copies.set Selector.none_ (1 - s.dome.selector.1) ⟨true, s.dome.selector.2.seq + 1, !a, 0⟩) ∧
    (due → x.memory = true → (s.dome.bank a).error x.capacity ≠ 0 → (s.dome.bank (!a)).error x.capacity ≠ 0 →
      exec (.firmwareStart x) s = .next { s with dome := { s.dome with recovery := true, capacity := x.capacity, bootError := (s.dome.bank (!a)).error x.capacity } })) ∧
  (∀ s : State,
    let due := s.clk.chipState = .boot ∧ s.dome.running = true ∧ s.dome.chipId = 0xFFFF
    let c := (s.dome.bank s.dome.bankB).cfg
    (¬ due → exec .configApplied s = .next s) ∧
    (due → ∃ v, exec .configApplied s = .next v ∧ v.dome = { s.dome with cfg := c, chipId := c.chipId } ∧ v.spires = s.spires ∧ v.clk = s.clk ∧
      (∀ n : Fin 64, (c.lanes.get LaneCfg.off n).enabled = true → (v.lane n).regs.enable = true ∧
        ((s.lane n).regs.state = .disabled → (v.lane n).regs.state = .training)) ∧
      (∀ n : Nat, (c.lanes.get LaneCfg.off n).enabled = false → v.lane n = s.lane n))) ∧
  (∀ s : State,
    let due := s.clk.chipState = .boot ∧ s.dome.running = true ∧ s.dome.chipId ≠ 0xFFFF
    (¬ due → exec .timeAcquireEntry s = .next s) ∧
    (due → ∃ v, exec .timeAcquireEntry s = .next v ∧ v.clk = { s.clk with chipState := .timeAcquire } ∧ v.host.locked = true ∧
      v.dome.trial = false ∧ v.dome.bootUs = BitVec.ofNat 32 (s.clock.tick / 1700) ∧
      v.dome.copies = (if s.dome.trial = true then
        s.dome.copies.set Selector.none_ (1 - s.dome.selector.1) ⟨true, s.dome.selector.2.seq + 1, s.dome.bankB, 0⟩ else s.dome.copies) ∧
      (s.host.locked = true → v.host = s.host) ∧
      (s.host.locked = false → s.dome.cfg.mbBind = none →
        (v.channel 0) = { s.channel 0 with valid := true, sender := 1, receiver := 0 } ∧
        (v.channel 1) = { s.channel 1 with valid := true, sender := 0, receiver := 1 } ∧
        ∀ n, 2 ≤ n → v.channel n = s.channel n))) ∧
  (∀ (s : State) (x : BankImg),
    let y := recoveredBank x s.dome.bankA s.dome.bankBImg
    ((s.dome.recovery = false ∨ y.error s.dome.capacity ≠ 0) → exec (.recoveryImageReceive x) s = .next s) ∧
    (s.dome.recovery = true → y.error s.dome.capacity = 0 → ∃ v, exec (.recoveryImageReceive x) s = .next v ∧
      y.identity = (s.dome.bankA.identity || s.dome.bankBImg.identity) ∧
      (s.dome.stage = none → v.dome.bankA = y ∧ v.dome.bankBImg = s.dome.bankBImg) ∧
      v.dome.copies = s.dome.copies.set Selector.none_ (1 - s.dome.selector.1) ⟨true, s.dome.selector.2.seq + 1, false, 0⟩ ∧
      v.dome.recovery = false ∧ v.clk = { ClkState.reset with pendingReset := some .chipResetCmd } ∧ v.spires = State.reset.spires)) ∧
  (∀ (s : State) (mid : Nat),
    (s.reachable = true → mid ≠ 0 → exec (.watchdogKick mid) s = .next s) ∧
    (s.reachable = true → mid = 0 → exec (.watchdogKick mid) s = .next { s with dome := { s.dome with wdogAt := s.dome.wdogAt.map (fun _ => s.clock.tick) } }) ∧
    (s.dome.wdogAt = none ∨ s.domeWorks = false → exec .watchdogExpiry s = .next s) ∧
    (∀ t, s.dome.wdogAt = some t → s.domeWorks = true →
      (s.clock.tick < t + s.dome.wdogTimeout.toNat * 1700000 → exec .watchdogExpiry s = .next s) ∧
      (t + s.dome.wdogTimeout.toNat * 1700000 ≤ s.clock.tick → ∃ v, exec .watchdogExpiry s = .next v ∧
        v.clk = { ClkState.reset with pendingReset := some .domeWdog } ∧ v.spires = State.reset.spires ∧ v.dome.copies = s.dome.copies ∧
        (s.dome.stage = none → v.dome.bankA = s.dome.bankA ∧ v.dome.bankBImg = s.dome.bankBImg) ∧ v.dome.log = s.dome.log ∧ v.dome.wdogAt = none)) ∧
    (s.domeWorks = true → (s.dome.heartbeats + 1) * 170000000 ≤ s.clock.tick → exec .domeMctpHeartbeat s =
      .next { s with dome := { s.dome with heartbeats := s.dome.heartbeats + 1 }, out := .mctp .heartbeat :: s.out }) ∧
    (s.domeWorks = false ∨ s.clock.tick < (s.dome.heartbeats + 1) * 170000000 → exec .domeMctpHeartbeat s = .next s)) ∧
  (∀ (s : State) (temps volts : List Nat),
    (s.domeWorks = false → exec (.sensorSample temps volts) s = .next s) ∧
    (s.domeWorks = true → ∃ v, exec (.sensorSample temps volts) s = .next v ∧ v.dome.sampled = true ∧
      (∀ n, v.dome.temps.get 0 n = if h : n < temps.length ∧ n < 96 then BitVec.ofNat 16 (temps[n]'h.1) else s.dome.temps.get 0 n) ∧
      (∀ n, v.dome.volts.get 0 n = if h : n < volts.length ∧ n < 48 then BitVec.ofNat 16 (volts[n]'h.1) else s.dome.volts.get 0 n) ∧
      (v.pins.trips = true ↔ s.pins.trips = true ∨ 1680 ≤ v.tempMax.1) ∧ (1520 ≤ v.tempMax.1 → v.pwr.estop = true)))

/-- While the Dome's firmware does not run, no SPDM request changes anything. Otherwise a request sets doorbell bit
9 and is answered: GET_VERSION starts the connection anew; GET_CAPABILITIES after it; NEGOTIATE_ALGORITHMS after
that, with ERROR if no algorithm of Table 16.6 is common; GET_DIGESTS, GET_CERTIFICATE, CHALLENGE,
GET_MEASUREMENTS and KEY_EXCHANGE once algorithms are agreed, else ERROR (the order is SPDM's, log entry 42).
Without an identity CHALLENGE, KEY_EXCHANGE and signed GET_MEASUREMENTS give ERROR (Unspecified); an unsigned
GET_MEASUREMENTS reports the digests of ROM, FIRMWARE, CONFIG, OPERATOR_CERT, TEST_PACK and active Pavane, the
versions of images 0x01 to 0x04, BANK, TRIAL, FALLBACK, DEBUG and DEBUG_LEVEL. KEY_EXCHANGE adds a session,
refused when 8 exist or the identifier is used; FINISH opens it; HEARTBEAT, KEY_UPDATE, END_SESSION and
VENDOR_DEFINED_REQUEST are answered in an open session only. END_SESSION removes it. A vendor-defined IDE_KM
message makes its stream secure or insecure. -/
def Obligations.SpdmRequestsAreAnswered : Prop :=

  (∀ (s : State) (common signed : Bool) (id : Nat) (m : VendorMsg), s.domeWorks = false →
    exec .spdmGetVersion s = .next s ∧ exec .spdmGetCapabilities s = .next s ∧ exec (.negotiateAlgorithms common) s = .next s ∧
    exec .getDigests s = .next s ∧ exec .getCertificate s = .next s ∧ exec .challenge s = .next s ∧ exec (.getMeasurements signed) s = .next s ∧
    exec (.keyExchange id) s = .next s ∧ exec (.finish id) s = .next s ∧ exec (.spdmHeartbeat id) s = .next s ∧ exec (.keyUpdate id) s = .next s ∧
    exec (.endSession id) s = .next s ∧ exec (.vendorDefinedRequest id m) s = .next s) ∧
  (∀ (s : State) (common signed : Bool) (id : Nat) (m : VendorMsg), s.domeWorks = true →
    let p := s.dome.spdm
    let rung := s.dome.dbStatus ||| BitVec.twoPow 32 9
    let at_ := s.dome.dbSetAt.set 0 9 (s.clock.tick / 2 + 1)
    let answer (r : SpdmReply) (q : SpdmState) : State := { s with dome := { s.dome with dbStatus := rung, dbSetAt := at_, spdm := q }, out := .spdm r :: s.out }
    let ids := p.sessions.map (fun x => x.id)
    let opened := ∃ x ∈ p.sessions, x.id = id ∧ x.open_ = true
    let d := s.dome
    let b := d.bank d.bankB
    let flag (x : Bool) : Nat := if x = true then 1 else 0
    exec .spdmGetVersion s = .next (answer .version { p with version := true, caps := false, algs := false }) ∧
    (p.version = true → exec .spdmGetCapabilities s = .next (answer .capabilities { p with caps := true })) ∧
    (p.version = false → exec .spdmGetCapabilities s = .next (answer .errorUnexpected p)) ∧
    (p.caps = true → common = true → exec (.negotiateAlgorithms common) s = .next (answer .algorithms { p with algs := true })) ∧
    (p.caps = true → common = false → exec (.negotiateAlgorithms common) s = .next (answer .errorUnsupported p)) ∧
    (p.caps = false → exec (.negotiateAlgorithms common) s = .next (answer .errorUnexpected p)) ∧
    (p.algs = false → exec .getDigests s = .next (answer .errorUnexpected p) ∧ exec .getCertificate s = .next (answer .errorUnexpected p) ∧
      exec .challenge s = .next (answer .errorUnexpected p) ∧ exec (.getMeasurements signed) s = .next (answer .errorUnexpected p) ∧
      exec (.keyExchange id) s = .next (answer .errorUnexpected p)) ∧
    (p.algs = true → exec .getDigests s = .next (answer .digests p) ∧ exec .getCertificate s = .next (answer .certificate p) ∧
      (d.identityOk = false → exec .challenge s = .next (answer .errorUnspecified p) ∧ exec (.keyExchange id) s = .next (answer .errorUnspecified p) ∧
        exec (.getMeasurements true) s = .next (answer .errorUnspecified p)) ∧
      (signed = false ∨ d.identityOk = true → exec (.getMeasurements signed) s = .next (answer (.measurements
        [Config.romDigest, b.digest 1, b.digest 4, b.digest 3, b.digest 2, match s.image with | some x => Config.pavaneDigest x.id.toNat | none => 0]
        [d.fwVersion.toNat, d.packVersion.toNat, (b.version 3).toNat, d.cfgVersion.toNat]
        [flag d.bankB, flag d.trial, flag d.fallback, flag d.debug, d.debugLevel.toNat]) p)) ∧
      (d.identityOk = true → exec .challenge s = .next (answer .challengeAuth p) ∧
        (8 ≤ p.sessions.length → exec (.keyExchange id) s = .next (answer .errorSessionLimit p)) ∧
        (p.sessions.length < 8 → id ∈ ids → exec (.keyExchange id) s = .next (answer .errorInvalidSession p)) ∧
        (p.sessions.length < 8 → id ∉ ids → exec (.keyExchange id) s = .next (answer (.keyExchange id) { p with sessions := p.sessions ++ [⟨id, false⟩] })))) ∧
    ((∃ x ∈ p.sessions, x.id = id ∧ x.open_ = false) → exec (.finish id) s = .next (answer .finish { p with sessions := p.sessions.map (fun x => if x.id = id then { x with open_ := true } else x) })) ∧
    ((∀ x ∈ p.sessions, x.id = id → x.open_ = true) → exec (.finish id) s = .next (answer .errorInvalidSession p)) ∧
    (¬ opened → exec (.spdmHeartbeat id) s = .next (answer .errorInvalidSession p) ∧ exec (.keyUpdate id) s = .next (answer .errorInvalidSession p) ∧
      exec (.endSession id) s = .next (answer .errorInvalidSession p) ∧ exec (.vendorDefinedRequest id m) s = .next (answer .errorInvalidSession p)) ∧
    (opened → exec (.spdmHeartbeat id) s = .next (answer .heartbeatAck p) ∧ exec (.keyUpdate id) s = .next (answer .keyUpdateAck p) ∧
      exec (.endSession id) s = .next (answer .endSessionAck { p with sessions := p.sessions.filter (fun y => y.id != id) }) ∧
      exec (.vendorDefinedRequest id .tdisp) s = .next (answer .vendorDefined p) ∧
      exec (.vendorDefinedRequest id .other) s = .next (answer .errorUnsupported p) ∧
      (∀ n, (n ∈ s.host.secure → exec (.vendorDefinedRequest id (.ideKeyProgram n)) s = .next (answer .vendorDefined p)) ∧
        (n ∉ s.host.secure → exec (.vendorDefinedRequest id (.ideKeyProgram n)) s = .next { answer .vendorDefined p with
          host := { s.host with secure := s.host.secure ++ [n] } }) ∧
        (n ∉ s.host.secure → exec (.vendorDefinedRequest id (.ideStop n)) s = .next (answer .vendorDefined p)) ∧
        (n ∈ s.host.secure → ∃ v, exec (.ideCheckFailure n) { s with dome := { s.dome with dbStatus := rung, dbSetAt := at_ } } = .next v ∧
          exec (.vendorDefinedRequest id (.ideStop n)) s = .next { v with out := .spdm .vendorDefined :: v.out }))))

/-- A reply is pushed, header first, on the first channel bound from the Dome to the requester. A request on a
channel not bound to the Dome, or while the Dome does not work, has no effect; after a fatal error it gives
ST_STATE_CONFLICT (CHIP_RESET nothing). GET_INFO gives the four versions and DOME_STATUS. STAGE by the host with
KIND above 3, a bad range or a tile not of lease 0 gives ST_BAD_ARGUMENT, with a tile not READY in HBM and
pinned, or while staging is barred, ST_STATE_CONFLICT, each logged; else it is under way until STAGE_COMPLETE
builds the bank from the supplied images and, for the other kinds and IDENTITY, the active bank; a valid one is
selected with TRIAL 1; an invalid one has its header erased, the selector unchanged; if the memory does not
program, both stay. CHIP_RESET by the host resets with CHIP_RESET_CMD. LOG_READ writes the records from FROM_SEQ
to the tile. LOG_RECORD_WRITE writes the oldest waiting record; a full ring loses its oldest sector. A token is
accepted only as R558 says and becomes PENDING; a refused one is counted. A JTAG instruction works at the boot's
level only. -/
def Obligations.DomeRequestsLogDebugAndJtag : Prop :=

  (∀ (s : State) (mid type tag : Nat) (words : List Nat) (c : Fin 64),
    let bound (n : Nat) : Bool := (s.channel n).sends 0 && (s.channel n).receives mid
    bound c = true → (∀ n : Nat, n < c.val → bound n = false) → (s.channel c).fifo.length + words.length < 32 →
      ((domeReply mid type tag words s).channel c).fifo.map (fun x => x.1.toNat) = (s.channel c).fifo.map (fun x => x.1.toNat) ++
        (((type + 0x80) * 2 ^ 24 + tag % 256 * 2 ^ 16 + words.length) :: words).map (fun w => w % 2 ^ 32) ∧
      (∀ n, n ≠ c.val → (domeReply mid type tag words s).channel n = s.channel n)) ∧
  (∀ (s : State) (c : Fin 64) (tag kind first tiles fromSeq count : Nat),
    let asks : List Instr := [.getInfo c tag, .stage c tag kind first tiles, .chipReset c tag, .logRead c tag fromSeq count first]
    ((s.channel c).receives 0 = false ∨ s.domeWorks = false → ∀ i ∈ asks, exec i s = .next s) ∧
    (∀ mid : Nat, (s.channel c).receives 0 = true → (s.channel c).sender.toNat = mid → s.domeWorks = true →
      (s.rel.fatal = true → exec (.chipReset c tag) s = .next s ∧ exec (.getInfo c tag) s = .next (domeReply mid 1 tag [1] s) ∧
        exec (.stage c tag kind first tiles) s = .next (domeReply mid 2 tag [1] s) ∧
        exec (.logRead c tag fromSeq count first) s = .next (domeReply mid 4 tag [1] s)) ∧
      (s.rel.fatal = false → exec (.getInfo c tag) s = .next (domeReply mid 1 tag
        [0, s.dome.fwVersion.toNat, s.dome.packVersion.toNat, ((s.dome.bank s.dome.bankB).version 3).toNat, s.dome.cfgVersion.toNat, s.domeStatus] s)) ∧
      (s.rel.fatal = false → mid ≠ 1 → exec (.stage c tag kind first tiles) s = .next (domeReply mid 2 tag [2] s) ∧
        exec (.chipReset c tag) s = .next (domeReply mid 3 tag [2] s) ∧ exec (.logRead c tag fromSeq count first) s = .next (domeReply mid 4 tag [2] s)) ∧
      (s.rel.fatal = false → mid = 1 →
        (∃ v, exec (.chipReset c tag) s = .next v ∧ v.clk = { ClkState.reset with pendingReset := some .chipResetCmd } ∧ v.spires = State.reset.spires ∧
          v.dome.copies = s.dome.copies ∧ v.dome.pending = s.dome.pending) ∧
        (let l := tileRange first tiles
         let ours := kind ≤ 3 ∧ 0 < tiles ∧ tiles ≤ 256 ∧ first + tiles ≤ tileCount ∧ (∀ n ∈ l, (s.tile n).lease = 0 ∧ (s.tile n).radio = false)
         let fit := (∀ n ∈ l, (s.tile n).inHbm = true ∧ (s.tile n).pin ≠ 0) ∧ s.dome.stage = none ∧ s.dome.selector.2.trial ≠ 1 ∧ s.dome.trial = false
         let poison := s.runPoisoned first 0 (tiles + 1) (tiles * tileBytes)
         (¬ ours → exec (.stage c tag kind first tiles) s = .next (domeReply 1 2 tag [2] (logEvent (.stage 2) s))) ∧
         (ours → ¬ fit → exec (.stage c tag kind first tiles) s = .next (domeReply 1 2 tag [1] (logEvent (.stage 1) s))) ∧
         (ours → fit → poison = true → ∃ u, exec (.stage c tag kind first tiles) s = .next (domeReply 1 2 tag [7] (logEvent (.stage 7) u)) ∧
           u = { s with rel := { s.rel with counters := u.rel.counters } }) ∧
         (ours → fit → poison = false → exec (.stage c tag kind first tiles) s = .next { s with
           dome := { s.dome with stage := some ⟨c, tag, kind, first, tiles⟩ } })) ∧
        (let e := s.tile first
         let ours := 0 < count ∧ count ≤ 4096 ∧ first < tileCount ∧ e.lease = 0 ∧ e.radio = false
         let fit := e.inHbm = true ∧ e.pin ≠ 0
         let rs := (s.dome.log.filter (fun r => decide (fromSeq ≤ r.seq.toNat))).take count
         let a := e.place.toNat * tileBytes
         (¬ ours → exec (.logRead c tag fromSeq count first) s = .next (domeReply 1 4 tag [2, 0] s)) ∧
         (ours → ¬ fit → exec (.logRead c tag fromSeq count first) s = .next (domeReply 1 4 tag [1, 0] s)) ∧
         (ours → fit → ∃ u, exec (.logRead c tag fromSeq count first) s = .next (domeReply 1 4 tag [0, rs.length] u) ∧
           u = { s with hbm := u.hbm, free := u.free } ∧ (∀ h, h ≠ e.stack.toNat → u.stack h = s.stack h) ∧
           (∀ b, b < a ∨ a + 64 * rs.length ≤ b → (u.stack e.stack.toNat).mem.read8 b = (s.stack e.stack.toNat).mem.read8 b) ∧
           (∀ i, (h : i < rs.length) → (u.stack e.stack.toNat).mem.readLE (a + 64 * i) 4 = (rs[i]'h).seq.toNat)))))) ∧
  (∀ (s : State) (programs : Bool) (b : BankImg),
    (s.dome.stage = none → exec (.stageComplete ⟨programs, b⟩) s = .next s) ∧
    (∀ j, s.dome.stage = some j →
      let a := s.dome.selector.2.activeB
      let old := s.dome.bank a
      let x := stagedBank j.kind b old
      let takes (k : Nat) : Prop := j.kind = 0 ∧ (k = 1 ∨ k = 3 ∨ k = 4 ∨ k = 2 ∧ b.image 2 ≠ none) ∨ j.kind = 1 ∧ k = 1 ∨ j.kind = 2 ∧ k = 2 ∨
        3 ≤ j.kind ∧ (k = 3 ∨ k = 4)
      (∀ k, (takes k → x.image k = b.image k) ∧ (¬ takes k → x.image k = old.image k)) ∧ x.identity = old.identity ∧ (∀ c, x.erased.error c = 3) ∧
      ∃ v, exec (.stageComplete ⟨programs, b⟩) s = .next v ∧ v.dome.stage = none ∧ v.dome.bank a = old ∧
        (programs = true → x.error s.dome.capacity = 0 → v.dome.bank (!a) = x ∧
          v.dome.copies = s.dome.copies.set Selector.none_ (1 - s.dome.selector.1) ⟨true, s.dome.selector.2.seq + 1, !a, 1⟩) ∧
        (programs = true → x.error s.dome.capacity ≠ 0 → v.dome.bank (!a) = x.erased ∧ v.dome.copies = s.dome.copies) ∧
        (programs = false → v.dome.bank (!a) = s.dome.bank (!a) ∧ v.dome.copies = s.dome.copies))) ∧
  (∀ s : State,
    (s.domeWorks = false ∨ s.dome.logQueue = [] → exec .logRecordWrite s = .next s) ∧
    (∀ r rest, s.domeWorks = true → s.dome.logQueue = r :: rest →
      (s.dome.log.length + 1 < 64512 → exec .logRecordWrite s = .next { s with dome := { s.dome with logQueue := rest, log := s.dome.log ++ [r] } }) ∧
      (64512 ≤ s.dome.log.length + 1 → exec .logRecordWrite s = .next { s with dome := { s.dome with
        logQueue := rest, log := (s.dome.log ++ [r]).drop 1024 } }))) ∧
  (∀ (s : State) (t : DebugToken) (op : JtagOp),
    let good := t.image.verified 6 (s.dome.bank s.dome.bankB).certKey = true ∧ t.digest = Config.deviceKeyDigest ∧ t.nonce = s.dome.nonce ∧
      (t.level = 1 ∨ t.level = 2 ∧ t.image.signer = 0)
    (s.domeWorks = false → exec (.debugTokenReceive t) s = .next s) ∧
    (s.domeWorks = true → good → ∃ v, exec (.debugTokenReceive t) s = .next v ∧ v.dome.pending = some (BitVec.ofNat 2 t.level) ∧
      v.dome.tokensRefused = s.dome.tokensRefused ∧ v = { s with dome := v.dome }) ∧
    (s.domeWorks = true → ¬ good → ∃ v, exec (.debugTokenReceive t) s = .next v ∧ v.dome.pending = s.dome.pending ∧
      v.dome.tokensRefused = satInc s.dome.tokensRefused ∧ v = { s with dome := v.dome }) ∧
    (op.level ≤ s.dome.debugLevel.toNat → exec (.jtagInstruction op) s = .next { s with out := .jtag op.code :: s.out }) ∧
    (s.dome.debugLevel.toNat < op.level → exec (.jtagInstruction op) s = .next s) ∧
    (op = .idcode ∨ op = .bypass ∨ op = .samplePreload ∨ op = .extest ∨ op = .ieee1149_6 → op.level = 0))

/-- For an issuer whose command passes the checks before every queue command: PWR_WAKE_CFG writes the wake pins'
enables and polarities. PWR_CAP sets a limit of 1,000 to 2,400 W, else ST_BAD_ARGUMENT. PWR_GATE of a domain
that nothing gates or above 29 gives ST_BAD_ARGUMENT, of one whose condition of Table 17.2 fails
ST_STATE_CONFLICT; else the named domains go off, the Spires of a pair that was on lose their state, a Tower's
common domain the crossbar registers of its unfenced Spires, a fabric domain its lanes' registers; stacks keep
their contents. PWR_UNGATE wakes the domains that are off and completes when all are ready. PWR_STATE with an
unknown target gives ST_BAD_ARGUMENT, before TIME_ACQUIRE or with an entry pending ST_STATE_CONFLICT, in the
state asked for ST_OK; else the chip first returns to Run, the conditions of Table 17.4 are checked, and the
state is entered, or its entry armed (ST_DEFERRED), Deep sleep and Off waiting for the flash; Sleep takes the
lanes down and a following servo to HOLDOVER. A refused entry leaves the state as it was. DOMAIN_READY turns a
waking domain on; an off Spire wipes. DEEP_SLEEP_ENTRY with no flash write under way switches the chip off, Deep
sleep keeping PWR_RETAIN. An enabled wake pin returns Idle and Sleep to Run and resets Deep sleep and Off with
WAKE. -/
def Obligations.DomainsStatesAndWakes : Prop :=

  (∀ (s : State) (iss : Issuer) (v : Word) (cap : Nat),
    (s.accepts 0x53 iss = true → exec (.pwrWakeCfg iss v) s = .next (complete iss 0x53 (.of 0) { s.begun 0x53 iss with
      pwr := { (s.begun 0x53 iss).pwr with wakeEnable := v.extractLsb' 0 4, wakePolarity := v.extractLsb' 4 4 } })) ∧
    (s.accepts 0x54 iss = true →
      (1000 ≤ cap → cap ≤ 2400 → exec (.pwrCap iss cap) s = .next (complete iss 0x54 (.of 0) { s.begun 0x54 iss with
        pwr := { (s.begun 0x54 iss).pwr with cap := BitVec.ofNat 12 cap } })) ∧
      (cap < 1000 ∨ 2400 < cap → exec (.pwrCap iss cap) s = .next (complete iss 0x54 (.of 2) (s.begun 0x54 iss))))) ∧
  (∀ (s : State) (iss : Issuer) (mask : Nat), s.accepts 0x51 iss = true →
    let u := s.begun 0x51 iss
    let never := 2 ^ 30 ≤ mask ∨ mask.testBit 22 = true ∨ mask.testBit 25 = true ∨ mask.testBit 28 = true ∨ mask.testBit 29 = true
    let fit := ∀ d, d < 30 → mask.testBit d = true → u.gateOk d = true
    (never → exec (.pwrGate iss mask) s = .next (complete iss 0x51 (.of 2) u)) ∧
    (¬ never → ¬ fit → exec (.pwrGate iss mask) s = .next (complete iss 0x51 (.of 1) u)) ∧
    (¬ never → fit → ∃ v, exec (.pwrGate iss mask) s = .next (complete iss 0x51 (.of 0) v) ∧
      (∀ d, d < 30 → v.pwr.domains.getLsbD d = (u.pwr.domains.getLsbD d && !mask.testBit d)) ∧
      v.pwr = { u.pwr with domains := v.pwr.domains } ∧ v.time = u.time ∧ v.clk = u.clk ∧ v.tier = u.tier ∧ v.flash = u.flash ∧
      (∀ k, v.spire k =
        (let x := if mask.testBit (k / 2) = true ∧ k < 32 ∧ u.pwr.domains.getLsbD (k / 2) = true then (u.spire k).powerOff else u.spire k
         if (mask.testBit (16 + k / 8) = true ∧ k < 32 ∧ u.pwr.domains.getLsbD (16 + k / 8) = true) ∧ x.seq.mode ≠ .fenced then { x with xb := XbState.reset } else x)) ∧
      (∀ n : Fin 64, mask.testBit (20 + n.val / 32) = true → u.pwr.domains.getLsbD (20 + n.val / 32) = true → (u.lane n).regs.state ≠ .disabled →
        (v.lane n).regs = { LaneRegs.reset with state := .down, enable := (u.lane n).regs.enable }) ∧
      (∀ h, (v.stack h).mem = (u.stack h).mem))) ∧
  (∀ (s : State) (iss : Issuer) (mask : Nat), s.accepts 0x52 iss = true →
    let u := s.begun 0x52 iss
    (2 ^ 30 ≤ mask → exec (.pwrUngate iss mask) s = .next (complete iss 0x52 (.of 2) u)) ∧
    (mask < 2 ^ 30 → (∀ d, d < 30 → mask.testBit d = true → u.domainOn d = true) → exec (.pwrUngate iss mask) s = .next (complete iss 0x52 (.of 0) u)) ∧
    (mask < 2 ^ 30 → (∃ d, d < 30 ∧ mask.testBit d = true ∧ u.domainOn d = false) → ∃ v, exec (.pwrUngate iss mask) s = .next v ∧
      v = { u with pwr := { u.pwr with waking := v.pwr.waking, wakers := u.pwr.wakers ++ [(iss, mask)] } } ∧
      ∀ d, d < 30 → v.pwr.waking.getLsbD d = (u.pwr.waking.getLsbD d || (mask.testBit d && !u.pwr.domains.getLsbD d)))) ∧
  (∀ (s : State) (j : Fin 30),
    let d := j.val
    (s.pwr.waking.getLsbD d = false → exec (.domainReady j) s = .next (servedWrites s)) ∧
    (s.pwr.waking.getLsbD d = true → ∃ v, exec (.domainReady j) s = .next (servedWrites v) ∧ v.pwr.writes = s.pwr.writes ∧ v.pwr.waking.getLsbD d = false ∧ v.pwr.domains.getLsbD d = true ∧
      (∀ e, e < 30 → e ≠ d → v.pwr.waking.getLsbD e = s.pwr.waking.getLsbD e ∧ v.pwr.domains.getLsbD e = s.pwr.domains.getLsbD e) ∧
      (∀ k, k / 2 = d → d < 16 → (s.spire k).seq.mode = .off → (v.spire k).seq.mode = .wiping ∧ (v.spire k).seq.wipeLeft = 16384) ∧
      (∀ k, (k / 2 ≠ d ∨ 16 ≤ d ∨ (s.spire k).seq.mode ≠ .off) → v.spire k = s.spire k) ∧
      (d = 23 → v.radio = { s.radio with dlOn := true }) ∧ (d = 24 → v.radio = { s.radio with ulOn := true }) ∧
      (d ≠ 23 → d ≠ 24 → v.radio = s.radio)) ∧
    (s.pwr.writes = [] → servedWrites s = s) ∧
    (∀ (mid off : Nat) (x : Word), s.pwr.writes = [(mid, off, x)] →
      ((∀ e ∈ domainOf off, s.domainOn e = true) → servedWrites s = bar0Write mid off x { s with pwr := { s.pwr with writes := [] } }) ∧
      ((∃ e ∈ domainOf off, s.domainOn e = false) → servedWrites s = s))) ∧
  (∀ (s : State) (iss : Issuer) (target : Nat) (atT : Bool), s.accepts 0x50 iss = true →
    let u := s.begun 0x50 iss
    let up := u.clk.chipState = .timeAcquire ∨ u.clk.chipState = .ready
    let free := u.pwr.entry = none ∧ u.pwr.deepTarget = none
    let out (st : Nat) (v : State) : Prop := exec (.pwrState iss target atT) s = .next (complete iss 0x50 (.of st) v)
    (4 < target → out 2 u) ∧
    (target ≤ 4 → ¬ (up ∧ free) → out 1 u) ∧
    (∀ m, powerMode target = some m → up → free →
      (u.pwr.mode = m → out 0 u) ∧
      (u.pwr.mode ≠ m →
        let r := returnToRun u
        (r.pwr.mode = m → out 0 r) ∧
        (r.pwr.mode ≠ m → r.entryOk m = false → out 1 u) ∧
        (r.pwr.mode ≠ m → r.entryOk m = true → atT = true → out 8 { r with pwr := { r.pwr with entry := some m } }) ∧
        (r.pwr.mode ≠ m → r.entryOk m = true → atT = false → m = .idle → out 0 { r with pwr := { r.pwr with mode := .idle } }) ∧
        (r.pwr.mode ≠ m → r.entryOk m = true → atT = false → m = .sleep → ∃ v, out 0 v ∧ v.pwr = { r.pwr with mode := .sleep } ∧
          (∀ n : Fin 64, (r.lane n).regs.state ≠ .disabled → (v.lane n).regs.state = .down) ∧ (r.follows = true → v.time.servo = tsHoldover)) ∧
        (r.pwr.mode ≠ m → r.entryOk m = true → atT = false → m = .deep ∨ m = .off → exec (.pwrState iss target atT) s =
          .next { r with pwr := { r.pwr with deepTarget := some (m, some iss) } })))) ∧
  (∀ s : State,
    (s.pwr.mode = .sleep ∨ s.pwr.mode = .idle → (returnToRun s).pwr = { s.pwr with mode := .run, restart := true } ∧ (returnToRun s).spires = s.spires ∧
      (∀ n : Fin 64, s.pwr.mode = .sleep → (s.lane n).regs.enable = true → s.domainOn (20 + n.val / 32) = true → ((returnToRun s).lane n).regs.state = .training)) ∧
    (s.pwr.mode ≠ .sleep → s.pwr.mode ≠ .idle → returnToRun s = s)) ∧
  (∀ s : State,
    (s.pwr.deepTarget = none ∨ s.flash.inflight ≠ [] ∨ s.flash.waits ≠ [] → exec .deepSleepEntry s = .next s) ∧
    (∀ m who, s.pwr.deepTarget = some (m, who) → s.flash.inflight = [] → s.flash.waits = [] → m = .deep ∨ m = .off → ∃ v, exec .deepSleepEntry s = .next v ∧ v.pwr.mode = m ∧
      v.pwr.domains = 0 ∧ (s.pwr.mode ≠ .off → v.pwr.retain = if m = .off then Mem.empty else s.pwr.retain) ∧ v.pwr.wakeEnable = s.pwr.wakeEnable ∧
      v.pwr.wakePolarity = s.pwr.wakePolarity ∧ v.clk = { ClkState.reset with pendingReset := none } ∧ v.spires = State.reset.spires ∧ v.flash.stripes = s.flash.stripes ∧ v.flash.mem = s.flash.mem ∧
      v.flash.blocks = s.flash.blocks ∧ v.flash.journal = true ∧ v.out.head? = some (.mctp (.entering m)) ∧ v.pending = s.pending)) ∧
  (∀ (s : State) (i : Fin 4),
    let lvl : BitVec 4 := BitVec.twoPow 4 i
    let pins := { s.pins with wake := if s.pwr.wakePolarity.getLsbD i = true then s.pins.wake ||| lvl else s.pins.wake &&& ~~~lvl }
    (s.pwr.wakeEnable.getLsbD i = false ∨ s.pins.resetN = false → exec (.wakePin i) s = .next s) ∧
    (s.pwr.wakeEnable.getLsbD i = true → s.pins.resetN = true →
      (s.pwr.mode = .run → exec (.wakePin i) s = .next { s with pins := pins }) ∧
      (s.pwr.mode = .idle ∨ s.pwr.mode = .sleep → exec (.wakePin i) s = .next (returnToRun { s with pins := pins, pwr := { s.pwr with woke := lvl } })) ∧
      (s.pwr.mode = .deep ∨ s.pwr.mode = .off → ∃ v, exec (.wakePin i) s = .next v ∧ v.clk = { ClkState.reset with pendingReset := some .wake } ∧
        v.pwr.woke = lvl ∧ v.pwr.mode = .run ∧ v.pwr.retain = (if s.pwr.mode = .off then Mem.empty else s.pwr.retain) ∧ v.spires = State.reset.spires)))

/-- AVS_RESPONSE with a good CRC and SlaveAck 0 ends the outstanding request: an acknowledged write sets the
setpoint, a read the rail's voltage or current; only that rail changes. Any other response, or AVS_TIMEOUT 5 µs
after the request, sends it again up to three times, then a present rail is at FAULT and nothing waits for it.
With none outstanding nothing happens. AVS_LOOP_TICK every 50 µs from TIME_ACQUIRE on asks each adjustable core
rail for 10 mV more or 5 mV less by its lowest slack, between 620 and 860 mV. THROTTLE_SAMPLE, once every 100 µs
of hall time, forms P from every present rail; above 2,700 W, or with the mean of the samples above 2,400 W, an
emergency stop is in force; without one the level rises, falls or holds, at most the number of Spires it may
hold. VR_ALERT starts a stop: every armed, running or replaying Spire not radio-owned and not owed its STOP is
STOPPED. ESTOP_END, after 100 µs of quiet, ends it with the level at 16 at most. RESET_N low for 10 µs resets
the chip, below 1 µs nothing, between is left open; while the journal after POWER_FAIL_N is unwritten the reset
waits for it (FLASH_WRITE_ACK). POWER_LOSS keeps flash and configuration memory. From 105 °C the wake island
trips. -/
def Obligations.RegulatorsThrottleStopsAndPins : Prop :=

  (∀ (s : State) (ok : Bool) (ack value : Nat),
    (s.pwr.request = none → exec (.avsResponse ok ack value) s = .next s ∧ exec .avsTimeout s = .next s) ∧
    (∀ q, s.pwr.request = some q →
      let x := s.rail q.rail
      let again : State := { s with pwr := { s.pwr with request := some { q with sent := s.clock.tick, tries := q.tries + 1 } }, out := .avs q.rail q.ask :: s.out }
      let fails (i : Instr) : Prop := (q.tries < 3 → exec i s = .next again) ∧
        (3 ≤ q.tries → ∃ v, exec i s = .next v ∧ (x.present = true → v.rail q.rail = { x with fault := true, settle := none }) ∧
          (x.present = false → v.rail q.rail = x) ∧ (∀ r, r ≠ q.rail → v.rail r = s.rail r) ∧ (∀ y ∈ v.pwr.queue, y ∈ s.pwr.queue ∧ y.1 ≠ q.rail) ∧ v.spires = s.spires)
      (ok = true → ack = 0 → ∃ v, exec (.avsResponse ok ack value) s = .next v ∧ (∀ r, r ≠ q.rail → v.rail r = s.rail r) ∧ v.spires = s.spires ∧
        (v.rail q.rail).present = true ∧
        (∀ mv, q.ask = .write mv → (v.rail q.rail).setpoint = BitVec.ofNat 12 mv ∧ (v.rail q.rail).settle = some s.clock.tick ∧ (v.rail q.rail).voltage = x.voltage) ∧
        (q.ask = .readCurrent → (v.rail q.rail).current = BitVec.ofNat 16 value ∧ (v.rail q.rail).voltage = x.voltage) ∧
        (q.ask = .readVoltage → (v.rail q.rail).voltage = BitVec.ofNat 16 value ∧ (v.rail q.rail).current = x.current ∧
          (x.present = true → value ≤ x.setpoint.toNat + 5 → x.setpoint.toNat ≤ value + 5 → (v.rail q.rail).settle = none))) ∧
      (ok = false ∨ ack ≠ 0 → fails (.avsResponse ok ack value)) ∧
      (q.sent + 8500 ≤ s.clock.tick → fails .avsTimeout) ∧ (s.clock.tick < q.sent + 8500 → exec .avsTimeout s = .next s))) ∧
  (∀ s : State,
    let due := (s.clk.chipState = .timeAcquire ∨ s.clk.chipState = .ready) ∧ s.pwr.loopAt + 85000 ≤ s.clock.tick
    let asks (r : Nat) : Prop := (s.rail r).adjustable = true ∧ (s.rail r).fault = false ∧ (s.rail r).settle = none ∧ (∀ q ∈ s.pwr.queue, q.1 ≠ r) ∧
      (∀ q, s.pwr.request = some q → q.rail = r → q.ask = .readVoltage ∨ q.ask = .readCurrent) ∧ s.loopRuns r = true
    (¬ due → exec .avsLoopTick s = .next s) ∧
    (due → s.pwr.request.isSome = true → ∃ v, exec .avsLoopTick s = .next v ∧ v.pwr.loopAt = s.clock.tick ∧ v.pwr.rails = s.pwr.rails ∧ v.spires = s.spires ∧
      (∀ q ∈ s.pwr.queue, q ∈ v.pwr.queue) ∧
      (∀ r g, r < 5 → asks r → s.railSlack r = some g → loopTarget s.clk.mode g (s.rail r).setpoint.toNat ≠ (s.rail r).setpoint.toNat →
        (r, loopTarget s.clk.mode g (s.rail r).setpoint.toNat) ∈ v.pwr.queue)) ∧
    (due → s.pwr.request = none → ∃ v, exec .avsLoopTick s = .next v ∧ v.pwr.loopAt = s.clock.tick ∧ v.pwr.rails = s.pwr.rails ∧ v.spires = s.spires)) ∧
  (∀ slack v : Nat,
    (slack < 30 → loopTarget false slack v = min 860 (v + 10)) ∧ (45 < slack → loopTarget false slack v = max 620 (v - 5)) ∧
    (30 ≤ slack → slack ≤ 45 → loopTarget false slack v = v) ∧
    (slack < 18 → loopTarget true slack v = min 860 (v + 10)) ∧ (30 < slack → loopTarget true slack v = max 620 (v - 5)) ∧
    (18 ≤ slack → slack ≤ 30 → loopTarget true slack v = v)) ∧
  (∀ s : State,
    let due := s.clk.done = true ∧ s.timeRuns = true ∧ s.sampleNo ≠ s.pwr.sampleAt
    let p := ((List.range 16).foldl (fun n r => n + (if (s.rail r).present = true then (s.rail r).voltage.toNat * (s.rail r).current.toNat else 0)) 0) / 10000
    let l := (p :: s.pwr.samples).take 100
    let peak := 2700 < p ∨ 2400 * l.length < l.sum
    (¬ due → exec .throttleSample s = .next s) ∧
    (due → ∃ v, exec .throttleSample s = .next v ∧ v.pwr.samples = l ∧ v.pwr.sampleAt = s.sampleNo ∧ (peak → v.pwr.estop = true) ∧
      (s.pwr.estop = true → v.pwr.estop = true) ∧ (v.pwr.estop = true → v.pwr.level = s.pwr.level) ∧
      (¬ peak → s.pwr.estop = false → v.pwr.estop = false ∧ v.pwr.level = min
        (if s.pwr.cap.toNat < p ∨ 1472 ≤ s.tempMax.1 then min s.pwr.level s.throttleMax + 1
         else if p + 50 < s.pwr.cap.toNat then min s.pwr.level s.throttleMax - 1 else min s.pwr.level s.throttleMax) s.throttleMax))) ∧
  (∀ s : State,
    (s.clk.done = false → exec .vrAlert s = .next { s with pins := { s.pins with vrAlertN := false } }) ∧
    (s.clk.done = true → ∃ v, exec .vrAlert s = .next v ∧ v.pins.vrAlertN = false ∧ v.pwr.estop = true ∧
      (s.pwr.estop = true → v.pwr.causes = s.pwr.causes ||| 1 ∧ v.pwr.estops = s.pwr.estops ∧ v.spires = s.spires) ∧
      (s.pwr.estop = false → v.pwr.causes = 1 ∧ v.pwr.estops = satInc s.pwr.estops ∧
        (∀ k : Fin 32, s.role k ≠ .radioOwned → s.stopOwed k = false → (s.spire k).seq.mode = .armed ∨ (s.spire k).seq.mode = .running ∨ (s.spire k).seq.mode = .replay →
          (v.spire k).seq.mode = .stopped)))) ∧
  (∀ s : State,
    (s.pwr.estop = false ∨ s.samplesQuiet = false ∨ (∀ t, s.pwr.clearSince = some t → s.clock.tick < t + 170000) → exec .estopEnd s = .next s) ∧
    (∀ t, s.pwr.clearSince = some t → s.pwr.estop = true → s.samplesQuiet = true → t + 170000 ≤ s.clock.tick → ∃ v, exec .estopEnd s = .next v ∧
      v.pwr.estop = false ∧ v.pwr.level = min 16 s.throttleMax ∧ v.pins.vrAlertN = true ∧ v.pins.powerFailN = true)) ∧
  (∀ (s : State) (us : Nat),
    let due := s.flash.noProgram = true ∧ s.flash.journal = false
    let low (f : Nat) : State := { s with pins := { s.pins with resetN := false, resetHeld := true }, free := f }
    let resets (f : Nat) : Prop := (due → exec (.resetPinAssert us) s = .next (low f)) ∧
      (¬ due → ∃ v, exec (.resetPinAssert us) s = .next v ∧ v.clk = { ClkState.reset with pendingReset := some .resetPin } ∧ v.spires = State.reset.spires ∧
        v.pins.resetN = false ∧ v.pins.resetHeld = false ∧ v.free = f)
    (us = 0 → exec (.resetPinAssert us) s = .next s) ∧ (10 ≤ us → resets s.free) ∧
    (0 < us → us < 10 → (Config.freeNat s.free % 2 = 1 → resets (s.free + 1)) ∧
      (Config.freeNat s.free % 2 = 0 → exec (.resetPinAssert us) s = .next { s with free := s.free + 1 })) ∧
    (∀ (t : State), (t.pins.resetHeld = false ∨ t.flash.noProgram = true ∧ t.flash.journal = false → heldReset t = t) ∧
      (t.pins.resetHeld = true → (t.flash.noProgram = false ∨ t.flash.journal = true) → heldReset t = chipReset .resetPin t) ∧
      ∀ (n : Nat) (x : Option (Fin 16)), exec (.flashWriteAck ⟨n, x⟩) t = .next (heldReset (flashWriteAck n (x.map (fun y => y.val)) t)))) ∧
  (∀ (s : State) (temp : Int), ∃ v, exec .powerLoss s = .next v ∧ v.clk = { ClkState.reset with pendingReset := some .powerOn } ∧ v.spires = State.reset.spires ∧
    v.hbm = Tab.empty ∧ v.pwr = PwrState.reset ∧ v.flash.stripes = s.flash.stripes ∧ v.flash.mem = s.flash.mem ∧
    v.flash.journal = (s.flash.noProgram && s.flash.journal) ∧
    v.dome.copies = s.dome.copies ∧ (s.dome.stage = none → v.dome.bankA = s.dome.bankA ∧ v.dome.bankBImg = s.dome.bankBImg) ∧ v.dome.log = s.dome.log ∧ v.dome.pending = none ∧
    v.pins.trips = false ∧
    (105 ≤ temp → exec (.wakeIslandThermtrip temp) s = .next { s with pins := { s.pins with trips := true } }) ∧
    (temp < 105 → exec (.wakeIslandThermtrip temp) s = .next s))

/-- ROOT_PLL_LOSS with the Minuet done puts the chip into a reset: the clock registers are at their reset values
with a reset of cause CLOCK_LOSS under way, and the clocks, the time unit, the trigger and capture channels, the
counters, the Spires, the tier engine, the radio, the fabric, the traffic manager, remote memory, the
dispatcher, the leases and the host attachment are as State.reset has them. RESET_RELEASE of that state records
RST_CAUSE = CLOCK_LOSS. Before the Minuet is done ROOT_LOCK alone changes, to 0 (the Minuet waits for lock). -/
def Obligations.LossOfTheRootLockResets : Prop :=

  ∀ s : State,
    (s.clk.done = true → ∃ t, exec .rootPllLoss s = .next t ∧
      t.clk = { ClkState.reset with pendingReset := some .clockLoss } ∧ t.clock = State.reset.clock ∧ t.time = State.reset.time ∧
      t.trig = State.reset.trig ∧ t.cap = State.reset.cap ∧ t.cnt = State.reset.cnt ∧ t.spires = State.reset.spires ∧
      t.tier = State.reset.tier ∧ t.radio = State.reset.radio ∧ t.fab = State.reset.fab ∧ t.be = State.reset.be ∧
      t.rm = State.reset.rm ∧ t.dsp = State.reset.dsp ∧ t.leases = State.reset.leases ∧ t.host = State.reset.host ∧
      ∃ u, exec .resetRelease t = .next u ∧ u.clk.rstCause = .clockLoss ∧ u.clk.pendingReset = none) ∧
    (s.clk.done = false → exec .rootPllLoss s = .next { s with clk := { s.clk with rootLock := false } })

/-- For every state that holds the invariant and whose CHIP_STATE is READY, a step leaves CHIP_STATE at READY, or
every clock register stands at its reset value and either a reset is under way or the power state is Deep sleep
or Off (State.fresh). The invariant is State.inv, kept by every step (LimitsAreKept). -/
def Obligations.ReadyIsLeftOnlyByReset : Prop :=

  ∀ s t : State, s.inv → s.clk.chipState = .ready → step s = .next t → t.clk.chipState = .ready ∨ t.fresh

/-- For every state that holds the invariant, a step that makes CHIP_STATE READY starts in TIME_ACQUIRE with
TIME_STATE LOCKED. In READY a GO by the Dome that reaches the chip only sets MODE and makes TIME_SET_CTRL.STATUS
read ST_STATE_CONFLICT, now or at an edge, and hall time is unchanged; an edge of 1PPS_IN leaves hall time as it
was. The invariant is State.inv, kept by every step (LimitsAreKept). -/
def Obligations.ReadyOnlyWhileLocked : Prop :=

  (∀ s t : State, s.inv → s.clk.chipState ≠ .ready → step s = .next t → t.clk.chipState = .ready →
    s.clk.chipState = .timeAcquire ∧ s.time.servo = tsLocked) ∧
  (∀ (s : State) (mode : Bool), s.reachable = true → s.clk.chipState = .ready → ∃ t, exec (.timeSetGo 0 mode) s = .next t ∧
    t = { s with time := { s.time with setMode := mode, setStatus := 1 } } ∧ t.time.hall = s.time.hall) ∧
  (∀ (s : State) (rising : Bool) (phase : Fin 16), s.inv → s.clk.chipState = .ready → ∃ t, exec (.ppsInEdge ⟨rising, phase⟩) s = .next t ∧ t.time.hall = s.time.hall)

/-- For every state that holds the invariant and whose CHIP_STATE is READY, a step leaves hall time as it is; or it
is the tick of an empty queue (log entry 10) and hall time takes its next value; or the chip was reset or
entered Deep sleep or Off. The next value is what a coarse set gave the next edge, if one did (R72, log entry
56), else the hall time plus the increment in force, in units of 2^-32 ns, its nanoseconds carried into the
seconds, while hall time runs. -/
def Obligations.HallTimeMovesOnlyByTheIncrement : Prop :=

  (∀ s t : State, s.inv → s.clk.chipState = .ready → step s = .next t →
    t.time.hall = s.time.hall ∨ (s.pending = [] ∧ t.time.hall = s.nextHall) ∨ t.fresh) ∧
  (∀ (s : State) (h : HallTime), s.timeRuns = true → s.time.edgeAt = some h → s.nextHall = h) ∧
  (∀ s : State, s.timeRuns = true → s.time.edgeAt = none → s.now + s.time.incr < 2 ^ 64 * 1000000000 * 2 ^ 32 →
    s.nextHall.units = s.time.hall.units + s.time.incr ∧ s.nextHall.ns.toNat < 1000000000)

/-- From a state that holds the invariant with LOCKED = 1, a step of any command, and a tick, leaves LOCKED at 1, or
resets the chip or puts it into Deep sleep or Off. With LOCKED = 1 a write of a binding entry or of MB_LOCK
changes nothing, whichever MID writes it. -/
def Obligations.MailboxLockHolds : Prop :=

  (∀ s t : State, s.inv → s.host.locked = true → step s = .next t → t.host.locked = true ∨ t.fresh) ∧
  (∀ (s : State) (mid : Nat) (c : Fin 64) (v : Word), s.host.locked = true →
    exec (.mbBindWrite mid c v) s = .next s ∧ exec (.mbLockWrite mid v) s = .next s)

/-- For every state that holds the invariant, a step of any command, and a tick, leaves every Tower that is out of
service out of service, unless it resets the chip or puts it into Deep sleep or Off. The invariant is State.inv,
kept by every step (LimitsAreKept). -/
def Obligations.TowersStayOut : Prop :=

  ∀ (s t : State) (k : Nat), s.inv → s.rel.towerOut.getLsbD k = true → step s = .next t → t.rel.towerOut.getLsbD k = true ∨ t.fresh

/-- For every command and every state, exec answers a next state, never a fault or a refusal, and the queue of
waiting commands is as it was. (The queue is the model's own; the spec gives every command an effect in every
state, or none where it has no effect.) -/
def Obligations.EveryCommandCompletes : Prop :=

  ∀ (c : Instr) (s : State), ∃ t, exec c s = .next t ∧ t.pending = s.pending

/-- From every state that holds State.inv, a step answers a state that holds it: hall time and the hall time that
waits for 1PPS_IN have at most 999,999,999 nanoseconds, the throttle level is at most 32, no mailbox FIFO holds
more than 32 words, CHIP_STATE is BOOT, TIME_ACQUIRE or READY only after the Minuet is done and FAILED only
after it failed, and in READY no hall time waits for 1PPS_IN. Without a reset, CHIP_STATE moves at most one
place on in its order, to FAILED from MINUET alone. -/
def Obligations.LimitsAreKept : Prop :=

  ∀ s t : State, s.inv → step s = .next t → t.inv ∧ (t.fresh ∨ s.chipMoves t)

/-- State.reset holds State.inv, its CHIP_STATE is MINUET, a POWER_ON reset is under way (log entry 3), and no
command waits. -/
def Obligations.LimitsHoldAtReset : Prop :=

  State.reset.inv ∧ State.reset.clk.chipState = .minuet ∧ State.reset.clk.pendingReset = some .powerOn ∧ State.reset.pending = []

/-- The tick is the model's choice (log entry 10). With an empty queue and a reset under way, a step changes
nothing. Otherwise the root's count rises by 1. With no Spire listed, a CCLK edge that a droop has asked to
suppress is suppressed and counts nowhere; else, after Minuet phase 1, in Run SPC_CYCLE and the plan position
rise by 1, in Idle the plan position alone, and in Sleep neither. With every second tick from phase 1 on, a BCLK
edge, hall time takes its next value and the count of BCLK edges rises by 1, but for an edge that the droop
suppresses; with the others both stay. -/
def Obligations.IdleStepTicks : Prop :=

  (∀ s : State, s.pending = [] → s.clk.pendingReset.isSome = true → step s = .next s) ∧
  (∀ s : State, s.pending = [] → s.clk.pendingReset = none → s.spires = Tab.empty → ∃ t, step s = .next t ∧
    t.clock.tick = s.clock.tick + 1 ∧ t.pending = [] ∧
    (0 < s.clock.skip → t.clock.skip = s.clock.skip - 1 ∧ t.clock.edges = s.clock.edges ∧ t.clock.plan = s.clock.plan) ∧
    (s.clock.skip = 0 → s.clk.phase1Done = true → s.pwr.mode = .run → t.clock.edges = s.clock.edges + 1 ∧ t.clock.plan = s.clock.plan + 1) ∧
    (s.clock.skip = 0 → s.clk.phase1Done = true → s.pwr.mode = .idle → t.clock.edges = s.clock.edges ∧ t.clock.plan = s.clock.plan + 1) ∧
    (s.clock.skip = 0 → s.clk.phase1Done = false ∨ s.pwr.mode = .sleep → t.clock.edges = s.clock.edges ∧ t.clock.plan = s.clock.plan) ∧
    ((s.clock.tick + 1) % 2 = 0 → s.clk.phase1Done = true → t.time.hall = s.nextHall ∧ t.clock.bclk = (if 0 < s.clock.skip then s.clock.bclk else s.clock.bclk + 1)) ∧
    ((s.clock.tick + 1) % 2 = 1 ∨ s.clk.phase1Done = false → t.time.hall = s.time.hall ∧ t.clock.bclk = s.clock.bclk))

/-- After reset, reads of BAR0 by MID 1 answer the reset values that the register tables give, wherever that is not
0: TIME_INCR, the engines' IN_SERVICE masks, BEQ_n_q CFG, LIMITS and BURST for every lane n and queue q,
DSP_ROLES, DB_MASK, QP_SIZE, REL_CHIP_HEALTH, the governor's registers, the two alarm thresholds, PWR_DOMAINS,
PWR_CAP and, for every Tower t, TWR_ID = t and TWR_POWER. DOME_WDOG reads its value, and DOME_DB_MASK reads its
value for MID 0. An offset that the map leaves unimplemented reads 0. -/
def Obligations.ResetValuesOfTheRegisters : Prop :=

  (∀ p ∈ ([(0x00010020, 0x2D2D2D2D), (0x00010024, 1), (0x00300010, 0xFFFF), (0x00300014, 0x00FFFFFF), (0x00300018, 0xFFFFFFFF),
      (0x0030001C, 0xFF), (0x00050008, 0xFFFFFFFF), (0x0005000C, 0xFFFFFFFF), (0x00042004, 0xFFFFFFFF), (0x00043010, 0x404),
      (0x003C0014, 0x3E8), (0x003C0200, 0x40), (0x003C0204, 2), (0x003C0208, 0x01F40032), (0x003C020C, 0x01F40002), (0x003C0210, 0x3C),
      (0x003C2100, 0xF), (0x003C3100, 0xFF88), (0x003E0014, 0x7D0), (0x00020104, 0x3FFFFFFF), (0x0002010C, 0x960), (0x00400000, 0),
      (0x05000000, 0)] : List (Nat × Nat)), State.reset.readReg 1 0 p.1 = BitVec.ofNat 32 p.2) ∧
  State.reset.readReg 0 0 0x003E0804 = 0xFFFFFFFF ∧
  (∀ (n : Fin 64) (q : Fin 8), State.reset.readReg 1 0 (0x00201000 + 0x200 * n + 0x20 * q) = 0x00010000 ∧
    State.reset.readReg 1 0 (0x00201000 + 0x200 * n + 0x20 * q + 4) = 0x00200040 ∧
    State.reset.readReg 1 0 (0x00201000 + 0x200 * n + 0x20 * q + 12) = 0x2C00) ∧
  (∀ t : Fin 4, State.reset.readReg 1 0 (0x01000000 * (t + 1)) = BitVec.ofNat 32 t ∧
    State.reset.readReg 1 0 (0x01000000 * (t + 1) + 4) = 0xC000000F)
end

