-- ==== Sys2Proof/Laws/Tab.lean ====
section
/-! SUPPORT. Sparse tables: what a read gives after a write, and that every update keeps the canonical form. -/

set_option Elab.async false

namespace Sys2Proof.Machine

variable {α : Type}

/-! ### Reading after writing -/

theorem tabFind_insert (d v : α) (k j : Nat) (l : List (Nat × α)) :
    tabFind d j (tabInsert k v l) = if k = j then v else tabFind d j l := by
  induction l with
  | nil => simp [tabInsert, tabFind]
  | cons p r ih =>
    obtain ⟨a, x⟩ := p
    simp only [tabInsert]
    split
    · simp only [tabFind, ih]; split <;> (split <;> first | rfl | omega)
    · split
      · subst_vars; simp only [tabFind]; split <;> rfl
      · simp only [tabFind]

theorem tabFind_erase (d : α) (k j : Nat) (l : List (Nat × α)) :
    tabFind d j (tabErase k l) = if k = j then d else tabFind d j l := by
  induction l with
  | nil => simp [tabErase, tabFind]
  | cons p r ih =>
    obtain ⟨a, x⟩ := p
    simp only [tabErase]
    split
    · rw [ih]; simp only [tabFind]; split <;> (try split) <;> first | rfl | omega
    · simp only [tabFind, ih]; split <;> (try split) <;> first | rfl | omega

@[simp] theorem Tab.get_empty (d : α) (k : Nat) : (Tab.empty : Tab α).get d k = d := rfl

/-- A read after a write: the value written at its index, the old value elsewhere. -/
theorem Tab.get_set [DecidableEq α] (t : Tab α) (d v : α) (k j : Nat) :
    (t.set d k v).get d j = if k = j then v else t.get d j := by
  unfold Tab.set Tab.get
  split
  · subst_vars; simp only [tabFind_erase]
  · simp only [tabFind_insert]

@[simp] theorem Tab.get_set_same [DecidableEq α] (t : Tab α) (d v : α) (k : Nat) : (t.set d k v).get d k = v := by
  simp [Tab.get_set]

theorem Tab.get_set_other [DecidableEq α] (t : Tab α) (d v : α) {k j : Nat} (h : k ≠ j) :
    (t.set d k v).get d j = t.get d j := by simp [Tab.get_set, h]

theorem Tab.get_modify [DecidableEq α] (t : Tab α) (d : α) (f : α → α) (k j : Nat) :
    (t.modify d k f).get d j = if k = j then f (t.get d k) else t.get d j := by
  simp [Tab.modify, Tab.get_set]

@[simp] theorem Tab.get_modify_same [DecidableEq α] (t : Tab α) (d : α) (f : α → α) (k : Nat) :
    (t.modify d k f).get d k = f (t.get d k) := by simp [Tab.get_modify]

theorem Tab.get_modify_other [DecidableEq α] (t : Tab α) (d : α) (f : α → α) {k j : Nat} (h : k ≠ j) :
    (t.modify d k f).get d j = t.get d j := by simp [Tab.get_modify, h]

/-! ### The canonical form -/

/-- Every index of a list of pairs is at least `n`. -/
def tabFrom (n : Nat) (l : List (Nat × α)) : Prop := ∀ p ∈ l, n ≤ p.1

theorem tabRising_cons (a : Nat) (x : α) (l : List (Nat × α)) :
    tabRising ((a, x) :: l) = true ↔ tabFrom (a + 1) l ∧ tabRising l = true := by
  induction l generalizing a x with
  | nil => simp [tabRising, tabFrom]
  | cons p r ih =>
    obtain ⟨b, y⟩ := p
    rw [tabRising, Bool.and_eq_true, decide_eq_true_iff, ih b y]
    constructor
    · rintro ⟨hab, hr, h⟩
      refine ⟨?_, hr, h⟩
      intro q hq
      rcases List.mem_cons.mp hq with rfl | hq
      · exact hab
      · have := hr q hq; omega
    · rintro ⟨h1, hr, h⟩
      exact ⟨h1 (b, y) (by simp), hr, h⟩

theorem tabFrom_mono {m n : Nat} (h : m ≤ n) {l : List (Nat × α)} (hl : tabFrom n l) : tabFrom m l :=
  fun p hp => Nat.le_trans h (hl p hp)

theorem tabInsert_from {n k : Nat} (v : α) (hk : n ≤ k) {l : List (Nat × α)} (h : tabFrom n l) :
    tabFrom n (tabInsert k v l) := by
  induction l with
  | nil => intro p hp; simp [tabInsert] at hp; simp [hp, hk]
  | cons q r ih =>
    obtain ⟨a, x⟩ := q
    have ha : n ≤ a := h (a, x) (by simp)
    have hr : tabFrom n r := fun p hp => h p (by simp [hp])
    intro p hp
    simp only [tabInsert] at hp
    split at hp
    · rcases List.mem_cons.mp hp with rfl | hp
      · exact ha
      · exact ih hr p hp
    · split at hp
      · rcases List.mem_cons.mp hp with rfl | hp
        · exact hk
        · exact hr p hp
      · rcases List.mem_cons.mp hp with rfl | hp
        · exact hk
        · exact h p hp

theorem tabInsert_rising (k : Nat) (v : α) {l : List (Nat × α)} (h : tabRising l = true) :
    tabRising (tabInsert k v l) = true := by
  induction l with
  | nil => rfl
  | cons q r ih =>
    obtain ⟨a, x⟩ := q
    rw [tabRising_cons] at h
    simp only [tabInsert]
    split
    · rw [tabRising_cons]
      exact ⟨tabInsert_from v (by omega) h.1, ih h.2⟩
    · split
      · rename_i hk
        rw [tabRising_cons, ← hk]
        exact h
      · rw [tabRising_cons, tabRising_cons]
        refine ⟨?_, h⟩
        intro p hp
        rcases List.mem_cons.mp hp with rfl | hp
        · show k + 1 ≤ a; omega
        · have := h.1 p hp; omega

theorem tabErase_sub (k : Nat) (l : List (Nat × α)) : ∀ p ∈ tabErase k l, p ∈ l := by
  induction l with
  | nil => simp [tabErase]
  | cons q r ih =>
    obtain ⟨a, x⟩ := q
    intro p hp
    simp only [tabErase] at hp
    split at hp
    · exact List.mem_cons_of_mem _ (ih p hp)
    · rcases List.mem_cons.mp hp with rfl | hp
      · simp
      · exact List.mem_cons_of_mem _ (ih p hp)

theorem tabErase_rising (k : Nat) {l : List (Nat × α)} (h : tabRising l = true) :
    tabRising (tabErase k l) = true := by
  induction l with
  | nil => rfl
  | cons q r ih =>
    obtain ⟨a, x⟩ := q
    rw [tabRising_cons] at h
    simp only [tabErase]
    split
    · exact ih h.2
    · rw [tabRising_cons]
      exact ⟨fun p hp => h.1 p (tabErase_sub k r p hp), ih h.2⟩

theorem mem_tabInsert (k : Nat) (v : α) (l : List (Nat × α)) :
    ∀ p ∈ tabInsert k v l, p = (k, v) ∨ p ∈ l := by
  induction l with
  | nil => simp [tabInsert]
  | cons q r ih =>
    obtain ⟨a, x⟩ := q
    intro p hp
    simp only [tabInsert] at hp
    split at hp
    · rcases List.mem_cons.mp hp with rfl | hp
      · simp
      · rcases ih p hp with h | h
        · exact .inl h
        · exact .inr (List.mem_cons_of_mem _ h)
    · split at hp
      · rcases List.mem_cons.mp hp with rfl | hp
        · exact .inl rfl
        · exact .inr (List.mem_cons_of_mem _ hp)
      · rcases List.mem_cons.mp hp with rfl | hp
        · exact .inl rfl
        · exact .inr hp

@[simp] theorem Tab.wf_empty [DecidableEq α] (d : α) : Tab.wf d (Tab.empty : Tab α) = true := rfl

/-- A write keeps the canonical form. -/
theorem Tab.wf_set [DecidableEq α] {t : Tab α} {d : α} (h : t.wf d = true) (k : Nat) (v : α) :
    (t.set d k v).wf d = true := by
  unfold Tab.wf at *
  rw [Bool.and_eq_true, List.all_eq_true] at *
  unfold Tab.set
  split
  · exact ⟨tabErase_rising k h.1, fun p hp => h.2 p (tabErase_sub k _ p hp)⟩
  · refine ⟨tabInsert_rising k v h.1, fun p hp => ?_⟩
    rcases mem_tabInsert k v _ p hp with rfl | hp
    · simpa using ‹v ≠ d›
    · exact h.2 p hp

theorem Tab.wf_modify [DecidableEq α] {t : Tab α} {d : α} (h : t.wf d = true) (k : Nat) (f : α → α) :
    (t.modify d k f).wf d = true := Tab.wf_set h k _

theorem Tab.wf_modifyAll [DecidableEq α] {t : Tab α} {d : α} (h : t.wf d = true) (ks : List Nat) (f : Nat → α → α) :
    (t.modifyAll d ks f).wf d = true := by
  unfold Tab.modifyAll
  induction ks generalizing t with
  | nil => exact h
  | cons k r ih => exact ih (Tab.wf_set h k _)

/-- A read after a change of several indices, none named twice. -/
theorem Tab.get_modifyAll [DecidableEq α] (t : Tab α) (d : α) (ks : List Nat) (f : Nat → α → α) (j : Nat) (h : ks.Nodup) :
    (t.modifyAll d ks f).get d j = if j ∈ ks then f j (t.get d j) else t.get d j := by
  unfold Tab.modifyAll
  induction ks generalizing t with
  | nil => simp
  | cons k r ih =>
    rw [List.foldl_cons, ih _ (List.nodup_cons.mp h).2]
    have hk := (List.nodup_cons.mp h).1
    by_cases e : j = k
    · subst e; simp [hk]
    · simp [e, Tab.get_set_other _ _ _ (Ne.symm e)]

end Sys2Proof.Machine
end

