-- ==== Sys2Proof/Laws/Spire.lean ====
section
/-! SUPPORT. What the operations of one Spire leave alone: the other Spires, and everything but doorbells and what is sent. -/

set_option Elab.async false

namespace Sys2Proof.Machine

open Sys2Proof

@[simp] theorem spire_modSpire (s : State) (k : Nat) (f : Spire → Spire) : (s.modSpire k f).spire k = f (s.spire k) := by
  simp [State.modSpire, State.spire]

theorem spire_modSpire_ne (s : State) {k j : Nat} (f : Spire → Spire) (h : j ≠ k) : (s.modSpire k f).spire j = s.spire j := by
  simp [State.modSpire, State.spire, Tab.get_modify_other _ _ _ (Ne.symm h)]

/-- Only Spire `k`, the host's doorbells and what is sent differ. -/
def Near (k : Nat) (s t : State) : Prop :=
  t = { s with spires := t.spires, host := t.host, out := t.out } ∧ ∀ j, j ≠ k → t.spire j = s.spire j

theorem Near.refl (k : Nat) (s : State) : Near k s s := ⟨rfl, fun _ _ => rfl⟩

theorem Near.trans {k : Nat} {s t u : State} (h : Near k s t) (g : Near k t u) : Near k s u := by
  refine ⟨?_, fun j hj => (g.2 j hj).trans (h.2 j hj)⟩
  have h1 := h.1; have g1 := g.1
  rw [h1] at g1; exact g1

theorem Near.modSpire (k : Nat) (f : Spire → Spire) (s : State) : Near k s (s.modSpire k f) :=
  ⟨rfl, fun _ hj => spire_modSpire_ne s f hj⟩

theorem ringFunc_near (k n i : Nat) (s : State) : Near k s (ringFunc n i s) ∧ ∀ j, (ringFunc n i s).spire j = s.spire j := by
  unfold ringFunc sendVector
  dsimp only
  (repeat' split) <;> exact ⟨⟨rfl, fun _ _ => rfl⟩, fun _ => rfl⟩

theorem ringFunc_shape (n i : Nat) (s : State) : ∃ y z, ringFunc n i s = { s with host := y, out := z } := by
  unfold ringFunc sendVector
  dsimp only
  split
  · exact ⟨_, _, rfl⟩
  · split <;> exact ⟨_, _, rfl⟩

theorem countBelfry_shape (e : Nat) (i : Option Nat) (c : Nat) (s : State) :
    ∃ x y z, countBelfry e i c s = { s with cnt := x, host := y, out := z } := by
  unfold countBelfry
  dsimp only
  split
  · split
    · obtain ⟨y, z, h⟩ := ringFunc_shape 0 30 { s with cnt := { s.cnt with bpmc := s.cnt.bpmc.modifyAll BelfryCounter.reset (List.range 16) (fun _ b => b.see e i c) } }
      exact ⟨_, y, z, h⟩
    · exact ⟨_, s.host, s.out, rfl⟩
  · exact ⟨s.cnt, s.host, s.out, rfl⟩

theorem countSpire_near (k ev n : Nat) (s : State) :
    Near k s (countSpire k ev n s) ∧ (countSpire k ev n s).spire k = { s.spire k with cnt := ((countSpire k ev n s).spire k).cnt } := by
  unfold countSpire
  split
  · dsimp only
    split
    · refine ⟨(Near.modSpire k _ s).trans (ringFunc_near k 0 30 _).1, ?_⟩
      simp [(ringFunc_near k 0 30 _).2]
    · refine ⟨Near.modSpire k _ s, ?_⟩
      simp
  · exact ⟨Near.refl k s, rfl⟩

theorem landOne_keeps (v : VuState) (f : VFlight) : (v.landOne f).inS = v.inS ∧ (v.landOne f).phase = v.phase ∧
    ∀ b, ((v.landOne f).bank b).levels = (v.bank b).levels := by
  have hl : ∀ (b : Bank) (g : VFlight), (b.land g).levels = b.levels := by intro b g; unfold Bank.land; split <;> rfl
  unfold VuState.landOne VuState.stick VuState.modBank
  dsimp only
  (repeat' split) <;> refine ⟨rfl, rfl, ?_⟩ <;> intro b <;> cases b <;> simp [VuState.bank, hl]

theorem landDue_keeps (c n : Nat) (v : VuState) : (v.landDue c n).inS = v.inS ∧ (v.landDue c n).phase = v.phase ∧
    ∀ b, ((v.landDue c n).bank b).levels = (v.bank b).levels := by
  induction n generalizing v with
  | zero => exact ⟨rfl, rfl, fun _ => rfl⟩
  | succ n ih =>
    unfold VuState.landDue
    split
    · split
      · have h := ih (v.landOne ‹_›); have g := landOne_keeps v ‹_›
        exact ⟨h.1.trans g.1, h.2.1.trans g.2.1, fun b => (h.2.2 b).trans (g.2.2 b)⟩
      · exact ⟨rfl, rfl, fun _ => rfl⟩
    · exact ⟨rfl, rfl, fun _ => rfl⟩

/-- A Spire whose vector unit and counters alone differ, with the same bank in use, phase and repeat levels. -/
def LikeSpire (p q : Spire) : Prop :=
  q = { p with vu := q.vu, cnt := q.cnt } ∧ q.vu.inS = p.vu.inS ∧ q.vu.phase = p.vu.phase ∧ ∀ b, (q.vu.bank b).levels = (p.vu.bank b).levels

theorem LikeSpire.trans {p q r : Spire} (h : LikeSpire p q) (g : LikeSpire q r) : LikeSpire p r := by
  refine ⟨?_, g.2.1.trans h.2.1, g.2.2.1.trans h.2.2.1, fun b => (g.2.2.2 b).trans (h.2.2.2 b)⟩
  have h1 := h.1; have g1 := g.1; rw [h1] at g1; exact g1

theorem bank_modBank_id (v : VuState) (i b : Bool) : (v.modBank i (fun y => y)).bank b = v.bank b := by
  cases i <;> cases b <;> rfl

/-- The state before the control operation of a bundle with no other slot. -/
theorem ctl_pre (k pc : Nat) (op : CtlOp) (s : State) :
    Near k s (countSpire k 0x0301 1 (issueXf k pc (Bundle.ofCtl op).xf (issueVector k pc (Bundle.ofCtl op) (landResults k s)))) ∧
    LikeSpire (s.spire k) ((countSpire k 0x0301 1 (issueXf k pc (Bundle.ofCtl op).xf (issueVector k pc (Bundle.ofCtl op) (landResults k s)))).spire k) := by
  have h1 : Near k s (landResults k s) ∧ LikeSpire (s.spire k) ((landResults k s).spire k) := by
    refine ⟨Near.modSpire k _ s, ?_⟩
    have := landDue_keeps s.cyc (s.spire k).vu.flights.length (s.spire k).vu
    unfold landResults State.modVu
    rw [spire_modSpire]
    exact ⟨rfl, this.1, this.2.1, this.2.2⟩
  have h2 : ∀ u : State, Near k u (issueXf k pc (Bundle.ofCtl op).xf (issueVector k pc (Bundle.ofCtl op) u)) ∧
      LikeSpire (u.spire k) ((issueXf k pc (Bundle.ofCtl op).xf (issueVector k pc (Bundle.ofCtl op) u)).spire k) := by
    intro u
    refine ⟨Near.modSpire k _ u, ?_⟩
    show LikeSpire _ ((u.modVu k (fun v => v.modBank (u.spire k).vu.inS (fun y => y))).spire k)
    unfold State.modVu
    rw [spire_modSpire]
    refine ⟨rfl, ?_, ?_, ?_⟩
    · unfold VuState.modBank; dsimp only; split <;> rfl
    · unfold VuState.modBank; dsimp only; split <;> rfl
    · intro b; rw [bank_modBank_id]
  have h3 : ∀ u : State, LikeSpire (u.spire k) ((countSpire k 0x0301 1 u).spire k) := by
    intro u
    have := (countSpire_near k 0x0301 1 u).2
    rw [this]; exact ⟨rfl, rfl, rfl, fun _ => rfl⟩
  exact ⟨(h1.1.trans (h2 _).1).trans (countSpire_near k 0x0301 1 _).1, (h1.2.trans (h2 _).2).trans (h3 _)⟩

theorem Bank.bodyEnd_levels (a n : Nat) (b c : Bank) (h : b.levels = c.levels) :
    (b.bodyEnd a n).2 = (c.bodyEnd a n).2 ∧ (b.bodyEnd a n).1.levels = (c.bodyEnd a n).1.levels := by
  induction n generalizing b c with
  | zero => exact ⟨rfl, h⟩
  | succ n ih =>
    have hl : b.level n = c.level n := by unfold Bank.level; rw [h]
    unfold Bank.bodyEnd
    dsimp only
    rw [hl]
    split
    · split
      · exact ih _ _ (by unfold Bank.endLevel; dsimp only; rw [h])
      · exact ⟨rfl, by dsimp only; rw [h]⟩
    · exact ih _ _ h

/-- The bundle after one depends on the repeat levels alone. -/
theorem Bank.after_levels (pc : Nat) (b c : Bank) (h : b.levels = c.levels) :
    (b.after pc).2 = (c.after pc).2 ∧ (b.after pc).1.levels = (c.after pc).1.levels := by
  have := Bank.bodyEnd_levels (bundleAddr pc) 4 b c h
  unfold Bank.after
  dsimp only
  rw [this.1]
  exact ⟨rfl, this.2⟩

theorem Bank.badNesting_levels (n len pc : Nat) (b c : Bank) (h : b.levels = c.levels) :
    b.badNesting n len pc = c.badNesting n len pc := by
  have hl : ∀ i, b.level i = c.level i := by intro i; unfold Bank.level; rw [h]
  unfold Bank.badNesting
  simp only [hl]

/-- A control operation, issued with no other slot, is carried out on a state that differs in the vector unit's results and the counters. -/
theorem ctlIssue_spec {k : Nat} {op : CtlOp} {s : State} (hc : s.canIssue k = true) (hd : decodeCtl op.encode = some op) :
    ∃ s1, Near k s s1 ∧ LikeSpire (s.spire k) (s1.spire k) ∧
      ctlIssue k op s = runCtl k ((s.spire k).seq.nextPc (s.spire k).vu.inS) op s1 := by
  have hv : ((landResults k s).spire k).vu.inS = (s.spire k).vu.inS ∧ ((landResults k s).spire k).seq = (s.spire k).seq := by
    unfold landResults State.modVu
    rw [spire_modSpire]
    exact ⟨(landDue_keeps s.cyc (s.spire k).vu.flights.length (s.spire k).vu).1, rfl⟩
  have h := ctl_pre k ((s.spire k).seq.nextPc (s.spire k).vu.inS) op s
  refine ⟨_, h.1, h.2, ?_⟩
  unfold ctlIssue
  rw [if_pos hc]
  dsimp only
  rw [hd, hv.1, hv.2]
  rfl

/-- Going on with the next bundle in sequence. -/
theorem stepOn_spec (k pc : Nat) (inS : Bool) (s : State) :
    Near k s (stepOn k pc inS s) ∧
    (stepOn k pc inS s).spire k = { s.spire k with
      seq := (s.spire k).seq.goto inS (((s.spire k).vu.bank inS).after pc).2 (s.cyc + 1)
      vu := (s.spire k).vu.modBank inS (fun _ => (((s.spire k).vu.bank inS).after pc).1) } := by
  refine ⟨(Near.modSpire k _ s).trans (Near.modSpire k _ _), ?_⟩
  show ((s.modVu k (fun v => v.modBank inS (fun _ => (((s.spire k).vu.bank inS).after pc).1))).modSeq k
    (fun q => q.goto inS (((s.spire k).vu.bank inS).after pc).2 (s.cyc + 1))).spire k = _
  unfold State.modSeq State.modVu
  rw [spire_modSpire, spire_modSpire]

theorem takeBranch_spec (k t : Nat) (inS : Bool) (s : State) :
    Near k s (takeBranch k t inS s) ∧
    (takeBranch k t inS s).spire k = { s.spire k with
      seq := (s.spire k).seq.goto inS t (s.cyc + 4)
      vu := (s.spire k).vu.modBank inS (fun b => b.branch t) } := by
  refine ⟨(Near.modSpire k _ s).trans (Near.modSpire k _ _), ?_⟩
  unfold takeBranch State.modSeq State.modVu
  rw [spire_modSpire, spire_modSpire]

theorem Near.cyc {k : Nat} {s t : State} (h : Near k s t) : t.cyc = s.cyc := by rw [h.1]; rfl

theorem decodeCtl_of {op : CtlOp} (h : ctlFields op.encode = some op) : decodeCtl op.encode = some op := by
  unfold decodeCtl; rw [h]; exact if_pos rfl

theorem decodeCtl_br {t : Nat} (h : t < 2 ^ 20) : decodeCtl (CtlOp.br t).encode = some (.br t) := by
  have h1 : field (CtlOp.br t).encode 63 56 = 1 := by simp only [field, CtlOp.encode]; omega
  have h2 : field (CtlOp.br t).encode 19 0 = t := by simp only [field, CtlOp.encode]; omega
  exact decodeCtl_of (by unfold ctlFields; simp only [h1, h2])

theorem decodeCtl_brf {f t : Nat} {b : Bool} (hf : f < 16) (h : t < 2 ^ 20) : decodeCtl (CtlOp.brf f b t).encode = some (.brf f b t) := by
  have hb : b2n b ≤ 1 := by cases b <;> decide
  have h1 : field (CtlOp.brf f b t).encode 63 56 = 2 := by simp only [field, CtlOp.encode]; omega
  have h2 : field (CtlOp.brf f b t).encode 19 0 = t := by simp only [field, CtlOp.encode]; omega
  have h3 : field (CtlOp.brf f b t).encode 27 24 = f := by simp only [field, CtlOp.encode]; omega
  have h4 : bitAt (CtlOp.brf f b t).encode 28 = b := by
    have : (CtlOp.brf f b t).encode / 2 ^ 28 % 2 = b2n b := by simp only [CtlOp.encode]; omega
    unfold bitAt; rw [this]; cases b <;> rfl
  exact decodeCtl_of (by unfold ctlFields; simp only [h1, h2, h3, h4])

theorem decodeCtl_vrep {l n c : Nat} (hl : l < 4) (hn : n < 2 ^ 12) (hc : c < 2 ^ 16) :
    decodeCtl (CtlOp.vrep l n c).encode = some (.vrep l n c) := by
  have h1 : field (CtlOp.vrep l n c).encode 63 56 = 3 := by simp only [field, CtlOp.encode]; omega
  have h2 : field (CtlOp.vrep l n c).encode 49 48 = l := by simp only [field, CtlOp.encode]; omega
  have h3 : field (CtlOp.vrep l n c).encode 11 0 = n := by simp only [field, CtlOp.encode]; omega
  have h4 : field (CtlOp.vrep l n c).encode 47 32 = c := by simp only [field, CtlOp.encode]; omega
  exact decodeCtl_of (by unfold ctlFields; simp only [h1, h2, h3, h4])

theorem decodeCtl_issue {d : Nat} (h : d < 2 ^ 20) (he : d % 2 = 0) : decodeCtl (CtlOp.issue d).encode = some (.issue d) := by
  have h1 : field (CtlOp.issue d).encode 63 56 = 4 := by simp only [field, CtlOp.encode]; omega
  have h2 : field (CtlOp.issue d).encode 19 0 = d := by simp only [field, CtlOp.encode]; omega
  exact decodeCtl_of (by unfold ctlFields; simp only [h1, h2]; exact if_pos he)

theorem decodeCtl_wflag {f : Nat} {b : Bool} (hf : f < 16) : decodeCtl (CtlOp.wflag f b).encode = some (.wflag f b) := by
  have hb : b2n b ≤ 1 := by cases b <;> decide
  have h1 : field (CtlOp.wflag f b).encode 63 56 = 6 := by simp only [field, CtlOp.encode]; omega
  have h3 : field (CtlOp.wflag f b).encode 27 24 = f := by simp only [field, CtlOp.encode]; omega
  have h4 : bitAt (CtlOp.wflag f b).encode 28 = b := by
    have : (CtlOp.wflag f b).encode / 2 ^ 28 % 2 = b2n b := by simp only [CtlOp.encode]; omega
    unfold bitAt; rw [this]; cases b <;> rfl
  exact decodeCtl_of (by unfold ctlFields; simp only [h1, h3, h4])

theorem decodeCtl_wplan {p : Nat} (h : p < planEnd) : decodeCtl (CtlOp.wplan p).encode = some (.wplan p) := by
  have h' : p < 849936 := h
  have h1 : field (CtlOp.wplan p).encode 63 56 = 7 := by simp only [field, CtlOp.encode]; omega
  have h2 : field (CtlOp.wplan p).encode 19 0 = p := by simp only [field, CtlOp.encode]; omega
  exact decodeCtl_of (by unfold ctlFields; simp only [h1, h2]; exact if_pos h)

theorem decodeCtl_flags {a b : Nat} (ha : a < 2 ^ 16) (hb : b < 2 ^ 16) : decodeCtl (CtlOp.flags a b).encode = some (.flags a b) := by
  have h1 : field (CtlOp.flags a b).encode 63 56 = 8 := by simp only [field, CtlOp.encode]; omega
  have h2 : field (CtlOp.flags a b).encode 15 0 = a := by simp only [field, CtlOp.encode]; omega
  have h3 : field (CtlOp.flags a b).encode 31 16 = b := by simp only [field, CtlOp.encode]; omega
  exact decodeCtl_of (by unfold ctlFields; simp only [h1, h2, h3])

theorem decodeCtl_ctlEnd {c : Nat} (h : c < 256) : decodeCtl (CtlOp.ctlEnd c).encode = some (.ctlEnd c) := by
  have h1 : field (CtlOp.ctlEnd c).encode 63 56 = 10 := by simp only [field, CtlOp.encode]; omega
  have h2 : field (CtlOp.ctlEnd c).encode 7 0 = c := by simp only [field, CtlOp.encode]; omega
  exact decodeCtl_of (by unfold ctlFields; simp only [h1, h2])

theorem decodeCtl_plain : decodeCtl CtlOp.nop.encode = some .nop ∧ decodeCtl CtlOp.wrel.encode = some .wrel ∧
    decodeCtl CtlOp.ret.encode = some .ret ∧ decodeCtl CtlOp.wend.encode = some .wend :=
  ⟨decodeCtl_of rfl, decodeCtl_of rfl, decodeCtl_of rfl, decodeCtl_of rfl⟩

/-! ### Operations that touch no Spire -/

@[simp] theorem ringFunc_spires (n i : Nat) (s : State) : (ringFunc n i s).spires = s.spires := by
  unfold ringFunc sendVector; dsimp only; (repeat' split) <;> rfl

@[simp] theorem logEvent_spires (e : LogEvent) (s : State) : (logEvent e s).spires = s.spires := by
  unfold logEvent; dsimp only; split <;> rfl

@[simp] theorem errRecord_spires (a b c d e f g : Nat) (s : State) : (errRecord a b c d e f g s).spires = s.spires := by
  unfold errRecord; dsimp only; (repeat' split) <;> first | rw [logEvent_spires]; rfl | rfl

@[simp] theorem quarantine_spires (k : Nat) (s : State) : (quarantine k s).spires = s.spires := by
  unfold quarantine; split <;> rfl

@[simp] theorem quarantineAfter_spires (k : Nat) (s : State) : (quarantineAfter k s).spires = s.spires := by
  unfold quarantineAfter; split
  · rw [quarantine_spires]
  · rfl

@[simp] theorem disputeRecord_spires (o : Nat) (d : Dispute) (s : State) : (disputeRecord o d s).spires = s.spires :=
  errRecord_spires _ _ _ _ _ _ _ s

@[simp] theorem stopDispute_spires (k : Nat) (s : State) : (stopDispute k s).spires = s.spires := by
  unfold stopDispute
  split
  · rfl
  · split
    · rw [quarantine_spires]
    · rw [quarantine_spires]; exact disputeRecord_spires _ _ s

theorem spire_of_spires {s t : State} (h : t.spires = s.spires) (k : Nat) : t.spire k = s.spire k := by
  unfold State.spire; rw [h]

/-! ### Stopping the array leaves the vector unit and the rest of the sequencer -/

/-- Spire `k`'s vector unit, control core and store parts stay, and of its sequencer all but the issues and the replay list. -/
def KeepsVu (k : Nat) (s t : State) : Prop :=
  (t.spire k).vu = (s.spire k).vu ∧
    (t.spire k).seq = { (s.spire k).seq with issues := (t.spire k).seq.issues, replay := (t.spire k).seq.replay }

theorem KeepsVu.refl (k : Nat) (s : State) : KeepsVu k s s := ⟨rfl, rfl⟩

theorem KeepsVu.trans {k : Nat} {s t u : State} (h : KeepsVu k s t) (g : KeepsVu k t u) : KeepsVu k s u := by
  refine ⟨g.1.trans h.1, ?_⟩
  have h2 := h.2; have g2 := g.2
  rw [h2] at g2; exact g2

theorem KeepsVu.of_eq {k : Nat} {s t : State} (h1 : (t.spire k).vu = (s.spire k).vu) (h2 : (t.spire k).seq = (s.spire k).seq) :
    KeepsVu k s t := ⟨h1, by rw [h2]⟩

theorem KeepsVu.of_spires {k : Nat} {s t : State} (h : t.spires = s.spires) : KeepsVu k s t :=
  KeepsVu.of_eq (by rw [spire_of_spires h]) (by rw [spire_of_spires h])

theorem countSpire_keepsVu (k ev n : Nat) (s : State) : KeepsVu k s (countSpire k ev n s) := by
  have := (countSpire_near k ev n s).2
  exact KeepsVu.of_eq (by rw [this]) (by rw [this])

theorem modArr_keepsVu (k : Nat) (f : ArrState → ArrState) (s : State) : KeepsVu k s (s.modArr k f) := by
  refine KeepsVu.of_eq ?_ ?_ <;> unfold State.modArr <;> rw [spire_modSpire]

theorem modStore_keepsVu (k : Nat) (f : Mem → Mem) (s : State) : KeepsVu k s (s.modStore k f) := by
  refine KeepsVu.of_eq ?_ ?_ <;> unfold State.modStore <;> rw [spire_modSpire]

theorem releaseFirst_keepsVu (k : Nat) (s : State) : KeepsVu k s (releaseFirst k s) := by
  unfold releaseFirst
  split
  · exact KeepsVu.refl k s
  · extract_lets s0 s1 s2 s3
    have h0 : KeepsVu k s s0 := modStore_keepsVu k _ s
    have h1 : KeepsVu k s s1 := h0.trans (modArr_keepsVu k _ _)
    have h2 : KeepsVu k s s2 := (h1.trans (.of_spires rfl : KeepsVu k s1 (releaseRecord k _ s1))).trans (countSpire_keepsVu k 0x0102 1 _)
    have h3 : KeepsVu k s s3 := h2.trans (.of_spires rfl)
    clear_value s3
    split
    · exact h3.trans (.of_spires rfl)
    · exact h3

theorem releaseDue_keepsVu (k t n : Nat) (s : State) : KeepsVu k s (releaseDue k t n s) := by
  induction n generalizing s with
  | zero => exact KeepsVu.refl k s
  | succ n ih =>
    unfold releaseDue
    split
    · exact KeepsVu.refl k s
    · split
      · exact (releaseFirst_keepsVu k s).trans (ih _)
      · exact KeepsVu.refl k s

theorem abandonPass_keepsVu (k : Nat) (s : State) (p : Pass) : KeepsVu k s (abandonPass k s p) := by
  unfold abandonPass
  have h (f : Spire → Spire) (hv : (f (s.spire k)).vu = (s.spire k).vu) (hq : (f (s.spire k)).seq = (s.spire k).seq) :
      KeepsVu k s (s.modSpire k f) := KeepsVu.of_eq (by rw [spire_modSpire, hv]) (by rw [spire_modSpire, hq])
  refine KeepsVu.trans ?_ (countSpire_keepsVu k 0x0103 1 _)
  refine KeepsVu.trans (h (fun x => { x with
    arr := { x.arr with sticky := x.arr.sticky ||| 0x40 }
    store := havocPending p s.free x.store }) rfl rfl) (.of_spires rfl)

theorem arrayStop_keepsVu (k t : Nat) (keep : Bool) (s : State) : KeepsVu k s (arrayStop k t keep s) := by
  have h1 : KeepsVu k s (stopDispute k (releaseDue k t 3 s)) := by
    exact (releaseDue_keepsVu k t 3 s).trans (.of_spires (stopDispute_spires k _))
  have h2 : ∀ (l : List Pass) (u : State), KeepsVu k u (l.foldl (abandonPass k) u) := by
    intro l
    induction l with
    | nil => exact fun u => KeepsVu.refl k u
    | cons p r ih => exact fun u => (abandonPass_keepsVu k u p).trans (ih _)
  have h3 : ∀ (u : State) (a : List IssueCheck) (b : List Nat),
      KeepsVu k u (u.modSeq k (fun y => { y with issues := a, replay := b })) := by
    intro u a b; unfold KeepsVu State.modSeq; rw [spire_modSpire]; exact ⟨rfl, rfl⟩
  unfold arrayStop
  exact ((h1.trans (h2 ((stopDispute k (releaseDue k t 3 s)).spire k).arr.passes _)).trans (modArr_keepsVu k _ _)).trans (h3 _ _ _)

theorem halt_cancel_keepsVu (k : Nat) (s : State) : KeepsVu k s (haltThreads k (cancelTransfers k s)) := by
  have h : (haltThreads k (cancelTransfers k s)).spire k =
      ((s.modXb k (fun x => { x with streams := Tab.empty, requests := [] })).modCc k (fun c => { c with
        threads := c.threads.modifyAll Thread.reset (List.range 8)
          (fun _ t => { t with mode := .halted, wait := .nothing }), paths := [] })).spire k := rfl
  refine KeepsVu.of_eq ?_ ?_ <;> rw [h] <;> unfold State.modCc State.modXb <;> rw [spire_modSpire, spire_modSpire]

/-- A Spire that works in BANK_M and is steady enters ENDING and drains. -/
theorem enterEnding_spec (k : Nat) (s : State) (hi : (s.spire k).vu.inS = false) (hp : (s.spire k).vu.phase = .steady) :
    ((enterEnding k s).spire k).seq.mode = .ending ∧
      ((enterEnding k s).spire k).vu.phase = .draining (s.cyc + 12) .ending := by
  have h := (arrayStop_keepsVu k s.cyc false s).trans (halt_cancel_keepsVu k _)
  unfold enterEnding
  dsimp only
  rw [hi]
  simp only [Bool.false_eq_true, if_false]
  have hs : ∀ u : State, ((u.modSeq k (fun q => { q with
      mode := .ending, hold := none, startSet := false, fromArmed := false, stopPower := false, stoppedFault := false })).spire k).vu.phase =
      (u.spire k).vu.phase := by intro u; unfold State.modSeq; rw [spire_modSpire]
  rw [hs, h.1, hp]
  dsimp only
  constructor <;> unfold State.modVu State.modSeq <;> rw [spire_modSpire, spire_modSpire] <;> rfl

/-! ### May an ISSUE be carried out -/

/-- What decides whether an ISSUE may be carried out is not changed by a bundle's issue. -/
theorem Near.issueAllowed {k : Nat} {s t : State} (hn : Near k s t) (ha : (t.spire k).arr = (s.spire k).arr)
    (hs : (t.spire k).store = (s.spire k).store) (hx : (t.spire k).xb = (s.spire k).xb) (inS : Bool) (a : Nat) :
    t.issueAllowed k inS a = s.issueAllowed k inS a := by
  have hr : t.role k = s.role k := by rw [hn.1]; rfl
  have hw : t.nextWindow k = s.nextWindow k := by rw [hn.1]; rfl
  have hp : t.planTotal = s.planTotal := by rw [hn.1]; rfl
  have ht : t.throttled k = s.throttled k := by rw [hn.1]; rfl
  have hj : t.jobPart k = s.jobPart k := by unfold State.jobPart; rw [hx]
  have ho : ∀ i, t.owned k i = s.owned k i := by intro i; unfold State.owned; rw [hr, hj]
  have hf : ∀ i, t.refusal k i a = s.refusal k i a := by
    intro i; unfold State.refusal State.refusalOf; dsimp only; rw [ha, hs, ho]
  have hd : ∀ d u, t.deferred k d u = s.deferred k d u := by
    intro d u; unfold State.deferred; dsimp only; rw [ha, hr, hw, hp, hn.cyc]
  unfold State.issueAllowed State.issueDeferred
  rw [ha, hf, hs, hn.cyc, hd, ht]

/-- The state after a bundle of one control operation has gone on to the next bundle in sequence. -/
theorem ctl_on {k : Nat} {s u : State} (hn : Near k s u) (hl : LikeSpire (s.spire k) (u.spire k)) (pc : Nat) :
    let inS := (s.spire k).vu.inS
    let on := stepOn k pc (u.spire k).vu.inS u
    Near k s on ∧ on.spire k = { s.spire k with
        vu := (on.spire k).vu, cnt := (on.spire k).cnt
        seq := (s.spire k).seq.goto inS (((s.spire k).vu.bank inS).after pc).2 (s.cyc + 1) } ∧
      (on.spire k).vu.inS = inS ∧ (on.spire k).vu.phase = (s.spire k).vu.phase := by
  intro inS on
  have hi : (u.spire k).vu.inS = inS := hl.2.1
  have h := stepOn_spec k pc (u.spire k).vu.inS u
  have hv : (on.spire k).vu.inS = inS ∧ (on.spire k).vu.phase = (s.spire k).vu.phase := by
    show (((stepOn k pc (u.spire k).vu.inS u).spire k).vu.inS = inS) ∧ ((stepOn k pc (u.spire k).vu.inS u).spire k).vu.phase = _
    rw [h.2]
    dsimp only
    unfold VuState.modBank
    split <;> exact ⟨hi, hl.2.2.1⟩
  refine ⟨hn.trans h.1, ?_, hv⟩
  have e := h.2
  rw [hi] at e
  have e2 : on.spire k = { u.spire k with
      seq := (s.spire k).seq.goto inS (((s.spire k).vu.bank inS).after pc).2 (s.cyc + 1), vu := (on.spire k).vu } := by
    have e3 : on.spire k = (stepOn k pc inS u).spire k := by show (stepOn k pc (u.spire k).vu.inS u).spire k = _; rw [hi]
    rw [e3, e]
    dsimp only
    rw [hn.cyc, (Bank.after_levels pc _ _ (hl.2.2.2 inS)).1, show (u.spire k).seq = (s.spire k).seq by rw [hl.1]]
  rw [e2, hl.1]

/-- An operation that holds: it goes on with the next bundle, and the hold begins. -/
theorem ctl_held {k : Nat} {s : State} (hc : s.canIssue k = true) {op : CtlOp} (hd : decodeCtl op.encode = some op) {h : Hold}
    (hop : (op = .wrel ∧ h = .wrel) ∨ (∃ p, op = .wplan p ∧ h = .wplan (s.nextPlan p)) ∨ (∃ d, op = .issue d ∧ h = .issue (32 * d)) ∨
      ((s.spire k).vu.inS = false ∧ ((∃ f b, op = .wflag f b ∧ h = .wflag f b) ∨ ∃ c, op = .ctlEnd c ∧ h = .endCtx c))) :
    ∃ on, Near k s on ∧ on.spire k = { s.spire k with
        vu := (on.spire k).vu, cnt := (on.spire k).cnt
        seq := (s.spire k).seq.goto (s.spire k).vu.inS
          (((s.spire k).vu.bank (s.spire k).vu.inS).after ((s.spire k).seq.nextPc (s.spire k).vu.inS)).2 (s.cyc + 1) } ∧
      (on.spire k).vu.inS = (s.spire k).vu.inS ∧ (on.spire k).vu.phase = .steady ∧
      ctlIssue k op s = beginHold k (s.spire k).vu.inS h on := by
  obtain ⟨u, hn, hl, e⟩ := ctlIssue_spec hc hd
  have hp : (s.spire k).vu.phase = .steady := by
    unfold State.canIssue at hc; simp at hc; exact hc.1.1
  have g := ctl_on hn hl ((s.spire k).seq.nextPc (s.spire k).vu.inS)
  refine ⟨_, g.1, g.2.1, g.2.2.1, g.2.2.2.trans hp, ?_⟩
  rw [e]
  have hpu : (u.spire k).vu.phase = .steady := hl.2.2.1.trans hp
  have hiu : (u.spire k).vu.inS = (s.spire k).vu.inS := hl.2.1
  unfold runCtl
  dsimp only
  rcases hop with ⟨rfl, rfl⟩ | ⟨p, rfl, rfl⟩ | ⟨d, rfl, rfl⟩ | ⟨hi, ⟨f, b, rfl, rfl⟩ | ⟨c, rfl, rfl⟩⟩
  · show (if _ then beginHold k _ _ _ else _) = _
    rw [if_pos hpu, hiu]
  · have : u.nextPlan p = s.nextPlan p := by rw [hn.1]; rfl
    rw [← this]
    show (if _ then beginHold k _ _ _ else _) = _
    rw [if_pos hpu, hiu]
  · show (if _ then beginHold k _ _ _ else _) = _
    rw [if_pos hpu, hiu]
  · show (if _ then _ else if _ then beginHold k _ _ _ else _) = _
    rw [if_neg (by rw [hiu, hi]; decide), if_pos hpu, hiu]
  · show (if _ then _ else if _ then beginHold k _ _ _ else _) = _
    rw [if_neg (by rw [hiu, hi]; decide), if_pos hpu, hiu]

/-- The state after the slots of a bundle that has a control operation alone. -/
theorem slots_pre (k pc : Nat) (op : CtlOp) (u : State) :
    Near k u (countSpire k 0x0301 1 (issueXf k pc (Bundle.ofCtl op).xf (issueVector k pc (Bundle.ofCtl op) u))) ∧
    LikeSpire (u.spire k) ((countSpire k 0x0301 1 (issueXf k pc (Bundle.ofCtl op).xf (issueVector k pc (Bundle.ofCtl op) u))).spire k) := by
  have h2 : Near k u (issueXf k pc (Bundle.ofCtl op).xf (issueVector k pc (Bundle.ofCtl op) u)) ∧
      LikeSpire (u.spire k) ((issueXf k pc (Bundle.ofCtl op).xf (issueVector k pc (Bundle.ofCtl op) u)).spire k) := by
    refine ⟨Near.modSpire k _ u, ?_⟩
    show LikeSpire _ ((u.modVu k (fun v => v.modBank (u.spire k).vu.inS (fun y => y))).spire k)
    unfold State.modVu
    rw [spire_modSpire]
    refine ⟨rfl, ?_, ?_, ?_⟩
    · unfold VuState.modBank; dsimp only; split <;> rfl
    · unfold VuState.modBank; dsimp only; split <;> rfl
    · intro b; rw [bank_modBank_id]
  have h3 : ∀ u : State, LikeSpire (u.spire k) ((countSpire k 0x0301 1 u).spire k) := by
    intro u
    have := (countSpire_near k 0x0301 1 u).2
    rw [this]; exact ⟨rfl, rfl, rfl, fun _ => rfl⟩
  exact ⟨h2.1.trans (countSpire_near k 0x0301 1 _).1, h2.2.trans (h3 _)⟩

/-! ### What acts on one Spire alone -/

/-- No Spire but `k` differs. -/
def OnlySpire (k : Nat) (s t : State) : Prop := ∀ j, j ≠ k → t.spire j = s.spire j

theorem OnlySpire.refl (k : Nat) (s : State) : OnlySpire k s s := fun _ _ => rfl

theorem OnlySpire.trans {k : Nat} {s t u : State} (h : OnlySpire k s t) (g : OnlySpire k t u) : OnlySpire k s u :=
  fun j hj => (g j hj).trans (h j hj)

theorem OnlySpire.of_spires {k : Nat} {s t : State} (h : t.spires = s.spires) : OnlySpire k s t :=
  fun j _ => spire_of_spires h j

theorem OnlySpire.modSpire (k : Nat) (f : Spire → Spire) (s : State) : OnlySpire k s (s.modSpire k f) :=
  fun _ hj => spire_modSpire_ne s f hj

theorem countSpire_only (k ev n : Nat) (s : State) : OnlySpire k s (countSpire k ev n s) := (countSpire_near k ev n s).1.2

theorem releaseFirst_only (k : Nat) (s : State) : OnlySpire k s (releaseFirst k s) := by
  unfold releaseFirst
  split
  · exact OnlySpire.refl k s
  · extract_lets s0 s1 s2 s3
    have h0 : OnlySpire k s s0 := OnlySpire.modSpire k _ s
    have h1 : OnlySpire k s s1 := h0.trans (OnlySpire.modSpire k _ _)
    have h2 : OnlySpire k s s2 := (h1.trans (.of_spires rfl : OnlySpire k s1 (releaseRecord k _ s1))).trans (countSpire_only k 0x0102 1 _)
    have h3 : OnlySpire k s s3 := h2.trans (.of_spires rfl)
    clear_value s3
    split
    · exact h3.trans (.of_spires rfl)
    · exact h3

theorem releaseDue_only (k t n : Nat) (s : State) : OnlySpire k s (releaseDue k t n s) := by
  induction n generalizing s with
  | zero => exact OnlySpire.refl k s
  | succ n ih =>
    unfold releaseDue
    split
    · exact OnlySpire.refl k s
    · split
      · exact (releaseFirst_only k s).trans (ih _)
      · exact OnlySpire.refl k s

theorem abandonPass_only (k : Nat) (s : State) (p : Pass) : OnlySpire k s (abandonPass k s p) := by
  unfold abandonPass
  refine OnlySpire.trans ?_ (countSpire_only k 0x0103 1 _)
  exact OnlySpire.trans (OnlySpire.modSpire k (fun x => { x with
    arr := { x.arr with sticky := x.arr.sticky ||| 0x40 }
    store := havocPending p s.free x.store }) s) (.of_spires rfl)

theorem abandonAll_only (k : Nat) (l : List Pass) (s : State) : OnlySpire k s (l.foldl (abandonPass k) s) := by
  induction l generalizing s with
  | nil => exact OnlySpire.refl k s
  | cons p r ih => exact (abandonPass_only k s p).trans (ih _)

theorem arrayStop_only (k t : Nat) (keep : Bool) (s : State) : OnlySpire k s (arrayStop k t keep s) := by
  have h1 : OnlySpire k s (stopDispute k (releaseDue k t 3 s)) :=
    (releaseDue_only k t 3 s).trans (.of_spires (stopDispute_spires k _))
  unfold arrayStop
  exact ((h1.trans (abandonAll_only k ((stopDispute k (releaseDue k t 3 s)).spire k).arr.passes _)).trans
    (OnlySpire.modSpire k _ _)).trans (OnlySpire.modSpire k _ _)

theorem halt_cancel_only (k : Nat) (s : State) : OnlySpire k s (haltThreads k (cancelTransfers k s)) :=
  OnlySpire.trans (t := (s.modXb k (fun x => { x with streams := Tab.empty, requests := [] })).modCc k (fun c => { c with
      threads := c.threads.modifyAll Thread.reset (List.range 8)
        (fun _ t => { t with mode := .halted, wait := .nothing }), paths := [] }))
    ((OnlySpire.modSpire k _ s).trans (OnlySpire.modSpire k _ _)) (.of_spires rfl)

theorem startWipe_only (k : Nat) (s : State) : OnlySpire k s (startWipe k s) := by
  unfold startWipe
  exact ((OnlySpire.modSpire k _ s).trans (OnlySpire.modSpire k _ _)).trans (.of_spires (quarantineAfter_spires k _))

theorem setCmdStatus_only (k st : Nat) (s : State) : OnlySpire k s (setCmdStatus k st s) := by
  unfold setCmdStatus
  split
  · exact OnlySpire.modSpire k _ s
  · exact OnlySpire.refl k s

theorem enterEnding_only (k : Nat) (s : State) : OnlySpire k s (enterEnding k s) := by
  unfold enterEnding
  extract_lets c inS s1 s2 s3
  have h1 : OnlySpire k s s1 := by
    simp only [s1]
    split
    · exact OnlySpire.modSpire k _ s
    · exact arrayStop_only k c false s
  clear_value s1
  have h2 : OnlySpire k s s2 := h1.trans (halt_cancel_only k s1)
  clear_value s2
  have h3 : OnlySpire k s s3 := h2.trans (OnlySpire.modSpire k _ _)
  clear_value s3
  (repeat' split) <;> first | exact h3 | exact h3.trans (startWipe_only k _) | exact h3.trans (OnlySpire.modSpire k _ _)

theorem abortSpire_only (k : Nat) (s : State) : OnlySpire k s (abortSpire k s) := by
  unfold abortSpire
  split
  · exact (enterEnding_only k s).trans (setCmdStatus_only k _ _)
  · exact setCmdStatus_only k _ s

/-- The end of a job leaves the Spire on which it started alone. -/
theorem endJob_spire (id status cause bundle k : Nat) (s : State) : (endJob id status cause bundle k s).spire k = s.spire k := by
  unfold endJob
  split
  · rfl
  · rename_i j _
    split
    · rfl
    · dsimp only
      have h : ∀ (l : List Nat) (u : State), (∀ x ∈ l, x ≠ k) →
          (l.foldl (fun t k => if (t.spire k).seq.mode.abortable then abortSpire k t else t) u).spire k = u.spire k := by
        intro l
        induction l with
        | nil => intro u _; rfl
        | cons x r ih =>
          intro u hx
          rw [List.foldl_cons, ih _ (fun y hy => hx y (List.mem_cons_of_mem _ hy))]
          split
          · exact abortSpire_only x u k (Ne.symm (hx x List.mem_cons_self))
          · rfl
      have := h (j.spires.filter (· != k)) (s.modJob id (fun x => { x with
        abnormal := some ⟨status, cause, bundle, rankOf k j.spires⟩, phase := .ending })) (by simp)
      exact this

/-! ### Faults -/

theorem foldl_spires {α : Type} {f : State → α → State} (h : ∀ t a, (f t a).spires = t.spires) (l : List α) (s : State) :
    (l.foldl f s).spires = s.spires := by
  induction l generalizing s with
  | nil => rfl
  | cons a r ih => exact (ih _).trans (h s a)

@[simp] theorem loseSlot_spires (c : Nat) (s : State) : (loseSlot c s).spires = s.spires := by
  unfold loseSlot loseSlots
  refine foldl_spires (fun t n => ?_) _ s
  unfold loseOne
  dsimp only
  (repeat' split) <;> rfl

@[simp] theorem loseWindowSlots_spires (k : Nat) (s : State) : (loseWindowSlots k s).spires = s.spires := by
  unfold loseWindowSlots
  exact foldl_spires (fun t c => loseSlot_spires c t) _ s

@[simp] theorem losingCells_spires (l : List Nat) (s : State) : (losingCells l s).spires = s.spires := by
  unfold losingCells
  exact foldl_spires (fun t c => by show (loseSlot c t).spires = _; exact loseSlot_spires c t) _ s

@[simp] theorem partFault_spires (p : RadioPart) (l : List Nat) (s : State) : (partFault p l s).spires = s.spires := by
  unfold partFault
  dsimp only
  split
  · rfl
  · split
    · rw [losingCells_spires]
    · split
      · rw [losingCells_spires]
      · exact foldl_spires (fun t c => by show (loseSlot c t).spires = _; exact loseSlot_spires c t) _ s

@[simp] theorem radioPartFault_spires (p : RadioPart) (s : State) : (radioPartFault p s).spires = s.spires := by
  unfold radioPartFault
  dsimp only
  split
  · rfl
  · rw [partFault_spires]; rfl

/-- A disagreement of the sequencers, or an uncorrectable fetch, is recorded and the Spire is FAULTED. -/
theorem sequencerFault_spec (k cause pc : Nat) (s : State) :
    ((sequencerFault k cause pc s).spire k).seq.mode = .faulted ∧
      ((sequencerFault k cause pc s).spire k).seq.fault =
        ⟨true, (s.spire k).vu.inS, BitVec.ofNat 6 cause, 0, BitVec.ofNat 20 pc⟩ := by
  have h2 : ∀ u : State, ((recordFault k (s.spire k).vu.inS cause 0 pc u).spire k).seq.fault =
      ⟨true, (s.spire k).vu.inS, BitVec.ofNat 6 cause, 0, BitVec.ofNat 20 pc⟩ := by
    intro u; unfold recordFault State.modSeq; rw [spire_modSpire]; simp
  have hk : ∀ u : State, ((haltThreads k (cancelTransfers k (arrayStop k (s.cyc + 1) false u))).spire k).seq.fault = (u.spire k).seq.fault := by
    intro u
    rw [((arrayStop_keepsVu k (s.cyc + 1) false u).trans (halt_cancel_keepsVu k _)).2]
  have key : ∀ u : State, ((if s.role k = .radioOwned then radioPartFault (.spire k) (ringDome 4 u) else u).spire k) = u.spire k := by
    intro u
    split
    · exact spire_of_spires (by rw [radioPartFault_spires]; rfl) k
    · rfl
  have key2 : ∀ (b : Prop) [Decidable b] (j : Nat) (u : State), ((if b then u else endJob j stFault 0 0 k u).spire k) = u.spire k := by
    intro b _ j u
    split
    · rfl
    · exact endJob_spire _ _ _ _ _ _
  have key3 : ∀ (f : SpireHealth → SpireHealth) (u : State), (((quarantine k u).modHealth k f).spire k) = u.spire k :=
    fun f u => spire_of_spires (show (quarantine k u).spires = _ by rw [quarantine_spires]) k
  unfold sequencerFault
  dsimp only
  rw [key, key2, key3, spire_modSpire]
  refine ⟨rfl, ?_⟩
  dsimp only
  rw [hk, show ∀ a b c d e f g u, ((errRecord a b c d e f g u).spire k) = u.spire k from
    fun a b c d e f g u => spire_of_spires (errRecord_spires a b c d e f g u) k, h2]

/-! ### Reads after changes of one Spire -/

theorem goto_vrep_aux (v : VuState) (i : Bool) (x : Bank) : (v.modBank i (fun _ => x)).bank i = x := by cases i <;> rfl

theorem goto_issues (q : SeqState) (i : Bool) (a b : Nat) : (q.goto i a b).issues = q.issues ∧ (q.goto i a b).flags = q.flags ∧
    (q.goto i a b).flagsAt = q.flagsAt ∧ (q.goto i a b).flagsNext = q.flagsNext := by
  unfold SeqState.goto; split <;> exact ⟨rfl, rfl, rfl, rfl⟩

theorem beginHold_met {k : Nat} {inS : Bool} {h : Hold} {s : State} (hm : s.holdMet k inS h = true) :
    beginHold k inS h s = holdDone k inS h s := by unfold beginHold; rw [if_pos hm]

theorem beginHold_not {k : Nat} {inS : Bool} {h : Hold} {s : State} (hm : s.holdMet k inS h = false) :
    ((beginHold k inS h s).spire k).seq = (s.spire k).seq.setHold inS (some h) := by
  unfold beginHold; rw [if_neg (by rw [hm]; decide)]
  have e : ∀ u : State, u.spires = (s.modSeq k (fun q => q.setHold inS (some h))).spires → (u.spire k).seq = (s.spire k).seq.setHold inS (some h) := by
    intro u hu; rw [spire_of_spires hu]; unfold State.modSeq; rw [spire_modSpire]
  dsimp only
  (repeat' split) <;> exact e _ rfl

theorem reclaimRuns_of {k : Nat} {s t : State} (hn : Near k s t) (h : (t.spire k).seq.reclaim = (s.spire k).seq.reclaim) : t.reclaimRuns k = s.reclaimRuns k := by
  unfold State.reclaimRuns; rw [h]; rw [hn.1]

theorem landResults_spire (k : Nat) (s : State) : (landResults k s).spire k = { s.spire k with vu := (s.spire k).vu.landDue s.cyc (s.spire k).vu.flights.length } := by
  unfold landResults State.modVu; rw [spire_modSpire]

/-- No array write of this CCLK stands in a named bank: none is lost. -/
theorem loseWrites_none {k : Nat} {banks : BitVec 64} {s : State}
    (h : ∀ p ∈ (s.spire k).arr.passes, ∀ w ∈ p.wrote, banks.getLsbD (bankOf w.addr) = false) : loseWrites k banks s = s := by
  have keep : ∀ {α : Type} (f : State → α → State) (l : List α), (∀ a ∈ l, f s a = s) → l.foldl f s = s := by
    intro α f l
    induction l with
    | nil => intro _; rfl
    | cons a r ih =>
      intro g
      rw [List.foldl_cons, g a List.mem_cons_self]
      exact ih (fun b hb => g b (List.mem_cons_of_mem _ hb))
  unfold loseWrites
  exact keep _ _ (fun p hp => keep _ _ (fun w hw => if_neg (by rw [h p hp w hw]; decide)))

theorem fetchClash_near (k a : Nat) (s : State) (h : (s.spire k).recent = [])
    (hw : ∀ p ∈ (s.spire k).arr.passes, ∀ w ∈ p.wrote, bankOf w.addr ≠ bankOf a) :
    Near k s (fetchClash k a s) ∧ (fetchClash k a s).free = s.free ∧
    (fetchClash k a s).spire k = { s.spire k with arr := ((fetchClash k a s).spire k).arr, cnt := ((fetchClash k a s).spire k).cnt } := by
  unfold fetchClash
  dsimp only
  rw [h, List.filter_nil, List.foldl_nil, loseWrites_none (fun p hp w hx => by
    have := hw p hp w hx
    rw [BitVec.getLsbD_twoPow]
    simp only [Bool.and_eq_false_iff, decide_eq_false_iff_not]
    exact .inr (fun e => this e.symm))]
  have hm : Near k s (markBeats k (BitVec.twoPow 64 (bankOf a)) s) ∧ (markBeats k (BitVec.twoPow 64 (bankOf a)) s).spire k = { s.spire k with arr := ((markBeats k (BitVec.twoPow 64 (bankOf a)) s).spire k).arr } := by
    unfold markBeats
    split
    · exact ⟨Near.refl k s, rfl⟩
    · refine ⟨Near.modSpire k _ s, ?_⟩
      unfold State.modArr; rw [spire_modSpire]
  have hc := countSpire_near k 0x0501 1 (markBeats k (BitVec.twoPow 64 (bankOf a)) s)
  refine ⟨hm.1.trans hc.1, ?_, ?_⟩
  · have := (hm.1.trans hc.1).1
    have h2 := congrArg State.free this
    exact h2
  · obtain ⟨A, hA⟩ : ∃ A, (markBeats k (BitVec.twoPow 64 (bankOf a)) s).spire k = { s.spire k with arr := A } := ⟨_, hm.2⟩
    obtain ⟨C, hC⟩ : ∃ C, (countSpire k 0x0501 1 (markBeats k (BitVec.twoPow 64 (bankOf a)) s)).spire k = { (markBeats k (BitVec.twoPow 64 (bankOf a)) s).spire k with cnt := C } := ⟨_, hc.2⟩
    have hX : (countSpire k 0x0501 1 (markBeats k (BitVec.twoPow 64 (bankOf a)) s)).spire k = { s.spire k with arr := A, cnt := C } := by rw [hC, hA]
    rw [hX]
    dsimp only
    rw [h]

theorem setPhase_spire (k : Nat) (x : VuPhase) (s : State) : (setPhase k x s).spire k = { s.spire k with vu := { (s.spire k).vu with phase := x } } := by
  unfold setPhase State.modVu; rw [spire_modSpire]

theorem modSeq_spire (k : Nat) (f : SeqState → SeqState) (s : State) : (s.modSeq k f).spire k = { s.spire k with seq := f (s.spire k).seq } := by
  unfold State.modSeq; rw [spire_modSpire]

theorem modVu_spire (k : Nat) (f : VuState → VuState) (s : State) : (s.modVu k f).spire k = { s.spire k with vu := f (s.spire k).vu } := by
  unfold State.modVu; rw [spire_modSpire]

theorem only_modSeq (k : Nat) (f : SeqState → SeqState) (s : State) : OnlySpire k s (s.modSeq k f) := OnlySpire.modSpire k _ s

theorem only_modVu (k : Nat) (f : VuState → VuState) (s : State) : OnlySpire k s (s.modVu k f) := OnlySpire.modSpire k _ s

theorem endDrained_not {k : Nat} {s : State} (h : (s.spire k).seq.mode ≠ .ending) : endDrained k s = s := by
  unfold endDrained; rw [if_neg]; simp [h]

theorem shadowWaits_not {k : Nat} {s : State} (h : (s.spire k).vu.phase ≠ .steady ∨ ((s.spire k).seq.window = false ∧ (s.spire k).seq.reclaim = false)) : shadowWaits k s = s := by
  unfold shadowWaits; dsimp only; rw [if_neg]; rcases h with h | ⟨h1, h2⟩
  · simp [h]
  · simp [h1, h2]

theorem modCc_spire (k : Nat) (f : CcState → CcState) (s : State) : (s.modCc k f).spire k = { s.spire k with cc := f (s.spire k).cc } := by
  unfold State.modCc; rw [spire_modSpire]

theorem modArr_spire (k : Nat) (f : ArrState → ArrState) (s : State) : (s.modArr k f).spire k = { s.spire k with arr := f (s.spire k).arr } := by
  unfold State.modArr; rw [spire_modSpire]

theorem modXb_spire (k : Nat) (f : XbState → XbState) (s : State) : (s.modXb k f).spire k = { s.spire k with xb := f (s.spire k).xb } := by
  unfold State.modXb; rw [spire_modSpire]

theorem modStore_spire (k : Nat) (f : Mem → Mem) (s : State) : (s.modStore k f).spire k = { s.spire k with store := f (s.spire k).store } := by
  unfold State.modStore; rw [spire_modSpire]

theorem setCmdStatus_spire {k : Nat} {s : State} (st : Nat) (h : s.inService k = true) :
    (setCmdStatus k st s).spire k = { s.spire k with seq := { (s.spire k).seq with status := BitVec.ofNat 8 st } } := by
  unfold setCmdStatus; rw [if_pos h, modSeq_spire]

theorem modJob_spire (id k : Nat) (f : Job → Job) (s : State) : (s.modJob id f).spire k = s.spire k := rfl

end Sys2Proof.Machine
end

