-- ==== Sys2Proof/Laws/Fabric.lean ====
section
/-! SUPPORT. What the operations over lanes and the traffic manager do: a read after a change of a lane, lanes that go out. -/

set_option Elab.async false

namespace Sys2Proof.Machine

open Sys2Proof

@[simp] theorem lane_modLane (s : State) (n : Nat) (f : Lane → Lane) : (s.modLane n f).lane n = f (s.lane n) := by
  unfold State.lane State.modLane; exact Tab.get_modify_same _ _ _ _

theorem lane_modLane_ne (s : State) {n m : Nat} (f : Lane → Lane) (h : m ≠ n) : (s.modLane n f).lane m = s.lane m := by
  unfold State.lane State.modLane; exact Tab.get_modify_other _ _ _ (Ne.symm h)

@[simp] theorem lane_modLaneRegs (s : State) (n : Nat) (f : LaneRegs → LaneRegs) :
    (s.modLaneRegs n f).lane n = { s.lane n with regs := f (s.lane n).regs } := lane_modLane s n _

theorem lane_modLaneRegs_ne (s : State) {n m : Nat} (f : LaneRegs → LaneRegs) (h : m ≠ n) :
    (s.modLaneRegs n f).lane m = s.lane m := lane_modLane_ne s _ h

theorem lane_of_lanes {s t : State} (h : t.fab.lanes = s.fab.lanes) (m : Nat) : t.lane m = s.lane m := by
  unfold State.lane; rw [h]

/-- The lane that forwards a held cell depends on the images and the Figure alone. -/
theorem heldFor_of {s t : State} (h1 : t.fab.active = s.fab.active) (h2 : t.fab.slotA = s.fab.slotA) (h3 : t.fab.slotB = s.fab.slotB)
    (h4 : t.fab.drain = s.fab.drain) (h5 : t.fab.figure = s.fab.figure) (h : HeldCell) : t.heldFor h = s.heldFor h := by
  unfold State.heldFor State.image FabState.slot
  rw [h1, h2, h3, h4, h5]

/-- `t` differs from `s` in the fabric, the traffic manager, the radio partition and the Dome's doorbell at most. -/
def LaneScope (s t : State) : Prop :=
  t = { s with fab := t.fab, be := t.be, radio := t.radio, dome := { s.dome with dbStatus := t.dome.dbStatus, dbSetAt := t.dome.dbSetAt } }

theorem LaneScope.refl (s : State) : LaneScope s s := rfl

theorem LaneScope.trans {s t u : State} (h : LaneScope s t) (g : LaneScope t u) : LaneScope s u := by
  unfold LaneScope at *; rw [g, h]

theorem LaneScope.modLane (s : State) (n : Nat) (f : Lane → Lane) : LaneScope s (s.modLane n f) := rfl

theorem LaneScope.modFab (s : State) (f : FabState → FabState) : LaneScope s (s.modFab f) := rfl

theorem LaneScope.modLaneRegs (s : State) (n : Nat) (f : LaneRegs → LaneRegs) : LaneScope s (s.modLaneRegs n f) := rfl

/-- `t` differs from `s` in the lanes at most. -/
def LanesScope (s t : State) : Prop := t = { s with fab := { s.fab with lanes := t.fab.lanes } }

theorem LanesScope.trans {s t u : State} (h : LanesScope s t) (g : LanesScope t u) : LanesScope s u := by
  unfold LanesScope at *; rw [g, h]

theorem LanesScope.modLane (s : State) (n : Nat) (f : Lane → Lane) : LanesScope s (s.modLane n f) := rfl

theorem LanesScope.modLaneRegs (s : State) (n : Nat) (f : LaneRegs → LaneRegs) : LanesScope s (s.modLaneRegs n f) := rfl

theorem LanesScope.lane {s t : State} (h : LanesScope s t) : LaneScope s t := by
  unfold LaneScope; rw [h]

/-- `t` differs from `s` in the traffic manager at most. -/
def BeScope (s t : State) : Prop := t = { s with be := t.be }

theorem BeScope.trans {s t u : State} (h : BeScope s t) (g : BeScope t u) : BeScope s u := by
  unfold BeScope at *; rw [g, h]

theorem BeScope.foldl {α : Type} {f : State → α → State} (hf : ∀ t a, BeScope t (f t a)) (l : List α) (s : State) :
    BeScope s (l.foldl f s) := by
  induction l generalizing s with
  | nil => rfl
  | cons a l ih => exact (hf s a).trans (ih _)

/-- A lane that goes out changes the traffic manager only. -/
theorem beLaneDown_shape (n : Nat) (s : State) : beLaneDown n s = { s with be := (beLaneDown n s).be } :=
  ((BeScope.foldl (f := fun t (p : Nat × Cell) => beDrop n p.2.beQueue 1 t) (fun _ _ => rfl) (s.be.picked.get [] n) s).trans
    (u := State.modBe _ (fun b => { b with picked := b.picked.set [] n [] })) rfl).trans
    (BeScope.foldl (f := fun t q => t.modBeQueue n q (fun u => { u with cells := [], drops := satAdd u.drops u.cells.length }))
      (fun _ _ => rfl) (List.range 8) _)

theorem beLaneDown_lane (n m : Nat) (s : State) : (beLaneDown n s).lane m = s.lane m := by rw [beLaneDown_shape]; rfl

theorem beLaneDown_scope (n : Nat) (s : State) : LaneScope s (beLaneDown n s) := by
  unfold LaneScope; rw [beLaneDown_shape]

/-- The queues of a lane that goes out are empty. -/
theorem beLaneDown_empty (n q : Nat) (hq : q < 8) (s : State) : ((beLaneDown n s).beQueue n q).cells = [] := by
  unfold beLaneDown
  dsimp only
  generalize (State.modBe _ _) = t
  have hs : ∀ (t : State) (a : Nat) (f : BeQueue → BeQueue), (t.modBeQueue n a f).beQueue n q =
      if a = q then f (t.beQueue n q) else t.beQueue n q := by
    intro t a f
    show ((t.be.queues.modify BeQueue.reset (n * 8 + a) f).get BeQueue.reset (n * 8 + q)) = _
    rw [Tab.get_modify]
    by_cases h : a = q
    · subst h; simp [State.beQueue]
    · rw [if_neg (by omega), if_neg h]; rfl
  have hm : ∀ (l : List Nat) (t : State), (q ∈ l ∨ (t.beQueue n q).cells = []) →
      ((l.foldl (fun t q => t.modBeQueue n q (fun u => { u with cells := [], drops := satAdd u.drops u.cells.length })) t).beQueue n q).cells = [] := by
    intro l
    induction l with
    | nil => intro t h; exact h.resolve_left (by simp)
    | cons a l ih =>
      intro t h
      rw [List.foldl_cons]
      apply ih
      by_cases ha : a = q
      · right; rw [hs, if_pos ha]
      · rcases h with h | h
        · left; simpa [Ne.symm ha] using h
        · right; rw [hs, if_neg ha]; exact h
  exact hm _ _ (.inl (by simpa using hq))

/-- `t` differs from `s` in the radio partition at most. -/
def RadioScope (s t : State) : Prop := t = { s with radio := t.radio }

theorem RadioScope.trans {s t u : State} (h : RadioScope s t) (g : RadioScope t u) : RadioScope s u := by
  unfold RadioScope at *; rw [g, h]

theorem RadioScope.foldl {α : Type} {f : State → α → State} (hf : ∀ t a, RadioScope t (f t a)) (l : List α) (s : State) :
    RadioScope s (l.foldl f s) := by
  induction l generalizing s with
  | nil => rfl
  | cons a l ih => exact (hf s a).trans (ih _)

theorem RadioScope.modCell (c : Nat) (f : RadioCell → RadioCell) (s : State) : RadioScope s (s.modCell c f) := rfl

theorem loseSlot_scope (c : Nat) (s : State) : RadioScope s (loseSlot c s) := by
  unfold loseSlot loseSlots
  refine RadioScope.foldl (fun t n => ?_) _ s
  unfold loseOne
  dsimp only
  split <;> rfl

theorem losingCells_scope (l : List Nat) (s : State) : RadioScope s (losingCells l s) := by
  unfold losingCells
  exact RadioScope.foldl (fun t c => (loseSlot_scope c t).trans (.modCell c _ _)) _ s

/-- What a fault of a radio part changes: the radio partition, a switch that it arms and its time. -/
theorem partFault_shape (p : RadioPart) (l : List Nat) (s : State) :
    ∃ x y z, partFault p l s = { s with radio := x, fab := { s.fab with switch := y, figAt := z } } := by
  have of : ∀ {t u : State}, RadioScope t u → u.fab = t.fab := fun h => by rw [h]
  unfold partFault
  split
  · exact ⟨_, _, _, rfl⟩
  · split
    · have h := losingCells_scope l { s with radio := { s.radio with parts := s.radio.parts.filter (· != p) ++ [p] } }
      exact ⟨_, _, _, h⟩
    · split
      · have h := losingCells_scope l { s with fab := { s.fab with
          switch := some ⟨s.fab.active.getD false, ‹_›, s.secondPeriod, .dome⟩, figAt := hallOf s.secondPeriod } }
        exact ⟨_, _, _, h⟩
      · exact ⟨_, _, _, RadioScope.foldl (fun t c => (loseSlot_scope c t).trans (.modCell c _ _)) l s⟩

/-- The same of the fault as it is noted, with its doorbell. -/
theorem radioPartFault_shape (p : RadioPart) (s : State) : ∃ x y z a b, radioPartFault p s = { s with
    radio := x, fab := { s.fab with switch := y, figAt := z }, dome := { s.dome with dbStatus := a, dbSetAt := b } } := by
  unfold radioPartFault
  dsimp only
  split
  · exact ⟨_, _, _, _, _, rfl⟩
  · obtain ⟨x, y, z, h⟩ := partFault_shape p ((s.cellsUsing p).filter (fun c => !(s.cell c).losing)) (ringDome 4 s)
    exact ⟨x, y, z, _, _, h⟩

theorem radioPartFault_scope (p : RadioPart) (s : State) : LaneScope s (radioPartFault p s) := by
  obtain ⟨x, y, z, a, b, h⟩ := radioPartFault_shape p s
  unfold LaneScope; rw [h]

theorem lane_ringDome (i : Nat) (s : State) (m : Nat) : (ringDome i s).lane m = s.lane m := by
  unfold ringDome; exact lane_of_lanes rfl m

theorem radioPartFault_fab (p : RadioPart) (s : State) : ∃ x y, (radioPartFault p s).fab = { s.fab with switch := x, figAt := y } := by
  obtain ⟨x, y, z, a, b, h⟩ := radioPartFault_shape p s
  exact ⟨y, z, by rw [h]⟩

theorem radioPartFault_lanes (p : RadioPart) (s : State) : (radioPartFault p s).fab.lanes = s.fab.lanes := by
  obtain ⟨x, y, h⟩ := radioPartFault_fab p s; rw [h]

theorem radioPartFault_lane (p : RadioPart) (s : State) (m : Nat) : (radioPartFault p s).lane m = s.lane m :=
  lane_of_lanes (radioPartFault_lanes p s) m

theorem radioPartFault_be (p : RadioPart) (s : State) : (radioPartFault p s).be = s.be := by
  obtain ⟨x, y, z, a, b, h⟩ := radioPartFault_shape p s
  rw [h]

/-- The cells that lane `n` is to forward and that are held. -/
theorem dropTransit_lane (n : Nat) (s : State) : (dropTransit n s).lane n = { s.lane n with regs := { (s.lane n).regs with
    txDrops := satAdd (s.lane n).regs.txDrops (s.fab.held.filter (fun h => s.heldFor h == some n)).length } } := by
  unfold dropTransit
  dsimp only
  rw [lane_modLaneRegs, lane_of_lanes (t := State.modFab _ _) (s := s) rfl]

/-- What a lane loses that goes out. -/
theorem laneLost_spec (n : Nat) (f : Lane → Lane) (s : State) :
    LaneScope s (dropTransit n (beLaneDown n (s.modLane n f))) ∧
    (∀ m, m ≠ n → (dropTransit n (beLaneDown n (s.modLane n f))).lane m = s.lane m) ∧
    (∀ q, q < 8 → ((dropTransit n (beLaneDown n (s.modLane n f))).beQueue n q).cells = []) ∧
    (dropTransit n (beLaneDown n (s.modLane n f))).lane n = { f (s.lane n) with regs := { (f (s.lane n)).regs with
      txDrops := satAdd (f (s.lane n)).regs.txDrops (s.fab.held.filter (fun h => s.heldFor h == some n)).length } } := by
  have hl := fun m => beLaneDown_lane n m (s.modLane n f)
  have he := fun q hq => beLaneDown_empty n q hq (s.modLane n f)
  have hs := beLaneDown_scope n (s.modLane n f)
  have hb : (beLaneDown n (s.modLane n f)).fab = (s.modLane n f).fab := by rw [beLaneDown_shape]
  generalize beLaneDown n (s.modLane n f) = t at *
  have hh : ∀ h, t.heldFor h = s.heldFor h := fun h =>
    heldFor_of (by rw [hb]; rfl) (by rw [hb]; rfl) (by rw [hb]; rfl) (by rw [hb]; rfl) (by rw [hb]; rfl) h
  have hd : t.fab.held = s.fab.held := by rw [hb]; rfl
  refine ⟨(LaneScope.modLane s n f).trans (hs.trans rfl), ?_, fun q hq => he q hq, ?_⟩
  · intro m hm
    unfold dropTransit
    dsimp only
    rw [lane_modLaneRegs_ne _ _ hm, lane_of_lanes (t := State.modFab _ _) (s := t) rfl, hl, lane_modLane_ne _ _ hm]
  · rw [dropTransit_lane, hl, lane_modLane, hd]
    simp only [hh]

/-- What a lane that goes out of service is afterwards (R356, R387, Table 10.15). -/
theorem laneOut_spec (n : Nat) (x : LaneState) (c : Nat) (s : State) :
    LaneScope s (laneOut n x c s) ∧ (∀ m, m ≠ n → (laneOut n x c s).lane m = s.lane m) ∧
    (∀ q, q < 8 → ((laneOut n x c s).beQueue n q).cells = []) ∧
    (laneOut n x c s).lane n = { s.lane n with
      regs := { (s.lane n).regs with
        state := x, cause := if x = .disabled then (s.lane n).regs.cause else BitVec.ofNat 4 c, delayValid := false
        txDrops := satAdd (s.lane n).regs.txDrops (s.fab.held.filter (fun h => s.heldFor h == some n)).length }
      since := s.clock.tick, badMarkers := 0, idents := 0, upSteps := 0, overBound := 0 } := by
  have h := laneLost_spec n (fun l : Lane => ({ l with
    regs := { l.regs with
      state := x, cause := if x = .disabled then l.regs.cause else BitVec.ofNat 4 c, delayValid := false },
    since := s.clock.tick, badMarkers := 0, idents := 0, upSteps := 0, overBound := 0 } : Lane)) s
  unfold laneOut
  dsimp only at h ⊢
  generalize dropTransit n _ = t at *
  by_cases hx : x = .disabled
  · simp only [hx, if_true] at h ⊢; exact h
  · simp only [hx, if_false] at h ⊢
    refine ⟨h.1.trans (LaneScope.trans (t := ringDome 1 t) (by unfold LaneScope; rfl) (radioPartFault_scope _ _)), ?_, ?_, ?_⟩
    · intro m hm
      rw [radioPartFault_lane, lane_ringDome]
      exact h.2.1 m hm
    · intro q hq
      have hb : (radioPartFault (.lane n) (ringDome 1 t)).be = t.be := radioPartFault_be _ _
      unfold State.beQueue
      rw [hb]
      exact h.2.2.1 q hq
    · rw [radioPartFault_lane, lane_ringDome, h.2.2.2]

end Sys2Proof.Machine
end

