-- ==== Sys2Proof/Laws/State.lean ====
section
/-! SUPPORT. What each update of the state changes: one lemma for each field and each update, and what an update of one unit
leaves of the others. -/

namespace Sys2Proof.Machine

/-! `State.modBe` -/

section
variable (s : State) (f : BeState → BeState)
@[simp] theorem State.modBe_clock : (s.modBe f).clock = s.clock := rfl
@[simp] theorem State.modBe_clk : (s.modBe f).clk = s.clk := rfl
@[simp] theorem State.modBe_time : (s.modBe f).time = s.time := rfl
@[simp] theorem State.modBe_trig : (s.modBe f).trig = s.trig := rfl
@[simp] theorem State.modBe_cap : (s.modBe f).cap = s.cap := rfl
@[simp] theorem State.modBe_cnt : (s.modBe f).cnt = s.cnt := rfl
@[simp] theorem State.modBe_spires : (s.modBe f).spires = s.spires := rfl
@[simp] theorem State.modBe_hbm : (s.modBe f).hbm = s.hbm := rfl
@[simp] theorem State.modBe_tier : (s.modBe f).tier = s.tier := rfl
@[simp] theorem State.modBe_flash : (s.modBe f).flash = s.flash := rfl
@[simp] theorem State.modBe_radio : (s.modBe f).radio = s.radio := rfl
@[simp] theorem State.modBe_fab : (s.modBe f).fab = s.fab := rfl
@[simp] theorem State.modBe_be : (s.modBe f).be = f s.be := rfl
@[simp] theorem State.modBe_rm : (s.modBe f).rm = s.rm := rfl
@[simp] theorem State.modBe_dsp : (s.modBe f).dsp = s.dsp := rfl
@[simp] theorem State.modBe_leases : (s.modBe f).leases = s.leases := rfl
@[simp] theorem State.modBe_host : (s.modBe f).host = s.host := rfl
@[simp] theorem State.modBe_rel : (s.modBe f).rel = s.rel := rfl
@[simp] theorem State.modBe_dome : (s.modBe f).dome = s.dome := rfl
@[simp] theorem State.modBe_pwr : (s.modBe f).pwr = s.pwr := rfl
@[simp] theorem State.modBe_pins : (s.modBe f).pins = s.pins := rfl
@[simp] theorem State.modBe_out : (s.modBe f).out = s.out := rfl
@[simp] theorem State.modBe_free : (s.modBe f).free = s.free := rfl
@[simp] theorem State.modBe_started : (s.modBe f).started = s.started := rfl
@[simp] theorem State.modBe_pending : (s.modBe f).pending = s.pending := rfl
end

/-! `State.modClk` -/

section
variable (s : State) (f : ClkState → ClkState)
@[simp] theorem State.modClk_clock : (s.modClk f).clock = s.clock := rfl
@[simp] theorem State.modClk_clk : (s.modClk f).clk = f s.clk := rfl
@[simp] theorem State.modClk_time : (s.modClk f).time = s.time := rfl
@[simp] theorem State.modClk_trig : (s.modClk f).trig = s.trig := rfl
@[simp] theorem State.modClk_cap : (s.modClk f).cap = s.cap := rfl
@[simp] theorem State.modClk_cnt : (s.modClk f).cnt = s.cnt := rfl
@[simp] theorem State.modClk_spires : (s.modClk f).spires = s.spires := rfl
@[simp] theorem State.modClk_hbm : (s.modClk f).hbm = s.hbm := rfl
@[simp] theorem State.modClk_tier : (s.modClk f).tier = s.tier := rfl
@[simp] theorem State.modClk_flash : (s.modClk f).flash = s.flash := rfl
@[simp] theorem State.modClk_radio : (s.modClk f).radio = s.radio := rfl
@[simp] theorem State.modClk_fab : (s.modClk f).fab = s.fab := rfl
@[simp] theorem State.modClk_be : (s.modClk f).be = s.be := rfl
@[simp] theorem State.modClk_rm : (s.modClk f).rm = s.rm := rfl
@[simp] theorem State.modClk_dsp : (s.modClk f).dsp = s.dsp := rfl
@[simp] theorem State.modClk_leases : (s.modClk f).leases = s.leases := rfl
@[simp] theorem State.modClk_host : (s.modClk f).host = s.host := rfl
@[simp] theorem State.modClk_rel : (s.modClk f).rel = s.rel := rfl
@[simp] theorem State.modClk_dome : (s.modClk f).dome = s.dome := rfl
@[simp] theorem State.modClk_pwr : (s.modClk f).pwr = s.pwr := rfl
@[simp] theorem State.modClk_pins : (s.modClk f).pins = s.pins := rfl
@[simp] theorem State.modClk_out : (s.modClk f).out = s.out := rfl
@[simp] theorem State.modClk_free : (s.modClk f).free = s.free := rfl
@[simp] theorem State.modClk_started : (s.modClk f).started = s.started := rfl
@[simp] theorem State.modClk_pending : (s.modClk f).pending = s.pending := rfl
end

/-! `State.modDsp` -/

section
variable (s : State) (f : DspState → DspState)
@[simp] theorem State.modDsp_clock : (s.modDsp f).clock = s.clock := rfl
@[simp] theorem State.modDsp_clk : (s.modDsp f).clk = s.clk := rfl
@[simp] theorem State.modDsp_time : (s.modDsp f).time = s.time := rfl
@[simp] theorem State.modDsp_trig : (s.modDsp f).trig = s.trig := rfl
@[simp] theorem State.modDsp_cap : (s.modDsp f).cap = s.cap := rfl
@[simp] theorem State.modDsp_cnt : (s.modDsp f).cnt = s.cnt := rfl
@[simp] theorem State.modDsp_spires : (s.modDsp f).spires = s.spires := rfl
@[simp] theorem State.modDsp_hbm : (s.modDsp f).hbm = s.hbm := rfl
@[simp] theorem State.modDsp_tier : (s.modDsp f).tier = s.tier := rfl
@[simp] theorem State.modDsp_flash : (s.modDsp f).flash = s.flash := rfl
@[simp] theorem State.modDsp_radio : (s.modDsp f).radio = s.radio := rfl
@[simp] theorem State.modDsp_fab : (s.modDsp f).fab = s.fab := rfl
@[simp] theorem State.modDsp_be : (s.modDsp f).be = s.be := rfl
@[simp] theorem State.modDsp_rm : (s.modDsp f).rm = s.rm := rfl
@[simp] theorem State.modDsp_dsp : (s.modDsp f).dsp = f s.dsp := rfl
@[simp] theorem State.modDsp_leases : (s.modDsp f).leases = s.leases := rfl
@[simp] theorem State.modDsp_host : (s.modDsp f).host = s.host := rfl
@[simp] theorem State.modDsp_rel : (s.modDsp f).rel = s.rel := rfl
@[simp] theorem State.modDsp_dome : (s.modDsp f).dome = s.dome := rfl
@[simp] theorem State.modDsp_pwr : (s.modDsp f).pwr = s.pwr := rfl
@[simp] theorem State.modDsp_pins : (s.modDsp f).pins = s.pins := rfl
@[simp] theorem State.modDsp_out : (s.modDsp f).out = s.out := rfl
@[simp] theorem State.modDsp_free : (s.modDsp f).free = s.free := rfl
@[simp] theorem State.modDsp_started : (s.modDsp f).started = s.started := rfl
@[simp] theorem State.modDsp_pending : (s.modDsp f).pending = s.pending := rfl
end

/-! `State.modDome` -/

section
variable (s : State) (f : DomeState → DomeState)
@[simp] theorem State.modDome_clock : (s.modDome f).clock = s.clock := rfl
@[simp] theorem State.modDome_clk : (s.modDome f).clk = s.clk := rfl
@[simp] theorem State.modDome_time : (s.modDome f).time = s.time := rfl
@[simp] theorem State.modDome_trig : (s.modDome f).trig = s.trig := rfl
@[simp] theorem State.modDome_cap : (s.modDome f).cap = s.cap := rfl
@[simp] theorem State.modDome_cnt : (s.modDome f).cnt = s.cnt := rfl
@[simp] theorem State.modDome_spires : (s.modDome f).spires = s.spires := rfl
@[simp] theorem State.modDome_hbm : (s.modDome f).hbm = s.hbm := rfl
@[simp] theorem State.modDome_tier : (s.modDome f).tier = s.tier := rfl
@[simp] theorem State.modDome_flash : (s.modDome f).flash = s.flash := rfl
@[simp] theorem State.modDome_radio : (s.modDome f).radio = s.radio := rfl
@[simp] theorem State.modDome_fab : (s.modDome f).fab = s.fab := rfl
@[simp] theorem State.modDome_be : (s.modDome f).be = s.be := rfl
@[simp] theorem State.modDome_rm : (s.modDome f).rm = s.rm := rfl
@[simp] theorem State.modDome_dsp : (s.modDome f).dsp = s.dsp := rfl
@[simp] theorem State.modDome_leases : (s.modDome f).leases = s.leases := rfl
@[simp] theorem State.modDome_host : (s.modDome f).host = s.host := rfl
@[simp] theorem State.modDome_rel : (s.modDome f).rel = s.rel := rfl
@[simp] theorem State.modDome_dome : (s.modDome f).dome = f s.dome := rfl
@[simp] theorem State.modDome_pwr : (s.modDome f).pwr = s.pwr := rfl
@[simp] theorem State.modDome_pins : (s.modDome f).pins = s.pins := rfl
@[simp] theorem State.modDome_out : (s.modDome f).out = s.out := rfl
@[simp] theorem State.modDome_free : (s.modDome f).free = s.free := rfl
@[simp] theorem State.modDome_started : (s.modDome f).started = s.started := rfl
@[simp] theorem State.modDome_pending : (s.modDome f).pending = s.pending := rfl
end

/-! `State.modFab` -/

section
variable (s : State) (f : FabState → FabState)
@[simp] theorem State.modFab_clock : (s.modFab f).clock = s.clock := rfl
@[simp] theorem State.modFab_clk : (s.modFab f).clk = s.clk := rfl
@[simp] theorem State.modFab_time : (s.modFab f).time = s.time := rfl
@[simp] theorem State.modFab_trig : (s.modFab f).trig = s.trig := rfl
@[simp] theorem State.modFab_cap : (s.modFab f).cap = s.cap := rfl
@[simp] theorem State.modFab_cnt : (s.modFab f).cnt = s.cnt := rfl
@[simp] theorem State.modFab_spires : (s.modFab f).spires = s.spires := rfl
@[simp] theorem State.modFab_hbm : (s.modFab f).hbm = s.hbm := rfl
@[simp] theorem State.modFab_tier : (s.modFab f).tier = s.tier := rfl
@[simp] theorem State.modFab_flash : (s.modFab f).flash = s.flash := rfl
@[simp] theorem State.modFab_radio : (s.modFab f).radio = s.radio := rfl
@[simp] theorem State.modFab_fab : (s.modFab f).fab = f s.fab := rfl
@[simp] theorem State.modFab_be : (s.modFab f).be = s.be := rfl
@[simp] theorem State.modFab_rm : (s.modFab f).rm = s.rm := rfl
@[simp] theorem State.modFab_dsp : (s.modFab f).dsp = s.dsp := rfl
@[simp] theorem State.modFab_leases : (s.modFab f).leases = s.leases := rfl
@[simp] theorem State.modFab_host : (s.modFab f).host = s.host := rfl
@[simp] theorem State.modFab_rel : (s.modFab f).rel = s.rel := rfl
@[simp] theorem State.modFab_dome : (s.modFab f).dome = s.dome := rfl
@[simp] theorem State.modFab_pwr : (s.modFab f).pwr = s.pwr := rfl
@[simp] theorem State.modFab_pins : (s.modFab f).pins = s.pins := rfl
@[simp] theorem State.modFab_out : (s.modFab f).out = s.out := rfl
@[simp] theorem State.modFab_free : (s.modFab f).free = s.free := rfl
@[simp] theorem State.modFab_started : (s.modFab f).started = s.started := rfl
@[simp] theorem State.modFab_pending : (s.modFab f).pending = s.pending := rfl
end

/-! `State.modPwr` -/

section
variable (s : State) (f : PwrState → PwrState)
@[simp] theorem State.modPwr_clock : (s.modPwr f).clock = s.clock := rfl
@[simp] theorem State.modPwr_clk : (s.modPwr f).clk = s.clk := rfl
@[simp] theorem State.modPwr_time : (s.modPwr f).time = s.time := rfl
@[simp] theorem State.modPwr_trig : (s.modPwr f).trig = s.trig := rfl
@[simp] theorem State.modPwr_cap : (s.modPwr f).cap = s.cap := rfl
@[simp] theorem State.modPwr_cnt : (s.modPwr f).cnt = s.cnt := rfl
@[simp] theorem State.modPwr_spires : (s.modPwr f).spires = s.spires := rfl
@[simp] theorem State.modPwr_hbm : (s.modPwr f).hbm = s.hbm := rfl
@[simp] theorem State.modPwr_tier : (s.modPwr f).tier = s.tier := rfl
@[simp] theorem State.modPwr_flash : (s.modPwr f).flash = s.flash := rfl
@[simp] theorem State.modPwr_radio : (s.modPwr f).radio = s.radio := rfl
@[simp] theorem State.modPwr_fab : (s.modPwr f).fab = s.fab := rfl
@[simp] theorem State.modPwr_be : (s.modPwr f).be = s.be := rfl
@[simp] theorem State.modPwr_rm : (s.modPwr f).rm = s.rm := rfl
@[simp] theorem State.modPwr_dsp : (s.modPwr f).dsp = s.dsp := rfl
@[simp] theorem State.modPwr_leases : (s.modPwr f).leases = s.leases := rfl
@[simp] theorem State.modPwr_host : (s.modPwr f).host = s.host := rfl
@[simp] theorem State.modPwr_rel : (s.modPwr f).rel = s.rel := rfl
@[simp] theorem State.modPwr_dome : (s.modPwr f).dome = s.dome := rfl
@[simp] theorem State.modPwr_pwr : (s.modPwr f).pwr = f s.pwr := rfl
@[simp] theorem State.modPwr_pins : (s.modPwr f).pins = s.pins := rfl
@[simp] theorem State.modPwr_out : (s.modPwr f).out = s.out := rfl
@[simp] theorem State.modPwr_free : (s.modPwr f).free = s.free := rfl
@[simp] theorem State.modPwr_started : (s.modPwr f).started = s.started := rfl
@[simp] theorem State.modPwr_pending : (s.modPwr f).pending = s.pending := rfl
end

/-! `State.modRadio` -/

section
variable (s : State) (f : RadioState → RadioState)
@[simp] theorem State.modRadio_clock : (s.modRadio f).clock = s.clock := rfl
@[simp] theorem State.modRadio_clk : (s.modRadio f).clk = s.clk := rfl
@[simp] theorem State.modRadio_time : (s.modRadio f).time = s.time := rfl
@[simp] theorem State.modRadio_trig : (s.modRadio f).trig = s.trig := rfl
@[simp] theorem State.modRadio_cap : (s.modRadio f).cap = s.cap := rfl
@[simp] theorem State.modRadio_cnt : (s.modRadio f).cnt = s.cnt := rfl
@[simp] theorem State.modRadio_spires : (s.modRadio f).spires = s.spires := rfl
@[simp] theorem State.modRadio_hbm : (s.modRadio f).hbm = s.hbm := rfl
@[simp] theorem State.modRadio_tier : (s.modRadio f).tier = s.tier := rfl
@[simp] theorem State.modRadio_flash : (s.modRadio f).flash = s.flash := rfl
@[simp] theorem State.modRadio_radio : (s.modRadio f).radio = f s.radio := rfl
@[simp] theorem State.modRadio_fab : (s.modRadio f).fab = s.fab := rfl
@[simp] theorem State.modRadio_be : (s.modRadio f).be = s.be := rfl
@[simp] theorem State.modRadio_rm : (s.modRadio f).rm = s.rm := rfl
@[simp] theorem State.modRadio_dsp : (s.modRadio f).dsp = s.dsp := rfl
@[simp] theorem State.modRadio_leases : (s.modRadio f).leases = s.leases := rfl
@[simp] theorem State.modRadio_host : (s.modRadio f).host = s.host := rfl
@[simp] theorem State.modRadio_rel : (s.modRadio f).rel = s.rel := rfl
@[simp] theorem State.modRadio_dome : (s.modRadio f).dome = s.dome := rfl
@[simp] theorem State.modRadio_pwr : (s.modRadio f).pwr = s.pwr := rfl
@[simp] theorem State.modRadio_pins : (s.modRadio f).pins = s.pins := rfl
@[simp] theorem State.modRadio_out : (s.modRadio f).out = s.out := rfl
@[simp] theorem State.modRadio_free : (s.modRadio f).free = s.free := rfl
@[simp] theorem State.modRadio_started : (s.modRadio f).started = s.started := rfl
@[simp] theorem State.modRadio_pending : (s.modRadio f).pending = s.pending := rfl
end

/-! `State.modRel` -/

section
variable (s : State) (f : RelState → RelState)
@[simp] theorem State.modRel_clock : (s.modRel f).clock = s.clock := rfl
@[simp] theorem State.modRel_clk : (s.modRel f).clk = s.clk := rfl
@[simp] theorem State.modRel_time : (s.modRel f).time = s.time := rfl
@[simp] theorem State.modRel_trig : (s.modRel f).trig = s.trig := rfl
@[simp] theorem State.modRel_cap : (s.modRel f).cap = s.cap := rfl
@[simp] theorem State.modRel_cnt : (s.modRel f).cnt = s.cnt := rfl
@[simp] theorem State.modRel_spires : (s.modRel f).spires = s.spires := rfl
@[simp] theorem State.modRel_hbm : (s.modRel f).hbm = s.hbm := rfl
@[simp] theorem State.modRel_tier : (s.modRel f).tier = s.tier := rfl
@[simp] theorem State.modRel_flash : (s.modRel f).flash = s.flash := rfl
@[simp] theorem State.modRel_radio : (s.modRel f).radio = s.radio := rfl
@[simp] theorem State.modRel_fab : (s.modRel f).fab = s.fab := rfl
@[simp] theorem State.modRel_be : (s.modRel f).be = s.be := rfl
@[simp] theorem State.modRel_rm : (s.modRel f).rm = s.rm := rfl
@[simp] theorem State.modRel_dsp : (s.modRel f).dsp = s.dsp := rfl
@[simp] theorem State.modRel_leases : (s.modRel f).leases = s.leases := rfl
@[simp] theorem State.modRel_host : (s.modRel f).host = s.host := rfl
@[simp] theorem State.modRel_rel : (s.modRel f).rel = f s.rel := rfl
@[simp] theorem State.modRel_dome : (s.modRel f).dome = s.dome := rfl
@[simp] theorem State.modRel_pwr : (s.modRel f).pwr = s.pwr := rfl
@[simp] theorem State.modRel_pins : (s.modRel f).pins = s.pins := rfl
@[simp] theorem State.modRel_out : (s.modRel f).out = s.out := rfl
@[simp] theorem State.modRel_free : (s.modRel f).free = s.free := rfl
@[simp] theorem State.modRel_started : (s.modRel f).started = s.started := rfl
@[simp] theorem State.modRel_pending : (s.modRel f).pending = s.pending := rfl
end

/-! `State.modRm` -/

section
variable (s : State) (f : RmState → RmState)
@[simp] theorem State.modRm_clock : (s.modRm f).clock = s.clock := rfl
@[simp] theorem State.modRm_clk : (s.modRm f).clk = s.clk := rfl
@[simp] theorem State.modRm_time : (s.modRm f).time = s.time := rfl
@[simp] theorem State.modRm_trig : (s.modRm f).trig = s.trig := rfl
@[simp] theorem State.modRm_cap : (s.modRm f).cap = s.cap := rfl
@[simp] theorem State.modRm_cnt : (s.modRm f).cnt = s.cnt := rfl
@[simp] theorem State.modRm_spires : (s.modRm f).spires = s.spires := rfl
@[simp] theorem State.modRm_hbm : (s.modRm f).hbm = s.hbm := rfl
@[simp] theorem State.modRm_tier : (s.modRm f).tier = s.tier := rfl
@[simp] theorem State.modRm_flash : (s.modRm f).flash = s.flash := rfl
@[simp] theorem State.modRm_radio : (s.modRm f).radio = s.radio := rfl
@[simp] theorem State.modRm_fab : (s.modRm f).fab = s.fab := rfl
@[simp] theorem State.modRm_be : (s.modRm f).be = s.be := rfl
@[simp] theorem State.modRm_rm : (s.modRm f).rm = f s.rm := rfl
@[simp] theorem State.modRm_dsp : (s.modRm f).dsp = s.dsp := rfl
@[simp] theorem State.modRm_leases : (s.modRm f).leases = s.leases := rfl
@[simp] theorem State.modRm_host : (s.modRm f).host = s.host := rfl
@[simp] theorem State.modRm_rel : (s.modRm f).rel = s.rel := rfl
@[simp] theorem State.modRm_dome : (s.modRm f).dome = s.dome := rfl
@[simp] theorem State.modRm_pwr : (s.modRm f).pwr = s.pwr := rfl
@[simp] theorem State.modRm_pins : (s.modRm f).pins = s.pins := rfl
@[simp] theorem State.modRm_out : (s.modRm f).out = s.out := rfl
@[simp] theorem State.modRm_free : (s.modRm f).free = s.free := rfl
@[simp] theorem State.modRm_started : (s.modRm f).started = s.started := rfl
@[simp] theorem State.modRm_pending : (s.modRm f).pending = s.pending := rfl
end

/-! `State.modTime` -/

section
variable (s : State) (f : TimeState → TimeState)
@[simp] theorem State.modTime_clock : (s.modTime f).clock = s.clock := rfl
@[simp] theorem State.modTime_clk : (s.modTime f).clk = s.clk := rfl
@[simp] theorem State.modTime_time : (s.modTime f).time = f s.time := rfl
@[simp] theorem State.modTime_trig : (s.modTime f).trig = s.trig := rfl
@[simp] theorem State.modTime_cap : (s.modTime f).cap = s.cap := rfl
@[simp] theorem State.modTime_cnt : (s.modTime f).cnt = s.cnt := rfl
@[simp] theorem State.modTime_spires : (s.modTime f).spires = s.spires := rfl
@[simp] theorem State.modTime_hbm : (s.modTime f).hbm = s.hbm := rfl
@[simp] theorem State.modTime_tier : (s.modTime f).tier = s.tier := rfl
@[simp] theorem State.modTime_flash : (s.modTime f).flash = s.flash := rfl
@[simp] theorem State.modTime_radio : (s.modTime f).radio = s.radio := rfl
@[simp] theorem State.modTime_fab : (s.modTime f).fab = s.fab := rfl
@[simp] theorem State.modTime_be : (s.modTime f).be = s.be := rfl
@[simp] theorem State.modTime_rm : (s.modTime f).rm = s.rm := rfl
@[simp] theorem State.modTime_dsp : (s.modTime f).dsp = s.dsp := rfl
@[simp] theorem State.modTime_leases : (s.modTime f).leases = s.leases := rfl
@[simp] theorem State.modTime_host : (s.modTime f).host = s.host := rfl
@[simp] theorem State.modTime_rel : (s.modTime f).rel = s.rel := rfl
@[simp] theorem State.modTime_dome : (s.modTime f).dome = s.dome := rfl
@[simp] theorem State.modTime_pwr : (s.modTime f).pwr = s.pwr := rfl
@[simp] theorem State.modTime_pins : (s.modTime f).pins = s.pins := rfl
@[simp] theorem State.modTime_out : (s.modTime f).out = s.out := rfl
@[simp] theorem State.modTime_free : (s.modTime f).free = s.free := rfl
@[simp] theorem State.modTime_started : (s.modTime f).started = s.started := rfl
@[simp] theorem State.modTime_pending : (s.modTime f).pending = s.pending := rfl
end

/-! `State.modSpire` -/

section
variable (s : State) (k : Nat) (f : Spire → Spire)
@[simp] theorem State.modSpire_clock : (s.modSpire k f).clock = s.clock := rfl
@[simp] theorem State.modSpire_clk : (s.modSpire k f).clk = s.clk := rfl
@[simp] theorem State.modSpire_time : (s.modSpire k f).time = s.time := rfl
@[simp] theorem State.modSpire_trig : (s.modSpire k f).trig = s.trig := rfl
@[simp] theorem State.modSpire_cap : (s.modSpire k f).cap = s.cap := rfl
@[simp] theorem State.modSpire_cnt : (s.modSpire k f).cnt = s.cnt := rfl
@[simp] theorem State.modSpire_spires : (s.modSpire k f).spires = s.spires.modify Spire.reset k f := rfl
@[simp] theorem State.modSpire_hbm : (s.modSpire k f).hbm = s.hbm := rfl
@[simp] theorem State.modSpire_tier : (s.modSpire k f).tier = s.tier := rfl
@[simp] theorem State.modSpire_flash : (s.modSpire k f).flash = s.flash := rfl
@[simp] theorem State.modSpire_radio : (s.modSpire k f).radio = s.radio := rfl
@[simp] theorem State.modSpire_fab : (s.modSpire k f).fab = s.fab := rfl
@[simp] theorem State.modSpire_be : (s.modSpire k f).be = s.be := rfl
@[simp] theorem State.modSpire_rm : (s.modSpire k f).rm = s.rm := rfl
@[simp] theorem State.modSpire_dsp : (s.modSpire k f).dsp = s.dsp := rfl
@[simp] theorem State.modSpire_leases : (s.modSpire k f).leases = s.leases := rfl
@[simp] theorem State.modSpire_host : (s.modSpire k f).host = s.host := rfl
@[simp] theorem State.modSpire_rel : (s.modSpire k f).rel = s.rel := rfl
@[simp] theorem State.modSpire_dome : (s.modSpire k f).dome = s.dome := rfl
@[simp] theorem State.modSpire_pwr : (s.modSpire k f).pwr = s.pwr := rfl
@[simp] theorem State.modSpire_pins : (s.modSpire k f).pins = s.pins := rfl
@[simp] theorem State.modSpire_out : (s.modSpire k f).out = s.out := rfl
@[simp] theorem State.modSpire_free : (s.modSpire k f).free = s.free := rfl
@[simp] theorem State.modSpire_started : (s.modSpire k f).started = s.started := rfl
@[simp] theorem State.modSpire_pending : (s.modSpire k f).pending = s.pending := rfl
end

/-! `State.modStack` -/

section
variable (s : State) (h : Nat) (f : HbmStack → HbmStack)
@[simp] theorem State.modStack_clock : (s.modStack h f).clock = s.clock := rfl
@[simp] theorem State.modStack_clk : (s.modStack h f).clk = s.clk := rfl
@[simp] theorem State.modStack_time : (s.modStack h f).time = s.time := rfl
@[simp] theorem State.modStack_trig : (s.modStack h f).trig = s.trig := rfl
@[simp] theorem State.modStack_cap : (s.modStack h f).cap = s.cap := rfl
@[simp] theorem State.modStack_cnt : (s.modStack h f).cnt = s.cnt := rfl
@[simp] theorem State.modStack_spires : (s.modStack h f).spires = s.spires := rfl
@[simp] theorem State.modStack_hbm : (s.modStack h f).hbm = s.hbm.modify HbmStack.reset h f := rfl
@[simp] theorem State.modStack_tier : (s.modStack h f).tier = s.tier := rfl
@[simp] theorem State.modStack_flash : (s.modStack h f).flash = s.flash := rfl
@[simp] theorem State.modStack_radio : (s.modStack h f).radio = s.radio := rfl
@[simp] theorem State.modStack_fab : (s.modStack h f).fab = s.fab := rfl
@[simp] theorem State.modStack_be : (s.modStack h f).be = s.be := rfl
@[simp] theorem State.modStack_rm : (s.modStack h f).rm = s.rm := rfl
@[simp] theorem State.modStack_dsp : (s.modStack h f).dsp = s.dsp := rfl
@[simp] theorem State.modStack_leases : (s.modStack h f).leases = s.leases := rfl
@[simp] theorem State.modStack_host : (s.modStack h f).host = s.host := rfl
@[simp] theorem State.modStack_rel : (s.modStack h f).rel = s.rel := rfl
@[simp] theorem State.modStack_dome : (s.modStack h f).dome = s.dome := rfl
@[simp] theorem State.modStack_pwr : (s.modStack h f).pwr = s.pwr := rfl
@[simp] theorem State.modStack_pins : (s.modStack h f).pins = s.pins := rfl
@[simp] theorem State.modStack_out : (s.modStack h f).out = s.out := rfl
@[simp] theorem State.modStack_free : (s.modStack h f).free = s.free := rfl
@[simp] theorem State.modStack_started : (s.modStack h f).started = s.started := rfl
@[simp] theorem State.modStack_pending : (s.modStack h f).pending = s.pending := rfl
end

/-! `State.modTrigger` -/

section
variable (s : State) (n : Nat) (f : TrigChan → TrigChan)
@[simp] theorem State.modTrigger_clock : (s.modTrigger n f).clock = s.clock := rfl
@[simp] theorem State.modTrigger_clk : (s.modTrigger n f).clk = s.clk := rfl
@[simp] theorem State.modTrigger_time : (s.modTrigger n f).time = s.time := rfl
@[simp] theorem State.modTrigger_trig : (s.modTrigger n f).trig = s.trig.modify TrigChan.reset n f := rfl
@[simp] theorem State.modTrigger_cap : (s.modTrigger n f).cap = s.cap := rfl
@[simp] theorem State.modTrigger_cnt : (s.modTrigger n f).cnt = s.cnt := rfl
@[simp] theorem State.modTrigger_spires : (s.modTrigger n f).spires = s.spires := rfl
@[simp] theorem State.modTrigger_hbm : (s.modTrigger n f).hbm = s.hbm := rfl
@[simp] theorem State.modTrigger_tier : (s.modTrigger n f).tier = s.tier := rfl
@[simp] theorem State.modTrigger_flash : (s.modTrigger n f).flash = s.flash := rfl
@[simp] theorem State.modTrigger_radio : (s.modTrigger n f).radio = s.radio := rfl
@[simp] theorem State.modTrigger_fab : (s.modTrigger n f).fab = s.fab := rfl
@[simp] theorem State.modTrigger_be : (s.modTrigger n f).be = s.be := rfl
@[simp] theorem State.modTrigger_rm : (s.modTrigger n f).rm = s.rm := rfl
@[simp] theorem State.modTrigger_dsp : (s.modTrigger n f).dsp = s.dsp := rfl
@[simp] theorem State.modTrigger_leases : (s.modTrigger n f).leases = s.leases := rfl
@[simp] theorem State.modTrigger_host : (s.modTrigger n f).host = s.host := rfl
@[simp] theorem State.modTrigger_rel : (s.modTrigger n f).rel = s.rel := rfl
@[simp] theorem State.modTrigger_dome : (s.modTrigger n f).dome = s.dome := rfl
@[simp] theorem State.modTrigger_pwr : (s.modTrigger n f).pwr = s.pwr := rfl
@[simp] theorem State.modTrigger_pins : (s.modTrigger n f).pins = s.pins := rfl
@[simp] theorem State.modTrigger_out : (s.modTrigger n f).out = s.out := rfl
@[simp] theorem State.modTrigger_free : (s.modTrigger n f).free = s.free := rfl
@[simp] theorem State.modTrigger_started : (s.modTrigger n f).started = s.started := rfl
@[simp] theorem State.modTrigger_pending : (s.modTrigger n f).pending = s.pending := rfl
end

/-! `State.modLease` -/

section
variable (s : State) (n : Nat) (f : Lease → Lease)
@[simp] theorem State.modLease_clock : (s.modLease n f).clock = s.clock := rfl
@[simp] theorem State.modLease_clk : (s.modLease n f).clk = s.clk := rfl
@[simp] theorem State.modLease_time : (s.modLease n f).time = s.time := rfl
@[simp] theorem State.modLease_trig : (s.modLease n f).trig = s.trig := rfl
@[simp] theorem State.modLease_cap : (s.modLease n f).cap = s.cap := rfl
@[simp] theorem State.modLease_cnt : (s.modLease n f).cnt = s.cnt := rfl
@[simp] theorem State.modLease_spires : (s.modLease n f).spires = s.spires := rfl
@[simp] theorem State.modLease_hbm : (s.modLease n f).hbm = s.hbm := rfl
@[simp] theorem State.modLease_tier : (s.modLease n f).tier = s.tier := rfl
@[simp] theorem State.modLease_flash : (s.modLease n f).flash = s.flash := rfl
@[simp] theorem State.modLease_radio : (s.modLease n f).radio = s.radio := rfl
@[simp] theorem State.modLease_fab : (s.modLease n f).fab = s.fab := rfl
@[simp] theorem State.modLease_be : (s.modLease n f).be = s.be := rfl
@[simp] theorem State.modLease_rm : (s.modLease n f).rm = s.rm := rfl
@[simp] theorem State.modLease_dsp : (s.modLease n f).dsp = s.dsp := rfl
@[simp] theorem State.modLease_leases : (s.modLease n f).leases = s.leases.modify Lease.reset n f := rfl
@[simp] theorem State.modLease_host : (s.modLease n f).host = s.host := rfl
@[simp] theorem State.modLease_rel : (s.modLease n f).rel = s.rel := rfl
@[simp] theorem State.modLease_dome : (s.modLease n f).dome = s.dome := rfl
@[simp] theorem State.modLease_pwr : (s.modLease n f).pwr = s.pwr := rfl
@[simp] theorem State.modLease_pins : (s.modLease n f).pins = s.pins := rfl
@[simp] theorem State.modLease_out : (s.modLease n f).out = s.out := rfl
@[simp] theorem State.modLease_free : (s.modLease n f).free = s.free := rfl
@[simp] theorem State.modLease_started : (s.modLease n f).started = s.started := rfl
@[simp] theorem State.modLease_pending : (s.modLease n f).pending = s.pending := rfl
end

/-! `State.emit` -/

section
variable (s : State) (o : Out)
@[simp] theorem State.emit_clock : (s.emit o).clock = s.clock := rfl
@[simp] theorem State.emit_clk : (s.emit o).clk = s.clk := rfl
@[simp] theorem State.emit_time : (s.emit o).time = s.time := rfl
@[simp] theorem State.emit_trig : (s.emit o).trig = s.trig := rfl
@[simp] theorem State.emit_cap : (s.emit o).cap = s.cap := rfl
@[simp] theorem State.emit_cnt : (s.emit o).cnt = s.cnt := rfl
@[simp] theorem State.emit_spires : (s.emit o).spires = s.spires := rfl
@[simp] theorem State.emit_hbm : (s.emit o).hbm = s.hbm := rfl
@[simp] theorem State.emit_tier : (s.emit o).tier = s.tier := rfl
@[simp] theorem State.emit_flash : (s.emit o).flash = s.flash := rfl
@[simp] theorem State.emit_radio : (s.emit o).radio = s.radio := rfl
@[simp] theorem State.emit_fab : (s.emit o).fab = s.fab := rfl
@[simp] theorem State.emit_be : (s.emit o).be = s.be := rfl
@[simp] theorem State.emit_rm : (s.emit o).rm = s.rm := rfl
@[simp] theorem State.emit_dsp : (s.emit o).dsp = s.dsp := rfl
@[simp] theorem State.emit_leases : (s.emit o).leases = s.leases := rfl
@[simp] theorem State.emit_host : (s.emit o).host = s.host := rfl
@[simp] theorem State.emit_rel : (s.emit o).rel = s.rel := rfl
@[simp] theorem State.emit_dome : (s.emit o).dome = s.dome := rfl
@[simp] theorem State.emit_pwr : (s.emit o).pwr = s.pwr := rfl
@[simp] theorem State.emit_pins : (s.emit o).pins = s.pins := rfl
@[simp] theorem State.emit_out : (s.emit o).out = o :: s.out := rfl
@[simp] theorem State.emit_free : (s.emit o).free = s.free := rfl
@[simp] theorem State.emit_started : (s.emit o).started = s.started := rfl
@[simp] theorem State.emit_pending : (s.emit o).pending = s.pending := rfl
end

/-! `State.useFree` -/

section
variable (s : State)
@[simp] theorem State.useFree_clock : (s.useFree).clock = s.clock := rfl
@[simp] theorem State.useFree_clk : (s.useFree).clk = s.clk := rfl
@[simp] theorem State.useFree_time : (s.useFree).time = s.time := rfl
@[simp] theorem State.useFree_trig : (s.useFree).trig = s.trig := rfl
@[simp] theorem State.useFree_cap : (s.useFree).cap = s.cap := rfl
@[simp] theorem State.useFree_cnt : (s.useFree).cnt = s.cnt := rfl
@[simp] theorem State.useFree_spires : (s.useFree).spires = s.spires := rfl
@[simp] theorem State.useFree_hbm : (s.useFree).hbm = s.hbm := rfl
@[simp] theorem State.useFree_tier : (s.useFree).tier = s.tier := rfl
@[simp] theorem State.useFree_flash : (s.useFree).flash = s.flash := rfl
@[simp] theorem State.useFree_radio : (s.useFree).radio = s.radio := rfl
@[simp] theorem State.useFree_fab : (s.useFree).fab = s.fab := rfl
@[simp] theorem State.useFree_be : (s.useFree).be = s.be := rfl
@[simp] theorem State.useFree_rm : (s.useFree).rm = s.rm := rfl
@[simp] theorem State.useFree_dsp : (s.useFree).dsp = s.dsp := rfl
@[simp] theorem State.useFree_leases : (s.useFree).leases = s.leases := rfl
@[simp] theorem State.useFree_host : (s.useFree).host = s.host := rfl
@[simp] theorem State.useFree_rel : (s.useFree).rel = s.rel := rfl
@[simp] theorem State.useFree_dome : (s.useFree).dome = s.dome := rfl
@[simp] theorem State.useFree_pwr : (s.useFree).pwr = s.pwr := rfl
@[simp] theorem State.useFree_pins : (s.useFree).pins = s.pins := rfl
@[simp] theorem State.useFree_out : (s.useFree).out = s.out := rfl
@[simp] theorem State.useFree_free : (s.useFree).free = s.free + 1 := rfl
@[simp] theorem State.useFree_started : (s.useFree).started = s.started := rfl
@[simp] theorem State.useFree_pending : (s.useFree).pending = s.pending := rfl
end

/-! `State.modLane` -/

section
variable (s : State) (n : Nat) (f : Lane → Lane)
@[simp] theorem State.modLane_clock : (s.modLane n f).clock = s.clock := rfl
@[simp] theorem State.modLane_clk : (s.modLane n f).clk = s.clk := rfl
@[simp] theorem State.modLane_time : (s.modLane n f).time = s.time := rfl
@[simp] theorem State.modLane_trig : (s.modLane n f).trig = s.trig := rfl
@[simp] theorem State.modLane_cap : (s.modLane n f).cap = s.cap := rfl
@[simp] theorem State.modLane_cnt : (s.modLane n f).cnt = s.cnt := rfl
@[simp] theorem State.modLane_spires : (s.modLane n f).spires = s.spires := rfl
@[simp] theorem State.modLane_hbm : (s.modLane n f).hbm = s.hbm := rfl
@[simp] theorem State.modLane_tier : (s.modLane n f).tier = s.tier := rfl
@[simp] theorem State.modLane_flash : (s.modLane n f).flash = s.flash := rfl
@[simp] theorem State.modLane_radio : (s.modLane n f).radio = s.radio := rfl
@[simp] theorem State.modLane_be : (s.modLane n f).be = s.be := rfl
@[simp] theorem State.modLane_rm : (s.modLane n f).rm = s.rm := rfl
@[simp] theorem State.modLane_dsp : (s.modLane n f).dsp = s.dsp := rfl
@[simp] theorem State.modLane_leases : (s.modLane n f).leases = s.leases := rfl
@[simp] theorem State.modLane_host : (s.modLane n f).host = s.host := rfl
@[simp] theorem State.modLane_rel : (s.modLane n f).rel = s.rel := rfl
@[simp] theorem State.modLane_dome : (s.modLane n f).dome = s.dome := rfl
@[simp] theorem State.modLane_pwr : (s.modLane n f).pwr = s.pwr := rfl
@[simp] theorem State.modLane_pins : (s.modLane n f).pins = s.pins := rfl
@[simp] theorem State.modLane_out : (s.modLane n f).out = s.out := rfl
@[simp] theorem State.modLane_free : (s.modLane n f).free = s.free := rfl
@[simp] theorem State.modLane_started : (s.modLane n f).started = s.started := rfl
@[simp] theorem State.modLane_pending : (s.modLane n f).pending = s.pending := rfl
end

/-! `State.modLaneRegs` -/

section
variable (s : State) (n : Nat) (f : LaneRegs → LaneRegs)
@[simp] theorem State.modLaneRegs_clock : (s.modLaneRegs n f).clock = s.clock := rfl
@[simp] theorem State.modLaneRegs_clk : (s.modLaneRegs n f).clk = s.clk := rfl
@[simp] theorem State.modLaneRegs_time : (s.modLaneRegs n f).time = s.time := rfl
@[simp] theorem State.modLaneRegs_trig : (s.modLaneRegs n f).trig = s.trig := rfl
@[simp] theorem State.modLaneRegs_cap : (s.modLaneRegs n f).cap = s.cap := rfl
@[simp] theorem State.modLaneRegs_cnt : (s.modLaneRegs n f).cnt = s.cnt := rfl
@[simp] theorem State.modLaneRegs_spires : (s.modLaneRegs n f).spires = s.spires := rfl
@[simp] theorem State.modLaneRegs_hbm : (s.modLaneRegs n f).hbm = s.hbm := rfl
@[simp] theorem State.modLaneRegs_tier : (s.modLaneRegs n f).tier = s.tier := rfl
@[simp] theorem State.modLaneRegs_flash : (s.modLaneRegs n f).flash = s.flash := rfl
@[simp] theorem State.modLaneRegs_radio : (s.modLaneRegs n f).radio = s.radio := rfl
@[simp] theorem State.modLaneRegs_be : (s.modLaneRegs n f).be = s.be := rfl
@[simp] theorem State.modLaneRegs_rm : (s.modLaneRegs n f).rm = s.rm := rfl
@[simp] theorem State.modLaneRegs_dsp : (s.modLaneRegs n f).dsp = s.dsp := rfl
@[simp] theorem State.modLaneRegs_leases : (s.modLaneRegs n f).leases = s.leases := rfl
@[simp] theorem State.modLaneRegs_host : (s.modLaneRegs n f).host = s.host := rfl
@[simp] theorem State.modLaneRegs_rel : (s.modLaneRegs n f).rel = s.rel := rfl
@[simp] theorem State.modLaneRegs_dome : (s.modLaneRegs n f).dome = s.dome := rfl
@[simp] theorem State.modLaneRegs_pwr : (s.modLaneRegs n f).pwr = s.pwr := rfl
@[simp] theorem State.modLaneRegs_pins : (s.modLaneRegs n f).pins = s.pins := rfl
@[simp] theorem State.modLaneRegs_out : (s.modLaneRegs n f).out = s.out := rfl
@[simp] theorem State.modLaneRegs_free : (s.modLaneRegs n f).free = s.free := rfl
@[simp] theorem State.modLaneRegs_started : (s.modLaneRegs n f).started = s.started := rfl
@[simp] theorem State.modLaneRegs_pending : (s.modLaneRegs n f).pending = s.pending := rfl
end

/-! `State.modCell` -/

section
variable (s : State) (c : Nat) (f : RadioCell → RadioCell)
@[simp] theorem State.modCell_clock : (s.modCell c f).clock = s.clock := rfl
@[simp] theorem State.modCell_clk : (s.modCell c f).clk = s.clk := rfl
@[simp] theorem State.modCell_time : (s.modCell c f).time = s.time := rfl
@[simp] theorem State.modCell_trig : (s.modCell c f).trig = s.trig := rfl
@[simp] theorem State.modCell_cap : (s.modCell c f).cap = s.cap := rfl
@[simp] theorem State.modCell_cnt : (s.modCell c f).cnt = s.cnt := rfl
@[simp] theorem State.modCell_spires : (s.modCell c f).spires = s.spires := rfl
@[simp] theorem State.modCell_hbm : (s.modCell c f).hbm = s.hbm := rfl
@[simp] theorem State.modCell_tier : (s.modCell c f).tier = s.tier := rfl
@[simp] theorem State.modCell_flash : (s.modCell c f).flash = s.flash := rfl
@[simp] theorem State.modCell_fab : (s.modCell c f).fab = s.fab := rfl
@[simp] theorem State.modCell_be : (s.modCell c f).be = s.be := rfl
@[simp] theorem State.modCell_rm : (s.modCell c f).rm = s.rm := rfl
@[simp] theorem State.modCell_dsp : (s.modCell c f).dsp = s.dsp := rfl
@[simp] theorem State.modCell_leases : (s.modCell c f).leases = s.leases := rfl
@[simp] theorem State.modCell_host : (s.modCell c f).host = s.host := rfl
@[simp] theorem State.modCell_rel : (s.modCell c f).rel = s.rel := rfl
@[simp] theorem State.modCell_dome : (s.modCell c f).dome = s.dome := rfl
@[simp] theorem State.modCell_pwr : (s.modCell c f).pwr = s.pwr := rfl
@[simp] theorem State.modCell_pins : (s.modCell c f).pins = s.pins := rfl
@[simp] theorem State.modCell_out : (s.modCell c f).out = s.out := rfl
@[simp] theorem State.modCell_free : (s.modCell c f).free = s.free := rfl
@[simp] theorem State.modCell_started : (s.modCell c f).started = s.started := rfl
@[simp] theorem State.modCell_pending : (s.modCell c f).pending = s.pending := rfl
end

/-! `State.modGroup` -/

section
variable (s : State) (n : Nat) (f : RadioGroup → RadioGroup)
@[simp] theorem State.modGroup_clock : (s.modGroup n f).clock = s.clock := rfl
@[simp] theorem State.modGroup_clk : (s.modGroup n f).clk = s.clk := rfl
@[simp] theorem State.modGroup_time : (s.modGroup n f).time = s.time := rfl
@[simp] theorem State.modGroup_trig : (s.modGroup n f).trig = s.trig := rfl
@[simp] theorem State.modGroup_cap : (s.modGroup n f).cap = s.cap := rfl
@[simp] theorem State.modGroup_cnt : (s.modGroup n f).cnt = s.cnt := rfl
@[simp] theorem State.modGroup_spires : (s.modGroup n f).spires = s.spires := rfl
@[simp] theorem State.modGroup_hbm : (s.modGroup n f).hbm = s.hbm := rfl
@[simp] theorem State.modGroup_tier : (s.modGroup n f).tier = s.tier := rfl
@[simp] theorem State.modGroup_flash : (s.modGroup n f).flash = s.flash := rfl
@[simp] theorem State.modGroup_fab : (s.modGroup n f).fab = s.fab := rfl
@[simp] theorem State.modGroup_be : (s.modGroup n f).be = s.be := rfl
@[simp] theorem State.modGroup_rm : (s.modGroup n f).rm = s.rm := rfl
@[simp] theorem State.modGroup_dsp : (s.modGroup n f).dsp = s.dsp := rfl
@[simp] theorem State.modGroup_leases : (s.modGroup n f).leases = s.leases := rfl
@[simp] theorem State.modGroup_host : (s.modGroup n f).host = s.host := rfl
@[simp] theorem State.modGroup_rel : (s.modGroup n f).rel = s.rel := rfl
@[simp] theorem State.modGroup_dome : (s.modGroup n f).dome = s.dome := rfl
@[simp] theorem State.modGroup_pwr : (s.modGroup n f).pwr = s.pwr := rfl
@[simp] theorem State.modGroup_pins : (s.modGroup n f).pins = s.pins := rfl
@[simp] theorem State.modGroup_out : (s.modGroup n f).out = s.out := rfl
@[simp] theorem State.modGroup_free : (s.modGroup n f).free = s.free := rfl
@[simp] theorem State.modGroup_started : (s.modGroup n f).started = s.started := rfl
@[simp] theorem State.modGroup_pending : (s.modGroup n f).pending = s.pending := rfl
end

/-! `State.modFunc` -/

section
variable (s : State) (n : Nat) (f : Func → Func)
@[simp] theorem State.modFunc_clock : (s.modFunc n f).clock = s.clock := rfl
@[simp] theorem State.modFunc_clk : (s.modFunc n f).clk = s.clk := rfl
@[simp] theorem State.modFunc_time : (s.modFunc n f).time = s.time := rfl
@[simp] theorem State.modFunc_trig : (s.modFunc n f).trig = s.trig := rfl
@[simp] theorem State.modFunc_cap : (s.modFunc n f).cap = s.cap := rfl
@[simp] theorem State.modFunc_cnt : (s.modFunc n f).cnt = s.cnt := rfl
@[simp] theorem State.modFunc_spires : (s.modFunc n f).spires = s.spires := rfl
@[simp] theorem State.modFunc_hbm : (s.modFunc n f).hbm = s.hbm := rfl
@[simp] theorem State.modFunc_tier : (s.modFunc n f).tier = s.tier := rfl
@[simp] theorem State.modFunc_flash : (s.modFunc n f).flash = s.flash := rfl
@[simp] theorem State.modFunc_radio : (s.modFunc n f).radio = s.radio := rfl
@[simp] theorem State.modFunc_fab : (s.modFunc n f).fab = s.fab := rfl
@[simp] theorem State.modFunc_be : (s.modFunc n f).be = s.be := rfl
@[simp] theorem State.modFunc_rm : (s.modFunc n f).rm = s.rm := rfl
@[simp] theorem State.modFunc_dsp : (s.modFunc n f).dsp = s.dsp := rfl
@[simp] theorem State.modFunc_leases : (s.modFunc n f).leases = s.leases := rfl
@[simp] theorem State.modFunc_rel : (s.modFunc n f).rel = s.rel := rfl
@[simp] theorem State.modFunc_dome : (s.modFunc n f).dome = s.dome := rfl
@[simp] theorem State.modFunc_pwr : (s.modFunc n f).pwr = s.pwr := rfl
@[simp] theorem State.modFunc_pins : (s.modFunc n f).pins = s.pins := rfl
@[simp] theorem State.modFunc_out : (s.modFunc n f).out = s.out := rfl
@[simp] theorem State.modFunc_free : (s.modFunc n f).free = s.free := rfl
@[simp] theorem State.modFunc_started : (s.modFunc n f).started = s.started := rfl
@[simp] theorem State.modFunc_pending : (s.modFunc n f).pending = s.pending := rfl
end

/-! `State.modPair` -/

section
variable (s : State) (n q : Nat) (f : Pair → Pair)
@[simp] theorem State.modPair_clock : (s.modPair n q f).clock = s.clock := rfl
@[simp] theorem State.modPair_clk : (s.modPair n q f).clk = s.clk := rfl
@[simp] theorem State.modPair_time : (s.modPair n q f).time = s.time := rfl
@[simp] theorem State.modPair_trig : (s.modPair n q f).trig = s.trig := rfl
@[simp] theorem State.modPair_cap : (s.modPair n q f).cap = s.cap := rfl
@[simp] theorem State.modPair_cnt : (s.modPair n q f).cnt = s.cnt := rfl
@[simp] theorem State.modPair_spires : (s.modPair n q f).spires = s.spires := rfl
@[simp] theorem State.modPair_hbm : (s.modPair n q f).hbm = s.hbm := rfl
@[simp] theorem State.modPair_tier : (s.modPair n q f).tier = s.tier := rfl
@[simp] theorem State.modPair_flash : (s.modPair n q f).flash = s.flash := rfl
@[simp] theorem State.modPair_radio : (s.modPair n q f).radio = s.radio := rfl
@[simp] theorem State.modPair_fab : (s.modPair n q f).fab = s.fab := rfl
@[simp] theorem State.modPair_be : (s.modPair n q f).be = s.be := rfl
@[simp] theorem State.modPair_rm : (s.modPair n q f).rm = s.rm := rfl
@[simp] theorem State.modPair_dsp : (s.modPair n q f).dsp = s.dsp := rfl
@[simp] theorem State.modPair_leases : (s.modPair n q f).leases = s.leases := rfl
@[simp] theorem State.modPair_rel : (s.modPair n q f).rel = s.rel := rfl
@[simp] theorem State.modPair_dome : (s.modPair n q f).dome = s.dome := rfl
@[simp] theorem State.modPair_pwr : (s.modPair n q f).pwr = s.pwr := rfl
@[simp] theorem State.modPair_pins : (s.modPair n q f).pins = s.pins := rfl
@[simp] theorem State.modPair_out : (s.modPair n q f).out = s.out := rfl
@[simp] theorem State.modPair_free : (s.modPair n q f).free = s.free := rfl
@[simp] theorem State.modPair_started : (s.modPair n q f).started = s.started := rfl
@[simp] theorem State.modPair_pending : (s.modPair n q f).pending = s.pending := rfl
end

/-! `State.modChannel` -/

section
variable (s : State) (c : Nat) (f : Channel → Channel)
@[simp] theorem State.modChannel_clock : (s.modChannel c f).clock = s.clock := rfl
@[simp] theorem State.modChannel_clk : (s.modChannel c f).clk = s.clk := rfl
@[simp] theorem State.modChannel_time : (s.modChannel c f).time = s.time := rfl
@[simp] theorem State.modChannel_trig : (s.modChannel c f).trig = s.trig := rfl
@[simp] theorem State.modChannel_cap : (s.modChannel c f).cap = s.cap := rfl
@[simp] theorem State.modChannel_cnt : (s.modChannel c f).cnt = s.cnt := rfl
@[simp] theorem State.modChannel_spires : (s.modChannel c f).spires = s.spires := rfl
@[simp] theorem State.modChannel_hbm : (s.modChannel c f).hbm = s.hbm := rfl
@[simp] theorem State.modChannel_tier : (s.modChannel c f).tier = s.tier := rfl
@[simp] theorem State.modChannel_flash : (s.modChannel c f).flash = s.flash := rfl
@[simp] theorem State.modChannel_radio : (s.modChannel c f).radio = s.radio := rfl
@[simp] theorem State.modChannel_fab : (s.modChannel c f).fab = s.fab := rfl
@[simp] theorem State.modChannel_be : (s.modChannel c f).be = s.be := rfl
@[simp] theorem State.modChannel_rm : (s.modChannel c f).rm = s.rm := rfl
@[simp] theorem State.modChannel_dsp : (s.modChannel c f).dsp = s.dsp := rfl
@[simp] theorem State.modChannel_leases : (s.modChannel c f).leases = s.leases := rfl
@[simp] theorem State.modChannel_rel : (s.modChannel c f).rel = s.rel := rfl
@[simp] theorem State.modChannel_dome : (s.modChannel c f).dome = s.dome := rfl
@[simp] theorem State.modChannel_pwr : (s.modChannel c f).pwr = s.pwr := rfl
@[simp] theorem State.modChannel_pins : (s.modChannel c f).pins = s.pins := rfl
@[simp] theorem State.modChannel_out : (s.modChannel c f).out = s.out := rfl
@[simp] theorem State.modChannel_free : (s.modChannel c f).free = s.free := rfl
@[simp] theorem State.modChannel_started : (s.modChannel c f).started = s.started := rfl
@[simp] theorem State.modChannel_pending : (s.modChannel c f).pending = s.pending := rfl
end

/-! `State.modHealth` -/

section
variable (s : State) (k : Nat) (f : SpireHealth → SpireHealth)
@[simp] theorem State.modHealth_clock : (s.modHealth k f).clock = s.clock := rfl
@[simp] theorem State.modHealth_clk : (s.modHealth k f).clk = s.clk := rfl
@[simp] theorem State.modHealth_time : (s.modHealth k f).time = s.time := rfl
@[simp] theorem State.modHealth_trig : (s.modHealth k f).trig = s.trig := rfl
@[simp] theorem State.modHealth_cap : (s.modHealth k f).cap = s.cap := rfl
@[simp] theorem State.modHealth_cnt : (s.modHealth k f).cnt = s.cnt := rfl
@[simp] theorem State.modHealth_spires : (s.modHealth k f).spires = s.spires := rfl
@[simp] theorem State.modHealth_hbm : (s.modHealth k f).hbm = s.hbm := rfl
@[simp] theorem State.modHealth_tier : (s.modHealth k f).tier = s.tier := rfl
@[simp] theorem State.modHealth_flash : (s.modHealth k f).flash = s.flash := rfl
@[simp] theorem State.modHealth_radio : (s.modHealth k f).radio = s.radio := rfl
@[simp] theorem State.modHealth_fab : (s.modHealth k f).fab = s.fab := rfl
@[simp] theorem State.modHealth_be : (s.modHealth k f).be = s.be := rfl
@[simp] theorem State.modHealth_rm : (s.modHealth k f).rm = s.rm := rfl
@[simp] theorem State.modHealth_dsp : (s.modHealth k f).dsp = s.dsp := rfl
@[simp] theorem State.modHealth_leases : (s.modHealth k f).leases = s.leases := rfl
@[simp] theorem State.modHealth_host : (s.modHealth k f).host = s.host := rfl
@[simp] theorem State.modHealth_dome : (s.modHealth k f).dome = s.dome := rfl
@[simp] theorem State.modHealth_pwr : (s.modHealth k f).pwr = s.pwr := rfl
@[simp] theorem State.modHealth_pins : (s.modHealth k f).pins = s.pins := rfl
@[simp] theorem State.modHealth_out : (s.modHealth k f).out = s.out := rfl
@[simp] theorem State.modHealth_free : (s.modHealth k f).free = s.free := rfl
@[simp] theorem State.modHealth_started : (s.modHealth k f).started = s.started := rfl
@[simp] theorem State.modHealth_pending : (s.modHealth k f).pending = s.pending := rfl
end

/-! `State.modRelCounters` -/

section
variable (s : State) (f : RelCounters → RelCounters)
@[simp] theorem State.modRelCounters_clock : (s.modRelCounters f).clock = s.clock := rfl
@[simp] theorem State.modRelCounters_clk : (s.modRelCounters f).clk = s.clk := rfl
@[simp] theorem State.modRelCounters_time : (s.modRelCounters f).time = s.time := rfl
@[simp] theorem State.modRelCounters_trig : (s.modRelCounters f).trig = s.trig := rfl
@[simp] theorem State.modRelCounters_cap : (s.modRelCounters f).cap = s.cap := rfl
@[simp] theorem State.modRelCounters_cnt : (s.modRelCounters f).cnt = s.cnt := rfl
@[simp] theorem State.modRelCounters_spires : (s.modRelCounters f).spires = s.spires := rfl
@[simp] theorem State.modRelCounters_hbm : (s.modRelCounters f).hbm = s.hbm := rfl
@[simp] theorem State.modRelCounters_tier : (s.modRelCounters f).tier = s.tier := rfl
@[simp] theorem State.modRelCounters_flash : (s.modRelCounters f).flash = s.flash := rfl
@[simp] theorem State.modRelCounters_radio : (s.modRelCounters f).radio = s.radio := rfl
@[simp] theorem State.modRelCounters_fab : (s.modRelCounters f).fab = s.fab := rfl
@[simp] theorem State.modRelCounters_be : (s.modRelCounters f).be = s.be := rfl
@[simp] theorem State.modRelCounters_rm : (s.modRelCounters f).rm = s.rm := rfl
@[simp] theorem State.modRelCounters_dsp : (s.modRelCounters f).dsp = s.dsp := rfl
@[simp] theorem State.modRelCounters_leases : (s.modRelCounters f).leases = s.leases := rfl
@[simp] theorem State.modRelCounters_host : (s.modRelCounters f).host = s.host := rfl
@[simp] theorem State.modRelCounters_dome : (s.modRelCounters f).dome = s.dome := rfl
@[simp] theorem State.modRelCounters_pwr : (s.modRelCounters f).pwr = s.pwr := rfl
@[simp] theorem State.modRelCounters_pins : (s.modRelCounters f).pins = s.pins := rfl
@[simp] theorem State.modRelCounters_out : (s.modRelCounters f).out = s.out := rfl
@[simp] theorem State.modRelCounters_free : (s.modRelCounters f).free = s.free := rfl
@[simp] theorem State.modRelCounters_started : (s.modRelCounters f).started = s.started := rfl
@[simp] theorem State.modRelCounters_pending : (s.modRelCounters f).pending = s.pending := rfl
end

/-! `State.modGov` -/

section
variable (s : State) (f : Governor → Governor)
@[simp] theorem State.modGov_clock : (s.modGov f).clock = s.clock := rfl
@[simp] theorem State.modGov_clk : (s.modGov f).clk = s.clk := rfl
@[simp] theorem State.modGov_time : (s.modGov f).time = s.time := rfl
@[simp] theorem State.modGov_trig : (s.modGov f).trig = s.trig := rfl
@[simp] theorem State.modGov_cap : (s.modGov f).cap = s.cap := rfl
@[simp] theorem State.modGov_cnt : (s.modGov f).cnt = s.cnt := rfl
@[simp] theorem State.modGov_spires : (s.modGov f).spires = s.spires := rfl
@[simp] theorem State.modGov_hbm : (s.modGov f).hbm = s.hbm := rfl
@[simp] theorem State.modGov_tier : (s.modGov f).tier = s.tier := rfl
@[simp] theorem State.modGov_flash : (s.modGov f).flash = s.flash := rfl
@[simp] theorem State.modGov_radio : (s.modGov f).radio = s.radio := rfl
@[simp] theorem State.modGov_fab : (s.modGov f).fab = s.fab := rfl
@[simp] theorem State.modGov_be : (s.modGov f).be = s.be := rfl
@[simp] theorem State.modGov_rm : (s.modGov f).rm = s.rm := rfl
@[simp] theorem State.modGov_dsp : (s.modGov f).dsp = s.dsp := rfl
@[simp] theorem State.modGov_leases : (s.modGov f).leases = s.leases := rfl
@[simp] theorem State.modGov_host : (s.modGov f).host = s.host := rfl
@[simp] theorem State.modGov_dome : (s.modGov f).dome = s.dome := rfl
@[simp] theorem State.modGov_pwr : (s.modGov f).pwr = s.pwr := rfl
@[simp] theorem State.modGov_pins : (s.modGov f).pins = s.pins := rfl
@[simp] theorem State.modGov_out : (s.modGov f).out = s.out := rfl
@[simp] theorem State.modGov_free : (s.modGov f).free = s.free := rfl
@[simp] theorem State.modGov_started : (s.modGov f).started = s.started := rfl
@[simp] theorem State.modGov_pending : (s.modGov f).pending = s.pending := rfl
end

/-! `State.modBeQueue` -/

section
variable (s : State) (n q : Nat) (f : BeQueue → BeQueue)
@[simp] theorem State.modBeQueue_clock : (s.modBeQueue n q f).clock = s.clock := rfl
@[simp] theorem State.modBeQueue_clk : (s.modBeQueue n q f).clk = s.clk := rfl
@[simp] theorem State.modBeQueue_time : (s.modBeQueue n q f).time = s.time := rfl
@[simp] theorem State.modBeQueue_trig : (s.modBeQueue n q f).trig = s.trig := rfl
@[simp] theorem State.modBeQueue_cap : (s.modBeQueue n q f).cap = s.cap := rfl
@[simp] theorem State.modBeQueue_cnt : (s.modBeQueue n q f).cnt = s.cnt := rfl
@[simp] theorem State.modBeQueue_spires : (s.modBeQueue n q f).spires = s.spires := rfl
@[simp] theorem State.modBeQueue_hbm : (s.modBeQueue n q f).hbm = s.hbm := rfl
@[simp] theorem State.modBeQueue_tier : (s.modBeQueue n q f).tier = s.tier := rfl
@[simp] theorem State.modBeQueue_flash : (s.modBeQueue n q f).flash = s.flash := rfl
@[simp] theorem State.modBeQueue_radio : (s.modBeQueue n q f).radio = s.radio := rfl
@[simp] theorem State.modBeQueue_fab : (s.modBeQueue n q f).fab = s.fab := rfl
@[simp] theorem State.modBeQueue_rm : (s.modBeQueue n q f).rm = s.rm := rfl
@[simp] theorem State.modBeQueue_dsp : (s.modBeQueue n q f).dsp = s.dsp := rfl
@[simp] theorem State.modBeQueue_leases : (s.modBeQueue n q f).leases = s.leases := rfl
@[simp] theorem State.modBeQueue_host : (s.modBeQueue n q f).host = s.host := rfl
@[simp] theorem State.modBeQueue_rel : (s.modBeQueue n q f).rel = s.rel := rfl
@[simp] theorem State.modBeQueue_dome : (s.modBeQueue n q f).dome = s.dome := rfl
@[simp] theorem State.modBeQueue_pwr : (s.modBeQueue n q f).pwr = s.pwr := rfl
@[simp] theorem State.modBeQueue_pins : (s.modBeQueue n q f).pins = s.pins := rfl
@[simp] theorem State.modBeQueue_out : (s.modBeQueue n q f).out = s.out := rfl
@[simp] theorem State.modBeQueue_free : (s.modBeQueue n q f).free = s.free := rfl
@[simp] theorem State.modBeQueue_started : (s.modBeQueue n q f).started = s.started := rfl
@[simp] theorem State.modBeQueue_pending : (s.modBeQueue n q f).pending = s.pending := rfl
end

/-! `State.modMeter` -/

section
variable (s : State) (m : Nat) (f : Meter → Meter)
@[simp] theorem State.modMeter_clock : (s.modMeter m f).clock = s.clock := rfl
@[simp] theorem State.modMeter_clk : (s.modMeter m f).clk = s.clk := rfl
@[simp] theorem State.modMeter_time : (s.modMeter m f).time = s.time := rfl
@[simp] theorem State.modMeter_trig : (s.modMeter m f).trig = s.trig := rfl
@[simp] theorem State.modMeter_cap : (s.modMeter m f).cap = s.cap := rfl
@[simp] theorem State.modMeter_cnt : (s.modMeter m f).cnt = s.cnt := rfl
@[simp] theorem State.modMeter_spires : (s.modMeter m f).spires = s.spires := rfl
@[simp] theorem State.modMeter_hbm : (s.modMeter m f).hbm = s.hbm := rfl
@[simp] theorem State.modMeter_tier : (s.modMeter m f).tier = s.tier := rfl
@[simp] theorem State.modMeter_flash : (s.modMeter m f).flash = s.flash := rfl
@[simp] theorem State.modMeter_radio : (s.modMeter m f).radio = s.radio := rfl
@[simp] theorem State.modMeter_fab : (s.modMeter m f).fab = s.fab := rfl
@[simp] theorem State.modMeter_rm : (s.modMeter m f).rm = s.rm := rfl
@[simp] theorem State.modMeter_dsp : (s.modMeter m f).dsp = s.dsp := rfl
@[simp] theorem State.modMeter_leases : (s.modMeter m f).leases = s.leases := rfl
@[simp] theorem State.modMeter_host : (s.modMeter m f).host = s.host := rfl
@[simp] theorem State.modMeter_rel : (s.modMeter m f).rel = s.rel := rfl
@[simp] theorem State.modMeter_dome : (s.modMeter m f).dome = s.dome := rfl
@[simp] theorem State.modMeter_pwr : (s.modMeter m f).pwr = s.pwr := rfl
@[simp] theorem State.modMeter_pins : (s.modMeter m f).pins = s.pins := rfl
@[simp] theorem State.modMeter_out : (s.modMeter m f).out = s.out := rfl
@[simp] theorem State.modMeter_free : (s.modMeter m f).free = s.free := rfl
@[simp] theorem State.modMeter_started : (s.modMeter m f).started = s.started := rfl
@[simp] theorem State.modMeter_pending : (s.modMeter m f).pending = s.pending := rfl
end

/-! `State.modSpdm` -/

section
variable (s : State) (f : SpdmState → SpdmState)
@[simp] theorem State.modSpdm_clock : (s.modSpdm f).clock = s.clock := rfl
@[simp] theorem State.modSpdm_clk : (s.modSpdm f).clk = s.clk := rfl
@[simp] theorem State.modSpdm_time : (s.modSpdm f).time = s.time := rfl
@[simp] theorem State.modSpdm_trig : (s.modSpdm f).trig = s.trig := rfl
@[simp] theorem State.modSpdm_cap : (s.modSpdm f).cap = s.cap := rfl
@[simp] theorem State.modSpdm_cnt : (s.modSpdm f).cnt = s.cnt := rfl
@[simp] theorem State.modSpdm_spires : (s.modSpdm f).spires = s.spires := rfl
@[simp] theorem State.modSpdm_hbm : (s.modSpdm f).hbm = s.hbm := rfl
@[simp] theorem State.modSpdm_tier : (s.modSpdm f).tier = s.tier := rfl
@[simp] theorem State.modSpdm_flash : (s.modSpdm f).flash = s.flash := rfl
@[simp] theorem State.modSpdm_radio : (s.modSpdm f).radio = s.radio := rfl
@[simp] theorem State.modSpdm_fab : (s.modSpdm f).fab = s.fab := rfl
@[simp] theorem State.modSpdm_be : (s.modSpdm f).be = s.be := rfl
@[simp] theorem State.modSpdm_rm : (s.modSpdm f).rm = s.rm := rfl
@[simp] theorem State.modSpdm_dsp : (s.modSpdm f).dsp = s.dsp := rfl
@[simp] theorem State.modSpdm_leases : (s.modSpdm f).leases = s.leases := rfl
@[simp] theorem State.modSpdm_host : (s.modSpdm f).host = s.host := rfl
@[simp] theorem State.modSpdm_rel : (s.modSpdm f).rel = s.rel := rfl
@[simp] theorem State.modSpdm_pwr : (s.modSpdm f).pwr = s.pwr := rfl
@[simp] theorem State.modSpdm_pins : (s.modSpdm f).pins = s.pins := rfl
@[simp] theorem State.modSpdm_out : (s.modSpdm f).out = s.out := rfl
@[simp] theorem State.modSpdm_free : (s.modSpdm f).free = s.free := rfl
@[simp] theorem State.modSpdm_started : (s.modSpdm f).started = s.started := rfl
@[simp] theorem State.modSpdm_pending : (s.modSpdm f).pending = s.pending := rfl
end

/-! `State.modRail` -/

section
variable (s : State) (r : Nat) (f : Rail → Rail)
@[simp] theorem State.modRail_clock : (s.modRail r f).clock = s.clock := rfl
@[simp] theorem State.modRail_clk : (s.modRail r f).clk = s.clk := rfl
@[simp] theorem State.modRail_time : (s.modRail r f).time = s.time := rfl
@[simp] theorem State.modRail_trig : (s.modRail r f).trig = s.trig := rfl
@[simp] theorem State.modRail_cap : (s.modRail r f).cap = s.cap := rfl
@[simp] theorem State.modRail_cnt : (s.modRail r f).cnt = s.cnt := rfl
@[simp] theorem State.modRail_spires : (s.modRail r f).spires = s.spires := rfl
@[simp] theorem State.modRail_hbm : (s.modRail r f).hbm = s.hbm := rfl
@[simp] theorem State.modRail_tier : (s.modRail r f).tier = s.tier := rfl
@[simp] theorem State.modRail_flash : (s.modRail r f).flash = s.flash := rfl
@[simp] theorem State.modRail_radio : (s.modRail r f).radio = s.radio := rfl
@[simp] theorem State.modRail_fab : (s.modRail r f).fab = s.fab := rfl
@[simp] theorem State.modRail_be : (s.modRail r f).be = s.be := rfl
@[simp] theorem State.modRail_rm : (s.modRail r f).rm = s.rm := rfl
@[simp] theorem State.modRail_dsp : (s.modRail r f).dsp = s.dsp := rfl
@[simp] theorem State.modRail_leases : (s.modRail r f).leases = s.leases := rfl
@[simp] theorem State.modRail_host : (s.modRail r f).host = s.host := rfl
@[simp] theorem State.modRail_rel : (s.modRail r f).rel = s.rel := rfl
@[simp] theorem State.modRail_dome : (s.modRail r f).dome = s.dome := rfl
@[simp] theorem State.modRail_pins : (s.modRail r f).pins = s.pins := rfl
@[simp] theorem State.modRail_out : (s.modRail r f).out = s.out := rfl
@[simp] theorem State.modRail_free : (s.modRail r f).free = s.free := rfl
@[simp] theorem State.modRail_started : (s.modRail r f).started = s.started := rfl
@[simp] theorem State.modRail_pending : (s.modRail r f).pending = s.pending := rfl
end

/-! `State.modRmRegs` -/

section
variable (s : State) (f : RmCounters → RmCounters)
@[simp] theorem State.modRmRegs_clock : (s.modRmRegs f).clock = s.clock := rfl
@[simp] theorem State.modRmRegs_clk : (s.modRmRegs f).clk = s.clk := rfl
@[simp] theorem State.modRmRegs_time : (s.modRmRegs f).time = s.time := rfl
@[simp] theorem State.modRmRegs_trig : (s.modRmRegs f).trig = s.trig := rfl
@[simp] theorem State.modRmRegs_cap : (s.modRmRegs f).cap = s.cap := rfl
@[simp] theorem State.modRmRegs_cnt : (s.modRmRegs f).cnt = s.cnt := rfl
@[simp] theorem State.modRmRegs_spires : (s.modRmRegs f).spires = s.spires := rfl
@[simp] theorem State.modRmRegs_hbm : (s.modRmRegs f).hbm = s.hbm := rfl
@[simp] theorem State.modRmRegs_tier : (s.modRmRegs f).tier = s.tier := rfl
@[simp] theorem State.modRmRegs_flash : (s.modRmRegs f).flash = s.flash := rfl
@[simp] theorem State.modRmRegs_radio : (s.modRmRegs f).radio = s.radio := rfl
@[simp] theorem State.modRmRegs_fab : (s.modRmRegs f).fab = s.fab := rfl
@[simp] theorem State.modRmRegs_be : (s.modRmRegs f).be = s.be := rfl
@[simp] theorem State.modRmRegs_dsp : (s.modRmRegs f).dsp = s.dsp := rfl
@[simp] theorem State.modRmRegs_leases : (s.modRmRegs f).leases = s.leases := rfl
@[simp] theorem State.modRmRegs_host : (s.modRmRegs f).host = s.host := rfl
@[simp] theorem State.modRmRegs_rel : (s.modRmRegs f).rel = s.rel := rfl
@[simp] theorem State.modRmRegs_dome : (s.modRmRegs f).dome = s.dome := rfl
@[simp] theorem State.modRmRegs_pwr : (s.modRmRegs f).pwr = s.pwr := rfl
@[simp] theorem State.modRmRegs_pins : (s.modRmRegs f).pins = s.pins := rfl
@[simp] theorem State.modRmRegs_out : (s.modRmRegs f).out = s.out := rfl
@[simp] theorem State.modRmRegs_free : (s.modRmRegs f).free = s.free := rfl
@[simp] theorem State.modRmRegs_started : (s.modRmRegs f).started = s.started := rfl
@[simp] theorem State.modRmRegs_pending : (s.modRmRegs f).pending = s.pending := rfl
end

/-! `State.modTag` -/

section
variable (s : State) (ctx tag : Nat) (f : TagUse → TagUse)
@[simp] theorem State.modTag_clock : (s.modTag ctx tag f).clock = s.clock := rfl
@[simp] theorem State.modTag_clk : (s.modTag ctx tag f).clk = s.clk := rfl
@[simp] theorem State.modTag_time : (s.modTag ctx tag f).time = s.time := rfl
@[simp] theorem State.modTag_trig : (s.modTag ctx tag f).trig = s.trig := rfl
@[simp] theorem State.modTag_cap : (s.modTag ctx tag f).cap = s.cap := rfl
@[simp] theorem State.modTag_cnt : (s.modTag ctx tag f).cnt = s.cnt := rfl
@[simp] theorem State.modTag_spires : (s.modTag ctx tag f).spires = s.spires := rfl
@[simp] theorem State.modTag_hbm : (s.modTag ctx tag f).hbm = s.hbm := rfl
@[simp] theorem State.modTag_tier : (s.modTag ctx tag f).tier = s.tier := rfl
@[simp] theorem State.modTag_flash : (s.modTag ctx tag f).flash = s.flash := rfl
@[simp] theorem State.modTag_radio : (s.modTag ctx tag f).radio = s.radio := rfl
@[simp] theorem State.modTag_fab : (s.modTag ctx tag f).fab = s.fab := rfl
@[simp] theorem State.modTag_be : (s.modTag ctx tag f).be = s.be := rfl
@[simp] theorem State.modTag_dsp : (s.modTag ctx tag f).dsp = s.dsp := rfl
@[simp] theorem State.modTag_leases : (s.modTag ctx tag f).leases = s.leases := rfl
@[simp] theorem State.modTag_host : (s.modTag ctx tag f).host = s.host := rfl
@[simp] theorem State.modTag_rel : (s.modTag ctx tag f).rel = s.rel := rfl
@[simp] theorem State.modTag_dome : (s.modTag ctx tag f).dome = s.dome := rfl
@[simp] theorem State.modTag_pwr : (s.modTag ctx tag f).pwr = s.pwr := rfl
@[simp] theorem State.modTag_pins : (s.modTag ctx tag f).pins = s.pins := rfl
@[simp] theorem State.modTag_out : (s.modTag ctx tag f).out = s.out := rfl
@[simp] theorem State.modTag_free : (s.modTag ctx tag f).free = s.free := rfl
@[simp] theorem State.modTag_started : (s.modTag ctx tag f).started = s.started := rfl
@[simp] theorem State.modTag_pending : (s.modTag ctx tag f).pending = s.pending := rfl
end

/-! `State.modLine` -/

section
variable (s : State) (n : Nat) (f : StageLine → StageLine)
@[simp] theorem State.modLine_clock : (s.modLine n f).clock = s.clock := rfl
@[simp] theorem State.modLine_clk : (s.modLine n f).clk = s.clk := rfl
@[simp] theorem State.modLine_time : (s.modLine n f).time = s.time := rfl
@[simp] theorem State.modLine_trig : (s.modLine n f).trig = s.trig := rfl
@[simp] theorem State.modLine_cap : (s.modLine n f).cap = s.cap := rfl
@[simp] theorem State.modLine_cnt : (s.modLine n f).cnt = s.cnt := rfl
@[simp] theorem State.modLine_spires : (s.modLine n f).spires = s.spires := rfl
@[simp] theorem State.modLine_hbm : (s.modLine n f).hbm = s.hbm := rfl
@[simp] theorem State.modLine_tier : (s.modLine n f).tier = s.tier := rfl
@[simp] theorem State.modLine_flash : (s.modLine n f).flash = s.flash := rfl
@[simp] theorem State.modLine_radio : (s.modLine n f).radio = s.radio := rfl
@[simp] theorem State.modLine_fab : (s.modLine n f).fab = s.fab := rfl
@[simp] theorem State.modLine_be : (s.modLine n f).be = s.be := rfl
@[simp] theorem State.modLine_dsp : (s.modLine n f).dsp = s.dsp := rfl
@[simp] theorem State.modLine_leases : (s.modLine n f).leases = s.leases := rfl
@[simp] theorem State.modLine_host : (s.modLine n f).host = s.host := rfl
@[simp] theorem State.modLine_rel : (s.modLine n f).rel = s.rel := rfl
@[simp] theorem State.modLine_dome : (s.modLine n f).dome = s.dome := rfl
@[simp] theorem State.modLine_pwr : (s.modLine n f).pwr = s.pwr := rfl
@[simp] theorem State.modLine_pins : (s.modLine n f).pins = s.pins := rfl
@[simp] theorem State.modLine_out : (s.modLine n f).out = s.out := rfl
@[simp] theorem State.modLine_free : (s.modLine n f).free = s.free := rfl
@[simp] theorem State.modLine_started : (s.modLine n f).started = s.started := rfl
@[simp] theorem State.modLine_pending : (s.modLine n f).pending = s.pending := rfl
end

/-! `State.modSeq` -/

section
variable (s : State) (k : Nat) (f : SeqState → SeqState)
@[simp] theorem State.modSeq_clock : (s.modSeq k f).clock = s.clock := rfl
@[simp] theorem State.modSeq_clk : (s.modSeq k f).clk = s.clk := rfl
@[simp] theorem State.modSeq_time : (s.modSeq k f).time = s.time := rfl
@[simp] theorem State.modSeq_trig : (s.modSeq k f).trig = s.trig := rfl
@[simp] theorem State.modSeq_cap : (s.modSeq k f).cap = s.cap := rfl
@[simp] theorem State.modSeq_cnt : (s.modSeq k f).cnt = s.cnt := rfl
@[simp] theorem State.modSeq_hbm : (s.modSeq k f).hbm = s.hbm := rfl
@[simp] theorem State.modSeq_tier : (s.modSeq k f).tier = s.tier := rfl
@[simp] theorem State.modSeq_flash : (s.modSeq k f).flash = s.flash := rfl
@[simp] theorem State.modSeq_radio : (s.modSeq k f).radio = s.radio := rfl
@[simp] theorem State.modSeq_fab : (s.modSeq k f).fab = s.fab := rfl
@[simp] theorem State.modSeq_be : (s.modSeq k f).be = s.be := rfl
@[simp] theorem State.modSeq_rm : (s.modSeq k f).rm = s.rm := rfl
@[simp] theorem State.modSeq_dsp : (s.modSeq k f).dsp = s.dsp := rfl
@[simp] theorem State.modSeq_leases : (s.modSeq k f).leases = s.leases := rfl
@[simp] theorem State.modSeq_host : (s.modSeq k f).host = s.host := rfl
@[simp] theorem State.modSeq_rel : (s.modSeq k f).rel = s.rel := rfl
@[simp] theorem State.modSeq_dome : (s.modSeq k f).dome = s.dome := rfl
@[simp] theorem State.modSeq_pwr : (s.modSeq k f).pwr = s.pwr := rfl
@[simp] theorem State.modSeq_pins : (s.modSeq k f).pins = s.pins := rfl
@[simp] theorem State.modSeq_out : (s.modSeq k f).out = s.out := rfl
@[simp] theorem State.modSeq_free : (s.modSeq k f).free = s.free := rfl
@[simp] theorem State.modSeq_started : (s.modSeq k f).started = s.started := rfl
@[simp] theorem State.modSeq_pending : (s.modSeq k f).pending = s.pending := rfl
end

/-! `State.modVu` -/

section
variable (s : State) (k : Nat) (f : VuState → VuState)
@[simp] theorem State.modVu_clock : (s.modVu k f).clock = s.clock := rfl
@[simp] theorem State.modVu_clk : (s.modVu k f).clk = s.clk := rfl
@[simp] theorem State.modVu_time : (s.modVu k f).time = s.time := rfl
@[simp] theorem State.modVu_trig : (s.modVu k f).trig = s.trig := rfl
@[simp] theorem State.modVu_cap : (s.modVu k f).cap = s.cap := rfl
@[simp] theorem State.modVu_cnt : (s.modVu k f).cnt = s.cnt := rfl
@[simp] theorem State.modVu_hbm : (s.modVu k f).hbm = s.hbm := rfl
@[simp] theorem State.modVu_tier : (s.modVu k f).tier = s.tier := rfl
@[simp] theorem State.modVu_flash : (s.modVu k f).flash = s.flash := rfl
@[simp] theorem State.modVu_radio : (s.modVu k f).radio = s.radio := rfl
@[simp] theorem State.modVu_fab : (s.modVu k f).fab = s.fab := rfl
@[simp] theorem State.modVu_be : (s.modVu k f).be = s.be := rfl
@[simp] theorem State.modVu_rm : (s.modVu k f).rm = s.rm := rfl
@[simp] theorem State.modVu_dsp : (s.modVu k f).dsp = s.dsp := rfl
@[simp] theorem State.modVu_leases : (s.modVu k f).leases = s.leases := rfl
@[simp] theorem State.modVu_host : (s.modVu k f).host = s.host := rfl
@[simp] theorem State.modVu_rel : (s.modVu k f).rel = s.rel := rfl
@[simp] theorem State.modVu_dome : (s.modVu k f).dome = s.dome := rfl
@[simp] theorem State.modVu_pwr : (s.modVu k f).pwr = s.pwr := rfl
@[simp] theorem State.modVu_pins : (s.modVu k f).pins = s.pins := rfl
@[simp] theorem State.modVu_out : (s.modVu k f).out = s.out := rfl
@[simp] theorem State.modVu_free : (s.modVu k f).free = s.free := rfl
@[simp] theorem State.modVu_started : (s.modVu k f).started = s.started := rfl
@[simp] theorem State.modVu_pending : (s.modVu k f).pending = s.pending := rfl
end

/-! `State.modArr` -/

section
variable (s : State) (k : Nat) (f : ArrState → ArrState)
@[simp] theorem State.modArr_clock : (s.modArr k f).clock = s.clock := rfl
@[simp] theorem State.modArr_clk : (s.modArr k f).clk = s.clk := rfl
@[simp] theorem State.modArr_time : (s.modArr k f).time = s.time := rfl
@[simp] theorem State.modArr_trig : (s.modArr k f).trig = s.trig := rfl
@[simp] theorem State.modArr_cap : (s.modArr k f).cap = s.cap := rfl
@[simp] theorem State.modArr_cnt : (s.modArr k f).cnt = s.cnt := rfl
@[simp] theorem State.modArr_hbm : (s.modArr k f).hbm = s.hbm := rfl
@[simp] theorem State.modArr_tier : (s.modArr k f).tier = s.tier := rfl
@[simp] theorem State.modArr_flash : (s.modArr k f).flash = s.flash := rfl
@[simp] theorem State.modArr_radio : (s.modArr k f).radio = s.radio := rfl
@[simp] theorem State.modArr_fab : (s.modArr k f).fab = s.fab := rfl
@[simp] theorem State.modArr_be : (s.modArr k f).be = s.be := rfl
@[simp] theorem State.modArr_rm : (s.modArr k f).rm = s.rm := rfl
@[simp] theorem State.modArr_dsp : (s.modArr k f).dsp = s.dsp := rfl
@[simp] theorem State.modArr_leases : (s.modArr k f).leases = s.leases := rfl
@[simp] theorem State.modArr_host : (s.modArr k f).host = s.host := rfl
@[simp] theorem State.modArr_rel : (s.modArr k f).rel = s.rel := rfl
@[simp] theorem State.modArr_dome : (s.modArr k f).dome = s.dome := rfl
@[simp] theorem State.modArr_pwr : (s.modArr k f).pwr = s.pwr := rfl
@[simp] theorem State.modArr_pins : (s.modArr k f).pins = s.pins := rfl
@[simp] theorem State.modArr_out : (s.modArr k f).out = s.out := rfl
@[simp] theorem State.modArr_free : (s.modArr k f).free = s.free := rfl
@[simp] theorem State.modArr_started : (s.modArr k f).started = s.started := rfl
@[simp] theorem State.modArr_pending : (s.modArr k f).pending = s.pending := rfl
end

/-! `State.modCc` -/

section
variable (s : State) (k : Nat) (f : CcState → CcState)
@[simp] theorem State.modCc_clock : (s.modCc k f).clock = s.clock := rfl
@[simp] theorem State.modCc_clk : (s.modCc k f).clk = s.clk := rfl
@[simp] theorem State.modCc_time : (s.modCc k f).time = s.time := rfl
@[simp] theorem State.modCc_trig : (s.modCc k f).trig = s.trig := rfl
@[simp] theorem State.modCc_cap : (s.modCc k f).cap = s.cap := rfl
@[simp] theorem State.modCc_cnt : (s.modCc k f).cnt = s.cnt := rfl
@[simp] theorem State.modCc_hbm : (s.modCc k f).hbm = s.hbm := rfl
@[simp] theorem State.modCc_tier : (s.modCc k f).tier = s.tier := rfl
@[simp] theorem State.modCc_flash : (s.modCc k f).flash = s.flash := rfl
@[simp] theorem State.modCc_radio : (s.modCc k f).radio = s.radio := rfl
@[simp] theorem State.modCc_fab : (s.modCc k f).fab = s.fab := rfl
@[simp] theorem State.modCc_be : (s.modCc k f).be = s.be := rfl
@[simp] theorem State.modCc_rm : (s.modCc k f).rm = s.rm := rfl
@[simp] theorem State.modCc_dsp : (s.modCc k f).dsp = s.dsp := rfl
@[simp] theorem State.modCc_leases : (s.modCc k f).leases = s.leases := rfl
@[simp] theorem State.modCc_host : (s.modCc k f).host = s.host := rfl
@[simp] theorem State.modCc_rel : (s.modCc k f).rel = s.rel := rfl
@[simp] theorem State.modCc_dome : (s.modCc k f).dome = s.dome := rfl
@[simp] theorem State.modCc_pwr : (s.modCc k f).pwr = s.pwr := rfl
@[simp] theorem State.modCc_pins : (s.modCc k f).pins = s.pins := rfl
@[simp] theorem State.modCc_out : (s.modCc k f).out = s.out := rfl
@[simp] theorem State.modCc_free : (s.modCc k f).free = s.free := rfl
@[simp] theorem State.modCc_started : (s.modCc k f).started = s.started := rfl
@[simp] theorem State.modCc_pending : (s.modCc k f).pending = s.pending := rfl
end

/-! `State.modXb` -/

section
variable (s : State) (k : Nat) (f : XbState → XbState)
@[simp] theorem State.modXb_clock : (s.modXb k f).clock = s.clock := rfl
@[simp] theorem State.modXb_clk : (s.modXb k f).clk = s.clk := rfl
@[simp] theorem State.modXb_time : (s.modXb k f).time = s.time := rfl
@[simp] theorem State.modXb_trig : (s.modXb k f).trig = s.trig := rfl
@[simp] theorem State.modXb_cap : (s.modXb k f).cap = s.cap := rfl
@[simp] theorem State.modXb_cnt : (s.modXb k f).cnt = s.cnt := rfl
@[simp] theorem State.modXb_hbm : (s.modXb k f).hbm = s.hbm := rfl
@[simp] theorem State.modXb_tier : (s.modXb k f).tier = s.tier := rfl
@[simp] theorem State.modXb_flash : (s.modXb k f).flash = s.flash := rfl
@[simp] theorem State.modXb_radio : (s.modXb k f).radio = s.radio := rfl
@[simp] theorem State.modXb_fab : (s.modXb k f).fab = s.fab := rfl
@[simp] theorem State.modXb_be : (s.modXb k f).be = s.be := rfl
@[simp] theorem State.modXb_rm : (s.modXb k f).rm = s.rm := rfl
@[simp] theorem State.modXb_dsp : (s.modXb k f).dsp = s.dsp := rfl
@[simp] theorem State.modXb_leases : (s.modXb k f).leases = s.leases := rfl
@[simp] theorem State.modXb_host : (s.modXb k f).host = s.host := rfl
@[simp] theorem State.modXb_rel : (s.modXb k f).rel = s.rel := rfl
@[simp] theorem State.modXb_dome : (s.modXb k f).dome = s.dome := rfl
@[simp] theorem State.modXb_pwr : (s.modXb k f).pwr = s.pwr := rfl
@[simp] theorem State.modXb_pins : (s.modXb k f).pins = s.pins := rfl
@[simp] theorem State.modXb_out : (s.modXb k f).out = s.out := rfl
@[simp] theorem State.modXb_free : (s.modXb k f).free = s.free := rfl
@[simp] theorem State.modXb_started : (s.modXb k f).started = s.started := rfl
@[simp] theorem State.modXb_pending : (s.modXb k f).pending = s.pending := rfl
end

/-! `State.modStore` -/

section
variable (s : State) (k : Nat) (f : Mem → Mem)
@[simp] theorem State.modStore_clock : (s.modStore k f).clock = s.clock := rfl
@[simp] theorem State.modStore_clk : (s.modStore k f).clk = s.clk := rfl
@[simp] theorem State.modStore_time : (s.modStore k f).time = s.time := rfl
@[simp] theorem State.modStore_trig : (s.modStore k f).trig = s.trig := rfl
@[simp] theorem State.modStore_cap : (s.modStore k f).cap = s.cap := rfl
@[simp] theorem State.modStore_cnt : (s.modStore k f).cnt = s.cnt := rfl
@[simp] theorem State.modStore_hbm : (s.modStore k f).hbm = s.hbm := rfl
@[simp] theorem State.modStore_tier : (s.modStore k f).tier = s.tier := rfl
@[simp] theorem State.modStore_flash : (s.modStore k f).flash = s.flash := rfl
@[simp] theorem State.modStore_radio : (s.modStore k f).radio = s.radio := rfl
@[simp] theorem State.modStore_fab : (s.modStore k f).fab = s.fab := rfl
@[simp] theorem State.modStore_be : (s.modStore k f).be = s.be := rfl
@[simp] theorem State.modStore_rm : (s.modStore k f).rm = s.rm := rfl
@[simp] theorem State.modStore_dsp : (s.modStore k f).dsp = s.dsp := rfl
@[simp] theorem State.modStore_leases : (s.modStore k f).leases = s.leases := rfl
@[simp] theorem State.modStore_host : (s.modStore k f).host = s.host := rfl
@[simp] theorem State.modStore_rel : (s.modStore k f).rel = s.rel := rfl
@[simp] theorem State.modStore_dome : (s.modStore k f).dome = s.dome := rfl
@[simp] theorem State.modStore_pwr : (s.modStore k f).pwr = s.pwr := rfl
@[simp] theorem State.modStore_pins : (s.modStore k f).pins = s.pins := rfl
@[simp] theorem State.modStore_out : (s.modStore k f).out = s.out := rfl
@[simp] theorem State.modStore_free : (s.modStore k f).free = s.free := rfl
@[simp] theorem State.modStore_started : (s.modStore k f).started = s.started := rfl
@[simp] theorem State.modStore_pending : (s.modStore k f).pending = s.pending := rfl
end

/-! `State.modThread` -/

section
variable (s : State) (k t : Nat) (f : Thread → Thread)
@[simp] theorem State.modThread_clock : (s.modThread k t f).clock = s.clock := rfl
@[simp] theorem State.modThread_clk : (s.modThread k t f).clk = s.clk := rfl
@[simp] theorem State.modThread_time : (s.modThread k t f).time = s.time := rfl
@[simp] theorem State.modThread_trig : (s.modThread k t f).trig = s.trig := rfl
@[simp] theorem State.modThread_cap : (s.modThread k t f).cap = s.cap := rfl
@[simp] theorem State.modThread_cnt : (s.modThread k t f).cnt = s.cnt := rfl
@[simp] theorem State.modThread_hbm : (s.modThread k t f).hbm = s.hbm := rfl
@[simp] theorem State.modThread_tier : (s.modThread k t f).tier = s.tier := rfl
@[simp] theorem State.modThread_flash : (s.modThread k t f).flash = s.flash := rfl
@[simp] theorem State.modThread_radio : (s.modThread k t f).radio = s.radio := rfl
@[simp] theorem State.modThread_fab : (s.modThread k t f).fab = s.fab := rfl
@[simp] theorem State.modThread_be : (s.modThread k t f).be = s.be := rfl
@[simp] theorem State.modThread_rm : (s.modThread k t f).rm = s.rm := rfl
@[simp] theorem State.modThread_dsp : (s.modThread k t f).dsp = s.dsp := rfl
@[simp] theorem State.modThread_leases : (s.modThread k t f).leases = s.leases := rfl
@[simp] theorem State.modThread_host : (s.modThread k t f).host = s.host := rfl
@[simp] theorem State.modThread_rel : (s.modThread k t f).rel = s.rel := rfl
@[simp] theorem State.modThread_dome : (s.modThread k t f).dome = s.dome := rfl
@[simp] theorem State.modThread_pwr : (s.modThread k t f).pwr = s.pwr := rfl
@[simp] theorem State.modThread_pins : (s.modThread k t f).pins = s.pins := rfl
@[simp] theorem State.modThread_out : (s.modThread k t f).out = s.out := rfl
@[simp] theorem State.modThread_free : (s.modThread k t f).free = s.free := rfl
@[simp] theorem State.modThread_started : (s.modThread k t f).started = s.started := rfl
@[simp] theorem State.modThread_pending : (s.modThread k t f).pending = s.pending := rfl
end

/-! `State.modJob` -/

section
variable (s : State) (id : Nat) (f : Job → Job)
@[simp] theorem State.modJob_clock : (s.modJob id f).clock = s.clock := rfl
@[simp] theorem State.modJob_clk : (s.modJob id f).clk = s.clk := rfl
@[simp] theorem State.modJob_time : (s.modJob id f).time = s.time := rfl
@[simp] theorem State.modJob_trig : (s.modJob id f).trig = s.trig := rfl
@[simp] theorem State.modJob_cap : (s.modJob id f).cap = s.cap := rfl
@[simp] theorem State.modJob_cnt : (s.modJob id f).cnt = s.cnt := rfl
@[simp] theorem State.modJob_spires : (s.modJob id f).spires = s.spires := rfl
@[simp] theorem State.modJob_hbm : (s.modJob id f).hbm = s.hbm := rfl
@[simp] theorem State.modJob_tier : (s.modJob id f).tier = s.tier := rfl
@[simp] theorem State.modJob_flash : (s.modJob id f).flash = s.flash := rfl
@[simp] theorem State.modJob_radio : (s.modJob id f).radio = s.radio := rfl
@[simp] theorem State.modJob_fab : (s.modJob id f).fab = s.fab := rfl
@[simp] theorem State.modJob_be : (s.modJob id f).be = s.be := rfl
@[simp] theorem State.modJob_rm : (s.modJob id f).rm = s.rm := rfl
@[simp] theorem State.modJob_leases : (s.modJob id f).leases = s.leases := rfl
@[simp] theorem State.modJob_host : (s.modJob id f).host = s.host := rfl
@[simp] theorem State.modJob_rel : (s.modJob id f).rel = s.rel := rfl
@[simp] theorem State.modJob_dome : (s.modJob id f).dome = s.dome := rfl
@[simp] theorem State.modJob_pwr : (s.modJob id f).pwr = s.pwr := rfl
@[simp] theorem State.modJob_pins : (s.modJob id f).pins = s.pins := rfl
@[simp] theorem State.modJob_out : (s.modJob id f).out = s.out := rfl
@[simp] theorem State.modJob_free : (s.modJob id f).free = s.free := rfl
@[simp] theorem State.modJob_started : (s.modJob id f).started = s.started := rfl
@[simp] theorem State.modJob_pending : (s.modJob id f).pending = s.pending := rfl
end

/-! `State.setTile` -/

section
variable (s : State) (n : Nat) (e : TileEntry)
@[simp] theorem State.setTile_clock : (s.setTile n e).clock = s.clock := rfl
@[simp] theorem State.setTile_clk : (s.setTile n e).clk = s.clk := rfl
@[simp] theorem State.setTile_time : (s.setTile n e).time = s.time := rfl
@[simp] theorem State.setTile_trig : (s.setTile n e).trig = s.trig := rfl
@[simp] theorem State.setTile_cap : (s.setTile n e).cap = s.cap := rfl
@[simp] theorem State.setTile_cnt : (s.setTile n e).cnt = s.cnt := rfl
@[simp] theorem State.setTile_spires : (s.setTile n e).spires = s.spires := rfl
@[simp] theorem State.setTile_hbm : (s.setTile n e).hbm = s.hbm := rfl
@[simp] theorem State.setTile_flash : (s.setTile n e).flash = s.flash := rfl
@[simp] theorem State.setTile_radio : (s.setTile n e).radio = s.radio := rfl
@[simp] theorem State.setTile_fab : (s.setTile n e).fab = s.fab := rfl
@[simp] theorem State.setTile_be : (s.setTile n e).be = s.be := rfl
@[simp] theorem State.setTile_rm : (s.setTile n e).rm = s.rm := rfl
@[simp] theorem State.setTile_dsp : (s.setTile n e).dsp = s.dsp := rfl
@[simp] theorem State.setTile_leases : (s.setTile n e).leases = s.leases := rfl
@[simp] theorem State.setTile_host : (s.setTile n e).host = s.host := rfl
@[simp] theorem State.setTile_rel : (s.setTile n e).rel = s.rel := rfl
@[simp] theorem State.setTile_dome : (s.setTile n e).dome = s.dome := rfl
@[simp] theorem State.setTile_pwr : (s.setTile n e).pwr = s.pwr := rfl
@[simp] theorem State.setTile_pins : (s.setTile n e).pins = s.pins := rfl
@[simp] theorem State.setTile_out : (s.setTile n e).out = s.out := rfl
@[simp] theorem State.setTile_free : (s.setTile n e).free = s.free := rfl
@[simp] theorem State.setTile_started : (s.setTile n e).started = s.started := rfl
@[simp] theorem State.setTile_pending : (s.setTile n e).pending = s.pending := rfl
end

/-! `State.modTile` -/

section
variable (s : State) (n : Nat) (f : TileEntry → TileEntry)
@[simp] theorem State.modTile_clock : (s.modTile n f).clock = s.clock := rfl
@[simp] theorem State.modTile_clk : (s.modTile n f).clk = s.clk := rfl
@[simp] theorem State.modTile_time : (s.modTile n f).time = s.time := rfl
@[simp] theorem State.modTile_trig : (s.modTile n f).trig = s.trig := rfl
@[simp] theorem State.modTile_cap : (s.modTile n f).cap = s.cap := rfl
@[simp] theorem State.modTile_cnt : (s.modTile n f).cnt = s.cnt := rfl
@[simp] theorem State.modTile_spires : (s.modTile n f).spires = s.spires := rfl
@[simp] theorem State.modTile_hbm : (s.modTile n f).hbm = s.hbm := rfl
@[simp] theorem State.modTile_flash : (s.modTile n f).flash = s.flash := rfl
@[simp] theorem State.modTile_radio : (s.modTile n f).radio = s.radio := rfl
@[simp] theorem State.modTile_fab : (s.modTile n f).fab = s.fab := rfl
@[simp] theorem State.modTile_be : (s.modTile n f).be = s.be := rfl
@[simp] theorem State.modTile_rm : (s.modTile n f).rm = s.rm := rfl
@[simp] theorem State.modTile_dsp : (s.modTile n f).dsp = s.dsp := rfl
@[simp] theorem State.modTile_leases : (s.modTile n f).leases = s.leases := rfl
@[simp] theorem State.modTile_host : (s.modTile n f).host = s.host := rfl
@[simp] theorem State.modTile_rel : (s.modTile n f).rel = s.rel := rfl
@[simp] theorem State.modTile_dome : (s.modTile n f).dome = s.dome := rfl
@[simp] theorem State.modTile_pwr : (s.modTile n f).pwr = s.pwr := rfl
@[simp] theorem State.modTile_pins : (s.modTile n f).pins = s.pins := rfl
@[simp] theorem State.modTile_out : (s.modTile n f).out = s.out := rfl
@[simp] theorem State.modTile_free : (s.modTile n f).free = s.free := rfl
@[simp] theorem State.modTile_started : (s.modTile n f).started = s.started := rfl
@[simp] theorem State.modTile_pending : (s.modTile n f).pending = s.pending := rfl
end

end Sys2Proof.Machine
end

