-- ==== Sys2Proof/Laws/Frame.lean ====
section
/-! SUPPORT. The frame of the machine's operations: for each, that it leaves the slow part of the state as it was. -/

namespace Sys2Proof.Machine

open Sys2Proof

set_option linter.unusedSimpArgs false

/-- The part of State that few commands change: the clock root, the trigger channels, hall time and its increment, the Minuet, the
Towers, the throttle level, the mailboxes and the queue. -/
structure Slow where
  clock : ClockState
  trig : Tab TrigChan
  hall : HallTime
  incr : Nat
  next : Option Nat
  set : Option HallTime
  chip : ChipState
  held : Option ResetCause
  done : Bool
  failed : Bool
  cause : ResetCause
  fail : BitVec 4
  out : BitVec 4
  level : Nat
  channels : Tab Channel
  locked : Bool
  pending : List Instr
  edge : Option HallTime
/-- The slow part of a state. -/
def State.slow (s : State) : Slow := ⟨s.clock, s.trig, s.time.hall, s.time.incr, s.time.incrNext, s.time.setPending, s.clk.chipState, s.clk.pendingReset, s.clk.done, s.clk.failed, s.clk.rstCause, s.clk.towerFail, s.rel.towerOut, s.pwr.level, s.host.channels, s.host.locked, s.pending, s.time.edgeAt⟩
theorem foldl_keeps {α β γ : Type} (g : β → γ) (f : β → α → β) (l : List α) (b : β) (h : ∀ c a, g (f c a) = g c) :
    g (l.foldl f b) = g b := by
  induction l generalizing b with
  | nil => rfl
  | cons x r ih => exact (ih _).trans (h b x)

theorem foldl_slow {α : Type} (f : State → α → State) (l : List α) (s : State) (h : ∀ t x, (f t x).slow = t.slow) :
    (l.foldl f s).slow = s.slow := foldl_keeps State.slow f l s h

@[simp] theorem slow_mk (a b c d e f g h i j k l m n o p q r t u v w x y z) :
   State.slow (State.mk a b c d e f g h i j k l m n o p q r t u v w x y z) = ⟨a, d, c.hall, c.incr, c.incrNext, c.setPending, b.chipState, b.pendingReset, b.done, b.failed, b.rstCause, b.towerFail, r.towerOut, u.level, q.channels, q.locked, z, c.edgeAt⟩ := (rfl)
@[simp] theorem slow_eta (s : State) : Slow.mk s.clock s.trig s.time.hall s.time.incr s.time.incrNext s.time.setPending s.clk.chipState s.clk.pendingReset s.clk.done s.clk.failed s.clk.rstCause s.clk.towerFail s.rel.towerOut s.pwr.level s.host.channels s.host.locked s.pending s.time.edgeAt = s.slow := (rfl)
@[simp] theorem State.modTime_slow (s : State) (f) : (s.modTime f).slow = ⟨s.clock, s.trig, (f s.time).hall, (f s.time).incr, (f s.time).incrNext, (f s.time).setPending, s.clk.chipState, s.clk.pendingReset, s.clk.done, s.clk.failed, s.clk.rstCause, s.clk.towerFail, s.rel.towerOut, s.pwr.level, s.host.channels, s.host.locked, s.pending, (f s.time).edgeAt⟩ := (rfl)
@[simp] theorem State.modPwr_slow (s : State) (f) : (s.modPwr f).slow = ⟨s.clock, s.trig, s.time.hall, s.time.incr, s.time.incrNext, s.time.setPending, s.clk.chipState, s.clk.pendingReset, s.clk.done, s.clk.failed, s.clk.rstCause, s.clk.towerFail, s.rel.towerOut, (f s.pwr).level, s.host.channels, s.host.locked, s.pending, s.time.edgeAt⟩ := (rfl)
@[simp] theorem State.modClk_slow (s : State) (f) : (s.modClk f).slow = ⟨s.clock, s.trig, s.time.hall, s.time.incr, s.time.incrNext, s.time.setPending, (f s.clk).chipState, (f s.clk).pendingReset, (f s.clk).done, (f s.clk).failed, (f s.clk).rstCause, (f s.clk).towerFail, s.rel.towerOut, s.pwr.level, s.host.channels, s.host.locked, s.pending, s.time.edgeAt⟩ := (rfl)
@[simp] theorem State.modRel_slow (s : State) (f) : (s.modRel f).slow = ⟨s.clock, s.trig, s.time.hall, s.time.incr, s.time.incrNext, s.time.setPending, s.clk.chipState, s.clk.pendingReset, s.clk.done, s.clk.failed, s.clk.rstCause, s.clk.towerFail, (f s.rel).towerOut, s.pwr.level, s.host.channels, s.host.locked, s.pending, s.time.edgeAt⟩ := (rfl)
@[simp] theorem State.modSpire_slow (s : State) (k : Nat) (f : Spire → Spire) : (State.modSpire s k f).slow = s.slow := (rfl)

@[simp] theorem State.modStack_slow (s : State) (h : Nat) (f : HbmStack → HbmStack) : (State.modStack s h f).slow = s.slow := (rfl)

@[simp] theorem State.modLane_slow (s : State) (n : Nat) (f : Lane → Lane) : (State.modLane s n f).slow = s.slow := (rfl)

@[simp] theorem State.modCell_slow (s : State) (c : Nat) (f : RadioCell → RadioCell) : (State.modCell s c f).slow = s.slow := (rfl)

@[simp] theorem State.modLease_slow (s : State) (n : Nat) (f : Lease → Lease) : (State.modLease s n f).slow = s.slow := (rfl)

@[simp] theorem State.modFunc_slow (s : State) (n : Nat) (f : Func → Func) : (State.modFunc s n f).slow = s.slow := (rfl)

@[simp] theorem State.modPair_slow (s : State) (n q : Nat) (f : Pair → Pair) : (State.modPair s n q f).slow = s.slow := (rfl)

@[simp] theorem State.modHealth_slow (s : State) (k : Nat) (f : SpireHealth → SpireHealth) : (State.modHealth s k f).slow = s.slow := (rfl)

@[simp] theorem State.modRelCounters_slow (s : State) (f : RelCounters → RelCounters) : (State.modRelCounters s f).slow = s.slow := (rfl)

@[simp] theorem touchDomain_slow (d : Nat) (s : State) : (touchDomain d s).slow = s.slow := by
  unfold touchDomain
  split <;> rfl

@[simp] theorem touchDomains_slow (l : List Nat) (s : State) : (touchDomains l s).slow = s.slow := by
  unfold touchDomains
  (repeat' split) <;> first | with_reducible rfl | simp [*, foldl_slow, apply_ite State.slow]

@[simp] theorem State.emit_slow (s : State) (o : Out) : (State.emit s o).slow = s.slow := (rfl)

@[simp] theorem State.useFree_slow (s : State) : (State.useFree s).slow = s.slow := (rfl)

@[simp] theorem sendVector_slow (n i : Nat) (s : State) : (sendVector n i s).slow = s.slow := by
  unfold sendVector
  split <;> rfl

@[simp] theorem ringFunc_slow (n i : Nat) (s : State) : (ringFunc n i s).slow = s.slow := by
  unfold ringFunc
  dsimp only
  split <;> simp

@[simp] theorem ringDome_slow (i : Nat) (s : State) : (ringDome i s).slow = s.slow := (rfl)

@[simp] theorem ringMid_slow (mid i : Nat) (s : State) : (ringMid mid i s).slow = s.slow := by
  unfold ringMid
  split <;> simp

@[simp] theorem logEvent_slow (e : LogEvent) (s : State) : (logEvent e s).slow = s.slow := by
  unfold logEvent
  dsimp only
  split <;> rfl

@[simp] theorem errRecord_slow (detector outcome inst lease tag job detail : Nat) (s : State) : (errRecord detector outcome inst lease tag job detail s).slow = s.slow := by
  unfold errRecord
  (repeat' split) <;> simp

@[simp] theorem countSpire_slow (k ev n : Nat) (s : State) : (countSpire k ev n s).slow = s.slow := by
  unfold countSpire
  dsimp only
  (repeat' split) <;> simp

@[simp] theorem countBelfry_slow (ev : Nat) (inst : Option Nat) (n : Nat) (s : State) : (countBelfry ev inst n s).slow = s.slow := by
  unfold countBelfry
  dsimp only
  (repeat' split) <;> simp

@[simp] theorem blameJob_slow (job n : Nat) (s : State) : (blameJob job n s).slow = s.slow := (rfl)

@[simp] theorem countNd_slow (cat n : Nat) (jobs : List Nat) (s : State) : (countNd cat n jobs s).slow = s.slow := by
  unfold countNd
  dsimp only
  refine (foldl_slow _ _ _ (fun t j => blameJob_slow j n t)).trans ?_
  split <;> rfl

@[simp] theorem complete_slow (iss : Issuer) (op : Nat) (r : Reply) (s : State) : (complete iss op r s).slow = s.slow := by
  unfold complete
  (repeat' split) <;> simp

@[simp] theorem returnToRun_slow (s : State) : (returnToRun s).slow = s.slow := by
  unfold returnToRun
  (repeat' split) <;> simp

@[simp] theorem onBus_slow (f : State → State) (s : State) (h : ∀ t, (f t).slow = t.slow) : (onBus f s).slow = s.slow := by
  unfold onBus
  (repeat' split) <;> first | with_reducible rfl | simp [*]

@[simp] theorem regWrite_slow (mid off : Nat) (v : Word) (f : State → State) (s : State) (h : ∀ t, (f t).slow = t.slow) : (regWrite mid off v f s).slow = s.slow := by
  unfold regWrite
  dsimp only
  have e : (if s.blockStopped off = true then returnToRun s else s).slow = s.slow := by split <;> simp
  generalize (if s.blockStopped off = true then returnToRun s else s) = u at e ⊢
  split
  · exact (h u).trans e
  · exact ((touchDomains_slow (domainOf off) u).symm ▸ rfl : _ = (touchDomains (domainOf off) u).slow).trans ((touchDomains_slow _ _).trans e)

@[simp] theorem bar0Row_slow (mid off : Nat) (v : Word) (f : State → State) (s : State) (h : ∀ t, (f t).slow = t.slow) : (bar0Row mid off v f s).slow = s.slow := by
  unfold bar0Row
  (repeat' split) <;> first | with_reducible rfl | simp [*]

@[simp] theorem takeStarted_slow (iss : Issuer) (s : State) : (takeStarted iss s).slow = s.slow := (rfl)

@[simp] theorem stayLow_slow (s t : State) : (stayLow s t).slow = t.slow := by
  unfold stayLow
  (repeat' split) <;> first | with_reducible rfl | simp

@[simp] theorem queueCommand_slow (op : Nat) (iss : Issuer) (body : State → State × Option Reply) (s : State) (h : ∀ t, (body t).1.slow = t.slow) : (queueCommand op iss body s).slow = s.slow := by
  unfold queueCommand
  dsimp only
  split
  · simp
  · generalize hu : (if isPowerOp op = true then takeStarted iss s else returnToRun (takeStarted iss s)) = u
    have e : u.slow = s.slow := by rw [← hu]; split <;> simp
    have := h u
    (repeat' split) <;> simp_all

@[simp] theorem refuse_slow (status : Nat) (s : State) : (refuse status s).1.slow = s.slow := (rfl)

@[simp] theorem argError_slow (iss : Issuer) (s : State) : (argError iss s).1.slow = s.slow := by
  unfold argError
  split <;> rfl

@[simp] theorem refuseFor_slow (iss : Issuer) (status : Nat) (s : State) : (refuseFor iss status s).1.slow = s.slow := by
  unfold refuseFor
  split <;> simp

@[simp] theorem loseOne_slow (c : Nat) (s : State) (a : Nat) : (loseOne c s a).slow = s.slow := by
  unfold loseOne
  dsimp only
  (repeat' split) <;> first | with_reducible rfl | simp

@[simp] theorem loseSlots_slow (c : Nat) (l : List Nat) (s : State) : (loseSlots c l s).slow = s.slow := by
  unfold loseSlots
  (repeat' split) <;> first | with_reducible rfl | simp [*, foldl_slow, apply_ite State.slow]

@[simp] theorem loseSlot_slow (c : Nat) (s : State) : (loseSlot c s).slow = s.slow := by
  unfold loseSlot
  (repeat' split) <;> first | with_reducible rfl | simp

@[simp] theorem losingCells_slow (cells : List Nat) (s : State) : (losingCells cells s).slow = s.slow := by
  unfold losingCells
  (repeat' split) <;> first | with_reducible rfl | simp [*, foldl_slow, apply_ite State.slow]

@[simp] theorem partFault_slow (part : RadioPart) (cells : List Nat) (s : State) : (partFault part cells s).slow = s.slow := by
  unfold partFault
  extract_lets x1
  try (have hx1 : State.slow x1 = s.slow := (by simp only [x1]; (repeat' split) <;> first | with_reducible rfl | simp [*, foldl_slow, apply_ite State.slow]); clear_value x1)
  (repeat' split) <;> first | with_reducible rfl | simp [*, foldl_slow, apply_ite State.slow]

@[simp] theorem radioPartFault_slow (part : RadioPart) (s : State) : (radioPartFault part s).slow = s.slow := by
  unfold radioPartFault
  dsimp only
  (repeat' split) <;> first | with_reducible rfl | simp

@[simp] theorem recoverCells_slow (s : State) : (recoverCells s).slow = s.slow := by
  unfold recoverCells
  extract_lets x1
  try (have hx1 : State.slow x1 = s.slow := (by simp only [x1]; (repeat' split) <;> first | with_reducible rfl | simp [*, foldl_slow, apply_ite State.slow]); clear_value x1)
  (repeat' split) <;> first | with_reducible rfl | simp [*, foldl_slow, apply_ite State.slow]

@[simp] theorem failLosing_slow (s : State) : (failLosing s).slow = s.slow := by
  unfold failLosing
  (repeat' split) <;> first | with_reducible rfl | simp [*, foldl_slow, apply_ite State.slow]

@[simp] theorem retryParts_slow (s : State) : (retryParts s).slow = s.slow := by
  unfold retryParts
  (repeat' split) <;> first | with_reducible rfl | simp [*, foldl_slow, apply_ite State.slow]

@[simp] theorem loseWindowSlots_slow (k : Nat) (s : State) : (loseWindowSlots k s).slow = s.slow := by
  unfold loseWindowSlots
  (repeat' split) <;> first | with_reducible rfl | simp [*, foldl_slow, apply_ite State.slow]

@[simp] theorem State.modSeq_slow (s : State) (k : Nat) (f : SeqState → SeqState) : (State.modSeq s k f).slow = s.slow := (rfl)

@[simp] theorem State.modVu_slow (s : State) (k : Nat) (f : VuState → VuState) : (State.modVu s k f).slow = s.slow := (rfl)

@[simp] theorem State.modArr_slow (s : State) (k : Nat) (f : ArrState → ArrState) : (State.modArr s k f).slow = s.slow := (rfl)

@[simp] theorem State.modCc_slow (s : State) (k : Nat) (f : CcState → CcState) : (State.modCc s k f).slow = s.slow := (rfl)

@[simp] theorem State.modXb_slow (s : State) (k : Nat) (f : XbState → XbState) : (State.modXb s k f).slow = s.slow := (rfl)

@[simp] theorem State.modStore_slow (s : State) (k : Nat) (f : Mem → Mem) : (State.modStore s k f).slow = s.slow := (rfl)

@[simp] theorem setFlag_slow (k n : Nat) (s : State) : (setFlag k n s).slow = s.slow := (rfl)

@[simp] theorem setCmdStatus_slow (k st : Nat) (s : State) : (setCmdStatus k st s).slow = s.slow := by
  unfold setCmdStatus
  (repeat' split) <;> first | with_reducible rfl | simp

@[simp] theorem State.modJob_slow (s : State) (id : Nat) (f : Job → Job) : (State.modJob s id f).slow = s.slow := (rfl)

@[simp] theorem quarantine_slow (k : Nat) (s : State) : (quarantine k s).slow = s.slow := by
  unfold quarantine
  split <;> rfl

@[simp] theorem quarantineAfter_slow (k : Nat) (s : State) : (quarantineAfter k s).slow = s.slow := by
  unfold quarantineAfter
  split <;> simp

@[simp] theorem releaseRecord_slow (k : Nat) (p : Pass) (s : State) : (releaseRecord k p s).slow = s.slow := (rfl)

@[simp] theorem releaseFirst_slow (k : Nat) (s : State) : (releaseFirst k s).slow = s.slow := by
  unfold releaseFirst
  (repeat' split) <;> simp

@[simp] theorem releaseDue_slow (k t n : Nat) (s : State) : (releaseDue k t n s).slow = s.slow := by
  induction n generalizing s with
  | zero => rfl
  | succ n ih => unfold releaseDue; (repeat' split) <;> simp [ih]

@[simp] theorem abandonPass_slow (k : Nat) (s : State) (p : Pass) : (abandonPass k s p).slow = s.slow := by
  unfold abandonPass
  simp

@[simp] theorem disputeRecord_slow (outcome : Nat) (d : Dispute) (s : State) : (disputeRecord outcome d s).slow = s.slow := by
  unfold disputeRecord
  simp

@[simp] theorem dropDispute_slow (k : Nat) (s : State) : (dropDispute k s).slow = s.slow := (rfl)

@[simp] theorem stopDispute_slow (k : Nat) (s : State) : (stopDispute k s).slow = s.slow := by
  unfold stopDispute
  (repeat' split) <;> simp

@[simp] theorem arrayStop_slow (k t : Nat) (keep : Bool) (s : State) : (arrayStop k t keep s).slow = s.slow := by
  have e : ∀ (l : List Pass) (u : State), (l.foldl (abandonPass k) u).slow = u.slow := fun l u =>
    foldl_slow _ _ _ (fun u a => abandonPass_slow k u a)
  unfold arrayStop
  dsimp only
  rw [State.modSeq_slow, State.modArr_slow, e, stopDispute_slow, releaseDue_slow]

@[simp] theorem cancelTransfers_slow (k : Nat) (s : State) : (cancelTransfers k s).slow = s.slow := (rfl)

@[simp] theorem haltThreads_slow (k : Nat) (s : State) : (haltThreads k s).slow = s.slow := (rfl)

@[simp] theorem wipeJobPart_slow (k : Nat) (s : State) : (wipeJobPart k s).slow = s.slow := (rfl)

@[simp] theorem startClean_slow (k : Nat) (s : State) : (startClean k s).slow = s.slow := (rfl)

@[simp] theorem startWipe_slow (k : Nat) (s : State) : (startWipe k s).slow = s.slow := by
  unfold startWipe
  simp

@[simp] theorem enterEnding_slow (k : Nat) (s : State) : (enterEnding k s).slow = s.slow := by
  unfold enterEnding
  dsimp only
  (repeat' split) <;> simp

@[simp] theorem abortSpire_slow (k : Nat) (s : State) : (abortSpire k s).slow = s.slow := by
  unfold abortSpire
  split <;> simp

@[simp] theorem endJob_slow (id status cause bundle k0 : Nat) (s : State) : (endJob id status cause bundle k0 s).slow = s.slow := by
  unfold endJob
  split
  · rfl
  · split
    · rfl
    · exact (foldl_slow _ _ _ (fun t k => by split <;> simp)).trans rfl

@[simp] theorem fenceSpire_slow (k : Nat) (s : State) : (fenceSpire k s).slow = s.slow := by
  unfold fenceSpire
  dsimp only
  split
  · simp
  · generalize hu : (if (s.spire k).seq.mode = .wiping then s else arrayStop k s.cyc false s) = u
    have e : u.slow = s.slow := by rw [← hu]; split <;> simp
    generalize hv : haltThreads k (cancelTransfers k u) = v
    have e2 : v.slow = s.slow := by rw [← hv]; simp [e]
    clear hu hv
    (repeat' split) <;> simp <;> exact e2

@[simp] theorem fenceByRel_slow (k : Nat) (s : State) : (fenceByRel k s).slow = s.slow := by
  unfold fenceByRel
  split <;> simp

@[simp] theorem changeScore_slow (k : Nat) (d : Int) (s : State) : (changeScore k d s).slow = s.slow := by
  unfold changeScore
  dsimp only
  split <;> simp

@[simp] theorem recordFault_slow (k : Nat) (inS : Bool) (cause thread pc : Nat) (s : State) : (recordFault k inS cause thread pc s).slow = s.slow := (rfl)

@[simp] theorem programFault_slow (k : Nat) (inS : Bool) (cause thread pc : Nat) (s : State) : (programFault k inS cause thread pc s).slow = s.slow := by
  unfold programFault
  dsimp only
  (repeat' split) <;> simp

@[simp] theorem poisonEnd_slow (k : Nat) (s : State) : (poisonEnd k s).slow = s.slow := by
  unfold poisonEnd
  dsimp only
  (repeat' split) <;> simp

@[simp] theorem consumePoison_slow (n : Nat) (s : State) : (consumePoison n s).slow = s.slow := (rfl)

@[simp] theorem sequencerFault_slow (k cause pc : Nat) (s : State) : (sequencerFault k cause pc s).slow = s.slow := by
  unfold sequencerFault
  dsimp only
  (repeat' split) <;> simp

@[simp] theorem replayIssue_slow (k t : Nat) (s : State) : (replayIssue k t s).slow = s.slow := by
  unfold replayIssue
  dsimp only
  (repeat' split) <;> simp

@[simp] theorem dispatchStart_slow (id : Nat) (s : State) : (dispatchStart id s).slow = s.slow := by
  unfold dispatchStart
  split
  · rfl
  · split
    · split
      · rfl
      · exact (foldl_slow _ _ _ (fun t k => (setCmdStatus_slow _ _ _).trans rfl))
    · rfl

@[simp] theorem leaveStopped_slow (k t : Nat) (s : State) : (leaveStopped k t s).slow = s.slow := by
  unfold leaveStopped
  dsimp only
  (repeat' split) <;> simp

@[simp] theorem endReplay_slow (k : Nat) (s : State) : (endReplay k s).slow = s.slow := by
  unfold endReplay
  dsimp only
  split <;> rfl

@[simp] theorem stopSpire_slow (k : Nat) (isReclaim : Bool) (s : State) : (stopSpire k isReclaim s).slow = s.slow := by
  unfold stopSpire
  dsimp only
  (repeat' split) <;> simp

@[simp] theorem powerStop_slow (k : Nat) (s : State) : (powerStop k s).slow = s.slow := by
  unfold powerStop
  dsimp only
  (repeat' split) <;> simp

@[simp] theorem payStop_slow (k : Nat) (s : State) : (payStop k s).slow = s.slow := by
  unfold payStop
  dsimp only
  (repeat' split) <;> simp

@[simp] theorem storeChecked_slow (k : Nat) (c : WordCheck) (s : State) : (storeChecked k c s).slow = s.slow := by
  unfold storeChecked
  (repeat' split) <;> first | with_reducible rfl | simp

@[simp] theorem stackChecked_slow (h : Nat) (c : WordCheck) (s : State) : (stackChecked h c s).slow = s.slow := by
  unfold stackChecked
  (repeat' split) <;> first | with_reducible rfl | simp

theorem passWord_slow (note : WordCheck → State → State) (h : ∀ c t, (note c t).slow = t.slow) (r : Words × State) (e : Nat × Nat) : (passWord note r e).2.slow = r.2.slow := by
  unfold passWord
  split
  · rfl
  · dsimp only
    rw [h]
    split <;> rfl

theorem passWords_slow (note : WordCheck → State → State) (h : ∀ c t, (note c t).slow = t.slow) (errs : List (Nat × Nat)) (w : Words) (s : State) : (passWords note errs w s).2.slow = s.slow := by
  unfold passWords
  exact foldl_keeps (fun q : Words × State => q.2.slow) _ _ _ (fun q e => passWord_slow note h q e)

@[simp] theorem claim_slow (k b bit : Nat) (r : Acc) : (claim k b bit r).2.s.slow = r.s.slow := by
  unfold claim
  dsimp only
  (repeat' split) <;> first | rfl | simp

@[simp] theorem noteRecent_slow (k b : Nat) (u : Undo) (s : State) : (noteRecent k b u s).slow = s.slow := (rfl)

@[simp] theorem noteWrite_slow (k a : Nat) (w : Writer) (s : State) : (noteWrite k a w s).slow = s.slow := (rfl)

@[simp] theorem arrWriteNow_slow (k n : Nat) (s : State) (w : ArrWrite) : (arrWriteNow k n s w).slow = s.slow := by
  unfold arrWriteNow
  (repeat' split) <;> first | with_reducible rfl | simp

@[simp] theorem arrayWrites_slow (k : Nat) (s : State) : (arrayWrites k s).slow = s.slow := by
  unfold arrayWrites
  refine foldl_slow _ _ _ (fun t p => ?_)
  dsimp only
  split
  · rfl
  · exact (foldl_slow _ _ _ (fun u w => arrWriteNow_slow _ _ _ _)).trans rfl

@[simp] theorem modLoad_slow (k t : Nat) (f : VFlight → VFlight) (s : State) : (modLoad k t f s).slow = s.slow := (rfl)

@[simp] theorem poisonLoad_slow (k : Nat) (f : VFlight) (s : State) : (poisonLoad k f s).slow = s.slow := by
  unfold poisonLoad
  (repeat' split) <;> first | with_reducible rfl | simp

@[simp] theorem vectorRead_slow (k : Nat) (f : VFlight) (a : Nat) (r : Acc) : (vectorRead k f a r).2.s.slow = r.s.slow := by
  unfold vectorRead
  dsimp only
  (repeat' split) <;> simp

@[simp] theorem readLoad_slow (k : Nat) (f : VFlight) (a : Nat) (r : Acc) : (readLoad k f a r).s.slow = r.s.slow := by
  unfold readLoad
  exact (modLoad_slow _ _ _ _).trans (foldl_keeps (fun q : Acc => q.s.slow) _ _ _ (fun q i => by simp))

@[simp] theorem readGroup_slow (k : Nat) (f : VFlight) (b : Nat) (o : VReg) (r : Acc) : (readGroup k f b o r).s.slow = r.s.slow := by
  unfold readGroup
  refine (modLoad_slow _ _ _ _).trans (foldl_keeps (fun q : List (Nat × Nat) × Acc => q.2.s.slow) _ _ _ (fun q i => ?_))
  dsimp only
  split
  · simp
  · split
    · simp
    · split <;> simp

@[simp] theorem writeStore_slow (k : Nat) (f : VFlight) (a : Nat) (r : Acc) : (writeStore k f a r).s.slow = r.s.slow := by
  unfold writeStore
  dsimp only
  split
  · simp
  · refine foldl_keeps (fun q : Acc => q.s.slow) _ _ _ (fun q i => ?_)
    split <;> simp

@[simp] theorem vectorAccesses_slow (k : Nat) (r : Acc) : (vectorAccesses k r).s.slow = r.s.slow := by
  unfold vectorAccesses
  refine (foldl_keeps (fun q : Acc => q.s.slow) _ _ _ (fun q f => ?_)).trans (foldl_keeps (fun q : Acc => q.s.slow) _ _ _ (fun q f => ?_))
  · (repeat' split) <;> simp
  · (repeat' split) <;> simp

@[simp] theorem readPut_slow (k : Nat) (x : Xfer) (j : Nat) (r : Acc) : (readPut k x j r).s.slow = r.s.slow := by
  have e : ∀ f : List (Nat × Bool) × Acc → Nat → List (Nat × Bool) × Acc, (∀ q i, (f q i).2.s.slow = q.2.s.slow) →
      ((List.range 32).foldl f ([], r)).2.s.slow = r.s.slow := fun f hf => foldl_keeps (fun q => q.2.s.slow) f _ _ hf
  unfold readPut
  dsimp only
  rw [State.modXb_slow]
  exact e _ (fun q i => (noteRecent_slow _ _ _ _).trans (claim_slow _ _ _ _))

@[simp] theorem writeGet_slow (k : Nat) (b : Beat) (r : Acc) : (writeGet k b r).s.slow = r.s.slow := by
  unfold writeGet
  dsimp only
  split
  · simp
  · have e : ∀ l : List Nat, (l.foldl (fun (q : Acc) i =>
        if (claim k (bankOf (b.addr + 32 * i)) clashCrossbar q).1 then
          Acc.mk (claim k (bankOf (b.addr + 32 * i)) clashCrossbar q).2.used
            ((noteWrite k (b.addr + 32 * i) .crossbar (claim k (bankOf (b.addr + 32 * i)) clashCrossbar q).2.s).modStore k
              (fun m => m.writeWord (b.addr + 32 * i) (leValue ((b.data.drop (32 * i)).take 32)) (b.poison.getLsbD i)))
        else (claim k (bankOf (b.addr + 32 * i)) clashCrossbar q).2) r).s.slow = r.s.slow := fun l =>
      foldl_keeps (fun q : Acc => q.s.slow) _ _ _ (fun q i => by split <;> simp)
    split
    · simp only [State.modXb_slow, countSpire_slow]; exact e _
    · simp only [State.modXb_slow, countSpire_slow]; exact e _

@[simp] theorem markBeats_slow (k : Nat) (banks : BitVec 64) (s : State) : (markBeats k banks s).slow = s.slow := by
  unfold markBeats
  split <;> rfl

@[simp] theorem loseWrites_slow (k : Nat) (banks : BitVec 64) (s : State) : (loseWrites k banks s).slow = s.slow := by
  unfold loseWrites
  refine foldl_slow _ _ _ (fun t p => foldl_slow _ _ _ (fun u a => ?_))
  split
  · split <;> rfl
  · rfl

@[simp] theorem crossbarAccesses_slow (k : Nat) (r : Acc) : (crossbarAccesses k r).s.slow = r.s.slow := by
  unfold crossbarAccesses
  dsimp only
  have e : ∀ (r1 : Acc), ((List.range 4).foldl (fun (q : Acc) j =>
    match ((r.s.spire k).xb.streams.get Stream.reset j).turn with
    | some t => if !t.isGet && decide (t.from_ ≤ q.s.cyc) && q.s.ownsSlot k j t.stack true (putLead k t.stack)
        then readPut k t j q else q
    | none => q) r1).s.slow = r1.s.slow := fun r1 =>
    foldl_keeps (fun q : Acc => q.s.slow) _ _ _ (fun q j => by (repeat' split) <;> simp)
  have e0 : ∀ l : List Beat, (l.foldl (fun q b => writeGet k b q) r).s.slow = r.s.slow := fun l =>
    foldl_keeps (fun q : Acc => q.s.slow) _ _ _ (fun q b => writeGet_slow k b q)
  split
  · exact (e _).trans (e0 _)
  · exact ((markBeats_slow _ _ _).trans (loseWrites_slow _ _ _)).trans ((e _).trans (e0 _))

@[simp] theorem undo_slow (k : Nat) (x : Recent) (s : State) : (undo k x s).slow = s.slow := by
  unfold undo
  (repeat' split) <;> first | with_reducible rfl | simp

@[simp] theorem fetchClash_slow (k a : Nat) (s : State) : (fetchClash k a s).slow = s.slow := by
  unfold fetchClash
  (repeat' split) <;> simp [*, foldl_slow]

@[simp] theorem landResults_slow (k : Nat) (s : State) : (landResults k s).slow = s.slow := (rfl)

@[simp] theorem issueVa_slow (k pc : Nat) (o : VaOp) (s : State) : (issueVa k pc o s).slow = s.slow := by
  unfold issueVa
  (repeat' split) <;> simp

@[simp] theorem issueVl_slow (k pc : Nat) (b : Bank) (o : VlOp) (s : State) : (issueVl k pc b o s).slow = s.slow := by
  unfold issueVl
  dsimp only
  (repeat' split) <;> simp

@[simp] theorem issueVs_slow (k pc : Nat) (b : Bank) (o : VsOp) (s : State) : (issueVs k pc b o s).slow = s.slow := by
  unfold issueVs
  dsimp only
  (repeat' split) <;> simp

@[simp] theorem issueVector_slow (k pc : Nat) (x : Bundle) (s : State) : (issueVector k pc x s).slow = s.slow := by
  unfold issueVector
  dsimp only
  split <;> simp

@[simp] theorem suppressStores_slow (k : Nat) (inS : Bool) (s : State) : (suppressStores k inS s).slow = s.slow := by
  unfold suppressStores
  refine foldl_slow _ _ _ (fun t x => ?_)
  split
  · split <;> rfl
  · rfl

@[simp] theorem residueStop_slow (k : Nat) (f : VFlight) (x : Nat) (s0 : State) : (residueStop k f x s0).slow = s0.slow := by
  unfold residueStop
  dsimp only
  (repeat' split) <;> simp

@[simp] theorem loadChecked_slow (k : Nat) (f : VFlight) (s : State) (e : Nat × Nat) : (loadChecked k f s e).slow = s.slow := by
  unfold loadChecked
  dsimp only
  (repeat' split) <;> first | with_reducible rfl | simp

@[simp] theorem landNow_slow (k : Nat) (f : VFlight) (s : State) : (landNow k f s).slow = s.slow := by
  unfold landNow
  (repeat' split) <;> first | with_reducible rfl | simp

@[simp] theorem vectorResult_slow (k : Nat) (mismatch : Option Nat) (errs : List (Nat × Nat)) (s : State) : (vectorResult k mismatch errs s).slow = s.slow := by
  unfold vectorResult
  split
  · rfl
  · split
    · rfl
    · rename_i f _ _
      have e : (errs.foldl (loadChecked k f) s).slow = s.slow := foldl_slow _ _ _ (fun t x => loadChecked_slow _ _ _ _)
      dsimp only
      split
      · split
        · simp
        · exact (landNow_slow _ _ _).trans e
      · exact (landNow_slow _ _ _).trans e

@[simp] theorem startIssue_slow (k : Nat) (inS : Bool) (a pc : Nat) (s : State) : (startIssue k inS a pc s).slow = s.slow := (rfl)

@[simp] theorem endContext_slow (k code : Nat) (s : State) : (endContext k code s).slow = s.slow := by
  unfold endContext
  simp

@[simp] theorem holdDone_slow (k : Nat) (inS : Bool) (h : Hold) (s : State) : (holdDone k inS h s).slow = s.slow := by
  unfold holdDone
  split <;> simp

@[simp] theorem beginHold_slow (k : Nat) (inS : Bool) (h : Hold) (s : State) : (beginHold k inS h s).slow = s.slow := by
  unfold beginHold
  (repeat' split) <;> simp

@[simp] theorem holdRelease_slow (k : Nat) (s : State) : (holdRelease k s).slow = s.slow := by
  unfold holdRelease
  dsimp only
  (repeat' split) <;> simp

@[simp] theorem wend_slow (k pc : Nat) (s : State) : (wend k pc s).slow = s.slow := by
  unfold wend
  dsimp only
  (repeat' split) <;> simp

@[simp] theorem stepOn_slow (k pc : Nat) (inS : Bool) (s : State) : (stepOn k pc inS s).slow = s.slow := (rfl)

@[simp] theorem takeBranch_slow (k t : Nat) (inS : Bool) (s : State) : (takeBranch k t inS s).slow = s.slow := (rfl)

@[simp] theorem runCtl_slow (k pc : Nat) (op : CtlOp) (s : State) : (runCtl k pc op s).slow = s.slow := by
  unfold runCtl
  dsimp only
  (repeat' split) <;> simp

@[simp] theorem issueXf_slow (k pc : Nat) (x : XfOp) (s : State) : (issueXf k pc x s).slow = s.slow := by
  unfold issueXf
  split <;> rfl

@[simp] theorem deliver_slow (k : Nat) (ip : Bool) (s : State) : (deliver k ip s).slow = s.slow := by
  unfold deliver
  dsimp only
  split <;> rfl

@[simp] theorem issueSlots_slow (k pc : Nat) (b : Bundle) (s : State) : (issueSlots k pc b s).slow = s.slow := by
  unfold issueSlots
  simp

@[simp] theorem issueFetched_slow (k : Nat) (differ : Bool) (n : Nat) (s : State) : (issueFetched k differ n s).slow = s.slow := by
  unfold issueFetched
  dsimp only
  (repeat' split) <;> simp

@[simp] theorem bundleIssue_slow (k : Nat) (differ : Bool) (n : Nat) (s : State) : (bundleIssue k differ n s).slow = s.slow := by
  unfold bundleIssue
  (repeat' split) <;> first | with_reducible rfl | simp

@[simp] theorem ctlIssue_slow (k : Nat) (op : CtlOp) (s : State) : (ctlIssue k op s).slow = s.slow := by
  unfold ctlIssue
  (repeat' split) <;> simp

@[simp] theorem refuseIssue_slow (k st : Nat) (i : IssueCheck) (s : State) : (refuseIssue k st i s).slow = s.slow := by
  unfold refuseIssue
  simp

@[simp] theorem readIssue_slow (k : Nat) (i : IssueCheck) (s : State) : (readIssue k i s).slow = s.slow := by
  unfold readIssue
  dsimp only
  (repeat' split) <;> first | with_reducible rfl | simp

@[simp] theorem readIssues_slow (k : Nat) (s : State) : (readIssues k s).slow = s.slow := by
  unfold readIssues
  (repeat' split) <;> first | with_reducible rfl | simp [*, foldl_slow, apply_ite State.slow]

@[simp] theorem decideIssue_slow (k : Nat) (i : IssueCheck) (s : State) : (decideIssue k i s).slow = s.slow := by
  unfold decideIssue
  dsimp only
  (repeat' split) <;> simp

@[simp] theorem issueRow_slow (k desc : Nat) (s : State) : (issueRow k desc s).slow = s.slow := by
  unfold issueRow
  split <;> simp

@[simp] theorem setPhase_slow (k : Nat) (x : VuPhase) (s : State) : (setPhase k x s).slow = s.slow := (rfl)

@[simp] theorem shadowFaultDrained_slow (k : Nat) (s : State) : (shadowFaultDrained k s).slow = s.slow := by
  unfold shadowFaultDrained
  split <;> rfl

@[simp] theorem afterDrain_slow (k : Nat) (why : DrainReason) (s : State) : (afterDrain k why s).slow = s.slow := by
  unfold afterDrain
  dsimp only
  (repeat' split) <;> simp

@[simp] theorem endDrained_slow (k : Nat) (s : State) : (endDrained k s).slow = s.slow := by
  unfold endDrained
  split <;> simp

@[simp] theorem shadowWaits_slow (k : Nat) (s : State) : (shadowWaits k s).slow = s.slow := by
  unfold shadowWaits
  dsimp only
  split <;> rfl

@[simp] theorem drainComplete_slow (k : Nat) (s : State) : (drainComplete k s).slow = s.slow := by
  unfold drainComplete
  (repeat' split) <;> simp

@[simp] theorem shadowAt_slow (k pc : Nat) (s : State) : (shadowAt k pc s).slow = s.slow := (rfl)

@[simp] theorem enterReclaim_slow (k : Nat) (s : State) : (enterReclaim k s).slow = s.slow := (rfl)

@[simp] theorem enterShadow_slow (k : Nat) (s : State) : (enterShadow k s).slow = s.slow := by
  unfold enterShadow
  dsimp only
  (repeat' split) <;> simp

@[simp] theorem enterMain_slow (k : Nat) (s : State) : (enterMain k s).slow = s.slow := by
  unfold enterMain
  simp

@[simp] theorem bankSwitchComplete_slow (k : Nat) (s : State) : (bankSwitchComplete k s).slow = s.slow := by
  unfold bankSwitchComplete
  (repeat' split) <;> simp

@[simp] theorem stopForWindow_slow (k : Nat) (s : State) : (stopForWindow k s).slow = s.slow := by
  unfold stopForWindow
  dsimp only
  (repeat' split) <;> simp

@[simp] theorem windowStart_slow (k : Nat) (s : State) : (windowStart k s).slow = s.slow := by
  unfold windowStart
  dsimp only
  (repeat' split) <;> simp

@[simp] theorem windowOverrun_slow (k : Nat) (s : State) : (windowOverrun k s).slow = s.slow := by
  unfold windowOverrun
  (repeat' split) <;> simp

@[simp] theorem windowEndReclaim_slow (k : Nat) (s : State) : (windowEndReclaim k s).slow = s.slow := by
  unfold windowEndReclaim
  dsimp only
  (repeat' split) <;> simp

@[simp] theorem windowEndMain_slow (k : Nat) (s : State) : (windowEndMain k s).slow = s.slow := by
  unfold windowEndMain
  dsimp only
  (repeat' split) <;> simp

@[simp] theorem windowEnd_slow (k : Nat) (s : State) : (windowEnd k s).slow = s.slow := by
  unfold windowEnd
  dsimp only
  (repeat' split) <;> simp

@[simp] theorem setStart_slow (k pc ivec threads : Nat) (starts : List Nat) (s : State) : (setStart k pc ivec threads starts s).slow = s.slow := (rfl)

@[simp] theorem spireLoad_slow (k : Nat) (img : RadioImage) (s : State) : (spireLoad k img s).slow = s.slow := by
  unfold spireLoad
  (repeat' split) <;> first | with_reducible rfl | simp

@[simp] theorem spireStart_slow (k : Nat) (s : State) : (spireStart k s).slow = s.slow := by
  unfold spireStart
  dsimp only
  (repeat' split) <;> simp

@[simp] theorem spireStartTime_slow (k : Nat) (s : State) : (spireStartTime k s).slow = s.slow := by
  unfold spireStartTime
  dsimp only
  split <;> rfl

@[simp] theorem stopCommand_slow (mid k cause : Nat) (s : State) : (stopCommand mid k cause s).slow = s.slow := by
  unfold stopCommand
  dsimp only
  (repeat' split) <;> first | with_reducible rfl | simp

@[simp] theorem resumeSpire_slow (k : Nat) (s : State) : (resumeSpire k s).slow = s.slow := by
  unfold resumeSpire
  dsimp only
  (repeat' split) <;> first | with_reducible rfl | simp

@[simp] theorem resumeCommand_slow (mid k cause : Nat) (s : State) : (resumeCommand mid k cause s).slow = s.slow := by
  unfold resumeCommand
  (repeat' split) <;> simp

@[simp] theorem abortCommand_slow (mid k : Nat) (s : State) : (abortCommand mid k s).slow = s.slow := by
  unfold abortCommand
  dsimp only
  (repeat' split) <;> simp

@[simp] theorem fenceCommand_slow (mid k : Nat) (s : State) : (fenceCommand mid k s).slow = s.slow := by
  unfold fenceCommand
  split <;> simp

@[simp] theorem returnSpire_slow (k : Nat) (s : State) : (returnSpire k s).slow = s.slow := by
  unfold returnSpire
  split <;> simp

@[simp] theorem wipeComplete_slow (k : Nat) (s : State) : (wipeComplete k s).slow = s.slow := by
  unfold wipeComplete
  dsimp only
  split <;> rfl

@[simp] theorem tileLoadStart_slow (k : Nat) (s : State) : (tileLoadStart k s).slow = s.slow := by
  unfold tileLoadStart
  dsimp only
  split <;> rfl

@[simp] theorem taintLoading_slow (k n : Nat) (s : State) : (taintLoading k n s).slow = s.slow := by
  unfold taintLoading
  split <;> rfl

@[simp] theorem loadRead_slow (k a : Nat) (r : Acc) : (loadRead k a r).2.s.slow = r.s.slow := by
  unfold loadRead
  dsimp only
  (repeat' split) <;> simp

@[simp] theorem loadStep_slow (k : Nat) (d : PassDesc) (i : Nat) (r : Acc) : (loadStep k d i r).s.slow = r.s.slow := by
  unfold loadStep
  refine (foldl_keeps (fun q : Acc => q.s.slow) _ _ _ (fun q m => by simp)).trans ?_
  split
  · exact foldl_keeps (fun q : Acc => q.s.slow) _ _ _ (fun q m => by simp)
  · rfl

@[simp] theorem loadAccesses_slow (k : Nat) (r : Acc) : (loadAccesses k r).s.slow = r.s.slow := by
  unfold loadAccesses
  dsimp only
  (repeat' split) <;> simp

@[simp] theorem passStart_slow (k : Nat) (s : State) : (passStart k s).slow = s.slow := by
  unfold passStart
  dsimp only
  (repeat' split) <;> simp

@[simp] theorem passSwap_slow (k : Nat) (s : State) : (passSwap k s).slow = s.slow := by
  unfold passSwap
  dsimp only
  (repeat' split) <;> simp

@[simp] theorem modPass_slow (k n : Nat) (f : Pass → Pass) (s : State) : (modPass k n f s).slow = s.slow := (rfl)

@[simp] theorem streamWord_slow (k : Nat) (b : BitVec 64) (a : Nat) (s : State) : (streamWord k b a s).2.slow = s.slow := by
  unfold streamWord
  (repeat' split) <;> rfl

@[simp] theorem streamRead_slow (k : Nat) (b : BitVec 64) (l : List Nat) (s : State) : (streamRead k b l s).2.2.slow = s.slow := by
  induction l generalizing s with
  | nil => rfl
  | cons a r ih => unfold streamRead; simp [ih]

@[simp] theorem readInits_slow (k : Nat) (p : Pass) (j : Nat) (s : State) : (readInits k p j s).2.2.slow = s.slow := by
  unfold readInits
  exact foldl_keeps (fun q : Nat × Nat × State => q.2.2.slow) _ _ _ (fun q x => by dsimp only; exact streamRead_slow _ _ _ _)

@[simp] theorem vectorEnter_slow (k : Nat) (p : Pass) (s : State) : (vectorEnter k p s).slow = s.slow := by
  unfold vectorEnter
  dsimp only
  (repeat' split) <;> first | with_reducible rfl | simp

@[simp] theorem vectorsEnter_slow (k : Nat) (s : State) : (vectorsEnter k s).slow = s.slow := by
  unfold vectorsEnter
  (repeat' split) <;> first | with_reducible rfl | simp [*, foldl_slow, apply_ite State.slow]

@[simp] theorem recordDisagreement_slow (k : Nat) (p : Pass) (row imag : Bool) (vector : Nat) (diff : Int) (inexact : Nat) (s : State) : (recordDisagreement k p row imag vector diff inexact s).slow = s.slow := by
  unfold recordDisagreement
  (repeat' split) <;> first | with_reducible rfl | simp

@[simp] theorem reportDispute_slow (k : Nat) (p : Pass) (ref : RefSide) (s : State) : (reportDispute k p ref s).slow = s.slow := (rfl)

@[simp] theorem disagreement_slow (k : Nat) (p : Pass) (ref : RefSide) (diff : Int) (inexact : Nat) (s : State) : (disagreement k p ref diff inexact s).slow = s.slow := by
  unfold disagreement
  extract_lets x1 x2 x3 x4 x5 x6 x7 x8 x9
  try (have hx1 : State.slow x1 = s.slow := (by simp only [x1]; (repeat' split) <;> first | with_reducible rfl | simp [*, foldl_slow, apply_ite State.slow]); clear_value x1)
  try (have hx2 : State.slow x2 = s.slow := (by simp only [x2]; (repeat' split) <;> first | with_reducible rfl | simp [*, foldl_slow, apply_ite State.slow]); clear_value x2)
  try (have hx3 : State.slow x3 = s.slow := (by simp only [x3]; (repeat' split) <;> first | with_reducible rfl | simp [*, foldl_slow, apply_ite State.slow]); clear_value x3)
  try (have hx4 : State.slow x4 = s.slow := (by simp only [x4]; (repeat' split) <;> first | with_reducible rfl | simp [*, foldl_slow, apply_ite State.slow]); clear_value x4)
  try (have hx5 : State.slow x5 = s.slow := (by simp only [x5]; (repeat' split) <;> first | with_reducible rfl | simp [*, foldl_slow, apply_ite State.slow]); clear_value x5)
  try (have hx6 : State.slow x6 = s.slow := (by simp only [x6]; (repeat' split) <;> first | with_reducible rfl | simp [*, foldl_slow, apply_ite State.slow]); clear_value x6)
  try (have hx7 : State.slow x7 = s.slow := (by simp only [x7]; (repeat' split) <;> first | with_reducible rfl | simp [*, foldl_slow, apply_ite State.slow]); clear_value x7)
  try (have hx8 : State.slow x8 = s.slow := (by simp only [x8]; (repeat' split) <;> first | with_reducible rfl | simp [*, foldl_slow, apply_ite State.slow]); clear_value x8)
  try (have hx9 : State.slow x9 = s.slow := (by simp only [x9]; (repeat' split) <;> first | with_reducible rfl | simp [*, foldl_slow, apply_ite State.slow]); clear_value x9)
  (repeat' split) <;> first | with_reducible rfl | simp [*, foldl_slow, apply_ite State.slow]

@[simp] theorem vectorPart_slow (k : Nat) (p : Pass) (v : VecIn) (r : VecResult) (u : ArrayUpset) (im : Bool) (s : State) : (vectorPart k p v r u im s).slow = s.slow := by
  unfold vectorPart
  dsimp only
  (repeat' split) <;> simp

@[simp] theorem ceasedPart_slow (k : Nat) (p : Pass) (v : VecIn) (r : VecResult) (u : ArrayUpset) (im : Bool) (s : State) : (ceasedPart k p v r u im s).slow = s.slow := by
  unfold ceasedPart
  dsimp only
  (repeat' split) <;> first | with_reducible rfl | simp

@[simp] theorem ceasedCheck_slow (k : Nat) (u : ArrayUpset) (s : State) : (ceasedCheck k u s).slow = s.slow := by
  unfold ceasedCheck
  dsimp only
  (repeat' split) <;> first | with_reducible rfl | simp

@[simp] theorem perVectorCheck_slow (k : Nat) (u : ArrayUpset) (s : State) : (perVectorCheck k u s).slow = s.slow := by
  unfold perVectorCheck
  dsimp only
  (repeat' split) <;> simp

@[simp] theorem rowPart_slow (k : Nat) (p : Pass) (u : ArrayUpset) (im : Bool) (s : State) : (rowPart k p u im s).slow = s.slow := by
  unfold rowPart
  (repeat' split) <;> first | with_reducible rfl | simp

@[simp] theorem ceasedRowPart_slow (k : Nat) (p : Pass) (u : ArrayUpset) (im : Bool) (s : State) : (ceasedRowPart k p u im s).slow = s.slow := by
  unfold ceasedRowPart
  (repeat' split) <;> first | with_reducible rfl | simp

@[simp] theorem ceasedRow_slow (k : Nat) (u : ArrayUpset) (s : State) : (ceasedRow k u s).slow = s.slow := by
  unfold ceasedRow
  dsimp only
  (repeat' split) <;> first | with_reducible rfl | simp

@[simp] theorem checksumRowStep_slow (k : Nat) (u : ArrayUpset) (s : State) : (checksumRowStep k u s).slow = s.slow := by
  unfold checksumRowStep
  dsimp only
  (repeat' split) <;> simp

@[simp] theorem dropHeld_slow (k : Nat) (p : Pass) (s : State) : (dropHeld k p s).slow = s.slow := by
  unfold dropHeld
  simp

@[simp] theorem abandonTainted_slow (k : Nat) (p : Pass) (s : State) : (abandonTainted k p s).slow = s.slow := by
  unfold abandonTainted
  dsimp only
  (repeat' split) <;> simp

@[simp] theorem passRelease_slow (k : Nat) (s : State) : (passRelease k s).slow = s.slow := by
  unfold passRelease
  (repeat' split) <;> simp

@[simp] theorem State.setTile_slow (s : State) (n : Nat) (e : TileEntry) : (State.setTile s n e).slow = s.slow := (rfl)

@[simp] theorem State.modTile_slow (s : State) (n : Nat) (f : TileEntry → TileEntry) : (State.modTile s n f).slow = s.slow := (rfl)

@[simp] theorem takePlaces_slow (h : Nat) (ps : List Nat) (s : State) : (takePlaces h ps s).slow = s.slow := (rfl)

@[simp] theorem freePlace_slow (h p : Nat) (s : State) : (freePlace h p s).slow = s.slow := (rfl)

@[simp] theorem zeroPlace_slow (h p : Nat) (s : State) : (zeroPlace h p s).slow = s.slow := (rfl)

@[simp] theorem trimFlash_slow (n : Nat) (s : State) : (trimFlash n s).slow = s.slow := by
  unfold trimFlash
  (repeat' split) <;> first | with_reducible rfl | simp

@[simp] theorem loseTile_slow (n : Nat) (s : State) : (loseTile n s).slow = s.slow := (rfl)

@[simp] theorem State.modCopy_slow (s : State) (n : Nat) (f : TileCopy → TileCopy) : (State.modCopy s n f).slow = s.slow := (rfl)

@[simp] theorem endCopy_slow (n : Nat) (s : State) : (endCopy n s).slow = s.slow := by
  unfold endCopy
  (repeat' split) <;> first | with_reducible rfl | simp

@[simp] theorem releaseMovePlaces_slow (m : MoveJob) (s : State) : (releaseMovePlaces m s).slow = s.slow := by
  unfold releaseMovePlaces
  (repeat' split) <;> first | with_reducible rfl | simp [*, foldl_slow, apply_ite State.slow]

@[simp] theorem stopTile_slow (t : State) (n : Nat) : (stopTile t n).slow = t.slow := by
  unfold stopTile
  (repeat' split) <;> first | with_reducible rfl | simp

@[simp] theorem stopMove_slow (m : MoveJob) (s : State) : (stopMove m s).slow = s.slow := by
  unfold stopMove
  extract_lets x1
  try (have hx1 : State.slow x1 = s.slow := (by simp only [x1]; (repeat' split) <;> first | with_reducible rfl | simp [*, foldl_slow, apply_ite State.slow]); clear_value x1)
  (repeat' split) <;> first | with_reducible rfl | simp [*, foldl_slow, apply_ite State.slow]

@[simp] theorem loseTower_slow (t : Nat) (s : State) : (loseTower t s).slow = s.slow := by
  unfold loseTower
  (repeat' split) <;> simp [*, foldl_slow]

@[simp] theorem readXferDesc_slow (k : Nat) (r : XfReq) (s : State) : (readXferDesc k r s).slow = s.slow := by
  unfold readXferDesc
  dsimp only
  (repeat' split) <;> simp

@[simp] theorem readXferDescs_slow (k : Nat) (s : State) : (readXferDescs k s).slow = s.slow := by
  unfold readXferDescs
  (repeat' split) <;> first | with_reducible rfl | simp [*, foldl_slow, apply_ite State.slow]

@[simp] theorem transferAccept_slow (k : Nat) (s : State) : (transferAccept k s).slow = s.slow := by
  unfold transferAccept
  dsimp only
  (repeat' split) <;> simp

@[simp] theorem countCommand_slow (h x : Nat) (s : State) : (countCommand h x s).slow = s.slow := by
  unfold countCommand
  (repeat' split) <;> first | with_reducible rfl | simp

@[simp] theorem putBeat_slow (k : Nat) (b : Beat) (errs : List (Nat × Nat)) (s : State) : (putBeat k b errs s).slow = s.slow := by
  unfold putBeat
  dsimp only
  simp only [countCommand_slow, countSpire_slow, State.modXb_slow, State.modStack_slow]
  exact passWords_slow _ (fun c t => storeChecked_slow _ _ _) _ _ _

@[simp] theorem takeBeat_slow (k j : Nat) (x : Xfer) (w : Words) (s : State) : (takeBeat k j x w s).slow = s.slow := (rfl)

@[simp] theorem takeCopy_slow (x : Xfer) (w : Words) (s : State) (m : Nat) : (takeCopy x w s m).slow = s.slow := by
  unfold takeCopy
  (repeat' split) <;> first | with_reducible rfl | simp

@[simp] theorem getBeat_slow (k j : Nat) (x : Xfer) (errs : List (Nat × Nat)) (s : State) : (getBeat k j x errs s).slow = s.slow := by
  unfold getBeat
  dsimp only
  rw [countCommand_slow]
  refine (foldl_slow _ _ _ (fun t n => takeCopy_slow _ _ _ _)).trans ?_
  rw [takeBeat_slow]
  exact passWords_slow _ (fun c t => stackChecked_slow _ _ _) _ _ _

@[simp] theorem hbmBeat_slow (k j : Nat) (errs : List (Nat × Nat)) (s : State) : (hbmBeat k j errs s).slow = s.slow := by
  unfold hbmBeat
  dsimp only
  (repeat' split) <;> simp

@[simp] theorem transferComplete_slow (k j : Nat) (s : State) : (transferComplete k j s).slow = s.slow := by
  unfold transferComplete
  dsimp only
  (repeat' split) <;> simp

@[simp] theorem arrive_slow (h : Nat) (op : OpenOp) (tile : Option Nat) (s : State) : (arrive h op tile s).slow = s.slow := by
  unfold arrive
  simp

@[simp] theorem countWaits_slow (h : Nat) (s : State) : (countWaits h s).slow = s.slow := by
  unfold countWaits
  dsimp only
  split <;> simp

@[simp] theorem denyHost_slow (s : State) : (denyHost s).slow = s.slow := (rfl)

@[simp] theorem readBeat_slow (h a : Nat) (errs : List (Nat × Nat)) (s : State) : (readBeat h a errs s).2.slow = s.slow := by
  unfold readBeat
  exact passWords_slow _ (fun c t => stackChecked_slow _ _ _) _ _ _

@[simp] theorem hostRead_slow (tag addr len : Nat) (errs : List (Nat × Nat)) (s : State) : (hostRead tag addr len errs s).slow = s.slow := by
  unfold hostRead
  dsimp only
  (repeat' split) <;> simp

@[simp] theorem hostWriteWord_slow (h : Nat) (poison : Bool) (s : State) (w : Nat × List Byte) : (hostWriteWord h poison s w).slow = s.slow := by
  unfold hostWriteWord
  dsimp only
  split <;> rfl

@[simp] theorem hostWrite_slow (tag addr : Nat) (data : List Byte) (poison : Bool) (s : State) : (hostWrite tag addr data poison s).slow = s.slow := by
  unfold hostWrite
  (repeat' split) <;> simp [*, foldl_slow, apply_ite State.slow]

@[simp] theorem moveBeat_slow (h n b : Nat) (write : Bool) (errs : List (Nat × Nat)) (s : State) : (moveBeat h n b write errs s).slow = s.slow := by
  unfold moveBeat
  dsimp only
  (repeat' split) <;> first | with_reducible rfl | simp

@[simp] theorem performOpen_slow (h : Nat) (op : OpenOp) (errs : List (Nat × Nat)) (s : State) : (performOpen h op errs s).slow = s.slow := by
  unfold performOpen
  split <;> simp

@[simp] theorem issueMoves_slow (h : Nat) (s : State) (n : Nat) : (issueMoves h s n).slow = s.slow := by
  induction n generalizing s with
  | zero => rfl
  | succ n ih => unfold issueMoves; (repeat' split) <;> simp [ih]

@[simp] theorem openSlot_slow (h : Nat) (errs : List (Nat × Nat)) (s : State) : (openSlot h errs s).slow = s.slow := by
  unfold openSlot
  dsimp only
  (repeat' split) <;> simp

@[simp] theorem refreshPoint_slow (h : Nat) (s : State) : (refreshPoint h s).slow = s.slow := by
  unfold refreshPoint
  dsimp only
  (repeat' split) <;> first | with_reducible rfl | simp

@[simp] theorem stackTemperature_slow (h : Nat) (temp : Int) (s : State) : (stackTemperature h temp s).slow = s.slow := (rfl)

@[simp] theorem denyOp_slow (s : State) (op : OpenOp) : (denyOp s op).slow = s.slow := by
  unfold denyOp
  (repeat' split) <;> first | with_reducible rfl | simp

@[simp] theorem dropQueues_slow (t : Nat) (s : State) : (dropQueues t s).slow = s.slow := by
  unfold dropQueues
  exact foldl_slow _ _ _ (fun u h => (foldl_slow _ _ _ (fun v o => denyOp_slow _ _)).trans rfl)

@[simp] theorem bootWipeStart_slow (h : Nat) (s : State) : (bootWipeStart h s).slow = s.slow := by
  unfold bootWipeStart
  split <;> rfl

@[simp] theorem bootWipeComplete_slow (h : Nat) (s : State) : (bootWipeComplete h s).slow = s.slow := by
  unfold bootWipeComplete
  split <;> rfl

@[simp] theorem placeWipeComplete_slow (h : Nat) (s : State) : (placeWipeComplete h s).slow = s.slow := by
  unfold placeWipeComplete
  dsimp only
  (repeat' split) <;> simp

@[simp] theorem setLogBit_slow (tile bit : Nat) (s : State) : (setLogBit tile bit s).slow = s.slow := by
  unfold setLogBit
  dsimp only
  (repeat' split) <;> first | with_reducible rfl | simp

@[simp] theorem logPage_slow (n : Nat) (s : State) (page : Nat) : (logPage n s page).slow = s.slow := by
  unfold logPage
  dsimp only
  split <;> simp

@[simp] theorem writeHost_slow (n addr : Nat) (data : List Byte) (s : State) : (writeHost n addr data s).slow = s.slow := by
  unfold writeHost
  (repeat' split) <;> simp [*, foldl_slow]

@[simp] theorem startFlashWrites_slow (s : State) : (startFlashWrites s).slow = s.slow := by
  unfold startFlashWrites
  (repeat' split) <;> first | with_reducible rfl | simp [*, foldl_slow, apply_ite State.slow]

@[simp] theorem allocHbm_slow (tiles : List Nat) (h lease : Nat) (radio : Bool) (pin : Nat) (s : State) : (allocHbm tiles h lease radio pin s).slow = s.slow := by
  unfold allocHbm
  (repeat' split) <;> simp [*, foldl_slow]

@[simp] theorem allocFlash_slow (tiles : List Nat) (lease : Nat) (radio : Bool) (s : State) : (allocFlash tiles lease radio s).slow = s.slow := by
  have step : ∀ (t : State) (n : Nat), ({ t with flash := { t.flash with waits := t.flash.waits ++ [n] } } : State).slow = t.slow :=
    fun _ _ => rfl
  unfold allocFlash
  refine (startFlashWrites_slow _).trans (foldl_slow _ _ _ (fun t n => ?_))
  exact (State.setTile_slow _ _ _).trans ((step _ _).trans (trimFlash_slow n t))


@[simp] theorem allocBody_slow (iss : Issuer) (a : AllocArgs) (s : State) : (allocBody iss a s).1.slow = s.slow := by
  unfold allocBody
  dsimp only
  (repeat' split) <;> simp

@[simp] theorem freeTile_slow (n : Nat) (s : State) : (freeTile n s).slow = s.slow := by
  unfold freeTile
  dsimp only
  (repeat' split) <;> first | with_reducible rfl | simp

@[simp] theorem freeBody_slow (iss : Issuer) (first count : Nat) (s : State) : (freeBody iss first count s).1.slow = s.slow := by
  unfold freeBody
  dsimp only
  (repeat' split) <;> simp [*, foldl_slow]

@[simp] theorem pinBody_slow (iss : Issuer) (first count : Nat) (s : State) : (pinBody iss first count s).1.slow = s.slow := by
  unfold pinBody
  dsimp only
  (repeat' split) <;> simp [*, foldl_slow]

@[simp] theorem unpinBody_slow (iss : Issuer) (first count : Nat) (s : State) : (unpinBody iss first count s).1.slow = s.slow := by
  unfold unpinBody
  dsimp only
  (repeat' split) <;> simp [*, foldl_slow]

@[simp] theorem queryBody_slow (iss : Issuer) (first count buffer : Nat) (s : State) : (queryBody iss first count buffer s).1.slow = s.slow := by
  unfold queryBody
  dsimp only
  (repeat' split) <;> simp

@[simp] theorem assignBody_slow (iss : Issuer) (first count lease : Nat) (s : State) : (assignBody iss first count lease s).1.slow = s.slow := by
  unfold assignBody
  dsimp only
  (repeat' split) <;> simp [*, foldl_slow]

@[simp] theorem boundaryBody_slow (iss : Issuer) (lease : Nat) (leaves joins : List TileRange) (s : State) : (boundaryBody iss lease leaves joins s).1.slow = s.slow := by
  unfold boundaryBody
  dsimp only
  (repeat' split) <;> simp [*, foldl_slow]

@[simp] theorem moveBody_slow (iss : Issuer) (a : MoveArgs) (s : State) : (moveBody iss a s).1.slow = s.slow := by
  unfold moveBody
  (repeat' split) <;> simp [*, foldl_slow, apply_ite State.slow]

@[simp] theorem rerouteHost_slow (n old new : Nat) (s : State) : (rerouteHost n old new s).slow = s.slow := by
  unfold rerouteHost
  (repeat' split) <;> first | with_reducible rfl | simp

@[simp] theorem commitHbm_slow (m : MoveJob) (n : Nat) (s : State) : (commitHbm m n s).slow = s.slow := by
  unfold commitHbm
  dsimp only
  (repeat' split) <;> first | with_reducible rfl | simp

@[simp] theorem commitFlash_slow (m : MoveJob) (n : Nat) (s : State) : (commitFlash m n s).slow = s.slow := by
  unfold commitFlash
  split <;> rfl

@[simp] theorem commitTile_slow (m : MoveJob) (s : State) : (commitTile m s).1.slow = s.slow := by
  unfold commitTile
  dsimp only
  (repeat' split) <;> simp

@[simp] theorem moveTileCommit_slow (s : State) : (moveTileCommit s).slow = s.slow := by
  unfold moveTileCommit
  dsimp only
  (repeat' split) <;> simp

@[simp] theorem dropFlashTiles_slow (s : State) : (dropFlashTiles s).slow = s.slow := by
  unfold dropFlashTiles
  (repeat' split) <;> first | with_reducible rfl | simp [*, foldl_slow, apply_ite State.slow]

@[simp] theorem tileMapRebuild_slow (x : FlashFound) (s : State) : (tileMapRebuild x s).slow = s.slow := by
  unfold tileMapRebuild
  split
  · rfl
  · extract_lets f present tr s1
    have e : s1.slow = s.slow := rfl
    clear_value s1 tr present f
    split
    · exact (dropFlashTiles_slow _).trans e
    · split
      · exact e
      · exact (foldl_slow _ _ _ (fun t n => by simp)).trans e


@[simp] theorem State.modBe_slow (s : State) (f : BeState → BeState) : (State.modBe s f).slow = s.slow := (rfl)

@[simp] theorem State.modBeQueue_slow (s : State) (n q : Nat) (f : BeQueue → BeQueue) : (State.modBeQueue s n q f).slow = s.slow := (rfl)

@[simp] theorem State.modMeter_slow (s : State) (m : Nat) (f : Meter → Meter) : (State.modMeter s m f).slow = s.slow := (rfl)

@[simp] theorem enqueue_slow (n q : Nat) (c : Cell) (s : State) : (enqueue n q c s).slow = s.slow := (rfl)

@[simp] theorem beDrop_slow (n q k : Nat) (s : State) : (beDrop n q k s).slow = s.slow := (rfl)

@[simp] theorem beDeliver_slow (c : Cell) (s : State) : (beDeliver c s).slow = s.slow := by
  unfold beDeliver
  dsimp only
  split <;> simp

@[simp] theorem beMetered_slow (m : Nat) (r : Colour × Nat × Nat) (s : State) : (beMetered m r s).slow = s.slow := by
  unfold beMetered
  split <;> rfl

@[simp] theorem beRed_slow (m : Nat) (s : State) : (beRed m s).slow = s.slow := by
  unfold beRed
  simp

@[simp] theorem beSendBody_slow (iss : Issuer) (a : BeArgs) (s : State) : (beSendBody iss a s).1.slow = s.slow := by
  unfold beSendBody
  dsimp only
  (repeat' split) <;> simp

@[simp] theorem tokenRefill_slow (s : State) : (tokenRefill s).slow = s.slow := by
  unfold tokenRefill
  dsimp only
  split <;> rfl

@[simp] theorem beRouteCell_slow (c : Cell) (s : State) : (beRouteCell c s).slow = s.slow := by
  unfold beRouteCell
  (repeat' split) <;> simp

@[simp] theorem routeReady_slow (s : State) : (routeReady s).slow = s.slow := by
  unfold routeReady
  (repeat' split) <;> simp [*, foldl_slow]

@[simp] theorem beCellIn_slow (n readyAt : Nat) (c : Cell) (s : State) : (beCellIn n readyAt c s).slow = s.slow := by
  unfold beCellIn
  split <;> simp

@[simp] theorem beSendHead_slow (n q m : Nat) (s : State) : (beSendHead n q m s).slow = s.slow := by
  unfold beSendHead
  dsimp only
  (repeat' split) <;> simp

@[simp] theorem beDecide_slow (n m : Nat) (s : State) : (beDecide n m s).slow = s.slow := by
  unfold beDecide
  dsimp only
  (repeat' split) <;> simp

@[simp] theorem beDecideDue_slow (n : Nat) (s : State) (m : Option Nat) : (beDecideDue n s m).slow = s.slow := by
  unfold beDecideDue
  (repeat' split) <;> first | with_reducible rfl | simp

@[simp] theorem rewake_slow (n : Nat) (s : State) (q : Nat) : (rewake n s q).slow = s.slow := by
  unfold rewake
  (repeat' split) <;> first | with_reducible rfl | simp

@[simp] theorem beDecision_slow (n : Nat) (s : State) : (beDecision n s).slow = s.slow := by
  unfold beDecision
  extract_lets x1
  try (have hx1 : State.slow x1 = s.slow := (by simp only [x1]; (repeat' split) <;> first | with_reducible rfl | simp [*, foldl_slow, apply_ite State.slow]); clear_value x1)
  (repeat' split) <;> first | with_reducible rfl | simp [*, foldl_slow, apply_ite State.slow]

@[simp] theorem bePicked_slow (n m : Nat) (s : State) : (bePicked n m s).2.slow = s.slow := by
  unfold bePicked
  (repeat' split) <;> rfl

@[simp] theorem beLaneDown_slow (n : Nat) (s : State) : (beLaneDown n s).slow = s.slow := by
  unfold beLaneDown
  (repeat' split) <;> simp [*, foldl_slow]

@[simp] theorem beSample_slow (s : State) : (beSample s).slow = s.slow := by
  unfold beSample
  split <;> simp

@[simp] theorem rejectIncr_slow (s : State) : (rejectIncr s).slow = s.slow := (rfl)

@[simp] theorem timeIncrLoWrite_slow (mid : Nat) (v : Word) (s : State) : (timeIncrLoWrite mid v s).slow = s.slow := by
  unfold timeIncrLoWrite
  split <;> rfl

@[simp] theorem captureAt_slow (h : HallTime) (src lane : Nat) (rising : Bool) (s : State) : (captureAt h src lane rising s).slow = s.slow := by
  unfold captureAt
  (repeat' split) <;> first | with_reducible rfl | simp

@[simp] theorem capture_slow (src lane : Nat) (rising : Bool) (s : State) : (capture src lane rising s).slow = s.slow := by
  unfold capture
  simp

@[simp] theorem capStrobeWrite_slow (mid : Nat) (s : State) : (capStrobeWrite mid s).slow = s.slow := by
  unfold capStrobeWrite
  (repeat' split) <;> simp

@[simp] theorem timeLatch_slow (mid : Nat) (s : State) : (timeLatch mid s).slow = s.slow := by
  unfold timeLatch
  (repeat' split) <;> simp

@[simp] theorem setServo_slow (v : BitVec 3) (s : State) : (setServo v s).slow = s.slow := by
  unfold setServo
  simp

@[simp] theorem timeLocked_slow (s : State) : (timeLocked s).slow = s.slow := by
  unfold timeLocked
  split <;> simp

@[simp] theorem syncSeen_slow (offset : Int) (s : State) : (syncSeen offset s).slow = s.slow := (rfl)

@[simp] theorem ppsOutSecond_slow (s : State) : (ppsOutSecond s).slow = s.slow := by
  unfold ppsOutSecond
  split <;> rfl

@[simp] theorem ppsOutPulseEnd_slow (s : State) : (ppsOutPulseEnd s).slow = s.slow := by
  unfold ppsOutPulseEnd
  (repeat' split) <;> simp

@[simp] theorem State.modRm_slow (s : State) (f : RmState → RmState) : (State.modRm s f).slow = s.slow := (rfl)

@[simp] theorem State.modRmRegs_slow (s : State) (f : RmCounters → RmCounters) : (State.modRmRegs s f).slow = s.slow := (rfl)

@[simp] theorem State.modTag_slow (s : State) (ctx tag : Nat) (f : TagUse → TagUse) : (State.modTag s ctx tag f).slow = s.slow := (rfl)

@[simp] theorem rmArrive_slow (key : Nat) (r : RmRecord) (s0 : State) : (rmArrive key r s0).slow = s0.slow := by
  unfold rmArrive
  simp

@[simp] theorem State.modLine_slow (s : State) (n : Nat) (f : StageLine → StageLine) : (State.modLine s n f).slow = s.slow := (rfl)

@[simp] theorem rmTransmit_slow (r : RmRequest) (again : Bool) (s : State) : (rmTransmit r again s).slow = s.slow := by
  unfold rmTransmit
  (repeat' split) <;> simp

@[simp] theorem rmSend_slow (r : RmRequest) (s : State) : (rmSend r s).slow = s.slow := by
  unfold rmSend
  split <;> simp

@[simp] theorem rmPump_slow (s : State) : (rmPump s).slow = s.slow := by
  unfold rmPump
  (repeat' split) <;> first | with_reducible rfl | simp [*, foldl_slow, apply_ite State.slow]

@[simp] theorem rmIssue_slow (owner : RmOwner) (ctx lease job op dst : Nat) (addr operand swap : DWord) (s : State) : (rmIssue owner ctx lease job op dst addr operand swap s).slow = s.slow := by
  unfold rmIssue
  simp

@[simp] theorem State.modThread_slow (s : State) (k t : Nat) (f : Thread → Thread) : (State.modThread s k t f).slow = s.slow := (rfl)

@[simp] theorem threadReply_slow (k t rd status : Nat) (data : DWord) (s : State) : (threadReply k t rd status data s).slow = s.slow := (rfl)

@[simp] theorem rmAnswer_slow (r : RmRequest) (status : Nat) (data : DWord) (s : State) : (rmAnswer r status data s).slow = s.slow := by
  unfold rmAnswer
  (repeat' split) <;> simp

@[simp] theorem fenceDone_slow (f : RmFence) (s : State) : (fenceDone f s).slow = s.slow := by
  unfold fenceDone
  split <;> simp

@[simp] theorem fencesDone_slow (s : State) : (fencesDone s).slow = s.slow := by
  unfold fencesDone
  (repeat' split) <;> simp [*, foldl_slow]

@[simp] theorem rmFence_slow (owner : RmOwner) (ctx lease job : Nat) (s : State) : (rmFence owner ctx lease job s).slow = s.slow := by
  unfold rmFence
  (repeat' split) <;> simp [*, foldl_slow]

@[simp] theorem rmFinish_slow (r : RmRequest) (status : Nat) (data : DWord) (came : Bool) (s : State) : (rmFinish r status data came s).slow = s.slow := by
  unfold rmFinish
  dsimp only
  split <;> simp

@[simp] theorem replyOut_slow (r : RmRecord) (status : Nat) (data : DWord) (replayed : Bool) (s : State) : (replyOut r status data replayed s).slow = s.slow := (rfl)

@[simp] theorem keepReplay_slow (r : RmRecord) (status : Nat) (data : DWord) (s : State) : (keepReplay r status data s).slow = s.slow := (rfl)

@[simp] theorem answerGwFences_slow (src ctx : Nat) (s : State) : (answerGwFences src ctx s).slow = s.slow := by
  unfold answerGwFences
  (repeat' split) <;> simp [*, foldl_slow]

@[simp] theorem takeLine_slow (n : Nat) (r : RmRecord) (s : State) : (takeLine n r s).slow = s.slow := by
  unfold takeLine
  dsimp only
  split <;> simp

theorem placeLine_slow {r : RmRecord} {s u : State} (h : placeLine r s = some u) : u.slow = s.slow := by
  unfold placeLine at h
  revert h
  split
  · rintro ⟨⟩; simp
  · split
    · rintro ⟨⟩; simp
    · rintro ⟨⟩

@[simp] theorem retryWaiting_slow (s : State) : (retryWaiting s).slow = s.slow := by
  unfold retryWaiting
  refine foldl_slow _ _ _ (fun t r => ?_)
  split
  · rename_i u h; exact (State.modRm_slow u _).trans (placeLine_slow h)
  · rfl

@[simp] theorem lineDone_slow (n status : Nat) (data : Mem) (s : State) : (lineDone n status data s).slow = s.slow := by
  unfold lineDone
  extract_lets l s1 answer s2 note s3
  have ha : ∀ t r, (answer t r).slow = t.slow := by
    intro t r; simp only [answer]; split
    · rw [replyOut_slow, keepReplay_slow]
    · rw [replyOut_slow]
  have e1 : s1.slow = s.slow := State.modRm_slow _ _
  clear_value s1
  have e2 : s2.slow = s.slow := (foldl_slow answer l.reqs s1 ha).trans e1
  clear_value s2
  rw [retryWaiting_slow]
  simp only [s3]
  split
  · exact e2
  · rw [answerGwFences_slow]; exact (State.modRm_slow _ _).trans e2

@[simp] theorem rmFinal_slow (r : RmRequest) (status : Nat) (data : DWord) (came : Bool) (s : State) : (rmFinal r status data came s).slow = s.slow := by
  unfold rmFinal
  (repeat' split) <;> simp

@[simp] theorem loseBehind_slow (g : Nat) (s : State) : (loseBehind g s).slow = s.slow := (rfl)

@[simp] theorem regainFar_slow (s : State) : (regainFar s).slow = s.slow := by
  unfold regainFar
  (repeat' split) <;> first | with_reducible rfl | simp

@[simp] theorem loseRequests_slow (pick : RmRequest → Bool) (s : State) : (loseRequests pick s).slow = s.slow := by
  unfold loseRequests
  refine foldl_slow _ _ _ (fun t u => ?_)
  split <;> simp

@[simp] theorem rmLose_slow (chip : Nat) (s : State) : (rmLose chip s).slow = s.slow := by
  unfold rmLose
  simp

@[simp] theorem leaveGovernor_slow (chip : Nat) (s : State) : (leaveGovernor chip s).slow = s.slow := (rfl)

@[simp] theorem chipLost_slow (chip : Nat) (s : State) : (chipLost chip s).slow = s.slow := by
  unfold chipLost
  simp

@[simp] theorem chipReturned_slow (chip : Nat) (s : State) : (chipReturned chip s).slow = s.slow := by
  unfold chipReturned
  simp

@[simp] theorem tellNear_slow (kind chip inc : Nat) (s : State) : (tellNear kind chip inc s).slow = s.slow := (rfl)

@[simp] theorem declareLost_slow (chip : Nat) (s : State) : (declareLost chip s).slow = s.slow := by
  unfold declareLost
  simp

@[simp] theorem declareReturn_slow (chip : Nat) (s : State) : (declareReturn chip s).slow = s.slow := by
  unfold declareReturn
  simp

@[simp] theorem countStale_slow (s : State) : (countStale s).slow = s.slow := by
  unfold countStale
  simp

@[simp] theorem rmReply_slow (r : RmRecord) (s : State) : (rmReply r s).slow = s.slow := by
  unfold rmReply
  dsimp only
  (repeat' split) <;> simp

@[simp] theorem rmRespond_slow (r : RmRecord) (status : Nat) (data : DWord) (replayed : Bool) (s : State) : (rmRespond r status data replayed s).slow = s.slow := by
  unfold rmRespond
  (repeat' split) <;> simp

@[simp] theorem answerReplay_slow (p : ReplayRec) (r : RmRecord) (s : State) : (answerReplay p r s).slow = s.slow := by
  unfold answerReplay
  split <;> simp

@[simp] theorem State.modRmMem_slow (s : State) (a : DWord) (n : Nat) (f : Mem → Mem) : (State.modRmMem s a n f).slow = s.slow := by
  unfold State.modRmMem
  split
  · exact (State.modStore_slow _ _ _).trans (foldl_slow _ _ _ (fun t i => noteWrite_slow _ _ _ _))
  · rfl

@[simp] theorem finishWord_slow (r : RmRecord) (old : Nat) (s : State) : (finishWord r old s).slow = s.slow := by
  unfold finishWord
  (repeat' split) <;> first | with_reducible rfl | simp

@[simp] theorem applyWord_slow (r : RmRecord) (s : State) : (applyWord r s).slow = s.slow := by
  unfold applyWord
  (repeat' split) <;> simp

@[simp] theorem applyLine_slow (r : RmRecord) (s : State) : (applyLine r s).slow = s.slow := by
  unfold applyLine
  dsimp only
  split <;> simp

@[simp] theorem applyLineLoad_slow (r : RmRecord) (s : State) : (applyLineLoad r s).slow = s.slow := (rfl)

@[simp] theorem useSlot_slow (r : RmRecord) (s : State) : (useSlot r s).slow = s.slow := by
  unfold useSlot
  (repeat' split) <;> first | with_reducible rfl | simp

@[simp] theorem applyRecord_slow (r : RmRecord) (s : State) : (applyRecord r s).slow = s.slow := by
  unfold applyRecord
  (repeat' split) <;> simp

@[simp] theorem rmCheck_slow (r : RmRecord) (s : State) : (rmCheck r s).slow = s.slow := by
  unfold rmCheck
  dsimp only
  (repeat' split) <;> first | with_reducible rfl | simp

@[simp] theorem rmDecide_slow (r : RmRecord) (s : State) : (rmDecide r s).slow = s.slow := by
  unfold rmDecide
  dsimp only
  (repeat' split) <;> simp

@[simp] theorem rmApply_slow (s : State) : (rmApply s).slow = s.slow := by
  unfold rmApply
  (repeat' split) <;> simp

@[simp] theorem rmAck_slow (src ctx tag gen : Nat) (s : State) : (rmAck src ctx tag gen s).slow = s.slow := (rfl)

@[simp] theorem gwRequest_slow (r : RmRecord) (s : State) : (gwRequest r s).slow = s.slow := by
  unfold gwRequest
  split
  · rfl
  · extract_lets go
    have hg : ∀ t, (go t).slow = t.slow := by
      intro t
      simp only [go]
      (repeat' split) <;> first | (rename_i h; exact placeLine_slow h) | simp
    split <;> simp [hg]

@[simp] theorem rmRecordIn_slow (key : Nat) (r : RmRecord) (poisoned : Bool) (s : State) : (rmRecordIn key r poisoned s).slow = s.slow := by
  unfold rmRecordIn
  (repeat' split) <;> simp

@[simp] theorem rmCellIn_slow (key : Nat) (c : Cell) (s : State) : (rmCellIn key c s).slow = s.slow := by
  unfold rmCellIn
  (repeat' split) <;> first | with_reducible rfl | simp [*, foldl_slow, apply_ite State.slow]

@[simp] theorem dataCellIn_slow (key : Nat) (c : Cell) (s : State) : (dataCellIn key c s).slow = s.slow := by
  unfold dataCellIn
  dsimp only
  (repeat' split) <;> simp

@[simp] theorem noteSent_slow (t : Nat) (s : State) (r : RmRecord) : (noteSent t s r).slow = s.slow := by
  unfold noteSent
  (repeat' split) <;> simp

@[simp] theorem noteCell_slow (t : Nat) (c : Cell) (s : State) : (noteCell t c s).slow = s.slow := (rfl)

@[simp] theorem rmTake_slow (f t : Nat) (s : State) : (rmTake f t s).2.slow = s.slow := by
  unfold rmTake
  dsimp only
  split
  · simp
  · split
    · rfl
    · exact (foldl_slow _ _ _ (fun u r => noteSent_slow _ _ _)).trans rfl

@[simp] theorem rmAgain_slow (r : RmRequest) (s : State) : (rmAgain r s).slow = s.slow := by
  unfold rmAgain
  simp

@[simp] theorem rmRetransmit_slow (ctx tag : Nat) (s : State) : (rmRetransmit ctx tag s).slow = s.slow := by
  unfold rmRetransmit
  (repeat' split) <;> simp

@[simp] theorem rmDrainEnd_slow (switch_ : Nat) (s : State) : (rmDrainEnd switch_ s).slow = s.slow := by
  unfold rmDrainEnd
  (repeat' split) <;> first | with_reducible rfl | simp [*, foldl_slow, apply_ite State.slow]

@[simp] theorem rmTimeout_slow (ctx tag : Nat) (s : State) : (rmTimeout ctx tag s).slow = s.slow := by
  unfold rmTimeout
  (repeat' split) <;> simp

@[simp] theorem rmAckSend_slow (ctx tag : Nat) (s : State) : (rmAckSend ctx tag s).slow = s.slow := by
  unfold rmAckSend
  (repeat' split) <;> simp

@[simp] theorem replayExpiry_slow (s : State) : (replayExpiry s).slow = s.slow := by
  unfold replayExpiry
  split <;> rfl

@[simp] theorem lineTransferStart_slow (n : Nat) (s : State) : (lineTransferStart n s).slow = s.slow := by
  unfold lineTransferStart
  dsimp only
  split <;> simp

@[simp] theorem stagingTimeout_slow (s : State) : (stagingTimeout s).slow = s.slow := by
  unfold stagingTimeout
  split <;> rfl

@[simp] theorem rmemOpBody_slow (iss : Issuer) (op : Nat) (addr operand swap : DWord) (s : State) : (rmemOpBody iss op addr operand swap s).1.slow = s.slow := by
  unfold rmemOpBody
  split <;> simp

@[simp] theorem rmemFenceBody_slow (iss : Issuer) (s : State) : (rmemFenceBody iss s).1.slow = s.slow := by
  unfold rmemFenceBody
  simp

@[simp] theorem localStoreAccept_slow (k t : Nat) (s : State) : (localStoreAccept k t s).slow = s.slow := by
  unfold localStoreAccept
  dsimp only
  (repeat' split) <;> simp

@[simp] theorem State.modRadio_slow (s : State) (f : RadioState → RadioState) : (State.modRadio s f).slow = s.slow := (rfl)

@[simp] theorem State.modGroup_slow (s : State) (n : Nat) (f : RadioGroup → RadioGroup) : (State.modGroup s n f).slow = s.slow := (rfl)

@[simp] theorem radioSlotStart_slow (n t : Nat) (s : State) : (radioSlotStart n t s).slow = s.slow := by
  unfold radioSlotStart
  (repeat' split) <;> simp [*, foldl_slow, apply_ite State.slow]

@[simp] theorem radioSlotsLost_slow (n k t : Nat) (s : State) : (radioSlotsLost n k t s).slow = s.slow := by
  unfold radioSlotsLost
  (repeat' split) <;> simp [*, foldl_slow]

@[simp] theorem slotStartPasses_slow (old : Nat) (s : State) (n : Nat) : (slotStartPasses old s n).slow = s.slow := by
  unfold slotStartPasses
  dsimp only
  (repeat' split) <;> first | with_reducible rfl | simp

@[simp] theorem slotStartsPass_slow (old : Nat) (s : State) : (slotStartsPass old s).slow = s.slow := by
  unfold slotStartsPass
  (repeat' split) <;> first | with_reducible rfl | simp [*, foldl_slow, apply_ite State.slow]

@[simp] theorem loadGroups_slow (p : Pavane) (fig : Nat) (s : State) : (loadGroups p fig s).slow = s.slow := (rfl)

@[simp] theorem noteCellStatus_slow (n : Nat) (r : State × Option Reply) : (noteCellStatus n r).1.slow = r.1.slow := by
  unfold noteCellStatus
  (repeat' split) <;> rfl

@[simp] theorem cellConfigBody_slow (block : BitVec 256) (s : State) : (cellConfigBody block s).1.slow = s.slow := by
  unfold cellConfigBody
  dsimp only
  rw [noteCellStatus_slow]
  (repeat' split) <;> rfl

@[simp] theorem cellStartBody_slow (n at_ : Nat) (s : State) : (cellStartBody n at_ s).1.slow = s.slow := by
  unfold cellStartBody
  dsimp only
  rw [noteCellStatus_slow]
  (repeat' split) <;> first | rfl | simp [refuse]

@[simp] theorem cellStopBody_slow (n at_ : Nat) (s : State) : (cellStopBody n at_ s).1.slow = s.slow := by
  unfold cellStopBody
  dsimp only
  rw [noteCellStatus_slow]
  (repeat' split) <;> rfl

@[simp] theorem cellClearBody_slow (n : Nat) (s : State) : (cellClearBody n s).1.slow = s.slow := by
  unfold cellClearBody
  dsimp only
  rw [noteCellStatus_slow]
  (repeat' split) <;> rfl

@[simp] theorem cellStartTime_slow (n : Nat) (s : State) : (cellStartTime n s).slow = s.slow := by
  unfold cellStartTime
  dsimp only
  (repeat' split) <;> simp

@[simp] theorem cellStopTime_slow (n : Nat) (s : State) : (cellStopTime n s).slow = s.slow := by
  unfold cellStopTime
  (repeat' split) <;> simp

@[simp] theorem dlRecordRead_slow (n : Nat) (s : State) : (dlRecordRead n s).slow = s.slow := by
  unfold dlRecordRead
  dsimp only
  (repeat' split) <;> simp

@[simp] theorem runWrite_slow (a o n : Nat) (l : List Byte) (s : State) : (runWrite a o n l s).slow = s.slow := by
  induction n generalizing o l s with
  | zero => rfl
  | succ n ih => unfold runWrite; dsimp only; (repeat' split) <;> simp [ih]

@[simp] theorem zeroPrb_slow (n a : Nat) (s : State) (x : Nat × Nat × Nat) : (zeroPrb n a s x).slow = s.slow := (rfl)

@[simp] theorem ulRecordWrite_slow (n : Nat) (expected : List UlRange) (messages : List Byte) (s : State) : (ulRecordWrite n expected messages s).slow = s.slow := by
  unfold ulRecordWrite
  extract_lets x1 x2 x3 x4 x5 x6 x7 x8 x9 x10
  try (have hx1 : State.slow x1 = s.slow := (by simp only [x1]; (repeat' split) <;> first | with_reducible rfl | simp [*, foldl_slow, apply_ite State.slow]); clear_value x1)
  try (have hx2 : State.slow x2 = s.slow := (by simp only [x2]; (repeat' split) <;> first | with_reducible rfl | simp [*, foldl_slow, apply_ite State.slow]); clear_value x2)
  try (have hx3 : State.slow x3 = s.slow := (by simp only [x3]; (repeat' split) <;> first | with_reducible rfl | simp [*, foldl_slow, apply_ite State.slow]); clear_value x3)
  try (have hx4 : State.slow x4 = s.slow := (by simp only [x4]; (repeat' split) <;> first | with_reducible rfl | simp [*, foldl_slow, apply_ite State.slow]); clear_value x4)
  try (have hx5 : State.slow x5 = s.slow := (by simp only [x5]; (repeat' split) <;> first | with_reducible rfl | simp [*, foldl_slow, apply_ite State.slow]); clear_value x5)
  try (have hx6 : State.slow x6 = s.slow := (by simp only [x6]; (repeat' split) <;> first | with_reducible rfl | simp [*, foldl_slow, apply_ite State.slow]); clear_value x6)
  try (have hx7 : State.slow x7 = s.slow := (by simp only [x7]; (repeat' split) <;> first | with_reducible rfl | simp [*, foldl_slow, apply_ite State.slow]); clear_value x7)
  try (have hx8 : State.slow x8 = s.slow := (by simp only [x8]; (repeat' split) <;> first | with_reducible rfl | simp [*, foldl_slow, apply_ite State.slow]); clear_value x8)
  try (have hx9 : State.slow x9 = s.slow := (by simp only [x9]; (repeat' split) <;> first | with_reducible rfl | simp [*, foldl_slow, apply_ite State.slow]); clear_value x9)
  try (have hx10 : State.slow x10 = s.slow := (by simp only [x10]; (repeat' split) <;> first | with_reducible rfl | simp [*, foldl_slow, apply_ite State.slow]); clear_value x10)
  (repeat' split) <;> first | with_reducible rfl | simp [*, foldl_slow, apply_ite State.slow]

@[simp] theorem prbIn_slow (n i a sym prb : Nat) (parts : List Int) (s : State) : (prbIn n i a sym prb parts s).slow = s.slow := by
  unfold prbIn
  dsimp only
  split <;> rfl

@[simp] theorem prbsIn_slow (n i a y m w : Nat) (c : Cell) (o f k : Nat) (s : State) : (prbsIn n i a y m w c o f k s).slow = s.slow := by
  induction k generalizing o f s with
  | zero => rfl
  | succ k ih => unfold prbsIn; dsimp only; rw [ih, prbIn_slow]; split <;> simp

@[simp] theorem fhDiscard_slow (s : State) : (fhDiscard s).slow = s.slow := (rfl)

@[simp] theorem sectionsIn_slow (n i a y : Nat) (c : Cell) (g f o : Nat) (s : State) : (sectionsIn n i a y c g f o s).slow = s.slow := by
  induction f generalizing o s with
  | zero => rfl
  | succ f ih => unfold sectionsIn; dsimp only; (repeat' split) <;> simp [ih]

@[simp] theorem fhCellIn_slow (c : Cell) (t : Nat) (s : State) : (fhCellIn c t s).slow = s.slow := by
  unfold fhCellIn
  dsimp only
  split
  · simp
  · split
    · simp
    · rw [sectionsIn_slow]; split <;> rfl

@[simp] theorem fhSend_slow (n pc : Nat) (f : Nat → List Byte) (s : State) : (fhSend n pc f s).2.slow = s.slow := (rfl)

@[simp] theorem uPlaneOut_slow (n : Nat) (m : UPlane) (t : Nat) (s : State) : (uPlaneOut n m t s).2.slow = s.slow := by
  unfold uPlaneOut
  dsimp only
  (repeat' split) <;> first | with_reducible rfl | simp

@[simp] theorem cPlaneOut_slow (n : Nat) (m : CPlane) (t : Nat) (s : State) : (cPlaneOut n m t s).2.slow = s.slow := by
  unfold cPlaneOut
  dsimp only
  (repeat' split) <;> first | with_reducible rfl | simp

@[simp] theorem fhOut_slow (n : Nat) (p : StepPayload) (t : Nat) (s : State) : (fhOut n p t s).2.slow = s.slow := by
  unfold fhOut
  (repeat' split) <;> first | with_reducible rfl | simp

@[simp] theorem powerEstimate_slow (n i : Nat) (s : State) : (powerEstimate n i s).slow = s.slow := by
  unfold powerEstimate
  dsimp only
  (repeat' split) <;> simp

@[simp] theorem engineEntryStart_slow (entry : Nat) (work : Option EngineWork) (s : State) : (engineEntryStart entry work s).slow = s.slow := by
  unfold engineEntryStart
  dsimp only
  (repeat' split) <;> simp

@[simp] theorem freezeGain_slow (cell stream last : Nat) (prach : Bool) (s : State) : (freezeGain cell stream last prach s).slow = s.slow := by
  unfold freezeGain
  (repeat' split) <;> first | with_reducible rfl | simp

@[simp] theorem engineReport_slow (n : Nat) (r : EngineReport) (s : State) : (engineReport n r s).slow = s.slow := (rfl)

@[simp] theorem softBuffer_slow (entry cell tile off : Nat) (fresh : Bool) (llrs : List Int) (s : State) : (softBuffer entry cell tile off fresh llrs s).slow = s.slow := by
  unfold softBuffer
  dsimp only
  (repeat' split) <;> first | with_reducible rfl | simp

@[simp] theorem engineResult_slow (n : Nat) (d : EngineData) (s : State) : (engineResult n d s).slow = s.slow := by
  unfold engineResult
  dsimp only
  (repeat' split) <;> first | with_reducible rfl | simp

@[simp] theorem engineEvents_slow (w : EngineWork) (s : State) : (engineEvents w s).slow = s.slow := by
  unfold engineEvents
  split <;> simp

@[simp] theorem engineDone_slow (entry : Nat) (d : EngineData) (s : State) : (engineDone entry d s).slow = s.slow := by
  unfold engineDone
  (repeat' split) <;> simp

@[simp] theorem radioEvent_slow (f : RadioEvent) (s : State) : (radioEvent f s).slow = s.slow := by
  unfold radioEvent
  (repeat' split) <;> simp

@[simp] theorem State.modLaneRegs_slow (s : State) (n : Nat) (f : LaneRegs → LaneRegs) : (State.modLaneRegs s n f).slow = s.slow := (rfl)

@[simp] theorem State.modFab_slow (s : State) (f : FabState → FabState) : (State.modFab s f).slow = s.slow := (rfl)

@[simp] theorem dropTransit_slow (n : Nat) (s : State) : (dropTransit n s).slow = s.slow := (rfl)

@[simp] theorem laneOut_slow (n : Nat) (x : LaneState) (cause : Nat) (s : State) : (laneOut n x cause s).slow = s.slow := by
  unfold laneOut
  split <;> simp

@[simp] theorem laneStatus_slow (n st : Nat) (s : State) : (laneStatus n st s).slow = s.slow := (rfl)

@[simp] theorem laneRetrain_slow (mid n : Nat) (s : State) : (laneRetrain mid n s).slow = s.slow := by
  unfold laneRetrain
  (repeat' split) <;> simp

@[simp] theorem laneEnable_slow (n : Nat) (on : Bool) (s : State) : (laneEnable n on s).slow = s.slow := by
  unfold laneEnable
  dsimp only
  (repeat' split) <;> simp

@[simp] theorem laneCtrlWrite_slow (mid n : Nat) (v : Word) (s : State) : (laneCtrlWrite mid n v s).slow = s.slow := by
  unfold laneCtrlWrite
  (repeat' split) <;> simp

@[simp] theorem laneTrainingDone_slow (n : Nat) (s : State) : (laneTrainingDone n s).slow = s.slow := by
  unfold laneTrainingDone
  dsimp only
  split <;> rfl

@[simp] theorem laneAlignDone_slow (n : Nat) (s : State) : (laneAlignDone n s).slow = s.slow := by
  unfold laneAlignDone
  dsimp only
  split <;> rfl

@[simp] theorem laneBringupTimeout_slow (n : Nat) (s : State) : (laneBringupTimeout n s).slow = s.slow := by
  unfold laneBringupTimeout
  dsimp only
  (repeat' split) <;> simp

@[simp] theorem laneDownExpiry_slow (n : Nat) (s : State) : (laneDownExpiry n s).slow = s.slow := by
  unfold laneDownExpiry
  dsimp only
  split <;> rfl

@[simp] theorem timeSent_slow (n t : Nat) (s : State) : (timeSent n t s).slow = s.slow := (rfl)

@[simp] theorem timeMessage_slow (n t : Nat) (s : State) : (timeMessage n t s).2.slow = s.slow := by
  unfold timeMessage
  dsimp only
  (repeat' split) <;> rfl

@[simp] theorem originate_slow (m f : Nat) (c : Cell) (s : State) : (originate m f c s).state.slow = s.slow := by
  unfold originate
  dsimp only
  split <;> rfl

@[simp] theorem txIdle_slow (s : State) : (txIdle s).state.slow = s.slow := (rfl)

@[simp] theorem forward_slow (n m : Nat) (h : HeldCell) (s : State) : (forward n m h s).state.slow = s.slow := by
  unfold forward
  dsimp only
  split <;> rfl

@[simp] theorem txLocal_slow (m f : Nat) (p : StepPayload) (s : State) : (txLocal m f p s).state.slow = s.slow := by
  unfold txLocal
  split
  · rename_i arg _
    have e := fhOut_slow arg p (stepTime m) s
    split <;> rename_i hh <;> rw [hh] at e <;> simpa using e
  · split
    · simp
    · split
      · split <;> simp
      · simp
  · have e := rmTake_slow f (stepTime m) s
    split <;> rename_i hh <;> rw [hh] at e <;> simpa using e
  · simp

@[simp] theorem txTransit_slow (n m r : Nat) (s : State) : (txTransit n m r s).state.slow = s.slow := by
  unfold txTransit
  split <;> simp

@[simp] theorem txUnclaimed_slow (n m : Nat) (s : State) : (txUnclaimed n m s).state.slow = s.slow := by
  unfold txUnclaimed
  have e : (if s.image.isSome then bePicked n m s else (none, s)).2.slow = s.slow := by split <;> simp
  split <;> rename_i h <;> rw [h] at e <;> split <;> simpa [txIdle] using e

@[simp] theorem TxCell.scheduled_slow (n : Nat) (x : TxCell) : (x.scheduled n).state.slow = x.state.slow := by
  unfold TxCell.scheduled
  split <;> simp

@[simp] theorem TxCell.orIdent_slow (n m : Nat) (x : TxCell) : (x.orIdent n m).state.slow = x.state.slow := by
  unfold TxCell.orIdent
  split <;> simp

@[simp] theorem txPlan_slow (n m : Nat) (p : StepPayload) (s : State) : (txPlan n m p s).state.slow = s.slow := by
  unfold txPlan
  split
  · simp [txIdle]
  · extract_lets entry kind live old r u p1 o p2
    have e : u.slow = s.slow := by simp only [u]; cases old <;> dsimp only <;> (repeat' split) <;> rfl
    have t : ∀ a b : TxCell, a.state.slow = s.slow → b.state.slow = s.slow →
        (if live = true then a else b).state.slow = s.slow := by intro a b ha hb; split <;> assumption
    have eo : o.state.slow = s.slow := (originate_slow _ _ _ _).trans e
    clear_value o u p1 p2 live r kind old
    split
    · simp only [TxCell.orIdent_slow]; exact t _ _ (by simp [e]) e
    · simp only [TxCell.orIdent_slow]; exact t _ _ (by simp [e]) e
    · exact (TxCell.scheduled_slow _ _).trans (by simp [eo])
    · split
      · rename_i h1
        have h2 := timeMessage_slow n (stepTime m) u
        rw [h1] at h2
        simp only [TxCell.scheduled_slow, originate_slow]; exact h2.trans e
      · rename_i h1
        have h2 := timeMessage_slow n (stepTime m) u
        rw [h1] at h2
        simp only [TxCell.orIdent_slow]; exact h2.trans e
    · split <;> simp [e]
    · split <;> simp [e, txIdle]
    · simp [e, txIdle]


@[simp] theorem txDown_slow (n m : Nat) (s : State) : (txDown n m s).slow = s.slow := by
  unfold txDown
  (repeat' split) <;> simp

@[simp] theorem txStep_slow (n m : Nat) (p : StepPayload) (s : State) : (txStep n m p s).state.slow = s.slow := by
  unfold txStep
  (repeat' split) <;> simp

@[simp] theorem stepFrameTransmit_slow (n : Nat) (payload : StepPayload) (s : State) : (stepFrameTransmit n payload s).slow = s.slow := by
  unfold stepFrameTransmit
  dsimp only
  split
  · rfl
  · split <;> simp

@[simp] theorem discardCrc_slow (n : Nat) (s : State) : (discardCrc n s).slow = s.slow := by
  unfold discardCrc
  (repeat' split) <;> first | with_reducible rfl | simp

@[simp] theorem discardUnexpected_slow (n : Nat) (s : State) : (discardUnexpected n s).slow = s.slow := (rfl)

@[simp] theorem discardStale_slow (n : Nat) (s : State) : (discardStale n s).slow = s.slow := (rfl)

@[simp] theorem markerIn_slow (n t : Nat) (k : Marker) (s : State) : (markerIn n t k s).slow = s.slow := by
  unfold markerIn
  dsimp only
  (repeat' split) <;> simp

@[simp] theorem markerLost_slow (n : Nat) (s : State) : (markerLost n s).slow = s.slow := by
  unfold markerLost
  dsimp only
  split <;> simp

@[simp] theorem identIn_slow (n : Nat) (c : Cell) (s : State) : (identIn n c s).slow = s.slow := by
  unfold identIn
  dsimp only
  (repeat' split) <;> simp

@[simp] theorem heartbeatIn_slow (n m : Nat) (c : Cell) (s : State) : (heartbeatIn n m c s).slow = s.slow := by
  unfold heartbeatIn
  dsimp only
  (repeat' split) <;> simp

@[simp] theorem syncIn_slow (n t2 : Nat) (l : List Byte) (s : State) : (syncIn n t2 l s).slow = s.slow := by
  unfold syncIn
  (repeat' split) <;> first | with_reducible rfl | simp

@[simp] theorem delayRespIn_slow (l : List Byte) (s : State) : (delayRespIn l s).slow = s.slow := by
  unfold delayRespIn
  (repeat' split) <;> first | with_reducible rfl | simp

@[simp] theorem timeIn_slow (n t : Nat) (c : Cell) (s : State) : (timeIn n t c s).slow = s.slow := by
  unfold timeIn
  dsimp only
  (repeat' split) <;> simp

@[simp] theorem noticeIn_slow (c : Cell) (s : State) : (noticeIn c s).slow = s.slow := by
  unfold noticeIn
  dsimp only
  (repeat' split) <;> simp

@[simp] theorem localIn_slow (n step period t : Nat) (c : Cell) (s : State) : (localIn n step period t c s).slow = s.slow := by
  unfold localIn
  (repeat' split) <;> simp

@[simp] theorem dispatchCell_slow (n step period t kind : Nat) (old : Bool) (c : Cell) (s : State) : (dispatchCell n step period t kind old c s).slow = s.slow := by
  unfold dispatchCell
  (repeat' split) <;> simp

@[simp] theorem cellChecked_slow (n step period t : Nat) (c : Cell) (pcrcOk : Bool) (s : State) : (cellChecked n step period t c pcrcOk s).slow = s.slow := by
  unfold cellChecked
  dsimp only
  (repeat' split) <;> simp

@[simp] theorem cellIn_slow (n step period : Nat) (f : FrameIn) (s : State) : (cellIn n step period f s).slow = s.slow := by
  unfold cellIn
  (repeat' split) <;> simp

@[simp] theorem stepFrameReceive_slow (n : Nat) (f : FrameIn) (s : State) : (stepFrameReceive n f s).slow = s.slow := by
  unfold stepFrameReceive
  dsimp only
  (repeat' split) <;> simp

@[simp] theorem countMiss_slow (n : Nat) (s : State) : (countMiss n s).slow = s.slow := by
  unfold countMiss
  dsimp only
  split <;> simp

@[simp] theorem heartbeatMiss_slow (n : Nat) (s : State) : (heartbeatMiss n s).slow = s.slow := by
  unfold heartbeatMiss
  dsimp only
  (repeat' split) <;> simp

@[simp] theorem livenessPeriod_slow (s : State) : (livenessPeriod s).slow = s.slow := (rfl)

@[simp] theorem setSlot_slow (b : Bool) (p : Option Pavane) (s : State) : (setSlot b p s).slow = s.slow := (rfl)

@[simp] theorem pavaneLoadBody_slow (iss : Issuer) (b : Bool) (first tiles : Nat) (s : State) : (pavaneLoadBody iss b first tiles s).1.slow = s.slow := by
  unfold pavaneLoadBody
  dsimp only
  (repeat' split) <;> simp

@[simp] theorem pavaneLoadComplete_slow (s : State) : (pavaneLoadComplete s).slow = s.slow := by
  unfold pavaneLoadComplete
  (repeat' split) <;> simp

@[simp] theorem pavaneActivateBody_slow (iss : Issuer) (b : Bool) (fig at_ : Nat) (s : State) : (pavaneActivateBody iss b fig at_ s).1.slow = s.slow := by
  unfold pavaneActivateBody
  (repeat' split) <;> simp

@[simp] theorem loadLimits_slow (p : Pavane) (s : State) : (loadLimits p s).slow = s.slow := by
  unfold loadLimits
  refine foldl_slow _ _ _ (fun t k => ?_)
  dsimp only
  split <;> rfl

@[simp] theorem judgeFrom_slow (period : Nat) (s : State) : (judgeFrom period s).slow = s.slow := by
  unfold judgeFrom
  simp

@[simp] theorem pavStatus_slow (st : Nat) (s : State) : (pavStatus st s).slow = s.slow := (rfl)

@[simp] theorem takeActivation_slow (t : Nat) (s : State) : (takeActivation t s).slow = s.slow := by
  unfold takeActivation
  dsimp only
  (repeat' split) <;> simp

@[simp] theorem figureSwitchBody_slow (iss : Issuer) (fig at_ : Nat) (s : State) : (figureSwitchBody iss fig at_ s).1.slow = s.slow := by
  unfold figureSwitchBody
  (repeat' split) <;> simp

@[simp] theorem preemptFor_slow (p : Pavane) (fig : Nat) (s : State) : (preemptFor p fig s).slow = s.slow := by
  unfold preemptFor
  (repeat' split) <;> first | with_reducible rfl | simp [*, foldl_slow, apply_ite State.slow]

@[simp] theorem loseFar_slow (p : Pavane) (old fig : Nat) (s : State) : (loseFar p old fig s).slow = s.slow := by
  unfold loseFar
  (repeat' split) <;> simp [*, foldl_slow]

@[simp] theorem switchover_slow (fig t : Nat) (s : State) : (switchover fig t s).slow = s.slow := by
  unfold switchover
  dsimp only
  (repeat' split) <;> simp

@[simp] theorem takeSwitch_slow (t : Nat) (s : State) : (takeSwitch t s).slow = s.slow := by
  unfold takeSwitch
  (repeat' split) <;> simp

@[simp] theorem pavaneClearBody_slow (b : Bool) (s : State) : (pavaneClearBody b s).1.slow = s.slow := by
  unfold pavaneClearBody
  split <;> rfl

@[simp] theorem drainPeriodEnd_slow (s : State) : (drainPeriodEnd s).slow = s.slow := by
  unfold drainPeriodEnd
  (repeat' split) <;> simp

@[simp] theorem mapTowerLost_slow (t : Nat) (s : State) : (mapTowerLost t s).slow = s.slow := by
  unfold mapTowerLost
  exact (foldl_slow _ _ _ (fun u m => stopMove_slow m u))

@[simp] theorem checkDump_slow (s : State) : (checkDump s).slow = s.slow := by
  unfold checkDump
  (repeat' split) <;> simp

@[simp] theorem alertAtBoot_slow (s : State) : (alertAtBoot s).slow = s.slow := by
  unfold alertAtBoot
  split <;> rfl

@[simp] theorem modeStatus_slow (st : Nat) (s : State) : (modeStatus st s).slow = s.slow := (rfl)

@[simp] theorem clkModeWrite_slow (mid v : Nat) (s : State) : (clkModeWrite mid v s).slow = s.slow := by
  unfold clkModeWrite
  (repeat' split) <;> simp

@[simp] theorem ndcClear_slow (mid : Nat) (s : State) : (ndcClear mid s).slow = s.slow := by
  unfold ndcClear
  split <;> rfl

@[simp] theorem cntFreezeWrite_slow (mid v : Nat) (s : State) : (cntFreezeWrite mid v s).slow = s.slow := by
  unfold cntFreezeWrite
  split <;> rfl

@[simp] theorem evselWrite_slow (mid : Nat) (sp : Option Nat) (n v : Nat) (s : State) : (evselWrite mid sp n v s).slow = s.slow := by
  unfold evselWrite
  (repeat' split) <;> simp

@[simp] theorem wakeFlags_slow (k : Nat) (s : State) : (wakeFlags k s).slow = s.slow := (rfl)

@[simp] theorem ccBegin_slow (k t n : Nat) (s : State) : (ccBegin k t n s).slow = s.slow := (rfl)

@[simp] theorem ccFault_slow (k t cause : Nat) (s : State) : (ccFault k t cause s).slow = s.slow := by
  unfold ccFault
  simp

@[simp] theorem switchOut_slow (k t : Nat) (w : ThreadWait) (s : State) : (switchOut k t w s).slow = s.slow := by
  unfold switchOut
  simp

@[simp] theorem switchReady_slow (k t : Nat) (s : State) : (switchReady k t s).slow = s.slow := by
  unfold switchReady
  simp

@[simp] theorem ccIssue_slow (k t : Nat) (f : State → State) (s : State) (h : ∀ t, (f t).slow = t.slow) : (ccIssue k t f s).slow = s.slow := by
  unfold ccIssue
  dsimp only
  (repeat' split) <;> simp [*]

@[simp] theorem remoteRead_slow (k t op rd : Nat) (addr operand swap : DWord) (s : State) : (remoteRead k t op rd addr operand swap s).slow = s.slow := by
  unfold remoteRead
  (repeat' split) <;> simp

@[simp] theorem ccRld_slow (k t f rd rs1 : Nat) (s : State) : (ccRld k t f rd rs1 s).slow = s.slow := by
  unfold ccRld
  split <;> simp

@[simp] theorem ccRst_slow (k t f rd rs1 rs2 : Nat) (s : State) : (ccRst k t f rd rs1 rs2 s).slow = s.slow := by
  unfold ccRst
  dsimp only
  (repeat' split) <;> simp

@[simp] theorem ccRamo_slow (k t f rd rs1 rs2 : Nat) (s : State) : (ccRamo k t f rd rs1 rs2 s).slow = s.slow := by
  unfold ccRamo
  split <;> simp

@[simp] theorem ccRfence_slow (k t rd : Nat) (s : State) : (ccRfence k t rd s).slow = s.slow := by
  unfold ccRfence
  simp

@[simp] theorem pathStart_slow (k : Nat) (s : State) : (pathStart k s).slow = s.slow := by
  unfold pathStart
  dsimp only
  (repeat' split) <;> simp

@[simp] theorem pathAccess_slow (k t : Nat) (write : Bool) (index : Nat) (v : DWord) (rd : Nat) (s : State) : (pathAccess k t write index v rd s).slow = s.slow := by
  unfold pathAccess
  simp

@[simp] theorem ccSprR_slow (k t rd rs1 : Nat) (s : State) : (ccSprR k t rd rs1 s).slow = s.slow := by
  unfold ccSprR
  simp

@[simp] theorem ccSprW_slow (k t rs1 rs2 : Nat) (s : State) : (ccSprW k t rs1 rs2 s).slow = s.slow := by
  unfold ccSprW
  simp

@[simp] theorem pathEnd_slow (k : Nat) (s : State) : (pathEnd k s).slow = s.slow := by
  unfold pathEnd
  (repeat' split) <;> simp

@[simp] theorem ccFlag_slow (k t f rd rs1 rs2 : Nat) (s : State) : (ccFlag k t f rd rs1 rs2 s).slow = s.slow := by
  unfold ccFlag
  dsimp only
  (repeat' split) <;> simp

@[simp] theorem ccYield_slow (k t : Nat) (s : State) : (ccYield k t s).slow = s.slow := by
  unfold ccYield
  simp

@[simp] theorem ccCustom_slow (k t f3 f7 rd rs1 rs2 : Nat) (s : State) : (ccCustom k t f3 f7 rd rs1 rs2 s).slow = s.slow := by
  unfold ccCustom
  split <;> simp

@[simp] theorem localRead_slow (k t : Nat) (a : DWord) (w : Nat) (f : Nat → State → State) (s : State) (h : ∀ n t, (f n t).slow = t.slow) : (localRead k t a w f s).slow = s.slow := by
  unfold localRead
  dsimp only
  (repeat' split) <;> simp [*]

@[simp] theorem localPut_slow (k n w v : Nat) (s : State) : (localPut k n w v s).slow = s.slow := by
  unfold localPut
  (repeat' split) <;> first | with_reducible rfl | simp

@[simp] theorem localWrite_slow (k t : Nat) (a : DWord) (w : Nat) (v : DWord) (s : State) : (localWrite k t a w v s).slow = s.slow := by
  unfold localWrite
  dsimp only
  (repeat' split) <;> simp

@[simp] theorem putX_slow (k t rd : Nat) (v : DWord) (s : State) : (putX k t rd v s).slow = s.slow := (rfl)

@[simp] theorem rvExec_slow (k t : Nat) (op : RvOp) (s : State) : (rvExec k t op s).slow = s.slow := by
  unfold rvExec
  dsimp only
  (repeat' split) <;> simp

@[simp] theorem ccStep_slow (k t : Nat) (s : State) : (ccStep k t s).slow = s.slow := by
  unfold ccStep
  dsimp only
  (repeat' split) <;> simp

@[simp] theorem State.modDsp_slow (s : State) (f : DspState → DspState) : (State.modDsp s f).slow = s.slow := (rfl)

@[simp] theorem queueJob_slow (iss : Issuer) (first tiles user : Nat) (img : JobImage) (s : State) : (queueJob iss first tiles user img s).1.slow = s.slow := (rfl)

@[simp] theorem jobSubmitBody_slow (iss : Issuer) (first tiles user : Nat) (s : State) : (jobSubmitBody iss first tiles user s).1.slow = s.slow := by
  unfold jobSubmitBody
  dsimp only
  (repeat' split) <;> simp

@[simp] theorem recordJob_slow (status code rank bundle : Nat) (j : Job) (s : State) : (recordJob status code rank bundle j s).slow = s.slow := by
  unfold recordJob
  split <;> rfl

@[simp] theorem recordUnstarted_slow (status : Nat) (j : Job) (s : State) : (recordUnstarted status j s).slow = s.slow := by
  unfold recordUnstarted
  simp

@[simp] theorem jobCompletion_slow (id : Nat) (s : State) : (jobCompletion id s).slow = s.slow := by
  unfold jobCompletion
  (repeat' split) <;> simp

@[simp] theorem preemptJob_slow (j : Job) (s : State) : (preemptJob j s).slow = s.slow := by
  unfold preemptJob
  split <;> simp

@[simp] theorem jobCancelBody_slow (iss : Issuer) (id : Nat) (s : State) : (jobCancelBody iss id s).1.slow = s.slow := by
  unfold jobCancelBody
  (repeat' split) <;> simp

@[simp] theorem placeJob_slow (j : Job) (ks : List Nat) (s : State) : (placeJob j ks s).slow = s.slow := by
  unfold placeJob
  (repeat' split) <;> simp [*, foldl_slow]

@[simp] theorem placeHeads_slow (n : Nat) (s : State) : (placeHeads n s).slow = s.slow := by
  induction n generalizing s with
  | zero => rfl
  | succ n ih => unfold placeHeads; (repeat' split) <;> simp [ih]

@[simp] theorem placement_slow (s : State) : (placement s).slow = s.slow := by
  unfold placement
  simp

@[simp] theorem retestQueue_slow (s : State) : (retestQueue s).slow = s.slow := by
  unfold retestQueue
  (repeat' split) <;> simp [*, foldl_slow]

@[simp] theorem loadRank_slow (k r : Nat) (j : Job) (s : State) : (loadRank k r j s).slow = s.slow := (rfl)

@[simp] theorem loadComplete_slow (k : Nat) (s : State) : (loadComplete k s).slow = s.slow := by
  unfold loadComplete
  (repeat' split) <;> simp

@[simp] theorem reclaimSpire_slow (k : Nat) (s : State) : (reclaimSpire k s).slow = s.slow := by
  unfold reclaimSpire
  dsimp only
  (repeat' split) <;> simp

@[simp] theorem reclaimOrder_slow (mid mask : Nat) (s : State) : (reclaimOrder mid mask s).slow = s.slow := by
  unfold reclaimOrder
  (repeat' split) <;> simp [*, foldl_slow, apply_ite State.slow]

@[simp] theorem reclaimDone_slow (s : State) : (reclaimDone s).slow = s.slow := by
  unfold reclaimDone
  split <;> rfl

@[simp] theorem zeroBitmap_slow (tile : Nat) (s : State) : (zeroBitmap tile s).slow = s.slow := by
  unfold zeroBitmap
  (repeat' split) <;> first | with_reducible rfl | simp [*, foldl_slow, apply_ite State.slow]

@[simp] theorem logStartBody_slow (lease tile iova pages : Nat) (s : State) : (logStartBody lease tile iova pages s).1.slow = s.slow := by
  unfold logStartBody
  dsimp only
  (repeat' split) <;> simp

@[simp] theorem logFlipBody_slow (lease : Nat) (s : State) : (logFlipBody lease s).1.slow = s.slow := by
  unfold logFlipBody
  dsimp only
  split <;> simp

@[simp] theorem stopLog_slow (lease : Nat) (s : State) : (stopLog lease s).slow = s.slow := (rfl)

@[simp] theorem logStopBody_slow (lease : Nat) (s : State) : (logStopBody lease s).1.slow = s.slow := by
  unfold logStopBody
  split <;> rfl

@[simp] theorem startLeaseReset_slow (n : Nat) (s : State) : (startLeaseReset n s).slow = s.slow := by
  unfold startLeaseReset
  (repeat' split) <;> simp [*, foldl_slow]

@[simp] theorem leaseReset_slow (n : Nat) (flr : Bool) (s : State) : (leaseReset n flr s).slow = s.slow := by
  unfold leaseReset
  (repeat' split) <;> simp

@[simp] theorem qpCtrlWrite_slow (mid qp v : Nat) (s : State) : (qpCtrlWrite mid qp v s).slow = s.slow := by
  unfold qpCtrlWrite
  split <;> rfl

@[simp] theorem ringError_slow (f : Nat) (s : State) : (ringError f s).slow = s.slow := by
  unfold ringError
  simp

@[simp] theorem sqTailWrite_slow (mid qp v : Nat) (s : State) : (sqTailWrite mid qp v s).slow = s.slow := by
  unfold sqTailWrite
  dsimp only
  (repeat' split) <;> simp

@[simp] theorem cqHeadWrite_slow (mid qp v : Nat) (s : State) : (cqHeadWrite mid qp v s).slow = s.slow := by
  unfold cqHeadWrite
  split <;> rfl

@[simp] theorem completionRecord_slow (f q : Nat) (s : State) : (completionRecord f q s).slow = s.slow := by
  unfold completionRecord
  dsimp only
  (repeat' split) <;> simp

@[simp] theorem submissionFetch_slow (f q : Nat) (entry data : List Byte) (s : State) : (submissionFetch f q entry data s).slow = s.slow := by
  unfold submissionFetch
  extract_lets x1 x2 x3 x4 x5 x6 x7
  have hx7 : State.slow x7 = s.slow := by simp only [x7]; rfl
  clear_value x7
  (repeat' split) <;> simp [*]

@[simp] theorem berxHeadWrite_slow (mid v : Nat) (s : State) : (berxHeadWrite mid v s).slow = s.slow := by
  unfold berxHeadWrite
  dsimp only
  (repeat' split) <;> simp

@[simp] theorem dbMaskWrite_slow (mid : Nat) (v : Word) (s : State) : (dbMaskWrite mid v s).slow = s.slow := by
  unfold dbMaskWrite
  split
  · rfl
  · split
    · exact (foldl_slow _ _ _ (fun t i => sendVector_slow _ i t)).trans rfl
    · rfl

@[simp] theorem cxlPart_slow (s : State) (r : CxlReq) : (cxlPart s r).slow = s.slow := by
  unfold cxlPart
  dsimp only
  (repeat' split) <;> first | with_reducible rfl | simp

@[simp] theorem cxlRequest_slow (r : CxlReq) (s : State) : (cxlRequest r s).slow = s.slow := by
  unfold cxlRequest
  (repeat' split) <;> first | with_reducible rfl | simp [*, foldl_slow, apply_ite State.slow]

@[simp] theorem clearEvents_slow (handles : List Nat) (s : State) : (clearEvents handles s).slow = s.slow := (rfl)

@[simp] theorem tdispReply_slow (lease : Nat) (ok : Bool) (v : List Nat) (s : State) : (tdispReply lease ok v s).slow = s.slow := (rfl)

@[simp] theorem tdispRequest_slow (f : State → State) (s : State) (h : ∀ t, (f t).slow = t.slow) : (tdispRequest f s).slow = s.slow := by
  unfold tdispRequest
  (repeat' split) <;> first | with_reducible rfl | simp [*]

@[simp] theorem tdiError_slow (n : Nat) (s : State) : (tdiError n s).slow = s.slow := by
  unfold tdiError
  (repeat' split) <;> simp [*, foldl_slow]

@[simp] theorem lockInterface_slow (n stream : Nat) (s : State) : (lockInterface n stream s).slow = s.slow := by
  unfold lockInterface
  split <;> rfl

@[simp] theorem startInterface_slow (n : Nat) (s : State) : (startInterface n s).slow = s.slow := by
  unfold startInterface
  split <;> rfl

@[simp] theorem stopInterface_slow (n : Nat) (s : State) : (stopInterface n s).slow = s.slow := by
  unfold stopInterface
  split <;> simp

@[simp] theorem streamInsecure_slow (stream : Nat) (s : State) : (streamInsecure stream s).slow = s.slow := by
  unfold streamInsecure
  exact (foldl_slow _ _ _ (fun t n => tdiError_slow n t)).trans rfl

@[simp] theorem ideCheckFailure_slow (stream : Nat) (s : State) : (ideCheckFailure stream s).slow = s.slow := by
  unfold ideCheckFailure
  split <;> simp

@[simp] theorem dropVisit_slow (s : State) : (dropVisit s).slow = s.slow := by
  unfold dropVisit
  (repeat' split) <;> simp

@[simp] theorem rotateTo_slow (k : Nat) (s : State) : (rotateTo k s).slow = s.slow := by
  unfold rotateTo
  split <;> rfl

@[simp] theorem chooseSegment_slow (s : State) : (chooseSegment s).slow = s.slow := by
  unfold chooseSegment
  dsimp only
  (repeat' split) <;> simp

@[simp] theorem visitDone_slow (v : Visit) (s : State) : (visitDone v s).slow = s.slow := by
  unfold visitDone
  dsimp only
  (repeat' split) <;> simp

@[simp] theorem zeroShadowBank_slow (k : Nat) (s : State) : (zeroShadowBank k s).slow = s.slow := by
  unfold zeroShadowBank
  split <;> rfl

@[simp] theorem testSegmentComplete_slow (differs : Bool) (s : State) : (testSegmentComplete differs s).slow = s.slow := by
  unfold testSegmentComplete
  dsimp only
  (repeat' split) <;> simp

@[simp] theorem releaseHeld_slow (k : Nat) (s : State) : (releaseHeld k s).slow = s.slow := by
  unfold releaseHeld
  dsimp only
  (repeat' split) <;> simp

@[simp] theorem endHeld_slow (d : Dispute) (status : Nat) (s : State) : (endHeld d status s).slow = s.slow := by
  unfold endHeld
  (repeat' split) <;> simp

@[simp] theorem quarantineLater_slow (k : Nat) (s : State) : (quarantineLater k s).slow = s.slow := by
  unfold quarantineLater
  split <;> simp

@[simp] theorem verdict_slow (v : Verdict) (d : Dispute) (ref : Option Nat) (s : State) : (verdict v d ref s).slow = s.slow := by
  unfold verdict
  (repeat' split) <;> simp

@[simp] theorem voidReferee_slow (r : Nat) (s : State) : (voidReferee r s).slow = s.slow := by
  unfold voidReferee
  simp

@[simp] theorem voidAttempt_slow (d : Dispute) (s : State) : (voidAttempt d s).slow = s.slow := by
  unfold voidAttempt
  extract_lets x1 x2
  have hx1 : State.slow x1 = s.slow := by simp only [x1]; rfl
  clear_value x1
  (repeat' split) <;> simp [*]

@[simp] theorem recomputeDone_slow (r : Recompute) (s : State) : (recomputeDone r s).slow = s.slow := (rfl)

@[simp] theorem recomputeComplete_slow (t : Nat) (x : RecomputeResult) (s : State) : (recomputeComplete t x s).slow = s.slow := by
  unfold recomputeComplete
  dsimp only
  (repeat' split) <;> first | with_reducible rfl | simp

@[simp] theorem shadowOutcome_slow (r : Recompute) (z : Redo) (s : State) : (shadowOutcome r z s).slow = s.slow := by
  unfold shadowOutcome
  (repeat' split) <;> first | with_reducible rfl | simp

@[simp] theorem shadowRecomputeComplete_slow (t : Nat) (x : RecomputeResult) (s : State) : (shadowRecomputeComplete t x s).slow = s.slow := by
  unfold shadowRecomputeComplete
  (repeat' split) <;> simp

@[simp] theorem addRecompute_slow (x : Recompute) (s : State) : (addRecompute x s).slow = s.slow := (rfl)

@[simp] theorem chooseRecompute_slow (s : State) (t : Nat) : (chooseRecompute s t).slow = s.slow := by
  unfold chooseRecompute
  extract_lets x1 x2 x3 x4 x5
  try (have hx1 : State.slow x1 = s.slow := (by simp only [x1]; (repeat' split) <;> first | with_reducible rfl | simp [*, foldl_slow, apply_ite State.slow]); clear_value x1)
  try (have hx2 : State.slow x2 = s.slow := (by simp only [x2]; (repeat' split) <;> first | with_reducible rfl | simp [*, foldl_slow, apply_ite State.slow]); clear_value x2)
  try (have hx3 : State.slow x3 = s.slow := (by simp only [x3]; (repeat' split) <;> first | with_reducible rfl | simp [*, foldl_slow, apply_ite State.slow]); clear_value x3)
  try (have hx4 : State.slow x4 = s.slow := (by simp only [x4]; (repeat' split) <;> first | with_reducible rfl | simp [*, foldl_slow, apply_ite State.slow]); clear_value x4)
  try (have hx5 : State.slow x5 = s.slow := (by simp only [x5]; (repeat' split) <;> first | with_reducible rfl | simp [*, foldl_slow, apply_ite State.slow]); clear_value x5)
  (repeat' split) <;> first | with_reducible rfl | simp [*, foldl_slow, apply_ite State.slow]

@[simp] theorem testWindowStart_slow (s : State) : (testWindowStart s).slow = s.slow := by
  unfold testWindowStart
  (repeat' split) <;> simp [*, foldl_slow]

@[simp] theorem dropStopped_slow (s : State) : (dropStopped s).slow = s.slow := by
  unfold dropStopped
  (repeat' split) <;> first | with_reducible rfl | simp [*, foldl_slow, apply_ite State.slow]

@[simp] theorem testWindowEnd_slow (s : State) : (testWindowEnd s).slow = s.slow := by
  unfold testWindowEnd
  (repeat' split) <;> simp [*, foldl_slow]

@[simp] theorem relStatus_slow (st : Nat) (s : State) : (relStatus st s).slow = s.slow := (rfl)

@[simp] theorem relTestCfgWrite_slow (mid v : Nat) (s : State) : (relTestCfgWrite mid v s).slow = s.slow := by
  unfold relTestCfgWrite
  (repeat' split) <;> simp

@[simp] theorem relTestLenWrite_slow (mid v : Nat) (s : State) : (relTestLenWrite mid v s).slow = s.slow := by
  unfold relTestLenWrite
  (repeat' split) <;> simp

@[simp] theorem relShadowCfgWrite_slow (mid v : Nat) (s : State) : (relShadowCfgWrite mid v s).slow = s.slow := by
  unfold relShadowCfgWrite
  (repeat' split) <;> simp

@[simp] theorem State.modGov_slow (s : State) (f : Governor → Governor) : (State.modGov s f).slow = s.slow := (rfl)

@[simp] theorem recommend_slow (chip : Nat) (s : State) : (recommend chip s).slow = s.slow := by
  unfold recommend
  simp

@[simp] theorem recheckSuspects_slow (s : State) : (recheckSuspects s).slow = s.slow := by
  unfold recheckSuspects
  (repeat' split) <;> first | with_reducible rfl | simp [*, foldl_slow, apply_ite State.slow]

@[simp] theorem newCandidate_slow (s : State) (chip : Nat) : (newCandidate s chip).slow = s.slow := by
  unfold newCandidate
  dsimp only
  (repeat' split) <;> simp

@[simp] theorem governorStep_slow (s : State) : (governorStep s).slow = s.slow := by
  unfold governorStep
  (repeat' split) <;> first | with_reducible rfl | simp [*, foldl_slow, apply_ite State.slow]

@[simp] theorem healthPeriod_slow (s : State) : (healthPeriod s).slow = s.slow := by
  unfold healthPeriod
  simp

@[simp] theorem chipLostDeclaration_slow (chip : Nat) (s : State) : (chipLostDeclaration chip s).slow = s.slow := by
  unfold chipLostDeclaration
  split <;> simp

@[simp] theorem chipReturn_slow (chip : Nat) (s : State) : (chipReturn chip s).slow = s.slow := by
  unfold chipReturn
  split <;> simp

@[simp] theorem govTokenRefill_slow (s : State) : (govTokenRefill s).slow = s.slow := (rfl)

@[simp] theorem govLowerExpiry_slow (s : State) : (govLowerExpiry s).slow = s.slow := by
  unfold govLowerExpiry
  dsimp only
  (repeat' split) <;> simp

@[simp] theorem pathMonitorSample_slow (n slack : Nat) (s : State) : (pathMonitorSample n slack s).slow = s.slow := by
  unfold pathMonitorSample
  dsimp only
  split <;> simp

@[simp] theorem opticalPowerRead_slow (n : Nat) (power : Option Int) (s : State) : (opticalPowerRead n power s).slow = s.slow := by
  unfold opticalPowerRead
  dsimp only
  (repeat' split) <;> simp

@[simp] theorem relPmClear_slow (mid : Nat) (s : State) : (relPmClear mid s).slow = s.slow := by
  unfold relPmClear
  split <;> simp

@[simp] theorem correctionSummary_slow (s : State) : (correctionSummary s).slow = s.slow := by
  unfold correctionSummary
  split <;> simp

@[simp] theorem dumpWrite_slow (t off : Nat) (l : List Byte) (s : State) : (dumpWrite t off l s).slow = s.slow := (rfl)

@[simp] theorem relDumpClear_slow (mid : Nat) (s : State) : (relDumpClear mid s).slow = s.slow := by
  unfold relDumpClear
  (repeat' split) <;> simp

@[simp] theorem State.modDome_slow (s : State) (f : DomeState → DomeState) : (State.modDome s f).slow = s.slow := (rfl)

@[simp] theorem bootBank_slow (b fallback : Bool) (err : Byte) (x : BootRead) (s : State) : (bootBank b fallback err x s).slow = s.slow := by
  unfold bootBank
  simp

@[simp] theorem firmwareStart_slow (x : BootRead) (s : State) : (firmwareStart x s).slow = s.slow := by
  unfold firmwareStart
  dsimp only
  (repeat' split) <;> simp

@[simp] theorem configApplied_slow (s : State) : (configApplied s).slow = s.slow := by
  unfold configApplied
  (repeat' split) <;> simp [*, foldl_slow]

@[simp] theorem kick_slow (s : State) : (kick s).slow = s.slow := by
  unfold kick
  split <;> rfl

@[simp] theorem domeHeartbeat_slow (s : State) : (domeHeartbeat s).slow = s.slow := by
  unfold domeHeartbeat
  split <;> rfl

@[simp] theorem State.modSpdm_slow (s : State) (f : SpdmState → SpdmState) : (State.modSpdm s f).slow = s.slow := (rfl)

@[simp] theorem spdmReply_slow (r : SpdmReply) (s : State) : (spdmReply r s).slow = s.slow := (rfl)

@[simp] theorem spdmRequest_slow (f : State → State) (s : State) (h : ∀ t, (f t).slow = t.slow) : (spdmRequest f s).slow = s.slow := by
  unfold spdmRequest
  (repeat' split) <;> first | with_reducible rfl | simp [*]

@[simp] theorem spdmAgreed_slow (f : State → State) (s : State) (h : ∀ t, (f t).slow = t.slow) : (spdmAgreed f s).slow = s.slow := by
  unfold spdmAgreed
  (repeat' split) <;> first | with_reducible rfl | simp [*, foldl_slow, apply_ite State.slow]

@[simp] theorem spdmVersion_slow (s : State) : (spdmVersion s).slow = s.slow := (rfl)

@[simp] theorem spdmCapabilities_slow (s : State) : (spdmCapabilities s).slow = s.slow := by
  unfold spdmCapabilities
  split <;> rfl

@[simp] theorem spdmNegotiate_slow (common : Bool) (s : State) : (spdmNegotiate common s).slow = s.slow := by
  unfold spdmNegotiate
  (repeat' split) <;> simp

@[simp] theorem withIdentity_slow (f : State → State) (s : State) (h : ∀ t, (f t).slow = t.slow) : (withIdentity f s).slow = s.slow := by
  unfold withIdentity
  (repeat' split) <;> first | with_reducible rfl | simp [*]

@[simp] theorem measurements_slow (s : State) : (measurements s).slow = s.slow := (rfl)

@[simp] theorem keyExchange_slow (id : Nat) (s : State) : (keyExchange id s).slow = s.slow := by
  unfold keyExchange
  dsimp only
  (repeat' split) <;> simp

@[simp] theorem finishSession_slow (id : Nat) (s : State) : (finishSession id s).slow = s.slow := by
  unfold finishSession
  split <;> rfl

@[simp] theorem inSession_slow (id : Nat) (f : State → State) (s : State) (h : ∀ t, (f t).slow = t.slow) : (inSession id f s).slow = s.slow := by
  unfold inSession
  (repeat' split) <;> first | with_reducible rfl | simp [*]

@[simp] theorem endSession_slow (id : Nat) (s : State) : (endSession id s).slow = s.slow := (rfl)

@[simp] theorem vendorRequest_slow (m : VendorMsg) (s : State) : (vendorRequest m s).slow = s.slow := by
  unfold vendorRequest
  (repeat' split) <;> simp

@[simp] theorem tileWrite_slow (n o : Nat) (l : List Byte) (s : State) : (tileWrite n o l s).slow = s.slow := (rfl)

@[simp] theorem logRecordWrite_slow (s : State) : (logRecordWrite s).slow = s.slow := by
  unfold logRecordWrite
  (repeat' split) <;> simp

@[simp] theorem debugTokenReceive_slow (t : DebugToken) (s : State) : (debugTokenReceive t s).slow = s.slow := by
  unfold debugTokenReceive
  (repeat' split) <;> simp

@[simp] theorem jtagInstruction_slow (op : JtagOp) (s : State) : (jtagInstruction op s).slow = s.slow := by
  unfold jtagInstruction
  split <;> rfl

@[simp] theorem startDump_slow (detector : Nat) (s : State) : (startDump detector s).slow = s.slow := by
  unfold startDump
  (repeat' split) <;> simp

@[simp] theorem fatalError_slow (detector : Nat) (s : State) : (fatalError detector s).slow = s.slow := by
  unfold fatalError
  (repeat' split) <;> simp

@[simp] theorem flashUnreadable_slow (n : Nat) (s : State) : (flashUnreadable n s).slow = s.slow := by
  unfold flashUnreadable
  simp

@[simp] theorem pageArrives_slow (n i : Nat) (s : State) : (pageArrives n i s).slow = s.slow := by
  unfold pageArrives
  (repeat' split) <;> first | with_reducible rfl | simp

@[simp] theorem flashPageRead_slow (n i : Nat) (ok : Bool) (s : State) : (flashPageRead n i ok s).slow = s.slow := by
  unfold flashPageRead
  dsimp only
  (repeat' split) <;> simp

@[simp] theorem flashWriteAck_slow (n : Nat) (failed : Option Nat) (s : State) : (flashWriteAck n failed s).slow = s.slow := by
  unfold flashWriteAck
  (repeat' split) <;> first | with_reducible rfl | simp

@[simp] theorem flashRelocation_slow (n : Nat) (ok : Bool) (s : State) : (flashRelocation n ok s).slow = s.slow := by
  unfold flashRelocation
  dsimp only
  (repeat' split) <;> first | with_reducible rfl | simp

@[simp] theorem loseTowerCommon_slow (t : Nat) (s : State) : (loseTowerCommon t s).slow = s.slow := by
  unfold loseTowerCommon
  extract_lets x1
  try (have hx1 : State.slow x1 = s.slow := (by simp only [x1]; (repeat' split) <;> first | with_reducible rfl | simp [*, foldl_slow, apply_ite State.slow]); clear_value x1)
  (repeat' split) <;> first | with_reducible rfl | simp [*, foldl_slow, apply_ite State.slow]

@[simp] theorem lanesOff_slow (d : Nat) (s : State) : (lanesOff d s).slow = s.slow := by
  unfold lanesOff
  (repeat' split) <;> first | with_reducible rfl | simp [*, foldl_slow, apply_ite State.slow]

@[simp] theorem loseFabric_slow (d : Nat) (s : State) : (loseFabric d s).slow = s.slow := by
  unfold loseFabric
  (repeat' split) <;> first | with_reducible rfl | simp [*, foldl_slow, apply_ite State.slow]

@[simp] theorem loseDomain_slow (d : Nat) (s : State) : (loseDomain d s).slow = s.slow := by
  unfold loseDomain
  (repeat' split) <;> first | with_reducible rfl | simp [*, foldl_slow, apply_ite State.slow]

@[simp] theorem gateDomain_slow (s : State) (d : Nat) : (gateDomain s d).slow = s.slow := by
  unfold gateDomain
  split <;> simp

@[simp] theorem pwrGateBody_slow (mask : Nat) (s : State) : (pwrGateBody mask s).1.slow = s.slow := by
  unfold pwrGateBody
  dsimp only
  (repeat' split) <;> simp [*, foldl_slow]

@[simp] theorem pwrUngateBody_slow (iss : Issuer) (mask : Nat) (s : State) : (pwrUngateBody iss mask s).1.slow = s.slow := by
  unfold pwrUngateBody
  dsimp only
  (repeat' split) <;> simp

@[simp] theorem wakeSpire_slow (k : Nat) (s : State) : (wakeSpire k s).slow = s.slow := by
  unfold wakeSpire
  (repeat' split) <;> simp

@[simp] theorem domainWoke_slow (d : Nat) (s : State) : (domainWoke d s).slow = s.slow := by
  unfold domainWoke
  (repeat' split) <;> first | with_reducible rfl | simp [*, foldl_slow, apply_ite State.slow]

@[simp] theorem serveWakers_slow (s : State) : (serveWakers s).slow = s.slow := by
  unfold serveWakers
  (repeat' split) <;> simp [*, foldl_slow]

@[simp] theorem domainReady_slow (d : Nat) (s : State) : (domainReady d s).slow = s.slow := by
  unfold domainReady
  split <;> simp

@[simp] theorem pwrStatus_slow (st : Nat) (s : State) : (pwrStatus st s).slow = s.slow := (rfl)

@[simp] theorem pwrWakeCfgBody_slow (v : Nat) (s : State) : (pwrWakeCfgBody v s).1.slow = s.slow := (rfl)

@[simp] theorem pwrCapBody_slow (cap : Nat) (s : State) : (pwrCapBody cap s).1.slow = s.slow := by
  unfold pwrCapBody
  split <;> rfl

@[simp] theorem State.modRail_slow (s : State) (r : Nat) (f : Rail → Rail) : (State.modRail s r f).slow = s.slow := (rfl)

@[simp] theorem avsAsk_slow (r : Nat) (ask : AvsAsk) (tries : Nat) (s : State) : (avsAsk r ask tries s).slow = s.slow := (rfl)

@[simp] theorem telemetryNext_slow (s : State) : (telemetryNext s).slow = s.slow := by
  unfold telemetryNext
  dsimp only
  split <;> rfl

@[simp] theorem avsSend_slow (s : State) : (avsSend s).slow = s.slow := by
  unfold avsSend
  (repeat' split) <;> simp

@[simp] theorem avsDone_slow (q : AvsRequest) (value : Nat) (s : State) : (avsDone q value s).slow = s.slow := by
  unfold avsDone
  split <;> rfl

@[simp] theorem avsFail_slow (q : AvsRequest) (s : State) : (avsFail q s).slow = s.slow := by
  unfold avsFail
  split <;> simp

@[simp] theorem avsResponse_slow (crcOk : Bool) (ack value : Nat) (s : State) : (avsResponse crcOk ack value s).slow = s.slow := by
  unfold avsResponse
  (repeat' split) <;> simp

@[simp] theorem avsTimeout_slow (s : State) : (avsTimeout s).slow = s.slow := by
  unfold avsTimeout
  (repeat' split) <;> simp

@[simp] theorem loopRail_slow (s : State) (r : Nat) : (loopRail s r).slow = s.slow := by
  unfold loopRail
  dsimp only
  (repeat' split) <;> simp

@[simp] theorem avsLoopTick_slow (s : State) : (avsLoopTick s).slow = s.slow := by
  unfold avsLoopTick
  (repeat' split) <;> simp [*, foldl_slow]

@[simp] theorem estopRaise_slow (cause : Nat) (s : State) : (estopRaise cause s).slow = s.slow := by
  unfold estopRaise
  (repeat' split) <;> simp [*, foldl_slow]

@[simp] theorem noteQuiet_slow (s : State) : (noteQuiet s).slow = s.slow := (rfl)

@[simp] theorem vrAlert_slow (s : State) : (vrAlert s).slow = s.slow := by
  unfold vrAlert
  split <;> simp

@[simp] theorem thermtrip_slow (s : State) : (thermtrip s).slow = s.slow := (rfl)

@[simp] theorem sensorSample_slow (temps volts : List Nat) (s : State) : (sensorSample temps volts s).slow = s.slow := by
  unfold sensorSample
  dsimp only
  (repeat' split) <;> simp

@[simp] theorem cancelDeep_slow (s : State) : (cancelDeep s).slow = s.slow := by
  unfold cancelDeep
  split <;> simp

@[simp] theorem powerFail_slow (s : State) : (powerFail s).slow = s.slow := by
  unfold powerFail
  split <;> simp

@[simp] theorem powerFailRecovery_slow (s : State) : (powerFailRecovery s).slow = s.slow := by
  unfold powerFailRecovery
  (repeat' split) <;> simp

@[simp] theorem snapshot_slow (old s : State) : (snapshot old s).slow = s.slow := by
  unfold snapshot
  exact (foldl_slow _ _ _ (fun t k => rfl))

@[simp] theorem pinEdge_slow (arg t : Nat) (s : State) : (pinEdge arg t s).slow = s.slow := by
  unfold pinEdge
  dsimp only
  split <;> simp

@[simp] theorem suppressAction_slow (c : TrigChan) (s : State) : (suppressAction c s).slow = s.slow := by
  unfold suppressAction
  split <;> simp

@[simp] theorem withinOrFree_slow (a b x : Nat) (s : State) : (withinOrFree a b x s).2.slow = s.slow := by
  unfold withinOrFree
  split <;> rfl

@[simp] theorem timeStateWrite_slow (v : Word) (s : State) : (timeStateWrite v s).slow = s.slow := by
  unfold timeStateWrite
  dsimp only
  (repeat' split) <;> simp

@[simp] theorem ppsOutCtrlWrite_slow (v : Word) (s : State) : (ppsOutCtrlWrite v s).slow = s.slow := (rfl)

@[simp] theorem capCtrlWrite_slow (mid c : Nat) (v : Word) (s : State) : (capCtrlWrite mid c v s).slow = s.slow := by
  unfold capCtrlWrite
  split <;> simp

@[simp] theorem clockWrite_slow (mid o : Nat) (v : Word) (s : State) : (clockWrite mid o v s).slow = s.slow := by
  unfold clockWrite
  (repeat' split) <;> simp

@[simp] theorem counterWrite_slow (mid o : Nat) (v : Word) (s : State) : (counterWrite mid o v s).slow = s.slow := by
  unfold counterWrite
  (repeat' split) <;> simp

@[simp] theorem doorbellWrite_slow (f : Nat) (v : Word) (s : State) : (doorbellWrite f v s).slow = s.slow := (rfl)

@[simp] theorem msixWrite_slow (f i : Nat) (v : Word) (s : State) : (msixWrite f i v s).slow = s.slow := by
  unfold msixWrite
  (repeat' split) <;> simp

@[simp] theorem pairStatus_slow (f q st : Nat) (s : State) : (pairStatus f q st s).slow = s.slow := (rfl)

@[simp] theorem pairBaseWrite_slow (f q i : Nat) (v : Word) (s : State) : (pairBaseWrite f q i v s).slow = s.slow := by
  unfold pairBaseWrite
  (repeat' split) <;> simp

@[simp] theorem qpSizeWrite_slow (f q : Nat) (v : Word) (s : State) : (qpSizeWrite f q v s).slow = s.slow := by
  unfold qpSizeWrite
  dsimp only
  (repeat' split) <;> simp

@[simp] theorem pairWrite_slow (mid q o : Nat) (v : Word) (s : State) : (pairWrite mid q o v s).slow = s.slow := by
  unfold pairWrite
  (repeat' split) <;> simp

@[simp] theorem rxCtrlWrite_slow (f : Nat) (v : Word) (s : State) : (rxCtrlWrite f v s).slow = s.slow := by
  unfold rxCtrlWrite
  dsimp only
  (repeat' split) <;> simp

@[simp] theorem rxBaseWrite_slow (f : Nat) (hi : Bool) (v : Word) (s : State) : (rxBaseWrite f hi v s).slow = s.slow := by
  unfold rxBaseWrite
  (repeat' split) <;> simp

@[simp] theorem rxWrite_slow (mid o : Nat) (v : Word) (s : State) : (rxWrite mid o v s).slow = s.slow := by
  unfold rxWrite
  (repeat' split) <;> simp

@[simp] theorem windowWrite_slow (n k o : Nat) (v : Word) (s : State) : (windowWrite n k o v s).slow = s.slow := by
  unfold windowWrite
  (repeat' split) <;> simp

@[simp] theorem guarded_slow (mid n : Nat) (f : State → State) (s : State) (h : ∀ t, (f t).slow = t.slow) : (guarded mid n f s).slow = s.slow := by
  unfold guarded
  (repeat' split) <;> first | with_reducible rfl | simp [*]

@[simp] theorem leaseCfgWrite_slow (n : Nat) (v : Word) (s : State) : (leaseCfgWrite n v s).slow = s.slow := by
  unfold leaseCfgWrite
  dsimp only
  (repeat' split) <;> simp

@[simp] theorem dispatcherWrite_slow (mid o : Nat) (v : Word) (s : State) : (dispatcherWrite mid o v s).slow = s.slow := by
  unfold dispatcherWrite
  (repeat' split) <;> simp

@[simp] theorem tierWrite_slow (mid o : Nat) (v : Word) (s : State) : (tierWrite mid o v s).slow = s.slow := by
  unfold tierWrite
  split
  · split
    · rfl
    · exact guarded_slow _ _ _ _ (fun t => rfl)
  · rfl

@[simp] theorem beQueueWrite_slow (n q o : Nat) (v : Word) (s : State) : (beQueueWrite n q o v s).slow = s.slow := by
  unfold beQueueWrite
  split <;> first | rfl | simp

@[simp] theorem beRouteWrite_slow (w : Nat) (v : Word) (s : State) : (beRouteWrite w v s).slow = s.slow := (rfl)

@[simp] theorem trafficWrite_slow (mid o : Nat) (v : Word) (s : State) : (trafficWrite mid o v s).slow = s.slow := by
  unfold trafficWrite
  (repeat' split) <;> simp

@[simp] theorem setGrant_slow (g : Nat) (x : Grant) (s : State) : (setGrant g x s).slow = s.slow := (rfl)

@[simp] theorem grantWrite_slow (g : Nat) (b : Bool) (v : Word) (s : State) : (grantWrite g b v s).slow = s.slow := by
  unfold grantWrite
  dsimp only
  (repeat' split) <;> simp

@[simp] theorem guardedGrant_slow (mid g : Nat) (b : Bool) (v : Word) (s : State) : (guardedGrant mid g b v s).slow = s.slow := by
  unfold guardedGrant
  (repeat' split) <;> simp [*, foldl_slow, apply_ite State.slow]

@[simp] theorem remoteWrite_slow (mid o : Nat) (v : Word) (s : State) : (remoteWrite mid o v s).slow = s.slow := by
  unfold remoteWrite
  (repeat' split) <;> simp

@[simp] theorem govRateWrite_slow (v : Word) (s : State) : (govRateWrite v s).slow = s.slow := (rfl)

@[simp] theorem govBurstWrite_slow (v : Word) (s : State) : (govBurstWrite v s).slow = s.slow := by
  unfold govBurstWrite
  simp

@[simp] theorem reliabilityWrite_slow (mid o : Nat) (v : Word) (s : State) : (reliabilityWrite mid o v s).slow = s.slow := by
  unfold reliabilityWrite
  (repeat' split) <;> first | with_reducible rfl | simp [*, foldl_slow, apply_ite State.slow]

@[simp] theorem wdogWrite_slow (v : Word) (s : State) : (wdogWrite v s).slow = s.slow := by
  unfold wdogWrite
  dsimp only
  (repeat' split) <;> simp

@[simp] theorem domeWrite_slow (mid o : Nat) (v : Word) (s : State) : (domeWrite mid o v s).slow = s.slow := by
  unfold domeWrite
  (repeat' split) <;> simp

@[simp] theorem seqCmdWrite_slow (mid k : Nat) (v : Word) (s : State) : (seqCmdWrite mid k v s).slow = s.slow := by
  unfold seqCmdWrite
  split <;> simp

@[simp] theorem spireWrite_slow (mid k o : Nat) (v : Word) (s : State) : (spireWrite mid k o v s).slow = s.slow := by
  unfold spireWrite
  (repeat' split) <;> simp

@[simp] theorem towerWrite_slow (t o : Nat) (v : Word) (s : State) : (towerWrite t o v s).slow = s.slow := by
  unfold towerWrite
  split <;> rfl

@[simp] theorem countIf_slow (k ev : Nat) (on : Bool) (s : State) : (countIf k ev on s).slow = s.slow := by
  unfold countIf
  split <;> simp

@[simp] theorem cycleEvents_slow (k : Nat) (s : State) : (cycleEvents k s).slow = s.slow := by
  unfold cycleEvents
  simp

@[simp] theorem wipeCycle_slow (k : Nat) (used : BitVec 64) (s : State) : (wipeCycle k used s).slow = s.slow := (rfl)

@[simp] theorem spireCycle_slow (s : State) (k : Nat) : (spireCycle s k).slow = s.slow := by
  unfold spireCycle
  split
  · rfl
  · split
    · simp [storeAccesses]
    · simp

@[simp] theorem minuetTick_slow (s : State) : (minuetTick s).slow = s.slow := by
  unfold minuetTick
  (repeat' split) <;> first | with_reducible rfl | simp

end Sys2Proof.Machine
end

