-- ==== Sys2Proof/Laws/Host.lean ====
section
/-! SUPPORT. What a change of a function, a queue pair, a lease or a stack leaves there and elsewhere. -/

set_option Elab.async false

namespace Sys2Proof.Machine

open Sys2Proof

theorem bitW_getLsbD (v : Word) (i : Nat) : bitW v i = v.getLsbD i := by
  unfold bitW bitAt
  rw [BitVec.getLsbD, Nat.testBit_eq_decide_div_mod_eq]
  rfl

@[simp] theorem func_modFunc (s : State) (n : Nat) (f : Func → Func) : (s.modFunc n f).func n = f (s.func n) := by
  unfold State.modFunc State.func; dsimp only; exact Tab.get_modify_same _ _ _ _

theorem func_modFunc_ne (s : State) {n m : Nat} (f : Func → Func) (h : m ≠ n) : (s.modFunc n f).func m = s.func m := by
  unfold State.modFunc State.func; dsimp only; exact Tab.get_modify_other _ _ _ (Ne.symm h)

@[simp] theorem pair_modPair (s : State) (n q : Nat) (f : Pair → Pair) : (s.modPair n q f).pair n q = f (s.pair n q) := by
  unfold State.modPair State.pair; rw [func_modFunc]; exact Tab.get_modify_same _ _ _ _

theorem pair_modPair_ne (s : State) {n q m r : Nat} (f : Pair → Pair) (h : m ≠ n ∨ r ≠ q) : (s.modPair n q f).pair m r = s.pair m r := by
  unfold State.modPair State.pair
  by_cases hm : m = n
  · subst hm
    rw [func_modFunc]
    exact Tab.get_modify_other _ _ _ (Ne.symm (h.resolve_left (fun g => g rfl)))
  · rw [func_modFunc_ne _ _ hm]

@[simp] theorem leaseOf_modLease (s : State) (n : Nat) (f : Lease → Lease) : (s.modLease n f).leaseOf n = f (s.leaseOf n) := by
  unfold State.modLease State.leaseOf; dsimp only; exact Tab.get_modify_same _ _ _ _

theorem leaseOf_modLease_ne (s : State) {n m : Nat} (f : Lease → Lease) (h : m ≠ n) : (s.modLease n f).leaseOf m = s.leaseOf m := by
  unfold State.modLease State.leaseOf; dsimp only; exact Tab.get_modify_other _ _ _ (Ne.symm h)

@[simp] theorem stack_modStack (s : State) (n : Nat) (f : HbmStack → HbmStack) : (s.modStack n f).stack n = f (s.stack n) := by
  unfold State.modStack State.stack; dsimp only; exact Tab.get_modify_same _ _ _ _

theorem stack_modStack_ne (s : State) {n m : Nat} (f : HbmStack → HbmStack) (h : m ≠ n) : (s.modStack n f).stack m = s.stack m := by
  unfold State.modStack State.stack; dsimp only; exact Tab.get_modify_other _ _ _ (Ne.symm h)

@[simp] theorem healthOf_modHealth (s : State) (k : Nat) (f : SpireHealth → SpireHealth) : (s.modHealth k f).healthOf k = f (s.healthOf k) := by
  unfold State.modHealth State.healthOf; dsimp only; exact Tab.get_modify_same _ _ _ _

/-- A doorbell bit changes no queue pair. -/
@[simp] theorem ringFunc_pair (n i : Nat) (s : State) (m q : Nat) : (ringFunc n i s).pair m q = s.pair m q := by
  unfold ringFunc sendVector
  dsimp only
  have h (f : Func → Func) (hf : ∀ u, (f u).pairs = u.pairs) (t : State) : (t.modFunc n f).pair m q = t.pair m q := by
    unfold State.pair
    by_cases hm : m = n
    · subst hm; rw [func_modFunc, hf]
    · rw [func_modFunc_ne _ _ hm]
  split
  · apply h; intro u; rfl
  · split
    · refine Eq.trans (h _ ?_ _) (h _ ?_ _) <;> intro u <;> rfl
    · show (State.modFunc s n _).pair m q = _
      apply h; intro u; rfl

/-- A doorbell bit is set. -/
theorem ringFunc_status (n i : Nat) (s : State) :
    ((ringFunc n i s).func n).dbStatus = (s.func n).dbStatus ||| BitVec.twoPow 32 i ∧ ((ringFunc n i s).func n).dbMask = (s.func n).dbMask := by
  unfold ringFunc sendVector
  dsimp only
  split
  · rw [func_modFunc]; exact ⟨rfl, rfl⟩
  · split
    · rw [func_modFunc, func_modFunc]; exact ⟨rfl, rfl⟩
    · show ((State.modFunc s n _).func n).dbStatus = _ ∧ ((State.modFunc s n _).func n).dbMask = _
      rw [func_modFunc]; exact ⟨rfl, rfl⟩

/-- A doorbell bit only adds to what leaves the package. -/
theorem ringFunc_out (n i : Nat) (s : State) : ∃ l, (ringFunc n i s).out = l ++ s.out := by
  unfold ringFunc sendVector
  dsimp only
  split
  · exact ⟨[], rfl⟩
  · split
    · exact ⟨[], rfl⟩
    · exact ⟨[_], rfl⟩

@[simp] theorem countBelfry_pair (e : Nat) (x : Option Nat) (c : Nat) (s : State) (m q : Nat) : (countBelfry e x c s).pair m q = s.pair m q := by
  have key : ∀ (b : Bool) (t : State), t.host = s.host → (if b then ringFunc 0 30 t else t).pair m q = s.pair m q := by
    intro b t ht
    have : t.pair m q = s.pair m q := by unfold State.pair State.func; rw [ht]
    cases b
    · exact this
    · exact (ringFunc_pair 0 30 t m q).trans this
  unfold countBelfry
  dsimp only
  split
  · exact key _ _ rfl
  · rfl

theorem countBelfry_out (e : Nat) (x : Option Nat) (c : Nat) (s : State) : ∃ l, (countBelfry e x c s).out = l ++ s.out := by
  have key : ∀ (b : Bool) (t : State), t.out = s.out → ∃ l, (if b then ringFunc 0 30 t else t).out = l ++ s.out := by
    intro b t ht
    cases b
    · exact ⟨[], ht⟩
    · rw [← ht]; exact ringFunc_out 0 30 t
  unfold countBelfry
  dsimp only
  split
  · exact key _ _ rfl
  · exact ⟨[], rfl⟩

/-- What an error record writes. -/
theorem errRecord_shape (a b c d e f g : Nat) (s : State) : ∃ x y z, errRecord a b c d e f g s = { s with
    rel := { s.rel with counters := { s.rel.counters with errSeq := satInc s.rel.counters.errSeq }, ring := x }, dome := y, out := z } := by
  unfold errRecord logEvent
  dsimp only
  split <;> split <;> (try split) <;> exact ⟨_, _, _, rfl⟩

/-- What a log event changes: the queue of records with the next SEQ, or the count of lost ones. -/
theorem logEvent_shape (e : LogEvent) (s : State) : ∃ q n l, logEvent e s = { s with
    dome := { s.dome with logQueue := q, logSeq := n, logLost := l } } := by
  unfold logEvent
  dsimp only
  split <;> exact ⟨_, _, _, rfl⟩

end Sys2Proof.Machine
end

