-- ==== Sys2Proof/Laws/Keep.lean ====
section
/-! SUPPORT. What every operation keeps but a reset: the invariant, CHIP_STATE, the Towers that are out of service, the lock of the
mailboxes, the queue and, from READY on, hall time. -/

set_option Elab.async false

namespace Sys2Proof.Machine

open Sys2Proof

/-- What an operation keeps, from a state that holds the invariant. -/
structure Kept (s t : State) : Prop where
  pending : t.pending = s.pending
  held    : t.clk.pendingReset = s.clk.pendingReset
  chip    : t.clk.chipState = s.clk.chipState
  locked  : s.host.locked = true → t.host.locked = true
  out     : ∀ k, s.rel.towerOut.getLsbD k = true → t.rel.towerOut.getLsbD k = true
  inv     : s.inv → t.inv
  hall    : s.inv → s.clk.chipState = .ready → t.time.hall = s.time.hall

theorem Kept.of_slow {s t : State} (h : t.slow = s.slow) : Kept s t := by
  simp only [State.slow, Slow.mk.injEq] at h
  obtain ⟨-, -, h1, -, -, h2, h3, h4, h5, h6, -, -, h7, h8, h9, h10, h11, h12⟩ := h
  refine ⟨h11, h4, h3, by rw [h10]; exact id, by rw [h7]; exact fun _ => id, ?_, ?_⟩
  · unfold State.inv; rw [h1, h2, h3, h5, h6, h8, h9, h12]; exact id
  · intro _ _; exact h1

theorem Kept.refl (s : State) : Kept s s := .of_slow rfl

theorem Kept.trans {s t u : State} (h : Kept s t) (g : Kept t u) : Kept s u where
  pending := g.pending.trans h.pending
  held := g.held.trans h.held
  chip := g.chip.trans h.chip
  locked := fun x => g.locked (h.locked x)
  out := fun k x => g.out k (h.out k x)
  inv := fun x => g.inv (h.inv x)
  hall := fun x y => (g.hall (h.inv x) (h.chip.trans y)).trans (h.hall x y)

theorem Kept.slow {s t u : State} (h : Kept s t) (g : u.slow = t.slow) : Kept s u := h.trans (.of_slow g)

theorem kept_foldl {α : Type} {f : State → α → State} (h : ∀ t a, Kept t (f t a)) (l : List α) (s : State) : Kept s (l.foldl f s) := by
  induction l generalizing s with
  | nil => exact .refl s
  | cons a r ih => exact (h s a).trans (ih _)

theorem kept_ite {c : Prop} [Decidable c] {s a b : State} (ha : Kept s a) (hb : Kept s b) : Kept s (if c then a else b) := by
  split <;> assumption

/-- A change of the slow fields that nothing depends on: the clock, the trigger channels, the increment, the causes. -/
theorem Kept.of_still {s t : State} (h1 : t.time.hall = s.time.hall) (h2 : t.time.setPending = s.time.setPending) (h3 : t.clk.chipState = s.clk.chipState)
    (h4 : t.clk.pendingReset = s.clk.pendingReset) (h5 : t.clk.done = s.clk.done) (h6 : t.clk.failed = s.clk.failed)
    (h7 : ∀ k, s.rel.towerOut.getLsbD k = true → t.rel.towerOut.getLsbD k = true) (h8 : t.pwr.level = s.pwr.level)
    (h9 : t.host.channels = s.host.channels) (h10 : t.host.locked = s.host.locked) (h11 : t.pending = s.pending)
    (h12 : t.time.edgeAt = s.time.edgeAt := by rfl) : Kept s t := by
  refine ⟨h11, h4, h3, by rw [h10]; exact id, h7, ?_, ?_⟩
  · unfold State.inv; rw [h1, h2, h3, h5, h6, h8, h9, h12]; exact id
  · intro _ _; exact h1

/-! ### The mailboxes -/

theorem modChannel_kept (s : State) (c : Nat) (f : Channel → Channel) (h : ∀ x : Channel, x.fifo.length ≤ 32 → (f x).fifo.length ≤ 32) :
    Kept s (s.modChannel c f) where
  pending := rfl
  held := rfl
  chip := rfl
  locked := id
  out := fun _ => id
  inv := by
    intro ⟨a, b, d, e, g⟩
    refine ⟨a, b, d, ?_, g⟩
    intro k
    show ((s.host.channels.modify Channel.reset c f).get Channel.reset k).fifo.length ≤ 32
    by_cases hk : c = k
    · subst hk; rw [Tab.get_modify_same]; exact h _ (e c)
    · rw [Tab.get_modify_other _ _ _ hk]; exact e k
  hall := fun _ _ => rfl

theorem settleDrain_kept (c : Nat) (s : State) : Kept s (settleDrain c s) := by
  unfold settleDrain
  dsimp only
  split
  · exact (modChannel_kept s c (fun y => { y with drainIrq := false }) (fun _ => id)).slow (ringMid_slow _ _ _)
  · exact .refl s

theorem push_kept (c : Nat) (v : Word) (s : State) : Kept s (push c v s) := by
  unfold push
  dsimp only
  split
  · exact modChannel_kept s c _ (fun _ h => h)
  · rename_i hf
    refine Kept.slow ?_ (ringMid_slow _ _ _)
    refine ⟨rfl, rfl, rfl, id, fun _ => id, ?_, fun _ _ => rfl⟩
    intro ⟨a, b, d, e, g⟩
    refine ⟨a, b, d, ?_, g⟩
    intro k
    show ((s.host.channels.modify Channel.reset c _).get Channel.reset k).fifo.length ≤ 32
    by_cases hk : c = k
    · subst hk
      rw [Tab.get_modify_same]
      have : ¬ 32 ≤ (s.host.channels.get Channel.reset c).fifo.length := hf
      simp only [List.length_append, List.length_singleton]
      omega
    · rw [Tab.get_modify_other _ _ _ hk]; exact e k

theorem domeReply_kept (mid type tag : Nat) (words : List Nat) (s : State) : Kept s (domeReply mid type tag words s) := by
  unfold domeReply
  split
  · exact (Kept.of_slow rfl : Kept s (s.emit _)).trans (kept_foldl (fun t w => push_kept _ (word w) t) _ _)
  · exact .refl s

theorem domeRequest_kept {c type tag : Nat} {hostOnly : Bool} {f : Nat → State → State} {s : State} (h : ∀ mid, Kept s (f mid s)) :
    Kept s (domeRequest c type tag hostOnly f s) := by
  unfold domeRequest
  split
  · exact .refl s
  · exact kept_ite (.refl s) <| kept_ite (domeReply_kept _ _ _ _ s) <| kept_ite (domeReply_kept _ _ _ _ s) (h _)

theorem messageWord_kept (c : Nat) (v : Word) (s : State) : Kept s (messageWord c v s) := by
  unfold messageWord
  dsimp only
  refine kept_ite (.refl s) ?_
  have k : ∀ (a : Word) (n : Nat), Kept s (s.modChannel c (fun y => { y with head := a, left := n })) := fun a n =>
    modChannel_kept s c _ (fun _ h => h)
  have d : ∀ a u, Kept u (domeMessage c a u) := fun a u => by
    unfold domeMessage
    exact kept_ite (.refl _) (domeRequest_kept (fun _ => domeReply_kept _ _ _ _ _))
  exact kept_ite ((k _ _).trans (d _ _)) (k _ _)

theorem mbTxWrite_kept (mid c : Nat) (v : Word) (s : State) : Kept s (mbTxWrite mid c v s) := by
  unfold mbTxWrite
  exact kept_ite (kept_ite (push_kept c v s) ((push_kept c v s).trans (messageWord_kept c v _))) (.refl s)

theorem mbCtrlWrite_kept (mid c v : Nat) (s : State) : Kept s (mbCtrlWrite mid c v s) := by
  unfold mbCtrlWrite
  split
  · exact (modChannel_kept s c (fun y => { y with overrun := y.overrun && !bitAt v 1, drainIrq := bitAt v 0 }) (fun _ h => h)).trans
      (settleDrain_kept c _)
  · exact .refl s

theorem mbBindWrite_kept (mid c : Nat) (v : Word) (s : State) : Kept s (mbBindWrite mid c v s) := by
  unfold mbBindWrite
  dsimp only
  split
  · exact .refl s
  · exact modChannel_kept s c _ (fun _ h => h)

theorem mbLockWrite_kept (mid : Nat) (v : Word) (s : State) : Kept s (mbLockWrite mid v s) := by
  unfold mbLockWrite
  split
  · exact .refl s
  · rename_i h
    refine ⟨rfl, rfl, rfl, fun g => ?_, fun _ => id, id, fun _ _ => rfl⟩
    simp [g] at h

theorem Channel.popped_length (b : Nat) (rest : List (Word × Nat)) (x : Channel) : (x.popped b rest).fifo.length ≤ rest.length + 1 := by
  unfold Channel.popped
  split
  · simp
  · exact Nat.le_succ _

theorem mbRxRead_kept (mid c : Nat) (s : State) : Kept s (mbRxRead mid c s) := by
  unfold mbRxRead
  dsimp only
  split
  · rename_i v t rest he
    refine kept_ite ?_ (.refl s)
    have k : Kept s (s.modChannel c (Channel.popped s.bclkTick rest)) := by
      refine ⟨rfl, rfl, rfl, id, fun _ => id, ?_, fun _ _ => rfl⟩
      intro ⟨a, b, d, e, g⟩
      refine ⟨a, b, d, fun k => ?_, g⟩
      show ((s.host.channels.modify Channel.reset c _).get Channel.reset k).fifo.length ≤ 32
      by_cases hk : c = k
      · subst hk
        rw [Tab.get_modify_same]
        have h2 : (s.host.channels.get Channel.reset c).fifo = (v, t) :: rest := he
        have h1 := e c
        rw [h2, List.length_cons] at h1
        exact Nat.le_trans (Channel.popped_length _ _ _) h1
      · rw [Tab.get_modify_other _ _ _ hk]; exact e k
    have k2 := k.trans (settleDrain_kept c _)
    split
    · exact k2.trans (messageWord_kept c _ _)
    · exact k2
  · exact .refl s

theorem emptyChannels_kept (mid : Nat) (s : State) : Kept s (emptyChannels mid s) := by
  unfold emptyChannels
  refine kept_foldl (fun t c => ?_) _ _
  split
  · exact (modChannel_kept t c (fun y => { y with fifo := [] }) (fun _ _ => Nat.zero_le _)).trans (settleDrain_kept c _)
  · exact .refl t

theorem bindChannels_kept (l : List (Nat × Nat)) (s : State) : Kept s (bindChannels l s) := by
  unfold bindChannels
  exact kept_foldl (fun t (p : (Nat × Nat) × Nat) => modChannel_kept t p.2 (fun y => { y with
    valid := true, sender := BitVec.ofNat 13 p.1.1, receiver := BitVec.ofNat 13 p.1.2 }) (fun _ h => h)) _ _

theorem leaseResetComplete_kept (n : Nat) (s : State) : Kept s (leaseResetComplete n s) := by
  unfold leaseResetComplete
  split
  · refine ((Kept.of_slow (stopLog_slow n s)).trans (emptyChannels_kept (n + 1) _)).slow ?_
    generalize emptyChannels (n + 1) (stopLog n s) = u
    rfl
  · exact .refl s

/-! ### The time unit and the trigger channels -/

theorem HallTime.ok_hallOf (u : Nat) : (hallOf u).ok = true := by
  unfold HallTime.ok hallOf
  have h : u / 2 ^ 32 % nsPerSec < nsPerSec := Nat.mod_lt _ (by decide)
  have h2 : nsPerSec = 1000000000 := rfl
  simp only [BitVec.toNat_ofNat, decide_eq_true_eq]
  omega

theorem timeIncrHiWrite_kept (mid : Nat) (v : Word) (s : State) : Kept s (timeIncrHiWrite mid v s) := by
  have h : ∀ f : TimeState → TimeState, (∀ t, (f t).hall = t.hall ∧ (f t).setPending = t.setPending ∧ (f t).edgeAt = t.edgeAt) → Kept s (s.modTime f) := fun f hf =>
    .of_still (hf _).1 (hf _).2.1 rfl rfl rfl rfl (fun _ => id) rfl rfl rfl rfl (hf _).2.2
  unfold timeIncrHiWrite rejectIncr
  dsimp only
  split
  · split
    · split
      · exact .of_still rfl rfl rfl rfl rfl rfl (fun _ => id) rfl rfl rfl rfl
      · exact .of_still rfl rfl rfl rfl rfl rfl (fun _ => id) rfl rfl rfl rfl
    · exact .of_slow rfl
  · exact .of_slow rfl

theorem coarseSet_kept {x y : HallTime} {s : State} (h : x.ok = true) (hy : y.ok = true) (hs : s.clk.chipState ≠ .ready) :
    Kept s ((coarseSet x y s).modTime (fun t => { t with setPending := none })) where
  pending := rfl
  held := rfl
  chip := rfl
  locked := id
  out := fun _ => id
  inv := fun ⟨_, _, a, b, c, d, _⟩ => ⟨h, fun z g => g.elim (fun g => by cases g) (fun g => by cases g; exact hy), a, b, c, d, fun _ => rfl⟩
  hall := fun _ b => absurd b hs

theorem timeSetGo_kept (mid : Nat) (mode : Bool) (s : State) : Kept s (timeSetGo mid mode s) := by
  unfold timeSetGo
  dsimp only
  split
  · split
    · exact .of_slow rfl
    · rename_i hset
      have nr : s.clk.chipState ≠ .ready := by
        intro h; simp [State.settable, h] at hset
      split
      · exact .of_slow rfl
      · rename_i hns
        have ok : s.time.setValue.ok = true := by
          have : ¬ 999999999 < s.time.setNs.toNat := hns
          show decide (s.time.setNs.toNat ≤ 999999999) = true
          simp only [decide_eq_true_eq]; omega
        split
        · exact ⟨rfl, rfl, rfl, id, fun _ => id, fun ⟨a, b, d, e, f, g, _⟩ =>
            ⟨a, fun y hy => hy.elim (fun hy => by cases hy; exact ok) (fun hy => b y (.inr hy)), d, e, f, g, fun b => absurd b nr⟩,
            fun _ b => absurd b nr⟩
        · exact (Kept.of_slow rfl : Kept s (s.modTime (fun t => { t with setMode := mode }))).trans (coarseSet_kept ok ok nr)
  · exact .refl s

theorem ppsInEdge_kept (rising : Bool) (phase : Nat) (s : State) : Kept s (ppsInEdge rising phase s) := by
  unfold ppsInEdge
  dsimp only
  have k : Kept s (captureAt (hallOf (s.nowAt phase)) 1 0 rising { s with pins := { s.pins with ppsIn := rising } }) :=
    .of_slow (captureAt_slow _ _ _ _ _)
  generalize captureAt (hallOf (s.nowAt phase)) 1 0 rising { s with pins := { s.pins with ppsIn := rising } } = u at k
  split
  · rename_i x he
    have nr : s.inv → s.clk.chipState ≠ .ready := fun hi h => by rw [hi.2.2.2.2.2.2 h] at he; cases he
    refine ⟨k.pending, k.held, k.chip, k.locked, k.out, fun hi => ?_, fun hi b => absurd b (nr hi)⟩
    exact (coarseSet_kept (hi.2.1 _ (.inl he)) (HallTime.ok_hallOf _) (fun h => nr hi (k.chip.symm.trans h))).inv (k.inv hi)
  · exact k

theorem modTrigger_kept (n : Nat) (f : TrigChan → TrigChan) (s : State) : Kept s (s.modTrigger n f) :=
  .of_still rfl rfl rfl rfl rfl rfl (fun _ => id) rfl rfl rfl rfl

theorem trigCtrlTakes_kept (mid n : Nat) (v : Word) (s : State) : Kept s (trigCtrlTakes mid n v s) := by
  unfold trigCtrlTakes
  exact kept_ite ((modTrigger_kept n _ s).slow (radioSlotsLost_slow _ _ _ _)) (modTrigger_kept n _ s)

theorem trigWrite_kept (mid n o : Nat) (v : Word) (s : State) : Kept s (trigWrite mid n o v s) := by
  unfold trigWrite
  exact kept_ite (modTrigger_kept n _ s) (kept_ite (trigCtrlTakes_kept mid n v s) (modTrigger_kept n _ s))

theorem trigCtrlWrite_kept (mid n : Nat) (v : Word) (s : State) : Kept s (trigCtrlWrite mid n v s) := by
  unfold trigCtrlWrite
  exact kept_ite (.refl s) (trigWrite_kept mid n 0 v s)

/-! ### Register writes -/

theorem timeSetCtrlWrite_kept (v : Word) (s : State) : Kept s (timeSetCtrlWrite v s) := by
  unfold timeSetCtrlWrite
  split
  · exact timeSetGo_kept _ _ s
  · exact .of_slow rfl

theorem timeDomeWrite_kept (o : Nat) (v : Word) (s : State) : Kept s (timeDomeWrite o v s) := by
  unfold timeDomeWrite
  split
  · exact .of_slow (timeStateWrite_slow v s)
  · exact .of_slow rfl
  · exact .of_slow rfl
  · exact .of_slow rfl
  · exact .of_slow rfl
  · exact timeSetCtrlWrite_kept v s
  · exact .of_slow (ppsOutCtrlWrite_slow v s)
  · exact .refl s

theorem timeWrite_kept (mid o : Nat) (v : Word) (s : State) : Kept s (timeWrite mid o v s) := by
  unfold timeWrite
  split
  · exact .of_slow (by split <;> simp)
  · split
    · exact .of_slow (by simp)
    · split
      · exact timeIncrHiWrite_kept mid v s
      · split
        · exact trigWrite_kept mid _ _ v s
        · exact .of_slow (by split <;> simp)
        · split
          · exact timeDomeWrite_kept o v s
          · exact .refl s

theorem channelWrite_kept (mid c o : Nat) (v : Word) (s : State) : Kept s (channelWrite mid c o v s) := by
  unfold channelWrite
  split
  · exact mbTxWrite_kept mid c v s
  · split
    · exact mbCtrlWrite_kept mid c _ s
    · exact .refl s

theorem mailboxWrite_kept (mid o : Nat) (v : Word) (s : State) : Kept s (mailboxWrite mid o v s) := by
  unfold mailboxWrite
  split
  · exact mbBindWrite_kept mid _ v s
  · exact channelWrite_kept mid _ _ v s
  · exact .of_slow (by split <;> simp)
  · exact .of_slow (by split <;> simp)
  · split
    · exact mbLockWrite_kept mid v s
    · exact .of_slow (by (repeat' split) <;> simp)

theorem leasePageWrite_kept (n o : Nat) (v : Word) (s : State) : Kept s (leasePageWrite n o v s) := by
  unfold leasePageWrite
  dsimp only
  split
  · exact .of_slow (by simp)
  · exact channelWrite_kept _ _ _ v s
  · exact .of_slow (by simp)
  · exact .of_slow (by simp)
  · exact .of_slow (by (repeat' split) <;> simp)

theorem bar0Write_kept (mid off : Nat) (v : Word) (s : State) : Kept s (bar0Write mid off v s) := by
  unfold bar0Write
  split
  · rename_i t sp o _
    refine kept_ite (.refl s) ?_
    cases sp with
    | none => exact .of_slow (towerWrite_slow _ _ _ _)
    | some k => exact .of_slow (spireWrite_slow _ _ _ _ _)
  · exact kept_ite (.refl s) <| kept_ite (timeWrite_kept mid _ v s) <| kept_ite (.of_slow (clockWrite_slow _ _ _ _)) <|
      kept_ite (.of_slow (counterWrite_slow _ _ _ _)) <| kept_ite (mailboxWrite_kept mid _ v s) <|
      kept_ite (.of_slow (dispatcherWrite_slow _ _ _ _)) <| kept_ite (.of_slow (tierWrite_slow _ _ _ _)) <|
      kept_ite (kept_ite (.of_slow (laneCtrlWrite_slow _ _ _ _)) (.refl s)) <| kept_ite (.refl s) <|
      kept_ite (.of_slow (trafficWrite_slow _ _ _ _)) <| kept_ite (.of_slow (remoteWrite_slow _ _ _ _)) <| kept_ite (.refl s) <|
      kept_ite (.of_slow (reliabilityWrite_slow _ _ _ _)) <| kept_ite (.of_slow (domeWrite_slow _ _ _ _)) (.refl s)

theorem onBus_kept {f : State → State} {s : State} (h : Kept s (f s)) : Kept s (onBus f s) := by
  unfold onBus
  exact kept_ite h (.refl s)

theorem regWrite_kept (mid off : Nat) (v : Word) {f : State → State} (s : State) (h : ∀ u, Kept u (f u)) : Kept s (regWrite mid off v f s) := by
  unfold regWrite
  dsimp only
  have k : Kept s (if s.blockStopped off then returnToRun s else s) := kept_ite (.of_slow (returnToRun_slow s)) (.refl s)
  generalize (if s.blockStopped off then returnToRun s else s) = u at k
  exact kept_ite (k.trans (h u)) ((k.slow (touchDomains_slow (domainOf off) u)).trans (.of_slow rfl))

theorem bar0Row_kept (mid off : Nat) (v : Word) {f : State → State} (s : State) (h : ∀ u, Kept u (f u)) : Kept s (bar0Row mid off v f s) := by
  unfold bar0Row
  exact kept_ite (regWrite_kept mid off v s h) (.refl s)

theorem bar0Access_kept (mid off : Nat) (v : Word) (s : State) : Kept s (bar0Access mid off v s) := by
  unfold bar0Access
  exact kept_ite (regWrite_kept mid off v s (fun u => bar0Write_kept mid off v u)) (.refl s)

theorem brokenAccess_kept (mid off : Nat) (s : State) : Kept s (brokenAccess mid off s) := by
  unfold brokenAccess
  exact kept_ite (.of_slow rfl) ((Kept.of_slow rfl : Kept s s.useFree).trans (bar0Access_kept _ _ _ _))

theorem registerWrite_kept (mid page off size : Nat) (v : Word) (s : State) : Kept s (registerWrite mid page off size v s) := by
  unfold registerWrite
  exact kept_ite (.refl s) <| kept_ite (.of_slow rfl) <|
    kept_ite (kept_ite (.refl s) <| kept_ite (bar0Access_kept _ _ _ s) (brokenAccess_kept _ _ s)) <|
    kept_ite (leasePageWrite_kept _ _ _ s) (.refl s)

theorem servedWrites_kept (s : State) : Kept s (servedWrites s) := by
  unfold servedWrites
  exact (Kept.of_slow rfl : Kept s (s.modPwr _)).trans (kept_foldl (fun t w => bar0Write_kept _ _ _ t) _ _)

/-! ### Clocks and Towers -/

theorem startPhase1_kept (s : State) : Kept s (startPhase1 s) :=
  .of_still rfl rfl rfl rfl rfl rfl (fun _ => id) rfl rfl rfl rfl

theorem pllLock_kept (s : State) : Kept s (pllLock s) := by
  unfold pllLock
  split
  · dsimp only
    have k : Kept s (s.modClk (fun c => { c with lanePll := true, hbmPll := true, uciePll := true, rootLock := true })) := .of_slow rfl
    exact kept_ite k (k.trans (startPhase1_kept _))
  · exact .refl s

theorem towerOut_kept (t : Nat) (s : State) : Kept s (towerOut t s) := by
  unfold towerOut
  dsimp only
  refine Kept.trans (t := { s with
    clk := { s.clk with towerFail := s.clk.towerFail ||| BitVec.twoPow 4 t }
    rel := { s.rel with
      towerOut := s.rel.towerOut ||| BitVec.twoPow 4 t
      inService := (tileRange (8 * t) 8).foldl (fun (b : BitVec 32) k => b &&& ~~~BitVec.twoPow 32 k) s.rel.inService } }) ?_
    (kept_foldl (fun u k => .of_slow ?_) _ _)
  · refine .of_still rfl rfl rfl rfl rfl rfl (fun k h => ?_) rfl rfl rfl rfl
    show (s.rel.towerOut ||| BitVec.twoPow 4 t).getLsbD k = true
    rw [BitVec.getLsbD_or, h, Bool.true_or]
  · rw [fenceSpire_slow, State.modHealth_slow]

theorem recordLink_kept (s : State) (p : Nat × Option (Nat × Nat)) : Kept s (recordLink s p) := by
  unfold recordLink
  dsimp only
  have k : Kept s (s.modClk (fun c => { c with lat := c.lat.set UcieLat.reset p.1 (linkResult p.2) })) := .of_slow rfl
  exact kept_ite k (k.trans (towerOut_kept p.1 _))

theorem ucieTrainingLoss_kept (t : Nat) (s : State) : Kept s (ucieTrainingLoss t s) := by
  unfold ucieTrainingLoss
  dsimp only
  have k : Kept s (dropQueues t (loseTower t (errRecord 10 4 t 0 0 0 0 (towerOut t s)))) :=
    (towerOut_kept t s).slow (by rw [dropQueues_slow, loseTower_slow, errRecord_slow])
  exact kept_ite (kept_ite (k.slow (mapTowerLost_slow t _)) k) (.refl s)

theorem droopDetection_kept (s : State) : Kept s (droopDetection s) := by
  unfold droopDetection
  split
  · refine Kept.slow (t := { s with
      clock := { s.clock with skip := s.clock.skip + 1 }, clk := { s.clk with stretchUsed := s.clk.stretchUsed + 1 } }) ?_
      (countNd_slow _ _ _ _)
    exact .of_still rfl rfl rfl rfl rfl rfl (fun _ => id) rfl rfl rfl rfl
  · exact .refl s

/-! ### Triggers -/

theorem clocksPeriod_kept (s : State) : Kept s (clocksPeriod s) :=
  .of_still rfl rfl rfl rfl rfl rfl (fun _ => id) rfl rfl rfl rfl

theorem periodStart_kept (t : Nat) (s : State) : Kept s (periodStart t s) := by
  unfold periodStart
  dsimp only
  have k : Kept s (clocksPeriod (livenessPeriod (drainPeriodEnd (takeActivation t (takeSwitch t s))))) :=
    (Kept.of_slow (by rw [livenessPeriod_slow, drainPeriodEnd_slow, takeActivation_slow, takeSwitch_slow])).trans (clocksPeriod_kept _)
  generalize clocksPeriod (livenessPeriod (drainPeriodEnd (takeActivation t (takeSwitch t s)))) = u at k
  have k2 : Kept s (healthPeriod (beSample ((u.modTime (fun x => { x with periods := x.periods + 1, periodTarget := t })).modPwr
      (fun p => { p with restart := false })))) := k.slow (by rw [healthPeriod_slow, beSample_slow]; rfl)
  exact kept_ite k2 (k2.slow (retestQueue_slow _))

theorem commitIncr_kept (x : Nat) (s : State) : Kept s (commitIncr x s) := by
  unfold commitIncr
  split <;> exact .of_still rfl rfl rfl rfl rfl rfl (fun _ => id) rfl rfl rfl rfl

theorem holdOver_kept (s : State) : Kept s (holdOver s) := by
  unfold holdOver
  have k : Kept s (ringDome 7 (setServo tsHoldover (s.modTime (fun t => { t with inBound := 0 })))) := .of_slow (by simp)
  exact (k.trans (commitIncr_kept _ _)).trans (.of_slow rfl)

theorem syncHoldover_kept (s : State) : Kept s (syncHoldover s) := by
  unfold syncHoldover
  exact kept_ite (holdOver_kept s) (.refl s)

theorem enterLight_kept (m : PowerMode) (s : State) : Kept s (enterLight m s) := by
  unfold enterLight
  dsimp only
  have k : Kept s (if m = .sleep then lanesOff 21 (lanesOff 20 s) else s) := kept_ite (.of_slow (by simp)) (.refl s)
  exact (kept_ite (k.trans (holdOver_kept _)) k).trans (.of_slow rfl)

theorem enterPower_kept (m : PowerMode) (who : Option Issuer) (s : State) : Kept s (enterPower m who s).1 := by
  unfold enterPower
  split
  · exact .refl s
  · exact enterLight_kept _ s
  · exact enterLight_kept _ s
  · exact .of_slow rfl
  · exact .of_slow rfl

theorem powerEntryFires_kept (s : State) : Kept s (powerEntryFires s) := by
  unfold powerEntryFires
  split
  · exact .refl s
  · dsimp only
    have k : Kept s (s.modPwr (fun p => { p with entry := none })) := .of_slow rfl
    exact kept_ite ((k.trans (enterPower_kept _ _ _)).slow (pwrStatus_slow _ _)) (k.slow (pwrStatus_slow _ _))

theorem pwrStateBody_kept (iss : Issuer) (target : Nat) (atTrigger : Bool) (s : State) : Kept s (pwrStateBody iss target atTrigger s).1 := by
  unfold pwrStateBody
  split
  · exact .refl s
  · rename_i m _
    have k : Kept s (if s.pwr.mode = m then s else returnToRun s) := kept_ite (.refl s) (.of_slow (returnToRun_slow s))
    generalize (if s.pwr.mode = m then s else returnToRun s) = u at k
    dsimp only
    have kp : Kept s (u.modPwr (fun p => { p with entry := some m })) := k.slow rfl
    (repeat' split) <;> first | exact .refl s | exact k | exact kp | exact k.trans (enterPower_kept _ _ _)

/-- A queue command keeps what its body keeps. -/
theorem queueCommand_kept (op : Nat) (iss : Issuer) {body : State → State × Option Reply} (s : State) (h : ∀ u, Kept u (body u).1) :
    Kept s (queueCommand op iss body s) := by
  unfold queueCommand
  dsimp only
  have k : Kept s (takeStarted iss s) := .of_slow rfl
  have k2 : Kept s (if isPowerOp op then takeStarted iss s else returnToRun (takeStarted iss s)) :=
    kept_ite k (k.slow (returnToRun_slow _))
  generalize (if isPowerOp op then takeStarted iss s else returnToRun (takeStarted iss s)) = u at k2
  have kb := k2.trans (h u)
  have no : ∀ r : Reply, Kept s (complete iss op r (takeStarted iss s)) := fun r => k.slow (complete_slow _ _ _ _)
  refine kept_ite k <| kept_ite k <| kept_ite (no _) <| kept_ite (no _) <| kept_ite (no _) ?_
  split
  · rename_i t r e
    rw [e] at kb
    exact Kept.slow (kept_ite (kb.slow (stayLow_slow _ _)) kb) (complete_slow _ _ _ _)
  · rename_i t e
    rw [e] at kb
    exact kb

theorem channelActs_kept (old : State) (s : State) (n : Nat) : Kept s (channelActs old s n) := by
  unfold channelActs
  dsimp only
  refine kept_ite (.of_slow (suppressAction_slow _ _)) ?_
  unfold fireAction
  dsimp only
  split
  · exact periodStart_kept _ s
  · exact .of_slow (by split <;> simp)
  · exact .of_slow (radioSlotStart_slow _ _ _)
  · exact .of_slow (snapshot_slow _ _)
  · exact powerEntryFires_kept _
  · exact .of_slow (pinEdge_slow _ _ _)
  · exact .of_slow (ringMid_slow _ _ _)
  · exact .refl s

theorem triggerFire_kept (s : State) : Kept s (triggerFire s) := by
  unfold triggerFire
  dsimp only
  have late : ∀ (t : State) (n : Nat), Kept t (lateWrites t n) := fun t n => by
    unfold lateWrites
    exact (modTrigger_kept n _ t).trans (kept_foldl (fun u w => kept_ite (trigCtrlTakes_kept _ n _ u) (modTrigger_kept n _ u)) _ _)
  exact kept_ite (.refl s) (((kept_foldl (fun t n => modTrigger_kept n _ t) _ _).trans (kept_foldl (channelActs_kept s) _ _)).trans
    (kept_foldl late _ _))

/-! ### The Dome -/

theorem stage_kept (c tag kind first tiles mid : Nat) (s : State) : Kept s (stage c tag kind first tiles mid s) := by
  unfold stage
  dsimp only
  have no : ∀ st t, Kept s t → Kept s (domeReply mid 2 tag [st] (logEvent (.stage st) t)) := fun st t k =>
    (k.slow (logEvent_slow _ t)).trans (domeReply_kept _ _ _ _ _)
  split
  · exact no stBadArg s (.refl s)
  · split
    · exact no stConflict s (.refl s)
    · split
      · exact no stUnusable _ (.of_slow (consumePoison_slow 1 s))
      · exact .of_slow (State.modDome_slow _ _)

theorem stageComplete_kept (programs : Bool) (supplied : BankImg) (s : State) : Kept s (stageComplete programs supplied s) := by
  unfold stageComplete
  split
  · exact .refl s
  · extract_lets a x st s1 s2
    have k : Kept s s2 := .of_slow ((logEvent_slow _ _).trans (State.modDome_slow _ _))
    clear_value s2
    split
    · exact k.trans (domeReply_kept _ _ _ _ _)
    · exact k

theorem logRead_kept (tag fromSeq count first mid : Nat) (s : State) : Kept s (logRead tag fromSeq count first mid s) := by
  unfold logRead
  dsimp only
  refine kept_ite (domeReply_kept _ _ _ _ s) <| kept_ite (domeReply_kept _ _ _ _ s) ?_
  exact (kept_foldl (fun t p => .of_slow (by simp)) _ _).trans (domeReply_kept _ _ _ _ _)

/-! ### Power -/

theorem setLevel_kept (n : Nat) (s : State) (h : n ≤ 32) : Kept s (setLevel n s) := by
  unfold setLevel
  dsimp only
  exact (⟨rfl, rfl, rfl, id, fun _ => id, fun ⟨a, b, _, d⟩ => ⟨a, b, h, d⟩, fun _ _ => rfl⟩ :
    Kept s (s.modPwr (fun p => { p with level := n }))).trans (kept_foldl (fun t k => .of_slow (replayIssue_slow _ _ _)) _ _)

theorem throttleMax_le (s : State) : s.throttleMax ≤ 32 := by
  unfold State.throttleMax
  exact Nat.le_trans (List.length_filter_le _ _) (Nat.le_of_eq List.length_range)

theorem throttleSample_kept (s : State) : Kept s (throttleSample s) := by
  unfold throttleSample
  dsimp only
  refine kept_ite (.refl s) ?_
  have k1 : Kept s (noteQuiet (s.modPwr (fun x => { x with samples := (s.modulePower :: x.samples).take meanOf, sampleAt := s.sampleNo }))) :=
    .of_slow ((noteQuiet_slow _).trans rfl)
  have k2 := kept_ite (c := 2700 < s.modulePower) (k1.slow (estopRaise_slow causePeak _)) k1
  have k3 := fun c [Decidable c] => kept_ite (c := c) (k2.slow (estopRaise_slow causeSustained _)) k2
  exact kept_ite (k3 _) ((k3 _).trans (setLevel_kept _ _ (Nat.le_trans (Nat.min_le_right _ _) (throttleMax_le _))))

theorem estopEnd_kept (s : State) : Kept s (estopEnd s) := by
  unfold estopEnd
  split
  · exact .refl s
  · refine kept_ite ?_ (.refl s)
    extract_lets p1 p2 a s2
    have k : Kept s a := .of_slow rfl
    exact (k.trans (setLevel_kept _ _ (Nat.le_trans (Nat.min_le_left _ _) (by decide)))).trans
      (kept_foldl (fun u k => .of_slow (resumeSpire_slow k u)) _ _)

/-! ### What a command can do -/

/-- What every command does to the queue, and, from a state that holds the invariant, to the invariant, CHIP_STATE, the Towers, the
lock and hall time. -/
structure Moved (s t : State) : Prop where
  pending : t.pending = s.pending
  inv     : s.inv → t.inv
  rest    : s.inv → t.fresh ∨ (s.chipMoves t ∧ (s.host.locked = true → t.host.locked = true) ∧
    (∀ k, s.rel.towerOut.getLsbD k = true → t.rel.towerOut.getLsbD k = true) ∧ (s.clk.chipState = .ready → t.time.hall = s.time.hall))

theorem Kept.moved {s t : State} (h : Kept s t) : Moved s t :=
  ⟨h.pending, h.inv, fun hi => .inr ⟨.inl h.chip, h.locked, h.out, h.hall hi⟩⟩

theorem inv_of_reset {t : State} (h1 : t.time = State.reset.time) (h2 : t.clk.chipState = .minuet) (h3 : t.pwr.level = 0)
    (h4 : t.host = State.reset.host) : t.inv := by
  unfold State.inv
  rw [h1, h2, h3, h4]
  exact ⟨by decide, fun _ h => h.elim (fun h => by cases h) (fun h => by cases h), Nat.zero_le _, fun _ => Nat.zero_le _, fun h => absurd rfl h, fun h => (by cases h), fun h => (by cases h)⟩

theorem keep_level (c : ResetCause) (p : PwrState) : (p.keep c).level = 0 := by
  unfold PwrState.keep
  split <;> rfl

theorem chipReset_moved {s u : State} (c : ResetCause) (h : u.pending = s.pending) : Moved s (chipReset c u) :=
  ⟨h, fun _ => inv_of_reset rfl rfl (keep_level _ _) rfl, fun _ => .inl ⟨rfl, .inl rfl⟩⟩

theorem moved_ite {c : Prop} [Decidable c] {s a b : State} (ha : Moved s a) (hb : Moved s b) : Moved s (if c then a else b) := by
  split <;> assumption

theorem resetRelease_moved (s : State) : Moved s (resetRelease s) := by
  unfold resetRelease
  split
  · exact (Kept.refl s).moved
  · exact ⟨rfl, id, fun _ => .inr ⟨.inl rfl, id, fun _ => id, fun _ => rfl⟩⟩

theorem inMinuet_chip {s : State} (hi : s.inv) (h : s.clk.inMinuet = true) : s.clk.chipState = .minuet := by
  obtain ⟨-, -, -, -, h1, h2, -⟩ := hi
  unfold ClkState.inMinuet at h
  simp only [Bool.and_eq_true, Bool.not_eq_true'] at h
  cases hc : s.clk.chipState <;> simp_all

theorem minuetPhase2_moved (ok : Bool) (s : State) : Moved s (minuetPhase2 ok s) := by
  unfold minuetPhase2
  split
  · rename_i h
    have hc := fun hi => inMinuet_chip (s := s) hi (by simp only [Bool.and_eq_true] at h; exact h.1.1)
    have k : Kept s (s.modClk (fun c => { c with phase := 3 })) := .of_slow rfl
    refine moved_ite k.moved (moved_ite (startPhase1_kept s).moved
      ⟨rfl, fun ⟨a, b, c, d, _⟩ => ⟨a, b, c, d, fun _ h => absurd rfl h, fun _ => rfl, fun h => (by cases h)⟩, fun hi => .inr ⟨.inr (.inl ⟨hc hi, .inr rfl⟩), id, fun _ => id, fun _ => rfl⟩⟩)
  · exact (Kept.refl s).moved

theorem minuetPhase3_moved (l : List (Option (Nat × Nat))) (s : State) : Moved s (minuetPhase3 l s) := by
  unfold minuetPhase3
  split
  · rename_i h
    have hc := fun hi => inMinuet_chip (s := s) hi (by simp only [Bool.and_eq_true] at h; exact h.1)
    dsimp only
    have k : Kept s (checkDump (((List.range 4).zip l).foldl recordLink s)) :=
      (kept_foldl recordLink_kept _ _).slow (checkDump_slow _)
    generalize checkDump (((List.range 4).zip l).foldl recordLink s) = u at k
    have fin : ∀ w : State, w.pending = s.pending → (s.inv → w.inv) → w.clk.chipState = .boot → (s.host.locked = true → w.host.locked = true) →
        (∀ n, s.rel.towerOut.getLsbD n = true → w.rel.towerOut.getLsbD n = true) → Moved s (alertAtBoot w) := fun w a b c d e => by
      have k2 := Kept.of_slow (alertAtBoot_slow w)
      exact ⟨k2.pending.trans a, fun hi => k2.inv (b hi), fun hi => .inr ⟨.inr (.inl ⟨hc hi, .inl (k2.chip.trans c)⟩), fun x => k2.locked (d x),
        fun n x => k2.out n (e n x), fun x => by rw [hc hi] at x; cases x⟩⟩
    refine fin _ k.pending (fun hi => ?_) rfl k.locked k.out
    obtain ⟨a, b, c, d, -⟩ := k.inv hi
    exact ⟨a, b, c, d, fun _ _ => rfl, fun h => (by cases h), fun h => (by cases h)⟩
  · exact (Kept.refl s).moved

theorem timeAcquireEntry_moved (s : State) : Moved s (timeAcquireEntry s) := by
  unfold timeAcquireEntry
  split
  · rename_i h
    have hc : s.clk.chipState = .boot := by simp only [Bool.and_eq_true, decide_eq_true_eq] at h; exact h.1.1
    dsimp only
    have k : Kept s (if s.host.locked then s else bindChannels s.dome.cfg.bindings s) := kept_ite (.refl s) (bindChannels_kept _ s)
    generalize (if s.host.locked then s else bindChannels s.dome.cfg.bindings s) = u at k
    refine ⟨k.pending, fun hi => ?_, fun _ => .inr ⟨.inr (.inr (.inl ⟨hc, rfl⟩)), fun _ => rfl, k.out, fun x => by rw [hc] at x; cases x⟩⟩
    obtain ⟨a, b, c, d, e, -⟩ := k.inv hi
    exact ⟨a, b, c, d, fun _ _ => e (by rw [k.chip, hc]; decide) (by rw [k.chip, hc]; decide), fun h => (by cases h), fun h => (by cases h)⟩
  · exact (Kept.refl s).moved

theorem setReady_moved (s : State) : Moved s (setReady s) := by
  unfold setReady
  split
  · rename_i h
    dsimp only
    split
    · exact ⟨rfl, fun ⟨a, b, c, d, e, _⟩ => ⟨a, fun x h => h.elim (fun h => by cases h) (fun h => b x (.inr h)), c, d,
        fun _ _ => e (by rw [h.1]; decide) (by rw [h.1]; decide), fun h => (by cases h), fun _ => rfl⟩,
        fun _ => .inr ⟨.inr (.inr (.inr ⟨h.1, rfl, h.2⟩)), id, fun _ => id, fun _ => rfl⟩⟩
    · rename_i hn
      exact ⟨rfl, fun ⟨a, b, c, d, e, _⟩ => ⟨a, b, c, d,
        fun _ _ => e (by rw [h.1]; decide) (by rw [h.1]; decide), fun h => (by cases h), fun _ => hn⟩,
        fun _ => .inr ⟨.inr (.inr (.inr ⟨h.1, rfl, h.2⟩)), id, fun _ => id, fun _ => rfl⟩⟩
  · exact (Kept.refl s).moved

theorem switchOff_moved {s u : State} (m : PowerMode) (h : u.pending = s.pending) : Moved s (switchOff m u) := by
  refine ⟨h, fun _ => inv_of_reset rfl rfl (keep_level _ _) rfl, fun _ => .inl ⟨rfl, .inr ?_⟩⟩
  show (if m = .off then PowerMode.off else .deep) = .deep ∨ (if m = .off then PowerMode.off else .deep) = .off
  split
  · exact .inr rfl
  · exact .inl rfl

theorem Kept.reset_moved {s u : State} (c : ResetCause) (h : Kept s u) : Moved s (chipReset c u) := chipReset_moved c h.pending

theorem domeRequest_moved {c type tag : Nat} {hostOnly : Bool} {f : Nat → State → State} {s : State} (h : ∀ mid, Moved s (f mid s)) :
    Moved s (domeRequest c type tag hostOnly f s) := by
  unfold domeRequest
  split
  · exact (Kept.refl s).moved
  · exact moved_ite (Kept.refl s).moved <| moved_ite ((domeReply_kept _ _ _ _ s).moved) <|
      moved_ite ((domeReply_kept _ _ _ _ s).moved) (h _)

theorem deepSleepEntry_moved (s : State) : Moved s (deepSleepEntry s) := by
  unfold deepSleepEntry
  split
  · exact (Kept.refl s).moved
  · dsimp only
    refine moved_ite (switchOff_moved _ ?_) (Kept.refl s).moved
    split
    · exact (Kept.of_slow (complete_slow _ _ _ _)).pending
    · rfl

theorem wakePin_moved (i : Nat) (s : State) : Moved s (wakePin i s) := by
  unfold wakePin
  dsimp only
  refine moved_ite (Kept.refl s).moved ?_
  split
  · exact Kept.moved (by exact .of_slow rfl)
  · exact Kept.moved (by exact .of_slow ((returnToRun_slow _).trans rfl))
  · exact Kept.moved (by exact .of_slow ((returnToRun_slow _).trans rfl))
  · exact ⟨rfl, fun _ => inv_of_reset rfl rfl (keep_level _ _) rfl, fun _ => .inl ⟨rfl, .inl rfl⟩⟩
  · exact ⟨rfl, fun _ => inv_of_reset rfl rfl (keep_level _ _) rfl, fun _ => .inl ⟨rfl, .inl rfl⟩⟩

theorem resetPinAssert_moved (us : Nat) (s : State) : Moved s (resetPinAssert us s) := by
  unfold resetPinAssert
  dsimp only
  have k : ∀ u : State, u.pending = s.pending → Kept s u → Moved s (heldReset u) := fun u e k => by
    unfold heldReset
    exact moved_ite (chipReset_moved _ e) k.moved
  exact moved_ite (k _ rfl (.of_slow rfl)) <| moved_ite (Kept.refl s).moved <|
    moved_ite (k _ rfl (.of_slow rfl)) (Kept.moved (by exact .of_slow rfl))

theorem watchdogExpiry_moved (s : State) : Moved s (watchdogExpiry s) := by
  unfold watchdogExpiry
  split
  · exact moved_ite (chipReset_moved _ ((Kept.of_slow (errRecord_slow _ _ _ _ _ _ _ _)).pending)) (Kept.refl s).moved
  · exact (Kept.refl s).moved

theorem recoveryImageReceive_moved (x : BankImg) (s : State) : Moved s (recoveryImageReceive x s) := by
  unfold recoveryImageReceive
  exact moved_ite (chipReset_moved _ rfl) (Kept.refl s).moved

theorem fatalDumpComplete_moved (s : State) : Moved s (fatalDumpComplete s) := by
  unfold fatalDumpComplete
  refine moved_ite (Kept.refl s).moved ?_
  split
  · refine moved_ite (chipReset_moved _ ?_) (chipReset_moved _ rfl)
    exact (Kept.of_slow ((dumpWrite_slow _ _ _ _).trans rfl)).pending
  · exact chipReset_moved _ rfl

theorem getInfo_kept (tag mid : Nat) (s : State) : Kept s (getInfo tag mid s) := by
  unfold getInfo
  exact domeReply_kept _ _ _ _ s

theorem chipResetRequest_moved (tag mid : Nat) (s : State) : Moved s (chipResetRequest tag mid s) := by
  unfold chipResetRequest
  exact moved_ite ((domeReply_kept _ _ _ _ s).moved) (chipReset_moved _ rfl)

/-- What a command can do. -/
theorem exec_moved (c : Instr) (s : State) : ∃ t, exec c s = .next t ∧ Moved s t := by
  cases c
  case registerWrite => exact ⟨_, rfl, (registerWrite_kept _ _ _ _ _ s).moved⟩
  case resetRelease => exact ⟨_, rfl, resetRelease_moved s⟩
  case pllLock => exact ⟨_, rfl, (pllLock_kept s).moved⟩
  case minuetPhase2Complete => exact ⟨_, rfl, minuetPhase2_moved _ s⟩
  case minuetPhase3Complete => exact ⟨_, rfl, minuetPhase3_moved _ s⟩
  case rootPllLoss => exact ⟨_, rfl, moved_ite (chipReset_moved _ rfl) (Kept.moved (by exact .of_slow rfl))⟩
  case ucieTrainingLoss => exact ⟨_, rfl, (ucieTrainingLoss_kept _ s).moved⟩
  case timeIncrHiWrite => exact ⟨_, rfl, (onBus_kept (timeIncrHiWrite_kept _ _ s)).moved⟩
  case timeSetGo => exact ⟨_, rfl, (onBus_kept (timeSetGo_kept _ _ s)).moved⟩
  case ppsInEdge => exact ⟨_, rfl, (ppsInEdge_kept _ _ s).moved⟩
  case setReady => exact ⟨_, rfl, setReady_moved s⟩
  case trigCtrlWrite => exact ⟨_, rfl, (onBus_kept (trigCtrlWrite_kept _ _ _ s)).moved⟩
  case triggerFire => exact ⟨_, rfl, (triggerFire_kept s).moved⟩
  case droopDetection => exact ⟨_, rfl, (droopDetection_kept s).moved⟩
  case leaseResetComplete => exact ⟨_, rfl, (leaseResetComplete_kept _ s).moved⟩
  case mbTxWrite => exact ⟨_, rfl, (onBus_kept (mbTxWrite_kept _ _ _ s)).moved⟩
  case mbRxRead => exact ⟨_, rfl, (onBus_kept (mbRxRead_kept _ _ s)).moved⟩
  case mbCtrlWrite => exact ⟨_, rfl, (onBus_kept (mbCtrlWrite_kept _ _ _ s)).moved⟩
  case mbBindWrite => exact ⟨_, rfl, (onBus_kept (mbBindWrite_kept _ _ _ s)).moved⟩
  case mbLockWrite => exact ⟨_, rfl, (onBus_kept (mbLockWrite_kept _ _ s)).moved⟩
  case fatalDumpComplete => exact ⟨_, rfl, fatalDumpComplete_moved s⟩
  case timeAcquireEntry => exact ⟨_, rfl, timeAcquireEntry_moved s⟩
  case recoveryImageReceive => exact ⟨_, rfl, recoveryImageReceive_moved _ s⟩
  case watchdogKick => exact ⟨_, rfl, (onBus_kept (kept_ite (.of_slow (kick_slow s)) (.refl s))).moved⟩
  case watchdogExpiry => exact ⟨_, rfl, watchdogExpiry_moved s⟩
  case getMeasurements signed => cases signed <;> exact ⟨_, rfl, (Kept.of_slow (by simp)).moved⟩
  case getInfo => exact ⟨_, rfl, (domeRequest_kept (fun mid => getInfo_kept _ mid s)).moved⟩
  case stage => exact ⟨_, rfl, (domeRequest_kept (fun _ => stage_kept _ _ _ _ _ _ s)).moved⟩
  case stageComplete => exact ⟨_, rfl, (stageComplete_kept _ _ s).moved⟩
  case chipReset =>
    exact ⟨_, rfl, moved_ite (Kept.refl s).moved (domeRequest_moved (fun mid => chipResetRequest_moved _ mid s))⟩
  case logRead => exact ⟨_, rfl, (domeRequest_kept (fun _ => logRead_kept _ _ _ _ _ s)).moved⟩
  case syncHoldover => exact ⟨_, rfl, (syncHoldover_kept s).moved⟩
  case pwrState => exact ⟨_, rfl, (queueCommand_kept _ _ s (pwrStateBody_kept _ _ _)).moved⟩
  case flashWriteAck ack =>
    have k : Kept s (flashWriteAck ack.tile (ack.failed.map (·.val)) s) := .of_slow (flashWriteAck_slow _ _ s)
    exact ⟨_, rfl, moved_ite (chipReset_moved _ k.pending) k.moved⟩
  case powerFailRecovery =>
    have k : Kept s (powerFailRecovery s) := .of_slow (powerFailRecovery_slow s)
    exact ⟨_, rfl, moved_ite (chipReset_moved _ k.pending) k.moved⟩
  case deepSleepEntry => exact ⟨_, rfl, deepSleepEntry_moved s⟩
  case domainReady => exact ⟨_, rfl, ((Kept.of_slow (domainReady_slow _ s)).trans (servedWrites_kept _)).moved⟩
  case wakePin => exact ⟨_, rfl, wakePin_moved _ s⟩
  case throttleSample => exact ⟨_, rfl, (throttleSample_kept s).moved⟩
  case estopEnd => exact ⟨_, rfl, (estopEnd_kept s).moved⟩
  case resetPinAssert => exact ⟨_, rfl, resetPinAssert_moved _ s⟩
  case powerLoss => exact ⟨_, rfl, chipReset_moved _ rfl⟩
  case wakeIslandThermtrip => exact ⟨_, rfl, (kept_ite (.of_slow (thermtrip_slow s)) (.refl s)).moved⟩
  case cxlMailboxUnsupported => exact ⟨_, rfl, Kept.moved (by exact kept_ite (.refl s) (.of_slow rfl))⟩
  case evselWrite mid spire n v =>
    refine ⟨_, rfl, Kept.moved ?_⟩
    have h : ∀ u, Kept u (evselWrite mid spire n v.toNat u) := fun u => .of_slow (evselWrite_slow _ _ _ _ u)
    (repeat' split) <;> first | exact onBus_kept (h s) | exact bar0Row_kept _ _ _ s h
  all_goals exact ⟨_, rfl, (Kept.of_slow (by simp)).moved⟩

end Sys2Proof.Machine
end

