-- ==== Sys2Proof/Laws/Mem.lean ====
section
/-! SUPPORT. Memory: what a read gives after a write, and that every operation keeps the canonical form. -/

set_option Elab.async false

namespace Sys2Proof.Machine

/-! ### Reading after writing -/

/-- A read after a write of one byte. -/
theorem Mem.read8_write8 (m : Mem) (a b : Nat) (v : Byte) : (m.write8 a v).read8 b = if a = b then v else m.read8 b := by
  unfold Mem.write8 Mem.read8
  split
  · subst_vars; simp only [tabFind_erase]
  · simp only [tabFind_insert]

/-- Writing bytes leaves every byte outside them. -/
theorem Mem.read8_writeBytes_outside (m : Mem) (a b : Nat) (l : List Byte) (h : b < a ∨ a + l.length ≤ b) :
    (m.writeBytes a l).read8 b = m.read8 b := by
  induction l generalizing m a with
  | nil => rfl
  | cons x r ih =>
    simp only [List.length_cons] at h
    rw [Mem.writeBytes, ih _ _ (by omega), Mem.read8_write8, if_neg (by omega)]

/-- Writing bytes gives each its value. -/
theorem Mem.read8_writeBytes_inside (m : Mem) (a i : Nat) (l : List Byte) (h : i < l.length) :
    (m.writeBytes a l).read8 (a + i) = l[i] := by
  induction l generalizing m a i with
  | nil => simp at h
  | cons x r ih =>
    rw [Mem.writeBytes]
    cases i with
    | zero => rw [Mem.read8_writeBytes_outside _ _ _ _ (by omega), Mem.read8_write8]; simp
    | succ j =>
      have := ih (m.write8 a x) (a + 1) j (by simpa using h)
      rw [show a + (j + 1) = a + 1 + j by omega, this]; simp

/-- A read after a range is cleared. -/
theorem Mem.read8_clearRange (m : Mem) (a n b : Nat) :
    (m.clearRange a n).read8 b = if a ≤ b ∧ b < a + n then Mem.blank else m.read8 b := by
  unfold Mem.clearRange Mem.read8
  dsimp only
  induction m.cells with
  | nil => simp [tabFind]
  | cons c r ih =>
    by_cases hc : a ≤ c.1 ∧ c.1 < a + n
    · rw [List.filter_cons_of_neg (by simpa using hc), ih]
      by_cases hb : a ≤ b ∧ b < a + n
      · rw [if_pos hb, if_pos hb]
      · rw [if_neg hb, if_neg hb]
        have : c.1 ≠ b := fun h => hb (h ▸ hc)
        simp [tabFind, this]
    · rw [List.filter_cons_of_pos (by rw [decide_eq_false hc]; rfl)]
      by_cases h : c.1 = b
      · subst h; rw [if_neg hc]; simp only [tabFind, if_true]
      · simp only [tabFind, h, if_false]; exact ih

theorem Mem.readBytes_length (m : Mem) (a n : Nat) : (m.readBytes a n).length = n := by
  induction n generalizing a with
  | zero => rfl
  | succ n ih => simp [Mem.readBytes, ih]

theorem Mem.readBytes_get (m : Mem) (a n i : Nat) (h : i < (m.readBytes a n).length) :
    (m.readBytes a n)[i] = m.read8 (a + i) := by
  induction n generalizing a i with
  | zero => simp [Mem.readBytes] at h
  | succ n ih =>
    cases i with
    | zero => simp [Mem.readBytes]
    | succ j =>
      simp only [Mem.readBytes, List.getElem_cons_succ]
      rw [ih]; congr 1; omega

/-- Bytes written are the bytes read. -/
theorem Mem.readBytes_writeBytes (m : Mem) (a : Nat) (l : List Byte) : (m.writeBytes a l).readBytes a l.length = l := by
  apply List.ext_getElem
  · simp [Mem.readBytes_length]
  · intro i h1 h2
    rw [Mem.readBytes_get, Mem.read8_writeBytes_inside]

theorem leBytes_length (v n : Nat) : (leBytes v n).length = n := by
  induction n generalizing v with
  | zero => rfl
  | succ n ih => simp [leBytes, ih]

/-- The value of a little-endian byte string of a number. -/
theorem leValue_leBytes (v n : Nat) : leValue (leBytes v n) = v % 256 ^ n := by
  induction n generalizing v with
  | zero => simp [leBytes, leValue, Nat.mod_one]
  | succ n ih =>
    simp only [leBytes, leValue, ih, BitVec.toNat_ofNat]
    have h := Nat.mod_mul (x := v) (a := 256) (b := 256 ^ n)
    rw [show 256 ^ (n + 1) = 256 * 256 ^ n by rw [Nat.pow_succ, Nat.mul_comm], h]

/-- A little-endian value written is the value read. -/
theorem Mem.readLE_writeLE (m : Mem) (a n v : Nat) : (m.writeLE a n v).readLE a n = v % 256 ^ n := by
  unfold Mem.readLE Mem.writeLE
  have h := Mem.readBytes_writeBytes m a (leBytes v n)
  rw [leBytes_length] at h
  rw [h, leValue_leBytes]

/-! ### The canonical form -/

theorem natRising_cons (a : Nat) (l : List Nat) : natRising (a :: l) = true ↔ (∀ b ∈ l, a < b) ∧ natRising l = true := by
  induction l generalizing a with
  | nil => simp [natRising]
  | cons b r ih =>
    rw [natRising, Bool.and_eq_true, decide_eq_true_iff, ih b]
    constructor
    · rintro ⟨hab, hr, h⟩
      refine ⟨?_, hr, h⟩
      intro c hc
      rcases List.mem_cons.mp hc with rfl | hc
      · exact hab
      · exact Nat.lt_trans hab (hr c hc)
    · rintro ⟨h1, hr, h⟩
      exact ⟨h1 b (by simp), hr, h⟩

theorem mem_natInsert (k : Nat) (l : List Nat) : ∀ b ∈ natInsert k l, b = k ∨ b ∈ l := by
  induction l with
  | nil => simp [natInsert]
  | cons a r ih =>
    intro b hb
    simp only [natInsert] at hb
    split at hb
    · rcases List.mem_cons.mp hb with rfl | hb
      · simp
      · rcases ih b hb with h | h
        · exact .inl h
        · exact .inr (List.mem_cons_of_mem _ h)
    · split at hb
      · exact .inr hb
      · rcases List.mem_cons.mp hb with rfl | hb
        · exact .inl rfl
        · exact .inr hb

theorem natInsert_rising (k : Nat) {l : List Nat} (h : natRising l = true) : natRising (natInsert k l) = true := by
  induction l with
  | nil => rfl
  | cons a r ih =>
    have h' := (natRising_cons a r).mp h
    simp only [natInsert]
    split
    · rw [natRising_cons]
      refine ⟨fun b hb => ?_, ih h'.2⟩
      rcases mem_natInsert k r b hb with rfl | hb
      · assumption
      · exact h'.1 b hb
    · split
      · exact h
      · rw [natRising_cons]
        refine ⟨fun b hb => ?_, h⟩
        rcases List.mem_cons.mp hb with rfl | hb
        · omega
        · have := h'.1 b hb; omega

theorem natRising_filter (p : Nat → Bool) {l : List Nat} (h : natRising l = true) : natRising (l.filter p) = true := by
  induction l with
  | nil => rfl
  | cons a r ih =>
    rw [natRising_cons] at h
    simp only [List.filter_cons]
    split
    · rw [natRising_cons]
      exact ⟨fun b hb => h.1 b ((List.mem_filter.mp hb).1), ih h.2⟩
    · exact ih h.2

theorem tabRising_filter {α : Type} (p : Nat × α → Bool) {l : List (Nat × α)} (h : tabRising l = true) :
    tabRising (l.filter p) = true := by
  induction l with
  | nil => rfl
  | cons q r ih =>
    obtain ⟨a, x⟩ := q
    rw [tabRising_cons] at h
    simp only [List.filter_cons]
    split
    · rw [tabRising_cons]
      exact ⟨fun b hb => h.1 b ((List.mem_filter.mp hb).1), ih h.2⟩
    · exact ih h.2

theorem Mem.wf_iff (m : Mem) : m.wf = true ↔
    tabRising m.cells = true ∧ (∀ c ∈ m.cells, c.2 ≠ Mem.blank) ∧ natRising m.poison = true := by
  simp [Mem.wf, and_assoc]

@[simp] theorem Mem.wf_empty : Mem.empty.wf = true := rfl

theorem Mem.wf_write8 {m : Mem} (h : m.wf = true) (a : Nat) (v : Byte) : (m.write8 a v).wf = true := by
  rw [Mem.wf_iff] at *
  unfold Mem.write8
  split
  · exact ⟨tabErase_rising a h.1, fun c hc => h.2.1 c (tabErase_sub a _ c hc), h.2.2⟩
  · refine ⟨tabInsert_rising a v h.1, fun c hc => ?_, h.2.2⟩
    rcases mem_tabInsert a v _ c hc with rfl | hc
    · assumption
    · exact h.2.1 c hc

theorem Mem.wf_writeBytes {m : Mem} (h : m.wf = true) (a : Nat) (l : List Byte) : (m.writeBytes a l).wf = true := by
  induction l generalizing m a with
  | nil => exact h
  | cons b r ih => exact ih (Mem.wf_write8 h a b) (a + 1)

theorem Mem.wf_writeLE {m : Mem} (h : m.wf = true) (a n v : Nat) : (m.writeLE a n v).wf = true := Mem.wf_writeBytes h a _

theorem Mem.wf_setPoison {m : Mem} (h : m.wf = true) (w : Nat) (on : Bool) : (m.setPoison w on).wf = true := by
  rw [Mem.wf_iff] at *
  unfold Mem.setPoison
  split
  · exact ⟨h.1, h.2.1, natInsert_rising w h.2.2⟩
  · exact ⟨h.1, h.2.1, natRising_filter _ h.2.2⟩

theorem Mem.wf_clearPoison {m : Mem} (h : m.wf = true) (a n : Nat) : (m.clearPoison a n).wf = true := by
  rw [Mem.wf_iff] at *
  exact ⟨h.1, h.2.1, natRising_filter _ h.2.2⟩

theorem Mem.wf_clearRange {m : Mem} (h : m.wf = true) (a n : Nat) : (m.clearRange a n).wf = true := by
  rw [Mem.wf_iff] at *
  refine ⟨tabRising_filter _ h.1, fun c hc => h.2.1 c ((List.mem_filter.mp hc).1), natRising_filter _ h.2.2⟩

theorem Mem.wf_copyFrom {dst : Mem} (h : dst.wf = true) (da : Nat) (src : Mem) (sa n : Nat) :
    (dst.copyFrom da src sa n).wf = true := by
  unfold Mem.copyFrom
  have keep : ∀ (l : List Host.Cell) (m : Mem), m.wf = true →
      (l.foldl (fun m c => m.write8 (da + (c.1 - sa)) c.2) m).wf = true := by
    intro l
    induction l with
    | nil => exact fun m hm => hm
    | cons c r ih => exact fun m hm => ih _ (Mem.wf_write8 hm _ _)
  have poison : ∀ (l : List Nat) (m : Mem), m.wf = true →
      (l.foldl (fun m w => m.setPoison (da / 32 + (w - sa / 32)) true) m).wf = true := by
    intro l
    induction l with
    | nil => exact fun m hm => hm
    | cons c r ih => exact fun m hm => ih _ (Mem.wf_setPoison hm _ _)
  exact poison _ _ (keep _ _ (Mem.wf_clearRange h _ _))

theorem Mem.wf_writeWord_poison {m : Mem} (h : m.wf = true) (a v : Nat) (on : Bool) :
    ((m.writeLE a 32 v).setPoison (a / 32) on).wf = true := Mem.wf_setPoison (Mem.wf_writeLE h a 32 v) _ _

end Sys2Proof.Machine
end

