-- ==== Sys2Proof/Laws/Queue.lean ====
section
/-! SUPPORT. What the checks before a queue command do. -/

set_option Elab.async false

namespace Sys2Proof.Machine

open Sys2Proof

/-- A row that is an access to a register has its effect on a chip that can be reached. -/
theorem onBus_reachable {f : State → State} {s : State} (h : s.reachable = true) : onBus f s = f s := if_pos h

/-- A write of a register of BAR0 by MID 0 or MID 1 that is served has its effect at once. -/
theorem bar0Row_serves {mid off : Nat} {v : Word} {f : State → State} {s : State} (hm : mid ≤ 1) (h : s.serves off = true) :
    bar0Row mid off v f s = f s := by
  simp only [State.serves, Bool.and_eq_true, Bool.not_eq_true'] at h
  unfold bar0Row regWrite
  rw [if_pos (by rw [h.1.1]; simp [hm]), h.1.2]
  exact if_pos h.2

/-- Returning to Run changes the power manager and the lanes alone. -/
theorem returnToRun_shape (s : State) : returnToRun s = { s with pwr := (returnToRun s).pwr, fab := (returnToRun s).fab } := by
  unfold returnToRun
  repeat' split
  all_goals rfl

/-- A refused command leaves a chip that returned to Run for it as it was (R14, R573). -/
theorem stayLow_returnToRun (s : State) : stayLow s (returnToRun s) = s := by
  unfold stayLow returnToRun
  split
  · dsimp only; split <;> rfl
  · rfl

/-- A queue command that passes the checks runs its own body; it answers a reply, or none while it stays in progress. A refused one
leaves the power state as it was. -/
theorem queueCommand_accepts {op : Nat} {iss : Issuer} {body : State → State × Option Reply} {s : State}
    (h : s.accepts op iss = true) :
    queueCommand op iss body s = match body (s.begun op iss) with
      | (t, some r) => complete iss op r (if refusedStatus r.status then stayLow (takeStarted iss s) t else t)
      | (t, none) => t := by
  simp only [State.accepts, Bool.and_eq_true, Bool.or_eq_true, Bool.not_eq_true', decide_eq_true_eq] at h
  obtain ⟨⟨⟨hre, hf⟩, ho⟩, hl⟩ := h
  have hr : (iss.isLease && (s.leaseOf iss.lease).resetting) = false := by
    rcases hl with hl | ⟨⟨hr, -⟩, -⟩
    · simp [hl]
    · simp [hr]
  have hc : (iss.isLease && (decide ((s.leaseOf iss.lease).tdi = .error) || !s.leaseEnabled iss.lease)) = false := by
    rcases hl with hl | ⟨⟨-, ht⟩, he⟩
    · simp [hl]
    · simp [ht, he]
  have h1 : (takeStarted iss s).reachable = true := hre
  have h2 : (takeStarted iss s).rel.fatal = false := hf
  have h3 : ((takeStarted iss s).leaseOf iss.lease) = s.leaseOf iss.lease := rfl
  have h4 : (takeStarted iss s).leaseEnabled iss.lease = s.leaseEnabled iss.lease := rfl
  have hb : (if isPowerOp op = true then takeStarted iss s else returnToRun (takeStarted iss s)) = s.begun op iss := by
    unfold State.begun; split <;> rfl
  unfold queueCommand
  dsimp only
  rw [h1, h2, h3, h4, ho, hb]
  cases hi : iss.isLease
  · rfl
  · simp only [hi, Bool.true_and] at hr hc
    simp only [hr, hc, Bool.true_and, Bool.false_and, Bool.not_true, Bool.not_false, Bool.and_false, Bool.false_eq_true, if_false]
    all_goals rfl

/-- A queue command that passes the checks and whose body refuses it has no other effect (R14). -/
theorem queueCommand_refuses {op : Nat} {iss : Issuer} {body : State → State × Option Reply} {s : State} {st : Nat}
    (h : s.accepts op iss = true) (hb : body (s.begun op iss) = (s.begun op iss, some (.of st))) (hs : refusedStatus st = true) :
    queueCommand op iss body s = complete iss op (.of st) (takeStarted iss s) := by
  have hq : stayLow (takeStarted iss s) (s.begun op iss) = takeStarted iss s := by
    unfold State.begun
    split
    · unfold stayLow; split <;> rfl
    · exact stayLow_returnToRun _
  rw [queueCommand_accepts h, hb]
  have hst : (Reply.of st).status = st := rfl
  simp only [hst, hs, if_true, hq]

/-- A queue command that passes the checks before every one and that its body does not refuse completes with the body's reply. -/
theorem queueCommand_done {op : Nat} {iss : Issuer} {body : State → State × Option Reply} {s t : State} {r : Reply}
    (h : s.accepts op iss = true) (hb : body (s.begun op iss) = (t, some r)) (hr : refusedStatus r.status = false) :
    queueCommand op iss body s = complete iss op r t := by
  rw [queueCommand_accepts h, hb]
  simp only [hr, Bool.false_eq_true, if_false]

/-- A queue command that passes the checks before every one and whose body completes later. -/
theorem queueCommand_later {op : Nat} {iss : Issuer} {body : State → State × Option Reply} {s t : State}
    (h : s.accepts op iss = true) (hb : body (s.begun op iss) = (t, none)) : queueCommand op iss body s = t := by
  rw [queueCommand_accepts h, hb]

end Sys2Proof.Machine
end

