-- ==== Sys2Proof/Laws/Stop.lean ====
section
/-! SUPPORT. What the STOP of a Spire, a release, an abandoned pass or a count leaves as it was: everything but the Spires, the
dispatcher, the doorbells of functions, the health records and the log. -/

set_option Elab.async false

namespace Sys2Proof.Machine

open Sys2Proof

/-- A state without what the work of Spires and its records change. -/
def State.calm (s : State) : State := { s with
  spires := Tab.empty, dsp := DspState.reset, out := [], free := 0
  host := { s.host with funcs := Tab.empty }
  cnt := { s.cnt with bpmc := Tab.empty }
  rel := { s.rel with
    counters := RelState.reset.counters, ring := Tab.empty, health := Tab.empty, confirmQueue := [], quarAfter := []
    releases := Tab.empty, records := Tab.empty, shadow := Tab.empty, disputes := [] }
  dome := { s.dome with dbStatus := 0, dbSetAt := Tab.empty, logQueue := [], logSeq := 0, logLost := 0 }
  pwr := { s.pwr with owed := [], owedDome := [], stopped := [], holds := 0 } }

theorem calm_foldl {α : Type} {f : State → α → State} (h : ∀ t a, (f t a).calm = t.calm) (l : List α) (s : State) :
    (l.foldl f s).calm = s.calm := by
  induction l generalizing s with
  | nil => rfl
  | cons a r ih => exact (ih _).trans (h s a)

@[simp] theorem modSpire_calm (k : Nat) (f : Spire → Spire) (s : State) : (s.modSpire k f).calm = s.calm := rfl
@[simp] theorem modSeq_calm (k : Nat) (f : SeqState → SeqState) (s : State) : (s.modSeq k f).calm = s.calm := rfl
@[simp] theorem modVu_calm (k : Nat) (f : VuState → VuState) (s : State) : (s.modVu k f).calm = s.calm := rfl
@[simp] theorem modArr_calm (k : Nat) (f : ArrState → ArrState) (s : State) : (s.modArr k f).calm = s.calm := rfl
@[simp] theorem modJob_calm (n : Nat) (f : Job → Job) (s : State) : (s.modJob n f).calm = s.calm := rfl
@[simp] theorem setCmdStatus_calm (k n : Nat) (s : State) : (setCmdStatus k n s).calm = s.calm := by
  unfold setCmdStatus; split <;> rfl

@[simp] theorem ringFunc_calm (n i : Nat) (s : State) : (ringFunc n i s).calm = s.calm := by
  unfold ringFunc sendVector
  dsimp only
  (repeat' split) <;> rfl

@[simp] theorem countSpire_calm (k e n : Nat) (s : State) : (countSpire k e n s).calm = s.calm := by
  unfold countSpire
  split
  · dsimp only
    split
    · exact (ringFunc_calm _ _ _).trans rfl
    · rfl
  · rfl

@[simp] theorem countBelfry_calm (e : Nat) (x : Option Nat) (n : Nat) (s : State) : (countBelfry e x n s).calm = s.calm := by
  have h : ∀ (b : Bool) (t : Tab BelfryCounter), State.calm (if b then ringFunc 0 30 { s with cnt := { s.cnt with bpmc := t } }
      else { s with cnt := { s.cnt with bpmc := t } }) = s.calm := by
    intro b t
    cases b
    · rfl
    · exact (ringFunc_calm _ _ _).trans rfl
  unfold countBelfry
  split
  · exact h _ _
  · rfl

@[simp] theorem logEvent_calm (e : LogEvent) (s : State) : (logEvent e s).calm = s.calm := by
  obtain ⟨_, _, _, h⟩ := logEvent_shape e s
  rw [h]; rfl

@[simp] theorem errRecord_calm (a b c d e f g : Nat) (s : State) : (errRecord a b c d e f g s).calm = s.calm := by
  unfold errRecord
  dsimp only
  split
  · rw [logEvent_calm]
    split <;> rfl
  · split <;> rfl

@[simp] theorem quarantine_calm (k : Nat) (s : State) : (quarantine k s).calm = s.calm := by
  unfold quarantine; split <;> rfl

@[simp] theorem stopDispute_calm (k : Nat) (s : State) : (stopDispute k s).calm = s.calm := by
  unfold stopDispute
  split
  · rfl
  · split
    · exact (quarantine_calm _ _).trans rfl
    · exact (quarantine_calm _ _).trans (errRecord_calm _ _ _ _ _ _ _ _)

@[simp] theorem releaseFirst_calm (k : Nat) (s : State) : (releaseFirst k s).calm = s.calm := by
  unfold releaseFirst
  split
  · rfl
  · extract_lets s0 s1 s2 s3
    have h : s3.calm = s.calm := (show s3.calm = s2.calm from rfl).trans ((countSpire_calm _ _ _ _).trans rfl)
    clear_value s3
    split
    · exact Eq.trans rfl h
    · exact h

@[simp] theorem releaseDue_calm (k t n : Nat) (s : State) : (releaseDue k t n s).calm = s.calm := by
  induction n generalizing s with
  | zero => rfl
  | succ n ih =>
    unfold releaseDue
    split
    · rfl
    · split
      · exact (ih _).trans (releaseFirst_calm k s)
      · rfl

@[simp] theorem abandonPass_calm (k : Nat) (s : State) (p : Pass) : (abandonPass k s p).calm = s.calm :=
  (countSpire_calm _ _ _ _).trans rfl

@[simp] theorem arrayStop_calm (k t : Nat) (b : Bool) (s : State) : (arrayStop k t b s).calm = s.calm := by
  unfold arrayStop
  dsimp only
  rw [modSeq_calm, modArr_calm, calm_foldl (abandonPass_calm k), stopDispute_calm, releaseDue_calm]

@[simp] theorem stopSpire_calm (k : Nat) (b : Bool) (s : State) : (stopSpire k b s).calm = s.calm := by
  have h : ∀ (x : Bool) (u : State) (d : Nat), (if x then u else arrayStop k d true u).calm = u.calm := by
    intro x u d
    cases x
    · exact arrayStop_calm _ _ _ _
    · rfl
  unfold stopSpire
  dsimp only
  split
  · exact setCmdStatus_calm _ _ _
  · split
    · split
      · rw [modVu_calm, setCmdStatus_calm, modSeq_calm]
      · rw [setCmdStatus_calm, modSeq_calm]
    · have := h (decide ((s.spire k).seq.mode = .armed))
      simp only [decide_eq_true_eq] at this
      split
      · rw [modSeq_calm, modJob_calm, modSeq_calm, this, setCmdStatus_calm, modSeq_calm]
      · rw [modVu_calm, modSeq_calm, modJob_calm, modSeq_calm, this, setCmdStatus_calm, modSeq_calm]

@[simp] theorem powerStop_calm (k : Nat) (s : State) : (powerStop k s).calm = s.calm := by
  unfold powerStop
  dsimp only
  split
  · rfl
  · split
    · rfl
    · split
      · exact stopSpire_calm k false s
      · rfl

@[simp] theorem replayIssue_calm (k n : Nat) (s : State) : (replayIssue k n s).calm = s.calm := by
  unfold replayIssue
  dsimp only
  split
  · split
    · rfl
    · split
      · rfl
      · split
        · rfl
        · rw [modJob_calm, modSeq_calm]
  · rfl

@[simp] theorem dispatchStart_calm (n : Nat) (s : State) : (dispatchStart n s).calm = s.calm := by
  unfold dispatchStart
  split
  · rfl
  · split
    · split
      · rfl
      · dsimp only
        rw [modJob_calm]
        refine calm_foldl (fun t k => ?_) _ _
        exact (setCmdStatus_calm _ _ _).trans (modSeq_calm _ _ _)
    · rfl

@[simp] theorem leaveStopped_calm (k n : Nat) (s : State) : (leaveStopped k n s).calm = s.calm := by
  unfold leaveStopped
  dsimp only
  split
  · rfl
  · split
    · rw [dispatchStart_calm, modSeq_calm]
    · split
      · rfl
      · rw [replayIssue_calm, modSeq_calm]

@[simp] theorem resumeSpire_calm (k : Nat) (s : State) : (resumeSpire k s).calm = s.calm := by
  unfold resumeSpire
  dsimp only
  split
  · exact (setCmdStatus_calm _ _ _).trans rfl
  · split
    · rw [leaveStopped_calm, setCmdStatus_calm, modSeq_calm]
    · exact setCmdStatus_calm _ _ _

end Sys2Proof.Machine
end

