-- ==== Sys2Proof/WellFormed.lean ====
section
/-! DEFINITION. Well-formed commands: the operands fit the fields that carry them (bundle fields, Table 7.2; queue entries,
Table 14.3; mailbox words; register addresses), a register access comes from an assigned master (R12) and a queue command from
a pair that a function has (14). What the device itself checks (a state, a quota, a reserved value) is no matter of form: the
commands' meanings check it. -/

namespace Sys2Proof

open Sys2Proof.Machine

/-- A value of at most `w` bits. -/
def bits (w x : Nat) : Bool := decide (x < 2 ^ w)

/-- An assigned master (R12, Table 0.3). -/
def midOk (mid : Nat) : Bool := midAssigned mid

/-- The Dome, or a command identifier of one of a function's eight pairs. -/
def issuerOk : Issuer → Bool
  | .dome => true
  | .ring f q cid => decide (f ≤ 4095) && decide (q < 8) && bits 16 cid

/-- FIRST and COUNT of a tier command (Table 14.3). -/
def runOk (iss : Issuer) (first count : Nat) : Bool := issuerOk iss && bits 24 first && bits 32 count

/-- An entry of a BOUNDARY list (Table 14.3). -/
def rangeOk (r : TileRange) : Bool := bits 24 r.first && bits 17 r.count && bits 5 r.stack

/-- Words of a beat that have symbols in error, of the 36 of each (R250). -/
def symbolsOk (errs : List (Nat × Nat)) : Bool := errs.all (fun e => decide (e.1 < 32) && decide (e.2 ≤ 36))

/-- What is handed over for a transmit Step: the bytes of a cell at most, the fields of a message in their widths. -/
def payloadOk : StepPayload → Bool
  | .none => true
  | .bytes l => decide (l.length ≤ 8192)
  | .uPlane m => bits 7 m.stream && bits 32 m.slot && decide (m.symbol < 14) && bits 10 m.first
      && m.prbs.all (fun p => bits 4 p.1 && decide (p.2.length = 24))
  | .cPlane m => bits 7 m.stream && bits 32 m.slot && decide (m.symbol < 14) && bits 8 m.sectionType && bits 8 m.sections

/-- The fields of a signed image in their widths (R544). -/
def imageOk (x : Image) : Bool :=
  bits 32 x.magic && bits 8 x.kind && bits 8 x.signer && bits 32 x.bodyBytes && bits 4096 x.signature

/-- The fields of a bank and of its entries in their widths (R543). -/
def bankOk (x : BankImg) : Bool :=
  bits 32 x.magic && bits 16 x.format && bits 32 x.bytes && bits 32 x.count && bits 32 x.crc && x.records.all (bits 16)
  && x.entries.all (fun e => bits 8 e.kind && bits 32 e.offset && bits 32 e.bytes && imageOk e.image)

/-- A received frame: a marker of 16 bytes, the codewords of its data field with symbols in error, each at most once, and at most the
bytes that a cell may have (R343 to R346). -/
def frameOk (f : FrameIn) : Bool :=
  bits 128 f.marker && f.errors.all (fun e => decide (e.1 < 25 ∧ e.2 ≤ 139)) && decide (f.errors.map (·.1)).Nodup
  && decide (f.bytes.length ≤ 2816)

/-- A tag of a context of the remote-memory engine (R404). -/
def tagOk (ctx tag : Nat) : Bool := bits 14 ctx && bits 12 tag

/-- Is a command well-formed? -/
def Instr.wellFormed : Instr → Bool
  | .registerWrite mid page off size _ => midOk mid && decide (page ≤ 4095) && bits 27 off && decide (size ≤ 64)
  | .resetRelease => true
  | .pllLock => true
  | .minuetPhase2Complete _ => true
  | .minuetPhase3Complete _ _ _ _ => true
  | .rootPllLoss => true
  | .ucieTrainingLoss _ => true
  | .timeIncrLoWrite mid _ => midOk mid
  | .timeIncrHiWrite mid _ => midOk mid
  | .timeSetGo mid _ => midOk mid
  | .ppsInEdge _ => true
  | .capStrobeWrite mid _ => midOk mid
  | .timeLatch mid => midOk mid
  | .setReady => true
  | .syncHoldover => true
  | .timeLocked => true
  | .ppsOutSecond => true
  | .ppsOutPulseEnd => true
  | .trigCtrlWrite mid _ _ => midOk mid
  | .triggerFire => true
  | .clkModeWrite mid _ => midOk mid
  | .droopDetection => true
  | .ndcClear mid => midOk mid
  | .cntFreezeWrite mid _ => midOk mid
  | .evselWrite mid spire n _ => midOk mid && (match spire with
      | some k => decide (k < 32 ∧ n.val < 8)
      | none => true)
  | .bundleIssue _ f => decide (f.errs ≤ 36)
  | .nop _ => true
  | .br _ target => bits 20 target
  | .brf _ _ _ target => bits 20 target
  | .vrep _ level len count => bits 2 level && bits 12 len && bits 16 count
  | .issue _ desc => bits 20 desc && desc % 2 == 0
  | .wrel _ => true
  | .wflag _ _ _ => true
  | .wplan _ pcclk => decide (pcclk < planEnd)
  | .flags _ set clear => bits 16 set && bits 16 clear
  | .ret _ => true
  | .ctlEnd _ code => bits 8 code
  | .wend _ => true
  | .holdRelease _ => true
  | .vectorResult _ u => symbolsOk u.errs
  | .drainComplete _ => true
  | .bankSwitchComplete _ => true
  | .windowStart _ => true
  | .windowOverrun _ => true
  | .windowEnd _ => true
  | .tileLoadStart _ => true
  | .passStart _ => true
  | .passSwap _ => true
  | .perVectorCheck _ _ => true
  | .checksumRowStep _ _ => true
  | .passRelease _ => true
  | .rld _ _ f _ _ => bits 7 f
  | .rst _ _ f _ _ _ => bits 7 f
  | .ramo _ _ f _ _ _ => bits 7 f
  | .rfence _ _ _ => true
  | .sprR _ _ _ _ => true
  | .sprW _ _ _ _ => true
  | .statePathAccessEnd _ => true
  | .flag _ _ f _ _ _ => bits 7 f
  | .yield _ _ => true
  | .controlCoreInstruction _ _ => true
  | .spireLoad _ img => bits 20 img.start && bits 20 img.ivec && bits 8 img.threads && img.starts.length == 8
  | .loadComplete _ => true
  | .spireStart _ => true
  | .spireStartTime _ => true
  | .spireStop mid _ cause => midOk mid && bits 2 cause
  | .spireResume mid _ cause => midOk mid && bits 2 cause
  | .spireAbort mid _ => midOk mid
  | .spireFence mid _ => midOk mid
  | .spireReturn _ => true
  | .wipeComplete _ => true
  | .transferAccept _ => true
  | .hbmBeat _ b => symbolsOk b.errs
  | .transferComplete _ _ => true
  | .openSlot x => symbolsOk x.errs
  | .hbmRefreshPoint _ => true
  | .bootWipeStart _ => true
  | .bootWipeComplete _ => true
  | .placeWipeComplete _ => true
  | .tileMapRebuildComplete => true
  | .alloc issuer a => issuerOk issuer && bits 24 a.first && bits 32 a.count && bits 16 a.lease && bits 8 a.tier && bits 8 a.stack
  | .free issuer first count => runOk issuer first count
  | .move issuer a => issuerOk issuer && bits 24 a.first && bits 32 a.count && bits 8 a.tier && bits 8 a.stack
  | .moveTileCommit => true
  | .pin issuer first count => runOk issuer first count
  | .unpin issuer first count => runOk issuer first count
  | .query issuer first count buffer => runOk issuer first count && bits 64 buffer
  | .assign issuer first count lease => runOk issuer first count && bits 16 lease
  | .boundary issuer lease leaves joins => issuerOk issuer && bits 16 lease && bits 8 leaves.length && bits 8 joins.length && (leaves ++ joins).all rangeOk
  | .flashPageRead tile _ => bits 24 tile
  | .flashWriteAck a => bits 24 a.tile
  | .flashRelocation e => bits 24 e.block
  | .powerFail => true
  | .powerFailRecovery => true
  | .cellConfig issuer _ => issuerOk issuer
  | .cellStart issuer cell _ => issuerOk issuer && bits 16 cell
  | .cellStop issuer cell _ => issuerOk issuer && bits 16 cell
  | .cellClear issuer cell => issuerOk issuer && bits 16 cell
  | .cellStartTime _ => true
  | .cellStopTime _ => true
  | .dlRecordRead _ => true
  | .ulRecordWrite _ _ _ => true
  | .symbolPowerEstimate _ stream => decide (stream < 64)
  | .engineEntryStart _ _ => true
  | .engineDescriptorDone _ _ => true
  | .radioFault _ => true
  | .stepFrameTransmit _ payload => payloadOk payload
  | .stepFrameReceive _ frame => frameOk frame
  | .laneCtrlWrite mid _ _ => midOk mid
  | .laneRetrain mid _ => midOk mid
  | .laneTrainingDone _ => true
  | .laneAlignDone _ => true
  | .laneBringupTimeout _ => true
  | .laneDownExpiry _ => true
  | .heartbeatMiss _ => true
  | .pavaneLoad issuer _ first tiles => issuerOk issuer && bits 32 first && bits 8 tiles
  | .pavaneActivate issuer _ figure _ => issuerOk issuer && bits 8 figure
  | .figureSwitch issuer figure _ => issuerOk issuer && bits 8 figure
  | .pavaneClear issuer _ => issuerOk issuer
  | .drainPeriodEnd => true
  | .beSend issuer a => issuerOk issuer && bits 16 a.dstChip && bits 16 a.dstLease && bits 3 a.queue && bits 2 a.colour && bits 16 a.len && a.payload.length == a.len
  | .beDecision _ => true
  | .tokenRefill => true
  | .rmemOp issuer op _ _ _ => issuerOk issuer && bits 4 op
  | .rmemFence issuer => issuerOk issuer
  | .rmemRequestApply => true
  | .rmemRetransmit ctx tag => tagOk ctx tag
  | .rmemTimeout ctx tag => tagOk ctx tag
  | .rmemAckSend ctx tag => tagOk ctx tag
  | .replayRecordExpiry => true
  | .stagingLineTransfer _ => true
  | .stagingWaitTimeout => true
  | .jobSubmit issuer first tiles user => issuerOk issuer && bits 32 first && bits 16 tiles && bits 32 user
  | .jobCancel issuer job => issuerOk issuer && bits 32 job
  | .placement => true
  | .jobCompletion job => bits 32 job
  | .dspReclaimMaskWrite mid _ => midOk mid
  | .reclaimDone => true
  | .logStart issuer lease tile iova pages => issuerOk issuer && bits 16 lease && bits 32 tile && bits 64 iova && bits 32 pages
  | .logFlip issuer lease => issuerOk issuer && bits 16 lease
  | .logStop issuer lease => issuerOk issuer && bits 16 lease
  | .leaseReset _ _ => true
  | .leaseResetComplete _ => true
  | .qpCtrlWrite mid _ _ => midOk mid
  | .sqTailWrite mid _ _ => midOk mid
  | .submissionFetch _ _ entry _ => entry.length == 64
  | .completionRecordWrite _ _ => true
  | .cqHeadWrite mid _ _ => midOk mid
  | .berxHeadWrite mid _ => midOk mid
  | .dbMaskWrite mid _ => midOk mid
  | .mbTxWrite mid _ _ => midOk mid
  | .mbRxRead mid _ => midOk mid
  | .mbCtrlWrite mid _ _ => midOk mid
  | .mbBindWrite mid _ _ => midOk mid
  | .mbLockWrite mid _ => midOk mid
  | .cxlMemRequest _ => true
  | .identifyMemoryDevice => true
  | .getSupportedLogs => true
  | .getLog => true
  | .getEventRecords _ => true
  | .clearEventRecords _ => true
  | .getPoisonList _ _ => true
  | .cxlMailboxUnsupported opcode => bits 16 opcode
  | .tdispGetVersion _ => true
  | .tdispGetCapabilities _ => true
  | .lockInterface _ _ => true
  | .getDeviceInterfaceReport _ => true
  | .getDeviceInterfaceState _ => true
  | .startInterface _ => true
  | .stopInterface _ => true
  | .ideCheckFailure _ => true
  | .testWindowStart => true
  | .testSegmentComplete _ => true
  | .recomputeComplete _ _ => true
  | .shadowRecomputeComplete _ _ => true
  | .testWindowEnd => true
  | .relTestCfgWrite mid _ => midOk mid
  | .relTestLenWrite mid _ => midOk mid
  | .relDumpClear mid => midOk mid
  | .relPmClear mid => midOk mid
  | .chipLostDeclaration chip => bits 16 chip
  | .chipReturn chip => bits 16 chip
  | .govTokenRefill => true
  | .govLowerExpiry => true
  | .pathMonitorSample _ slack => bits 16 slack
  | .opticalPowerRead _ _ => true
  | .correctionSummary => true
  | .fatalError detector => bits 8 detector
  | .fatalDumpComplete => true
  | .firmwareStart b => decide (2 ^ 26 ≤ b.capacity) || !b.memory
  | .configApplied => true
  | .timeAcquireEntry => true
  | .recoveryImageReceive x => bankOk x
  | .watchdogKick mid => midOk mid
  | .watchdogExpiry => true
  | .domeMctpHeartbeat => true
  | .sensorSample temps volts => temps.length == 96 && volts.length == 48
  | .spdmGetVersion => true
  | .spdmGetCapabilities => true
  | .negotiateAlgorithms _ => true
  | .getDigests => true
  | .getCertificate => true
  | .challenge => true
  | .getMeasurements _ => true
  | .keyExchange session => bits 32 session
  | .finish session => bits 32 session
  | .spdmHeartbeat session => bits 32 session
  | .keyUpdate session => bits 32 session
  | .endSession session => bits 32 session
  | .vendorDefinedRequest session _ => bits 32 session
  | .getInfo _ tag => bits 8 tag
  | .stage _ tag kind first tiles => bits 8 tag && bits 32 kind && bits 32 first && bits 32 tiles
  | .stageComplete e => bankOk e.supplied
  | .chipReset _ tag => bits 8 tag
  | .logRead _ tag fromSeq count first => bits 8 tag && bits 32 fromSeq && bits 32 count && bits 32 first
  | .logRecordWrite => true
  | .debugTokenReceive t => imageOk t.image && bits 8 t.level
  | .jtagInstruction _ => true
  | .pwrState issuer target _ => issuerOk issuer && bits 8 target
  | .deepSleepEntry => true
  | .pwrGate issuer mask => issuerOk issuer && bits 32 mask
  | .pwrUngate issuer mask => issuerOk issuer && bits 32 mask
  | .pwrWakeCfg issuer _ => issuerOk issuer
  | .pwrCap issuer cap => issuerOk issuer && bits 16 cap
  | .domainReady _ => true
  | .wakePin _ => true
  | .avsResponse _ ack value => bits 2 ack && bits 16 value
  | .avsTimeout => true
  | .avsLoopTick => true
  | .throttleSample => true
  | .vrAlert => true
  | .estopEnd => true
  | .resetPinAssert _ => true
  | .pavaneLoadComplete => true
  | .stackTemperatureReport _ _ => true
  | .powerLoss => true
  | .wakeIslandThermtrip _ => true
  | .localEngineStoreAccept _ _ => true

end Sys2Proof
end

