-- ==== Sys2Proof/Tests/Slice0.lean ====
section
/-! SUPPORT. Tests: for each statement a state and operands that meet its hypotheses (witness_<statement>), ill-formed commands
that the check refuses, and the worked examples of the spec. -/

set_option autoImplicit false
set_option Elab.async false

open Sys2Proof Sys2Proof.Machine

/-! ### States that the tests start from -/

namespace Sys2Proof.Tests
/-- A chip in Run after the Minuet, in the BOOT state. -/
def booted : State :=
  { State.reset with
    clk := { ClkState.reset with pendingReset := none, refPresent := true, done := true, phase1Done := true, phase := 3, chipState := .boot } }
/-- A chip that is READY. -/
def ready : State := { booted with clk := { booted.clk with chipState := .ready }, time := { booted.time with servo := tsLocked } }
/-- A chip in the Minuet's first phase. -/
def minuet : State := { State.reset with clk := { ClkState.reset with pendingReset := none, refPresent := true } }
/-- A chip whose Spire `k` runs. -/
def running (k : Nat) : State :=
  { ready with rel := { ready.rel with inService := 0xFFFFFFFF } }.modSeq k (fun q => { q with mode := .running })
/-- A chip whose Spire 5 runs reclaim work in BANK_S. -/
def shadow : State :=
  let s := ((running 5).modSeq 5 (fun q => { q with reclaim := true })).modVu 5 (fun v => { v with inS := true })
  { s with dsp := { s.dsp with entered := 0x20 } }
/-- A job of one Spire, rank 0 of which is Spire 3. -/
def job1 : Job :=
  ⟨1, 7, 7, 0, 0, 0, 0, ⟨0, 0xFFFF, 1, 1, 0, [], []⟩, .loading, [3], Tab.empty, none, 0, 0, 0, 0, false, none⟩
/-- A chip whose Spire 3 loads its rank of a job. -/
def loadingJob : State :=
  let s := (running 3).modSpire 3 (fun p => { p with ctx := .job 1, seq := { p.seq with mode := .loading } })
  { s with dsp := { s.dsp with running := [job1] } }
/-- Spire 0 with a legal descriptor of one INT8 product at store address 0. -/
def withDesc (k : Nat) : State :=
  (running k).modSpire k (fun p => { p with
    xb := { p.xb with jobLimit := 32 }
    store := [(0x00, 0x55041040), (0x04, 0x00402001), (0x08, 0x400), (0x0C, 0x600), (0x10, 0x800), (0x14, 0x20), (0x18, 0x820), (0x1C, 0x20),
      (0x28, 0xC00), (0x2C, 0x40), (0x30, 0xE00), (0x34, 0x20)].foldl (fun m w => m.writeLE w.1 4 w.2) p.store })
/-- That descriptor. -/
def pass0 (k : Nat) : PassDesc := ((withDesc k).spire k).store.desc 0
/-- The release record of a pass of that descriptor. -/
def rec0 : ReleaseRec := ⟨pass0 0, 0, 0, 0, 0, 0⟩
/-- A Spire whose ISSUE of the descriptor at 0 is to be decided. -/
def issuing : State :=
  let s := (withDesc 0).modSeq 0 (fun q => { q with issues := [⟨0, 0, false, false, 0, some (((withDesc 0).spire 0).store.readLE 0 64, false), none⟩] })
  { s with clock := { s.clock with edges := 3 } }
/-- A Spire with that descriptor queued in its array. -/
def queued (k : Nat) : State := (withDesc k).modArr k (fun a => { a with queued := some ⟨pass0 k, 0, 0, false, 0⟩ })
/-- A Spire with a pass of that descriptor in its array. -/
def inArray (k : Nat) (ready failed : Bool) : State :=
  let s := (withDesc k).modArr k (fun a =>
    let p := (QueuedPass.mk (pass0 k) 0 0 false 0).start 1 0 1
    { a with passes := [{ p with swapped := ready, checked := if ready then 1 else 0, rowDone := ready, failed := failed }] })
  { s with clock := { s.clock with edges := 100 } }
/-- A pass with a vector to check, or one whose vectors are checked and whose checksum row is due. -/
def checking (row : Bool) : State :=
  let s := (withDesc 0).modArr 0 (fun a =>
    let p := (QueuedPass.mk (pass0 0) 0 0 false 0).start 1 0 1
    { a with passes := [{ p with swapped := true, checked := if row then 1 else 0, vectors := if row then [] else [⟨0, 1, 0, 0, 0⟩] }] })
  { s with clock := { s.clock with edges := 100 } }
/-- A Spire whose thread runs, with 15 in x5 and the state-path accesses `l`. -/
def threaded (k t : Nat) (l : List PathAccess) : State :=
  (running k).modCc k (fun c => { c with
    running := BitVec.ofNat 3 t, paths := l
    threads := c.threads.modify Thread.reset t (fun x => { x with mode := .running, x := x.x.set 0 5 15 }) })
/-- A thread of Spire 0 at `pc`, with a register, a jump, a branch, a load and a store instruction from address 0 on. -/
def codedAt (pc : Nat) : State :=
  ((threaded 0 0 []).modThread 0 0 (fun x => { x with pc := BitVec.ofNat 64 pc })).modSpire 0 (fun p => { p with
    xb := { p.xb with jobLimit := 32 }
    store := [(0, 0x00028313), (4, 0xFFDFF06F), (8, 0xFE000EE3), (12, 0x00002383), (16, 0x00502423)].foldl
      (fun m w => m.writeLE w.1 4 w.2) p.store })
/-- That thread at address 0. -/
def coded : State := codedAt 0
/-- An image that names no Spire and no stack. -/
def blank : Pavane :=
  ⟨0, 0, [0], [], Tab.empty, Tab.empty, Tab.empty, Tab.empty, Tab.empty, Tab.empty, [], [], Tab.empty, Tab.empty, Tab.empty⟩
/-- A chip after a first period start, in time-only mode, whose test window is the whole period. -/
def windowed (k : Nat) : State :=
  let s := running k
  { s with
    time := { s.time with periods := 1 }
    fab := { s.fab with slotA := some blank }
    rel := { s.rel with testEnable := true, testStart := 0, testLen := 50000 } }
/-- A chip whose image has stream 0 of Spire 0 as a GET from stack 0, whose first cell slot of stack 0 belongs to stream 2; tile
5 lies in stack 0. Spire 0 has a GET request, a PUT beat due on stream 1, a GET on stream 2 and a finished PUT on stream 3. -/
def moving : State :=
  let img : Pavane := { blank with
    store := [0x4000000000], hbm := Tab.empty.set [] 0 [0x100000020]
    xbar := Tab.empty.set [] 0 [24 * 2 ^ 44 + 2 ^ 32 + 8 * 2 ^ 12] }
  let s := (running 0).modSpire 0 (fun p => { p with xb := { p.xb with
    jobLimit := 32
    requests := [⟨true, 0, 0, 0, some (5 + 2 ^ 40 + 2 ^ 127 + 3 * 2 ^ 120), false, 0, false⟩]
    puts := [⟨1, 0, 7, 0, 0, 0, [1], 0, true, false, 0⟩]
    streams := (p.xb.streams.set Stream.reset 2 ⟨some ⟨true, 5, 0, 1, 0, 0, 0, 7, false, 0, false, 0, 0, 0⟩, none⟩).set Stream.reset 3
      ⟨some ⟨false, 5, 0, 1, 1, 0, 0, 7, true, 15, false, 0, 9, 0⟩, none⟩ } })
  { s with
    time := { s.time with periods := 1 }
    clock := { s.clock with edges := 64 }
    fab := { s.fab with active := some false, slotA := some img }
    tier := { s.tier with map := s.tier.map.set TileEntry.free 5 ⟨.hbm, .ready, false, false, 0, 1, 0, 7⟩ } }
/-- A chip with stack 0 trained, tile 5 in it and requests in its queue. -/
def serving (l : List OpenReq) : State :=
  { ready.modStack 0 (fun x => { x with trained := true, bootWiped := true, queue := l, used := [7] }) with
    pwr := { ready.pwr with domains := BitVec.allOnes 30 }
    clock := { ready.clock with edges := 20 }
    tier := { ready.tier with
      ready := true, map := ready.tier.map.set TileEntry.free 5 ⟨.hbm, .ready, false, false, 0, 1, 0, 7⟩ } }
/-- A chip whose flash tier is ready and holds tile 9, at retry level `l`. -/
def flashed (l : Nat) : State :=
  let s := ready.setTile 9 ⟨.flash, .ready, false, true, 0, 0, 0, 0⟩
  { s with flash := { s.flash with ready := true, stripes := s.flash.stripes.set Stripe.none 9 ⟨0, false, 1, []⟩, retry := s.flash.retry.set 0 (9 * 16) l } }
/-- A configuration block of cell 0 with rings in tiles 5 and 6. -/
def cellBlock : BitVec 256 := BitVec.ofNat 256 (6 * 2 ^ 96 + 5 * 2 ^ 128 + 5 * 2 ^ 160 + 2 * 2 ^ 192)
/-- A chip whose active image has cell slot 0, with cell 0 configured and in a state. -/
def celled (st : CellState) : State :=
  let s := (ready.setTile 5 ⟨.hbm, .ready, false, false, 0, 1, 0, 7⟩).setTile 6 ⟨.hbm, .ready, false, false, 0, 1, 0, 8⟩
  { s.modCell 0 (fun x => { x with state := st, block := cellBlock, target := 6 }) with
    fab := { s.fab with active := some false, slotA := some { blank with radio := Tab.empty.set [] 0 [2], engines := Tab.empty.set [] 0 [100 * 2 ^ 20] } }
    time := { s.time with periods := 1 } }
/-- An ACTIVE cell 0 whose slot 0 is due, with `p` poisoned words at the start of its record. -/
def recorded (p : Nat) : State :=
  let s := (celled .active).modStack 0 (fun x => { x with mem := (List.range p).foldl (fun m i => m.setPoison (7 * 8192 + i) true) x.mem })
  { s with time := { s.time with hall := hallOf (nsUnits (gpsEpochNs + 1000)) } }
/-- An image with one step set: on lane 3, a receive HEARTBEAT entry in Step 4, a transmit one in Step 5 and a transmit TRANSIT
entry in Step 6 of what arrives on lane 2 in Step 1. Its partner on lane 3 is chip 9. -/
def stepImage : Pavane :=
  { blank with
    id := 7
    figures := [2 ^ 31]
    laneMap := [0, 0, 0, 2 ^ 63 + 9 * 2 ^ 40 + 3 * 2 ^ 32]
    steps := Tab.empty.set [] 0 [4 * 2 ^ 51 + 2 ^ 50 + 3 * 2 ^ 44 + 3 * 2 ^ 40, 5 * 2 ^ 51 + 3 * 2 ^ 44 + 3 * 2 ^ 40,
      6 * 2 ^ 51 + 3 * 2 ^ 44 + 2 * 2 ^ 40 + 2 * 2 ^ 18 + 1 * 2 ^ 5] }
/-- A READY chip with that image active in its first period, hall time in Step 8, its lane `n` in a state since tick 0, now at
tick `t`. -/
def laned (n : Nat) (st : LaneState) (t : Nat) : State :=
  let s := ready.modLane n (fun l => { l with regs := { l.regs with state := st } })
  { s with
    fab := { s.fab with
      active := some false, slotA := some stepImage
      held := [⟨plainCell 1 6 9 [], 2, 1, 0, 0, false⟩] }
    clock := { s.clock with tick := t }
    pwr := { s.pwr with domains := BitVec.allOnes 30 }
    dome := { s.dome with chipId := 5, cfg := { s.dome.cfg with lanes := s.dome.cfg.lanes.modify LaneCfg.off 3 (fun x => { x with chip := 9, lane := 3 }) } }
    time := { s.time with periods := 1, hall := hallOf (8 * stepUnits) } }
/-- That chip in Step `m` of its first period. -/
def atStep (m : Nat) (s : State) : State := { s with time := { s.time with hall := hallOf (m * stepUnits) } }
/-- The valid marker of a chip that is not locked, of Step `m`. -/
def marker (m : Nat) : Nat :=
  let h := 0xE13C9A4D + m * 2 ^ 32
  h + crc16 (leBytes h 14) * 2 ^ 112
/-- The bytes of an image for chip 5 with one Figure, no lane enabled and no window: header, descriptors, five sections. -/
def imageBytes : List Byte :=
  let sec (type scope off n : Nat) : List Byte := leBytes (type * 2 ^ 24 + scope * 2 ^ 20 + off * 2 ^ 32 + n * 2 ^ 64) 16
  let head (crc : Nat) : List Byte :=
    leBytes (0x4A485650 + 1 * 2 ^ 32 + 7 * 2 ^ 64 + 5 * 2 ^ 96 + 2072 * 2 ^ 128 + crc * 2 ^ 160 + 1 * 2 ^ 192 + 5 * 2 ^ 200) 64
  let body : List Byte := leBytes (2 ^ 31) 128
    ++ sec 1 15 272 512 ++ sec 9 15 784 1024 ++ sec 2 0 1808 0 ++ sec 5 0 1808 8 ++ sec 10 0 1816 256
    ++ List.replicate 512 0 ++ ((List.range 32).map (fun _ => leBytes 32 32)).flatten
    ++ leBytes (2 ^ 63) 8 ++ ((List.range 32).map (fun k => leBytes (1 * 2 ^ 60 + k * 2 ^ 48) 8)).flatten
  head (crc32c (head 0 ++ body)) ++ body
/-- A chip with CHIP_ID `c` whose tile 5 in HBM belongs to lease 0, is pinned and starts with `l`; slot A holds an image of `a`
bytes. -/
def imaged (c a : Nat) (l : List Byte) : State :=
  let s := (ready.setTile 5 ⟨.hbm, .ready, false, false, 0, 1, 0, 7⟩).modStack 0 (fun x => { x with mem := x.mem.writeBytes (7 * tileBytes) l })
  { s with
    dome := { s.dome with chipId := BitVec.ofNat 16 c }
    fab := { s.fab with slotA := some { stepImage with bytes := a } } }
/-- The chip of `laned` with every condition for another Pavane: LOCKED, its lane's delay bound kept. -/
def activable : State :=
  let s := (laned 3 .up 0).modLane 3 (fun l => { l with regs := { l.regs with delayValid := true } })
  { s with fab := { s.fab with slotB := some { stepImage with sync := Tab.empty.set [] 0 [0] } } }
/-- That chip with lane 3 UP, a route to chip 9, a cell in queues 1 and 4 of the lane, queue 5 shut, and lease 1 with an empty meter. -/
def trafficked : State :=
  let s := laned 3 .up 0
  let c : BeCell := ⟨plainCell 6 9 5 [], 0⟩
  { s with
    be := { s.be with
      routes := s.be.routes.set 0 9 0x83
      queues := ((s.be.queues.modify BeQueue.reset 25 (fun u => { u with cells := [c], finish := 10 })).modify BeQueue.reset 28
        (fun u => { u with cells := [c], finish := 20 })).modify BeQueue.reset 29 (fun u => { u with weight := 0 })
      meters := s.be.meters.modify Meter.reset 1 (fun m => { m with modeNow := 1, qmask := 4 }) }
    leases := s.leases.modify Lease.reset 1 (fun l => { l with enable := true }) }
/-- A store of the host to chip 9, sent at `sent`. -/
def rq (uid : Nat) (sent : Option Nat) (reply : Option (Nat × DWord)) (ack : Bool) : RmRequest :=
  ⟨uid, false, 256, 2, 3, 3, 0x0009000000000008, 0, 0, 0, 0, .host (.ring 0 0 1), 9, sent, 0, 0, reply, ack, false⟩
/-- The chip of `laned` in Step `m`, with chip 9 in its near set and requests `l`. -/
def remote (m : Nat) (l : List RmRequest) : State :=
  let s := atStep m (laned 3 .up 0)
  { s with
    fab := { s.fab with slotA := some { stepImage with near := Tab.empty.set [] 0 [9 * 2 ^ 48 + 1 * 2 ^ 32 + 2 * 2 ^ 16] } }
    rm := { s.rm with reqs := l, nextUid := 2 } }
/-- A request record of chip 9 for `a`. -/
def record1 (op : Nat) (a : DWord) : RmRecord := ⟨1, op, 1, 2, 0, false, 3, 0, 4, a, 77, 0, 9, 5, 0, false, none⟩
/-- That chip, its domains on or gated, with records `l` for it, `p` poisoned words in tile 5 of lease 7, a Spire 3 that runs a
job of that lease, and a grant of both to lease 3 of chip 9; the Belfry port owns stack 0's slot. -/
def targeted (on : Bool) (p : Nat) (l : List RmRecord) : State :=
  let s1 := ((remote 0 []).setTile 5 ⟨.hbm, .ready, false, false, 7, 1, 0, 7⟩).modStack 0
    (fun x => { x with mem := (List.range p).foldl (fun m i => m.setPoison (7 * 8192 + i) true) x.mem })
  let s := s1.modSpire 3 (fun q => { q with ctx := .job 1, seq := { q.seq with mode := .running }, xb := { q.xb with jobLimit := 32 } })
  { s with
    clock := { s.clock with plan := 2 }
    fab := { s.fab with slotA := some { blank with hbm := Tab.empty.set [] 0 [0x6400012200]
                                                   xbar := Tab.empty.set [] 0 [1000 * 2 ^ 32 + 2 ^ 20 + 14 * 2 ^ 16 + 8 * 2 ^ 12, 1000 * 2 ^ 32 + 2 ^ 20 + 8 * 2 ^ 16 + 14 * 2 ^ 12] } }
    pwr := { s.pwr with domains := if on then BitVec.allOnes 30 else 0 }
    dsp := { s.dsp with running := [job1] }
    rm := { s.rm with inbox := l, grants := s.rm.grants.set Grant.reset 0 ⟨true, true, true, 3, 9, 7⟩ } }
/-- A job image for one Spire with one segment at store address 64. -/
def jobBytes (bad : Nat) : List Byte :=
  let head (crc : Nat) : List Byte :=
    leBytes (0x564A4F42 + 1 * 2 ^ 32 + 7 * 2 ^ 64 + 1 * 2 ^ 96 + 1 * 2 ^ 104 + 0xFFFF * 2 ^ 112) 16 ++ leBytes (144 + crc * 2 ^ 32 + 1 * 2 ^ 64) 48
  let rest : List Byte := leBytes 0 64 ++ leBytes (0xFF + 64 * 2 ^ 32 + 16 * 2 ^ 64) 16
  let crc := jobCrc (head 0 ++ rest)
  head (crc + bad) ++ rest
/-- A READY chip with that image in tile 5 and `blank` active. -/
def submittable (bad : Nat) : State :=
  let s := (ready.setTile 5 ⟨.hbm, .ready, false, false, 0, 1, 0, 7⟩).modStack 0 (fun x => { x with mem := x.mem.writeBytes (7 * tileBytes) (jobBytes bad) })
  { (s.setTile 6 ⟨.hbm, .ready, false, false, 3, 1, 0, 8⟩) with
    fab := { s.fab with active := some false, slotA := some { blank with id := 7, figures := [2 ^ 31], store := [32] } }
    rel := { s.rel with inService := 0xFFFFFFFF }
    leases := s.leases.modify Lease.reset 0 (fun l => { l with maxSpires := 32, queueLimit := 8 }) }
/-- A chip with a queued job of lease 0 and every Spire in service. -/
def placeable : State :=
  let s := submittable 0
  let s := (List.range 32).foldl (fun t k => t.modXb k (fun x => { x with jobLimit := 32 })) s
  { s with
    pwr := { s.pwr with domains := BitVec.allOnes 30 }
    fab := { s.fab with slotA := some { blank with id := 0 } }
    dsp := { s.dsp with queue := [{ job1 with phase := .queued, spires := [], lease := 0, image := { job1.image with pavane := 0 } }] } }
/-- A chip whose Spire 1 is borrowable, idle and in service; Spire 2 is not borrowable. -/
def borrowed : State :=
  let s := ready.modXb 1 (fun x => { x with jobLimit := 16 })
  { s with
    pwr := { s.pwr with domains := BitVec.allOnes 30 }
    rel := { s.rel with inService := 0xFFFFFFFF }
    dsp := { s.dsp with reclaimEntry := 0x00F80000 }
    fab := { s.fab with active := some false, slotA := some { blank with windows := Tab.empty.set [] 0 [2 ^ 60 + 2 ^ 48 + 2] } } }
/-- A chip with tiles 16 to 31 of lease 0 pinned in HBM and lease 3 enabled, its writes logged or not. -/
def logging (on : Bool) : State :=
  let s := (List.range 16).foldl (fun t i => t.setTile (16 + i) ⟨.hbm, .ready, false, false, 0, 1, 0, BitVec.ofNat 18 i⟩) ready
  s.modLease 3 (fun l => { l with enable := true, log := { l.log with on := on, tile := 16 } })
/-- A READY chip whose lease `n` is enabled, with pair 0 of 8 entries, two of them waiting, and a receive ring of 8 with 3 slots filled. -/
def paired (n : Nat) : State :=
  let s := (ready.modLease n (fun l => { l with enable := true })).modPair n 0 (fun p => { p with
    enable := true, sqLog2 := 3, cqLog2 := 3, sqHead := 1, sqTail := 3, phase := true })
  s.modFunc n (fun f => { f with rx := { f.rx with enable := true, log2 := 3, used := 3 } })
/-- Channels 0 and 1 from lease 3 to the Dome, the second full; channel 2 from the Dome to lease 3. -/
def mailed : State :=
  let s := paired 3
  let t0 := s.host.channels.set Channel.reset 0 { Channel.reset with valid := true, sender := 4, receiver := 0 }
  let t1 := t0.set Channel.reset 1 { Channel.reset with valid := true, sender := 4, receiver := 0, fifo := List.replicate 32 (0, 0) }
  let t2 := t1.set Channel.reset 2 { Channel.reset with valid := true, sender := 0, receiver := 4 }
  { s with clock := { s.clock with tick := 4 }, host := { s.host with channels := t2 } }
/-- A chip in its test window, with a test pack loaded and a visit in progress or none. -/
def tested (v : Option Visit) : State :=
  let s := windowed 3
  { s with
    rel := { s.rel with packLoaded := true, visit := v }
    fab := { s.fab with active := some false, slotA := some stepImage } }
/-- A chip with a dispute of Spire 3, which a stop has ended or not; recomputes of it, of Spire 17 and a shadow of Spire 9. -/
def disputed (stopped : Bool) : State :=
  { ready with clock := { ready.clock with edges := 40 }, rel := { ready.rel with
    disputes := [⟨3, 0, 0, 0, false, 0, stopped, ⟨true, false, 0, 0, 0⟩⟩]
    recomputes := [⟨0, 3, 4, false, false, rec0, 0⟩, ⟨1, 9, 10, true, false, rec0, 0⟩, ⟨2, 17, 18, false, false, rec0, 0⟩] } }
/-- An image of a KIND, signed under a modulus. -/
def signedImage (kind signer : Nat) (body modulus : List Byte) : Image :=
  let x : Image := ⟨imageMagic, kind, signer, 1, body.length, body, modulus, 0, List.replicate saltBytes 0⟩
  { x with signature := Config.pssSignature modulus x.message x.salt }
/-- An operator's modulus. -/
def operatorModulus : List Byte := List.replicate keyBytes 1
/-- A valid bank: firmware, a certificate, CONFIG for chip 7 with lane 3, and an IDENTITY that unwraps. -/
def goodBank : BankImg :=
  ({ BankImg.blank with
    identity := true, records := [1, 2, 3, 4, 5, 8], cfg := { CfgData.none_ with chipId := 7, lanes := Tab.empty.set LaneCfg.off 3 ⟨true, 9, 0, 0, 0⟩ } } : BankImg).build
    [⟨1, 0, 0, signedImage 1 0 [1, 2] Config.vendorModulus⟩, ⟨3, 0, 0, signedImage 3 0 operatorModulus Config.vendorModulus⟩,
      ⟨4, 0, 0, signedImage 4 1 [3] operatorModulus⟩, ⟨5, 0, 64, Image.none_⟩]
theorem signedImage_ok (kind signer : Nat) (body modulus : List Byte) (h : modulus.length = keyBytes) :
    (signedImage kind signer body modulus).headerOk kind = true ∧ (signedImage kind signer body modulus).signatureOk = true := by
  unfold Image.headerOk Image.signatureOk signedImage
  refine ⟨?_, ?_⟩
  · simp [h]
  · simp [Image.message, Image.header]
theorem signedImage_fields (kind signer : Nat) (body modulus : List Byte) :
    (signedImage kind signer body modulus).modulus = modulus ∧ (signedImage kind signer body modulus).signer = signer ∧
      (signedImage kind signer body modulus).body = body := ⟨rfl, rfl, rfl⟩
theorem signedImage_vendor (kind : Nat) (body : List Byte) (cert : Option (List Byte)) :
    (signedImage kind 0 body Config.vendorModulus).vendorKey = true ∧ (signedImage kind 0 body Config.vendorModulus).keyOk cert = true := by
  have h : (signedImage kind 0 body Config.vendorModulus).vendorKey = true := by
    unfold Image.vendorKey
    rw [(signedImage_fields kind 0 body Config.vendorModulus).1]
    simp
  refine ⟨h, ?_⟩
  unfold Image.keyOk
  rw [if_pos (signedImage_fields kind 0 body Config.vendorModulus).2.1]
  exact h
theorem signedImage_operator (kind : Nat) (body modulus : List Byte) :
    (signedImage kind 1 body modulus).keyOk (some modulus) = true := by
  unfold Image.keyOk
  rw [(signedImage_fields kind 1 body modulus).1, (signedImage_fields kind 1 body modulus).2.1]
  simp
theorem goodBank_signed (m v : List Byte) (f c g : Image) (x : BankImg) (h : x.entries = layOut 128 [⟨1, 0, 0, f⟩, ⟨3, 0, 0, c⟩, ⟨4, 0, 0, g⟩, ⟨5, 0, 64, Image.none_⟩])
    (hf : f = signedImage 1 0 [1, 2] v) (hc : c = signedImage 3 0 m v) (hg : g = signedImage 4 1 [3] m) (hv : v = Config.vendorModulus)
    (lv : v.length = keyBytes) (lm : m.length = keyBytes) : x.vendorOk = true ∧ x.signaturesOk = true := by
  have a := signedImage_ok 1 0 [1, 2] v lv
  have b := signedImage_ok 3 0 m v lv
  have d := signedImage_ok 4 1 [3] m lm
  have ka := signedImage_vendor 1 [1, 2]
  have kb := signedImage_vendor 3 m
  have kg := signedImage_operator 4 [3] m
  rw [← hv] at ka kb
  rw [← hf] at a ka
  rw [← hc] at b kb
  rw [← hg] at d kg
  have sf : f.signer = 0 := by rw [hf]; exact (signedImage_fields 1 0 [1, 2] v).2.1
  have sc : c.signer = 0 := by rw [hc]; exact (signedImage_fields 3 0 m v).2.1
  have sg : g.signer = 1 := by rw [hg]; exact (signedImage_fields 4 1 [3] m).2.1
  have bc : c.body = m := by rw [hc]; exact (signedImage_fields 3 0 m v).2.2
  have key : x.certKey = some m := by
    unfold BankImg.certKey BankImg.image
    rw [h]
    simp [layOut, sc, bc, Image.verified, b.1, b.2, (kb none).2]
  unfold BankImg.vendorOk BankImg.signaturesOk BankImg.signed
  rw [h, key]
  simp [layOut, sf, sc, sg, kindSigner, Image.verified, a.1, a.2, b.1, b.2, d.1, d.2, (ka none).1, (kb none).1, (ka (some m)).2, (kb (some m)).2, kg]
theorem goodBank_ok : goodBank.error (2 ^ 26) = 0 := by
  obtain ⟨hv, hs⟩ := goodBank_signed operatorModulus Config.vendorModulus _ _ _ goodBank rfl rfl rfl rfl rfl (by simp [Config.vendorModulus])
    (by simp [operatorModulus])
  unfold BankImg.error
  rw [hv, hs, show goodBank.headerOk (2 ^ 26) = true by decide +kernel, show goodBank.entriesOk = true by decide +kernel,
    show goodBank.configOk = true by decide +kernel]
  rfl

theorem goodBank_again (f c g : Image) (x y : BankImg) (hi : x.identity = true)
    (h : x.entries = layOut 128 [⟨1, 0, 0, f⟩, ⟨3, 0, 0, c⟩, ⟨4, 0, 0, g⟩, ⟨5, 0, 64, Image.none_⟩]) :
    (recoveredBank x x y).entries = layOut 128 [⟨1, 0, 0, f⟩, ⟨3, 0, 0, c⟩, ⟨4, 0, 0, g⟩, ⟨5, 0, 64, Image.none_⟩] := by
  unfold recoveredBank BankImg.build BankImg.ofKinds
  simp [hi, h, layOut, BankEntry.room, bankHeaderBytes, entryBytes]
theorem goodBank_received : (recoveredBank goodBank goodBank BankImg.blank).error (2 ^ 26) = 0 := by
  obtain ⟨hv, hs⟩ := goodBank_signed operatorModulus Config.vendorModulus _ _ _ (recoveredBank goodBank goodBank BankImg.blank)
    (goodBank_again _ _ _ _ _ rfl rfl) rfl rfl rfl rfl
    (by simp [Config.vendorModulus]) (by simp [operatorModulus])
  unfold BankImg.error
  rw [hv, hs, show (recoveredBank goodBank goodBank BankImg.blank).headerOk (2 ^ 26) = true by decide +kernel,
    show (recoveredBank goodBank goodBank BankImg.blank).entriesOk = true by decide +kernel,
    show (recoveredBank goodBank goodBank BankImg.blank).configOk = true by decide +kernel]
  rfl
theorem goodBank_staging (f c g : Image) (x : BankImg)
    (h : x.entries = layOut 128 [⟨1, 0, 0, f⟩, ⟨3, 0, 0, c⟩, ⟨4, 0, 0, g⟩, ⟨5, 0, 64, Image.none_⟩]) :
    (stagedBank 0 x x).entries = layOut 128 [⟨1, 0, 0, f⟩, ⟨3, 0, 0, c⟩, ⟨4, 0, 0, g⟩, ⟨5, 0, 64, Image.none_⟩] := by
  have h2 : x.image 2 = none := by unfold BankImg.image; rw [h]; rfl
  unfold stagedBank BankImg.build BankImg.ofKinds
  simp [h, h2, layOut, BankEntry.room, bankHeaderBytes, entryBytes]
theorem goodBank_staged : (stagedBank 0 goodBank goodBank).error (2 ^ 26) = 0 := by
  obtain ⟨hv, hs⟩ := goodBank_signed operatorModulus Config.vendorModulus _ _ _ (stagedBank 0 goodBank goodBank)
    (goodBank_staging _ _ _ _ rfl) rfl rfl rfl rfl (by simp [Config.vendorModulus]) (by simp [operatorModulus])
  unfold BankImg.error
  rw [hv, hs, show (stagedBank 0 goodBank goodBank).headerOk (2 ^ 26) = true by decide +kernel,
    show (stagedBank 0 goodBank goodBank).entriesOk = true by decide +kernel, show (stagedBank 0 goodBank goodBank).configOk = true by decide +kernel]
  rfl
end Sys2Proof.Tests

/-! ### Witnesses -/

/-- The hypotheses of StepRunsFrontCommand can be met. -/
theorem witness_StepRunsFrontCommand : ∃ (c : Instr) (rest : List Instr) (s : State), s.pending = c :: rest :=
  ⟨.pllLock, [], { State.reset with pending := [.pllLock] }, rfl⟩

/-- The hypotheses of MinuetRunsToBoot can be met. -/
theorem witness_MinuetRunsToBoot :
    State.reset.clk.pendingReset = some .powerOn ∧
    (Tests.minuet.clk.inMinuet = true ∧ Tests.minuet.clk.phase1Done = false) ∧
    (let s := { Tests.minuet with clk := { Tests.minuet.clk with phase := 2, attempts := 1, phase1Done := true } }
     s.clk.inMinuet = true ∧ s.clk.phase1Done = true ∧ s.clk.phase ≠ 3) ∧
    (let s := { Tests.minuet with clk := { Tests.minuet.clk with phase := 3 } }
     s.clk.inMinuet = true ∧ s.clk.phase = 3) ∧ (∀ n, n < 4 → max n 24 ≤ 24) ∧
    Tests.booted.clk.done = true := by
  refine ⟨rfl, by decide, by decide, by decide, fun n h => by omega, rfl⟩

/-- The hypotheses of TimeIncrementIsTheDomes can be met. -/
theorem witness_TimeIncrementIsTheDomes : Tests.ready.reachable = true ∧ ∃ mid : Nat, mid ≠ 0 := ⟨by decide, 1, by decide⟩

/-- The hypotheses of TimeIncrementCommit can be met. -/
theorem witness_TimeIncrementCommit : Tests.booted.reachable = true ∧
    (let v : Word := 1
     let x := v.toNat % 16 * 2 ^ 32 + Tests.booted.time.incrLo.toNat
     x = 0x12D2D2D2D ∧ (0x12D1DC199 ≤ x ∧ x ≤ 0x12D3C98C1) ∧ Tests.booted.fab.active = none ∧ Tests.booted.clk.mode = false) ∧
    (let s : State := { Tests.booted with clk := { Tests.booted.clk with mode := true } }
     s.clk.mode = true ∧ s.reachable = true) ∧
    ¬ (0x12D1DC199 ≤ (0x12D1DC198 : Nat)) := by decide

/-- The hypotheses of CoarseSetOnlyBeforeReady can be met. -/
theorem witness_CoarseSetOnlyBeforeReady : Tests.ready.reachable = true ∧ Tests.booted.reachable = true ∧
    (Tests.ready.clk.chipState ≠ .boot ∧ Tests.ready.clk.chipState ≠ .timeAcquire) ∧
    (Tests.booted.clk.chipState = .boot ∧ Tests.booted.time.setNs.toNat ≤ 999999999) ∧
    (999999999 < ({ Tests.booted.time with setNs := 1000000000 }).setNs.toNat) ∧
    ({ Tests.booted.time with setPending := some HallTime.zero }).setPending = some HallTime.zero ∧
    Tests.booted.time.setPending = none := by decide

/-- The hypotheses of LatchesAndCaptures can be met. -/
theorem witness_LatchesAndCaptures : Tests.ready.reachable = true ∧
    (let s := { Tests.ready with time := { Tests.ready.time with ppsEnable := true, hall := ⟨1, 0, 0⟩ } }
     s.time.ppsEnable = true ∧ s.time.ppsSec < s.time.hall.sec) ∧
    (let s := { Tests.ready with time := { Tests.ready.time with ppsFall := some 0 } }
     s.time.ppsFall = some 0 ∧ 0 ≤ s.now) := by decide

/-- The hypotheses of ReadyAndServoStates can be met. -/
theorem witness_ReadyAndServoStates :
    (let s := { Tests.ready with clk := { Tests.ready.clk with chipState := .timeAcquire } }
     s.clk.chipState = .timeAcquire ∧ s.time.servo = 3) ∧
    Tests.booted.clk.chipState ≠ .timeAcquire ∧
    (let s := { Tests.ready with time := { Tests.ready.time with periods := 8 } }
     s.time.role = false ∧ s.time.servo ≠ 4 ∧ s.time.lastSync + 8 ≤ s.time.periods ∧ s.clk.mode = false) ∧
    Tests.booted.lockHolds = false ∧
    (let s := { Tests.booted with time := { Tests.booted.time with role := true } }
     s.time.servo ≠ 3 ∧ s.lockHolds = true) := by decide

/-- The hypotheses of TriggerChannelsAreArmed can be met. -/
theorem witness_TriggerChannelsAreArmed : Tests.ready.reachable = true ∧
    (let s := Tests.ready.modTrigger 5 (fun c => { c with armed := true })
     s.reachable = true ∧ s.triggerDue 5 = true) ∧
    (let v : Word := 0x81000000; Tests.ready.triggerDue 0 = false ∧ 1 ≤ fieldW v 27 24 ∧ fieldW v 27 24 ≤ 3) ∧
    (let s := Tests.ready.modTrigger 0 (fun c => { c with tgtSecLo := 1 })
     s.reachable = true ∧ (s.trigger 0).armed = false ∧ bitW (0x87000000 : Word) 31 = true ∧
     (s.trigger 0).armOk (fieldW (0x87000000 : Word) 27 24) (fieldW (0x87000000 : Word) 20 16) = true ∧
     s.now < (s.trigger 0).targetReg) ∧
    ((Tests.ready.trigger 0).targetReg ≤ Tests.ready.now ∧ (Tests.ready.trigger 0).periodReg = 0) ∧
    (let s := Tests.ready.modTrigger 31 (fun c => { c with armed := true, target := 1 })
     s.reachable = true ∧ (s.trigger 31).armed = true ∧ s.now < (s.trigger 31).target ∧ bitW (0 : Word) 31 = false) := by decide

/-- The hypotheses of TriggersFireAndAdvance can be met. -/
theorem witness_TriggersFireAndAdvance :
    (let s := Tests.ready.modTrigger 0 (fun c => { c with armed := true, action := 7, late := [(0x1C, 0, 0xFF)] })
     s.timeRuns = true ∧ s.firing = [0] ∧ (s.trigger 0).action = 7 ∧ (s.trigger 0).mid = 0 ∧
     (s.trigger 0).late = [(0x18, (0xFF : Word))].map (fun w => (w.1 + 4, 0, w.2))) ∧
    (let s := Tests.ready.modTrigger 31 (fun c => { c with armed := true, action := 1 })
     s.timeRuns = true ∧ s.firing = [31] ∧ (s.trigger 31).action = 1 ∧ s.pwr.mode ≠ .sleep ∧ (s.trigger 31).late = [] ∧
     (s.trigger 31).target ≤ s.now ∧ s.time.incrNext = none) := by decide

/-- The hypotheses of ClockModeAndDroops can be met. -/
theorem witness_ClockModeAndDroops : Tests.ready.reachable = true ∧
    (let s := { Tests.ready with clk := { Tests.ready.clk with mode := true } }
     s.clk.mode = true ∧ s.clk.stretchUsed.toNat < s.clk.budget) ∧ Tests.ready.clk.mode = false := by decide

/-- The hypotheses of CounterRegisters can be met. -/
theorem witness_CounterRegisters :
    Tests.ready.serves 0x30078 = true ∧ Tests.ready.serves 0x30000 = true ∧ Tests.ready.serves 0x303E0 = true ∧
    (let s := { Tests.ready with rel := { Tests.ready.rel with inService := 0xFFFFFFFF }, pwr := { Tests.ready.pwr with domains := BitVec.allOnes 30 } }
     s.evselOk 1 31 = true ∧ s.serves (spireOffset 31 0x401E0) = true) := by decide

/-- The hypotheses of LinkLossTakesTheTowerOut can be met. -/
theorem witness_LinkLossTakesTheTowerOut :
    Tests.ready.clk.done = true ∧ Tests.ready.rel.towerOut.getLsbD 3 = false ∧ State.reset.clk.done = false := by decide

/-- The hypotheses of RegisterWritesTakeTheirFields can be met. -/
theorem witness_RegisterWritesTakeTheirFields : Tests.ready.reachable = true ∧ Tests.ready.pwr.mode = .run ∧
    (listed 0x10030 = true ∧ Tests.ready.serves 0x10030 = true ∧ listed 0x7FFFFFC = false) ∧
    (let s := { Tests.ready with pwr := { Tests.ready.pwr with domains := 0 } }
     let o := spireOffset 3 0x20004
     s.reachable = true ∧ listed o = true ∧ s.blockStopped o = false ∧ (domainOf o).all s.domainOn = false) ∧
    (let s := { Tests.ready with pwr := { Tests.ready.pwr with mode := .sleep, domains := BitVec.allOnes 30 } }
     let o := spireOffset 3 0x20004
     s.reachable = true ∧ listed o = true ∧ s.blockStopped o = true ∧ (domainOf o).all (returnToRun s).domainOn = true) ∧
    (midAssigned 4097 = false ∧ midAssigned 2 = true ∧ State.reset.reachable = false) := by decide

/-- The hypotheses of ControlOperationsMoveThePc can be met. -/
theorem witness_ControlOperationsMoveThePc :
    (Tests.running 0).canIssue 0 = true ∧ ((Tests.running 0).spire 0).vu.inS = false ∧
    (((Tests.running 0).spire 0).vu.bank false).badNesting 0 4095 0 = false ∧
    (Tests.running 31).canIssue 31 = true ∧ Tests.shadow.canIssue 5 = true ∧ (Tests.shadow.spire 5).vu.inS = true := by decide +kernel

/-- The hypotheses of HoldsAndEndings can be met. -/
theorem witness_HoldsAndEndings :
    ((Tests.running 0).canIssue 0 = true ∧ ((Tests.running 0).spire 0).vu.inS = false ∧
      ((Tests.running 0).spire 0).passesGone = true ∧ (Tests.running 0).issueAllowed 0 false 64 = true ∧
      ((Tests.running 0).spire 0).seq.dueIssue 0 = none) ∧
    (let s := (Tests.running 31).modSeq 31 (fun q => { q with inHandler := true })
     s.canIssue 31 = true ∧ (s.spire 31).seq.inHandler = true ∧ (s.spire 31).vu.inS = false) ∧
    (let s := (Tests.running 1).modArr 1 (fun a => { a with verdictWait := true })
     s.canIssue 1 = true ∧ (s.spire 1).passesGone = false) ∧
    (let s := Tests.shadow.modSeq 5 (fun q => { q with inHandler := true })
     s.canIssue 5 = true ∧ (s.spire 5).seq.inHandler = true ∧ (s.spire 5).vu.inS = true) ∧
    (Tests.shadow.canIssue 5 = true ∧ Tests.shadow.reclaimRuns 5 = true) ∧
    (let s := ((Tests.running 2).modSeq 2 (fun q => { q with window := true })).modVu 2 (fun v => { v with inS := true })
     s.canIssue 2 = true ∧ (s.spire 2).seq.window = true ∧ (s.spire 2).seq.reclaim = false ∧ s.role 2 ≠ .radioOwned) ∧
    (let s := (Tests.running 3).modSeq 3 (fun q => { q with hold := some .wrel })
     (s.spire 3).seq.getHold false = some .wrel ∧ s.bankGoes 3 false = true ∧ s.holdMet 3 false .wrel = true) := by decide +kernel

/-- The hypotheses of BundlesIssueAndResultsLand can be met. -/
theorem witness_BundlesIssueAndResultsLand :
    (let s := (Tests.running 0).modSpire 0 (fun p => { p with xb := { p.xb with jobLimit := 32 } })
     s.canIssue 0 = true ∧ (s.spire 0).vu.inS = false ∧ (s.spire 0).seq.nextPc false = 0 ∧ s.ownsRange 0 false 0 32 = true ∧
      (s.spire 0).isPending 0 32 = false ∧ (s.spire 0).store.poisonedAt 0 = false ∧ (s.spire 0).recent = [] ∧ (s.spire 0).arr.passes = [] ∧
      (decodeBundle ((s.spire 0).store.readLE 0 32)).any (fun b => b.ctl = .nop && !b.ip && b.va.vop == 0 && b.vl = .none_ &&
        b.vs = .none_ && b.xf = .none_) = true) ∧
    (let s := (Tests.running 0).modSeq 0 (fun q => { q with hold := some .wrel })
     s.canIssue 0 = false ∧ s.compares 0 = true) ∧
    (let f : VFlight := ⟨false, 1, .arith, 0, 0, .reg 3, 7, 0, 0, 0, 0, false, false, 0⟩
     firstLanding [f] = some f ∧ f.land ≤ (Tests.running 0).cyc) := by decide +kernel

/-- The hypotheses of DrainsSwitchesAndWindows can be met. -/
theorem witness_DrainsSwitchesAndWindows :
    (let s := (Tests.running 0).modVu 0 (fun v => { v with phase := .draining 0 .interrupt })
     (s.spire 0).vu.phase = .draining 0 .interrupt ∧ 0 ≤ s.cyc ∧ (s.spire 0).vu.inS = false ∧ (s.spire 0).seq.mode = .running ∧
      (s.spire 0).seq.window = false ∧ (s.spire 0).seq.reclaim = false) ∧
    (let s := (Tests.running 31).modVu 31 (fun v => { v with phase := .draining 0 .toShadow })
     (s.spire 31).vu.phase = .draining 0 .toShadow ∧ (s.spire 31).seq.mode ≠ .ending) ∧
    (let s := Tests.shadow.modVu 5 (fun v => { v with phase := .draining 0 .toMain })
     (s.spire 5).vu.phase = .draining 0 .toMain ∧ (s.spire 5).seq.mode ≠ .ending) ∧
    (let s := (Tests.running 1).modVu 1 (fun v => { v with phase := .switching 0 true })
     (s.spire 1).vu.phase = .switching 0 true) ∧
    (let s := (Tests.running 1).modVu 1 (fun v => { v with phase := .switching 0 false, inS := true })
     (s.spire 1).vu.phase = .switching 0 false ∧ (s.spire 1).seq.mode ≠ .stopped ∧ s.pwr.owed = [] ∧ s.pwr.owedDome = [] ∧
      (s.spire 1).seq.window = false ∧ (s.spire 1).seq.reclaim = false) ∧
    (let s := Tests.windowed 4
     s.windowNow 4 = some (0, 50000, true) ∧ s.hasPlan = true ∧ (s.spire 4).seq.window = false ∧
      (s.spire 4).seq.mode.takesWindows = true ∧ (s.spire 4).seq.reclaim = false ∧ (s.spire 4).vu.phase = .steady ∧
      (s.spire 4).vu.inS = false) ∧
    (let s := (Tests.running 4).modSeq 4 (fun q => { q with window := true })
     s.overrunDue 4 = true) ∧
    (let s := (Tests.running 4).modSeq 4 (fun q => { q with window := true })
     (s.spire 4).seq.window = true ∧ (s.spire 4).seq.windowEnd ≤ s.planTotal ∧ (s.spire 4).seq.reclaim = false ∧
      (s.spire 4).vu.inS = false ∧ (s.spire 4).vu.phase = .steady ∧ (s.spire 4).seq.mode = .running ∧
      (s.spire 4).seq.hold = none ∧ s.pwr.owed = [] ∧ s.pwr.owedDome = []) := by decide +kernel

/-- The hypotheses of SpiresLoadStartAndWipe can be met. -/
theorem witness_SpiresLoadStartAndWipe :
    (let s := (Tests.running 0).modSeq 0 (fun q => { q with mode := .idle })
     (s.spire 0).seq.mode = .idle ∧ s.commandable 0 = true) ∧
    ((Tests.running 31).spire 31).seq.mode ≠ .idle ∧
    (let s := (Tests.running 0).modSeq 0 (fun q => { q with mode := .loading })
     (s.spire 0).seq.mode = .loading ∧ (s.spire 0).seq.reclaim = false ∧ (s.spire 0).vu.inS = false ∧ (s.spire 0).seq.wipeLeft = 0 ∧
     s.job (s.spire 0).ctx.jobId = none) ∧
    (let s := Tests.loadingJob
     (s.spire 3).seq.mode = .loading ∧ (s.spire 3).seq.reclaim = false ∧ (s.spire 3).vu.inS = false ∧ (s.spire 3).seq.wipeLeft = 0 ∧
     ∃ j, s.job (s.spire 3).ctx.jobId = some j ∧ (∀ n ∈ tileRange j.first j.tiles, (s.tile n).inHbm = true) ∧
       s.runPoisoned j.first 0 (j.tiles + 1) j.image.bytes = false) ∧
    (let s := (Tests.windowed 2).modSeq 2 (fun q => { q with mode := .armed, startSet := true })
     (s.spire 2).seq.mode = .armed ∧ (s.spire 2).seq.startSet = true ∧ s.hasPlan = true ∧ (s.spire 2).seq.startAt ≤ s.planTotal) ∧
    (let s := (Tests.running 31).modSeq 31 (fun q => { q with mode := .wiping })
     (s.spire 31).seq.mode = .wiping ∧ (s.spire 31).seq.wipeLeft = 0 ∧ (s.spire 31).seq.window = false ∧
     (s.spire 31).seq.reclaim = false) := by
  refine ⟨by decide +kernel, by decide +kernel, by decide +kernel, ?_, by decide +kernel, by decide +kernel⟩
  exact ⟨by decide +kernel, by decide +kernel, by decide +kernel, by decide +kernel, Tests.job1, by decide +kernel⟩

/-- The hypotheses of SpiresStopResumeAndLeave can be met. -/
theorem witness_SpiresStopResumeAndLeave :
    (let s := Tests.running 0
     (s.spire 0).seq.mode = .running ∧ (s.spire 0).vu.inS = false ∧ (s.spire 0).vu.phase = .steady ∧
     (s.spire 0).seq.mode.abortable = true ∧ (s.spire 0).ctx.jobId = 0 ∧ s.role 0 ≠ .radioOwned ∧
     s.serves (spireOffset 0 0x20004) = true ∧ s.stopOwed 0 = false ∧ s.inService 0 = true ∧ s.pwr.owedDome.contains 0 = false) ∧
    ((State.reset.spire 31).seq.mode ∉ [SpireMode.armed, .running, .replay, .stopped]) ∧
    (State.reset.spire 31).seq.mode.abortable = false ∧
    (let s := (Tests.running 31).modSeq 31 (fun q => { q with mode := .stopped, stopPower := true })
     (s.spire 31).seq.mode = .stopped ∧ (s.spire 31).seq.stopPower = true ∧ (s.spire 31).seq.stopReclaim = false ∧
     (s.spire 31).seq.fromArmed = false ∧ (s.spire 31).seq.replay = [] ∧ (s.spire 31).seq.issues = []) ∧
    (((Tests.running 0).modSeq 0 (fun q => { q with mode := .off })).spire 0).seq.mode = .off ∧
    (let s := { Tests.borrowed.modSeq 1 (fun q => { q with window := true, mode := .running }) with pwr := { Tests.ready.pwr with owedDome := [7] } }
     s.stopOwed 1 = true ∧ (s.spire 1).seq.mode = .running ∧ s.pwr.owedDome.contains 1 = false ∧ s.pwr.owedDome.contains 7 = true ∧
     s.serves (spireOffset 1 0x20004) = true) := by decide +kernel

/-- The hypotheses of TilesLoadAndPassesStart can be met. -/
theorem witness_TilesLoadAndPassesStart :
    (let s := Tests.issuing
     ((s.spire 0).seq.dueIssue s.cyc).any (fun i => i.word.any (fun x => !x.2 &&
       (s.refusalOf 0 i.inS i.desc (decodeDesc x.1) (i.asAt.getD (s.spire 0).arr.view)).isNone)) = true) ∧
    (let s := Tests.queued 31
     (s.spire 31).arr.queued.isSome = true ∧ (s.spire 31).arr.load = none ∧ (s.spire 31).arr.allSwapped = true ∧
       (s.spire 31).arr.passes = [] ∧ (s.spire 31).arr.mayStart s.cyc = true ∧ (s.spire 31).seq.mode ≠ .replay) ∧
    (let s := Tests.inArray 0 false false
     (s.spire 0).arr.passes.getLast?.any (fun r => !r.swapped && decide (r.start + r.load ≤ s.cyc)) = true) ∧
    (let s := Tests.inArray 0 true false
     (s.spire 0).arr.passes.head?.any (fun r => decide (r.releaseAt ≤ s.cyc ∧ r.rowDone = true ∧ r.checked = r.desc.v ∧
       r.held = false ∧ r.failed = false)) = true ∧ (s.spire 0).seq.mode ≠ .replay) ∧
    (let s := Tests.inArray 31 true true
     (s.spire 31).arr.passes.head?.any (fun r => decide (r.releaseAt ≤ s.cyc ∧ r.rowDone = true ∧ r.checked = r.desc.v ∧
       r.held = false ∧ r.failed = true ∧ r.tainted = false)) = true) := by decide +kernel

/-- The hypotheses of ChecksCountAndFail can be met. -/
theorem witness_ChecksCountAndFail :
    (let s := Tests.checking false
     let within (p : Pass) (v : VecIn) (u : ArrayUpset) : Bool :=
       withinHalfUnits p.desc.wexp (checkDiff p.desc.wexp ((vecResult p v u).net p.desc false) (checkColumn p v u false)) (vecResult p v u).inexRe
     (dueVector s.cyc (s.spire 0).arr.passes).any (fun x => !x.1.tainted && decide ((vecResult x.1 x.2 .none).clamped = 0) &&
       decide (fmtGroup x.1.desc.fmtW ≠ 3) && within x.1 x.2 .none && !within x.1 x.2 (.acc 0 1)) = true) ∧
    (let s := Tests.checking true
     let within (p : Pass) (u : ArrayUpset) : Bool :=
       withinHalfUnits p.desc.wexp (checkDiff p.desc.wexp (p.totalRe + u.accDelta 0)
         (checksumRe p.desc p.plane (fun i => p.uRe.get 0 i) (fun i => p.uIm.get 0 i) + u.sideDelta false)) p.inexactRe
     (dueRow s.cyc (s.spire 0).arr.passes).any (fun p => !p.tainted && decide (p.clamped = 0) && decide (fmtGroup p.desc.fmtW ≠ 3) &&
       within p .none && !within p (.acc 0 1)) = true) ∧
    (let s := Tests.issuing
     let p := (QueuedPass.mk (Tests.pass0 0) 0 0 true 0).start 1 0 1
     let u := s.modArr 0 (fun a => { a with passes := [{ p with checked := 1 }] })
     (dueRow 100 (u.spire 0).arr.passes).any (fun p => p.tainted) = true) := by decide +kernel

/-- The hypotheses of ThreadsTouchFlagsAndStateWords can be met. -/
theorem witness_ThreadsTouchFlagsAndStateWords :
    (let s := Tests.threaded 0 0 []
     (wakeFlags 0 s).ccMay 0 0 = true ∧ (((wakeFlags 0 s).thread 0 0).reg 0).toNat = 0 ∧ (((wakeFlags 0 s).thread 0 0).reg 5).toNat = 15 ∧
     (s.spire 0).cc.paths = [] ∧ (s.spire 0).vu.inS = false) ∧
    (let s := Tests.threaded 31 7 [⟨7, false, 44, 0, 5, 0, some 0⟩]
     (s.spire 31).cc.paths = [⟨7, false, 44, 0, 5, 0, some 0⟩] ∧ 0 ≤ s.cyc) ∧
    (let s := Tests.threaded 31 7 [⟨7, true, 44, 1, 0, 0, some 0⟩]
     (s.spire 31).cc.paths = [⟨7, true, 44, 1, 0, 0, some 0⟩] ∧ 44 < 45) ∧
    (let s := (Tests.threaded 31 7 []).modThread 31 7 (fun x => { x with mode := .waiting, wait := .store 5 0 stConflict })
     (s.thread 31 7).wait = .store 5 0 stConflict ∧ s.rm.reqs = []) := by decide +kernel

/-- The hypotheses of ThreadsRunRiscVAndReachFarMemory can be met. -/
theorem witness_ThreadsRunRiscVAndReachFarMemory :
    let s := Tests.coded
    let w := wakeFlags 0 s
    w.ccMay 0 0 = true ∧ (w.thread 0 0).pc.toNat = 0 ∧ w.ownsRange 0 false 0 4 = true ∧ w.bankBusy 0 0 = false ∧
    (w.spire 0).isPending 0 4 = false ∧ (w.spire 0).store.poisonedAt 0 = false ∧
    rvDecode ((w.spire 0).store.readLE 0 4) (w.thread 0 0).reg 0 = .reg 6 15 ∧
    (let w := wakeFlags 0 (Tests.codedAt 4)
     rvDecode ((w.spire 0).store.readLE 4 4) (w.thread 0 0).reg 4 = .jump 0 0) ∧
    (let w := wakeFlags 0 (Tests.codedAt 8)
     rvDecode ((w.spire 0).store.readLE 8 4) (w.thread 0 0).reg 8 = .branch true 4) ∧
    (let w := wakeFlags 0 (Tests.codedAt 12)
     rvDecode ((w.spire 0).store.readLE 12 4) (w.thread 0 0).reg 12 = .load 7 0 4 true ∧ w.localFault 0 0 4 = none ∧
       w.bankBusy 0 0 = false ∧ (w.spire 0).isPending 0 4 = false ∧ (w.spire 0).store.poisonedAt 0 = false) ∧
    (let w := wakeFlags 0 (Tests.codedAt 16)
     rvDecode ((w.spire 0).store.readLE 16 4) (w.thread 0 0).reg 16 = .store 8 4 15 ∧ w.localFault 0 8 4 = none ∧
       w.bankBusy 0 8 = false ∧ (w.spire 0).isProtected w.cyc 8 4 = false) ∧
    pairOk 30 = true ∧ (w.rmRefusal 0 0 1).isSome = true ∧ (let u := { w with dome := { w.dome with chipId := 0 } }
     (u.rmRefusal 0 15 0).isNone = true ∧ (u.rmRefusal 0 3 8).isNone = true) := by decide +kernel

/-- The hypotheses of TransfersAcceptMoveAndEnd can be met. -/
theorem witness_TransfersAcceptMoveAndEnd :
    (let r : XfReq := ⟨true, 0, 0, 0, some 0, false, 0, false⟩
     let s := (Tests.running 0).modXb 0 (fun x => { x with requests := [r] })
     let s := { s with clock := { s.clock with edges := 64 } }
     (s.spire 0).xb.requests = [r] ∧ r.at_ + 64 ≤ s.cyc ∧ s.xferRefusal 0 r (decodeXferDesc 0) = some stBadArg) ∧
    (let s := Tests.moving
     (s.spire 0).xb.requests.head?.any (fun r => r.desc.isSome && decide (r.at_ + 64 ≤ s.cyc) &&
       (s.xferRefusal 0 r (decodeXferDesc (r.desc.getD 0))).isNone) = true ∧
     ((s.spire 0).xb.puts.find? (fun b => b.stream == 1 && decide (b.due ≤ s.cyc))).isSome = true ∧
     (s.spire 0).xb.puts.find? (fun b => b.stream == 2 && decide (b.due ≤ s.cyc)) = none ∧
     ((s.spire 0).xb.streams.get Stream.reset 2).turn.any (fun x => x.isGet && decide (x.from_ ≤ s.cyc) &&
       s.ownsSlot 0 2 x.stack false 0 && !(s.spire 0).xb.gotBeat 2 (s.cyc + getLag 0 x.stack)) = true ∧
     ((s.spire 0).xb.streams.get Stream.reset 3).active.any (fun x => decide (x.next = x.beats ∧ 0 < x.lastAt ∧ x.lastAt ≤ s.cyc)) = true) := by
  decide +kernel

/-- The hypotheses of ControllersServeRefreshAndWipe can be met. -/
theorem witness_ControllersServeRefreshAndWipe :
    (let s := Tests.serving [⟨.hostRead 1 0x140000 64, none, 0, false⟩]
     s.domainOn 16 = true ∧ (s.stack 0).trained = true ∧ s.openSlotNow 0 = true ∧ (s.stack 0).wipeQueue = [] ∧ (s.stack 0).waiting = [] ∧
     s.rel.towerOut.getLsbD 0 = false ∧ (s.stack 0).bootWiping = false ∧ s.tier.moves = [] ∧
     (∀ r ∈ (s.stack 0).queue, s.blocked r = false) ∧ s.hostReaches (0x140000 / tileBytes) = true ∧
     s.hostReaches 6 = false) ∧
    (let s := Tests.serving []
     let u := { s with clock := { s.clock with edges := 0 } }
     (u.stack 23).trained = false ∧ u.clk.done = true ∧ u.rel.towerOut.getLsbD 3 = false ∧
     (u.stack 0).trained = true ∧ u.refreshFrame 0 = true ∧ (u.stack 0).queue = []) ∧
    ((Tests.serving [⟨.wipe 7 255, none, 0, true⟩]).stack 0).wipeQueue = [] := by decide +kernel

/-- The hypotheses of TileCommandsChangeTheMap can be met. -/
theorem witness_TileCommandsChangeTheMap :
    (let s := Tests.serving []
     let host : Issuer := .ring 0 0 0
     [1, 2, 4, 5, 6, 7, 8].all (fun op => s.accepts op host) = true ∧ s.accepts 1 .dome = true ∧
     (s.begun 1 host).tier.ready = true ∧ rangeOk 0 1 65536 = true ∧ (s.begun 1 host).mayName host 0 = true ∧
     ((s.begun 1 host).tile 0).state = .free ∧ (s.begun 1 host).hbmOver 0 1 = false ∧ 1 ≤ (s.begun 1 host).freePlaces 0 ∧
     (s.begun 1 host).lowest 0 1 = [0] ∧ rangeOk 16777215 1 65536 = true ∧
     (let u := { s with flash := { s.flash with ready := true, present := true, found := { s.flash.found with pages := 2, blocks := 1 } } }
      (u.begun 1 host).flash.ready = true ∧ (u.begun 1 host).flashOver 0 1 = false ∧ (u.begun 1 host).flashFull 1 = false) ∧
     ((s.begun 5 host).tile 5).state = .ready ∧ ((s.begun 5 host).tile 5).pin ≠ 0 ∧ ((s.begun 4 host).tile 5).pin ≠ 127 ∧
     (let u := s.modTile 5 (fun e => { e with pin := 0 })
      (u.begun 2 host).loose 5 = true ∧ (u.begun 2 host).sealed 5 = false ∧ (u.begun 7 host).hbmOver 0 1 = false) ∧
     (s.begun 6 .dome).mayName .dome 5 = true ∧ s.accepts 6 .dome = true ∧
     leaveCheck (s.begun 8 host) 0 [5] = none ∧ joinCheck (s.begun 8 host) 0 [5] [⟨5, 1, 0⟩] 0 Tab.empty = none ∧
     Tests.ready.accepts 1 host = true ∧ (Tests.ready.begun 1 host).tier.ready = false) := by decide +kernel

/-- The hypotheses of MovesRunTileByTile can be met. -/
theorem witness_MovesRunTileByTile :
    (let s := (Tests.serving []).modTile 5 (fun e => { e with pin := 0 })
     let u := (s.modStack 23 (fun x => { x with trained := true, bootWiped := true }))
     let a : MoveArgs := ⟨5, 1, 1, 23, false, false⟩
     u.accepts 3 (.ring 0 0 9) = true ∧ (u.begun 3 (.ring 0 0 9)).moveRefusal (.ring 0 0 9) a = none ∧
     (let m : MoveJob := ⟨.ring 0 0 9, 5, 1, true, 23, false, false, [0], 0, 0, 0⟩
      let v := u.modTile 5 (fun e => { e with state := .moving })
      let v := { v with tier := { v.tier with moves := [m], copies := v.tier.copies.set TileCopy.none 5 { TileCopy.none with read := 256, written := 256 } } }
      v.tier.moves.find? (fun m => v.commitReady m) = some m ∧ (v.tile 5).state ≠ .lost ∧ (v.tile 5).tier = .hbm ∧
      (v.copyOf 5).bad = false ∧ (v.tile 5).stack.toNat ≠ 23 ∧
      (let w := v.modCopy 5 (fun c => { c with bad := true })
       w.tier.moves.find? (fun m => w.commitReady m) = some m ∧ (w.copyOf 5).bad = true) ∧
      (let w := v.modTile 5 (fun e => { e with tier := .flash })
       let w := { w with flash := { w.flash with ready := true } }
       w.tier.moves.find? (fun m => w.commitReady m) = some m ∧ (w.tile 5).tier = .flash) ∧
      (let w := v.modTile 5 (fun e => { e with state := .lost })
       w.tier.moves.find? (fun m => w.commitReady m) = some m)) ∧
     (let m : MoveJob := ⟨.ring 0 0 9, 5, 1, false, 0, false, true, [], 0, 0, 0⟩
      let v := u.modTile 5 (fun e => { e with state := .moving })
      let v := { v with tier := { v.tier with moves := [m] } }
      v.tier.moves.find? (fun m => v.commitReady m) = some m)) := by decide +kernel

/-- The hypotheses of FlashKeepsItsCopies can be met. -/
theorem witness_FlashKeepsItsCopies :
    (let s := Tests.flashed 0
     s.flash.ready = true ∧ (s.tile 9).tier = .flash ∧ (s.tile 9).state = .ready ∧ s.flash.retry.get 0 144 < 8 ∧
     8 ≤ (Tests.flashed 8).flash.retry.get 0 144 ∧ s.pwr.deepTarget = none ∧ s.clk.done = true) ∧
    (let s := Tests.flashed 0
     let f := { s.flash with found := ⟨1, 4, 8, []⟩, inflight := [9], blocks := s.flash.blocks.set FlashBlock.reset 0 ⟨0, 9, false, 1⟩ }
     let s := { s with flash := f, pwr := { s.pwr with domains := BitVec.allOnes 30 }, dome := { s.dome with cfg := { s.dome.cfg with readLimit := 5 } } }
     s.flash.inflight.contains 9 = true ∧ (s.flash.keepStripe 9 (s.tile 9)).isSome = true ∧ (s.flash.open_ 3).2 = some (blockNo 3 0) ∧
     s.flash.noProgram = false ∧ s.domainOn 26 = true ∧ s.flash.usable 0 = true ∧
     s.flash.mustRelocate s.dome.cfg.wearSpread s.dome.cfg.readLimit 0 = true ∧
     s.flash.filling.get 0 (blockChannel 0) ≠ 0 + 1 ∧ (s.flash.movePages 0 (s.flash.tilesIn 0)).isSome = true ∧ s.flash.usable 7 = false ∧
     (let w : State := s.modTile 9 (fun e => { e with state := .moving })
      let w : State := { w with tier := { w.tier with moves := [⟨.ring 0 0 9, 9, 1, true, 23, false, false, [0], 0, 0, 0⟩] } }
      (decide ((w.tile 9).state = TileState.moving) && w.tier.moves.any (fun (m : MoveJob) => w.copying m = some (9 : Nat))) = true)) ∧
    (Tests.booted.tier.ready = false ∧ Tests.booted.clk.done = true ∧ Tests.booted.tier.rebuilding = false) ∧
    (let s := { Tests.ready with pins := { Tests.ready.pins with failAt := some 0 }, clock := { Tests.ready.clock with tick := 170000000 } }
     s.pins.failAt = some 0 ∧ 0 + 170000000 ≤ s.clock.tick ∧ s.pins.resetHeld = false) := by decide +kernel

/-- The hypotheses of RadioCellsFollowTheirCommands can be met. -/
theorem witness_RadioCellsFollowTheirCommands :
    (let s := Tests.celled .configured
     let host : Issuer := .ring 0 0 0
     [0x40, 0x41, 0x42, 0x43].all (fun op => s.accepts op host) = true ∧ (s.begun 0x40 host).blockOk 0 { RadioCell.reset with block := Tests.cellBlock } = true ∧
     field Tests.cellBlock.toNat 8 0 = 0 ∧ ((s.begun 0x40 host).cellSlot 0).any (fun d => (s.begun 0x40 host).shapeOk { RadioCell.reset with block := Tests.cellBlock } d) = true ∧
     (∀ t ∈ ({ RadioCell.reset with block := Tests.cellBlock } : RadioCell).ringTiles, ((s.begun 0x40 host).tile t).inHbm = true ∧ ((s.begun 0x40 host).tile t).pin ≠ 0) ∧
     ((s.begun 0x41 host).groupOf 0).startsAt (nsUnits gpsEpochNs) = some slotBase ∧
     (s.begun 0x41 host).now + nsUnits (((s.begun 0x41 host).groupOf 0).reqLead.toNat * 1000 + 1000000) ≤ nsUnits gpsEpochNs ∧
     ((s.begun 0x41 host).cell 0).state = .configured ∧ (s.begun 0x41 host).clk.chipState = .ready ∧ (s.begun 0x41 host).time.servo = 3 ∧
     (s.begun 0x41 host).clk.mode = false ∧ (s.begun 0x41 host).clk.modeStaged = false ∧ (s.begun 0x41 host).oddPeriods = false) ∧
    ((Tests.celled .starting).cell 0).state = .starting ∧ ((Tests.celled .starting).cell 0).startAt ≤ (Tests.celled .starting).now ∧
    ((Tests.celled .active).cell 0).state = .active ∧
    (let s := (Tests.celled .active).modCell 0 (fun x => { x with stopAt := some 0 })
     (s.cell 0).stopAt = some 0 ∧ 0 ≤ s.now) ∧
    (let s := Tests.ready
     s.accepts 0x40 .dome = true ∧ (s.begun 0x40 .dome).blockOk 0 { RadioCell.reset with block := Tests.cellBlock } = true ∧
     (s.begun 0x40 .dome).cellSlot 0 = none ∧ (s.cell 383).state ≠ .configured) := by decide +kernel

/-- The hypotheses of RadioRecordsEnginesAndFaults can be met. -/
theorem witness_RadioRecordsEnginesAndFaults :
    (let s := Tests.recorded 0
     (s.cell 0).live = true ∧ (s.cell 0).serves 0 = true ∧ (s.groupOf 0).slotStart 0 ≤ s.nowExact + nsExact ((s.groupOf 0).reqLead.toNat * 1000) ∧
     (s.cell 0).state = .active ∧ (s.groupOf 0).slotStart 0 ≤ s.nowExact ∧ (s.cell 0).nextRead = 0 ∧ (s.cell 0).nextUl = 0 ∧
     s.tilePoisoned ((s.cell 0).recordTile (s.cell 0).dlRing 0) 0 64 = false) ∧
    ((Tests.recorded 1).tilePoisoned (((Tests.recorded 1).cell 0).recordTile ((Tests.recorded 1).cell 0).dlRing 0) 0 64 = true) ∧
    (let s := (Tests.recorded 0).modCell 0 (fun x => { x with streams := x.streams.set StreamGain.reset 64 ⟨8, [], none, [(0, 1000, 12)]⟩ })
     ((s.cell 0).streams.get StreamGain.reset 64).sums = [(0, 1000, 12)] ∧ ((s.cell 0).streams.get StreamGain.reset 64).frozen = none ∧
     (s.groupOf 0).symbolStart 0 0 + nsExact ((s.groupOf 0).ulLatest.toNat * 100) ≤ s.nowExact) ∧
    (let s := Tests.celled .active
     s.enginePlan[0]? = some (100 * 2 ^ 20) ∧ engineOf (field (100 * 2 ^ 20) 63 60) = some .fft ∧ s.hasPlan = true ∧
     field (100 * 2 ^ 20) 54 36 ≤ s.clock.plan / 2 ∧ s.clock.plan / 2 < field (100 * 2 ^ 20) 54 36 + field (100 * 2 ^ 20) 35 20 ∧ s.radio.runs = []) ∧
    (Tests.ready.cellsUsing .engine = [] ∧ Tests.ready.radio.serves .fft 15 = true ∧ (let s := Tests.ready.modRadio (fun x => { x with runs := [⟨.correlator, 0, 3, some .correlate, 0⟩] })
      s.radio.runs = [⟨.correlator, 0, 3, some .correlate, 0⟩] ∧ 0 ≤ s.bclk ∧ ([⟨64, 900, 0, 0⟩] : List PrachPeak).length ≤ 64) ∧
     (let s := Tests.ready.modRadio (fun x => { x with runs := [⟨.ldpcEnc, 0, 3, some (.ldpcEnc 512), 0⟩] })
      s.radio.runs = [⟨.ldpcEnc, 0, 3, some (.ldpcEnc 512), 0⟩] ∧ 0 ≤ s.bclk) ∧
     (let s := Tests.ready.modLane 63 (fun l => { l with regs := { l.regs with state := .up } }); (s.lane 63).regs.state = .up)) := by
  decide +kernel

/-- The hypotheses of LanesTrainAndGoOut can be met. -/
theorem witness_LanesTrainAndGoOut :
    (let s := Tests.laned 3 .training 0
     (s.lane 3).regs.state = .training ∧ s.clock.tick ≤ (s.lane 3).since + trainMax) ∧
    (let s := Tests.laned 3 .aligning 0
     (s.lane 3).regs.state = .aligning ∧ s.clock.tick ≤ (s.lane 3).since + alignMax) ∧
    (let s := Tests.laned 3 .up 0
     (s.lane 3).regs.state.carries = true ∧ s.serves 0x103004 = true ∧ s.laneUsed 3 = true ∧ s.laneUsed 4 = false ∧ s.image.isSome = true ∧ s.missedStep 3 = some 4) ∧
    (let s := Tests.laned 3 .training 85000001
     (s.lane 3).since + trainMax < s.clock.tick) ∧
    (let s := Tests.laned 3 .aligning 85017001
     (s.lane 3).since + alignMax < s.clock.tick) ∧
    (let s := Tests.laned 3 .verifying 85020401
     (s.lane 3).since + verifyMax < s.clock.tick ∧ s.dome.chipId ≠ 0xFFFF) ∧
    (let s := Tests.laned 3 .down 1700000
     s.lanesRun = true ∧ s.domainOn (20 + 3 / 32) = true ∧ (s.lane 3).since + downTicks ≤ s.clock.tick) := by
  decide +kernel

/-- The hypotheses of FramesGoOutAndComeIn can be met. -/
theorem witness_FramesGoOutAndComeIn :
    (let s := (Tests.laned 3 .aligning 0).modFab (fun f => { f with active := none })
     s.lanesRun = true ∧ (s.lane 3).txNext ≤ stepCount s.now ∧ s.image = none ∧ s.dome.chipId ≠ 0xFFFF) ∧
    (let s := Tests.atStep 5 (Tests.laned 3 .up 0)
     s.lanesRun = true ∧ (s.lane 3).txNext ≤ stepCount s.now ∧ stepCount s.now = 5 ∧ (s.lane 3).regs.state.carries = true ∧ s.planOpen = true ∧
     s.rel.fatal = false ∧ s.entry 3 false 5 = some (5 * 2 ^ 51 + 3 * 2 ^ 44 + 3 * 2 ^ 40) ∧ s.oldTransit 3 5 = none ∧ s.stepImage.isSome = true) ∧
    (let s := Tests.atStep 6 (Tests.laned 3 .up 0)
     let r := 6 * 2 ^ 51 + 3 * 2 ^ 44 + 2 * 2 ^ 40 + 2 * 2 ^ 18 + 1 * 2 ^ 5
     stepCount s.now = 6 ∧ s.entry 3 false 6 = some r ∧ s.oldTransit 3 6 = none ∧ s.image.isSome = true ∧
     (s.fab.held.find? (fun h => !h.oldSet && h.lane == field r 23 18 && h.step == field r 17 5 && decide (h.readyAt ≤ stepTime 6))).any
       (fun h => h.cell.hops + 1 ≤ 15 ∧ h.cell.type ≠ 3) = true) ∧
    ((readMarker (Tests.marker 8)).ok = true ∧ (readMarker (Tests.marker 8)).locked = false ∧ (readMarker 0).ok = false) ∧
    (let s := Tests.laned 3 .verifying 0
     let c := { identCell 9 3 with step := 8 }
     (s.lane 3).regs.state.listens = true ∧ (match readCell c.bytes with
       | .cell d ok => decide (d.type = 8 ∧ d.step = ((s.lane 3).frameStep (readMarker (Tests.marker 8))).1 ∧
         d.period.toNat % 65536 = ((s.lane 3).frameStep (readMarker (Tests.marker 8))).2 ∧ ok = true ∧ (d.src, d.infoBytes 24 1 % 64) = s.partner 3)
       | _ => false) = true ∧ s.partner 3 ≠ (5, 3)) := by
  decide +kernel

theorem readHead_append (b r : List Byte) (h2 : field (leValue (b.take 64)) 159 128 = b.length) (h3 : 0xC0 ≤ b.length) :
    readHead (b ++ r) = readHead b := by
  have t1 : (b ++ r).take 64 = b.take 64 := List.take_append_of_le_length (by omega)
  have t2 : (b ++ r).take b.length = b.take b.length := List.take_append_of_le_length (Nat.le_refl _)
  have t3 : ∀ f ∈ List.range 8, ((b ++ r).drop (0x40 + 16 * f)).take 16 = (b.drop (0x40 + 16 * f)).take 16 := by
    intro f hf
    have hf := List.mem_range.mp hf
    rw [List.drop_append_of_le_length (by omega), List.take_append_of_le_length (by rw [List.length_drop]; omega)]
  have t4 : (List.range 8).map (fun f => leValue (((b ++ r).drop (0x40 + 16 * f)).take 16)) =
      (List.range 8).map (fun f => leValue ((b.drop (0x40 + 16 * f)).take 16)) := by
    apply List.map_congr_left; intro f hf; rw [t3 f hf]
  have t5 : ∀ P Q : Prop, ∀ [Decidable P], ∀ [Decidable Q], decide (P ∧ Q ∧ b.length ≤ (b ++ r).length) = decide (P ∧ Q ∧ b.length ≤ b.length) := by
    intro P Q _ _; simp
  unfold readHead
  dsimp only
  rw [t1, h2, t2, t4, t5]

set_option maxRecDepth 20000 in
theorem imageBytes_facts : Tests.imageBytes.length = 2072 ∧
    field (leValue (Tests.imageBytes.take 64)) 159 128 = Tests.imageBytes.length := by decide +kernel

set_option maxRecDepth 20000 in
theorem imageBytes_sound : (readHead Tests.imageBytes).sound 5 Tests.ready.dome.cfg = true ∧
    (readHead Tests.imageBytes).bytes = 2072 ∧ (readHead Tests.imageBytes).sound 4 Tests.ready.dome.cfg = false := by
  decide +kernel

theorem imaged_read (c a : Nat) (l : List Byte) (h : l.length = 2072) :
    ∃ r, ((Tests.imaged c a l).begun 0x30 .dome).runRead 5 0 2 tileBytes = l ++ r := by
  have e1 : ∀ s : State, s.runRead 5 0 2 tileBytes = s.tileRead 5 0 tileBytes ++ [] := fun s => rfl
  have hb : (Tests.imaged c a l).begun 0x30 .dome = Tests.imaged c a l := rfl
  have ht : (Tests.imaged c a l).tile 5 = ⟨.hbm, .ready, false, false, 0, 1, 0, 7⟩ := rfl
  have hs : (Tests.imaged c a l).stack 0 = { Tests.ready.stack 0 with mem := (Tests.ready.stack 0).mem.writeBytes (7 * tileBytes) l } := by
    show ((Tests.ready.setTile 5 ⟨.hbm, .ready, false, false, 0, 1, 0, 7⟩).hbm.modify HbmStack.reset 0 _).get HbmStack.reset 0 = _
    rw [Tab.get_modify_same]; rfl
  have e2 : ((Tests.imaged c a l).begun 0x30 .dome).tileRead 5 0 tileBytes =
      (((Tests.ready.stack 0).mem.writeBytes (7 * tileBytes) l)).readBytes (7 * tileBytes) (2072 + 260072) := by
    rw [hb]
    unfold State.tileRead
    rw [ht]
    dsimp only
    rw [show (0 : BitVec 5).toNat = 0 from rfl, hs]
    rfl
  have e3 : ∀ (m : Mem) a n k, m.readBytes a (n + k) = m.readBytes a n ++ m.readBytes (a + n) k := by
    intro m a n k
    apply List.ext_getElem
    · simp [Mem.readBytes_length]
    · intro i h1 h2
      rw [Mem.readBytes_get]
      rw [List.getElem_append]
      split
      · rw [Mem.readBytes_get]
      · rename_i hi
        rw [Mem.readBytes_length] at hi
        rw [Mem.readBytes_get, Mem.readBytes_length]
        congr 1
        omega
  rw [e1, e2, e3]
  have e4 : ∀ m : Mem, (m.writeBytes (7 * tileBytes) l).readBytes (7 * tileBytes) 2072 = l := by
    intro m; have := Mem.readBytes_writeBytes m (7 * tileBytes) l; rwa [h] at this
  rw [e4, List.append_assoc]
  exact ⟨_, rfl⟩

theorem imaged_poison (c a : Nat) (l : List Byte) (n : Nat) : ((Tests.imaged c a l).begun 0x30 .dome).runPoisoned 5 0 2 (min tileBytes n) = false := by
  have hb : (Tests.imaged c a l).begun 0x30 .dome = Tests.imaged c a l := rfl
  have hs : (Tests.imaged c a l).stack 0 = { Tests.ready.stack 0 with mem := (Tests.ready.stack 0).mem.writeBytes (7 * tileBytes) l } := by
    show ((Tests.ready.setTile 5 ⟨.hbm, .ready, false, false, 0, 1, 0, 7⟩).hbm.modify HbmStack.reset 0 _).get HbmStack.reset 0 = _
    rw [Tab.get_modify_same]; rfl
  have hp : ∀ (l : List Byte) (m : Mem) a, (m.writeBytes a l).poison = m.poison := by
    intro l
    induction l with
    | nil => intro m a; rfl
    | cons x l ih => intro m a; show ((m.write8 a x).writeBytes (a + 1) l).poison = _; rw [ih]; unfold Mem.write8; split <;> rfl
  have ht : ∀ len, (Tests.imaged c a l).tilePoisoned 5 0 len = false := by
    intro len
    have h0 : ((Tests.imaged c a l).stack ((Tests.imaged c a l).tile 5).stack.toNat).mem.poison = [] := by
      show ((Tests.imaged c a l).stack 0).mem.poison = []
      rw [hs, hp]; rfl
    unfold State.tilePoisoned Mem.poisonedIn
    dsimp only
    rw [h0]; simp
  rw [hb]
  unfold State.runPoisoned
  split
  · rfl
  · dsimp only
    rw [show (0 : Nat) % tileBytes = 0 from rfl, show 5 + 0 / tileBytes = 5 from rfl, ht]
    unfold State.runPoisoned
    split
    · rfl
    · rename_i h; exact absurd (by omega) h

/-- The hypotheses of PavaneCommandsAndTheDrainPeriod can be met. -/
theorem witness_PavaneCommandsAndTheDrainPeriod :
    (let s := Tests.imaged 5 0 Tests.imageBytes
     let u := s.begun 0x30 .dome
     s.accepts 0x30 .dome = true ∧ rangeOk 5 1 64 = true ∧ u.slotFree true = true ∧ (∀ n ∈ tileRange 5 1, (u.tile n).lease = 0 ∧
       (u.tile n).radio = false ∧ (u.tile n).inHbm = true ∧ (u.tile n).pin ≠ 0) ∧
     (∀ n, u.runPoisoned 5 0 (1 + 1) (min (1 * tileBytes) n) = false) ∧
     (readHead (u.runRead 5 0 (1 + 1) (1 * tileBytes))).sound u.chipId u.dome.cfg = true ∧
     (readHead (u.runRead 5 0 (1 + 1) (1 * tileBytes))).bytes + u.fab.slotBytes (!true) ≤ imageMax) ∧
    (let s := Tests.imaged 4 0 Tests.imageBytes
     (readHead ((s.begun 0x30 .dome).runRead 5 0 (1 + 1) (1 * tileBytes))).sound s.chipId s.dome.cfg = false) ∧
    (let s := Tests.imaged 5 imageMax Tests.imageBytes
     imageMax < (readHead ((s.begun 0x30 .dome).runRead 5 0 (1 + 1) (1 * tileBytes))).bytes + s.fab.slotBytes (!true)) ∧
    ((Tests.laned 3 .up 0).slotFree false = false) := by
  have e : ∀ c a, readHead (((Tests.imaged c a Tests.imageBytes).begun 0x30 .dome).runRead 5 0 (1 + 1) (1 * tileBytes)) = readHead Tests.imageBytes := by
    intro c a
    obtain ⟨r, hr⟩ := imaged_read c a Tests.imageBytes imageBytes_facts.1
    rw [show (1 + 1 : Nat) = 2 from rfl, show 1 * tileBytes = tileBytes from rfl, hr]
    exact readHead_append _ _ imageBytes_facts.2 (by rw [imageBytes_facts.1]; decide)
  refine ⟨⟨rfl, rfl, rfl, ?_, ?_, ?_, ?_⟩, ?_, ?_, rfl⟩
  · intro n hn
    have : n = 5 := by simpa [tileRange] using hn
    subst this
    exact ⟨rfl, rfl, rfl, by decide +kernel⟩
  · intro n; exact imaged_poison 5 0 _ _
  · rw [e]; exact imageBytes_sound.1
  · rw [e, imageBytes_sound.2.1]; decide +kernel
  · dsimp only; rw [e]; exact imageBytes_sound.2.2
  · dsimp only; rw [e, imageBytes_sound.2.1]; decide +kernel

theorem witness_PavaneCommandsAndTheDrainPeriod_2 :
    (let s := Tests.activable
     s.accepts 0x31 .dome = true ∧ (s.begun 0x31 .dome).fab.slot true ≠ none ∧ 4 * periodUnits % periodUnits = 0 ∧
     s.now + nsUnits 1000000 ≤ 4 * periodUnits ∧ s.fab.activation = none ∧
     ((s.begun 0x31 .dome).fab.slot true).any (fun p => p.stepSet 0 ≠ none ∧ (s.begun 0x31 .dome).mayActivate p 0 = true) = true ∧
     s.accepts 0x32 .dome = true ∧ s.fab.switch = none ∧ s.fab.drain = none ∧
     ((s.begun 0x32 .dome).image).any (fun p => p.stepSet 0 ≠ none ∧ (s.begun 0x32 .dome).towersAllow p = true ∧
       (s.begun 0x32 .dome).cellsAllow p 0 = true ∧ (s.begun 0x32 .dome).testAllows p [0] = true) = true ∧
     s.accepts 0x33 .dome = true) ∧
    ((Tests.ready.begun 0x31 .dome).fab.slot true = none ∧ (Tests.ready.begun 0x32 .dome).image = none) ∧
    (let s := (Tests.imaged 5 0 []).modFab (fun f => { f with load := [⟨true, Tests.stepImage, .dome⟩] })
     s.slotFree true = true ∧ Tests.stepImage.bytes + s.fab.slotBytes (!true) ≤ imageMax) ∧
    (let s := (Tests.atStep 8000 (Tests.laned 3 .up 0)).modFab (fun f => { f with drain := some (0, 0) })
     let r : RmRequest := ⟨1, false, 0, 2, 3, 0, 0, 0, 0, 0, 0, .thread 0 0 5, 9, some 0, 0, 0, none, false, false⟩
     0 < s.now / periodUnits ∧ r.open_ = true ∧ r.dst ≠ s.chipId) := by
  decide +kernel

/-- The hypotheses of BestEffortCellsAreSentAndScheduled can be met. -/
theorem witness_BestEffortCellsAreSentAndScheduled :
    (let s := Tests.trafficked
     let a : BeArgs := ⟨9, 0, 2, 0, 100, 0, []⟩
     s.accepts 0x10 (.ring 0 0 0) = true ∧ (s.begun 0x10 (.ring 0 0 0)).beRoute 9 = some 3 ∧ (s.begun 0x10 (.ring 0 0 0)).beRoute 8 = none ∧ a.dstChip ≠ (s.begun 0x10 (.ring 0 0 0)).chipId ∧
     (s.begun 0x10 (.ring 0 0 0)).admits 3 2 0 = true ∧ (s.begun 0x10 (.ring 0 0 0)).admits 3 5 0 = false) ∧
    (let s := Tests.trafficked
     s.accepts 0x10 (.ring 1 0 0) = true ∧ (Issuer.ring 1 0 0).isLease = true ∧ (s.meter 1).qmask.getLsbD 2 = true ∧ (s.meter 1).qmask.getLsbD 3 = false ∧
     ((s.meter 1).colour ((64 + 100) * 256) false).1 = .red) ∧
    (let s := tokenRefill Tests.trafficked
     s.be.transit = [] ∧ s.wokenNow 3 = [] ∧ s.decisionStep 3 = some 9 ∧ s.decisionStep 4 = none ∧ (s.beQueue 3 1).cells.length = 1 ∧ (s.beQueue 3 1).eligible s.now = true ∧
     (∀ p, p < 8 → (s.beQueue 3 p).eligible s.now = true → vAfter (s.beQueue 3 p).finish (s.beQueue 3 1).finish = true ∨
       ((s.beQueue 3 p).finish = (s.beQueue 3 1).finish ∧ 1 ≤ p))) ∧
    ((Tests.atStep 16 Tests.trafficked).be.lastRefill < (Tests.atStep 16 Tests.trafficked).now / nsUnits 1000) := by
  decide +kernel

/-- The hypotheses of RemoteRequestsAreIssuedAndEnd can be met. -/
theorem witness_RemoteRequestsAreIssuedAndEnd :
    (let s := Tests.remote 0 []
     let a : DWord := 0x0009000000000008
     s.accepts 0x11 (.ring 0 0 1) = true ∧ (s.begun 0x11 (.ring 0 0 1)).rmRefusal 0 3 a = none ∧
     (s.begun 0x11 (.ring 0 0 1)).rmVia a ≠ (s.begun 0x11 (.ring 0 0 1)).chipId ∧
     (s.begun 0x11 (.ring 0 0 1)).freeTag 256 = some 0 ∧ (s.begun 0x11 (.ring 0 0 1)).rmRefusal 0 3 (a + 1) = some stBadArg ∧
     s.accepts 0x12 (.ring 0 0 1) = true) ∧
    (let r := Tests.rq 1 (some 0) none false
     let s := Tests.remote 16001 [r]
     s.rm.reqs.find? (fun r => r.ctx == 256 && r.tag == 2 && r.open_) = some r ∧ r.tries < 3 ∧ 0 + nsUnits ((r.tries + 1) * 1000000) ≤ s.now ∧
     r.dst ≠ s.chipId ∧ s.now < 0 + nsUnits 6000000 ∧
     (s.rm.reqs.filter (fun r => r.ctx == 256 && opWrites r.op && r.reply.isNone)) = [r] ∧ r.dst = addrChip r.addr) ∧
    (let r := Tests.rq 1 (some 0) none false
     let s := Tests.remote 96000 [r]
     s.rm.reqs.find? (fun r => r.ctx == 256 && r.tag == 2 && r.open_) = some r ∧ 0 + nsUnits 6000000 ≤ s.now ∧ r.op ≠ 16) ∧
    (let r := Tests.rq 1 (some 0) (some (0, 0)) true
     let s := Tests.remote 24000 [r]
     s.rm.reqs.find? (fun r => r.ctx == 256 && r.tag == 2 && r.ackDue) = some r ∧ r.lastTx + nsUnits 1500000 ≤ s.now ∧ r.dst ≠ s.chipId) := by
  decide +kernel

/-- The hypotheses of TargetsAndGatewaysServe can be met. -/
theorem witness_TargetsAndGatewaysServe :
    (let r := Tests.record1 0 0x0005000000140008
     let s := Tests.targeted false 0 [r]
     s.nextRecord s.rm.inbox [] = some r ∧ s.addrDomain r.addr = some 16 ∧ s.domainOn 16 = false) ∧
    (let r := Tests.record1 0 0x000500000014000C
     let s := Tests.targeted true 0 [r]
     s.nextRecord s.rm.inbox [] = some r ∧ s.addrDomain r.addr = some 16 ∧ s.domainOn 16 = true ∧ s.rm.match_ r = .none_ ∧ r.src ≠ s.chipId ∧
     ({ s with rm := { s.rm with inbox := s.rm.inbox.erase r } } : State).targetRefusal r = none ∧ r.kind = 1 ∧ r.ctx < 8192 ∧ (s.rmMem r.addr).1.poisonedAt (s.rmMem r.addr).2 = false ∧ opWrites r.op = false) ∧
    (let r := { Tests.record1 3 0x0005000000140008 with lease := 4 }
     let s := Tests.targeted true 0 [r]
     s.nextRecord s.rm.inbox [] = some r ∧ s.addrDomain r.addr = some 16 ∧ s.domainOn 16 = true ∧ s.rm.match_ r = .none_ ∧ r.src ≠ s.chipId ∧
     ({ s with rm := { s.rm with inbox := s.rm.inbox.erase r } } : State).targetRefusal r = some stBadArg) ∧
    (let r := Tests.record1 0 0x0005000000140008
     let s := Tests.targeted true 2 [r]
     s.nextRecord s.rm.inbox [] = some r ∧ ({ s with rm := { s.rm with inbox := s.rm.inbox.erase r } } : State).targetRefusal r = none ∧ (s.rmMem r.addr).1.poisonedAt (s.rmMem r.addr).2 = true) ∧
    (let r := Tests.record1 5 0x0005000000140008
     let s := Tests.targeted true 0 [r]
     s.nextRecord s.rm.inbox [] = some r ∧ ({ s with rm := { s.rm with inbox := s.rm.inbox.erase r } } : State).targetRefusal r = none ∧ (s.rmMem r.addr).1.poisonedAt (s.rmMem r.addr).2 = false ∧
     opWrites r.op = true ∧ addrSpire r.addr = false ∧ opAtomic r.op = true ∧ r.mid = none) ∧
    (let r := { Tests.record1 5 0x0005000000140008 with mid := some 7 }
     let s := Tests.targeted true 0 [r]
     s.nextRecord s.rm.inbox [] = some r ∧ s.addrDomain r.addr = some 16 ∧ s.domainOn 16 = true ∧ r.src ≠ s.chipId ∧ opWrites r.op = true) ∧
    (let r := Tests.record1 2 0x0005100006000008
     let s := Tests.targeted true 0 [r]
     s.nextRecord s.rm.inbox [] = some r ∧ s.addrDomain r.addr = some 1 ∧ s.domainOn 1 = true ∧ s.rm.match_ r = .none_ ∧ ({ s with rm := { s.rm with inbox := s.rm.inbox.erase r } } : State).targetRefusal r = none ∧
     (s.rmMem r.addr).1.poisonedAt (s.rmMem r.addr).2 = false ∧ opWrites r.op = true ∧ addrSpire r.addr = true) ∧
    (let s := Tests.remote 128000 []
     let p : ReplayRec := ⟨9, 4, 2, 1, 0, 0, false, 0⟩
     let r := Tests.record1 0 0x0005000000140008
     let t := { s with rm := { s.rm with replay := [p], waiting := [r] } }
     t.rm.replay.find? (fun p => decide (p.last + nsUnits 8000000 ≤ t.now)) = some p ∧
     t.rm.waiting.find? (fun r => decide (r.ready + nsUnits 1000000 ≤ t.now)) = some r) ∧
    (let l : StageLine := { StageLine.reset with src := 9, ctx := 4, far := 20, block := 0x0014000000000000, used := true }
     let s := (Tests.remote 128000 []).modLine 0 (fun _ => l)
     s.lineDue (s.line 0) = true ∧ s.rm.reqs = [] ∧ s.rm.fences = [] ∧ s.freeTag (lineCtx 0) = some 0) ∧
    (Tests.remote 0 []).nextRecord [] [] = none := by
  decide +kernel

set_option maxRecDepth 20000 in
/-- The hypotheses of JobsAreSubmittedPlacedAndEnd can be met. -/
theorem witness_JobsAreSubmittedPlacedAndEnd :
    (let s := Tests.submittable 0
     let iss : Issuer := .ring 0 0 1
     let n := bytesLE ((s.begun 0x20 iss).runRead 5 0 2 jobHeadBytes) 0x10 4
     s.accepts 0x20 iss = true ∧ rangeOk 5 1 128 = true ∧ (s.begun 0x20 iss).imageTile iss 5 = true ∧ ((s.begun 0x20 iss).tile 5).inHbm = true ∧
     ((s.begun 0x20 iss).tile 5).pin ≠ 0 ∧ n ≤ 1 * 262144 ∧ n ≤ jobImageMax ∧ (s.begun 0x20 iss).runPoisoned 5 0 2 (max n jobHeadBytes) = false ∧
     (s.begun 0x20 iss).jobRefusal 0 ((s.begun 0x20 iss).runRead 5 0 2 n) = none ∧ (s.begun 0x20 iss).imageTile iss 6 = false) ∧
    (let s := Tests.submittable 1
     let iss : Issuer := .ring 0 0 1
     let n := bytesLE ((s.begun 0x20 iss).runRead 5 0 2 jobHeadBytes) 0x10 4
     s.accepts 0x20 iss = true ∧ (s.begun 0x20 iss).imageTile iss 5 = true ∧ n ≤ 1 * 262144 ∧
     (s.begun 0x20 iss).runPoisoned 5 0 2 (max n jobHeadBytes) = false ∧ (s.begun 0x20 iss).jobRefusal 0 ((s.begun 0x20 iss).runRead 5 0 2 n) = some stBadArg) ∧
    ((Tests.submittable 0).dsp.queue = [] ∧
     (let j := { Tests.job1 with phase := .queued, spires := [], lease := 0, image := { Tests.job1.image with pavane := 0 } }
      let s := Tests.placeable
      s.dsp.queue = [j] ∧ choosePlaces j.image.spires (s.eligible j) = some [0] ∧
      choosePlaces j.image.spires ({ s with rel := { s.rel with inService := 0 } }.eligible j) = none)) ∧
    (let s := Tests.loadingJob
     s.job 1 = some Tests.job1 ∧ s.leftBy 1 3 = false ∧ s.job 2 = none ∧
     (let t := s.modSpire 3 (fun p => { p with ctx := .none })
      t.job 1 = some Tests.job1 ∧ Tests.job1.phase ≠ .queued ∧ Tests.job1.spires ≠ [] ∧ t.leftBy 1 3 = true ∧ Tests.job1.silent = false ∧
      ((t.modPair 7 0 (fun p => { p with enable := true })).pair 7 0).enable = true)) ∧
    (let s := Tests.loadingJob
     let iss : Issuer := .ring 0 0 1
     s.accepts 0x21 iss = true ∧ (s.begun 0x21 iss).dsp.queue.find? (fun j => j.id == 1 && iss.mayCancel j) = none ∧
     (s.begun 0x21 iss).dsp.running.find? (fun j => j.id == 1 && iss.mayCancel j) = some Tests.job1 ∧ Tests.job1.allEnded = false ∧
     (s.begun 0x21 iss).dsp.running.find? (fun j => j.id == 2 && iss.mayCancel j) = none ∧
     (Tests.placeable.begun 0x21 iss).dsp.queue.find? (fun j => j.id == 1 && iss.mayCancel j) ≠ none) := by
  decide +kernel

/-- The hypotheses of ReclaimLogsAndLeaseResets can be met. -/
theorem witness_ReclaimLogsAndLeaseResets :
    (let s := Tests.borrowed
     s.serves 0x50024 = true ∧ s.takeable 1 = true ∧ (s.spire 1).seq.reclaim = false ∧ (s.spire 1).seq.window = false ∧ (s.spire 1).seq.mode = .idle ∧
     ((List.range 32).all (fun k => !bitAt (4 : Word).toNat k || (!(s.spire k).seq.reclaim && !s.takeable k))) = true) ∧
    (let s := { Tests.ready with dsp := { Tests.ready.dsp with reclaimDone := false, taken := 2, entered := 0, windowed := 2 } }
     s.dsp.taken &&& ~~~(s.dsp.entered ||| s.dsp.windowed) = 0 ∧ s.dsp.taken ≠ 0 ∧ State.reset.dsp.taken = 0) ∧
    (let s := Tests.logging false
     let iss : Issuer := .ring 0 0 1
     s.accepts 0x22 iss = true ∧ rangeOk 16 16 16 = true ∧ ((tileRange 16 16).all (fun t =>
       decide (((s.begun 0x22 iss).tile t).lease = 0) && !((s.begun 0x22 iss).tile t).radio && ((s.begun 0x22 iss).tile t).inHbm &&
       decide (((s.begun 0x22 iss).tile t).pin ≠ 0))) = true ∧ ((s.begun 0x22 iss).leaseOf 3).log.on = false ∧
     s.accepts 0x23 iss = true ∧ s.accepts 0x24 iss = true) ∧
    (let s := Tests.logging true
     let iss : Issuer := .ring 0 0 1
     s.accepts 0x22 iss = true ∧ s.accepts 0x23 iss = true ∧ s.accepts 0x24 iss = true ∧ ((s.begun 0x22 iss).leaseOf 3).log.on = true ∧
     ((s.begun 0x23 iss).leaseOf 3).log.on = true ∧ ((s.begun 0x23 iss).leaseOf 3).log.flipping = false ∧
     ((s.begun 0x24 iss).leaseOf 3).log.on = true) ∧
    (let s := Tests.logging true
     (s.leaseOf 3).resetting = false ∧ (s.leaseOf 3).enable = true ∧ (s.leaseOf 4).enable = false ∧
     (let t := s.modLease 3 (fun l => { l with resetting := true })
      (t.leaseOf 3).resetting = true ∧ t.dsp.running = [] ∧ t.started = [])) := by
  decide +kernel

/-- The hypotheses of QueuePairsRingsAndDoorbells can be met. -/
theorem witness_QueuePairsRingsAndDoorbells :
    (let s := Tests.paired 3
     s.reachable = true ∧ (s.pair 3 1).offAt ≠ s.bclkTick + 1 ∧ s.ringsOpen 0 = false ∧ s.ringsOpen 4 = true ∧ (s.pair 3 0).error = false ∧ (s.pair 3 0).enable = true ∧ (s.pair 3 1).enable = false ∧
     (5 < 2 ^ (s.pair 3 0).sqLog2.toNat ∧ ringDist (2 ^ (s.pair 3 0).sqLog2.toNat) (s.pair 3 0).sqHead.toNat (s.pair 3 0).sqTail.toNat +
       ringDist (2 ^ (s.pair 3 0).sqLog2.toNat) (s.pair 3 0).sqTail.toNat 5 ≤ 2 ^ (s.pair 3 0).sqLog2.toNat - 1) ∧
     2 ^ (s.pair 3 0).sqLog2.toNat ≤ 8 ∧ (s.func 3).rx.error = false ∧ (s.func 3).rx.enable = true ∧ 2 < 2 ^ (s.func 3).rx.log2.toNat ∧
     ringDist (2 ^ (s.func 3).rx.log2.toNat) (s.func 3).rx.head.toNat 2 ≤ (s.func 3).rx.used ∧ (s.func 3).dbStatus = 0 ∧
     (s.modLease 3 (fun l => { l with resetting := true })).ringsOpen 4 = false ∧
     ((s.modPair 3 0 (fun p => { p with error := true })).pair 3 0).error = true ∧
     ((s.modPair 3 1 (fun p => { p with offAt := s.bclkTick + 1 })).pair 3 1).offAt = (s.modPair 3 1 (fun p => { p with offAt := s.bclkTick + 1 })).bclkTick + 1) ∧
    (let s := Tests.paired 3
     let p := s.pair 3 0
     let e : List Byte := leBytes (0x21 + 9 * 2 ^ 16 + 1 * 2 ^ 64) 64
     let bad : List Byte := leBytes (0x30 + 9 * 2 ^ 16) 64
     let odd : List Byte := leBytes (0x21 + 9 * 2 ^ 16 + 2 ^ 500) 64
     p.enable = true ∧ p.error = false ∧ p.sqHead ≠ p.sqTail ∧ p.waiting = [] ∧ p.used < 2 ^ p.cqLog2.toNat ∧ (e.take 64).length = 64 ∧
     (s.leaseOf 3).resetting = false ∧ p.inProgress = [] ∧ opcodeAllowed (.ring 3 0 9) 0x21 = true ∧ entryReservedOk (e.take 64) = true ∧
     entryCommand (.ring 3 0 9) (e.take 64) [] = some (.jobCancel (.ring 3 0 9) 1) ∧
     opcodeAllowed (.ring 3 0 9) (bytesLE (bad.take 64) 0 1) = false ∧ entryReservedOk (odd.take 64) = false ∧ (s.pair 3 1).enable = false) ∧
    (let s := (Tests.paired 3).modPair 3 0 (fun p => { p with waiting := [⟨0⟩] })
     let p := s.pair 3 0
     p.waiting = [⟨0⟩] ∧ p.enable = true ∧ p.used < 2 ^ p.cqLog2.toNat ∧ (s.leaseOf 3).log.on = false ∧ (s.pair 3 1).waiting = []) := by
  decide +kernel

/-- The hypotheses of MailboxChannelsPassWords can be met. -/
theorem witness_MailboxChannelsPassWords :
    (let s := Tests.mailed
     s.reachable = true ∧ (s.channel 0).receives 0 = true ∧ (s.channel 0).left = 0 ∧ (5 : Word).toNat % 65536 ≠ 0 ∧ (s.channel 2).receives 0 = false ∧
     ((s.modChannel 0 (fun x => { x with left := 3 })).channel 0).left = 3 ∧ (s.channel 0).sends 4 = true ∧ s.midOpen 4 = true ∧ (s.channel 0).fifo.length < 32 ∧ (s.channel 0).receives 0 = true ∧
     (s.channel 1).sends 4 = true ∧ 32 ≤ (s.channel 1).fifo.length ∧ (s.channel 0).sends 5 = false ∧ (s.channel 0).fifo = [] ∧
     0 < (s.channel 0).sender.toNat ∧ (s.channel 2).sends 0 = true ∧ (s.channel 2).sender.toNat = 0 ∧ s.midOpen 0 = true ∧
     (s.channel 1).fifo = ((0 : Word), 0) :: List.replicate 31 (0, 0) ∧ (s.channel 1).receives 0 = true ∧ 0 + 2 ≤ s.clock.tick / 2 ∧
     ({ s with clock := { s.clock with tick := 2 } } : State).clock.tick / 2 < 0 + 2) ∧
    (let s := Tests.mailed.modChannel 2 (fun x => { x with fifo := [(7, 0)], late := [(9, 2, false)] })
     s.reachable = true ∧ (s.channel 2).fifo = ((7 : Word), 0) :: [] ∧ (s.channel 2).receives 4 = true ∧ 0 + 2 ≤ s.clock.tick / 2 ∧
     (s.channel 2).late.filter (fun l => l.2.1 == s.clock.tick / 2) = ((9 : Word), 2, false) :: [] ∧ (s.channel 2).receives 0 = false) ∧
    (let s := Tests.mailed
     s.host.locked = false ∧ ((0x80010002 : Word).extractLsb' 16 13).toNat ≤ 4096 ∧ ((0x80010002 : Word).extractLsb' 0 13).toNat ≤ 4096 ∧
     (0x80010002 : Word).extractLsb' 16 13 ≠ (0x80010002 : Word).extractLsb' 0 13 ∧ (0x80010001 : Word).getLsbD 31 = true ∧
     (0x80010001 : Word).extractLsb' 16 13 = (0x80010001 : Word).extractLsb' 0 13 ∧
     ({ s with host := { s.host with locked := true } } : State).host.locked = true) := by
  decide +kernel

/-- The hypotheses of CxlAccessesAndTheMailbox can be met. -/
theorem witness_CxlAccessesAndTheMailbox :
    (let s := Tests.flashed 0
     let t := s.setTile 5 ⟨.hbm, .ready, false, false, 0, 1, 0, 7⟩
     5 < 2 ^ 24 ∧ ((returnToRun t).tile 5).tier = .hbm ∧ ((returnToRun t).tile 5).state = .ready ∧ ((returnToRun t).tile 9).tier ≠ .hbm ∧
     ((returnToRun t).tile 9).state ≠ .moving ∧ ((returnToRun t).tile 6).state = .free ∧
     (CxlReq.read 1 (5 * 262144) 64).addr / 262144 = 5 ∧ (CxlReq.read 1 (5 * 262144) 64).addr % 1024 + 64 ≤ 1024 ∧
     (t.stack 0).waiting = [] ∧ (t.stack 0).roomFor (.hostRead 1 (5 * 262144) 64) = true ∧
     (let full : HbmStack := { t.stack 0 with queue := List.replicate 64 ⟨.hostRead 1 0 64, some 5, 0, false⟩ }
      (full.waiting ++ [(⟨.hostRead 1 (5 * 262144) 64, some 5, 0, false⟩ : OpenReq)]).any (fun x => full.roomFor x.op) = false)) ∧
    (1024 < 1000 % 1024 + 64 ∧ 1000 % 1024 + 64 ≤ 2048) ∧
    (0x4400 ∉ [0x4000, 0x0400, 0x0401, 0x0100, 0x0101, 0x4300]) ∧
    (let s := (Tests.ready.setTile 5 ⟨.hbm, .ready, false, false, 0, 1, 0, 7⟩).modStack 0 (fun x => { x with mem := x.mem.setPoison (7 * 8192 + 3) true })
     s.poisonList 0 (2 ^ 30) = [5 * 262144 + 96] ∧ s.hostReaches 5 = true) := by
  decide +kernel

/-- The hypotheses of InterfacesLockRunAndStop can be met. -/
theorem witness_InterfacesLockRunAndStop :
    (let s := { Tests.logging false with dome := { (Tests.logging false).dome with identityOk := true, running := true } }
     s.domeWorks = true ∧ State.reset.domeWorks = false ∧ (s.leaseOf 3).tdi = .unlocked ∧ s.dome.identityOk = true ∧ State.reset.dome.identityOk = false ∧
     ((s.modLease 3 (fun x => { x with tdi := .locked })).leaseOf 3).tdi = .locked) ∧
    (let s0 := Tests.logging false
     let s := { s0.modLease 3 (fun x => { x with tdi := .run }) with host := { s0.host with secure := [2], ideBound := s0.host.ideBound.set 0 3 3 } }
     let t := { s0 with host := { s0.host with secure := [2] } }
     2 ∈ s.host.secure ∧ 1 ∉ s.host.secure ∧
     (((s.host.ideBound.entries.filter (fun p => p.2 == 2 + 1)).map (·.1)).filter (fun n => s.confidential n)) = [3] ∧ (s.leaseOf 3).tdi ≠ .error ∧
     s.dsp.queue = [] ∧ s.dsp.running = [] ∧
     (((t.host.ideBound.entries.filter (fun p => p.2 == 2 + 1)).map (·.1)).filter (fun n => t.confidential n)) = []) := by
  decide +kernel

/-- The hypotheses of TestWindowsVisitsAndVerdicts can be met. -/
theorem witness_TestWindowsVisitsAndVerdicts :
    (let s := Tests.tested none
     let w := (List.range 32).foldl (fun t k => windowStart k t) s
     s.inTestWindow = true ∧ s.rel.testActive = false ∧ w.rel.disputes = [] ∧ w.rel.shadow = Tab.empty ∧ w.rel.packLoaded = true ∧
     w.rel.visit = none ∧ w.rel.confirmQueue = [] ∧ w.rel.passedOver = [] ∧ w.rel.rotation < 32 ∧ w.testable w.rel.rotation = true ∧
     State.reset.inTestWindow = false) ∧
    (let s := Tests.tested (some ⟨3, 0, false, false⟩)
     let w := (List.range 32).foldl (fun t k => windowStart k t) s
     s.inTestWindow = true ∧ w.rel.visit = some ⟨3, 0, false, false⟩ ∧ w.testable 3 = true) ∧
    (let s := { Tests.ready with rel := { Tests.ready.rel with testActive := true } }
     s.rel.testActive = true ∧ s.inTestWindow = false ∧ s.rel.disputes = [] ∧ s.rel.fenceAfter = []) ∧
    (let s0 := Tests.tested (some ⟨4, 0, false, false⟩)
     let s := { s0 with rel := { s0.rel with segment := some 4, segments := 2 } }
     s.rel.segment = some 4 ∧ s.rel.visit = some ⟨4, 0, false, false⟩ ∧ 0 + 1 < s.rel.segments ∧ s.role 4 ≠ .radioOwned ∧
     (s.spire 4).seq.reclaim = false ∧ Tests.ready.rel.segment = none) ∧
    (let s0 := Tests.tested (some ⟨4, 1, false, false⟩)
     let s := { s0 with rel := { s0.rel with segment := some 4, segments := 2 } }
     s.rel.segments ≤ 1 + 1 ∧ s.rel.fenceAt.toNat < min 1000 ((s.healthOf 4).score + 25) ∧ (s.spire 4).ctx.jobId = 0 ∧
     (s.spire 4).seq.mode = .idle ∧ s.role 4 ≠ .radioOwned ∧ s.referees 4 = false) ∧
    (let s := Tests.disputed false
     s.runningRecompute 0 false = some ⟨0, 3, 4, false, false, Tests.rec0, 0⟩ ∧ s.disputeOf 3 = some ⟨3, 0, 0, 0, false, 0, false, ⟨true, false, 0, 0, 0⟩⟩ ∧ s.runningRecompute 1 false = none ∧
     s.runningRecompute 1 true = some ⟨1, 9, 10, true, false, Tests.rec0, 0⟩ ∧ s.runningRecompute 0 true = none ∧
     s.runningRecompute 2 false = some ⟨2, 17, 18, false, false, Tests.rec0, 0⟩ ∧ s.disputeOf 17 = none ∧
     (⟨0, 3, 4, false, false, Tests.rec0, 0⟩ : Recompute).due ≤ s.cyc ∧ Tests.ready.cyc < (⟨0, 3, 4, false, false, Tests.rec0, 0⟩ : Recompute).due) ∧
    (let s := Tests.disputed true
     s.disputeOf 3 = some ⟨3, 0, 0, 0, false, 0, true, ⟨true, false, 0, 0, 0⟩⟩ ∧ (s.spire 3).ctx.jobId = 0 ∧ (s.healthOf 3).fenced = false ∧ 100 ≤ (s.healthOf 3).score ∧
     s.rel.fenceAt.toNat < (s.healthOf 3).score - 100 ∧ (s.healthOf 3).score ≤ 1000) ∧
    (([0x3C0004, 0x3C0008, 0x3C5000, 0x3C2104].all (fun off => Tests.booted.serves off && Tests.ready.serves off)) = true ∧ Tests.booted.clk.chipState = .boot ∧ Tests.ready.clk.chipState = .ready ∧ testLimits 100 5000 = true ∧ testLimits 100 4419 = false ∧
     (let s := { Tests.booted with rel := { Tests.booted.rel with testLen := 5000 } }
      testLimits 100 s.rel.testLen.toNat = true ∧ testLimits 845000 s.rel.testLen.toNat = false) ∧ Tests.booted.rel.dump = none ∧
     ({ Tests.booted with rel := { Tests.booted.rel with dump := some ⟨3, 2, 1, false⟩ } } : State).rel.dump = some ⟨3, 2, 1, false⟩) := by
  decide +kernel

theorem redoOf_congr2 (s t : State) (r q : Recompute) (x : RecomputeResult) (f : RefSide) (h : s.spires = t.spires) (h1 : r.original = q.original)
    (h2 : r.shadow = q.shadow) (h3 : r.pass.desc = q.pass.desc) (h4 : r.pass.addr = q.pass.addr) : s.redoOf r x f = t.redoOf q x f := by
  have hs : s.spire q.original = t.spire q.original := by unfold State.spire; rw [h]
  unfold State.redoOf
  rw [h1, h2, h3, h4, hs]

/-- A disputed pass whose referee repeats the input digest `a` and the long digest `b` that the records of this witness give. -/
theorem witness_TestWindowsVisitsAndVerdicts_digests (stopped shadow : Bool) :
    let r0 : Recompute := if shadow then ⟨1, 9, 10, true, false, Tests.rec0, 0⟩ else ⟨0, 3, 4, false, false, Tests.rec0, 0⟩
    let f : RefSide := if shadow then ⟨false, false, 0, 0, 0⟩ else ⟨true, false, 0, 0, 0⟩
    let x : RecomputeResult := ⟨[], .none, []⟩
    let z := (Tests.disputed stopped).redoOf r0 x f
    let same : Recompute := { r0 with pass := { r0.pass with inDigest := z.pass.inDigest, longDigest := z.pass.longDigest } }
    let other : Recompute := { r0 with pass := { r0.pass with inDigest := ~~~z.pass.inDigest } }
    let st (r : Recompute) : State := { Tests.disputed stopped with rel := { (Tests.disputed stopped).rel with recomputes := [r] } }
    (st same).runningRecompute r0.tower shadow = some same ∧ same.due ≤ (st same).cyc ∧ ((st same).redoOf same x f).own = false ∧
    ((st same).redoOf same x f).inputSame same.pass = true ∧ ((st same).redoOf same x f).longSame same.pass = true ∧
    (st other).runningRecompute r0.tower shadow = some other ∧ other.due ≤ (st other).cyc ∧ ((st other).redoOf other x f).own = false ∧
    ((st other).redoOf other x f).inputSame other.pass = false := by
  have n : ∀ a : BitVec 64, (a == ~~~a) = false := by
    intro a
    rw [beq_eq_false_iff_ne]
    intro h
    have := congrArg (fun v : BitVec 64 => v.getLsbD 0) h
    simp at this
  intro r0 f x z same other st
  have e1 : (st same).redoOf same x f = z := redoOf_congr2 _ _ _ _ _ _ rfl rfl rfl rfl rfl
  have e2 : (st other).redoOf other x f = z := redoOf_congr2 _ _ _ _ _ _ rfl rfl rfl rfl rfl
  have ho : z.own = false := by cases stopped <;> cases shadow <;> decide +kernel
  have hf : ∀ r : Recompute, r.tower = r0.tower → r.shadow = r0.shadow → r.done = false → (st r).runningRecompute r0.tower shadow = some r := by
    intro r h1 h2 h3
    show [r].find? _ = some r
    rw [List.find?_cons_of_pos (by rw [h1, h2, h3]; cases shadow <;> decide)]
  have hd : r0.due ≤ (Tests.disputed stopped).cyc := by cases stopped <;> cases shadow <;> decide +kernel
  refine ⟨hf _ rfl rfl (by cases shadow <;> rfl), hd, by rw [e1]; exact ho, ?_, ?_, hf _ rfl rfl (by cases shadow <;> rfl), hd, by rw [e2]; exact ho, ?_⟩
  · unfold Redo.inputSame; rw [e1]; exact beq_self_eq_true _
  · unfold Redo.longSame; rw [e1]; exact beq_self_eq_true _
  · unfold Redo.inputSame; rw [e2]; exact n _

/-- The hypotheses of LossGovernorMarginsAndFatalErrors can be met. -/
theorem witness_LossGovernorMarginsAndFatalErrors :
    (let s0 := Tests.laned 3 .up 0
     let s := { s0 with rel := { s0.rel with live := s0.rel.live.modify Liveness.reset 9 (fun x => { x with silent := 8 }) } }
     s.clk.chipState = .ready ∧ s.stepImage.isSome = true ∧ 9 ∈ s.partners ∧ 9 ≠ s.chipId ∧ 8 ≤ (s.rel.live.get Liveness.reset 9).silent ∧
     9 ∉ s.rm.lost ∧ s.rm.reqs = []) ∧
    (let s0 := Tests.laned 3 .up 0
     let s := { s0 with rm := { s0.rm with lost := [9] }, rel := { s0.rel with live := s0.rel.live.modify Liveness.reset 9 (fun x => { x with goodRun := 16 }) } }
     9 ∈ s.rm.lost ∧ 9 ∈ s.partners ∧ 16 ≤ (s.rel.live.get Liveness.reset 9).goodRun ∧ 9 ∉ s0.rm.lost) ∧
    (let s := Tests.ready
     let g := { s.rel.gov with burst := 8, rate := 60, tokens := 0, d := 200, dBase := 100, step := 50, lower := 1, fullSince := some 0 }
     g.tokens + (g.rate.toNat * (102000000000 - g.lastTick) + g.carry) / 6120000000000 < g.burst.toNat * 256 ∧
     ({ g with tokens := 2048 } : Governor).burst.toNat * 256 ≤ 2048 + (g.rate.toNat * (102000000000 - g.lastTick) + g.carry) / 6120000000000 ∧
     0 + g.lower.toNat * 60 * 1700000000 ≤ 102000000000 ∧ g.suspects = [] ∧ g.dBase.toNat ≤ g.d.toNat ∧ ({ g with fullSince := none } : Governor).fullSince = none ∧
     101999999999 < 0 + g.lower.toNat * 60 * 1700000000) ∧
    (let s := { Tests.ready with rel := { Tests.ready.rel with pmAlarmAt := 20, optAlarmAt := 0xFF9C, corrections := 3 } }
     min 19 0xFFFF < s.rel.pmAlarmAt.toNat ∧ s.rel.pmAlarmAt.toNat ≤ min 20 0xFFFF ∧ (s.rel.pm.get PathMon.reset 0).alarm = false ∧
     (s.lane 3).regs.enable = false ∧ ((s.modLaneRegs 3 (fun l => { l with enable := true })).lane 3).regs.enable = true ∧
     (-101 : Int) < toSigned 16 s.rel.optAlarmAt.toNat ∧ toSigned 16 s.rel.optAlarmAt.toNat ≤ (-100 : Int) ∧ s.rel.corrections ≠ 0 ∧
     Tests.ready.rel.corrections = 0) ∧
    (let s := Tests.ready
     s.clk.done = true ∧ s.rel.fatal = false ∧ State.reset.clk.done = false ∧ s.mapTower = some 3 ∧ (s.stack 23).trained = false ∧
     ((s.modStack 23 (fun x => { x with trained := true })).stack 23).trained = true ∧
     (let t := { s with rel := { s.rel with fatal := true, dump := some ⟨3, 1, 1, false⟩ } }
      t.clk.done = true ∧ t.rel.fatal = true ∧ t.rel.dump = some ⟨3, 1, 1, false⟩) ∧
     ({ s with rel := { s.rel with towerOut := 15 } } : State).mapTower = none) := by
  decide +kernel

/-- The hypotheses of DomeBootsRecoversAndIsWatched can be met. -/
theorem witness_DomeBootsRecoversAndIsWatched :
    (let s := Tests.booted
     let bad : BankImg := s.dome.bankA
     let c : Nat := 2 ^ 26
     let t := { s with dome := { s.dome with bankA := bad, bankBImg := Tests.goodBank } }
     let w := { s with dome := { s.dome with bankA := bad, bankBImg := bad } }
     s.clk.chipState = .boot ∧ s.dome.running = false ∧ s.dome.recovery = false ∧ s.dome.selector.2.activeB = false ∧
     (t.dome.bank false).error c ≠ 0 ∧ (w.dome.bank false).error c ≠ 0 ∧
     (w.dome.bank true).error c ≠ 0) ∧
    (let d := { Tests.booted.dome with bankBImg := Tests.goodBank }
     let e := { Tests.booted.dome with bankA := Tests.goodBank }
     d.bank true = Tests.goodBank ∧ e.bank false = Tests.goodBank) ∧
    Tests.goodBank.error (2 ^ 26) = 0 ∧
    (let s := { Tests.booted with dome := { Tests.booted.dome with recovery := true } }
     s.dome.recovery = true ∧ s.dome.capacity = 2 ^ 26 ∧ s.dome.stage = none ∧ (recoveredBank BankImg.blank s.dome.bankA s.dome.bankBImg).error s.dome.capacity ≠ 0) ∧
    (recoveredBank Tests.goodBank Tests.goodBank BankImg.blank).error (2 ^ 26) = 0 ∧
    (let s := { Tests.booted with dome := { Tests.booted.dome with running := true } }
     let c : CfgData := { s.dome.bankA.cfg with chipId := 7, lanes := Tab.empty.set LaneCfg.off 3 ⟨true, 9, 0, 0, 0⟩ }
     let t := { s with dome := { s.dome with bankA := { s.dome.bankA with cfg := c } } }
     t.clk.chipState = .boot ∧ t.dome.running = true ∧ t.dome.chipId = 0xFFFF ∧ ((t.dome.bank t.dome.bankB).cfg.lanes.get LaneCfg.off 3).enabled = true ∧
     ((t.dome.bank t.dome.bankB).cfg.lanes.get LaneCfg.off 4).enabled = false ∧ (t.lane 3).regs.state = .disabled ∧
     (let v := { t with dome := { t.dome with cfg := c, chipId := 7, trial := true } }
      v.dome.chipId ≠ 0xFFFF ∧ v.host.locked = false ∧ v.dome.cfg.mbBind = none)) ∧
    (let s := { Tests.booted with dome := { Tests.booted.dome with recovery := true } }
     s.dome.recovery = true ∧ Tests.booted.dome.recovery = false) ∧
    (let s0 := Tests.ready
     let s := { s0 with dome := { s0.dome with running := true, wdogAt := some 0, wdogTimeout := 10 }, clock := { s0.clock with tick := 170000000 } }
     s.reachable = true ∧ s.dome.stage = none ∧ s.dome.wdogAt = some 0 ∧ s.domeWorks = true ∧ 0 + s.dome.wdogTimeout.toNat * 1700000 ≤ s.clock.tick ∧
     16999999 < 0 + s.dome.wdogTimeout.toNat * 1700000 ∧ (s.dome.heartbeats + 1) * 170000000 ≤ s.clock.tick ∧ s0.domeWorks = false ∧
     s0.clock.tick < (s0.dome.heartbeats + 1) * 170000000 ∧ s0.dome.wdogAt = none) := by
  refine ⟨?_, ⟨rfl, rfl⟩, Tests.goodBank_ok, ?_, Tests.goodBank_received, ?_, ?_, ?_⟩ <;> decide +kernel

/-- The hypotheses of SpdmRequestsAreAnswered can be met. -/
theorem witness_SpdmRequestsAreAnswered :
    (let p : SpdmState := ⟨true, true, true, [⟨5, true⟩, ⟨6, false⟩]⟩
     let s := { Tests.ready with dome := { Tests.ready.dome with running := true, identityOk := true, spdm := p }, host := { Tests.ready.host with secure := [2] } }
     s.domeWorks = true ∧ Tests.ready.domeWorks = false ∧ p.sessions.length < 8 ∧ 5 ∈ p.sessions.map (fun x => x.id) ∧ 7 ∉ p.sessions.map (fun x => x.id) ∧
     (∃ x ∈ p.sessions, x.id = 5 ∧ x.open_ = true) ∧ (¬ ∃ x ∈ p.sessions, x.id = 6 ∧ x.open_ = true) ∧ (∃ x ∈ p.sessions, x.id = 6 ∧ x.open_ = false) ∧
     (∀ x ∈ p.sessions, x.id = 5 → x.open_ = true) ∧ 8 ≤ (List.replicate 8 (⟨1, true⟩ : SpdmSession)).length ∧ 2 ∈ s.host.secure ∧ 3 ∉ s.host.secure ∧
     Tests.ready.dome.spdm.version = false ∧ Tests.ready.dome.spdm.caps = false ∧ Tests.ready.dome.spdm.algs = false ∧ Tests.ready.dome.identityOk = false) := by
  decide +kernel

/-- The hypotheses of DomeRequestsLogDebugAndJtag can be met. -/
theorem witness_DomeRequestsLogDebugAndJtag :
    (let s0 := Tests.ready
     let ch (a b : BitVec 13) : Channel := { Channel.reset with valid := true, sender := a, receiver := b }
     let s1 := { s0 with
       host := { s0.host with channels := ((Tab.empty.set Channel.reset 0 (ch 1 0)).set Channel.reset 1 (ch 0 1)).set Channel.reset 2 (ch 5 0) }
       dome := { s0.dome with running := true, log := [⟨3, 0, 0, .fatal⟩], logQueue := [⟨4, 0, 0, .fatal⟩] } }
     let s := s1.setTile 7 { TileEntry.free with tier := .hbm, state := .ready, lease := 0, pin := 1 }
     let bound (n : Nat) : Bool := (s.channel n).sends 0 && (s.channel n).receives 1
     bound 1 = true ∧ (∀ n : Nat, n < 1 → bound n = false) ∧ (s.channel 1).fifo.length + 6 < 32 ∧
     (s.channel 0).receives 0 = true ∧ (s.channel 0).sender.toNat = 1 ∧ (s.channel 2).receives 0 = true ∧ (s.channel 2).sender.toNat = 5 ∧ s.domeWorks = true ∧
     (s.channel 3).receives 0 = false ∧ s.rel.fatal = false ∧ s0.domeWorks = false ∧
     ((∀ n ∈ tileRange 7 1, (s.tile n).lease = 0 ∧ (s.tile n).radio = false) ∧ 7 + 1 ≤ tileCount) ∧
     ((∀ n ∈ tileRange 7 1, (s.tile n).inHbm = true ∧ (s.tile n).pin ≠ 0) ∧ s.dome.stage = none ∧ s.dome.selector.2.trial ≠ 1 ∧ s.dome.trial = false) ∧
     s.runPoisoned 7 0 2 tileBytes = false ∧
     ((s.dome.log.filter (fun r => decide (0 ≤ r.seq.toNat))).take 1).length = 1 ∧
     (s.tile 8).inHbm = false ∧ s0.dome.stage = none ∧ s0.dome.logQueue = [] ∧ s.dome.log.length + 1 < 64512) ∧
    (let t : DebugToken := ⟨Tests.signedImage 6 0 [] Config.vendorModulus, Tests.ready.dome.nonce, Config.deviceKeyDigest, 2⟩
     (t.image.verified 6 none = true ∧ t.digest = Config.deviceKeyDigest ∧ t.nonce = Tests.ready.dome.nonce ∧ t.level = 2 ∧ t.image.signer = 0) ∧
     (let s := { Tests.ready with dome := { Tests.ready.dome with stage := some ⟨0, 0, 0, 7, 1⟩, bankA := Tests.goodBank } }
      s.dome.capacity = 2 ^ 26 ∧ s.dome.selector.2.activeB = false ∧ (stagedBank 0 Tests.goodBank Tests.goodBank).error (2 ^ 26) = 0 ∧
      (stagedBank 1 BankImg.blank Tests.goodBank).error (2 ^ 26) ≠ 0) ∧
     ¬ (({ t with level := 3 } : DebugToken).level = 1 ∨ ({ t with level := 3 } : DebugToken).level = 2)) ∧
    JtagOp.idcode.level ≤ 0 ∧ 0 < JtagOp.domeDebug.level ∧ JtagOp.scan.level ≤ (2 : BitVec 2).toNat := by
  have v := Tests.signedImage_ok 6 0 [] Config.vendorModulus (by simp [Config.vendorModulus])
  have w := Tests.signedImage_vendor 6 [] none
  refine ⟨by decide +kernel, ⟨⟨?_, rfl, rfl, rfl, (Tests.signedImage_fields 6 0 [] Config.vendorModulus).2.1⟩, ⟨rfl, by decide +kernel, Tests.goodBank_staged, by decide +kernel⟩, by simp⟩, ?_⟩
  · show (Tests.signedImage 6 0 [] Config.vendorModulus).verified 6 none = true
    unfold Image.verified
    rw [v.1, v.2, w.2]
    rfl
  · decide

/-- The hypotheses of DomainsStatesAndWakes can be met. -/
theorem witness_DomainsStatesAndWakes :
    (let iss : Issuer := .ring 0 0 1
     let s := Tests.ready
     [0x50, 0x51, 0x52, 0x53, 0x54].all (fun op => s.accepts op iss) = true ∧
     (let u := s.begun 0x51 iss
      let fenced (v : State) : State := (v.modSeq 0 (fun q => { q with mode := .fenced })).modSeq 1 (fun q => { q with mode := .fenced })
      (∀ d, d < 30 → (1 : Nat).testBit d = true → (fenced u).gateOk d = true) ∧ u.gateOk 22 = false ∧ (2 ^ 22 : Nat).testBit 22 = true ∧
      (∃ d, d < 30 ∧ (2 : Nat).testBit d = true ∧ ((u.modSeq 2 (fun q => { q with mode := .running })).gateOk d) = false) ∧ u.pwr.domains.getLsbD 0 = true) ∧
     (let u := s.begun 0x52 iss
      (∀ d, d < 30 → (1 : Nat).testBit d = true → u.domainOn d = true) ∧
      (∃ d, d < 30 ∧ (1 : Nat).testBit d = true ∧ (u.modPwr (fun p => { p with domains := 0 })).domainOn d = false)) ∧
     (let u := s.begun 0x50 iss
      u.clk.chipState = .ready ∧ u.pwr.entry = none ∧ u.pwr.deepTarget = none ∧ u.pwr.mode = .run ∧ powerMode 1 = some .idle ∧ u.entryOk .idle = true ∧
      powerMode 4 = some .off ∧ u.entryOk .off = true ∧ u.entryOk .sleep = true ∧ (u.modSeq 3 (fun q => { q with mode := .running })).entryOk .idle = false ∧
      (u.modPwr (fun p => { p with mode := .idle })).pwr.mode ≠ .run)) ∧
    (let s := (Tests.ready.modPwr (fun p => { p with waking := 1, domains := 0x3FEFFFFE, writes := [(1, 0x100004, 5)] })).modSeq 1 (fun q => { q with mode := .off })
     s.pwr.waking.getLsbD 0 = true ∧ s.pwr.waking.getLsbD 1 = false ∧ (s.spire 1).seq.mode = .off ∧ 1 / 2 = 0 ∧ (s.spire 2).seq.mode ≠ .off ∧
     Tests.ready.pwr.writes = [] ∧ s.pwr.writes = [(1, 0x100004, 5)] ∧
     ((∀ e ∈ domainOf 0x100004, Tests.ready.domainOn e = true) ∧ (∃ e ∈ domainOf 0x100004, s.domainOn e = false))) ∧
    (let s := Tests.ready.modPwr (fun p => { p with deepTarget := some (.deep, none), wakeEnable := 1 })
     s.pwr.deepTarget = some (.deep, none) ∧ s.flash.inflight = [] ∧ s.flash.waits = [] ∧ s.pwr.mode ≠ .off ∧ Tests.ready.pwr.deepTarget = none ∧
     s.pwr.wakeEnable.getLsbD (0 : Fin 4) = true ∧ s.pins.resetN = true ∧ s.pwr.wakeEnable.getLsbD (1 : Fin 4) = false ∧
     (s.modPwr (fun p => { p with mode := .sleep })).pwr.mode = .sleep ∧ s.domainOn 20 = true ∧ (s.modPwr (fun p => { p with mode := .deep })).pwr.mode = .deep) := by
  decide +kernel

/-- The hypotheses of RegulatorsThrottleStopsAndPins can be met. -/
theorem witness_RegulatorsThrottleStopsAndPins :
    (let q : AvsRequest := ⟨0, .write 810, 0, 3⟩
     let s := Tests.ready.modPwr (fun p => { p with request := some q, rails := p.rails.set Rail.reset 0 { Rail.reset with present := true, adjustable := true, setpoint := 800 } })
     s.pwr.request = some q ∧ Tests.ready.pwr.request = none ∧ q.sent + 8500 ≤ 8500 ∧ 8499 < q.sent + 8500 ∧ ({ q with tries := 2 } : AvsRequest).tries < 3 ∧ 3 ≤ q.tries ∧
     (s.rail 0).present = true ∧ (s.rail 1).present = false ∧ 805 ≤ (s.rail 0).setpoint.toNat + 5 ∧ (s.rail 0).setpoint.toNat ≤ 795 + 5) ∧
    (let s := ({ Tests.ready with clock := { Tests.ready.clock with tick := 85000 } } : State).modPwr (fun p => { p with
       request := some ⟨1, .readVoltage, 0, 0⟩, rails := p.rails.set Rail.reset 0 { Rail.reset with present := true, adjustable := true, setpoint := 800 } })
     let t := s.modRel (fun r => { r with pm := r.pm.set PathMon.reset 3 { PathMon.reset with recent := some 20 } })
     (s.clk.chipState = .timeAcquire ∨ s.clk.chipState = .ready) ∧ s.pwr.loopAt + 85000 ≤ s.clock.tick ∧ t.pwr.request.isSome = true ∧
     (t.rail 0).adjustable = true ∧ (t.rail 0).fault = false ∧ (t.rail 0).settle = none ∧ (∀ q ∈ t.pwr.queue, q.1 ≠ 0) ∧
     (∀ q ∈ t.pwr.request.toList, q.rail = 0 → q.ask = .readVoltage ∨ q.ask = .readCurrent) ∧ t.loopRuns 0 = true ∧ t.railSlack 0 = some 20 ∧
     loopTarget t.clk.mode 20 (t.rail 0).setpoint.toNat ≠ (t.rail 0).setpoint.toNat ∧ Tests.ready.clock.tick < 85000) ∧
    (let s := Tests.ready
     let t := { s with time := { s.time with hall := { s.time.hall with ns := 100000 } } }
     s.clk.done = true ∧ t.timeRuns = true ∧ t.sampleNo ≠ t.pwr.sampleAt ∧ State.reset.clk.done = false ∧ s.pwr.estop = false ∧
     2700 < 28000000 / 10000 ∧ 2400 * [2500].length < [2500].sum) ∧
    (let s := Tests.running 3
     s.role 3 ≠ .radioOwned ∧ s.stopOwed 3 = false ∧ (s.spire 3).seq.mode = .running ∧
     (let t := s.modPwr (fun p => { p with estop := true, clearSince := some 0 })
      t.pwr.clearSince = some 0 ∧ t.pwr.estop = true ∧ t.samplesQuiet = true ∧ 0 + 170000 ≤ 170000 ∧ 169999 < 0 + 170000)) ∧
    (let s := { Tests.ready with flash := { Tests.ready.flash with noProgram := true, journal := false }, pins := { Tests.ready.pins with resetHeld := true } }
     s.flash.noProgram = true ∧ s.flash.journal = false ∧ s.pins.resetHeld = true ∧ Tests.ready.flash.noProgram = false ∧ s.dome.stage = none ∧
     Tests.ready.pins.resetHeld = false) := by
  decide +kernel

/-- The hypotheses of LossOfTheRootLockResets can be met. -/
theorem witness_LossOfTheRootLockResets : Tests.ready.clk.done = true ∧ State.reset.clk.done = false := by decide

theorem ready_inv : Tests.ready.inv :=
  ⟨by decide, fun _ h => h.elim (fun h => by cases h) (fun h => by cases h), by decide, fun _ => Nat.zero_le _, fun _ _ => rfl, fun h => (by cases h), fun _ => rfl⟩

/-- The hypotheses of ReadyIsLeftOnlyByReset can be met. -/
theorem witness_ReadyIsLeftOnlyByReset : Tests.ready.inv ∧ Tests.ready.clk.chipState = .ready := ⟨ready_inv, by decide⟩

/-- The hypotheses of ReadyOnlyWhileLocked can be met. -/
theorem witness_ReadyOnlyWhileLocked :
    Tests.ready.inv ∧ Tests.ready.clk.chipState = .ready ∧ Tests.ready.reachable = true ∧
    (let s : State := { Tests.ready with clk := { Tests.ready.clk with chipState := .timeAcquire }, time := { Tests.ready.time with servo := tsLocked }, pending := [.setReady] }
     s.clk.chipState ≠ .ready ∧ (match step s with
      | .next t => decide (t.clk.chipState = .ready)
      | _ => false) = true ∧ s.inv) :=
  ⟨ready_inv, by decide, by decide, by decide, by decide,
    by decide, fun _ h => h.elim (fun h => by cases h) (fun h => by cases h), by decide, fun _ => Nat.zero_le _, fun _ _ => rfl, fun h => (by cases h), fun h => (by cases h)⟩

/-- The hypotheses of HallTimeMovesOnlyByTheIncrement can be met. -/
theorem witness_HallTimeMovesOnlyByTheIncrement :
    Tests.ready.inv ∧ Tests.ready.clk.chipState = .ready ∧ Tests.ready.timeRuns = true ∧ Tests.ready.time.edgeAt = none ∧
    ({ Tests.ready with time := { Tests.ready.time with edgeAt := some (hallOf 0) } } : State).time.edgeAt = some (hallOf 0) ∧
    Tests.ready.now + Tests.ready.time.incr < 2 ^ 64 * 1000000000 * 2 ^ 32 := ⟨ready_inv, by decide, by decide, rfl, rfl, by decide +kernel⟩

/-- The hypotheses of MailboxLockHolds can be met. -/
theorem witness_MailboxLockHolds :
    (let s : State := { Tests.ready with host := { Tests.ready.host with locked := true } }
     s.inv ∧ s.host.locked = true) :=
  ⟨⟨by decide, fun _ h => h.elim (fun h => by cases h) (fun h => by cases h), by decide, fun _ => Nat.zero_le _, fun _ _ => rfl, fun h => (by cases h), fun _ => rfl⟩, rfl⟩

/-- The hypotheses of TowersStayOut can be met. -/
theorem witness_TowersStayOut :
    (let s : State := { Tests.ready with rel := { Tests.ready.rel with towerOut := 2 } }
     s.inv ∧ s.rel.towerOut.getLsbD 1 = true) :=
  ⟨⟨by decide, fun _ h => h.elim (fun h => by cases h) (fun h => by cases h), by decide, fun _ => Nat.zero_le _, fun _ _ => rfl, fun h => (by cases h), fun _ => rfl⟩, by decide⟩

/-- The hypotheses of EveryCommandCompletes can be met. -/
theorem witness_EveryCommandCompletes : (match exec .setReady Tests.ready with
    | .next t => decide (t.pending = Tests.ready.pending)
    | _ => false) = true := by decide

/-- The hypotheses of LimitsAreKept can be met. -/
theorem witness_LimitsAreKept : State.reset.inv ∧ Tests.ready.inv ∧ (match step { State.reset with pending := [.resetRelease] } with
    | .next t => decide (t.clk.pendingReset = none ∧ t.clk.rstCause = .powerOn)
    | _ => false) = true :=
  ⟨⟨by decide, fun _ h => h.elim (fun h => by cases h) (fun h => by cases h), by decide, fun _ => Nat.zero_le _, fun h => absurd rfl h, fun h => (by cases h), fun h => (by cases h)⟩, ready_inv, by decide⟩

/-- The hypotheses of LimitsHoldAtReset can be met. -/
theorem witness_LimitsHoldAtReset : State.reset.clk.chipState = .minuet := by decide

/-- The hypotheses of IdleStepTicks can be met. -/
theorem witness_IdleStepTicks :
    State.reset.pending = [] ∧ State.reset.clk.pendingReset.isSome = true ∧ Tests.ready.clk.pendingReset = none ∧
    ({ Tests.ready with spires := Tab.empty } : State).spires = Tab.empty ∧ Tests.ready.pwr.mode = .run ∧ Tests.ready.clk.phase1Done = true ∧
    Tests.ready.clock.skip = 0 := by decide

/-- The hypotheses of ResetValuesOfTheRegisters can be met. -/
theorem witness_ResetValuesOfTheRegisters : State.reset.readReg 1 0 0x00010020 = 0x2D2D2D2D := by decide +kernel

/-! ### Well-formedness -/

namespace Sys2Proof.Tests

/-- Commands refused for the master: one for each check. -/
theorem test_refuses_masters :
    ([.registerWrite 4097 0 0 32 0,
     .timeIncrLoWrite 4097 0,
     .timeIncrHiWrite 4097 0,
     .timeSetGo 4097 true,
     .capStrobeWrite 4097 0,
     .timeLatch 4097,
     .trigCtrlWrite 4097 0 0,
     .clkModeWrite 4097 0,
     .ndcClear 4097,
     .cntFreezeWrite 4097 0,
     .evselWrite 4097 none 0 0,
     .spireStop 4097 0 0,
     .spireResume 4097 0 0,
     .spireAbort 4097 0,
     .spireFence 4097 0,
     .laneCtrlWrite 4097 0 0,
     .laneRetrain 4097 0,
     .dspReclaimMaskWrite 4097 0,
     .qpCtrlWrite 4097 0 0,
     .sqTailWrite 4097 0 0]
    ++ [.cqHeadWrite 4097 0 0,
     .berxHeadWrite 4097 0,
     .dbMaskWrite 4097 0,
     .mbTxWrite 4097 0 0,
     .mbRxRead 4097 0,
     .mbCtrlWrite 4097 0 0,
     .mbBindWrite 4097 0 0,
     .mbLockWrite 4097 0,
     .relTestCfgWrite 4097 0,
     .relTestLenWrite 4097 0,
     .relDumpClear 4097,
     .relPmClear 4097,
     .watchdogKick 4097] : List Instr).all (fun i => !i.wellFormed) = true := by decide +kernel

/-- Commands refused for the operands of a register access or of a bundle: one for each check. -/
theorem test_refuses_register_and_bundle_fields :
    ([.registerWrite 1 4096 0 32 0,
     .registerWrite 1 0 0x8000000 32 0,
     .registerWrite 1 0 0 65 0,
     .evselWrite 1 (some 32) 0 0,
     .evselWrite 1 (some 0) 8 0,
     .br 0 0x100000,
     .brf 0 0 true 0x100000,
     .vrep 0 4 1 1,
     .vrep 0 0 0x1000 1,
     .vrep 0 0 1 0x10000,
     .issue 0 0x100000,
     .issue 0 1,
     .wplan 0 849936,
     .flags 0 0x10000 0,
     .flags 0 0 0x10000,
     .ctlEnd 0 0x100,
     .rld 0 0 128 0 0,
     .rst 0 0 128 0 0 0,
     .ramo 0 0 128 0 0 0,
     .flag 0 0 128 0 0 0]
    ++ [.spireStop 0 0 4,
     .spireResume 0 0 4,
     .spireLoad 0 ⟨[], 0x100000, 0, 0, [0, 0, 0, 0, 0, 0, 0, 0]⟩,
     .spireLoad 0 ⟨[], 0, 0x100000, 0, [0, 0, 0, 0, 0, 0, 0, 0]⟩,
     .spireLoad 0 ⟨[], 0, 0, 256, [0, 0, 0, 0, 0, 0, 0, 0]⟩,
     .spireLoad 0 ⟨[], 0, 0, 0, []⟩] : List Instr).all (fun i => !i.wellFormed) = true := by decide +kernel

/-- Commands refused for the issuer: one for each check. -/
theorem test_refuses_issuers :
    ([.alloc (.ring 4096 0 0) ⟨0, 1, 0, 0, 0, false⟩,
     .free (.ring 0 8 0) 0 1,
     .move (.ring 0 0 0x10000) ⟨0, 1, 0, 0, false, false⟩,
     .pin (.ring 4096 0 0) 0 1,
     .unpin (.ring 0 8 0) 0 1,
     .query (.ring 0 0 0x10000) 0 1 0,
     .assign (.ring 4096 0 0) 0 1 0,
     .boundary (.ring 0 8 0) 0 [] [],
     .cellConfig (.ring 0 0 0x10000) 0,
     .cellStart (.ring 4096 0 0) 0 0,
     .cellStop (.ring 0 8 0) 0 0,
     .cellClear (.ring 0 0 0x10000) 0,
     .pavaneLoad (.ring 4096 0 0) false 0 1,
     .pavaneActivate (.ring 0 8 0) false 0 0,
     .figureSwitch (.ring 0 0 0x10000) 0 0,
     .pavaneClear (.ring 4096 0 0) false,
     .beSend (.ring 0 8 0) ⟨0, 0, 0, 0, 0, 0, []⟩,
     .rmemOp (.ring 0 0 0x10000) 0 0 0 0,
     .rmemFence (.ring 4096 0 0),
     .jobSubmit (.ring 0 8 0) 0 1 0]
    ++ [.jobCancel (.ring 0 0 0x10000) 0,
     .logStart (.ring 4096 0 0) 0 0 0 0,
     .logFlip (.ring 0 8 0) 0,
     .logStop (.ring 0 0 0x10000) 0,
     .pwrState (.ring 4096 0 0) 0 false,
     .pwrGate (.ring 0 8 0) 0,
     .pwrUngate (.ring 0 0 0x10000) 0,
     .pwrWakeCfg (.ring 4096 0 0) 0,
     .pwrCap (.ring 0 8 0) 0] : List Instr).all (fun i => !i.wellFormed) = true := by decide +kernel

/-- Commands refused for the fields of a queue command: one for each check. -/
theorem test_refuses_queue_fields :
    ([.alloc .dome ⟨0x1000000, 1, 0, 0, 0, false⟩,
     .alloc .dome ⟨0, 0x100000000, 0, 0, 0, false⟩,
     .alloc .dome ⟨0, 1, 0x10000, 0, 0, false⟩,
     .alloc .dome ⟨0, 1, 0, 256, 0, false⟩,
     .alloc .dome ⟨0, 1, 0, 0, 256, false⟩,
     .free .dome 0x1000000 1,
     .free .dome 0 0x100000000,
     .move .dome ⟨0x1000000, 1, 0, 0, false, false⟩,
     .move .dome ⟨0, 0x100000000, 0, 0, false, false⟩,
     .move .dome ⟨0, 1, 256, 0, false, false⟩,
     .move .dome ⟨0, 1, 0, 256, false, false⟩,
     .pin .dome 0x1000000 1,
     .unpin .dome 0 0x100000000,
     .query .dome 0x1000000 1 0,
     .query .dome 0 1 0x10000000000000000,
     .assign .dome 0x1000000 1 0,
     .assign .dome 0 1 0x10000,
     .boundary .dome 0x10000 [] [],
     .boundary .dome 0 [⟨0x1000000, 1, 0⟩] [],
     .boundary .dome 0 [] [⟨0, 0x20000, 0⟩]]
    ++ [.boundary .dome 0 [] [⟨0, 1, 32⟩],
     .boundary .dome 0 (List.replicate 256 ⟨0, 1, 0⟩) [],
     .boundary .dome 0 [] (List.replicate 256 ⟨0, 1, 0⟩),
     .cellStart .dome 0x10000 0,
     .cellStop .dome 0x10000 0,
     .cellClear .dome 0x10000,
     .pavaneLoad .dome false 0x100000000 1,
     .pavaneLoad .dome false 0 256,
     .pavaneActivate .dome false 256 0,
     .figureSwitch .dome 256 0,
     .beSend .dome ⟨0x10000, 0, 0, 0, 0, 0, []⟩,
     .beSend .dome ⟨0, 0x10000, 0, 0, 0, 0, []⟩,
     .beSend .dome ⟨0, 0, 8, 0, 0, 0, []⟩,
     .beSend .dome ⟨0, 0, 0, 4, 0, 0, []⟩,
     .beSend .dome ⟨0, 0, 0, 0, 0x10000, 0, []⟩,
     .beSend .dome ⟨0, 0, 0, 0, 1, 0, []⟩,
     .rmemOp .dome 16 0 0 0,
     .rmemRetransmit 0x4000 0,
     .rmemRetransmit 0 0x1000,
     .rmemTimeout 0x4000 0]
    ++ [.rmemAckSend 0 0x1000,
     .jobSubmit .dome 0x100000000 1 0,
     .jobSubmit .dome 0 0x10000 0,
     .jobSubmit .dome 0 1 0x100000000,
     .jobCancel .dome 0x100000000,
     .jobCompletion 0x100000000,
     .logStart .dome 0x10000 0 0 0,
     .logStart .dome 0 0x100000000 0 0,
     .logStart .dome 0 0 0x10000000000000000 0,
     .logStart .dome 0 0 0 0x100000000,
     .logFlip .dome 0x10000,
     .logStop .dome 0x10000,
     .submissionFetch 0 0 [] [],
     .pwrState .dome 256 false,
     .pwrGate .dome 0x100000000,
     .pwrUngate .dome 0x100000000,
     .pwrCap .dome 0x10000] : List Instr).all (fun i => !i.wellFormed) = true := by decide +kernel

/-- Commands refused for the fields of an event or of a message: one for each check. -/
theorem test_refuses_event_fields :
    ([.flashPageRead 0x1000000 ⟨0, true⟩,
     .flashWriteAck ⟨0x1000000, none⟩,
     .flashRelocation ⟨0x1000000, true⟩,
     .symbolPowerEstimate 0 64,
     .stepFrameTransmit 0 (.bytes (List.replicate 8193 0)),
     .stepFrameReceive 0 ⟨2 ^ 128, 0, [], []⟩,
     .stepFrameReceive 0 ⟨0, 0, [(25, 1)], []⟩,
     .stepFrameReceive 0 ⟨0, 0, [(1, 140)], []⟩,
     .stepFrameReceive 0 ⟨0, 0, [(1, 1), (1, 2)], []⟩,
     .stepFrameReceive 0 ⟨0, 0, [], List.replicate 2817 0⟩,
     .cxlMailboxUnsupported 0x10000,
     .chipLostDeclaration 0x10000,
     .chipReturn 0x10000,
     .pathMonitorSample 0 0x10000,
     .fatalError 256,
     .sensorSample [] (List.replicate 48 0),
     .sensorSample (List.replicate 96 0) [],
     .keyExchange 0x100000000,
     .finish 0x100000000,
     .spdmHeartbeat 0x100000000]
    ++ [.keyUpdate 0x100000000,
     .endSession 0x100000000,
     .vendorDefinedRequest 0x100000000 .other,
     .bundleIssue 0 ⟨false, 37⟩,
     .vectorResult 0 ⟨none, [(32, 1)]⟩,
     .hbmBeat 0 ⟨0, [(0, 37)]⟩,
     .openSlot ⟨0, [(32, 0)]⟩,
     .recoveryImageReceive { BankImg.blank with magic := 0x100000000 },
     .stageComplete ⟨true, { BankImg.blank with records := [0x10000] }⟩,
     .debugTokenReceive ⟨Image.none_, 0, 0, 256⟩,
     .firmwareStart ⟨true, 2 ^ 26 - 1, true, 0⟩,
     .getInfo 0 256,
     .stage 0 256 0 0 0,
     .stage 0 0 0x100000000 0 0,
     .stage 0 0 0 0x100000000 0,
     .stage 0 0 0 0 0x100000000,
     .chipReset 0 256,
     .logRead 0 256 0 0 0,
     .logRead 0 0 0x100000000 0 0,
     .logRead 0 0 0 0x100000000 0]
    ++ [.logRead 0 0 0 0 0x100000000,
     .avsResponse true 4 0,
     .avsResponse true 0 0x10000] : List Instr).all (fun i => !i.wellFormed) = true := by decide +kernel

/-- Commands at the ends of those ranges are well-formed. -/
theorem test_accepts :
    ([.registerWrite 1 0 0 32 0,
     .timeIncrLoWrite 4096 0,
     .timeIncrHiWrite 4096 0,
     .timeSetGo 4096 true,
     .capStrobeWrite 4096 0,
     .timeLatch 4096,
     .trigCtrlWrite 4096 0 0,
     .clkModeWrite 4096 0,
     .ndcClear 4096,
     .cntFreezeWrite 4096 0,
     .evselWrite 4096 none 0 0,
     .spireStop 4096 0 0,
     .spireResume 4096 0 0,
     .spireAbort 4096 0,
     .spireFence 4096 0,
     .laneCtrlWrite 4096 0 0,
     .laneRetrain 4096 0,
     .dspReclaimMaskWrite 4096 0,
     .qpCtrlWrite 4096 0 0,
     .sqTailWrite 4096 0 0]
    ++ [.cqHeadWrite 4096 0 0,
     .berxHeadWrite 4096 0,
     .dbMaskWrite 4096 0,
     .mbTxWrite 4096 0 0,
     .mbRxRead 4096 0,
     .mbCtrlWrite 4096 0 0,
     .mbBindWrite 4096 0 0,
     .mbLockWrite 4096 0,
     .relTestCfgWrite 4096 0,
     .relTestLenWrite 4096 0,
     .relDumpClear 4096,
     .relPmClear 4096,
     .watchdogKick 4096,
     .evselWrite 1 (some 31) 7 0,
     .br 0 0xFFFFF,
     .brf 0 0 true 0,
     .vrep 0 3 0xFFF 0xFFFF,
     .issue 0 0xFFFFE,
     .wplan 0 849935,
     .flags 0 0xFFFF 0xFFFF]
    ++ [.ctlEnd 0 0xFF,
     .rld 0 0 127 0 0,
     .rst 0 0 127 0 0 0,
     .ramo 0 0 127 0 0 0,
     .flag 0 0 127 0 0 0,
     .spireStop 0 0 3,
     .spireResume 0 0 3,
     .spireLoad 0 ⟨[], 0, 0, 0, [0, 0, 0, 0, 0, 0, 0, 0]⟩,
     .alloc (.ring 4095 7 0xFFFF) ⟨0, 1, 0, 0, 0, false⟩,
     .free (.ring 4095 7 0xFFFF) 0 1,
     .move (.ring 4095 7 0xFFFF) ⟨0, 1, 0, 0, false, false⟩,
     .pin (.ring 4095 7 0xFFFF) 0 1,
     .unpin (.ring 4095 7 0xFFFF) 0 1,
     .query (.ring 4095 7 0xFFFF) 0 1 0,
     .assign (.ring 4095 7 0xFFFF) 0 1 0,
     .boundary (.ring 4095 7 0xFFFF) 0 [] [],
     .cellConfig (.ring 4095 7 0xFFFF) 0,
     .cellStart (.ring 4095 7 0xFFFF) 0 0,
     .cellStop (.ring 4095 7 0xFFFF) 0 0,
     .cellClear (.ring 4095 7 0xFFFF) 0]
    ++ [.pavaneLoad (.ring 4095 7 0xFFFF) false 0 1,
     .pavaneActivate (.ring 4095 7 0xFFFF) false 0 0,
     .figureSwitch (.ring 4095 7 0xFFFF) 0 0,
     .pavaneClear (.ring 4095 7 0xFFFF) false,
     .beSend (.ring 4095 7 0xFFFF) ⟨0, 0, 0, 0, 0, 0, []⟩,
     .rmemOp (.ring 4095 7 0xFFFF) 0 0 0 0,
     .rmemFence (.ring 4095 7 0xFFFF),
     .jobSubmit (.ring 4095 7 0xFFFF) 0 1 0,
     .jobCancel (.ring 4095 7 0xFFFF) 0,
     .logStart (.ring 4095 7 0xFFFF) 0 0 0 0,
     .logFlip (.ring 4095 7 0xFFFF) 0,
     .logStop (.ring 4095 7 0xFFFF) 0,
     .pwrState (.ring 4095 7 0xFFFF) 0 false,
     .pwrGate (.ring 4095 7 0xFFFF) 0,
     .pwrUngate (.ring 4095 7 0xFFFF) 0,
     .pwrWakeCfg (.ring 4095 7 0xFFFF) 0,
     .pwrCap (.ring 4095 7 0xFFFF) 0,
     .boundary .dome 0 [⟨0xFFFFFF, 0x1FFFF, 31⟩] [],
     .rmemRetransmit 0x3FFF 0xFFF,
     .rmemTimeout 0 0]
    ++ [.rmemAckSend 0 0,
     .jobCompletion 0xFFFFFFFF,
     .submissionFetch 0 0 (List.replicate 64 0) [],
     .flashPageRead 0xFFFFFF ⟨15, true⟩,
     .flashWriteAck ⟨0, none⟩,
     .flashRelocation ⟨0, true⟩,
     .symbolPowerEstimate 0 63,
     .stepFrameTransmit 0 .none,
     .stepFrameReceive 0 ⟨0, 0, [(24, 139)], []⟩,
     .cxlMailboxUnsupported 0xFFFF,
     .chipLostDeclaration 0xFFFF,
     .chipReturn 0xFFFF,
     .pathMonitorSample 0 0xFFFF,
     .fatalError 255,
     .sensorSample (List.replicate 96 0) (List.replicate 48 0),
     .keyExchange 0xFFFFFFFF,
     .finish 0xFFFFFFFF,
     .spdmHeartbeat 0xFFFFFFFF,
     .keyUpdate 0xFFFFFFFF,
     .endSession 0xFFFFFFFF]
    ++ [.vendorDefinedRequest 0 .other,
     .bundleIssue 0 ⟨false, 36⟩,
     .vectorResult 0 ⟨none, [(31, 36)]⟩,
     .hbmBeat 0 ⟨0, [(0, 36)]⟩,
     .openSlot ⟨0, [(31, 36)]⟩,
     .recoveryImageReceive BankImg.blank,
     .stageComplete ⟨true, BankImg.blank⟩,
     .debugTokenReceive ⟨Image.none_, 0, 0, 255⟩,
     .firmwareStart ⟨true, 2 ^ 26, true, 0⟩,
     .getInfo 0 255,
     .stage 0 255 0 0 0,
     .chipReset 0 255,
     .logRead 0 255 0 0 0,
     .avsResponse true 3 0xFFFF] : List Instr).all Instr.wellFormed = true := by decide +kernel

end Sys2Proof.Tests

/-! ### The spec's worked examples -/

namespace Sys2Proof.Tests

/-- A descriptor of a pass of K = 256 and N = 256 in group A with MXFP8 E4M3 operands (worked example of 04). -/
def bigPass (v init interval : Nat) (outLong : Bool) : PassDesc :=
  { pass0 0 with fmtW := 0, fmtX := 0, k := 256, n := 256, v := v, init := init, interval := interval, outLong := outLong, outFmt := 0 }

/-- 00, worked example: the register base of Spire S29 is 0x0460_0000, so its SEQ block lies there. -/
theorem test_spire_base : towerOf 0x04600000 = some (3, some 29, 0) := by decide

/-- 02, worked example: the slew increment 0x1_2D31_0812 is written low word first. -/
theorem test_slew_increment :
    (match exec (.timeIncrLoWrite 0 0x2D310812) booted with
      | .next s => (match exec (.timeIncrHiWrite 0 1) s with
        | .next t => t.time.incr
        | _ => 0)
      | _ => 0) = 0x12D310812 := by decide +kernel

/-- 04, worked example: the intervals of P1, P2 and P3. -/
theorem test_pass_intervals :
    [(bigPass 768 0 3 true).minInterval, (bigPass 768 2 5 true).minInterval, (bigPass 768 2 3 false).minInterval] = [3, 5, 3] := by
  decide +kernel

/-- 07, worked example: the worst-case length of a pass of V = 1,024 with an exposed load of 256 CCLK. -/
theorem test_worst_length : (bigPass 1024 0 1 false).worstLength = 1296 := by decide +kernel

/-- 05, first worked example: 16.5 grid units round to 16, and the term counts as inexact. -/
theorem test_term_rounds :
    realTerm 60 (decodeElem 0 0x4C) (decodeElem 0 0x3B) (scaleExp 0x7A) (scaleExp 0x81) = ⟨16, true, false⟩ := by decide +kernel

/-- 05, first worked example: with W = 40 the product is exact. -/
theorem test_term_exact :
    realTerm 40 (decodeElem 0 0x4C) (decodeElem 0 0x3B) (scaleExp 0x7A) (scaleExp 0x81) = ⟨17301504, false, false⟩ := by decide +kernel

/-- 05, second worked example: 4096 × 4096 in BF16 with W = 2 is 2^86 grid units. -/
theorem test_term_bf16 : realTerm 2 (decodeElem 8 0x4580) (decodeElem 8 0x4580) (some 0) (some 0) = ⟨2 ^ 86, false, false⟩ := by
  decide +kernel

/-- 05, second worked example: the long value 2^62 converts to BF16 as 0x3F80. -/
theorem test_bf16_one : inferenceOut 8 (2 ^ 62) (-62) = (0x3F80, false) := by decide +kernel

/-- 05, third worked example: the block of 500.3 takes scale byte 0x80. -/
theorem test_mx_scale : mxScale 0 (-4) [8005, 50] + 127 = 0x80 := by decide +kernel

/-- 05, third worked example: under that scale 500.3 becomes 0x78 and 3.1 becomes 0x3C. -/
theorem test_mx_elements : (inferenceOut 0 8005 (-5), inferenceOut 0 50 (-5)) = ((0x78, false), (0x3C, false)) := by decide +kernel

/-- 05, fourth worked example: the block exponent of 21,000, −9,000 and −64 with a 9-bit mantissa is 7. -/
theorem test_bfp_exponent : bfpExp 9 (-15) [21000, -9000, -64] = 7 := by decide +kernel

/-- 05, fourth worked example: the mantissas 164, −70 and 0. -/
theorem test_bfp_mantissas :
    [21000, -9000, -64].map (fun v => toSigned 9 (intOut 9 0 v (-7)).1) = [164, -70, 0] := by decide +kernel

/-- 03, worked example: the completion record of a job that ends at plan CCLK 577,500 of period k + 3, whose start is
1,893,456,000 s and 251,500,000 ns. -/
theorem test_job_end_time :
    (let s := { ready with time := { ready.time with periods := 4, periodTarget := nsUnits (1893456000 * 1000000000 + 251500000) } }
     s.jobPlanTime { job1 with lastPlan := 4 * 850000 + 577500 }) = ⟨1893456000, 251839705, 0xE1E1E1E1⟩ := by decide +kernel

/-- 09, worked example: the 30 kHz slot that starts at the period start 1,893,456,000.25 s has SFN 173 and is slot 0 of its
frame. -/
theorem test_sfn :
    (let g := (radioSlotStart 0 (nsUnits (1893456000 * 1000000000 + 250000000)) (ready.modGroup 0 (fun g => { g with mu := 1 }))).group 0
     (g.sfn, g.slot)) = (173, 0) := by decide +kernel

/-- 11, worked example: the increments of a full cell at WEIGHT 3 and WEIGHT 1. -/
theorem test_finish_tags :
    (ready.finishTag 0 2816 3, ready.finishTag 0 2816 1) = (61516459, 184549376) := by decide +kernel

/-- 14, worked example: record 15 of a ring of 16 slots takes slot 15 with PHASE 1, and the next one slot 0 with PHASE 0. -/
theorem test_phase_turns :
    (let s := (paired 3).modPair 3 0 (fun p => { p with cqLog2 := 4, cqTail := 15, used := 0, waiting := [⟨0⟩] })
     let t := completionRecord 3 0 s
     ((t.pair 3 0).cqTail, (t.pair 3 0).phase)) = (0, false) := by decide +kernel

/-- 15, worked example: a pass of 256 reduction rows in an exposed load of 256 CCLK and 1,024 vectors is 255 + 1,024 + 17 long. -/
theorem test_recompute_length : (bigPass 1024 0 1 false).length 256 = 846451 - 845155 := by decide +kernel

end Sys2Proof.Tests
end

namespace Sys2Proof.Machine
open Sys2Proof

/-! ### The queue -/

/-- Settles O56: exec_moved says what each command does, and it leaves the queue as it was. -/
theorem everyCommandCompletes : Obligations.EveryCommandCompletes := by
  intro c s
  obtain ⟨t, hexec, hmoved⟩ := exec_moved c s
  exact ⟨t, hexec, hmoved.pending⟩

/-! ### Writes of registers -/

section
variable {s : State} {mid page off size n : Nat} {v : Word} {f : State → State}

theorem midAssigned_of_le (h : mid ≤ 4096) : midAssigned mid = true := by simp [midAssigned, h]

/-- A block that runs and whose power domains are on takes the write at once. -/
theorem regWrite_serves (hstop : s.blockStopped off = false) (hon : (domainOf off).all s.domainOn = true) :
    regWrite mid off v f s = f s := by simp [regWrite, hstop, hon]

/-- A write to a gated domain wakes it and waits in the power manager (R35, R569). -/
theorem regWrite_gated (hstop : s.blockStopped off = false) (hoff : (domainOf off).all s.domainOn = false) :
    regWrite mid off v f s = { touchDomains (domainOf off) s with
      pwr := { (touchDomains (domainOf off) s).pwr with
        writes := (touchDomains (domainOf off) s).pwr.writes ++ [(mid, off, v)] } } := by
  simp [regWrite, hstop, hoff]

/-- A write to a block that the power state has stopped returns the chip to Run first (R573). -/
theorem regWrite_stopped (hstop : s.blockStopped off = true) (hon : (domainOf off).all (returnToRun s).domainOn = true) :
    regWrite mid off v f s = f (returnToRun s) := by simp [regWrite, hstop, hon]

theorem bar0Access_listed (h : listed off = true) : bar0Access mid off v s = regWrite mid off v (bar0Write mid off v) s := if_pos h

theorem bar0Access_served (hserves : s.serves off = true) (hlisted : listed off = true) :
    bar0Access mid off v s = bar0Write mid off v s := by
  simp only [State.serves, Bool.and_eq_true, Bool.not_eq_true'] at hserves
  obtain ⟨⟨-, hstop⟩, hon⟩ := hserves
  rw [bar0Access_listed hlisted, regWrite_serves hstop hon]

theorem bar0Access_unlisted (h : listed off = false) : bar0Access mid off v s = s := by simp [bar0Access, h]

theorem registerWrite_unreachable (h : s.reachable = false) : registerWrite mid page off size v s = s := by
  simp [registerWrite, h]

theorem registerWrite_unassigned (hreach : s.reachable = true) (hmid : midAssigned mid = false) :
    registerWrite mid page off size v s = s.emit (.denied mid stBadArg) := by
  simp [registerWrite, hreach, hmid]

theorem registerWrite_bar0 (hreach : s.reachable = true) (hmid : mid ≤ 1) (hoff : off < 0x08000000) (hal : off % 4 = 0) :
    registerWrite mid 0 off 4 v s = bar0Access mid off v s := by
  have hassigned : midAssigned mid = true := midAssigned_of_le (by omega)
  have hnoLease : ¬ 1 < mid := by omega
  have hinside : ¬ 0x08000000 ≤ off := by omega
  simp [registerWrite, alignedAccess, hreach, hassigned, hnoLease, hinside, hal]

/-- A lease does not reach BAR0 (R11). -/
theorem registerWrite_bar0_of_lease (hassigned : midAssigned mid = true) (hmid : 1 < mid) : registerWrite mid 0 off size v s = s := by
  simp [registerWrite, hassigned, hmid]

theorem registerWrite_page (hreach : s.reachable = true) (hn : 1 ≤ n) (hn' : n ≤ 4095) (hoff : off < 0x10000) (hal : off % 4 = 0) :
    registerWrite (n + 1) n off 4 v s = leasePageWrite n off v s := by
  have hassigned : midAssigned (n + 1) = true := midAssigned_of_le (by omega)
  have hpage : n ≠ 0 := by omega
  simp [registerWrite, alignedAccess, hreach, hassigned, hpage, hn', hoff, hal]

/-- A lease's page is reached by the lease's own MID alone (R11). -/
theorem registerWrite_page_of_other (hassigned : midAssigned mid = true) (hmid : mid ≠ page + 1) (hpage : page ≠ 0) :
    registerWrite mid page off size v s = s := by
  simp [registerWrite, hassigned, hmid, hpage]

/-- In Run a register outside every gated domain is served. -/
theorem serves_of_run (hreach : s.reachable = true) (hrun : s.pwr.mode = .run) (hfree : domainOf off = []) : s.serves off = true := by
  simp [State.serves, State.blockStopped, hreach, hrun, hfree]

theorem registerWrite_served (hserves : s.serves off = true) (hmid : mid ≤ 1) (hoff : off < 0x08000000) (hlisted : listed off = true) :
    registerWrite mid 0 off 4 v s = bar0Write mid off v s := by
  have hal : off % 4 = 0 := by
    simp only [listed, Bool.and_eq_true, decide_eq_true_eq] at hlisted
    obtain ⟨hal, -⟩ := hlisted
    exact hal
  have hreach : s.reachable = true := by
    simp only [State.serves, Bool.and_eq_true] at hserves
    obtain ⟨⟨hreach, -⟩, -⟩ := hserves
    exact hreach
  rw [registerWrite_bar0 hreach hmid hoff hal, bar0Access_served hserves hlisted]

theorem bar0Write_timeSetSecLo : bar0Write 0 0x10030 v s = s.modTime (fun t => { t with setSecLo := v }) := rfl

theorem bar0Write_pmAlarmAt :
    bar0Write mid 0x3C2100 v s = s.modRel (fun r => { r with pmAlarmAt := BitVec.ofNat 16 v.toNat }) := rfl

/-- TIME_LATCH on the page of lease `n` takes hall time into that lease's own latch (R60). -/
theorem leasePageWrite_timeLatch (hn : 1 ≤ n) (hn' : n ≤ 4095) :
    leasePageWrite n 0x10 1 s = s.modFunc n (fun f => { f with latch := s.nextHall }) := by
  have hlatch : leasePageWrite n 0x10 1 s = timeLatch (n + 1) s := rfl
  have hlease : n + 1 ≤ 4096 := by omega
  have hother : n + 1 ≠ 1 := by omega
  rw [hlatch, timeLatch, if_neg (Nat.succ_ne_zero n), if_neg hother, if_pos hlease, Nat.add_sub_cancel]

end

theorem exec_registerWrite (mid page off size : Nat) (v : Word) (s : State) :
    exec (.registerWrite mid page off size v) s = .next (registerWrite mid page off size v s) := rfl

/-- Settles O13: each clause is the lemma of its page, MID and power state. -/
theorem registerWritesTakeTheirFields : Obligations.RegisterWritesTakeTheirFields := by
  unfold Obligations.RegisterWritesTakeTheirFields
  simp only [exec_registerWrite, Host.Outcome.next.injEq]
  refine ⟨?bar0, ?page, ?fields, ?latch, ?foreign, ?refused⟩
  case bar0 =>
    intro s mid off v hreach hmid hoff hal
    rw [registerWrite_bar0 hreach hmid hoff hal]
    refine ⟨fun hlisted hserves => bar0Access_served hserves hlisted, bar0Access_unlisted, fun hlisted hstop hgated => ?_,
      fun hlisted hstop hon => ?_⟩
    · rw [bar0Access_listed hlisted, regWrite_gated hstop hgated]
    · rw [bar0Access_listed hlisted, regWrite_stopped hstop hon]
  case page =>
    intro s n off v hreach hn hn' hoff hal
    exact registerWrite_page hreach hn hn' hoff hal
  case fields =>
    intro s v hreach hrun
    have hserves (off : Nat) (hfree : domainOf off = []) := serves_of_run hreach hrun hfree
    constructor
    · exact (registerWrite_served (hserves 0x10030 rfl) (by decide) (by decide) (by decide)).trans bar0Write_timeSetSecLo
    · exact (registerWrite_served (hserves 0x3C2100 rfl) (by decide) (by decide) (by decide)).trans bar0Write_pmAlarmAt
  case latch =>
    intro s n hreach hn hn'
    rw [registerWrite_page hreach hn hn' (by decide) (by decide), leasePageWrite_timeLatch hn hn']
  case foreign =>
    intro s page mid off size v hassigned
    exact ⟨registerWrite_page_of_other hassigned, registerWrite_bar0_of_lease hassigned⟩
  case refused =>
    intro s page mid off size v
    exact ⟨registerWrite_unreachable, registerWrite_unassigned⟩

/-! ### Reads of registers -/

section
variable (s : State) {mid i n q t o off base stride count r : Nat}

/-- Where register `r` of element `i` of an array of registers lies. -/
theorem regIndex_element (hi : i < count) (hr : r < stride) : regIndex (base + stride * i + r) base stride count = some (i, r) := by
  have hin : stride * i + r < stride * count := by
    calc stride * i + r < stride * (i + 1) := by rw [Nat.mul_succ]; omega
      _ ≤ stride * count := Nat.mul_le_mul_left _ hi
  have hsub : base + stride * i + r - base = stride * i + r := by omega
  unfold regIndex
  rw [if_pos ⟨by omega, by omega⟩, hsub, Nat.mul_add_div (by omega), Nat.div_eq_of_lt hr, Nat.mul_add_mod, Nat.mod_eq_of_lt hr,
    Nat.add_zero]

theorem towerOf_below (h : o < 0x01000000) : towerOf o = none := if_neg (by omega)

theorem towerOf_own (ht : t < 4) (ho : o < 0x00100000) : towerOf (0x01000000 * (t + 1) + o) = some (t, none, o) := by
  have hdiv : (0x01000000 * (t + 1) + o) / 0x01000000 - 1 = t := by omega
  have hmod : (0x01000000 * (t + 1) + o) % 0x01000000 = o := by omega
  have hspire : o / 0x00100000 = 0 := Nat.div_eq_of_lt ho
  unfold towerOf
  rw [if_pos ⟨by omega, by omega⟩]
  simp only [hdiv, hmod, hspire, if_true]

theorem readReg_bar0 (hmid : mid ≤ 1) : s.readReg mid 0 o = word (s.bar0Reg mid o) := by simp [State.readReg, hmid]

/-- An offset that lies among Tower `t`'s own registers reads the Tower's register (R9). -/
theorem bar0Reg_of_towerOf (h : towerOf off = some (t, none, o)) : s.bar0Reg mid off = s.towerReg t o := by
  simp only [State.bar0Reg, h]

theorem bar0Reg_traffic (ho : o < 0x80000) : s.bar0Reg mid (0x200000 + o) = s.trafficReg o := by
  have hsub : 0x200000 + o - 0x200000 = o := by omega
  unfold State.bar0Reg
  rw [towerOf_below (by omega), hsub]
  dsimp only
  iterate 9 rw [if_neg (by omega)]
  rw [if_pos (by omega)]

/-- BEQ_n_q's registers lie 0x20 apart within lane `n`'s 0x200 (R399). -/
theorem trafficReg_beQueue (hn : n < 64) (hq : q < 8) (ho : o < 0x20) :
    s.trafficReg (0x1000 + 0x200 * n + (0x20 * q + o)) = (s.beQueue n q).reg o := by
  have hblock : 0x20 * q + o < 0x100 := by omega
  have hdiv : (0x20 * q + o) / 0x20 = q := by omega
  have hmod : (0x20 * q + o) % 0x20 = o := by omega
  unfold State.trafficReg
  rw [regIndex_element hn (by omega)]
  simp only [hblock, hdiv, hmod, if_true]

theorem readReg_beQueue (hn : n < 64) (hq : q < 8) (ho : o < 0x20) :
    s.readReg 1 0 (0x00201000 + 0x200 * n + 0x20 * q + o) = word ((s.beQueue n q).reg o) := by
  have hoff : 0x00201000 + 0x200 * n + 0x20 * q + o = 0x200000 + (0x1000 + 0x200 * n + (0x20 * q + o)) := by omega
  rw [readReg_bar0 s (by decide), hoff, bar0Reg_traffic s (by omega), trafficReg_beQueue s hn hq ho]

theorem readReg_tower (ht : t < 4) (ho : o < 0x00100000) : s.readReg 1 0 (0x01000000 * (t + 1) + o) = word (s.towerReg t o) := by
  rw [readReg_bar0 s (by decide), bar0Reg_of_towerOf s (towerOf_own ht ho)]

end

theorem reset_beQueue (n q : Nat) : State.reset.beQueue n q = BeQueue.reset := rfl

theorem reset_towerPower (t : Fin 4) : State.reset.towerPower t = 0xC000000F := by revert t; decide

/-- Settles O60: the single registers by evaluating the reset state, the arrays by the lemma of their block. -/
theorem resetValuesOfTheRegisters : Obligations.ResetValuesOfTheRegisters := by
  refine ⟨by decide +kernel, by decide +kernel, fun n q => ?_, fun t => ?_⟩
  · have h (o : Nat) (ho : o < 0x20) : State.reset.readReg 1 0 (0x00201000 + 0x200 * n + 0x20 * q + o) = word (BeQueue.reset.reg o) := by
      rw [readReg_beQueue _ n.isLt q.isLt ho, reset_beQueue]
    exact ⟨h 0 (by decide), h 4 (by decide), h 12 (by decide)⟩
  · have h (o : Nat) (ho : o < 0x00100000) := readReg_tower State.reset t.isLt ho
    refine ⟨h 0 (by decide), (h 4 (by decide)).trans ?_⟩
    exact congrArg word (reset_towerPower t)

end Sys2Proof.Machine

namespace Sys2Proof.Machine
open Sys2Proof

/-! ### The tick of the clock root -/

section
variable {s : State}

/-- The state in which a tick of the root makes its CCLK edge: the root's count has risen. -/
def State.ticked (s : State) : State := { s with clock := { s.clock with tick := s.clock.tick + 1 } }

/-- A droop suppresses the edge (R98). -/
theorem cclkEdge_suppressed (h : 0 < s.clock.skip) : (cclkEdge s).slow = { s.slow with clock := { s.clock with skip := s.clock.skip - 1 } } := by
  unfold cclkEdge
  rw [if_pos h]
  rfl

/-- In Run the edge counts in SPC_CYCLE and in the plan position (R31, R103), whatever the Spires do in it. -/
theorem cclkEdge_runs (hskip : s.clock.skip = 0) (hrun : s.cclkRuns = true) :
    (cclkEdge s).slow = { s.slow with clock := { s.clock with edges := s.clock.edges + 1, plan := s.clock.plan + 1 } } := by
  unfold cclkEdge
  rw [if_neg (by omega), if_pos hrun]
  exact foldl_slow _ _ _ spireCycle_slow

/-- In Idle the plan position goes on alone (R570). -/
theorem cclkEdge_idle (hskip : s.clock.skip = 0) (hphase : s.clk.phase1Done = true) (hmode : s.pwr.mode = .idle) :
    (cclkEdge s).slow = { s.slow with clock := { s.clock with plan := s.clock.plan + 1 } } := by
  unfold cclkEdge
  rw [if_neg (by omega), if_neg (by simp [State.cclkRuns, hmode]), if_pos (by simp [hphase, hmode])]
  rfl

/-- Before phase 1 of the Minuet, and in a power state other than Run and Idle, no CCLK edge counts. -/
theorem cclkEdge_stopped (hskip : s.clock.skip = 0) (hstop : s.clk.phase1Done = false ∨ (s.pwr.mode ≠ .run ∧ s.pwr.mode ≠ .idle)) :
    cclkEdge s = s := by
  unfold cclkEdge State.cclkRuns
  rw [if_neg (by omega)]
  rcases hstop with hphase | ⟨hrun, hidle⟩
  · simp [hphase]
  · simp [hrun, hidle]

/-- Whatever a CCLK edge does, of the slow part it moves the clock alone, and there neither the root's count nor BCLK's. -/
theorem cclkEdge_slow (s : State) : ∃ c : ClockState, (cclkEdge s).slow = { s.slow with clock := c } ∧ c.tick = s.clock.tick ∧ c.bclk = s.clock.bclk := by
  by_cases hskip : 0 < s.clock.skip
  · exact ⟨_, cclkEdge_suppressed hskip, rfl, rfl⟩
  have hskip : s.clock.skip = 0 := by omega
  by_cases hrun : s.cclkRuns = true
  · exact ⟨_, cclkEdge_runs hskip hrun, rfl, rfl⟩
  by_cases hidle : s.clk.phase1Done = true ∧ s.pwr.mode = .idle
  · exact ⟨_, cclkEdge_idle hskip hidle.1 hidle.2, rfl, rfl⟩
  · refine ⟨s.clock, congrArg State.slow (cclkEdge_stopped hskip ?_), rfl, rfl⟩
    cases hphase : s.clk.phase1Done <;> simp_all [State.cclkRuns]

@[simp] theorem hallEdge_slow (h : HallTime) (s : State) : (hallEdge h s).slow = { s.slow with hall := h, edge := none } := rfl

@[simp] theorem bclkEdge_slow (s : State) : (bclkEdge s).slow = { s.slow with clock := { s.clock with bclk := s.clock.bclk + 1 } } := by
  unfold bclkEdge
  rw [avsSend_slow, routeReady_slow]
  rfl

theorem rootTick_held (h : s.clk.pendingReset.isSome = true) : rootTick s = s := if_pos h

/-- A tick without a BCLK edge is a CCLK edge alone. -/
theorem rootTick_cclk (hheld : s.clk.pendingReset = none) (h : (s.clock.tick + 1) % 2 = 1 ∨ s.clk.phase1Done = false) :
    (rootTick s).slow = (cclkEdge s.ticked).slow := by
  have hno : ¬ ((decide ((s.clock.tick + 1) % 2 = 0) && s.clk.phase1Done) = true) := by
    rcases h with h | h <;> simp [h]
  unfold rootTick
  rw [if_neg (by simp [hheld])]
  dsimp only
  rw [if_neg hno, minuetTick_slow]
  rfl

/-- A tick with a BCLK edge: hall time's own tick is never suppressed, the rest of BCLK is with the CCLK edge (R51, R98). -/
theorem rootTick_bclk (hheld : s.clk.pendingReset = none) (heven : (s.clock.tick + 1) % 2 = 0) (hphase : s.clk.phase1Done = true) :
    (rootTick s).slow = { (cclkEdge s.ticked).slow with
      hall := s.nextHall, edge := none
      clock := if 0 < s.clock.skip then (cclkEdge s.ticked).clock
        else { (cclkEdge s.ticked).clock with bclk := (cclkEdge s.ticked).clock.bclk + 1 } } := by
  have hhall (u : State) (n : Nat) (h : HallTime) : (slotStartsPass n (hallEdge h (minuetTick u))).slow = { u.slow with hall := h, edge := none } := by
    rw [slotStartsPass_slow, hallEdge_slow, minuetTick_slow]
  unfold rootTick
  rw [if_neg (by simp [hheld])]
  dsimp only
  rw [if_pos (by simp [heven, hphase])]
  split
  · exact hhall _ _ _
  · rw [bclkEdge_slow, hhall]
    exact congrArg (fun c : ClockState => { (cclkEdge s.ticked).slow with
      hall := s.nextHall, edge := none, clock := { c with bclk := c.bclk + 1 } }) (congrArg Slow.clock (hhall _ _ _))

end

theorem step_idle {s : State} (h : s.pending = []) : step s = .next (rootTick s) := by
  unfold step
  rw [h]
  rfl

/-- A tick of a chip that no reset holds raises the root's count, makes the CCLK edge, and makes the BCLK edge where one is due. -/
theorem rootTick_clock {s : State} (hheld : s.clk.pendingReset = none) :
    (rootTick s).pending = s.pending ∧ (rootTick s).clock.tick = s.clock.tick + 1 ∧
      (rootTick s).clock.skip = (cclkEdge s.ticked).clock.skip ∧ (rootTick s).clock.edges = (cclkEdge s.ticked).clock.edges ∧
      (rootTick s).clock.plan = (cclkEdge s.ticked).clock.plan := by
  obtain ⟨c, hedge, htick, -⟩ := cclkEdge_slow s.ticked
  have hclock : (cclkEdge s.ticked).clock = c := congrArg Slow.clock hedge
  have hpending : (cclkEdge s.ticked).pending = s.pending := congrArg Slow.pending hedge
  by_cases hb : (s.clock.tick + 1) % 2 = 0 ∧ s.clk.phase1Done = true
  · have h := rootTick_bclk hheld hb.1 hb.2
    refine ⟨(congrArg Slow.pending h).trans hpending, ?_⟩
    rw [show (rootTick s).clock = _ from congrArg Slow.clock h, hclock]
    dsimp only
    split <;> exact ⟨htick, rfl, rfl, rfl⟩
  · rw [Decidable.not_and_iff_not_or_not, Nat.mod_two_not_eq_zero, Bool.not_eq_true] at hb
    have h := rootTick_cclk hheld hb
    rw [show (rootTick s).clock = _ from congrArg Slow.clock h]
    exact ⟨(congrArg Slow.pending h).trans hpending, (congrArg ClockState.tick hclock).trans htick, rfl, rfl, rfl⟩

/-- Settles O59: the rules of the CCLK edge for the plan position and SPC_CYCLE, those of the BCLK edge for hall time. -/
theorem idleStepTicks : Obligations.IdleStepTicks := by
  unfold Obligations.IdleStepTicks
  refine ⟨fun s hpending hheld => (step_idle hpending).trans (congrArg _ (rootTick_held hheld)), ?_⟩
  intro s hpending hheld _
  obtain ⟨hkept, htick, hskip, hedges, hplan⟩ := rootTick_clock hheld
  obtain ⟨c, hedge, -, hbclk⟩ := cclkEdge_slow s.ticked
  have hclock : (cclkEdge s.ticked).clock = c := congrArg Slow.clock hedge
  have hcounts {x : Slow} (h : (cclkEdge s.ticked).slow = x) :
      (rootTick s).clock.edges = x.clock.edges ∧ (rootTick s).clock.plan = x.clock.plan :=
    ⟨hedges.trans (congrArg (fun y => y.clock.edges) h), hplan.trans (congrArg (fun y => y.clock.plan) h)⟩
  refine ⟨rootTick s, step_idle hpending, htick, hkept.trans hpending, ?suppressed, ?run, ?idle, ?stopped, ?bclk, ?between⟩
  case suppressed =>
    intro h
    have hs := cclkEdge_suppressed (s := s.ticked) h
    have hcounts := hcounts hs
    exact ⟨hskip.trans (congrArg (fun x => x.clock.skip) hs), hcounts⟩
  case run =>
    intro h hphase hmode
    exact hcounts (cclkEdge_runs (s := s.ticked) h (by simp [State.cclkRuns, State.ticked, hphase, hmode]))
  case idle =>
    intro h hphase hmode
    exact hcounts (cclkEdge_idle (s := s.ticked) h hphase hmode)
  case stopped =>
    intro h hstop
    have hcounts := hcounts (congrArg State.slow (cclkEdge_stopped (s := s.ticked) h
      (hstop.imp_right fun hsleep => by simp [State.ticked, hsleep])))
    exact hcounts
  case bclk =>
    intro heven hphase
    have h := rootTick_bclk hheld heven hphase
    refine ⟨congrArg Slow.hall h, ?_⟩
    rw [show (rootTick s).clock = _ from congrArg Slow.clock h, hclock]
    dsimp only
    split
    · exact hbclk
    · exact congrArg (· + 1) hbclk
  case between =>
    intro h
    have hs := rootTick_cclk hheld h
    exact ⟨(congrArg Slow.hall hs).trans (congrArg Slow.hall hedge),
      (congrArg (fun x => x.clock.bclk) (hs.trans hedge)).trans hbclk⟩

/-! ### A Tower leaves service -/

section
variable {s : State} {n : Nat}

/-- Taking a Tower out of service fences its Spires, none of which is in the slow part (R28, R46). -/
theorem towerOut_slow (n : Nat) (s : State) : (towerOut n s).slow = { s.slow with
    fail := s.clk.towerFail ||| BitVec.twoPow 4 n, out := s.rel.towerOut ||| BitVec.twoPow 4 n } := by
  unfold towerOut
  exact foldl_slow _ _ _ (fun u k => by rw [fenceSpire_slow, State.modHealth_slow])

/-- The record of the loss, what the lost stacks held and the move of the map are outside the slow part (R47, R263). -/
theorem ucieTrainingLoss_slow (hdone : s.clk.done = true) (hn : n < 4) (hin : s.rel.towerOut.getLsbD n = false) :
    (ucieTrainingLoss n s).slow = (towerOut n s).slow := by
  unfold ucieTrainingLoss
  rw [if_pos (by rw [hdone, hin, decide_eq_true hn]; rfl)]
  dsimp only
  split
  · rw [mapTowerLost_slow, dropQueues_slow, loseTower_slow, errRecord_slow]
  · rw [dropQueues_slow, loseTower_slow, errRecord_slow]

theorem ucieTrainingLoss_ignored (h : s.clk.done = false ∨ s.rel.towerOut.getLsbD n = true) : ucieTrainingLoss n s = s := by
  unfold ucieTrainingLoss
  rw [if_neg]
  rcases h with h | h <;> simp [h]

end

theorem exec_ucieTrainingLoss (k : Fin 4) (s : State) : exec (.ucieTrainingLoss k) s = .next (ucieTrainingLoss k s) := rfl

/-- Settles O12: of the slow part, a loss changes what taking the Tower out changes. -/
theorem linkLossTakesTheTowerOut : Obligations.LinkLossTakesTheTowerOut := by
  unfold Obligations.LinkLossTakesTheTowerOut
  refine ⟨fun s k hdone hin => ?_, fun s k h => (exec_ucieTrainingLoss k s).trans (congrArg _ (ucieTrainingLoss_ignored h))⟩
  have hloss := (ucieTrainingLoss_slow hdone k.isLt hin).trans (towerOut_slow k s)
  exact ⟨_, exec_ucieTrainingLoss k s, congrArg Slow.out hloss, congrArg Slow.fail hloss, congrArg Slow.hall hloss,
    congrArg Slow.locked hloss⟩

/-! ### Trigger channels -/

section
variable {s t : State} {n m : Nat}

@[simp] theorem trigger_modTrigger (s : State) (n : Nat) (f : TrigChan → TrigChan) : (s.modTrigger n f).trigger n = f (s.trigger n) :=
  Tab.get_modify_same _ _ _ _

theorem trigger_modTrigger_ne (f : TrigChan → TrigChan) (h : n ≠ m) : (s.modTrigger m f).trigger n = s.trigger n :=
  Tab.get_modify_other _ _ _ (Ne.symm h)

theorem trigger_of_trig (h : t.trig = s.trig) (n : Nat) : t.trigger n = s.trigger n := congrArg (·.get TrigChan.reset n) h

theorem mem_firing : n ∈ s.firing ↔ n < 32 ∧ (s.trigger n).armed = true ∧ (s.trigger n).target ≤ s.now := by
  simp [State.firing, TrigChan.due]

theorem firing_nodup (s : State) : s.firing.Nodup := List.nodup_range.filter _

/-! ### What the actions leave of the trigger channels -/

/-- A period start changes of the slow part what its clocks change, at the increment that then waits. -/
theorem periodStart_slow (target : Nat) (s : State) : ∃ u : State, u.slow = s.slow ∧ (periodStart target s).slow = (clocksPeriod u).slow := by
  refine ⟨livenessPeriod (drainPeriodEnd (takeActivation target (takeSwitch target s))), ?_, ?_⟩
  · rw [livenessPeriod_slow, drainPeriodEnd_slow, takeActivation_slow, takeSwitch_slow]
  · unfold periodStart
    dsimp only
    split
    · rw [healthPeriod_slow, beSample_slow]; rfl
    · rw [retestQueue_slow, healthPeriod_slow, beSample_slow]; rfl

theorem periodStart_trig (target : Nat) (s : State) : (periodStart target s).trig = s.trig := by
  obtain ⟨u, hu, hperiod⟩ := periodStart_slow target s
  exact (congrArg Slow.trig hperiod).trans (congrArg Slow.trig hu)

/-- A waiting increment within 75 ppm takes force, whether a Pavane is active or not (R54, R63). -/
theorem periodIncr_of_inRange (h : ∀ x, s.time.incrNext = some x → incrInActiveRange x = true) :
    s.periodIncr = s.time.incrNext.getD s.time.incr := by
  unfold State.periodIncr
  cases hnext : s.time.incrNext with
  | none => rfl
  | some x => simp [h x hnext]

theorem commitIncr_trig (x : Nat) (s : State) : (commitIncr x s).trig = s.trig := by
  unfold commitIncr
  split <;> rfl

theorem holdOver_trig (s : State) : (holdOver s).trig = s.trig := by
  have hservo : (ringDome 7 (setServo tsHoldover (s.modTime (fun t => { t with inBound := 0 })))).slow = s.slow := by simp
  exact (commitIncr_trig _ _).trans (congrArg Slow.trig hservo)

theorem enterLight_trig (mode : PowerMode) (s : State) : (enterLight mode s).trig = s.trig := by
  have hlanes : (if mode = .sleep then lanesOff 21 (lanesOff 20 s) else s).slow = s.slow := by split <;> simp
  unfold enterLight
  dsimp only
  rw [State.modPwr_trig]
  split
  · exact (holdOver_trig _).trans (congrArg Slow.trig hlanes)
  · exact congrArg Slow.trig hlanes

theorem enterPower_trig (mode : PowerMode) (who : Option Issuer) (s : State) : (enterPower mode who s).1.trig = s.trig := by
  cases mode with
  | idle => exact enterLight_trig _ s
  | sleep => exact enterLight_trig _ s
  | run | deep | off => rfl

theorem powerEntryFires_trig (s : State) : (powerEntryFires s).trig = s.trig := by
  unfold powerEntryFires
  split
  · rfl
  · dsimp only
    split
    · exact enterPower_trig _ _ _
    · rfl

theorem fireAction_trig (old : State) (c : TrigChan) (s : State) : (fireAction old c s).trig = s.trig := by
  unfold fireAction
  dsimp only
  split
  · exact periodStart_trig _ s
  · refine congrArg Slow.trig (?_ : State.slow _ = s.slow)
    split <;> simp
  · exact congrArg Slow.trig (radioSlotStart_slow _ _ s)
  · exact congrArg Slow.trig (snapshot_slow old s)
  · exact powerEntryFires_trig s
  · exact congrArg Slow.trig (pinEdge_slow _ _ s)
  · exact congrArg Slow.trig (ringMid_slow _ _ s)
  · rfl

theorem channelActs_trig (old s : State) (n : Nat) : (channelActs old s n).trig = s.trig := by
  unfold channelActs
  dsimp only
  split
  · exact congrArg Slow.trig (suppressAction_slow _ s)
  · exact fireAction_trig old _ s

/-! ### Writes that waited for a firing -/

/-- One write that waited for the firing of channel `n` takes effect. -/
def lateWrite (n : Nat) (t : State) (w : Nat × Nat × Word) : State :=
  if w.1 = 0 then trigCtrlTakes w.2.1 n w.2.2 t else t.modTrigger n (fun c => c.regWrite w.2.1 w.1 t.now w.2.2)

theorem lateWrites_eq (s : State) (n : Nat) :
    lateWrites s n = (s.trigger n).late.foldl (lateWrite n) (s.modTrigger n (fun c => { c with late := [] })) := rfl

theorem trigCtrlTakes_trigger_ne (mid : Nat) (v : Word) (h : n ≠ m) : (trigCtrlTakes mid m v s).trigger n = s.trigger n := by
  unfold trigCtrlTakes
  dsimp only
  split
  · exact (trigger_of_trig (congrArg Slow.trig (radioSlotsLost_slow _ _ _ _)) n).trans (trigger_modTrigger_ne _ h)
  · exact trigger_modTrigger_ne _ h

theorem lateWrite_trigger_ne (w : Nat × Nat × Word) (h : n ≠ m) : (lateWrite m s w).trigger n = s.trigger n := by
  unfold lateWrite
  split
  · exact trigCtrlTakes_trigger_ne _ _ h
  · exact trigger_modTrigger_ne _ h

/-- The writes that waited on one channel leave every other. -/
theorem lateWrites_trigger_ne (h : n ≠ m) : (lateWrites s m).trigger n = s.trigger n := by
  rw [lateWrites_eq, foldl_keeps (fun t => t.trigger n) (lateWrite m) _ _ (fun _ w => lateWrite_trigger_ne w h)]
  exact trigger_modTrigger_ne _ h

theorem lateWrites_trigger_of_none (h : (s.trigger n).late = []) : (lateWrites s n).trigger n = s.trigger n := by
  rw [lateWrites_eq, h, List.foldl_nil, trigger_modTrigger, ← h]

/-- Writes of registers other than TRIG_n_CTRL change the channel alone, one after the other. -/
theorem lateWrite_foldl_registers (l : List (Nat × Word)) (s : State) (n : Nat) :
    let t := (l.map (fun w => (w.1 + 4, 0, w.2))).foldl (lateWrite n) s
    t = { s with trig := t.trig } ∧ t.trigger n = l.foldl (fun c w => c.regWrite 0 (w.1 + 4) s.now w.2) (s.trigger n) := by
  induction l generalizing s with
  | nil => exact ⟨rfl, rfl⟩
  | cons w l ih =>
    obtain ⟨hframe, hchan⟩ := ih (lateWrite n s (w.1 + 4, 0, w.2))
    have hwrite : lateWrite n s (w.1 + 4, 0, w.2) = s.modTrigger n (fun c => c.regWrite 0 (w.1 + 4) s.now w.2) := if_neg (Nat.succ_ne_zero _)
    rw [hwrite] at hframe hchan
    simp only [List.map_cons, List.foldl_cons, hwrite]
    refine ⟨hframe, hchan.trans ?_⟩
    rw [trigger_modTrigger]
    rfl

/-- Waiting writes of registers other than TRIG_n_CTRL change the channel alone, in their order (R77). -/
theorem lateWrites_registers {l : List (Nat × Word)} (h : (s.trigger n).late = l.map (fun w => (w.1 + 4, 0, w.2))) :
    lateWrites s n = { s with trig := (lateWrites s n).trig } ∧
      (lateWrites s n).trigger n = l.foldl (fun c w => c.regWrite 0 (w.1 + 4) s.now w.2) { s.trigger n with late := [] } := by
  obtain ⟨hframe, hchan⟩ := lateWrite_foldl_registers l (s.modTrigger n (fun c => { c with late := [] })) n
  rw [lateWrites_eq, h]
  refine ⟨hframe, hchan.trans ?_⟩
  rw [trigger_modTrigger]
  rfl

end

/-! ### TRIGGER_FIRE -/

section
variable {s : State} {n : Nat}

/-- The state once the channels that are due have fired, before any action (R75). -/
def State.fired (s : State) : State :=
  { s with trig := s.trig.modifyAll TrigChan.reset s.firing (fun n => TrigChan.fired (s.suppresses (s.trigger n))) }

/-- The channels that fire, in the order in which their actions take effect (R79). -/
def State.actingInOrder (s : State) : List Nat :=
  actionOrder.flatMap (fun a => s.firing.filter (fun n => (s.trigger n).action.toNat == a))

theorem foldl_modTrigger (g : Nat → TrigChan → TrigChan) (l : List Nat) (s : State) :
    l.foldl (fun t n => t.modTrigger n (g n)) s = { s with trig := s.trig.modifyAll TrigChan.reset l g } := by
  induction l generalizing s with
  | nil => rfl
  | cons n l ih => exact ih _

theorem triggerFire_runs (h : s.timeRuns = true) :
    triggerFire s = s.firing.foldl lateWrites (s.actingInOrder.foldl (channelActs s) s.fired) := by
  unfold triggerFire
  rw [if_neg (by simp [h])]
  dsimp only
  rw [foldl_modTrigger]
  rfl

theorem fired_trigger (s : State) (n : Nat) :
    s.fired.trigger n = if n ∈ s.firing then (s.trigger n).fired (s.suppresses (s.trigger n)) else s.trigger n :=
  Tab.get_modifyAll _ _ _ _ _ (firing_nodup s)

/-- No action changes a trigger channel. -/
theorem acted_trigger (s : State) (n : Nat) : (s.actingInOrder.foldl (channelActs s) s.fired).trigger n = s.fired.trigger n :=
  trigger_of_trig (foldl_keeps State.trig _ _ _ (channelActs_trig s)) n

theorem triggerFire_trigger_due (hruns : s.timeRuns = true) (hdue : n ∈ s.firing) (hlate : (s.trigger n).late = []) :
    (triggerFire s).trigger n = (s.trigger n).fired (s.suppresses (s.trigger n)) := by
  have hfired := (acted_trigger s n).trans ((fired_trigger s n).trans (if_pos hdue))
  rw [triggerFire_runs hruns]
  refine List.foldlRecOn _ _ (motive := fun t => State.trigger t n = _) hfired (fun t ht m _ => ?_)
  by_cases hm : n = m
  · subst hm
    exact (lateWrites_trigger_of_none (ht ▸ hlate)).trans ht
  · exact (lateWrites_trigger_ne hm).trans ht

theorem triggerFire_trigger_idle (hruns : s.timeRuns = true) (hidle : n ∉ s.firing) : (triggerFire s).trigger n = s.trigger n := by
  have hfired := (acted_trigger s n).trans ((fired_trigger s n).trans (if_neg hidle))
  rw [triggerFire_runs hruns]
  refine List.foldlRecOn _ _ (motive := fun t => State.trigger t n = _) hfired (fun t ht m hm => ?_)
  exact (lateWrites_trigger_ne (ne_of_mem_of_not_mem hm hidle).symm).trans ht

/-! ### One channel that fires alone -/

theorem actingInOrder_single (hfiring : s.firing = [n]) (h : (s.trigger n).action.toNat ∈ actionOrder) : s.actingInOrder = [n] := by
  have hcases : ∀ a ∈ actionOrder, actionOrder.flatMap (fun b => if a == b then [n] else []) = [n] := by
    simp [actionOrder]
  simpa [State.actingInOrder, hfiring, List.filter_cons] using hcases _ h

/-- A channel that fires alone: its action, then the writes that waited on it. -/
theorem triggerFire_single (hruns : s.timeRuns = true) (hfiring : s.firing = [n]) (haction : (s.trigger n).action.toNat ∈ actionOrder)
    (hacts : s.suppresses (s.trigger n) = false) : triggerFire s = lateWrites (fireAction s (s.trigger n) s.fired) n := by
  rw [triggerFire_runs hruns, hfiring, actingInOrder_single hfiring haction]
  simp only [List.foldl_cons, List.foldl_nil, channelActs, hacts, Bool.false_eq_true, if_false]

theorem suppresses_interruptToDome {c : TrigChan} (haction : c.action = 7) (hmid : c.mid = 0) : s.suppresses c = false := by
  simp [State.suppresses, State.actionNeeds, haction, hmid]

theorem suppresses_periodStart {c : TrigChan} (haction : c.action = 1) (hmode : s.pwr.mode ≠ .sleep) : s.suppresses c = false := by
  simp [State.suppresses, State.actionNeeds, haction, hmode]

theorem fireAction_interruptToDome (old : State) {c : TrigChan} (haction : c.action = 7) (hmid : c.mid = 0) :
    fireAction old c s = ringDome c.arg.toNat s := by
  simp [fireAction, haction, hmid, ringMid]

theorem fireAction_periodStart (old : State) {c : TrigChan} (haction : c.action = 1) : fireAction old c s = periodStart c.target s := by
  simp [fireAction, haction]

end

theorem exec_triggerFire (s : State) : exec .triggerFire s = .next (triggerFire s) := rfl

/-- Settles O9: firings by the channels' own rules, and the two actions as what a channel that fires alone does. -/
theorem triggersFireAndAdvance : Obligations.TriggersFireAndAdvance := by
  unfold Obligations.TriggersFireAndAdvance
  refine ⟨?channels, ?interrupt, ?periodStart⟩
  case channels =>
    intro s hruns
    refine ⟨_, exec_triggerFire s, fun n hn => ⟨fun hdue hlate => ?_, fun hidle => ?_⟩⟩
    · exact triggerFire_trigger_due hruns (mem_firing.mpr ⟨hn, hdue⟩) hlate
    · exact triggerFire_trigger_idle hruns (fun hmem => hidle (mem_firing.mp hmem).2)
  case interrupt =>
    intro s n l hruns hfiring haction hmid hlate fired
    have hacts := suppresses_interruptToDome (s := s) haction hmid
    have hfire := triggerFire_single hruns hfiring (by rw [haction]; decide) hacts
    have hfired : s.fired.trigger n = (s.trigger n).fired false := by rw [fired_trigger, if_pos (by simp [hfiring]), hacts]
    rw [fireAction_interruptToDome s haction hmid] at hfire
    obtain ⟨hframe, hchan⟩ := lateWrites_registers (s := ringDome (s.trigger n).arg.toNat s.fired)
      ((congrArg TrigChan.late hfired).trans hlate)
    rw [← hfire] at hframe hchan
    have hdome := congrArg State.dome hframe
    refine ⟨_, exec_triggerFire s, hdome, hchan.trans ?_, hframe.trans ?_⟩
    · have hchannel : { s.fired.trigger n with late := [] } = fired := by simp [hfired, TrigChan.fired, fired]
      exact congrArg (List.foldl _ · l) hchannel
    · rw [hdome]
      rfl
  case periodStart =>
    intro s n hruns hfiring haction hmode hlate hincr
    have hfire := triggerFire_single hruns hfiring (by rw [haction]; decide) (suppresses_periodStart haction hmode)
    rw [fireAction_periodStart s haction] at hfire
    have hlater : ((periodStart (s.trigger n).target s.fired).trigger n).late = [] := by
      rw [trigger_of_trig (periodStart_trig _ _), fired_trigger, if_pos (by simp [hfiring])]
      exact hlate
    obtain ⟨u, hu, hperiod⟩ := periodStart_slow (s.trigger n).target s.fired
    have hslow : (triggerFire s).slow = { (clocksPeriod u).slow with trig := (triggerFire s).trig } := by
      rw [← hperiod, hfire, lateWrites_eq, hlater]
      rfl
    have hnext : u.time.incrNext = s.time.incrNext := congrArg Slow.next hu
    have hforce : u.periodIncr = s.time.incrNext.getD s.time.incr := by
      rw [periodIncr_of_inRange (hnext ▸ hincr), hnext, show u.time.incr = s.time.incr from congrArg Slow.incr hu]
    exact ⟨_, exec_triggerFire s, congrArg (fun x => x.clock.plan) hslow, (congrArg Slow.incr hslow).trans hforce⟩

end Sys2Proof.Machine

namespace Sys2Proof.Machine
open Sys2Proof

/-! ### The operating mode and droops -/

section
variable {s : State} {mid cat : Nat} {v : Word}

theorem clkModeWrite_refused (hmid : mid ≤ 1) (hmode : bitW v 0 = true) (hbusy : s.radioBusy = true) :
    clkModeWrite mid v.toNat s = { s with clk := { s.clk with modeStatus := 1 } } := by
  unfold clkModeWrite
  rw [if_neg (by omega), if_pos (by rw [hbusy, Bool.and_true]; exact hmode)]
  rfl

theorem clkModeWrite_staged (hmid : mid ≤ 1) (h : ¬ (bitW v 0 = true ∧ s.radioBusy = true)) :
    clkModeWrite mid v.toNat s = { s with clk := { s.clk with modeStatus := 0, modeStaged := bitW v 0 } } := by
  unfold clkModeWrite
  rw [if_neg (by omega), if_neg (by rwa [Bool.and_eq_true])]
  rfl

/-- Attribution to jobs changes the records of the running jobs alone (R102). -/
theorem foldl_blameJob (n : Nat) (jobs : List Nat) (s : State) :
    ∃ d : DspState, jobs.foldl (fun t j => blameJob j n t) s = { s with dsp := d } := by
  induction jobs generalizing s with
  | nil => exact ⟨s.dsp, rfl⟩
  | cons j jobs ih => exact ih (blameJob j n s)

/-- The non-determinism counts with `n` more in a category and in the total. -/
def ndcAdd (cat n : Nat) (counts : Tab DWord) : Tab DWord :=
  (counts.modify 0 cat (· + BitVec.ofNat 64 n)).modify 0 6 (· + BitVec.ofNat 64 n)

theorem ndcAdd_category (n : Nat) (counts : Tab DWord) (hcat : cat ≠ 6) :
    (ndcAdd cat n counts).get 0 cat = counts.get 0 cat + BitVec.ofNat 64 n :=
  (Tab.get_modify_other _ _ _ hcat.symm).trans (Tab.get_modify_same _ _ _ _)

theorem ndcAdd_total (n : Nat) (counts : Tab DWord) (hcat : cat ≠ 6) :
    (ndcAdd cat n counts).get 0 6 = counts.get 0 6 + BitVec.ofNat 64 n := by
  rw [ndcAdd, Tab.get_modify_same, Tab.get_modify_other _ _ _ hcat]

/-- While the counts run, events count in their category and in the total (R100, R101). -/
theorem countNd_running (n : Nat) (jobs : List Nat) (hrun : s.cnt.freeze = false) :
    ∃ d : DspState, countNd cat n jobs s = { s with cnt := { s.cnt with ndc := ndcAdd cat n s.cnt.ndc }, dsp := d } := by
  unfold countNd
  rw [if_pos (by simp [State.counts, hrun])]
  exact foldl_blameJob n jobs _

/-- While the counts are frozen, events are attributed alone (R110). -/
theorem countNd_frozen (n : Nat) (jobs : List Nat) (hfreeze : s.cnt.freeze = true) :
    ∃ d : DspState, countNd cat n jobs s = { s with dsp := d } := by
  unfold countNd
  rw [if_neg (by simp [State.counts, hfreeze])]
  exact foldl_blameJob n jobs s

/-- The state in which a droop that suppresses an edge is counted: one more edge to skip, one more CCLK of stretch (R98, R99). -/
def State.stretched (s : State) : State :=
  { s with
    clock := { s.clock with skip := s.clock.skip + 1 }
    clk := { s.clk with stretchUsed := s.clk.stretchUsed + 1 } }

theorem droopDetection_suppresses (hmode : s.clk.mode = true) (hbudget : s.clk.stretchUsed.toNat < s.clk.budget) :
    droopDetection s = countNd 1 1 s.holdingJobs s.stretched := if_pos (by simp [hmode, hbudget])

theorem droopDetection_ignored (h : s.clk.mode = false ∨ s.clk.budget ≤ s.clk.stretchUsed.toNat) : droopDetection s = s := by
  unfold droopDetection
  rw [if_neg]
  rcases h with hmode | hbudget
  · simp [hmode]
  · simp [hbudget]

end

theorem exec_clkModeWrite {s : State} (mid : Nat) (v : Word) (hreach : s.reachable = true) :
    exec (.clkModeWrite mid v) s = .next (clkModeWrite mid v.toNat s) := congrArg _ (onBus_reachable hreach)

theorem exec_droopDetection (s : State) : exec .droopDetection s = .next (droopDetection s) := rfl

/-- Settles O10: a droop within the budget suppresses an edge and then counts one event of category 1, which the freeze
alone holds back. -/
theorem clockModeAndDroops : Obligations.ClockModeAndDroops := by
  unfold Obligations.ClockModeAndDroops
  refine ⟨?write, ?droop, fun s h => (exec_droopDetection s).trans (congrArg _ (droopDetection_ignored h))⟩
  case write =>
    intro s mid v hreach hmid
    rw [exec_clkModeWrite mid v hreach]
    split
    next h => rw [clkModeWrite_refused hmid h.1 h.2]
    next h => rw [clkModeWrite_staged hmid h]
  case droop =>
    intro s hmode hbudget
    rw [exec_droopDetection, droopDetection_suppresses hmode hbudget]
    cases hfreeze : s.cnt.freeze with
    | false =>
      obtain ⟨d, hcount⟩ := countNd_running (s := s.stretched) (cat := 1) 1 s.holdingJobs hfreeze
      exact ⟨_, congrArg _ hcount, rfl, rfl,
        fun _ => ⟨ndcAdd_category 1 _ (by decide), ndcAdd_total 1 _ (by decide)⟩, nofun, rfl⟩
    | true =>
      obtain ⟨d, hcount⟩ := countNd_frozen (s := s.stretched) (cat := 1) 1 s.holdingJobs hfreeze
      exact ⟨_, congrArg _ hcount, rfl, rfl, nofun, fun _ => rfl, rfl⟩

/-! ### The registers of the counters -/

section
variable {s : State} {mid k n v : Nat}

theorem ndcClear_eq (hmid : mid ≤ 1) : ndcClear mid s = { s with cnt := { s.cnt with ndc := Tab.empty } } := if_pos hmid

theorem cntFreezeWrite_eq (hmid : mid ≤ 1) :
    cntFreezeWrite mid v s = { s with cnt := { s.cnt with freeze := bitAt v 0 } } := if_pos hmid

theorem evselWrite_belfry (hmid : mid ≤ 1) (hn : n < 16) :
    evselWrite mid none n v s =
      { s with cnt := { s.cnt with bpmc := s.cnt.bpmc.modify BelfryCounter.reset n (BelfryCounter.select v) } } :=
  if_pos (by simp [hmid, hn])

theorem evselWrite_spire (hok : s.evselOk mid k = true) (hk : k < 32) (hn : n < 8) :
    evselWrite mid (some k) n v s =
      s.modSpire k (fun p => { p with cnt := { p.cnt with pmc := p.cnt.pmc.modify Pmc.reset n (Pmc.select v) } }) :=
  if_pos (by simp [hok, hk, hn])

end

theorem exec_ndcClear {s : State} {mid : Nat} (hmid : mid ≤ 1) (hserves : s.serves 0x30078 = true) :
    exec (.ndcClear mid) s = .next (ndcClear mid s) := congrArg _ (bar0Row_serves hmid hserves)

theorem exec_cntFreezeWrite {s : State} {mid : Nat} (v : Word) (hmid : mid ≤ 1) (hserves : s.serves 0x30000 = true) :
    exec (.cntFreezeWrite mid v) s = .next (cntFreezeWrite mid v.toNat s) := congrArg _ (bar0Row_serves hmid hserves)

theorem exec_evselWrite_belfry {s : State} {mid : Nat} (n : Fin 16) (v : Word) (hmid : mid ≤ 1)
    (hserves : s.serves (0x30200 + 0x20 * n.val) = true) :
    exec (.evselWrite mid none n v) s = .next (evselWrite mid none n v.toNat s) := congrArg _ (bar0Row_serves hmid hserves)

/-- MID 0 and MID 1 write a Spire's event select in BAR0, a lease in its own page (R109). -/
theorem exec_evselWrite_spire {s : State} {mid k : Nat} (n : Fin 16) (v : Word) (hreach : s.reachable = true)
    (hserves : mid ≤ 1 → s.serves (spireOffset k (0x40100 + 0x20 * n.val)) = true) :
    exec (.evselWrite mid (some k) n v) s = .next (evselWrite mid (some k) n v.toNat s) := by
  by_cases hmid : mid ≤ 1
  · exact congrArg Host.Outcome.next ((if_pos hmid).trans (bar0Row_serves hmid (hserves hmid)))
  · exact congrArg Host.Outcome.next ((if_neg hmid).trans (onBus_reachable hreach))

/-- Settles O11: each write that is served is its register's own update. -/
theorem counterRegisters : Obligations.CounterRegisters := by
  unfold Obligations.CounterRegisters
  refine ⟨?clear, ?freeze, ?belfry, ?spire⟩
  case clear =>
    intro s mid hserves hmid
    exact ⟨_, (exec_ndcClear hmid hserves).trans (congrArg _ (ndcClear_eq hmid)), rfl, Tab.get_empty 0⟩
  case freeze =>
    intro s mid v hserves hmid
    exact (exec_cntFreezeWrite v hmid hserves).trans (congrArg _ (cntFreezeWrite_eq hmid))
  case belfry =>
    intro s mid n v hserves hmid
    refine ⟨_, (exec_evselWrite_belfry n v hmid hserves).trans (congrArg _ (evselWrite_belfry hmid n.isLt)), rfl, ?_, ?_⟩
    · rw [Tab.get_modify_same]
      rfl
    · exact fun m hm => Tab.get_modify_other _ _ _ (Ne.symm hm)
  case spire =>
    intro s mid k n v hk hn hok hreach hserves
    refine ⟨_, (exec_evselWrite_spire n v hreach hserves).trans (congrArg _ (evselWrite_spire hok hk hn)), ?_⟩
    rw [spire_modSpire]
    refine ⟨rfl, rfl, ?_, ?_⟩
    · rw [Tab.get_modify_same]
      rfl
    · exact fun m hm => Tab.get_modify_other _ _ _ (Ne.symm hm)

end Sys2Proof.Machine

namespace Sys2Proof.Machine
open Sys2Proof

/-! ### The array: the operations that its commands share -/

section
variable {s : State} {k : Nat}

/-- A change of the array depends only on what it makes of the array as it stands. -/
theorem modArr_congr {f g : ArrState → ArrState} (h : f (s.spire k).arr = g (s.spire k).arr) : s.modArr k f = s.modArr k g := by
  change { s with spires := s.spires.set Spire.reset k { s.spire k with arr := f (s.spire k).arr } } =
    { s with spires := s.spires.set Spire.reset k { s.spire k with arr := g (s.spire k).arr } }
  rw [h]

theorem only_modArr (k : Nat) (f : ArrState → ArrState) (s : State) : OnlySpire k s (s.modArr k f) := OnlySpire.modSpire k _ s

theorem countSpire_arr (k ev n : Nat) (s : State) : ((countSpire k ev n s).spire k).arr = (s.spire k).arr := by
  rw [(countSpire_near k ev n s).2]

theorem countSpire_seq (k ev n : Nat) (s : State) : ((countSpire k ev n s).spire k).seq = (s.spire k).seq := by
  rw [(countSpire_near k ev n s).2]

theorem countSpire_store (k ev n : Nat) (s : State) : ((countSpire k ev n s).spire k).store = (s.spire k).store := by
  rw [(countSpire_near k ev n s).2]

/-! ### The decision on an ISSUE -/

/-- Refusals look at no sequencer (R129, R130, R221). -/
theorem refusalOf_modSeq (f : SeqState → SeqState) (inS : Bool) (addr : Nat) (d : PassDesc) (v : ArrView) :
    (s.modSeq k f).refusalOf k inS addr d v = s.refusalOf k inS addr d v := by
  have hpart : (s.modSeq k f).jobPart k = s.jobPart k := by rw [State.jobPart, modSeq_spire, State.jobPart]
  have howned : (s.modSeq k f).owned k inS = s.owned k inS := by
    unfold State.owned
    rw [hpart]
    rfl
  unfold State.refusalOf
  rw [howned]

/-- A descriptor read clean that no rule refuses is accepted, or waits for its replay (R130, R234). -/
theorem decideIssue_accepts {i : IssueCheck} {w : Nat} (hword : i.word = some (w, false))
    (hnone : s.refusalOf k i.inS i.desc (decodeDesc w) (i.asAt.getD (s.spire k).arr.view) = none) :
    decideIssue k i s =
      let u := s.modSeq k (fun q => { q with issues := q.issues.erase i })
      if i.asAt.isSome = true then u.modSeq k (fun q => { q with replay := (q.replay ++ [i.desc]).take 4 })
      else u.modArr k (fun x => { x with queued := some ⟨decodeDesc w, i.desc, s.cyc, false, 0⟩ }) := by
  unfold decideIssue
  rw [hword]
  dsimp only
  rw [if_neg Bool.false_ne_true, refusalOf_modSeq, modSeq_spire, hnone]

/-! ### Loads, starts and swaps -/

theorem tileLoadStart_begins (hqueued : (s.spire k).arr.queued.isSome = true) (hload : (s.spire k).arr.load = none)
    (hswapped : (s.spire k).arr.allSwapped = true)
    (hafter : (s.spire k).arr.passes = [] ∨ (s.spire k).arr.lastSwap + 1 ≤ s.cyc) :
    tileLoadStart k s = s.modArr k (fun x => x.beginLoad s.cyc) := by
  unfold tileLoadStart
  dsimp only
  rw [if_pos (by simpa [hqueued, hload, hswapped] using hafter)]

/-- Outside REPLAY nothing is re-issued (R235). -/
theorem replayIssue_idle (t : Nat) (h : (s.spire k).seq.mode ≠ .replay) : replayIssue k t s = s := by
  unfold replayIssue
  dsimp only
  split
  · exact absurd ‹_› h
  · rfl

/-- Outside REPLAY no replay ends (R235). -/
theorem endReplay_idle (h : (s.spire k).seq.mode ≠ .replay) : endReplay k s = s := by
  unfold endReplay
  dsimp only
  rw [if_neg (by simp [h])]

theorem passStart_starts {q : QueuedPass} (hqueued : (s.spire k).arr.queued = some q)
    (hmay : (s.spire k).arr.mayStart s.cyc = true) (hmode : (s.spire k).seq.mode ≠ .replay) :
    passStart k s =
      let r := q.start ((s.spire k).arr.started + 1).toNat s.cyc (((s.spire k).arr.load.getD ⟨s.cyc, 0⟩).left q.desc s.cyc)
      s.modArr k (fun x => { (if x.load.isSome then x else x.beginLoad s.cyc) with
        queued := none, started := x.started + 1, passes := x.passes ++ [r], nextStart := r.lastEnter + q.desc.interval }) := by
  unfold passStart
  dsimp only
  rw [hqueued]
  dsimp only
  rw [if_pos hmay, replayIssue_idle _ (by rwa [modArr_spire])]
  exact modArr_congr rfl

theorem passSwap_swaps {r : Pass} (hlast : (s.spire k).arr.passes.getLast? = some r) (hswapped : r.swapped = false)
    (hdone : r.start + r.load ≤ s.cyc) :
    passSwap k s = s.modArr k (fun x => { x with
      active := x.shadow, shadow := Plane.empty, load := none, lastSwap := s.cyc
      passes := x.passes.map (fun y => if y.seq = r.seq then { y with
        swapped := true, plane := x.shadow, inDigest := y.desc.planeDigest x.shadow y.inDigest } else y) }) := by
  unfold passSwap
  dsimp only
  rw [hlast]
  exact if_pos (by simp [hswapped, hdone])

/-! ### Releases -/

/-- The array once its first pass `r` is released in CCLK `c` and `rest` are left. -/
def ArrState.release (a : ArrState) (r : Pass) (rest : List Pass) (c : Nat) : ArrState :=
  { a with
    lastReads := r.desc.reads r.addr, releasedAt := c
    passes := rest, released := BitVec.ofNat 32 r.seq, lastTag := BitVec.ofNat 16 r.desc.tag, lastFlags := r.flags
    lastInexact := BitVec.ofNat 32 (r.inexactRe + r.inexactIm), lastClamp := BitVec.ofNat 32 r.clamped }

/-- A release changes the Spire's array, its store by the pass's last writes, and its counts (R131, R134). -/
theorem releaseFirst_spire {r : Pass} {rest : List Pass} (hpasses : (s.spire k).arr.passes = r :: rest) :
    ∃ counts, (releaseFirst k s).spire k = { s.spire k with
      arr := (s.spire k).arr.release r rest s.cyc
      store := r.writes.foldl Mem.arrWrite (s.spire k).store
      cnt := counts } := by
  unfold releaseFirst
  rw [hpasses]
  dsimp -zeta only
  extract_lets s0 s1 s2 s3
  have hs1 : s1.spire k = { s.spire k with
      arr := (s.spire k).arr.release r rest s.cyc, store := r.writes.foldl Mem.arrWrite (s.spire k).store } := by
    rw [modArr_spire, modStore_spire]
    rfl
  have hs3 : s3.spire k = { s1.spire k with cnt := (s3.spire k).cnt } :=
    (countSpire_near k 0x0102 1 (releaseRecord k r s1)).2
  refine ⟨(s3.spire k).cnt, ?_⟩
  calc
    _ = s3.spire k := by split <;> rfl
    _ = _ := by rw [hs3, hs1]

section
variable {r : Pass} {rest : List Pass} (hpasses : (s.spire k).arr.passes = r :: rest) (hdue : r.releaseAt ≤ s.cyc)
  (hrow : r.rowDone = true) (hchecked : r.checked = r.desc.v) (hheld : r.held = false)
include hpasses hdue hrow hchecked hheld

theorem passRelease_due : passRelease k s =
    if r.failed then
      if r.tainted then abandonTainted k r s else modPass k r.seq (fun x => { x with held := true }) s
    else endReplay k (releaseFirst k s) := by
  unfold passRelease
  rw [hpasses]
  exact if_pos (by simp [hdue, hrow, hchecked, hheld])

theorem passRelease_releases (hfailed : r.failed = false) (hmode : (s.spire k).seq.mode ≠ .replay) :
    passRelease k s = releaseFirst k s := by
  rw [passRelease_due hpasses hdue hrow hchecked hheld, hfailed]
  obtain ⟨_, hspire⟩ := releaseFirst_spire hpasses
  exact endReplay_idle (by rwa [hspire])

theorem passRelease_holds (hfailed : r.failed = true) (htainted : r.tainted = false) :
    passRelease k s = modPass k r.seq (fun x => { x with held := true }) s := by
  rw [passRelease_due hpasses hdue hrow hchecked hheld, hfailed, htainted]
  rfl

end

end

theorem exec_issue_due {s : State} {k : Fin 32} {i : IssueCheck} (d : Nat) (h : (s.spire k).seq.dueIssue s.cyc = some i) :
    exec (.issue k d) s = .next (decideIssue k i s) := by
  change Host.Outcome.next (issueRow k d s) = _
  rw [issueRow, h]

theorem exec_tileLoadStart (k : Fin 32) (s : State) : exec (.tileLoadStart k) s = .next (tileLoadStart k s) := rfl

theorem exec_passStart (k : Fin 32) (s : State) : exec (.passStart k) s = .next (passStart k s) := rfl

theorem exec_passSwap (k : Fin 32) (s : State) : exec (.passSwap k) s = .next (passSwap k s) := rfl

theorem exec_passRelease (k : Fin 32) (s : State) : exec (.passRelease k) s = .next (passRelease k s) := rfl

/-- Settles O20: each command that is due makes its one change of the array; a release changes the store and the counts besides. -/
theorem tilesLoadAndPassesStart : Obligations.TilesLoadAndPassesStart := by
  unfold Obligations.TilesLoadAndPassesStart
  intro s k
  refine ⟨?issue, ?load, ?start, ?swap, ?release⟩
  case issue =>
    intro d w i hdue hword hnone
    exact (exec_issue_due d hdue).trans (congrArg _ (decideIssue_accepts hword hnone))
  case load =>
    intro hqueued hload hswapped hafter
    exact (exec_tileLoadStart k s).trans (congrArg _ (tileLoadStart_begins hqueued hload hswapped hafter))
  case start =>
    intro q hqueued hmay hmode
    exact (exec_passStart k s).trans (congrArg _ (passStart_starts hqueued hmay hmode))
  case swap =>
    intro r hlast hswapped hdone
    exact (exec_passSwap k s).trans (congrArg _ (passSwap_swaps hlast hswapped hdone))
  case release =>
    intro r rest hpasses hdue hrow hchecked hheld
    constructor
    · intro hfailed hmode
      obtain ⟨_, hspire⟩ := releaseFirst_spire hpasses
      exact ⟨releaseFirst k s,
        (exec_passRelease k s).trans (congrArg _ (passRelease_releases hpasses hdue hrow hchecked hheld hfailed hmode)),
        congrArg Spire.arr hspire, by rw [hspire], by rw [hspire], releaseFirst_only k s⟩
    · intro hfailed htainted
      exact (exec_passRelease k s).trans (congrArg _ (passRelease_holds hpasses hdue hrow hchecked hheld hfailed htainted))

end Sys2Proof.Machine

namespace Sys2Proof.Machine
open Sys2Proof

/-! ### Disagreements -/

section
variable {s : State} {k : Nat}

theorem modPass_spire (k n : Nat) (f : Pass → Pass) (s : State) : (modPass k n f s).spire k = { s.spire k with
    arr := { (s.spire k).arr with passes := (s.spire k).arr.passes.map (fun p => if p.seq = n then f p else p) } } :=
  modArr_spire k _ s

theorem abandonPass_arr (k : Nat) (s : State) (p : Pass) :
    ((abandonPass k s p).spire k).arr = (s.spire k).arr.stick 0x40 := by
  unfold abandonPass
  dsimp only
  rw [countSpire_arr, spire_of_spires (State.useFree_spires ..), spire_modSpire]
  rfl

/-- Abandoning passes changes of the array its sticky bits alone. -/
theorem abandonAll_arr (k : Nat) (l : List Pass) (s : State) :
    ∃ bits, ((l.foldl (abandonPass k) s).spire k).arr = { (s.spire k).arr with sticky := bits } := by
  induction l generalizing s with
  | nil => exact ⟨_, rfl⟩
  | cons p l ih =>
    obtain ⟨bits, hrest⟩ := ih (abandonPass k s p)
    exact ⟨bits, by rw [List.foldl_cons, hrest, abandonPass_arr]; rfl⟩

/-- What ARR_DIS_INFO, ARR_DIS_SEQ, ARR_DIS_DIFF and ARR_DIS_TOL show of a disagreement of pass `p` (R139 step 1). -/
def Pass.disRecord (p : Pass) (row imag : Bool) (vector : Nat) (diff : Int) (inexact : Nat) : DisRecord :=
  ⟨true, row, imag, BitVec.ofNat 13 vector, BitVec.ofNat 16 p.desc.tag, BitVec.ofNat 32 p.seq,
    diffHalfUnits p.desc.wexp diff, BitVec.ofNat 32 inexact⟩

theorem recordDisagreement_arr (k : Nat) (p : Pass) (row imag : Bool) (vector : Nat) (diff : Int) (inexact : Nat) (s : State) :
    ((recordDisagreement k p row imag vector diff inexact s).spire k).arr =
      { (s.spire k).arr with dis := p.disRecord row imag vector diff inexact } := by
  unfold recordDisagreement
  dsimp only
  rw [modArr_spire, countSpire_arr]
  rfl

/-- A disagreement is recorded, the array waits for the verdict, and no descriptor is left to start (R139). -/
theorem disagreement_waits (k : Nat) (p : Pass) (ref : RefSide) (diff : Int) (inexact : Nat) (s : State) :
    ((disagreement k p ref diff inexact s).spire k).arr.verdictWait = true ∧
    ((disagreement k p ref diff inexact s).spire k).arr.queued = none ∧
    ((disagreement k p ref diff inexact s).spire k).arr.dis = p.disRecord ref.row ref.imag ref.vector diff inexact := by
  unfold disagreement
  extract_lets view s3 s4 after gone s5 s6 s7 s8
  have hrecorded : (s4.spire k).arr.verdictWait = true ∧
      (s4.spire k).arr.dis = p.disRecord ref.row ref.imag ref.vector diff inexact := by
    change (s3.spire k).arr.verdictWait = true ∧ (s3.spire k).arr.dis = _
    rw [modArr_spire, recordDisagreement_arr]
    exact ⟨rfl, rfl⟩
  obtain ⟨bits, hs5⟩ : ∃ bits, (s5.spire k).arr = { (s4.spire k).arr with sticky := bits } := abandonAll_arr k after s4
  have hs8 : (s8.spire k).arr.verdictWait = (s5.spire k).arr.verdictWait ∧ (s8.spire k).arr.queued = none ∧
      (s8.spire k).arr.dis = (s5.spire k).arr.dis := by
    rw [modSeq_spire, modPass_spire, modArr_spire]
    exact ⟨rfl, rfl, rfl⟩
  have hradio : (if s.radioWork k (s.spire k).vu.inS then
      if s.role k = .radioOwned then radioPartFault (.spire k) s8 else loseWindowSlots k s8 else s8).spire k = s8.spire k := by
    split
    · split
      · exact spire_of_spires (radioPartFault_spires _ _) k
      · exact spire_of_spires (loseWindowSlots_spires _ _) k
    · rfl
  obtain ⟨hwait, hqueued, hdis⟩ := hs8
  rw [hradio, hwait, hqueued, hdis, hs5]
  exact ⟨hrecorded.1, rfl, hrecorded.2⟩

end

/-! ### The per-vector check -/

section
variable {s : State} {k : Nat} {u : ArrayUpset} {p : Pass} {v : VecIn}

/-- Is the check of a vector skipped (R137, Table 15.2)? -/
def Pass.skips (p : Pass) (r : VecResult) : Bool := p.tainted || decide (0 < r.clamped)

/-- The difference that one part of a vector's check compares. -/
def vectorDiff (p : Pass) (v : VecIn) (u : ArrayUpset) (im : Bool) : Int :=
  checkDiff p.desc.wexp ((vecResult p v u).net p.desc im) (checkColumn p v u im)

/-- The inexact terms of one part of a vector. -/
def VecResult.inexact (r : VecResult) (im : Bool) : Nat := if im then r.inexIm else r.inexRe

/-- A pass once vector `v`, with results `r`, is checked: the results are its writes from now on, and their counts are its own. -/
def Pass.checkedWith (p : Pass) (v : VecIn) (r : VecResult) (x : Pass) : Pass :=
  { x with
    writes := x.writes ++ (resultWrites p.desc (v.at_ + 10) v.index r p.tainted).1
    checked := x.checked + 1, vectors := x.vectors.erase v
    inexactRe := x.inexactRe + r.inexRe, inexactIm := x.inexactIm + r.inexIm, clamped := x.clamped + r.clamped
    skipped := x.skipped || p.skips r
    saturated := x.saturated || decide (0 < (resultWrites p.desc (v.at_ + 10) v.index r p.tainted).2)
    totalRe := x.totalRe + r.net p.desc false, totalIm := x.totalIm + r.net p.desc true
    longDigest := longDigestOf r.vals x.longDigest }

/-- The state in which vector `v` of pass `p`, with results `r`, counts as checked, before its comparison. -/
def countVector (k : Nat) (p : Pass) (v : VecIn) (r : VecResult) (s : State) : State :=
  let sats := (resultWrites p.desc (v.at_ + 10) v.index r p.tainted).2
  let flags : BitVec 5 := BitVec.ofNat 5 (b2n (0 < r.inexRe + r.inexIm) + 2 * b2n (0 < r.clamped) + 4 * b2n (p.skips r)
    + 16 * b2n (0 < sats))
  countSpire k 0x0106 (r.inexRe + r.inexIm) (countSpire k 0x0105 r.clamped
    ((modPass k p.seq (p.checkedWith v r) s).modArr k (fun a => a.stick (stickyOf flags))))

theorem perVectorCheck_due (hdue : dueVector s.cyc (s.spire k).arr.passes = some (p, v)) :
    perVectorCheck k u s =
      let r := vecResult p v u
      if p.skips r then countVector k p v r s
      else
        let t := vectorPart k p v r u false (countVector k p v r s)
        if fmtGroup p.desc.fmtW = 3 then vectorPart k p v r u true t else t := by
  unfold perVectorCheck
  rw [hdue]
  rfl

theorem vectorPart_eq (im : Bool) (t : State) :
    vectorPart k p v (vecResult p v u) u im t =
      if withinHalfUnits p.desc.wexp (vectorDiff p v u im) ((vecResult p v u).inexact im) then t
      else disagreement k p ⟨false, im, v.index, checkColumn p v u im, p.desc.partSum im (vecResult p v u).inits⟩
        (vectorDiff p v u im) ((vecResult p v u).inexact im) t := rfl

/-- A vector that is skipped, or whose parts agree with their checksum columns, is counted and no more (R136, R137). -/
theorem perVectorCheck_counts (hdue : dueVector s.cyc (s.spire k).arr.passes = some (p, v))
    (hagrees : p.skips (vecResult p v u) = true ∨ ∀ im, (im = true → fmtGroup p.desc.fmtW = 3) →
      withinHalfUnits p.desc.wexp (vectorDiff p v u im) ((vecResult p v u).inexact im) = true) :
    perVectorCheck k u s = countVector k p v (vecResult p v u) s := by
  rw [perVectorCheck_due hdue]
  dsimp only
  rcases hagrees with hskip | hparts
  · rw [if_pos hskip]
  · have hre : ∀ t, vectorPart k p v (vecResult p v u) u false t = t :=
      fun t => (vectorPart_eq false t).trans (if_pos (hparts false nofun))
    split
    · rfl
    · split
      · next hgroup => rw [hre, vectorPart_eq, if_pos (hparts true fun _ => hgroup)]
      · exact hre _

/-- A vector of a real format whose sum is out of its bound is a disagreement (R136, R139). -/
theorem perVectorCheck_disagrees (hdue : dueVector s.cyc (s.spire k).arr.passes = some (p, v))
    (hskip : p.skips (vecResult p v u) = false) (hreal : fmtGroup p.desc.fmtW ≠ 3)
    (hout : withinHalfUnits p.desc.wexp (vectorDiff p v u false) ((vecResult p v u).inexact false) = false) :
    perVectorCheck k u s =
      disagreement k p ⟨false, false, v.index, checkColumn p v u false, p.desc.partSum false (vecResult p v u).inits⟩
        (vectorDiff p v u false) ((vecResult p v u).inexact false) (countVector k p v (vecResult p v u) s) := by
  rw [perVectorCheck_due hdue]
  dsimp only
  rw [hskip, if_neg Bool.false_ne_true, if_neg hreal, vectorPart_eq, hout]
  rfl

theorem countVector_passes (r : VecResult) : ((countVector k p v r s).spire k).arr.passes =
    (s.spire k).arr.passes.map (fun x => if x.seq = p.seq then p.checkedWith v r x else x) := by
  unfold countVector
  dsimp only
  rw [countSpire_arr, countSpire_arr, modArr_spire, modPass_spire]
  rfl

theorem countVector_store (r : VecResult) : ((countVector k p v r s).spire k).store = (s.spire k).store := by
  unfold countVector
  dsimp only
  rw [countSpire_store, countSpire_store, modArr_spire, modPass_spire]

theorem countVector_seq (r : VecResult) : ((countVector k p v r s).spire k).seq = (s.spire k).seq := by
  unfold countVector
  dsimp only
  rw [countSpire_seq, countSpire_seq, modArr_spire, modPass_spire]

theorem countVector_only (r : VecResult) : OnlySpire k s (countVector k p v r s) :=
  (((only_modArr k _ s).trans (only_modArr k _ _)).trans (countSpire_only k 0x0105 _ _)).trans (countSpire_only k 0x0106 _ _)

end

/-! ### The checksum row -/

section
variable {s : State} {k : Nat} {u : ArrayUpset} {p : Pass}

/-- Is the row check of a pass skipped (R138, Table 15.2)? -/
def Pass.skipsRow (p : Pass) : Bool := p.tainted || decide (0 < p.clamped)

/-- The difference that one part of the checksum-row step compares. -/
def rowTotalDiff (p : Pass) (u : ArrayUpset) (im : Bool) : Int :=
  checkDiff p.desc.wexp ((if im then p.totalIm else p.totalRe) + u.accDelta (if im then p.desc.n else 0)) (rowSide p u im)

/-- The inexact terms of one part of a pass. -/
def Pass.inexact (p : Pass) (im : Bool) : Nat := if im then p.inexactIm else p.inexactRe

/-- The state in which the row check of pass `p` counts as made, before its comparison. -/
def markRow (k : Nat) (p : Pass) (skip : Bool) (s : State) : State :=
  modPass k p.seq (fun x => { x with rowDone := true, rowSkip := skip, skipped := x.skipped || x.tainted }) s

theorem checksumRowStep_due (hdue : dueRow s.cyc (s.spire k).arr.passes = some p) :
    checksumRowStep k u s =
      if p.skipsRow then (markRow k p p.skipsRow s).modArr k (fun a => a.stick 8)
      else
        let t := rowPart k p u false (markRow k p p.skipsRow s)
        if fmtGroup p.desc.fmtW = 3 then rowPart k p u true t else t := by
  unfold checksumRowStep
  rw [hdue]
  rfl

theorem rowPart_agrees {im : Bool} (hin : withinHalfUnits p.desc.wexp (rowTotalDiff p u im) (p.inexact im) = true)
    (t : State) : rowPart k p u im t = t := by
  have hnone : rowDiff p u im = none := if_pos hin
  rw [rowPart, hnone]

theorem rowPart_disagrees {im : Bool} (hout : withinHalfUnits p.desc.wexp (rowTotalDiff p u im) (p.inexact im) = false)
    (t : State) : rowPart k p u im t =
      disagreement k p ⟨true, im, p.desc.v - 1, rowSide p u im, 0⟩ (rowTotalDiff p u im) (p.inexact im) t := by
  have hsome : rowDiff p u im = some (rowTotalDiff p u im, p.inexact im) := if_neg (Bool.eq_false_iff.mp hout)
  rw [rowPart, hsome]

theorem checksumRowStep_skips (hdue : dueRow s.cyc (s.spire k).arr.passes = some p) (hskip : p.skipsRow = true) :
    checksumRowStep k u s = (markRow k p true s).modArr k (fun a => a.stick 8) := by
  rw [checksumRowStep_due hdue, hskip]
  rfl

theorem checksumRowStep_agrees (hdue : dueRow s.cyc (s.spire k).arr.passes = some p) (hskip : p.skipsRow = false)
    (hparts : ∀ im, (im = true → fmtGroup p.desc.fmtW = 3) →
      withinHalfUnits p.desc.wexp (rowTotalDiff p u im) (p.inexact im) = true) :
    checksumRowStep k u s = markRow k p false s := by
  rw [checksumRowStep_due hdue, hskip, if_neg Bool.false_ne_true]
  dsimp only
  rw [rowPart_agrees (hparts false nofun)]
  split
  · next hgroup => exact rowPart_agrees (hparts true fun _ => hgroup) _
  · rfl

theorem checksumRowStep_disagrees (hdue : dueRow s.cyc (s.spire k).arr.passes = some p) (hskip : p.skipsRow = false)
    (hreal : fmtGroup p.desc.fmtW ≠ 3)
    (hout : withinHalfUnits p.desc.wexp (rowTotalDiff p u false) (p.inexact false) = false) :
    checksumRowStep k u s =
      disagreement k p ⟨true, false, p.desc.v - 1, rowSide p u false, 0⟩ (rowTotalDiff p u false) (p.inexact false)
        (markRow k p false s) := by
  rw [checksumRowStep_due hdue, hskip, if_neg Bool.false_ne_true]
  dsimp only
  rw [if_neg hreal, rowPart_disagrees hout]

end

theorem exec_perVectorCheck (k : Fin 32) (u : ArrayUpset) (s : State) :
    exec (.perVectorCheck k u) s = .next (perVectorCheck k u s) := rfl

theorem exec_checksumRowStep (k : Fin 32) (u : ArrayUpset) (s : State) :
    exec (.checksumRowStep k u) s = .next (checksumRowStep k u s) := rfl

/-- Settles O21: a check counts its vector or marks its pass, and then either changes nothing or is a disagreement. -/
theorem checksCountAndFail : Obligations.ChecksCountAndFail := by
  unfold Obligations.ChecksCountAndFail
  intro s k
  refine ⟨?vector, ?row⟩
  case vector =>
    intro u p v hdue
    constructor
    · intro hagrees
      exact ⟨_, (exec_perVectorCheck k u s).trans (congrArg _ (perVectorCheck_counts hdue hagrees)),
        countVector_passes _, countVector_store _, countVector_seq _, countVector_only _⟩
    · intro hskip hreal hout
      exact ⟨_, (exec_perVectorCheck k u s).trans (congrArg _ (perVectorCheck_disagrees hdue hskip hreal hout)),
        disagreement_waits _ _ _ _ _ _⟩
  case row =>
    intro u p hdue
    refine ⟨?skips, ?agrees, ?disagrees⟩
    case skips =>
      intro hskip
      exact (exec_checksumRowStep k u s).trans (congrArg _ (checksumRowStep_skips hdue hskip))
    case agrees =>
      intro hskip hparts
      exact (exec_checksumRowStep k u s).trans (congrArg _ (checksumRowStep_agrees hdue hskip hparts))
    case disagrees =>
      intro hskip hreal hout
      exact ⟨_, (exec_checksumRowStep k u s).trans (congrArg _ (checksumRowStep_disagrees hdue hskip hreal hout)),
        disagreement_waits _ _ _ _ _ _⟩

end Sys2Proof.Machine

namespace Sys2Proof.Machine
open Sys2Proof

/-! ### Bundles: where the sequencers go -/

section
variable {s t u : State} {k : Nat}

theorem cyc_of_slow (h : t.slow = s.slow) : t.cyc = s.cyc := congrArg (fun x => x.clock.edges) h

/-- `u` is `s` in all that decides where the next bundle of Spire `k` goes, and in every other Spire. -/
structure SameFlow (k : Nat) (s u : State) : Prop where
  seq : (u.spire k).seq = (s.spire k).seq
  inS : (u.spire k).vu.inS = (s.spire k).vu.inS
  levels : ∀ b, ((u.spire k).vu.bank b).levels = ((s.spire k).vu.bank b).levels
  cyc : u.cyc = s.cyc
  only : OnlySpire k s u

theorem SameFlow.trans (h : SameFlow k s t) (g : SameFlow k t u) : SameFlow k s u where
  seq := g.seq.trans h.seq
  inS := g.inS.trans h.inS
  levels b := (g.levels b).trans (h.levels b)
  cyc := g.cyc.trans h.cyc
  only := h.only.trans g.only

theorem SameFlow.of_near (hnear : Near k s u) (hlike : LikeSpire (s.spire k) (u.spire k)) : SameFlow k s u := by
  obtain ⟨hspire, hinS, -, hlevels⟩ := hlike
  exact ⟨by rw [hspire], hinS, hlevels, hnear.cyc, hnear.2⟩

/-- The index of the next bundle of Spire `k`'s bank in use. -/
def State.nextBundle (s : State) (k : Nat) : Nat := (s.spire k).seq.nextPc (s.spire k).vu.inS

theorem SameFlow.nextBundle (h : SameFlow k s u) : u.nextBundle k = s.nextBundle k := by
  unfold State.nextBundle
  rw [h.seq, h.inS]

/-- The sequencers of Spire `k` as its next bundle in sequence leaves them, repeat bodies ended (R186, R215). -/
def State.seqOn (s : State) (k : Nat) : SeqState :=
  let inS := (s.spire k).vu.inS
  (s.spire k).seq.goto inS (((s.spire k).vu.bank inS).after (s.nextBundle k)).2 (s.cyc + 1)

/-- From `s` to `t` the sequencers of Spire `k` become `q`, and no other Spire changes. -/
def Reseq (k : Nat) (q : SeqState) (s t : State) : Prop := (t.spire k).seq = q ∧ OnlySpire k s t

/-- Bank `x` takes the place of the bank in use of Spire `k`, and the bundle at `n` issues in the next CCLK. -/
def rebank (k : Nat) (inS : Bool) (x : Bank) (n : Nat) (s : State) : State :=
  (s.modVu k (fun v => v.modBank inS (fun _ => x))).modSeq k (fun q => q.goto inS n (s.cyc + 1))

theorem rebank_spire (inS : Bool) (x : Bank) (n : Nat) : (rebank k inS x n u).spire k = { u.spire k with
    seq := (u.spire k).seq.goto inS n (u.cyc + 1), vu := (u.spire k).vu.modBank inS (fun _ => x) } := by
  rw [rebank, modSeq_spire, modVu_spire]

theorem rebank_bank (inS : Bool) (x : Bank) (n : Nat) : ((rebank k inS x n u).spire k).vu.bank inS = x := by
  rw [rebank_spire]
  exact goto_vrep_aux _ _ _

section
variable (hflow : SameFlow k s u)
include hflow

theorem SameFlow.rebank (x : Bank) (n : Nat) : Reseq k ((s.spire k).seq.goto (s.spire k).vu.inS n (s.cyc + 1)) s
    (rebank k (s.spire k).vu.inS x n u) :=
  ⟨by rw [rebank_spire, hflow.seq, hflow.cyc], hflow.only.trans ((only_modVu k _ u).trans (only_modSeq k _ _))⟩

theorem SameFlow.seqOn : u.seqOn k = s.seqOn k := by
  unfold State.seqOn
  dsimp only
  rw [hflow.nextBundle, hflow.seq, hflow.inS, hflow.cyc, (Bank.after_levels _ _ _ (hflow.levels _)).1]

theorem SameFlow.stepOn : Reseq k (s.seqOn k) s (stepOn k (s.nextBundle k) (u.spire k).vu.inS u) := by
  obtain ⟨hnear, hspire⟩ := stepOn_spec k (s.nextBundle k) (u.spire k).vu.inS u
  exact ⟨by rw [hspire, ← hflow.seqOn, ← hflow.nextBundle]; rfl, hflow.only.trans hnear.2⟩

theorem SameFlow.takeBranch (a : Nat) : Reseq k ((s.spire k).seq.goto (s.spire k).vu.inS a (s.cyc + 4)) s
    (takeBranch k a (u.spire k).vu.inS u) := by
  obtain ⟨hnear, hspire⟩ := takeBranch_spec k a (u.spire k).vu.inS u
  exact ⟨by rw [hspire, hflow.seq, hflow.inS, hflow.cyc], hflow.only.trans hnear.2⟩

end

/-! ### Repeats (R184, R185) -/

theorem Bank.vrep_skips (b : Bank) (l len pc : Nat) : b.vrep l len 0 pc = b.after (pc + 1 + len) := if_pos rfl

theorem Bank.vrep_sets (b : Bank) (l len pc : Nat) {count : Nat} (h : 0 < count) :
    (b.vrep l len count pc).2 = pc + 1 ∧ (b.vrep l len count pc).1.level l =
      ⟨BitVec.ofNat 25 (32 * (pc + 1)), BitVec.ofNat 25 (32 * (pc + 1 + len)), BitVec.ofNat 16 count, true⟩ := by
  rw [Bank.vrep, if_neg (Nat.ne_of_gt h)]
  exact ⟨rfl, Tab.get_set_same _ _ _ _⟩

/-! ### What `runCtl` does for each operation that goes on at once -/

theorem runCtl_nop (pc : Nat) : runCtl k pc .nop u = stepOn k pc (u.spire k).vu.inS u := rfl

theorem runCtl_br (pc a : Nat) : runCtl k pc (.br a) u = takeBranch k a (u.spire k).vu.inS u := rfl

theorem runCtl_brf (pc f a : Nat) (sense : Bool) (hmain : (u.spire k).vu.inS = false) :
    runCtl k pc (.brf f sense a) u =
      if ((u.spire k).seq.flagsNow u.cyc).getLsbD f = sense then takeBranch k a (u.spire k).vu.inS u
      else stepOn k pc (u.spire k).vu.inS u := by
  unfold runCtl
  exact if_neg (by simp [hmain])

theorem runCtl_flags (pc set clear : Nat) (hmain : (u.spire k).vu.inS = false) :
    runCtl k pc (.flags set clear) u = (stepOn k pc (u.spire k).vu.inS u).modSeq k
      (fun q => q.changeFlags u.cyc (BitVec.ofNat 16 set) (BitVec.ofNat 16 clear)) := by
  unfold runCtl
  exact if_neg (by simp [hmain])

theorem runCtl_vrep {pc l len : Nat} (count : Nat) (hflow : SameFlow k s u)
    (hnest : ((s.spire k).vu.bank (s.spire k).vu.inS).badNesting l len pc = false) :
    runCtl k pc (.vrep l len count) u =
      let r := ((u.spire k).vu.bank (s.spire k).vu.inS).vrep l len count pc
      rebank k (s.spire k).vu.inS r.1 r.2 u := by
  rw [← Bank.badNesting_levels l len pc _ _ (hflow.levels _), ← hflow.inS] at hnest
  rw [← hflow.inS]
  unfold runCtl
  exact if_neg (by simp [hnest])

/-! ### Control operations that issue with no other slot -/

section
variable (hissue : s.canIssue k = true)
include hissue

theorem ctlIssue_runs {op : CtlOp} (hdecode : decodeCtl op.encode = some op) :
    ∃ u, SameFlow k s u ∧ ctlIssue k op s = runCtl k (s.nextBundle k) op u := by
  obtain ⟨u, hnear, hlike, hrun⟩ := ctlIssue_spec hissue hdecode
  exact ⟨u, .of_near hnear hlike, hrun⟩

theorem ctlIssue_nop : Reseq k (s.seqOn k) s (ctlIssue k .nop s) := by
  obtain ⟨u, hflow, hrun⟩ := ctlIssue_runs hissue decodeCtl_plain.1
  rw [hrun, runCtl_nop]
  exact hflow.stepOn

theorem ctlIssue_br {a : Nat} (ha : a < 2 ^ 20) :
    Reseq k ((s.spire k).seq.goto (s.spire k).vu.inS a (s.cyc + 4)) s (ctlIssue k (.br a) s) := by
  obtain ⟨u, hflow, hrun⟩ := ctlIssue_runs hissue (decodeCtl_br ha)
  rw [hrun, runCtl_br]
  exact hflow.takeBranch a

theorem ctlIssue_brf {f a : Nat} (sense : Bool) (hf : f < 16) (ha : a < 2 ^ 20) (hmain : (s.spire k).vu.inS = false) :
    Reseq k (if ((s.spire k).seq.flagsNow s.cyc).getLsbD f = sense
      then (s.spire k).seq.goto (s.spire k).vu.inS a (s.cyc + 4) else s.seqOn k) s (ctlIssue k (.brf f sense a) s) := by
  obtain ⟨u, hflow, hrun⟩ := ctlIssue_runs hissue (decodeCtl_brf (b := sense) hf ha)
  rw [hrun, runCtl_brf _ _ _ _ (hflow.inS.trans hmain), hflow.seq, hflow.cyc]
  split
  · exact hflow.takeBranch a
  · exact hflow.stepOn

theorem ctlIssue_flags {set clear : Nat} (hset : set < 2 ^ 16) (hclear : clear < 2 ^ 16)
    (hmain : (s.spire k).vu.inS = false) :
    Reseq k ((s.seqOn k).changeFlags s.cyc (BitVec.ofNat 16 set) (BitVec.ofNat 16 clear)) s
      (ctlIssue k (.flags set clear) s) := by
  obtain ⟨u, hflow, hrun⟩ := ctlIssue_runs hissue (decodeCtl_flags hset hclear)
  obtain ⟨hseq, honly⟩ := hflow.stepOn
  rw [hrun, runCtl_flags _ _ _ (hflow.inS.trans hmain), hflow.cyc]
  exact ⟨by rw [modSeq_spire, hseq], honly.trans (only_modSeq k _ _)⟩

section
variable {l len : Nat} (hl : l < 4) (hlen : len < 2 ^ 12)
  (hnest : ((s.spire k).vu.bank (s.spire k).vu.inS).badNesting l len (s.nextBundle k) = false)
include hl hlen hnest

theorem ctlIssue_vrep_sets {count : Nat} (hcount : count < 2 ^ 16) (hpos : 0 < count) :
    let pc := s.nextBundle k
    Reseq k ((s.spire k).seq.goto (s.spire k).vu.inS (pc + 1) (s.cyc + 1)) s (ctlIssue k (.vrep l len count) s) ∧
      (((ctlIssue k (.vrep l len count) s).spire k).vu.bank (s.spire k).vu.inS).level l =
        ⟨BitVec.ofNat 25 (32 * (pc + 1)), BitVec.ofNat 25 (32 * (pc + 1 + len)), BitVec.ofNat 16 count, true⟩ := by
  obtain ⟨u, hflow, hrun⟩ := ctlIssue_runs hissue (decodeCtl_vrep hl hlen hcount)
  obtain ⟨hnext, hlevel⟩ := Bank.vrep_sets ((u.spire k).vu.bank (s.spire k).vu.inS) l len
    (s.nextBundle k) hpos
  rw [hrun, runCtl_vrep count hflow hnest]
  dsimp only
  rw [rebank_bank, hlevel, hnext]
  exact ⟨hflow.rebank _ _, rfl⟩

/-- The body is skipped, and its last bundle counts as reached (R184). -/
theorem ctlIssue_vrep_skips :
    Reseq k ((s.spire k).seq.goto (s.spire k).vu.inS
      (((s.spire k).vu.bank (s.spire k).vu.inS).after (s.nextBundle k + 1 + len)).2 (s.cyc + 1)) s
      (ctlIssue k (.vrep l len 0) s) := by
  obtain ⟨u, hflow, hrun⟩ := ctlIssue_runs hissue (decodeCtl_vrep hl hlen (by decide : 0 < 2 ^ 16))
  rw [hrun, runCtl_vrep 0 hflow hnest, Bank.vrep_skips, ← (Bank.after_levels _ _ _ (hflow.levels _)).1]
  exact hflow.rebank _ _

end

end

end

theorem exec_nop (k : Fin 32) (s : State) : exec (.nop k) s = .next (ctlIssue k .nop s) := rfl

theorem exec_br {a : Nat} (k : Fin 32) (ha : a < 2 ^ 20) (s : State) : exec (.br k a) s = .next (ctlIssue k (.br a) s) := by
  change Host.Outcome.next (ctlIssue k (.br (a % 2 ^ 20)) s) = _
  rw [Nat.mod_eq_of_lt ha]

theorem exec_brf {a : Nat} (k : Fin 32) (f : Fin 16) (sense : Bool) (ha : a < 2 ^ 20) (s : State) :
    exec (.brf k f sense a) s = .next (ctlIssue k (.brf f sense a) s) := by
  change Host.Outcome.next (ctlIssue k (.brf f sense (a % 2 ^ 20)) s) = _
  rw [Nat.mod_eq_of_lt ha]

theorem exec_vrep {l len count : Nat} (k : Fin 32) (hl : l < 4) (hlen : len < 2 ^ 12) (hcount : count < 2 ^ 16) (s : State) :
    exec (.vrep k l len count) s = .next (ctlIssue k (.vrep l len count) s) := by
  change Host.Outcome.next (ctlIssue k (.vrep (l % 4) (len % 2 ^ 12) (count % 2 ^ 16)) s) = _
  rw [Nat.mod_eq_of_lt hl, Nat.mod_eq_of_lt hlen, Nat.mod_eq_of_lt hcount]

theorem exec_flags {set clear : Nat} (k : Fin 32) (hset : set < 2 ^ 16) (hclear : clear < 2 ^ 16) (s : State) :
    exec (.flags k set clear) s = .next (ctlIssue k (.flags set clear) s) := by
  change Host.Outcome.next (ctlIssue k (.flags (set % 2 ^ 16) (clear % 2 ^ 16)) s) = _
  rw [Nat.mod_eq_of_lt hset, Nat.mod_eq_of_lt hclear]

/-- Settles O14: each operation issues on a state of the same flow, and moves the sequencers by its own rule alone. -/
theorem controlOperationsMoveThePc : Obligations.ControlOperationsMoveThePc := by
  unfold Obligations.ControlOperationsMoveThePc
  intro s k hissue
  refine ⟨?nop, ?br, ?brf, ?vrepSets, ?vrepSkips, ?flags⟩
  case nop => exact ⟨_, exec_nop k s, ctlIssue_nop hissue⟩
  case br => exact fun a ha => ⟨_, exec_br k ha s, ctlIssue_br hissue ha⟩
  case brf => exact fun f sense a ha hmain => ⟨_, exec_brf k f sense ha s, ctlIssue_brf hissue sense f.isLt ha hmain⟩
  case vrepSets =>
    intro l hl len hlen count hcount hnest hpos
    obtain ⟨⟨hseq, honly⟩, hlevel⟩ := ctlIssue_vrep_sets hissue hl hlen hnest hcount hpos
    exact ⟨_, exec_vrep k hl hlen hcount s, hseq, hlevel, honly⟩
  case vrepSkips =>
    intro l hl len hlen hnest
    exact ⟨_, exec_vrep k hl hlen (by decide) s, (ctlIssue_vrep_skips hissue hl hlen hnest).1⟩
  case flags =>
    exact fun set hset clear hclear hmain => ⟨_, exec_flags k hset hclear s, ctlIssue_flags hissue hset hclear hmain⟩

end Sys2Proof.Machine

namespace Sys2Proof.Machine
open Sys2Proof

/-! ### The fetched bundle (R210 to R218) -/

section
variable {s t u : State} {k : Nat}

theorem landResults_near (k : Nat) (s : State) : Near k s (landResults k s) := Near.modSpire k _ s

theorem landResults_flow (k : Nat) (s : State) : SameFlow k s (landResults k s) := by
  obtain ⟨hinS, -, hlevels⟩ := landDue_keeps s.cyc (s.spire k).vu.flights.length (s.spire k).vu
  refine ⟨?_, ?_, ?_, rfl, only_modVu k _ s⟩ <;> rw [landResults_spire]
  · exact hinS
  · exact hlevels

theorem countSpire_vu (k ev n : Nat) (s : State) : ((countSpire k ev n s).spire k).vu = (s.spire k).vu := by
  rw [(countSpire_near k ev n s).2]

theorem countSpire_flow (k ev n : Nat) (s : State) : SameFlow k s (countSpire k ev n s) where
  seq := countSpire_seq k ev n s
  inS := by rw [countSpire_vu]
  levels _ := by rw [countSpire_vu]
  cyc := (countSpire_near k ev n s).1.cyc
  only := countSpire_only k ev n s

/-- The part that a bank's work owns depends on JOB_LIMIT and the governing image alone (R243). -/
theorem Near.ownsRange (hnear : Near k s t) (hxb : (t.spire k).xb = (s.spire k).xb) (inS : Bool) (a n : Nat) :
    t.ownsRange k inS a n = s.ownsRange k inS a n := by
  have hpart : t.jobPart k = s.jobPart k := by rw [State.jobPart, hxb, State.jobPart]
  have hrole : t.role k = s.role k := by rw [hnear.1]; rfl
  unfold State.ownsRange State.owned
  rw [hpart, hrole]

theorem wordAsOf_quiet {p : Spire} (hquiet : p.recent = []) (a c : Nat) :
    p.wordAsOf a c = (p.word a, p.store.poisonedAt a) := by
  unfold Spire.wordAsOf
  rw [hquiet]
  rfl

/-- The bundle that Spire `k` is to issue may be fetched: it lies in the owned part and in no pending range, its word is not
poisoned, and no access of the last three CCLK clashes with its fetch (R215, R247). -/
structure Fetchable (k : Nat) (s : State) : Prop where
  owned : s.ownsRange k (s.spire k).vu.inS (32 * s.nextBundle k) 32 = true
  settled : (s.spire k).isPending (32 * s.nextBundle k) 32 = false
  clean : (s.spire k).store.poisonedAt (32 * s.nextBundle k) = false
  quiet : (s.spire k).recent = []

theorem Fetchable.landResults (h : Fetchable k s) : Fetchable k (landResults k s) := by
  have hflow := landResults_flow k s
  refine ⟨?_, ?_, ?_, ?_⟩
  · rw [hflow.nextBundle, hflow.inS, (landResults_near k s).ownsRange (by rw [landResults_spire])]
    exact h.owned
  all_goals rw [landResults_spire]
  · rw [hflow.nextBundle]
    exact h.settled
  · rw [hflow.nextBundle]
    exact h.clean
  · exact h.quiet

theorem issueFetched_agrees (h : Fetchable k s) {b : Bundle}
    (hdecode : decodeBundle ((s.spire k).store.readLE (32 * s.nextBundle k) 32) = some b) :
    issueFetched k false 0 s = issueSlots k (s.nextBundle k) b (fetchClash k (32 * s.nextBundle k) s) := by
  obtain ⟨howned, hsettled, hclean, hquiet⟩ := h
  unfold State.nextBundle at *
  unfold issueFetched bundleAddr
  dsimp only
  rw [wordAsOf_quiet hquiet, howned, hsettled, hclean]
  simp [wordCheck, wordWrong, Spire.word, hdecode]

theorem issueFetched_differs (h : Fetchable k s) : issueFetched k true 0 s = sequencerFault k 0x20 (s.nextBundle k) s := by
  obtain ⟨howned, hsettled, hclean, hquiet⟩ := h
  unfold State.nextBundle at *
  unfold issueFetched bundleAddr
  dsimp only
  rw [wordAsOf_quiet hquiet, howned, hsettled, hclean]
  simp [wordCheck]

/-! ### A bundle with an arithmetic slot and NOP alone -/

/-- The vector unit once a VA slot has issued in CCLK `c`: VNOP adds no flight (R174). -/
def VuState.joined (v : VuState) (o : VaOp) (inS : Bool) (c scalar : Nat) : VuState :=
  { v with flights := v.flights ++ (if o.vop = 0 then [] else [o.run v inS c scalar]) }

/-- A VA slot whose registers are legal changes the vector unit of its Spire alone. -/
theorem issueVa_legal {o : VaOp} (hlegal : o.vop = 0 ∨ ¬ (vopPair o.vop = true ∧ o.d % 2 = 1)) (pc : Nat) :
    (issueVa k pc o u).spire k = { u.spire k with
      vu := (u.spire k).vu.joined o (u.spire k).vu.inS u.cyc (Config.vbcastScalar k u.free) } ∧
    OnlySpire k u (issueVa k pc o u) := by
  unfold issueVa VuState.joined
  dsimp only
  by_cases hnop : o.vop = 0
  · rw [if_pos hnop, if_pos hnop, List.append_nil]
    exact ⟨rfl, .refl k u⟩
  · have hpair : (vopPair o.vop && o.d % 2 == 1) = false := by
      simpa using hlegal.resolve_left hnop
    rw [if_neg hnop, if_neg hnop, hpair, if_neg Bool.false_ne_true]
    split
    · exact ⟨modVu_spire k _ u.useFree, only_modVu k _ u.useFree⟩
    · exact ⟨modVu_spire k _ u, only_modVu k _ u⟩

theorem modBank_self (v : VuState) (inS : Bool) : v.modBank inS (fun b => b) = v := by
  cases inS <;> rfl

theorem modBank_flights (v : VuState) (inS : Bool) (f : Bank → Bank) : (v.modBank inS f).flights = v.flights := by
  cases inS <;> rfl

theorem deliver_none (k : Nat) (s : State) : deliver k false s = s := rfl

section
variable {b : Bundle} (hvl : b.vl = .none_) (hvs : b.vs = .none_)
include hvl hvs

theorem issueVector_va (pc : Nat) : issueVector k pc b u =
    let v := (issueVa k pc b.va u).modVu k (fun v => v.modBank (u.spire k).vu.inS (fun y => y))
    if b.va.vop != 0 then countSpire k 0x0201 1 v else v := by
  unfold issueVector
  rw [hvl, hvs]
  simp [issueVl, issueVs, VlOp.post, VsOp.post]

variable (hlegal : b.va.vop = 0 ∨ ¬ (vopPair b.va.vop = true ∧ b.va.d % 2 = 1))
include hlegal

theorem issueVector_joins (pc : Nat) :
    ((issueVector k pc b u).spire k).vu = (u.spire k).vu.joined b.va (u.spire k).vu.inS u.cyc (Config.vbcastScalar k u.free) ∧
    SameFlow k u (issueVector k pc b u) := by
  obtain ⟨hspire, honly⟩ := issueVa_legal (u := u) (k := k) hlegal pc
  rw [issueVector_va hvl hvs]
  extract_lets v
  have hjoined : v.spire k = { u.spire k with
      vu := (u.spire k).vu.joined b.va (u.spire k).vu.inS u.cyc (Config.vbcastScalar k u.free) } :=
    (modVu_spire k _ _).trans (by rw [modBank_self, hspire])
  have hflow : SameFlow k u v := by
    refine ⟨?_, ?_, ?_, cyc_of_slow (issueVa_slow k pc b.va u), honly.trans (only_modVu k _ _)⟩ <;> rw [hjoined]
    · rfl
    · exact fun _ => rfl
  split
  · exact ⟨by rw [countSpire_vu, hjoined], hflow.trans (countSpire_flow k 0x0201 1 _)⟩
  · exact ⟨by rw [hjoined], hflow⟩

theorem issueSlots_joins (hctl : b.ctl = .nop) (hip : b.ip = false) (hxf : b.xf = .none_) :
    Reseq k (u.seqOn k) u (issueSlots k (u.nextBundle k) b u) ∧
    ((issueSlots k (u.nextBundle k) b u).spire k).vu.flights =
      ((u.spire k).vu.joined b.va (u.spire k).vu.inS u.cyc (Config.vbcastScalar k u.free)).flights := by
  obtain ⟨hvu, hvector⟩ := issueVector_joins (k := k) (u := u) hvl hvs hlegal (u.nextBundle k)
  have hflow := hvector.trans (countSpire_flow k 0x0301 1 _)
  have hrun : issueSlots k (u.nextBundle k) b u = stepOn k (u.nextBundle k)
      ((countSpire k 0x0301 1 (issueVector k (u.nextBundle k) b u)).spire k).vu.inS
      (countSpire k 0x0301 1 (issueVector k (u.nextBundle k) b u)) := by
    unfold issueSlots
    rw [hctl, hip, hxf, deliver_none]
    rfl
  rw [hrun]
  refine ⟨hflow.stepOn, ?_⟩
  rw [(stepOn_spec k _ _ _).2, modBank_flights, countSpire_vu, hvu]

end

/-! ### BUNDLE_ISSUE -/

section
variable (hissue : s.canIssue k = true) (hfetch : Fetchable k s)
include hissue hfetch

theorem bundleIssue_differs : bundleIssue k true 0 s = sequencerFault k 0x20 (s.nextBundle k) (landResults k s) := by
  unfold bundleIssue
  rw [if_pos hissue, issueFetched_differs hfetch.landResults, (landResults_flow k s).nextBundle]

/-- The results that are due land, the fetch clashes with no access, and the bundle's slots issue. -/
theorem bundleIssue_agrees {b : Bundle}
    (hwrites : ∀ p ∈ (s.spire k).arr.passes, ∀ w ∈ p.wrote, bankOf w.addr ≠ bankOf (32 * s.nextBundle k))
    (hdecode : decodeBundle ((s.spire k).store.readLE (32 * s.nextBundle k) 32) = some b) :
    ∃ u, SameFlow k s u ∧ u.free = s.free ∧
      (u.spire k).vu = (s.spire k).vu.landDue s.cyc (s.spire k).vu.flights.length ∧
      bundleIssue k false 0 s = issueSlots k (u.nextBundle k) b u := by
  have hland := landResults_flow k s
  have hspire := landResults_spire k s
  obtain ⟨hnear, hfree, hclash⟩ := fetchClash_near k (32 * s.nextBundle k) (landResults k s)
    (by rw [hspire]; exact hfetch.quiet) (by rw [hspire]; exact hwrites)
  have hflow : SameFlow k (landResults k s) (fetchClash k (32 * s.nextBundle k) (landResults k s)) := by
    refine ⟨?_, ?_, ?_, hnear.cyc, hnear.2⟩ <;> rw [hclash]
    exact fun _ => rfl
  refine ⟨_, hland.trans hflow, hfree, by rw [hclash, hspire], ?_⟩
  unfold bundleIssue
  rw [if_pos hissue, issueFetched_agrees (b := b) hfetch.landResults, hflow.nextBundle, hland.nextBundle]
  rw [hland.nextBundle, hspire]
  exact hdecode

end

theorem bundleIssue_compares (hissue : s.canIssue k = false) (hcompares : s.compares k = true) :
    bundleIssue k true 0 s = sequencerFault k 0x20 (s.nextBundle k) s := by
  unfold bundleIssue
  rw [if_neg (by rw [hissue]; exact Bool.false_ne_true), if_pos (by simpa using hcompares)]
  rfl

/-! ### VECTOR_RESULT (R175, R176) -/

theorem firstLanding_mem {l : List VFlight} {f : VFlight} (h : firstLanding l = some f) : f ∈ l := by
  induction l generalizing f with
  | nil => exact absurd h (by simp [firstLanding])
  | cons a r ih =>
    unfold firstLanding at h
    split at h
    · next g hg =>
      split at h
      · exact List.mem_cons_of_mem _ (ih (hg.trans h))
      · exact Option.some.inj h ▸ List.mem_cons_self
    · exact Option.some.inj h ▸ List.mem_cons_self

theorem vectorResult_lands {f : VFlight} (hfirst : firstLanding (s.spire k).vu.flights = some f) (hdue : f.land ≤ s.cyc) :
    vectorResult k none [] s = s.modVu k (fun v => v.landOne f) := by
  unfold vectorResult
  rw [hfirst]
  dsimp only
  rw [if_neg (Nat.not_lt.mpr hdue)]
  exact if_pos (List.contains_iff_mem.mpr (firstLanding_mem hfirst))

end

theorem exec_bundleIssue (k : Fin 32) (f : BundleFetch) (s : State) :
    exec (.bundleIssue k f) s = .next (bundleIssue k f.differ f.errs s) := rfl

theorem exec_vectorResult (k : Fin 32) (u : VectorUpset) (s : State) :
    exec (.vectorResult k u) s = .next (vectorResult k u.mismatch u.errs s) := rfl

/-- Settles O16: a bundle that may be fetched issues its slots on a state of the same flow, or its words differ. -/
theorem bundlesIssueAndResultsLand : Obligations.BundlesIssueAndResultsLand := by
  unfold Obligations.BundlesIssueAndResultsLand
  refine ⟨?fetched, ?compared, ?lands⟩
  case fetched =>
    intro s k hissue inS pc howned hsettled hclean hquiet
    have hfetch : Fetchable k s := ⟨howned, hsettled, hclean, hquiet⟩
    constructor
    · intro b hwrites hdecode hctl hip hvl hvs hxf hlegal
      obtain ⟨u, hflow, hfree, hvu, hslots⟩ := bundleIssue_agrees hissue hfetch hwrites hdecode
      obtain ⟨⟨hseq, honly⟩, hflights⟩ := issueSlots_joins (k := k) (u := u) hvl hvs hlegal hctl hip hxf
      rw [← hslots] at hseq honly hflights
      refine ⟨_, exec_bundleIssue k _ s, ?_, ?_, hflow.only.trans honly⟩
      · rw [hseq]
        exact hflow.seqOn
      · rw [hflights]
        rw [hflow.inS, hvu, hflow.cyc, hfree]
        rfl
    · obtain ⟨hmode, hfault⟩ := sequencerFault_spec k 0x20 (s.nextBundle k) (landResults k s)
      rw [← bundleIssue_differs hissue hfetch, (landResults_flow k s).inS] at *
      exact ⟨_, exec_bundleIssue k _ s, hmode, hfault⟩
  case compared =>
    intro s k hissue hcompares
    refine ⟨_, (exec_bundleIssue k _ s).trans (congrArg _ (bundleIssue_compares hissue hcompares)), ?_⟩
    exact sequencerFault_spec k 0x20 (s.nextBundle k) s
  case lands => exact fun s k f hfirst hdue => (exec_vectorResult k _ s).trans (congrArg _ (vectorResult_lands hfirst hdue))

end Sys2Proof.Machine

namespace Sys2Proof.Machine
open Sys2Proof

/-! ### Drains (R199 to R203) -/

section
variable {s t : State} {k u : Nat}

theorem setPhase_only (k : Nat) (x : VuPhase) (s : State) : OnlySpire k s (setPhase k x s) := only_modVu k _ s

theorem setPhase_phase (k : Nat) (x : VuPhase) (s : State) : ((setPhase k x s).spire k).vu.phase = x := by
  rw [setPhase_spire]

theorem setPhase_seq (k : Nat) (x : VuPhase) (s : State) : ((setPhase k x s).spire k).seq = (s.spire k).seq := by
  rw [setPhase_spire]

section
variable {why : DrainReason} (hphase : (s.spire k).vu.phase = .draining u why) (hover : u ≤ s.cyc)
include hphase hover

theorem drainComplete_over :
    drainComplete k s = shadowWaits k (endDrained k (afterDrain k why (landResults k s))) := by
  unfold drainComplete
  rw [hphase]
  exact if_neg (Nat.not_lt.mpr hover)

/-- A drain that only the bank switch follows: an ENDING Spire would go to WIPING instead. -/
theorem drainComplete_switches {toS : Bool} (hmode : (s.spire k).seq.mode ≠ .ending)
    (hafter : afterDrain k why (landResults k s) = setPhase k (.switching (s.cyc + 4) toS) (landResults k s)) :
    drainComplete k s = setPhase k (.switching (s.cyc + 4) toS) (landResults k s) := by
  rw [drainComplete_over hphase hover, hafter, endDrained_not, shadowWaits_not]
  · exact .inl (by rw [setPhase_phase]; exact VuPhase.noConfusion)
  · rwa [setPhase_seq, (landResults_flow k s).seq]

end

theorem afterDrain_toShadow (hmode : (s.spire k).seq.mode ≠ .ending) :
    afterDrain k .toShadow s = setPhase k (.switching (s.cyc + 4) true) s := by
  unfold afterDrain
  dsimp only
  rw [if_neg hmode]
  rfl

theorem afterDrain_toMain : afterDrain k .toMain s = setPhase k (.switching (s.cyc + 4) false) s := rfl

/-- The sequencers as an interrupt that is delivered in CCLK `c` leaves them: the handler's first bundle issues now (R216). -/
def SeqState.interrupted (q : SeqState) (c : Nat) : SeqState :=
  { q with inHandler := true, resume := q.pc, pc := q.ivec, nextIssue := c }

theorem drainComplete_interrupt (hphase : (s.spire k).vu.phase = .draining u .interrupt) (hover : u ≤ s.cyc)
    (hmode : (s.spire k).seq.mode = .running) (hwindow : (s.spire k).seq.window = false)
    (hreclaim : (s.spire k).seq.reclaim = false) :
    drainComplete k s = (setPhase k .steady (landResults k s)).modSeq k (fun q => q.interrupted s.cyc) := by
  have hseq : (((setPhase k .steady (landResults k s)).modSeq k (fun q => q.interrupted s.cyc)).spire k).seq =
      (s.spire k).seq.interrupted s.cyc := by
    rw [modSeq_spire, setPhase_seq, (landResults_flow k s).seq]
  have hafter : afterDrain k .interrupt (landResults k s) =
      (setPhase k .steady (landResults k s)).modSeq k (fun q => q.interrupted s.cyc) := rfl
  rw [drainComplete_over hphase hover, hafter, endDrained_not, shadowWaits_not]
  · exact .inr (by rw [hseq]; exact ⟨hwindow, hreclaim⟩)
  · rw [hseq]
    exact fun h => SpireMode.noConfusion (hmode.symm.trans h)

/-! ### Bank switches (R201) -/

theorem bankSwitchComplete_over {toS : Bool} (hphase : (s.spire k).vu.phase = .switching u toS) (hover : u ≤ s.cyc) :
    bankSwitchComplete k s = if toS then enterShadow k s else enterMain k s := by
  unfold bankSwitchComplete
  rw [hphase]
  exact if_neg (Nat.not_lt.mpr hover)

/-- The vector unit with a bank in use and steady. -/
def VuState.using (v : VuState) (inS : Bool) : VuState := { v with inS := inS, phase := .steady }

/-- A bank of Spire `k` is in use and the switch is counted (event 0x0203), before its work is looked for. -/
def bankInUse (k : Nat) (inS : Bool) (s : State) : State := countSpire k 0x0203 1 (s.modVu k (fun v => v.using inS))

theorem bankInUse_near (k : Nat) (inS : Bool) (s : State) : Near k s (bankInUse k inS s) :=
  (Near.modSpire k _ s).trans (countSpire_near k 0x0203 1 _).1

theorem bankInUse_vu (k : Nat) (inS : Bool) (s : State) : ((bankInUse k inS s).spire k).vu = (s.spire k).vu.using inS := by
  rw [bankInUse, countSpire_vu, modVu_spire]

theorem bankInUse_seq (k : Nat) (inS : Bool) (s : State) : ((bankInUse k inS s).spire k).seq = (s.spire k).seq := by
  rw [bankInUse, countSpire_seq, modVu_spire]

/-- From `s` to `t` the vector unit of Spire `k` becomes `v`, and no other Spire changes. -/
def Revec (k : Nat) (v : VuState) (s t : State) : Prop := (t.spire k).vu = v ∧ OnlySpire k s t

theorem Revec.modSeq {v : VuState} (h : Revec k v s t) (f : SeqState → SeqState) : Revec k v s (t.modSeq k f) :=
  ⟨by rw [modSeq_spire]; exact h.1, h.2.trans (only_modSeq k f t)⟩

/-- Whatever work BANK_S has, it is in use and steady. -/
theorem enterShadow_inUse : Revec k ((s.spire k).vu.using true) s (enterShadow k s) := by
  have hbank : Revec k ((s.spire k).vu.using true) s (bankInUse k true s) := ⟨bankInUse_vu k true s, (bankInUse_near k true s).2⟩
  have hat (pc : Nat) : Revec k ((s.spire k).vu.using true) s (shadowAt k pc (bankInUse k true s)) := hbank.modSeq _
  change Revec _ _ s (if _ then bankInUse k true s else if _ then (shadowAt k _ (bankInUse k true s)).useFree
    else if _ then enterReclaim k (bankInUse k true s)
    else if _ then ((shadowAt k _ (bankInUse k true s)).useFree).modSeq k _ else bankInUse k true s)
  split
  · exact hbank
  · split
    · exact hat _
    · split
      · exact hat _
      · split
        · exact Revec.modSeq (t := (shadowAt k _ (bankInUse k true s)).useFree) (hat _) _
        · exact hbank

theorem leaveStopped_not (c : Nat) (h : (s.spire k).seq.mode ≠ .stopped) : leaveStopped k c s = s := by
  unfold leaveStopped
  dsimp only
  rw [if_pos (by simp [h])]

theorem payStop_nothing (howed : s.pwr.owed = []) (hdome : s.pwr.owedDome = []) : payStop k s = s := by
  unfold payStop
  rw [howed, hdome]
  simp

/-- BANK_M as the switch to it leaves the Spire, before a STOP or a window that waits. -/
def mainInUse (k : Nat) (s : State) : State :=
  (bankInUse k false s).modSeq k (fun q => { q with nextIssue := s.cyc, sStopped := false, holdS := none })

theorem mainInUse_near (k : Nat) (s : State) : Near k s (mainInUse k s) :=
  (bankInUse_near k false s).trans (Near.modSpire k _ _)

theorem mainInUse_seq (k : Nat) (s : State) : ((mainInUse k s).spire k).seq =
    { (s.spire k).seq with nextIssue := s.cyc, sStopped := false, holdS := none } := by
  rw [mainInUse, modSeq_spire, bankInUse_seq]

theorem mainInUse_vu (k : Nat) (s : State) : ((mainInUse k s).spire k).vu = (s.spire k).vu.using false := by
  rw [mainInUse, modSeq_spire, bankInUse_vu]

theorem Near.pwr (h : Near k s t) : t.pwr = s.pwr := by rw [h.1]

theorem enterMain_goes (hmode : (s.spire k).seq.mode ≠ .stopped) (howed : s.pwr.owed = []) (hdome : s.pwr.owedDome = [])
    (hwindow : (s.spire k).seq.window = false) (hreclaim : (s.spire k).seq.reclaim = false) :
    enterMain k s = mainInUse k s := by
  have hpwr := (mainInUse_near k s).pwr
  have hseq := mainInUse_seq k s
  calc enterMain k s = shadowWaits k (payStop k (leaveStopped k s.cyc (mainInUse k s))) := rfl
    _ = shadowWaits k (payStop k (mainInUse k s)) := by rw [leaveStopped_not _ (by rw [hseq]; exact hmode)]
    _ = shadowWaits k (mainInUse k s) := by rw [payStop_nothing (by rw [hpwr, howed]) (by rw [hpwr, hdome])]
    _ = mainInUse k s := shadowWaits_not (.inr (by rw [hseq]; exact ⟨hwindow, hreclaim⟩))

/-! ### Windows (R440, R453, R455) -/

theorem stopForWindow_steady (hphase : (s.spire k).vu.phase = .steady) (hmain : (s.spire k).vu.inS = false) :
    stopForWindow k s = setPhase k (.draining (s.cyc + 12) .toShadow) s := by
  unfold stopForWindow
  rw [hphase]
  dsimp only
  rw [hmain]
  rfl

/-- The sequencers with a window in force up to plan CCLK `e`. -/
def SeqState.windowed (q : SeqState) (e : Nat) (test : Bool) : SeqState :=
  { q with window := true, windowEnd := e, windowTest := test, windowOver := q.reclaim && !test }

theorem SeqState.windowed_own {q : SeqState} (h : q.reclaim = false) (e : Nat) (test : Bool) : q.windowed e test =
    { q with window := true, windowEnd := e, windowTest := test, windowOver := false } := by
  simp [SeqState.windowed, h]

theorem windowStart_begins {a e : Nat} {test : Bool} (hnow : s.windowNow k = some (a, e, test)) (hplan : s.hasPlan = true)
    (hwindow : (s.spire k).seq.window = false) (htakes : (s.spire k).seq.mode.takesWindows = true)
    (hreclaim : (s.spire k).seq.reclaim = false) (hphase : (s.spire k).vu.phase = .steady) (hmain : (s.spire k).vu.inS = false) :
    windowStart k s = setPhase k (.draining (s.cyc + 12) .toShadow)
      (s.modSeq k (fun q => q.windowed (s.time.periods * planPeriod + e) test)) := by
  unfold windowStart
  rw [hnow]
  dsimp only
  rw [if_neg (by simp [hplan, hwindow, htakes]), if_neg (by rw [hreclaim]; exact Bool.false_ne_true)]
  exact stopForWindow_steady (by rwa [modSeq_spire]) (by rwa [modSeq_spire])

/-- Window work is over, its overrun counted and the Dome notified (R440). -/
def overran (k : Nat) (s : State) : State :=
  (ringDome 5 { s with dsp := { s.dsp with overruns := satInc s.dsp.overruns } }).modSeq k
    (fun q => { q with windowOver := true, holdS := none })

theorem windowOverrun_due (hdue : s.overrunDue k = true) : windowOverrun k s =
    if (s.spire k).vu.inS then
      setPhase k (.draining (s.cyc + 13) (if (s.spire k).seq.reclaim then .stopPower else .toMain)) (overran k s)
    else overran k s := by
  unfold windowOverrun
  rw [if_pos hdue]
  rfl

theorem overran_seq (k : Nat) (s : State) : ((overran k s).spire k).seq =
    { (s.spire k).seq with windowOver := true, holdS := none } := modSeq_spire k _ _ ▸ rfl

theorem overran_only (k : Nat) (s : State) : OnlySpire k s (overran k s) :=
  (OnlySpire.of_spires rfl).trans (only_modSeq k _ _)

theorem ringDome_sets {i : Nat} (h : i < 32) (s : State) : (ringDome i s).dome.dbStatus.getLsbD i = true := by
  simp [ringDome, h]

theorem windowEnd_main (hwindow : (s.spire k).seq.window = true) (hend : (s.spire k).seq.windowEnd ≤ s.planTotal)
    (hreclaim : (s.spire k).seq.reclaim = false) : windowEnd k s = windowEndMain k s := by
  unfold windowEnd
  dsimp only
  rw [if_pos (by simp [hwindow, hend]), if_neg (by rw [hreclaim]; exact Bool.false_ne_true)]

theorem windowEndMain_goes (hmain : (s.spire k).vu.inS = false) (hphase : (s.spire k).vu.phase = .steady)
    (hmode : (s.spire k).seq.mode = .running) (hhold : (s.spire k).seq.hold = none)
    (howed : s.pwr.owed = []) (hdome : s.pwr.owedDome = []) :
    windowEndMain k s = s.modSeq k (fun q => { q with
      window := false, windowTest := false, windowOver := false, sStopped := false, holdS := none, nextIssue := s.cyc }) := by
  unfold windowEndMain
  simp only [hmain, hphase, Bool.false_eq_true, ↓reduceIte]
  rw [endDrained_not (by simp [modSeq_spire, hmode]), leaveStopped_not _ (by simp [modSeq_spire, hmode]),
    payStop_nothing (s := s.modSeq k _) howed hdome, replayIssue_idle _ (by simp [modSeq_spire, hmode]), modSeq_spire]
  dsimp only
  rw [hhold]

end

theorem exec_drainComplete (k : Fin 32) (s : State) : exec (.drainComplete k) s = .next (drainComplete k s) := rfl

theorem exec_bankSwitchComplete (k : Fin 32) (s : State) :
    exec (.bankSwitchComplete k) s = .next (bankSwitchComplete k s) := rfl

theorem exec_windowStart (k : Fin 32) (s : State) : exec (.windowStart k) s = .next (windowStart k s) := rfl

theorem exec_windowOverrun (k : Fin 32) (s : State) : exec (.windowOverrun k) s = .next (windowOverrun k s) := rfl

theorem exec_windowEnd (k : Fin 32) (s : State) : exec (.windowEnd k) s = .next (windowEnd k s) := rfl

/-- Settles O17: each command that is due makes one change of phase or sequencers, and nothing that waits follows it. -/
theorem drainsSwitchesAndWindows : Obligations.DrainsSwitchesAndWindows := by
  unfold Obligations.DrainsSwitchesAndWindows
  refine ⟨?interrupt, ?toShadow, ?toMain, ?shadow, ?main, ?start, ?overrun, ?ends⟩
  case interrupt =>
    intro s k u hphase hover _ hmode hwindow hreclaim
    refine ⟨_, (exec_drainComplete k s).trans (congrArg _ (drainComplete_interrupt hphase hover hmode hwindow hreclaim)), ?_, ?_⟩
    · rw [modSeq_spire]
      exact setPhase_phase _ _ _
    · rw [modSeq_spire, setPhase_seq, (landResults_flow k s).seq]
      rfl
  case toShadow =>
    intro s k u hphase hover hmode
    have hafter := afterDrain_toShadow (k := k) (s := landResults k s) (by rwa [(landResults_flow k s).seq])
    refine ⟨_, (exec_drainComplete k s).trans (congrArg _ (drainComplete_switches hphase hover hmode hafter)),
      setPhase_phase _ _ _, ?_, (landResults_flow k s).only.trans (setPhase_only k _ _)⟩
    rw [setPhase_seq, (landResults_flow k s).seq]
  case toMain =>
    intro s k u hphase hover hmode
    refine ⟨_, (exec_drainComplete k s).trans (congrArg _ (drainComplete_switches hphase hover hmode afterDrain_toMain)),
      setPhase_phase _ _ _, ?_, (landResults_flow k s).only.trans (setPhase_only k _ _)⟩
    rw [setPhase_seq, (landResults_flow k s).seq]
  case shadow =>
    intro s k u hphase hover
    obtain ⟨hvu, honly⟩ := enterShadow_inUse (s := s) (k := k)
    refine ⟨_, (exec_bankSwitchComplete k s).trans (congrArg _ (bankSwitchComplete_over hphase hover)), ?_, ?_, honly⟩
    · exact congrArg VuState.inS hvu
    · exact congrArg VuState.phase hvu
  case main =>
    intro s k u hphase hover hmode howed hdome hwindow hreclaim
    have hgoes := (bankSwitchComplete_over hphase hover).trans (enterMain_goes hmode howed hdome hwindow hreclaim)
    refine ⟨_, (exec_bankSwitchComplete k s).trans (congrArg _ hgoes), ?_, ?_, ?_, (mainInUse_near k s).2⟩
    · exact congrArg VuState.inS (mainInUse_vu k s)
    · exact congrArg VuState.phase (mainInUse_vu k s)
    · rw [mainInUse_seq]
  case start =>
    intro s k a e test hnow hplan hwindow htakes hreclaim hphase hmain
    refine ⟨_, (exec_windowStart k s).trans (congrArg _ (windowStart_begins hnow hplan hwindow htakes hreclaim hphase hmain)),
      ?_, setPhase_phase _ _ _, (only_modSeq k _ s).trans (setPhase_only k _ _)⟩
    rw [setPhase_seq, modSeq_spire]
    exact SeqState.windowed_own hreclaim _ _
  case overrun =>
    intro s k hdue
    have hover := (exec_windowOverrun k s).trans (congrArg _ (windowOverrun_due hdue))
    cases hinS : (s.spire k).vu.inS with
    | true =>
      rw [hinS, if_pos rfl] at hover
      refine ⟨_, hover, ?_, rfl, ringDome_sets (by decide) _, ?_, (overran_only k s).trans (setPhase_only k _ _)⟩
      · rw [setPhase_seq, overran_seq]
      · intro _ hreclaim
        rw [setPhase_phase, hreclaim]
        rfl
    | false =>
      rw [hinS, if_neg Bool.false_ne_true] at hover
      exact ⟨_, hover, overran_seq k s, rfl, ringDome_sets (by decide) _, fun h => Bool.noConfusion h, overran_only k s⟩
  case ends =>
    intro s k hwindow hend hreclaim hmain hphase hmode hhold howed hdome
    have hgoes := (windowEnd_main hwindow hend hreclaim).trans (windowEndMain_goes hmain hphase hmode hhold howed hdome)
    exact ⟨_, (exec_windowEnd k s).trans (congrArg _ hgoes), by rw [modSeq_spire], only_modSeq k _ s⟩

end Sys2Proof.Machine

namespace Sys2Proof.Machine
open Sys2Proof

/-! ### Threads: one rule for each change (R227) -/

section
variable {s t u : State} {k n : Nat}

theorem cc_modCc (k : Nat) (f : CcState → CcState) (s : State) : ((s.modCc k f).spire k).cc = f (s.spire k).cc := by
  rw [modCc_spire]

@[simp] theorem thread_modThread (k n : Nat) (f : Thread → Thread) (s : State) :
    (s.modThread k n f).thread k n = f (s.thread k n) := by
  unfold State.thread State.modThread
  rw [cc_modCc]
  exact Tab.get_modify_same _ _ _ _

@[simp] theorem thread_countSpire (k ev m n : Nat) (s : State) : (countSpire k ev m s).thread k n = s.thread k n := by
  unfold State.thread
  rw [(countSpire_near k ev m s).2]

@[simp] theorem thread_modVu (k n : Nat) (f : VuState → VuState) (s : State) : (s.modVu k f).thread k n = s.thread k n := by
  unfold State.thread
  rw [modVu_spire]

@[simp] theorem thread_modSeq (k n : Nat) (f : SeqState → SeqState) (s : State) : (s.modSeq k f).thread k n = s.thread k n := by
  unfold State.thread
  rw [modSeq_spire]

/-- A thread that issues: it runs, and its program counter passes the instruction. -/
def Thread.issued (x : Thread) : Thread := { x with mode := .running, pc := x.pc + 4 }

@[simp] theorem ccBegin_thread (k n c : Nat) (s : State) : (ccBegin k n c s).thread k n = (s.thread k n).issued := by
  unfold State.thread ccBegin
  rw [cc_modCc]
  exact Tab.get_modify_same _ _ _ _

@[simp] theorem switchOut_thread (k n : Nat) (w : ThreadWait) (s : State) :
    (switchOut k n w s).thread k n = { s.thread k n with mode := .waiting, wait := w } := by
  rw [switchOut, thread_countSpire, thread_modThread]

@[simp] theorem switchReady_thread (k n : Nat) (s : State) :
    (switchReady k n s).thread k n = { s.thread k n with mode := .ready, wait := .nothing } := by
  rw [switchReady, thread_countSpire, thread_modThread]

/-! ### What threads leave alone -/

/-- From `s` to `t` only the control core and the counters of Spire `k` change, of all Spires. -/
structure OnlyCc (k : Nat) (s t : State) : Prop where
  spire : ∃ cc counts, t.spire k = { s.spire k with cc := cc, cnt := counts }
  others : OnlySpire k s t

theorem OnlyCc.trans (h : OnlyCc k s t) (g : OnlyCc k t u) : OnlyCc k s u := by
  obtain ⟨cc, counts, ht⟩ := h.spire
  obtain ⟨cc', counts', hu⟩ := g.spire
  exact ⟨⟨cc', counts', by rw [hu, ht]⟩, h.others.trans g.others⟩

theorem OnlyCc.seq (h : OnlyCc k s t) : (t.spire k).seq = (s.spire k).seq := by
  obtain ⟨_, _, ht⟩ := h.spire
  rw [ht]

theorem OnlyCc.vu (h : OnlyCc k s t) : (t.spire k).vu = (s.spire k).vu := by
  obtain ⟨_, _, ht⟩ := h.spire
  rw [ht]

theorem modCc_onlyCc (k : Nat) (f : CcState → CcState) (s : State) : OnlyCc k s (s.modCc k f) :=
  ⟨⟨_, _, modCc_spire k f s⟩, OnlySpire.modSpire k _ s⟩

theorem countSpire_onlyCc (k ev m : Nat) (s : State) : OnlyCc k s (countSpire k ev m s) :=
  ⟨⟨_, _, (countSpire_near k ev m s).2⟩, countSpire_only k ev m s⟩

theorem wakeFlags_onlyCc (k : Nat) (s : State) : OnlyCc k s (wakeFlags k s) := by
  unfold wakeFlags
  exact modCc_onlyCc k _ s

theorem ccBegin_onlyCc (k n c : Nat) (s : State) : OnlyCc k s (ccBegin k n c s) := modCc_onlyCc k _ s

theorem modThread_onlyCc (k n : Nat) (f : Thread → Thread) (s : State) : OnlyCc k s (s.modThread k n f) := modCc_onlyCc k _ s

theorem switchOut_onlyCc (k n : Nat) (w : ThreadWait) (s : State) : OnlyCc k s (switchOut k n w s) :=
  (modThread_onlyCc k n _ s).trans (countSpire_onlyCc k 0x0402 1 _)

theorem switchReady_onlyCc (k n : Nat) (s : State) : OnlyCc k s (switchReady k n s) :=
  (modThread_onlyCc k n _ s).trans (countSpire_onlyCc k 0x0402 1 _)

/-! ### Flags and YIELD (R227, R228) -/

theorem ccBegin_reseq (k n : Nat) (f : SeqState → SeqState) (s : State) :
    ((ccBegin k n 1 s).modSeq k f).thread k n = (s.thread k n).issued ∧
    Reseq k (f (s.spire k).seq) s ((ccBegin k n 1 s).modSeq k f) :=
  ⟨by rw [thread_modSeq, ccBegin_thread], by rw [modSeq_spire, (ccBegin_onlyCc k n 1 s).seq],
    (ccBegin_onlyCc k n 1 s).others.trans (only_modSeq k _ _)⟩

theorem ccIssue_may (f : State → State) (h : (wakeFlags k s).ccMay k n = true) : ccIssue k n f s = f (wakeFlags k s) := if_pos h

section
variable {rs1 m : Nat} (hm : m < 16) (hreg : ((s.thread k n).reg rs1).toNat = m)
include hm hreg

theorem ccFlag_set (rd rs2 : Nat) :
    (ccFlag k n 0 rd rs1 rs2 s).thread k n = (s.thread k n).issued ∧
    Reseq k ((s.spire k).seq.changeFlags s.cyc (BitVec.twoPow 16 m) 0) s (ccFlag k n 0 rd rs1 rs2 s) := by
  have hrun : ccFlag k n 0 rd rs1 rs2 s =
      (ccBegin k n 1 s).modSeq k (fun q => q.changeFlags s.cyc (BitVec.twoPow 16 m) 0) := by
    unfold ccFlag
    simp [hreg, hm]
  rw [hrun]
  exact ccBegin_reseq k n _ s

theorem ccFlag_clear (rd rs2 : Nat) :
    (ccFlag k n 1 rd rs1 rs2 s).thread k n = (s.thread k n).issued ∧
    Reseq k ((s.spire k).seq.changeFlags s.cyc 0 (BitVec.twoPow 16 m)) s (ccFlag k n 1 rd rs1 rs2 s) := by
  have hrun : ccFlag k n 1 rd rs1 rs2 s =
      (ccBegin k n 1 s).modSeq k (fun q => q.changeFlags s.cyc 0 (BitVec.twoPow 16 m)) := by
    unfold ccFlag
    simp [hreg, hm]
  rw [hrun]
  exact ccBegin_reseq k n _ s

theorem ccFlag_read (rd rs2 : Nat) :
    OnlyCc k s (ccFlag k n 2 rd rs1 rs2 s) ∧
    (ccFlag k n 2 rd rs1 rs2 s).thread k n =
      (s.thread k n).issued.setX rd (BitVec.ofNat 64 (b2n (((s.spire k).seq.flagsNow s.cyc).getLsbD m))) := by
  have hrun : ccFlag k n 2 rd rs1 rs2 s = (ccBegin k n 1 s).modThread k n
      (fun x => x.setX rd (BitVec.ofNat 64 (b2n (((s.spire k).seq.flagsNow s.cyc).getLsbD m)))) := by
    unfold ccFlag
    simp [hreg, hm]
  rw [hrun]
  exact ⟨(ccBegin_onlyCc k n 1 s).trans (modThread_onlyCc k n _ _), by rw [thread_modThread, ccBegin_thread]⟩

theorem ccFlag_wait (rd rs2 : Nat) :
    OnlyCc k s (ccFlag k n 3 rd rs1 rs2 s) ∧
    (ccFlag k n 3 rd rs1 rs2 s).thread k n =
      if ((s.spire k).seq.flagsNow s.cyc).getLsbD m = ((s.thread k n).reg rs2).getLsbD 0 then
        { (s.thread k n).issued with mode := .ready, wait := .nothing }
      else { (s.thread k n).issued with mode := .waiting, wait := .flag m (((s.thread k n).reg rs2).getLsbD 0) } := by
  have hrun : ccFlag k n 3 rd rs1 rs2 s =
      if ((s.spire k).seq.flagsNow s.cyc).getLsbD m = ((s.thread k n).reg rs2).getLsbD 0 then
        switchReady k n (ccBegin k n 1 s)
      else switchOut k n (.flag m (((s.thread k n).reg rs2).getLsbD 0)) (ccBegin k n 1 s) := by
    unfold ccFlag
    simp [hreg, hm]
  rw [hrun]
  split
  · exact ⟨(ccBegin_onlyCc k n 1 s).trans (switchReady_onlyCc k n _), by rw [switchReady_thread, ccBegin_thread]⟩
  · exact ⟨(ccBegin_onlyCc k n 1 s).trans (switchOut_onlyCc k n _ _), by rw [switchOut_thread, ccBegin_thread]⟩

end

/-! ### The state path (R204, R205, R229) -/

/-- Change the accesses of Spire `k`'s state path. -/
def State.modPaths (s : State) (k : Nat) (f : List PathAccess → List PathAccess) : State :=
  s.modCc k (fun c => { c with paths := f c.paths })

/-- The accesses of Spire `k`'s state path. -/
def State.paths (s : State) (k : Nat) : List PathAccess := (s.spire k).cc.paths

@[simp] theorem paths_modPaths (k : Nat) (f : List PathAccess → List PathAccess) (s : State) :
    (s.modPaths k f).paths k = f (s.paths k) := by
  rw [State.paths, State.modPaths, cc_modCc, State.paths]

@[simp] theorem thread_modPaths (k n : Nat) (f : List PathAccess → List PathAccess) (s : State) :
    (s.modPaths k f).thread k n = s.thread k n := by
  rw [State.thread, State.modPaths, cc_modCc, State.thread]

@[simp] theorem paths_modThread (k n : Nat) (f : Thread → Thread) (s : State) : (s.modThread k n f).paths k = s.paths k := by
  rw [State.paths, State.modThread, cc_modCc, State.paths]

@[simp] theorem paths_modVu (k : Nat) (f : VuState → VuState) (s : State) : (s.modVu k f).paths k = s.paths k := by
  rw [State.paths, modVu_spire, State.paths]

@[simp] theorem paths_ccBegin (k n c : Nat) (s : State) : (ccBegin k n c s).paths k = s.paths k := by
  rw [State.paths, ccBegin, cc_modCc, State.paths]

@[simp] theorem paths_wakeFlags (k : Nat) (s : State) : (wakeFlags k s).paths k = s.paths k := by
  rw [State.paths, wakeFlags, cc_modCc, State.paths]

@[simp] theorem paths_switchOut (k n : Nat) (w : ThreadWait) (s : State) : (switchOut k n w s).paths k = s.paths k := by
  rw [switchOut, State.paths, (countSpire_near k 0x0402 1 _).2]
  exact paths_modThread k n _ s

theorem modPaths_onlyCc (k : Nat) (f : List PathAccess → List PathAccess) (s : State) : OnlyCc k s (s.modPaths k f) :=
  modCc_onlyCc k _ s

theorem pathStart_none (h : s.paths k = []) : pathStart k s = s := by
  unfold State.paths at h
  unfold pathStart
  dsimp only
  rw [h]

theorem pathStart_begins {p : PathAccess} {rest : List PathAccess} (hpaths : s.paths k = p :: rest)
    (hdue : p.due = none) (hmain : (s.spire k).vu.inS = false) : pathStart k s =
      s.modPaths k (fun _ => { p with due := some (max s.cyc (s.spire k).vu.memDone + 6) } :: rest) := by
  unfold State.paths at hpaths
  unfold pathStart
  dsimp only
  rw [hpaths]
  exact if_neg (by simp [hdue, hmain])

/-- Thread `n` issues the access `p` and waits for its end. -/
def askPath (k n : Nat) (p : PathAccess) (s : State) : State :=
  (switchOut k n .path (ccBegin k n 1 s)).modPaths k (fun l => l ++ [p])

theorem askPath_onlyCc (k n : Nat) (p : PathAccess) (s : State) : OnlyCc k s (askPath k n p s) :=
  ((ccBegin_onlyCc k n 1 s).trans (switchOut_onlyCc k n .path _)).trans (modPaths_onlyCc k _ _)

theorem askPath_cyc (k n : Nat) (p : PathAccess) (s : State) : (askPath k n p s).cyc = s.cyc :=
  cyc_of_slow (switchOut_slow k n .path (ccBegin k n 1 s))

theorem askPath_paths (k n : Nat) (p : PathAccess) (s : State) : (askPath k n p s).paths k = s.paths k ++ [p] := by
  rw [askPath, paths_modPaths, paths_switchOut, paths_ccBegin]

theorem askPath_thread (k n : Nat) (p : PathAccess) (s : State) :
    (askPath k n p s).thread k n = { (s.thread k n).issued with mode := .waiting, wait := .path } := by
  rw [askPath, thread_modPaths, switchOut_thread, ccBegin_thread]

theorem pathAccess_asks (write : Bool) (index : Nat) (v : DWord) (rd : Nat) :
    pathAccess k n write index v rd s = pathStart k (askPath k n ⟨n, write, index, v, rd, s.cyc, none⟩ s) := rfl

/-- An access with none before it starts at once, after the last vector load or store (R204, R229). -/
theorem pathAccess_starts (write : Bool) (index : Nat) (v : DWord) (rd : Nat) (hpaths : s.paths k = [])
    (hmain : (s.spire k).vu.inS = false) :
    OnlyCc k s (pathAccess k n write index v rd s) ∧
    (pathAccess k n write index v rd s).thread k n = { (s.thread k n).issued with mode := .waiting, wait := .path } ∧
    (pathAccess k n write index v rd s).paths k =
      [⟨n, write, index, v, rd, s.cyc, some (max s.cyc (s.spire k).vu.memDone + 6)⟩] := by
  have honly := askPath_onlyCc k n ⟨n, write, index, v, rd, s.cyc, none⟩ s
  have hasked : (askPath k n ⟨n, write, index, v, rd, s.cyc, none⟩ s).paths k = [⟨n, write, index, v, rd, s.cyc, none⟩] := by
    rw [askPath_paths, hpaths, List.nil_append]
  rw [pathAccess_asks, pathStart_begins hasked rfl (by rw [honly.vu, hmain]), askPath_cyc, honly.vu]
  exact ⟨honly.trans (modPaths_onlyCc k _ _), by rw [thread_modPaths, askPath_thread], paths_modPaths k _ _⟩

section
variable {p : PathAccess} {d : Nat} (hpaths : s.paths k = [p]) (hdue : p.due = some d) (hover : d ≤ s.cyc)
  (hthread : p.thread = n)
include hpaths hdue hover hthread

/-- The word that a read puts into rd is BANK_M's as it stands (R205). -/
theorem pathEnd_read (hread : p.write = false) : pathEnd k s =
    ((s.modPaths k (fun _ => [])).modThread k n
      (fun x => x.setX p.rd (BitVec.ofNat 64 ((s.spire k).vu.bankM.stateWord p.index)))).modThread k n Thread.wake := by
  have hword : ((s.modPaths k (fun _ => [])).spire k).vu = (s.spire k).vu := (modPaths_onlyCc k _ s).vu
  unfold State.paths at hpaths
  unfold pathEnd
  rw [hpaths]
  dsimp only
  rw [hdue]
  dsimp only
  rw [if_neg (Nat.not_lt.mpr hover), hread, if_neg Bool.false_ne_true, hthread]
  change pathStart k (((s.modPaths k (fun _ => [])).modThread k n (fun x => x.setX p.rd (BitVec.ofNat 64
    (((s.modPaths k (fun _ => [])).spire k).vu.bankM.stateWord p.index)))).modThread k n Thread.wake) = _
  rw [pathStart_none (by simp), hword]

theorem pathEnd_write (hwrite : p.write = true) (hindex : p.index < stateWords) : pathEnd k s =
    ((s.modPaths k (fun _ => [])).modVu k
      (fun v => { v with bankM := v.bankM.setStateWord p.index p.value.toNat })).modThread k n Thread.wake := by
  unfold State.paths at hpaths
  unfold pathEnd
  rw [hpaths]
  dsimp only
  rw [hdue]
  dsimp only
  rw [if_neg (Nat.not_lt.mpr hover), hwrite, if_pos rfl, if_pos hindex, hthread]
  exact pathStart_none (s := ((s.modPaths k (fun _ => [])).modVu k _).modThread k n Thread.wake) (by simp)

end

/-! ### Acceptance of a store (R403) -/

theorem localStoreAccept_accepts {rd due st : Nat} (hwait : (s.thread k n).wait = .store rd due st) (hdue : due ≤ s.cyc)
    (hqueue : ∀ r ∈ s.rm.reqs, r.ctx = 8 * k + n → r.queued = false) :
    localStoreAccept k n s = s.modThread k n (fun y => (y.setX rd (BitVec.ofNat 64 st)).wake) := by
  have hfree : s.rm.reqs.any (fun r => r.ctx == 8 * k + n && r.queued) = false := by
    rw [List.any_eq_false]
    intro r hr
    simpa using hqueue r hr
  unfold localStoreAccept
  rw [hwait]
  dsimp only
  rw [hfree]
  exact if_pos (by simp [hdue])

end

theorem exec_flag (k : Fin 32) (th : Fin 8) (f : Nat) (rd rs1 rs2 : Fin 32) {s : State}
    (hmay : (wakeFlags k s).ccMay k th = true) :
    exec (.flag k th f rd rs1 rs2) s = .next (ccFlag k th f rd rs1 rs2 (wakeFlags k s)) :=
  congrArg Host.Outcome.next (ccIssue_may _ hmay)

theorem exec_yield (k : Fin 32) (th : Fin 8) {s : State} (hmay : (wakeFlags k s).ccMay k th = true) :
    exec (.yield k th) s = .next (switchReady k th (ccBegin k th 1 (wakeFlags k s))) :=
  congrArg Host.Outcome.next (ccIssue_may _ hmay)

theorem exec_sprR (k : Fin 32) (th : Fin 8) (rd rs1 : Fin 32) {s : State} (hmay : (wakeFlags k s).ccMay k th = true) :
    exec (.sprR k th rd rs1) s =
      .next (pathAccess k th false (((wakeFlags k s).thread k th).reg rs1).toNat 0 rd (wakeFlags k s)) :=
  congrArg Host.Outcome.next (ccIssue_may _ hmay)

theorem exec_sprW (k : Fin 32) (th : Fin 8) (rs1 rs2 : Fin 32) {s : State} (hmay : (wakeFlags k s).ccMay k th = true) :
    exec (.sprW k th rs1 rs2) s = .next (pathAccess k th true (((wakeFlags k s).thread k th).reg rs1).toNat
      (((wakeFlags k s).thread k th).reg rs2) 0 (wakeFlags k s)) :=
  congrArg Host.Outcome.next (ccIssue_may _ hmay)

theorem exec_statePathAccessEnd (k : Fin 32) (s : State) : exec (.statePathAccessEnd k) s = .next (pathEnd k s) := rfl

theorem exec_localEngineStoreAccept (k : Fin 32) (th : Fin 8) (s : State) :
    exec (.localEngineStoreAccept k th) s = .next (localStoreAccept k th s) := rfl

/-- Settles O22: each instruction is its own change of the thread, the flags or the state path, on the state in which the
threads that wait for a flag have woken. -/
theorem threadsTouchFlagsAndStateWords : Obligations.ThreadsTouchFlagsAndStateWords := by
  unfold Obligations.ThreadsTouchFlagsAndStateWords
  intro s k th w x on now
  have hwake : OnlyCc k s w := wakeFlags_onlyCc k s
  refine ⟨fun hmay => ⟨?flag, ?yield, ?path⟩, ?pathEnd, ?accept⟩
  case flag =>
    intro rd rs1 rs2 n hn hreg
    refine ⟨?set, ?clear, ?read, ?wait⟩
    case set =>
      obtain ⟨hthread, hseq, honly⟩ := ccFlag_set hn hreg rd rs2
      rw [hwake.seq] at hseq
      exact ⟨_, exec_flag k th 0 rd rs1 rs2 hmay, hthread, hseq, hwake.others.trans honly⟩
    case clear =>
      obtain ⟨hthread, hseq, honly⟩ := ccFlag_clear hn hreg rd rs2
      rw [hwake.seq] at hseq
      exact ⟨_, exec_flag k th 1 rd rs1 rs2 hmay, hthread, hseq, hwake.others.trans honly⟩
    case read =>
      obtain ⟨hflag, hthread⟩ := ccFlag_read hn hreg rd rs2
      exact ⟨_, exec_flag k th 2 rd rs1 rs2 hmay, hthread, (hwake.trans hflag).seq, (hwake.trans hflag).others⟩
    case wait =>
      obtain ⟨hflag, hthread⟩ := ccFlag_wait hn hreg rd rs2
      exact ⟨_, exec_flag k th 3 rd rs1 rs2 hmay, hthread, (hwake.trans hflag).seq, (hwake.trans hflag).others⟩
  case yield =>
    have honly := hwake.trans ((ccBegin_onlyCc k th 1 w).trans (switchReady_onlyCc k th _))
    refine ⟨_, exec_yield k th hmay, ?_, honly.seq, honly.others⟩
    rw [switchReady_thread, ccBegin_thread]
    rfl
  case path =>
    intro hpaths hmain rd rs1 rs2
    have hnone : w.paths k = [] := (paths_wakeFlags k s).trans hpaths
    have hmainNow : (w.spire k).vu.inS = false := by rw [hwake.vu, hmain]
    constructor
    · obtain ⟨honly, hthread, hstarted⟩ := pathAccess_starts (n := th) false (x.reg rs1).toNat 0 rd hnone hmainNow
      rw [hwake.vu] at hstarted
      exact ⟨_, exec_sprR k th rd rs1 hmay, hthread, hstarted, (hwake.trans honly).vu, (hwake.trans honly).others⟩
    · obtain ⟨honly, hthread, hstarted⟩ := pathAccess_starts (n := th) true (x.reg rs1).toNat (x.reg rs2) 0 hnone hmainNow
      rw [hwake.vu] at hstarted
      exact ⟨_, exec_sprW k th rs1 rs2 hmay, hthread, hstarted, (hwake.trans honly).vu, (hwake.trans honly).others⟩
  case pathEnd =>
    intro p d hpaths hdue hover hthread
    have hdrop : OnlyCc k s (s.modPaths k (fun _ => [])) := modPaths_onlyCc k _ s
    constructor
    · intro hread
      have honly := (hdrop.trans (modThread_onlyCc k th
        (fun x => x.setX p.rd (BitVec.ofNat 64 ((s.spire k).vu.bankM.stateWord p.index))) _)).trans
        (modThread_onlyCc k th Thread.wake _)
      refine ⟨_, (exec_statePathAccessEnd k s).trans (congrArg _ (pathEnd_read hpaths hdue hover hthread hread)), ?_, ?_,
        honly.vu, honly.others⟩
      · exact (paths_modThread k th _ _).trans ((paths_modThread k th _ _).trans (paths_modPaths k _ s))
      · rw [thread_modThread, thread_modThread, thread_modPaths]
    · intro hwrite hindex
      refine ⟨_, (exec_statePathAccessEnd k s).trans (congrArg _ (pathEnd_write hpaths hdue hover hthread hwrite hindex)),
        ?_, ?_, ?_, ?_⟩
      · exact (paths_modThread k th _ _).trans ((paths_modVu k _ _).trans (paths_modPaths k _ s))
      · rw [thread_modThread, thread_modVu, thread_modPaths]
      · rw [(modThread_onlyCc k th _ _).vu, modVu_spire, hdrop.vu]
      · exact (hdrop.others.trans (only_modVu k _ _)).trans (modThread_onlyCc k th _ _).others
  case accept =>
    exact fun rd due st hwait hdue hqueue =>
      (exec_localEngineStoreAccept k th s).trans (congrArg _ (localStoreAccept_accepts hwait hdue hqueue))

end Sys2Proof.Machine

namespace Sys2Proof.Machine
open Sys2Proof

/-! ### Holds (R212, R451) -/

section
variable {s t on u : State} {k : Nat} {inS : Bool} {h : Hold}

theorem steady_of_canIssue (hissue : s.canIssue k = true) : (s.spire k).vu.phase = .steady := by
  simp only [State.canIssue, Bool.and_eq_true, decide_eq_true_eq] at hissue
  obtain ⟨⟨hsteady, -⟩, -⟩ := hissue
  exact hsteady

/-- From `s` to `on` Spire `k` has gone on with the bundle after one that holds a control operation alone: its sequencers are at the
next bundle, its vector unit and its counters may differ, and the bank in use is steady. -/
structure WentOn (k : Nat) (s on : State) : Prop where
  near : Near k s on
  spire : on.spire k = { s.spire k with vu := (on.spire k).vu, cnt := (on.spire k).cnt, seq := s.seqOn k }
  inS : (on.spire k).vu.inS = (s.spire k).vu.inS
  steady : (on.spire k).vu.phase = .steady

/-- Going on changes of the sequencers the next bundles and the earliest CCLK of their issue alone. -/
theorem seqOn_eq (k : Nat) (s : State) : s.seqOn k =
    { (s.spire k).seq with pc := (s.seqOn k).pc, pcS := (s.seqOn k).pcS, nextIssue := (s.seqOn k).nextIssue } := by
  unfold State.seqOn SeqState.goto
  dsimp only
  split <;> rfl

namespace WentOn
variable (hwent : WentOn k s on)
include hwent

theorem seq : (on.spire k).seq = s.seqOn k := by rw [hwent.spire]

theorem arr : (on.spire k).arr = (s.spire k).arr := by rw [hwent.spire]

theorem passesGone : (on.spire k).passesGone = (s.spire k).passesGone := by
  unfold Spire.passesGone
  rw [hwent.arr, hwent.seq, seqOn_eq]

theorem reclaimRuns : on.reclaimRuns k = s.reclaimRuns k :=
  reclaimRuns_of hwent.near (by rw [hwent.seq, seqOn_eq])

theorem role : on.role k = s.role k := by
  rw [hwent.near.1]
  rfl

/-- A bundle's issue changes no condition of a hold. -/
theorem holdMet (inS : Bool) (h : Hold) : on.holdMet k inS h = s.holdMet k inS h := by
  cases h with
  | wrel => exact hwent.passesGone
  | endCtx c => exact hwent.passesGone
  | wflag f sense =>
    unfold State.holdMet
    rw [hwent.seq, seqOn_eq, hwent.near.cyc]
    rfl
  | wplan p =>
    rw [hwent.near.1]
    rfl
  | issue a => exact hwent.near.issueAllowed hwent.arr (by rw [hwent.spire]) (by rw [hwent.spire]) inS a

end WentOn

theorem wentOn_stepOn (hissue : s.canIssue k = true) (hnear : Near k s u) (hlike : LikeSpire (s.spire k) (u.spire k)) :
    WentOn k s (stepOn k (s.nextBundle k) (u.spire k).vu.inS u) := by
  obtain ⟨honNear, hspire, hinS, hphase⟩ := ctl_on hnear hlike (s.nextBundle k)
  exact ⟨honNear, hspire, hinS, hphase.trans (steady_of_canIssue hissue)⟩

/-- The hold that an operation which may hold begins, in the bank in use (Table 7.2). -/
inductive CtlOp.Holds (s : State) (k : Nat) : CtlOp → Hold → Prop where
  | wrel : Holds s k .wrel .wrel
  | wplan (p : Nat) : Holds s k (.wplan p) (.wplan (s.nextPlan p))
  | issue (d : Nat) : Holds s k (.issue d) (.issue (32 * d))
  | wflag (f : Nat) (sense : Bool) (hmain : (s.spire k).vu.inS = false) : Holds s k (.wflag f sense) (.wflag f sense)
  | ctlEnd (c : Nat) (hmain : (s.spire k).vu.inS = false) : Holds s k (.ctlEnd c) (.endCtx c)

/-- An operation that may hold goes on to the next bundle, and its hold begins. -/
theorem ctlIssue_holds {op : CtlOp} (hissue : s.canIssue k = true) (hdecode : decodeCtl op.encode = some op)
    (hop : op.Holds s k h) : ∃ on, WentOn k s on ∧ ctlIssue k op s = beginHold k (s.spire k).vu.inS h on := by
  obtain ⟨on, hnear, hspire, hinS, hsteady, hrun⟩ := ctl_held hissue hdecode (h := h) (by
    cases hop with
    | wrel => exact .inl ⟨rfl, rfl⟩
    | wplan p => exact .inr (.inl ⟨p, rfl, rfl⟩)
    | issue d => exact .inr (.inr (.inl ⟨d, rfl, rfl⟩))
    | wflag f sense hmain => exact .inr (.inr (.inr ⟨hmain, .inl ⟨f, sense, rfl, rfl⟩⟩))
    | ctlEnd c hmain => exact .inr (.inr (.inr ⟨hmain, .inr ⟨c, rfl, rfl⟩⟩)))
  exact ⟨on, ⟨hnear, hspire, hinS, hsteady⟩, hrun⟩

/-- If the condition is not met, the bank holds. -/
theorem ctlIssue_unmet {op : CtlOp} (hissue : s.canIssue k = true) (hdecode : decodeCtl op.encode = some op)
    (hop : op.Holds s k h) (hunmet : s.holdMet k (s.spire k).vu.inS h = false) :
    ((ctlIssue k op s).spire k).seq = (s.seqOn k).setHold (s.spire k).vu.inS (some h) := by
  obtain ⟨on, hwent, hrun⟩ := ctlIssue_holds hissue hdecode hop
  rw [hrun, beginHold_not (by rw [hwent.holdMet, hunmet]), hwent.seq]

/-- If the condition is met, the hold is over as it begins. -/
theorem ctlIssue_met {op : CtlOp} (hissue : s.canIssue k = true) (hdecode : decodeCtl op.encode = some op)
    (hop : op.Holds s k h) (hmet : s.holdMet k (s.spire k).vu.inS h = true) :
    ∃ on, WentOn k s on ∧ ctlIssue k op s = holdDone k (s.spire k).vu.inS h on := by
  obtain ⟨on, hwent, hrun⟩ := ctlIssue_holds hissue hdecode hop
  exact ⟨on, hwent, by rw [hrun, beginHold_met (by rw [hwent.holdMet, hmet])]⟩

/-- A hold that waits for its condition and does nothing more. -/
def Hold.waits : Hold → Bool
  | .wrel | .wflag _ _ | .wplan _ => true
  | .issue _ | .endCtx _ => false

theorem holdDone_waits (inS : Bool) (hwaits : h.waits = true) (s : State) : holdDone k inS h s = s := by
  cases h with
  | wrel | wflag | wplan => rfl
  | issue | endCtx => exact Bool.noConfusion hwaits

theorem ctlIssue_waits {op : CtlOp} (hissue : s.canIssue k = true) (hdecode : decodeCtl op.encode = some op)
    (hop : op.Holds s k h) (hwaits : h.waits = true) :
    ((ctlIssue k op s).spire k).seq =
      if s.holdMet k (s.spire k).vu.inS h = true then s.seqOn k
      else (s.seqOn k).setHold (s.spire k).vu.inS (some h) := by
  split
  next hmet =>
    obtain ⟨on, hwent, hrun⟩ := ctlIssue_met hissue hdecode hop hmet
    rw [hrun, holdDone_waits _ hwaits, hwent.seq]
  next hunmet => exact ctlIssue_unmet hissue hdecode hop (Bool.eq_false_iff.mpr hunmet)

theorem holdMet_wplan (inS : Bool) (p : Nat) : s.holdMet k inS (.wplan p) = true ↔ s.hasPlan = true ∧ p ≤ s.planTotal := by
  simp [State.holdMet]

/-- An ISSUE that may be carried out waits for its decision (R219). -/
theorem ctlIssue_issue {d : Nat} (hissue : s.canIssue k = true) (hd : d < 2 ^ 20) (heven : d % 2 = 0) :
    ((ctlIssue k (.issue d) s).spire k).seq =
      if s.issueAllowed k (s.spire k).vu.inS (32 * d) = true
      then { s.seqOn k with
        issues := (s.spire k).seq.issues ++
          [⟨32 * d, s.cyc, false, (s.spire k).vu.inS, (s.seqOn k).nextPc (s.spire k).vu.inS - 1, none, none⟩] }
      else (s.seqOn k).setHold (s.spire k).vu.inS (some (.issue (32 * d))) := by
  have hdecode := decodeCtl_issue hd heven
  have hissues : (s.seqOn k).issues = (s.spire k).seq.issues := by rw [seqOn_eq]
  split
  next hmet =>
    obtain ⟨on, hwent, hrun⟩ := ctlIssue_met hissue hdecode (.issue d) hmet
    rw [hrun]
    change ((startIssue k _ _ _ on).spire k).seq = _
    rw [startIssue, modSeq_spire, hwent.seq, hwent.near.cyc, hissues]
  next hunmet => exact ctlIssue_unmet hissue hdecode (.issue d) (Bool.eq_false_iff.mpr hunmet)

/-- END with no pass left: the context ends (R212, R274). -/
theorem ctlIssue_ctlEnd_met {c : Nat} (hissue : s.canIssue k = true) (hc : c < 256) (hmain : (s.spire k).vu.inS = false)
    (hgone : (s.spire k).passesGone = true) :
    ((ctlIssue k (.ctlEnd c) s).spire k).seq.mode = .ending ∧
    ((ctlIssue k (.ctlEnd c) s).spire k).vu.phase = .draining (s.cyc + 12) .ending := by
  obtain ⟨on, hwent, hrun⟩ := ctlIssue_met hissue (decodeCtl_ctlEnd hc) (.ctlEnd c hmain) hgone
  rw [hrun, ← hwent.near.cyc]
  exact enterEnding_spec k on (hwent.inS.trans hmain) hwent.steady

/-! ### RET and WEND -/

/-- The drain after which BANK_M is in use again begins in CCLK `c` + 1 (R201, R455). -/
def drainBack (k c : Nat) (s : State) : State := s.modVu k (fun v => { v with phase := .draining (c + 13) .toMain })

theorem ctlIssue_ret (hissue : s.canIssue k = true) (hhandler : (s.spire k).seq.inHandler = true) :
    ∃ on, WentOn k s on ∧ ctlIssue k .ret s =
      if (s.spire k).vu.inS then drainBack k s.cyc (on.modSeq k (fun q => { q with inHandler := false }))
      else on.modSeq k (fun q => { q.goto false q.resume.toNat (s.cyc + 1) with inHandler := false }) := by
  obtain ⟨-, -, hdecode, -⟩ := decodeCtl_plain
  obtain ⟨u, hnear, hlike, hrun⟩ := ctlIssue_spec hissue hdecode
  have hwent := wentOn_stepOn hissue hnear hlike
  obtain ⟨hspire, hinS, hphase, -⟩ := hlike
  have hhandlerNow : (u.spire k).seq.inHandler = true := by rw [hspire, ← hhandler]
  have hsteady : ¬ (u.spire k).vu.phase ≠ .steady := by simp [hphase, steady_of_canIssue hissue]
  refine ⟨_, hwent, hrun.trans ?_⟩
  unfold runCtl
  dsimp only
  rw [if_pos hhandlerNow, if_neg hsteady, hinS, hnear.cyc]
  rfl

theorem ctlIssue_wend (hissue : s.canIssue k = true) (hshadow : (s.spire k).vu.inS = true) :
    ∃ on, WentOn k s on ∧ ctlIssue k .wend s = wend k (s.nextBundle k) on := by
  obtain ⟨-, -, -, hdecode⟩ := decodeCtl_plain
  obtain ⟨u, hnear, hlike, hrun⟩ := ctlIssue_spec hissue hdecode
  have hwent := wentOn_stepOn hissue hnear hlike
  obtain ⟨-, hinS, -⟩ := hlike
  refine ⟨_, hwent, hrun.trans ?_⟩
  unfold runCtl
  exact if_pos (hinS.trans hshadow)

theorem wend_reclaim (pc : Nat) (hsteady : (s.spire k).vu.phase = .steady) (hruns : s.reclaimRuns k = true) :
    wend k pc s = drainBack k s.cyc (s.modSeq k (fun q => { q with reclaim := false, stopReclaim := false })) := by
  unfold wend
  dsimp only
  rw [if_neg (by simp [hsteady]), if_pos hruns]
  rfl

theorem wend_window (pc : Nat) (hsteady : (s.spire k).vu.phase = .steady) (hwindow : (s.spire k).seq.window = true)
    (hreclaim : (s.spire k).seq.reclaim = false) (hrole : s.role k ≠ .radioOwned) :
    wend k pc s = drainBack k s.cyc (s.modSeq k (fun q => { q with windowOver := true })) := by
  have hruns : ¬ s.reclaimRuns k = true := by simp [State.reclaimRuns, hreclaim]
  unfold wend
  dsimp only
  rw [if_neg (by simp [hsteady]), if_neg hruns, if_pos (by simp [hwindow, hrole]), if_neg (by simp [hreclaim])]
  rfl

theorem drainBack_spire (k c : Nat) (f : SeqState → SeqState) (s : State) :
    (drainBack k c (s.modSeq k f)).spire k = { s.spire k with
      seq := f (s.spire k).seq, vu := { (s.spire k).vu with phase := .draining (c + 13) .toMain } } := by
  rw [drainBack, modVu_spire, modSeq_spire]

/-! ### HOLD_RELEASE -/

theorem holdRelease_met (hhold : (s.spire k).seq.getHold (s.spire k).vu.inS = some h)
    (hgoes : s.bankGoes k (s.spire k).vu.inS = true) (hmet : s.holdMet k (s.spire k).vu.inS h = true)
    (hwaits : h.waits = true) :
    holdRelease k s = s.modSeq k (fun q => { q.setHold (s.spire k).vu.inS none with nextIssue := s.cyc + 1 }) := by
  unfold holdRelease
  dsimp only
  rw [hhold]
  exact (if_pos (by rw [hgoes, hmet]; rfl)).trans (holdDone_waits _ hwaits _)

end

theorem exec_wrel (k : Fin 32) (s : State) : exec (.wrel k) s = .next (ctlIssue k .wrel s) := rfl

theorem exec_wflag (k : Fin 32) (f : Fin 16) (sense : Bool) (s : State) :
    exec (.wflag k f sense) s = .next (ctlIssue k (.wflag f sense) s) := rfl

theorem exec_wplan {p : Nat} (k : Fin 32) (hp : p < 2 ^ 20) (s : State) :
    exec (.wplan k p) s = .next (ctlIssue k (.wplan p) s) := by
  change Host.Outcome.next (ctlIssue k (.wplan (p % 2 ^ 20)) s) = _
  rw [Nat.mod_eq_of_lt hp]

/-- With no decision due, a bundle with the ISSUE issues. -/
theorem exec_issue_bundle {d : Nat} {k : Fin 32} {s : State} (hd : d < 2 ^ 20) (hdue : (s.spire k).seq.dueIssue s.cyc = none) :
    exec (.issue k d) s = .next (ctlIssue k (.issue d) s) := by
  change Host.Outcome.next (issueRow k d s) = _
  rw [issueRow, hdue, Nat.mod_eq_of_lt hd]

theorem exec_ctlEnd {c : Nat} (k : Fin 32) (hc : c < 256) (s : State) :
    exec (.ctlEnd k c) s = .next (ctlIssue k (.ctlEnd c) s) := by
  change Host.Outcome.next (ctlIssue k (.ctlEnd (c % 256)) s) = _
  rw [Nat.mod_eq_of_lt hc]

theorem exec_ret (k : Fin 32) (s : State) : exec (.ret k) s = .next (ctlIssue k .ret s) := rfl

theorem exec_wend (k : Fin 32) (s : State) : exec (.wend k) s = .next (ctlIssue k .wend s) := rfl

theorem exec_holdRelease (k : Fin 32) (s : State) : exec (.holdRelease k) s = .next (holdRelease k s) := rfl

/-- Settles O15: an operation that may hold goes on to the next bundle and then holds or does what its met condition lets it do;
RET and WEND act on the state that has gone on. -/
theorem holdsAndEndings : Obligations.HoldsAndEndings := by
  unfold Obligations.HoldsAndEndings
  intro s k q inS pc go
  refine ⟨fun hissue => ⟨?wrel, ?wflag, ?wplan, ?issue, ?endHolds, ?ends, ?retMain, ?retShadow, ?wendReclaim, ?wendWindow⟩, ?release⟩
  case wrel =>
    obtain ⟨-, hdecode, -⟩ := decodeCtl_plain
    exact ⟨_, exec_wrel k s, ctlIssue_waits hissue hdecode .wrel rfl⟩
  case wflag =>
    intro f sense hmain
    exact ⟨_, exec_wflag k f sense s, ctlIssue_waits hissue (decodeCtl_wflag f.isLt) (.wflag f sense hmain) rfl⟩
  case wplan =>
    intro p hp
    have hwaits := ctlIssue_waits hissue (decodeCtl_wplan hp) (.wplan p) rfl
    simp only [holdMet_wplan] at hwaits
    exact ⟨_, exec_wplan k (by omega) s, hwaits⟩
  case issue => exact fun d hd heven hdue => ⟨_, exec_issue_bundle hd hdue, ctlIssue_issue hissue hd heven⟩
  case endHolds =>
    intro c hc hmain hgone
    exact ⟨_, exec_ctlEnd k hc s, ctlIssue_unmet hissue (decodeCtl_ctlEnd hc) (.ctlEnd c hmain) hgone⟩
  case ends =>
    exact fun c hc hmain hgone => ⟨_, exec_ctlEnd k hc s, ctlIssue_ctlEnd_met hissue hc hmain hgone⟩
  case retMain =>
    intro hhandler hmain
    obtain ⟨on, hwent, hrun⟩ := ctlIssue_ret hissue hhandler
    rw [if_neg (by simpa using hmain)] at hrun
    refine ⟨_, (exec_ret k s).trans (congrArg _ hrun), ?_⟩
    have hresume : (s.seqOn k).resume = q.resume := by rw [seqOn_eq]
    rw [modSeq_spire, hwent.seq, hresume]
    rfl
  case retShadow =>
    intro hhandler hshadow
    obtain ⟨on, hwent, hrun⟩ := ctlIssue_ret hissue hhandler
    rw [if_pos hshadow] at hrun
    refine ⟨_, (exec_ret k s).trans (congrArg _ hrun), ?_, ?_⟩ <;> rw [drainBack_spire]
    · rw [hwent.seq]
      rfl
  case wendReclaim =>
    intro hshadow hruns
    obtain ⟨on, hwent, hrun⟩ := ctlIssue_wend hissue hshadow
    rw [wend_reclaim _ hwent.steady (by rw [hwent.reclaimRuns, hruns])] at hrun
    refine ⟨_, (exec_wend k s).trans (congrArg _ hrun), ?_, ?_⟩ <;> rw [drainBack_spire]
    · rw [hwent.seq]
      rfl
    · rw [hwent.near.cyc]
  case wendWindow =>
    intro hshadow hwindow hreclaim hrole
    obtain ⟨on, hwent, hrun⟩ := ctlIssue_wend hissue hshadow
    have hseq := hwent.seq.trans (seqOn_eq k s)
    rw [wend_window _ hwent.steady (by rw [hseq, ← hwindow]) (by rw [hseq, ← hreclaim]) (by rwa [hwent.role])] at hrun
    refine ⟨_, (exec_wend k s).trans (congrArg _ hrun), ?_, ?_⟩ <;> rw [drainBack_spire]
    · rw [hwent.seq]
      rfl
    · rw [hwent.near.cyc]
  case release =>
    intro h hhold hgoes hmet hkind
    have hwaits : h.waits = true := by
      obtain rfl | ⟨f, sense, rfl⟩ | ⟨p, rfl⟩ := hkind <;> rfl
    refine ⟨_, (exec_holdRelease k s).trans (congrArg _ (holdRelease_met hhold hgoes hmet hwaits)), ?_, only_modSeq k _ s⟩
    rw [modSeq_spire]

end Sys2Proof.Machine

namespace Sys2Proof.Machine
open Sys2Proof

/-! ### Loads and wipes (R241, R244) -/

section
variable {s t : State} {k : Nat}

theorem jobPart_congr (h : (t.spire k).xb.jobLimit = (s.spire k).xb.jobLimit) : t.jobPart k = s.jobPart k := by
  rw [State.jobPart, h, State.jobPart]

theorem wipeJobPart_spire (k : Nat) (s : State) :
    (wipeJobPart k s).spire k = { s.spire k with store := (s.spire k).store.clearRange 0 (s.jobPart k) } :=
  modStore_spire k _ s

theorem wipeJobPart_near (k : Nat) (s : State) : Near k s (wipeJobPart k s) := Near.modSpire k _ s

/-- The sequencers as the wipe at a job's start leaves them: where the last load set them to start stays. -/
def SeqState.loading (q wiped : SeqState) (n : Nat) : SeqState :=
  { wiped with mode := .loading, wipeLeft := n, ivec := q.ivec, starts := q.starts, pc := q.pc }

theorem startClean_spire (k : Nat) (s : State) : (startClean k s).spire k = { (s.spire k).wipeRegs with
    ctx := (s.spire k).ctx
    seq := (s.spire k).seq.loading (s.spire k).wipeRegs.seq ((s.spire k).xb.jobLimit.toNat * 512)
    store := (s.spire k).store.clearRange 0 (s.jobPart k) } := by
  unfold startClean
  rw [wipeJobPart_spire, jobPart_congr (s := s), modSeq_spire, spire_modSpire]
  · rfl
  · rw [modSeq_spire, spire_modSpire]
    rfl

theorem startClean_near (k : Nat) (s : State) : Near k s (startClean k s) :=
  ((Near.modSpire k _ s).trans (Near.modSpire k _ _)).trans (wipeJobPart_near k _)

theorem setStart_spire (k pc ivec threads : Nat) (starts : List Nat) (s : State) :
    (setStart k pc ivec threads starts s).spire k = { s.spire k with
      seq := { (s.spire k).seq with pc := BitVec.ofNat 20 pc, ivec := BitVec.ofNat 20 ivec, starts := BitVec.ofNat 8 threads }
      cc := loadThreads starts (s.spire k).cc } := by
  rw [setStart, modCc_spire, modSeq_spire]

theorem setStart_near (k pc ivec threads : Nat) (starts : List Nat) (s : State) :
    Near k s (setStart k pc ivec threads starts s) := (Near.modSpire k _ s).trans (Near.modSpire k _ _)

/-- Spire `k` wiped for a radio program, and the program's segments and start in place. -/
def radioLoaded (k : Nat) (img : RadioImage) (s : State) : State :=
  setStart k img.start img.ivec img.threads img.starts
    ((startClean k (s.modSpire k (fun p => { p with ctx := .radio }))).modStore k
      (fun m => m.loadSegments (s.jobPart k) img.segments))

theorem radioLoaded_near (k : Nat) (img : RadioImage) (s : State) : Near k s (radioLoaded k img s) :=
  (((Near.modSpire k _ s).trans (startClean_near k _)).trans (Near.modSpire k _ _)).trans (setStart_near k _ _ _ _ _)

theorem radioLoaded_spire (k : Nat) (img : RadioImage) (s : State) :
    (radioLoaded k img s).spire k = { (s.spire k).wipeRegs with
      ctx := .radio
      store := ((s.spire k).store.clearRange 0 (s.jobPart k)).loadSegments (s.jobPart k) img.segments
      cc := loadThreads img.starts CcState.reset
      seq := { (s.spire k).wipeRegs.seq with
        pc := BitVec.ofNat 20 img.start, ivec := BitVec.ofNat 20 img.ivec, starts := BitVec.ofNat 8 img.threads
        mode := .loading, wipeLeft := (s.spire k).xb.jobLimit.toNat * 512 } } := by
  have hpart : (s.modSpire k (fun p => { p with ctx := .radio })).jobPart k = s.jobPart k :=
    jobPart_congr (by rw [spire_modSpire])
  rw [radioLoaded, setStart_spire, modStore_spire, startClean_spire, hpart, spire_modSpire]
  rfl

theorem Near.only (h : Near k s t) : OnlySpire k s t := h.2

theorem Near.inService (h : Near k s t) (j : Nat) : t.inService j = s.inService j := by
  rw [h.1]
  rfl

theorem inService_of_commandable (h : s.commandable k = true) : s.inService k = true := by
  simp only [State.commandable, Bool.and_eq_true] at h
  obtain ⟨hservice, -⟩ := h
  exact hservice

theorem spireLoad_idle (img : RadioImage) (hidle : (s.spire k).seq.mode = .idle) (hcommand : s.commandable k = true) :
    spireLoad k img s = setCmdStatus k stOk (radioLoaded k img s) := if_pos (by simp [hidle, hcommand])

theorem spireLoad_refused (img : RadioImage) (h : (s.spire k).seq.mode ≠ .idle ∨ s.commandable k = false) :
    spireLoad k img s = setCmdStatus k stConflict s := by
  refine if_neg ?_
  rcases h with h | h <;> simp [h]

/-! ### LOAD_COMPLETE (R449) -/

section
variable (hloading : (s.spire k).seq.mode = .loading) (hreclaim : (s.spire k).seq.reclaim = false)
  (hmain : (s.spire k).vu.inS = false) (hwiped : (s.spire k).seq.wipeLeft = 0)
include hloading hreclaim hmain hwiped

theorem loadComplete_program (hjob : s.job (s.spire k).ctx.jobId = none) :
    loadComplete k s = s.modSeq k (fun q => { q with mode := .armed }) := by
  unfold loadComplete
  rw [if_neg (by simp [hloading, hreclaim, hmain, hwiped]), hjob]

theorem loadComplete_job {j : Job} (hjob : s.job (s.spire k).ctx.jobId = some j)
    (hready : ∀ n ∈ tileRange j.first j.tiles, (s.tile n).inHbm = true)
    (hclean : s.runPoisoned j.first 0 (j.tiles + 1) j.image.bytes = false) :
    loadComplete k s = dispatchStart j.id (loadRank k (rankOf k j.spires) j s) := by
  have hnone : ¬ (tileRange j.first j.tiles).any (fun n => !(s.tile n).inHbm) = true := by
    simpa using hready
  unfold loadComplete
  rw [if_neg (by simp [hloading, hreclaim, hmain, hwiped]), hjob]
  dsimp only
  rw [if_neg hnone, hclean]
  rfl

end

/-! ### The start CCLK (R242) -/

/-- Spire `k` runs from now on, with the threads that its program names. -/
def nowRunning (k : Nat) (s : State) : State :=
  (s.modSeq k (fun q => { q with mode := .running, startSet := false, nextIssue := s.cyc })).modCc k
    (startThreads (s.spire k).seq.starts)

theorem nowRunning_spire (k : Nat) (s : State) : (nowRunning k s).spire k = { s.spire k with
    seq := { (s.spire k).seq with mode := .running, startSet := false, nextIssue := s.cyc }
    cc := startThreads (s.spire k).seq.starts (s.spire k).cc } := by
  rw [nowRunning, modCc_spire, modSeq_spire]

theorem nowRunning_only (k : Nat) (s : State) : OnlySpire k s (nowRunning k s) :=
  (only_modSeq k _ s).trans (OnlySpire.modSpire k _ _)

theorem startThreads_ready {mask : BitVec 8} {i : Nat} (c : CcState) (hi : i < 8) (hnamed : mask.getLsbD i = true) :
    ((startThreads mask c).threads.get Thread.reset i).mode = .ready := by
  unfold startThreads
  rw [Tab.get_modifyAll _ _ _ _ _ List.nodup_range, if_pos (List.mem_range.mpr hi), if_pos hnamed]

theorem spireStartTime_runs (harmed : (s.spire k).seq.mode = .armed) (hset : (s.spire k).seq.startSet = true)
    (hplan : s.hasPlan = true) (hcome : (s.spire k).seq.startAt ≤ s.planTotal) :
    spireStartTime k s = (nowRunning k s).modJob (s.spire k).ctx.jobId
      (fun j => { j with phase := if j.phase = .loading then .running else j.phase }) :=
  if_pos (by simp [harmed, hset, hplan, hcome])

/-! ### WIPE_COMPLETE (R244) -/

theorem wipeComplete_wiped (hwiping : (s.spire k).seq.mode = .wiping) (hwiped : (s.spire k).seq.wipeLeft = 0)
    (hwindow : (s.spire k).seq.window = false) (hreclaim : (s.spire k).seq.reclaim = false) :
    wipeComplete k s = (wipeJobPart k s).modSeq k (fun q => { q with
      mode := if q.mode = .wiping then .idle else q.mode, fencing := false }) :=
  if_pos (by simp [hwiping, hwiped, hwindow, hreclaim])

end

theorem exec_spireLoad (k : Fin 32) (img : RadioImage) (s : State) : exec (.spireLoad k img) s = .next (spireLoad k img s) := rfl

theorem exec_loadComplete (k : Fin 32) (s : State) : exec (.loadComplete k) s = .next (loadComplete k s) := rfl

theorem exec_spireStart (k : Fin 32) (s : State) : exec (.spireStart k) s = .next (spireStart k s) := rfl

theorem exec_spireStartTime (k : Fin 32) (s : State) : exec (.spireStartTime k) s = .next (spireStartTime k s) := rfl

theorem exec_spireReturn (k : Fin 32) (s : State) : exec (.spireReturn k) s = .next (returnSpire k s) := rfl

theorem exec_wipeComplete (k : Fin 32) (s : State) : exec (.wipeComplete k) s = .next (wipeComplete k s) := rfl

/-- Settles O18: each command in the state where it applies is one change of its own Spire, whose parts are read off it. -/
theorem spiresLoadStartAndWipe : Obligations.SpiresLoadStartAndWipe := by
  unfold Obligations.SpiresLoadStartAndWipe
  intro s k q
  refine ⟨?load, ?refused, ?complete, exec_spireStart k s, ?startTime, exec_spireReturn k s, ?wiped⟩
  case load =>
    intro img hidle hcommand
    have hnear := radioLoaded_near k img s
    have hspire := setCmdStatus_spire (s := radioLoaded k img s) stOk
      ((hnear.inService k).trans (inService_of_commandable hcommand))
    rw [radioLoaded_spire] at hspire
    refine ⟨_, (exec_spireLoad k img s).trans (congrArg _ (spireLoad_idle img hidle hcommand)), ?_, ?_, ?_, ?_,
      hnear.only.trans (setCmdStatus_only k _ _)⟩ <;> rw [hspire]
    rfl
  case refused => exact fun img h => (exec_spireLoad k img s).trans (congrArg _ (spireLoad_refused img h))
  case complete =>
    intro hloading hreclaim hmain hwiped
    constructor
    · intro hjob
      exact (exec_loadComplete k s).trans (congrArg _ (loadComplete_program hloading hreclaim hmain hwiped hjob))
    · intro j hjob hready hclean
      exact (exec_loadComplete k s).trans (congrArg _ (loadComplete_job hloading hreclaim hmain hwiped hjob hready hclean))
  case startTime =>
    intro harmed hset hplan hcome
    refine ⟨_, (exec_spireStartTime k s).trans (congrArg _ (spireStartTime_runs harmed hset hplan hcome)), ?_, ?_,
      (nowRunning_only k s).trans (.of_spires rfl)⟩
    · rw [modJob_spire, nowRunning_spire]
    · intro i hi hnamed
      rw [State.thread, modJob_spire, nowRunning_spire]
      exact startThreads_ready _ hi hnamed
  case wiped =>
    intro hwiping hwiped hwindow hreclaim
    refine ⟨_, (exec_wipeComplete k s).trans (congrArg _ (wipeComplete_wiped hwiping hwiped hwindow hreclaim)), ?_, ?_,
      (wipeJobPart_near k s).only.trans (only_modSeq k _ _)⟩ <;> rw [modSeq_spire, wipeJobPart_spire]
    dsimp only
    rw [if_pos hwiping]

end Sys2Proof.Machine

namespace Sys2Proof.Machine
open Sys2Proof

/-! ### Commands of SEQ_CMD (R231) -/

section
variable {s t : State} {k : Nat}

/-- Spires are in service as the reliability block's own registers have it; no work of a Spire changes them. -/
theorem inService_of_calm (h : t.calm = s.calm) (j : Nat) : t.inService j = s.inService j :=
  show t.calm.inService j = s.calm.inService j from congrArg (State.inService · j) h

/-- A write that has no effect leaves the state, whoever makes it. -/
theorem bar0Row_inert {mid off : Nat} {v : Word} {f : State → State} (hserves : s.serves off = true) (hinert : f s = s) :
    bar0Row mid off v f s = s := by
  by_cases hmid : mid ≤ 1
  · rw [bar0Row_serves hmid hserves, hinert]
  · exact if_neg (by simp [hmid])

/-! ### STOP (R233, R234, R582) -/

/-- Spire `k` takes the STOP for POWER as a cause and answers ST_OK. -/
def stopTaken (k : Nat) (s : State) : State := setCmdStatus k stOk (s.modSeq k (fun q => { q with stopPower := true }))

/-- A STOP counts, with the job `id` that holds Spire `k` (R238). -/
def stopCounted (k id : Nat) (s : State) : State :=
  (s.modSeq k (fun q => { q with stops := q.stops + 1 })).modJob id (fun j => { j with stops := j.stops + 1 })

/-- Spire `k` is STOPPED outside a handler, and BANK_M drains until CCLK `u`. -/
def stoppedAt (k u : Nat) (s : State) : State :=
  setPhase k (.draining u .stopPower) (s.modSeq k (fun q => { q with mode := .stopped, fromArmed := false }))

theorem stopTaken_spire (hservice : s.inService k = true) :
    (stopTaken k s).spire k = { s.spire k with seq := { (s.spire k).seq with stopPower := true, status := 0 } } := by
  have hspire := setCmdStatus_spire (s := s.modSeq k (fun q => { q with stopPower := true })) stOk hservice
  rw [stopTaken, hspire, modSeq_spire]
  rfl

theorem stopTaken_only (k : Nat) (s : State) : OnlySpire k s (stopTaken k s) := (only_modSeq k _ s).trans (setCmdStatus_only k _ _)

theorem stoppedAt_spire (k u : Nat) (s : State) : (stoppedAt k u s).spire k = { s.spire k with
    seq := { (s.spire k).seq with mode := .stopped, fromArmed := false }
    vu := { (s.spire k).vu with phase := .draining u .stopPower } } := by
  rw [stoppedAt, setPhase_spire, modSeq_spire]

/-- The state in which Spire `k`'s STOP for POWER at its bundle boundary has stopped the array and counts. -/
def stopMade (k : Nat) (s : State) : State :=
  stopCounted k (s.spire k).ctx.jobId (arrayStop k (s.boundary k) true (stopTaken k s))

theorem stopCounted_only (k id : Nat) (s : State) : OnlySpire k s (stopCounted k id s) :=
  (only_modSeq k _ s).trans (fun j _ => modJob_spire id j _ _)

theorem stopMade_only (k : Nat) (s : State) : OnlySpire k s (stopMade k s) :=
  ((stopTaken_only k s).trans (arrayStop_only k _ true _)).trans (stopCounted_only k _ _)

theorem stopMade_spire (hservice : s.inService k = true) :
    ((stopMade k s).spire k).vu = (s.spire k).vu ∧ ∃ issues replay stops, ((stopMade k s).spire k).seq =
      { (s.spire k).seq with stopPower := true, status := 0, issues := issues, replay := replay, stops := stops } := by
  obtain ⟨hvu, hseq⟩ := arrayStop_keepsVu k (s.boundary k) true (stopTaken k s)
  rw [stopTaken_spire hservice] at hvu hseq
  rw [stopMade, stopCounted, modJob_spire, modSeq_spire]
  generalize arrayStop k (s.boundary k) true (stopTaken k s) = t at hvu hseq ⊢
  rw [hseq]
  exact ⟨hvu, _, _, _, rfl⟩

theorem stopSpire_running (hmode : (s.spire k).seq.mode = .running) (hmain : (s.spire k).vu.inS = false)
    (hphase : (s.spire k).vu.phase = .steady) :
    stopSpire k false s = stoppedAt k (s.boundary k + 12) (stopMade k s) := by
  unfold stopSpire
  simp only [hmode, hmain, hphase, reduceCtorEq, decide_false, decide_true, Bool.or_true, Bool.or_false, Bool.not_true,
    Bool.not_false, Bool.false_eq_true, ↓reduceIte]
  rfl

theorem stopSpire_conflict (h : (s.spire k).seq.mode ∉ [.armed, .running, .replay, .stopped]) (isReclaim : Bool) :
    stopSpire k isReclaim s = setCmdStatus k stConflict s := by
  simp only [List.mem_cons, List.not_mem_nil, or_false, not_or] at h
  obtain ⟨harmed, hrunning, hreplay, hstopped⟩ := h
  exact if_pos (by simp [harmed, hrunning, hreplay, hstopped])

theorem stopCommand_power : stopCommand 0 k 2 s =
    if s.stopOwed k && ((s.spire k).seq.mode = .armed || (s.spire k).seq.mode = .running || (s.spire k).seq.mode = .replay) then
      setCmdStatus k stOk { s with pwr := { s.pwr with
        owedDome := if s.pwr.owedDome.contains k then s.pwr.owedDome else s.pwr.owedDome ++ [k] } }
    else stopSpire k false s := rfl

theorem stopCommand_stops (h : s.stopOwed k = false ∨ (s.spire k).seq.mode ∉ [.armed, .running, .replay]) :
    stopCommand 0 k 2 s = stopSpire k false s := by
  rw [stopCommand_power, if_neg]
  rcases h with howed | hmode
  · simp [howed]
  · simp only [List.mem_cons, List.not_mem_nil, or_false, not_or] at hmode
    obtain ⟨harmed, hrunning, hreplay⟩ := hmode
    simp [harmed, hrunning, hreplay]

/-- In a window or a reclaim the STOP is owed until its end (R582). -/
theorem stopCommand_owes (howed : s.stopOwed k = true) (hmode : (s.spire k).seq.mode ∈ [.armed, .running, .replay])
    (hnew : s.pwr.owedDome.contains k = false) :
    stopCommand 0 k 2 s = setCmdStatus k stOk { s with pwr := { s.pwr with owedDome := s.pwr.owedDome ++ [k] } } := by
  have htaken : s.stopOwed k && ((s.spire k).seq.mode = .armed || (s.spire k).seq.mode = .running ||
      (s.spire k).seq.mode = .replay) := by
    simpa [howed, or_assoc] using hmode
  rw [stopCommand_power, if_pos htaken, hnew]
  rfl

theorem stopCommand_cause {c : Nat} (h : c ≠ 2) : stopCommand 0 k c s = setCmdStatus k stBadArg s := if_pos h

/-! ### RESUME -/

theorem resumeSpire_owed (h : s.pwr.owedDome.contains k = true) : resumeSpire k s =
    setCmdStatus k stOk { s with pwr := { s.pwr with owedDome := s.pwr.owedDome.filter (· != k) } } := if_pos h

theorem resumeSpire_conflict (h : (s.spire k).seq.mode ≠ .stopped ∨ (s.spire k).seq.stopPower = false)
    (hnone : s.pwr.owedDome.contains k = false) : resumeSpire k s = setCmdStatus k stConflict s := by
  unfold resumeSpire
  dsimp only
  rw [hnone, if_neg Bool.false_ne_true, if_neg]
  rcases h with h | h <;> simp [h]

theorem resumeSpire_leaves (hmode : (s.spire k).seq.mode = .stopped) (hpower : (s.spire k).seq.stopPower = true)
    (hnone : s.pwr.owedDome.contains k = false) :
    resumeSpire k s =
      leaveStopped k (s.cyc + 1) (setCmdStatus k stOk (s.modSeq k (fun q => { q with stopPower := false }))) := by
  unfold resumeSpire
  dsimp only
  rw [hnone, if_neg Bool.false_ne_true, if_pos (by simp [hmode, hpower])]

/-- A Spire with no stop cause left and nothing to replay runs on from CCLK `c`. -/
theorem leaveStopped_runs (c : Nat) (hmode : (s.spire k).seq.mode = .stopped) (hreclaim : (s.spire k).seq.stopReclaim = false)
    (hpower : (s.spire k).seq.stopPower = false) (hstarted : (s.spire k).seq.fromArmed = false)
    (hreplay : (s.spire k).seq.replay = []) (hissues : (s.spire k).seq.issues = []) :
    leaveStopped k c s = s.modSeq k (fun q => { q with mode := .running, nextIssue := c }) := by
  unfold leaveStopped
  simp [hmode, hreclaim, hpower, hstarted, hreplay, hissues]

theorem resumeCommand_cause {c : Nat} (h : c ≠ 2) : resumeCommand 0 k c s = setCmdStatus k stBadArg s := if_pos h

/-! ### ABORT and FENCE -/

/-- The work of Spire `k`'s context stops: its array, its transfers and its threads. -/
def workStopped (k : Nat) (s : State) : State := haltThreads k (cancelTransfers k (arrayStop k s.cyc false s))

theorem workStopped_only (k : Nat) (s : State) : OnlySpire k s (workStopped k s) :=
  (arrayStop_only k _ false s).trans (halt_cancel_only k _)

theorem halt_cancel_inService (k j : Nat) (s : State) : (haltThreads k (cancelTransfers k s)).inService j = s.inService j := rfl

theorem workStopped_inService (k : Nat) (s : State) (j : Nat) : (workStopped k s).inService j = s.inService j :=
  (halt_cancel_inService k j _).trans (inService_of_calm (arrayStop_calm k _ false s) j)

theorem enterEnding_inService (hmain : (s.spire k).vu.inS = false) (hphase : (s.spire k).vu.phase = .steady) :
    (enterEnding k s).inService k = s.inService k := by
  obtain ⟨hvu, -⟩ : KeepsVu k s (workStopped k s) := (arrayStop_keepsVu k s.cyc false s).trans (halt_cancel_keepsVu k _)
  have hservice := workStopped_inService k s k
  unfold enterEnding
  extract_lets c inS s1 s2 s3
  have hs2 : s2 = workStopped k s := congrArg (fun u => haltThreads k (cancelTransfers k u)) (if_neg (by simp [inS, hmain]))
  clear_value s2
  have hs3 : (s3.spire k).vu.phase = .steady := by
    rw [modSeq_spire, hs2, hvu, hphase]
  rw [← hservice, ← hs2, if_neg (by simp [inS, hmain]), hs3]
  rfl

theorem abortCommand_noJob (hworks : (s.spire k).seq.mode.abortable = true) (hjob : (s.spire k).ctx.jobId = 0) :
    abortCommand 0 k s = setCmdStatus k stOk (enterEnding k s) := by
  have habort : abortSpire k s = setCmdStatus k stOk (enterEnding k s) := if_pos hworks
  unfold abortCommand
  simp [hjob, habort]

theorem abortCommand_conflict (hidle : (s.spire k).seq.mode.abortable = false) :
    abortCommand 0 k s = setCmdStatus k stConflict s := by
  have habort : abortSpire k s = setCmdStatus k stConflict s := if_neg (by simp [hidle])
  unfold abortCommand
  simp [hidle, habort]

/-- A Spire once it is fenced in CCLK `c`; a wipe in progress completes first (R519). -/
def Spire.fenced (p : Spire) (wiping : Bool) (c : Nat) : Spire :=
  { p with
    seq := { p.seq with
      mode := .fenced, fencing := wiping, hold := none, holdS := none, startSet := false, reclaim := false
      window := false, irq := false, status := 0 }
    vu := { p.vu with phase := .steady, flights := [] }
    cnt := { p.cnt with frozen := some c } }

/-- Spire `k` leaves service: its score is 0 and its ID_SPIRES bit is clear (R34, R519). -/
def outOfService (k : Nat) (s : State) : State :=
  let t := s.modHealth k (fun h => { h with fenced := true, score := 0 })
  { t with rel := { t.rel with inService := t.rel.inService &&& ~~~BitVec.twoPow 32 k } }

/-- Spire `k` as FENCE finds it once its work has stopped; a wipe in progress has stopped its array before. -/
def fenceStopped (k : Nat) (s : State) : State :=
  haltThreads k (cancelTransfers k (if (s.spire k).seq.mode = .wiping then s else arrayStop k s.cyc false s))

theorem fenceStopped_only (k : Nat) (s : State) : OnlySpire k s (fenceStopped k s) := by
  unfold fenceStopped
  split
  · exact halt_cancel_only k s
  · exact workStopped_only k s

/-- What FENCE makes of a Spire that no job and no radio cell uses. -/
def fenceUnused (k : Nat) (s : State) : State :=
  outOfService k ((fenceStopped k s).modSpire k (fun p => p.fenced (decide ((s.spire k).seq.mode = .wiping)) s.cyc))

theorem fenceSpire_unused (hoff : (s.spire k).seq.mode ≠ .off) (hfenced : (s.spire k).seq.mode ≠ .fenced)
    (hjob : (s.spire k).ctx.jobId = 0) (hrole : s.role k ≠ .radioOwned) : fenceSpire k s = fenceUnused k s := by
  unfold fenceSpire
  simp only [hoff, hfenced, hjob, hrole, decide_false, Bool.or_self, Bool.false_eq_true, if_false, if_true]
  rfl

theorem fenceSpire_conflict (h : (s.spire k).seq.mode = .off ∨ (s.spire k).seq.mode = .fenced) :
    fenceSpire k s = setCmdStatus k stConflict s := by
  refine if_pos ?_
  simpa using h

theorem outOfService_health (k : Nat) (s : State) :
    (outOfService k s).healthOf k = { s.healthOf k with fenced := true, score := 0 } := Tab.get_modify_same _ _ _ _

theorem outOfService_inService (hk : k < 32) (s : State) : (outOfService k s).rel.inService.getLsbD k = false := by
  simp [outOfService, hk]

theorem outOfService_spire (k j : Nat) (s : State) : (outOfService k s).spire j = s.spire j := rfl

theorem fenceUnused_spire (k : Nat) (s : State) : (fenceUnused k s).spire k =
    ((fenceStopped k s).spire k).fenced (decide ((s.spire k).seq.mode = .wiping)) s.cyc := by
  rw [fenceUnused, outOfService_spire, spire_modSpire]

theorem fenceUnused_only (k : Nat) (s : State) : OnlySpire k s (fenceUnused k s) :=
  ((fenceStopped_only k s).trans (OnlySpire.modSpire k _ _)).trans (fun j _ => outOfService_spire k j _)

end

section
variable {s : State} {k : Fin 32} (hserves : s.serves (spireOffset k 0x20004) = true)
include hserves

theorem exec_spireStop (c : Nat) : exec (.spireStop 0 k c) s = .next (stopCommand 0 k c s) :=
  congrArg Host.Outcome.next (bar0Row_serves (by decide) hserves)

theorem exec_spireResume (c : Nat) : exec (.spireResume 0 k c) s = .next (resumeCommand 0 k c s) :=
  congrArg Host.Outcome.next (bar0Row_serves (by decide) hserves)

theorem exec_spireAbort : exec (.spireAbort 0 k) s = .next (abortCommand 0 k s) :=
  congrArg Host.Outcome.next (bar0Row_serves (by decide) hserves)

theorem exec_spireFence : exec (.spireFence 0 k) s = .next (fenceSpire k s) :=
  congrArg Host.Outcome.next (bar0Row_serves (by decide) hserves)

/-- The four commands are the Dome's (R231). -/
theorem exec_seqCmd_of_other {m : Nat} (hm : m ≠ 0) (c : Nat) :
    exec (.spireStop m k c) s = .next s ∧ exec (.spireResume m k c) s = .next s ∧
    exec (.spireAbort m k) s = .next s ∧ exec (.spireFence m k) s = .next s := by
  refine ⟨?_, ?_, ?_, ?_⟩ <;> exact congrArg Host.Outcome.next (bar0Row_inert hserves (if_pos hm))

end

/-- Settles O19: each command, served, is the Dome's own operation on the Spire, taken apart by the Spire's state. -/
theorem spiresStopResumeAndLeave : Obligations.SpiresStopResumeAndLeave := by
  unfold Obligations.SpiresStopResumeAndLeave
  intro s k q v hserves
  refine ⟨?stop, ?owes, ?takesBack, ?stopConflict, ?resume, ?resumeConflict, ?cause, ?abort, ?abortConflict, ?fence,
    ?fenceConflict, fun m hm c => exec_seqCmd_of_other hserves hm c⟩
  case stop =>
    intro hmode hmain hphase howed hservice
    have hstop := (stopCommand_stops (.inl howed)).trans (stopSpire_running hmode hmain hphase)
    obtain ⟨-, issues, replay, stops, hseq⟩ := stopMade_spire hservice
    refine ⟨_, (exec_spireStop hserves 2).trans (congrArg _ hstop), ?_, ?_, ?_, ?_, ?_, ?_,
      (stopMade_only k s).trans ((only_modSeq k _ _).trans (setPhase_only k _ _))⟩ <;> rw [stoppedAt_spire]
    all_goals rw [hseq]
  case owes =>
    intro howed hmode hnew
    exact (exec_spireStop hserves 2).trans (congrArg _ (stopCommand_owes howed hmode hnew))
  case takesBack => exact fun howed => (exec_spireResume hserves 2).trans (congrArg _ (resumeSpire_owed howed))
  case stopConflict =>
    intro hmode
    have hthree : [SpireMode.armed, .running, .replay] ⊆ [.armed, .running, .replay, .stopped] := by simp
    exact (exec_spireStop hserves 2).trans
      (congrArg _ ((stopCommand_stops (.inr (fun h => hmode (hthree h)))).trans (stopSpire_conflict hmode false)))
  case resume =>
    intro hmode hpower hreclaim hstarted hreplay hissues hnone hservice
    have hspire := setCmdStatus_spire (s := s.modSeq k (fun q => { q with stopPower := false })) stOk hservice
    rw [modSeq_spire] at hspire
    have hrun := (resumeSpire_leaves hmode hpower hnone).trans (leaveStopped_runs (s.cyc + 1) (by rw [hspire]; exact hmode)
      (by rw [hspire]; exact hreclaim) (by rw [hspire]) (by rw [hspire]; exact hstarted) (by rw [hspire]; exact hreplay)
      (by rw [hspire]; exact hissues))
    refine ⟨_, (exec_spireResume hserves 2).trans (congrArg _ hrun), ?_, ?_,
      ((only_modSeq k _ s).trans (setCmdStatus_only k _ _)).trans (only_modSeq k _ _)⟩ <;> rw [modSeq_spire, hspire]
    rfl
  case resumeConflict =>
    exact fun h hnone => (exec_spireResume hserves 2).trans (congrArg _ (resumeSpire_conflict h hnone))
  case cause =>
    exact fun c hc => ⟨(exec_spireStop hserves c).trans (congrArg _ (stopCommand_cause hc)),
      (exec_spireResume hserves c).trans (congrArg _ (resumeCommand_cause hc))⟩
  case abort =>
    intro hworks hjob hmain hphase hservice
    obtain ⟨hmode, hdrain⟩ := enterEnding_spec k s hmain hphase
    have hspire := setCmdStatus_spire stOk ((enterEnding_inService hmain hphase).trans hservice)
    refine ⟨_, (exec_spireAbort hserves).trans (congrArg _ (abortCommand_noJob hworks hjob)), ?_, ?_, ?_,
      (enterEnding_only k s).trans (setCmdStatus_only k _ _)⟩ <;> rw [hspire]
    · exact hmode
    · rfl
    · exact hdrain
  case abortConflict => exact fun h => (exec_spireAbort hserves).trans (congrArg _ (abortCommand_conflict h))
  case fence =>
    intro hoff hfenced hjob hrole
    refine ⟨_, (exec_spireFence hserves).trans (congrArg _ (fenceSpire_unused hoff hfenced hjob hrole)), ?_, ?_, ?_,
      outOfService_inService k.isLt _, ?_, ?_, fenceUnused_only k s⟩
    · rw [fenceUnused_spire]
      rfl
    · rw [fenceUnused_spire]
      rfl
    · rw [fenceUnused_spire]
      rfl
    · rw [fenceUnused, outOfService_health]
    · rw [fenceUnused, outOfService_health]
  case fenceConflict => exact fun h => (exec_spireFence hserves).trans (congrArg _ (fenceSpire_conflict h))

end Sys2Proof.Machine

namespace Sys2Proof.Machine
open Sys2Proof

/-! ### The Spire's own store as a thread finds it (R143, R220, R248, R251) -/

section
variable {s t : State} {k n : Nat}

theorem OnlyCc.store (h : OnlyCc k s t) : (t.spire k).store = (s.spire k).store := by
  obtain ⟨_, _, ht⟩ := h.spire
  rw [ht]

theorem countSpire_cyc (k ev m : Nat) (s : State) : (countSpire k ev m s).cyc = s.cyc :=
  cyc_of_slow (countSpire_slow k ev m s)

/-- The array's and the recompute's accesses, and those of this CCLK, decide which banks are busy (R248, R505). -/
theorem Near.bankBusy (hnear : Near k s t) (hrecent : (t.spire k).recent = (s.spire k).recent) (a : Nat) :
    t.bankBusy k a = s.bankBusy k a := by
  have hbanks : t.testBanks k = s.testBanks k := by
    rw [hnear.1]
    rfl
  unfold State.bankBusy
  rw [hbanks, hrecent, hnear.cyc]

theorem Near.localFault (hnear : Near k s t) (hxb : (t.spire k).xb = (s.spire k).xb) (a : DWord) (m : Nat) :
    t.localFault k a m = s.localFault k a m := by
  unfold State.localFault
  rw [hnear.ownsRange hxb]

/-- A load of `m` bytes at `a` by a thread of Spire `k` reads the store: aligned and owned, the bank free, the bytes in no pending
range and their word clean. -/
structure Readable (k : Nat) (a : DWord) (m : Nat) (s : State) : Prop where
  owned : s.localFault k a m = none
  free : s.bankBusy k a.toNat = false
  settled : (s.spire k).isPending a.toNat m = false
  clean : (s.spire k).store.poisonedAt a.toNat = false

theorem Readable.countSpire {a : DWord} {m : Nat} (h : Readable k a m s) (ev c : Nat) : Readable k a m (countSpire k ev c s) := by
  obtain ⟨hnear, hspire⟩ := countSpire_near k ev c s
  refine ⟨?_, ?_, ?_, ?_⟩
  · rw [hnear.localFault (by rw [hspire]), h.owned]
  · rw [hnear.bankBusy (by rw [hspire]), h.free]
  all_goals rw [hspire]
  · exact h.settled
  · exact h.clean

theorem localRead_reads {a : DWord} {m : Nat} (h : Readable k a m s) (f : Nat → State → State) :
    localRead k n a m f s = f ((s.spire k).store.readLE a.toNat m) (ccBegin k n 3 (countSpire k 0x0501 1 s)) := by
  obtain ⟨howned, hfree, hsettled, hclean⟩ := h
  unfold localRead
  rw [howned]
  dsimp only
  rw [hfree, if_neg Bool.false_ne_true, hsettled, if_neg Bool.false_ne_true, hclean]
  rfl

/-- A store of `m` bytes at `a` by a thread of Spire `k` writes them: aligned and owned, the bank free, and none protected. -/
structure Writable (k : Nat) (a : DWord) (m : Nat) (s : State) : Prop where
  owned : s.localFault k a m = none
  free : s.bankBusy k a.toNat = false
  unprotected : (s.spire k).isProtected s.cyc a.toNat m = false

theorem Writable.countSpire {a : DWord} {m : Nat} (h : Writable k a m s) (ev c : Nat) : Writable k a m (countSpire k ev c s) := by
  obtain ⟨hnear, hspire⟩ := countSpire_near k ev c s
  refine ⟨?_, ?_, ?_⟩
  · rw [hnear.localFault (by rw [hspire]), h.owned]
  · rw [hnear.bankBusy (by rw [hspire]), h.free]
  · rw [hspire, hnear.cyc]
    exact h.unprotected

theorem localWrite_puts {a : DWord} {m : Nat} (h : Writable k a m s) (v : DWord) :
    localWrite k n a m v s = localPut k a.toNat m v.toNat (ccBegin k n 1 s) := by
  obtain ⟨howned, hfree, hprotected⟩ := h
  unfold localWrite
  rw [howned]
  dsimp only
  rw [hfree, if_neg Bool.false_ne_true, hprotected, if_neg Bool.false_ne_true]

/-- The Spire's store once a thread's write is noted, made and counted. -/
theorem localPut_store (k a m v : Nat) (s : State) :
    ((localPut k a m v s).spire k).store = (s.spire k).store.writeLE a m v := by
  unfold localPut
  dsimp only
  rw [modCc_spire, countSpire_store, modStore_spire, noteWrite, noteRecent, spire_modSpire]

theorem localPut_only (k a m v : Nat) (s : State) : OnlySpire k s (localPut k a m v s) :=
  (((OnlySpire.modSpire k _ s).trans (OnlySpire.modSpire k _ _)).trans (countSpire_only k 0x0501 1 _)).trans
    (OnlySpire.modSpire k _ _)

/-- A write ends reservations, and changes nothing else of a thread. -/
theorem localPut_thread (hn : n < 8) (a m v : Nat) : ∃ r, (localPut k a m v s).thread k n = { s.thread k n with resv := r } := by
  unfold State.thread localPut
  dsimp only
  rw [modCc_spire, (countSpire_near k 0x0501 1 _).2, modStore_spire, noteWrite, noteRecent, spire_modSpire]
  dsimp only
  rw [Tab.get_modifyAll _ _ _ _ _ List.nodup_range, if_pos (List.mem_range.mpr hn)]
  exact ⟨_, rfl⟩

end

/-! ### Instructions of RV64IMA (R226) -/

section
variable {s t : State} {k n : Nat}

/-- The earliest CCLK in which a thread of Spire `k` issues next. -/
def State.nextInstr (s : State) (k : Nat) : Nat := (s.spire k).cc.nextAt

theorem nextInstr_modThread (k n : Nat) (f : Thread → Thread) (s : State) : (s.modThread k n f).nextInstr k = s.nextInstr k := by
  rw [State.nextInstr, State.modThread, cc_modCc, State.nextInstr]

theorem nextInstr_ccBegin (k n c : Nat) (s : State) : (ccBegin k n c s).nextInstr k = s.cyc + c := by
  rw [State.nextInstr, ccBegin, cc_modCc]

theorem rvExec_reg (rd : Nat) (v : DWord) (s : State) :
    rvExec k n (.reg rd v) s = (ccBegin k n 1 s).modThread k n (fun x => x.setX rd v) := rfl

theorem rvExec_jump (rd : Nat) {a : DWord} (h : a.toNat % 4 = 0) : rvExec k n (.jump rd a) s =
    ((ccBegin k n 1 s).modThread k n (fun x => x.setX rd ((s.thread k n).pc + 4))).modThread k n (fun x => { x with pc := a }) :=
  if_neg (by simp [h])

theorem rvExec_branch (taken : Bool) {a : DWord} (h : a.toNat % 4 = 0) : rvExec k n (.branch taken a) s =
    if taken then (ccBegin k n 1 s).modThread k n (fun x => { x with pc := a }) else ccBegin k n 1 s := by
  cases taken with
  | true => exact if_neg (by simp [h])
  | false => rfl

theorem rvExec_load (rd : Nat) {a : DWord} {m : Nat} (signed : Bool) (h : Readable k a m s) :
    rvExec k n (.load rd a m signed) s = (ccBegin k n 3 (countSpire k 0x0501 1 s)).modThread k n
      (fun x => x.setX rd (loadValue m signed ((s.spire k).store.readLE a.toNat m))) := by
  have hrun : rvExec k n (.load rd a m signed) s =
      localRead k n a m (fun x u => putX k n rd (loadValue m signed x) u) s := rfl
  rw [hrun, localRead_reads h]
  rfl

theorem rvExec_store {a : DWord} {m : Nat} (v : DWord) (h : Writable k a m s) :
    rvExec k n (.store a m v) s = localPut k a.toNat m v.toNat (ccBegin k n 1 s) := by
  have hrun : rvExec k n (.store a m v) s = localWrite k n a m v s := rfl
  rw [hrun, localWrite_puts h v]

/-- Thread `n` of Spire `k` fetches the word at its program counter: aligned and owned, from a free bank, in no pending range, clean. -/
structure Fetches (k n : Nat) (s : State) : Prop where
  aligned : (s.thread k n).pc.toNat % 4 = 0
  owned : s.ownsRange k false (s.thread k n).pc.toNat 4 = true
  free : s.bankBusy k (s.thread k n).pc.toNat = false
  settled : (s.spire k).isPending (s.thread k n).pc.toNat 4 = false
  clean : (s.spire k).store.poisonedAt (s.thread k n).pc.toNat = false

/-- The instruction that thread `n` of Spire `k` fetches. -/
def State.instr (s : State) (k n : Nat) : RvOp :=
  rvDecode ((s.spire k).store.readLE (s.thread k n).pc.toNat 4) (s.thread k n).reg (s.thread k n).pc

/-- The fetch counts as a store access, and the instruction is carried out. -/
theorem ccStep_fetches (h : Fetches k n s) : ccStep k n s = rvExec k n (s.instr k n) (countSpire k 0x0501 1 s) := by
  obtain ⟨haligned, howned, hfree, hsettled, hclean⟩ := h
  have hinPlace : ¬ (decide ((s.thread k n).pc.toNat % 4 ≠ 0) || !s.ownsRange k false (s.thread k n).pc.toNat 4) = true := by
    simp [haligned, howned]
  unfold ccStep
  dsimp only
  rw [if_neg hinPlace, hfree, if_neg Bool.false_ne_true, hsettled, if_neg Bool.false_ne_true, hclean]
  rfl

/-- From `s` to `t` thread `n` of Spire `k` becomes `x`, in the control core and the counters of that Spire alone. -/
def Rethread (k n : Nat) (x : Thread) (s t : State) : Prop := t.thread k n = x ∧ OnlyCc k s t

theorem Rethread.modThread {x : Thread} (h : Rethread k n x s t) (f : Thread → Thread) :
    Rethread k n (f x) s (t.modThread k n f) :=
  ⟨by rw [thread_modThread, h.1], h.2.trans (modThread_onlyCc k n f t)⟩

theorem ccBegin_issued (k n c : Nat) (s : State) : Rethread k n (s.thread k n).issued s (ccBegin k n c s) :=
  ⟨ccBegin_thread k n c s, ccBegin_onlyCc k n c s⟩

theorem fetched_issued (k n c : Nat) (s : State) : Rethread k n (s.thread k n).issued s (ccBegin k n c (countSpire k 0x0501 1 s)) :=
  ⟨by rw [ccBegin_thread, thread_countSpire], (countSpire_onlyCc k 0x0501 1 s).trans (ccBegin_onlyCc k n c _)⟩

section
variable (hfetch : Fetches k n s)
include hfetch

theorem ccStep_reg {rd : Nat} {v : DWord} (hinstr : s.instr k n = .reg rd v) :
    Rethread k n ((s.thread k n).issued.setX rd v) s (ccStep k n s) ∧ (ccStep k n s).nextInstr k = s.cyc + 1 := by
  rw [ccStep_fetches hfetch, hinstr, rvExec_reg, nextInstr_modThread, nextInstr_ccBegin, countSpire_cyc]
  exact ⟨(fetched_issued k n 1 s).modThread _, rfl⟩

theorem ccStep_jump {rd : Nat} {a : DWord} (hinstr : s.instr k n = .jump rd a) (haligned : a.toNat % 4 = 0) :
    Rethread k n { (s.thread k n).issued.setX rd ((s.thread k n).pc + 4) with pc := a } s (ccStep k n s) := by
  rw [ccStep_fetches hfetch, hinstr, rvExec_jump _ haligned, thread_countSpire]
  exact ((fetched_issued k n 1 s).modThread _).modThread _

theorem ccStep_branch {taken : Bool} {a : DWord} (hinstr : s.instr k n = .branch taken a) (haligned : a.toNat % 4 = 0) :
    Rethread k n (if taken then { (s.thread k n).issued with pc := a } else (s.thread k n).issued) s (ccStep k n s) := by
  rw [ccStep_fetches hfetch, hinstr, rvExec_branch _ haligned]
  split
  · exact (fetched_issued k n 1 s).modThread _
  · exact fetched_issued k n 1 s

theorem ccStep_load {rd : Nat} {a : DWord} {m : Nat} {signed : Bool} (hinstr : s.instr k n = .load rd a m signed)
    (hread : Readable k a m s) :
    Rethread k n ((s.thread k n).issued.setX rd (loadValue m signed ((s.spire k).store.readLE a.toNat m))) s (ccStep k n s) ∧
    (ccStep k n s).nextInstr k = s.cyc + 3 := by
  rw [ccStep_fetches hfetch, hinstr, rvExec_load _ _ (hread.countSpire 0x0501 1), nextInstr_modThread, nextInstr_ccBegin,
    countSpire_cyc, countSpire_cyc, countSpire_store]
  refine ⟨Rethread.modThread ⟨?_, ?_⟩ _, rfl⟩
  · rw [ccBegin_thread, thread_countSpire, thread_countSpire]
  · exact ((countSpire_onlyCc k 0x0501 1 s).trans (countSpire_onlyCc k 0x0501 1 _)).trans (ccBegin_onlyCc k n 3 _)

theorem ccStep_store {a : DWord} {m : Nat} {v : DWord} (hn : n < 8) (hinstr : s.instr k n = .store a m v)
    (hwrite : Writable k a m s) :
    (∃ r, (ccStep k n s).thread k n = { (s.thread k n).issued with resv := r }) ∧
    ((ccStep k n s).spire k).store = (s.spire k).store.writeLE a.toNat m v.toNat ∧ OnlySpire k s (ccStep k n s) := by
  obtain ⟨hthread, hcc⟩ := fetched_issued k n 1 s
  rw [ccStep_fetches hfetch, hinstr, rvExec_store _ (hwrite.countSpire 0x0501 1), localPut_store, hcc.store]
  obtain ⟨r, hput⟩ := localPut_thread (k := k) (s := ccBegin k n 1 (countSpire k 0x0501 1 s)) hn a.toNat m v.toNat
  exact ⟨⟨r, by rw [hput, hthread]⟩, rfl, hcc.others.trans (localPut_only k _ _ _ _)⟩

end

end

/-! ### Remote instructions (R400 to R406, R424) -/

section
variable {s t : State} {k n : Nat}

theorem Near.rm (h : Near k s t) : t.rm = s.rm := by rw [h.1]

/-- Thread `n` has issued a remote instruction, which is counted (event 0x0401). -/
def remoteIssued (k n : Nat) (s : State) : State := countSpire k 0x0401 1 (ccBegin k n 1 s)

theorem remoteIssued_thread (k n : Nat) (s : State) : (remoteIssued k n s).thread k n = (s.thread k n).issued := by
  rw [remoteIssued, thread_countSpire, ccBegin_thread]

theorem remoteIssued_rm (k n : Nat) (s : State) : (remoteIssued k n s).rm = s.rm :=
  ((Near.modSpire k _ s).trans (countSpire_near k 0x0401 1 (ccBegin k n 1 s)).1).rm

theorem switchReady_rm (k n : Nat) (s : State) : (switchReady k n s).rm = s.rm :=
  ((Near.modSpire k _ s).trans (countSpire_near k 0x0402 1 _).1).rm

theorem switchOut_rm (k n : Nat) (w : ThreadWait) (s : State) : (switchOut k n w s).rm = s.rm :=
  ((Near.modSpire k _ s).trans (countSpire_near k 0x0402 1 _).1).rm

/-- A thread with the refusal of its load or atomic in its registers, ready at once (R401). -/
def Thread.refusedWith (x : Thread) (rd st : Nat) : Thread :=
  (({ x with mode := .ready, wait := .nothing } : Thread).setX rd 0).setX (rd + 1) (BitVec.ofNat 64 st)

theorem remoteRead_refused {op rd st : Nat} {addr : DWord} (operand swap : DWord)
    (h : s.rmRefusal (s.spire k).ctx.jobId op addr = some st) :
    (remoteRead k n op rd addr operand swap s).rm = s.rm ∧
    (remoteRead k n op rd addr operand swap s).thread k n = (s.thread k n).issued.refusedWith rd st := by
  have hrun : remoteRead k n op rd addr operand swap s = (switchReady k n (remoteIssued k n s)).modThread k n
      (fun x => (x.setX rd 0).setX (rd + 1) (BitVec.ofNat 64 st)) := by
    unfold remoteRead State.threadJob
    dsimp only
    rw [h]
    rfl
  rw [hrun]
  constructor
  · rw [State.modThread_rm, switchReady_rm, remoteIssued_rm]
  · rw [thread_modThread, switchReady_thread, remoteIssued_thread]
    rfl

theorem remoteRead_sent {op : Nat} {addr : DWord} (rd : Nat) (operand swap : DWord)
    (h : s.rmRefusal (s.spire k).ctx.jobId op addr = none) :
    remoteRead k n op rd addr operand swap s =
      rmIssue (.thread k n rd) (8 * k + n) (s.jobLease (s.spire k).ctx.jobId) (s.spire k).ctx.jobId op (s.rmVia addr) addr
        operand swap (switchOut k n (.remote rd) (remoteIssued k n s)) := by
  unfold remoteRead State.threadJob
  dsimp only
  rw [h]
  rfl

theorem ccRld_pair {f rd : Nat} (rs1 : Nat) (hf : f ≤ 1) (hpair : pairOk rd = true) :
    ccRld k n f rd rs1 s = remoteRead k n f rd ((s.thread k n).reg rs1) 0 0 s := if_pos ⟨hf, hpair⟩

theorem ccRld_fault {f rd : Nat} (rs1 : Nat) (h : 1 < f ∨ pairOk rd = false) : ccRld k n f rd rs1 s = ccFault k n 0x0B s := by
  refine if_neg ?_
  rcases h with h | h
  · exact fun hok => Nat.not_lt.mpr hok.1 h
  · simp [h]

/-- The value that RST sends: 4 bytes (function 2) or 8 (function 3). -/
def storeValue (f : Nat) (v : DWord) : DWord := if f = 2 then BitVec.ofNat 64 (v.toNat % 2 ^ 32) else v

section
variable {f : Nat} (hf : f = 2 ∨ f = 3)
include hf

/-- A refused store is not sent; its acceptance answers the refusal (R403). -/
theorem ccRst_refused {st rs1 : Nat} (rd rs2 : Nat)
    (h : s.rmRefusal (s.spire k).ctx.jobId f ((s.thread k n).reg rs1) = some st) :
    (ccRst k n f rd rs1 rs2 s).rm = s.rm ∧
    (ccRst k n f rd rs1 rs2 s).thread k n =
      { (s.thread k n).issued with mode := .waiting, wait := .store rd (s.cyc + 60) st } := by
  have hrun : ccRst k n f rd rs1 rs2 s = switchOut k n (.store rd (s.cyc + 60) st) (remoteIssued k n s) := by
    refine (if_pos hf).trans ?_
    unfold State.threadJob
    dsimp only
    rw [h]
    rfl
  rw [hrun, switchOut_rm, remoteIssued_rm, switchOut_thread, remoteIssued_thread]
  exact ⟨rfl, rfl⟩

theorem ccRst_sent {rs1 : Nat} (rd rs2 : Nat)
    (h : s.rmRefusal (s.spire k).ctx.jobId f ((s.thread k n).reg rs1) = none) :
    ccRst k n f rd rs1 rs2 s =
      rmIssue (.thread k n rd) (8 * k + n) (s.jobLease (s.spire k).ctx.jobId) (s.spire k).ctx.jobId f
        (s.rmVia ((s.thread k n).reg rs1)) ((s.thread k n).reg rs1) (storeValue f ((s.thread k n).reg rs2)) 0
        (switchOut k n (.store rd (s.cyc + 60) 0) (remoteIssued k n s)) := by
  refine (if_pos hf).trans ?_
  unfold State.threadJob
  dsimp only
  rw [h]
  rfl

end

theorem ccRst_fault {f : Nat} (rd rs1 rs2 : Nat) (h2 : f ≠ 2) (h3 : f ≠ 3) : ccRst k n f rd rs1 rs2 s = ccFault k n 0x0B s :=
  if_neg (by simp [h2, h3])

/-- The operand of an atomic: 4 bytes (even functions) or 8. -/
def atomicOperand (f : Nat) (v : DWord) : DWord := if f % 2 = 0 then BitVec.ofNat 64 (v.toNat % 2 ^ 32) else v

/-- The swap value of an atomic with register `rs2` of `x`: CAS32's is rs2's upper half, CAS64's the next register. -/
def Thread.swapValue (x : Thread) (f rs2 : Nat) : DWord :=
  if f = 15 then x.reg (rs2 + 1) else if f = 14 then x.reg rs2 >>> 32 else 0

theorem ccRamo_pair {f rd rs2 : Nat} (rs1 : Nat) (hatomic : opAtomic f = true) (hpair : pairOk rd = true)
    (heven : f ≠ 15 ∨ rs2 % 2 = 0) :
    ccRamo k n f rd rs1 rs2 s = remoteRead k n f rd ((s.thread k n).reg rs1) (atomicOperand f ((s.thread k n).reg rs2))
      ((s.thread k n).swapValue f rs2) s := if_pos (by simpa [hatomic, hpair] using heven)

theorem ccRamo_fault {f rd rs2 : Nat} (rs1 : Nat) (h : opAtomic f = false ∨ pairOk rd = false ∨ (f = 15 ∧ rs2 % 2 = 1)) :
    ccRamo k n f rd rs1 rs2 s = ccFault k n 0x0B s := by
  refine if_neg ?_
  rcases h with h | h | ⟨hf, hodd⟩
  · simp [h]
  · simp [h]
  · simp [hf, hodd]

theorem ccRfence_waits (rd : Nat) : ccRfence k n rd s =
    rmFence (.thread k n rd) (8 * k + n) (s.jobLease (s.spire k).ctx.jobId) (s.spire k).ctx.jobId
      (switchOut k n (.fence rd) (remoteIssued k n s)) := rfl

end

section
variable {s : State} {k : Fin 32} {th : Fin 8} (hmay : (wakeFlags k s).ccMay k th = true)
include hmay

theorem exec_controlCoreInstruction : exec (.controlCoreInstruction k th) s = .next (ccStep k th (wakeFlags k s)) :=
  congrArg Host.Outcome.next (ccIssue_may _ hmay)

theorem exec_rld (f : Nat) (rd rs1 : Fin 32) : exec (.rld k th f rd rs1) s = .next (ccRld k th f rd rs1 (wakeFlags k s)) :=
  congrArg Host.Outcome.next (ccIssue_may _ hmay)

theorem exec_rst (f : Nat) (rd rs1 rs2 : Fin 32) :
    exec (.rst k th f rd rs1 rs2) s = .next (ccRst k th f rd rs1 rs2 (wakeFlags k s)) :=
  congrArg Host.Outcome.next (ccIssue_may _ hmay)

theorem exec_ramo (f : Nat) (rd rs1 rs2 : Fin 32) :
    exec (.ramo k th f rd rs1 rs2) s = .next (ccRamo k th f rd rs1 rs2 (wakeFlags k s)) :=
  congrArg Host.Outcome.next (ccIssue_may _ hmay)

theorem exec_rfence (rd : Fin 32) : exec (.rfence k th rd) s = .next (ccRfence k th rd (wakeFlags k s)) :=
  congrArg Host.Outcome.next (ccIssue_may _ hmay)

end

/-- Settles O23: an instruction of the thread's own store changes the thread, and for a store the bytes; a remote one is refused
without a send or queued, on the state in which the threads that wait for a flag have woken. -/
theorem threadsRunRiscVAndReachFarMemory : Obligations.ThreadsRunRiscVAndReachFarMemory := by
  unfold Obligations.ThreadsRunRiscVAndReachFarMemory
  intro s k th w x on job lease sent hmay
  have hwake : OnlyCc k s w := wakeFlags_onlyCc k s
  refine ⟨?fetched, ?rld, ?rst, ?ramo, ?cas64, ?faults, fun rd => exec_rfence hmay rd⟩
  case fetched =>
    intro haligned howned hfree hsettled hclean
    have hfetch : Fetches k th w := ⟨haligned, howned, hfree, hsettled, hclean⟩
    refine ⟨?reg, ?jump, ?branch, ?load, ?store⟩
    case reg =>
      intro rd v hinstr
      obtain ⟨⟨hthread, hcc⟩, hnext⟩ := ccStep_reg hfetch hinstr
      exact ⟨_, exec_controlCoreInstruction hmay, hthread, hnext, (hwake.trans hcc).store, (hwake.trans hcc).others⟩
    case jump =>
      intro rd a hinstr hal
      obtain ⟨hthread, hcc⟩ := ccStep_jump hfetch hinstr hal
      exact ⟨_, exec_controlCoreInstruction hmay, hthread, (hwake.trans hcc).store, (hwake.trans hcc).others⟩
    case branch =>
      intro taken a hinstr hal
      obtain ⟨hthread, hcc⟩ := ccStep_branch hfetch hinstr hal
      exact ⟨_, exec_controlCoreInstruction hmay, hthread, (hwake.trans hcc).store, (hwake.trans hcc).others⟩
    case load =>
      intro rd a m signed hinstr hnoFault hbank hsettledAt hcleanAt
      obtain ⟨⟨hthread, hcc⟩, hnext⟩ := ccStep_load hfetch hinstr ⟨hnoFault, hbank, hsettledAt, hcleanAt⟩
      rw [hwake.store] at hthread
      exact ⟨_, exec_controlCoreInstruction hmay, hthread, hnext, (hwake.trans hcc).store, (hwake.trans hcc).others⟩
    case store =>
      intro a m v hinstr hnoFault hbank hprotected
      obtain ⟨⟨r, hthread⟩, hstore, honly⟩ := ccStep_store hfetch th.isLt hinstr ⟨hnoFault, hbank, hprotected⟩
      rw [hwake.store] at hstore
      exact ⟨_, exec_controlCoreInstruction hmay, by rw [hthread]; rfl, by rw [hthread]; rfl, hstore, hwake.others.trans honly⟩
  case rld =>
    intro f rd rs1 hf hpair
    have hrun := (exec_rld hmay f rd rs1).trans (congrArg _ (ccRld_pair (s := w) rs1 hf hpair))
    constructor
    · intro st hrefusal
      obtain ⟨hrm, hthread⟩ := remoteRead_refused (n := th) (rd := rd) 0 0 hrefusal
      exact ⟨_, hrun, hrm, hthread⟩
    · exact fun hnone => hrun.trans (congrArg _ (remoteRead_sent rd 0 0 hnone))
  case rst =>
    intro f rd rs1 rs2 hf
    constructor
    · intro st hrefusal
      obtain ⟨hrm, hthread⟩ := ccRst_refused hf rd rs2 hrefusal
      exact ⟨_, exec_rst hmay f rd rs1 rs2, hrm, hthread⟩
    · exact fun hnone => (exec_rst hmay f rd rs1 rs2).trans (congrArg _ (ccRst_sent hf rd rs2 hnone))
  case ramo =>
    intro f rd rs1 rs2 hatomic hf hpair
    have hrun := (exec_ramo hmay f rd rs1 rs2).trans (congrArg _ (ccRamo_pair (s := w) rs1 hatomic hpair (.inl hf)))
    rw [Thread.swapValue, if_neg hf] at hrun
    constructor
    · intro st hrefusal
      obtain ⟨hrm, hthread⟩ := remoteRead_refused (n := th) (rd := rd) (atomicOperand f (x.reg rs2)) _ hrefusal
      exact ⟨_, hrun, hrm, hthread⟩
    · exact fun hnone => hrun.trans (congrArg _ (remoteRead_sent rd _ _ hnone))
  case cas64 =>
    intro rd rs1 rs2 heven hpair hnone
    exact (exec_ramo hmay 15 rd rs1 rs2).trans (congrArg _ ((ccRamo_pair (s := w) rs1 rfl hpair (.inr heven)).trans
      (remoteRead_sent rd _ _ hnone)))
  case faults =>
    intro f rd rs1 rs2
    exact ⟨fun h => (exec_rld hmay f rd rs1).trans (congrArg _ (ccRld_fault rs1 h)),
      fun h2 h3 => (exec_rst hmay f rd rs1 rs2).trans (congrArg _ (ccRst_fault rd rs1 rs2 h2 h3)),
      fun h => (exec_ramo hmay f rd rs1 rs2).trans (congrArg _ (ccRamo_fault rs1 h))⟩

end Sys2Proof.Machine

namespace Sys2Proof.Machine
open Sys2Proof

/-! ### The Tile Map: what a read gives after a change (R276) -/

section
variable {s t : State} {n i : Nat}

theorem tile_setTile (s : State) (n i : Nat) (e : TileEntry) : (s.setTile n e).tile i = if i = n then e else s.tile i := by
  rw [State.tile, State.setTile, Tab.get_set]
  simp only [eq_comm, State.tile]

theorem tile_modTile (s : State) (n i : Nat) (f : TileEntry → TileEntry) :
    (s.modTile n f).tile i = if i = n then f (s.tile i) else s.tile i := by
  rw [State.modTile, tile_setTile]
  split
  · subst_vars; rfl
  · rfl

theorem tile_of_map (h : t.tier.map = s.tier.map) (i : Nat) : t.tile i = s.tile i := congrArg (·.get TileEntry.free i) h

/-- Changes of entries in turn leave those that no change names. -/
theorem tile_foldl_other {α : Type} {f : State → α → State} {key : α → Nat} {g : α → TileEntry → TileEntry}
    (hf : ∀ t a i, (f t a).tile i = if i = key a then g a (t.tile i) else t.tile i) {l : List α} (hi : i ∉ l.map key) (s : State) :
    (l.foldl f s).tile i = s.tile i := by
  induction l generalizing s with
  | nil => rfl
  | cons a r ih =>
    rw [List.map_cons, List.mem_cons, not_or] at hi
    obtain ⟨hne, hrest⟩ := hi
    rw [List.foldl_cons, ih hrest, hf, if_neg hne]

/-- Changes of entries in turn, none named twice, change each entry once. -/
theorem tile_foldl_once {α : Type} {f : State → α → State} {key : α → Nat} {g : α → TileEntry → TileEntry}
    (hf : ∀ t a i, (f t a).tile i = if i = key a then g a (t.tile i) else t.tile i) {l : List α} (hnodup : (l.map key).Nodup)
    {a : α} (ha : a ∈ l) (s : State) : (l.foldl f s).tile (key a) = g a (s.tile (key a)) := by
  induction l generalizing s with
  | nil => cases ha
  | cons b r ih =>
    rw [List.map_cons, List.nodup_cons] at hnodup
    obtain ⟨hb, hrest⟩ := hnodup
    rw [List.foldl_cons]
    rcases List.mem_cons.mp ha with rfl | ha
    · rw [tile_foldl_other hf hb, hf, if_pos rfl]
    · have hne : key a ≠ key b := fun h => hb (h ▸ List.mem_map_of_mem ha)
      rw [ih hrest ha, hf, if_neg hne]

/-- `t` has the map of `s`, but with every entry that a list names changed by `g`. -/
def Retiles (l : List Nat) (g : TileEntry → TileEntry) (s t : State) : Prop :=
  ∀ i, t.tile i = if i ∈ l then g (s.tile i) else s.tile i

theorem Retiles.named {l : List Nat} {g : TileEntry → TileEntry} (h : Retiles l g s t) : ∀ n ∈ l, t.tile n = g (s.tile n) :=
  fun n hn => (h n).trans (if_pos hn)

theorem Retiles.other {l : List Nat} {g : TileEntry → TileEntry} (h : Retiles l g s t) : ∀ n, n ∉ l → t.tile n = s.tile n :=
  fun n hn => (h n).trans (if_neg hn)

/-- One change of every entry that a list names, in turn: no entry is named twice, or the change made twice is the change made once. -/
theorem foldl_retiles {f : State → Nat → State} {g : TileEntry → TileEntry}
    (hf : ∀ t n i, (f t n).tile i = if i = n then g (t.tile i) else t.tile i) {l : List Nat} (hl : l.Nodup ∨ ∀ e, g (g e) = g e)
    (s : State) : Retiles l g s (l.foldl f s) := by
  intro i
  induction l generalizing s with
  | nil => rfl
  | cons a r ih =>
    have hr : r.Nodup ∨ ∀ e, g (g e) = g e := hl.imp_left (fun h => (List.nodup_cons.mp h).2)
    rw [List.foldl_cons, ih hr, hf]
    by_cases hia : i = a
    · subst hia
      rw [if_pos rfl, if_pos List.mem_cons_self]
      split
      · rcases hl with h | h
        · exact absurd ‹i ∈ r› (List.nodup_cons.mp h).1
        · exact h _
      · rfl
    · simp only [hia, if_false, List.mem_cons, false_or]

/-- Changes of entries in turn change the map alone. -/
theorem foldl_map_shape {α : Type} {f : State → α → State} (hf : ∀ t a, ∃ m, f t a = { t with tier := { t.tier with map := m } })
    (l : List α) (s : State) : ∃ m, l.foldl f s = { s with tier := { s.tier with map := m } } := by
  induction l generalizing s with
  | nil => exact ⟨s.tier.map, rfl⟩
  | cons a r ih =>
    obtain ⟨m, hm⟩ := hf s a
    rw [List.foldl_cons, hm]
    exact ih _

theorem tileRange_nodup (first count : Nat) : (tileRange first count).Nodup :=
  List.pairwise_map.mpr (List.nodup_range.imp fun hne h => hne (Nat.add_left_cancel h))

theorem tileRange_length (first count : Nat) : (tileRange first count).length = count := by simp [tileRange]

theorem tileRange_getElem (first count i : Nat) (h : i < (tileRange first count).length) : (tileRange first count)[i] = first + i := by
  simp [tileRange]

/-! ### What the operations on places and flash copies leave of the map -/

@[simp] theorem tile_freePlace (h p : Nat) (s : State) (i : Nat) : (freePlace h p s).tile i = s.tile i := tile_of_map rfl i
@[simp] theorem tile_takePlaces (h : Nat) (ps : List Nat) (s : State) (i : Nat) : (takePlaces h ps s).tile i = s.tile i := tile_of_map rfl i
@[simp] theorem tile_zeroPlace (h p : Nat) (s : State) (i : Nat) : (zeroPlace h p s).tile i = s.tile i := tile_of_map rfl i
/-- Trimming a flash copy changes the flash tier alone: the tile has no stripe. -/
theorem trimFlash_shape (n : Nat) (s : State) :
    ∃ f, trimFlash n s = { s with flash := f } ∧ f.stripes = s.flash.stripes.set Stripe.none n Stripe.none :=
  ⟨s.flash.trim n, by unfold trimFlash; rfl, by unfold FlashState.trim; rfl⟩

@[simp] theorem tile_trimFlash (n : Nat) (s : State) (i : Nat) : (trimFlash n s).tile i = s.tile i := by
  obtain ⟨_, h, -⟩ := trimFlash_shape n s
  rw [h]; rfl

@[simp] theorem tile_takeStarted (iss : Issuer) (s : State) (i : Nat) : (takeStarted iss s).tile i = s.tile i := tile_of_map rfl i

theorem touchDomain_shape (d : Nat) (s : State) : ∃ p, touchDomain d s = { s with pwr := p } := by
  unfold touchDomain
  split
  · exact ⟨s.pwr, rfl⟩
  · exact ⟨_, rfl⟩

theorem touchDomains_shape (l : List Nat) (s : State) : ∃ p, touchDomains l s = { s with pwr := p } := by
  unfold touchDomains
  induction l generalizing s with
  | nil => exact ⟨s.pwr, rfl⟩
  | cons d r ih =>
    obtain ⟨p, hp⟩ := touchDomain_shape d s
    obtain ⟨q, hq⟩ := ih (touchDomain d s)
    exact ⟨q, by rw [List.foldl_cons, hq, hp]⟩

/-- Starting flash writes changes the flash tier and wakes its domain. -/
theorem startFlashWrites_shape (s : State) : ∃ f p, startFlashWrites s = { s with flash := f, pwr := p } := by
  unfold startFlashWrites
  split
  · exact ⟨s.flash, s.pwr, rfl⟩
  · split
    · split
      · exact ⟨s.flash, s.pwr, rfl⟩
      · obtain ⟨p, hp⟩ := touchDomain_shape 26 s
        exact ⟨s.flash, p, hp⟩
    · exact ⟨_, s.pwr, rfl⟩

@[simp] theorem tile_startFlashWrites (s : State) (i : Nat) : (startFlashWrites s).tile i = s.tile i := by
  obtain ⟨_, _, h⟩ := startFlashWrites_shape s
  rw [h]; rfl

@[simp] theorem startFlashWrites_spires (s : State) : (startFlashWrites s).spires = s.spires := by
  obtain ⟨_, _, h⟩ := startFlashWrites_shape s
  rw [h]

@[simp] theorem tile_returnToRun (s : State) (i : Nat) : (returnToRun s).tile i = s.tile i := by
  rw [returnToRun_shape]; rfl

@[simp] theorem tile_begun (s : State) (op : Nat) (iss : Issuer) (i : Nat) : (s.begun op iss).tile i = s.tile i := by
  unfold State.begun
  split
  · exact tile_takeStarted iss s i
  · rw [tile_returnToRun, tile_takeStarted]

theorem begun_tier (s : State) (op : Nat) (iss : Issuer) : (s.begun op iss).tier = s.tier := by
  unfold State.begun
  split
  · rfl
  · rw [returnToRun_shape]; rfl

end

/-! ### ALLOC (R281) -/

section
variable {s u : State} {iss : Issuer} {l : List Nat}

theorem allocHbm_tile_step (h lease : Nat) (radio : Bool) (pin : Nat) (t : State) (np : Nat × Nat) (i : Nat) :
    ((zeroPlace h np.2 t).setTile np.1 ⟨.hbm, .ready, radio, false, BitVec.ofNat 12 lease, BitVec.ofNat 7 pin,
      BitVec.ofNat 5 h, BitVec.ofNat 18 np.2⟩).tile i =
    if i = np.1 then ⟨.hbm, .ready, radio, false, BitVec.ofNat 12 lease, BitVec.ofNat 7 pin, BitVec.ofNat 5 h, BitVec.ofNat 18 np.2⟩
    else t.tile i := by rw [tile_setTile, tile_zeroPlace]

/-- Tiles that an allocation in HBM does not name keep their entries. -/
theorem allocHbm_tile_other (h lease : Nat) (radio : Bool) (pin : Nat) (s : State) {i : Nat} (hi : i ∉ l) :
    (allocHbm l h lease radio pin s).tile i = s.tile i := by
  have hkeys : i ∉ (l.zip (s.lowest h l.length)).map Prod.fst := by
    intro hmem
    obtain ⟨⟨a, b⟩, hab, rfl⟩ := List.mem_map.mp hmem
    exact hi (List.of_mem_zip hab).1
  unfold allocHbm
  rw [tile_foldl_other (g := fun np _ => _) (fun t np j => allocHbm_tile_step h lease radio pin t np j) hkeys, tile_takePlaces]

/-- An allocation in HBM puts the tile at position `j` of its list into the place at that position of the lowest free ones. -/
theorem allocHbm_tile (h lease : Nat) (radio : Bool) (pin : Nat) (s : State) (hnodup : l.Nodup) {j : Nat} (hj : j < l.length)
    (hplace : j < (s.lowest h l.length).length) :
    (allocHbm l h lease radio pin s).tile l[j] = ⟨.hbm, .ready, radio, false, BitVec.ofNat 12 lease, BitVec.ofNat 7 pin,
      BitVec.ofNat 5 h, BitVec.ofNat 18 (s.lowest h l.length)[j]⟩ := by
  have hzip : j < (l.zip (s.lowest h l.length)).length := by rw [List.length_zip]; omega
  have hmem : (l[j], (s.lowest h l.length)[j]) ∈ l.zip (s.lowest h l.length) := by
    rw [← List.getElem_zip (h := hzip)]
    exact List.getElem_mem hzip
  have hkeys : ((l.zip (s.lowest h l.length)).map Prod.fst).Nodup := by
    rw [List.zip_eq_zip_take_min, List.map_fst_zip (by simp)]
    exact hnodup.sublist (List.take_sublist _ _)
  unfold allocHbm
  exact tile_foldl_once (g := fun np _ => _) (fun t np j => allocHbm_tile_step h lease radio pin t np j) hkeys hmem _

theorem allocHbm_range_tile (h lease : Nat) (radio : Bool) (pin : Nat) (s : State) {first count i : Nat} (hi : i < count)
    (hplace : i < (s.lowest h count).length) :
    (allocHbm (tileRange first count) h lease radio pin s).tile (first + i) = ⟨.hbm, .ready, radio, false, BitVec.ofNat 12 lease,
      BitVec.ofNat 7 pin, BitVec.ofNat 5 h, BitVec.ofNat 18 ((s.lowest h count).getD i 0)⟩ := by
  have hlen := tileRange_length first count
  have htile := allocHbm_tile h lease radio pin s (tileRange_nodup first count) (j := i) (by rwa [hlen]) (by rwa [hlen])
  simp only [hlen, tileRange_getElem] at htile
  rw [htile, List.getD_eq_getElem?_getD, List.getElem?_eq_getElem hplace, Option.getD_some]

theorem allocHbm_spires (h lease : Nat) (radio : Bool) (pin : Nat) (s : State) : (allocHbm l h lease radio pin s).spires = s.spires := by
  unfold allocHbm
  exact foldl_spires (fun _ _ => by unfold State.setTile zeroPlace State.modStack; rfl) _ _

/-- An allocation in flash makes each of its tiles READY with a flash copy, and no other. -/
theorem allocFlash_retiles (l : List Nat) (lease : Nat) (radio : Bool) (s : State) :
    Retiles l (fun _ => ⟨.flash, .ready, radio, true, BitVec.ofNat 12 lease, 0, 0, 0⟩) s (allocFlash l lease radio s) := by
  intro i
  unfold allocFlash
  rw [tile_startFlashWrites]
  refine foldl_retiles (g := fun _ => ⟨.flash, .ready, radio, true, BitVec.ofNat 12 lease, 0, 0, 0⟩) (fun t n j => ?_)
    (.inr fun _ => rfl) s i
  obtain ⟨_, h, -⟩ := trimFlash_shape n t
  dsimp only
  rw [h, tile_setTile]; rfl

theorem allocFlash_spires (lease : Nat) (radio : Bool) (s : State) : (allocFlash l lease radio s).spires = s.spires := by
  unfold allocFlash
  rw [startFlashWrites_spires]
  refine foldl_spires (fun t n => ?_) _ _
  obtain ⟨_, h, -⟩ := trimFlash_shape n t
  dsimp only
  rw [h]; rfl

end

/-! ### Tier commands that no rule refuses (R277 to R285) -/

section
variable {s u : State} {iss : Issuer} {first count lease : Nat} {l : List Nat}

/-- A legal range of at most `most` tiles, each of which the issuer may name (R278). -/
structure Named (s : State) (iss : Issuer) (first count most : Nat) : Prop where
  range : rangeOk first count most = true
  tiles : ∀ n ∈ tileRange first count, s.mayName iss n = true

/-- A host that may name every tile of a list names none of the radio partition. -/
theorem hostNamesRadio_of_mayName (h : ∀ n ∈ l, s.mayName iss n = true) : s.hostNamesRadio iss l = false := by
  cases iss with
  | dome => rfl
  | ring f q c =>
    have hradio : ∀ n ∈ l, (s.tile n).radio = false := fun n hn => by
      have hname := h n hn
      simp only [State.mayName, Bool.and_eq_true, Bool.not_eq_true'] at hname
      obtain ⟨hradio, -⟩ := hname
      exact hradio
    simp only [State.hostNamesRadio, Bool.and_eq_false_iff, List.any_eq_false, Bool.not_eq_true]
    exact .inr hradio

theorem any_not_eq_false {p : Nat → Bool} (h : ∀ n ∈ l, p n = true) : l.any (fun n => !p n) = false := by
  simpa [List.any_eq_false] using h

theorem hostNamesRadio_begun (s : State) (op : Nat) (iss : Issuer) (l : List Nat) :
    (s.begun op iss).hostNamesRadio iss l = s.hostNamesRadio iss l := by
  simp only [State.hostNamesRadio, tile_begun]

theorem allocBody_hbm {a : AllocArgs} (hready : s.tier.ready = true) (hnamed : Named s iss a.first a.count commandMax)
    (hlease : a.lease < 4096) (hissuer : iss.isLease = false) (hradio : a.radio = false)
    (hfree : ∀ n ∈ tileRange a.first a.count, (s.tile n).state = .free) (htier : a.tier = 1) (hstack : a.stack < 24)
    (hquota : s.hbmOver a.lease a.count = false) (hplaces : a.count ≤ s.freePlaces a.stack) :
    allocBody iss a s = (allocHbm (tileRange a.first a.count) a.stack a.lease false 0 s, some (.of stOk)) := by
  have hnames := any_not_eq_false hnamed.tiles
  have hhost := hostNamesRadio_of_mayName hnamed.tiles
  have hplaces' : ¬ s.freePlaces a.stack < a.count := by omega
  unfold allocBody stackCount
  dsimp only
  rw [hready, hnamed.range, hissuer, hradio, hhost, hnames, if_neg (by decide), if_neg (by simp [hlease, htier, hstack]),
    if_neg (by simp), if_neg (by simp), if_neg (by decide), if_neg (by simpa using hfree), if_neg (by simp [htier]), if_pos htier,
    if_neg (by simp [hquota, hplaces'])]

theorem allocBody_flash {a : AllocArgs} (hready : s.tier.ready = true) (hnamed : Named s iss a.first a.count commandMax)
    (hlease : a.lease < 4096) (hissuer : iss.isLease = false) (hradio : a.radio = false)
    (hfree : ∀ n ∈ tileRange a.first a.count, (s.tile n).state = .free) (htier : a.tier = 2) (hflash : s.flash.ready = true)
    (hquota : s.flashOver a.lease a.count = false) (hcap : s.flashFull a.count = false) :
    allocBody iss a s = (allocFlash (tileRange a.first a.count) a.lease false s, some (.of stOk)) := by
  have hnames := any_not_eq_false hnamed.tiles
  have hhost := hostNamesRadio_of_mayName hnamed.tiles
  unfold allocBody
  dsimp only
  rw [hready, hnamed.range, hissuer, hradio, hhost, hnames, if_neg (by decide), if_neg (by simp [hlease, htier]),
    if_neg (by simp), if_neg (by simp), if_neg (by decide), if_neg (by simpa using hfree), if_neg (by simp [hflash]),
    if_neg (by simp [htier]), if_neg (by simp [hquota, hcap])]

theorem freeBody_frees (hready : s.tier.ready = true) (hnamed : Named s iss first count commandMax)
    (hheld : ∀ n ∈ tileRange first count, ((s.tile n).state = .ready ∨ (s.tile n).state = .lost) ∧ s.loose n = true ∧
      (iss.isHost = true → s.sealed n = false)) :
    freeBody iss first count s = ((tileRange first count).foldl (fun t n => freeTile n t) s, some (.of stOk)) := by
  have hnames := any_not_eq_false hnamed.tiles
  have hhost := hostNamesRadio_of_mayName hnamed.tiles
  unfold freeBody
  dsimp only
  rw [hready, hnamed.range, hhost, hnames, if_neg (by decide), if_neg (by decide), if_neg (by decide), if_neg (by decide),
    if_neg ?_]
  simp only [Bool.or_eq_true, Bool.and_eq_true, List.any_eq_true, not_or, not_exists, not_and]
  refine ⟨fun n hn => ?_, fun hi n hn => ?_⟩
  · obtain ⟨hstate, hloose, -⟩ := hheld n hn
    rcases hstate with h | h <;> simp [h, hloose]
  · obtain ⟨-, -, hsealed⟩ := hheld n hn
    simp [hsealed hi]

theorem pinBody_pins (hready : s.tier.ready = true) (hnamed : Named s iss first count commandMax)
    (hpin : ∀ n ∈ tileRange first count, (s.tile n).state = .ready ∧ (s.tile n).pin ≠ 127) :
    pinBody iss first count s =
      ((tileRange first count).foldl (fun t n => t.modTile n (fun e => { e with pin := e.pin + 1 })) s, some (.of stOk)) := by
  have hnames := any_not_eq_false hnamed.tiles
  have hhost := hostNamesRadio_of_mayName hnamed.tiles
  unfold pinBody
  dsimp only
  rw [hready, hnamed.range, hhost, hnames, if_neg (by decide), if_neg (by decide), if_neg (by decide), if_neg (by decide),
    if_neg (by simpa using hpin)]

theorem unpinBody_unpins (hready : s.tier.ready = true) (hnamed : Named s iss first count commandMax)
    (hpin : ∀ n ∈ tileRange first count, ((s.tile n).state = .ready ∨ (s.tile n).state = .lost) ∧ (s.tile n).pin ≠ 0) :
    unpinBody iss first count s =
      ((tileRange first count).foldl (fun t n => t.modTile n (fun e => { e with pin := e.pin - 1 })) s, some (.of stOk)) := by
  have hnames := any_not_eq_false hnamed.tiles
  have hhost := hostNamesRadio_of_mayName hnamed.tiles
  unfold unpinBody
  dsimp only
  rw [hready, hnamed.range, hhost, hnames, if_neg (by decide), if_neg (by decide), if_neg (by decide), if_neg (by decide),
    if_neg ?_]
  simp only [List.any_eq_true, not_exists, not_and]
  intro n hn
  obtain ⟨hstate, hpinned⟩ := hpin n hn
  rcases hstate with h | h <;> simpa [h] using hpinned

/-- Tiles of a list that another lease than `lease` holds: those that count against its quotas when it is given the list (R280). -/
def State.gained (s : State) (lease : Nat) (l : List Nat) : List Nat := l.filter (fun n => (s.tile n).lease.toNat ≠ lease)

theorem assignBody_assigns (hready : s.tier.ready = true) (hnamed : Named s iss first count commandMax) (hlease : lease < 4096)
    (hloose : ∀ n ∈ tileRange first count, (s.tile n).state = .ready ∧ s.loose n = true ∧
      (iss.isHost = true → s.sealed n = false))
    (hhbm : s.hbmOver lease (((s.gained lease (tileRange first count)).filter (fun n => (s.tile n).tier = .hbm)).length) = false)
    (hflash : s.flashOver lease (((s.gained lease (tileRange first count)).filter (fun n => (s.tile n).flashCopy)).length) = false) :
    assignBody iss first count lease s = ((tileRange first count).foldl
      (fun t n => t.modTile n (fun e => { e with lease := BitVec.ofNat 12 lease })) s, some (.of stOk)) := by
  have hnames := any_not_eq_false hnamed.tiles
  have hhost := hostNamesRadio_of_mayName hnamed.tiles
  unfold State.gained at hhbm hflash
  unfold assignBody
  dsimp only
  rw [hready, hnamed.range, hhost, hnames, hhbm, hflash, if_neg (by decide), if_neg (by decide), if_neg (by decide),
    if_neg (by simp [hlease]), if_neg ?_, if_neg (by decide)]
  simp only [Bool.or_eq_true, Bool.and_eq_true, List.any_eq_true, not_or, not_exists, not_and]
  refine ⟨fun n hn => ?_, fun hi n hn => ?_⟩
  · obtain ⟨hstate, hloose, -⟩ := hloose n hn
    simp [hstate, hloose]
  · obtain ⟨-, -, hsealed⟩ := hloose n hn
    simp [hsealed hi]

/-- The bytes that QUERY answers: the words of the entries, in tile order. -/
def State.entryBytes (s : State) (l : List Nat) : List Byte := l.foldr (fun n acc => leBytes (s.tile n).word 8 ++ acc) []

theorem queryBody_answers (buffer : Nat) (hnamed : Named s iss first count queryMax) : queryBody iss first count buffer s =
    ((match iss with
      | .dome => s.emit (.domeWrite buffer (s.entryBytes (tileRange first count)))
      | .ring f _ _ => writeHost f buffer (s.entryBytes (tileRange first count)) s), some ⟨stOk, count, 0⟩) := by
  have hnames := any_not_eq_false hnamed.tiles
  have hhost := hostNamesRadio_of_mayName hnamed.tiles
  unfold queryBody
  dsimp only
  rw [hnamed.range, hhost, hnames, if_neg (by decide), if_neg (by decide), if_neg (by decide)]
  cases iss <;> rfl

/-- The lease that a BOUNDARY is about: a lease's own, or the one that the command names. -/
def Issuer.boundaryLease (iss : Issuer) (lease : Nat) : Nat := if iss.isLease then iss.lease else lease

theorem boundaryBody_applies {leaves joins : List TileRange} (hready : s.tier.ready = true) (hleaves : leaves.length ≤ 64)
    (hjoins : joins.length ≤ 64) (hlease : iss.boundaryLease lease < 4096)
    (hranges : ∀ r ∈ leaves ++ joins, rangeOk r.first r.count commandMax = true) (hstacks : ∀ r ∈ joins, r.stack < 24)
    (hout : (rangeTiles leaves).Nodup) (hin : (rangeTiles joins).Nodup)
    (hradio : s.hostNamesRadio iss (rangeTiles leaves ++ rangeTiles joins) = false)
    (hleave : leaveCheck s (iss.boundaryLease lease) (rangeTiles leaves) = none)
    (hjoin : joinCheck s (iss.boundaryLease lease) (rangeTiles leaves) joins
      (s.hbmUsed (iss.boundaryLease lease) - (rangeTiles leaves).length) Tab.empty = none) :
    boundaryBody iss lease leaves joins s =
      (joins.foldl (fun t r => allocHbm (tileRange r.first r.count) r.stack (iss.boundaryLease lease) false 1 t)
        ((rangeTiles leaves).foldl (fun t n => freeTile n t) s), some (.of stOk)) := by
  have hstacks' : joins.any (fun r => decide (stackCount ≤ r.stack)) = false := 
    List.any_eq_false.mpr fun r hr => by rw [decide_eq_true_eq]; exact Nat.not_le.mpr (hstacks r hr)
  have hranges' : (leaves ++ joins).any (fun r => !rangeOk r.first r.count commandMax) = false := by
    simpa only [List.any_eq_false, Bool.not_eq_true', Bool.not_eq_false] using hranges
  unfold Issuer.boundaryLease at hlease hleave hjoin ⊢
  unfold boundaryBody
  dsimp only
  rw [hready, hstacks', hranges', hradio, hleave, if_neg (by decide), if_neg ?_, if_neg (by decide)]
  · dsimp only
    rw [hjoin, List.foldl_map]
  · simp [hlease, hout, hin, hleaves, hjoins]

end

/-! ### What the accepted commands make of the map -/

section
variable {s u : State} {iss : Issuer} {first count lease : Nat} {l : List Nat}

theorem freeTile_shape (n : Nat) (s : State) :
    ∃ x f m, freeTile n s = { s with hbm := x, flash := f, tier := { s.tier with map := m } } := by
  obtain ⟨f, hf, -⟩ := trimFlash_shape n
    (if (s.tile n).tier = .hbm then freePlace (s.tile n).stack.toNat (s.tile n).place.toNat s else s)
  unfold freeTile
  dsimp only
  rw [hf]
  split
  · exact ⟨_, _, _, rfl⟩
  · exact ⟨_, _, _, rfl⟩

theorem tile_freeTile (n : Nat) (s : State) (i : Nat) : (freeTile n s).tile i = if i = n then TileEntry.free else s.tile i := by
  unfold freeTile
  dsimp only
  rw [tile_setTile, tile_trimFlash, apply_ite (fun t => State.tile t i), tile_freePlace, ite_self]

theorem foldl_freeTile_retiles (l : List Nat) (s : State) : Retiles l (fun _ => TileEntry.free) s (l.foldl (fun t n => freeTile n t) s) :=
  foldl_retiles (g := fun _ => TileEntry.free) (fun t n j => tile_freeTile n t j) (.inr fun _ => rfl) s

theorem foldl_freeTile_spires (l : List Nat) (s : State) : (l.foldl (fun t n => freeTile n t) s).spires = s.spires :=
  foldl_spires (fun t n => by obtain ⟨_, _, _, h⟩ := freeTile_shape n t; rw [h]) l s

theorem foldl_modTile_retiles (f : TileEntry → TileEntry) (hl : l.Nodup) (s : State) :
    Retiles l f s (l.foldl (fun t n => t.modTile n f) s) := foldl_retiles (fun t n j => tile_modTile t n j f) (.inl hl) s

/-- Changes of entries leave everything but the map. -/
theorem foldl_modTile_tier (f : TileEntry → TileEntry) (l : List Nat) (s : State) : l.foldl (fun t n => t.modTile n f) s =
    { s with tier := (l.foldl (fun t n => t.modTile n f) s).tier } := by
  obtain ⟨m, hm⟩ := foldl_map_shape (f := fun t n => t.modTile n f) (fun _ _ => ⟨_, rfl⟩) l s
  rw [hm]

end

/-- A tier command whose body carries it out answers ST_OK on what the body makes of the state. -/
theorem answers_ok {op : Nat} {iss : Issuer} {body : State → State × Option Reply} {s t : State} {r0 r1 : Nat}
    (h : s.accepts op iss = true) (hb : body (s.begun op iss) = (t, some ⟨stOk, r0, r1⟩)) :
    (.next (queueCommand op iss body s) : Host.Outcome State Fault Refusal) = .next (complete iss op ⟨stOk, r0, r1⟩ t) :=
  congrArg _ (queueCommand_done h hb rfl)

/-- A tier command whose body refuses it answers the status alone (R14). -/
theorem answers_refused {op : Nat} {iss : Issuer} {body : State → State × Option Reply} {s : State} {st : Nat}
    (h : s.accepts op iss = true) (hb : body (s.begun op iss) = refuse st (s.begun op iss)) (hs : refusedStatus st = true) :
    (.next (queueCommand op iss body s) : Host.Outcome State Fault Refusal) = .next (complete iss op (.of st) (takeStarted iss s)) :=
  congrArg _ (queueCommand_refuses h hb hs)

theorem begun_ready {s : State} {op : Nat} {iss : Issuer} (h : s.tier.ready = true) : (s.begun op iss).tier.ready = true := by
  rw [begun_tier, h]

/-- Settles O26: the body of each command, once no rule refuses it, and what its changes make of the map. -/
theorem tileCommandsChangeTheMap : Obligations.TileCommandsChangeTheMap := by
  unfold Obligations.TileCommandsChangeTheMap
  intro s iss first count tiles named others
  have hnodup : tiles.Nodup := tileRange_nodup first count
  refine ⟨?alloc, ?free, ?pin, ?unpin, ?assign, ?query, ?boundary, ?notReady, ?radio⟩
  case alloc =>
    intro a haccepts hfirst hcount u hready ⟨hrange, hnames⟩ hlease hissuer hfree
    subst hfirst hcount
    have hnamed : Named u iss a.first a.count commandMax := ⟨hrange, hnames⟩
    obtain ⟨hnoLease, hradio⟩ : iss.isLease = false ∧ a.radio = false := by
      rcases hissuer with ⟨rfl, h⟩ | h
      · exact ⟨rfl, h⟩
      · exact h
    constructor
    · intro htier hstack hquota hplaces
      refine ⟨_, answers_ok haccepts
        (allocBody_hbm hready hnamed hlease hnoLease hradio hfree htier hstack hquota hplaces), ?_, ?_, allocHbm_spires _ _ _ _ _⟩
      · exact fun n hn => allocHbm_tile_other _ _ _ _ _ hn
      · exact fun i hi hcount => allocHbm_range_tile _ _ _ _ _ hcount hi
    · intro htier hflash hquota hcap
      have htiles := allocFlash_retiles tiles a.lease false u
      exact ⟨_, answers_ok haccepts (allocBody_flash hready hnamed hlease hnoLease hradio hfree htier hflash hquota hcap),
        htiles.other, htiles.named, allocFlash_spires _ _ _⟩
  case free =>
    intro haccepts u hready ⟨hrange, hnames⟩ hheld
    have htiles := foldl_freeTile_retiles tiles u
    exact ⟨_, answers_ok haccepts (freeBody_frees hready ⟨hrange, hnames⟩ hheld), htiles.other, htiles.named,
      foldl_freeTile_spires _ _⟩
  case pin =>
    intro haccepts u hready ⟨hrange, hnames⟩ hpin
    have htiles := foldl_modTile_retiles (fun e => { e with pin := e.pin + 1 }) hnodup u
    exact ⟨_, answers_ok haccepts (pinBody_pins hready ⟨hrange, hnames⟩ hpin), htiles.other, htiles.named,
      foldl_modTile_tier _ _ _⟩
  case unpin =>
    intro haccepts u hready ⟨hrange, hnames⟩ hpin
    have htiles := foldl_modTile_retiles (fun e => { e with pin := e.pin - 1 }) hnodup u
    exact ⟨_, answers_ok haccepts (unpinBody_unpins hready ⟨hrange, hnames⟩ hpin), htiles.other, htiles.named,
      foldl_modTile_tier _ _ _⟩
  case assign =>
    intro lease haccepts u fresh hready ⟨hrange, hnames⟩ hlease hloose hhbm hflash
    have htiles := foldl_modTile_retiles (fun e => { e with lease := BitVec.ofNat 12 lease }) hnodup u
    exact ⟨_, answers_ok haccepts (assignBody_assigns hready ⟨hrange, hnames⟩ hlease hloose hhbm hflash), htiles.other,
      htiles.named, foldl_modTile_tier _ _ _⟩
  case query =>
    intro buffer haccepts u data ⟨hrange, hnames⟩
    refine (answers_ok haccepts (queryBody_answers buffer ⟨hrange, hnames⟩)).trans ?_
    cases iss <;> rfl
  case boundary =>
    intro lease leaves joins haccepts u l out hready hleaves hjoins hlease hranges hstacks hout hin hradio hleave hjoin
    exact answers_ok haccepts
      (boundaryBody_applies hready hleaves hjoins hlease hranges hstacks hout hin hradio hleave hjoin)
  case notReady =>
    intro a lease
    refine ⟨fun haccepts h => answers_refused haccepts ?_ rfl, fun haccepts h => answers_refused haccepts ?_ rfl,
      fun haccepts h => answers_refused haccepts ?_ rfl, fun haccepts h => answers_refused haccepts ?_ rfl⟩
    · unfold allocBody; rw [h]; rfl
    · unfold freeBody; rw [h]; rfl
    · unfold pinBody; rw [h]; rfl
    · unfold assignBody; rw [h]; rfl
  case radio =>
    intro hhost hrange hradio hready
    have hnames (op : Nat) : (s.begun op iss).hostNamesRadio iss (tileRange first count) = true := by
      obtain ⟨n, hn, hr⟩ := hradio
      rw [hostNamesRadio_begun, State.hostNamesRadio, hhost, Bool.true_and, List.any_eq_true]
      exact ⟨n, hn, hr⟩
    have hrange : rangeOk first count commandMax = true := hrange
    refine ⟨fun haccepts => answers_refused haccepts ?_ rfl, fun haccepts => answers_refused haccepts ?_ rfl,
      fun haccepts => answers_refused haccepts ?_ rfl, fun lease haccepts => answers_refused haccepts ?_ rfl⟩
    · unfold freeBody; dsimp only; rw [begun_ready hready, hrange, hnames]; rfl
    · unfold pinBody; dsimp only; rw [begun_ready hready, hrange, hnames]; rfl
    · unfold unpinBody; dsimp only; rw [begun_ready hready, hrange, hnames]; rfl
    · unfold assignBody; dsimp only; rw [begun_ready hready, hrange, hnames]; rfl

/-! ### MOVE (R283, R290) -/

section
variable {s t : State} {iss : Issuer}

/-- The move that a MOVE begins: it holds the lowest free places of its stack if it goes to HBM. -/
def State.newMove (s : State) (iss : Issuer) (a : MoveArgs) : MoveJob :=
  ⟨iss, a.first, a.count, decide (a.tier = 1), a.stack, a.keep, a.discard,
    if decide (a.tier = 1) then s.lowest a.stack a.count else [], 0, 0, 0⟩

/-- A MOVE takes its places. -/
def moveReserved (a : MoveArgs) (s : State) : State :=
  if decide (a.tier = 1) then takePlaces a.stack (if decide (a.tier = 1) then s.lowest a.stack a.count else []) s else s

/-- The tiles of a MOVE are MOVING. -/
def tilesMoving (a : MoveArgs) (s : State) : State :=
  (tileRange a.first a.count).foldl (fun t n => t.modTile n (fun e => { e with state := .moving })) (moveReserved a s)

/-- A move joins the moves in progress. -/
def joinMoves (m : MoveJob) (s : State) : State := { s with tier := { s.tier with moves := s.tier.moves ++ [m] } }

theorem moveReserved_shape (a : MoveArgs) (s : State) : ∃ x, moveReserved a s = { s with hbm := x } := by
  unfold moveReserved
  split
  · exact ⟨_, rfl⟩
  · exact ⟨s.hbm, rfl⟩

/-- That the tiles of a MOVE are MOVING changes its stack's places and the map. -/
theorem tilesMoving_shape (a : MoveArgs) (s : State) : ∃ m, tilesMoving a s =
    { s with hbm := (moveReserved a s).hbm, tier := { s.tier with map := m } } := by
  obtain ⟨x, hx⟩ := moveReserved_shape a s
  unfold tilesMoving
  rw [hx]
  exact foldl_map_shape (fun _ _ => ⟨_, rfl⟩) _ _

theorem tile_tilesMoving (a : MoveArgs) (s : State) (i : Nat) : (tilesMoving a s).tile i =
    if i ∈ tileRange a.first a.count then { s.tile i with state := .moving } else s.tile i := by
  obtain ⟨x, hx⟩ := moveReserved_shape a s
  refine (foldl_modTile_retiles _ (tileRange_nodup _ _) (moveReserved a s) i).trans ?_
  rw [hx]
  rfl

/-- A MOVE that no rule refuses wakes the domains that it needs and joins the moves in progress. -/
theorem moveBody_begins {a : MoveArgs} (h : s.moveRefusal iss a = none) : ∃ domains,
    moveBody iss a s = (startFlashWrites (joinMoves (s.newMove iss a) (touchDomains domains (tilesMoving a s))), none) := by
  unfold moveBody
  rw [h]
  exact ⟨_, rfl⟩

end

/-! ### A tile commits (R283) -/

section
variable {s t : State} {m : MoveJob} {n : Nat}

theorem stack_of_hbm (h : t.hbm = s.hbm) (i : Nat) : t.stack i = s.stack i := congrArg (·.get HbmStack.reset i) h

theorem stack_modStack_eq (s : State) (h i : Nat) (f : HbmStack → HbmStack) :
    (s.modStack h f).stack i = if i = h then f (s.stack i) else s.stack i := by
  split
  · subst_vars; exact stack_modStack s _ f
  · exact stack_modStack_ne s f ‹_›

theorem stack_freePlace (h p i : Nat) (s : State) : (freePlace h p s).stack i =
    if i = h then { s.stack i with wipeQueue := (s.stack i).wipeQueue ++ [p] } else s.stack i := stack_modStack_eq s h i _

/-- The end of a copy changes what is staged and how far copies have come. -/
theorem endCopy_shape (n : Nat) (s : State) : ∃ c x, endCopy n s =
    { s with tier := { s.tier with copies := c }, flash := { s.flash with staged := x } } := by
  unfold endCopy
  split
  · exact ⟨_, s.flash.staged, rfl⟩
  · exact ⟨_, _, rfl⟩

/-- The place that the next tile of a move to HBM was to take is freed. -/
def placeBack (m : MoveJob) (s : State) : State := if m.toHbm then freePlace m.stack (m.places.getD m.next 0) s else s

theorem placeBack_shape (m : MoveJob) (s : State) : ∃ x, placeBack m s = { s with hbm := x } := by
  unfold placeBack
  split
  · exact ⟨_, rfl⟩
  · exact ⟨s.hbm, rfl⟩

/-- A move once its next tile has committed, or was lost. -/
def MoveJob.done (m : MoveJob) (ok : Bool) : MoveJob :=
  { m with next := m.next + 1, moved := if ok then m.moved + 1 else m.moved, lost := if ok then m.lost else m.lost + 1 }

theorem commitTile_lost (hlost : (s.tile (m.first + m.next)).state = .lost) :
    commitTile m s = (endCopy (m.first + m.next) (placeBack m s), m.done false) := if_pos hlost

theorem commitTile_bad (hstate : (s.tile (m.first + m.next)).state ≠ .lost) (hbad : (s.copyOf (m.first + m.next)).bad = true) :
    commitTile m s =
      (endCopy (m.first + m.next) (placeBack m (loseTile (m.first + m.next) (consumePoison 1 s))), m.done false) :=
  (if_neg hstate).trans (if_pos hbad)

theorem commitTile_commits (hstate : (s.tile (m.first + m.next)).state ≠ .lost)
    (hgood : (s.copyOf (m.first + m.next)).bad = false) :
    commitTile m s = (countBelfry 0x1301 none 1 (endCopy (m.first + m.next)
      (if m.toHbm then commitHbm m (m.first + m.next) s else commitFlash m (m.first + m.next) s)), m.done true) :=
  (if_neg hstate).trans (if_neg (by rw [hgood]; decide))

/-- Requests that enter a controller's queue leave all but the queues. -/
theorem fill_shape (x : HbmStack) (n : Nat) : ∃ q w, x.fill n = { x with queue := q, waiting := w } := by
  induction n generalizing x with
  | zero => exact ⟨x.queue, x.waiting, rfl⟩
  | succ n ih =>
    unfold HbmStack.fill
    split
    · obtain ⟨q, w, h⟩ := ih { x with queue := x.queue ++ [_], waiting := x.waiting.erase _ }
      exact ⟨q, w, h⟩
    · exact ⟨x.queue, x.waiting, rfl⟩

/-- The stacks `s` and `t` differ in their controllers' queues alone. -/
def SameStores (s t : State) : Prop := ∀ h, ∃ q w, t.stack h = { s.stack h with queue := q, waiting := w }

theorem SameStores.refl (s : State) : SameStores s s := fun h => ⟨(s.stack h).queue, (s.stack h).waiting, rfl⟩

theorem SameStores.trans {u : State} (h : SameStores s t) (g : SameStores t u) : SameStores s u := fun i => by
  obtain ⟨_, _, hi⟩ := h i
  obtain ⟨q, w, gi⟩ := g i
  exact ⟨q, w, by rw [gi, hi]⟩

theorem SameStores.modStack (s : State) (i : Nat) {f : HbmStack → HbmStack}
    (hf : ∀ x, ∃ q w, f x = { x with queue := q, waiting := w }) :
    SameStores s (s.modStack i f) := fun h => by
  rw [stack_modStack_eq]
  split
  · exact hf _
  · exact ⟨(s.stack h).queue, (s.stack h).waiting, rfl⟩

/-- Requests that wait for a tile go to its new controller; the stores of the stacks, their places and wipes stay. -/
theorem rerouteHost_sameStores (n old new : Nat) (s : State) : SameStores s (rerouteHost n old new s) := by
  unfold rerouteHost
  split
  · exact .refl s
  · refine ((SameStores.modStack _ _ fun x => ⟨_, _, rfl⟩).trans (SameStores.modStack _ _ fun x => fill_shape x _)).trans
      (SameStores.modStack _ _ fun x => ?_)
    exact fill_shape { x with waiting := x.waiting ++ _ } _

theorem rerouteHost_shape (n old new : Nat) (s : State) : ∃ x, rerouteHost n old new s = { s with hbm := x } := by
  unfold rerouteHost
  split
  · exact ⟨s.hbm, rfl⟩
  · exact ⟨_, rfl⟩

end

section
variable {s t : State} {m : MoveJob} {n : Nat} {ok : Bool}

/-- The entry of a tile that a move has taken into HBM: READY at the place reserved for it. -/
def MoveJob.entryInHbm (m : MoveJob) (e : TileEntry) : TileEntry :=
  { e with tier := .hbm, state := .ready, stack := BitVec.ofNat 5 m.stack, place := BitVec.ofNat 18 (m.places.getD m.next 0) }

/-- The entry of a tile that a move has taken to flash: READY there with a flash copy. -/
def TileEntry.inFlash (e : TileEntry) : TileEntry :=
  { e with tier := .flash, state := .ready, flashCopy := true, stack := 0, place := 0 }

/-- A tile of another stack commits into HBM: its entry changes, and its old place is queued for its wipe. -/
theorem commitHbm_fromHbm (m : MoveJob) (htier : (s.tile n).tier = .hbm) :
    (∃ x, commitHbm m n s = { s.setTile n (m.entryInHbm (s.tile n)) with hbm := x }) ∧
      SameStores (freePlace (s.tile n).stack.toNat (s.tile n).place.toNat s) (commitHbm m n s) := by
  have hcommit : commitHbm m n s = rerouteHost n (s.tile n).stack.toNat m.stack
      ((freePlace (s.tile n).stack.toNat (s.tile n).place.toNat s).setTile n (m.entryInHbm (s.tile n))) :=
    if_neg (by rw [htier]; decide)
  rw [hcommit]
  constructor
  · obtain ⟨x, hx⟩ := rerouteHost_shape n (s.tile n).stack.toNat m.stack
      ((freePlace (s.tile n).stack.toNat (s.tile n).place.toNat s).setTile n (m.entryInHbm (s.tile n)))
    exact ⟨x, hx⟩
  · exact rerouteHost_sameStores _ _ _ _

/-- A tile of flash commits into HBM: its entry changes, and without KEEP_FLASH its flash copy is trimmed. -/
theorem commitHbm_fromFlash (m : MoveJob) (htier : (s.tile n).tier = .flash) : ∃ f,
    commitHbm m n s = { s.setTile n { m.entryInHbm (s.tile n) with flashCopy := m.keep && (s.tile n).flashCopy } with flash := f } ∧
      f.stripes = if m.keep then s.flash.stripes else s.flash.stripes.set Stripe.none n Stripe.none := by
  unfold commitHbm
  dsimp only
  rw [if_pos htier]
  cases m.keep with
  | true => exact ⟨s.flash.clearRetry n, by rw [if_pos rfl]; rfl, by unfold FlashState.clearRetry; rfl⟩
  | false =>
    obtain ⟨f, hf, hstripes⟩ := trimFlash_shape n { s with flash := s.flash.clearRetry n }
    exact ⟨f, by rw [if_neg (by decide), hf]; rfl, by rw [hstripes]; unfold FlashState.clearRetry; rfl⟩

/-- A tile commits to flash: its entry changes, and its place is queued for its wipe. -/
theorem commitFlash_shape (m : MoveJob) (n : Nat) (s : State) : ∃ x f,
    commitFlash m n s = { s.setTile n (s.tile n).inFlash with hbm := x, flash := f } := by
  unfold commitFlash
  dsimp only
  split
  · exact ⟨_, s.flash, rfl⟩
  · exact ⟨_, _, rfl⟩

/-- The count of a committed tile and the end of its copy leave the map, the moves, the stacks and the stripes. -/
theorem counted_endCopy_shape (n : Nat) (s : State) : ∃ a b o c x, countBelfry 0x1301 none 1 (endCopy n s) =
    { s with cnt := a, host := b, out := o, tier := { s.tier with copies := c }, flash := { s.flash with staged := x } } := by
  obtain ⟨c, x, hend⟩ := endCopy_shape n s
  obtain ⟨a, b, o, hcount⟩ := countBelfry_shape 0x1301 none 1 (endCopy n s)
  exact ⟨a, b, o, c, x, by rw [hcount, hend]⟩

/-- A move goes on after a tile: over after its last one, else with the next. -/
def moveOn (m : MoveJob) (ok : Bool) (s : State) : State := { s with tier := { s.tier with
  moves := if m.next + 1 = m.count then s.tier.moves.erase m else s.tier.moves.map (fun x => if x = m then m.done ok else x) } }

/-- MOVE_TILE_COMMIT ends in `v` with move `m` gone on: over and answered after its last tile, else with its next one. -/
def GoesOn (s : State) (m : MoveJob) (ok : Bool) (v : State) : Prop :=
  (m.next + 1 = m.count →
    exec .moveTileCommit s = .next (startFlashWrites (complete m.issuer 3 (moveReply (m.done ok)) v)) ∧
      v.tier.moves = s.tier.moves.erase m) ∧
  (m.next + 1 ≠ m.count →
    exec .moveTileCommit s = .next (startFlashWrites v) ∧ v.tier.moves = s.tier.moves.map (fun x => if x = m then m.done ok else x))

theorem moveTileCommit_goesOn (hfind : s.tier.moves.find? (fun m => s.commitReady m) = some m)
    (hcommit : commitTile m s = (t, m.done ok)) (hmoves : t.tier.moves = s.tier.moves) : GoesOn s m ok (moveOn m ok t) := by
  have hexec : exec .moveTileCommit s = .next (if m.next + 1 = m.count then
      startFlashWrites (complete m.issuer 3 (moveReply (m.done ok)) { t with tier := { t.tier with moves := t.tier.moves.erase m } })
    else startFlashWrites { t with tier := { t.tier with
      moves := t.tier.moves.map (fun x => if x = m then m.done ok else x) } }) := by
    change Host.Outcome.next (moveTileCommit s) = _
    unfold moveTileCommit
    rw [hfind]
    dsimp only
    rw [hcommit]
    rfl
  unfold GoesOn moveOn
  rw [hexec]
  constructor
  · intro hlast
    rw [if_pos hlast, if_pos hlast, hmoves]
    exact ⟨rfl, rfl⟩
  · intro hmore
    rw [if_neg hmore, if_neg hmore, hmoves]
    exact ⟨rfl, rfl⟩

/-- The next tile of a move commits: its entry changes, as the tier it moves to has it, and the move goes on. -/
theorem commitTile_goesOn {x : State} {e : TileEntry} (hfind : s.tier.moves.find? (fun m => s.commitReady m) = some m)
    (hstate : (s.tile (m.first + m.next)).state ≠ .lost) (hgood : (s.copyOf (m.first + m.next)).bad = false)
    (hcommit : (if m.toHbm then commitHbm m (m.first + m.next) s else commitFlash m (m.first + m.next) s) = x)
    (htier : x.tier = (s.setTile (m.first + m.next) e).tier) :
    ∃ v, GoesOn s m true v ∧ (∀ i, v.tile i = if i = m.first + m.next then e else s.tile i) ∧ v.hbm = x.hbm ∧
      v.flash.stripes = x.flash.stripes := by
  obtain ⟨_, _, _, _, _, hend⟩ := counted_endCopy_shape (m.first + m.next) x
  have hall := commitTile_commits hstate hgood
  rw [hcommit, hend] at hall
  refine ⟨_, moveTileCommit_goesOn hfind hall ?_, fun i => ?_, rfl, rfl⟩
  · rw [htier]
    rfl
  · refine Eq.trans ?_ (tile_setTile s (m.first + m.next) i e)
    exact tile_of_map (by rw [moveOn, htier]) i

end

/-- Settles O27: what the body of MOVE begins, and the ways in which the next tile of a move commits. -/
theorem movesRunTileByTile : Obligations.MovesRunTileByTile := by
  unfold Obligations.MovesRunTileByTile
  refine ⟨?begins, ?commits⟩
  case begins =>
    intro s iss a haccepts u tiles toHbm places hmove
    obtain ⟨domains, hbody⟩ := moveBody_begins hmove
    obtain ⟨p, hp⟩ := touchDomains_shape domains (tilesMoving a u)
    obtain ⟨map, hmap⟩ := tilesMoving_shape a u
    refine ⟨_, congrArg _ (queueCommand_later haccepts hbody), ?_, fun n => ?_, ?_, ?_⟩
    · rw [hp, hmap]
      rfl
    · rw [hp]
      exact tile_tilesMoving a u n
    · rw [hp, hmap]
      rfl
    · rw [hp, hmap]
      rfl
  case commits =>
    intro s m hfind n e p done follows
    refine ⟨?lost, ?bad, ?fromHbm, ?fromFlash, ?toFlash⟩
    case lost =>
      intro hlost
      obtain ⟨c, x, hend⟩ := endCopy_shape n (placeBack m s)
      obtain ⟨y, hback⟩ := placeBack_shape m s
      rw [hback] at hend
      refine ⟨_, moveTileCommit_goesOn hfind (commitTile_lost hlost) ?_, fun i => ?_⟩
      · rw [hback, hend]
      · rw [hback]
        exact tile_of_map (by rw [moveOn, hend]) i
    case bad =>
      intro hstate hbad
      obtain ⟨y, hback⟩ := placeBack_shape m (loseTile n (consumePoison 1 s))
      obtain ⟨c, x, hend⟩ := endCopy_shape n (placeBack m (loseTile n (consumePoison 1 s)))
      rw [hback] at hend
      refine ⟨_, moveTileCommit_goesOn hfind (commitTile_bad hstate hbad) ?_, fun i => ?_⟩
      · rw [hback, hend]
        rfl
      · rw [hback]
        refine (tile_of_map (t := moveOn m false _) (s := loseTile n (consumePoison 1 s)) (by rw [moveOn, hend]) i).trans ?_
        refine (tile_modTile _ n i _).trans ?_
        split
        · subst_vars; rfl
        · rfl
    case fromHbm =>
      intro hstate htoHbm htier hgood _
      obtain ⟨⟨x, hx⟩, hstores⟩ := commitHbm_fromHbm m htier
      obtain ⟨v, hgoes, htile, hhbm, -⟩ := commitTile_goesOn (e := m.entryInHbm e) hfind hstate hgood (if_pos htoHbm) (by rw [hx])
      refine ⟨v, hgoes, htile, fun h => ?_, ?_⟩
      · obtain ⟨q, w, hstack⟩ := hstores h
        rw [stack_of_hbm hhbm, hstack, stack_freePlace]
        split <;> rfl
      · obtain ⟨q, w, hstack⟩ := hstores e.stack.toNat
        rw [stack_of_hbm hhbm, hstack, stack_freePlace, if_pos rfl]
    case fromFlash =>
      intro hstate htoHbm htier hgood
      obtain ⟨f, hf, hstripes⟩ := commitHbm_fromFlash m htier
      obtain ⟨v, hgoes, htile, hhbm, hflash⟩ := commitTile_goesOn
        (e := { m.entryInHbm e with flashCopy := m.keep && e.flashCopy }) hfind hstate hgood (if_pos htoHbm) (by rw [hf])
      refine ⟨v, hgoes, htile, ?_, ?_⟩
      · rw [hhbm, hf]
        rfl
      · rw [hflash, hf]
        exact hstripes
    case toFlash =>
      intro hstate htoFlash hgood
      obtain ⟨x, f, hx⟩ := commitFlash_shape m n s
      obtain ⟨v, hgoes, htile, -, -⟩ := commitTile_goesOn (e := e.inFlash) hfind hstate hgood (if_neg (by rw [htoFlash]; decide))
        (by rw [hx])
      exact ⟨v, hgoes, htile⟩

/-! ### The flash translation layer: what its operations change (R287, R289) -/

section
variable {f f1 : FlashState} {n c : Nat}

/-- The flash tiers `f` and `g` differ in the notes on blocks and in the blocks being filled alone. -/
def SameData (f g : FlashState) : Prop := ∃ b x, g = { f with blocks := b, filling := x }

theorem SameData.refl (f : FlashState) : SameData f f := ⟨f.blocks, f.filling, rfl⟩

theorem SameData.trans {g h : FlashState} (hg : SameData f g) (hh : SameData g h) : SameData f h := by
  obtain ⟨_, _, rfl⟩ := hg
  obtain ⟨b, x, rfl⟩ := hh
  exact ⟨b, x, rfl⟩

theorem modBlock_sameData (f : FlashState) (n : Nat) (g : FlashBlock → FlashBlock) : SameData f (f.modBlock n g) :=
  ⟨_, f.filling, rfl⟩

theorem open_sameData (f : FlashState) (c : Nat) : SameData f (f.open_ c).1 := by
  unfold FlashState.open_
  dsimp only
  split
  · exact .refl f
  · split
    · split
      · exact ⟨f.blocks, _, rfl⟩
      · exact ⟨_, _, rfl⟩
    · exact .refl f

theorem program_sameData (f : FlashState) (c : Nat) : SameData f (f.program c).1 := by
  have hopen := open_sameData f c
  unfold FlashState.program
  split
  · rename_i hsome
    rw [hsome] at hopen
    exact hopen.trans (modBlock_sameData _ _ _)
  · rename_i hnone
    rw [hnone] at hopen
    exact hopen

theorem retire_sameData (f : FlashState) (n : Nat) : SameData f (f.retire n) := by
  unfold FlashState.retire
  dsimp only
  split
  · exact ⟨_, _, rfl⟩
  · exact ⟨_, f.filling, rfl⟩

/-- Programming a stripe notes the blocks of the pages, one on each channel. -/
theorem programStripe_sameData {l : List (Nat × Nat)} (h : f.programStripe c = some (f1, l)) : SameData f f1 ∧ l.length = c := by
  induction c generalizing f1 l with
  | zero =>
    cases h
    exact ⟨.refl f, rfl⟩
  | succ c ih =>
    unfold FlashState.programStripe at h
    split at h
    · rename_i g r hrest
      obtain ⟨hdata, hlen⟩ := ih hrest
      have hpage := program_sameData g c
      split at h
      · rename_i f2 p hprogram
        rw [hprogram] at hpage
        cases h
        exact ⟨hdata.trans hpage, by rw [List.length_append, hlen]; rfl⟩
      · cases h
    · cases h

/-- A retired block is bad. -/
theorem retire_bad (f : FlashState) (n : Nat) : ((f.retire n).block n).bad = true := by
  have hbad : ((f.modBlock n (fun b => { b with bad := true })).block n).bad = true := by
    unfold FlashState.modBlock FlashState.block
    dsimp only
    rw [Tab.get_modify_same]
  unfold FlashState.retire
  dsimp only
  split
  · exact hbad
  · exact hbad

/-- Forgotten retry levels are 0. -/
theorem clearRetry_get {i : Nat} (hi : i < 16) : (f.clearRetry n).retry.get 0 (16 * n + i) = 0 := by
  unfold FlashState.clearRetry
  dsimp only
  have hpage : 16 * n + i ∈ tileRange (16 * n) 16 := List.mem_map.mpr ⟨i, List.mem_range.mpr hi, rfl⟩
  rw [Tab.get_modifyAll _ _ _ _ _ (tileRange_nodup _ _), if_pos hpage]

/-- A stripe that is programmed holds the staged bytes, and the tile's write is no longer in flight. -/
theorem keepStripe_shape {e : TileEntry} (h : f.keepStripe n e = some f1) : ∃ l, l.length = 16 ∧ SameData { f with
    wseq := f.wseq + 1
    stripes := f.stripes.set Stripe.none n ⟨e.lease, e.radio, f.wseq + 1, l⟩
    mem := f.mem.copyFrom (n * tileBytes) f.staged (n * tileBytes) tileBytes
    staged := f.staged.clearRange (n * tileBytes) tileBytes
    inflight := f.inflight.erase n } f1 := by
  unfold FlashState.keepStripe at h
  split at h
  · rename_i g l hprogram
    obtain ⟨⟨b, x, rfl⟩, hlen⟩ := programStripe_sameData hprogram
    cases h
    exact ⟨l, hlen, b, x, rfl⟩
  · cases h

end

/-! ### Page reads and acknowledged writes (R288 to R290) -/

section
variable {s : State} {n i : Nat}

theorem flashPageRead_reads (ok : Bool) (hready : s.flash.ready = true) (htier : (s.tile n).tier = .flash)
    (hstate : (s.tile n).state = .ready ∨ (s.tile n).state = .moving) : flashPageRead n i ok s =
    if ok then pageArrives n i { s with flash := s.flash.countRead n i }
    else if s.flash.retry.get 0 (16 * n + i) < retryMax then
      countNd 2 1 (s.jobsOfLease (s.tile n).lease.toNat) { s with flash := { s.flash.countRead n i with
        retry := (s.flash.countRead n i).retry.set 0 (16 * n + i) (s.flash.retry.get 0 (16 * n + i) + 1) } }
    else flashUnreadable n { s with flash := s.flash.countRead n i } := by
  have hguard : (s.flash.ready && (s.tile n).tier = .flash && ((s.tile n).state = .ready || (s.tile n).state = .moving)) = true := by
    rw [hready, htier]
    rcases hstate with h | h <;> rw [h] <;> rfl
  exact if_pos hguard

/-- A page that no move waits for leaves its retry level at 0. -/
theorem pageArrives_read (h : (decide ((s.tile n).state = .moving) && s.tier.moves.any (fun m => s.copying m = some n)) = false) :
    pageArrives n i s = { s with flash := { s.flash with retry := s.flash.retry.set 0 (16 * n + i) 0 } } :=
  if_neg (by rw [h]; decide)

/-- A page of a tile that a move is copying joins the copy. -/
theorem pageArrives_copied (h : (decide ((s.tile n).state = .moving) && s.tier.moves.any (fun m => s.copying m = some n)) = true) :
    pageArrives n i s = ({ s with flash := { s.flash with
      retry := s.flash.retry.set 0 (16 * n + i) 0
      staged := s.flash.staged.copyFrom (n * tileBytes + i * pageBytes) s.flash.mem (n * tileBytes + i * pageBytes) pageBytes } }
      : State).modCopy n (fun c => { c with pages := c.pages ||| BitVec.twoPow 16 i }) := if_pos h

theorem copyOf_modCopy (s : State) (n : Nat) (f : TileCopy → TileCopy) : (s.modCopy n f).copyOf n = f (s.copyOf n) :=
  Tab.get_modify_same _ _ _ _

/-- A page that cannot be read at the last level loses its tile, and the levels of the tile's pages are forgotten. -/
theorem flashUnreadable_shape (n : Nat) (s : State) : ∃ f x y z,
    flashUnreadable n s = { loseTile n s with flash := f, rel := x, dome := y, out := z } ∧ f = s.flash.clearRetry n := by
  unfold flashUnreadable
  generalize s.flash.clearRetry n = f
  obtain ⟨x, y, z, h⟩ := errRecord_shape 11 1 0 (s.tile n).lease.toNat 0 0 0 (loseTile n { s with flash := f })
  exact ⟨f, _, y, z, h, rfl⟩

theorem tile_loseTile (n i : Nat) (s : State) :
    (loseTile n s).tile i = if i = n then { s.tile n with state := .lost } else s.tile i := by
  refine (tile_modTile s n i _).trans ?_
  split
  · subst_vars; rfl
  · rfl

theorem tile_flashUnreadable (n j : Nat) (s : State) :
    (flashUnreadable n s).tile j = if j = n then { s.tile n with state := .lost } else s.tile j := by
  obtain ⟨f, x, y, z, h, -⟩ := flashUnreadable_shape n s
  rw [h, ← tile_loseTile]
  exact tile_of_map rfl j

theorem flashUnreadable_retry (s : State) (hi : i < 16) : (flashUnreadable n s).flash.retry.get 0 (16 * n + i) = 0 := by
  obtain ⟨f, x, y, z, h, hf⟩ := flashUnreadable_shape n s
  rw [h, hf]
  exact clearRetry_get hi

/-- The write of a tile is acknowledged: the flash holds its copy, and the entry says so unless the tile is MOVING. -/
theorem flashWriteAck_keeps {f : FlashState} (hflight : s.flash.inflight.contains n = true)
    (hkeep : s.flash.keepStripe n (s.tile n) = some f) : flashWriteAck n none s = startFlashWrites
      (if (s.tile n).state = .moving then { s with flash := { f.closeJournal with acked := f.closeJournal.acked ++ [n] } }
      else ({ s with flash := f.closeJournal } : State).modTile n (fun e => { e with flashCopy := true })) := by
  unfold flashWriteAck
  rw [if_pos hflight]
  dsimp only
  rw [hkeep]

/-- A failed program retires the channel's block, and the write stays in flight. -/
theorem flashWriteAck_fails {f : FlashState} {c b : Nat} (hflight : s.flash.inflight.contains n = true)
    (hopen : s.flash.open_ c = (f, some b)) : flashWriteAck n (some c) s = { s with flash := f.retire b } := by
  unfold flashWriteAck
  rw [if_pos hflight]
  dsimp only
  rw [hopen]

end

/-! ### Relocations (R289) -/

section
variable {s : State} {b : Nat} {ok : Bool}

/-- A flash tier whose block `b` takes no further page. -/
def FlashState.closeBlock (f : FlashState) (b : Nat) : FlashState :=
  if f.filling.get 0 (blockChannel b) = b + 1 then { f with filling := f.filling.set 0 (blockChannel b) 0 } else f

/-- A block that is due is relocated, if its channel has room. -/
theorem flashRelocation_moves {f : FlashState} (hprogram : s.flash.noProgram = false) (hon : s.domainOn 26 = true)
    (husable : s.flash.usable b = true) (hdue : s.flash.mustRelocate s.dome.cfg.wearSpread s.dome.cfg.readLimit b = true)
    (hmove : (s.flash.closeBlock b).movePages b ((s.flash.closeBlock b).tilesIn b) = some f) :
    flashRelocation b ok s = { s with flash := { (if ok then f.erase b else f.retire b) with relocs := satInc f.relocs } } := by
  have hgoes : (s.flash.noProgram || !s.domainOn 26 || !s.flash.usable b ||
      !s.flash.mustRelocate s.dome.cfg.wearSpread s.dome.cfg.readLimit b) = false := by
    rw [hprogram, hon, husable, hdue]
    rfl
  unfold FlashState.closeBlock at hmove
  unfold flashRelocation
  dsimp only
  rw [if_neg (by rw [hgoes]; decide), hmove]

theorem flashRelocation_rests (h : s.flash.usable b = false ∨ s.flash.noProgram = true ∨
    s.flash.mustRelocate s.dome.cfg.wearSpread s.dome.cfg.readLimit b = false) : flashRelocation b ok s = s := by
  refine if_pos ?_
  rcases h with h | h | h <;> simp [h]

end

/-! ### The rebuild of the Tile Map (R263, R292, R293) -/

section
variable {s : State} {x : FlashFound}

/-- What a boot finds in the packages; after the loss of the map Tower they are known. -/
def State.foundFlash (s : State) (x : FlashFound) : FlashState := if s.tier.rebuilding then s.flash else s.flash.find x

/-- Is there a flash tier: packages, and a Tower for its translation map? -/
def State.flashThere (s : State) (x : FlashFound) : Bool :=
  decide ((s.foundFlash x).found.packages ≠ 0) && s.mapTower.isSome

/-- The map is ready, and the flash tier, where there is one. -/
def State.mapReady (s : State) (x : FlashFound) : State := { s with
  tier := { s.tier with ready := true, rebuilding := false }
  flash := { s.foundFlash x with
    present := s.flashThere x, ready := s.flashThere x, clean := s.flashThere x && (s.foundFlash x).journal } }

/-- The map holds the tiles with a flash copy, READY in flash. -/
def mapCopies (s : State) : State :=
  s.flash.copies.foldl (fun t n => t.setTile n ⟨.flash, .ready, false, true, 0, 0, 0, 0⟩) s

theorem tileMapRebuild_completes (hready : s.tier.ready = false) (hdone : s.clk.done = true) : tileMapRebuild x s =
    if !s.flashThere x then dropFlashTiles (s.mapReady x)
    else if s.tier.rebuilding then s.mapReady x else mapCopies (s.mapReady x) := by
  refine if_neg ?_
  rw [hready, hdone]
  decide

theorem find_sameData (f : FlashState) (x : FlashFound) : SameData { f with found := x } (f.find x) := by
  have hmarks : ∀ (l : List Nat) (g : FlashState), SameData g (l.foldl FlashState.retire g) := by
    intro l
    induction l with
    | nil => exact .refl
    | cons b r ih => exact fun g => (retire_sameData g b).trans (ih _)
  unfold FlashState.find
  dsimp only
  split
  · exact hmarks _ _
  · exact .refl _

theorem foundFlash_found (s : State) (x : FlashFound) :
    (s.foundFlash x).found = if s.tier.rebuilding then s.flash.found else x := by
  unfold State.foundFlash
  split
  · rfl
  · obtain ⟨_, _, h⟩ := find_sameData s.flash x
    rw [h]

theorem foundFlash_copies (s : State) (x : FlashFound) : (s.foundFlash x).copies = s.flash.copies := by
  unfold State.foundFlash
  split
  · rfl
  · obtain ⟨_, _, h⟩ := find_sameData s.flash x
    rw [h]
    rfl

/-- An index that a table does not list reads as the default. -/
theorem Tab.get_of_not_mem_keys {α : Type} (t : Tab α) (d : α) {k : Nat} (h : k ∉ t.keys) : t.get d k = d := by
  obtain ⟨l⟩ := t
  change k ∉ l.map (·.1) at h
  induction l with
  | nil => rfl
  | cons p r ih =>
    rw [List.map_cons, List.mem_cons, not_or] at h
    obtain ⟨hne, hrest⟩ := h
    exact (if_neg (Ne.symm hne)).trans (ih hrest)

/-- An entry once there is no flash tier. -/
def TileEntry.withoutFlash (e : TileEntry) : TileEntry := if e.tier = .flash then TileEntry.free else { e with flashCopy := false }

theorem TileEntry.withoutFlash_tier (e : TileEntry) : e.withoutFlash.tier ≠ .flash := by
  unfold TileEntry.withoutFlash
  split
  · decide
  · assumption

theorem TileEntry.withoutFlash_twice (e : TileEntry) : e.withoutFlash.withoutFlash = e.withoutFlash := by
  refine (if_neg e.withoutFlash_tier).trans ?_
  unfold TileEntry.withoutFlash
  split <;> rfl

theorem dropFlashTiles_retiles (s : State) : Retiles s.tier.map.keys TileEntry.withoutFlash s (dropFlashTiles s) :=
  foldl_retiles (fun t n j => tile_modTile t n j _) (.inr TileEntry.withoutFlash_twice) s

theorem dropFlashTiles_tier (s : State) (i : Nat) : ((dropFlashTiles s).tile i).tier ≠ .flash := by
  rw [dropFlashTiles_retiles]
  split
  · exact TileEntry.withoutFlash_tier _
  · rw [State.tile, Tab.get_of_not_mem_keys _ _ ‹_›]
    decide

theorem dropFlashTiles_shape (s : State) : ∃ m, dropFlashTiles s = { s with tier := { s.tier with map := m } } :=
  foldl_map_shape (fun _ _ => ⟨_, rfl⟩) _ s

theorem mapCopies_shape (s : State) : ∃ m, mapCopies s = { s with tier := { s.tier with map := m } } :=
  foldl_map_shape (fun _ _ => ⟨_, rfl⟩) _ s

theorem mapCopies_retiles (s : State) :
    Retiles s.flash.copies (fun _ => ⟨.flash, .ready, false, true, 0, 0, 0, 0⟩) s (mapCopies s) :=
  foldl_retiles (g := fun _ => ⟨.flash, .ready, false, true, 0, 0, 0, 0⟩) (fun t n j => tile_setTile t n j _) (.inr fun _ => rfl) s

/-- However the rebuild ends, it leaves the map and nothing else of a state in which the map is ready. -/
theorem tileMapRebuild_shape (hready : s.tier.ready = false) (hdone : s.clk.done = true) :
    ∃ m, tileMapRebuild x s = { s.mapReady x with tier := { (s.mapReady x).tier with map := m } } := by
  rw [tileMapRebuild_completes hready hdone]
  split
  · exact dropFlashTiles_shape _
  · split
    · exact ⟨_, rfl⟩
    · exact mapCopies_shape _

end

/-! ### POWER_FAIL and its recovery (R291, R598) -/

theorem cancelDeep_none {s : State} (h : s.pwr.deepTarget = none) : cancelDeep s = s := by
  unfold cancelDeep
  rw [h]

theorem powerFailRecovery_recovers {s : State} {f : Nat} (hfail : s.pins.failAt = some f) (hlong : f + tick100ms ≤ s.clock.tick) :
    powerFailRecovery s = startFlashWrites { s with
      pins := { s.pins with powerFailN := true, failAt := none }
      flash := { s.flash with noProgram := false, journal := false } } := by
  unfold powerFailRecovery
  rw [hfail]
  exact if_pos hlong

theorem heldReset_free {s : State} (h : s.pins.resetHeld = false) : heldReset s = s := if_neg (by simp [h])

theorem startFlashWrites_pins (s : State) : (startFlashWrites s).pins = s.pins := by
  obtain ⟨_, _, h⟩ := startFlashWrites_shape s
  rw [h]

/-- Settles O28: what page reads, acknowledged writes, relocations and the rebuild make of the flash tier and the map, and what the
power-fail signal stops. -/
theorem flashKeepsItsCopies : Obligations.FlashKeepsItsCopies := by
  unfold Obligations.FlashKeepsItsCopies
  refine ⟨?read, ?written, ?failed, ?relocated, ?rests, ?rebuilt, ?powerFails, ?powerReturns⟩
  case read =>
    intro s n i hready htier hstate f k u moved
    have hread (ok : Bool) := flashPageRead_reads (i := i) ok hready htier hstate
    refine ⟨fun hmoved => ?_, fun hmoved => ?_, fun hlevel => ?_, fun hlast => ?_⟩
    · exact congrArg _ ((hread true).trans (pageArrives_read hmoved))
    · refine ⟨_, congrArg Host.Outcome.next ((hread true).trans (pageArrives_copied hmoved)), ?_, rfl⟩
      rw [copyOf_modCopy]
      rfl
    · exact congrArg _ ((hread false).trans (if_pos hlevel))
    · refine ⟨_, congrArg Host.Outcome.next ((hread false).trans (if_neg (Nat.not_lt.mpr hlast))), fun j => ?_, ?_⟩
      · rw [tile_flashUnreadable, tile_of_map (t := u) (s := s) rfl n, tile_of_map (t := u) (s := s) rfl j]
      · exact flashUnreadable_retry u i.isLt
  case written =>
    intro s n f hflight hkeep
    obtain ⟨l, hlen, b, x, hf⟩ := keepStripe_shape hkeep
    have hack := flashWriteAck_keeps hflight hkeep
    refine ⟨?_, fun hmoving => ?_, fun hstays => ?_⟩
    · rw [hf]
      exact ⟨rfl, rfl, rfl, rfl, l, rfl, hlen⟩
    · rw [if_pos hmoving] at hack
      exact congrArg (fun t => Host.Outcome.next (heldReset t)) hack
    · rw [if_neg hstays] at hack
      exact congrArg (fun t => Host.Outcome.next (heldReset t)) hack
  case failed =>
    intro s n b c f hflight hopen
    exact ⟨congrArg (fun t => Host.Outcome.next (heldReset t)) (flashWriteAck_fails hflight hopen), retire_bad f b⟩
  case relocated =>
    intro s b ok f hprogram hon husable hdue hmove
    exact congrArg _ (flashRelocation_moves hprogram hon husable hdue hmove)
  case rests =>
    intro s b ok hrests
    exact congrArg _ (flashRelocation_rests hrests)
  case rebuilt =>
    intro s hready hdone found
    obtain ⟨m, hshape⟩ := tileMapRebuild_shape (x := cardFlash) hready hdone
    have hfound : (s.foundFlash cardFlash).found = found := foundFlash_found s cardFlash
    have hthere : s.flashThere cardFlash = (decide (found.packages ≠ 0) && s.mapTower.isSome) := by rw [State.flashThere, hfound]
    have hflash : (tileMapRebuild cardFlash s).flash.ready = s.flashThere cardFlash := by rw [hshape]; rfl
    have hends := tileMapRebuild_completes (x := cardFlash) hready hdone
    refine ⟨tileMapRebuild cardFlash s, rfl, ?_, ?_, ?_, hflash.trans hthere, ?_, fun hup hlost => ?_, fun hup hreset n => ?_,
      fun hdown n => ?_, ?_⟩
    · rw [hshape]; rfl
    · rw [hshape]; rfl
    · rw [hshape]; exact hfound
    · rw [hshape]; rfl
    · rw [hends, ← hflash, hup, if_neg (by decide), if_pos hlost]
      rfl
    · rw [hends, ← hflash, hup, if_neg (by decide), if_neg (by rw [hreset]; decide), mapCopies_retiles]
      rw [show (s.mapReady cardFlash).flash.copies = s.flash.copies from foundFlash_copies s cardFlash]
      rfl
    · rw [hends, ← hflash, hdown]
      exact dropFlashTiles_tier _ n
    · rw [hshape]; rfl
  case powerFails =>
    intro s hnone u
    have hcancel : cancelDeep u = u := cancelDeep_none hnone
    exact congrArg (fun t => Host.Outcome.next (if s.clk.done = true then estopRaise causePowerFail t else t)) hcancel
  case powerReturns =>
    intro s f hfail hlong hheld
    refine congrArg Host.Outcome.next ?_
    rw [powerFailRecovery_recovers hfail hlong, heldReset_free (by rw [startFlashWrites_pins]; exact hheld)]

/-! ### Open slots (R257, R259, R260) -/

section
variable {s t u : State} {h : Nat} {r : OpenReq} {x : HbmStack}

theorem issueWipes_nothing (hwipes : x.wipeQueue = []) (hboot : x.bootWiping = false) (c n : Nat) : x.issueWipes c n = x := by
  cases n with
  | zero => rfl
  | succ n =>
    unfold HbmStack.issueWipes
    rw [hwipes, hboot]
    exact ite_self _

theorem issueMoves_nothing (hmoves : s.tier.moves = []) (h n : Nat) : issueMoves h s n = s := by
  cases n with
  | zero => rfl
  | succ n =>
    unfold issueMoves
    rw [hmoves]
    rfl

theorem fill_nothing (hwaiting : x.waiting = []) (n : Nat) : x.fill n = x := by
  cases n with
  | zero => rfl
  | succ n =>
    unfold HbmStack.fill
    rw [hwaiting]
    rfl

theorem countWaits_nothing (hqueue : (s.stack h).queue = []) (hwaiting : (s.stack h).waiting = []) : countWaits h s = s := by
  unfold countWaits
  dsimp only
  rw [hqueue, hwaiting]
  rfl

/-- The one request of a controller's queue is taken out of it. -/
def slotTaken (h : Nat) (r : OpenReq) (s : State) : State :=
  (s.modStack h (fun x => x.issueWipes s.cyc tierMax)).modStack h (fun x => { x with queue := x.queue.erase r })

/-- An open slot ends with a count, and the requests that wait enter the queue. -/
def slotEnded (h : Nat) (s : State) : State := (countWaits h (countBelfry 0x1202 (some h) 1 s)).modStack h HbmStack.takeIn

/-- A controller that has one request, which no move blocks, and nothing of its own to do in an open slot. -/
structure ServesOne (h : Nat) (r : OpenReq) (s : State) : Prop where
  inService : s.rel.towerOut.getLsbD (stackTower h) = false
  on : s.domainOn (16 + stackTower h) = true
  trained : (s.stack h).trained = true
  slot : s.openSlotNow h = true
  noWipe : (s.stack h).wipeQueue = []
  noBoot : (s.stack h).bootWiping = false
  noMove : s.tier.moves = []
  queue : (s.stack h).queue = [r]
  waiting : (s.stack h).waiting = []
  unblocked : s.blocked r = false

theorem ServesOne.stack (hone : ServesOne h r s) (i : Nat) :
    (slotTaken h r s).stack i = if i = h then { s.stack i with queue := [] } else s.stack i := by
  unfold slotTaken
  rw [stack_modStack_eq, stack_modStack_eq]
  split
  · subst_vars
    rw [issueWipes_nothing hone.noWipe hone.noBoot, hone.queue, List.erase_cons_head]
  · rfl

theorem ServesOne.openSlot (hone : ServesOne h r s) (errs : List (Nat × Nat)) :
    openSlot h errs s = slotEnded h (performOpen h r.op errs (slotTaken h r s)) := by
  let s0 := s.modStack h (fun x => x.issueWipes s.cyc tierMax)
  have hidle : issueMoves h s0 tierMax = s0 := issueMoves_nothing (s := s0) hone.noMove h tierMax
  have hqueue : (s0.stack h).queue = [r] := by rw [stack_modStack, issueWipes_nothing hone.noWipe hone.noBoot, hone.queue]
  have hfree : s0.blocked r = false := hone.unblocked
  unfold Machine.openSlot
  rw [if_neg (by rw [hone.inService]; decide), hone.on, if_neg (by decide), hone.trained, hone.slot, if_pos (by decide)]
  dsimp only
  rw [hidle, hqueue, List.find?_cons_of_pos (by rw [hfree]; rfl)]
  rfl

theorem countBelfry_hbm (e : Nat) (i : Option Nat) (c : Nat) (s : State) : (countBelfry e i c s).hbm = s.hbm := by
  obtain ⟨_, _, _, h⟩ := countBelfry_shape e i c s
  rw [h]

theorem countBelfry_denied (e : Nat) (i : Option Nat) (c : Nat) (s : State) : (countBelfry e i c s).host.denied = s.host.denied :=
  congrArg (fun t => t.host.denied) (countBelfry_calm e i c s)

/-- After a slot that leaves the controller without requests, the stacks are as its request has left them, and no more than the
overflow of a counter is sent. -/
theorem slotEnded_quiet (hqueue : (u.stack h).queue = []) (hwaiting : (u.stack h).waiting = []) :
    (∀ i, (slotEnded h u).stack i = u.stack i) ∧ (∃ l, (slotEnded h u).out = l ++ u.out) ∧
      (slotEnded h u).host.denied = u.host.denied := by
  have hstack (i : Nat) : (countBelfry 0x1202 (some h) 1 u).stack i = u.stack i := stack_of_hbm (countBelfry_hbm _ _ _ _) i
  unfold slotEnded
  rw [countWaits_nothing (by rw [hstack, hqueue]) (by rw [hstack, hwaiting])]
  refine ⟨fun i => ?_, ?_, ?_⟩
  · rw [stack_modStack_eq, hstack]
    split
    · subst_vars
      exact fill_nothing hwaiting _
    · rfl
  · exact countBelfry_out _ _ _ _
  · exact countBelfry_denied _ _ _ _

/-- The words of a host read that are poisoned. -/
def poisonedRead (m : Mem) (a len : Nat) : Bool :=
  (List.range 32).any (fun i => (m.beatPoison (a / 1024 * 1024)).getLsbD i && decide (a % 1024 / 32 ≤ i ∧ 32 * i < a % 1024 + len))

/-- What a host read answers of a tile that it reaches, with no symbol in error: the bytes, with poison if a word of them is poisoned. -/
def State.cxlAnswer (s : State) (tag addr len : Nat) : Out :=
  let e := s.tile (addr / tileBytes)
  let a := e.byteAt (addr % tileBytes)
  let m := (s.stack e.stack.toNat).mem
  .cxlData tag (((m.readBytes (a / 1024 * 1024) 1024).drop (a % 1024)).take len) (poisonedRead m a len)

theorem hostRead_reaches {addr : Nat} (hreach : s.hostReaches (addr / tileBytes) = true) (tag len : Nat) :
    ∃ x, hostRead tag addr len [] s = { s with rel := x, out := s.cxlAnswer tag addr len :: s.out } := by
  have hpoison : ∀ (b : Bool) (o : Out), ∃ x, (if b then consumePoison 1 s else s).emit o = { s with rel := x, out := o :: s.out } := by
    intro b o
    cases b
    · exact ⟨s.rel, rfl⟩
    · exact ⟨_, rfl⟩
  unfold hostRead
  rw [if_pos hreach]
  exact hpoison _ _

theorem hostRead_denied {addr : Nat} (hreach : s.hostReaches (addr / tileBytes) = false) (tag len : Nat) :
    hostRead tag addr len [] s = { s with
      host := { s.host with denied := satInc s.host.denied }
      out := .cxlData tag (List.replicate len 0) true :: s.out } := if_neg (by rw [hreach]; decide)

/-- Taking a request out of its queue changes no byte that a host read answers. -/
theorem ServesOne.cxlAnswer (hone : ServesOne h r s) (tag addr len : Nat) :
    (slotTaken h r s).cxlAnswer tag addr len = s.cxlAnswer tag addr len := by
  have hmem (i : Nat) : ((slotTaken h r s).stack i).mem = (s.stack i).mem := by
    rw [hone.stack]
    split <;> rfl
  have htile : (slotTaken h r s).tile (addr / tileBytes) = s.tile (addr / tileBytes) := tile_of_map rfl _
  unfold State.cxlAnswer
  dsimp only
  rw [htile, hmem]

/-- A stack at a refresh point: the second of a pair is idle while the stack is cool (R258). -/
def HbmStack.refreshed (x : HbmStack) : HbmStack :=
  { x with parity := !x.parity, refreshes := if !x.hot && x.parity then x.refreshes else x.refreshes + 1 }

/-- A refresh point in a refresh frame refreshes its stack and no other, with nothing that waits past it. -/
theorem refreshPoint_stack (htrained : (s.stack h).trained = true) (hframe : s.refreshFrame h = true)
    (hservice : s.rel.towerOut.getLsbD (stackTower h) = false) (hqueue : (s.stack h).queue = [])
    (hwaiting : (s.stack h).waiting = []) (i : Nat) :
    (refreshPoint h s).stack i = if i = h then (s.stack i).refreshed else s.stack i := by
  let s1 := s.modStack h (fun y => { y with
    parity := !y.parity, refreshes := if !(s.stack h).hot && (s.stack h).parity then y.refreshes else y.refreshes + 1 })
  have hcount (b : Bool) (j : Nat) : (if b then s1 else countBelfry 0x1203 (some h) 1 s1).stack j = s1.stack j := by
    cases b
    · exact stack_of_hbm (countBelfry_hbm _ _ _ _) j
    · rfl
  have hown : s1.stack h = (s.stack h).refreshed := stack_modStack _ _ _
  unfold refreshPoint
  rw [if_pos (by rw [htrained, hframe, hservice]; rfl)]
  dsimp only
  rw [countWaits_nothing (by rw [hcount, hown]; exact hqueue) (by rw [hcount, hown]; exact hwaiting), hcount]
  split
  · subst_vars
    exact hown
  · exact stack_modStack_ne _ _ ‹_›

end

/-- Settles O25: the one request of an open slot, and the refresh, temperature and wipe events. -/
theorem controllersServeRefreshAndWipe : Obligations.ControllersServeRefreshAndWipe := by
  unfold Obligations.ControllersServeRefreshAndWipe
  intro s h x
  refine ⟨?slot, ?refresh, fun temp => rfl, ?train, ?bootWiped, ?placeWiped⟩
  case slot =>
    intro r hservice hon htrained hslot hwipes hboot hmoves hqueue hwaiting hfree
    have hone : ServesOne h r s := ⟨hservice, hon, htrained, hslot, hwipes, hboot, hmoves, hqueue, hwaiting, hfree⟩
    have hexec : exec (.openSlot ⟨h, []⟩) s = .next (slotEnded h (performOpen h r.op [] (slotTaken h r s))) :=
      congrArg _ (hone.openSlot [])
    have hothers : ∀ g, g ≠ h.val → (slotTaken h r s).stack g = s.stack g := fun g hg => (hone.stack g).trans (if_neg hg)
    have htaken : (slotTaken h r s).stack h = { x with queue := [] } := (hone.stack h).trans (if_pos rfl)
    have hempty : ((slotTaken h r s).stack h).queue = [] ∧ ((slotTaken h r s).stack h).waiting = [] := by
      rw [htaken]
      exact ⟨rfl, hwaiting⟩
    obtain ⟨hnoQueue, hnoWait⟩ := hempty
    refine ⟨fun tag a n hop => ⟨fun hreach => ?_, fun hreach => ?_⟩, fun p b hop => ?_⟩
    · obtain ⟨y, hread⟩ := hostRead_reaches (s := slotTaken h r s) hreach tag n
      rw [hop, performOpen, hread, hone.cxlAnswer] at hexec
      obtain ⟨hstack, ⟨l, hout⟩, hdenied⟩ := slotEnded_quiet
        (u := { slotTaken h r s with rel := y, out := s.cxlAnswer tag a n :: s.out }) hnoQueue hnoWait
      exact ⟨_, l, hexec, (hstack h).trans htaken, hout, hdenied, fun g hg => (hstack g).trans (hothers g hg)⟩
    · rw [hop, performOpen, hostRead_denied (s := slotTaken h r s) hreach] at hexec
      obtain ⟨hstack, ⟨l, hout⟩, hdenied⟩ := slotEnded_quiet (u := { slotTaken h r s with
        host := { s.host with denied := satInc s.host.denied }
        out := .cxlData tag (List.replicate n 0) true :: s.out }) hnoQueue hnoWait
      exact ⟨_, l, hexec, (hstack h).trans htaken, hout, hdenied, fun g hg => (hstack g).trans (hothers g hg)⟩
    · let wiped (y : HbmStack) : HbmStack :=
        { y with mem := y.mem.clearRange (p * tileBytes + 1024 * b) 1024, wipeBeat := y.wipeBeat + 1 }
      have hwiped : ((slotTaken h r s).modStack h wiped).stack h = wiped { x with queue := [] } := by rw [stack_modStack, htaken]
      rw [hop, performOpen] at hexec
      obtain ⟨hstack, ⟨l, hout⟩, -⟩ := slotEnded_quiet (u := (slotTaken h r s).modStack h wiped)
        (congrArg HbmStack.queue hwiped) ((congrArg HbmStack.waiting hwiped).trans hwaiting)
      exact ⟨_, l, hexec, (hstack h).trans hwiped, hout,
        fun g hg => (hstack g).trans ((stack_modStack_ne _ _ hg).trans (hothers g hg))⟩
  case refresh =>
    intro htrained hframe hservice hqueue hwaiting
    have hstack := refreshPoint_stack htrained hframe hservice hqueue hwaiting
    refine ⟨_, rfl, ?_, fun g hg => (hstack g).trans (if_neg hg)⟩
    rw [hstack, if_pos rfl, HbmStack.refreshed]
    simp only [Bool.and_eq_true, Bool.not_eq_true']
    rfl
  case train =>
    intro hdone hservice huntrained
    exact congrArg Host.Outcome.next (if_pos (by rw [hdone, hservice, show (s.stack h).trained = false from huntrained]; rfl))
  case bootWiped =>
    intro hwiping
    exact congrArg Host.Outcome.next (if_pos hwiping)
  case placeWiped =>
    intro p rest hqueue hbeats
    refine congrArg Host.Outcome.next ?_
    unfold placeWipeComplete
    dsimp only
    rw [show (s.stack h).wipeQueue = p :: rest from hqueue]
    exact if_pos hbeats

/-! ### Transfers: the decision, the beats and the completion (R256, R269 to R273) -/

section
variable {s t : State} {k j : Nat} {r : XfReq} {rest : List XfReq} {w : Nat}

theorem only_modXb (k : Nat) (f : XbState → XbState) (s : State) : OnlySpire k s (s.modXb k f) := OnlySpire.modSpire k _ s

theorem countBelfry_spires (e : Nat) (i : Option Nat) (c : Nat) (s : State) : (countBelfry e i c s).spires = s.spires := by
  obtain ⟨_, _, _, h⟩ := countBelfry_shape e i c s
  rw [h]

theorem countSpire_xb (k ev n : Nat) (s : State) : ((countSpire k ev n s).spire k).xb = (s.spire k).xb := by
  rw [(countSpire_near k ev n s).2]

/-- A transfer that is over, or refused, sets its flag if its descriptor asks for it. -/
def flagIf (on : Bool) (k n : Nat) (s : State) : State := if on then setFlag k n s else s

theorem flagIf_spire (on : Bool) (k n : Nat) (s : State) : (flagIf on k n s).spire k = { s.spire k with
    seq := if on then (s.spire k).seq.changeFlags s.cyc (BitVec.twoPow 16 n) 0 else (s.spire k).seq } := by
  cases on
  · rfl
  · exact modSeq_spire k (fun q => q.changeFlags s.cyc (BitVec.twoPow 16 n) 0) s

theorem flagIf_only (on : Bool) (k n : Nat) (s : State) : OnlySpire k s (flagIf on k n s) := by
  cases on
  · exact .refl k s
  · exact only_modSeq k (fun q => q.changeFlags s.cyc (BitVec.twoPow 16 n) 0) s

/-- The first request of Spire `k` is decided, and its Tile Map lookup counted. -/
def requestTaken (k : Nat) (rest : List XfReq) (s : State) : State :=
  countBelfry 0x1302 none 1 (s.modXb k (fun y => { y with requests := rest }))

theorem requestTaken_spire (k : Nat) (rest : List XfReq) (s : State) :
    (requestTaken k rest s).spire k = { s.spire k with xb := { (s.spire k).xb with requests := rest } } :=
  (spire_of_spires (countBelfry_spires _ _ _ _) k).trans (modXb_spire k _ s)

theorem requestTaken_only (k : Nat) (rest : List XfReq) (s : State) : OnlySpire k s (requestTaken k rest s) :=
  (only_modXb k _ s).trans (.of_spires (countBelfry_spires _ _ _ _))

theorem requestTaken_cyc (k : Nat) (rest : List XfReq) (s : State) : (requestTaken k rest s).cyc = s.cyc :=
  cyc_of_slow (countBelfry_slow _ _ _ _)

/-- The transfer that an accepted request begins (R271). -/
def XfReq.transfer (r : XfReq) (d : XferDesc) (e : TileEntry) : Xfer :=
  ⟨r.isGet, d.tile, d.first, d.beats, 0, d.addr, e.stack.toNat, e.place.toNat, d.flagEn, d.flag, r.inS, r.at_ + 65, 0, r.pc⟩

/-- A crossbar port with a transfer put on its stream `j`. -/
def XbState.accept (y : XbState) (j : Nat) (x : Xfer) : XbState :=
  { y with streams := y.streams.modify Stream.reset j (fun q => q.accept x) }

/-- A crossbar port that has refused a transfer. -/
def XbState.refuse (y : XbState) (st : Nat) : XbState := { y with lastRefusal := BitVec.ofNat 8 st, refused := true }

theorem transferAccept_due (hrequests : (s.spire k).xb.requests = r :: rest) (hdue : r.at_ + 64 ≤ s.cyc) (hdesc : r.desc = some w) :
    transferAccept k s = match s.xferRefusal k r (decodeXferDesc w) with
      | some st => flagIf (decodeXferDesc w).flagEn k (decodeXferDesc w).flag
          ((requestTaken k rest s).modXb k (fun y => y.refuse st))
      | none => (requestTaken k rest s).modXb k
          (fun y => y.accept r.stream (r.transfer (decodeXferDesc w) (s.tile (decodeXferDesc w).tile))) := by
  unfold transferAccept
  rw [hrequests]
  dsimp only
  rw [if_neg (Nat.not_lt.mpr hdue), hdesc]
  rfl

/-- A PUT beat with no symbol in error is in its stack, and its stream knows when the last one was. -/
def putLanded (k : Nat) (b : Beat) (s : State) : State :=
  (s.modStack b.stack (fun x => { x with
    mem := x.mem.writeBeat (b.place * tileBytes + 1024 * b.beat) b.data b.poison })).modXb k (fun y => { y with
    puts := y.puts.erase b
    streams := if b.isLast then y.streams.modify Stream.reset b.stream (Stream.arrived (s.cyc + 8)) else y.streams })

theorem putLanded_only (k : Nat) (b : Beat) (s : State) : OnlySpire k s (putLanded k b s) :=
  OnlySpire.trans (t := s.modStack b.stack _) (.of_spires rfl) (only_modXb k _ _)

theorem putBeat_lands (k : Nat) (b : Beat) (s : State) :
    putBeat k b [] s = countCommand b.stack (k / 8) (countSpire k 0x0602 1 (putLanded k b s)) := by
  unfold putBeat
  rfl

/-- The count of a plan command leaves the Spires and the stacks. -/
theorem countCommand_keeps (h x : Nat) (s : State) : (countCommand h x s).spires = s.spires ∧ (countCommand h x s).hbm = s.hbm := by
  unfold countCommand
  dsimp only
  split
  · exact ⟨countBelfry_spires _ _ _ _, countBelfry_hbm _ _ _ _⟩
  · exact ⟨(countBelfry_spires _ _ _ _).trans (countBelfry_spires _ _ _ _),
      (countBelfry_hbm _ _ _ _).trans (countBelfry_hbm _ _ _ _)⟩

theorem Near.hbm (h : Near k s t) : t.hbm = s.hbm := by rw [h.1]

/-- Nothing but the Spires differs. -/
def SpiresOnly (s t : State) : Prop := ∃ y, t = { s with spires := y }

theorem SpiresOnly.trans {u : State} (h : SpiresOnly s t) (g : SpiresOnly t u) : SpiresOnly s u := by
  obtain ⟨_, rfl⟩ := h
  obtain ⟨y, rfl⟩ := g
  exact ⟨y, rfl⟩

theorem SpiresOnly.takeCopy (x : Xfer) (w : Words) (s : State) (m : Nat) : SpiresOnly s (takeCopy x w s m) := by
  unfold Machine.takeCopy
  split
  · split
    · exact ⟨_, rfl⟩
    · exact ⟨s.spires, rfl⟩
  · exact ⟨s.spires, rfl⟩

theorem takeCopy_only (x : Xfer) (w : Words) (s : State) (m : Nat) : OnlySpire m s (takeCopy x w s m) := by
  unfold Machine.takeCopy
  split
  · split
    · exact only_modXb m _ s
    · exact .refl m s
  · exact .refl m s

/-- Whether the plan gives a beat its way depends on no Spire. -/
theorem SpiresOnly.pathGet (h : SpiresOnly s t) (m x : Nat) (off : Int) : t.pathGet m x off = s.pathGet m x off := by
  have hconnected (a b c : Nat) (o : Int) : t.connected a b c o = s.connected a b c o := by
    obtain ⟨_, rfl⟩ := h
    rfl
  have hrelayed (a b : Nat) (o : Int) : t.relayed a b o = s.relayed a b o := by
    obtain ⟨_, rfl⟩ := h
    rfl
  simp only [State.pathGet, hconnected, hrelayed]

/-- Which streams of a Spire take a copy depends, of the Spires, on that Spire alone. -/
theorem SpiresOnly.copies (h : SpiresOnly s t) {i : Nat} (hi : t.spire i = s.spire i) (x : Xfer) (j : Nat) :
    t.copies x i j = s.copies x i j := by
  have hcyc : t.cyc = s.cyc := by
    obtain ⟨_, rfl⟩ := h
    rfl
  simp only [State.copies, hi, hcyc, h.pathGet]

/-- A Spire none of whose streams takes a copy is left alone. -/
theorem takeCopy_none {x : Xfer} {m : Nat} (h : ∀ j, s.copies x m j = false) (w : Words) : takeCopy x w s m = s := by
  unfold takeCopy
  rw [List.find?_eq_none.mpr (fun j _ => by rw [h j]; decide)]

theorem foldl_takeCopy_spiresOnly (x : Xfer) (w : Words) (l : List Nat) (s : State) : SpiresOnly s (l.foldl (takeCopy x w) s) := by
  induction l generalizing s with
  | nil => exact ⟨s.spires, rfl⟩
  | cons m r ih => exact (SpiresOnly.takeCopy x w s m).trans (ih _)

/-- The copies of a beat change no Spire that is not offered one, and none whose streams do not take it. -/
theorem foldl_takeCopy_spire {x : Xfer} (w : Words) {l : List Nat} {i : Nat} (h : i ∉ l ∨ ∀ j, s.copies x i j = false) :
    (l.foldl (takeCopy x w) s).spire i = s.spire i := by
  induction l generalizing s with
  | nil => rfl
  | cons m r ih =>
    have hstep : (takeCopy x w s m).spire i = s.spire i := by
      by_cases him : i = m
      · subst him
        rcases h with h | h
        · exact absurd List.mem_cons_self h
        · rw [takeCopy_none h]
      · exact takeCopy_only x w s m i him
    rw [List.foldl_cons, ih, hstep]
    exact h.imp (fun hi hr => hi (List.mem_cons_of_mem _ hr))
      (fun hc j => ((SpiresOnly.takeCopy x w s m).copies hstep x j).trans (hc j))

/-- The words of the beat that a transfer reads next, with no symbol in error. -/
def State.nextWords (s : State) (x : Xfer) : Words :=
  ⟨(s.stack x.stack).mem.readBytes (x.place * tileBytes + 1024 * (x.first + x.next)) 1024,
    (s.stack x.stack).mem.beatPoison (x.place * tileBytes + 1024 * (x.first + x.next))⟩

theorem getBeat_reads (k j : Nat) (x : Xfer) (s : State) : getBeat k j x [] s = countCommand x.stack (k / 8)
    ((s.spires.keys.filter (fun n => decide (n ≠ k))).foldl (takeCopy x (s.nextWords x)) (takeBeat k j x (s.nextWords x) s)) := by
  unfold getBeat
  rfl

/-- The beat that a transfer's read puts on its way to the store. -/
def State.beatTaken (s : State) (k j : Nat) (x : Xfer) (w : Words) : Beat :=
  ⟨j, x.stack, x.place, x.first + x.next, x.storeAddr + 1024 * x.next, s.cyc + getLag k x.stack,
    w.data, w.poison, decide (x.next + 1 = x.beats), x.inS, x.pc⟩

theorem takeBeat_gets (k j : Nat) (x : Xfer) (w : Words) (s : State) :
    ((takeBeat k j x w s).spire k).xb.gets = (s.spire k).xb.gets ++ [s.beatTaken k j x w] := by
  unfold takeBeat
  dsimp only
  rw [modXb_spire]
  rfl

theorem hbmBeat_puts {b : Beat} (h : (s.spire k).xb.puts.find? (fun b => b.stream == j && decide (b.due ≤ s.cyc)) = some b)
    (errs : List (Nat × Nat)) : hbmBeat k j errs s = putBeat k b errs s := by
  unfold hbmBeat
  dsimp only
  rw [h]

theorem hbmBeat_gets {x : Xfer} (hputs : (s.spire k).xb.puts.find? (fun b => b.stream == j && decide (b.due ≤ s.cyc)) = none)
    (hturn : ((s.spire k).xb.streams.get Stream.reset j).turn = some x) (hget : x.isGet = true) (hfrom : x.from_ ≤ s.cyc)
    (howns : s.ownsSlot k j x.stack false 0 = true) (hfirst : (s.spire k).xb.gotBeat j (s.cyc + getLag k x.stack) = false)
    (errs : List (Nat × Nat)) : hbmBeat k j errs s = getBeat k j x errs s := by
  unfold hbmBeat
  dsimp only
  rw [hputs]
  dsimp only
  rw [hturn]
  exact if_pos (by rw [hget, howns, hfirst, decide_eq_true hfrom]; rfl)

/-- The stream of a transfer that is over goes on with the one that was queued. -/
def transferOver (k j : Nat) (s : State) : State :=
  let next : Stream := ⟨((s.spire k).xb.streams.get Stream.reset j).queued, none⟩
  s.modXb k (fun y => { y with streams := y.streams.set Stream.reset j next })

theorem transferComplete_over {x : Xfer} (hactive : ((s.spire k).xb.streams.get Stream.reset j).active = some x)
    (hbeats : x.next = x.beats) (hlast : 0 < x.lastAt) (hdue : x.lastAt ≤ s.cyc) :
    transferComplete k j s = flagIf x.flagEn k x.flag (transferOver k j s) := by
  unfold transferComplete
  dsimp only
  rw [hactive]
  exact if_pos (by simp [hbeats, hlast, hdue])

end

/-- Settles O24: the decision on a request, a beat of each direction, and the completion. -/
theorem transfersAcceptMoveAndEnd : Obligations.TransfersAcceptMoveAndEnd := by
  unfold Obligations.TransfersAcceptMoveAndEnd
  intro s k xb
  refine ⟨?decided, ?put, ?get, ?completes⟩
  case decided =>
    intro r rest w hrequests hdue hdesc d e
    have hdecided := transferAccept_due hrequests hdue hdesc
    refine ⟨fun haccepted => ?_, fun st hrefused => ?_⟩
    · rw [haccepted] at hdecided
      dsimp only at hdecided
      have hspire := modXb_spire k (fun y => y.accept r.stream (r.transfer d e)) (requestTaken k rest s)
      rw [requestTaken_spire] at hspire
      exact ⟨_, congrArg Host.Outcome.next hdecided, congrArg Spire.xb hspire, (congrArg Spire.seq hspire).trans rfl,
        (requestTaken_only k rest s).trans (only_modXb k _ _)⟩
    · rw [hrefused] at hdecided
      dsimp only at hdecided
      have hspire := flagIf_spire d.flagEn k d.flag ((requestTaken k rest s).modXb k (fun y => y.refuse st))
      rw [modXb_spire, requestTaken_spire] at hspire
      refine ⟨_, congrArg Host.Outcome.next hdecided, congrArg Spire.xb hspire, (congrArg Spire.seq hspire).trans ?_,
        ((requestTaken_only k rest s).trans (only_modXb k _ _)).trans (flagIf_only _ k _ _)⟩
      rw [← requestTaken_cyc k rest s]
      rfl
  case put =>
    intro j b hput
    have hexec := (hbmBeat_puts hput []).trans (putBeat_lands k b s)
    obtain ⟨hcounted, -⟩ := countSpire_near k 0x0602 1 (putLanded k b s)
    obtain ⟨hspires, hhbm⟩ := countCommand_keeps b.stack (k / 8) (countSpire k 0x0602 1 (putLanded k b s))
    have hspire : (countCommand b.stack (k / 8) (countSpire k 0x0602 1 (putLanded k b s))).spire k =
        (countSpire k 0x0602 1 (putLanded k b s)).spire k := spire_of_spires hspires k
    have hstack (h : Nat) : (countCommand b.stack (k / 8) (countSpire k 0x0602 1 (putLanded k b s))).stack h =
        (putLanded k b s).stack h := stack_of_hbm (hhbm.trans hcounted.hbm) h
    refine ⟨_, congrArg Host.Outcome.next hexec, ?_, fun h hne => (hstack h).trans (stack_modStack_ne s _ hne), ?_, ?_, ?_⟩
    · exact congrArg HbmStack.mem ((hstack b.stack).trans (stack_modStack s b.stack _))
    · rw [hspire, countSpire_xb, putLanded, modXb_spire]
      rfl
    · rw [hspire, countSpire_store, putLanded, modXb_spire]
      rfl
    · exact ((putLanded_only k b s).trans (countSpire_only k 0x0602 1 (putLanded k b s))).trans (.of_spires hspires)
  case get =>
    intro j x hputs hturn hget hfrom howns hfirst
    have hexec := (hbmBeat_gets hputs hturn hget hfrom howns hfirst []).trans (getBeat_reads k j x s)
    let others := s.spires.keys.filter (fun n => decide (n ≠ k.val))
    let taken := takeBeat k j x (s.nextWords x) s
    have hself : k.val ∉ others := fun h => by simpa using (List.mem_filter.mp h).2
    obtain ⟨hspires, hhbm⟩ := countCommand_keeps x.stack (k / 8) (others.foldl (takeCopy x (s.nextWords x)) taken)
    refine ⟨_, congrArg Host.Outcome.next hexec, ?_, ?_, fun i hi hcopies => ?_⟩
    · rw [spire_of_spires hspires, foldl_takeCopy_spire _ (.inl hself)]
      exact takeBeat_gets k j x _ s
    · obtain ⟨y, hy⟩ := foldl_takeCopy_spiresOnly x (s.nextWords x) others taken
      rw [hhbm, hy]
      rfl
    · have htaken : taken.spire i = s.spire i := only_modXb k _ s i hi
      have hnone (j' : Nat) : taken.copies x i j' = false := (SpiresOnly.copies ⟨_, rfl⟩ htaken x j').trans (hcopies j')
      rw [spire_of_spires hspires, foldl_takeCopy_spire _ (.inr hnone), htaken]
  case completes =>
    intro j x hactive hbeats hlast hdue
    have hspire := flagIf_spire x.flagEn k x.flag (transferOver k j s)
    rw [transferOver, modXb_spire] at hspire
    exact ⟨_, congrArg Host.Outcome.next (transferComplete_over hactive hbeats hlast hdue), congrArg Spire.xb hspire,
      congrArg Spire.seq hspire, (only_modXb k _ s).trans (flagIf_only _ k _ _)⟩

end Sys2Proof.Machine

namespace Sys2Proof.Machine
open Sys2Proof

/-! ### Cells: what a read gives after a change -/

section
variable {s t w : State} {iss : Issuer} {op n : Nat} {body : State → State × Option Reply}

theorem cell_of_cells (h : t.radio.cells = s.radio.cells) (m : Nat) : t.cell m = s.cell m :=
  congrArg (·.get RadioCell.reset m) h

@[simp] theorem cell_modCell_same (s : State) (c : Nat) (f : RadioCell → RadioCell) : (s.modCell c f).cell c = f (s.cell c) :=
  Tab.get_modify_same _ _ _ _

theorem cell_modCell_ne (s : State) {c m : Nat} (f : RadioCell → RadioCell) (h : m ≠ c) : (s.modCell c f).cell m = s.cell m :=
  Tab.get_modify_other _ _ _ h.symm

theorem cell_consumePoison (k : Nat) (s : State) (m : Nat) : (consumePoison k s).cell m = s.cell m := cell_of_cells rfl m

/-! ### Radio commands: the note of the last status (R334 to R337) -/

theorem noteCellStatus_reply (hn : n < 384) (t : State) (q : Reply) : noteCellStatus n (t, some q) =
    (t.modCell n (fun x => { x with lastStatus := BitVec.ofNat 8 q.status }), some q) := if_pos hn

/-- A note of a refusal stays as the chip goes back to its power state (R14, R573). -/
theorem stayLow_modCell (s t : State) (n : Nat) (f : RadioCell → RadioCell) :
    stayLow s (t.modCell n f) = (stayLow s t).modCell n f := by
  unfold stayLow
  split <;> rfl

/-- The note is the one effect of a radio command that does not apply in the cell's state. -/
theorem cellCommand_conflicts (h : s.accepts op iss = true) (hop : isPowerOp op = false) (hn : n < 384)
    (hb : body (s.begun op iss) = noteCellStatus n (refuse stConflict (s.begun op iss))) :
    (.next (queueCommand op iss body s) : Host.Outcome State Fault Refusal) =
      .next (complete iss op (.of stConflict) ((takeStarted iss s).modCell n (fun x => { x with lastStatus := 1 }))) := by
  have hbegun : s.begun op iss = returnToRun (takeStarted iss s) := by
    unfold State.begun
    rw [hop]
    rfl
  rw [refuse, noteCellStatus_reply hn] at hb
  rw [queueCommand_accepts h, hb]
  refine congrArg (fun t => Host.Outcome.next (complete iss op (.of stConflict) t)) ?_
  rw [hbegun]
  exact (stayLow_modCell _ _ n _).trans (by rw [stayLow_returnToRun]; rfl)

/-- A radio command that is carried out answers ST_OK, changes its cell, notes the status there, and changes no other cell. -/
theorem cellCommand_changes {f : RadioCell → RadioCell} (h : s.accepts op iss = true) (hn : n < 384)
    (hcells : w.radio.cells = (s.begun op iss).radio.cells) (hspires : w.spires = (s.begun op iss).spires)
    (hb : body (s.begun op iss) = noteCellStatus n (w.modCell n f, some (.of stOk))) :
    ∃ v, (.next (queueCommand op iss body s) : Host.Outcome State Fault Refusal) = .next (complete iss op (.of stOk) v) ∧
      ((∀ m, m ≠ n → v.cell m = (s.begun op iss).cell m) ∧ v.spires = (s.begun op iss).spires) ∧
      v.cell n = { f ((s.begun op iss).cell n) with lastStatus := 0 } := by
  rw [noteCellStatus_reply hn] at hb
  refine ⟨_, congrArg _ (queueCommand_done h hb rfl), ⟨fun m hm => ?_, hspires⟩, ?_⟩
  · rw [cell_modCell_ne _ _ hm, cell_modCell_ne _ _ hm, cell_of_cells hcells]
  · rw [cell_modCell_same, cell_modCell_same, cell_of_cells hcells]
    rfl

end

/-! ### The radio commands' own bodies (R334 to R337) -/

section
variable {u : State} {n at_ a : Nat} {block : BitVec 256}

theorem not_cellMax_le (hn : n < 384) : ¬ cellMax ≤ n := Nat.not_le.mpr hn

/-- CELL_CONFIG stores a configuration block in a cell. -/
def RadioCell.configure (block : BitVec 256) (x : RadioCell) : RadioCell :=
  let c : RadioCell := { RadioCell.reset with block := block }
  { x with
    state := .configured, block := block, group := BitVec.ofNat 4 (c.cfg 1 3 0), pci := BitVec.ofNat 10 (c.cfg 0 25 16)
    target := BitVec.ofNat 8 (c.cfg 3 7 0), failCause := 0 }

/-- CELL_CLEAR empties a cell and keeps its counts. -/
def RadioCell.clear (x : RadioCell) : RadioCell :=
  { RadioCell.reset with
    slotsLost := x.slotsLost, reqMissing := x.reqMissing, ulLate := x.ulLate, freezes := x.freezes
    saturations := x.saturations }

theorem cellConfigBody_configures {d : CellSlot} (hcell : field block.toNat 8 0 = n) (hn : n < 384)
    (hblock : u.blockOk n { RadioCell.reset with block := block } = true) (hslot : u.cellSlot n = some d)
    (hshape : u.shapeOk { RadioCell.reset with block := block } d = true)
    (hstate : (u.cell n).state = .empty ∨ (u.cell n).state = .configured)
    (hrings : ∀ t ∈ ({ RadioCell.reset with block := block } : RadioCell).ringTiles,
      (u.tile t).inHbm = true ∧ (u.tile t).pin ≠ 0) :
    cellConfigBody block u = noteCellStatus n (u.modCell n (RadioCell.configure block), some (.of stOk)) := by
  have hloose : ({ RadioCell.reset with block := block } : RadioCell).ringTiles.any
      (fun t => !(u.tile t).inHbm || decide ((u.tile t).pin = 0)) = false := by
    simpa [List.any_eq_false] using hrings
  unfold cellConfigBody
  dsimp only
  rw [hcell, decide_eq_false (not_cellMax_le hn), hblock, hslot, if_neg (by simp [hshape]), hloose,
    if_neg (by rcases hstate with h | h <;> simp [h])]
  rfl

/-- A legal block for a cell without a cell slot is refused (R336). -/
theorem cellConfigBody_noSlot (hcell : field block.toNat 8 0 = n) (hn : n < 384)
    (hblock : u.blockOk n { RadioCell.reset with block := block } = true) (hslot : u.cellSlot n = none) :
    cellConfigBody block u = noteCellStatus n (refuse stConflict u) := by
  unfold cellConfigBody
  dsimp only
  rw [hcell, decide_eq_false (not_cellMax_le hn), hblock, hslot, if_neg (by simp), if_pos (by simp)]

theorem cellStartBody_starts (hn : n < 384) (hslot : (u.groupOf n).startsAt at_ = some a)
    (hlead : u.now + nsUnits ((u.groupOf n).reqLead.toNat * 1000 + 1000000) ≤ at_) (hstate : (u.cell n).state = .configured)
    (hready : u.clk.chipState = .ready) (hlocked : u.time.servo = 3) (hmode : u.clk.mode = false)
    (hstaged : u.clk.modeStaged = false) (hcarried : (u.cellSlot n).isSome = true) (hperiods : u.oddPeriods = false) :
    cellStartBody n at_ u = noteCellStatus n ((touchDomains [23, 24] u).modCell n (fun x => { x with
      state := .starting, startAt := at_, stopAt := none, nextRead := a, nextUl := a, endSlot := none }), some (.of stOk)) := by
  have hnone : (u.cellSlot n).isNone = false := by rw [← Option.not_isSome, hcarried]; rfl
  unfold cellStartBody
  dsimp only
  rw [hslot]
  dsimp only
  rw [if_neg (by simpa [not_cellMax_le hn] using hlead), if_neg (by simp [hstate, hready, hlocked, hmode, hstaged, hnone, hperiods])]

/-- CELL_START of a cell that is not CONFIGURED is refused. -/
theorem cellStartBody_conflicts (hn : n < 384) (hslot : (u.groupOf n).startsAt at_ = some a)
    (hlead : u.now + nsUnits ((u.groupOf n).reqLead.toNat * 1000 + 1000000) ≤ at_) (hstate : (u.cell n).state ≠ .configured) :
    cellStartBody n at_ u = noteCellStatus n (refuse stConflict u) := by
  unfold cellStartBody
  dsimp only
  rw [hslot]
  dsimp only
  rw [if_neg (by simpa [not_cellMax_le hn] using hlead), if_pos (by simp [hstate])]

theorem cellStopBody_starting (hn : n < 384) (hstate : (u.cell n).state = .starting) :
    cellStopBody n at_ u = noteCellStatus n (u.modCell n (fun x => { x with state := .configured }), some (.of stOk)) := by
  unfold cellStopBody
  dsimp only
  rw [if_neg (not_cellMax_le hn), if_pos hstate]

theorem cellStopBody_active (hn : n < 384) (hstate : (u.cell n).state = .active) (hslot : (u.groupOf n).startsAt at_ = some a)
    (hlead : u.now + nsUnits 1000000 ≤ at_) :
    cellStopBody n at_ u =
      noteCellStatus n (u.modCell n (fun x => { x with stopAt := some at_, endSlot := some a }), some (.of stOk)) := by
  unfold cellStopBody
  dsimp only
  rw [if_neg (not_cellMax_le hn), if_neg (by simp [hstate]), if_pos hstate, hslot]
  dsimp only
  rw [if_neg (by omega)]

/-- CELL_STOP of a cell that is neither STARTING nor ACTIVE is refused. -/
theorem cellStopBody_conflicts (hn : n < 384) (hstarting : (u.cell n).state ≠ .starting) (hactive : (u.cell n).state ≠ .active) :
    cellStopBody n at_ u = noteCellStatus n (refuse stConflict u) := by
  unfold cellStopBody
  dsimp only
  rw [if_neg (not_cellMax_le hn), if_neg hstarting, if_neg hactive]

theorem cellClearBody_clears (hn : n < 384) (hstate : (u.cell n).state = .configured ∨ (u.cell n).state = .failed) :
    cellClearBody n u = noteCellStatus n (u.modCell n RadioCell.clear, some (.of stOk)) := by
  unfold cellClearBody
  dsimp only
  rw [if_neg (not_cellMax_le hn), if_pos (by simpa using hstate)]
  rfl

/-- CELL_CLEAR of a cell that is neither CONFIGURED nor FAILED is refused. -/
theorem cellClearBody_conflicts (hn : n < 384) (hconfigured : (u.cell n).state ≠ .configured) (hfailed : (u.cell n).state ≠ .failed) :
    cellClearBody n u = noteCellStatus n (refuse stConflict u) := by
  unfold cellClearBody
  dsimp only
  rw [if_neg (not_cellMax_le hn), if_neg (by simp [hconfigured, hfailed])]

end

/-! ### The two times of a cell (R337, R339) -/

section
variable {s : State} {n : Nat}

theorem cellStartTime_due (hstate : (s.cell n).state = .starting) (hdue : (s.cell n).startAt ≤ s.now) :
    cellStartTime n s = s.modCell n (fun x =>
      if (s.cellSlot n).isSome = true then { x with
        state := .active, streams := Tab.empty, soft := [], seqTx := Tab.empty, seqRx := Tab.empty, txPrb := Tab.empty }
      else { x with state := .failed, failCause := 4 }) := by
  unfold cellStartTime
  dsimp only
  rw [if_pos (by simp [hstate, hdue])]
  cases s.cellSlot n <;> rfl

theorem cellStopTime_due {t : Nat} (hstate : (s.cell n).state = .active) (hstop : (s.cell n).stopAt = some t) (hdue : t ≤ s.now) :
    cellStopTime n s = s.modCell n (fun x => { x with state := .stopping }) := by
  unfold cellStopTime
  rw [hstate, hstop]
  exact if_pos hdue

end

/-- Settles O29: the body of each command, once it applies or does not, and what the note of its status adds. -/
theorem radioCellsFollowTheirCommands : Obligations.RadioCellsFollowTheirCommands := by
  unfold Obligations.RadioCellsFollowTheirCommands
  intro s iss n hn rest
  refine ⟨?config, ?start, ?stop, ?clear, ?times⟩
  case config =>
    intro block hcell haccepts u c
    refine ⟨fun d hblock hslot hshape hstate hrings => ?_, fun hblock hslot => ?_⟩
    · exact cellCommand_changes haccepts hn rfl rfl (cellConfigBody_configures hcell hn hblock hslot hshape hstate hrings)
    · exact cellCommand_conflicts haccepts rfl hn (cellConfigBody_noSlot hcell hn hblock hslot)
  case start =>
    intro at_ haccepts u g a hslot hlead
    refine ⟨fun hstate hready hlocked hmode hstaged hcarried hperiods => ?_, fun hstate => ?_⟩
    · obtain ⟨p, hwoken⟩ := touchDomains_shape [23, 24] u
      exact cellCommand_changes haccepts hn (by rw [hwoken]) (by rw [hwoken])
        (cellStartBody_starts hn hslot hlead hstate hready hlocked hmode hstaged hcarried hperiods)
    · exact cellCommand_conflicts haccepts rfl hn (cellStartBody_conflicts hn hslot hlead hstate)
  case stop =>
    intro at_ haccepts u
    refine ⟨fun hstate => ?_, fun a hstate hslot hlead => ?_, fun hstarting hactive => ?_⟩
    · exact cellCommand_changes haccepts hn rfl rfl (cellStopBody_starting hn hstate)
    · exact cellCommand_changes haccepts hn rfl rfl (cellStopBody_active hn hstate hslot hlead)
    · exact cellCommand_conflicts haccepts rfl hn (cellStopBody_conflicts hn hstarting hactive)
  case clear =>
    intro haccepts u
    refine ⟨fun hstate => ?_, fun hconfigured hfailed => ?_⟩
    · exact cellCommand_changes haccepts hn rfl rfl (cellClearBody_clears hn hstate)
    · exact cellCommand_conflicts haccepts rfl hn (cellClearBody_conflicts hn hconfigured hfailed)
  case times =>
    rintro k rfl
    exact ⟨fun hstate hdue => congrArg _ (cellStartTime_due hstate hdue),
      fun t hstate hstop hdue => congrArg _ (cellStopTime_due hstate hstop hdue)⟩

end Sys2Proof.Machine

namespace Sys2Proof.Machine
open Sys2Proof

/-! ### Downlink records (R315, R316, R338) -/

section
variable {s : State} {k : Nat}

/-- The record that the ring holds for the next slot of a cell is one for that slot: its number, its mark and a length that fits. -/
def State.dlRecordGood (s : State) (k : Nat) : Bool :=
  let c := s.cell k
  let h := leValue (s.tileRead (c.recordTile c.dlRing c.nextRead) 0 64)
  decide (field h 31 0 = c.nextRead % 2 ^ 32 ∧ field h 71 64 = 0xA5 ∧ field h 63 32 ≤ c.recordRoom)

/-- A poisoned word lies in what is read of that record. -/
def State.dlRecordPoisoned (s : State) (k : Nat) : Bool :=
  let c := s.cell k
  let t := c.recordTile c.dlRing c.nextRead
  s.tilePoisoned t 0 64 || (s.dlRecordGood k && s.runPoisoned t 64 5 (field (leValue (s.tileRead t 0 64)) 63 32))

/-- DL_RECORD_READ is due: a live cell serves its next slot, which starts within REQ_LEAD. -/
structure DlRecordDue (s : State) (k : Nat) : Prop where
  live : (s.cell k).live = true
  serves : (s.cell k).serves (s.cell k).nextRead = true
  lead : (s.groupOf k).slotStart (s.cell k).nextRead ≤ s.nowExact + nsExact ((s.groupOf k).reqLead.toNat * 1000)

/-- What a due DL_RECORD_READ does, by the record that it finds. -/
theorem dlRecordRead_due (h : DlRecordDue s k) : dlRecordRead k s =
    let a := (s.cell k).nextRead
    let s1 := s.modCell k (fun x => { x with nextRead := a + 1 })
    if s.dlRecordPoisoned k = true then
      (consumePoison 1 s1).modCell k (fun x => { x with slotsLost := satInc x.slotsLost, lostSlots := x.lostSlots ++ [a] })
    else if s.dlRecordGood k = true then s1
    else s1.modCell k (fun x => { x with reqMissing := satInc x.reqMissing, emptySlots := x.emptySlots ++ [a] }) := by
  obtain ⟨hlive, hserves, hlead⟩ := h
  exact if_pos (by rw [hlive, hserves, decide_eq_true hlead]; rfl)

theorem dlRecordRead_clean (h : DlRecordDue s k) (hbad : s.dlRecordPoisoned k = false) : dlRecordRead k s =
    let a := (s.cell k).nextRead
    let s1 := s.modCell k (fun x => { x with nextRead := a + 1 })
    if s.dlRecordGood k = true then s1
    else s1.modCell k (fun x => { x with reqMissing := satInc x.reqMissing, emptySlots := x.emptySlots ++ [a] }) := by
  rw [dlRecordRead_due h]
  exact if_neg (by rw [hbad]; decide)

theorem dlRecordRead_poisoned (h : DlRecordDue s k) (hbad : s.dlRecordPoisoned k = true) : dlRecordRead k s =
    let a := (s.cell k).nextRead
    (consumePoison 1 (s.modCell k (fun x => { x with nextRead := a + 1 }))).modCell k
      (fun x => { x with slotsLost := satInc x.slotsLost, lostSlots := x.lostSlots ++ [a] }) := by
  rw [dlRecordRead_due h]
  exact if_pos hbad

end

/-! ### Uplink records (R306, R317) -/

section
variable {s : State} {k : Nat}

/-- Writing into a run of tiles changes the stacks alone. -/
theorem runWrite_shape (first o fuel : Nat) (l : List Byte) (s : State) : ∃ x, runWrite first o fuel l s = { s with hbm := x } := by
  induction fuel generalizing o l s with
  | zero => exact ⟨s.hbm, rfl⟩
  | succ fuel ih =>
    unfold runWrite
    split
    · exact ⟨s.hbm, rfl⟩
    · dsimp only
      split
      · obtain ⟨x, hx⟩ := ih _ _ (s.modStack _ _)
        exact ⟨x, hx⟩
      · exact ih _ _ s

/-- The PRBs that did not come are zero in the radio buffers, and nothing else changes. -/
theorem foldl_zeroPrb (n a : Nat) (l : List (Nat × Nat × Nat)) (s : State) : l.foldl (zeroPrb n a) s =
    s.modRadio (fun r => { r with buf := l.foldl (fun b x => b.clearRange (sampleAt n x.1 a x.2.1 x.2.2) 48) r.buf }) := by
  induction l generalizing s with
  | nil => rfl
  | cons x l ih => exact ih _

/-- The uplink record of slot `a` of a cell has been written, and `late` of its PRBs did not come. -/
def RadioCell.slotReported (a late : Nat) (done : Bool) (x : RadioCell) : RadioCell :=
  { x with
    nextUl := a + 1, ulLate := satAdd x.ulLate late
    lostSlots := x.lostSlots.filter (· != a), emptySlots := x.emptySlots.filter (· != a)
    prbs := x.prbs.filter (fun p => a < p / (128 * 14 * 512))
    state := if done then .configured else x.state }

/-- A due UL_RECORD_WRITE changes the stacks, the radio buffers and the cell. -/
theorem ulRecordWrite_due {expected : List UlRange} {messages : List Byte}
    (hstate : (s.cell k).state = .active ∨ (s.cell k).state = .stopping) (hserves : (s.cell k).serves (s.cell k).nextUl = true)
    (hdue : (s.groupOf k).slotStart (s.cell k).nextUl ≤ s.nowExact) :
    let c := s.cell k
    let a := c.nextUl
    ∃ x, ulRecordWrite k expected messages s =
      ({ (c.missing a expected).foldl (zeroPrb k a) s with hbm := x } : State).modCell k
        (RadioCell.slotReported a (c.missing a expected).length (decide (c.state = .stopping) && !c.serves (a + 1))) := by
  intro c a
  let record := c.recordTile c.ulRing a
  let status := if c.lostSlots.contains a then stFault else stOk
  let report := c.ulMessages (s.groupOf k) a messages
  obtain ⟨x, hx⟩ := runWrite_shape record 64 5 report ((c.missing a expected).foldl (zeroPrb k a) s)
  obtain ⟨y, hy⟩ := runWrite_shape record 0 1 ((s.groupOf k).header a report.length status)
    { (c.missing a expected).foldl (zeroPrb k a) s with hbm := x }
  refine ⟨y, (if_pos ?_).trans ?_⟩
  · rcases hstate with h | h <;> simp [h, hserves, hdue]
  · rw [hx, hy]
    rfl

end

/-! ### Power estimates (R320) -/

/-- SYMBOL_POWER_ESTIMATE of a complete symbol of a stream that no detection holds. -/
theorem powerEstimate_free {s : State} {k i m sum n : Nat} {rest : List (Nat × Nat × Nat)}
    (hsums : ((s.cell k).streams.get StreamGain.reset i).sums = (m, sum, n) :: rest)
    (hfree : ((s.cell k).streams.get StreamGain.reset i).frozen = none)
    (hcomplete : (s.groupOf k).symbolStart (m / 14) (m % 14) + nsExact ((s.groupOf k).ulLatest.toNat * 100) ≤ s.nowExact) :
    let st := (s.cell k).streams.get StreamGain.reset i
    let g := nextGain st.g.toNat (gainTarget (s.cell k).target.toNat) sum n
    powerEstimate k i s = s.modCell k (fun x => { x with
      streams := x.streams.set StreamGain.reset i { st with
        sums := rest, g := BitVec.ofNat 6 g, hist := ((m + 2, g) :: st.hist).take 4 } }) := by
  unfold powerEstimate
  dsimp only
  rw [hsums]
  dsimp only
  rw [if_neg (Nat.not_lt.mpr hcomplete), hfree]
  rfl

/-! ### Engines (R323 to R328) -/

section
variable {s : State} {entry r : Nat} {e : Engine}

/-- The work of an entry that its engine carries out: it fits the entry, and the unit is in service. -/
def State.fittingWork (s : State) (e : Engine) (unit len : Nat) (work : Option EngineWork) : Option EngineWork :=
  work.filter (fun x => decide (x.engine = e) && x.ok && decide (x.occupancy len ≤ len) && s.radio.serves e unit)

/-- The run of an entry: with work for its occupancy, without to the entry's end. -/
def State.entryRun (s : State) (e : Engine) (r entry : Nat) (fits : Option EngineWork) : EngineRun :=
  ⟨e, field r 59 55, entry, fits, s.bclk + (match fits with
    | some y => y.occupancy (field r 35 20)
    | none => field r 54 36 + field r 35 20 - s.clock.plan / 2)⟩

theorem engineEntryStart_due {w : Option EngineWork} (hentry : s.enginePlan[entry]? = some r)
    (hengine : engineOf (field r 63 60) = some e) (hplan : s.hasPlan = true) (hstart : field r 54 36 ≤ s.clock.plan / 2)
    (hend : s.clock.plan / 2 < field r 54 36 + field r 35 20) (hruns : s.radio.runs = []) :
    let fits := s.fittingWork e (field r 59 55) (field r 35 20) w
    engineEntryStart entry w s = s.modRadio (fun x => { x with
      runs := [s.entryRun e r entry fits]
      idleEntries := if fits.isSome then x.idleEntries else satInc x.idleEntries }) := by
  unfold engineEntryStart
  dsimp only
  rw [hentry]
  dsimp only
  rw [hengine]
  dsimp only
  rw [State.modRadio_radio, hruns, if_neg (by simp [hplan, hstart, hend])]
  simp only [State.modRadio, hruns]
  rfl

end

section
variable {s : State} {r : EngineRun} {w : EngineWork} {d : EngineData}

/-- No entry of the engine plan runs any more. -/
def State.runsOver (s : State) : State := s.modRadio (fun x => { x with runs := [] })

/-- The one run of the engine plan is over with its descriptor's result. -/
theorem engineDone_onlyRun (hruns : s.radio.runs = [r]) (hwork : r.work = some w) (hover : r.until_ ≤ s.bclk)
    (htakes : w.takes d = true) : engineDone r.entry d s = engineEvents w (engineResult r.entry d s.runsOver) := by
  have herase : s.modRadio (fun x => { x with runs := x.runs.erase r }) = s.runsOver := by
    simp [State.modRadio, State.runsOver, hruns]
  have hfind : s.radio.runs.find? (fun x => x.entry == r.entry && decide (x.until_ ≤ s.bclk) && x.work.any (fun w => w.takes d))
      = some r := by
    simp [hruns, hwork, hover, htakes]
  unfold engineDone
  rw [hfind]
  dsimp only
  rw [hwork, herase]

/-- A hold of a gain changes the radio partition alone, and of it the cells. -/
theorem freezeGain_shape (cell stream last : Nat) (prach : Bool) (s : State) :
    ∃ x, freezeGain cell stream last prach s = { s with radio := { s.radio with cells := x } } := by
  unfold freezeGain
  split
  · exact ⟨s.radio.cells, rfl⟩
  · exact ⟨_, rfl⟩

theorem freezeGain_cell_other (cell stream last : Nat) (prach : Bool) (s : State) {m : Nat} (h : m ≠ cell) :
    (freezeGain cell stream last prach s).cell m = s.cell m := by
  unfold freezeGain
  split
  · rfl
  · exact cell_modCell_ne s _ h

/-- A PRACH detection on a data stream holds nothing. -/
theorem freezeGain_dataStream {cell stream last : Nat} (h : stream < 64) : freezeGain cell stream last true s = s :=
  if_pos (by simpa using h)

theorem freezeGain_prach_cell {cell stream last : Nat} (h : 64 ≤ stream) : (freezeGain cell stream last true s).cell cell =
    { s.cell cell with
      freezes := (s.cell cell).freezes + 1
      streams := (s.cell cell).streams.modify StreamGain.reset stream
        (fun y => { y with frozen := some (s.symbolNow cell, last) }) } := by
  unfold freezeGain
  rw [if_neg (by simpa using h)]
  exact cell_modCell_same s cell _

end

/-! ### Faults (R338) -/

/-- An engine unit in service goes out; while no live cell uses the engines, nothing else changes. -/
theorem radioEvent_engineOut {s : State} {e : Engine} {u : Nat} (hserves : s.radio.serves e u = true)
    (hcells : s.cellsUsing .engine = []) : radioEvent (.engineOut e u) s = s.modRadio (fun r => r.retire e u) := by
  have hretired : (s.modRadio (fun r => r.retire e u)).cellsUsing .engine = [] := by
    refine Eq.trans ?_ hcells
    cases e <;> rfl
  refine (if_pos hserves).trans ?_
  unfold radioPartFault
  dsimp only
  rw [hretired]
  rfl

/-- Settles O30: each event that is due is one change of its cell, the engine runs or the radio buffers. -/
theorem radioRecordsEnginesAndFaults : Obligations.RadioRecordsEnginesAndFaults := by
  unfold Obligations.RadioRecordsEnginesAndFaults
  refine ⟨?downlink, ?uplink, ?power, ?entryStart, ?bytes, ?prach, ?faults⟩
  case downlink =>
    intro s k c a t h good bad hlive hserves hlead
    have hdue : DlRecordDue s k := ⟨hlive, hserves, hlead⟩
    refine ⟨fun hclean => congrArg Host.Outcome.next (dlRecordRead_clean hdue hclean), fun hpoisoned => ?_⟩
    refine ⟨_, congrArg Host.Outcome.next (dlRecordRead_poisoned hdue hpoisoned), fun m hm => ?_, ?_⟩
    · rw [cell_modCell_ne _ _ hm, cell_consumePoison, cell_modCell_ne _ _ hm]
    · rw [cell_modCell_same, cell_consumePoison, cell_modCell_same]
  case uplink =>
    intro s k expected l c a hstate hserves hdue
    obtain ⟨x, hwrite⟩ := ulRecordWrite_due (expected := expected) (messages := l) hstate hserves hdue
    have hzeroed := foldl_zeroPrb k a (c.missing a expected) s
    rw [hzeroed] at hwrite
    refine ⟨_, congrArg Host.Outcome.next hwrite, fun m hm => cell_modCell_ne _ _ hm, rfl, rfl, ?_⟩
    rw [cell_modCell_same]
    have hlast : ((decide (c.state = .stopping) && !c.serves (a + 1)) = true) = (c.state = .stopping ∧ c.serves (a + 1) = false) := by
      simp
    simp only [RadioCell.slotReported, ← hlast]
    rfl
  case power =>
    intro s k i m sum n rest c st g hsums hfree hcomplete
    exact congrArg Host.Outcome.next (powerEstimate_free hsums hfree hcomplete)
  case entryStart =>
    intro s entry r w e start len unit p fits hentry hengine hplan hstart hend hruns
    exact congrArg Host.Outcome.next (engineEntryStart_due hentry hengine hplan hstart hend hruns)
  case bytes =>
    intro s r k out data hruns hwork hover
    exact ⟨_, congrArg Host.Outcome.next (engineDone_onlyRun hruns hwork hover rfl), rfl, rfl⟩
  case prach =>
    intro s r n i last thresh noise peaks hruns hwork hover hpeaks found
    have hdone := engineDone_onlyRun (d := .prach n i last thresh noise peaks) hruns hwork hover (decide_eq_true hpeaks)
    let reported := engineReport r.entry (.prach n i found) s.runsOver
    have hreport : reported.radio.reports.get none r.entry = some (.prach n i found) := Tab.get_set_same _ _ _ _
    by_cases hfound : found = []
    · have hresult : engineDone r.entry (.prach n i last thresh noise peaks) s = reported :=
        hdone.trans (if_pos (List.isEmpty_iff.mpr hfound))
      exact ⟨_, congrArg Host.Outcome.next hresult, rfl, hreport, fun _ _ => rfl, fun _ => rfl, fun h => absurd hfound h⟩
    · have hresult : engineDone r.entry (.prach n i last thresh noise peaks) s = freezeGain n i last true reported :=
        hdone.trans (if_neg (fun h => hfound (List.isEmpty_iff.mp h)))
      obtain ⟨x, hfrozen⟩ := freezeGain_shape n i last true reported
      refine ⟨_, congrArg Host.Outcome.next hresult, ?_, ?_, fun m hm => freezeGain_cell_other n i last true reported hm, fun h => ?_,
        fun _ h => freezeGain_prach_cell (s := reported) h⟩
      · rw [hfrozen]; rfl
      · rw [hfrozen]; exact hreport
      · rw [freezeGain_dataStream (h.resolve_left hfound)]; rfl
  case faults =>
    intro s u
    exact ⟨fun e hserves hcells => congrArg Host.Outcome.next (radioEvent_engineOut hserves hcells), rfl, fun hup => congrArg Host.Outcome.next (if_pos hup)⟩

end Sys2Proof.Machine

namespace Sys2Proof.Machine
open Sys2Proof

/-! ### Lanes: what a command changes (R355, R356) -/

section
variable {s t u : State} {n : Nat} {L : Lane}

/-- Lane `n` and nothing else differs. -/
def OnlyLane (n : Nat) (s t : State) : Prop := LanesScope s t ∧ ∀ m, m ≠ n → t.lane m = s.lane m

theorem onlyLane_modLane (n : Nat) (f : Lane → Lane) (s : State) : OnlyLane n s (s.modLane n f) :=
  ⟨.modLane s n f, fun _ hm => lane_modLane_ne s f hm⟩

theorem onlyLane_modLaneRegs (n : Nat) (f : LaneRegs → LaneRegs) (s : State) : OnlyLane n s (s.modLaneRegs n f) :=
  onlyLane_modLane n _ s

theorem OnlyLane.trans (h : OnlyLane n s t) (g : OnlyLane n t u) : OnlyLane n s u := by
  obtain ⟨hscope, hothers⟩ := h
  obtain ⟨gscope, gothers⟩ := g
  exact ⟨hscope.trans gscope, fun m hm => (gothers m hm).trans (hothers m hm)⟩

/-- Lane `n` goes out of service and stands as `L`: its best-effort queues are empty, and the other lanes are as they were. -/
def GoesOut (n : Nat) (L : Lane) (s t : State) : Prop :=
  LaneScope s t ∧ (∀ m, m ≠ n → t.lane m = s.lane m) ∧ (∀ q, q < 8 → (t.beQueue n q).cells = []) ∧ t.lane n = L

/-- A change of the lane's registers once it is out. -/
theorem GoesOut.modLaneRegs (h : GoesOut n L s t) (f : LaneRegs → LaneRegs) :
    GoesOut n { L with regs := f L.regs } s (t.modLaneRegs n f) := by
  obtain ⟨hscope, hothers, hempty, hlane⟩ := h
  refine ⟨hscope.trans (.modLaneRegs t n f), fun m hm => ?_, hempty, ?_⟩
  · rw [lane_modLaneRegs_ne _ _ hm, hothers m hm]
  · rw [lane_modLaneRegs, hlane]

/-- A change of the lane before it goes out. -/
theorem GoesOut.after (h : GoesOut n L u t) (hbefore : OnlyLane n s u) : GoesOut n L s t := by
  obtain ⟨hscope, hothers, hempty, hlane⟩ := h
  obtain ⟨uscope, uothers⟩ := hbefore
  exact ⟨uscope.lane.trans hscope, fun m hm => (hothers m hm).trans (uothers m hm), hempty, hlane⟩

/-- The held cells that lane `n` is to forward. -/
def State.heldOn (s : State) (n : Nat) : List HeldCell := s.fab.held.filter (fun h => s.heldFor h == some n)

/-- No change of a lane changes which cells it is to forward. -/
theorem LanesScope.heldOn (h : LanesScope s t) (n : Nat) : t.heldOn n = s.heldOn n := by
  unfold LanesScope at h
  rw [h]
  rfl

theorem LanesScope.clock (h : LanesScope s t) : t.clock = s.clock := by
  unfold LanesScope at h
  rw [h]

/-- A lane as it goes out at a tick, with `gone` held cells lost. -/
def Lane.out (x : LaneState) (cause : BitVec 4) (tick gone : Nat) (l : Lane) : Lane :=
  { l with
    regs := { l.regs with state := x, cause := cause, delayValid := false, txDrops := satAdd l.regs.txDrops gone }
    since := tick, badMarkers := 0, idents := 0, upSteps := 0, overBound := 0 }

/-- A lane whose LANE_n_CTRL reads with this ENABLE and STATUS. -/
def Lane.ctrl (on : Bool) (status : Byte) (l : Lane) : Lane := { l with regs := { l.regs with enable := on, status := status } }

theorem laneOut_goesOut {x : LaneState} (n c : Nat) (s : State) (hx : x ≠ .disabled) :
    GoesOut n ((s.lane n).out x (BitVec.ofNat 4 c) s.clock.tick (s.heldOn n).length) s (laneOut n x c s) := by
  have h := laneOut_spec n x c s
  simp only [hx, if_false] at h
  exact h

theorem laneOut_disabled (n c : Nat) (s : State) :
    GoesOut n ((s.lane n).out .disabled (s.lane n).regs.cause s.clock.tick (s.heldOn n).length) s (laneOut n .disabled c s) :=
  laneOut_spec n .disabled c s

/-! ### LANE_n_CTRL (R356, R379) -/

/-- ENABLE = 1 starts the bring-up of a lane that is DISABLED or FAILED. -/
theorem laneEnable_on (n : Nat) (s : State) : OnlyLane n s (laneEnable n true s) ∧
    (laneEnable n true s).lane n = (if (s.lane n).regs.state = .disabled ∨ (s.lane n).regs.state = .failed then
      ((s.lane n).ctrl true 0).train s.clock.tick else (s.lane n).ctrl true 0) := by
  have henabled : OnlyLane n s (laneStatus n stOk (s.modLaneRegs n (fun r => { r with enable := true }))) :=
    (onlyLane_modLaneRegs n _ s).trans (onlyLane_modLaneRegs n _ _)
  have hlane : (laneStatus n stOk (s.modLaneRegs n (fun r => { r with enable := true }))).lane n = (s.lane n).ctrl true 0 := by
    simp only [laneStatus, lane_modLaneRegs]
    rfl
  unfold laneEnable
  by_cases hstart : (s.lane n).regs.state = .disabled ∨ (s.lane n).regs.state = .failed
  · simp only [if_true, Bool.or_eq_true, decide_eq_true_eq, hstart]
    exact ⟨henabled.trans (onlyLane_modLane n _ _), by rw [lane_modLane, hlane]⟩
  · simp only [if_true, Bool.or_eq_true, decide_eq_true_eq, hstart, if_false]
    exact ⟨henabled, hlane⟩

theorem laneEnable_off_disabled (hstate : (s.lane n).regs.state = .disabled) :
    OnlyLane n s (laneEnable n false s) ∧ (laneEnable n false s).lane n = (s.lane n).ctrl false 0 := by
  have hwrite : laneEnable n false s = laneStatus n stOk (s.modLaneRegs n (fun r => { r with enable := false })) := by
    unfold laneEnable
    exact if_pos hstate
  rw [hwrite]
  refine ⟨(onlyLane_modLaneRegs n _ s).trans (onlyLane_modLaneRegs n _ _), ?_⟩
  simp only [laneStatus, lane_modLaneRegs]
  rfl

/-- A lane with entries of the active Figure is not disabled. -/
theorem laneEnable_off_used (hstate : (s.lane n).regs.state ≠ .disabled) (hused : s.laneUsed n = true) :
    laneEnable n false s = laneStatus n stConflict s := by
  unfold laneEnable
  dsimp only
  rw [if_neg (by decide), if_neg hstate, if_pos hused]

theorem laneEnable_off_unused (hstate : (s.lane n).regs.state ≠ .disabled) (hused : s.laneUsed n = false) :
    GoesOut n (((s.lane n).out .disabled (s.lane n).regs.cause s.clock.tick (s.heldOn n).length).ctrl false 0) s
      (laneEnable n false s) := by
  have hwrite : laneEnable n false s = laneStatus n stOk ((laneOut n .disabled 0 s).modLaneRegs n (fun r => { r with enable := false })) := by
    unfold laneEnable
    dsimp only
    rw [if_neg (by decide), if_neg hstate, if_neg (by simp [hused])]
  rw [hwrite]
  exact ((laneOut_disabled n 0 s).modLaneRegs _).modLaneRegs _

theorem laneStatus_conflict (n : Nat) (s : State) : OnlyLane n s (laneStatus n stConflict s) ∧
    (laneStatus n stConflict s).lane n = (s.lane n).ctrl (s.lane n).regs.enable 1 :=
  ⟨onlyLane_modLaneRegs n _ s, lane_modLaneRegs s n _⟩

theorem laneRetrain_carrying {mid : Nat} (hmid : mid ≤ 1) (hstate : (s.lane n).regs.state.carries = true) :
    GoesOut n (((s.lane n).out .down 5 s.clock.tick (s.heldOn n).length).ctrl (s.lane n).regs.enable 0) s (laneRetrain mid n s) := by
  unfold laneRetrain
  rw [if_neg (by omega), if_pos hstate]
  exact (laneOut_goesOut n causeRetrain s (by decide)).modLaneRegs _

theorem laneRetrain_conflict {mid : Nat} (hmid : mid ≤ 1) (hstate : (s.lane n).regs.state.carries = false) :
    laneRetrain mid n s = laneStatus n stConflict s := by
  unfold laneRetrain
  rw [if_neg (by omega), if_neg (by simp [hstate])]

/-- RETRAIN acts after ENABLE: the lane that goes out reads as enabled. -/
theorem laneRetrain_enabled {mid : Nat} (hmid : mid ≤ 1) (hstate : (s.lane n).regs.state.carries = true) :
    GoesOut n (((s.lane n).out .down 5 s.clock.tick (s.heldOn n).length).ctrl true 0) s
      (laneRetrain mid n (laneEnable n true s)) := by
  obtain ⟨honly, hlane⟩ := laneEnable_on n s
  have hup : ¬ ((s.lane n).regs.state = .disabled ∨ (s.lane n).regs.state = .failed) := by
    rintro (h | h) <;> rw [h] at hstate <;> exact absurd hstate (by decide)
  rw [if_neg hup] at hlane
  have hout := (laneRetrain_carrying (s := laneEnable n true s) (n := n) hmid (by rw [hlane]; exact hstate)).after honly
  obtain ⟨hscope, -⟩ := honly
  rw [hlane, hscope.clock, hscope.heldOn] at hout
  exact hout

theorem laneCtrlWrite_taken {mid : Nat} (v : Word) (hmid : mid ≤ 1) : laneCtrlWrite mid n v s =
    if bitW v 1 = true then laneRetrain mid n (laneEnable n (bitW v 0) s) else laneEnable n (bitW v 0) s :=
  if_neg (by omega)

/-- Only MID 0 and MID 1 reach a register of BAR0. -/
theorem bar0Row_other {mid off : Nat} {v : Word} {f : State → State} (hmid : 1 < mid) : bar0Row mid off v f s = s :=
  if_neg (by simp [hmid])

/-! ### Bring-up (R355, Table 10.7) -/

theorem laneBringupTimeout_training (hstate : (s.lane n).regs.state = .training) (hlate : (s.lane n).since + trainMax < s.clock.tick) :
    laneBringupTimeout n s = laneOut n .down causeTrain s := by
  unfold laneBringupTimeout
  dsimp only
  rw [hstate]
  exact if_pos hlate

theorem laneBringupTimeout_aligning (hstate : (s.lane n).regs.state = .aligning) (hlate : (s.lane n).since + alignMax < s.clock.tick) :
    laneBringupTimeout n s = laneOut n .down causeMarker s := by
  unfold laneBringupTimeout
  dsimp only
  rw [hstate]
  exact if_pos hlate

theorem laneBringupTimeout_verifying (hstate : (s.lane n).regs.state = .verifying) (hlate : (s.lane n).since + verifyMax < s.clock.tick)
    (hid : s.dome.chipId ≠ 0xFFFF) : laneBringupTimeout n s = laneOut n .failed causeIdentity s := by
  unfold laneBringupTimeout
  dsimp only
  rw [hstate]
  exact if_pos ⟨hlate, hid⟩

theorem laneDownExpiry_due (hstate : (s.lane n).regs.state = .down) (hrun : s.lanesRun = true)
    (hon : s.domainOn (20 + n / 32) = true) (hdue : (s.lane n).since + downTicks ≤ s.clock.tick) :
    laneDownExpiry n s = (s.modLane n (Lane.train s.clock.tick)).modLaneRegs n (fun r => { r with retrains := satInc r.retrains }) :=
  if_pos ⟨hstate, hrun, hon, hdue⟩

end

/-! ### Missed heartbeats (R374, R375) -/

section
variable {s t u : State} {n : Nat}

/-- `t` differs from `s` in the counts, the fabric, the radio partition, the reliability block, the doorbells and what is sent. -/
def FaultScope (s t : State) : Prop :=
  t = { s with
    cnt := t.cnt, host := t.host, out := t.out, fab := t.fab, radio := t.radio, rel := t.rel
    dome := { s.dome with dbStatus := t.dome.dbStatus, dbSetAt := t.dome.dbSetAt } }

theorem FaultScope.trans (h : FaultScope s t) (g : FaultScope t u) : FaultScope s u := by
  unfold FaultScope at *
  rw [g, h]

theorem countBelfry_faultScope (e : Nat) (i : Option Nat) (c : Nat) (s : State) : FaultScope s (countBelfry e i c s) := by
  obtain ⟨x, y, z, h⟩ := countBelfry_shape e i c s
  unfold FaultScope
  rw [h]

theorem modLane_faultScope (n : Nat) (f : Lane → Lane) (s : State) : FaultScope s (s.modLane n f) := rfl

theorem ringDome_faultScope (i : Nat) (s : State) : FaultScope s (ringDome i s) := rfl

/-- A record of OUTCOME 0 or 1 is not logged (R530). -/
theorem errRecord_faultScope {o : Nat} (ho : ¬ 2 ≤ o) (d i l t j x : Nat) (s : State) : FaultScope s (errRecord d o i l t j x s) := by
  unfold errRecord
  dsimp only
  rw [if_neg ho]
  split <;> rfl

theorem radioPartFault_faultScope (p : RadioPart) (s : State) : FaultScope s (radioPartFault p s) := by
  obtain ⟨x, y, z, a, b, h⟩ := radioPartFault_shape p s
  unfold FaultScope
  rw [h]

theorem countBelfry_fab (e : Nat) (i : Option Nat) (c : Nat) (s : State) : (countBelfry e i c s).fab = s.fab := by
  obtain ⟨x, y, z, h⟩ := countBelfry_shape e i c s
  rw [h]

theorem errRecord_fab (a b c d e f g : Nat) (s : State) : (errRecord a b c d e f g s).fab = s.fab := by
  obtain ⟨x, y, z, h⟩ := errRecord_shape a b c d e f g s
  rw [h]

@[simp] theorem countBelfry_lane (e : Nat) (i : Option Nat) (c : Nat) (s : State) (m : Nat) :
    (countBelfry e i c s).lane m = s.lane m :=
  lane_of_lanes (congrArg FabState.lanes (countBelfry_fab e i c s)) m

@[simp] theorem errRecord_lane (a b c d e f g : Nat) (s : State) (m : Nat) : (errRecord a b c d e f g s).lane m = s.lane m :=
  lane_of_lanes (congrArg FabState.lanes (errRecord_fab a b c d e f g s)) m

/-- The registers of a lane that has missed a heartbeat. -/
def LaneRegs.missed (r : LaneRegs) : LaneRegs :=
  { r with
    hbMisses := satInc r.hbMisses, hbGood := 0, hbMissed := r.hbMissed + 1
    state := if r.state = .up ∧ 3 ≤ satInc r.hbMisses then .suspect else r.state }

theorem countMiss_faultScope (n : Nat) (s : State) : FaultScope s (countMiss n s) := by
  unfold countMiss
  dsimp only
  have hcounted := (modLane_faultScope n (fun l => { l with regs := { l.regs with
    hbMisses := satInc l.regs.hbMisses, hbGood := 0, hbMissed := l.regs.hbMissed + 1 } }) s).trans
      (countBelfry_faultScope 0x1005 (some n) 1 _)
  split
  · refine hcounted.trans (FaultScope.trans ?_ (radioPartFault_faultScope _ _))
    exact ((modLane_faultScope n _ _).trans (errRecord_faultScope (by decide) _ _ _ _ _ _ _)).trans (ringDome_faultScope 1 _)
  · exact hcounted

theorem countMiss_lane (n : Nat) (s : State) : (countMiss n s).lane n = { s.lane n with regs := (s.lane n).regs.missed } := by
  unfold countMiss LaneRegs.missed
  dsimp only
  split <;> rename_i hthird <;> rw [countBelfry_lane, lane_modLaneRegs] at hthird <;> dsimp only at hthird
  · rw [radioPartFault_lane, lane_ringDome, errRecord_lane, lane_modLaneRegs, countBelfry_lane, lane_modLaneRegs, if_pos hthird]
  · rw [countBelfry_lane, lane_modLaneRegs, if_neg hthird]

theorem countMiss_lane_other (s : State) {m : Nat} (hm : m ≠ n) : (countMiss n s).lane m = s.lane m := by
  unfold countMiss
  dsimp only
  split
  · rw [radioPartFault_lane, lane_ringDome, errRecord_lane, lane_modLaneRegs_ne _ _ hm, countBelfry_lane, lane_modLaneRegs_ne _ _ hm]
  · rw [countBelfry_lane, lane_modLaneRegs_ne _ _ hm]

theorem heartbeatMiss_missed {m : Nat} (hactive : s.image.isSome = true) (hmissed : s.missedStep n = some m) :
    heartbeatMiss n s = countMiss n (s.modLane n (fun l => { l with hbNext := m + 1 })) := by
  unfold heartbeatMiss
  rw [if_pos hactive, hmissed]

end

/-- Settles O31: each command that is due changes its lane alone or takes it out, and a missed heartbeat is one count. -/
theorem lanesTrainAndGoOut : Obligations.LanesTrainAndGoOut := by
  unfold Obligations.LanesTrainAndGoOut
  intro s n l others same outAs
  refine ⟨?foreign, ?ctrl, ?retrain, ?trained, ?aligned, ?timeout, ?expiry, ?miss⟩
  case foreign => exact fun mid v hmid => ⟨congrArg Host.Outcome.next (bar0Row_other hmid), congrArg Host.Outcome.next (bar0Row_other hmid)⟩
  case ctrl =>
    intro mid v hmid hserves
    refine ⟨_, congrArg Host.Outcome.next ((bar0Row_serves hmid hserves).trans (laneCtrlWrite_taken v hmid)), ?_, ?_, ?_, ?_, ?_⟩
    · intro hon hkeep
      rw [hon, hkeep]
      exact laneEnable_on n s
    · intro hon hretrain hcarries
      rw [hon, hretrain]
      exact laneRetrain_enabled hmid hcarries
    · intro hoff hkeep hstate
      rw [hoff, hkeep]
      exact laneEnable_off_disabled hstate
    · intro hoff hkeep hstate hused
      rw [hoff, hkeep, laneEnable_off_used hstate hused]
      exact laneStatus_conflict n s
    · intro hoff hkeep hstate hunused
      rw [hoff, hkeep]
      exact laneEnable_off_unused hstate hunused
  case retrain =>
    intro mid hmid hserves
    refine ⟨_, congrArg Host.Outcome.next (bar0Row_serves hmid hserves), laneRetrain_carrying hmid, fun hidle => ?_⟩
    rw [laneRetrain_conflict hmid hidle]
    exact laneStatus_conflict n s
  case trained => exact fun hstate hdue => congrArg Host.Outcome.next (if_pos ⟨hstate, hdue⟩)
  case aligned => exact fun hstate hdue => congrArg Host.Outcome.next (if_pos ⟨hstate, hdue⟩)
  case timeout =>
    refine ⟨_, rfl, fun hstate hlate => ?_, fun hstate hlate => ?_, fun hstate hlate hid => ?_⟩
    · rw [laneBringupTimeout_training hstate hlate]
      exact laneOut_goesOut n causeTrain s (by decide)
    · rw [laneBringupTimeout_aligning hstate hlate]
      exact laneOut_goesOut n causeMarker s (by decide)
    · rw [laneBringupTimeout_verifying hstate hlate hid]
      exact laneOut_goesOut n causeIdentity s (by decide)
  case expiry =>
    intro hstate hrun hon hdue
    refine ⟨_, congrArg Host.Outcome.next (laneDownExpiry_due hstate hrun hon hdue),
      (onlyLane_modLane _ _ s).trans (onlyLane_modLaneRegs _ _ _), ?_⟩
    rw [lane_modLaneRegs, lane_modLane]
  case miss =>
    intro m hactive hmissed
    refine ⟨_, congrArg Host.Outcome.next (heartbeatMiss_missed hactive hmissed), fun k hk => ?_,
      (modLane_faultScope n _ s).trans (countMiss_faultScope n _), ?_⟩
    · rw [countMiss_lane_other _ hk, lane_modLane_ne _ _ hk]
    · rw [countMiss_lane, lane_modLane]
      rfl

end Sys2Proof.Machine

namespace Sys2Proof.Machine
open Sys2Proof

/-! ### STEP_FRAME_TRANSMIT: when a frame goes out (R344, R354) -/

section
variable {s : State} {n m r : Nat} {payload : StepPayload}

/-- Lane `n` has sent the frame of the Step that hall time is in. -/
def State.frameSent (s : State) (n : Nat) : State := s.modLane n (fun l => { l with txNext := stepCount s.now + 1 })

/-- The frame of lane `n` in that Step. -/
def State.frameOut (s : State) (n : Nat) (c : Option Cell) : Out :=
  .frame n (stepCount s.now % 8000) (stepCount s.now / 8000) (markerBytes n (stepCount s.now) s.markerFlags s.chipId) c

/-- A frame is due: the lanes run, and the lane has not sent the one of this Step. -/
structure FrameDue (s : State) (n : Nat) : Prop where
  run : s.lanesRun = true
  unsent : (s.lane n).txNext ≤ stepCount s.now

theorem stepFrameTransmit_early (h : s.lanesRun = false ∨ stepCount s.now < (s.lane n).txNext) :
    stepFrameTransmit n payload s = s :=
  if_pos (by simpa using h)

/-- A DISABLED or TRAINING lane sends no frame. -/
theorem stepFrameTransmit_silent (hdue : FrameDue s n) (hstate : (s.lane n).regs.state = .disabled ∨ (s.lane n).regs.state = .training) :
    stepFrameTransmit n payload s = (txStep n (stepCount s.now) payload (s.frameSent n)).state := by
  have hunsent := hdue.unsent
  unfold stepFrameTransmit
  dsimp only
  rw [hdue.run, if_neg (by simpa using hunsent), if_pos (by simpa using hstate)]
  rfl

theorem stepFrameTransmit_sends (hdue : FrameDue s n) (hdisabled : (s.lane n).regs.state ≠ .disabled)
    (htraining : (s.lane n).regs.state ≠ .training) : stepFrameTransmit n payload s =
      (txStep n (stepCount s.now) payload (s.frameSent n)).state.emit
        (s.frameOut n (txStep n (stepCount s.now) payload (s.frameSent n)).cell) := by
  have hunsent := hdue.unsent
  unfold stepFrameTransmit
  dsimp only
  rw [hdue.run, if_neg (by simpa using hunsent), if_neg (by simp [hdisabled, htraining])]
  rfl

theorem lane_emit (s : State) (o : Out) (k : Nat) : (s.emit o).lane k = s.lane k := rfl

theorem frameSent_lane (s : State) (n : Nat) : (s.frameSent n).lane n = { s.lane n with txNext := stepCount s.now + 1 } :=
  lane_modLane s n _

theorem frameSent_lane_other (s : State) {n k : Nat} (hk : k ≠ n) : (s.frameSent n).lane k = s.lane k := lane_modLane_ne s _ hk

/-- The count of frames sent leaves the registers of every lane. -/
theorem frameSent_regs (s : State) (n k : Nat) : ((s.frameSent n).lane k).regs = (s.lane k).regs := by
  by_cases hk : k = n
  · rw [hk, frameSent_lane]
  · rw [frameSent_lane_other s hk]

theorem frameSent_heartbeatBytes (s : State) (n : Nat) : (s.frameSent n).heartbeatBytes n = s.heartbeatBytes n := by
  have hbad : (s.frameSent n).lanesBad = s.lanesBad := by
    unfold State.lanesBad
    simp only [frameSent_regs]
  unfold State.heartbeatBytes
  rw [hbad, frameSent_lane]
  rfl

/-! ### What a lane sends in a Step (R354, R355, R367, R373) -/

theorem txDown_noImage (himage : s.image = none) : txDown n m s = s := by
  unfold txDown
  rw [himage, if_neg (by simp)]

/-- A lane that carries no cells sends none; a VERIFYING one of a chip without a CHIP_ID neither. -/
theorem txStep_quiet (hcarries : (s.lane n).regs.state.carries = false)
    (hident : (s.lane n).regs.state = .verifying → s.dome.chipId = 0xFFFF) : txStep n m payload s = ⟨none, txDown n m s⟩ := by
  unfold txStep
  split
  case h_1 h => rw [h] at hcarries; exact absurd hcarries (by decide)
  case h_2 h => rw [h] at hcarries; exact absurd hcarries (by decide)
  case h_3 h => exact if_pos (hident h)
  case h_4 => rfl

/-- Without an active Pavane such a lane does nothing but count its frame. -/
theorem txStep_frameSent_quiet (himage : s.image = none) (hcarries : (s.lane n).regs.state.carries = false)
    (hident : (s.lane n).regs.state = .verifying → s.dome.chipId = 0xFFFF) :
    txStep n m payload (s.frameSent n) = ⟨none, s.frameSent n⟩ := by
  have hregs := frameSent_regs s n n
  have hdown : txDown n m (s.frameSent n) = s.frameSent n := txDown_noImage himage
  rw [txStep_quiet (by rw [hregs]; exact hcarries) (by rw [hregs]; exact hident), hdown]

theorem txStep_carrying (hcarries : (s.lane n).regs.state.carries = true) : txStep n m payload s =
    ⟨(txPlan n m payload s).cell, (txPlan n m payload s).state.modLane n (fun l => { l with upSteps := l.upSteps + 1 })⟩ := by
  unfold txStep
  cases hstate : (s.lane n).regs.state
  case up | suspect => rfl
  all_goals exact absurd (hstate ▸ hcarries) (by decide)

theorem ne_of_carries {x : LaneState} (h : (s.lane n).regs.state.carries = true) (hx : x.carries = false) :
    (s.lane n).regs.state ≠ x := by
  rintro rfl
  rw [hx] at h
  exact Bool.noConfusion h

/-- An UP or SUSPECT lane sends the cell that its plan gives, and counts the Step. -/
theorem stepFrameTransmit_planned {c : Cell} {t : State} (hdue : FrameDue s n) (hcarries : (s.lane n).regs.state.carries = true)
    (hplan : txPlan n (stepCount s.now) payload (s.frameSent n) = ⟨some c, t⟩) : stepFrameTransmit n payload s =
      (t.modLane n (fun l => { l with upSteps := l.upSteps + 1 })).emit (s.frameOut n (some c)) := by
  have hcarries' : ((s.frameSent n).lane n).regs.state.carries = true := by
    rw [frameSent_regs]
    exact hcarries
  rw [stepFrameTransmit_sends hdue (ne_of_carries hcarries rfl) (ne_of_carries hcarries rfl), txStep_carrying hcarries', hplan]

/-- The IDENT cell of a Step: the lane's own, with what every cell of the Step carries. -/
def State.identOf (s : State) (m n : Nat) : Cell :=
  { identCell s.chipId n with
    figure := s.figureNow % 8, pavane := match s.image with | some p => p.id | none => 0
    period := BitVec.ofNat 32 (m / 8000), step := m % 8000 }

theorem originate_ident (s : State) (m n : Nat) : originate m noFlow (identCell s.chipId n) s = ⟨some (s.identOf m n), s⟩ := rfl

theorem txStep_verifying (hstate : (s.lane n).regs.state = .verifying) (hid : s.dome.chipId ≠ 0xFFFF) :
    txStep n m payload s = originate m noFlow (identCell s.chipId n) (txDown n m s) := by
  unfold txStep
  rw [hstate]
  exact if_neg hid

theorem txStep_frameSent_ident (himage : s.image = none) (hstate : (s.lane n).regs.state = .verifying)
    (hid : s.dome.chipId ≠ 0xFFFF) :
    txStep n m payload (s.frameSent n) = ⟨some ((s.frameSent n).identOf m n), s.frameSent n⟩ := by
  have hdown : txDown n m (s.frameSent n) = s.frameSent n := txDown_noImage himage
  rw [txStep_verifying (s := s.frameSent n) (by rw [frameSent_regs]; exact hstate) hid, hdown, originate_ident]

theorem identOf_lane (s : State) (m : Nat) (hn : n < 64) : (s.identOf m n).infoBytes 24 1 % 64 = n := by
  show (BitVec.ofNat 128 n).toNat / 2 ^ 0 % 2 ^ 8 % 64 = n
  rw [BitVec.toNat_ofNat]
  omega

/-- The plan of the period is open, nothing of an old step set goes out in Step `m` of the lane, and its entry there is `r`. -/
structure Planned (s : State) (n m r : Nat) : Prop where
  sound : s.rel.fatal = false
  opened : s.planOpen = true
  entry : s.entry n false (m % 8000) = some r
  noOld : s.oldTransit n (m % 8000) = none

/-- The heartbeat of a Step, to the lane's partner. -/
def State.heartbeatOf (s : State) (m n partner : Nat) : Cell :=
  { plainCell cellHeartbeat partner s.chipId (s.heartbeatBytes n) with
    figure := s.figureNow % 8, pavane := match s.image with | some p => p.id | none => 0
    period := BitVec.ofNat 32 (m / 8000), step := m % 8000, seq := s.fab.flowSeq.get 0 0 }

/-- A heartbeat goes out: the sequence number of its flow and the lane's HB_SEQ rise, and it is counted. -/
def heartbeatSent (n : Nat) (s : State) : State :=
  countBelfry 0x1001 (some n) 1 ((s.modFab (fun x => { x with flowSeq := x.flowSeq.set 0 0 (s.fab.flowSeq.get 0 0 + 1) })).modLane n
    (fun l => { l with hbSeq := l.hbSeq + 1 }))

theorem heartbeatSent_lane (n : Nat) (s : State) : (heartbeatSent n s).lane n = { s.lane n with hbSeq := (s.lane n).hbSeq + 1 } := by
  unfold heartbeatSent
  rw [countBelfry_lane, lane_modLane, lane_of_lanes (t := s.modFab _) (s := s) rfl]

theorem txPlan_heartbeat {p : Pavane} {f : Nat} (h : Planned s n m r) (hkind : field r 43 40 = 3) (himage : s.stepImage = some (p, f)) :
    txPlan n m payload s = ⟨some (s.heartbeatOf m n (partnerChip (p.lane n))), heartbeatSent n s⟩ := by
  unfold txPlan
  simp only [h.sound, h.opened, h.entry, h.noOld, hkind, himage, if_true, Bool.false_eq_true, if_false]
  rfl

/-- A TRANSIT entry of an active Pavane forwards the cell that its lane and Step brought. -/
theorem txPlan_transit (h : Planned s n m r) (hkind : field r 43 40 = 2) (hactive : s.image.isSome = true) :
    txPlan n m payload s = ((txTransit n m r s).scheduled n).orIdent n m := by
  unfold txPlan
  simp only [h.sound, h.opened, h.entry, h.noOld, hkind, hactive, if_true, Bool.false_eq_true, if_false, Option.getD_some]

theorem forward_sends {h : HeldCell} (hhops : h.cell.hops + 1 ≤ 15) (htype : h.cell.type ≠ cellTime) : forward n m h s =
    ⟨some { h.cell with period := BitVec.ofNat 32 (m / 8000), step := m % 8000, hops := h.cell.hops + 1 },
      s.modFab (fun f => { f with held := f.held.erase h })⟩ := by
  unfold forward
  dsimp only
  rw [if_neg (by omega), if_neg htype]

theorem scheduled_some (n : Nat) (c : Cell) (t : State) :
    (TxCell.mk (some c) t).scheduled n = ⟨some c, countBelfry 0x1001 (some n) 1 t⟩ := rfl

theorem orIdent_some (n m : Nat) (c : Cell) (t : State) : (TxCell.mk (some c) t).orIdent n m = ⟨some c, t⟩ := by
  unfold TxCell.orIdent
  exact if_neg (by simp)

/-- The held cell that is ready is sent in place of the entry, counted, and held no more (R367). -/
theorem txPlan_forwards {h : HeldCell} (hplan : Planned s n m r) (hkind : field r 43 40 = 2) (hactive : s.image.isSome = true)
    (hfound : s.fab.held.find? (fun h =>
      !h.oldSet && h.lane == field r 23 18 && h.step == field r 17 5 && decide (h.readyAt ≤ stepTime m)) = some h)
    (hhops : h.cell.hops + 1 ≤ 15) (htype : h.cell.type ≠ cellTime) : txPlan n m payload s =
      ⟨some { h.cell with period := BitVec.ofNat 32 (m / 8000), step := m % 8000, hops := h.cell.hops + 1 },
        countBelfry 0x1001 (some n) 1 (s.modFab (fun f => { f with held := f.held.erase h }))⟩ := by
  have htransit : txTransit n m r s = forward n m h s := by
    unfold txTransit
    rw [hfound]
  rw [txPlan_transit hplan hkind hactive, htransit, forward_sends hhops htype, scheduled_some, orIdent_some]

end

/-! ### STEP_FRAME_RECEIVE: the marker (R345, R348, R356, R357) -/

section
variable {s t u : State} {n : Nat} {f : FrameIn} {k : Marker}

/-- `t` differs from `s` in the counts, the host's doorbells, what is sent and the lanes at most. -/
def FrameScope (s t : State) : Prop :=
  t = { s with cnt := t.cnt, host := t.host, out := t.out, fab := { s.fab with lanes := t.fab.lanes } }

theorem FrameScope.trans (h : FrameScope s t) (g : FrameScope t u) : FrameScope s u := by
  unfold FrameScope at *
  rw [g, h]

theorem FrameScope.clock (h : FrameScope s t) : t.clock = s.clock := by
  unfold FrameScope at h
  rw [h]

theorem FrameScope.dome (h : FrameScope s t) : t.dome = s.dome := by
  unfold FrameScope at h
  rw [h]

theorem FrameScope.time (h : FrameScope s t) : t.time = s.time := by
  unfold FrameScope at h
  rw [h]

theorem countBelfry_frameScope (e : Nat) (i : Option Nat) (c : Nat) (s : State) : FrameScope s (countBelfry e i c s) := by
  obtain ⟨x, y, z, h⟩ := countBelfry_shape e i c s
  unfold FrameScope
  rw [h]

theorem modLane_frameScope (n : Nat) (g : Lane → Lane) (s : State) : FrameScope s (s.modLane n g) := rfl

/-- A lane that has taken in a frame's codewords and the Step of its marker. -/
def Lane.framed (f : FrameIn) (l : Lane) : Lane :=
  { l with
    lastStep := (l.frameStep (readMarker f.marker)).1, lastPeriod := (l.frameStep (readMarker f.marker)).2
    badMarkers := if (readMarker f.marker).ok = true then 0 else l.badMarkers
    regs := { l.regs with
      fecCorr := satAdd l.regs.fecCorr (fecCorrected f.errors), fecUncorr := satAdd l.regs.fecUncorr (fecFailed f.errors) } }

/-- Lane `n` takes in a frame's codewords and the Step of its marker. -/
def frameTaken (n : Nat) (f : FrameIn) (s : State) : State :=
  (countBelfry 0x1004 (some n) (fecCorrected f.errors) (s.modLaneRegs n (fun r => { r with
    fecCorr := satAdd r.fecCorr (fecCorrected f.errors), fecUncorr := satAdd r.fecUncorr (fecFailed f.errors) }))).modLane n
      (fun l => { l with
        lastStep := ((s.lane n).frameStep (readMarker f.marker)).1, lastPeriod := ((s.lane n).frameStep (readMarker f.marker)).2
        badMarkers := if (readMarker f.marker).ok then 0 else l.badMarkers })

theorem frameTaken_frameScope (n : Nat) (f : FrameIn) (s : State) : FrameScope s (frameTaken n f s) :=
  ((modLane_frameScope n _ s).trans (countBelfry_frameScope _ _ _ _)).trans (modLane_frameScope n _ _)

theorem frameTaken_lane (n : Nat) (f : FrameIn) (s : State) : (frameTaken n f s).lane n = (s.lane n).framed f := by
  unfold frameTaken
  rw [lane_modLane, countBelfry_lane, lane_modLaneRegs]
  rfl

/-- The cell of a frame is taken in, unless the lane has no marker lock (R354). -/
def frameCell (n step period : Nat) (f : FrameIn) (s : State) : State :=
  if (s.lane n).regs.state.listens && !((s.lane n).regs.state = .aligning) then cellIn n step period f s else s

theorem stepFrameReceive_deaf (h : s.lanesRun = false ∨ (s.lane n).regs.state.listens = false) : stepFrameReceive n f s = s :=
  if_pos (by simpa using h)

/-- A frame that a lane takes in: its codewords and its Step, then its marker, then its cell. -/
theorem stepFrameReceive_taken (hrun : s.lanesRun = true) (hlistens : (s.lane n).regs.state.listens = true) :
    stepFrameReceive n f s =
      frameCell n ((s.lane n).frameStep (readMarker f.marker)).1 ((s.lane n).frameStep (readMarker f.marker)).2 f
        (if (readMarker f.marker).ok = true then
          markerIn n (s.nowAt f.phase) (readMarker f.marker) (frameTaken n f s)
        else markerLost n (frameTaken n f s)) := by
  unfold stepFrameReceive frameTaken
  dsimp only
  generalize readMarker f.marker = k
  generalize (s.lane n).frameStep k = at_
  rw [hrun, hlistens]
  exact if_neg (by decide)

/-- A lane whose delay is not known: one of the two ends is not LOCKED. -/
def Lane.unmeasured (l : Lane) : Lane := { l with regs := { l.regs with delayValid := false }, overBound := 0 }

theorem markerIn_unlocked {at_ : Nat} (h : s.time.servo ≠ tsLocked ∨ k.locked = false) :
    markerIn n at_ k s = s.modLane n Lane.unmeasured := by
  unfold markerIn
  rw [if_neg ?unlocked]
  · rfl
  case unlocked =>
    rintro ⟨hservo, hlocked⟩
    rcases h with h | h
    · exact h hservo
    · exact absurd hlocked (by simp [h])

/-- A lane that has taken in a frame with a valid marker while one of the two ends is not LOCKED. -/
def Lane.marked (f : FrameIn) (l : Lane) : Lane :=
  { l with
    lastStep := (l.frameStep (readMarker f.marker)).1, lastPeriod := (l.frameStep (readMarker f.marker)).2
    badMarkers := 0, overBound := 0
    regs := { l.regs with
      fecCorr := satAdd l.regs.fecCorr (fecCorrected f.errors), fecUncorr := satAdd l.regs.fecUncorr (fecFailed f.errors)
      delayValid := false } }

/-- Lane `n` takes in such a frame, but for its cell. -/
def frameMarked (n : Nat) (f : FrameIn) (s : State) : State := (frameTaken n f s).modLane n Lane.unmeasured

theorem frameMarked_frameScope (n : Nat) (f : FrameIn) (s : State) : FrameScope s (frameMarked n f s) :=
  (frameTaken_frameScope n f s).trans (modLane_frameScope n _ _)

theorem frameMarked_lane (hok : (readMarker f.marker).ok = true) (s : State) (n : Nat) :
    (frameMarked n f s).lane n = (s.lane n).marked f := by
  unfold frameMarked
  rw [lane_modLane, frameTaken_lane]
  unfold Lane.framed
  rw [if_pos hok]
  rfl

theorem stepFrameReceive_unlocked (hrun : s.lanesRun = true) (hlistens : (s.lane n).regs.state.listens = true)
    (hok : (readMarker f.marker).ok = true) (hunlocked : s.time.servo ≠ tsLocked ∨ (readMarker f.marker).locked = false) :
    stepFrameReceive n f s =
      frameCell n ((s.lane n).frameStep (readMarker f.marker)).1 ((s.lane n).frameStep (readMarker f.marker)).2 f (frameMarked n f s) := by
  have hservo : (frameTaken n f s).time = s.time := (frameTaken_frameScope n f s).time
  rw [stepFrameReceive_taken hrun hlistens, if_pos hok, markerIn_unlocked (by rw [hservo]; exact hunlocked)]
  rfl

/-- The eighth invalid marker in a row takes a lane that carries cells out. -/
theorem markerLost_eighth (hbad : (s.lane n).badMarkers = 7) (hcarries : (s.lane n).regs.state.carries = true) :
    markerLost n s = laneOut n .down causeMarker (s.modLane n (fun l => { l with badMarkers := l.badMarkers + 1 })) := by
  unfold markerLost
  dsimp only
  rw [lane_modLane]
  exact if_pos ⟨Nat.le_of_eq (congrArg (· + 1) hbad).symm, hcarries⟩

/-! ### STEP_FRAME_RECEIVE: the cell (R352, R353, R355) -/

variable {step period : Nat} {c : Cell}

theorem frameCell_deaf (h : (s.lane n).regs.state.listens = false) : frameCell n step period f s = s :=
  if_neg (by simp [h])

theorem frameCell_aligning (h : (s.lane n).regs.state = .aligning) : frameCell n step period f s = s :=
  if_neg (by simp [h])

theorem frameCell_listens (hlistens : (s.lane n).regs.state.listens = true) (halign : (s.lane n).regs.state ≠ .aligning) :
    frameCell n step period f s = cellIn n step period f s :=
  if_pos (by simp [hlistens, halign])

theorem frameCell_empty (h : f.bytes = []) : frameCell n step period f s = s := by
  have hcell : cellIn n step period f s = s := if_pos (by rw [h]; rfl)
  unfold frameCell
  rw [hcell, ite_self]

/-- No cell is taken of a codeword that does not decode. -/
theorem cellIn_uncorrectable (hbytes : f.bytes ≠ []) (hfec : fecHolds f.errors f.bytes.length = false) :
    cellIn n step period f s = errRecord 8 0 n 0 0 0 0 s := by
  unfold cellIn
  rw [if_neg (by simpa using hbytes), if_pos (by simp [hfec])]

theorem cellIn_read {ok : Bool} (hbytes : f.bytes ≠ []) (hfec : fecHolds f.errors f.bytes.length = true)
    (hread : readCell f.bytes = .cell c ok) (hstep : c.step = step) (hperiod : c.period.toNat % 65536 = period) :
    cellIn n step period f s = cellChecked n step period (s.nowAt f.phase) c ok s := by
  unfold cellIn
  rw [if_neg (by simpa using hbytes), if_neg (by simp [hfec]), hread]
  exact if_neg (by simp [hstep, hperiod])

theorem cellChecked_ident {at_ : Nat} (htype : c.type = cellIdent) (hstate : (s.lane n).regs.state = .verifying) :
    cellChecked n step period at_ c true s = identIn n c s := by
  unfold cellChecked
  dsimp only
  rw [if_pos htype, hstate, if_neg (by decide), if_neg (by decide)]

/-- The chip and the lane that an IDENT cell names. -/
def Cell.names (c : Cell) : Nat × Nat := (c.src, c.infoBytes 24 1 % 64)

/-- A lane that has met its partner once more. -/
def Lane.met (who : Nat × Nat) (l : Lane) : Lane :=
  { l with
    idents := l.idents + 1
    regs := { l.regs with partnerChip := BitVec.ofNat 16 who.1, partnerLane := BitVec.ofNat 6 who.2 } }

theorem identIn_sixteenth (hstate : (s.lane n).regs.state = .verifying) (hid : s.dome.chipId ≠ 0xFFFF)
    (hpartner : c.names = s.partner n) (hcount : (s.lane n).idents = 15) : identIn n c s =
      (s.modLane n (Lane.met c.names)).modLane n (fun l =>
        { l with regs := { l.regs with state := .up }, since := s.clock.tick, upSteps := 0 }) := by
  have hsixteen : 16 ≤ ((s.modLane n (Lane.met c.names)).lane n).idents := by
    rw [lane_modLane]
    exact Nat.le_of_eq (congrArg (· + 1) hcount).symm
  unfold identIn
  dsimp only
  rw [hstate]
  exact (if_neg hid).trans ((if_neg (fun h => h hpartner)).trans (if_pos hsixteen))

/-- An IDENT cell of another chip or lane fails the lane. -/
theorem identIn_stranger (hstate : (s.lane n).regs.state = .verifying) (hid : s.dome.chipId ≠ 0xFFFF)
    (hother : c.names ≠ s.partner n) : identIn n c s = laneOut n .failed causeIdentity s := by
  unfold identIn
  dsimp only
  rw [hstate]
  exact (if_neg hid).trans (if_pos hother)

/-- After the marker that takes the lane out no cell is taken in. -/
theorem stepFrameReceive_eighth (hrun : s.lanesRun = true) (hcarries : (s.lane n).regs.state.carries = true)
    (hbad : (readMarker f.marker).ok = false) (hseven : (s.lane n).badMarkers = 7) : stepFrameReceive n f s =
      laneOut n .down causeMarker ((frameTaken n f s).modLane n (fun l => { l with badMarkers := l.badMarkers + 1 })) := by
  have hlistens : (s.lane n).regs.state.listens = true := by
    unfold LaneState.listens
    rw [hcarries]
    rfl
  have hseven' : ((frameTaken n f s).lane n).badMarkers = 7 := by
    rw [frameTaken_lane]
    exact (if_neg (by simp [hbad])).trans hseven
  have hcarries' : ((frameTaken n f s).lane n).regs.state.carries = true := by
    rw [frameTaken_lane]
    exact hcarries
  rw [stepFrameReceive_taken hrun hlistens, if_neg (by simp [hbad]), markerLost_eighth hseven' hcarries']
  obtain ⟨-, -, -, hlane⟩ := laneOut_goesOut n causeMarker
    ((frameTaken n f s).modLane n (fun l => { l with badMarkers := l.badMarkers + 1 })) (x := .down) (by decide)
  exact frameCell_deaf (by rw [hlane]; rfl)

theorem FrameScope.partner (h : FrameScope s t) (n : Nat) : t.partner n = s.partner n := by
  unfold State.partner
  rw [h.dome]

end

/-- Settles O32: a frame is what txStep makes of the lane in its state, and a received one its marker's effect and then its cell's. -/
theorem framesGoOutAndComeIn : Obligations.FramesGoOutAndComeIn := by
  unfold Obligations.FramesGoOutAndComeIn
  refine ⟨fun s n payload => ?transmit, fun s n f => ?receive⟩
  case transmit =>
    intro m l live frame sent
    have hlane : sent.lane n = { l with txNext := m + 1 } := frameSent_lane s n
    refine ⟨fun hearly => congrArg Host.Outcome.next (stepFrameTransmit_early hearly), ?noPavane, ?planned⟩
    case noPavane =>
      rintro ⟨hrun, hunsent⟩ himage
      have hdue : FrameDue s n := ⟨hrun, hunsent⟩
      refine ⟨fun hstate => ?_, fun hstate => ?_, fun hstate hid => ?_⟩
      · have hcarries : l.regs.state.carries = false := by
          rcases hstate with h | h <;> rw [h] <;> rfl
        have hident : l.regs.state ≠ .verifying := by
          rcases hstate with h | h <;> rw [h] <;> decide
        have hquiet := txStep_frameSent_quiet (m := m) (payload := payload) himage hcarries (fun h => absurd h hident)
        exact congrArg Host.Outcome.next ((stepFrameTransmit_silent hdue hstate).trans (congrArg TxCell.state hquiet))
      · have hcarries : l.regs.state.carries = false := by
          rcases hstate with h | h | h | ⟨h, -⟩ <;> rw [h] <;> rfl
        have hident : l.regs.state = .verifying → s.dome.chipId = 0xFFFF := by
          rcases hstate with h | h | h | ⟨-, h⟩
          case inr.inr.inr => exact fun _ => h
          all_goals exact fun hverifying => absurd (hverifying.symm.trans h) (by decide)
        have hframes : l.regs.state ≠ .disabled ∧ l.regs.state ≠ .training := by
          rcases hstate with h | h | h | ⟨h, -⟩ <;> rw [h] <;> decide
        obtain ⟨hdisabled, htraining⟩ := hframes
        have hquiet := txStep_frameSent_quiet (m := m) (payload := payload) himage hcarries hident
        exact congrArg Host.Outcome.next ((stepFrameTransmit_sends hdue hdisabled htraining).trans (by rw [hquiet]; rfl))
      · have hframes : l.regs.state ≠ .disabled ∧ l.regs.state ≠ .training := by rw [hstate]; decide
        obtain ⟨hdisabled, htraining⟩ := hframes
        have hident := txStep_frameSent_ident (m := m) (payload := payload) himage hstate hid
        refine ⟨_, sent.identOf m n, congrArg Host.Outcome.next (stepFrameTransmit_sends hdue hdisabled htraining), ?_,
          rfl, rfl, rfl, identOf_lane sent m n.isLt, rfl⟩
        rw [hident]
        rfl
    case planned =>
      rintro r ⟨hrun, hunsent⟩ hcarries hopen hsound hentry hnoOld
      have hdue : FrameDue s n := ⟨hrun, hunsent⟩
      have hplan : Planned sent n m r := ⟨hsound, hopen, hentry, hnoOld⟩
      refine ⟨fun p f hkind himage => ?_, fun h hkind hactive hfound hhops htype => ?_⟩
      · have hsent := stepFrameTransmit_planned hdue hcarries (txPlan_heartbeat (payload := payload) hplan hkind himage)
        refine ⟨_, _, congrArg Host.Outcome.next hsent, rfl, rfl, rfl, rfl, frameSent_heartbeatBytes s n, ?_⟩
        rw [lane_emit, lane_modLane, heartbeatSent_lane]
        exact ⟨congrArg (·.hbSeq + 1) hlane, congrArg (·.upSteps + 1) hlane⟩
      · have hsent := stepFrameTransmit_planned hdue hcarries (txPlan_forwards (payload := payload) hplan hkind hactive hfound hhops htype)
        refine ⟨_, congrArg Host.Outcome.next hsent, rfl, ?_⟩
        show (countBelfry _ _ _ _).fab.held = _
        rw [countBelfry_fab]
        rfl
  case receive =>
    intro l k at_
    refine ⟨fun hdeaf => congrArg Host.Outcome.next (stepFrameReceive_deaf hdeaf), ?valid, ?invalid⟩
    case valid =>
      intro hrun hlistens hok hunlocked base
      have hlane : (frameMarked n f s).lane n = base := frameMarked_lane hok s n
      have hstate : ((frameMarked n f s).lane n).regs.state = l.regs.state := by rw [hlane]
      have hscope := frameMarked_frameScope n f s
      have hcell (halign : l.regs.state ≠ .aligning) : frameCell n at_.1 at_.2 f (frameMarked n f s) =
          cellIn n at_.1 at_.2 f (frameMarked n f s) :=
        frameCell_listens (by rw [hstate]; exact hlistens) (by rw [hstate]; exact halign)
      refine ⟨_, congrArg Host.Outcome.next (stepFrameReceive_unlocked hrun hlistens hok hunlocked), fun hnone => ?_, ?_, ?_⟩
      · have hidle : frameCell n at_.1 at_.2 f (frameMarked n f s) = frameMarked n f s := by
          rcases hnone with hempty | halign
          · exact frameCell_empty hempty
          · exact frameCell_aligning (hstate.trans halign)
        rw [hidle]
        exact ⟨hlane, hscope⟩
      · intro hbytes halign hfec
        rw [hcell halign, cellIn_uncorrectable hbytes hfec, errRecord_lane, hlane]
      · intro c hbytes hfec hread htype hstep hperiod hverifying hid
        have hverifying' := hstate.trans hverifying
        have hid' : (frameMarked n f s).dome.chipId ≠ 0xFFFF := by rw [hscope.dome]; exact hid
        have hident : frameCell n at_.1 at_.2 f (frameMarked n f s) = identIn n c (frameMarked n f s) := by
          rw [hcell (by rw [hverifying]; decide), cellIn_read hbytes hfec hread hstep hperiod, cellChecked_ident htype hverifying']
        rw [hident]
        refine ⟨fun hpartner hcount => ?_, fun hother => ?_⟩
        · rw [identIn_sixteenth hverifying' hid' (by rw [hscope.partner]; exact hpartner) (by rw [hlane]; exact hcount),
            lane_modLane, lane_modLane, hscope.clock]
          exact ⟨rfl, rfl, rfl, rfl⟩
        · rw [identIn_stranger hverifying' hid' (by rw [hscope.partner]; exact hother)]
          obtain ⟨-, -, -, hout⟩ := laneOut_goesOut n causeIdentity (frameMarked n f s) (x := .failed) (by decide)
          rw [hout]
          exact ⟨rfl, rfl⟩
    case invalid =>
      intro hrun hcarries hbad hseven
      refine ⟨_, congrArg Host.Outcome.next (stepFrameReceive_eighth hrun hcarries hbad hseven), ?_⟩
      obtain ⟨-, -, -, hout⟩ := laneOut_goesOut n causeMarker
        ((frameTaken n f s).modLane n (fun l => { l with badMarkers := l.badMarkers + 1 })) (x := .down) (by decide)
      rw [hout]
      exact ⟨rfl, rfl, congrArg (·.tick) (frameTaken_frameScope n f s).clock⟩

end Sys2Proof.Machine

namespace Sys2Proof.Machine
open Sys2Proof

/-! ### PAVANE_LOAD (R358, R363) -/

section
variable {u : State} {iss : Issuer} {b : Bool} {first tiles : Nat}

/-- The bytes that a load reads: those of its tiles. -/
def State.imageRead (u : State) (first tiles : Nat) : List Byte := u.runRead first 0 (tiles + 1) (tiles * tileBytes)

/-- The range of a load is legal, its slot is free, its tiles are READY HBM tiles of lease 0 with a pin and outside the radio
partition, and no word that is read is poisoned (R363). -/
structure Loadable (u : State) (b : Bool) (first tiles : Nat) : Prop where
  range : rangeOk first tiles 64 = true
  free : u.slotFree b = true
  held : ∀ n ∈ tileRange first tiles, (u.tile n).lease = 0 ∧ (u.tile n).radio = false ∧ (u.tile n).inHbm = true ∧ (u.tile n).pin ≠ 0
  clean : u.runPoisoned first 0 (tiles + 1)
    (min (tiles * tileBytes) (max 64 (readHead (u.imageRead first tiles)).bytes)) = false

/-- What a load does that has read its image: a check of R363 refuses it, or it starts. -/
def State.loadChecked (u : State) (iss : Issuer) (b : Bool) (h : ImageHead) : State × Option Reply :=
  if h.sound u.chipId u.dome.cfg = false then refuse stBadArg u
  else if imageMax < h.bytes + u.fab.slotBytes (!b) then refuse stNoResource u
  else (u.modFab (fun f => { f with load := f.load ++ [⟨b, h.image, iss⟩] }), none)

theorem pavaneLoadBody_busy (hrange : rangeOk first tiles 64 = true) (hbusy : u.slotFree b = false) :
    pavaneLoadBody iss b first tiles u = refuse stConflict u := by
  unfold pavaneLoadBody
  dsimp only
  rw [hrange, hbusy, if_neg (by decide), if_pos (by decide)]

theorem pavaneLoadBody_loadable (h : Loadable u b first tiles) :
    pavaneLoadBody iss b first tiles u = u.loadChecked iss b (readHead (u.imageRead first tiles)) := by
  have howned : (tileRange first tiles).any (fun n => (u.tile n).lease ≠ 0 || (u.tile n).radio) = false := by
    simp only [List.any_eq_false]
    intro n hn
    obtain ⟨hlease, hradio, -, -⟩ := h.held n hn
    simp [hlease, hradio]
  have hheld : (tileRange first tiles).any (fun n => !(u.tile n).inHbm || (u.tile n).pin = 0) = false := by
    simp only [List.any_eq_false]
    intro n hn
    obtain ⟨-, -, hhbm, hpin⟩ := h.held n hn
    simpa [hhbm] using hpin
  have hclean := h.clean
  unfold State.imageRead at hclean
  unfold pavaneLoadBody State.loadChecked State.imageRead
  dsimp only
  rw [h.range, h.free, howned, hheld, hclean]
  simp only [Bool.not_true, Bool.false_eq_true, if_false, Bool.not_eq_true']

theorem loadChecked_unsound {h : ImageHead} (hbad : h.sound u.chipId u.dome.cfg = false) :
    u.loadChecked iss b h = refuse stBadArg u := if_pos hbad

theorem loadChecked_full {h : ImageHead} (hsound : h.sound u.chipId u.dome.cfg = true)
    (hfull : imageMax < h.bytes + u.fab.slotBytes (!b)) : u.loadChecked iss b h = refuse stNoResource u := by
  unfold State.loadChecked
  rw [if_neg (by simp [hsound]), if_pos hfull]

theorem loadChecked_starts {h : ImageHead} (hsound : h.sound u.chipId u.dome.cfg = true)
    (hfits : h.bytes + u.fab.slotBytes (!b) ≤ imageMax) : u.loadChecked iss b h =
      (u.modFab (fun f => { f with load := f.load ++ [⟨b, h.image, iss⟩] }), none) := by
  unfold State.loadChecked
  rw [if_neg (by simp [hsound]), if_neg (by omega)]

theorem pavaneLoadComplete_stores {s : State} {x : PavLoad} {rest : List PavLoad} (hload : s.fab.load = x :: rest)
    (hfree : s.slotFree x.slotB = true) (hfits : x.image.bytes + s.fab.slotBytes (!x.slotB) ≤ imageMax) :
    pavaneLoadComplete s = complete x.issuer 0x30 (.of stOk) (setSlot x.slotB (some x.image) (s.modFab (fun f => { f with load := rest }))) := by
  unfold pavaneLoadComplete
  rw [hload]
  dsimp only
  rw [hfree, if_neg (by decide), if_neg (by omega)]

/-! ### PAVANE_ACTIVATE, FIGURE_SWITCH, PAVANE_CLEAR (R362, R364, R369) -/

variable {p : Pavane} {fig at_ : Nat}

/-- A period start at least 1 ms ahead (R364, R369). -/
theorem periodAhead_iff : u.periodAhead at_ = true ↔ at_ % periodUnits = 0 ∧ u.now + nsUnits 1000000 ≤ at_ := by
  rw [State.periodAhead, milliUnits, Bool.and_eq_true, decide_eq_true_eq, decide_eq_true_eq]

/-- A Figure that the image lacks, or an AT that is no period start 1 ms ahead, is a bad argument. -/
theorem badTarget_iff : ((p.stepSet fig).isNone || !u.periodAhead at_) = true ↔
    p.stepSet fig = none ∨ ¬ (at_ % periodUnits = 0 ∧ u.now + nsUnits 1000000 ≤ at_) := by
  rw [Bool.or_eq_true, Bool.not_eq_true', ← Bool.not_eq_true, periodAhead_iff, Option.isNone_iff_eq_none]

theorem goodTarget (hfig : p.stepSet fig ≠ none) (hstart : at_ % periodUnits = 0) (hahead : u.now + nsUnits 1000000 ≤ at_) :
    ¬ ((p.stepSet fig).isNone || !u.periodAhead at_) = true := by
  rw [badTarget_iff]
  exact fun h => h.elim hfig (fun hn => hn ⟨hstart, hahead⟩)

theorem pavaneActivateBody_empty (hslot : u.fab.slot b = none) : pavaneActivateBody iss b fig at_ u = refuse stBadArg u := by
  unfold pavaneActivateBody
  rw [hslot]

theorem pavaneActivateBody_badTarget (hslot : u.fab.slot b = some p)
    (hbad : p.stepSet fig = none ∨ ¬ (at_ % periodUnits = 0 ∧ u.now + nsUnits 1000000 ≤ at_)) :
    pavaneActivateBody iss b fig at_ u = refuse stBadArg u := by
  unfold pavaneActivateBody
  rw [hslot]
  exact if_pos (badTarget_iff.mpr hbad)

theorem pavaneActivateBody_pends (hslot : u.fab.slot b = some p) (hfig : p.stepSet fig ≠ none)
    (hstart : at_ % periodUnits = 0) (hahead : u.now + nsUnits 1000000 ≤ at_)
    (hmay : u.fab.activation = none ∧ u.mayActivate p fig = true) : pavaneActivateBody iss b fig at_ u =
      (u.modFab (fun f => { f with activation := some ⟨b, fig, at_, iss⟩ }), some (.of stDeferred)) := by
  obtain ⟨hnone, hallowed⟩ := hmay
  unfold pavaneActivateBody
  rw [hslot]
  dsimp only
  rw [if_neg (goodTarget hfig hstart hahead), if_neg (by simp [hnone, hallowed])]

theorem pavaneActivateBody_conflicts (hslot : u.fab.slot b = some p) (hfig : p.stepSet fig ≠ none)
    (hstart : at_ % periodUnits = 0) (hahead : u.now + nsUnits 1000000 ≤ at_)
    (hmay : ¬ (u.fab.activation = none ∧ u.mayActivate p fig = true)) :
    pavaneActivateBody iss b fig at_ u = refuse stConflict u := by
  have hrefused : (u.fab.activation.isSome || !u.mayActivate p fig) = true := by
    rw [Bool.or_eq_true, Bool.not_eq_true', ← Bool.not_eq_true, Option.isSome_iff_ne_none]
    exact Decidable.not_and_iff_or_not.mp hmay
  unfold pavaneActivateBody
  rw [hslot]
  dsimp only
  rw [if_neg (goodTarget hfig hstart hahead), if_pos hrefused]

/-- No activation is pending, and no switch is armed or drains (R369). -/
structure Settled (u : State) : Prop where
  activation : u.fab.activation = none
  switch : u.fab.switch = none
  drain : u.fab.drain = none

theorem figureSwitchBody_noImage (himage : u.image = none) : figureSwitchBody iss fig at_ u = refuse stConflict u := by
  unfold figureSwitchBody
  rw [himage]

theorem figureSwitchBody_badTarget (himage : u.image = some p) (hsettled : Settled u)
    (hbad : ¬ (at_ % periodUnits = 0 ∧ u.now + nsUnits 1000000 ≤ at_)) : figureSwitchBody iss fig at_ u = refuse stBadArg u := by
  unfold figureSwitchBody
  rw [himage, hsettled.activation, hsettled.switch, hsettled.drain]
  dsimp only
  rw [if_neg (by decide), if_pos (badTarget_iff.mpr (.inr hbad))]

theorem figureSwitchBody_arms (himage : u.image = some p) (hsettled : Settled u) (hfig : p.stepSet fig ≠ none)
    (hstart : at_ % periodUnits = 0) (hahead : u.now + nsUnits 1000000 ≤ at_) (htowers : u.towersAllow p = true)
    (hcells : u.cellsAllow p fig = true) (htest : u.testAllows p [fig] = true) : figureSwitchBody iss fig at_ u =
      (u.modFab (fun f => { f with switch := some ⟨f.active.getD false, fig, at_, iss⟩, figAt := hallOf at_ }), some (.of stDeferred)) := by
  unfold figureSwitchBody
  rw [himage, hsettled.activation, hsettled.switch, hsettled.drain]
  dsimp only
  rw [if_neg (by decide), if_neg (goodTarget hfig hstart hahead), if_neg (by simp [htowers, hcells, htest])]

end

/-! ### The end of a drain period (R371, R417) -/

section
variable {s t u : State} {r : RmRequest} {l : List RmRequest}

/-- `t` differs from `s` in the remote-memory engine at most. -/
def RmScope (s t : State) : Prop := t = { s with rm := t.rm }

theorem RmScope.trans (h : RmScope s t) (g : RmScope t u) : RmScope s u := by
  unfold RmScope at *
  rw [g, h]

theorem RmScope.chipId (h : RmScope s t) : t.chipId = s.chipId := by
  unfold RmScope at h
  rw [h]
  rfl

/-- A request to another chip that goes out, or goes out again, waits in the remote-memory engine for its flow. -/
theorem rmTransmit_rmScope {again : Bool} (hfar : r.dst ≠ s.chipId) : RmScope s (rmTransmit r again s) := by
  unfold rmTransmit
  split
  · rfl
  · dsimp only
    rw [if_neg hfar]
    rfl

/-- A request to another chip that is not a staging line's goes out as its record. -/
theorem rmTransmit_record {again : Bool} (hfar : r.dst ≠ s.chipId) (howner : ∀ n, r.owner ≠ .line n) :
    rmTransmit r again s = s.modRm (fun m => { m with outbox := m.outbox ++ [r.record s.chipId again] }) := by
  unfold rmTransmit
  split
  · rename_i n h _
    exact absurd h (howner n)
  · exact if_neg hfar

/-- A request that goes out again is counted, and its record is marked. -/
theorem rmAgain_record (hfar : r.dst ≠ s.chipId) (howner : ∀ n, r.owner ≠ .line n) : rmAgain r s =
    (s.modRmRegs (fun c => { c with retx := satInc c.retx })).modRm (fun m => { m with outbox := m.outbox ++ [r.record s.chipId true] }) :=
  rmTransmit_record (s := s.modRmRegs _) hfar howner

theorem foldl_rmAgain_rmScope (hfar : ∀ r ∈ l, r.dst ≠ s.chipId) : RmScope s (l.foldl (fun t r => rmAgain r t) s) := by
  induction l generalizing s with
  | nil => rfl
  | cons r l ih =>
    have hfirst : RmScope s (rmAgain r s) := rmTransmit_rmScope (s := s.modRmRegs _) (hfar r (List.mem_cons_self ..))
    rw [List.foldl_cons]
    refine hfirst.trans (ih fun x hx => ?_)
    rw [hfirst.chipId]
    exact hfar x (List.mem_cons_of_mem _ hx)

/-- The requests to other chips that the end of a drain period retransmits: those sent before the switch. -/
def State.sentBefore (s : State) (switch_ : Nat) : List RmRequest :=
  s.rm.reqs.filter (fun r => r.open_ && decide (r.dst ≠ s.chipId) && r.sent.any (fun t => decide (t < switch_)))

theorem rmDrainEnd_eq (switch_ : Nat) (s : State) :
    rmDrainEnd switch_ s = (s.sentBefore switch_).foldl (fun t r => rmAgain r t) s := by
  unfold rmDrainEnd State.sentBefore
  congr 2
  funext r
  cases r.sent <;> rfl

theorem sentBefore_far {switch_ : Nat} (h : r ∈ s.sentBefore switch_) : r.dst ≠ s.chipId := by
  simp only [State.sentBefore, List.mem_filter, Bool.and_eq_true, decide_eq_true_eq] at h
  obtain ⟨-, ⟨-, hfar⟩, -⟩ := h
  exact hfar

theorem rmDrainEnd_rmScope (switch_ : Nat) (s : State) : RmScope s (rmDrainEnd switch_ s) := by
  rw [rmDrainEnd_eq]
  exact foldl_rmAgain_rmScope fun _ hr => sentBefore_far hr

/-- The fabric once the drain period of a switch is over: the cells of the old step set are dropped and counted (R371). -/
def FabState.drained (f : FabState) : FabState :=
  { f with
    drain := none, oldDrops := satAdd f.oldDrops (f.held.filter (·.oldSet)).length, held := f.held.filter (fun h => !h.oldSet) }

theorem drainPeriodEnd_over {a p : Nat} (hdrain : s.fab.drain = some (a, p)) (hover : p < s.now / periodUnits) :
    drainPeriodEnd s = retryParts (rmDrainEnd (p * periodUnits) (s.modFab FabState.drained)) := by
  unfold drainPeriodEnd
  rw [hdrain]
  exact if_pos hover

theorem drainPeriodEnd_early {a p : Nat} (hdrain : s.fab.drain = some (a, p)) (hearly : s.now / periodUnits ≤ p) :
    drainPeriodEnd s = s := by
  unfold drainPeriodEnd
  rw [hdrain]
  exact if_neg (by omega)

end

/-- Settles O33: the body of each command, once R364 or R369 allows it or does not, and what the end of a drain period drops and
sends again. -/
theorem pavaneCommandsAndTheDrainPeriod : Obligations.PavaneCommandsAndTheDrainPeriod := by
  unfold Obligations.PavaneCommandsAndTheDrainPeriod
  refine ⟨fun s iss b => ⟨?load, ?activate, ?figure, ?clear⟩, ?stored, ?drain⟩
  case load =>
    intro first tiles haccepts u l len h ok done
    have hbody (hok : ok) : pavaneLoadBody iss b first tiles u = u.loadChecked iss b h := by
      obtain ⟨hrange, hfree, htiles, hclean⟩ := hok
      exact pavaneLoadBody_loadable ⟨hrange, hfree, htiles, hclean⟩
    refine ⟨fun hrange hbusy => ?_, fun hok hbad => ?_, fun hok hsound hfull => ?_, fun hok hsound hfits => ?_⟩
    · exact answers_refused haccepts (pavaneLoadBody_busy hrange hbusy) rfl
    · exact answers_refused haccepts ((hbody hok).trans (loadChecked_unsound hbad)) rfl
    · exact answers_refused haccepts ((hbody hok).trans (loadChecked_full hsound hfull)) rfl
    · exact congrArg Host.Outcome.next (queueCommand_later haccepts ((hbody hok).trans (loadChecked_starts hsound hfits)))
  case activate =>
    intro fig at_ haccepts u
    refine ⟨fun hslot => answers_refused haccepts (pavaneActivateBody_empty hslot) rfl, fun p hslot => ⟨fun hbad => ?_, ?_⟩⟩
    · exact answers_refused haccepts (pavaneActivateBody_badTarget hslot hbad) rfl
    · intro hfig hstart hahead
      by_cases hmay : u.fab.activation = none ∧ u.mayActivate p fig = true
      · rw [if_pos hmay]
        exact congrArg Host.Outcome.next (queueCommand_done haccepts (pavaneActivateBody_pends hslot hfig hstart hahead hmay) rfl)
      · rw [if_neg hmay]
        exact answers_refused haccepts (pavaneActivateBody_conflicts hslot hfig hstart hahead hmay) rfl
  case figure =>
    intro fig at_ haccepts u
    refine ⟨fun himage => answers_refused haccepts (figureSwitchBody_noImage himage) rfl, ?_⟩
    intro p himage hactivation hswitch hdrain
    have hsettled : Settled u := ⟨hactivation, hswitch, hdrain⟩
    refine ⟨fun hbad => answers_refused haccepts (figureSwitchBody_badTarget himage hsettled hbad) rfl, ?_⟩
    intro hfig hstart hahead htowers hcells htest
    exact congrArg Host.Outcome.next (queueCommand_done haccepts
      (figureSwitchBody_arms himage hsettled hfig hstart hahead htowers hcells htest) rfl)
  case clear =>
    intro haccepts u
    by_cases hfree : u.slotFree b = true
    · rw [if_pos hfree]
      exact congrArg Host.Outcome.next (queueCommand_done haccepts (if_pos hfree) rfl)
    · rw [if_neg hfree]
      exact answers_refused haccepts (if_neg hfree) rfl
  case stored =>
    intro s
    refine ⟨fun hnone => ?_, fun x rest hload hfree hfits => ?_⟩
    · show Host.Outcome.next (pavaneLoadComplete s) = _
      unfold pavaneLoadComplete
      rw [hnone]
    · exact congrArg Host.Outcome.next (pavaneLoadComplete_stores hload hfree hfits)
  case drain =>
    intro s a p hdrain olds again
    refine ⟨fun hearly => congrArg Host.Outcome.next (drainPeriodEnd_early hdrain hearly), fun hover => ?_⟩
    have hscope := rmDrainEnd_rmScope (p * periodUnits) (s.modFab FabState.drained)
    have hsent : rmDrainEnd (p * periodUnits) (s.modFab FabState.drained) = again.foldl (fun t r => rmAgain r t) _ := rmDrainEnd_eq _ _
    unfold RmScope at hscope
    refine ⟨_, congrArg Host.Outcome.next (drainPeriodEnd_over hdrain hover), ?_, ?_, fun hnone => ?_, fun r hone howner => ?_⟩
    · rw [hscope]; rfl
    · rw [hscope]; rfl
    · rw [hsent, hnone]
      rfl
    · have hmem : r ∈ s.sentBefore (p * periodUnits) := by
        rw [show s.sentBefore (p * periodUnits) = [r] from hone]
        exact List.mem_singleton_self r
      rw [hsent, hone, List.foldl_cons, List.foldl_nil, rmAgain_record (s := s.modFab _) (sentBefore_far hmem) howner]
      exact ⟨rfl, rfl⟩

end Sys2Proof.Machine

namespace Sys2Proof.Machine
open Sys2Proof

/-! ### The traffic manager: what a read gives after a change -/

section
variable {s t : State} {n q m : Nat}

@[simp] theorem beQueue_modBeQueue_same (s : State) (n q : Nat) (f : BeQueue → BeQueue) :
    (s.modBeQueue n q f).beQueue n q = f (s.beQueue n q) := Tab.get_modify_same _ _ _ _

theorem beQueue_of_queues (h : t.be.queues = s.be.queues) (n q : Nat) : t.beQueue n q = s.beQueue n q :=
  congrArg (·.get BeQueue.reset (n * 8 + q)) h

@[simp] theorem meter_modMeter_same (s : State) (m : Nat) (f : Meter → Meter) : (s.modMeter m f).meter m = f (s.meter m) :=
  Tab.get_modify_same _ _ _ _

theorem meter_of_meters (h : t.be.meters = s.be.meters) (m : Nat) : t.meter m = s.meter m :=
  congrArg (·.get Meter.reset m) h

theorem begun_be (s : State) (op : Nat) (iss : Issuer) : (s.begun op iss).be = s.be := by
  unfold State.begun
  split
  · rfl
  · rw [returnToRun_shape]; rfl

/-! ### A refused send: what it leaves beside its count (R14, R393) -/

variable {iss : Issuer} {op st : Nat} {body : State → State × Option Reply}

/-- A command whose body changes nothing leaves the power state as it was, once refused. -/
theorem stayLow_begun (s : State) (op : Nat) (iss : Issuer) : stayLow (takeStarted iss s) (s.begun op iss) = takeStarted iss s := by
  unfold State.begun
  split
  · unfold stayLow; split <;> rfl
  · exact stayLow_returnToRun _

/-- A count of the traffic manager stays as the chip goes back to its power state (R14, R573). -/
theorem stayLow_modBe (s t : State) (f : BeState → BeState) : stayLow s (t.modBe f) = (stayLow s t).modBe f := by
  unfold stayLow
  split <;> rfl

/-- A count of the Belfry stays as the chip goes back to its power state. -/
theorem stayLow_counted (s t : State) (x : CounterState) (y : HostState) (z : List Out) :
    stayLow s { t with cnt := x, host := y, out := z } = { stayLow s t with cnt := x, host := y, out := z } := by
  unfold stayLow
  split <;> rfl

/-- A refused command answers its status on what its body's counts make of the state before it. -/
theorem queueCommand_refused (h : s.accepts op iss = true) (hb : body (s.begun op iss) = (t, some (.of st)))
    (hs : refusedStatus st = true) :
    queueCommand op iss body s = complete iss op (.of st) (stayLow (takeStarted iss s) t) := by
  have hst : (Reply.of st).status = st := rfl
  rw [queueCommand_accepts h, hb]
  simp only [hst, hs, if_true]

theorem satAdd_one {w : Nat} (x : BitVec w) : satAdd x 1 = satInc x := by
  have hfull : x = BitVec.allOnes w ↔ ¬ x.toNat + 1 < 2 ^ w := by
    have hx := x.isLt
    rw [← BitVec.toNat_inj, BitVec.toNat_allOnes]
    omega
  unfold satAdd satInc
  by_cases h : x = BitVec.allOnes w
  · rw [if_pos h, if_neg (hfull.mp h), h]
  · rw [if_neg h, if_pos (Decidable.not_not.mp (mt hfull.mpr h)), BitVec.ofNat_add, BitVec.ofNat_toNat, BitVec.setWidth_eq]
    rfl

/-- One cell more that was refused or discarded. -/
theorem beDrop_beQueue (s : State) (n q : Nat) :
    (beDrop n q 1 s).beQueue n q = { s.beQueue n q with drops := satInc (s.beQueue n q).drops } := by
  unfold beDrop
  rw [beQueue_modBeQueue_same, satAdd_one]

theorem stayLow_beDrop (k : Nat) : stayLow (takeStarted iss s) (beDrop n q k (s.begun op iss)) = beDrop n q k (takeStarted iss s) :=
  (stayLow_modBe _ _ _).trans (by rw [stayLow_begun]; rfl)

/-- A red send leaves its count in its meter, and what event 0x1101 counts. -/
theorem stayLow_beRed (m : Nat) : ∃ x y z, stayLow (takeStarted iss s) (beRed m (s.begun op iss)) =
    { (takeStarted iss s).modMeter m (fun r => { r with red := satInc r.red }) with cnt := x, host := y, out := z } := by
  obtain ⟨x, y, z, hcount⟩ := countBelfry_shape 0x1101 (some m) 1
    ((s.begun op iss).modMeter m (fun r => { r with red := satInc r.red }))
  refine ⟨x, y, z, ?_⟩
  unfold beRed
  rw [hcount, stayLow_counted]
  unfold State.modMeter
  rw [stayLow_modBe, stayLow_begun]

end

/-! ### BE_SEND: its body, in the order of R393 -/

section
variable {u : State} {iss : Issuer} {a : BeArgs} {n : Nat}

/-- A send's colour, and the counts Tc and Tp after its debit: sends of the host and the Dome are not metered (R392). -/
def State.sendColour (u : State) (iss : Issuer) (a : BeArgs) : Colour × Nat × Nat :=
  if iss.lease = 0 then (if a.colour = 1 then Colour.yellow else Colour.green, 0, 0)
  else (u.meter iss.lease).colour ((64 + a.len) * 256) (decide (a.colour = 1))

/-- COLOUR of the cell of a send that is not red (Table 11.1). -/
def Colour.code (c : Colour) : Nat := if c = .yellow then 1 else 0

/-- The arguments are in their ranges, a lease may use the queue, and the cell goes to another chip. -/
structure Sendable (u : State) (iss : Issuer) (a : BeArgs) : Prop where
  ranged : a.queue < 8 ∧ a.colour < 2 ∧ a.len ≤ 2752 ∧ a.dstLease < 4096 ∧ a.dstChip < 65536
  masked : iss.isLease = true → (u.meter iss.lease).qmask.getLsbD a.queue = true
  far : a.dstChip ≠ u.chipId

/-- The cell of a send. -/
def State.sendCell (u : State) (iss : Issuer) (a : BeArgs) : Cell := u.beCell iss.lease (u.sendColour iss a).1.code a

/-- What a send does that has a route. -/
def State.sendRouted (u : State) (iss : Issuer) (a : BeArgs) (n : Nat) : State × Option Reply :=
  if (u.sendColour iss a).1 = .red then (beRed iss.lease u, some (.of stNoResource))
  else if !u.admits n a.queue (u.sendColour iss a).1.code then (beDrop n a.queue 1 u, some (.of stNoResource))
  else ((enqueue n a.queue (u.sendCell iss a) (beMetered iss.lease (u.sendColour iss a) u)).useFree, some (.of stOk))

theorem beCell_beColour (u : State) (lease : Nat) (c : Colour) (hqueue : a.queue < 8) : (u.beCell lease c.code a).beColour = c.code := by
  have hcode : c.code < 2 := by unfold Colour.code; split <;> decide
  show (beInfo a.queue c.code lease a.dstLease a.user.toNat).toNat / 2 ^ 0 % 2 ^ 8 / 16 % 4 = c.code
  unfold beInfo
  rw [BitVec.toNat_ofNat]
  omega

theorem beCell_length (u : State) (lease colour : Nat) (a : BeArgs) : (u.beCell lease colour a).length = 64 + a.len := by
  simp [Cell.length, State.beCell]

theorem beSendBody_masked (hlease : iss.isLease = true) (hmask : (u.meter iss.lease).qmask.getLsbD a.queue = false) :
    beSendBody iss a u = refuse stBadArg u := by
  unfold beSendBody
  dsimp only
  rw [hlease, hmask]
  rfl

theorem Sendable.inRange (h : Sendable u iss a) : a.inRange = true := decide_eq_true h.ranged

/-- The check of a lease's arguments passes (R393). -/
theorem Sendable.passes (h : Sendable u iss a) :
    (iss.isLease && (!(u.meter iss.lease).qmask.getLsbD a.queue || !a.inRange)) = false := by
  cases hlease : iss.isLease
  · rfl
  · rw [h.masked hlease, h.inRange]; rfl

theorem beSendBody_noRoute (h : Sendable u iss a) (hroute : u.beRoute a.dstChip = none) : beSendBody iss a u = refuse stBadArg u := by
  unfold beSendBody
  dsimp only
  rw [h.passes, h.inRange, decide_eq_false h.far, hroute]
  rfl

theorem beSendBody_routed (h : Sendable u iss a) (hroute : u.beRoute a.dstChip = some n) :
    beSendBody iss a u = u.sendRouted iss a n := by
  have hcolour := beCell_beColour u iss.lease (u.sendColour iss a).1 h.ranged.1
  unfold beSendBody
  dsimp only
  rw [h.passes, h.inRange, decide_eq_false h.far, hroute]
  unfold State.sendRouted
  rw [← hcolour]
  simp only [decide_eq_true_eq]
  rfl

theorem sendRouted_red (hred : (u.sendColour iss a).1 = .red) :
    u.sendRouted iss a n = (beRed iss.lease u, some (.of stNoResource)) := if_pos hred

theorem sendRouted_full (hred : (u.sendColour iss a).1 ≠ .red) (hfull : u.admits n a.queue (u.sendColour iss a).1.code = false) :
    u.sendRouted iss a n = (beDrop n a.queue 1 u, some (.of stNoResource)) := by
  unfold State.sendRouted
  rw [if_neg hred, if_pos (by rw [hfull]; rfl)]

theorem sendRouted_admitted (hred : (u.sendColour iss a).1 ≠ .red) (hadmits : u.admits n a.queue (u.sendColour iss a).1.code = true) :
    u.sendRouted iss a n =
      ((enqueue n a.queue (u.sendCell iss a) (beMetered iss.lease (u.sendColour iss a) u)).useFree, some (.of stOk)) := by
  unfold State.sendRouted
  rw [if_neg hred, if_neg (by rw [hadmits]; decide)]

end

/-! ### An admitted cell (R385, R388, R392) -/

section
variable {s : State} {n q colour m : Nat} {r : Colour × Nat × Nat}

theorem admits_weight (h : s.admits n q colour = true) : (s.beQueue n q).weight ≠ 0 := by
  simp only [State.admits, Bool.and_eq_true, decide_eq_true_eq] at h
  obtain ⟨⟨⟨-, hweight⟩, -⟩, -⟩ := h
  exact hweight

theorem finishTag_weighted {weight : Nat} (st : DWord) (len : Nat) (h : weight ≠ 0) :
    s.finishTag st len weight = st + BitVec.ofNat 64 ((len * 65536 + weight - 1) / weight) := if_neg h

/-- A queued cell stands at the end of its queue; one that wakes the queue gets its finish tag from the virtual time. -/
theorem enqueue_beQueue (c : Cell) (h : (s.beQueue n q).weight ≠ 0) : (enqueue n q c s).beQueue n q = { s.beQueue n q with
    cells := (s.beQueue n q).cells ++ [⟨c, s.now⟩]
    finish := if (s.beQueue n q).cells = [] then
        s.vtime n + BitVec.ofNat 64 ((c.length * 65536 + (s.beQueue n q).weight.toNat - 1) / (s.beQueue n q).weight.toNat)
      else (s.beQueue n q).finish } := by
  have hweight : (s.beQueue n q).weight.toNat ≠ 0 := fun h0 => h (BitVec.eq_of_toNat_eq h0)
  unfold enqueue
  rw [beQueue_modBeQueue_same, finishTag_weighted _ _ hweight]
  simp only [List.isEmpty_iff]

theorem beMetered_shape (m : Nat) (r : Colour × Nat × Nat) (s : State) :
    ∃ meters, beMetered m r s = s.modBe (fun b => { b with meters := meters }) := by
  unfold beMetered
  split
  · exact ⟨s.be.meters, rfl⟩
  · exact ⟨_, rfl⟩

theorem enqueue_beMetered_scope (c : Cell) : BeScope s (enqueue n q c (beMetered m r s)) := by
  obtain ⟨meters, hmeters⟩ := beMetered_shape m r s
  rw [hmeters]
  rfl

theorem beMetered_meter (hm : m ≠ 0) : ((beMetered m r s).meter m).tc = r.2.1 ∧ ((beMetered m r s).meter m).tp = r.2.2 := by
  unfold beMetered
  rw [if_neg hm, meter_modMeter_same]
  exact ⟨rfl, rfl⟩

end

/-! ### Decisions (R380, R389, Table 11.3) -/

section
variable {s : State} {n q k : Nat} {h : BeCell} {rest : List BeCell}

theorem vAfter_self (x : DWord) : vAfter x x = false := by simp [vAfter]

/-- Of two values at most one is after the other. -/
theorem vAfter_asymm {x y : DWord} (h : vAfter x y = true) : vAfter y x = false := by
  simp only [vAfter, decide_eq_true_eq, decide_eq_false_iff_not] at *
  have hneg : y - x = -(x - y) := by rw [BitVec.neg_sub, BitVec.sub_eq_add_neg, BitVec.add_comm]
  rw [hneg]
  generalize x - y = z at h
  rw [BitVec.toInt_eq_toNat_cond] at *
  rw [BitVec.toNat_neg]
  split at h <;> split <;> omega

/-- Queue `q` of lane `n` is served before queue `p`: its finish tag is the smaller one, or it is the same and `q` is not higher. -/
def State.precedes (s : State) (n q p : Nat) : Prop :=
  vAfter (s.beQueue n p).finish (s.beQueue n q).finish = true ∨ ((s.beQueue n p).finish = (s.beQueue n q).finish ∧ q ≤ p)

theorem not_vAfter_of_precedes {p : Nat} (h : s.precedes n q p) : vAfter (s.beQueue n q).finish (s.beQueue n p).finish = false := by
  rcases h with h | ⟨h, -⟩
  · exact vAfter_asymm h
  · rw [h, vAfter_self]

theorem vAfter_of_precedes_lower {p : Nat} (h : s.precedes n q p) (hp : p < q) :
    vAfter (s.beQueue n p).finish (s.beQueue n q).finish = true := h.resolve_right (by omega)

theorem bestQueue_some {l : List Nat} {p : Nat} (h : s.bestQueue n l = some p) : p ∈ l ∧ (s.beQueue n p).eligible s.now = true := by
  induction l generalizing p with
  | nil => exact nomatch h
  | cons a l ih =>
    unfold State.bestQueue at h
    cases hrest : s.bestQueue n l with
    | none =>
      rw [hrest] at h
      simp only [Option.ite_none_right_eq_some, Option.some.injEq] at h
      obtain ⟨helig, rfl⟩ := h
      exact ⟨List.mem_cons_self, helig⟩
    | some b =>
      obtain ⟨hmem, helig⟩ := ih hrest
      rw [hrest] at h
      dsimp only at h
      split at h
      · next hbetter =>
        cases h
        exact ⟨List.mem_cons_self, (Bool.and_eq_true_iff.mp hbetter).1⟩
      · cases h
        exact ⟨List.mem_cons_of_mem _ hmem, helig⟩

/-- The eligible queue that precedes every eligible queue of a rising list is the one that the decision takes. -/
theorem bestQueue_of_precedes {l : List Nat} (hrising : l.Pairwise (· < ·)) (hmem : q ∈ l) (helig : (s.beQueue n q).eligible s.now = true)
    (hleast : ∀ p ∈ l, (s.beQueue n p).eligible s.now = true → s.precedes n q p) : s.bestQueue n l = some q := by
  induction l with
  | nil => exact nomatch hmem
  | cons a l ih =>
    obtain ⟨hbelow, hrising⟩ := List.pairwise_cons.mp hrising
    have hlater : ∀ p ∈ l, (s.beQueue n p).eligible s.now = true → s.precedes n q p :=
      fun p hp => hleast p (List.mem_cons_of_mem _ hp)
    unfold State.bestQueue
    rcases List.mem_cons.mp hmem with rfl | hmem
    · cases hrest : s.bestQueue n l with
      | none => exact if_pos helig
      | some p =>
        obtain ⟨hp, hpelig⟩ := bestQueue_some hrest
        exact if_pos (by rw [helig, not_vAfter_of_precedes (hlater p hp hpelig)]; rfl)
    · rw [ih hrising hmem hlater]
      refine if_neg fun hbetter => ?_
      obtain ⟨haelig, hafter⟩ := Bool.and_eq_true_iff.mp hbetter
      rw [vAfter_of_precedes_lower (hleast a List.mem_cons_self haelig) (hbelow q hmem)] at hafter
      exact Bool.noConfusion hafter

/-- Step `k` of lane `n` is decided. -/
def State.stepDecided (s : State) (n k : Nat) : State := s.modBe (fun b => { b with decided := b.decided.set 0 n (k + 1) })

theorem beDecide_sends (hbest : (s.stepDecided n k).bestQueue n (List.range 8) = some q) :
    beDecide n k s = beSendHead n q k (s.stepDecided n k) := by
  unfold State.stepDecided at hbest
  unfold beDecide
  dsimp only
  rw [hbest]
  rfl

/-- The finish tag of the head that a queue has next: its start tag is the finish tag of the cell that was sent (R388). -/
def State.nextTag (s : State) (n q : Nat) : List BeCell → DWord
  | [] => (s.beQueue n q).finish
  | x :: _ => s.finishTag (s.beQueue n q).finish x.cell.length (s.beQueue n q).weight.toNat

/-- A queue after its head `h` was sent, before cells `rest` of which the first has finish tag `f` (R390). -/
def BeQueue.served (h : BeCell) (rest : List BeCell) (f : DWord) (u : BeQueue) : BeQueue :=
  { u with
    cells := rest, finish := f, sent := satInc u.sent
    tokens := if u.shapeOn then u.tokens - (h.cell.length * 256 : Nat) else u.tokens }

/-- The traffic manager after queue `q` of lane `n` sent its head `h` in Step `k` (R388 to R390). -/
def State.headSent (s : State) (n q k : Nat) (h : BeCell) (rest : List BeCell) : State :=
  (s.modBeQueue n q (BeQueue.served h rest (s.nextTag n q rest))).modBe (fun b => { b with
    vtime := b.vtime.set 0 n (if vAfter (s.beQueue n q).finish (s.vtime n) = true then (s.beQueue n q).finish else s.vtime n)
    picked := b.picked.modify [] n (· ++ [(k, h.cell)]) })

theorem countNd_shape (cat c : Nat) (jobs : List Nat) (s : State) : ∃ x d, countNd cat c jobs s = { s with cnt := x, dsp := d } := by
  cases hfreeze : s.cnt.freeze with
  | false =>
    obtain ⟨d, hcount⟩ := countNd_running (cat := cat) c jobs hfreeze
    exact ⟨_, d, hcount⟩
  | true =>
    obtain ⟨d, hcount⟩ := countNd_frozen (cat := cat) c jobs hfreeze
    exact ⟨s.cnt, d, hcount⟩

/-- Beside the traffic manager a sent cell moves the counts of R100 and of event 0x1003 alone, and takes a free value. -/
theorem beSendHead_shape (hcells : (s.beQueue n q).cells = h :: rest) : ∃ x d y z,
    beSendHead n q k s = { s.headSent n q k h rest with cnt := x, dsp := d, host := y, out := z, free := s.free + 1 } := by
  have hcounted : ∀ (b : Bool) (jobs : List Nat), ∃ x d, (if b = true then countNd 0 1 jobs (s.headSent n q k h rest)
      else s.headSent n q k h rest) = { s.headSent n q k h rest with cnt := x, dsp := d } := by
    intro b jobs
    cases b with
    | false => exact ⟨_, _, rfl⟩
    | true => exact countNd_shape 0 1 jobs _
  unfold beSendHead
  dsimp only
  rw [hcells]
  obtain ⟨x, d, hnd⟩ := hcounted (decide (2 ≤ ((List.range 8).filter (fun i => (s.beQueue n i).holds s.now)).length))
    (if h.cell.src = s.chipId then s.jobsOfLease h.cell.beSrcLease else [])
  obtain ⟨x', y, z, hsent⟩ := countBelfry_shape 0x1003 (some n) 1 { s.headSent n q k h rest with cnt := x, dsp := d }
  refine ⟨x', d, y, z, Eq.trans (congrArg (fun t => (countBelfry 0x1003 (some n) 1 t).useFree) ?_) (congrArg State.useFree hsent)⟩
  rw [← hnd]
  cases rest <;> rfl

theorem headSent_beQueue (s : State) (n q k : Nat) (h : BeCell) (rest : List BeCell) :
    (s.headSent n q k h rest).beQueue n q = (s.beQueue n q).served h rest (s.nextTag n q rest) :=
  beQueue_modBeQueue_same s n q _

theorem headSent_picked (s : State) (n q k : Nat) (h : BeCell) (rest : List BeCell) :
    (s.headSent n q k h rest).be.picked.get [] n = s.be.picked.get [] n ++ [(k, h.cell)] := Tab.get_modify_same _ _ _ _

theorem headSent_vtime (s : State) (n q k : Nat) (h : BeCell) (rest : List BeCell) : (s.headSent n q k h rest).vtime n =
    if vAfter (s.beQueue n q).finish (s.vtime n) = true then (s.beQueue n q).finish else s.vtime n := Tab.get_set_same _ _ _ _

theorem stepDecided_decided (s : State) (n k : Nat) : (s.stepDecided n k).be.decided.get 0 n = k + 1 := Tab.get_set_same _ _ _ _

/-- Queue `q` of lane `n` sent its head `h` in Step `k`, and `v` followed `s`. -/
structure HeadGoes (s v : State) (n q k : Nat) (h : BeCell) (rest : List BeCell) : Prop where
  scope : v = { s with be := v.be, cnt := v.cnt, dsp := v.dsp, host := v.host, out := v.out, free := s.free + 1 }
  queue : ∃ f, v.beQueue n q = (s.beQueue n q).served h rest f
  picked : v.be.picked.get [] n = s.be.picked.get [] n ++ [(k, h.cell)]
  decided : v.be.decided.get 0 n = k + 1
  vtime : v.vtime n = if vAfter (s.beQueue n q).finish (s.vtime n) = true then (s.beQueue n q).finish else s.vtime n

/-- A decision of Step `k`: the queue that precedes every eligible one sends its head. -/
theorem beDecide_headGoes (hcells : (s.beQueue n q).cells = h :: rest) (hq : q < 8) (helig : (s.beQueue n q).eligible s.now = true)
    (hleast : ∀ p, p < 8 → (s.beQueue n p).eligible s.now = true → s.precedes n q p) :
    HeadGoes s (beDecide n k s) n q k h rest := by
  have hbest : (s.stepDecided n k).bestQueue n (List.range 8) = some q :=
    bestQueue_of_precedes List.pairwise_lt_range (List.mem_range.mpr hq) helig
      (fun p hp hpelig => hleast p (List.mem_range.mp hp) hpelig)
  obtain ⟨x, d, y, z, hsent⟩ := beSendHead_shape (s := s.stepDecided n k) (k := k) hcells
  rw [beDecide_sends hbest, hsent]
  exact {
    scope := rfl
    queue := ⟨_, headSent_beQueue _ n q k h rest⟩
    picked := headSent_picked _ n q k h rest
    decided := stepDecided_decided s n k
    vtime := headSent_vtime _ n q k h rest }

theorem routeReady_none (h : s.be.transit = []) : routeReady s = s := by
  have hbe : { s.be with transit := [] } = s.be := by rw [← h]
  unfold routeReady State.modBe
  dsimp only
  rw [h, List.filter_nil, List.filter_nil, List.foldl_nil, hbe]

/-! ### Refills (R390 to R392) -/

/-- Staged values come before the addition (R391). -/
theorem refill_eq (u : BeQueue) : u.refill = { u with
    shapeOn := u.shapeEn, rateNow := u.rate, burstNow := u.burst
    tokens := if u.shapeEn = true then min (u.tokens + u.rate.toNat) (u.burst.toNat * 256 : Nat) else u.tokens } := by
  unfold BeQueue.refill
  dsimp only
  split <;> rfl

theorem tokenRefill_early (h : s.now / nsUnits 1000 ≤ s.be.lastRefill) : tokenRefill s = s := if_neg (by omega)

theorem tokenRefill_due (h : s.be.lastRefill < s.now / nsUnits 1000) : tokenRefill s = s.modBe (fun b => { b with
    lastRefill := s.now / nsUnits 1000
    queues := b.queues.modifyAll BeQueue.reset b.queues.keys (fun _ u => u.refill)
    meters := b.meters.modifyAll Meter.reset b.meters.keys (fun _ m => m.refill) }) := if_pos h

end

/-! ### BE_DECISION -/

/-- What follows the decision of a lane: queues that woke in its BCLK take their tags anew, and received cells that are ready are
routed (Table 11.3). -/
def afterDecision (n : Nat) (w v : State) : State := routeReady ((w.wokenNow n).foldl (rewake n) v)

theorem exec_beDecision (n : Fin 64) (s : State) : exec (.beDecision n) s =
    .next (afterDecision n (tokenRefill s) (beDecideDue n (tokenRefill s) ((tokenRefill s).decisionStep n))) := rfl

/-- Settles O34: the body of BE_SEND, case by case in the order of R393, the choice of the queue with the smallest finish tag and
what its head's sending changes, and the refill. -/
theorem bestEffortCellsAreSentAndScheduled : Obligations.BestEffortCellsAreSentAndScheduled := by
  unfold Obligations.BestEffortCellsAreSentAndScheduled
  refine ⟨?send, ?decision, ?refill⟩
  case send =>
    intro s iss a haccepts u m b r named
    refine ⟨fun hlease hmask => answers_refused haccepts (beSendBody_masked hlease hmask) rfl, fun hnamed hfar => ?_⟩
    obtain ⟨hqueue, hcolour, hlen, hdst, hchip, hmask⟩ := hnamed
    have hsendable : Sendable u iss a := ⟨⟨hqueue, hcolour, hlen, hdst, hchip⟩, hmask, hfar⟩
    refine ⟨fun hroute => answers_refused haccepts (beSendBody_noRoute hsendable hroute) rfl, fun n hroute => ?_⟩
    have hbe : u.be = s.be := begun_be s 0x10 iss
    have hbody : beSendBody iss a u = u.sendRouted iss a n := beSendBody_routed hsendable hroute
    refine ⟨fun hred => ?red, fun hred hfull => ?full, fun hred hadmits => ?admitted⟩
    case red =>
      obtain ⟨x, y, z, hstay⟩ := stayLow_beRed (s := s) (iss := iss) (op := 0x10) m
      refine ⟨_, congrArg Host.Outcome.next (queueCommand_refused haccepts (hbody.trans (sendRouted_red hred)) rfl), ?_⟩
      rw [hstay]
      refine ⟨rfl, (congrArg BeState.queues hbe).symm, ?_⟩
      rw [meter_of_meters (congrArg BeState.meters hbe)]
      exact meter_modMeter_same s m _
    case full =>
      refine ⟨_, congrArg Host.Outcome.next (queueCommand_refused haccepts (hbody.trans (sendRouted_full hred hfull)) rfl), ?_⟩
      rw [stayLow_beDrop]
      refine ⟨rfl, ?_⟩
      rw [beQueue_of_queues (congrArg BeState.queues hbe)]
      exact beDrop_beQueue s n a.queue
    case admitted =>
      obtain ⟨meters, hmeters⟩ := beMetered_shape m r u
      have hqueued := enqueue_beQueue (s := beMetered m r u) (n := n) (q := a.queue) (u.sendCell iss a)
        (by rw [hmeters]; exact admits_weight hadmits)
      refine ⟨_, u.sendCell iss a,
        congrArg Host.Outcome.next (queueCommand_done haccepts (hbody.trans (sendRouted_admitted hred hadmits)) rfl),
        ?_, rfl, rfl, rfl, rfl, rfl, beCell_length _ _ _ _, ?_, fun hm => beMetered_meter hm⟩
      · exact congrArg State.useFree (enqueue_beMetered_scope (m := m) (r := r) (s := u) (u.sendCell iss a))
      · refine hqueued.trans ?_
        rw [hmeters, State.sendCell, beCell_length]
        rfl
  case decision =>
    intro s n w after
    refine ⟨fun hnone => ?idle, fun k q h rest hstep hcells hq helig hleast => ?sends, fun v htransit hwoken => ?nothing⟩
    case idle =>
      rw [exec_beDecision, show (tokenRefill s).decisionStep n = none from hnone]
      rfl
    case sends =>
      obtain ⟨hscope, ⟨f, hqueue⟩, hpicked, hdecided, hvtime⟩ := beDecide_headGoes (k := k) hcells hq helig hleast
      refine ⟨beDecide n k w, ?_, hscope, congrArg BeQueue.cells hqueue, congrArg BeQueue.sent hqueue,
        congrArg BeQueue.tokens hqueue, hpicked, hdecided, hvtime⟩
      rw [exec_beDecision, show (tokenRefill s).decisionStep n = some k from hstep]
      rfl
    case nothing =>
      show routeReady ((w.wokenNow n).foldl (rewake n) v) = v
      rw [hwoken]
      exact routeReady_none htransit
  case refill =>
    intro s us
    refine ⟨fun hearly => congrArg Host.Outcome.next (tokenRefill_early hearly), fun hdue =>
      ⟨_, congrArg Host.Outcome.next (tokenRefill_due hdue), rfl, rfl, ?_, rfl⟩⟩
    exact congrArg (s.be.queues.modifyAll BeQueue.reset s.be.queues.keys) (funext fun _ => funext refill_eq)

end Sys2Proof.Machine

namespace Sys2Proof.Machine
open Sys2Proof

/-! ### A step of the queue, and the lock of the mailboxes (R488) -/

/-- Settles O1: a step runs the command at the front of the queue on the rest of the queue. -/
theorem stepRunsFrontCommand : Obligations.StepRunsFrontCommand := by
  intro c rest s hpending
  unfold step
  rw [hpending]

/-- A tick of the clock root leaves the lock of the mailboxes as it was. -/
theorem rootTick_locked (s : State) : (rootTick s).host.locked = s.host.locked := by
  obtain ⟨c, hedge, -, -⟩ := cclkEdge_slow s.ticked
  have hlocked : (cclkEdge s.ticked).slow.locked = s.host.locked := congrArg Slow.locked hedge
  by_cases hheld : s.clk.pendingReset.isSome = true
  · rw [rootTick_held hheld]
  rw [Bool.not_eq_true, Option.isSome_eq_false_iff, Option.isNone_iff_eq_none] at hheld
  by_cases hb : (s.clock.tick + 1) % 2 = 0 ∧ s.clk.phase1Done = true
  · exact (congrArg Slow.locked (rootTick_bclk hheld hb.1 hb.2)).trans hlocked
  · rw [Decidable.not_and_iff_not_or_not, Nat.mod_two_not_eq_zero, Bool.not_eq_true] at hb
    exact (congrArg Slow.locked (rootTick_cclk hheld hb)).trans hlocked

/-- After the lock MB_BIND_n changes nothing. -/
theorem mbBindWrite_locked {s : State} (h : s.host.locked = true) (mid c : Nat) (v : Word) : mbBindWrite mid c v s = s :=
  if_pos (by simp [h])

/-- After the lock MB_LOCK changes nothing. -/
theorem mbLockWrite_locked {s : State} (h : s.host.locked = true) (mid : Nat) (v : Word) : mbLockWrite mid v s = s :=
  if_pos (by simp [h])

theorem onBus_same {f : State → State} {s : State} (h : f s = s) : onBus f s = s := by
  unfold onBus
  split
  · exact h
  · rfl

/-- Settles O54: a tick leaves the lock, and exec_moved says that a command leaves it or resets the chip. -/
theorem mailboxLockHolds : Obligations.MailboxLockHolds := by
  refine ⟨fun s t hinv hlocked hstep => ?step, fun s mid c v hlocked =>
    ⟨congrArg Host.Outcome.next (onBus_same (mbBindWrite_locked hlocked mid c v)),
      congrArg Host.Outcome.next (onBus_same (mbLockWrite_locked hlocked mid v))⟩⟩
  case step =>
    cases hpending : s.pending with
    | nil =>
      rw [step_idle hpending] at hstep
      cases hstep
      exact .inl ((rootTick_locked s).trans hlocked)
    | cons c rest =>
      rw [stepRunsFrontCommand c rest s hpending] at hstep
      obtain ⟨u, hexec, hmoved⟩ := exec_moved c { s with pending := rest }
      cases hexec.symm.trans hstep
      rcases hmoved.rest hinv with hfresh | ⟨-, hkeep, -⟩
      · exact .inr hfresh
      · exact .inl (hkeep hlocked)

end Sys2Proof.Machine

namespace Sys2Proof.Machine
open Sys2Proof

/-! ### Mailbox channels: what a read gives after a change (R488 to R490) -/

section
variable {s t u : State} {c d m i mid : Nat} {v : Word}

@[simp] theorem channel_modChannel (s : State) (c : Nat) (f : Channel → Channel) : (s.modChannel c f).channel c = f (s.channel c) :=
  Tab.get_modify_same _ _ _ _

theorem channel_modChannel_ne (s : State) (f : Channel → Channel) (h : d ≠ c) : (s.modChannel c f).channel d = s.channel d :=
  Tab.get_modify_other _ _ _ (Ne.symm h)

theorem modChannel_congr {f g : Channel → Channel} (h : f (s.channel c) = g (s.channel c)) : s.modChannel c f = s.modChannel c g :=
  congrArg (fun x => { s with host := { s.host with channels := s.host.channels.set Channel.reset c x } }) h

/-- Only channel `c`, the functions, the doorbells of the Dome and what leaves the package may have changed. -/
def OnlyChannel (c : Nat) (s t : State) : Prop :=
  t = { s with host := t.host, dome := t.dome, out := t.out } ∧ ∀ d, d ≠ c → t.channel d = s.channel d

theorem OnlyChannel.trans (h : OnlyChannel c s t) (g : OnlyChannel c t u) : OnlyChannel c s u :=
  ⟨by rw [g.1, h.1], fun d hd => (g.2 d hd).trans (h.2 d hd)⟩

theorem onlyChannel_modChannel (c : Nat) (f : Channel → Channel) (s : State) : OnlyChannel c s (s.modChannel c f) :=
  ⟨rfl, fun _ hd => channel_modChannel_ne s f hd⟩

/-- A doorbell of a function changes the functions and what leaves the package. -/
theorem ringFunc_funcs (n i : Nat) (s : State) : ∃ y z, ringFunc n i s = { s with host := { s.host with funcs := y }, out := z } := by
  unfold ringFunc sendVector
  dsimp only
  split
  · exact ⟨_, _, rfl⟩
  · split <;> exact ⟨_, _, rfl⟩

/-- A doorbell of a MID changes no channel. -/
theorem ringMid_shape (m i : Nat) (s : State) :
    ∃ x y z, ringMid m i s = { s with host := { s.host with funcs := x }, dome := y, out := z } := by
  unfold ringMid
  split
  · exact ⟨_, _, _, rfl⟩
  · obtain ⟨x, z, h⟩ := ringFunc_funcs (m - 1) i s
    exact ⟨x, _, z, h⟩

@[simp] theorem ringMid_channel (m i : Nat) (s : State) (c : Nat) : (ringMid m i s).channel c = s.channel c := by
  obtain ⟨x, y, z, h⟩ := ringMid_shape m i s
  rw [h]
  rfl

theorem onlyChannel_ringMid (c m i : Nat) (s : State) : OnlyChannel c s (ringMid m i s) := by
  obtain ⟨x, y, z, h⟩ := ringMid_shape m i s
  rw [h]
  exact ⟨rfl, fun _ _ => rfl⟩

/-- The doorbell bit of the MID is set. -/
theorem ringMid_rung (hi : i < 32) (m : Nat) (s : State) :
    (0 < m → ((ringMid m i s).func (m - 1)).dbStatus.getLsbD i = true) ∧ (m = 0 → (ringMid m i s).dome.dbStatus.getLsbD i = true) := by
  unfold ringMid
  refine ⟨fun hm => ?_, fun hm => ?_⟩
  · rw [if_neg (by omega), (ringFunc_status _ _ _).1]
    simp [hi]
  · rw [if_pos hm]
    exact ringDome_sets hi s

/-! ### Pushes -/

/-- A push on a full FIFO is dropped, sets OVERRUN and is kept for a pop of its BCLK. -/
theorem push_full (h : 32 ≤ (s.channel c).fifo.length) : push c v s = s.modChannel c (fun y => { y with
    overrun := true, late := y.late.filter (fun l => l.2.1 == s.bclkTick) ++ [(v, s.bclkTick, y.overrun)] }) := if_pos h

theorem push_space (h : (s.channel c).fifo.length < 32) : push c v s = ringMid (s.channel c).receiver.toNat 16
    (s.modChannel c (fun y => { y with fifo := y.fifo ++ [(v, s.bclkTick)] })) := if_neg (Nat.not_le.mpr h)

theorem push_channel (h : (s.channel c).fifo.length < 32) :
    (push c v s).channel c = { s.channel c with fifo := (s.channel c).fifo ++ [(v, s.bclkTick)] } := by
  rw [push_space h, ringMid_channel, channel_modChannel]

theorem push_only (c : Nat) (v : Word) (s : State) : OnlyChannel c s (push c v s) := by
  by_cases h : 32 ≤ (s.channel c).fifo.length
  · rw [push_full h]
    exact onlyChannel_modChannel _ _ _
  · rw [push_space (Nat.not_le.mp h)]
    exact (onlyChannel_modChannel _ _ _).trans (onlyChannel_ringMid _ _ _ _)

/-- A word for another receiver than the Dome belongs to no request. -/
theorem messageWord_other (h : (s.channel c).receives 0 = false) : messageWord c v s = s := if_pos (by rw [h]; rfl)

/-- A payload word of a request that is not its last. -/
theorem messageWord_payload (h : (s.channel c).receives 0 = true) (hleft : 1 < (s.channel c).left) :
    messageWord c v s = s.modChannel c (fun y => { y with left := (s.channel c).left - 1 }) := by
  unfold messageWord
  have hzero : (s.channel c).left ≠ 0 := by omega
  simp only [h, Bool.not_true, Bool.false_eq_true, if_false, hzero]
  rw [if_neg (by omega)]
  exact modChannel_congr rfl

/-- The header of a request with a payload. -/
theorem messageWord_header (h : (s.channel c).receives 0 = true) (hleft : (s.channel c).left = 0) (hcount : v.toNat % 65536 ≠ 0) :
    messageWord c v s = s.modChannel c (fun y => { y with head := v, left := v.toNat % 65536 }) := by
  have hfield : fieldW v 15 0 = v.toNat % 65536 := by simp [fieldW, field]
  unfold messageWord
  simp only [h, Bool.not_true, Bool.false_eq_true, if_false, hleft, if_true, hfield]
  exact if_neg hcount

/-! ### Writes of MB_TX, MB_CTRL, MB_BIND and MB_LOCK -/

theorem mbTxWrite_closed (h : (s.channel c).sends mid = false ∨ s.midOpen mid = false) : mbTxWrite mid c v s = s :=
  if_neg (by rcases h with h | h <;> simp [h])

theorem mbTxWrite_full (hsends : (s.channel c).sends mid = true) (hopen : s.midOpen mid = true) (h : 32 ≤ (s.channel c).fifo.length) :
    mbTxWrite mid c v s = push c v s := by
  unfold mbTxWrite
  rw [if_pos (by simp [hsends, hopen])]
  exact if_pos h

theorem mbTxWrite_space (hsends : (s.channel c).sends mid = true) (hopen : s.midOpen mid = true) (h : (s.channel c).fifo.length < 32) :
    mbTxWrite mid c v s = messageWord c v (push c v s) := by
  unfold mbTxWrite
  rw [if_pos (by simp [hsends, hopen])]
  exact if_neg (Nat.not_le.mpr h)

/-- A drain request on an empty FIFO is met: the sender's doorbell bit 17. -/
theorem settleDrain_met (hirq : (s.channel c).drainIrq = true) (hempty : (s.channel c).fifo = []) : settleDrain c s =
    ringMid (s.channel c).sender.toNat 17 (s.modChannel c (fun y => { y with drainIrq := false })) :=
  if_pos (by simp [hirq, hempty])

theorem settleDrain_not (h : (s.channel c).drainIrq = false ∨ (s.channel c).fifo ≠ []) : settleDrain c s = s :=
  if_neg (by rcases h with h | h <;> simp [h])

theorem settleDrain_only (c : Nat) (s : State) : OnlyChannel c s (settleDrain c s) ∧
    (settleDrain c s).channel c = { s.channel c with drainIrq := (s.channel c).drainIrq && !(s.channel c).fifo.isEmpty } := by
  by_cases h : (s.channel c).drainIrq = true ∧ (s.channel c).fifo = []
  · have hmet : ((s.channel c).drainIrq && !(s.channel c).fifo.isEmpty) = false := by simp [h.2]
    rw [settleDrain_met h.1 h.2, ringMid_channel, channel_modChannel, hmet]
    exact ⟨(onlyChannel_modChannel _ _ _).trans (onlyChannel_ringMid _ _ _ _), rfl⟩
  · rw [settleDrain_not (by rwa [Decidable.not_and_iff_not_or_not, Bool.not_eq_true] at h)]
    refine ⟨⟨rfl, fun _ _ => rfl⟩, ?_⟩
    have hsame : ((s.channel c).drainIrq && !(s.channel c).fifo.isEmpty) = (s.channel c).drainIrq := by
      cases hirq : (s.channel c).drainIrq <;> simp_all
    rw [hsame]

theorem mbCtrlWrite_closed {n : Nat} (h : (s.channel c).sends mid = false ∨ s.midOpen mid = false) : mbCtrlWrite mid c n s = s :=
  if_neg (by rcases h with h | h <;> simp [h])

theorem mbCtrlWrite_open {n : Nat} (hsends : (s.channel c).sends mid = true) (hopen : s.midOpen mid = true) : mbCtrlWrite mid c n s =
    settleDrain c (s.modChannel c (fun y => { y with overrun := y.overrun && !bitAt n 1, drainIrq := bitAt n 0 })) :=
  if_pos (by simp [hsends, hopen])

/-- MB_CTRL with DRAIN_IRQ on an empty FIFO raises the sender's doorbell bit 17 at once. -/
theorem mbCtrlWrite_drained {n : Nat} (hsends : (s.channel c).sends mid = true) (hopen : s.midOpen mid = true) (hirq : bitAt n 0 = true)
    (hempty : (s.channel c).fifo = []) :
    (0 < (s.channel c).sender.toNat → ((mbCtrlWrite mid c n s).func ((s.channel c).sender.toNat - 1)).dbStatus.getLsbD 17 = true) ∧
      ((s.channel c).sender.toNat = 0 → (mbCtrlWrite mid c n s).dome.dbStatus.getLsbD 17 = true) := by
  rw [mbCtrlWrite_open hsends hopen, settleDrain_met (by rw [channel_modChannel]; exact hirq) (by rw [channel_modChannel]; exact hempty)]
  rw [channel_modChannel]
  exact ringMid_rung (by decide) _ _

theorem mbBindWrite_closed (h : mid ≠ 0 ∨ s.host.locked = true) : mbBindWrite mid c v s = s :=
  if_pos (by rcases h with h | h <;> simp [h])

theorem mbLockWrite_closed (h : mid ≠ 0 ∨ s.host.locked = true) : mbLockWrite mid v s = s :=
  if_pos (by rcases h with h | h <;> simp [h])

theorem fieldW_sender (v : Word) : fieldW v 28 16 = (v.extractLsb' 16 13).toNat := by
  simp [fieldW, field, BitVec.extractLsb'_toNat, Nat.shiftRight_eq_div_pow]

theorem fieldW_receiver (v : Word) : fieldW v 12 0 = (v.extractLsb' 0 13).toNat := by
  simp [fieldW, field, BitVec.extractLsb'_toNat]

theorem mbLockWrite_unlocked (h : s.host.locked = false) :
    mbLockWrite 0 v s = { s with host := { s.host with locked := v.getLsbD 0 } } := by
  unfold mbLockWrite
  rw [if_neg (by simp [h]), bitW_getLsbD]

/-- VALID with a MID above 4096, or with two equal ones, has no effect. -/
theorem mbBindWrite_bad (hvalid : v.getLsbD 31 = true)
    (hbad : 4096 < (v.extractLsb' 16 13).toNat ∨ 4096 < (v.extractLsb' 0 13).toNat ∨ v.extractLsb' 16 13 = v.extractLsb' 0 13) :
    mbBindWrite mid c v s = s := by
  refine if_pos ?_
  simp only [fieldW_sender, fieldW_receiver, bitW_getLsbD, hvalid, Bool.or_eq_true, Bool.and_eq_true, decide_eq_true_eq, beq_iff_eq,
    BitVec.toNat_inj, true_and]
  exact .inr (or_assoc.mpr hbad)

theorem mbBindWrite_binds (hlocked : s.host.locked = false) (hgood : v.getLsbD 31 = false ∨
    (v.extractLsb' 16 13).toNat ≤ 4096 ∧ (v.extractLsb' 0 13).toNat ≤ 4096 ∧ v.extractLsb' 16 13 ≠ v.extractLsb' 0 13) :
    mbBindWrite 0 c v s = s.modChannel c (fun y => { y with
      valid := v.getLsbD 31, sender := v.extractLsb' 16 13, receiver := v.extractLsb' 0 13 }) := by
  unfold mbBindWrite
  dsimp only
  rw [if_neg]
  · rw [fieldW_sender, fieldW_receiver, bitW_getLsbD, BitVec.ofNat_toNat, BitVec.ofNat_toNat, BitVec.setWidth_eq, BitVec.setWidth_eq]
  · simp only [fieldW_sender, fieldW_receiver, bitW_getLsbD, hlocked, Bool.or_eq_true, Bool.and_eq_true, decide_eq_true_eq, beq_iff_eq,
      BitVec.toNat_inj]
    rcases hgood with h | ⟨ha, hb, hne⟩
    · simp only [h, Bool.false_eq_true, false_and, or_false, ne_eq, not_true, not_false_eq_true]
    · simp only [hne, or_false, ne_eq, not_true, false_or, Bool.false_eq_true]
      omega

/-! ### Reads of MB_RX -/

theorem mbRxRead_nothing (h : (s.channel c).fifo = [] ∨ (s.channel c).receives mid = false) : mbRxRead mid c s = s := by
  unfold mbRxRead
  dsimp only
  split
  · rename_i w n rest hfifo
    rcases h with h | h
    · rw [hfifo] at h
      cases h
    · exact if_neg (by simp [h])
  · rfl

variable {w : Word} {n : Nat} {rest : List (Word × Nat)}

/-- Before the second BCLK after its push the oldest word is not there yet. -/
theorem mbRxRead_early (hfifo : (s.channel c).fifo = (w, n) :: rest) (h : s.bclkTick < n + 2) :
    mbRxRead mid c s = s ∧ s.rxWord mid c = 0 := by
  have hnot : ¬ ((s.channel c).receives mid && decide (n + 2 ≤ s.bclkTick)) = true := by simp; intro; omega
  unfold mbRxRead State.rxWord
  simp only [hfifo]
  exact ⟨if_neg hnot, if_neg hnot⟩

theorem rxWord_ready (hfifo : (s.channel c).fifo = (w, n) :: rest) (hmid : (s.channel c).receives mid = true) (h : n + 2 ≤ s.bclkTick) :
    s.rxWord mid c = w := by
  unfold State.rxWord
  simp only [hfifo]
  exact if_pos (by simp [hmid, h])

theorem mbRxRead_ready (hfifo : (s.channel c).fifo = (w, n) :: rest) (hmid : (s.channel c).receives mid = true) (h : n + 2 ≤ s.bclkTick) :
    mbRxRead mid c s =
      let s1 := settleDrain c (s.modChannel c (Channel.popped s.bclkTick rest))
      match (s.channel c).entering s.bclkTick with
      | some v => messageWord c v s1
      | none => s1 := by
  unfold mbRxRead
  simp only [hfifo]
  exact if_pos (by simp [hmid, h])

/-- Without a push of the same BCLK that waits for the pop, the pop alone takes place. -/
theorem mbRxRead_pops (hfifo : (s.channel c).fifo = (w, n) :: rest) (hmid : (s.channel c).receives mid = true) (h : n + 2 ≤ s.bclkTick)
    (hlate : (s.channel c).late.filter (fun l => l.2.1 == s.bclkTick) = []) : OnlyChannel c s (mbRxRead mid c s) ∧
    (mbRxRead mid c s).channel c = { s.channel c with fifo := rest, drainIrq := (s.channel c).drainIrq && !rest.isEmpty } := by
  have hpop : mbRxRead mid c s = settleDrain c (s.modChannel c (Channel.popped s.bclkTick rest)) := by
    rw [mbRxRead_ready hfifo hmid h]
    simp only [Channel.entering, hlate, List.head?_nil, Option.map_none]
  have hpopped : (s.channel c).popped s.bclkTick rest = { s.channel c with fifo := rest } := by
    unfold Channel.popped
    rw [hlate]
  obtain ⟨honly, hchannel⟩ := settleDrain_only c (s.modChannel c (Channel.popped s.bclkTick rest))
  rw [hpop, hchannel, channel_modChannel, hpopped]
  exact ⟨(onlyChannel_modChannel _ _ _).trans honly, rfl⟩

/-- A push of the same BCLK takes the place that the pop makes. -/
theorem mbRxRead_enters {v : Word} {a : Nat} {was : Bool} {more : List (Word × Nat × Bool)} (hfifo : (s.channel c).fifo = (w, n) :: rest)
    (hmid : (s.channel c).receives mid = true) (h : n + 2 ≤ s.bclkTick)
    (hlate : (s.channel c).late.filter (fun l => l.2.1 == s.bclkTick) = (v, a, was) :: more) (hdome : (s.channel c).receives 0 = false) :
    mbRxRead mid c s = s.modChannel c (fun x => { x with
      fifo := rest ++ [(v, s.bclkTick)], late := more, overrun := if more = [] then was else x.overrun }) := by
  have hpopped : (s.channel c).popped s.bclkTick rest = { s.channel c with
      fifo := rest ++ [(v, s.bclkTick)], late := more, overrun := if more = [] then was else (s.channel c).overrun } := by
    unfold Channel.popped
    rw [hlate]
    simp only [List.isEmpty_iff]
  have hsettled : settleDrain c (s.modChannel c (Channel.popped s.bclkTick rest)) = s.modChannel c (Channel.popped s.bclkTick rest) :=
    settleDrain_not (.inr (by rw [channel_modChannel, hpopped]; simp))
  rw [mbRxRead_ready hfifo hmid h, hsettled]
  simp only [Channel.entering, hlate, List.head?_cons, Option.map_some]
  rw [messageWord_other (by rw [channel_modChannel, hpopped]; exact hdome)]
  exact modChannel_congr hpopped

end

/-- Settles O40: the rules of the mailbox channels, one for each case of a write or a read. -/
theorem mailboxChannelsPassWords : Obligations.MailboxChannelsPassWords := by
  refine ⟨?writes, ?reads, ?binds⟩
  case writes =>
    intro s mid c v hreach x b
    have exec_tx : exec (.mbTxWrite mid c v) s = .next (mbTxWrite mid c v s) := congrArg Host.Outcome.next (onBus_reachable hreach)
    have exec_ctrl : exec (.mbCtrlWrite mid c v) s = .next (mbCtrlWrite mid c v.toNat s) :=
      congrArg Host.Outcome.next (onBus_reachable hreach)
    rw [exec_tx, exec_ctrl]
    refine ⟨fun h => ⟨by rw [mbTxWrite_closed h], by rw [mbCtrlWrite_closed h]⟩, fun hsends hopen => ⟨fun hfull => ?full, fun hspace => ?space, ?ctrl⟩⟩
    case full =>
      rw [mbTxWrite_full hsends hopen hfull, push_full hfull]
      exact ⟨_, rfl, rfl, channel_modChannel _ _ _⟩
    case space =>
      obtain ⟨hscope, hothers⟩ := push_only c v s
      have hchannel : (push c v s).channel c = { x with fifo := x.fifo ++ [(v, b)] } := push_channel hspace
      refine ⟨push c v s, by rw [mbTxWrite_space hsends hopen hspace], hscope, hchannel, hothers, fun h => ?_, fun h hleft => ?_, fun h hleft hcount => ?_⟩
      · exact messageWord_other (by rw [hchannel]; exact h)
      · rw [messageWord_payload (by rw [hchannel]; exact h) (by rw [hchannel]; exact hleft), hchannel]
      · exact messageWord_header (by rw [hchannel]; exact h) (by rw [hchannel]; exact hleft) hcount
    case ctrl =>
      have hwrite := mbCtrlWrite_open (n := v.toNat) hsends hopen
      obtain ⟨honly, hchannel⟩ := settleDrain_only c (s.modChannel c (fun y => { y with
        overrun := y.overrun && !bitAt v.toNat 1, drainIrq := bitAt v.toNat 0 }))
      rw [← hwrite] at honly hchannel
      refine ⟨_, rfl, ((onlyChannel_modChannel _ _ _).trans honly).1, ?_,
        fun hirq hempty hsender => (mbCtrlWrite_drained hsends hopen hirq hempty).1 hsender,
        fun hirq hempty hsender => (mbCtrlWrite_drained hsends hopen hirq hempty).2 hsender⟩
      rw [hchannel, channel_modChannel]
  case reads =>
    intro s mid c hreach x b
    have exec_rx : exec (.mbRxRead mid c) s = .next (mbRxRead mid c s) := congrArg Host.Outcome.next (onBus_reachable hreach)
    rw [exec_rx]
    refine ⟨fun h => by rw [mbRxRead_nothing h], fun v t rest hfifo hmid => ⟨fun hearly => ?early, fun hready => ⟨rxWord_ready hfifo hmid hready,
      fun hlate => ?pops, fun w a was more hlate hdome => ?enters⟩⟩⟩
    case early =>
      obtain ⟨hread, hword⟩ := mbRxRead_early (mid := mid) hfifo hearly
      exact ⟨by rw [hread], hword⟩
    case pops =>
      obtain ⟨⟨hscope, hothers⟩, hchannel⟩ := mbRxRead_pops hfifo hmid hready hlate
      exact ⟨_, rfl, hscope, hchannel, hothers⟩
    case enters =>
      rw [mbRxRead_enters hfifo hmid hready hlate hdome]
      exact ⟨_, rfl, rfl, channel_modChannel _ _ _, fun d hd => channel_modChannel_ne s _ hd⟩
  case binds =>
    intro s mid c v hreach a b
    have exec_bind (m : Nat) : exec (.mbBindWrite m c v) s = .next (mbBindWrite m c v s) := congrArg Host.Outcome.next (onBus_reachable hreach)
    have exec_lock (m : Nat) : exec (.mbLockWrite m v) s = .next (mbLockWrite m v s) := congrArg Host.Outcome.next (onBus_reachable hreach)
    rw [exec_bind, exec_bind, exec_lock, exec_lock]
    refine ⟨fun h => ⟨by rw [mbBindWrite_closed h], by rw [mbLockWrite_closed h]⟩, fun hlocked => ⟨by rw [mbLockWrite_unlocked hlocked],
      fun hvalid hbad => by rw [mbBindWrite_bad hvalid hbad], fun hgood => ?_⟩⟩
    rw [mbBindWrite_binds hlocked hgood]
    exact ⟨_, rfl, rfl, channel_modChannel _ _ _, fun d hd => channel_modChannel_ne s _ hd⟩

end Sys2Proof.Machine

namespace Sys2Proof.Machine
open Sys2Proof

/-! ### SPDM: requests that are answered (R553, R554, R565) -/

section
variable {s : State} {id n : Nat} {common : Bool} {f : State → State}

theorem spdmRequest_works (h : s.domeWorks = true) : spdmRequest f s = f (ringDome 9 s) := if_pos h

theorem spdmRequest_idle (h : s.domeWorks = false) : spdmRequest f s = s := if_neg (by simp [h])

/-- What the responder has answered: doorbell bit 9 is set, its reply is sent, and its state is `q`. -/
def State.spdmAnswered (s : State) (r : SpdmReply) (q : SpdmState) : State := spdmReply r ((ringDome 9 s).modSpdm (fun _ => q))

/-- A request that does not need agreed algorithms. -/
theorem spdmRequest_answers {r : SpdmReply} {q : SpdmState} (h : s.domeWorks = true)
    (hf : f (ringDome 9 s) = spdmReply r ((ringDome 9 s).modSpdm (fun _ => q))) : spdmRequest f s = s.spdmAnswered r q :=
  (spdmRequest_works h).trans hf

/-- Without agreed algorithms a request that needs them is out of order. -/
theorem spdmAgreed_early (h : s.domeWorks = true) (halgs : s.dome.spdm.algs = false) :
    spdmAgreed f s = s.spdmAnswered .errorUnexpected s.dome.spdm :=
  spdmRequest_answers h (if_neg (by rw [show (ringDome 9 s).dome.spdm.algs = false from halgs]; decide))

theorem spdmAgreed_ready (h : s.domeWorks = true) (halgs : s.dome.spdm.algs = true) : spdmAgreed f s = f (ringDome 9 s) :=
  (spdmRequest_works h).trans (if_pos halgs)

theorem spdmAgreed_answers {r : SpdmReply} {q : SpdmState} (h : s.domeWorks = true) (halgs : s.dome.spdm.algs = true)
    (hf : f (ringDome 9 s) = spdmReply r ((ringDome 9 s).modSpdm (fun _ => q))) : spdmAgreed f s = s.spdmAnswered r q :=
  (spdmAgreed_ready h halgs).trans hf

theorem withIdentity_with (h : s.dome.identityOk = true) : withIdentity f s = f s := if_pos h

theorem withIdentity_without (h : s.dome.identityOk = false) : withIdentity f s = spdmReply .errorUnspecified s := if_neg (by simp [h])

/-- Without an identity what needs its key is answered with ERROR (Unspecified) (R548). -/
theorem spdmAgreed_noIdentity (h : s.domeWorks = true) (halgs : s.dome.spdm.algs = true) (hid : s.dome.identityOk = false) :
    spdmAgreed (withIdentity f) s = s.spdmAnswered .errorUnspecified s.dome.spdm :=
  spdmAgreed_answers h halgs (withIdentity_without (s := ringDome 9 s) hid)

theorem spdmAgreed_identity {r : SpdmReply} {q : SpdmState} (h : s.domeWorks = true) (halgs : s.dome.spdm.algs = true)
    (hid : s.dome.identityOk = true) (hf : f (ringDome 9 s) = spdmReply r ((ringDome 9 s).modSpdm (fun _ => q))) :
    spdmAgreed (withIdentity f) s = s.spdmAnswered r q :=
  spdmAgreed_answers h halgs ((withIdentity_with (s := ringDome 9 s) hid).trans hf)

/-! #### The order of the requests -/

theorem spdmCapabilities_ordered (h : s.dome.spdm.version = true) :
    spdmCapabilities s = spdmReply .capabilities (s.modSpdm (fun x => { x with caps := true })) := if_pos h

theorem spdmCapabilities_early (h : s.dome.spdm.version = false) : spdmCapabilities s = spdmReply .errorUnexpected s :=
  if_neg (by simp [h])

theorem spdmNegotiate_early (h : s.dome.spdm.caps = false) : spdmNegotiate common s = spdmReply .errorUnexpected s :=
  if_pos (by simp [h])

theorem spdmNegotiate_common (h : s.dome.spdm.caps = true) :
    spdmNegotiate true s = spdmReply .algorithms (s.modSpdm (fun x => { x with algs := true })) := by
  unfold spdmNegotiate
  rw [h]
  rfl

theorem spdmNegotiate_none (h : s.dome.spdm.caps = true) : spdmNegotiate false s = spdmReply .errorUnsupported s := by
  unfold spdmNegotiate
  rw [h]
  rfl

/-! #### Sessions -/

theorem keyExchange_limit (h : 8 ≤ s.dome.spdm.sessions.length) : keyExchange id s = spdmReply .errorSessionLimit s := if_pos h

theorem keyExchange_used (hroom : s.dome.spdm.sessions.length < 8) (h : id ∈ s.dome.spdm.sessions.map (fun x => x.id)) :
    keyExchange id s = spdmReply .errorInvalidSession s :=
  (if_neg (Nat.not_le.mpr hroom)).trans (if_pos (by simpa using h))

theorem keyExchange_new (hroom : s.dome.spdm.sessions.length < 8) (h : id ∉ s.dome.spdm.sessions.map (fun x => x.id)) :
    keyExchange id s = spdmReply (.keyExchange id) (s.modSpdm (fun x => { x with sessions := x.sessions ++ [⟨id, false⟩] })) :=
  (if_neg (Nat.not_le.mpr hroom)).trans (if_neg (by simpa using h))

theorem finishSession_pending (h : ∃ x ∈ s.dome.spdm.sessions, x.id = id ∧ x.open_ = false) :
    finishSession id s = spdmReply .finish (s.modSpdm (fun y => { y with
      sessions := y.sessions.map (fun x => if x.id = id then { x with open_ := true } else x) })) :=
  if_pos (by simpa using h)

theorem finishSession_none (h : ∀ x ∈ s.dome.spdm.sessions, x.id = id → x.open_ = true) :
    finishSession id s = spdmReply .errorInvalidSession s :=
  if_neg (by simpa using h)

theorem inSession_opened (h : ∃ x ∈ s.dome.spdm.sessions, x.id = id ∧ x.open_ = true) : inSession id f s = f s :=
  if_pos (by simpa using h)

theorem inSession_closed (h : ¬ ∃ x ∈ s.dome.spdm.sessions, x.id = id ∧ x.open_ = true) :
    inSession id f s = spdmReply .errorInvalidSession s :=
  if_neg (by simpa using h)

/-- Outside an open session a request of a session is refused. -/
theorem spdmRequest_closed (h : s.domeWorks = true) (hclosed : ¬ ∃ x ∈ s.dome.spdm.sessions, x.id = id ∧ x.open_ = true) :
    spdmRequest (inSession id f) s = s.spdmAnswered .errorInvalidSession s.dome.spdm :=
  spdmRequest_answers h (inSession_closed (s := ringDome 9 s) hclosed)

theorem spdmRequest_inSession (h : s.domeWorks = true) (hopen : ∃ x ∈ s.dome.spdm.sessions, x.id = id ∧ x.open_ = true) :
    spdmRequest (inSession id f) s = f (ringDome 9 s) :=
  (spdmRequest_works h).trans (inSession_opened (s := ringDome 9 s) hopen)

/-! #### IDE_KM messages -/

theorem vendorRequest_keep (h : n ∈ s.host.secure) : vendorRequest (.ideKeyProgram n) s = spdmReply .vendorDefined s := by
  unfold vendorRequest
  simp only [List.contains_iff_mem, h, if_true]

theorem vendorRequest_program (h : n ∉ s.host.secure) : vendorRequest (.ideKeyProgram n) s =
    spdmReply .vendorDefined { s with host := { s.host with secure := s.host.secure ++ [n] } } := by
  unfold vendorRequest
  simp only [List.contains_iff_mem, h, if_false]

theorem ideCheckFailure_insecure (h : n ∉ s.host.secure) : ideCheckFailure n s = s := if_neg (by simpa using h)

theorem ideCheckFailure_secure (h : n ∈ s.host.secure) : ideCheckFailure n s = streamInsecure n s := if_pos (by simpa using h)

end

/-- Settles O46: a rule for each SPDM request, in order, out of order, with and without an identity or an open session. -/
theorem spdmRequestsAreAnswered : Obligations.SpdmRequestsAreAnswered := by
  refine ⟨fun s common signed id m hidle => ?idle, fun s common signed id m hworks => ?works⟩
  case idle =>
    have hnone (f : State → State) : Host.Outcome.next (spdmRequest f s) = (.next s : Host.Outcome State Fault Refusal) :=
      congrArg Host.Outcome.next (spdmRequest_idle hidle)
    exact ⟨hnone _, hnone _, hnone _, hnone _, hnone _, hnone _, hnone _, hnone _, hnone _, hnone _, hnone _, hnone _, hnone _⟩
  case works =>
    intro p rung at_ answer ids opened d b flag
    have hanswer (r : SpdmReply) (q : SpdmState) : answer r q = s.spdmAnswered r q := rfl
    simp only [hanswer]
    have hnext {t u : State} (h : t = u) : Host.Outcome.next t = (.next u : Host.Outcome State Fault Refusal) := congrArg _ h
    refine ⟨hnext (spdmRequest_works hworks), fun h => hnext (spdmRequest_answers hworks (spdmCapabilities_ordered h)),
      fun h => hnext (spdmRequest_answers hworks (spdmCapabilities_early h)), fun hcaps hcommon => ?common, fun hcaps hcommon => ?none,
      fun h => hnext (spdmRequest_answers hworks (spdmNegotiate_early h)), fun h => ?early, fun h => ?agreed,
      fun h => hnext (spdmRequest_answers hworks (finishSession_pending h)), fun h => hnext (spdmRequest_answers hworks (finishSession_none h)),
      fun h => ?closed, fun h => ?opened⟩
    case common =>
      subst hcommon
      exact hnext (spdmRequest_answers hworks (spdmNegotiate_common hcaps))
    case none =>
      subst hcommon
      exact hnext (spdmRequest_answers hworks (spdmNegotiate_none hcaps))
    case early =>
      have hearly {f : State → State} := hnext (spdmAgreed_early (f := f) hworks h)
      exact ⟨hearly, hearly, hearly, hearly, hearly⟩
    case agreed =>
      refine ⟨hnext (spdmAgreed_ready hworks h), hnext (spdmAgreed_ready hworks h), fun hid => ?noIdentity, fun hsigned => ?measured, fun hid => ?identity⟩
      case noIdentity =>
        have hnone {f : State → State} := hnext (spdmAgreed_noIdentity (f := f) hworks h hid)
        exact ⟨hnone, hnone, hnone⟩
      case measured =>
        cases signed with
        | false => exact hnext (spdmAgreed_ready hworks h)
        | true => exact hnext (spdmAgreed_identity hworks h (hsigned.resolve_left Bool.noConfusion) rfl)
      case identity =>
        exact ⟨hnext (spdmAgreed_identity hworks h hid rfl),
          fun hfull => hnext (spdmAgreed_identity hworks h hid (keyExchange_limit (s := ringDome 9 s) hfull)),
          fun hroom hused => hnext (spdmAgreed_identity hworks h hid (keyExchange_used (s := ringDome 9 s) hroom hused)),
          fun hroom hnew => hnext (spdmAgreed_identity hworks h hid (keyExchange_new (s := ringDome 9 s) hroom hnew))⟩
    case closed =>
      have hclosed {f : State → State} := hnext (spdmRequest_closed (f := f) hworks h)
      exact ⟨hclosed, hclosed, hclosed, hclosed⟩
    case opened =>
      have hopen {f : State → State} := spdmRequest_inSession (f := f) hworks h
      refine ⟨hnext hopen, hnext hopen, hnext hopen, hnext hopen, hnext hopen, fun n => ⟨fun hsecure => ?keep, fun hinsecure => ?program,
        fun hinsecure => ?insecure, fun hsecure => ⟨ideCheckFailure n (ringDome 9 s), rfl, hnext hopen⟩⟩⟩
      case keep => exact hnext (hopen.trans (vendorRequest_keep (s := ringDome 9 s) hsecure))
      case program => exact hnext (hopen.trans (vendorRequest_program (s := ringDome 9 s) hinsecure))
      case insecure => exact hnext (hopen.trans (congrArg (spdmReply .vendorDefined) (ideCheckFailure_insecure (s := ringDome 9 s) hinsecure)))

end Sys2Proof.Machine

namespace Sys2Proof.Machine
open Sys2Proof

/-! ### TDISP messages and IDE streams (R481 to R485) -/

section
variable {s : State} {n stream : Nat} {f : State → State}

theorem tdispRequest_works (h : s.domeWorks = true) : tdispRequest f s = f s := if_pos h

theorem tdispRequest_idle (h : s.domeWorks = false) : tdispRequest f s = s := if_neg (by simp [h])

theorem isTdi_fin (i : Fin 4096) : isTdi i.val = decide (i.val ≠ 0) := by
  unfold isTdi
  rw [decide_eq_decide]
  omega

theorem lockInterface_locks (hn : isTdi n = true) (h : (s.leaseOf n).tdi = .unlocked) (hid : s.dome.identityOk = true) :
    lockInterface n stream s = tdispReply n true [] { s.modLease n (fun x => { x with tdi := .locked }) with
      host := { s.host with ideBound := s.host.ideBound.set 0 n (stream + 1) } } :=
  if_pos (by simp [hn, h, hid])

theorem lockInterface_refused (h : isTdi n = false ∨ (s.leaseOf n).tdi ≠ .unlocked ∨ s.dome.identityOk = false) :
    lockInterface n stream s = tdispReply n false [] s :=
  if_neg (by rcases h with h | h | h <;> simp [h])

theorem startInterface_starts (hn : isTdi n = true) (h : (s.leaseOf n).tdi = .locked) :
    startInterface n s = tdispReply n true [] (s.modLease n (fun x => { x with tdi := .run })) :=
  if_pos (by simp [hn, h])

theorem startInterface_refused (h : isTdi n = false ∨ (s.leaseOf n).tdi ≠ .locked) : startInterface n s = tdispReply n false [] s :=
  if_neg (by rcases h with h | h <;> simp [h])

/-- STOP_INTERFACE is the lease reset of an interface that is CONFIG_UNLOCKED. -/
theorem stopInterface_resets (hn : isTdi n = true) : stopInterface n s =
    let t := startLeaseReset n (s.modLease n (fun x => { x with tdi := .unlocked }))
    tdispReply n true [] { t with host := { t.host with ideBound := t.host.ideBound.set 0 n 0 } } := if_pos hn

theorem stopInterface_refused (hn : isTdi n = false) : stopInterface n s = tdispReply n false [] s := if_neg (by simp [hn])

theorem leaseReset_flr (hn : n ≠ 0) : leaseReset n true s = startLeaseReset n s := by
  unfold leaseReset
  rw [if_neg hn, if_pos rfl]

/-- An interface of a lease without jobs enters ERROR: its state, and doorbell bit 31. -/
theorem tdiError_noJobs (hn : isTdi n = true) (h : (s.leaseOf n).tdi ≠ .error) (hjobs : ∀ j ∈ s.dsp.queue ++ s.dsp.running, j.lease ≠ n) :
    tdiError n s = ringFunc n 31 (s.modLease n (fun x => { x with tdi := .error })) := by
  have hqueue : ∀ j ∈ s.dsp.queue, j.lease ≠ n := fun j hj => hjobs j (List.mem_append_left _ hj)
  have hrunning : ∀ j ∈ s.dsp.running, j.lease ≠ n := fun j hj => hjobs j (List.mem_append_right _ hj)
  have hdsp : (ringFunc n 31 (s.modLease n (fun x => { x with tdi := .error }))).dsp = s.dsp := by
    obtain ⟨y, z, hring⟩ := ringFunc_shape n 31 (s.modLease n (fun x => { x with tdi := .error }))
    rw [hring]
    rfl
  unfold tdiError
  rw [if_neg (by simp [hn, h])]
  generalize ringFunc n 31 (s.modLease n (fun x => { x with tdi := .error })) = u at hdsp
  rw [← hdsp] at hqueue hrunning
  have hnone : u.dsp.queue.filter (fun j => j.lease == n) = [] := by simpa using hqueue
  have hrun : u.dsp.running.filter (fun j => j.lease == n) = [] := by simpa using hrunning
  have hsame : u.modDsp (fun d => { d with queue := d.queue.filter (fun j => j.lease != n) }) = u := by
    have hall : u.dsp.queue.filter (fun j => j.lease != n) = u.dsp.queue := by simpa using hqueue
    unfold State.modDsp
    dsimp only
    rw [hall]
  simp only [hnone, hsame, List.foldl_nil, hrun]

theorem streamInsecure_unbound (h : ((s.host.ideBound.entries.filter (fun p => p.2 == stream + 1)).map (·.1)).filter
      (fun n => s.confidential n) = []) :
    streamInsecure stream s = { s with host := { s.host with secure := s.host.secure.filter (· != stream) } } := by
  unfold streamInsecure
  simp only [h, List.foldl_nil]

theorem streamInsecure_bound (h : ((s.host.ideBound.entries.filter (fun p => p.2 == stream + 1)).map (·.1)).filter
      (fun n => s.confidential n) = [n]) :
    streamInsecure stream s = tdiError n { s with host := { s.host with secure := s.host.secure.filter (· != stream) } } := by
  unfold streamInsecure
  simp only [h, List.foldl_cons, List.foldl_nil]

end

/-- Settles O42: a rule for each TDISP message, and for a stream that leaves the secure state with one interface bound to it, or none. -/
theorem interfacesLockRunAndStop : Obligations.InterfacesLockRunAndStop := by
  have hnext {t u : State} (h : t = u) : Host.Outcome.next t = (.next u : Host.Outcome State Fault Refusal) := congrArg _ h
  refine ⟨fun s i stream => ?messages, fun s stream => ?streams⟩
  case messages =>
    intro n answer
    have htdi : isTdi n = decide (n ≠ 0) := isTdi_fin i
    have hon (hn : n ≠ 0) : isTdi n = true := by simp [htdi, hn]
    have hoff (hn : n = 0) : isTdi n = false := by rw [htdi, hn]; rfl
    refine ⟨fun hidle => ?idle, fun hworks => ?works⟩
    case idle =>
      have hnone (f : State → State) := hnext (tdispRequest_idle (f := f) hidle)
      intro c hc
      simp only [List.mem_cons, List.not_mem_nil, or_false] at hc
      rcases hc with rfl | rfl | rfl | rfl | rfl | rfl | rfl <;> exact hnone _
    case works =>
      have hdone {f : State → State} : Host.Outcome.next (tdispRequest f s) = (.next (f s) : Host.Outcome State Fault Refusal) :=
        hnext (tdispRequest_works hworks)
      have hreply (l : List Nat) : tdispReply n (isTdi n) l s = answer (decide (n ≠ 0)) l := by rw [htdi]; rfl
      have hrefuse {f : State → State} (h : f s = tdispReply n false [] s) :
          Host.Outcome.next (tdispRequest f s) = (.next (answer false []) : Host.Outcome State Fault Refusal) := hdone.trans (hnext h)
      refine ⟨hdone.trans (hnext (hreply _)), hdone.trans (hnext (hreply _)), hdone.trans (hnext (hreply _)), ?state,
        fun hn h hid => ?lock, fun h => hrefuse (lockInterface_refused (h.imp_left hoff)), fun hn h => ?start,
        fun h => hrefuse (startInterface_refused (h.imp_left hoff)), fun hn => ?stop, fun hn => hrefuse (stopInterface_refused (hoff hn))⟩
      case state =>
        refine hdone.trans (hnext ?_)
        rw [hreply]
        generalize (s.leaseOf n).tdi = x
        cases x <;> rfl
      case lock =>
        refine ⟨_, hdone.trans (hnext (lockInterface_locks (hon hn) h hid)), rfl, ?_, fun m hm => ?_, rfl⟩
        · exact leaseOf_modLease s n _
        · exact leaseOf_modLease_ne s _ hm
      case start =>
        refine ⟨_, hdone.trans (hnext (startInterface_starts (hon hn) h)), rfl, ?_, fun m hm => ?_⟩
        · exact leaseOf_modLease s n _
        · exact leaseOf_modLease_ne s _ hm
      case stop =>
        exact ⟨s.modLease n (fun x => { x with tdi := .unlocked }), _, hnext (leaseReset_flr hn), rfl, leaseOf_modLease s n _,
          fun m hm => leaseOf_modLease_ne s _ hm, hdone.trans (hnext (stopInterface_resets (hon hn)))⟩
  case streams =>
    intro bound
    refine ⟨fun hinsecure => hnext (ideCheckFailure_insecure hinsecure),
      fun hsecure hbound => hnext ((ideCheckFailure_secure hsecure).trans (streamInsecure_unbound hbound)),
      fun n hsecure hbound hpos hmax htdi hjobs => ?entersError⟩
    case entersError =>
      let u : State := { s with host := { s.host with secure := s.host.secure.filter (· != stream) } }
      have herror : ideCheckFailure stream s = ringFunc n 31 (u.modLease n (fun x => { x with tdi := .error })) := by
        rw [ideCheckFailure_secure hsecure, streamInsecure_bound hbound]
        exact tdiError_noJobs (s := u) (by simp [isTdi, hpos, hmax]) htdi hjobs
      have hstatus := (ringFunc_status n 31 (u.modLease n (fun x => { x with tdi := .error }))).1
      obtain ⟨y, z, hring⟩ := ringFunc_funcs n 31 (u.modLease n (fun x => { x with tdi := .error }))
      refine ⟨_, hnext herror, ?_, ?_, hstatus, ?_⟩
      · rw [hring]
        rfl
      · rw [hring]
        exact leaseOf_modLease s n (fun x => { x with tdi := .error })
      · rw [hring]
        rfl

end Sys2Proof.Machine

namespace Sys2Proof.Machine
open Sys2Proof

/-! ### CXL.mem: the requests of an access and where they go (R259, R468, R469) -/

section
variable {s : State} {x : HbmStack} {q : OpenReq} {r : CxlReq} {h n : Nat}

/-- The length of an access. -/
def CxlReq.len : CxlReq → Nat
  | .read _ _ l => l
  | .write _ _ d _ => d.length

/-- An access that a stack cannot perform is answered with poison or a drop. -/
def CxlReq.denial : CxlReq → Out
  | .read tag _ len => .cxlData tag (List.replicate len 0) true
  | .write tag _ _ _ => .cxlAck tag true

/-- An access within one beat is one request. -/
theorem CxlReq.parts_one (hlen : 1 ≤ r.len) (hbeat : r.addr % 1024 + r.len ≤ 1024) : r.parts = [r] := by
  have hcount : (r.len + r.addr % 1024 + 1023) / 1024 = 1 := by omega
  cases r with
  | read t a l =>
    simp only [CxlReq.len, CxlReq.addr] at hcount hlen hbeat
    have hlo : max a ((a / 1024 + 0) * 1024) = a := by omega
    have hhi : min (a + l) ((a / 1024 + 0 + 1) * 1024) - a = l := by omega
    simp only [CxlReq.parts, hcount, List.range_one, List.map_cons, List.map_nil, hlo, hhi]
  | write t a d p =>
    simp only [CxlReq.len, CxlReq.addr] at hcount hlen hbeat
    have hlo : max a ((a / 1024 + 0) * 1024) = a := by omega
    have htake : d.take ((a / 1024 + 0 + 1) * 1024 - a) = d := List.take_of_length_le (by omega)
    simp only [CxlReq.parts, hcount, List.range_one, List.map_cons, List.map_nil, hlo, Nat.sub_self, List.drop_zero, htake]

/-- A read that crosses into the next beat is two requests, in order of address. -/
theorem CxlReq.parts_two {t a l : Nat} (hcross : 1024 < a % 1024 + l) (hend : a % 1024 + l ≤ 2048) : (CxlReq.read t a l).parts =
    [.read t a (1024 - a % 1024), .read t (a + (1024 - a % 1024)) (l - (1024 - a % 1024))] := by
  have hcount : (l + a % 1024 + 1023) / 1024 = 2 := by omega
  have hrange : List.range 2 = [0, 1] := rfl
  have hbeat := Nat.div_add_mod a 1024
  have hoff : a % 1024 < 1024 := Nat.mod_lt _ (by decide)
  simp only [CxlReq.parts, hcount, hrange, List.map_cons, List.map_nil]
  generalize a / 1024 = b, a % 1024 = o at *
  obtain ⟨hlo0, hhi0, hlo1, hhi1⟩ : max a ((b + 0) * 1024) = a ∧ min (a + l) ((b + 0 + 1) * 1024) - a = 1024 - o ∧
      max a ((b + 1) * 1024) = a + (1024 - o) ∧ min (a + l) ((b + 1 + 1) * 1024) - (a + (1024 - o)) = l - (1024 - o) :=
    ⟨by omega, by omega, by omega, by omega⟩
  rw [hlo0, hhi0, hlo1, hhi1]

/-! #### Waiting requests enter a queue (R260) -/

/-- With no room for any request that waits, none enters. -/
theorem takeIn_full (hroom : x.waiting.any (fun r => x.roomFor r.op) = false) : x.takeIn = x := by
  have hnone : x.waiting.filter (fun r => x.roomFor r.op) = [] := by simpa using hroom
  unfold HbmStack.takeIn
  rw [show queueMax = 63 + 1 from rfl, HbmStack.fill, hnone]
  rfl

/-- The one request that waits enters a queue with room for it. -/
theorem takeIn_one (hwaiting : x.waiting = [q]) (hroom : x.roomFor q.op = true) :
    x.takeIn = { x with queue := x.queue ++ [q], waiting := [] } := by
  have hone : x.waiting.filter (fun r => x.roomFor r.op) = [q] := by simp [hwaiting, hroom]
  unfold HbmStack.takeIn
  rw [show queueMax = 63 + 1 from rfl, HbmStack.fill, hone]
  show HbmStack.fill { x with queue := x.queue ++ [q], waiting := x.waiting.erase q } 63 = _
  rw [hwaiting, List.erase_cons_head]
  exact fill_nothing rfl _

/-! #### One request -/

theorem accessStack_ready (htier : (s.tile n).tier = .hbm) (hstate : (s.tile n).state = .ready) :
    s.accessStack n = some (s.tile n).stack.toNat := by
  unfold State.accessStack
  simp [htier, hstate]

theorem accessStack_none (h : (s.tile n).tier ≠ .hbm ∧ (s.tile n).state ≠ .moving ∨ (s.tile n).state = .free ∨ (s.tile n).state = .lost) :
    s.accessStack n = none := by
  unfold State.accessStack
  rcases h with ⟨htier, hstate⟩ | hstate | hstate
  · simp [htier, hstate]
  · simp [hstate]
  · simp [hstate]

theorem countBelfry_tile (e : Nat) (i : Option Nat) (c : Nat) (s : State) (n : Nat) : (countBelfry e i c s).tile n = s.tile n := by
  obtain ⟨x, y, z, h⟩ := countBelfry_shape e i c s
  rw [h]
  rfl

/-- A request for a tile of HBM goes to its stack. -/
theorem cxlPart_queues (hn : r.addr / 262144 < 2 ^ 24) (htier : (s.tile (r.addr / 262144)).tier = .hbm)
    (hstate : (s.tile (r.addr / 262144)).state = .ready) :
    cxlPart s r = arrive (s.tile (r.addr / 262144)).stack.toNat r.op (some (r.addr / 262144)) (countBelfry 0x1302 none 1 s) := by
  have hstack : (countBelfry 0x1302 none 1 s).accessStack (r.addr / tileBytes) = some (s.tile (r.addr / 262144)).stack.toNat := by
    rw [← countBelfry_tile 0x1302 none 1 s] at htier hstate ⊢
    exact accessStack_ready htier hstate
  have hin : r.addr / tileBytes < tileCount := hn
  unfold cxlPart
  simp only [hin, if_true, hstack]
  rfl

/-- A request that reaches no tile of HBM is denied. -/
theorem cxlPart_denies (hno : 2 ^ 24 ≤ r.addr / 262144 ∨ (s.tile (r.addr / 262144)).tier ≠ .hbm ∧ (s.tile (r.addr / 262144)).state ≠ .moving ∨
      (s.tile (r.addr / 262144)).state = .free ∨ (s.tile (r.addr / 262144)).state = .lost) :
    cxlPart s r = denyOp (countBelfry 0x1302 none 1 s) r.op := by
  have hnone : (if r.addr / tileBytes < tileCount then (countBelfry 0x1302 none 1 s).accessStack (r.addr / tileBytes) else none) = none := by
    rcases hno with hn | hno
    · exact if_neg (Nat.not_lt.mpr hn)
    · rw [accessStack_none (by rw [countBelfry_tile]; exact hno), ite_self]
  unfold cxlPart
  simp only [hnone]

theorem denyOp_denial (s : State) (r : CxlReq) : denyOp s r.op = (denyHost s).emit r.denial := by
  cases r <;> rfl

/-- A request that arrives changes its stack and may wake its Tower. -/
theorem arrive_shape (h : Nat) (op : OpenOp) (tile : Option Nat) (s : State) : ∃ w, arrive h op tile s =
    { s with pwr := { s.pwr with waking := w } }.modStack h (fun x => ({ x with
      waiting := x.waiting ++ [(⟨op, tile, s.cyc, false⟩ : OpenReq)] } : HbmStack).takeIn) := by
  unfold arrive touchDomain
  split
  · exact ⟨s.pwr.waking, rfl⟩
  · exact ⟨_, rfl⟩

theorem cxlPart_mode (s : State) (r : CxlReq) : (cxlPart s r).pwr.mode = s.pwr.mode := by
  obtain ⟨x, y, z, hcount⟩ := countBelfry_shape 0x1302 none 1 s
  unfold cxlPart
  dsimp only
  split
  · obtain ⟨w, harrive⟩ := arrive_shape ‹Nat› r.op (some (r.addr / tileBytes)) (countBelfry 0x1302 none 1 s)
    rw [harrive, hcount]
    rfl
  · rw [denyOp_denial, hcount]
    rfl

theorem returnToRun_runs (s : State) : (returnToRun s).pwr.mode ≠ .idle ∧ (returnToRun s).pwr.mode ≠ .sleep := by
  unfold returnToRun
  split
  · dsimp only
    split <;> exact ⟨by simp, by simp⟩
  · simpa [State.lowPower] using ‹¬s.lowPower = true›

theorem cxlRequest_mode (r : CxlReq) (s : State) : (cxlRequest r s).pwr.mode = (returnToRun s).pwr.mode := by
  obtain ⟨x, y, z, hcount⟩ := countBelfry_shape 0x1601 none 1 (returnToRun s)
  refine (foldl_keeps (fun t => t.pwr.mode) cxlPart _ _ cxlPart_mode).trans ?_
  rw [hcount]

theorem cxlRequest_one (hlen : 1 ≤ r.len) (hbeat : r.addr % 1024 + r.len ≤ 1024) :
    cxlRequest r s = cxlPart (countBelfry 0x1601 none 1 (returnToRun s)) r := by
  unfold cxlRequest
  rw [CxlReq.parts_one hlen hbeat]
  rfl

theorem countBelfry_tier (e : Nat) (i : Option Nat) (c : Nat) (s : State) : (countBelfry e i c s).tier = s.tier := by
  obtain ⟨x, y, z, h⟩ := countBelfry_shape e i c s
  rw [h]

theorem countBelfry_cyc (e : Nat) (i : Option Nat) (c : Nat) (s : State) : (countBelfry e i c s).cyc = s.cyc :=
  cyc_of_slow (countBelfry_slow e i c s)

theorem returnToRun_keeps (s : State) : (returnToRun s).hbm = s.hbm ∧ (returnToRun s).tier = s.tier ∧ (returnToRun s).host = s.host ∧
    (returnToRun s).out = s.out ∧ (returnToRun s).cyc = s.cyc := by
  rw [returnToRun_shape]
  exact ⟨rfl, rfl, rfl, rfl, rfl⟩

/-- The two counts that an access makes before it queues or is denied. -/
def State.cxlCounted (s : State) : State := countBelfry 0x1302 none 1 (countBelfry 0x1601 none 1 (returnToRun s))

theorem cxlCounted_keeps (s : State) : s.cxlCounted.hbm = s.hbm ∧ s.cxlCounted.tier = s.tier ∧
    s.cxlCounted.host.denied = s.host.denied ∧ (∃ l, s.cxlCounted.out = l ++ s.out) ∧ s.cxlCounted.cyc = s.cyc := by
  obtain ⟨hhbm, htier, hhost, hout, hcyc⟩ := returnToRun_keeps s
  obtain ⟨l, hl⟩ := countBelfry_out 0x1601 none 1 (returnToRun s)
  obtain ⟨m, hm⟩ := countBelfry_out 0x1302 none 1 (countBelfry 0x1601 none 1 (returnToRun s))
  unfold State.cxlCounted
  refine ⟨?_, ?_, ?_, ⟨m ++ l, ?_⟩, ?_⟩
  · rw [countBelfry_hbm, countBelfry_hbm, hhbm]
  · rw [countBelfry_tier, countBelfry_tier, htier]
  · rw [countBelfry_denied, countBelfry_denied, hhost]
  · rw [hm, hl, hout, List.append_assoc]
  · rw [countBelfry_cyc, countBelfry_cyc, hcyc]

/-- A request that has come to its stack: what it leaves, and its place in the queue. -/
theorem cxlRequest_queues (hlen : 1 ≤ r.len) (hbeat : r.addr % 1024 + r.len ≤ 1024) (hn : r.addr / 262144 < 2 ^ 24)
    (htier : (s.tile (r.addr / 262144)).tier = .hbm) (hstate : (s.tile (r.addr / 262144)).state = .ready) :
    cxlRequest r s = arrive (s.tile (r.addr / 262144)).stack.toNat r.op (some (r.addr / 262144)) s.cxlCounted := by
  have htile : (countBelfry 0x1601 none 1 (returnToRun s)).tile (r.addr / 262144) = s.tile (r.addr / 262144) := by
    rw [countBelfry_tile, tile_returnToRun]
  rw [cxlRequest_one hlen hbeat, cxlPart_queues hn (by rw [htile]; exact htier) (by rw [htile]; exact hstate), htile]
  rfl

theorem cxlRequest_denies (hlen : 1 ≤ r.len) (hbeat : r.addr % 1024 + r.len ≤ 1024) (hno : 2 ^ 24 ≤ r.addr / 262144 ∨
      (s.tile (r.addr / 262144)).tier ≠ .hbm ∧ (s.tile (r.addr / 262144)).state ≠ .moving ∨
      (s.tile (r.addr / 262144)).state = .free ∨ (s.tile (r.addr / 262144)).state = .lost) :
    cxlRequest r s = (denyHost s.cxlCounted).emit r.denial := by
  have htile : (countBelfry 0x1601 none 1 (returnToRun s)).tile (r.addr / 262144) = s.tile (r.addr / 262144) := by
    rw [countBelfry_tile, tile_returnToRun]
  rw [cxlRequest_one hlen hbeat, cxlPart_denies (by rw [htile]; exact hno), denyOp_denial]
  rfl

/-! #### The poison list -/

/-- An index whose entry is not the default is listed. -/
theorem Tab.mem_keys_of_get {α : Type} {t : Tab α} {d : α} {k : Nat} (h : t.get d k ≠ d) : k ∈ t.keys :=
  Decidable.not_not.mp fun hk => h (Tab.get_of_not_mem_keys t d hk)

theorem hostReaches_listed (h : s.hostReaches n = true) : n ∈ s.tier.map.keys := by
  refine Tab.mem_keys_of_get (d := TileEntry.free) fun hfree => ?_
  have htile : s.tile n = TileEntry.free := hfree
  unfold State.hostReaches at h
  rw [htile] at h
  have hfalse : TileEntry.free.inHbm = false := rfl
  simp [hfalse] at h

theorem mem_tilePoison (s : State) (n a : Nat) : a ∈ s.tilePoison n ↔ a / 262144 = n ∧ a % 32 = 0 ∧ s.hostReaches n = true ∧
    (s.tile n).place.toNat * 8192 + a % 262144 / 32 ∈ (s.stack (s.tile n).stack.toNat).mem.poison := by
  have hword (w : Nat) : w * 32 / tileBytes = (s.tile n).place.toNat ∧ n * tileBytes + w * 32 % tileBytes = a ↔
      a / 262144 = n ∧ a % 32 = 0 ∧ w = (s.tile n).place.toNat * 8192 + a % 262144 / 32 := by
    rw [show tileBytes = 262144 from rfl]
    omega
  unfold State.tilePoison
  by_cases hreach : s.hostReaches n = true
  · simp only [hreach, if_true, List.mem_map, List.mem_filter, beq_iff_eq, true_and]
    constructor
    · rintro ⟨w, ⟨hw, hplace⟩, ha⟩
      obtain ⟨htile, halign, rfl⟩ := (hword w).mp ⟨hplace, ha⟩
      exact ⟨htile, halign, hw⟩
    · rintro ⟨htile, halign, hw⟩
      obtain ⟨hplace, ha⟩ := (hword _).mpr ⟨htile, halign, rfl⟩
      exact ⟨_, ⟨hw, hplace⟩, ha⟩
  · simp [hreach]

theorem mem_poisonList (s : State) (addr len a : Nat) : a ∈ s.poisonList addr len ↔ (addr ≤ a ∧ a < addr + len) ∧ a % 32 = 0 ∧
    s.hostReaches (a / 262144) = true ∧ (s.tile (a / 262144)).place.toNat * 8192 + a % 262144 / 32 ∈
      (s.stack (s.tile (a / 262144)).stack.toNat).mem.poison := by
  unfold State.poisonList
  simp only [List.mem_filter, List.mem_flatMap, mem_tilePoison, decide_eq_true_eq]
  constructor
  · rintro ⟨⟨n, -, rfl, halign, hreach, hpoison⟩, hrange⟩
    exact ⟨hrange, halign, hreach, hpoison⟩
  · rintro ⟨hrange, halign, hreach, hpoison⟩
    exact ⟨⟨_, hostReaches_listed hreach, rfl, halign, hreach, hpoison⟩, hrange⟩

end

/-- Settles O41: the requests of an access, their way to a stack or their denial, and the answers of the primary mailbox. -/
theorem cxlAccessesAndTheMailbox : Obligations.CxlAccessesAndTheMailbox := by
  refine ⟨fun s r => ?access, fun s max handles op => ?mailbox, fun s addr len => ⟨s.poisonList addr len, rfl, mem_poisonList s addr len⟩⟩
  case access =>
    intro u n len
    have hlenEq : len = r.len := by cases r <;> rfl
    have htile (i : Nat) : u.tile i = s.tile i := tile_returnToRun s i
    obtain ⟨hhbm, htierAll, hdenied, ⟨l, hout⟩, hcyc⟩ := cxlCounted_keeps s
    refine ⟨⟨_, rfl, cxlRequest_mode r s, ?_⟩, fun t a l hr hcross hend => ?crosses, fun hlen hbeat hn htier hstate => ?queues,
      fun hlen hbeat hno => ?denies⟩
    · rw [cxlRequest_mode]
      exact returnToRun_runs s
    case crosses =>
      subst hr
      show Host.Outcome.next (cxlRequest (.read t a l) s) = _
      unfold cxlRequest
      rw [CxlReq.parts_two hcross hend]
    case queues =>
      rw [hlenEq] at hlen hbeat
      rw [htile] at htier hstate
      intro h q
      have hstack (j : Nat) : s.cxlCounted.stack j = s.stack j := stack_of_hbm hhbm j
      obtain ⟨w, harrive⟩ := arrive_shape (s.tile n).stack.toNat r.op (some n) s.cxlCounted
      have hh : h = (s.tile n).stack.toNat := by rw [← htile]
      have hplace : (cxlRequest r s).stack h = { s.stack h with waiting := (s.stack h).waiting ++ [q] }.takeIn := by
        rw [cxlRequest_queues hlen hbeat hn htier hstate, harrive, hh, stack_modStack, hcyc]
        exact congrArg (fun y : HbmStack => { y with waiting := y.waiting ++ [q] }.takeIn) (hstack _)
      refine ⟨cxlRequest r s, rfl, ?_, ?_, fun j hj => ?_, hplace, fun hempty hroom => ?_, fun hfull => ?_⟩
      · rw [cxlRequest_queues hlen hbeat hn htier hstate, harrive]
        exact htierAll.trans (returnToRun_keeps s).2.1.symm
      · rw [cxlRequest_queues hlen hbeat hn htier hstate, harrive]
        exact hdenied
      · rw [cxlRequest_queues hlen hbeat hn htier hstate, harrive, stack_modStack_ne _ _ (by rwa [← hh])]
        exact hstack j
      · have hone : ({ s.stack h with waiting := (s.stack h).waiting ++ [q] } : HbmStack).waiting = [q] := congrArg (· ++ [q]) hempty
        rw [hplace, takeIn_one hone hroom]
        exact congrArg (fun l => { s.stack h with queue := (s.stack h).queue ++ [q], waiting := l }) hempty.symm
      · exact hplace.trans (takeIn_full (x := { s.stack h with waiting := (s.stack h).waiting ++ [q] }) hfull)
    case denies =>
      rw [hlenEq] at hlen hbeat
      rw [htile] at hno
      refine ⟨_, l, congrArg Host.Outcome.next (cxlRequest_denies hlen hbeat hno), hhbm, htierAll, congrArg satInc hdenied, ?_⟩
      cases r with
      | read t a l => exact congrArg (_ :: ·) hout
      | write t a d p => exact congrArg (_ :: ·) hout
  case mailbox =>
    intro answer
    refine ⟨rfl, rfl, rfl, rfl, ⟨_, rfl, rfl, rfl⟩, fun hop => ?_⟩
    refine congrArg Host.Outcome.next (if_neg ?_)
    rwa [List.contains_iff_mem]

end Sys2Proof.Machine

namespace Sys2Proof.Machine
open Sys2Proof

/-! ### Queue pairs: writes of the ring registers (R470, R478, R481) -/

section
variable {s : State} {mid qp f q n x : Nat} {v : Word}

theorem qpCtrlWrite_closed (h : s.ringsOpen mid = false) : qpCtrlWrite mid qp n s = s := if_neg (by simp [h])

theorem sqTailWrite_closed (h : s.ringsOpen mid = false) : sqTailWrite mid qp n s = s := if_pos (by simp [h])

theorem cqHeadWrite_closed (h : s.ringsOpen mid = false) : cqHeadWrite mid qp n s = s := if_neg (by simp [h])

theorem berxHeadWrite_closed (h : s.ringsOpen mid = false) : berxHeadWrite mid n s = s := if_pos (by simp [h])

theorem dbMaskWrite_closed (h : s.ringsOpen mid = false) (hmid : mid ≠ 0) : dbMaskWrite mid v s = s := by
  unfold dbMaskWrite
  rw [if_neg hmid, if_neg (by simp [h])]

/-- What QP_CTRL makes of a pair. -/
def Pair.ctrl (p : Pair) (n t : Nat) : Pair :=
  if bitAt n 0 then (if p.enable then p else p.start) else { p with enable := false, offAt := if p.enable then t else p.offAt }

theorem qpCtrlWrite_open (h : s.ringsOpen mid = true) :
    qpCtrlWrite mid qp n s = s.modPair (mid - 1) qp (fun p => p.ctrl n (s.bclkTick + 1)) := if_pos h

theorem sqTailWrite_error (h : (s.pair (mid - 1) qp).error = true) : sqTailWrite mid qp n s = s := if_pos (by simp [h])

/-- In the BCLK that clears ENABLE a write of SQ_TAIL has no effect. -/
theorem sqTailWrite_off (herror : (s.pair (mid - 1) qp).error = false) (henable : (s.pair (mid - 1) qp).enable = false)
    (hoff : (s.pair (mid - 1) qp).offAt = s.bclkTick + 1) : sqTailWrite mid qp n s = s := by
  unfold sqTailWrite
  simp [herror, henable, hoff]

/-- A tail within the ring. -/
theorem Pair.goodTail {p : Pair} (hsize : x < 2 ^ p.sqLog2.toNat) (hcap : ringDist (2 ^ p.sqLog2.toNat) p.sqHead.toNat p.sqTail.toNat +
    ringDist (2 ^ p.sqLog2.toNat) p.sqTail.toNat x ≤ 2 ^ p.sqLog2.toNat - 1) : p.badTail x = false := by
  unfold Pair.badTail ringSize
  simp only [Bool.or_eq_false_iff, decide_eq_false_iff_not]
  omega

theorem Pair.badTail_size {p : Pair} (hsize : 2 ^ p.sqLog2.toNat ≤ x) : p.badTail x = true := by
  unfold Pair.badTail ringSize
  simp [hsize]

theorem sqTailWrite_stores (h : s.ringsOpen mid = true) (herror : (s.pair (mid - 1) qp).error = false)
    (hpair : (s.pair (mid - 1) qp).enable = false ∧ (s.pair (mid - 1) qp).offAt ≠ s.bclkTick + 1 ∨
      (s.pair (mid - 1) qp).enable = true ∧ (s.pair (mid - 1) qp).badTail x = false) :
    sqTailWrite mid qp x s = s.modPair (mid - 1) qp (fun y => { y with sqTail := BitVec.ofNat 16 x }) := by
  unfold sqTailWrite
  rcases hpair with ⟨henable, hoff⟩ | ⟨henable, hgood⟩
  · simp [h, herror, henable, hoff]
  · simp [h, herror, henable, hgood]

/-- A lease's bad tail puts the pair in ERROR. -/
theorem sqTailWrite_bad (h : s.ringsOpen mid = true) (herror : (s.pair (mid - 1) qp).error = false)
    (henable : (s.pair (mid - 1) qp).enable = true) (hbad : (s.pair (mid - 1) qp).badTail x = true) (hlease : mid - 1 ≠ 0) :
    sqTailWrite mid qp x s = ringFunc (mid - 1) 31 (s.modPair (mid - 1) qp (fun y => { y with error := true })) := by
  unfold sqTailWrite
  simp only [h, herror, henable, hbad, hlease, Bool.not_true, Bool.or_self, Bool.false_eq_true, if_false, if_true]
  rfl

theorem cqHeadWrite_open (h : s.ringsOpen mid = true) : cqHeadWrite mid qp x s = s.modPair (mid - 1) qp (fun p => { p with
    cqHead := BitVec.ofNat 16 x, used := p.used - ringDist (2 ^ p.cqLog2.toNat) p.cqHead.toNat x }) := if_pos h

theorem berxHeadWrite_releases (h : s.ringsOpen mid = true) (herror : (s.func (mid - 1)).rx.error = false)
    (henable : (s.func (mid - 1)).rx.enable = true) (hsize : x < 2 ^ (s.func (mid - 1)).rx.log2.toNat)
    (hused : ringDist (2 ^ (s.func (mid - 1)).rx.log2.toNat) (s.func (mid - 1)).rx.head.toNat x ≤ (s.func (mid - 1)).rx.used) :
    berxHeadWrite mid x s = s.modFunc (mid - 1) (fun y => { y with rx := { y.rx with
      head := BitVec.ofNat 16 x
      used := (s.func (mid - 1)).rx.used -
        ringDist (2 ^ (s.func (mid - 1)).rx.log2.toNat) (s.func (mid - 1)).rx.head.toNat x } }) := by
  have hin : ¬ ringSize (s.func (mid - 1)).rx.log2 ≤ x := Nat.not_le.mpr hsize
  have hfilled : ¬ (s.func (mid - 1)).rx.used < ringDist (ringSize (s.func (mid - 1)).rx.log2) (s.func (mid - 1)).rx.head.toNat x :=
    Nat.not_lt.mpr hused
  unfold berxHeadWrite
  simp only [h, herror, henable, Bool.not_true, Bool.or_self, Bool.false_eq_true, if_false, hin, hfilled, decide_false]
  rfl

/-- A mask that leaves no doorbell bit open sends no vector. -/
theorem dbMaskWrite_masks (h : s.ringsOpen mid = true) (hmid : mid ≠ 0)
    (hmask : ∀ i, i < 32 → (s.func (mid - 1)).dbStatus.getLsbD i = true → v.getLsbD i = true) :
    dbMaskWrite mid v s = s.modFunc (mid - 1) (fun y => { y with dbMask := v }) := by
  have hnone : (List.range 32).filter (fun i => (s.func (mid - 1)).dbStatus.getLsbD i && !v.getLsbD i) = [] := by
    simpa using hmask
  unfold dbMaskWrite
  rw [if_neg hmid, if_pos h]
  simp only [hnone, List.foldl_nil]

theorem ringsOpen_pos (h : s.ringsOpen mid = true) : mid ≠ 0 := by
  rintro rfl
  simp [State.ringsOpen] at h

/-- A change of a queue pair leaves the doorbells of its function. -/
theorem modPair_status (s : State) (f q : Nat) (g : Pair → Pair) : ((s.modPair f q g).func f).dbStatus = (s.func f).dbStatus := by
  unfold State.modPair
  rw [func_modFunc]

/-! ### Submission entries (R471, R473, R478) -/

variable {e entry data : List Byte} {p : Pair}

theorem Pair.canFetch_not (h : p.enable = false ∨ p.error = true ∨ p.sqHead = p.sqTail ∨ p.waiting ≠ []) : p.canFetch = false := by
  unfold Pair.canFetch
  rcases h with h | h | h | h <;> simp [h]

theorem Pair.canFetch_of (henable : p.enable = true) (herror : p.error = false) (hentry : p.sqHead ≠ p.sqTail) (hwaiting : p.waiting = [])
    (hroom : p.used < 2 ^ p.cqLog2.toNat) : p.canFetch = true := by
  unfold Pair.canFetch ringSize
  simp [henable, herror, hentry, hwaiting, hroom]

theorem submissionFetch_none (h : (s.pair f q).canFetch = false) : submissionFetch f q entry data s = s := if_pos (by simp [h])

/-- May the entry that was read start now? -/
def State.starts (s : State) (f q : Nat) (entry : List Byte) : Prop :=
  (s.pair f q).canFetch = true ∧ (entry.take 64).length = 64 ∧ (f ≠ 0 → (s.leaseOf f).resetting = false) ∧
    (bitAt (bytesLE (entry.take 64) 1 1) 0 = true → (s.pair f q).inProgress = [])

/-- The pair has taken an entry: SQ_HEAD is past it, and its CID is in progress. -/
def State.fetched (s : State) (f q : Nat) (entry : List Byte) : State := s.modPair f q (fun y => { y with
  sqHead := BitVec.ofNat 16 ((y.sqHead.toNat + 1) % 2 ^ y.sqLog2.toNat), inProgress := y.inProgress ++ [bytesLE (entry.take 64) 2 2] })

/-- What becomes of an entry that starts. -/
theorem submissionFetch_starts (h : s.starts f q entry) : submissionFetch f q entry data s =
    let e := entry.take 64
    let op := bytesLE e 0 1
    let iss : Issuer := .ring f q (bytesLE e 2 2)
    let s1 := s.fetched f q entry
    if !opcodeAllowed iss op then complete iss op (.of stBadArg) s1
    else if !entryReservedOk e then
      if f = 0 then complete iss op (.of (s1.freeValue % statusCount)) s1.useFree else complete iss op (.of stBadArg) s1
    else
      match entryCommand iss e data with
      | some c => { s1 with started := s1.started ++ [c] }
      | none => complete iss op (.of stBadArg) s1 := by
  obtain ⟨hfetch, hlen, hreset, hfence⟩ := h
  refine if_neg ?_
  simp only [hfetch, hlen, Bool.not_true, ne_eq, not_true, decide_false, Bool.false_or, Bool.or_eq_true, Bool.and_eq_true, decide_eq_true_eq,
    Bool.not_eq_true', List.isEmpty_eq_false_iff, not_or, not_and, Bool.not_eq_true, Classical.not_not]
  exact ⟨hreset, hfence⟩

theorem submissionFetch_notAllowed (h : s.starts f q entry)
    (hop : opcodeAllowed (.ring f q (bytesLE (entry.take 64) 2 2)) (bytesLE (entry.take 64) 0 1) = false) :
    submissionFetch f q entry data s = complete (.ring f q (bytesLE (entry.take 64) 2 2)) (bytesLE (entry.take 64) 0 1) (.of stBadArg)
      (s.fetched f q entry) :=
  (submissionFetch_starts h).trans (if_pos (by simp [hop]))

/-- A lease's reserved bits (R478). -/
theorem submissionFetch_reserved (h : s.starts f q entry)
    (hop : opcodeAllowed (.ring f q (bytesLE (entry.take 64) 2 2)) (bytesLE (entry.take 64) 0 1) = true)
    (hbits : entryReservedOk (entry.take 64) = false) (hlease : f ≠ 0) :
    submissionFetch f q entry data s = complete (.ring f q (bytesLE (entry.take 64) 2 2)) (bytesLE (entry.take 64) 0 1) (.of stBadArg)
      (s.fetched f q entry) := by
  rw [submissionFetch_starts h]
  simp only [hop, hbits, hlease, Bool.not_true, Bool.not_false, Bool.false_eq_true, if_false, if_true]

theorem submissionFetch_command {c : Instr} (h : s.starts f q entry)
    (hop : opcodeAllowed (.ring f q (bytesLE (entry.take 64) 2 2)) (bytesLE (entry.take 64) 0 1) = true)
    (hbits : entryReservedOk (entry.take 64) = true)
    (hcommand : entryCommand (.ring f q (bytesLE (entry.take 64) 2 2)) (entry.take 64) data = some c) :
    submissionFetch f q entry data s = { s.fetched f q entry with started := (s.fetched f q entry).started ++ [c] } := by
  rw [submissionFetch_starts h]
  simp only [hop, hbits, hcommand, Bool.not_true, Bool.false_eq_true, if_false]

/-! ### Completion records (R476) -/

theorem completionRecord_none (h : (s.pair f q).waiting = [] ∨ (s.pair f q).enable = false ∨
    2 ^ (s.pair f q).cqLog2.toNat ≤ (s.pair f q).used) : completionRecord f q s = s := by
  unfold completionRecord
  dsimp only
  split
  · rfl
  · rename_i r rest hwaiting
    rw [hwaiting] at h
    exact if_pos (by rcases h with h | h | h <;> simp_all [ringSize])

/-- A write into host memory of a function without migration logging. -/
theorem writeHost_unlogged {addr : Nat} {l : List Byte} (h : f = 0 ∨ (s.leaseOf f).log.on = false) :
    writeHost f addr l s = s.emit (.hostWrite f addr l) := by
  have hno : (decide (f ≠ 0) && (s.leaseOf f).log.on && !l.isEmpty) = false := by rcases h with h | h <;> simp [h]
  unfold writeHost
  dsimp only
  rw [hno]
  rfl

/-- The record's body and then its PHASE word have been written, and the pair's slot is filled. -/
def State.recordWritten (s : State) (f q : Nat) (r : Record) (rest : List Record) : State :=
  let p := s.pair f q
  let a := p.cqBase.toNat + 64 * p.cqTail.toNat
  let next := (p.cqTail.toNat + 1) % 2 ^ p.cqLog2.toNat
  ((s.emit (.hostWrite f a (leBytes r.body.toNat 60))).emit (.hostWrite f (a + 60) (leBytes (b2n p.phase) 4))).modPair f q (fun y => { y with
    waiting := rest, used := y.used + 1, cqTail := BitVec.ofNat 16 next, phase := if next = 0 then !y.phase else y.phase })

theorem completionRecord_writes {r : Record} {rest : List Record} (hwaiting : (s.pair f q).waiting = r :: rest)
    (henable : (s.pair f q).enable = true) (hroom : (s.pair f q).used < 2 ^ (s.pair f q).cqLog2.toNat)
    (hlog : f = 0 ∨ (s.leaseOf f).log.on = false) :
    completionRecord f q s = ringFunc f q (countBelfry 0x1602 none 1 (s.recordWritten f q r rest)) := by
  have hgo : ¬ (!(s.pair f q).enable || decide (ringSize (s.pair f q).cqLog2 ≤ (s.pair f q).used)) = true := by
    simp [henable, ringSize, Nat.not_le.mpr hroom]
  unfold completionRecord
  simp only [hwaiting, if_neg hgo]
  rw [writeHost_unlogged hlog, writeHost_unlogged (s := s.emit _) hlog]
  rfl

end

/-- Settles O39: a rule for each case of a write of a ring register, of an entry that is fetched and of a record that is written. -/
theorem queuePairsRingsAndDoorbells : Obligations.QueuePairsRingsAndDoorbells := by
  have hnext {t u : State} (h : t = u) : Host.Outcome.next t = (.next u : Host.Outcome State Fault Refusal) := congrArg _ h
  refine ⟨fun s mid qp v hreach => ?writes, fun s v hreach => hnext (onBus_reachable hreach), fun s f q entry data => ?fetches,
    fun s f q => ?records⟩
  case writes =>
    have hbus (g : State → State) : Host.Outcome.next (onBus g s) = (.next (g s) : Host.Outcome State Fault Refusal) :=
      hnext (onBus_reachable hreach)
    refine ⟨fun hclosed => ⟨(hbus _).trans (hnext (qpCtrlWrite_closed hclosed)), (hbus _).trans (hnext (sqTailWrite_closed hclosed)),
      (hbus _).trans (hnext (cqHeadWrite_closed hclosed)), (hbus _).trans (hnext (berxHeadWrite_closed hclosed)),
      fun hmid => (hbus _).trans (hnext (dbMaskWrite_closed hclosed hmid))⟩, fun hopen => ?opened⟩
    case opened =>
      intro f p x
      have hpair (g : Pair → Pair) : (s.modPair f qp g).pair f qp = g p := pair_modPair s f qp g
      refine ⟨⟨_, (hbus _).trans (hnext (qpCtrlWrite_open hopen)), rfl, fun m q h => pair_modPair_ne s _ h, fun hoff => ?_, fun hon henable => ?_,
        fun hon henable => ?_⟩, fun herror => (hbus _).trans (hnext (sqTailWrite_error herror)),
        fun herror henable hoff => (hbus _).trans (hnext (sqTailWrite_off herror henable hoff)), fun herror hgood => ?stores,
        fun herror henable hlease hbad => ?bad, ⟨_, (hbus _).trans (hnext (cqHeadWrite_open hopen)), rfl, hpair _⟩, ?berx,
        fun hmask => (hbus _).trans (hnext (dbMaskWrite_masks hopen (ringsOpen_pos hopen) hmask))⟩
      · rw [hpair]
        exact if_neg (by simp [hoff])
      · rw [hpair]
        exact (if_pos hon).trans (if_pos henable)
      · rw [hpair]
        exact (if_pos hon).trans (if_neg (by simp [henable]))
      case stores =>
        refine ⟨_, (hbus _).trans (hnext (sqTailWrite_stores hopen herror (hgood.imp_right ?_))), rfl, hpair _⟩
        exact fun ⟨henable, hsize, hcap⟩ => ⟨henable, Pair.goodTail hsize hcap⟩
      case bad =>
        refine ⟨_, (hbus _).trans (hnext (sqTailWrite_bad hopen herror henable (Pair.badTail_size hbad) hlease)), ?_, ?_⟩
        · rw [ringFunc_pair]
          exact hpair _
        · rw [(ringFunc_status _ _ _).1, modPair_status]
      case berx =>
        intro r gone herror henable hsize hused
        refine ⟨_, (hbus _).trans (hnext (berxHeadWrite_releases hopen herror henable hsize hused)), rfl, ?_⟩
        rw [func_modFunc]
  case fetches =>
    intro p e iss s1
    refine ⟨fun h => hnext (submissionFetch_none (Pair.canFetch_not h)), fun henable herror hentry hwaiting hroom hlen hreset hfence => ?_⟩
    have hstarts : s.starts f q entry := ⟨Pair.canFetch_of henable herror hentry hwaiting hroom, hlen, hreset, hfence⟩
    exact ⟨fun hop => hnext (submissionFetch_notAllowed hstarts hop), fun hop hbits hlease => hnext (submissionFetch_reserved hstarts hop hbits hlease),
      fun c hop hbits hcommand => hnext (submissionFetch_command hstarts hop hbits hcommand)⟩
  case records =>
    intro p
    refine ⟨fun h => hnext (completionRecord_none h), fun r rest hwaiting henable hroom hlog => ?_⟩
    intro a next
    let w := s.recordWritten f q r rest
    obtain ⟨l, hl⟩ := ringFunc_out f q (countBelfry 0x1602 none 1 w)
    obtain ⟨m, hm⟩ := countBelfry_out 0x1602 none 1 w
    obtain ⟨cnt, host, out, hcount⟩ := countBelfry_shape 0x1602 none 1 w
    obtain ⟨host', out', hring⟩ := ringFunc_shape f q (countBelfry 0x1602 none 1 w)
    refine ⟨_, l ++ m, hnext (completionRecord_writes hwaiting henable hroom hlog), ?_, ?_, ?_, ?_⟩
    · rw [hring, hcount]
      rfl
    · rw [ringFunc_pair, countBelfry_pair]
      exact pair_modPair _ _ _ _
    · rw [hl, hm, List.append_assoc]
      rfl
    · rw [(ringFunc_status _ _ _).1]
      have hq : (q : Nat) < 32 := by omega
      simp [hq]

end Sys2Proof.Machine

namespace Sys2Proof.Machine
open Sys2Proof

/-! ### Reclaim orders (R452, R454, R565) -/

section
variable {s : State} {k n mask : Nat}

/-- The Spires that a mask names. -/
def namedBy (mask : Nat) : List Nat := (List.range 32).filter (fun k => bitAt mask k)

theorem namedBy_one (k : Fin 32) : namedBy (BitVec.twoPow 32 k).toNat = [k.val] := by
  revert k
  decide

theorem dspReclaimMaskWrite_others {mid : Nat} {v : Word} (h : s.serves 0x50024 = true) (hmid : mid ≠ 0) :
    bar0Row mid 0x50024 v (reclaimOrder mid v.toNat) s = s := by
  by_cases hone : mid ≤ 1
  · rw [bar0Row_serves hone h]
    exact if_pos hmid
  · exact if_neg (by simp [hone])

/-- An order that takes no Spire is done at once. -/
theorem reclaimOrder_none (h : ∀ k, k < 32 → bitAt mask k = true → (s.spire k).seq.reclaim = false ∧ s.takeable k = false) :
    reclaimOrder 0 mask s = ringDome 6 (s.modDsp (fun d => { d with
      reclaimDone := true, taken := 0, windowed := (d.windowed &&& 0) ||| 0
      notTaken := ((namedBy mask).filter (fun k => !(s.spire k).seq.reclaim && !s.takeable k)).foldl (fun b k => b ||| BitVec.twoPow 32 k) 0 })) := by
  have hall : ∀ k ∈ namedBy mask, (s.spire k).seq.reclaim = false ∧ s.takeable k = false := fun k hk =>
    h k (List.mem_range.mp (List.mem_filter.mp hk).1) (List.mem_filter.mp hk).2
  have hfresh : (namedBy mask).filter (fun k => !(s.spire k).seq.reclaim && s.takeable k) = [] :=
    List.filter_eq_nil_iff.mpr fun k hk => by simp [hall k hk]
  have hheld : (namedBy mask).filter (fun k => (s.spire k).seq.reclaim) = [] :=
    List.filter_eq_nil_iff.mpr fun k hk => by simp [hall k hk]
  unfold namedBy at hfresh hheld
  unfold reclaimOrder namedBy
  rw [if_neg (by decide)]
  simp only [hfresh, hheld]
  rfl

/-- The dispatcher once an order has taken Spire `k` alone, outside a window. -/
def DspState.ordered (d : DspState) (k : Nat) : DspState := { d with
  reclaimDone := false, taken := BitVec.twoPow 32 k, notTaken := 0, windowed := (d.windowed &&& 0) ||| 0
  entered := d.entered &&& ~~~BitVec.twoPow 32 k }

/-- An order that takes one IDLE Spire outside a window: it is reclaimed, and its switch starts. -/
theorem reclaimOrder_one (k : Fin 32) (htake : s.takeable k = true) (hreclaim : (s.spire k).seq.reclaim = false)
    (hwindow : (s.spire k).seq.window = false) (hmode : (s.spire k).seq.mode = .idle) :
    reclaimOrder 0 (BitVec.twoPow 32 k.val).toNat s =
      setPhase k (.switching (s.cyc + 4) true) ((s.modSeq k (fun x => { x with reclaim := true })).modDsp (fun d => d.ordered k)) := by
  have hnamed := namedBy_one k
  unfold namedBy at hnamed
  have hbits : (0 : BitVec 32) ||| BitVec.twoPow 32 k.val = BitVec.twoPow 32 k.val := BitVec.zero_or
  unfold reclaimOrder
  rw [if_neg (by decide)]
  simp only [hnamed, List.filter_cons, List.filter_nil, htake, hreclaim, hwindow, Bool.not_false, Bool.not_true, Bool.and_true, Bool.and_false,
    Bool.false_eq_true, if_true, if_false, List.append_nil, List.foldl_cons, List.foldl_nil, List.isEmpty_cons, hbits]
  unfold reclaimSpire
  dsimp only
  have hwin : ((s.modDsp (fun d => { d with
      reclaimDone := false, taken := BitVec.twoPow 32 k.val, notTaken := 0, windowed := (d.windowed &&& 0) ||| 0 })).spire k).seq.window = false := hwindow
  have hidle : ((s.modDsp (fun d => { d with
      reclaimDone := false, taken := BitVec.twoPow 32 k.val, notTaken := 0, windowed := (d.windowed &&& 0) ||| 0 })).spire k).seq.mode = .idle := hmode
  rw [hwin, hidle]
  rfl

theorem reclaimDone_ends (hdone : s.dsp.reclaimDone = false) (htaken : s.dsp.taken ≠ 0)
    (hin : s.dsp.taken &&& ~~~(s.dsp.entered ||| s.dsp.windowed) = 0) :
    reclaimDone s = ringDome 6 (s.modDsp (fun d => { d with reclaimDone := true })) := by
  unfold reclaimDone
  exact if_pos (by simp only [hdone, hin, decide_true, Bool.not_false, Bool.true_and, Bool.and_true, decide_eq_true_eq]; exact htaken)

theorem reclaimDone_not (h : s.dsp.reclaimDone = true ∨ s.dsp.taken = 0 ∨ s.dsp.taken &&& ~~~(s.dsp.entered ||| s.dsp.windowed) ≠ 0) :
    reclaimDone s = s := by
  unfold reclaimDone
  refine if_neg ?_
  simp only [Bool.and_eq_true, Bool.not_eq_true', decide_eq_true_eq]
  rintro ⟨⟨hdone, htaken⟩, hin⟩
  rcases h with h | h | h
  · exact absurd (hdone.symm.trans h) (by decide)
  · exact htaken h
  · exact h hin

/-! ### Migration write logging (R460 to R462) -/

/-- Is a byte of a stack 0? -/
def State.blankAt (s : State) (h b : Nat) : Prop := (s.stack h).mem.read8 b = Mem.blank

theorem zeroPlace_read8 (h p : Nat) (s : State) (j b : Nat) : ((zeroPlace h p s).stack j).mem.read8 b =
    if j = h ∧ p * tileBytes ≤ b ∧ b < p * tileBytes + tileBytes then Mem.blank else (s.stack j).mem.read8 b := by
  unfold zeroPlace
  rw [stack_modStack_eq]
  by_cases hj : j = h
  · rw [if_pos hj, Mem.read8_clearRange]
    simp only [hj, true_and]
  · rw [if_neg hj, if_neg (fun hc => hj hc.1)]

/-- The place of a tile in HBM is zeroed, others are left. -/
def zeroTile (s : State) (n : Nat) : State :=
  if (s.tile n).inHbm then zeroPlace (s.tile n).stack.toNat (s.tile n).place.toNat s else s

theorem zeroTile_shape (s : State) (n : Nat) : ∃ h, zeroTile s n = { s with hbm := h } := by
  unfold zeroTile
  split <;> exact ⟨_, rfl⟩

theorem zeroTile_blank {h b : Nat} (n : Nat) (hb : s.blankAt h b) : (zeroTile s n).blankAt h b := by
  unfold zeroTile
  split
  · unfold State.blankAt
    rw [zeroPlace_read8]
    split
    · rfl
    · exact hb
  · exact hb

theorem zeroTile_zeroes {i : Nat} (hn : (s.tile n).inHbm = true) (hi : i < tileBytes) :
    (zeroTile s n).blankAt (s.tile n).stack.toNat ((s.tile n).place.toNat * tileBytes + i) := by
  unfold zeroTile State.blankAt
  rw [if_pos hn, zeroPlace_read8, if_pos ⟨rfl, by omega, by omega⟩]

theorem zeroTiles_shape (l : List Nat) (s : State) : ∃ h, l.foldl zeroTile s = { s with hbm := h } := by
  induction l generalizing s with
  | nil => exact ⟨_, rfl⟩
  | cons n r ih =>
    obtain ⟨g, hg⟩ := zeroTile_shape s n
    rw [List.foldl_cons, hg]
    exact ih _

theorem zeroTiles_blank {h b : Nat} (l : List Nat) (hb : s.blankAt h b) : (l.foldl zeroTile s).blankAt h b := by
  induction l generalizing s with
  | nil => exact hb
  | cons n r ih => exact ih (zeroTile_blank n hb)

/-- Every tile of a list that lies in HBM is zeroed. -/
theorem zeroTiles_zeroes {l : List Nat} (hn : n ∈ l) (hin : (s.tile n).inHbm = true) {i : Nat} (hi : i < tileBytes) :
    (l.foldl zeroTile s).blankAt (s.tile n).stack.toNat ((s.tile n).place.toNat * tileBytes + i) := by
  induction l generalizing s with
  | nil => cases hn
  | cons a r ih =>
    rw [List.foldl_cons]
    rcases List.mem_cons.mp hn with rfl | hn
    · exact zeroTiles_blank r (zeroTile_zeroes hin hi)
    · have htile : (zeroTile s a).tile n = s.tile n := by
        obtain ⟨g, hg⟩ := zeroTile_shape s a
        rw [hg]
        rfl
      rw [← htile]
      exact ih hn (by rw [htile]; exact hin)

theorem zeroBitmap_tiles (tile : Nat) (s : State) : zeroBitmap tile s = (tileRange tile 8).foldl zeroTile s := rfl

section
variable {iss : Issuer} {lease tile iova pages : Nat} {u : State}

/-- Arguments of LOG_START that name a lease, a page range and 16 tiles of lease 0. -/
def State.logArgs (u : State) (lease tile iova pages : Nat) : Prop :=
  (1 ≤ lease ∧ lease ≤ 4095) ∧ (1 ≤ pages ∧ pages ≤ 16777216) ∧ iova < 2 ^ 52 ∧ rangeOk tile 16 16 = true ∧
    ∀ t ∈ tileRange tile 16, (u.tile t).lease = 0 ∧ (u.tile t).radio = false

theorem logStartBody_args (h : u.logArgs lease tile iova pages) : logStartBody lease tile iova pages u =
    if (u.leaseOf lease).log.on || (tileRange tile 16).any (fun n => !(u.tile n).inHbm || (u.tile n).pin = 0) then refuse stConflict u
    else ((zeroBitmap tile u).modLease lease (fun x => { x with log := { x.log with
      on := true, activeB := false, pages := BitVec.ofNat 25 pages, iova := BitVec.ofNat 52 iova, tile := BitVec.ofNat 24 tile } }),
      some (.of stOk)) := by
  obtain ⟨hlease, hpages, hiova, hrange, htiles⟩ := h
  have hours : (tileRange tile 16).any (fun n => (u.tile n).lease ≠ 0 || (u.tile n).radio) = false := by
    simpa using htiles
  unfold logStartBody
  rw [show 2 * bitmapTiles = 16 from rfl]
  simp only [hlease, hpages, hiova, hrange, hours, decide_true, Bool.and_self, Bool.not_true, Bool.false_eq_true, if_false, and_self]

theorem logStartBody_on (h : u.logArgs lease tile iova pages) (hon : (u.leaseOf lease).log.on = true) :
    logStartBody lease tile iova pages u = refuse stConflict u :=
  (logStartBody_args h).trans (if_pos (by simp [hon]))

theorem logStartBody_starts (h : u.logArgs lease tile iova pages) (hon : (u.leaseOf lease).log.on = false)
    (hpinned : ∀ t ∈ tileRange tile 16, (u.tile t).inHbm = true ∧ (u.tile t).pin ≠ 0) : logStartBody lease tile iova pages u =
      ((zeroBitmap tile u).modLease lease (fun x => { x with log := { x.log with
        on := true, activeB := false, pages := BitVec.ofNat 25 pages, iova := BitVec.ofNat 52 iova, tile := BitVec.ofNat 24 tile } }),
        some (.of stOk)) := by
  refine (logStartBody_args h).trans (if_neg ?_)
  simpa [hon] using hpinned

theorem logFlipBody_conflict (h : (u.leaseOf lease).log.on = false ∨ (u.leaseOf lease).log.flipping = true) :
    logFlipBody lease u = refuse stConflict u :=
  if_pos (by rcases h with h | h <;> simp [h])

theorem logFlipBody_flips (hon : (u.leaseOf lease).log.on = true) (hflip : (u.leaseOf lease).log.flipping = false) :
    logFlipBody lease u = ((zeroBitmap ((u.leaseOf lease).log.tile.toNat + (if (u.leaseOf lease).log.activeB then 0 else 8)) u).modLease lease
      (fun x => { x with log := { x.log with activeB := !x.log.activeB } }), some (.of stOk)) :=
  if_neg (by simp [hon, hflip])

theorem logStopBody_conflict (h : (u.leaseOf lease).log.on = false ∨ (u.leaseOf lease).log.flipping = true) :
    logStopBody lease u = refuse stConflict u :=
  if_pos (by rcases h with h | h <;> simp [h])

theorem logStopBody_stops (hon : (u.leaseOf lease).log.on = true) (hflip : (u.leaseOf lease).log.flipping = false) :
    logStopBody lease u = (stopLog lease u, some (.of stOk)) :=
  if_neg (by simp [hon, hflip])

theorem zeroBitmap_shape (first : Nat) (u : State) : ∃ h, zeroBitmap first u = { u with hbm := h } := by
  rw [zeroBitmap_tiles]
  exact zeroTiles_shape _ _

/-- The bitmap's tiles in HBM are zeroed. -/
theorem zeroBitmap_zeroes {first n i : Nat} (hn : n ∈ tileRange first 8) (hin : (u.tile n).inHbm = true) (hi : i < tileBytes) :
    (zeroBitmap first u).blankAt (u.tile n).stack.toNat ((u.tile n).place.toNat * tileBytes + i) := by
  rw [zeroBitmap_tiles]
  exact zeroTiles_zeroes hn hin hi

theorem stack_modLease (s : State) (n h : Nat) (f : Lease → Lease) : (s.modLease n f).stack h = s.stack h := rfl

/-- A zeroed bitmap, whatever becomes of a lease after it. -/
theorem zeroBitmap_modLease_zeroes (first : Nat) (f : Lease → Lease) (u : State) : ∀ t ∈ tileRange first 8, (u.tile t).inHbm = true →
    ∀ i, i < tileBytes → (((zeroBitmap first u).modLease lease f).stack (u.tile t).stack.toNat).mem.read8
      ((u.tile t).place.toNat * tileBytes + i) = Mem.blank := by
  intro t ht hin i hi
  rw [stack_modLease]
  exact zeroBitmap_zeroes ht hin hi

theorem zeroBitmap_modLease_shape (first : Nat) (f : Lease → Lease) (u : State) : (zeroBitmap first u).modLease lease f = { u with
    hbm := ((zeroBitmap first u).modLease lease f).hbm, leases := ((zeroBitmap first u).modLease lease f).leases } := by
  obtain ⟨h, hshape⟩ := zeroBitmap_shape first u
  rw [hshape]
  rfl

theorem zeroBitmap_modLease_lease (first : Nat) (f : Lease → Lease) (u : State) :
    ((zeroBitmap first u).modLease lease f).leaseOf lease = f (u.leaseOf lease) := by
  obtain ⟨h, hshape⟩ := zeroBitmap_shape first u
  rw [leaseOf_modLease, hshape]
  rfl

end

/-! ### The reset of a lease (R481, R482) -/

theorem leaseReset_nothing {flr : Bool} (h : n = 0 ∨ (s.leaseOf n).resetting = true ∧ flr = true ∨ flr = false ∧ (s.leaseOf n).enable = false) :
    leaseReset n flr s = s := by
  unfold leaseReset
  by_cases hn : n = 0
  · exact if_pos hn
  · rw [if_neg hn]
    rcases h with h | ⟨hreset, rfl⟩ | ⟨rfl, henable⟩
    · exact absurd h hn
    · rw [if_pos rfl]
      exact if_pos hreset
    · rw [if_neg (by decide), if_neg (by simp [henable])]

/-- The state from which the running jobs of a lease in reset are ended: its started commands but those of the tier engine gone, its
queued jobs gone, its running jobs silent. -/
def State.resetBegun (s : State) (n : Nat) : State := { s.modLease n (fun x => { x with resetting := true }) with
  started := s.started.filter (fun c => !(decide ((issuerOf c).map (·.lease) = some n) && !isTier c))
  dsp := { s.dsp with
    queue := s.dsp.queue.filter (fun j => j.lease != n)
    running := s.dsp.running.map (fun j => if j.lease = n then { j with silent := true } else j) } }

/-- The running jobs of a lease are ended, one after the other. -/
def endJobsOf (n : Nat) (w : State) : State := (w.dsp.running.filter (fun j => j.lease == n)).foldl (fun t j => preemptJob j t) w

theorem startLeaseReset_begins (h : (s.leaseOf n).resetting = false) : startLeaseReset n s = endJobsOf n (s.resetBegun n) :=
  if_neg (by simp [h])

theorem leaseReset_disables (hn : n ≠ 0) (henable : (s.leaseOf n).enable = true) :
    leaseReset n false s = startLeaseReset n (s.modLease n (fun x => { x with enable := false })) := by
  unfold leaseReset
  rw [if_neg hn, if_neg (by decide), if_pos henable]

/-- Of the started commands those of other leases are left, and those of the tier engine. -/
theorem resetBegun_started (s : State) (n : Nat) : ∀ c ∈ (s.resetBegun n).started, c ∈ s.started ∧
    ((issuerOf c).map (·.lease) ≠ some n ∨ isTier c = true) := by
  intro c hc
  obtain ⟨hmem, hkeep⟩ := List.mem_filter.mp hc
  refine ⟨hmem, ?_⟩
  simp only [Bool.not_eq_true', Bool.and_eq_false_iff, decide_eq_false_iff_not, Bool.not_eq_false'] at hkeep
  exact hkeep

/-! ### The end of a lease reset (R481) -/

theorem leaseResetComplete_waits (h : (s.leaseOf n).resetting = false ∨ (∃ j ∈ s.dsp.running, j.lease = n) ∨
    (∃ c ∈ s.started, (issuerOf c).map (·.lease) = some n)) : leaseResetComplete n s = s := by
  refine if_neg ?_
  simp only [Bool.and_eq_true, Bool.not_eq_true', List.any_eq_false, beq_iff_eq, decide_eq_true_eq]
  rintro ⟨⟨hreset, hjobs⟩, hstarted⟩
  rcases h with h | ⟨j, hj, h⟩ | ⟨c, hc, h⟩
  · exact absurd (hreset.symm.trans h) (by decide)
  · exact hjobs j hj h
  · exact hstarted c hc h

theorem leaseResetComplete_ends (hreset : (s.leaseOf n).resetting = true) (hjobs : ∀ j ∈ s.dsp.running, j.lease ≠ n)
    (hstarted : ∀ c ∈ s.started, (issuerOf c).map (·.lease) ≠ some n) : leaseResetComplete n s =
      let t := emptyChannels (n + 1) (stopLog n s)
      State.modLease { t with host := { t.host with funcs := t.host.funcs.set Func.reset n Func.reset } } n
        (fun x => { x with resetting := false }) := by
  refine if_pos ?_
  simp only [Bool.and_eq_true, Bool.not_eq_true', List.any_eq_false, beq_iff_eq, decide_eq_true_eq]
  exact ⟨⟨hreset, hjobs⟩, hstarted⟩

/-- A channel whose receiver's page resets loses the words that wait. -/
def Channel.emptied (mid : Nat) (x : Channel) : Channel :=
  if x.receives mid then { x with fifo := [], drainIrq := false } else x

/-- One channel is emptied, if the MID is its receiver. -/
def emptyChannel (mid : Nat) (t : State) (c : Nat) : State :=
  if (t.channel c).receives mid then settleDrain c (t.modChannel c (fun y => { y with fifo := [] })) else t

theorem emptyChannel_only (mid c : Nat) (t : State) : OnlyChannel c t (emptyChannel mid t c) ∧
    (emptyChannel mid t c).channel c = (t.channel c).emptied mid := by
  unfold emptyChannel Channel.emptied
  split
  · obtain ⟨honly, hchannel⟩ := settleDrain_only c (t.modChannel c (fun y => { y with fifo := [] }))
    refine ⟨(onlyChannel_modChannel _ _ _).trans honly, ?_⟩
    rw [hchannel, channel_modChannel]
    simp only [List.isEmpty_nil, Bool.not_true, Bool.and_false]
  · exact ⟨⟨rfl, fun _ _ => rfl⟩, rfl⟩

/-- Each channel of a list is changed once, and nothing but channels, doorbells and what is sent. -/
theorem emptyAll (mid : Nat) {l : List Nat} (hl : l.Nodup) (t : State) :
    let v := l.foldl (emptyChannel mid) t
    v = { t with host := v.host, dome := v.dome, out := v.out } ∧ ∀ c, v.channel c = if c ∈ l then (t.channel c).emptied mid else t.channel c := by
  induction l generalizing t with
  | nil => exact ⟨rfl, fun _ => rfl⟩
  | cons a r ih =>
    obtain ⟨ha, hr⟩ := List.nodup_cons.mp hl
    obtain ⟨⟨hscope, hothers⟩, hchannel⟩ := emptyChannel_only mid a t
    obtain ⟨hrest, hall⟩ := ih hr (emptyChannel mid t a)
    refine ⟨?_, fun c => ?_⟩
    · rw [List.foldl_cons, hrest, hscope]
    · rw [List.foldl_cons, hall]
      by_cases hc : c = a
      · subst hc
        rw [if_neg ha, if_pos List.mem_cons_self, hchannel]
      · simp only [List.mem_cons, hc, false_or, hothers c hc]

theorem emptyChannels_shape (mid : Nat) (t : State) : ∃ x y z, emptyChannels mid t = { t with host := x, dome := y, out := z } ∧
    ∀ c, c < 64 → ({ t with host := x, dome := y, out := z } : State).channel c = (t.channel c).emptied mid := by
  obtain ⟨hscope, hall⟩ := emptyAll mid List.nodup_range t
  refine ⟨_, _, _, hscope, fun c hc => ?_⟩
  rw [← hscope, hall, if_pos (List.mem_range.mpr hc)]

theorem Channel.emptied_fifo (mid : Nat) (x : Channel) : (x.emptied mid).fifo = if x.receives mid = true then [] else x.fifo := by
  unfold Channel.emptied
  split <;> rfl

end

/-- Settles O38: the rules of reclaim orders, of the logging commands and of the two ends of a lease reset. -/
theorem reclaimLogsAndLeaseResets : Obligations.ReclaimLogsAndLeaseResets := by
  have hnext {t u : State} (h : t = u) : Host.Outcome.next t = (.next u : Host.Outcome State Fault Refusal) := congrArg _ h
  refine ⟨fun s mask hserves => ?orders, fun s => ⟨fun hdone htaken hin => hnext (reclaimDone_ends hdone htaken hin), fun h =>
    hnext (reclaimDone_not h)⟩, fun s iss lease tile iova pages => ?logs, fun s i flr => ?resets, fun s i => ?ends⟩
  case orders =>
    have hdome : exec (.dspReclaimMaskWrite 0 mask) s = .next (reclaimOrder 0 mask.toNat s) := hnext (bar0Row_serves (Nat.zero_le 1) hserves)
    refine ⟨fun mid hmid => hnext (dspReclaimMaskWrite_others hserves hmid), fun hnone => ?_, fun k hmask htake hreclaim hwindow hmode => ?_⟩
    · exact ⟨_, hdome.trans (hnext (reclaimOrder_none hnone)), rfl, rfl, rfl, rfl⟩
    · subst hmask
      refine ⟨_, hdome.trans (hnext (reclaimOrder_one k htake hreclaim hwindow hmode)), rfl, rfl, rfl, rfl, ?_, ?_, fun j hj => ?_⟩
      · rw [setPhase_spire]
        exact congrArg Spire.seq (modSeq_spire k.val (fun x => { x with reclaim := true }) s)
      · rw [setPhase_spire]
        rfl
      · exact (only_modVu k.val _ _ j hj).trans (only_modSeq k.val (fun x => { x with reclaim := true }) s j hj)
  case logs =>
    intro zeroed
    refine ⟨fun haccepts => ?start, fun haccepts => ?flip, fun haccepts => ?stop⟩
    case start =>
      intro u hlow hhigh hpos hmost hiova hrange htiles
      have hargs : u.logArgs lease tile iova pages := ⟨⟨hlow, hhigh⟩, ⟨hpos, hmost⟩, hiova, hrange, htiles⟩
      refine ⟨fun hon => hnext (queueCommand_refuses haccepts (logStartBody_on hargs hon) rfl), fun hon hpinned => ?_⟩
      exact ⟨_, hnext (queueCommand_done haccepts (logStartBody_starts hargs hon hpinned) rfl), zeroBitmap_modLease_shape _ _ _,
        zeroBitmap_modLease_zeroes _ _ _, congrArg Lease.log (zeroBitmap_modLease_lease _ _ _)⟩
    case flip =>
      intro u l
      refine ⟨fun h => hnext (queueCommand_refuses haccepts (logFlipBody_conflict h) rfl), fun hon hflip => ?_⟩
      exact ⟨_, hnext (queueCommand_done haccepts (logFlipBody_flips hon hflip) rfl), zeroBitmap_modLease_shape _ _ _,
        zeroBitmap_modLease_zeroes _ _ _, congrArg Lease.log (zeroBitmap_modLease_lease _ _ _)⟩
    case stop =>
      intro u l
      refine ⟨fun h => hnext (queueCommand_refuses haccepts (logStopBody_conflict h) rfl), fun hon hflip => ?_⟩
      exact ⟨_, hnext (queueCommand_done haccepts (logStopBody_stops hon hflip) rfl), rfl, congrArg Lease.log (leaseOf_modLease _ _ _),
        fun m hm => leaseOf_modLease_ne _ _ hm⟩
  case resets =>
    intro n
    refine ⟨fun h => hnext (leaseReset_nothing h), fun hn hreset hflr => ?_⟩
    have hbegun (t : State) (ht : (t.leaseOf n).resetting = false) : startLeaseReset n t = endJobsOf n (t.resetBegun n) := startLeaseReset_begins ht
    cases flr with
    | true =>
      refine ⟨_, s.resetBegun n, hnext ((leaseReset_flr hn).trans (hbegun s hreset)), rfl, rfl, ?_, fun m hm => leaseOf_modLease_ne s _ hm,
        rfl, rfl, resetBegun_started s n⟩
      exact leaseOf_modLease s n _
    | false =>
      have henable : (s.leaseOf n).enable = true := hflr.resolve_left Bool.noConfusion
      let t := s.modLease n (fun x => { x with enable := false })
      have hlease : t.leaseOf n = { s.leaseOf n with enable := false } := leaseOf_modLease s n _
      refine ⟨_, t.resetBegun n, hnext ((leaseReset_disables hn henable).trans (hbegun t (by rw [hlease]; exact hreset))), rfl, rfl, ?_,
        fun m hm => (leaseOf_modLease_ne t _ hm).trans (leaseOf_modLease_ne s _ hm), rfl, rfl, resetBegun_started t n⟩
      exact (leaseOf_modLease t n _).trans (by rw [hlease]; rfl)
  case ends =>
    intro n
    refine ⟨fun h => hnext (leaseResetComplete_waits h), fun hreset hjobs hstarted => ?_⟩
    obtain ⟨x, y, z, hempty, hchannels⟩ := emptyChannels_shape (n + 1) (stopLog n s)
    have hends := leaseResetComplete_ends hreset hjobs hstarted
    simp only [hempty] at hends
    refine ⟨_, hnext hends, Tab.get_set_same _ _ _ _, ?_, fun m hm => ?_, rfl, rfl, rfl, fun c hc => ?_⟩
    · rw [leaseOf_modLease]
      exact congrArg (fun x : Lease => { x with resetting := false }) (leaseOf_modLease s n (fun x => { x with log := { x.log with on := false } }))
    · rw [leaseOf_modLease_ne _ _ hm]
      exact leaseOf_modLease_ne s (fun x => { x with log := { x.log with on := false } }) hm
    · exact (congrArg Channel.fifo (hchannels c hc)).trans (Channel.emptied_fifo _ _)

end Sys2Proof.Machine

namespace Sys2Proof.Machine
open Sys2Proof

/-! ### What a boot leaves (R549, R551, R552) -/

section
variable {s t u : State} {n : Nat}

/-- Firmware of a bank starts: what it sets, and the records of the boot that join the queue of the log. -/
theorem bootBank_shape (b fell : Bool) (err : Byte) (x : BootRead) (s : State) : ∃ q m l, bootBank b fell err x s = { s with
    rel := { s.rel with packLoaded := decide (0 < (s.dome.bank b).packSegments), segments := (s.dome.bank b).packSegments }
    dome := { s.dome with
      bankB := b, trial := s.dome.selector.2.trial == 2, fallback := fell, bootError := err
      identityOk := x.unwraps && (s.dome.bank b).identity && !s.dome.debug
      fwVersion := (s.dome.bank b).version 1, cfgVersion := (s.dome.bank b).version 4, packVersion := (s.dome.bank b).version 2
      running := true, wdogAt := some s.clock.tick, nonce := x.nonce, heartbeats := s.clock.tick / tick100ms
      logQueue := q, logSeq := m, logLost := l } } := by
  unfold bootBank
  dsimp only
  generalize hbooted : State.modRel _ _ = w
  obtain ⟨q, m, l, hboot⟩ := logEvent_shape (.boot b fell false) w
  obtain ⟨q', m', l', hreset⟩ := logEvent_shape (.reset s.clk.rstCause) (logEvent (.boot b fell false) w)
  refine ⟨q', m', l', ?_⟩
  rw [hreset, hboot, ← hbooted]
  rfl

theorem firmwareStart_not (x : BootRead) (h : ¬ (s.clk.chipState = .boot ∧ s.dome.running = false ∧ s.dome.recovery = false)) :
    firmwareStart x s = s := by
  unfold firmwareStart
  dsimp only
  refine if_pos ?_
  simp only [Bool.or_eq_true, Bool.not_eq_true', decide_eq_false_iff_not]
  by_cases hboot : s.clk.chipState = .boot
  · by_cases hrun : s.dome.running = true
    · exact .inl (.inr hrun)
    · exact .inr (by simpa [hboot, hrun] using h)
  · exact .inl (.inl hboot)

theorem bank_capacity (d : DomeState) (c : Nat) (b : Bool) : DomeState.bank { d with capacity := c } b = d.bank b := rfl

/-- Firmware may start. -/
def State.bootDue (s : State) : Prop := s.clk.chipState = .boot ∧ s.dome.running = false ∧ s.dome.recovery = false

theorem State.bootDue.open (h : s.bootDue) : ¬ (!decide (s.clk.chipState = .boot) || s.dome.running || s.dome.recovery) = true := by
  obtain ⟨hboot, hrun, hrec⟩ := h
  simp [hboot, hrun, hrec]

theorem firmwareStart_absent {x : BootRead} (h : s.bootDue) (hmem : x.memory = false) :
    firmwareStart x s = s.modDome (fun d => { d with recovery := true, bootError := 1 }) := by
  unfold firmwareStart
  dsimp only
  rw [if_neg h.open, if_pos (by rw [hmem]; rfl)]

theorem firmwareStart_active {x : BootRead} (h : s.bootDue) (hmem : x.memory = true)
    (hvalid : (s.dome.bank s.dome.selector.2.activeB).error x.capacity = 0) :
    firmwareStart x s = bootBank s.dome.selector.2.activeB false 0 x (s.modDome (fun d => { d with capacity := x.capacity })) := by
  unfold firmwareStart
  dsimp only
  rw [if_neg h.open, if_neg (by rw [hmem]; decide), if_pos hvalid]

theorem firmwareStart_other {x : BootRead} (h : s.bootDue) (hmem : x.memory = true)
    (hbad : (s.dome.bank s.dome.selector.2.activeB).error x.capacity ≠ 0)
    (hvalid : (s.dome.bank (!s.dome.selector.2.activeB)).error x.capacity = 0) :
    firmwareStart x s = bootBank (!s.dome.selector.2.activeB) true ((s.dome.bank s.dome.selector.2.activeB).error x.capacity) x
      (s.modDome (fun d => DomeState.writeSelector (!s.dome.selector.2.activeB) 0 { d with capacity := x.capacity })) := by
  unfold firmwareStart
  dsimp only
  rw [if_neg h.open, if_neg (by rw [hmem]; decide), if_neg hbad, if_pos hvalid]
  rfl

theorem firmwareStart_none {x : BootRead} {e : Byte} (h : s.bootDue) (hmem : x.memory = true)
    (hbad : (s.dome.bank s.dome.selector.2.activeB).error x.capacity ≠ 0)
    (hother : (s.dome.bank (!s.dome.selector.2.activeB)).error x.capacity = e) (he : e ≠ 0) :
    firmwareStart x s = s.modDome (fun d => { d with recovery := true, capacity := x.capacity, bootError := e }) := by
  unfold firmwareStart
  dsimp only
  rw [if_neg h.open, if_neg (by rw [hmem]; decide), if_neg hbad, if_neg (by rw [hother]; exact he)]
  unfold State.modDome
  dsimp only
  rw [bank_capacity, hother]

/-! ### CONFIG_APPLIED -/

/-- A lane whose ENABLE is set to 1. -/
def Lane.enabled (tick : Nat) (l : Lane) : Lane :=
  if l.regs.state = .disabled ∨ l.regs.state = .failed then (l.ctrl true 0).train tick else l.ctrl true 0

theorem Lane.enabled_enable (tick : Nat) (l : Lane) : (l.enabled tick).regs.enable = true := by
  unfold Lane.enabled
  split <;> rfl

theorem Lane.enabled_training (tick : Nat) {l : Lane} (h : l.regs.state = .disabled) : (l.enabled tick).regs.state = .training := by
  unfold Lane.enabled
  rw [if_pos (.inl h)]
  rfl

/-- Each lane of a list is enabled once, and nothing but lanes changes. -/
theorem enableAll {l : List Nat} (hl : l.Nodup) (t : State) :
    let v := l.foldl (fun u n => laneEnable n true u) t
    LanesScope t v ∧ ∀ n, v.lane n = if n ∈ l then (t.lane n).enabled t.clock.tick else t.lane n := by
  induction l generalizing t with
  | nil => exact ⟨rfl, fun _ => rfl⟩
  | cons a r ih =>
    obtain ⟨ha, hr⟩ := List.nodup_cons.mp hl
    obtain ⟨⟨hscope, hothers⟩, hlane⟩ := laneEnable_on a t
    obtain ⟨hrest, hall⟩ := ih hr (laneEnable a true t)
    refine ⟨hscope.trans hrest, fun n => ?_⟩
    rw [List.foldl_cons, hall, hscope.clock]
    by_cases hn : n = a
    · subst hn
      rw [if_neg ha, if_pos List.mem_cons_self, hlane]
      rfl
    · simp only [List.mem_cons, hn, false_or, hothers n hn]

theorem configApplied_not (h : ¬ (s.clk.chipState = .boot ∧ s.dome.running = true ∧ s.dome.chipId = 0xFFFF)) : configApplied s = s :=
  if_neg (by simpa [and_assoc] using h)

theorem configApplied_due (h : s.clk.chipState = .boot ∧ s.dome.running = true ∧ s.dome.chipId = 0xFFFF) :
    configApplied s =
      let c := (s.dome.bank s.dome.bankB).cfg
      ((List.range 64).filter (fun n => (c.lanes.get LaneCfg.off n).enabled)).foldl (fun t n => laneEnable n true t)
        (s.modDome (fun d => { d with cfg := c, chipId := c.chipId })) :=
  if_pos (by simpa [and_assoc] using h)

/-! ### TIME_ACQUIRE_ENTRY (R550) -/

theorem bindChannels_shape (l : List (Nat × Nat)) (s : State) : ∃ h, bindChannels l s = { s with host := h } := by
  unfold bindChannels
  generalize l.zipIdx = ps
  induction ps generalizing s with
  | nil => exact ⟨_, rfl⟩
  | cons p r ih =>
    obtain ⟨h, hrest⟩ := ih (s.modChannel p.2 _)
    exact ⟨h, hrest⟩

/-- A channel bound to a pair of MIDs. -/
def Channel.bound (sender receiver : Nat) (y : Channel) : Channel :=
  { y with valid := true, sender := BitVec.ofNat 13 sender, receiver := BitVec.ofNat 13 receiver }

theorem bindChannels_default (s : State) :
    let v := bindChannels [(1, 0), (0, 1)] s
    v.channel 0 = { s.channel 0 with valid := true, sender := 1, receiver := 0 } ∧
    v.channel 1 = { s.channel 1 with valid := true, sender := 0, receiver := 1 } ∧ ∀ n, 2 ≤ n → v.channel n = s.channel n := by
  have hbind : bindChannels [(1, 0), (0, 1)] s = (s.modChannel 0 (Channel.bound 1 0)).modChannel 1 (Channel.bound 0 1) := rfl
  rw [hbind]
  refine ⟨?_, ?_, fun n hn => ?_⟩
  · rw [channel_modChannel_ne _ _ (by decide), channel_modChannel]
    rfl
  · rw [channel_modChannel, channel_modChannel_ne _ _ (by decide)]
    rfl
  · rw [channel_modChannel_ne _ _ (by omega), channel_modChannel_ne _ _ (by omega)]

theorem timeAcquireEntry_not (h : ¬ (s.clk.chipState = .boot ∧ s.dome.running = true ∧ s.dome.chipId ≠ 0xFFFF)) :
    timeAcquireEntry s = s := if_neg (by simpa [and_assoc] using h)

/-- The Dome after TIME_ACQUIRE_ENTRY: a trial is committed, and the time of the boot is noted. -/
def DomeState.acquires (tick : Nat) (d : DomeState) : DomeState :=
  { (if d.trial then d.writeSelector d.bankB 0 else d) with trial := false, bootUs := BitVec.ofNat 32 (tick / tickMicro) }

theorem DomeState.acquires_copies (tick : Nat) (d : DomeState) : (d.acquires tick).copies = if d.trial = true then
    d.copies.set Selector.none_ (1 - d.selector.1) ⟨true, d.selector.2.seq + 1, d.bankB, 0⟩ else d.copies := by
  unfold DomeState.acquires
  split <;> rfl

theorem timeAcquireEntry_due (h : s.clk.chipState = .boot ∧ s.dome.running = true ∧ s.dome.chipId ≠ 0xFFFF) :
    timeAcquireEntry s =
      let s1 := if s.host.locked then s else bindChannels s.dome.cfg.bindings s
      { s1 with host := { s1.host with locked := true }, clk := { s1.clk with chipState := .timeAcquire }, dome := s1.dome.acquires s.clock.tick } :=
  if_pos (by simpa [and_assoc] using h)

/-! ### Recovery and the watchdog (R538, R552) -/

theorem recoveredBank_identity (x a b : BankImg) : (recoveredBank x a b).identity = (a.identity || b.identity) := by
  unfold recoveredBank
  by_cases h : (a.identity || b.identity) = true
  · rw [if_pos h, h]
    rfl
  · rw [if_neg h]
    exact (eq_false_of_ne_true h).symm

theorem recoveryImageReceive_not {x : BankImg} (h : s.dome.recovery = false ∨
    (recoveredBank x s.dome.bankA s.dome.bankBImg).error s.dome.capacity ≠ 0) : recoveryImageReceive x s = s := by
  refine if_neg ?_
  rw [Bool.and_eq_true, decide_eq_true_eq]
  rintro ⟨hrec, herror⟩
  rcases h with h | h
  · exact absurd (hrec.symm.trans h) (by decide)
  · exact h herror

theorem recoveryImageReceive_takes {x : BankImg} (hrec : s.dome.recovery = true)
    (herror : (recoveredBank x s.dome.bankA s.dome.bankBImg).error s.dome.capacity = 0) : recoveryImageReceive x s =
      chipReset .chipResetCmd (s.modDome (fun d => (d.setBank false (recoveredBank x s.dome.bankA s.dome.bankBImg)).writeSelector false 0)) :=
  if_pos (by rw [Bool.and_eq_true, decide_eq_true_eq]; exact ⟨hrec, herror⟩)

/-- A reset while no STAGE is under way keeps both banks. -/
theorem keep_banks {d : DomeState} (cause : ResetCause) (h : d.stage = none) :
    (d.keep cause).bankA = d.bankA ∧ (d.keep cause).bankBImg = d.bankBImg := by
  unfold DomeState.keep
  rw [h]
  exact ⟨rfl, rfl⟩

theorem kick_restarts (s : State) : kick s = { s with dome := { s.dome with wdogAt := s.dome.wdogAt.map (fun _ => s.clock.tick) } } := by
  unfold kick
  cases h : s.dome.wdogAt with
  | none =>
    rw [if_neg (by decide), Option.map_none, ← h]
  | some a => rfl

theorem watchdogExpiry_off (h : s.dome.wdogAt = none ∨ s.domeWorks = false) : watchdogExpiry s = s := by
  unfold watchdogExpiry
  cases hat : s.dome.wdogAt with
  | none => rfl
  | some a => exact if_neg (by simp [h.resolve_left (by simp [hat])])

theorem watchdogExpiry_early (hat : s.dome.wdogAt = some n) (h : s.clock.tick < n + s.dome.wdogTimeout.toNat * 1700000) :
    watchdogExpiry s = s := by
  unfold watchdogExpiry
  rw [hat]
  refine if_neg ?_
  simp only [Bool.and_eq_true, decide_eq_true_eq]
  exact fun hdue => absurd hdue.2 (Nat.not_le_of_lt h)

theorem watchdogExpiry_resets (hat : s.dome.wdogAt = some n) (hworks : s.domeWorks = true)
    (h : n + s.dome.wdogTimeout.toNat * 1700000 ≤ s.clock.tick) :
    watchdogExpiry s = chipReset .domeWdog (errRecord 14 (s.freeValue % 15) 0 0 0 0 0 s.useFree) := by
  unfold watchdogExpiry
  rw [hat]
  exact if_pos (by simp only [Bool.and_eq_true, decide_eq_true_eq]; exact ⟨hworks, h⟩)

theorem domeHeartbeat_goes (hworks : s.domeWorks = true) (h : (s.dome.heartbeats + 1) * 170000000 ≤ s.clock.tick) : domeHeartbeat s =
    (s.modDome (fun d => { d with heartbeats := d.heartbeats + 1 })).emit (.mctp .heartbeat) :=
  if_pos (by simp only [Bool.and_eq_true, decide_eq_true_eq]; exact ⟨hworks, h⟩)

theorem domeHeartbeat_not (h : s.domeWorks = false ∨ s.clock.tick < (s.dome.heartbeats + 1) * 170000000) : domeHeartbeat s = s := by
  refine if_neg ?_
  simp only [Bool.and_eq_true, decide_eq_true_eq]
  rintro ⟨hworks, hdue⟩
  rcases h with h | h
  · exact absurd (hworks.symm.trans h) (by decide)
  · exact absurd hdue (Nat.not_le_of_lt h)

/-! ### Sensors (R539, R599) -/

/-- The readings taken into a bank of registers. -/
def takeReadings (l : List Nat) (n : Nat) (t : Tab (BitVec 16)) : Tab (BitVec 16) :=
  ((l.take n).zipIdx).foldl (fun u p => u.set 0 p.2 (BitVec.ofNat 16 p.1)) t

theorem putReadings_get (l : List Nat) (o : Nat) (t : Tab (BitVec 16)) (n : Nat) :
    ((l.zipIdx o).foldl (fun u p => u.set 0 p.2 (BitVec.ofNat 16 p.1)) t).get 0 n =
      if h : o ≤ n ∧ n < o + l.length then BitVec.ofNat 16 (l[n - o]'(by omega)) else t.get 0 n := by
  induction l generalizing o t with
  | nil => rw [dif_neg (by simp)]; rfl
  | cons a r ih =>
    rw [List.zipIdx_cons, List.foldl_cons, ih, Tab.get_set]
    by_cases heq : o = n
    · subst heq
      rw [dif_neg (by omega), dif_pos (by simp only [List.length_cons]; omega), if_pos rfl]
      simp only [Nat.sub_self, List.getElem_cons_zero]
    · by_cases hin : o + 1 ≤ n ∧ n < o + 1 + r.length
      · have hsucc : n - o = (n - (o + 1)) + 1 := by omega
        rw [dif_pos hin, dif_pos (by simp only [List.length_cons]; omega)]
        simp only [hsucc, List.getElem_cons_succ]
      · rw [dif_neg hin, dif_neg (by simp only [List.length_cons]; omega), if_neg heq]

theorem takeReadings_get (l : List Nat) (m : Nat) (t : Tab (BitVec 16)) (n : Nat) : (takeReadings l m t).get 0 n =
    if h : n < l.length ∧ n < m then BitVec.ofNat 16 (l[n]'h.1) else t.get 0 n := by
  unfold takeReadings
  rw [putReadings_get]
  by_cases h : n < l.length ∧ n < m
  · rw [dif_pos h, dif_pos (by simp only [List.length_take]; omega)]
    simp only [List.getElem_take, Nat.sub_zero]
  · rw [dif_neg h, dif_neg (by simp only [List.length_take]; omega)]

theorem tempMax_temps (h : t.dome.temps = s.dome.temps) : t.tempMax = s.tempMax := by
  unfold State.tempMax
  rw [h]

/-- A stop that is raised: in force from then on, its cause and the time since which the samples are quiet noted. -/
theorem estopRaise_shape (cause : Nat) (s : State) : (estopRaise cause s).pwr.estop = true ∧
    (estopRaise cause s).dome.temps = s.dome.temps ∧ (estopRaise cause s).dome.volts = s.dome.volts ∧
    (estopRaise cause s).dome.sampled = s.dome.sampled ∧ (estopRaise cause s).pins = s.pins := by
  unfold estopRaise
  dsimp only
  by_cases hstop : s.pwr.estop = true
  · rw [if_pos hstop]
    exact ⟨hstop, rfl, rfl, rfl, rfl⟩
  · rw [if_neg hstop]
    generalize hw : State.modPwr (State.modPwr s _) _ = w
    have hcalm := calm_foldl (f := fun t k => powerStop k t) (fun t k => powerStop_calm k t) (List.range 32) w
    have hkeeps {α : Type} (g : State → α) (hg : ∀ x, g (State.calm x) = g x) : g ((List.range 32).foldl (fun t k => powerStop k t) w) = g w :=
      (hg _).symm.trans ((congrArg g hcalm).trans (hg w))
    refine ⟨(hkeeps (·.pwr.estop) fun _ => rfl).trans ?_, (hkeeps (·.dome.temps) fun _ => rfl).trans ?_,
      (hkeeps (·.dome.volts) fun _ => rfl).trans ?_, (hkeeps (·.dome.sampled) fun _ => rfl).trans ?_, (hkeeps (·.pins) fun _ => rfl).trans ?_⟩ <;>
      rw [← hw] <;> rfl

/-- The Dome has taken in these readings. -/
def State.readings (s : State) (temps volts : List Nat) (x : DomeState) : Prop :=
  x.sampled = true ∧ x.temps = takeReadings temps 96 s.dome.temps ∧ x.volts = takeReadings volts 48 s.dome.volts

/-- An alarm of the readings rings doorbell bit 8 and leaves them. -/
theorem alarmed_keeps {temps volts : List Nat} {c : Prop} [Decidable c]
    (h : s.readings temps volts t.dome ∧ t.pwr = s.pwr ∧ t.pins = s.pins) :
    let u := if c then ringDome 8 t else t
    s.readings temps volts u.dome ∧ u.pwr = s.pwr ∧ u.pins = s.pins := by
  by_cases hc : c
  · simp only [hc, if_true]
    exact h
  · simp only [hc, if_false]
    exact h

/-- THERMTRIP_N is driven from 105 °C on. -/
def State.tripped (s : State) : State := if degrees 105 ≤ s.tempMax.1 then thermtrip s else s

theorem tripped_keeps (s : State) : s.tripped.dome = s.dome ∧ s.tripped.pwr = s.pwr ∧
    (s.tripped.pins.trips = true ↔ s.pins.trips = true ∨ 1680 ≤ s.tempMax.1) := by
  unfold State.tripped
  split
  · next hhot => exact ⟨rfl, rfl, fun _ => .inr hhot, fun _ => rfl⟩
  · next hcool => exact ⟨rfl, rfl, .inl, fun h => h.resolve_right hcool⟩

theorem sensorSample_idle {temps volts : List Nat} (h : s.domeWorks = false) : sensorSample temps volts s = s := by
  unfold sensorSample
  dsimp only
  rw [if_pos (by rw [h]; rfl)]

/-- A sample ends in the state `w`, which a stop for heat may follow; with no stop from 95 °C on, one is in force already. -/
theorem sensorSample_works (temps volts : List Nat) (h : s.domeWorks = true) : ∃ w : State,
    s.readings temps volts w.dome ∧ w.pwr.estop = s.pwr.estop ∧ (w.pins.trips = true ↔ s.pins.trips = true ∨ 1680 ≤ w.tempMax.1) ∧
    (sensorSample temps volts s = estopRaise causeThermal w ∨
      sensorSample temps volts s = w ∧ (1520 ≤ w.tempMax.1 → s.pwr.estop = true)) := by
  generalize hrun : sensorSample temps volts s = v
  unfold sensorSample at hrun
  rw [if_neg (by rw [h]; decide)] at hrun
  extract_lets put was s1 c hot off s2 s3 s4 at hrun
  have h1 : s.readings temps volts s1.dome ∧ s1.pwr = s.pwr ∧ s1.pins = s.pins := ⟨⟨rfl, rfl, rfl⟩, rfl, rfl⟩
  have h2 : s.readings temps volts s2.dome ∧ s2.pwr = s.pwr ∧ s2.pins = s.pins := alarmed_keeps h1
  have h3 : s3 = s2.tripped := rfl
  have h4 : s4 = noteQuiet s3 := rfl
  clear_value s4 s3 s2 s1 put off hot
  subst h4 h3
  obtain ⟨hread, hpwr, hpins⟩ := h2
  obtain ⟨hdome, hpwr3, htrips⟩ := tripped_keeps s2
  rw [hpins] at htrips
  have hmax : (noteQuiet s2.tripped).tempMax = s2.tempMax := tempMax_temps (congrArg (fun d => d.temps) hdome)
  have hestop : (noteQuiet s2.tripped).pwr.estop = s.pwr.estop := congrArg (fun p => p.estop) (hpwr3.trans hpwr)
  have hread4 : s.readings temps volts (noteQuiet s2.tripped).dome := hdome.symm ▸ hread
  refine ⟨noteQuiet s2.tripped, hread4, hestop, hmax.symm ▸ htrips, ?_⟩
  generalize noteQuiet s2.tripped = s4 at hrun
  by_cases hraise : degrees 95 ≤ s4.tempMax.1 ∧ (was < degrees 95 ∨ (!s.dome.sampled) = true ∨ (!s.pwr.estop) = true)
  · exact .inl (hrun.symm.trans (if_pos hraise))
  · refine .inr ⟨hrun.symm.trans (if_neg hraise), fun hhot => ?_⟩
    refine Classical.byContradiction fun hnot => ?_
    exact hraise ⟨hhot, .inr (.inr (by rw [eq_false_of_ne_true hnot]; rfl))⟩

end

/-- Settles O45: the rules of the boot, of CONFIG, of TIME_ACQUIRE, of recovery, of the watchdog and of the sensors. -/
theorem domeBootsRecoversAndIsWatched : Obligations.DomeBootsRecoversAndIsWatched := by
  have hnext {t u : State} (h : t = u) : Host.Outcome.next t = (.next u : Host.Outcome State Fault Refusal) := congrArg _ h
  refine ⟨?firmware, ?config, ?acquire, ?recovery, ?watchdog, ?sensors⟩
  case firmware =>
    intro s x a due runs
    refine ⟨fun h => hnext (firmwareStart_not x h), fun h hmem => hnext (firmwareStart_absent h hmem), fun h hmem hvalid => ?_,
      fun h hmem hbad hvalid => ?_, fun h hmem hbad hother => hnext (firmwareStart_none h hmem hbad rfl hother)⟩
    · obtain ⟨q, m, l, hboot⟩ := bootBank_shape a false 0 x (s.modDome (fun d => { d with capacity := x.capacity }))
      exact ⟨_, hnext ((firmwareStart_active h hmem hvalid).trans hboot),
        ⟨rfl, rfl, rfl, rfl, h.2.2, rfl, rfl, rfl, rfl, rfl, rfl, rfl, rfl, rfl, rfl⟩, rfl, rfl⟩
    · obtain ⟨q, m, l, hboot⟩ := bootBank_shape (!a) true ((s.dome.bank a).error x.capacity) x
        (s.modDome (fun d => DomeState.writeSelector (!a) 0 { d with capacity := x.capacity }))
      exact ⟨_, hnext ((firmwareStart_other h hmem hbad hvalid).trans hboot),
        ⟨rfl, rfl, rfl, rfl, h.2.2, rfl, rfl, rfl, rfl, rfl, rfl, rfl, rfl, rfl, rfl⟩, rfl⟩
  case config =>
    intro s due c
    refine ⟨fun h => hnext (configApplied_not h), fun h => ?_⟩
    obtain ⟨hscope, hlanes⟩ := enableAll (List.nodup_range.filter (fun n => (c.lanes.get LaneCfg.off n).enabled))
      (s.modDome (fun d => { d with cfg := c, chipId := c.chipId }))
    refine ⟨_, hnext ((configApplied_due h).trans hscope), rfl, rfl, rfl, fun n hon => ?_, fun n hoff => ?_⟩
    · have hlane := (hlanes n).trans (if_pos (List.mem_filter.mpr ⟨List.mem_range.mpr n.isLt, hon⟩))
      exact ⟨(congrArg (fun x => x.regs.enable) hlane).trans (Lane.enabled_enable _ _),
        fun hdis => (congrArg (fun x => x.regs.state) hlane).trans (Lane.enabled_training _ hdis)⟩
    · have hout : n ∉ (List.range 64).filter (fun n => (c.lanes.get LaneCfg.off n).enabled) :=
        fun hmem => absurd (hoff.symm.trans (List.mem_filter.mp hmem).2) (by decide)
      exact (hlanes n).trans (if_neg hout)
  case acquire =>
    intro s due
    refine ⟨fun h => hnext (timeAcquireEntry_not h), fun h => ?_⟩
    have hrun := timeAcquireEntry_due h
    dsimp only at hrun
    by_cases hlocked : s.host.locked = true
    · rw [if_pos hlocked] at hrun
      refine ⟨_, hnext hrun, rfl, rfl, rfl, rfl, DomeState.acquires_copies _ _, fun _ => ?_, fun hopen => absurd (hlocked.symm.trans hopen) (by decide)⟩
      dsimp only
      rw [← hlocked]
    · rw [if_neg hlocked] at hrun
      obtain ⟨host, hbind⟩ := bindChannels_shape s.dome.cfg.bindings s
      rw [hbind] at hrun
      refine ⟨_, hnext hrun, rfl, rfl, rfl, rfl, DomeState.acquires_copies _ _, fun h => absurd h hlocked, fun _ hdefault => ?_⟩
      have hl : s.dome.cfg.bindings = [(1, 0), (0, 1)] := by
        unfold CfgData.bindings
        rw [hdefault]
        rfl
      have hchannels := bindChannels_default s
      rw [← hl, hbind] at hchannels
      exact hchannels
  case recovery =>
    intro s x y
    refine ⟨fun h => hnext (recoveryImageReceive_not h), fun hrec herror => ?_⟩
    refine ⟨_, hnext (recoveryImageReceive_takes hrec herror), recoveredBank_identity _ _ _, fun hstage => ?_, rfl, rfl, rfl, rfl⟩
    obtain ⟨ha, hb⟩ := keep_banks (d := (s.dome.setBank false y).writeSelector false 0) .chipResetCmd hstage
    exact ⟨ha, hb⟩
  case watchdog =>
    intro s mid
    refine ⟨fun hreach hmid => hnext ((onBus_reachable hreach).trans (if_neg hmid)),
      fun hreach hmid => hnext ((onBus_reachable hreach).trans ((if_pos hmid).trans (kick_restarts s))),
      fun h => hnext (watchdogExpiry_off h), fun t hat hworks => ⟨fun h => hnext (watchdogExpiry_early hat h), fun h => ?_⟩,
      fun hworks h => hnext (domeHeartbeat_goes hworks h), fun h => hnext (domeHeartbeat_not h)⟩
    have hcalm := errRecord_calm 14 (s.freeValue % 15) 0 0 0 0 0 s.useFree
    have hrun := watchdogExpiry_resets hat hworks h
    generalize errRecord 14 (s.freeValue % 15) 0 0 0 0 0 s.useFree = w at hcalm hrun
    have hkeeps {α : Type} (g : State → α) (hg : ∀ x, g (State.calm x) = g x) : g w = g s.useFree :=
      (hg _).symm.trans ((congrArg g hcalm).trans (hg _))
    refine ⟨_, hnext hrun, rfl, rfl, hkeeps (·.dome.copies) fun _ => rfl, fun hstage => ?_, hkeeps (·.dome.log) fun _ => rfl, rfl⟩
    obtain ⟨ha, hb⟩ := keep_banks (d := w.dome) .domeWdog ((hkeeps (·.dome.stage) fun _ => rfl).trans hstage)
    exact ⟨ha.trans (hkeeps (·.dome.bankA) fun _ => rfl), hb.trans (hkeeps (·.dome.bankBImg) fun _ => rfl)⟩
  case sensors =>
    intro s temps volts
    refine ⟨fun h => hnext (sensorSample_idle h), fun h => ?_⟩
    obtain ⟨w, ⟨hsampled, htemps, hvolts⟩, hestop, htrips, hraised | ⟨hcalm, hforce⟩⟩ := sensorSample_works temps volts h
    · obtain ⟨gestop, gtemps, gvolts, gsampled, gpins⟩ := estopRaise_shape causeThermal w
      refine ⟨_, hnext hraised, gsampled.trans hsampled, fun n => ?_, fun n => ?_, ?_, fun _ => gestop⟩
      · rw [gtemps, htemps]
        exact takeReadings_get _ _ _ _
      · rw [gvolts, hvolts]
        exact takeReadings_get _ _ _ _
      · rw [gpins, tempMax_temps gtemps]
        exact htrips
    · refine ⟨_, hnext hcalm, hsampled, fun n => ?_, fun n => ?_, htrips, fun hhot => hestop.trans (hforce hhot)⟩
      · rw [htemps]
        exact takeReadings_get _ _ _ _
      · rw [hvolts]
        exact takeReadings_get _ _ _ _

end Sys2Proof.Machine

namespace Sys2Proof.Machine
open Sys2Proof

/-! ### Replies of the Dome (R555) -/

section
variable {s t u : State} {c mid type tag : Nat} {words : List Nat}

/-- Words pushed one after another into a FIFO that has room for them all. -/
theorem pushAll_fifo (l : List Nat) (s : State) (hroom : (s.channel c).fifo.length + l.length ≤ 32) :
    ((l.foldl (fun t w => push c (word w) t) s).channel c).fifo.map (fun x => x.1.toNat) =
      (s.channel c).fifo.map (fun x => x.1.toNat) ++ l.map (fun w => w % 2 ^ 32) := by
  induction l generalizing s with
  | nil => exact (List.append_nil _).symm
  | cons a r ih =>
    rw [List.length_cons] at hroom
    have hchannel := push_channel (v := word a) (show (s.channel c).fifo.length < 32 by omega)
    rw [List.foldl_cons, ih (push c (word a) s) (by rw [hchannel, List.length_append, List.length_singleton]; omega), hchannel]
    simp [word]

theorem pushAll_only (l : List Nat) (s : State) : OnlyChannel c s (l.foldl (fun t w => push c (word w) t) s) := by
  induction l generalizing s with
  | nil => exact ⟨rfl, fun _ _ => rfl⟩
  | cons a r ih => exact (push_only c (word a) s).trans (ih _)

/-- The channel of the replies to a MID: the first that is bound from the Dome to it. -/
theorem domeReply_channel {c : Fin 64} (hbound : ((s.channel c).sends 0 && (s.channel c).receives mid) = true)
    (hfirst : ∀ n : Nat, n < c.val → ((s.channel n).sends 0 && (s.channel n).receives mid) = false) :
    domeReply mid type tag words s = (((type + 0x80) * 2 ^ 24 + tag % 256 * 2 ^ 16 + words.length) :: words).foldl
      (fun t w => push c.val (word w) t)
      (s.emit (.mailbox c.val (((type + 0x80) * 2 ^ 24 + tag % 256 * 2 ^ 16 + words.length) :: words))) := by
  have hfind : (List.range 64).find? (fun n => (s.channel n).sends 0 && (s.channel n).receives mid) = some c.val := by
    rw [List.find?_range_eq_some]
    exact ⟨hbound, List.mem_range.mpr c.isLt, fun n hn => by rw [hfirst n hn]; rfl⟩
  unfold domeReply
  rw [hfind]

/-- Of the Dome a doorbell of a MID changes the Dome's own doorbell at most. -/
theorem ringMid_dome (m i : Nat) (s : State) : ∃ x y, (ringMid m i s).dome = { s.dome with dbStatus := x, dbSetAt := y } := by
  unfold ringMid
  split
  · exact ⟨_, _, rfl⟩
  · obtain ⟨x, z, h⟩ := ringFunc_funcs (m - 1) i s
    rw [h]
    exact ⟨_, _, rfl⟩

theorem push_dome (c : Nat) (v : Word) (s : State) : ∃ x y, (push c v s).dome = { s.dome with dbStatus := x, dbSetAt := y } := by
  by_cases h : 32 ≤ (s.channel c).fifo.length
  · rw [push_full h]
    exact ⟨_, _, rfl⟩
  · rw [push_space (Nat.not_le.mp h)]
    exact ringMid_dome _ _ _

theorem pushAll_dome (l : List Nat) (s : State) :
    ∃ x y, (l.foldl (fun t w => push c (word w) t) s).dome = { s.dome with dbStatus := x, dbSetAt := y } := by
  induction l generalizing s with
  | nil => exact ⟨_, _, rfl⟩
  | cons a r ih =>
    obtain ⟨x, y, hpush⟩ := push_dome c (word a) s
    obtain ⟨x', y', hrest⟩ := ih (push c (word a) s)
    exact ⟨x', y', by rw [List.foldl_cons, hrest, hpush]⟩

theorem domeReply_dome (mid type tag : Nat) (words : List Nat) (s : State) :
    ∃ x y, (domeReply mid type tag words s).dome = { s.dome with dbStatus := x, dbSetAt := y } := by
  unfold domeReply
  split
  · next c hfind =>
    exact pushAll_dome _ _
  · exact ⟨_, _, rfl⟩

/-! ### Requests to the Dome (Table 16.8) -/

variable {hostOnly : Bool} {f : Nat → State → State}

theorem domeRequest_ignored (h : (s.channel c).receives 0 = false ∨ s.domeWorks = false) : domeRequest c type tag hostOnly f s = s := by
  unfold domeRequest State.requester
  by_cases hto : (s.channel c).receives 0 = true
  · simp only [hto, if_true]
    exact if_pos (by rw [h.resolve_left (by simp [hto])]; rfl)
  · simp only [hto]
    rfl

theorem domeRequest_mid (hto : (s.channel c).receives 0 = true) (hworks : s.domeWorks = true) :
    domeRequest c type tag hostOnly f s = if s.rel.fatal then domeReply (s.channel c).sender.toNat type tag [1] s
      else if hostOnly && decide ((s.channel c).sender.toNat ≠ 1) then domeReply (s.channel c).sender.toNat type tag [2] s
      else f (s.channel c).sender.toNat s := by
  unfold domeRequest State.requester
  simp only [hto, if_true]
  exact if_neg (by rw [hworks]; decide)

theorem domeRequest_fatal (hto : (s.channel c).receives 0 = true) (hmid : (s.channel c).sender.toNat = mid)
    (hworks : s.domeWorks = true) (hfatal : s.rel.fatal = true) : domeRequest c type tag hostOnly f s = domeReply mid type tag [1] s := by
  rw [domeRequest_mid hto hworks, if_pos hfatal, hmid]

theorem domeRequest_serves (hto : (s.channel c).receives 0 = true) (hmid : (s.channel c).sender.toNat = mid)
    (hworks : s.domeWorks = true) (hfatal : s.rel.fatal = false) (hhost : hostOnly = false ∨ mid = 1) :
    domeRequest c type tag hostOnly f s = f mid s := by
  rw [domeRequest_mid hto hworks, hmid, if_neg (by rw [hfatal]; decide)]
  refine if_neg ?_
  rw [Bool.and_eq_true, decide_eq_true_eq]
  rintro ⟨hon, hother⟩
  exact hhost.elim (fun h => absurd (hon.symm.trans h) (by decide)) hother

theorem domeRequest_hostOnly (hto : (s.channel c).receives 0 = true) (hmid : (s.channel c).sender.toNat = mid)
    (hworks : s.domeWorks = true) (hfatal : s.rel.fatal = false) (hother : mid ≠ 1) :
    domeRequest c type tag true f s = domeReply mid type tag [2] s := by
  rw [domeRequest_mid hto hworks, hmid, if_neg (by rw [hfatal]; decide)]
  exact if_pos (by rw [Bool.true_and, decide_eq_true_eq]; exact hother)

end

/-! ### STAGE and LOG_READ (R556, R561) -/

section
variable {s t u : State} {c tag kind first tiles mid fromSeq count : Nat}

theorem hostTiles_iff (s : State) (l : List Nat) : s.hostTiles l = true ↔ ∀ n ∈ l, (s.tile n).lease = 0 ∧ (s.tile n).radio = false := by
  simp [State.hostTiles]

theorem pinnedTiles_iff (s : State) (l : List Nat) : s.pinnedTiles l = true ↔ ∀ n ∈ l, (s.tile n).inHbm = true ∧ (s.tile n).pin ≠ 0 := by
  simp [State.pinnedTiles]

theorem mayStage_iff (s : State) : s.mayStage = true ↔ s.dome.stage = none ∧ s.dome.selector.2.trial ≠ 1 ∧ s.dome.trial = false := by
  simp [State.mayStage, and_assoc]

theorem rangeOk_iff {first count most : Nat} : rangeOk first count most = true ↔ 0 < count ∧ count ≤ most ∧ first + count ≤ tileCount :=
  decide_eq_true_iff

/-- The arguments of a STAGE hold: its KIND, its range of tiles, and whose they are. -/
def State.stageArgs (s : State) (kind first tiles : Nat) : Prop := kind ≤ 3 ∧ 0 < tiles ∧ tiles ≤ 256 ∧ first + tiles ≤ tileCount ∧
  (∀ n ∈ tileRange first tiles, (s.tile n).lease = 0 ∧ (s.tile n).radio = false)

/-- A STAGE may begin: its tiles are READY in HBM and pinned, and nothing bars it. -/
def State.stageFits (s : State) (first tiles : Nat) : Prop :=
  (∀ n ∈ tileRange first tiles, (s.tile n).inHbm = true ∧ (s.tile n).pin ≠ 0) ∧ s.dome.stage = none ∧ s.dome.selector.2.trial ≠ 1 ∧ s.dome.trial = false

theorem stageArgs_iff : s.stageArgs kind first tiles ↔
    ¬ (3 < kind ∨ (!rangeOk first tiles 256) = true ∨ (!s.hostTiles (tileRange first tiles)) = true) := by
  unfold State.stageArgs
  rw [← hostTiles_iff, Bool.not_eq_true', Bool.not_eq_true', ← Bool.not_eq_true, ← Bool.not_eq_true, rangeOk_iff, not_or, not_or, Classical.not_not, Classical.not_not,
    Nat.not_lt, and_assoc, and_assoc]

theorem stageFits_iff : s.stageFits first tiles ↔
    ¬ ((!s.pinnedTiles (tileRange first tiles)) = true ∨ (!s.mayStage) = true) := by
  unfold State.stageFits
  rw [← pinnedTiles_iff, ← mayStage_iff, Bool.not_eq_true', Bool.not_eq_true', ← Bool.not_eq_true, ← Bool.not_eq_true, not_or, Classical.not_not, Classical.not_not]

theorem stage_badArgs (h : ¬ s.stageArgs kind first tiles) :
    stage c tag kind first tiles mid s = domeReply mid 2 tag [2] (logEvent (.stage 2) s) := by
  rw [stageArgs_iff, Classical.not_not] at h
  exact if_pos h

theorem stage_barred (h : s.stageArgs kind first tiles) (hfit : ¬ s.stageFits first tiles) :
    stage c tag kind first tiles mid s = domeReply mid 2 tag [1] (logEvent (.stage 1) s) := by
  rw [stageFits_iff, Classical.not_not] at hfit
  exact (if_neg (stageArgs_iff.mp h)).trans (if_pos hfit)

theorem stage_poisoned (h : s.stageArgs kind first tiles) (hfit : s.stageFits first tiles)
    (hpoison : s.runPoisoned first 0 (tiles + 1) (tiles * tileBytes) = true) :
    stage c tag kind first tiles mid s = domeReply mid 2 tag [7] (logEvent (.stage 7) (consumePoison 1 s)) :=
  (if_neg (stageArgs_iff.mp h)).trans ((if_neg (stageFits_iff.mp hfit)).trans (if_pos hpoison))

theorem stage_begins (h : s.stageArgs kind first tiles) (hfit : s.stageFits first tiles)
    (hpoison : s.runPoisoned first 0 (tiles + 1) (tiles * tileBytes) = false) :
    stage c tag kind first tiles mid s = s.modDome (fun d => { d with stage := some ⟨c, tag, kind, first, tiles⟩ }) :=
  (if_neg (stageArgs_iff.mp h)).trans ((if_neg (stageFits_iff.mp hfit)).trans (if_neg (by rw [hpoison]; decide)))

/-! #### The records that LOG_READ copies -/

theorem LogRec.bytes_length (r : LogRec) (free : Nat) : (r.bytes free).length = 64 := by
  simp [LogRec.bytes, leBytes_length]

/-- A record begins with its SEQ. -/
theorem LogRec.bytes_seq (r : LogRec) (free : Nat) : (r.bytes free).take 4 = leBytes r.seq.toNat 4 := by
  unfold LogRec.bytes
  simp only [List.append_assoc]
  exact List.take_left' (leBytes_length _ _)

/-- The first bytes of a string that is written are read back. -/
theorem Mem.readBytes_writeBytes_take (m : Mem) (a n : Nat) (l : List Byte) (hn : n ≤ l.length) :
    (m.writeBytes a l).readBytes a n = l.take n := by
  apply List.ext_getElem
  · rw [Mem.readBytes_length, List.length_take, Nat.min_eq_left hn]
  · intro i h1 h2
    rw [Mem.readBytes_length] at h1
    rw [Mem.readBytes_get, Mem.read8_writeBytes_inside _ _ _ _ (by omega), List.getElem_take]

/-- A value depends on its own bytes alone. -/
theorem Mem.readLE_congr {m m' : Mem} {a n : Nat} (h : ∀ b, a ≤ b → b < a + n → m.read8 b = m'.read8 b) : m.readLE a n = m'.readLE a n := by
  unfold Mem.readLE
  congr 1
  apply List.ext_getElem
  · rw [Mem.readBytes_length, Mem.readBytes_length]
  · intro i h1 h2
    rw [Mem.readBytes_length] at h1
    rw [Mem.readBytes_get, Mem.readBytes_get]
    exact h _ (by omega) (by omega)

theorem Mem.read8_clearPoison (m : Mem) (a n b : Nat) : (m.clearPoison a n).read8 b = m.read8 b := rfl

theorem Mem.readLE_clearPoison (m : Mem) (a n b k : Nat) : (m.clearPoison a n).readLE b k = m.readLE b k :=
  Mem.readLE_congr fun b _ _ => Mem.read8_clearPoison m a n b

/-- Copy one record to its 64 bytes of a tile. -/
def copyRecord (first : Nat) (t : State) (p : LogRec × Nat) : State :=
  ((tileWrite first (p.2 * logRecBytes) (p.1.bytes t.free) t).useFree).useFree

theorem copyRecord_others {h : Nat} (p : LogRec × Nat) (hh : h ≠ (t.tile first).stack.toNat) : (copyRecord first t p).stack h = t.stack h :=
  stack_modStack_ne t _ hh

theorem copyRecord_mem (t : State) (p : LogRec × Nat) : ((copyRecord first t p).stack (t.tile first).stack.toNat).mem =
    ((t.stack (t.tile first).stack.toNat).mem.writeBytes ((t.tile first).place.toNat * tileBytes + 64 * p.2) (p.1.bytes t.free)).clearPoison
      ((t.tile first).place.toNat * tileBytes + 64 * p.2) (p.1.bytes t.free).length := by
  have hat : (t.tile first).byteAt (p.2 * logRecBytes) = (t.tile first).place.toNat * tileBytes + 64 * p.2 := by
    unfold TileEntry.byteAt logRecBytes
    rw [Nat.mul_comm p.2]
  rw [← hat]
  exact congrArg HbmStack.mem (stack_modStack _ _ _)

theorem copyRecord_outside (t : State) (p : LogRec × Nat) {b : Nat} (hb : b < (t.tile first).place.toNat * tileBytes + 64 * p.2 ∨
    (t.tile first).place.toNat * tileBytes + 64 * p.2 + 64 ≤ b) :
    ((copyRecord first t p).stack (t.tile first).stack.toNat).mem.read8 b = (t.stack (t.tile first).stack.toNat).mem.read8 b := by
  rw [copyRecord_mem, Mem.read8_clearPoison, Mem.read8_writeBytes_outside _ _ _ _ (by rw [LogRec.bytes_length]; exact hb)]

theorem copyRecord_seq (t : State) (p : LogRec × Nat) : ((copyRecord first t p).stack (t.tile first).stack.toNat).mem.readLE
    ((t.tile first).place.toNat * tileBytes + 64 * p.2) 4 = p.1.seq.toNat := by
  rw [copyRecord_mem]
  rw [Mem.readLE_clearPoison]
  unfold Mem.readLE
  rw [Mem.readBytes_writeBytes_take _ _ _ _ (by rw [LogRec.bytes_length]; decide), LogRec.bytes_seq, leValue_leBytes]
  exact Nat.mod_eq_of_lt p.1.seq.isLt

/-- Records copied one after another, from record `o` of the tile on. -/
theorem copyAll (rs : List LogRec) (o : Nat) (t : State) :
    let e := t.tile first
    let a := e.place.toNat * tileBytes
    let u := (rs.zipIdx o).foldl (copyRecord first) t
    u = { t with hbm := u.hbm, free := u.free } ∧ (∀ h, h ≠ e.stack.toNat → u.stack h = t.stack h) ∧
    (∀ b, b < a + 64 * o ∨ a + 64 * (o + rs.length) ≤ b → (u.stack e.stack.toNat).mem.read8 b = (t.stack e.stack.toNat).mem.read8 b) ∧
    (∀ i, (h : i < rs.length) → (u.stack e.stack.toNat).mem.readLE (a + 64 * (o + i)) 4 = (rs[i]'h).seq.toNat) := by
  induction rs generalizing o t with
  | nil => exact ⟨rfl, fun _ _ => rfl, fun _ _ => rfl, fun _ h => absurd h (Nat.not_lt_zero _)⟩
  | cons r l ih =>
    intro e a u
    obtain ⟨hshape, hothers, houtside, hseq⟩ := ih (o + 1) (copyRecord first t (r, o))
    refine ⟨?_, fun h hh => (hothers h hh).trans (copyRecord_others _ hh), fun b hb => ?_, fun i hi => ?_⟩
    · exact hshape
    · rw [List.length_cons] at hb
      exact (houtside b (by change b < a + _ ∨ a + _ ≤ b; omega)).trans (copyRecord_outside t (r, o) (by change b < a + 64 * o ∨ a + 64 * o + 64 ≤ b; omega))
    · cases i with
      | zero =>
        refine Eq.trans (Mem.readLE_congr fun b hlow hhigh => houtside b (.inl ?_)) (copyRecord_seq t (r, o))
        change b < a + 64 * (o + 1)
        omega
      | succ j =>
        have hj := hseq j (by simpa using hi)
        rw [show o + (j + 1) = o + 1 + j by omega]
        exact hj

/-- The arguments of a LOG_READ hold. -/
def State.logReadArgs (s : State) (count first : Nat) : Prop :=
  0 < count ∧ count ≤ 4096 ∧ first < tileCount ∧ (s.tile first).lease = 0 ∧ (s.tile first).radio = false

theorem logReadArgs_iff : s.logReadArgs count first ↔
    ¬ (count = 0 ∨ 4096 < count ∨ (!rangeOk first 1 1) = true ∨ (!s.hostTiles [first]) = true) := by
  have hhost : s.hostTiles [first] = true ↔ (s.tile first).lease = 0 ∧ (s.tile first).radio = false := by
    rw [hostTiles_iff]
    simp only [List.mem_singleton, forall_eq]
  unfold State.logReadArgs
  rw [← hhost, not_or, not_or, not_or, Bool.not_eq_true', Bool.not_eq_true', Bool.not_eq_false, Bool.not_eq_false, rangeOk_iff,
    Nat.not_lt, ← ne_eq, ← Nat.pos_iff_ne_zero]
  simp only [Nat.one_pos, Nat.le_refl, true_and, Nat.succ_le_iff]

theorem pinnedTile_iff : (s.tile first).inHbm = true ∧ (s.tile first).pin ≠ 0 ↔ ¬ (!s.pinnedTiles [first]) = true := by
  rw [Bool.not_eq_true', ← Bool.not_eq_true, Classical.not_not, pinnedTiles_iff]
  simp only [List.mem_singleton, forall_eq]

theorem logRead_badArgs (h : ¬ s.logReadArgs count first) : logRead tag fromSeq count first mid s = domeReply mid 4 tag [2, 0] s := by
  rw [logReadArgs_iff, Classical.not_not] at h
  exact if_pos h

theorem logRead_unpinned (h : s.logReadArgs count first) (hfit : ¬ ((s.tile first).inHbm = true ∧ (s.tile first).pin ≠ 0)) :
    logRead tag fromSeq count first mid s = domeReply mid 4 tag [1, 0] s := by
  rw [pinnedTile_iff, Classical.not_not] at hfit
  exact (if_neg (logReadArgs_iff.mp h)).trans (if_pos hfit)

theorem logRead_copies (h : s.logReadArgs count first) (hfit : (s.tile first).inHbm = true ∧ (s.tile first).pin ≠ 0) :
    logRead tag fromSeq count first mid s =
      let rs := (s.dome.log.filter (fun r => decide (fromSeq ≤ r.seq.toNat))).take count
      domeReply mid 4 tag [0, rs.length] (rs.zipIdx.foldl (copyRecord first) s) :=
  (if_neg (logReadArgs_iff.mp h)).trans (if_neg (pinnedTile_iff.mp hfit))

end

/-! ### STAGE_COMPLETE (R543, R556) -/

section
variable {s t u : State} {kind k : Nat} {new active b : BankImg}

theorem layOut_image (o : Nat) (l : List BankEntry) (k : Nat) :
    ((layOut o l).find? (fun e => e.kind == k)).map (·.image) = (l.find? (fun e => e.kind == k)).map (·.image) := by
  induction l generalizing o with
  | nil => rfl
  | cons e r ih =>
    rw [layOut, List.find?_cons, List.find?_cons]
    cases h : e.kind == k with
    | true => simp only [Option.map_some]
    | false => simp only [ih]

/-- The kinds of images that a STAGE takes from what is supplied. -/
def takenKinds (kind : Nat) (new : BankImg) : List Nat := if kind = 0 ∧ new.image 2 = none then [1, 3, 4] else stageKinds kind

theorem filter_image {p : Nat → Bool} (l : List BankEntry) (k : Nat) : (l.filter (fun e => p e.kind)).find? (fun e => e.kind == k) =
    if p k then l.find? (fun e => e.kind == k) else none := by
  induction l with
  | nil => simp
  | cons e r ih =>
    rw [List.filter_cons, List.find?_cons]
    by_cases hk : e.kind = k
    · subst hk
      by_cases hp : p e.kind = true <;> simp [hp, ih]
    · have hne : (e.kind == k) = false := by simpa using hk
      rw [hne]
      split
      · rw [List.find?_cons, hne, ih]
      · exact ih

/-- The images of a staged bank: those of the kinds taken from what is supplied, the others from the active bank. -/
theorem stagedBank_image (kind : Nat) (new active : BankImg) (k : Nat) :
    (stagedBank kind new active).image k = if (takenKinds kind new).contains k then new.image k else active.image k := by
  have hlaid : (stagedBank kind new active).image k = ((new.ofKinds (takenKinds kind new) ++
      active.entries.filter (fun (e : BankEntry) => !(takenKinds kind new).contains e.kind)).find? (fun e => e.kind == k)).map (·.image) :=
    layOut_image _ _ k
  rw [hlaid, List.find?_append, BankImg.ofKinds, filter_image (p := (takenKinds kind new).contains),
    filter_image (p := fun x => !(takenKinds kind new).contains x)]
  cases (takenKinds kind new).contains k with
  | true => simp [BankImg.image]
  | false => simp [BankImg.image]

theorem mem_takenKinds (kind : Nat) (new : BankImg) (k : Nat) : (takenKinds kind new).contains k = true ↔
    kind = 0 ∧ (k = 1 ∨ k = 3 ∨ k = 4 ∨ k = 2 ∧ new.image 2 ≠ none) ∨ kind = 1 ∧ k = 1 ∨ kind = 2 ∧ k = 2 ∨ 3 ≤ kind ∧ (k = 3 ∨ k = 4) := by
  unfold takenKinds
  by_cases hbare : kind = 0 ∧ new.image 2 = none
  · rw [if_pos hbare]
    simp [hbare.1, hbare.2]
  · rw [if_neg hbare]
    unfold stageKinds
    split
    · simp only [true_and] at hbare
      simp [hbare]
      omega
    · simp
    · simp
    · next h0 h1 h2 =>
      have hzero : kind ≠ 0 := h0
      have hone : kind ≠ 1 := h1
      have htwo : kind ≠ 2 := h2
      have hthree : 3 ≤ kind := by omega
      simp [hthree, hzero, hone, htwo]

theorem erased_error (x : BankImg) (c : Nat) : x.erased.error c = 3 := by
  unfold BankImg.error
  exact if_pos rfl

/-- What a STAGE that ends makes of the Dome: a valid bank is selected, an invalid one has its header erased. -/
def DomeState.staged (programs : Bool) (x : BankImg) (d : DomeState) : DomeState :=
  if programs = true then
    if x.error d.capacity = 0 then DomeState.writeSelector (!d.selector.2.activeB) 1 (DomeState.setBank (!d.selector.2.activeB) x { d with stage := none })
    else DomeState.setBank (!d.selector.2.activeB) x.erased { d with stage := none }
  else { d with stage := none }

theorem setBank_bank (c : Bool) (x : BankImg) (d : DomeState) : (d.setBank c x).bank c = x ∧ (d.setBank (!c) x).bank c = d.bank c := by
  cases c <;> exact ⟨rfl, rfl⟩

theorem staged_stage (programs : Bool) (x : BankImg) (d : DomeState) : (d.staged programs x).stage = none := by
  unfold DomeState.staged DomeState.setBank
  split
  · split <;> split <;> rfl
  · rfl

theorem staged_active (programs : Bool) (x : BankImg) (d : DomeState) :
    (d.staged programs x).bank d.selector.2.activeB = d.bank d.selector.2.activeB := by
  unfold DomeState.staged
  split
  · split
    · exact (setBank_bank _ x { d with stage := none }).2
    · exact (setBank_bank _ x.erased { d with stage := none }).2
  · rfl

theorem staged_valid {x : BankImg} {d : DomeState} (h : x.error d.capacity = 0) :
    (d.staged true x).bank (!d.selector.2.activeB) = x ∧ (d.staged true x).copies =
      d.copies.set Selector.none_ (1 - d.selector.1) ⟨true, d.selector.2.seq + 1, !d.selector.2.activeB, 1⟩ := by
  unfold DomeState.staged
  rw [if_pos rfl, if_pos h]
  refine ⟨(setBank_bank _ x { d with stage := none }).1, ?_⟩
  cases d.selector.2.activeB <;> rfl

theorem staged_invalid {x : BankImg} {d : DomeState} (h : x.error d.capacity ≠ 0) :
    (d.staged true x).bank (!d.selector.2.activeB) = x.erased ∧ (d.staged true x).copies = d.copies := by
  unfold DomeState.staged
  rw [if_pos rfl, if_neg h]
  refine ⟨(setBank_bank _ x.erased { d with stage := none }).1, ?_⟩
  cases d.selector.2.activeB <;> rfl

/-- Two states of the Dome with the same STAGE, selector and banks. -/
def DomeState.sameBanks (d e : DomeState) : Prop := e.stage = d.stage ∧ e.copies = d.copies ∧ e.bankA = d.bankA ∧ e.bankBImg = d.bankBImg

theorem DomeState.sameBanks.facts {d e : DomeState} (h : d.sameBanks e) : e.stage = d.stage ∧ e.copies = d.copies ∧ ∀ c, e.bank c = d.bank c := by
  obtain ⟨hstage, hcopies, ha, hb⟩ := h
  refine ⟨hstage, hcopies, fun c => ?_⟩
  cases c
  · exact ha
  · exact hb

theorem stageComplete_none {programs : Bool} (h : s.dome.stage = none) : stageComplete programs b s = s := by
  unfold stageComplete
  rw [h]

/-- The Dome's state as STAGE_COMPLETE writes it, by the status of its reply. -/
theorem stage_builds (programs : Bool) (x : BankImg) (d : DomeState) :
    (let st := if !programs then stConflict else if x.error d.capacity ≠ 0 then stBadArg else stOk
     let e : DomeState := { d with stage := none }
     if st = stOk then (e.setBank (!d.selector.2.activeB) x).writeSelector (!d.selector.2.activeB) 1
     else if programs then e.setBank (!d.selector.2.activeB) x.erased else e) = d.staged programs x := by
  unfold DomeState.staged
  generalize x.error d.capacity = err
  cases programs with
  | false => rfl
  | true => by_cases herr : err = 0 <;> simp [herr]

/-- Of the Dome a queued record of the log and a reply change the log's queue and the Dome's doorbell alone. -/
theorem logged_dome (e : LogEvent) (s : State) : ∃ q n l, (logEvent e s).dome = { s.dome with logQueue := q, logSeq := n, logLost := l } := by
  obtain ⟨q, n, l, h⟩ := logEvent_shape e s
  exact ⟨q, n, l, by rw [h]⟩

theorem stageComplete_ends {j : StageJob} (programs : Bool) (b : BankImg) (h : s.dome.stage = some j) :
    ∃ q n l x y, (stageComplete programs b s).dome =
      { s.dome.staged programs (stagedBank j.kind b (s.dome.bank s.dome.selector.2.activeB)) with
        logQueue := q, logSeq := n, logLost := l, dbStatus := x, dbSetAt := y } := by
  generalize hrun : stageComplete programs b s = v
  unfold stageComplete at hrun
  rw [h] at hrun
  dsimp -zeta only at hrun
  extract_lets a x st s1 s2 at hrun
  have hx : stagedBank j.kind b (s.dome.bank s.dome.selector.2.activeB) = x := rfl
  have hbuilt : s1.dome = s.dome.staged programs x := stage_builds programs x s.dome
  obtain ⟨q, n, l, hlog⟩ := logged_dome (.stage st) s1
  have hlogged : s2.dome = { s1.dome with logQueue := q, logSeq := n, logLost := l } := hlog
  rw [hx, ← hbuilt]
  clear_value s2 s1 st x
  split at hrun
  · obtain ⟨y, z, hreply⟩ := domeReply_dome _ 2 j.tag [st] s2
    exact ⟨q, n, l, y, z, by rw [← hrun, hreply, hlogged]⟩
  · exact ⟨q, n, l, s1.dome.dbStatus, s1.dome.dbSetAt, by rw [← hrun, hlogged]⟩

end

/-! ### The log, the debug tokens and JTAG (R557, R558, R561) -/

section
variable {s : State} {r : LogRec} {rest : List LogRec}

theorem logRecordWrite_none (h : s.domeWorks = false ∨ s.dome.logQueue = []) : logRecordWrite s = s := by
  unfold logRecordWrite
  rcases h with h | h
  · exact if_pos (by rw [h]; rfl)
  · rw [h]
    exact ite_self s

theorem logRecordWrite_writes (hworks : s.domeWorks = true) (hqueue : s.dome.logQueue = r :: rest) :
    logRecordWrite s = s.modDome (fun d => { d with logQueue := rest, log := logAppend r d.log }) := by
  unfold logRecordWrite
  rw [hqueue]
  exact if_neg (by rw [hworks]; decide)

theorem logAppend_room {l : List LogRec} (h : l.length + 1 < 64512) : logAppend r l = l ++ [r] := by
  refine if_neg ?_
  rw [List.length_append, List.length_singleton]
  exact Nat.not_le_of_lt h

theorem logAppend_full {l : List LogRec} (h : 64512 ≤ l.length + 1) : logAppend r l = (l ++ [r]).drop 1024 := by
  refine if_pos ?_
  rw [List.length_append, List.length_singleton]
  exact h

theorem accepted_iff (t : DebugToken) (cert : Option (List Byte)) (nonce : DWord) : t.accepted cert nonce = true ↔
    t.image.verified 6 cert = true ∧ t.digest = Config.deviceKeyDigest ∧ t.nonce = nonce ∧ (t.level = 1 ∨ t.level = 2 ∧ t.image.signer = 0) := by
  simp only [DebugToken.accepted, Bool.and_eq_true, Bool.or_eq_true, decide_eq_true_eq, and_assoc]

theorem debugTokenReceive_idle {t : DebugToken} (h : s.domeWorks = false) : debugTokenReceive t s = s := if_pos (by rw [h]; rfl)

theorem debugTokenReceive_works {t : DebugToken} (h : s.domeWorks = true) : debugTokenReceive t s =
    if t.accepted (s.dome.bank s.dome.bankB).certKey s.dome.nonce then
      logEvent (.token true) (s.modDome (fun d => { d with pending := some (BitVec.ofNat 2 t.level) }))
    else logEvent (.token false) (s.modDome (fun d => { d with tokensRefused := satInc d.tokensRefused })) :=
  if_neg (by rw [h]; decide)

end

/-- Settles O47: the rules of the Dome's requests, of staging, of the log, of debug tokens and of JTAG. -/
theorem domeRequestsLogDebugAndJtag : Obligations.DomeRequestsLogDebugAndJtag := by
  have hnext {t u : State} (h : t = u) : Host.Outcome.next t = (.next u : Host.Outcome State Fault Refusal) := congrArg _ h
  refine ⟨?reply, ?requests, ?staged, ?log, ?debug⟩
  case reply =>
    intro s mid type tag words c bound hbound hfirst hroom
    rw [domeReply_channel hbound hfirst]
    exact ⟨pushAll_fifo _ _ hroom, (pushAll_only _ _).2⟩
  case requests =>
    intro s c tag kind first tiles fromSeq count asks
    refine ⟨fun h i hi => ?_, fun mid hto hmid hworks => ⟨fun hfatal => ?_, fun hfatal => ?_, fun hfatal hother => ?_, fun hfatal hhost => ?_⟩⟩
    · simp only [asks, List.mem_cons, List.not_mem_nil, or_false] at hi
      rcases hi with rfl | rfl | rfl | rfl
      · exact hnext (domeRequest_ignored h)
      · exact hnext (domeRequest_ignored h)
      · exact hnext ((congrArg (ite _ s) (domeRequest_ignored h)).trans (ite_self s))
      · exact hnext (domeRequest_ignored h)
    · exact ⟨hnext (if_pos hfatal), hnext (domeRequest_fatal hto hmid hworks hfatal), hnext (domeRequest_fatal hto hmid hworks hfatal),
        hnext (domeRequest_fatal hto hmid hworks hfatal)⟩
    · exact hnext (domeRequest_serves hto hmid hworks hfatal (.inl rfl))
    · refine ⟨hnext (domeRequest_hostOnly hto hmid hworks hfatal hother), hnext ?_, hnext (domeRequest_hostOnly hto hmid hworks hfatal hother)⟩
      exact (if_neg (by rw [hfatal]; decide)).trans ((domeRequest_serves hto hmid hworks hfatal (.inl rfl)).trans (if_pos hother))
    · subst hhost
      refine ⟨?_, ?_, ?_⟩
      · refine ⟨_, hnext ((if_neg (by rw [hfatal]; decide)).trans
          ((domeRequest_serves hto hmid hworks hfatal (.inl rfl)).trans (if_neg (fun h => h rfl)))), rfl, rfl, rfl, rfl⟩
      · intro l ours fit poison
        have hserves := domeRequest_serves (type := 2) (tag := tag) (f := stage c tag kind first tiles) hto hmid hworks hfatal (hostOnly := true) (.inr rfl)
        refine ⟨fun h => hnext (hserves.trans (stage_badArgs h)), fun h hfit => hnext (hserves.trans (stage_barred h hfit)),
          fun h hfit hpoison => ⟨consumePoison 1 s, hnext (hserves.trans (stage_poisoned h hfit hpoison)), rfl⟩,
          fun h hfit hpoison => hnext (hserves.trans (stage_begins h hfit hpoison))⟩
      · intro e ours fit rs a
        have hserves := domeRequest_serves (type := 4) (tag := tag) (f := logRead tag fromSeq count first) hto hmid hworks hfatal (hostOnly := true) (.inr rfl)
        refine ⟨fun h => hnext (hserves.trans (logRead_badArgs h)), fun h hfit => hnext (hserves.trans (logRead_unpinned h hfit)), fun h hfit => ?_⟩
        obtain ⟨hshape, hothers, houtside, hseq⟩ := copyAll (first := first) rs 0 s
        refine ⟨_, hnext (hserves.trans (logRead_copies h hfit)), hshape, hothers, fun b hb => houtside b ?_, fun i hi => ?_⟩
        · rw [Nat.mul_zero, Nat.add_zero, Nat.zero_add]
          exact hb
        · have hi := hseq i hi
          rw [Nat.zero_add] at hi
          exact hi
  case staged =>
    intro s programs b
    refine ⟨fun h => hnext (stageComplete_none h), ?_⟩
    intro j h a old x takes
    have himage (k : Nat) := stagedBank_image j.kind b old k
    have htakes (k : Nat) : (takenKinds j.kind b).contains k = true ↔ takes k := mem_takenKinds j.kind b k
    refine ⟨fun k => ⟨fun hk => (himage k).trans (if_pos ((htakes k).mpr hk)), fun hk => (himage k).trans (if_neg (mt (htakes k).mp hk))⟩,
      rfl, fun c => erased_error x c, ?_⟩
    obtain ⟨q, n, l, y, z, hdome⟩ := stageComplete_ends programs b h
    have hstaged : (s.dome.staged programs x).sameBanks (stageComplete programs b s).dome := by
      rw [hdome]
      exact ⟨rfl, rfl, rfl, rfl⟩
    clear_value x
    obtain ⟨hstage, hcopies, hbanks⟩ := hstaged.facts
    refine ⟨_, rfl, hstage.trans (staged_stage _ _ _), (hbanks a).trans (staged_active _ _ _), ?_, ?_, ?_⟩
    · rintro rfl hvalid
      exact ⟨(hbanks (!a)).trans (staged_valid hvalid).1, hcopies.trans (staged_valid hvalid).2⟩
    · rintro rfl hbad
      exact ⟨(hbanks (!a)).trans (staged_invalid hbad).1, hcopies.trans (staged_invalid hbad).2⟩
    · rintro rfl
      exact ⟨hbanks (!a), hcopies⟩
  case log =>
    intro s
    refine ⟨fun h => hnext (logRecordWrite_none h), fun r rest hworks hqueue => ⟨fun hroom => hnext ?_, fun hfull => hnext ?_⟩⟩
    · rw [logRecordWrite_writes hworks hqueue, ← logAppend_room hroom]
      rfl
    · rw [logRecordWrite_writes hworks hqueue, ← logAppend_full hfull]
      rfl
  case debug =>
    intro s t op good
    refine ⟨fun h => hnext (debugTokenReceive_idle h), fun h hgood => ?_, fun h hbad => ?_, fun h => hnext (if_pos h),
      fun h => hnext (if_neg (Nat.not_le_of_lt h)), fun h => ?_⟩
    · have hrun := (debugTokenReceive_works h).trans (if_pos ((accepted_iff t _ _).mpr hgood))
      obtain ⟨q, n, l, hlog⟩ := logEvent_shape (.token true) (s.modDome (fun d => { d with pending := some (BitVec.ofNat 2 t.level) }))
      exact ⟨_, hnext (hrun.trans hlog), rfl, rfl, rfl⟩
    · have hrun := (debugTokenReceive_works h).trans (if_neg (mt (accepted_iff t _ _).mp hbad))
      obtain ⟨q, n, l, hlog⟩ := logEvent_shape (.token false) (s.modDome (fun d => { d with tokensRefused := satInc d.tokensRefused }))
      exact ⟨_, hnext (hrun.trans hlog), rfl, rfl, rfl⟩
    · rcases h with rfl | rfl | rfl | rfl | rfl <;> rfl

end Sys2Proof.Machine

namespace Sys2Proof.Machine
open Sys2Proof

/-! ### The start and the end of a test window (R501, R504, R508) -/

section
variable {s t u : State} {k n : Nat} {x : Visit}

theorem towerDisputes_none (h : s.rel.disputes = []) (n : Nat) : s.towerDisputes n = [] := by
  unfold State.towerDisputes State.disputeOf
  rw [h]
  exact List.filterMap_eq_nil_iff.mpr fun _ _ => rfl

/-- With no dispute and no shadow pass of its Tower no recompute is chosen. -/
theorem chooseRecompute_nothing (hdisputes : s.rel.disputes = []) (hshadow : s.rel.shadow.get none n = none) : chooseRecompute s n = s := by
  unfold chooseRecompute
  rw [towerDisputes_none hdisputes]
  simp only [List.filter_nil, List.foldl_nil, List.find?_nil, Option.bind_none, hshadow]

theorem chooseRecomputes_nothing (hdisputes : s.rel.disputes = []) (l : List Nat) (hshadow : ∀ n ∈ l, s.rel.shadow.get none n = none) :
    l.foldl chooseRecompute s = s := by
  induction l with
  | nil => rfl
  | cons a r ih =>
    rw [List.foldl_cons, chooseRecompute_nothing hdisputes (hshadow a List.mem_cons_self)]
    exact ih fun n hn => hshadow n (List.mem_cons_of_mem _ hn)

theorem dropVisit_shape (s : State) : ∃ x y, dropVisit s = { s with rel := { s.rel with visit := x, passedOver := y } } := by
  unfold dropVisit
  cases s.rel.visit with
  | none => exact ⟨_, _, rfl⟩
  | some v =>
    dsimp only
    split <;> exact ⟨_, _, rfl⟩

theorem rotateTo_shape (k : Nat) (s : State) : ∃ x y, rotateTo k s = { s with rel := { s.rel with rotation := x, passedOver := y } } := by
  unfold rotateTo
  split <;> exact ⟨_, _, rfl⟩

/-- The choice of the segment changes the visits and the segment alone. -/
theorem chooseSegment_shape (s : State) : ∃ v y r g, chooseSegment s = { s with rel := { s.rel with
    visit := v, passedOver := y, rotation := r, segment := g } } := by
  obtain ⟨v, y, hdrop⟩ := dropVisit_shape s
  unfold chooseSegment
  rw [hdrop]
  dsimp only
  split
  · exact ⟨_, _, _, _, rfl⟩
  · split
    · exact ⟨_, _, _, _, rfl⟩
    · split
      · next w _ _ =>
        obtain ⟨a, b, hrotate⟩ := rotateTo_shape w.spire { s with rel := { s.rel with visit := v, passedOver := y } }
        rw [hrotate]
        exact ⟨_, _, _, _, rfl⟩
      · exact ⟨_, _, _, _, rfl⟩

theorem chooseSegment_unloaded (h : s.rel.packLoaded = false) : (chooseSegment s).rel.segment = s.rel.segment := by
  obtain ⟨v, y, hdrop⟩ := dropVisit_shape s
  have hload : (dropVisit s).rel.packLoaded = false := by
    rw [hdrop]
    exact h
  unfold chooseSegment
  dsimp only
  rw [if_pos (by rw [hload]; rfl), hdrop]

/-- A visit in progress whose Spire can be tested goes on. -/
theorem chooseSegment_goesOn (hloaded : s.rel.packLoaded = true) (hvisit : s.rel.visit = some x) (htest : s.testable x.spire = true) :
    chooseSegment s = s.modRel (fun r => { r with visit := some x, segment := some x.spire }) := by
  have hdrop : dropVisit s = s := by
    unfold dropVisit
    rw [hvisit]
    exact if_pos htest
  have hnext : s.nextVisit = some x := by
    have hgoes : s.visitGoesOn = some x := by
      unfold State.visitGoesOn
      rw [hvisit, Option.filter_some, if_pos htest]
    unfold State.nextVisit
    rw [hgoes]
  unfold chooseSegment
  rw [hdrop]
  dsimp only
  rw [if_neg (by rw [hloaded]; decide), hnext, hvisit]
  rfl

/-- With no visit in progress or owed the next Spire in rotation is visited. -/
theorem chooseSegment_rotates (hloaded : s.rel.packLoaded = true) (hvisit : s.rel.visit = none) (hconfirm : s.rel.confirmQueue = [])
    (howed : s.rel.passedOver = []) (hrange : s.rel.rotation < 32) (htest : s.testable s.rel.rotation = true) :
    ∃ y, chooseSegment s = s.modRel (fun r => { r with
      visit := some ⟨r.rotation, 0, false, false⟩, segment := some r.rotation, rotation := (r.rotation + 1) % 32, passedOver := y }) := by
  have hdrop : dropVisit s = s := by
    unfold dropVisit
    rw [hvisit]
  have hfirst : (spiresFrom s.rel.rotation).find? s.testable = some s.rel.rotation := by
    have hhead : (s.rel.rotation + 0) % 32 = s.rel.rotation := Nat.mod_eq_of_lt hrange
    unfold spiresFrom
    rw [show List.range 32 = 0 :: (List.range 31).map (· + 1) from by decide, List.map_cons, hhead, List.find?_cons, htest]
  have hnext : s.nextVisit = some ⟨s.rel.rotation, 0, false, false⟩ := by
    unfold State.nextVisit State.visitGoesOn
    rw [hvisit, hconfirm, howed, hfirst]
    rfl
  unfold chooseSegment
  rw [hdrop]
  dsimp only
  rw [if_neg (by rw [hloaded]; decide), hnext, hvisit]
  unfold rotateTo
  rw [howed]
  exact ⟨_, rfl⟩

theorem testWindowStart_not (h : s.inTestWindow = false ∨ s.rel.testActive = true) : testWindowStart s = s := by
  refine if_neg ?_
  rcases h with h | h <;> simp [h]

/-- Every Spire enters its window. -/
def windowsStarted (s : State) : State := (List.range 32).foldl (fun t k => windowStart k t) s

/-- A window opens with no segment and no recompute yet. -/
def State.opened (s : State) : State := s.modRel (fun r => { r with testActive := true, segment := none, recomputes := [] })

theorem opened_noRecompute (hdisputes : s.rel.disputes = []) (hshadow : ∀ t, t < 4 → s.rel.shadow.get none t = none) :
    (List.range 4).foldl chooseRecompute (chooseSegment s.opened) = chooseSegment s.opened := by
  obtain ⟨v, y, r, g, hshape⟩ := chooseSegment_shape s.opened
  rw [hshape]
  refine chooseRecomputes_nothing ?_ _ fun n hn => ?_
  · exact hdisputes
  · exact hshadow n (List.mem_range.mp hn)

theorem testWindowStart_opens (hin : s.inTestWindow = true) (hactive : s.rel.testActive = false)
    (hdisputes : (windowsStarted s).rel.disputes = []) (hshadow : ∀ t, t < 4 → (windowsStarted s).rel.shadow.get none t = none) :
    testWindowStart s = chooseSegment (windowsStarted s).opened := by
  unfold testWindowStart
  rw [if_pos (by rw [hin, hactive]; rfl)]
  exact opened_noRecompute (s := windowsStarted s) hdisputes hshadow

/-- What the start of a window makes of the reliability block, once every Spire has entered its window. -/
theorem opened_segment (w : State) :
    let v := chooseSegment w.opened
    v = { w with rel := v.rel } ∧ v.rel.testActive = true ∧ v.rel.recomputes = [] ∧
      (w.rel.packLoaded = false → v.rel.segment = none) ∧
      (∀ x, w.rel.packLoaded = true → w.rel.visit = some x → w.testable x.spire = true → v.rel.segment = some x.spire ∧ v.rel.visit = some x ∧
        v.rel.rotation = w.rel.rotation) ∧
      (w.rel.packLoaded = true → w.rel.visit = none → w.rel.confirmQueue = [] → w.rel.passedOver = [] → w.rel.rotation < 32 →
        w.testable w.rel.rotation = true → v.rel.segment = some w.rel.rotation ∧ v.rel.visit = some ⟨w.rel.rotation, 0, false, false⟩ ∧
        v.rel.rotation = (w.rel.rotation + 1) % 32) := by
  obtain ⟨v, y, r, g, hshape⟩ := chooseSegment_shape w.opened
  refine ⟨?_, ?_, ?_, fun hload => chooseSegment_unloaded (s := w.opened) hload, fun x hload hvisit htest => ?_,
    fun hload hvisit hconfirm howed hrange htest => ?_⟩
  · rw [hshape]
    rfl
  · rw [hshape]
    rfl
  · rw [hshape]
    rfl
  · rw [chooseSegment_goesOn (s := w.opened) hload hvisit htest]
    exact ⟨rfl, rfl, rfl⟩
  · obtain ⟨y, hrotates⟩ := chooseSegment_rotates (s := w.opened) hload hvisit hconfirm howed hrange htest
    rw [hrotates]
    exact ⟨rfl, rfl, rfl⟩

theorem testWindowEnd_not (h : s.rel.testActive = false ∨ s.inTestWindow = true) : testWindowEnd s = s := by
  refine if_neg ?_
  rcases h with h | h <;> simp [h]

theorem testWindowEnd_closes (hactive : s.rel.testActive = true) (hin : s.inTestWindow = false) (hdisputes : s.rel.disputes = [])
    (hfence : s.rel.fenceAfter = []) : testWindowEnd s = (List.range 32).foldl (fun t k => windowEnd k t)
      { s with rel := { s.rel with testActive := false, segment := none, recomputes := [], fenceAfter := [] } } := by
  have hdrop : dropStopped s = s := by
    unfold dropStopped
    rw [hdisputes]
    rfl
  unfold testWindowEnd
  rw [if_pos (by rw [hactive, hin]; rfl), hdrop, hfence, List.foldl_nil, State.modRel]

/-! ### TEST_SEGMENT_COMPLETE (R508, R509) -/

theorem testSegmentComplete_none {differs : Bool} (h : s.rel.segment = none ∨ s.rel.visit = none) : testSegmentComplete differs s = s := by
  unfold testSegmentComplete
  rcases h with h | h
  · rw [h]
  · rw [h]
    cases s.rel.segment <;> rfl

/-- A visit after one more of its segments. -/
def Visit.after (x : Visit) (differs : Bool) : Visit := { x with segment := x.segment + 1, failed := x.failed || differs }

/-- The segment is over: BANK_S of its Spire is zeroed. -/
def segmentOver (k : Nat) (s : State) : State := zeroShadowBank k (s.modRel (fun r => { r with segment := none }))

theorem testSegmentComplete_more (differs : Bool) (hsegment : s.rel.segment = some k) (hvisit : s.rel.visit = some x)
    (hmore : x.segment + 1 < s.rel.segments) : testSegmentComplete differs s =
      (segmentOver k s).modRel (fun r => { r with visit := some (x.after differs) }) := by
  unfold testSegmentComplete
  rw [hsegment, hvisit]
  exact if_pos hmore

theorem testSegmentComplete_last (differs : Bool) (hsegment : s.rel.segment = some k) (hvisit : s.rel.visit = some x)
    (hlast : s.rel.segments ≤ x.segment + 1) : testSegmentComplete differs s = visitDone (x.after differs) (segmentOver k s) := by
  unfold testSegmentComplete
  rw [hsegment, hvisit]
  exact if_neg (Nat.not_lt_of_le hlast)

theorem segmentOver_shape (k : Nat) (s : State) : ∃ p, segmentOver k s = { s with spires := p, rel := { s.rel with segment := none } } := by
  unfold segmentOver zeroShadowBank
  split <;> exact ⟨_, rfl⟩

theorem segmentOver_only (k : Nat) (s : State) : OnlySpire k s (segmentOver k s) := by
  unfold segmentOver zeroShadowBank
  split
  · exact fun _ _ => rfl
  · exact only_modVu k _ _

/-- BANK_S is zeroed, but on a radio-owned and on a reclaimed Spire; all else of the Spire stays. -/
theorem zeroShadowBank_spire (k : Nat) (s : State) : (zeroShadowBank k s).spire k =
    if s.role k = .radioOwned ∨ (s.spire k).seq.reclaim = true then s.spire k
    else { s.spire k with vu := { (s.spire k).vu with bankS := Bank.reset } } := by
  unfold zeroShadowBank
  by_cases h : s.role k = .radioOwned ∨ (s.spire k).seq.reclaim = true
  · rw [if_pos h, if_pos (by simpa using h)]
  · rw [if_neg h, if_neg (by simpa using h)]
    exact spire_modSpire _ _ _

theorem segmentOver_spire (k : Nat) (s : State) : (segmentOver k s).spire k =
    if s.role k = .radioOwned ∨ (s.spire k).seq.reclaim = true then s.spire k
    else { s.spire k with vu := { (s.spire k).vu with bankS := Bank.reset } } := zeroShadowBank_spire k _

theorem segmentOver_seq (k j : Nat) (s : State) : ((segmentOver k s).spire j).seq = (s.spire j).seq := by
  by_cases hj : j = k
  · subst hj
    rw [segmentOver_spire]
    split <;> rfl
  · rw [segmentOver_only k s j hj]

theorem segmentOver_ctx (k j : Nat) (s : State) : ((segmentOver k s).spire j).ctx = (s.spire j).ctx := by
  by_cases hj : j = k
  · subst hj
    rw [segmentOver_spire]
    split <;> rfl
  · rw [segmentOver_only k s j hj]

/-- A change that leaves a score above FENCE_AT changes the score alone. -/
theorem changeScore_above {d : Int} (h : s.rel.fenceAt.toNat < ((s.healthOf k).change d).score) :
    changeScore k d s = s.modHealth k (SpireHealth.change d) := by
  refine if_neg fun hlow => ?_
  rw [healthOf_modHealth] at hlow
  exact absurd hlow.1 (Nat.not_le_of_lt h)

theorem change_up (n : Nat) (x : SpireHealth) : (x.change (n : Int)).score = min 1000 (x.score + n) := by
  unfold SpireHealth.change
  dsimp only
  omega

theorem change_score {e : Int} {n : Nat} {x : SpireHealth} (h : (x.change e).score = n) : x.change e = { x with score := n } := by
  rw [← h]
  rfl

theorem change_down {n : Nat} {x : SpireHealth} (hlow : n ≤ x.score) (hhigh : x.score ≤ 1000) : (x.change (-(n : Int))).score = x.score - n := by
  unfold SpireHealth.change
  dsimp only
  omega

/-- A passed visit that confirms nothing: it is counted, and the score rises. -/
theorem visitDone_passed (hpass : x.failed = false) (hconfirm : x.confirm = false)
    (hscore : s.rel.fenceAt.toNat < min 1000 ((s.healthOf x.spire).score + 25)) : visitDone x s =
      (((s.modRel (fun r => { r with visit := none })).modRelCounters (fun c => { c with visits := satInc c.visits })).modHealth x.spire
        (fun h => { h with last := 6 })).modHealth x.spire (SpireHealth.change 25) := by
  unfold visitDone
  simp only [hpass, hconfirm, Bool.false_eq_true, if_false, Bool.not_false, if_true]
  refine changeScore_above ?_
  rw [healthOf_modHealth]
  exact Nat.lt_of_lt_of_eq hscore (change_up 25 { s.healthOf x.spire with last := 6 }).symm

/-- A Spire that is not a referee is fenced at once. -/
theorem fenceByRel_now (h : s.referees k = false) : fenceByRel k s = fenceSpire k s := if_neg (by rw [h]; decide)

/-- A failed visit is counted. -/
def visitCounted (x : Visit) (s : State) : State :=
  (((s.modRel (fun r => { r with
    visit := none, confirmQueue := if x.confirm then r.confirmQueue.filter (· != x.spire) else r.confirmQueue })).modRelCounters
      (fun c => { c with visits := satInc c.visits })).modRelCounters (fun c => { c with visitsFailed := satInc c.visitsFailed })).modHealth x.spire
        (fun h => { h with last := 7, confirm := h.confirm && !x.confirm })

/-- A failed visit is counted, with its error record. -/
def visitFailed (x : Visit) (s : State) : State :=
  errRecord 7 3 x.spire (s.jobLease (s.spire x.spire).ctx.jobId) 0 (s.spire x.spire).ctx.jobId 0 (visitCounted x s)

theorem visitDone_failed (hfail : x.failed = true) : visitDone x s = fenceByRel x.spire (visitFailed x s) := by
  unfold visitDone
  rw [hfail]
  rfl

/-- A role is the fabric's: the active Pavane's, by the active Figure. -/
theorem role_of_fab (h : t.fab = s.fab) (k : Nat) : t.role k = s.role k := by
  unfold State.role State.image
  rw [h]

theorem visitFailed_keeps (x : Visit) (s : State) : (visitFailed x s).spires = s.spires ∧ (visitFailed x s).rel.recomputes = s.rel.recomputes ∧
    (visitFailed x s).fab = s.fab := by
  obtain ⟨y, z, w, hshape⟩ := errRecord_shape 7 3 x.spire (s.jobLease (s.spire x.spire).ctx.jobId) 0 (s.spire x.spire).ctx.jobId 0 (visitCounted x s)
  have hspires : (visitCounted x s).spires = s.spires := by
    unfold visitCounted State.modHealth State.modRelCounters State.modRel
    rfl
  have hfab : (visitCounted x s).fab = s.fab := by
    unfold visitCounted State.modHealth State.modRelCounters State.modRel
    rfl
  have hrecomputes : (visitCounted x s).rel.recomputes = s.rel.recomputes := by
    unfold visitCounted State.modHealth State.modRelCounters State.modRel
    rfl
  unfold visitFailed
  rw [hshape]
  exact ⟨hspires, hrecomputes, hfab⟩

end

/-! ### Recomputes and verdicts (R512, R513, R516) -/

section
variable {s : State} {t : Nat} {x : RecomputeResult} {r : Recompute} {d : Dispute}

theorem recomputeComplete_none (h : s.runningRecompute t false = none) : recomputeComplete t x s = s := by
  unfold recomputeComplete
  rw [h]

theorem recomputeComplete_early (h : s.runningRecompute t false = some r) (hdue : s.cyc < r.due) : recomputeComplete t x s = s := by
  unfold recomputeComplete
  rw [h]
  exact if_pos hdue

theorem shadowRecomputeComplete_none (h : s.runningRecompute t true = none) : shadowRecomputeComplete t x s = s := by
  unfold shadowRecomputeComplete
  rw [h]

theorem shadowRecomputeComplete_early (h : s.runningRecompute t true = some r) (hdue : s.cyc < r.due) :
    shadowRecomputeComplete t x s = s := by
  unfold shadowRecomputeComplete
  rw [h]
  exact if_pos hdue

theorem recomputeComplete_undisputed (h : s.runningRecompute t false = some r) (hdue : r.due ≤ s.cyc) (hdispute : s.disputeOf r.original = none) :
    recomputeComplete t x s = recomputeDone r s := by
  unfold recomputeComplete
  rw [h]
  dsimp only
  rw [if_neg (Nat.not_lt_of_le hdue), hdispute]

/-- A recompute of a dispute whose referee's own checks passed, taken by what it found. -/
theorem recomputeComplete_judged (h : s.runningRecompute t false = some r) (hdue : r.due ≤ s.cyc) (hdispute : s.disputeOf r.original = some d)
    (hown : (s.redoOf r x d.ref).own = false) : recomputeComplete t x s =
      if !(s.redoOf r x d.ref).inputSame r.pass then voidAttempt d (recomputeDone r s)
      else if (s.redoOf r x d.ref).longSame r.pass then verdict .checker d (some r.referee) (recomputeDone r s)
      else if (s.redoOf r x d.ref).bound d.ref then verdict .array d (some r.referee) (recomputeDone r s)
      else verdict .none_ d (some r.referee) (recomputeDone r s) := by
  unfold recomputeComplete
  rw [h]
  dsimp only
  rw [if_neg (Nat.not_lt_of_le hdue), hdispute]
  dsimp only
  rw [if_neg (by rw [hown]; decide)]

theorem voidAttempt_again (hstopped : d.stopped = false) (hattempts : d.attempts < 3) : voidAttempt d s = { s with rel := { s.rel with
    counters := { s.rel.counters with voids := satInc s.rel.counters.voids }
    disputes := s.rel.disputes.map (fun y => if y.spire = d.spire then { y with attempts := y.attempts + 1 } else y) } } := by
  unfold voidAttempt
  rw [if_neg (by rw [hstopped]; decide), if_neg (by unfold maxAttempts; omega)]
  rfl

/-- A verdict on the checker is counted and its record written; the dispute goes. -/
def checkerNoted (d : Dispute) (s : State) : State :=
  dropDispute d.spire (((disputeRecord 7 d s).modRelCounters Verdict.checker.count).modHealth d.spire (fun h => { h with last := 1 }))

theorem verdict_checkerStopped (ref : Option Nat) (hstopped : d.stopped = true) :
    verdict .checker d ref s = changeScore d.spire (-100) (quarantineLater d.spire (checkerNoted d s)) := by
  unfold verdict
  dsimp only
  rw [if_pos hstopped]
  rfl

theorem checkerNoted_keeps (d : Dispute) (s : State) : (checkerNoted d s).spires = s.spires ∧
    (checkerNoted d s).rel.disputes = s.rel.disputes.filter (fun y => y.spire != d.spire) ∧
    (checkerNoted d s).rel.counters.vChecker = satInc s.rel.counters.vChecker ∧ (checkerNoted d s).rel.fenceAt = s.rel.fenceAt ∧
    (checkerNoted d s).healthOf d.spire = { s.healthOf d.spire with last := 1 } := by
  obtain ⟨y, z, w, hshape⟩ := errRecord_shape 3 7 d.spire (s.jobLease d.job) d.tag d.job (s.spire d.spire).arr.dis.tol.toNat s
  unfold checkerNoted disputeRecord
  rw [hshape]
  exact ⟨rfl, rfl, rfl, rfl, healthOf_modHealth _ _ _⟩

/-- A Spire that no job holds and that is not fenced is quarantined at once, its confirmation visit requested. -/
theorem quarantineLater_now {k : Nat} (hjob : (s.spire k).ctx.jobId = 0) (hfenced : (s.healthOf k).fenced = false) :
    ∃ q, quarantineLater k s = (s.modHealth k (fun h => { h with quarantined := true, confirm := true })).modRel
      (fun r => { r with confirmQueue := q }) := by
  unfold quarantineLater quarantine
  rw [if_pos hjob, if_neg (by rw [hfenced]; decide)]
  exact ⟨_, rfl⟩

theorem shadowRecomputeComplete_due (h : s.runningRecompute t true = some r) (hdue : r.due ≤ s.cyc) : shadowRecomputeComplete t x s =
    shadowOutcome r (s.redoOf r x ⟨false, false, 0, 0, 0⟩)
      ((recomputeDone r s).modRelCounters (fun c => { c with shadowRun := satInc c.shadowRun })) := by
  unfold shadowRecomputeComplete
  rw [h]
  exact if_neg (Nat.not_lt_of_le hdue)

theorem shadowOutcome_void {z : Redo} (hown : z.own = false) (hinput : z.inputSame r.pass = false) : shadowOutcome r z s =
    s.modRelCounters (fun c => { c with shadowVoid := satInc c.shadowVoid }) := by
  unfold shadowOutcome
  simp only [hown, hinput, Bool.not_false, Bool.or_true, if_true, Bool.false_eq_true, if_false]

theorem shadowOutcome_agrees {z : Redo} (hown : z.own = false) (hinput : z.inputSame r.pass = true) (hlong : z.longSame r.pass = true) :
    shadowOutcome r z s = s := by
  unfold shadowOutcome
  simp only [hown, hinput, hlong, Bool.not_true, Bool.or_self, if_true, Bool.false_eq_true, if_false]

end

/-! ### Settings, the dump and the monitors (R502, R528, R533) -/

section
variable {s : State} {mid v : Nat}

theorem testSettable_iff : s.testSettable = true ↔ s.clk.chipState = .boot ∨ s.clk.chipState = .timeAcquire := by
  simp [State.testSettable]

theorem relTestCfgWrite_barred (h : s.testSettable = false) : relTestCfgWrite 0 v s = relStatus stConflict s :=
  (if_neg (by decide)).trans (if_pos (by rw [h]; rfl))

theorem relTestCfgWrite_settable (h : s.testSettable = true) : relTestCfgWrite 0 v s =
    if !testLimits (field v 19 0) s.rel.testLen.toNat then relStatus stBadArg s
    else relStatus stOk (s.modRel (fun r => { r with testEnable := bitAt v 31, testStart := BitVec.ofNat 20 v })) :=
  (if_neg (by decide)).trans (if_neg (by rw [h]; decide))

theorem relTestLenWrite_barred (h : s.testSettable = false) : relTestLenWrite 0 v s = relStatus stConflict s :=
  (if_neg (by decide)).trans (if_pos (by rw [h]; rfl))

theorem relTestLenWrite_settable (h : s.testSettable = true) : relTestLenWrite 0 v s =
    if !testLimits s.rel.testStart.toNat (field v 15 0) then relStatus stBadArg s
    else relStatus stOk (s.modRel (fun r => { r with testLen := BitVec.ofNat 16 v })) :=
  (if_neg (by decide)).trans (if_neg (by rw [h]; decide))

theorem field_low (v n : Nat) : field v n 0 = v % 2 ^ (n + 1) := by
  unfold field
  simp

theorem relDumpClear_none (h : s.rel.dump = none) : relDumpClear mid s = s := by
  unfold relDumpClear
  rw [h]
  exact ite_self s

theorem relDumpClear_clears {d : Dump} (hmid : mid ≤ 1) (h : s.rel.dump = some d) : relDumpClear mid s =
    dumpWrite d.tower 12 [0] (s.modRel (fun r => { r with dump := some { d with state := 0 } })) := by
  unfold relDumpClear
  rw [if_neg (Nat.not_lt_of_le hmid), h]

theorem relPmClear_clears (hmid : mid ≤ 1) (s : State) : ∃ p, relPmClear mid s = { s with rel := { s.rel with pm := p } } ∧
    ∀ n, n < 64 → p.get PathMon.reset n = { s.rel.pm.get PathMon.reset n with lowest := (s.rel.pm.get PathMon.reset n).latest } := by
  refine ⟨s.rel.pm.modifyAll PathMon.reset (List.range 64) (fun _ p => { p with lowest := p.latest }), ?_, fun n hn => ?_⟩
  · unfold relPmClear
    rw [if_neg (Nat.not_lt_of_le hmid), State.modRel]
  · rw [Tab.get_modifyAll _ _ _ _ n List.nodup_range, if_pos (List.mem_range.mpr hn)]

theorem dumpWrite_mem (n off : Nat) (l : List Byte) (s : State) :
    ((dumpWrite n off l s).stack (6 * n + 5)).mem = (s.stack (6 * n + 5)).mem.writeBytes (dumpBase + off) l :=
  congrArg HbmStack.mem (stack_modStack _ _ _)

end

/-- Settles O43: the rules of the test window, of its segments and recomputes, of the settings, the dump and the monitors. -/
theorem testWindowsVisitsAndVerdicts : Obligations.TestWindowsVisitsAndVerdicts := by
  have hnext {t u : State} (h : t = u) : Host.Outcome.next t = (.next u : Host.Outcome State Fault Refusal) := congrArg _ h
  refine ⟨?window, ?segment, ?recompute, ?settings⟩
  case window =>
    intro s w
    have hw : windowsStarted s = w := rfl
    clear_value w
    refine ⟨fun h => hnext (testWindowStart_not h), fun hin hactive hdisputes hshadow => ?_, fun h => hnext (testWindowEnd_not h),
      fun hactive hin hdisputes hfence => ?_⟩
    · subst hw
      exact ⟨_, hnext (testWindowStart_opens hin hactive hdisputes hshadow), opened_segment (windowsStarted s)⟩
    · rw [← testWindowEnd_closes hactive hin hdisputes hfence]
      rfl
  case segment =>
    intro s differs
    refine ⟨fun h => hnext (testSegmentComplete_none h), fun k x hsegment hvisit => ?_⟩
    obtain ⟨p, hover⟩ := segmentOver_shape k s
    intro failed
    refine ⟨fun hmore => ?_, fun hlast hpass hconfirm hscore => ?_, fun hlast hfail hjob hidle hrole href => ?_⟩
    · refine ⟨_, hnext (testSegmentComplete_more differs hsegment hvisit hmore), ?_, ?_, segmentOver_only k s, segmentOver_seq k k s,
        fun hrole hreclaim => ?_⟩
      · rw [hover]
        rfl
      · rw [hover]
        rfl
      · refine (congrArg (fun y : Spire => y.vu.bankS) (segmentOver_spire k s)).trans ?_
        rw [if_neg (by rw [hreclaim]; simpa using hrole)]
    · have hrun := (testSegmentComplete_last differs hsegment hvisit hlast).trans
        (visitDone_passed (x := x.after differs) (s := segmentOver k s) hpass hconfirm (by rw [hover]; exact hscore))
      rw [hover] at hrun
      refine ⟨_, hnext hrun, rfl, rfl, rfl, rfl, ?_⟩
      refine ((healthOf_modHealth _ x.spire _).trans (congrArg (SpireHealth.change 25) (healthOf_modHealth _ x.spire _))).trans ?_
      exact change_score (change_up 25 { s.healthOf x.spire with last := 6 })
    · have hrun := (testSegmentComplete_last differs hsegment hvisit hlast).trans (visitDone_failed (x := x.after differs) hfail)
      obtain ⟨gspires, grecomputes, gfab⟩ := visitFailed_keeps (x.after differs) (segmentOver k s)
      have hspire : (visitFailed (x.after differs) (segmentOver k s)).spire x.spire = (segmentOver k s).spire x.spire :=
        congrArg (fun p : Tab Spire => p.get Spire.reset x.spire) gspires
      have hmode : ((visitFailed (x.after differs) (segmentOver k s)).spire x.spire).seq.mode = .idle := by
        rw [hspire, segmentOver_seq]
        exact hidle
      have hfence : fenceSpire x.spire (visitFailed (x.after differs) (segmentOver k s)) =
          fenceUnused x.spire (visitFailed (x.after differs) (segmentOver k s)) := by
        refine fenceSpire_unused (by rw [hmode]; decide) (by rw [hmode]; decide) (by rw [hspire, segmentOver_ctx]; exact hjob) ?_
        rw [role_of_fab (gfab.trans (by rw [hover]))]
        exact hrole
      have hnot : (visitFailed (x.after differs) (segmentOver k s)).referees x.spire = false := by
        unfold State.referees
        rw [grecomputes, hover]
        exact href
      refine ⟨_, hnext (hrun.trans ((fenceByRel_now hnot).trans hfence)), ?_, ?_, ?_, fun hk => outOfService_inService hk _⟩
      · rw [fenceUnused_spire]
        rfl
      · rw [fenceUnused, outOfService_health]
      · rw [fenceUnused, outOfService_health]
  case recompute =>
    intro s t x
    refine ⟨fun r h hdue => hnext (recomputeComplete_early h hdue), fun r h hdue => hnext (shadowRecomputeComplete_early h hdue),
      fun h => hnext (recomputeComplete_none h), fun h => hnext (shadowRecomputeComplete_none h), fun r h hdue => ?_, fun r h hdue => ?_⟩
    · intro done
      refine ⟨fun hdispute => hnext (recomputeComplete_undisputed h hdue hdispute), fun d hdispute => ?_⟩
      intro z
      refine ⟨fun hown hinput hstopped hattempts => hnext ?_, fun hown hinput hlong hstopped hjob hfenced hlow hfence hhigh => ?_⟩
      · rw [recomputeComplete_judged h hdue hdispute hown, if_pos (by rw [hinput]; rfl), voidAttempt_again hstopped hattempts]
        rfl
      · have hrun : recomputeComplete t x s = changeScore d.spire (-100) (quarantineLater d.spire (checkerNoted d (recomputeDone r s))) := by
          rw [recomputeComplete_judged h hdue hdispute hown, if_neg (by rw [hinput]; decide), if_pos hlong, verdict_checkerStopped _ hstopped]
        obtain ⟨gspires, gdisputes, gcount, gfence, ghealth⟩ := checkerNoted_keeps d (recomputeDone r s)
        have hspire : ((checkerNoted d (recomputeDone r s)).spire d.spire).ctx.jobId = 0 :=
          (congrArg (fun p : Tab Spire => (p.get Spire.reset d.spire).ctx.jobId) gspires).trans hjob
        obtain ⟨q, hquar⟩ := quarantineLater_now hspire (by rw [ghealth]; exact hfenced)
        rw [hquar] at hrun
        generalize checkerNoted d (recomputeDone r s) = w at *
        have hhealth : ((w.modHealth d.spire (fun h => { h with quarantined := true, confirm := true })).modRel
            (fun r => { r with confirmQueue := q })).healthOf d.spire =
              { s.healthOf d.spire with last := 1, quarantined := true, confirm := true } := by
          refine (healthOf_modHealth w d.spire _).trans ?_
          rw [ghealth]
          rfl
        have hscore := change_down (n := 100) (x := { s.healthOf d.spire with last := 1, quarantined := true, confirm := true }) hlow hhigh
        have habove := changeScore_above (k := d.spire) (d := -100)
          (s := (w.modHealth d.spire (fun h => { h with quarantined := true, confirm := true })).modRel (fun r => { r with confirmQueue := q }))
          (by rw [hhealth]; exact Nat.lt_of_lt_of_eq (gfence ▸ hfence) hscore.symm)
        refine ⟨_, hnext (hrun.trans habove), gspires, gdisputes, gcount, ?_⟩
        rw [healthOf_modHealth, hhealth]
        exact change_score hscore
    · intro z done run
      have hrun := shadowRecomputeComplete_due (x := x) h hdue
      exact ⟨fun hown hinput => hnext (hrun.trans (shadowOutcome_void hown hinput)),
        fun hown hinput hlong => hnext (hrun.trans (shadowOutcome_agrees hown hinput hlong))⟩
  case settings =>
    intro s mid v hserves settable status start len
    have hstart : field v.toNat 19 0 = start := field_low _ _
    have hlen : field v.toNat 15 0 = len := field_low _ _
    have hcfg (mid : Nat) (hmid : mid ≤ 1) : exec (.relTestCfgWrite mid v) s = .next (relTestCfgWrite mid v.toNat s) :=
      hnext (bar0Row_serves hmid (hserves 0x3C0004 (by decide)))
    have hlenw (mid : Nat) (hmid : mid ≤ 1) : exec (.relTestLenWrite mid v) s = .next (relTestLenWrite mid v.toNat s) :=
      hnext (bar0Row_serves hmid (hserves 0x3C0008 (by decide)))
    refine ⟨fun hmid => ⟨hnext (bar0Row_inert (hserves 0x3C0004 (by decide)) (if_pos hmid)),
        hnext (bar0Row_inert (hserves 0x3C0008 (by decide)) (if_pos hmid))⟩, fun hset => ?_, fun hset hbad => ?_, fun hset hgood => ?_,
      fun hset hbad => ?_, fun hset hgood => ?_, fun hmid => ⟨hnext (bar0Row_other hmid), hnext (bar0Row_other hmid)⟩, fun hmid => ⟨fun hdump => ?_, fun d hdump => ?_, ?_⟩⟩
    · have hbarred : s.testSettable = false := eq_false_of_ne_true (mt testSettable_iff.mp hset)
      rw [hcfg 0 (by decide), hlenw 0 (by decide)]
      exact ⟨hnext (relTestCfgWrite_barred hbarred), hnext (relTestLenWrite_barred hbarred)⟩
    · rw [hcfg 0 (by decide), relTestCfgWrite_settable (testSettable_iff.mpr hset), hstart, if_pos (by rw [hbad]; rfl)]
      rfl
    · rw [hcfg 0 (by decide), relTestCfgWrite_settable (testSettable_iff.mpr hset), hstart, if_neg (by rw [hgood]; decide)]
      rfl
    · rw [hlenw 0 (by decide), relTestLenWrite_settable (testSettable_iff.mpr hset), hlen, if_pos (by rw [hbad]; rfl)]
      rfl
    · rw [hlenw 0 (by decide), relTestLenWrite_settable (testSettable_iff.mpr hset), hlen, if_neg (by rw [hgood]; decide)]
      rfl
    · exact hnext (bar0Row_inert (hserves 0x3C5000 (by decide)) (relDumpClear_none hdump))
    · have hrun : exec (.relDumpClear mid) s = .next (relDumpClear mid s) := hnext (bar0Row_serves hmid (hserves 0x3C5000 (by decide)))
      have hmem := dumpWrite_mem d.tower 12 [0] (s.modRel (fun r => { r with dump := some { d with state := 0 } }))
      refine ⟨_, hrun.trans (hnext (relDumpClear_clears hmid hdump)), rfl, rfl, ?_, fun a ha => ?_⟩
      · rw [hmem]
        have hbyte := Mem.read8_writeBytes_inside ((s.modRel (fun r => { r with dump := some { d with state := 0 } })).stack (6 * d.tower + 5)).mem
          (dumpBase + 12) 0 [0] (by decide)
        rw [Nat.add_zero] at hbyte
        exact hbyte
      · rw [hmem]
        exact Mem.read8_writeBytes_outside _ _ _ _ (by simp only [List.length_singleton]; omega)
    · have hrun : exec (.relPmClear mid) s = .next (relPmClear mid s) := hnext (bar0Row_serves hmid (hserves 0x3C2104 (by decide)))
      obtain ⟨p, hclears, hlowest⟩ := relPmClear_clears hmid s
      exact ⟨_, hrun.trans (hnext hclears), rfl, hlowest⟩

end Sys2Proof.Machine

namespace Sys2Proof.Machine
open Sys2Proof

/-! ### The loss and the return of a chip (R419, R522 to R524) -/

section
variable {s : State} {chip : Nat}

theorem loseRequests_none {pick : RmRequest → Bool} (h : ∀ r ∈ s.rm.reqs, r.reply = none → pick r = false) : loseRequests pick s = s := by
  unfold loseRequests
  rw [List.filter_eq_nil_iff.mpr ?_]
  · rfl
  · intro r hr hpick
    rw [Bool.and_eq_true, Option.isNone_iff_eq_none] at hpick
    exact absurd (h r hr hpick.1) (by rw [hpick.2]; decide)

/-- A chip that no outstanding request concerns is lost: it is marked, and its replay records go. -/
theorem rmLose_quiet (hlost : chip ∉ s.rm.lost) (hreqs : ∀ r ∈ s.rm.reqs, r.reply = none → r.dst ≠ chip ∧ addrChip r.addr ≠ chip) :
    rmLose chip s = s.modRm (fun m => { m with lost := m.lost ++ [chip], replay := m.replay.filter (fun r => r.src != chip) }) := by
  have hnew : s.rm.lost.contains chip = false := by simpa using hlost
  unfold rmLose
  dsimp only
  rw [loseRequests_none ?_]
  · unfold State.modRm
    dsimp only
    rw [hnew]
    rfl
  · intro r hr hopen
    obtain ⟨hdst, haddr⟩ := hreqs r hr hopen
    simp [hdst, haddr]

/-- What a declared loss changes before its record is written. -/
def State.lossNoted (s : State) (chip : Nat) : State := { s with
  rm := { s.rm with lost := s.rm.lost ++ [chip], replay := s.rm.replay.filter (fun r => r.src != chip) }
  rel := { s.rel with
    gov := { s.rel.gov with candidates := s.rel.gov.candidates.filter (· != chip), suspects := s.rel.gov.suspects.filter (· != chip) }
    live := s.rel.live.modify Liveness.reset chip (fun x => { x with goodRun := 0 }) } }

theorem chipLost_quiet (hlost : chip ∉ s.rm.lost) (hreqs : ∀ r ∈ s.rm.reqs, r.reply = none → r.dst ≠ chip ∧ addrChip r.addr ≠ chip) :
    chipLost chip s = errRecord 9 5 chip 0 0 0 0 (s.lossNoted chip) := by
  unfold chipLost
  rw [rmLose_quiet hlost hreqs]
  rfl

theorem chipLostDeclaration_due (h : s.clk.chipState = .ready ∧ s.stepImage.isSome = true ∧ chip ∈ s.partners ∧ chip ≠ s.chipId ∧
    8 ≤ (s.rel.live.get Liveness.reset chip).silent ∧ chip ∉ s.rm.lost) : chipLostDeclaration chip s = declareLost chip s := by
  obtain ⟨hready, himage, hpartner, hself, hsilent, hlost⟩ := h
  exact if_pos (by simp [hready, himage, hpartner, hself, hsilent, hlost])

theorem chipLostDeclaration_not (h : ¬ (s.clk.chipState = .ready ∧ s.stepImage.isSome = true ∧ chip ∈ s.partners ∧ chip ≠ s.chipId ∧
    8 ≤ (s.rel.live.get Liveness.reset chip).silent ∧ chip ∉ s.rm.lost)) : chipLostDeclaration chip s = s := by
  refine if_neg fun hdue => h ?_
  simpa [and_assoc] using hdue

theorem chipReturn_due (hlost : chip ∈ s.rm.lost) (hpartner : chip ∈ s.partners)
    (hgood : 16 ≤ (s.rel.live.get Liveness.reset chip).goodRun) : chipReturn chip s = declareReturn chip s :=
  if_pos (by simp [hlost, hpartner, hgood])

theorem chipReturn_not (h : chip ∉ s.rm.lost ∨ chip ∉ s.partners ∨ (s.rel.live.get Liveness.reset chip).goodRun < 16) : chipReturn chip s = s := by
  refine if_neg fun hdue => ?_
  simp only [Bool.and_eq_true, decide_eq_true_eq, List.contains_iff_mem] at hdue
  obtain ⟨⟨hlost, hpartner⟩, hgood⟩ := hdue
  rcases h with h | h | h
  · exact h hlost
  · exact h hpartner
  · omega

/-! ### The governor (R526, R527) -/

theorem recheckSuspects_none (h : s.rel.gov.suspects = []) : recheckSuspects s = s := by
  unfold recheckSuspects
  rw [h]
  rfl

theorem govLowerExpiry_off (h : s.rel.gov.fullSince = none) : govLowerExpiry s = s := by
  unfold govLowerExpiry
  rw [h]

theorem govLowerExpiry_early {t : Nat} (h : s.rel.gov.fullSince = some t) (hearly : s.clock.tick < t + s.rel.gov.lower.toNat * 60 * 1700000000) :
    govLowerExpiry s = s := by
  unfold govLowerExpiry
  rw [h]
  exact if_neg (Nat.not_le_of_lt hearly)

/-- With no suspect D falls by its step, not below D_BASE. -/
theorem govLowerExpiry_lowers {t : Nat} (h : s.rel.gov.fullSince = some t) (hdue : t + s.rel.gov.lower.toNat * 60 * 1700000000 ≤ s.clock.tick)
    (hsuspects : s.rel.gov.suspects = []) (hbase : s.rel.gov.dBase.toNat ≤ s.rel.gov.d.toNat) : govLowerExpiry s = s.modGov (fun g => { g with
      fullSince := some s.clock.tick, d := BitVec.ofNat 10 (max g.dBase.toNat (g.d.toNat - g.step.toNat)) }) := by
  unfold govLowerExpiry
  rw [h]
  dsimp only
  have hdue : t + s.rel.gov.lower.toNat * 60 * tickSecond ≤ s.clock.tick := hdue
  rw [if_pos hdue]
  by_cases hfalls : max s.rel.gov.dBase.toNat (s.rel.gov.d.toNat - s.rel.gov.step.toNat) < s.rel.gov.d.toNat
  · rw [if_pos hfalls, recheckSuspects_none]
    · rfl
    · exact hsuspects
  · have hsame : max s.rel.gov.dBase.toNat (s.rel.gov.d.toNat - s.rel.gov.step.toNat) = s.rel.gov.d.toNat := by omega
    rw [if_neg hfalls]
    unfold State.modGov State.modRel
    dsimp only
    rw [hsame, BitVec.ofNat_toNat, BitVec.setWidth_eq]

/-! ### Margins (R528, R529) -/

theorem alarmAt_low (above : Bool) (now : Nat) (alarm : Bool) (since : Option Nat) : alarmAt true above now alarm since = (!alarm, true, none) := rfl

/-- A reading that is not low writes no record, and raises no alarm. -/
theorem alarmAt_high (above : Bool) (now : Nat) (alarm : Bool) (since : Option Nat) : (alarmAt false above now alarm since).1 = false ∧
    (alarm = false → (alarmAt false above now alarm since).2.1 = false) := by
  unfold alarmAt
  cases alarm with
  | false => exact ⟨rfl, fun _ => rfl⟩
  | true =>
    refine ⟨?_, fun h => absurd h (by decide)⟩
    cases above with
    | false => rfl
    | true =>
      by_cases htime : tickSecond ≤ now - since.getD now
      · simp [htime]
      · simp [htime]

/-- What the alarm of path monitor `n` becomes at a slack. -/
def State.pathAlarm (s : State) (n v : Nat) : Bool × Bool × Option Nat :=
  let p := s.rel.pm.get PathMon.reset n
  alarmAt (decide (v < s.rel.pmAlarmAt.toNat)) (decide (s.rel.pmAlarmAt.toNat + 5 < v)) s.clock.tick p.alarm p.since

/-- Path monitor `n` after a slack. -/
def State.pathSampled (s : State) (n v : Nat) : PathMon :=
  let p := s.rel.pm.get PathMon.reset n
  { seen := true, lowest := if p.seen then BitVec.ofNat 16 (min p.lowest.toNat v) else BitVec.ofNat 16 v
    latest := BitVec.ofNat 16 v, alarm := (s.pathAlarm n v).2.1, since := (s.pathAlarm n v).2.2, recent := some (min v (p.recent.getD v)) }

theorem pathMonitorSample_eq (n slack : Nat) (s : State) : pathMonitorSample n slack s =
    let v := min slack 0xFFFF
    let s1 := s.modRel (fun r => { r with pm := r.pm.set PathMon.reset n (s.pathSampled n v) })
    if (s.pathAlarm n v).1 then errRecord 12 12 n 0 0 0 v s1 else s1 := rfl

/-- A record, if one is written, adds to the counters its own number alone. -/
theorem recordedIf_keeps (b : Bool) (d o i v : Nat) (t : State) :
    let u := if b then errRecord d o i 0 0 0 v t else t
    u.rel.pm = t.rel.pm ∧ u.rel.opt = t.rel.opt ∧
      u.rel.counters = if b = true then { t.rel.counters with errSeq := satInc t.rel.counters.errSeq } else t.rel.counters := by
  cases b with
  | false => exact ⟨rfl, rfl, rfl⟩
  | true =>
    obtain ⟨x, y, z, h⟩ := errRecord_shape d o i 0 0 0 v t
    dsimp only
    rw [if_pos rfl, h]
    exact ⟨rfl, rfl, rfl⟩

/-- What the alarm of lane `n`'s optical power becomes at a reading. -/
def State.opticalAlarm (s : State) (n : Nat) (x : Int) : Bool × Bool × Option Nat :=
  let p := s.rel.opt.get OptPower.reset n
  let at_ := toSigned 16 s.rel.optAlarmAt.toNat
  alarmAt (decide (x < at_)) (decide (at_ + 5 < x)) s.clock.tick p.alarm p.since

theorem opticalPowerRead_off {n : Nat} {power : Option Int} (h : (s.lane n).regs.enable = false) : opticalPowerRead n power s = s :=
  if_pos (by rw [h]; rfl)

theorem opticalPowerRead_none {n : Nat} (h : (s.lane n).regs.enable = true) : opticalPowerRead n none s =
    s.modRel (fun r => { r with opt := r.opt.set OptPower.reset n OptPower.reset }) := if_neg (by rw [h]; decide)

theorem opticalPowerRead_some {n : Nat} {x : Int} (h : (s.lane n).regs.enable = true) : opticalPowerRead n (some x) s =
    let r := s.opticalAlarm n x
    let s1 := s.modRel (fun y => { y with opt := y.opt.set OptPower.reset n ⟨true, r.2.1, BitVec.ofNat 16 (ofSigned 16 x), r.2.2⟩ })
    if r.1 then errRecord 13 12 n 0 0 0 (ofSigned 32 x) s1 else s1 := if_neg (by rw [h]; decide)

/-! ### Records, fatal errors and the dump (R499, R531, R533) -/

theorem logEvent_dbStatus (e : LogEvent) (s : State) : (logEvent e s).dome.dbStatus = s.dome.dbStatus := by
  obtain ⟨q, n, l, hlog⟩ := logged_dome e s
  rw [hlog]

/-- A record is announced by the Dome's doorbell bit 0. -/
theorem errRecord_rings (a b c d e f g : Nat) (s : State) : (errRecord a b c d e f g s).dome.dbStatus.getLsbD 0 = true := by
  have hring (t : State) : (ringDome 0 t).dome.dbStatus.getLsbD 0 = true := ringDome_sets (by decide) t
  unfold errRecord
  dsimp only
  split
  · rw [logEvent_dbStatus]
    split <;> exact hring _
  · split <;> exact hring _

theorem correctionSummary_none (h : s.rel.corrections = 0) : correctionSummary s = s := if_pos h

theorem correctionSummary_some (h : s.rel.corrections ≠ 0) : correctionSummary s =
    errRecord 1 0 0 0 0 0 s.rel.corrections (s.modRel (fun r => { r with corrections := 0 })) := if_neg h

/-- A fatal error is recorded and logged, with the counters frozen. -/
def State.fatalNoted (s : State) (detector : Nat) : State :=
  logEvent .fatal (errRecord detector 14 0 0 0 0 0 { s with cnt := { s.cnt with freeze := true } })

theorem fatalNoted_shape (s : State) (detector : Nat) : ∃ x y z, s.fatalNoted detector = { s with
    cnt := { s.cnt with freeze := true }
    rel := { s.rel with counters := { s.rel.counters with errSeq := satInc s.rel.counters.errSeq }, ring := x }, dome := y, out := z } := by
  unfold State.fatalNoted
  obtain ⟨x, y, z, hrecord⟩ := errRecord_shape detector 14 0 0 0 0 0 { s with cnt := { s.cnt with freeze := true } }
  rw [hrecord]
  obtain ⟨q, n, l, hlog⟩ := logEvent_shape .fatal { s with
    cnt := { s.cnt with freeze := true }
    rel := { s.rel with counters := { s.rel.counters with errSeq := satInc s.rel.counters.errSeq }, ring := x }, dome := y, out := z }
  exact ⟨x, _, z, hlog⟩

theorem fatalError_early {detector : Nat} (h : s.clk.done = false) : fatalError detector s = s := if_pos (by rw [h]; rfl)

theorem fatalError_first {detector : Nat} (hdone : s.clk.done = true) (hfatal : s.rel.fatal = false) : fatalError detector s =
    startDump detector ((s.fatalNoted detector).modRel (fun r => { r with fatal := true })) :=
  (if_neg (by rw [hdone]; decide)).trans (if_neg (by rw [hfatal]; decide))

theorem fatalError_again {detector : Nat} (hdone : s.clk.done = true) (hfatal : s.rel.fatal = true) : fatalError detector s =
    (s.fatalNoted detector).modRel (fun r => { r with
      dump := r.dump.map (fun d => if d.state = dumpWriting then { d with stopped := true } else d) }) :=
  (if_neg (by rw [hdone]; decide)).trans (if_pos hfatal)

theorem startDump_none {detector : Nat} (h : s.mapTower = none) : startDump detector s = s := by
  unfold startDump
  rw [h]

theorem startDump_untrained {detector t : Nat} (h : s.mapTower = some t) (htrained : (s.stack (6 * t + 5)).trained = false) :
    startDump detector s = s := by
  unfold startDump
  rw [h]
  exact if_neg (by rw [htrained]; decide)

theorem startDump_begins {detector t : Nat} (h : s.mapTower = some t) (htrained : (s.stack (6 * t + 5)).trained = true) :
    ∃ x y, startDump detector s = { s with
      hbm := x, free := y, rel := { s.rel with dump := some ⟨t, 1, BitVec.ofNat 32 s.nextDump, false⟩ } } := by
  unfold startDump
  rw [h]
  exact ⟨_, _, if_pos htrained⟩

/-- What a dump that begins, or does not, leaves as it was. -/
theorem startDump_shape (detector : Nat) (s : State) : ∃ x y z, startDump detector s = { s with hbm := x, free := y, rel := { s.rel with dump := z } } := by
  cases h : s.mapTower with
  | none => exact ⟨_, _, _, startDump_none h⟩
  | some t =>
    by_cases htrained : (s.stack (6 * t + 5)).trained = true
    · obtain ⟨x, y, hbegins⟩ := startDump_begins (detector := detector) h htrained
      exact ⟨x, y, _, hbegins⟩
    · exact ⟨_, _, _, startDump_untrained h (eq_false_of_ne_true htrained)⟩

theorem fatalDumpComplete_not (h : s.rel.fatal = false) : fatalDumpComplete s = s := if_pos (by rw [h]; rfl)

/-- At its end the dump resets the chip, STATE written last where it was being written. -/
theorem fatalDumpComplete_resets (h : s.rel.fatal = true) : ∃ x d, fatalDumpComplete s = chipReset .chipResetCmd { s with
    hbm := x, rel := { s.rel with dump := d } } ∧
    (∀ x, s.rel.dump = some x → x.state = 1 → x.stopped = false → d = some { x with state := 2 }) ∧
    (∀ x, s.rel.dump = some x → (x.state ≠ 1 ∨ x.stopped = true) → d = some x) := by
  unfold fatalDumpComplete
  rw [if_neg (by rw [h]; decide)]
  cases hdump : s.rel.dump with
  | none =>
    have hsame : s = { s with hbm := s.hbm, rel := { s.rel with dump := none } } := by rw [← hdump]
    exact ⟨s.hbm, none, congrArg (chipReset .chipResetCmd) hsame, fun _ h => absurd h (by simp), fun _ h => absurd h (by simp)⟩
  | some y =>
    dsimp only
    by_cases hwriting : y.state = 1 ∧ y.stopped = false
    · rw [if_pos (by simp [hwriting])]
      refine ⟨_, some { y with state := 2 }, rfl, ?_, ?_⟩
      · rintro _ ⟨⟩ _ _
        rfl
      · rintro _ ⟨⟩ hnot
        rcases hnot with hnot | hnot
        · exact absurd hwriting.1 hnot
        · exact absurd (hnot.symm.trans hwriting.2) (by decide)
    · rw [if_neg (by simpa using hwriting)]
      have hsame : s = { s with hbm := s.hbm, rel := { s.rel with dump := some y } } := by rw [← hdump]
      refine ⟨s.hbm, some y, congrArg (chipReset .chipResetCmd) hsame, ?_, ?_⟩
      · rintro _ ⟨⟩ hstate hstopped
        exact absurd ⟨hstate, hstopped⟩ hwriting
      · rintro _ ⟨⟩ _
        rfl

end

/-- Settles O44: the rules of the loss and the return of a chip, of the governor, of the margins, of fatal errors and of their dump. -/
theorem lossGovernorMarginsAndFatalErrors : Obligations.LossGovernorMarginsAndFatalErrors := by
  have hnext {t u : State} (h : t = u) : Host.Outcome.next t = (.next u : Host.Outcome State Fault Refusal) := congrArg _ h
  refine ⟨?loss, ?governor, ?margins, ?corrections, ?fatal⟩
  case loss =>
    intro s chip due
    refine ⟨fun h => hnext (chipLostDeclaration_not h), fun h hreqs => ?_, fun hlost hpartner hgood => ?_, fun h => hnext (chipReturn_not h)⟩
    · obtain ⟨x, y, z, hrecord⟩ := errRecord_shape 9 5 chip 0 0 0 0 (s.lossNoted chip)
      have hrun : chipLostDeclaration chip s = tellNear 1 chip (s.rm.incs.get 0 chip - 1) (chipLost chip s) := chipLostDeclaration_due h
      rw [chipLost_quiet h.2.2.2.2.2 hreqs, hrecord] at hrun
      exact ⟨_, hnext hrun, rfl, rfl, rfl, Tab.get_modify_same _ _ _ _, rfl⟩
    · obtain ⟨x, y, z, hrecord⟩ := errRecord_shape 9 6 chip 0 0 0 0
        (s.modRm (fun m => { m with lost := m.lost.filter (· != chip), incs := m.incs.set 0 chip 0 }))
      have hrun : chipReturn chip s = tellNear 2 chip 0 (chipReturned chip s) := chipReturn_due hlost hpartner hgood
      unfold chipReturned at hrun
      rw [hrecord] at hrun
      exact ⟨_, hnext hrun, rfl, rfl, rfl⟩
  case governor =>
    intro s g earned put
    refine ⟨fun h => hnext ?_, fun h => hnext ?_, fun h => hnext (govLowerExpiry_off h), fun t h => ⟨fun hearly => hnext (govLowerExpiry_early h hearly),
      fun hdue hsuspects hbase => hnext (govLowerExpiry_lowers h hdue hsuspects hbase)⟩⟩
    · exact congrArg put (if_neg (Nat.not_le_of_lt h))
    · exact congrArg put (if_pos h)
  case margins =>
    intro s n slack power p v o level
    refine ⟨?_, fun h => hnext (opticalPowerRead_off h), ?_, ?_⟩
    · obtain ⟨hpm, -, hcounters⟩ := recordedIf_keeps (s.pathAlarm n v).1 12 12 n v (s.modRel (fun r => { r with pm := r.pm.set PathMon.reset n (s.pathSampled n v) }))
      have hn := (congrArg (fun x => x.get PathMon.reset n.val) hpm).trans (Tab.get_set_same _ _ _ _)
      refine ⟨_, hnext (pathMonitorSample_eq n slack s), congrArg PathMon.latest hn, congrArg PathMon.lowest hn,
        fun m hm => (congrArg (fun x => x.get PathMon.reset m) hpm).trans (Tab.get_set_other _ _ _ (Ne.symm hm)), fun hlow => ?_,
        fun hhigh halarm => ?_, fun hhigh => ?_⟩
      · have hat : s.pathAlarm n v = (!p.alarm, true, none) := by
          unfold State.pathAlarm
          rw [decide_eq_true hlow, alarmAt_low]
        refine ⟨(congrArg PathMon.alarm hn).trans (congrArg (fun x => x.2.1) hat), ?_⟩
        refine (congrArg RelCounters.errSeq hcounters).trans ?_
        rw [hat]
        cases p.alarm <;> rfl
      · refine (congrArg PathMon.alarm hn).trans ?_
        unfold State.pathSampled State.pathAlarm
        rw [decide_eq_false (Nat.not_lt_of_le hhigh)]
        exact (alarmAt_high _ _ _ _).2 halarm
      · have hquiet : (s.pathAlarm n v).1 = false := by
          unfold State.pathAlarm
          rw [decide_eq_false (Nat.not_lt_of_le hhigh)]
          exact (alarmAt_high _ _ _ _).1
        exact hcounters.trans (if_neg (by rw [hquiet]; decide))
    · rintro h rfl
      exact ⟨_, hnext (opticalPowerRead_none h), rfl, Tab.get_set_same _ _ _ _⟩
    · rintro x h rfl
      obtain ⟨-, hopt, hcounters⟩ := recordedIf_keeps (s.opticalAlarm n x).1 13 12 n (ofSigned 32 x)
        (s.modRel (fun y => { y with opt := y.opt.set OptPower.reset n ⟨true, (s.opticalAlarm n x).2.1, BitVec.ofNat 16 (ofSigned 16 x), (s.opticalAlarm n x).2.2⟩ }))
      have hn := (congrArg (fun x => x.get OptPower.reset n.val) hopt).trans (Tab.get_set_same _ _ _ _)
      refine ⟨_, hnext (opticalPowerRead_some h), congrArg OptPower.valid hn, congrArg OptPower.power hn, fun hlow => ?_, fun hhigh => ?_⟩
      · have hat : s.opticalAlarm n x = (!o.alarm, true, none) := by
          unfold State.opticalAlarm
          dsimp only
          rw [decide_eq_true hlow, alarmAt_low]
        refine ⟨(congrArg OptPower.alarm hn).trans (congrArg (fun x => x.2.1) hat), ?_⟩
        refine (congrArg RelCounters.errSeq hcounters).trans ?_
        rw [hat]
        cases o.alarm <;> rfl
      · have hquiet : (s.opticalAlarm n x).1 = false := by
          unfold State.opticalAlarm
          dsimp only
          rw [decide_eq_false (Int.not_lt.mpr hhigh)]
          exact (alarmAt_high _ _ _ _).1
        exact hcounters.trans (if_neg (by rw [hquiet]; decide))
  case corrections =>
    intro s
    refine ⟨fun h => hnext (correctionSummary_none h), fun h => ?_⟩
    obtain ⟨x, y, z, hrecord⟩ := errRecord_shape 1 0 0 0 0 0 s.rel.corrections (s.modRel (fun r => { r with corrections := 0 }))
    refine ⟨_, hnext (correctionSummary_some h), ?_, ?_, errRecord_rings _ _ _ _ _ _ _ _⟩
    · rw [hrecord]
      rfl
    · rw [hrecord]
      rfl
  case fatal =>
    intro s d
    obtain ⟨x, y, z, hnoted⟩ := fatalNoted_shape s d
    refine ⟨fun h => hnext (fatalError_early h), fun hdone hfatal => ?_, fun hdone hfatal => ?_, fun h => hnext (fatalDumpComplete_not h), fun h => ?_⟩
    · have hrun := fatalError_first (detector := d) hdone hfatal
      rw [hnoted] at hrun
      generalize hw : State.modRel _ _ = w at hrun
      have hdump (v : State) (h : v = w) : v.rel.dump = s.rel.dump := by
        rw [h, ← hw]
        rfl
      have htower : w.mapTower = s.mapTower := by
        rw [← hw]
        rfl
      have htrained (t : Nat) : (w.stack (6 * t + 5)).trained = (s.stack (6 * t + 5)).trained := by
        rw [← hw]
        rfl
      have hseq : w.nextDump = s.nextDump := by
        rw [← hw]
        rfl
      obtain ⟨a, b, c, hshape⟩ := startDump_shape d w
      refine ⟨_, hnext hrun, ?_, ?_, ?_, ?_, ?_, fun h => hdump _ (startDump_none (htower.trans h)), fun t h => ⟨fun hoff => ?_, fun hon => ?_⟩⟩
      case refine_6 => exact hdump _ (startDump_untrained (htower.trans h) ((htrained t).trans hoff))
      case refine_7 =>
        obtain ⟨e, f, hbegins⟩ := startDump_begins (detector := d) (htower.trans h) ((htrained t).trans hon)
        rw [hbegins, hseq]
      all_goals
        rw [hshape, ← hw]
        rfl
    · have hrun := fatalError_again (detector := d) hdone hfatal
      rw [hnoted] at hrun
      exact ⟨_, hnext hrun, hfatal, rfl, rfl⟩
    · obtain ⟨a, b, hresets, hdone, hkept⟩ := fatalDumpComplete_resets h
      exact ⟨_, hnext hresets, rfl, rfl, rfl, rfl, rfl, hdone, hkept⟩

end Sys2Proof.Machine

namespace Sys2Proof.Machine
open Sys2Proof

/-! ### A request that may go at once (R405, R421, R422) -/

section
variable {s : State} {owner : RmOwner} {ctx lease job op dst t : Nat} {addr operand swap : DWord}

/-- A request as it stands in the list of requests, queued or with its tag. -/
def RmState.newRequest (m : RmState) (owner : RmOwner) (ctx lease job op dst : Nat) (addr operand swap : DWord) (queued : Bool)
    (tag gen : Nat) : RmRequest :=
  ⟨m.nextUid, queued, ctx, tag, gen, op, addr, operand, swap, lease, job, owner, dst, none, 0, 0, none, false, false⟩

/-- Nothing bars the next request of a context: no request is queued, none is of that context, no fence is open, and there is room. -/
structure State.Idle (s : State) (ctx : Nat) : Prop where
  others : ∀ r ∈ s.rm.reqs, r.queued = false ∧ r.ctx ≠ ctx
  fences : s.rm.fences = []
  room : (s.rm.reqs.filter (fun r => r.open_)).length < 16384

/-- The generation that a tag takes next. -/
def State.nextGen (s : State) (ctx t : Nat) : Nat := ((s.rm.tag ctx t).gen + 1) % 16

/-- A request takes its tag and joins the requests. -/
def State.joined (s : State) (r : RmRequest) : State := { s with rm := { s.rm with
  nextUid := s.rm.nextUid + 1, reqs := s.rm.reqs ++ [r]
  tags := s.rm.tags.modify TagUse.reset (r.ctx * 4096 + r.tag) (fun x => { x with gen := r.gen, used := true }) } }

/-- The requests with one that is queued behind them. -/
def State.withQueued (s : State) (r : RmRequest) : State := s.modRm (fun m => { m with reqs := m.reqs ++ [r], nextUid := m.nextUid + 1 })

theorem mayGo_idle {r : RmRequest} (h : s.Idle r.ctx) (hqueued : r.queued = true) (hreply : r.reply = none) :
    (s.withQueued r).rm.mayGo r = true := by
  obtain ⟨hothers, hfences, hroom⟩ := h
  have hmine : (s.rm.reqs ++ [r]).filter (fun e => e.ctx == r.ctx && e.reply.isNone) = [r] := by
    rw [List.filter_append, List.filter_eq_nil_iff.mpr fun e he => by simp [(hothers e he).2], List.nil_append]
    simp [hreply]
  have hnot : [r].filter RmRequest.open_ = [] := by simp [RmRequest.open_, hqueued]
  have hopen : decide (((s.rm.reqs ++ [r]).filter RmRequest.open_).length < chipMax) = true := by
    rw [List.filter_append, hnot, List.append_nil]
    exact decide_eq_true hroom
  have hlist : (s.withQueued r).rm.reqs = s.rm.reqs ++ [r] := rfl
  have hnone : (s.withQueued r).rm.fences = [] := hfences
  unfold RmState.mayGo
  rw [hlist, hmine, hnone, hopen]
  simp [hqueued, ctxMax]

theorem rmPump_one {r : RmRequest} (h : s.Idle r.ctx) (hqueued : r.queued = true) (hreply : r.reply = none) :
    rmPump (s.withQueued r) = rmSend r (s.withQueued r) := by
  have hlist : (s.withQueued r).rm.reqs.filter (·.queued) = [r] := by
    change (s.rm.reqs ++ [r]).filter (·.queued) = [r]
    rw [List.filter_append, List.filter_eq_nil_iff.mpr fun e he => by simp [(h.others e he).1], List.nil_append]
    simp [hqueued]
  unfold rmPump
  rw [hlist]
  exact if_pos (mayGo_idle h hqueued hreply)

theorem rmSend_tagged {r : RmRequest} (hidle : ∀ x ∈ s.rm.reqs, x.queued = false) (hqueued : r.queued = true)
    (htag : s.freeTag r.ctx = some t) : rmSend r (s.withQueued r) =
      rmTransmit { r with queued := false, tag := t, gen := s.nextGen r.ctx t } false
        (s.joined { r with queued := false, tag := t, gen := s.nextGen r.ctx t }) := by
  have hfree : (s.withQueued r).freeTag r.ctx = some t := htag
  have hmap : (s.rm.reqs ++ [r]).map (fun x => if x.queued ∧ x.uid = r.uid then
      { r with queued := false, tag := t, gen := s.nextGen r.ctx t } else x) =
      s.rm.reqs ++ [{ r with queued := false, tag := t, gen := s.nextGen r.ctx t }] := by
    have hold : s.rm.reqs.map (fun x => if x.queued ∧ x.uid = r.uid then
        { r with queued := false, tag := t, gen := s.nextGen r.ctx t } else x) = s.rm.reqs := by
      refine (List.map_congr_left fun x hx => if_neg ?_).trans (List.map_id _)
      rw [hidle x hx]
      exact fun h => absurd h.1 (by decide)
    rw [List.map_append, hold, List.map_singleton, if_pos ⟨hqueued, rfl⟩]
  unfold rmSend
  rw [hfree]
  refine congrArg (rmTransmit _ false) ?_
  unfold State.joined
  rw [← hmap]
  rfl

/-- A request that nothing bars is sent at once, with the lowest usable tag of its context. -/
theorem rmIssue_sends (h : s.Idle ctx) (htag : s.freeTag ctx = some t) : rmIssue owner ctx lease job op dst addr operand swap s =
    let r := s.rm.newRequest owner ctx lease job op dst addr operand swap false t (s.nextGen ctx t)
    rmTransmit r false (s.joined r) :=
  (rmPump_one (r := s.rm.newRequest owner ctx lease job op dst addr operand swap true 0 0) h rfl rfl).trans
    (rmSend_tagged (r := s.rm.newRequest owner ctx lease job op dst addr operand swap true 0 0) (fun x hx => (h.others x hx).1) rfl htag)

/-- A store line's request goes out as its DATA cells. -/
theorem rmTransmit_line {r : RmRequest} {again : Bool} {n : Nat} (howner : r.owner = .line n) (hwrites : opWrites r.op = true) :
    rmTransmit r again s = s.modRm (fun m => { m with cells := m.cells ++ lineTransfer n r s }) := by
  unfold rmTransmit
  rw [howner, hwrites]

end

/-! ### Answers of the target (R411, R412) -/

section
variable {s t u : State} {r : RmRecord} {st : Nat} {data : DWord}

/-- A state with a reply of its own on its way, at a chip and at a time. -/
def State.answered (s : State) (own inc ready : Nat) (r : RmRecord) (st : Nat) (data : DWord) : State :=
  s.modRm (fun m => { m with outbox := m.outbox ++ [replyRecord own inc r st data false ready] })

theorem rmRespond_far (hsrc : r.src ≠ s.chipId) : rmRespond r st data false s =
    s.answered s.chipId s.rm.regs.incarnation.toNat s.replyReady r st data := if_neg hsrc

/-- The states of an application differ in no clock, name or count that a reply carries. -/
def Replies (s t : State) : Prop := t.chipId = s.chipId ∧ t.rm.regs.incarnation = s.rm.regs.incarnation ∧ t.replyReady = s.replyReady

theorem rmRespond_as (h : Replies s t) (hsrc : r.src ≠ s.chipId) : rmRespond r st data false t =
    t.answered s.chipId s.rm.regs.incarnation.toNat s.replyReady r st data := by
  obtain ⟨hchip, hinc, hready⟩ := h
  rw [rmRespond_far (by rw [hchip]; exact hsrc), hchip, hinc, hready]

/-- The record taken from the records that wait. -/
def State.taken (s : State) (r : RmRecord) : State := s.modRm (fun m => { m with inbox := m.inbox.erase r })

theorem useSlot_shape (r : RmRecord) (s : State) : ∃ x, useSlot r s = { s with rm := { s.rm with slotsUsed := x } } := by
  unfold useSlot
  split
  · exact ⟨_, rfl⟩
  · exact ⟨_, rfl⟩

theorem rmApply_none (h : s.nextRecord s.rm.inbox [] = none) : rmApply s = s := by
  unfold rmApply
  rw [h]

theorem rmApply_gated {d : Nat} (h : s.nextRecord s.rm.inbox [] = some r) (hdomain : s.addrDomain r.addr = some d) (hoff : s.domainOn d = false) :
    rmApply s = touchDomain d s := by
  unfold rmApply
  rw [h]
  dsimp only
  rw [hdomain]
  exact if_neg (by rw [hoff]; decide)

theorem rmApply_decides (h : s.nextRecord s.rm.inbox [] = some r) (hon : ∀ d, s.addrDomain r.addr = some d → s.domainOn d = true) :
    rmApply s = rmDecide r s := by
  unfold rmApply
  rw [h]
  dsimp only
  cases hdomain : s.addrDomain r.addr with
  | none => rfl
  | some d => exact if_pos (hon d hdomain)

theorem touchDomain_pwr (d : Nat) (s : State) : touchDomain d s = { s with pwr := { s.pwr with
    waking := if (s.pwr.domains.getLsbD d || s.pwr.waking.getLsbD d) = true then s.pwr.waking else s.pwr.waking ||| BitVec.twoPow 30 d } } := by
  unfold touchDomain
  split <;> rfl

theorem rmDecide_read {w : DWord} (h : r.mid = some w) : rmDecide r s = finishWord r w.toNat (useSlot r (s.taken r)) := by
  unfold rmDecide
  rw [h]
  rfl

theorem rmDecide_refused (hmid : r.mid = none) (hreplay : s.rm.match_ r = .none_) (hrefused : (s.taken r).targetRefusal r = some st)
    (hst : st ≠ stNoResource) : rmDecide r s = rmRespond r st 0 false (s.taken r) := by
  have hmatch : (s.taken r).rm.match_ r = .none_ := hreplay
  have hdecide : rmDecide r s = rmCheck r (s.taken r) := by
    unfold rmDecide
    rw [hmid]
    rfl
  rw [hdecide]
  unfold rmCheck
  rw [hmatch]
  dsimp only
  rw [hrefused]
  dsimp only
  rw [if_neg (fun h => hst h.1)]

theorem rmDecide_word (hmid : r.mid = none) (hreplay : s.rm.match_ r = .none_) (hrefused : (s.taken r).targetRefusal r = none)
    (hkind : r.kind = 1) (hctx : r.ctx < 8192) : rmDecide r s = applyWord r (useSlot r (s.taken r)) := by
  have hmatch : (s.taken r).rm.match_ r = .none_ := hreplay
  have hdecide : rmDecide r s = rmCheck r (s.taken r) := by
    unfold rmDecide
    rw [hmid]
    rfl
  rw [hdecide]
  unfold rmCheck
  rw [hmatch]
  dsimp only
  rw [hrefused]
  dsimp only
  unfold applyRecord
  rw [if_neg (by rw [hkind]; decide), if_neg (Nat.not_le_of_lt hctx)]

theorem opAtomic_writes {op : Nat} (h : opAtomic op = true) : opWrites op = true := by
  simp only [opAtomic, opWrites, decide_eq_true_eq] at *
  omega

theorem applyWord_eq (r : RmRecord) (s : State) : applyWord r s =
    if (s.rmMem r.addr).1.poisonedAt (s.rmMem r.addr).2 then rmRespond r stUnusable 0 false (consumePoison 1 s)
    else if opAtomic r.op && !addrSpire r.addr then s.modRm (fun x => { x with
      inbox := { r with mid := some (BitVec.ofNat 64 ((s.rmMem r.addr).1.readLE (s.rmMem r.addr).2 (opBytes r.op))) } :: x.inbox })
    else finishWord r ((s.rmMem r.addr).1.readLE (s.rmMem r.addr).2 (opBytes r.op)) s := rfl

theorem applyWord_poisoned (h : (s.rmMem r.addr).1.poisonedAt (s.rmMem r.addr).2 = true) :
    applyWord r s = rmRespond r stUnusable 0 false (consumePoison 1 s) := by
  rw [applyWord_eq, if_pos h]

theorem applyWord_waits (hclean : (s.rmMem r.addr).1.poisonedAt (s.rmMem r.addr).2 = false) (hatomic : opAtomic r.op = true)
    (hstack : addrSpire r.addr = false) : applyWord r s = s.modRm (fun x => { x with
      inbox := { r with mid := some (BitVec.ofNat 64 ((s.rmMem r.addr).1.readLE (s.rmMem r.addr).2 (opBytes r.op))) } :: x.inbox }) := by
  rw [applyWord_eq, if_neg (by rw [hclean]; decide), if_pos (by rw [hatomic, hstack]; rfl)]

theorem applyWord_finishes (hclean : (s.rmMem r.addr).1.poisonedAt (s.rmMem r.addr).2 = false)
    (hnow : opAtomic r.op = false ∨ addrSpire r.addr = true) :
    applyWord r s = finishWord r ((s.rmMem r.addr).1.readLE (s.rmMem r.addr).2 (opBytes r.op)) s := by
  have hnot : ¬ (opAtomic r.op && !addrSpire r.addr) = true := by
    rcases hnow with h | h <;> simp [h]
  rw [applyWord_eq, if_neg (by rw [hclean]; decide), if_neg hnot]

theorem finishWord_load {old : Nat} (hload : opWrites r.op = false) : finishWord r old s = rmRespond r stOk (BitVec.ofNat 64 old) false s := by
  have hatomic : opAtomic r.op = false := eq_false_of_ne_true fun h => absurd (hload.symm.trans (opAtomic_writes h)) (by decide)
  unfold finishWord
  dsimp only
  rw [hload, hatomic]
  rfl

/-! #### The word that a write leaves -/

/-- Notes of the words that are about to be written change the notes alone. -/
theorem noteWrites_store (k o : Nat) (l : List Nat) (s : State) :
    let v := l.foldl (fun t i => noteWrite k (wordOf o + 32 * i) .other t) s
    v = { s with spires := v.spires } ∧ (v.spire k).store = (s.spire k).store := by
  induction l generalizing s with
  | nil => exact ⟨rfl, rfl⟩
  | cons a l ih =>
    have hstore : ((noteWrite k (wordOf o + 32 * a) .other s).spire k).store = (s.spire k).store := by
      unfold noteWrite noteRecent
      dsimp only
      rw [spire_modSpire]
    obtain ⟨hshape, hrest⟩ := ih (noteWrite k (wordOf o + 32 * a) .other s)
    exact ⟨hshape, hrest.trans hstore⟩

theorem modRmMem_spire (a : DWord) (n : Nat) (f : Mem → Mem) (s : State) (h : addrSpire a = true) :
    s.modRmMem a n f = { s with spires := (s.modRmMem a n f).spires } ∧
    ((s.modRmMem a n f).spire (addrStore a).1).store = f (s.rmMem a).1 := by
  have hmem : (s.rmMem a).1 = (s.spire (addrStore a).1).store := by
    unfold State.rmMem
    rw [if_pos h]
  unfold State.modRmMem
  rw [if_pos h]
  obtain ⟨hshape, hstore⟩ := noteWrites_store (addrStore a).1 (addrStore a).2 (List.range (((addrStore a).2 % 32 + n + 31) / 32)) s
  dsimp only at hshape hstore ⊢
  generalize (List.range (((addrStore a).2 % 32 + n + 31) / 32)).foldl (fun t i => noteWrite (addrStore a).1 (wordOf (addrStore a).2 + 32 * i) .other t) s = v at *
  refine ⟨?_, ?_⟩
  · rw [hshape]
    rfl
  · rw [hmem, ← hstore]
    exact congrArg Spire.store (spire_modSpire _ _ _)

theorem modRmMem_stack (a : DWord) (n : Nat) (f : Mem → Mem) (s : State) (h : addrSpire a = false) :
    s.modRmMem a n f = { s with hbm := (s.modRmMem a n f).hbm } ∧
    ((s.modRmMem a n f).stack (s.tile (addrTile a).1).stack.toNat).mem = f (s.rmMem a).1 := by
  have hmem : (s.rmMem a).1 = (s.stack (s.tile (addrTile a).1).stack.toNat).mem := by
    unfold State.rmMem
    rw [if_neg (by rw [h]; decide)]
  unfold State.modRmMem
  rw [if_neg (by rw [h]; decide), hmem]
  exact ⟨rfl, congrArg HbmStack.mem (stack_modStack _ _ _)⟩

theorem modRmMem_shape (a : DWord) (n : Nat) (f : Mem → Mem) (s : State) : ∃ x y, s.modRmMem a n f = { s with spires := x, hbm := y } := by
  cases h : addrSpire a with
  | true => exact ⟨_, _, (modRmMem_spire a n f s h).1⟩
  | false => exact ⟨_, _, (modRmMem_stack a n f s h).1⟩

/-- What the requester is told of the word before the operation: nothing after a store. -/
def RmRecord.back (r : RmRecord) (old : Nat) : DWord := if opAtomic r.op = true then BitVec.ofNat 64 old else 0

/-- The word that a record names is written. -/
def State.wrote (s : State) (r : RmRecord) (old : Nat) : State := s.modRmMem r.addr (opBytes r.op)
  (fun x => x.writeLE (s.rmMem r.addr).2 (opBytes r.op) (opResult r.op old r.operand.toNat r.swap.toNat))

/-- The replay record of a write is kept, and its answer is on its way. -/
def State.answeredWrite (s : State) (r : RmRecord) (old : Nat) : State := State.answered { s with rm := { s.rm with
  replay := s.rm.replay ++ [⟨r.src, r.ctx, r.tag, r.gen, stOk, r.back old, opAtomic r.op, s.now⟩] } }
    s.chipId s.rm.regs.incarnation.toNat s.replyReady r stOk (r.back old)

theorem countedIf_shape (b : Bool) (s : State) : ∃ x y z, (if b then countBelfry 0x1501 none 1 s else s) = { s with cnt := x, host := y, out := z } := by
  cases b with
  | true => exact countBelfry_shape _ _ _ _
  | false => exact ⟨_, _, _, rfl⟩

/-- A write is carried out: its word is written, its replay record is kept, its reply is on its way. -/
theorem finishWord_writes {old : Nat} (hwrites : opWrites r.op = true) (hsrc : r.src ≠ s.chipId) :
    (finishWord r old s).spires = (s.wrote r old).spires ∧ (finishWord r old s).hbm = (s.wrote r old).hbm ∧
      (finishWord r old s).rm = (s.answeredWrite r old).rm := by
  have hback : (if opWrites r.op && !opAtomic r.op then (0 : DWord) else BitVec.ofNat 64 old) = r.back old := by
    unfold RmRecord.back
    rw [hwrites]
    cases opAtomic r.op <;> rfl
  have hrun : finishWord r old s = rmRespond r stOk (r.back old) false
      (if opAtomic r.op then countBelfry 0x1501 none 1 (keepReplay r stOk (r.back old) (s.wrote r old))
        else keepReplay r stOk (r.back old) (s.wrote r old)) := by
    rw [← hback]
    unfold finishWord
    dsimp only
    rw [if_pos hwrites]
    rfl
  obtain ⟨p, h, hwrote⟩ : ∃ p h, s.wrote r old = { s with spires := p, hbm := h } := modRmMem_shape _ _ _ s
  obtain ⟨a, b, c, hcounted⟩ := countedIf_shape (opAtomic r.op) (keepReplay r stOk (r.back old) (s.wrote r old))
  have hreplies : Replies s { keepReplay r stOk (r.back old) { s with spires := p, hbm := h } with cnt := a, host := b, out := c } := ⟨rfl, rfl, rfl⟩
  rw [hrun, hcounted, hwrote, rmRespond_as hreplies hsrc]
  exact ⟨rfl, rfl, rfl⟩

end

/-! ### Replay records, and lines of the gateway (R414, R428, R430) -/

section
variable {s : State} {n t : Nat}

theorem replayExpiry_none (h : ∀ p ∈ s.rm.replay, s.now < p.last + nsUnits 8000000) : replayExpiry s = s := by
  have hfind : s.rm.replay.find? (fun p => decide (p.last + nsUnits 8000000 ≤ s.now)) = none :=
    List.find?_eq_none.mpr fun p hp => by
      rw [decide_eq_true_eq]
      exact Nat.not_le_of_lt (h p hp)
  unfold replayExpiry
  rw [hfind]

theorem replayExpiry_first {p : ReplayRec} (h : s.rm.replay.find? (fun p => decide (p.last + nsUnits 8000000 ≤ s.now)) = some p) :
    replayExpiry s = s.modRm (fun m => { m with
      replay := m.replay.erase p, regs := { m.regs with releasedUnacked := satInc m.regs.releasedUnacked } }) := by
  unfold replayExpiry
  rw [h]

theorem stagingTimeout_none (h : ∀ r ∈ s.rm.waiting, s.now < r.ready + nsUnits 1000000) : stagingTimeout s = s := by
  have hfind : s.rm.waiting.find? (fun r => decide (r.ready + nsUnits 1000000 ≤ s.now)) = none :=
    List.find?_eq_none.mpr fun p hp => by
      rw [decide_eq_true_eq]
      exact Nat.not_le_of_lt (h p hp)
  unfold stagingTimeout
  rw [hfind]

theorem stagingTimeout_first {r : RmRecord} (h : s.rm.waiting.find? (fun r => decide (r.ready + nsUnits 1000000 ≤ s.now)) = some r) :
    stagingTimeout s = replyOut r stNoResource 0 false (s.modRm (fun m => { m with waiting := m.waiting.erase r })) := by
  unfold stagingTimeout
  rw [h]

theorem lineTransferStart_not (h : s.lineDue (s.line n) = false) : lineTransferStart n s = s := if_neg (by rw [h]; decide)

theorem line_modLine (s : State) (n : Nat) (f : StageLine → StageLine) : (s.modLine n f).line n = f (s.line n) := Tab.get_modify_same _ _ _ _

/-- A due store line is moving, and its request goes out in DATA cells. -/
theorem lineTransferStart_sends (hdue : s.lineDue (s.line n) = true) (hidle : s.Idle (lineCtx n)) (htag : s.freeTag (lineCtx n) = some t) :
    let w := s.modLine n (fun x => { x with moving := true })
    let r := s.rm.newRequest (.line n) (lineCtx n) (s.line n).lease 0 3 (s.line n).far (s.line n).block 0 0 false t (s.nextGen (lineCtx n) t)
    lineTransferStart n s = (w.joined r).modRm (fun m => { m with cells := m.cells ++ lineTransfer n r (w.joined r) }) := by
  intro w r
  have hw : w.Idle (lineCtx n) := ⟨hidle.others, hidle.fences, hidle.room⟩
  have hstart : lineTransferStart n s = rmIssue (.line n) (lineCtx n) (s.line n).lease 0 3 (s.line n).far (s.line n).block 0 0 w := if_pos hdue
  rw [hstart, rmIssue_sends hw htag]
  exact rmTransmit_line rfl rfl

/-- The two cells of a line's transfer carry its halves to the far chip. -/
theorem lineTransfer_cells (n : Nat) (r : RmRequest) (s : State) : ∃ c d, lineTransfer n r s = [c, d] ∧ c.type = 1 ∧ d.type = 1 ∧
    c.dst = r.dst ∧ d.dst = r.dst ∧ c.payload.take 2048 = (s.line n).data.readBytes 0 2048 ∧
    d.payload.take 2048 = (s.line n).data.readBytes 2048 2048 :=
  ⟨_, _, rfl, rfl, rfl, rfl, rfl, List.take_left' (Mem.readBytes_length _ _ _), List.take_left' (Mem.readBytes_length _ _ _)⟩

end

/-- Settles O36: the rules of the target's records, of replay records and of the gateway's lines. -/
theorem targetsAndGatewaysServe : Obligations.TargetsAndGatewaysServe := by
  have hnext {t u : State} (h : t = u) : Host.Outcome.next t = (.next u : Host.Outcome State Fault Refusal) := congrArg _ h
  refine ⟨?apply, ?times, ?lines⟩
  case apply =>
    intro s
    refine ⟨fun h => hnext (rmApply_none h), fun r hr => ?_⟩
    intro s0 ans
    refine ⟨fun d hdomain hoff => hnext ((rmApply_gated hr hdomain hoff).trans (touchDomain_pwr d s)), fun hon hsrc => ?_⟩
    intro u m o written
    have hrun := rmApply_decides hr hon
    have hslot : useSlot r (s.taken r) = u := rfl
    obtain ⟨x, hu⟩ : ∃ x, u = { s0 with rm := { s0.rm with slotsUsed := x } } := useSlot_shape r s0
    clear_value u
    have hmem : u.rmMem r.addr = s.rmMem r.addr := by
      rw [hu]
      rfl
    have hfar : r.src ≠ u.chipId := by
      rw [hu]
      exact hsrc
    have hans (st : Nat) (data : DWord) : rmRespond r st data false u = ans u st data := by
      rw [rmRespond_far hfar, hu]
      rfl
    have hwritten (old : Nat) (hwrites : opWrites r.op = true) : written old (finishWord r old u) := by
      obtain ⟨hspires, hhbm, hrm⟩ := finishWord_writes (old := old) hwrites hfar
      refine ⟨?_, fun hspire => ?_, fun hstack => ?_⟩
      · rw [hrm, hu]
        rfl
      · obtain ⟨hshape, hstore⟩ := modRmMem_spire r.addr (opBytes r.op)
          (fun x => x.writeLE (u.rmMem r.addr).2 (opBytes r.op) (opResult r.op old r.operand.toNat r.swap.toNat)) u hspire
        refine ⟨(hhbm.trans (congrArg State.hbm hshape)).trans (by rw [hu]), ?_⟩
        refine (congrArg (fun p : Tab Spire => (p.get Spire.reset (addrStore r.addr).1).store) hspires).trans (hstore.trans ?_)
        rw [hmem]
      · obtain ⟨hshape, hstore⟩ := modRmMem_stack r.addr (opBytes r.op)
          (fun x => x.writeLE (u.rmMem r.addr).2 (opBytes r.op) (opResult r.op old r.operand.toNat r.swap.toNat)) u hstack
        have htile : u.tile (addrTile r.addr).1 = s.tile (addrTile r.addr).1 := by
          rw [hu]
          rfl
        refine ⟨(hspires.trans (congrArg State.spires hshape)).trans (by rw [hu]), ?_⟩
        rw [htile] at hstore
        refine (congrArg (fun p : Tab HbmStack => (p.get HbmStack.reset (s.tile (addrTile r.addr).1).stack.toNat).mem) hhbm).trans (hstore.trans ?_)
        rw [hmem]
    refine ⟨fun hmid hreplay => ⟨fun st hrefused hst => hnext ?_, fun hrefused hkind hctx => ?_⟩, fun w hmid hwrites => ?_⟩
    · rw [hrun, rmDecide_refused hmid hreplay hrefused hst]
      exact rmRespond_far hsrc
    · intro old
      have hword := hrun.trans (rmDecide_word hmid hreplay hrefused hkind hctx)
      rw [hslot] at hword
      refine ⟨fun hpoison => ?_, fun hclean hload => hnext ?_, fun hclean hatomic hstack => hnext ?_, fun hclean hwrites hnow => ?_⟩
      · have hreplies : Replies u (consumePoison 1 u) := ⟨rfl, rfl, rfl⟩
        refine ⟨_, hnext (hword.trans ((applyWord_poisoned (by rw [hmem]; exact hpoison)).trans (rmRespond_as hreplies hfar))), ?_, ?_, ?_⟩
        · rw [hu]
          rfl
        · rw [hu]
          rfl
        · rw [hu]
          rfl
      · have hnow : opAtomic r.op = false := eq_false_of_ne_true fun h => absurd (hload.symm.trans (opAtomic_writes h)) (by decide)
        rw [hword, applyWord_finishes (by rw [hmem]; exact hclean) (.inl hnow), finishWord_load hload, hans, hmem]
      · rw [hword, applyWord_waits (by rw [hmem]; exact hclean) hatomic hstack, hmem]
        rfl
      · refine ⟨_, hnext (hword.trans (applyWord_finishes (by rw [hmem]; exact hclean) hnow)), ?_⟩
        rw [hmem]
        exact hwritten old hwrites
    · rw [rmDecide_read hmid, hslot] at hrun
      exact ⟨_, hnext hrun, hwritten w.toNat hwrites⟩
  case times =>
    intro s
    exact ⟨fun h => hnext (replayExpiry_none h), fun p h => hnext (replayExpiry_first h), fun h => hnext (stagingTimeout_none h),
      fun r h => hnext (stagingTimeout_first h)⟩
  case lines =>
    intro s n l
    refine ⟨fun h => hnext (lineTransferStart_not h), fun t hdue hothers hfences hroom htag => ?_⟩
    have hrun := lineTransferStart_sends hdue ⟨hothers, hfences, hroom⟩ htag
    dsimp only at hrun
    obtain ⟨c, d, hcells, hc⟩ := lineTransfer_cells n
      (s.rm.newRequest (.line n) (lineCtx n) (s.line n).lease 0 3 (s.line n).far (s.line n).block 0 0 false t (s.nextGen (lineCtx n) t))
      ((s.modLine n (fun x => { x with moving := true })).joined
        (s.rm.newRequest (.line n) (lineCtx n) (s.line n).lease 0 3 (s.line n).far (s.line n).block 0 0 false t (s.nextGen (lineCtx n) t)))
    rw [hcells] at hrun
    obtain ⟨htypec, htyped, hdstc, hdstd, hpayc, hpayd⟩ := hc
    have hline := line_modLine s n (fun x => { x with moving := true })
    have hjoined (r : RmRequest) : ((s.modLine n (fun x => { x with moving := true })).joined r).line n = { s.line n with moving := true } := hline
    rw [hjoined] at hpayc hpayd
    exact ⟨_, _, c, d, hnext hrun, rfl, hline, rfl, rfl, rfl, rfl, rfl, rfl, rfl, rfl, htypec, htyped, hdstc, hdstd, hpayc, hpayd⟩

end Sys2Proof.Machine

namespace Sys2Proof.Machine
open Sys2Proof

/-! ### The host's commands (R404, R406, R424) -/

section
variable {s u : State} {iss : Issuer} {op : Nat} {addr operand swap : DWord}

theorem rmemOp_refused {st : Nat} (haccepts : s.accepts 0x11 iss = true) (h : (s.begun 0x11 iss).rmRefusal 0 (op % 16) addr = some st) :
    queueCommand 0x11 iss (rmemOpBody iss op addr operand swap) s =
      complete iss 0x11 (.of st) (if refusedStatus st = true then takeStarted iss s else s.begun 0x11 iss) := by
  have hbody : rmemOpBody iss op addr operand swap (s.begun 0x11 iss) = (s.begun 0x11 iss, some (.of st)) := by
    unfold rmemOpBody
    rw [h]
    rfl
  by_cases hst : refusedStatus st = true
  · rw [if_pos hst]
    exact queueCommand_refuses haccepts hbody hst
  · rw [if_neg hst]
    exact queueCommand_done haccepts hbody (eq_false_of_ne_true hst)

theorem rmemOpBody_issues (h : u.rmRefusal 0 (op % 16) addr = none) :
    rmemOpBody iss op addr operand swap u = (rmIssue (.host iss) 256 0 0 (op % 16) (u.rmVia addr) addr operand swap u, none) := by
  unfold rmemOpBody
  rw [h]
  rfl

/-! ### Fences (R424, R429) -/

/-- The requests of the host that a fence waits for. -/
def State.hostWrites (u : State) : List RmRequest := u.rm.reqs.filter (fun r => r.ctx == 256 && opWrites r.op && r.reply.isNone)

/-- A fence of the host over the writes that are outstanding and those that failed since the fence before it. -/
def State.hostFence (u : State) (iss : Issuer) : RmFence :=
  ⟨256, .host iss, u.rm.nextUid, u.hostWrites.map (·.uid), (u.rm.badWrites.filter (·.1 == 256)).map (·.2)⟩

/-- A fence of the host joins the fences. -/
def State.fenced (u : State) (iss : Issuer) : State := { u with rm := { u.rm with
  nextUid := u.rm.nextUid + 1, fences := u.rm.fences ++ [u.hostFence iss], badWrites := u.rm.badWrites.filter (·.1 != 256) } }

/-- A fence of which no write goes through the gateway asks nobody. -/
theorem rmFence_near (hnear : ∀ r ∈ u.hostWrites, r.dst = addrChip r.addr) : rmFence (.host iss) 256 0 0 u = fencesDone (u.fenced iss) := by
  have hfar : u.hostWrites.filter (fun r => decide (r.dst ≠ addrChip r.addr)) = [] :=
    List.filter_eq_nil_iff.mpr fun r hr => by simp [hnear r hr]
  have hgws : ((u.hostWrites.filter (fun r => decide (r.dst ≠ addrChip r.addr))).map (·.dst)).eraseDups = [] := by
    rw [hfar]
    rfl
  unfold rmFence
  dsimp only
  rw [show u.rm.reqs.filter (fun r => r.ctx == 256 && opWrites r.op && r.reply.isNone) = u.hostWrites from rfl, hgws, List.foldl_nil, Nat.sub_self]
  unfold State.fenced State.hostFence State.modRm
  simp only [List.range_zero, List.map_nil, List.append_nil]

theorem fencesDone_waiting (hwait : ∀ f ∈ s.rm.fences, f.waits ≠ []) : fencesDone s = s := by
  have hnone : s.rm.fences.filter (fun f => f.waits.isEmpty) = [] :=
    List.filter_eq_nil_iff.mpr fun f hf => by simp [hwait f hf]
  have hall : s.rm.fences.filter (fun f => !f.waits.isEmpty) = s.rm.fences :=
    List.filter_eq_self.mpr fun f hf => by simp [hwait f hf]
  unfold fencesDone State.modRm
  dsimp only
  rw [hnone, hall]
  rfl

/-- A fence with nothing to wait for is the only one that is done. -/
theorem fencesDone_last {f : RmFence} {fs : List RmFence} (hwait : ∀ f ∈ fs, f.waits ≠ []) (hlist : s.rm.fences = fs ++ [f]) (hf : f.waits = []) :
    fencesDone s = fenceDone f (s.modRm (fun m => { m with fences := fs })) := by
  have hdone : s.rm.fences.filter (fun f => f.waits.isEmpty) = [f] := by
    rw [hlist, List.filter_append, List.filter_eq_nil_iff.mpr fun x hx => by simp [hwait x hx]]
    simp [hf]
  have hleft : s.rm.fences.filter (fun f => !f.waits.isEmpty) = fs := by
    rw [hlist, List.filter_append, List.filter_eq_self.mpr fun x hx => by simp [hwait x hx]]
    simp [hf]
  unfold fencesDone State.modRm
  dsimp only
  rw [hdone, hleft]
  rfl

theorem fence_status_ok {f : RmFence} (h : f.bad = []) : f.status = stOk := by
  unfold RmFence.status
  rw [h]
  rfl

theorem fence_status_one {f : RmFence} {uid st : Nat} (h : f.bad = [(uid, st)]) : f.status = st := by
  have hleast : leastOf [uid] = some uid := rfl
  unfold RmFence.status
  rw [h, List.map_singleton, hleast]
  simp

end

/-! ### What the sending of requests keeps (R405) -/

section
variable {s t u : State} {r : RmRequest}

/-- The sending of requests leaves the counters, the lost jobs, the fences and which requests there are. -/
structure PumpKeeps (s t : State) : Prop where
  regs : t.rm.regs = s.rm.regs
  jobLost : t.rm.jobLost = s.rm.jobLost
  fences : t.rm.fences = s.rm.fences
  uids : t.rm.reqs.map (·.uid) = s.rm.reqs.map (·.uid)

theorem PumpKeeps.refl (s : State) : PumpKeeps s s := ⟨rfl, rfl, rfl, rfl⟩

theorem PumpKeeps.trans (h : PumpKeeps s t) (g : PumpKeeps t u) : PumpKeeps s u :=
  ⟨g.regs.trans h.regs, g.jobLost.trans h.jobLost, g.fences.trans h.fences, g.uids.trans h.uids⟩

/-- Requests that are changed where they stand keep their numbers. -/
theorem map_uids {f : RmRequest → RmRequest} (hf : ∀ x, (f x).uid = x.uid) (l : List RmRequest) : (l.map f).map (·.uid) = l.map (·.uid) := by
  rw [List.map_map]
  exact List.map_congr_left fun x _ => hf x

theorem rmArrive_keeps (key : Nat) (x : RmRecord) (s : State) : PumpKeeps s (rmArrive key x s) := by
  have hrm : (returnToRun s).rm = s.rm := by
    rw [returnToRun_shape]
  have hregs : (returnToRun s).rm.regs = s.rm.regs := congrArg RmState.regs hrm
  have hlost : (returnToRun s).rm.jobLost = s.rm.jobLost := congrArg RmState.jobLost hrm
  have hfences : (returnToRun s).rm.fences = s.rm.fences := congrArg RmState.fences hrm
  have hreqs : (returnToRun s).rm.reqs = s.rm.reqs := congrArg RmState.reqs hrm
  unfold rmArrive
  exact ⟨hregs, hlost, hfences, congrArg (List.map (·.uid)) hreqs⟩

theorem rmTransmit_keeps (r : RmRequest) (again : Bool) (s : State) : PumpKeeps s (rmTransmit r again s) := by
  unfold rmTransmit
  split
  · exact ⟨rfl, rfl, rfl, rfl⟩
  · dsimp only
    split
    · refine PumpKeeps.trans ?_ (rmArrive_keeps _ _ _)
      refine ⟨rfl, rfl, rfl, map_uids (fun x => ?_) s.rm.reqs⟩
      split <;> rfl
    · exact ⟨rfl, rfl, rfl, rfl⟩

theorem rmSend_keeps (r : RmRequest) (s : State) : PumpKeeps s (rmSend r s) := by
  unfold rmSend
  split
  · exact .refl s
  · refine PumpKeeps.trans ?_ (rmTransmit_keeps _ _ _)
    refine ⟨rfl, rfl, rfl, map_uids (fun x => ?_) s.rm.reqs⟩
    split
    · next h => exact h.2.symm
    · rfl

theorem rmPump_keeps (s : State) : PumpKeeps s (rmPump s) := by
  unfold rmPump
  generalize s.rm.reqs.filter (·.queued) = l
  induction l generalizing s with
  | nil => exact .refl s
  | cons r l ih =>
    rw [List.foldl_cons]
    refine PumpKeeps.trans ?_ (ih _)
    split
    · exact rmSend_keeps r s
    · exact .refl s

/-! ### The end of a request (R418, R421) -/

theorem complete_rm (iss : Issuer) (op : Nat) (r : Reply) (s : State) : (complete iss op r s).rm = s.rm := by
  unfold complete
  split
  · rfl
  · split <;> rfl

theorem rmAnswer_rm (r : RmRequest) (status : Nat) (data : DWord) (s : State) : (rmAnswer r status data s).rm = s.rm := by
  unfold rmAnswer
  split
  · rfl
  · split
    · split <;> rfl
    · exact complete_rm _ _ _ _
    · rfl

theorem fenceDone_rm (f : RmFence) (s : State) : (fenceDone f s).rm = s.rm := by
  unfold fenceDone
  split
  · rfl
  · exact complete_rm _ _ _ _
  · rfl

theorem fencesDone_rm (s : State) : (fencesDone s).rm = { s.rm with fences := s.rm.fences.filter (fun f => !f.waits.isEmpty) } :=
  foldl_keeps State.rm (fun t f => fenceDone f t) _ _ fun t f => fenceDone_rm f t

/-- A request that ends without its reply is gone, its fences have its outcome, and what they and it held up goes on. -/
theorem rmFinish_lost {status : Nat} (data : DWord) : ∃ w : State,
    w.rm.regs = s.rm.regs ∧ w.rm.jobLost = s.rm.jobLost ∧
    w.rm.fences = (s.rm.fences.map (RmFence.settle r.uid status)).filter (fun f => !f.waits.isEmpty) ∧
    w.rm.reqs = s.rm.reqs.filter (fun x => x.uid != r.uid) ∧ rmFinish r status data false s = rmPump w := by
  unfold rmFinish
  refine ⟨_, ?_, ?_, ?_, ?_, rfl⟩ <;> rw [fencesDone_rm, rmAnswer_rm] <;> rfl

end

/-! ### The times of a request (R404, R414, R417, R418) -/

section
variable {s : State} {r : RmRequest} {ctx tag t : Nat}

theorem rmRetransmit_due (hfind : s.rm.reqs.find? (fun r => r.ctx == ctx && r.tag == tag && r.open_) = some r) (hsent : r.sent = some t)
    (htries : r.tries < 3) (hdue : t + nsUnits ((r.tries + 1) * 1000000) ≤ s.now) (hfar : r.dst ≠ s.chipId) (howner : ∀ n, r.owner ≠ .line n) :
    rmRetransmit ctx tag s = { s with rm := { s.rm with
      reqs := s.rm.reqs.map (fun x => if x.uid = r.uid then { r with tries := r.tries + 1 } else x)
      outbox := s.rm.outbox ++ [r.record s.chipId true]
      regs := { s.rm.regs with retx := satInc s.rm.regs.retx } } } := by
  unfold rmRetransmit
  rw [hfind]
  dsimp only
  split
  · next t' h =>
    obtain rfl : t' = t := Option.some.inj (h.symm.trans hsent)
    rw [if_pos ⟨htries, hdue⟩]
    exact rmAgain_record (r := { r with tries := r.tries + 1 }) hfar howner
  · next h => simp [hsent] at h

theorem rmRetransmit_early (hfind : s.rm.reqs.find? (fun r => r.ctx == ctx && r.tag == tag && r.open_) = some r) (hsent : r.sent = some t)
    (hearly : ¬ (r.tries < 3 ∧ t + nsUnits ((r.tries + 1) * 1000000) ≤ s.now)) : rmRetransmit ctx tag s = s := by
  unfold rmRetransmit
  rw [hfind]
  dsimp only
  rw [hsent]
  exact if_neg hearly

theorem rmTimeout_early (hfind : s.rm.reqs.find? (fun r => r.ctx == ctx && r.tag == tag && r.open_) = some r) (hsent : r.sent = some t)
    (hearly : s.now < t + nsUnits 6000000) : rmTimeout ctx tag s = s := by
  unfold rmTimeout
  rw [hfind]
  dsimp only
  rw [hsent]
  exact if_neg (Nat.not_le.mpr hearly)

/-- A request that timed out: counted, and its target lost for its job. -/
def State.timedOut (s : State) (r : RmRequest) : State := s.modRm (fun m => { m with
  regs := { m.regs with timeouts := satInc m.regs.timeouts }
  jobLost := if m.jobLost.contains (r.job, addrChip r.addr) then m.jobLost else m.jobLost ++ [(r.job, addrChip r.addr)] })

theorem timedOut_jobLost : (s.timedOut r).rm.jobLost.contains (r.job, addrChip r.addr) = true := by
  have hlost : (s.timedOut r).rm.jobLost =
    if s.rm.jobLost.contains (r.job, addrChip r.addr) then s.rm.jobLost else s.rm.jobLost ++ [(r.job, addrChip r.addr)] := rfl
  rw [hlost]
  split
  · assumption
  · simp

theorem rmTimeout_due (hfind : s.rm.reqs.find? (fun r => r.ctx == ctx && r.tag == tag && r.open_) = some r) (hsent : r.sent = some t)
    (hdue : t + nsUnits 6000000 ≤ s.now) (howner : ∀ n, r.owner ≠ .line n) (hop : r.op ≠ 16) :
    rmTimeout ctx tag s = rmFinish r stTargetLost 0 false (s.timedOut r) := by
  have hfence : r.op ≠ fenceOp := hop
  unfold rmTimeout
  rw [hfind]
  dsimp only
  rw [hsent]
  dsimp only
  rw [if_pos hdue, if_neg hfence]
  unfold rmFinal
  cases hr : r.owner with
  | line n => exact absurd hr (howner n)
  | thread i j rd => rfl
  | host iss => rfl

theorem rmAckSend_early (hfind : s.rm.reqs.find? (fun r => r.ctx == ctx && r.tag == tag && r.ackDue) = some r)
    (hearly : s.now < r.lastTx + nsUnits 1500000) : rmAckSend ctx tag s = s := by
  unfold rmAckSend
  rw [hfind]
  exact if_neg (Nat.not_le.mpr hearly)

theorem rmAckSend_due (hfind : s.rm.reqs.find? (fun r => r.ctx == ctx && r.tag == tag && r.ackDue) = some r)
    (hdue : r.lastTx + nsUnits 1500000 ≤ s.now) (hfar : r.dst ≠ s.chipId) : rmAckSend ctx tag s = { s with rm := { s.rm with
      reqs := s.rm.reqs.filter (fun x => x.uid != r.uid)
      outbox := s.rm.outbox ++ [r.ack s.chipId]
      tags := s.rm.tags.modify TagUse.reset (r.ctx * 4096 + r.tag) (fun x => { x with used := false }) } } := by
  unfold rmAckSend
  rw [hfind]
  dsimp only
  rw [if_pos hdue, if_neg hfar]
  rfl

end

/-- Settles O35: the host's requests and fences, and the times of a request that is under way. -/
theorem remoteRequestsAreIssuedAndEnd : Obligations.RemoteRequestsAreIssuedAndEnd := by
  have hnext {t u : State} (h : t = u) : Host.Outcome.next t = (.next u : Host.Outcome State Fault Refusal) := congrArg _ h
  refine ⟨?op, ?fence, ?times⟩
  case op =>
    intro s iss op addr operand swap haccepts
    refine ⟨fun st hst => hnext (rmemOp_refused haccepts hst), ?_⟩
    intro t hok hfar htag hothers hfences hroom g r
    refine hnext ((queueCommand_later haccepts (rmemOpBody_issues hok)).trans ?_)
    rw [rmIssue_sends ⟨hothers, hfences, hroom⟩ htag]
    exact rmTransmit_record hfar fun n h => RmOwner.noConfusion h
  case fence =>
    intro s iss haccepts u ws hwait hnear f after
    have hbody : queueCommand 0x12 iss (rmemFenceBody iss) s = fencesDone ((s.begun 0x12 iss).fenced iss) :=
      (queueCommand_later haccepts rfl).trans (rmFence_near hnear)
    refine ⟨fun hws => hnext (hbody.trans ?_), fence_status_ok, fun uid st => fence_status_one, fun hws => hnext (hbody.trans ?_)⟩
    · exact fencesDone_last (f := f) hwait rfl (congrArg (List.map (·.uid)) hws)
    · refine fencesDone_waiting fun x hx => ?_
      rcases List.mem_append.mp hx with hx | hx
      · exact hwait x hx
      · rw [List.mem_singleton.mp hx]
        exact fun h => hws (List.map_eq_nil_iff.mp h)
  case times =>
    intro s ctx tag
    refine ⟨fun r t hfind hsent => ⟨fun htries hdue hfar howner => hnext (rmRetransmit_due hfind hsent htries hdue hfar howner),
      fun hearly => hnext (rmRetransmit_early hfind hsent hearly), fun hearly => hnext (rmTimeout_early hfind hsent hearly),
      fun hdue howner hop => ?_⟩, fun r hfind => ⟨fun hearly => hnext (rmAckSend_early hfind hearly),
      fun hdue hfar => hnext (rmAckSend_due hfind hdue hfar)⟩⟩
    obtain ⟨w, hregs, hlost, hfences, hreqs, hw⟩ := rmFinish_lost (s := s.timedOut r) (r := r) (status := stTargetLost) 0
    have hpump := rmPump_keeps w
    refine ⟨rmPump w, hnext ((rmTimeout_due hfind hsent hdue howner hop).trans hw), hpump.regs.trans hregs, ?_, ?_, hpump.fences.trans hfences⟩
    · rw [hpump.jobLost, hlost]
      exact timedOut_jobLost
    · intro x hx huid
      have hmem : r.uid ∈ w.rm.reqs.map (·.uid) := by
        rw [← hpump.uids, ← huid]
        exact List.mem_map_of_mem hx
      rw [hreqs] at hmem
      obtain ⟨y, hy, hyuid⟩ := List.mem_map.mp hmem
      simp [hyuid] at hy

end Sys2Proof.Machine

namespace Sys2Proof.Machine
open Sys2Proof

/-! ### JOB_SUBMIT (R443, Table 13.4) -/

section
variable {u : State} {iss : Issuer} {first tiles user : Nat}

theorem jobRefusal_refuses {lease st : Nat} {bytes : List Byte} (h : u.jobRefusal lease bytes = some st) : refusedStatus st = true := by
  unfold State.jobRefusal at h
  dsimp only at h
  split at h
  · exact Option.some.inj h ▸ rfl
  split at h
  · exact Option.some.inj h ▸ rfl
  split at h
  · exact Option.some.inj h ▸ rfl
  split at h
  · exact Option.some.inj h ▸ rfl
  split at h
  · exact Option.some.inj h ▸ rfl
  split at h
  · exact Option.some.inj h ▸ rfl
  · simp at h

theorem not_tooMany (hrange : rangeOk first tiles 128 = true) : ¬ (!rangeOk first tiles jobTilesMax) = true := by
  rw [show rangeOk first tiles jobTilesMax = true from hrange]
  exact Bool.false_ne_true

theorem jobSubmitBody_foreign (hrange : rangeOk first tiles 128 = true) (h : ∃ t ∈ tileRange first tiles, u.imageTile iss t = false) :
    jobSubmitBody iss first tiles user u = refuse stBadArg u := by
  have hr : ¬ (!rangeOk first tiles jobTilesMax) = true := not_tooMany hrange
  have hany : (tileRange first tiles).any (fun n => !u.imageTile iss n) = true := by simpa using h
  unfold jobSubmitBody
  dsimp only
  rw [if_neg hr, if_pos hany]

theorem jobSubmitBody_unpinned (hrange : rangeOk first tiles 128 = true) (hown : ∀ t ∈ tileRange first tiles, u.imageTile iss t = true)
    (h : ∃ t ∈ tileRange first tiles, (u.tile t).inHbm = false ∨ (u.tile t).pin = 0) : jobSubmitBody iss first tiles user u = refuse stConflict u := by
  have hr : ¬ (!rangeOk first tiles jobTilesMax) = true := not_tooMany hrange
  have hany : ¬ (tileRange first tiles).any (fun n => !u.imageTile iss n) = true := by simpa using hown
  have hplace : (tileRange first tiles).any (fun n => !(u.tile n).inHbm || (u.tile n).pin = 0) = true := by simpa using h
  unfold jobSubmitBody
  dsimp only
  rw [if_neg hr, if_neg hany, if_pos hplace]

/-- The bytes that an image of the tiles says that it has, and the image. -/
def State.imageBytes (u : State) (first tiles : Nat) : Nat := bytesLE (u.runRead first 0 (tiles + 1) jobHeadBytes) 0x10 4
def State.imageOf (u : State) (first tiles : Nat) : List Byte := u.runRead first 0 (tiles + 1) (u.imageBytes first tiles)

/-- An image that can be read is checked, and queued if no check refuses it. -/
theorem jobSubmitBody_checked (hrange : rangeOk first tiles 128 = true)
    (htiles : ∀ t ∈ tileRange first tiles, u.imageTile iss t = true ∧ (u.tile t).inHbm = true ∧ (u.tile t).pin ≠ 0)
    (hfits : u.imageBytes first tiles ≤ tiles * 262144) (hmax : u.imageBytes first tiles ≤ jobImageMax)
    (hclean : u.runPoisoned first 0 (tiles + 1) (max (u.imageBytes first tiles) jobHeadBytes) = false) :
    jobSubmitBody iss first tiles user u = match u.jobRefusal iss.lease (u.imageOf first tiles) with
      | some st => refuse st u
      | none => queueJob iss first tiles user (readJobImage (u.imageOf first tiles)) u := by
  have hr : ¬ (!rangeOk first tiles jobTilesMax) = true := not_tooMany hrange
  have hany : ¬ (tileRange first tiles).any (fun n => !u.imageTile iss n) = true := by
    simpa using fun t ht => (htiles t ht).1
  have hplace : ¬ (tileRange first tiles).any (fun n => !(u.tile n).inHbm || (u.tile n).pin = 0) = true := by
    simpa using fun t ht => (htiles t ht).2
  have hread : u.imageBytes first tiles ≤ tiles * tileBytes ∧ u.imageBytes first tiles ≤ jobImageMax := ⟨hfits, hmax⟩
  have hlong : ¬ (tiles * tileBytes < u.imageBytes first tiles ∨ jobImageMax < u.imageBytes first tiles) := by omega
  unfold jobSubmitBody
  dsimp only
  rw [if_neg hr, if_neg hany, if_neg hplace]
  unfold State.imageBytes at hread hlong hclean
  rw [if_pos hread, hclean, if_neg Bool.false_ne_true, if_neg hlong]
  rfl

end

/-! ### PLACEMENT (R445, R447, R449) -/

section
variable {s t u : State} {id k : Nat}

/-- Spire `k` of `t` waits for its load for job `id`, its job part zeroed and the rest of its store as in `s`. -/
structure LoadsFor (id k : Nat) (s t : State) : Prop where
  mode : (t.spire k).seq.mode = .loading
  ctx : (t.spire k).ctx = .job id
  counters : (t.spire k).cnt.pmc = Tab.empty
  status : s.inService k = true → (t.spire k).seq.status = BitVec.ofNat 8 stOk
  part : t.jobPart k = s.jobPart k
  store : ∀ b, (t.spire k).store.read8 b = if b < s.jobPart k then Mem.blank else (s.spire k).store.read8 b

/-- The step of a placement for one Spire. -/
def placeOn (id k : Nat) (s : State) : State := setCmdStatus k stOk (startClean k (s.modSpire k (fun p => { p with ctx := .job id })))

theorem placeOn_near (id k : Nat) (s : State) : Near k s (startClean k (s.modSpire k (fun p => { p with ctx := .job id }))) :=
  (Near.modSpire k _ s).trans (startClean_near k _)

theorem placeOn_only (id k : Nat) (s : State) : OnlySpire k s (placeOn id k s) := (placeOn_near id k s).only.trans (setCmdStatus_only k _ _)

theorem SpiresOnly.modSpire (k : Nat) (f : Spire → Spire) (s : State) : SpiresOnly s (s.modSpire k f) := ⟨_, rfl⟩

theorem setCmdStatus_spiresOnly (k st : Nat) (s : State) : SpiresOnly s (setCmdStatus k st s) := by
  unfold setCmdStatus
  split
  · exact SpiresOnly.modSpire k _ s
  · exact ⟨_, rfl⟩

theorem startClean_spiresOnly (k : Nat) (s : State) : SpiresOnly s (startClean k s) :=
  ((SpiresOnly.modSpire k _ s).trans (SpiresOnly.modSpire k _ _)).trans (SpiresOnly.modSpire k _ _)

theorem placeOn_spiresOnly (id k : Nat) (s : State) : SpiresOnly s (placeOn id k s) :=
  ((SpiresOnly.modSpire k _ s).trans (startClean_spiresOnly k _)).trans (setCmdStatus_spiresOnly k stOk _)

theorem setCmdStatus_same (k st : Nat) (s : State) : ∃ x, (setCmdStatus k st s).spire k = { s.spire k with seq := { (s.spire k).seq with status := x } } ∧
    (s.inService k = true → x = BitVec.ofNat 8 st) := by
  by_cases h : s.inService k = true
  · exact ⟨_, setCmdStatus_spire st h, fun _ => rfl⟩
  · refine ⟨(s.spire k).seq.status, ?_, fun hs => absurd hs h⟩
    unfold setCmdStatus
    rw [if_neg h]

theorem placeOn_loads (id k : Nat) (s : State) : LoadsFor id k s (placeOn id k s) := by
  obtain ⟨x, hx, hstatus⟩ := setCmdStatus_same k stOk (startClean k (s.modSpire k (fun p => { p with ctx := .job id })))
  have hpart : (s.modSpire k (fun p => { p with ctx := .job id })).jobPart k = s.jobPart k := jobPart_congr (by rw [spire_modSpire])
  rw [startClean_spire, hpart, spire_modSpire] at hx
  change (placeOn id k s).spire k = _ at hx
  refine ⟨by rw [hx]; rfl, by rw [hx], by rw [hx]; rfl, fun h => ?_, jobPart_congr (by rw [hx]; rfl), fun b => ?_⟩
  · rw [hx]
    exact hstatus (((placeOn_near id k s).inService k).trans h)
  · rw [hx]
    dsimp only
    rw [Mem.read8_clearRange]
    simp

theorem LoadsFor.trans (h : LoadsFor id k s t) (g : LoadsFor id k t u) (hservice : t.inService k = s.inService k) : LoadsFor id k s u := by
  refine ⟨g.mode, g.ctx, g.counters, fun hs => g.status (hservice.trans hs), g.part.trans h.part, fun b => ?_⟩
  rw [g.store, h.part, h.store]
  split <;> rfl

theorem LoadsFor.of_same (hsame : t.spire k = s.spire k) (g : LoadsFor id k t u) (hservice : t.inService k = s.inService k) : LoadsFor id k s u := by
  have hpart : t.jobPart k = s.jobPart k := jobPart_congr (by rw [hsame])
  refine ⟨g.mode, g.ctx, g.counters, fun hs => g.status (hservice.trans hs), g.part.trans hpart, fun b => ?_⟩
  rw [g.store, hpart, hsame]

theorem SpiresOnly.inService (h : SpiresOnly s t) (k : Nat) : t.inService k = s.inService k := by
  obtain ⟨y, rfl⟩ := h
  rfl

/-- The Spires of a placement, one after the other. -/
theorem foldl_placeOn (id : Nat) (ks : List Nat) (s : State) : SpiresOnly s (ks.foldl (fun t k => placeOn id k t) s) ∧
    ∀ k, (k ∉ ks → (ks.foldl (fun t k => placeOn id k t) s).spire k = s.spire k) ∧ (k ∈ ks → LoadsFor id k s (ks.foldl (fun t k => placeOn id k t) s)) := by
  induction ks generalizing s with
  | nil => exact ⟨⟨_, rfl⟩, fun k => ⟨fun _ => rfl, fun h => absurd h List.not_mem_nil⟩⟩
  | cons n ks ih =>
    have hfirst := placeOn_spiresOnly id n s
    obtain ⟨hrest, hspires⟩ := ih (placeOn id n s)
    rw [List.foldl_cons]
    refine ⟨hfirst.trans hrest, fun k => ⟨fun hk => ?_, fun hk => ?_⟩⟩
    · obtain ⟨hne, hk⟩ := not_or.mp (fun h => hk (List.mem_cons.mpr h))
      exact ((hspires k).1 hk).trans (placeOn_only id n s k hne)
    · by_cases hmem : k ∈ ks
      · have hlater := (hspires k).2 hmem
        by_cases hkn : k = n
        · subst hkn
          exact (placeOn_loads id k s).trans hlater (hfirst.inService k)
        · exact hlater.of_same (placeOn_only id n s k hkn) (hfirst.inService k)
      · obtain rfl : k = n := (List.mem_cons.mp hk).resolve_right hmem
        have hsame := (hspires k).1 hmem
        have h := placeOn_loads id k s
        exact ⟨by rw [hsame]; exact h.mode, by rw [hsame]; exact h.ctx, by rw [hsame]; exact h.counters,
          by rw [hsame]; exact h.status, (jobPart_congr (by rw [hsame])).trans h.part, by rw [hsame]; exact h.store⟩

theorem placement_empty (h : s.dsp.queue = []) : placement s = s := by
  unfold placement
  rw [h]
  rfl

theorem placement_blocked {j : Job} {rest : List Job} (h : s.dsp.queue = j :: rest) (hnone : choosePlaces j.image.spires (s.eligible j) = none) :
    placement s = s := by
  unfold placement
  rw [h, List.length_cons, placeHeads, h]
  dsimp only
  rw [hnone]

/-- A lone head that gets Spires is placed, and no job becomes the head. -/
theorem placement_lone {j : Job} {ks : List Nat} (h : s.dsp.queue = [j]) (hsome : choosePlaces j.image.spires (s.eligible j) = some ks) :
    placement s = placeJob j ks s := by
  unfold placement
  rw [h, List.length_singleton, placeHeads, h]
  dsimp only
  rw [hsome]
  rfl

end

/-! ### JOB_COMPLETION (R458, R475) -/

section
variable {s : State} {j : Job} {id status code rank bundle : Nat}

theorem jobCompletion_unknown (h : s.job id = none) : jobCompletion id s = s := by
  unfold jobCompletion
  rw [h]

theorem jobCompletion_early (h : s.job id = some j) (hheld : ∃ k ∈ j.spires, s.leftBy id k = false) : jobCompletion id s = s := by
  have hall : j.spires.all (fun k => s.leftBy id k) = false := by simpa using hheld
  unfold jobCompletion
  rw [h]
  dsimp only
  rw [hall, Bool.and_false]
  exact if_neg Bool.false_ne_true

/-- A job leaves the running jobs, and its quarantines of chips end. -/
def State.jobGone (s : State) (id : Nat) : State :=
  { s with dsp := { s.dsp with running := s.dsp.running.filter (fun x => x.id != id) }, rm := { s.rm with jobLost := s.rm.jobLost.filter (fun p => p.1 != id) } }

theorem jobCompletion_done (h : s.job id = some j) (hphase : j.phase ≠ .queued) (hspires : j.spires ≠ []) (hleft : ∀ k ∈ j.spires, s.leftBy id k = true) :
    jobCompletion id s = (recordJob j.outcome.1 j.outcome.2.1 j.outcome.2.2.1 j.outcome.2.2.2 j s).jobGone id := by
  have hall : j.spires.all (fun k => s.leftBy id k) = true := List.all_eq_true.mpr hleft
  unfold jobCompletion
  rw [h]
  dsimp only
  rw [hall, if_pos (by simp [hphase, hspires])]
  rfl

theorem recordJob_silent (h : j.silent = true ∨ (s.pair j.func j.qp).enable = false) : recordJob status code rank bundle j s = s := by
  unfold recordJob
  rw [if_pos]
  rcases h with h | h <;> simp [h]

theorem recordJob_written (hsilent : j.silent = false) (henable : (s.pair j.func j.qp).enable = true) :
    recordJob status code rank bundle j s = (s.modPair j.func j.qp (fun p => { p with
      waiting := p.waiting ++ [jobRecord (s.pair j.func j.qp).sqHead.toNat status code rank bundle j (s.jobPlanTime j)] })).useFree := by
  unfold recordJob
  rw [if_neg (by simp [hsilent, henable])]

/-- A record changes at most the host's rings and the free values that are used up. -/
theorem recordJob_shape (status code rank bundle : Nat) (j : Job) (s : State) : ∃ h n, recordJob status code rank bundle j s = { s with host := h, free := n } := by
  unfold recordJob
  split
  · exact ⟨_, _, rfl⟩
  · exact ⟨_, _, rfl⟩

end

/-! ### JOB_CANCEL (R459, R463) -/

section
variable {u : State} {iss : Issuer} {id : Nat} {j : Job}

theorem jobCancelBody_queued (h : u.dsp.queue.find? (fun j => j.id == id && iss.mayCancel j) = some j) : jobCancelBody iss id u =
    (recordJob stPreempted 0 0xFF 0 j { u with dsp := { u.dsp with queue := u.dsp.queue.filter (fun x => x.id != id) } }, some (.of stOk)) := by
  unfold jobCancelBody
  rw [h]
  rfl

theorem jobCancelBody_running (hqueue : u.dsp.queue.find? (fun j => j.id == id && iss.mayCancel j) = none)
    (h : u.dsp.running.find? (fun j => j.id == id && iss.mayCancel j) = some j) : jobCancelBody iss id u = (preemptJob j u, some (.of stOk)) := by
  unfold jobCancelBody
  rw [hqueue]
  dsimp only
  rw [h]

theorem jobCancelBody_unknown (hqueue : u.dsp.queue.find? (fun j => j.id == id && iss.mayCancel j) = none)
    (h : u.dsp.running.find? (fun j => j.id == id && iss.mayCancel j) = none) : jobCancelBody iss id u = refuse stConflict u := by
  unfold jobCancelBody
  rw [hqueue]
  dsimp only
  rw [h]

end

/-- Settles O37: jobs are submitted, placed, completed and cancelled. -/
theorem jobsAreSubmittedPlacedAndEnd : Obligations.JobsAreSubmittedPlacedAndEnd := by
  have hnext {t u : State} (h : t = u) : Host.Outcome.next t = (.next u : Host.Outcome State Fault Refusal) := congrArg _ h
  refine ⟨?submit, ?place, ?complete, ?cancel⟩
  case submit =>
    intro s iss first tiles user haccepts u l n bytes hrange
    refine ⟨fun h => hnext (queueCommand_refuses haccepts (jobSubmitBody_foreign hrange h) rfl),
      fun hown h => hnext (queueCommand_refuses haccepts (jobSubmitBody_unpinned hrange hown h) rfl), fun htiles hfits hmax hclean => ?_⟩
    have hbody := jobSubmitBody_checked (user := user) hrange htiles hfits hmax hclean
    refine ⟨fun st hst => ?_, fun hok => ?_⟩
    · have hst' : u.jobRefusal iss.lease (u.imageOf first tiles) = some st := hst
      rw [hst'] at hbody
      exact hnext (queueCommand_refuses haccepts hbody (jobRefusal_refuses hst))
    · have hok' : u.jobRefusal iss.lease (u.imageOf first tiles) = none := hok
      rw [hok'] at hbody
      exact ⟨_, hnext (queueCommand_done haccepts hbody rfl), rfl, rfl, rfl, rfl, rfl, rfl, rfl, rfl, rfl⟩
  case place =>
    intro s
    refine ⟨fun h => hnext (placement_empty h), fun j rest h hnone => hnext (placement_blocked h hnone), fun j ks h hsome => ?_⟩
    have hqueue : s.dsp.queue.filter (fun x => x.id != j.id) = [] := by
      rw [h]
      simp
    obtain ⟨⟨y, hy⟩, hspires⟩ := foldl_placeOn j.id ks (s.modDsp (fun d => { d with
      queue := d.queue.filter (fun x => x.id != j.id), running := d.running ++ [{ j with phase := .loading, spires := ks }] }))
    have hplaced : placeJob j ks s = { s with
      dsp := { s.dsp with
        queue := s.dsp.queue.filter (fun x => x.id != j.id), running := s.dsp.running ++ [{ j with phase := .loading, spires := ks }] }
      spires := y } := hy
    rw [hqueue] at hplaced
    refine ⟨placeJob j ks s, hnext (placement_lone h hsome), by rw [hplaced], by rw [hplaced], fun k => ⟨(hspires k).1, fun hk => ?_⟩⟩
    · obtain ⟨hmode, hctx, hcounters, hstatus, -, hstore⟩ := (hspires k).2 hk
      exact ⟨hmode, hctx, hcounters, hstatus, hstore⟩
  case complete =>
    intro s id
    refine ⟨fun h => hnext (jobCompletion_unknown h), fun j h hheld => hnext (jobCompletion_early h hheld), fun j h hphase hspires hleft => ?_⟩
    refine ⟨_, hnext (jobCompletion_done h hphase hspires hleft), ?_⟩
    generalize hw : recordJob j.outcome.1 j.outcome.2.1 j.outcome.2.2.1 j.outcome.2.2.2 j s = w
    obtain ⟨x, n, hshape⟩ := recordJob_shape j.outcome.1 j.outcome.2.1 j.outcome.2.2.1 j.outcome.2.2.2 j s
    rw [hw] at hshape
    refine ⟨by rw [hshape]; rfl, by rw [hshape]; rfl, by rw [hshape]; rfl, by rw [hshape]; rfl, fun hsilent => ?_, fun hsilent henable => ?_⟩
    · rw [← hw, recordJob_silent hsilent]
      rfl
    · rw [← hw, recordJob_written hsilent henable]
      exact congrArg Pair.waiting (pair_modPair s j.func j.qp _)
  case cancel =>
    intro s iss id haccepts u
    refine ⟨fun j h => hnext (queueCommand_done haccepts (jobCancelBody_queued h) rfl), fun hqueue => ⟨fun j h => ?_, fun h =>
      hnext (queueCommand_refuses haccepts (jobCancelBody_unknown hqueue h) rfl)⟩⟩
    have hbody := queueCommand_done haccepts (jobCancelBody_running hqueue h) rfl
    refine ⟨fun hended => hnext (hbody.trans ?_), fun hended => hnext (hbody.trans ?_)⟩
    · unfold preemptJob
      rw [hended]
      rfl
    · unfold preemptJob
      rw [hended]
      rfl

end Sys2Proof.Machine

namespace Sys2Proof.Machine
open Sys2Proof

/-! ### What every step keeps (R44, R51, R56, R58, R488, R580) -/

/-- Settles O58: State.reset is the power-on reset, whose fields are the ones that inv_of_reset asks for. -/
theorem limitsHoldAtReset : Obligations.LimitsHoldAtReset :=
  ⟨inv_of_reset rfl rfl rfl rfl, rfl, rfl, rfl⟩

/-- The next edge's hall time is a legal one: what a coarse set gave, or a sum whose nanoseconds are carried (R51). -/
theorem State.inv.nextHall_ok {s : State} (h : s.inv) : s.nextHall.ok = true := by
  obtain ⟨hhall, hwaits, -⟩ := h
  unfold State.nextHall
  split
  · split
    next x hedge => exact hwaits x (.inr hedge)
    next => exact HallTime.ok_hallOf _
  · exact hhall

/-- A tick moves, of the slow part, the clock alone, or with a BCLK edge hall time too. -/
theorem rootTick_slow_or (s : State) : ∃ c : ClockState, (rootTick s).slow = { s.slow with clock := c } ∨
    (rootTick s).slow = { s.slow with clock := c, hall := s.nextHall, edge := none } := by
  obtain ⟨c, hedge, -, -⟩ := cclkEdge_slow s.ticked
  by_cases hheld : s.clk.pendingReset.isSome = true
  · exact ⟨s.clock, .inl (congrArg State.slow (rootTick_held hheld))⟩
  rw [Bool.not_eq_true, Option.isSome_eq_false_iff, Option.isNone_iff_eq_none] at hheld
  by_cases hb : (s.clock.tick + 1) % 2 = 0 ∧ s.clk.phase1Done = true
  · exact ⟨_, .inr ((rootTick_bclk hheld hb.1 hb.2).trans (by rw [hedge]; rfl))⟩
  · rw [Decidable.not_and_iff_not_or_not, Nat.mod_two_not_eq_zero, Bool.not_eq_true] at hb
    exact ⟨c, .inl ((rootTick_cclk hheld hb).trans hedge)⟩

/-- A state whose slow part differs in the clock alone keeps what matters. -/
theorem Kept.of_clock {s t : State} {c : ClockState} (h : t.slow = { s.slow with clock := c }) : Kept s t :=
  have hclock : Kept s { s with clock := c } := .of_still rfl rfl rfl rfl rfl rfl (fun _ => id) rfl rfl rfl rfl
  hclock.slow h

/-- Hall time's own edge keeps the invariant. -/
theorem hallEdge_inv {s : State} (h : s.inv) : (hallEdge s.nextHall s).inv := by
  have hok := h.nextHall_ok
  obtain ⟨-, hwaits, hlevel, hfifo, hdone, hfailed, hset⟩ := h
  exact ⟨hok, fun x hx => hwaits x (hx.imp_right (fun hx => by cases hx)), hlevel, hfifo, hdone, hfailed, hset⟩

/-- What a step can do: a reset or the entry to Deep sleep or Off; or CHIP_STATE moves as it may, the Towers that are out stay out,
and in READY hall time stays, but for the next value that a tick may give it. -/
structure Stepped (s t : State) : Prop where
  inv  : t.inv
  rest : t.fresh ∨ (s.chipMoves t ∧ (∀ k, s.rel.towerOut.getLsbD k = true → t.rel.towerOut.getLsbD k = true) ∧
    (s.clk.chipState = .ready → t.time.hall = s.time.hall ∨ (s.pending = [] ∧ t.time.hall = s.nextHall)))

/-- A tick takes the two edges' rules together. -/
theorem rootTick_stepped {s : State} (hinv : s.inv) (hpending : s.pending = []) : Stepped s (rootTick s) := by
  obtain ⟨c, hclock | hhall⟩ := rootTick_slow_or s
  · have hkept := Kept.of_clock hclock
    exact ⟨hkept.inv hinv, .inr ⟨.inl hkept.chip, hkept.out, fun hready => .inl (hkept.hall hinv hready)⟩⟩
  · have hkept : Kept (hallEdge s.nextHall s) (rootTick s) := .of_clock (hhall.trans (by rw [hallEdge_slow]))
    exact ⟨hkept.inv (hallEdge_inv hinv), .inr ⟨.inl hkept.chip, hkept.out, fun _ => .inr ⟨hpending, congrArg Slow.hall hhall⟩⟩⟩

/-- What a step does: a tick on an empty queue, else what the front command does. -/
theorem step_stepped {s t : State} (hinv : s.inv) (hstep : step s = .next t) : Stepped s t := by
  cases hpending : s.pending with
  | nil =>
    rw [step_idle hpending] at hstep
    cases hstep
    exact rootTick_stepped hinv hpending
  | cons c rest =>
    rw [stepRunsFrontCommand c rest s hpending] at hstep
    obtain ⟨u, hexec, hmoved⟩ := exec_moved c { s with pending := rest }
    cases hexec.symm.trans hstep
    exact ⟨hmoved.inv hinv, (hmoved.rest hinv).imp_right fun ⟨hchip, _, hout, hhall⟩ =>
      ⟨hchip, hout, fun hready => .inl (hhall hready)⟩⟩

/-- Settles O57: step_stepped holds both conclusions. -/
theorem limitsAreKept : Obligations.LimitsAreKept := fun _ _ hinv hstep =>
  have hstepped := step_stepped hinv hstep
  ⟨hstepped.inv, hstepped.rest.imp_right fun ⟨hchip, _⟩ => hchip⟩

/-- Settles O55: a step that is no reset leaves the Towers that are out. -/
theorem towersStayOut : Obligations.TowersStayOut := fun _ _ k hinv hout hstep =>
  (step_stepped hinv hstep).rest.elim .inr fun ⟨_, hstays, _⟩ => .inl (hstays k hout)

/-- Of the moves that CHIP_STATE may make, none leaves READY. -/
theorem State.chipMoves.ready_stays {s t : State} (h : s.chipMoves t) (hready : s.clk.chipState = .ready) : t.clk.chipState = .ready := by
  rcases h with hsame | ⟨hminuet, -⟩ | ⟨hboot, -⟩ | ⟨hacquire, -⟩
  · exact hsame.trans hready
  · exact absurd (hready.symm.trans hminuet) (by decide)
  · exact absurd (hready.symm.trans hboot) (by decide)
  · exact absurd (hready.symm.trans hacquire) (by decide)

/-- Of the moves that CHIP_STATE may make, SET_READY's alone comes to READY. -/
theorem State.chipMoves.comes_to_ready {s t : State} (h : s.chipMoves t) (hnot : s.clk.chipState ≠ .ready) (hready : t.clk.chipState = .ready) :
    s.clk.chipState = .timeAcquire ∧ s.time.servo = tsLocked := by
  rcases h with hsame | ⟨-, hboot | hfailed⟩ | ⟨-, hacquire⟩ | ⟨hacquire, -, hlocked⟩
  · exact absurd (hsame.symm.trans hready) hnot
  · exact absurd (hready.symm.trans hboot) (by decide)
  · exact absurd (hready.symm.trans hfailed) (by decide)
  · exact absurd (hready.symm.trans hacquire) (by decide)
  · exact ⟨hacquire, hlocked⟩

/-- A chip that a reset has just put back is in MINUET. -/
theorem State.fresh.chip {s : State} (h : s.fresh) : s.clk.chipState = .minuet := by
  obtain ⟨hclk, -⟩ := h
  rw [hclk]
  rfl

/-- Settles O51: no move of CHIP_STATE leaves READY, so that a step which does is a reset. -/
theorem readyIsLeftOnlyByReset : Obligations.ReadyIsLeftOnlyByReset := fun _ _ hinv hready hstep =>
  (step_stepped hinv hstep).rest.elim .inr fun ⟨hchip, _⟩ => .inl (hchip.ready_stays hready)

end Sys2Proof.Machine

namespace Sys2Proof.Machine
open Sys2Proof

/-! ### Hall time from READY on (R51, R56 to R58, R72) -/

theorem nextHall_of_edge {s : State} {h : HallTime} (hruns : s.timeRuns = true) (hedge : s.time.edgeAt = some h) : s.nextHall = h := by
  simp [State.nextHall, hruns, hedge]

theorem nextHall_of_incr {s : State} (hruns : s.timeRuns = true) (hedge : s.time.edgeAt = none) :
    s.nextHall = hallOf (s.now + s.time.incr) := by
  simp [State.nextHall, hruns, hedge]

/-- Before the seconds wrap, the units come back from the hall time that they give. -/
theorem units_hallOf {u : Nat} (h : u < 2 ^ 64 * 1000000000 * 2 ^ 32) : (hallOf u).units = u := by
  have hns : u / 2 ^ 32 % 1000000000 < 2 ^ 32 := by omega
  have hsec : u / 2 ^ 32 / 1000000000 < 2 ^ 64 := by omega
  simp only [hallOf, HallTime.units, nsPerSec, BitVec.toNat_ofNat, Nat.mod_eq_of_lt hns, Nat.mod_eq_of_lt hsec]
  omega

/-- Settles O53: a step gives hall time its next value on a tick alone, and the next value is the sum with its carry. -/
theorem hallTimeMovesOnlyByTheIncrement : Obligations.HallTimeMovesOnlyByTheIncrement := by
  refine ⟨fun s t hinv hready hstep => ?step, fun s h => nextHall_of_edge, fun s hruns hedge hbound => ?sum⟩
  case step =>
    rcases (step_stepped hinv hstep).rest with hfresh | ⟨-, -, hhall⟩
    · exact .inr (.inr hfresh)
    · exact (hhall hready).imp_right .inl
  case sum =>
    have hok : (hallOf (s.now + s.time.incr)).ns.toNat ≤ 999999999 := of_decide_eq_true (HallTime.ok_hallOf _)
    rw [nextHall_of_incr hruns hedge]
    exact ⟨units_hallOf hbound, by omega⟩

/-! ### The increment and the coarse set (R52 to R56, R63, R72) -/

section
variable {s : State} {mid : Nat} {v : Word}

theorem exec_timeIncrLoWrite (hreach : s.reachable = true) : exec (.timeIncrLoWrite mid v) s = .next (timeIncrLoWrite mid v s) :=
  congrArg _ (onBus_reachable hreach)

theorem exec_timeIncrHiWrite (hreach : s.reachable = true) : exec (.timeIncrHiWrite mid v) s = .next (timeIncrHiWrite mid v s) :=
  congrArg _ (onBus_reachable hreach)

theorem exec_timeSetGo (hreach : s.reachable = true) (mode : Bool) : exec (.timeSetGo mid mode) s = .next (timeSetGo mid mode s) :=
  congrArg _ (onBus_reachable hreach)

/-- A GO from another MID than the Dome's does nothing. -/
theorem timeSetGo_of_other (hmid : mid ≠ 0) (mode : Bool) (s : State) : timeSetGo mid mode s = s := if_neg hmid

/-- Outside BOOT and TIME_ACQUIRE a GO is refused (R56). -/
theorem timeSetGo_conflict (h : s.settable = false) (mode : Bool) :
    timeSetGo 0 mode s = { s with time := { s.time with setMode := mode, setStatus := 1 } } := by
  simp only [timeSetGo, ↓reduceIte, h, Bool.not_false]
  rfl

theorem timeSetGo_badArg (h : s.settable = true) (hns : 999999999 < s.time.setNs.toNat) (mode : Bool) :
    timeSetGo 0 mode s = { s with time := { s.time with setMode := mode, setStatus := 2 } } := by
  simp only [timeSetGo, ↓reduceIte, h, hns, Bool.not_true, Bool.false_eq_true]
  rfl

/-- A GO of MODE 1 waits for 1PPS_IN. -/
theorem timeSetGo_deferred (h : s.settable = true) (hns : s.time.setNs.toNat ≤ 999999999) :
    timeSetGo 0 true s = { s with time := { s.time with setMode := true, setStatus := 8, setPending := some s.time.setValue } } := by
  simp only [timeSetGo, ↓reduceIte, h, Nat.not_lt.mpr hns, Bool.not_true, Bool.false_eq_true]
  rfl

theorem timeSetGo_loads (h : s.settable = true) (hns : s.time.setNs.toNat ≤ 999999999) :
    timeSetGo 0 false s = (coarseSet s.time.setValue s.time.setValue (s.modTime (fun t => { t with setMode := false }))).modTime
      (fun t => { t with setPending := none }) := by
  simp only [timeSetGo, ↓reduceIte, h, Nat.not_lt.mpr hns, Bool.not_true, Bool.false_eq_true]

theorem settable_iff : s.settable = true ↔ s.clk.chipState = .boot ∨ s.clk.chipState = .timeAcquire := by
  simp [State.settable]

@[simp] theorem trigger_modTime (f : TimeState → TimeState) (n : Nat) (s : State) : (s.modTime f).trigger n = s.trigger n := rfl

/-- A coarse set disarms every armed trigger channel (R55). -/
theorem trigger_coarseSet {n : Nat} (hn : n < 32) (x y : HallTime) (s : State) :
    (coarseSet x y s).trigger n = (s.trigger n).disarmBySet := by
  unfold coarseSet State.trigger
  dsimp only
  rw [Tab.get_modifyAll _ _ _ _ _ List.nodup_range, if_pos (List.mem_range.mpr hn)]

theorem incrAccepted_iff {x : Nat} : incrAccepted s x = true ↔
    (0x12D1DC199 ≤ x ∧ x ≤ 0x12D3C98C1) ∧ (s.fab.active = none ∨ (0x12D2764D5 ≤ x ∧ x ≤ 0x12D32F585)) := by
  simp [incrAccepted, incrInRange, incrInActiveRange]

end

/-- Settles O3: a write of another MID is refused and counted, and a reset puts the time unit back. -/
theorem timeIncrementIsTheDomes : Obligations.TimeIncrementIsTheDomes := by
  refine ⟨fun s mid v hreach hmid => ?counted, fun s mid mode hmid => congrArg _ (onBus_same (timeSetGo_of_other hmid mode s)),
    fun s c => rfl⟩
  case counted =>
    rw [exec_timeIncrLoWrite hreach, exec_timeIncrHiWrite hreach, timeIncrLoWrite, timeIncrHiWrite, if_neg hmid, if_neg hmid]
    exact ⟨rfl, rfl⟩

/-- Settles O4: the candidate of TIME_INCR_HI is the value that R52 names, and incrAccepted its range. -/
theorem timeIncrementCommit : Obligations.TimeIncrementCommit := by
  refine ⟨fun s v hreach => exec_timeIncrLoWrite hreach, fun s v x hreach hx => ?_⟩
  have hfield : fieldW v 3 0 = v.toNat % 16 := by simp [fieldW, field]
  have hcand : incrCandidate s v = x := by rw [incrCandidate, hfield, hx]
  simp only [exec_timeIncrHiWrite hreach, timeIncrHiWrite, ↓reduceIte, hcand, hfield, ← incrAccepted_iff]
  refine ⟨fun hok hmode => ?fixed, fun hok hmode => ?stretch, fun hok => ?refused⟩
  case fixed => simp only [hok, hmode, ↓reduceIte, Bool.false_eq_true]; rfl
  case stretch => simp only [hok, hmode, ↓reduceIte]; rfl
  case refused => simp only [hok, Bool.false_eq_true, ↓reduceIte]; rfl

/-- A capture changes the capture channels alone. -/
theorem captureAt_eq {h : HallTime} {src lane : Nat} {rising : Bool} {s : State} :
    captureAt h src lane rising s = { s with cap := (captureAt h src lane rising s).cap } := by
  unfold captureAt
  dsimp only

theorem exec_ppsInEdge {s : State} {rising : Bool} {phase : Fin 16} :
    exec (.ppsInEdge ⟨rising, phase⟩) s = .next (ppsInEdge rising phase s) := rfl

/-- An edge of 1PPS_IN with no value to load moves the pin and the capture channels alone. -/
theorem ppsInEdge_idle {s : State} {rising : Bool} (h : s.time.setPending = none ∨ rising = false) (phase : Nat) :
    ppsInEdge rising phase s = captureAt (hallOf (s.nowAt phase)) 1 0 rising { s with pins := { s.pins with ppsIn := rising } } := by
  unfold ppsInEdge
  rcases h with h | rfl
  · rw [h]
    cases rising <;> rfl
  · rfl

theorem ppsInEdge_loads {s : State} {h : HallTime} (hwaits : s.time.setPending = some h) (phase : Nat) :
    ppsInEdge true phase s = (coarseSet h (hallOf (h.units + s.time.incr * (16 - phase) / 16))
      (captureAt (hallOf (s.nowAt phase)) 1 0 true { s with pins := { s.pins with ppsIn := true } })).modTime
        (fun t => { t with setPending := none }) := by
  unfold ppsInEdge
  rw [hwaits]

/-- Settles O5: one lemma per answer of TIME_SET_GO and per edge of 1PPS_IN. -/
theorem coarseSetOnlyBeforeReady : Obligations.CoarseSetOnlyBeforeReady := by
  refine ⟨fun s mode hreach hboot hacquire => ?conflict, fun s mode hreach hstate hns => ?badArg,
    fun s hreach hstate hns => ⟨?loads, ?deferred⟩, fun s h phase hwaits => ?edge, fun s r phase h => ?idle⟩
  case conflict =>
    have hnot : s.settable = false := by simp [State.settable, hboot, hacquire]
    exact (exec_timeSetGo hreach mode).trans (congrArg _ (timeSetGo_conflict hnot mode))
  case badArg => exact (exec_timeSetGo hreach mode).trans (congrArg _ (timeSetGo_badArg (settable_iff.mpr hstate) hns mode))
  case loads =>
    refine ⟨_, (exec_timeSetGo hreach false).trans (congrArg _ (timeSetGo_loads (settable_iff.mpr hstate) hns)),
      rfl, rfl, rfl, rfl, fun n hn => ?_, ?_⟩
    · rw [trigger_modTime, trigger_coarseSet hn, trigger_modTime, TrigChan.disarmBySet]
    · unfold coarseSet State.modTime
      dsimp only
  case deferred => exact (exec_timeSetGo hreach true).trans (congrArg _ (timeSetGo_deferred (settable_iff.mpr hstate) hns))
  case edge => exact ⟨_, exec_ppsInEdge.trans (congrArg _ (ppsInEdge_loads hwaits phase)), rfl, rfl, rfl, rfl, rfl⟩
  case idle => exact ⟨_, exec_ppsInEdge.trans (congrArg _ (ppsInEdge_idle h phase)), captureAt_eq⟩

/-- Settles O52: SET_READY alone comes to READY; in READY a GO is refused and no value waits for 1PPS_IN. -/
theorem readyOnlyWhileLocked : Obligations.ReadyOnlyWhileLocked := by
  refine ⟨fun s t hinv hnot hstep hready => ?comes, fun s mode hreach hready => ?go, fun s rising phase hinv hready => ?edge⟩
  case comes =>
    rcases (step_stepped hinv hstep).rest with hfresh | ⟨hchip, -⟩
    · exact absurd (hready.symm.trans hfresh.chip) (by decide)
    · exact hchip.comes_to_ready hnot hready
  case go =>
    have hnot : s.settable = false := by simp [State.settable, hready]
    exact ⟨_, (exec_timeSetGo hreach mode).trans (congrArg _ (timeSetGo_conflict hnot mode)), rfl, rfl⟩
  case edge =>
    obtain ⟨-, -, -, -, -, -, hset⟩ := hinv
    exact ⟨_, exec_ppsInEdge.trans (congrArg _ (ppsInEdge_idle (.inl (hset hready)) phase)), rfl⟩

end Sys2Proof.Machine

namespace Sys2Proof.Machine
open Sys2Proof

/-! ### The Minuet and the loss of the root's lock (R40 to R50) -/

theorem next_congr {s t : State} (h : s = t) : (.next s : Host.Outcome State Fault Refusal) = .next t := congrArg _ h

theorem resetRelease_of_held {s : State} {c : ResetCause} (h : s.clk.pendingReset = some c) :
    (resetRelease s).clk = { s.clk with pendingReset := none, rstCause := c, refPresent := true } ∧
      resetRelease s = { s with clk := (resetRelease s).clk, pins := { s.pins with resetN := true }, dome := (resetRelease s).dome } := by
  unfold resetRelease
  rw [h]
  exact ⟨rfl, rfl⟩

/-- Settles O50: the loss is a reset of the chip with that cause, which RESET_RELEASE records. -/
theorem lossOfTheRootLockResets : Obligations.LossOfTheRootLockResets := by
  refine fun s => ⟨fun hdone => ?lost, fun hnot => ?waits⟩
  case lost =>
    have hloss : rootPllLoss s = chipReset .clockLoss s := if_pos hdone
    obtain ⟨hclk, -⟩ := resetRelease_of_held (s := chipReset .clockLoss s) rfl
    exact ⟨_, next_congr hloss, rfl, rfl, rfl, rfl, rfl, rfl, rfl, rfl, rfl, rfl, rfl, rfl, rfl, rfl, rfl,
      _, rfl, congrArg ClkState.rstCause hclk, congrArg ClkState.pendingReset hclk⟩
  case waits => exact congrArg _ (if_neg (by simp [hnot]))

section
variable {s : State}

theorem pllLock_first (hminuet : s.clk.inMinuet = true) (hfirst : s.clk.phase1Done = false) :
    pllLock s = startPhase1 (s.modClk (fun c => { c with lanePll := true, hbmPll := true, uciePll := true, rootLock := true })) := by
  simp only [pllLock, hminuet, hfirst, ↓reduceIte, Bool.false_eq_true]

theorem minuetPhase2_runs (hminuet : s.clk.inMinuet = true) (hdone : s.clk.phase1Done = true) (hphase : s.clk.phase ≠ 3) (ok : Bool) :
    minuetPhase2 ok s = if ok then s.modClk (fun c => { c with phase := 3 })
      else if s.clk.attempts = 1 then startPhase1 s
      else (s.modClk (fun c => { c with failed := true, chipState := .failed })).emit .romFailure :=
  if_pos (by rw [hminuet, hdone, decide_eq_true hphase]; rfl)

theorem checkDump_clk (s : State) : (checkDump s).clk = s.clk := by
  unfold checkDump
  split
  · split <;> rfl
  · rfl

theorem alertAtBoot_clk (s : State) : (alertAtBoot s).clk = s.clk := by
  unfold alertAtBoot
  split <;> rfl

/-- Phase 3 records the links' results and ends the Minuet. -/
theorem minuetPhase3_clk (hminuet : s.clk.inMinuet = true) (hphase : s.clk.phase = 3) (l : List (Option (Nat × Nat))) :
    (minuetPhase3 l s).clk = { (((List.range 4).zip l).foldl recordLink s).clk with done := true, chipState := .boot } := by
  unfold minuetPhase3
  rw [if_pos (by simp [hminuet, hphase]), alertAtBoot_clk]
  show ClkState.mk .. = ClkState.mk ..
  rw [checkDump_clk]

/-- A link both of whose directions train within 24 CCLK: the larger latency and the padding that makes 24 (R45). -/
def trainedLat (down up : Nat) : UcieLat := ⟨1, BitVec.ofNat 8 (max down up), BitVec.ofNat 8 (24 - max down up)⟩

theorem recordLink_trained {down up : Nat} (h : max down up ≤ 24) (n : Nat) (s : State) :
    recordLink s (n, some (down, up)) = s.modClk (fun c => { c with lat := c.lat.set UcieLat.reset n (trainedLat down up) }) := by
  have hresult : linkResult (some (down, up)) = trainedLat down up := if_pos h
  unfold recordLink
  dsimp only
  rw [hresult]
  exact if_pos rfl

/-- Four links that train leave the Towers in service, and each reads its own result. -/
theorem recordLink_all_trained {d u : Nat → Nat} (h : ∀ n, n < 4 → max (d n) (u n) ≤ 24) (s : State) :
    let v := ((List.range 4).zip [some (d 0, u 0), some (d 1, u 1), some (d 2, u 2), some (d 3, u 3)]).foldl recordLink s
    v.clk.towerFail = s.clk.towerFail ∧ ∀ n, n < 4 → v.clk.lat.get UcieLat.reset n = trainedLat (d n) (u n) := by
  have hzip : (List.range 4).zip [some (d 0, u 0), some (d 1, u 1), some (d 2, u 2), some (d 3, u 3)] =
      [(0, some (d 0, u 0)), (1, some (d 1, u 1)), (2, some (d 2, u 2)), (3, some (d 3, u 3))] := rfl
  rw [hzip]
  simp only [List.foldl_cons, List.foldl_nil, recordLink_trained (h 0 (by decide)), recordLink_trained (h 1 (by decide)),
    recordLink_trained (h 2 (by decide)), recordLink_trained (h 3 (by decide))]
  refine ⟨rfl, fun n hn => ?_⟩
  simp only [State.modClk, Tab.get_set]
  obtain rfl | rfl | rfl | rfl : n = 0 ∨ n = 1 ∨ n = 2 ∨ n = 3 := by omega
  all_goals rfl

end

/-- Settles O2: one lemma per event of the Minuet. -/
theorem minuetRunsToBoot : Obligations.MinuetRunsToBoot := by
  refine ⟨fun s c hheld => ?release, fun s hminuet hfirst => ?lock, fun s hminuet hdone hphase => ⟨?good, ?bad⟩,
    fun s l0 l1 l2 l3 hminuet hphase => ?boot, fun s d u hminuet hphase hlat => ?trained, fun s hdone => ?loss⟩
  case release =>
    obtain ⟨hclk, hframe⟩ := resetRelease_of_held hheld
    exact ⟨_, rfl, hclk, hframe⟩
  case lock => exact congrArg _ (pllLock_first hminuet hfirst)
  case good => exact congrArg _ (minuetPhase2_runs hminuet hdone hphase true)
  case bad =>
    refine congrArg _ ((minuetPhase2_runs hminuet hdone hphase false).trans ?_)
    rw [if_neg Bool.false_ne_true]
    split
    next hattempts => unfold startPhase1 releaseTick; rw [hattempts]; rfl
    next => rfl
  case boot =>
    have hclk := minuetPhase3_clk hminuet hphase [l0, l1, l2, l3]
    exact ⟨_, rfl, congrArg ClkState.done hclk, congrArg ClkState.chipState hclk⟩
  case trained =>
    have hclk := minuetPhase3_clk hminuet hphase [some (d 0, u 0), some (d 1, u 1), some (d 2, u 2), some (d 3, u 3)]
    obtain ⟨hfail, hread⟩ := recordLink_all_trained hlat s
    exact ⟨_, rfl, (congrArg ClkState.towerFail hclk).trans hfail, fun n hn =>
      (congrArg (fun c : ClkState => c.lat.get UcieLat.reset n) hclk).trans (hread n hn)⟩
  case loss =>
    have hloss : rootPllLoss s = chipReset .clockLoss s := if_pos hdone
    exact ⟨_, next_congr hloss, rfl, rfl, rfl, rfl⟩

/-! ### Latches, captures and 1PPS_OUT (R60, R73, R82, R83) -/

section
variable {s : State} {mid : Nat}

theorem exec_timeLatch (hreach : s.reachable = true) : exec (.timeLatch mid) s = .next (timeLatch mid s) :=
  congrArg _ (onBus_reachable hreach)

theorem exec_capStrobeWrite (hreach : s.reachable = true) (c : Fin 8) : exec (.capStrobeWrite mid c) s = .next (capStrobeWrite mid s) :=
  congrArg _ (onBus_reachable hreach)

theorem timeLatch_lease {n : Nat} (hn : 1 ≤ n) (hn' : n ≤ 4095) :
    timeLatch (n + 1) s = s.modFunc n (fun f => { f with latch := s.nextHall }) := by
  rw [timeLatch, if_neg (Nat.succ_ne_zero n), if_neg (by omega), if_pos (by omega), Nat.add_sub_cancel]

/-- A channel that selects the event records it and counts; the others stay. -/
theorem cap_captureAt {i : Nat} (hi : i < 8) (h : HallTime) (src lane : Nat) (rising : Bool) (s : State) :
    (captureAt h src lane rising s).cap.get CapChan.reset i =
      (let x := s.cap.get CapChan.reset i
       if x.selects src lane rising = true then { x with time := h, seq := x.seq + 1 } else x) := by
  unfold captureAt
  dsimp only
  rw [Tab.get_modifyAll _ _ _ _ _ List.nodup_range, if_pos (List.mem_range.mpr hi)]

theorem captureAt_pins (h : HallTime) (src lane : Nat) (rising : Bool) (s : State) : (captureAt h src lane rising s).pins = s.pins := by
  unfold captureAt
  dsimp only

theorem captureAt_time (h : HallTime) (src lane : Nat) (rising : Bool) (s : State) : (captureAt h src lane rising s).time = s.time := by
  unfold captureAt
  dsimp only

/-- A STROBE has no edge to select (R83). -/
theorem selects_strobe (x : CapChan) (hmid : mid ≤ 1) : x.selects (8 + mid) 0 true = true ↔ x.enable = true ∧ x.source.toNat = 8 + mid := by
  have hlane : ¬ 8 + mid = 7 := by omega
  have hpin : ¬ 8 + mid ≤ 6 := by omega
  simp [CapChan.selects, hlane, hpin]

/-- The edges of 1PPS_OUT are source 2. -/
theorem selects_ppsOut (x : CapChan) (rising : Bool) : x.selects 2 0 rising = true ↔ x.enable = true ∧ x.source = 2 ∧ x.edge = !rising := by
  have hsource : x.source.toNat = 2 ↔ x.source = 2 := BitVec.toNat_inj (y := 2)
  simp [CapChan.selects, hsource, and_assoc]

theorem capStrobeWrite_captures (hmid : mid ≤ 1) : capStrobeWrite mid s = captureAt s.time.hall (8 + mid) 0 true s := by
  obtain rfl | rfl : mid = 0 ∨ mid = 1 := by omega
  all_goals rfl

theorem ppsOutSecond_marks (hon : s.time.ppsEnable = true) (hsec : s.time.ppsSec < s.time.hall.sec) :
    ppsOutSecond s = captureAt ⟨s.time.hall.sec, 0, 0⟩ 2 0 true { s with
      time := { s.time with
        ppsSec := s.time.hall.sec
        ppsFall := some (unitsAt s.time.hall.sec.toNat (ppsWidthMs s.time.ppsWidth.toNat * 1000000)) }
      pins := { s.pins with ppsOut := true } } :=
  if_pos ⟨hon, hsec⟩

theorem ppsOutPulseEnd_lowers {u : Nat} (hfall : s.time.ppsFall = some u) (hdue : u ≤ s.now) :
    ppsOutPulseEnd s = captureAt (hallOf u) 2 0 false { s with
      time := { s.time with ppsFall := none }, pins := { s.pins with ppsOut := false } } := by
  unfold ppsOutPulseEnd
  rw [hfall]
  exact if_pos hdue

end

/-- Settles O6: the latch of each MID, and cap_captureAt for each event that is captured. -/
theorem latchesAndCaptures : Obligations.LatchesAndCaptures := by
  refine ⟨fun s hreach => ⟨exec_timeLatch hreach, exec_timeLatch hreach⟩,
    fun s n hreach hn hn' => (exec_timeLatch hreach).trans (congrArg _ (timeLatch_lease hn hn')),
    fun s mid c hreach hmid => ?strobe, fun s hon hsec => ?second, fun s u hfall hdue => ?pulseEnd⟩
  case strobe =>
    refine ⟨_, (exec_capStrobeWrite hreach c).trans (congrArg _ (capStrobeWrite_captures hmid)), captureAt_eq, fun i hi => ?_⟩
    rw [cap_captureAt hi]
    simp only [selects_strobe _ hmid]
  case second =>
    refine ⟨_, next_congr (ppsOutSecond_marks hon hsec), ?_, ?_, fun i hi => ?_, captureAt_eq⟩
    · rw [captureAt_pins]
    · rw [captureAt_time]
    · rw [cap_captureAt hi]
      simp only [selects_ppsOut, Bool.not_true]
  case pulseEnd =>
    refine ⟨_, next_congr (ppsOutPulseEnd_lowers hfall hdue), ?_, fun i hi => ?_, captureAt_eq⟩
    · rw [captureAt_pins]
    · rw [cap_captureAt hi]
      simp only [selects_ppsOut, Bool.not_false]

end Sys2Proof.Machine

namespace Sys2Proof.Machine
open Sys2Proof

/-! ### Ready and the servo's states (R56, R67, R68, R420) -/

section
variable {s : State}

/-- SET_READY while LOCKED: a coarse set that waits is cancelled with ST_STATE_CONFLICT (R72). -/
theorem setReady_locked (hacquire : s.clk.chipState = .timeAcquire) (hlocked : s.time.servo = tsLocked) :
    setReady s = { s with
      clk := { s.clk with chipState := .ready }
      rm := { s.rm with regs := { s.rm.regs with incarnation := BitVec.ofNat 16 (s.now / periodUnits) } }
      time := if s.time.setPending = none then s.time else { s.time with setPending := none, setStatus := 1 } } := by
  unfold setReady
  rw [if_pos ⟨hacquire, hlocked⟩]
  cases s.time.setPending <;> rfl

theorem setReady_ignored (h : s.clk.chipState ≠ .timeAcquire ∨ s.time.servo ≠ tsLocked) : setReady s = s :=
  if_neg (fun ⟨hacquire, hlocked⟩ => h.elim (· hacquire) (· hlocked))

/-- A change of the servo's state touches the time unit's STATE and the Dome's log alone. -/
theorem setServo_shape (v : BitVec 3) (s : State) : ∃ q n l, setServo v s = { s with
    time := { s.time with servo := v }, dome := { s.dome with logQueue := q, logSeq := n, logLost := l } } :=
  logEvent_shape (.timeState v.toNat) (s.modTime (fun t => { t with servo := v }))

/-- While the log takes records, an event joins its queue. -/
theorem logEvent_logQueue (h : s.dome.logQueue.length < logQueueMax) (e : LogEvent) :
    (logEvent e s).dome.logQueue = s.dome.logQueue ++ [⟨s.dome.logSeq, s.time.hall.sec, s.time.hall.ns, e⟩] := by
  unfold logEvent
  dsimp only
  rw [if_pos h]

/-- HOLDOVER in fixed operation: the held increment is committed and in force, and the Dome's doorbell bit 7 is set (R67, R565). -/
theorem holdOver_fixed (hfixed : s.clk.mode = false) : ∃ d : DomeState, d.dbStatus.getLsbD 7 = true ∧ holdOver s = { s with
    time := { s.time with
      servo := tsHoldover, inBound := 0, incr := s.heldIncr, incrLo := BitVec.ofNat 32 s.heldIncr
      incrHi := BitVec.ofNat 4 (s.heldIncr / 2 ^ 32) }
    dome := d, free := s.free + 1 } := by
  obtain ⟨q, n, l, hservo⟩ := setServo_shape tsHoldover (s.modTime (fun t => { t with inBound := 0 }))
  have hbell := ringDome_sets (by decide : 7 < 32) (setServo tsHoldover (s.modTime (fun t => { t with inBound := 0 })))
  refine ⟨_, hbell, ?_⟩
  unfold holdOver
  rw [hservo]
  unfold commitIncr
  rw [if_neg (by show ¬ s.clk.mode = true; simp [hfixed])]
  rfl

theorem syncHoldover_lost (hfollows : s.time.role = false) (hnot : s.time.servo ≠ tsHoldover)
    (hlost : s.time.lastSync + 8 ≤ s.time.periods) : syncHoldover s = holdOver s :=
  if_pos ⟨hfollows, hnot, hlost⟩

theorem timeLocked_ignored (h : s.lockHolds = false ∨ s.time.servo = tsLocked) : timeLocked s = s :=
  if_pos (by rcases h with h | h <;> simp [h])

theorem timeLocked_declares (hnot : s.time.servo ≠ tsLocked) (hholds : s.lockHolds = true) : timeLocked s = setServo tsLocked s :=
  if_neg (by rw [decide_eq_false hnot, hholds]; decide)

end

/-- Settles O7: one lemma per event of the servo. -/
theorem readyAndServoStates : Obligations.ReadyAndServoStates := by
  refine ⟨fun s hacquire hlocked => ?ready, fun s h => next_congr (setReady_ignored h), fun s hfollows hnot hlost hfixed => ?holdover,
    fun s h => next_congr (timeLocked_ignored h), fun s hnot hholds => ?locked⟩
  case ready =>
    refine ⟨_, next_congr (setReady_locked hacquire hlocked), rfl, rfl, ?_, ?_, ?_, fun hwaits => ?_, rfl⟩
    · dsimp only; split <;> rfl
    · dsimp only; split <;> rfl
    · dsimp only; split
      next hnone => exact hnone
      next => rfl
    · dsimp only; rw [if_neg hwaits]
  case holdover =>
    obtain ⟨d, hbell, hshape⟩ := holdOver_fixed hfixed
    exact ⟨_, next_congr ((syncHoldover_lost hfollows hnot hlost).trans hshape), rfl, hbell, rfl⟩
  case locked =>
    obtain ⟨q, n, l, hshape⟩ := setServo_shape tsLocked s
    refine ⟨_, next_congr (timeLocked_declares hnot hholds), by rw [hshape], by rw [hshape], fun hroom => ?_⟩
    exact logEvent_logQueue (s := s.modTime (fun t => { t with servo := tsLocked })) hroom (.timeState 3)

/-! ### The control register of a trigger channel (R75 to R78) -/

section
variable {s : State} {mid n : Nat} {v : Word} {c : TrigChan}

theorem exec_trigCtrlWrite (hreach : s.reachable = true) (n : Fin 32) :
    exec (.trigCtrlWrite mid n v) s = .next (trigCtrlWrite mid n v s) := congrArg _ (onBus_reachable hreach)

theorem trigCtrlWrite_takes (hmid : mid ≤ 1) (hnot : s.triggerDue n = false) : trigCtrlWrite mid n v s = trigCtrlTakes mid n v s := by
  simp only [trigCtrlWrite, trigWrite, Nat.not_lt.mpr hmid, hnot, ↓reduceIte, Bool.false_eq_true]

theorem trigCtrlWrite_waits (hmid : mid ≤ 1) (hdue : s.triggerDue n = true) :
    trigCtrlWrite mid n v s = s.modTrigger n (fun c => { c with late := c.late ++ [(0, mid, v)] }) := by
  simp only [trigCtrlWrite, trigWrite, Nat.not_lt.mpr hmid, hdue, ↓reduceIte]
  rfl

/-- A change of a channel depends on that channel alone. -/
theorem modTrigger_congr {f g : TrigChan → TrigChan} (h : f (s.trigger n) = g (s.trigger n)) : s.modTrigger n f = s.modTrigger n g :=
  congrArg (fun c => { s with trig := s.trig.set TrigChan.reset n c }) h

/-- No slot start is lost: the write changes its channel alone (R311). -/
theorem trigCtrlTakes_channel (h : mid ≠ 0 ∨ (slotsNotFired (s.trigger n) s.now v).2.1 = 0) :
    trigCtrlTakes mid n v s = s.modTrigger n (fun c => c.ctrlWrite mid s.now v) :=
  if_neg (fun ⟨hdome, hlost⟩ => h.elim (· hdome) hlost)

/-- A channel that is not armed, or whose target is to come, does not fire now (R74). -/
theorem triggerDue_eq_false (h : (s.trigger n).armed = false ∨ s.now < (s.trigger n).target) : s.triggerDue n = false := by
  rcases h with h | h <;> simp [State.triggerDue, TrigChan.due, h]

/-- What is the Dome's, MID 1 does not touch (R78). -/
theorem ctrlWrite_of_host (now : Nat)
    (h : domeAction (fieldW v 27 24) = true ∨ domeAction c.action.toNat = true) : c.ctrlWrite 1 now v = { c with refused := true } :=
  if_pos (by rcases h with h | h <;> simp [h])

theorem ctrlWrite_arms (now : Nat) (hidle : c.armed = false) (harm : bitW v 31 = true)
    (hok : c.armOk (fieldW v 27 24) (fieldW v 20 16) = true) :
    c.ctrlWrite 0 now v = c.arm 0 (fieldW v 27 24) (fieldW v 20 16) now := by
  simp [TrigChan.ctrlWrite, hidle, harm, hok]

theorem ctrlWrite_disarms (now : Nat) (harmed : c.armed = true) (hdisarm : bitW v 31 = false) :
    c.ctrlWrite 0 now v = { c with
      armed := false, action := BitVec.ofNat 4 (fieldW v 27 24), arg := BitVec.ofNat 5 (fieldW v 20 16) } := by
  simp [TrigChan.ctrlWrite, harmed, hdisarm]

theorem arm_coming {action arg now : Nat} (h : now < c.targetReg) : c.arm mid action arg now = { c with
    armed := true, action := BitVec.ofNat 4 action, arg := BitVec.ofNat 5 arg, mid := mid, missed := 0
    target := c.targetReg, period := c.periodReg } :=
  if_pos h

/-- A one-shot channel whose target is past is missed (R76). -/
theorem arm_past {action arg now : Nat} (hpast : c.targetReg ≤ now) (honce : c.periodReg = 0) :
    (c.arm mid action arg now).armed = c.armed ∧ (c.arm mid action arg now).missed = 1 := by
  simp only [TrigChan.arm, Nat.not_lt.mpr hpast, honce, ↓reduceIte, and_self]

/-- An ARM of a target still to come loses no slot start. -/
theorem slotsNotFired_coming {now : Nat} (h : now < c.targetReg) : (slotsNotFired c now v).2.1 = 0 := by
  unfold slotsNotFired
  split
  · rfl
  · split
    · exact if_pos h
    · rfl

theorem slotsNotFired_armed {now : Nat} (h : c.armed = true) : (slotsNotFired c now v).2.1 = 0 := by
  rw [slotsNotFired, if_pos h]

theorem slotsNotFired_other {now : Nat} (h : fieldW v 27 24 ≠ 3) : (slotsNotFired c now v).2.1 = 0 := by
  unfold slotsNotFired
  rw [decide_eq_false h, Bool.and_false, Bool.false_and]
  split <;> rfl

end

/-- Settles O8: the write waits, or changes its channel alone as ctrlWrite says. -/
theorem triggerChannelsAreArmed : Obligations.TriggerChannelsAreArmed := by
  refine ⟨fun s mid n v hreach hmid hdue => ?waits, fun s n v hreach hnot hdome => ?host, fun s n v hreach hidle harm hok hcoming => ?arms,
    fun s n v hreach hidle harm haction hok hpast honce => ?missed, fun s n v hreach harmed hcoming hdisarm => ?disarms⟩
  case waits => exact (exec_trigCtrlWrite hreach n).trans (congrArg _ (trigCtrlWrite_waits hmid hdue))
  case host =>
    refine (exec_trigCtrlWrite hreach n).trans (congrArg _ ?_)
    rw [trigCtrlWrite_takes Nat.le.refl hnot, trigCtrlTakes_channel (.inl Nat.one_ne_zero)]
    exact modTrigger_congr (ctrlWrite_of_host _ (by simpa [domeAction] using hdome))
  case arms =>
    have htakes : trigCtrlWrite 0 n v s = s.modTrigger n (fun c => c.ctrlWrite 0 s.now v) := by
      rw [trigCtrlWrite_takes (Nat.zero_le 1) (triggerDue_eq_false (.inl hidle)), trigCtrlTakes_channel (.inr (slotsNotFired_coming hcoming))]
    refine ⟨_, (exec_trigCtrlWrite hreach n).trans (congrArg _ htakes), rfl, ?_, fun m hm => trigger_modTrigger_ne _ hm⟩
    rw [trigger_modTrigger, ctrlWrite_arms _ hidle harm hok, arm_coming hcoming]
  case missed =>
    have htakes : trigCtrlWrite 0 n v s = s.modTrigger n (fun c => c.ctrlWrite 0 s.now v) := by
      rw [trigCtrlWrite_takes (Nat.zero_le 1) (triggerDue_eq_false (.inl hidle)), trigCtrlTakes_channel (.inr (slotsNotFired_other haction))]
    obtain ⟨hstays, hmissed⟩ := arm_past (c := s.trigger n) (mid := 0) (action := fieldW v 27 24) (arg := fieldW v 20 16) hpast honce
    refine ⟨_, (exec_trigCtrlWrite hreach n).trans (congrArg _ htakes), rfl, ?_⟩
    rw [trigger_modTrigger, ctrlWrite_arms _ hidle harm hok]
    exact ⟨hstays.trans hidle, hmissed⟩
  case disarms =>
    have htakes : trigCtrlWrite 0 n v s = s.modTrigger n (fun c => c.ctrlWrite 0 s.now v) := by
      rw [trigCtrlWrite_takes (Nat.zero_le 1) (triggerDue_eq_false (.inr hcoming)), trigCtrlTakes_channel (.inr (slotsNotFired_armed harmed))]
    refine ⟨_, (exec_trigCtrlWrite hreach n).trans (congrArg _ htakes), rfl, ?_, fun m hm => trigger_modTrigger_ne _ hm⟩
    rw [trigger_modTrigger, ctrlWrite_disarms _ harmed hdisarm]

end Sys2Proof.Machine

namespace Sys2Proof.Machine
open Sys2Proof

/-! ### The regulator bus (R577 to R579) -/

section
variable {s t u : State} {r : Nat} {q : AvsRequest}

/-- What sending of a request may change: the request, the requests that wait, of which none is new, the rails probed and read, and
what leaves the package. -/
structure BusSent (s t : State) : Prop where
  frame : t = { s with
    pwr := { s.pwr with request := t.pwr.request, queue := t.pwr.queue, probed := t.pwr.probed, nextRead := t.pwr.nextRead }
    out := t.out }
  queue : ∀ y ∈ t.pwr.queue, y ∈ s.pwr.queue

theorem BusSent.refl (s : State) : BusSent s s := ⟨rfl, fun _ => id⟩

theorem BusSent.rails (h : BusSent s t) : t.pwr.rails = s.pwr.rails := by rw [h.frame]

theorem BusSent.rail (h : BusSent s t) (r : Nat) : t.rail r = s.rail r := congrArg (·.get Rail.reset r) h.rails

theorem BusSent.loopAt (h : BusSent s t) : t.pwr.loopAt = s.pwr.loopAt := by rw [h.frame]

theorem BusSent.spires (h : BusSent s t) : t.spires = s.spires := by rw [h.frame]

theorem telemetryNext_sent (s : State) : BusSent s (telemetryNext s) := by
  unfold telemetryNext
  dsimp only
  split
  · exact ⟨rfl, fun _ => id⟩
  · exact .refl s

theorem avsSend_sent (s : State) : BusSent s (avsSend s) := by
  unfold avsSend
  split
  · exact .refl s
  · split
    · exact ⟨rfl, fun _ => id⟩
    · split
      · exact ⟨rfl, fun _ => List.mem_of_mem_erase⟩
      · split
        · exact ⟨rfl, fun _ => id⟩
        · exact telemetryNext_sent s

theorem avsSend_busy (h : s.pwr.request.isSome = true) : avsSend s = s := if_pos (by simp [h])

theorem rail_modRail (r : Nat) (f : Rail → Rail) (s : State) : (s.modRail r f).rail r = f (s.rail r) := Tab.get_modify_same _ _ _ _

theorem rail_modRail_ne {x : Nat} (h : x ≠ r) (f : Rail → Rail) (s : State) : (s.modRail r f).rail x = s.rail x :=
  Tab.get_modify_other _ _ _ (Ne.symm h)

/-! #### The end of a request -/

/-- The rail as an acknowledged answer leaves it. -/
def Rail.answered (q : AvsRequest) (value now : Nat) (x : Rail) : Rail :=
  match q.ask with
  | .write mv => { x.found q.rail with setpoint := BitVec.ofNat 12 mv, settle := some now }
  | .readVoltage => Rail.settled value now { x.found q.rail with voltage := BitVec.ofNat 16 value }
  | .readCurrent => { x.found q.rail with current := BitVec.ofNat 16 value }

theorem avsDone_eq (q : AvsRequest) (value : Nat) (s : State) : (avsDone q value s).spires = s.spires ∧
    (avsDone q value s).rail q.rail = (s.rail q.rail).answered q value s.clock.tick ∧
    ∀ r, r ≠ q.rail → (avsDone q value s).rail r = s.rail r := by
  unfold avsDone Rail.answered
  cases q.ask <;> exact ⟨rfl, by dsimp only; rw [rail_modRail, rail_modRail]; rfl,
    fun r hr => by dsimp only; rw [rail_modRail_ne hr, rail_modRail_ne hr]; rfl⟩

/-- A rail that has answered before stays as it was; one that answers in BOOT is present. -/
theorem Rail.found_keeps (r : Nat) (x : Rail) : (x.found r).present = true ∧ (x.found r).voltage = x.voltage ∧
    (x.found r).current = x.current ∧ (x.present = true → x.found r = x) := by
  unfold Rail.found
  split
  next h => exact ⟨h, rfl, rfl, fun _ => rfl⟩
  next h => split <;> exact ⟨rfl, rfl, rfl, fun hp => absurd hp h⟩

theorem Rail.settled_keeps (v now : Nat) (x : Rail) : x.settled v now = { x with settle := (x.settled v now).settle } := by
  unfold Rail.settled
  split
  · rfl
  · dsimp only
    split <;> rfl

/-- A voltage within 5 mV of the request settles the rail (R578). -/
theorem Rail.settled_near {v : Nat} (now : Nat) {x : Rail} (h : v ≤ x.setpoint.toNat + 5) (h' : x.setpoint.toNat ≤ v + 5) :
    (x.settled v now).settle = none := by
  unfold Rail.settled
  split
  next hnone => exact hnone
  next =>
    dsimp only
    rw [if_pos (.inl (decide_eq_true ⟨h, h'⟩))]

theorem Rail.answered_present (q : AvsRequest) (value now : Nat) (x : Rail) : (x.answered q value now).present = true := by
  obtain ⟨hpresent, -⟩ := Rail.found_keeps q.rail x
  unfold Rail.answered
  split
  · exact hpresent
  · rw [Rail.settled_keeps]
    exact hpresent
  · exact hpresent

theorem avsResponse_done (hreq : s.pwr.request = some q) (value : Nat) :
    avsResponse true 0 value s = avsSend (avsDone q value s) := by
  unfold avsResponse
  rw [hreq]
  rfl

/-- An answer with a bad CRC or a SlaveAck other than 0 is none. -/
theorem avsResponse_fails (hreq : s.pwr.request = some q) {ok : Bool} {ack : Nat} (h : ok = false ∨ ack ≠ 0) (value : Nat) :
    avsResponse ok ack value s = avsFail q s := by
  unfold avsResponse
  rw [hreq]
  exact if_neg (by rcases h with h | h <;> simp [h])

theorem avsResponse_idle (hreq : s.pwr.request = none) (ok : Bool) (ack value : Nat) : avsResponse ok ack value s = s := by
  unfold avsResponse
  rw [hreq]

theorem avsTimeout_idle (hreq : s.pwr.request = none) : avsTimeout s = s := by
  unfold avsTimeout
  rw [hreq]

theorem avsTimeout_waiting (hreq : s.pwr.request = some q) : avsTimeout s = if q.sent + 8500 ≤ s.clock.tick then avsFail q s else s := by
  unfold avsTimeout
  rw [hreq]
  rfl

theorem avsFail_again (h : q.tries < 3) : avsFail q s = { s with
    pwr := { s.pwr with request := some ⟨q.rail, q.ask, s.clock.tick, q.tries + 1⟩ }, out := .avs q.rail q.ask :: s.out } :=
  if_pos h

/-- A rail that has not answered three retries: present, it is at FAULT; absent, it stays so. Nothing waits for it (R577). -/
def State.railFailed (r : Nat) (s : State) : State :=
  (s.modPwr (fun p => { p with request := none, queue := p.queue.filter (fun x => x.1 != r) })).modRail r
    (fun x => if x.present then { x with fault := true, settle := none } else x)

theorem avsFail_last (h : 3 ≤ q.tries) : BusSent (s.railFailed q.rail) (avsFail q s) := by
  unfold avsFail
  rw [if_neg (Nat.not_lt.mpr h)]
  exact avsSend_sent _

theorem rail_railFailed (r : Nat) (s : State) : (s.railFailed r).rail r =
    if (s.rail r).present then { s.rail r with fault := true, settle := none } else s.rail r := rail_modRail _ _ _

theorem rail_railFailed_ne {x : Nat} (h : x ≠ r) (s : State) : (s.railFailed r).rail x = s.rail x := rail_modRail_ne h _ _

end

/-! #### The voltage loop -/

section
variable {s : State} {r : Nat}

/-- The state with further requests behind those that wait. -/
def State.queued (q : List (Nat × Nat)) (s : State) : State := { s with pwr := { s.pwr with queue := s.pwr.queue ++ q } }

/-- May the loop ask rail `r` for a voltage: adjustable, without a fault or a request of its own, in a state in which the loop runs? -/
def State.railAsks (s : State) (r : Nat) : Prop :=
  (s.rail r).adjustable = true ∧ (s.rail r).fault = false ∧ (s.rail r).settle = none ∧ (∀ q ∈ s.pwr.queue, q.1 ≠ r) ∧
    (∀ q, s.pwr.request = some q → q.rail = r → q.ask = .readVoltage ∨ q.ask = .readCurrent) ∧ s.loopRuns r = true

/-- The voltage that rail `r` should have by the slack `g` of its monitors. -/
def State.railTarget (s : State) (r g : Nat) : Nat := loopTarget s.clk.mode g (s.rail r).setpoint.toNat

theorem State.railAsks.queued (h : s.railAsks r) {q : List (Nat × Nat)} (hq : ∀ y ∈ q, y.1 ≠ r) : (s.queued q).railAsks r := by
  obtain ⟨hadj, hfault, hsettle, hnone, hreq, hruns⟩ := h
  exact ⟨hadj, hfault, hsettle, fun y hy => (List.mem_append.mp hy).elim (hnone y) (hq y), hreq, hruns⟩

/-- A rail's turn appends a request for that rail or none; one that may ask and is off its target appends it. -/
theorem loopRail_queues (s : State) (r : Nat) : ∃ q, loopRail s r = s.queued q ∧ (∀ y ∈ q, y.1 = r) ∧
    (s.railAsks r → ∀ g, s.railSlack r = some g → s.railTarget r g ≠ (s.rail r).setpoint.toNat → (r, s.railTarget r g) ∈ q) := by
  have hnil : s = s.queued [] := by unfold State.queued; rw [List.append_nil]
  have hnone : ∀ y ∈ ([] : List (Nat × Nat)), y.1 = r := fun _ h => nomatch h
  unfold loopRail
  extract_lets x busy
  split
  next hbusy =>
    refine ⟨[], hnil, hnone, fun ⟨hadj, hfault, hsettle, hqueue, hreq, hruns⟩ => ?_⟩
    have hfree : busy = false := by
      have hany : s.pwr.queue.any (fun q => q.1 == r) = false := by simpa using hqueue
      unfold busy
      rw [hany, show x.settle = none from hsettle]
      cases hrequest : s.pwr.request with
      | none => rfl
      | some q =>
        by_cases hrail : q.rail = r
        · rcases hreq q hrequest hrail with hask | hask <;> simp [hask]
        · simp [hrail]
    rw [hfree, show x.adjustable = true from hadj, show x.fault = false from hfault, hruns] at hbusy
    cases hbusy
  next =>
    split
    next hslack => exact ⟨[], hnil, hnone, fun _ g hg => by rw [hslack] at hg; cases hg⟩
    next g hslack =>
      dsimp only
      split
      next heq => exact ⟨[], hnil, hnone, fun _ g' hg hne => by rw [hslack] at hg; cases hg; exact absurd heq hne⟩
      next =>
        exact ⟨[_], rfl, fun y hy => by rw [List.mem_singleton.mp hy], fun _ g' hg _ => by
          rw [hslack] at hg; cases hg; exact List.mem_singleton.mpr rfl⟩

/-- The turns of several rails append each its own request. -/
theorem loopRails_queue {l : List Nat} (hl : l.Nodup) (s : State) : ∃ q, l.foldl loopRail s = s.queued q ∧
    ∀ r ∈ l, s.railAsks r → ∀ g, s.railSlack r = some g → s.railTarget r g ≠ (s.rail r).setpoint.toNat → (r, s.railTarget r g) ∈ q := by
  induction l generalizing s with
  | nil => exact ⟨[], by unfold State.queued; rw [List.append_nil]; rfl, fun _ h => nomatch h⟩
  | cons a l ih =>
    obtain ⟨hnot, hl⟩ := List.nodup_cons.mp hl
    obtain ⟨q, hfirst, honly, hasks⟩ := loopRail_queues s a
    obtain ⟨q', hrest, hasks'⟩ := ih hl (s.queued q)
    refine ⟨q ++ q', ?_, fun r hr hmay g hg hne => ?_⟩
    · rw [List.foldl_cons, hfirst, hrest]
      unfold State.queued
      dsimp only
      rw [List.append_assoc]
    · rcases List.mem_cons.mp hr with rfl | hr
      · exact List.mem_append_left _ (hasks hmay g hg hne)
      · have hother : ∀ y ∈ q, y.1 ≠ r := fun y hy he => hnot ((honly y hy).symm.trans he ▸ hr)
        exact List.mem_append_right _ (hasks' r hr (hmay.queued hother) g hg hne)

/-- The state of a loop tick before the bus sends its next request. -/
def State.looped (s : State) (q : List (Nat × Nat)) : State :=
  ((s.queued q).modRel (fun r => { r with
    pm := r.pm.modifyAll PathMon.reset (List.range 64) (fun _ p => { p with recent := none }) })).modPwr
      (fun p => { p with loopAt := s.clock.tick })

theorem looped_pwr (s : State) (q : List (Nat × Nat)) :
    (s.looped q).pwr = { s.pwr with queue := s.pwr.queue ++ q, loopAt := s.clock.tick } := by
  unfold State.looped State.queued State.modRel State.modPwr
  dsimp only

theorem looped_spires (s : State) (q : List (Nat × Nat)) : (s.looped q).spires = s.spires := by
  unfold State.looped State.queued State.modRel State.modPwr
  dsimp only

theorem avsLoopTick_due (hchip : s.clk.chipState = .timeAcquire ∨ s.clk.chipState = .ready) (hdue : s.pwr.loopAt + 85000 ≤ s.clock.tick) :
    ∃ q, avsLoopTick s = avsSend (s.looped q) ∧ ∀ r g, r < 5 → s.railAsks r → s.railSlack r = some g →
      s.railTarget r g ≠ (s.rail r).setpoint.toNat → (r, s.railTarget r g) ∈ q := by
  obtain ⟨q, hloop, hasks⟩ := loopRails_queue (List.nodup_range (n := 5)) s
  refine ⟨q, ?_, fun r g hr hmay => hasks r (List.mem_range.mpr hr) hmay g⟩
  unfold avsLoopTick
  rw [if_pos (by rw [decide_eq_true (show s.pwr.loopAt + tick50us ≤ s.clock.tick from hdue)]; simpa using hchip)]
  dsimp only
  rw [hloop]
  rfl

theorem avsLoopTick_early (h : ¬ ((s.clk.chipState = .timeAcquire ∨ s.clk.chipState = .ready) ∧ s.pwr.loopAt + 85000 ≤ s.clock.tick)) :
    avsLoopTick s = s := by
  refine if_neg (fun hon => h ?_)
  obtain ⟨hchip, hdue⟩ := Bool.and_eq_true_iff.mp hon
  exact ⟨by simpa using hchip, of_decide_eq_true hdue⟩

theorem loopTarget_fixed (slack v : Nat) : loopTarget false slack v =
    if slack < 30 then min 860 (v + 10) else if 45 < slack then max 620 (v - 5) else v := rfl

theorem loopTarget_stretch (slack v : Nat) : loopTarget true slack v =
    if slack < 18 then min 860 (v + 10) else if 30 < slack then max 620 (v - 5) else v := rfl

end

end Sys2Proof.Machine

namespace Sys2Proof.Machine
open Sys2Proof

/-! ### Throttling and emergency stops (R580 to R583) -/

section
variable {s t : State} {j k : Nat}

/-- STOP of Spire `k` leaves the others. -/
theorem stopSpire_only (k : Nat) (s : State) : OnlySpire k s (stopSpire k false s) := by
  unfold stopSpire
  extract_lets q m s1 b why count s2 pends delivered s3
  have h1 : OnlySpire k s s1 := (only_modSeq k _ s).trans (setCmdStatus_only k _ _)
  have h2 : OnlySpire k s s2 := by
    refine h1.trans (OnlySpire.trans ?_ (stopCounted_only k _ _))
    split
    · exact .refl k s1
    · exact arrayStop_only k b true s1
  have h3 : OnlySpire k s s3 := h2.trans (only_modSeq k _ s2)
  split
  · exact setCmdStatus_only k _ s
  · split
    · split
      · exact h1.trans (only_modVu k _ s1)
      · exact h1
    · split
      · exact h3
      · exact h3.trans (only_modVu k _ s3)

/-- In which states does an emergency stop stop a Spire? -/
def SpireMode.stops (m : SpireMode) : Prop := m = .armed ∨ m = .running ∨ m = .replay

theorem stopSpire_mode (hmode : (s.spire k).seq.mode.stops) : ((stopSpire k false s).spire k).seq.mode = .stopped := by
  have hnot : (s.spire k).seq.mode ≠ .stopped := by rcases hmode with h | h | h <;> simp [h]
  unfold stopSpire
  extract_lets q m s1 b why count s2 pends delivered s3
  have h3 : (s3.spire k).seq.mode = .stopped := by
    rw [modSeq_spire]
  rw [if_neg (by rcases hmode with h | h | h <;> simp [m, q, h]), if_neg (show ¬ m = .stopped from hnot)]
  split
  · exact h3
  · rw [modVu_spire]
    exact h3

theorem powerStop_only (k : Nat) (s : State) : OnlySpire k s (powerStop k s) := by
  unfold powerStop
  dsimp only
  split
  · exact .refl k s
  · split
    · exact .of_spires rfl
    · split
      · exact (stopSpire_only k s).trans (.of_spires rfl)
      · exact .refl k s

theorem powerStop_mode (hrole : s.role k ≠ .radioOwned) (howed : s.stopOwed k = false) (hmode : (s.spire k).seq.mode.stops) :
    ((powerStop k s).spire k).seq.mode = .stopped := by
  unfold powerStop
  dsimp only
  rw [if_neg hrole, howed, if_neg Bool.false_ne_true, if_pos (by rcases hmode with h | h | h <;> simp [h])]
  exact stopSpire_mode hmode

/-- A Spire's role depends on the fabric alone, which no work of a Spire touches. -/
theorem role_of_calm (h : t.calm = s.calm) (j : Nat) : t.role j = s.role j :=
  show t.calm.role j = s.calm.role j from congrArg (State.role · j) h

theorem stopOwed_of (hcalm : t.calm = s.calm) (hspire : t.spire k = s.spire k) : t.stopOwed k = s.stopOwed k := by
  unfold State.stopOwed
  rw [role_of_calm hcalm, hspire]

/-- The STOPs of a list of Spires leave the others. -/
theorem powerStops_other {l : List Nat} (h : k ∉ l) (s : State) : (l.foldl (fun t j => powerStop j t) s).spire k = s.spire k := by
  induction l generalizing s with
  | nil => rfl
  | cons a l ih =>
    obtain ⟨ha, hl⟩ := not_or.mp (fun h' => h (List.mem_cons.mpr h'))
    exact (ih hl _).trans (powerStop_only a s k ha)

/-- A Spire of the list that may be stopped is STOPPED. -/
theorem powerStops_mode {l : List Nat} (hl : l.Nodup) (hk : k ∈ l) (hrole : s.role k ≠ .radioOwned) (howed : s.stopOwed k = false)
    (hmode : (s.spire k).seq.mode.stops) : ((l.foldl (fun t j => powerStop j t) s).spire k).seq.mode = .stopped := by
  induction l generalizing s with
  | nil => cases hk
  | cons a l ih =>
    obtain ⟨hnot, hl⟩ := List.nodup_cons.mp hl
    rw [List.foldl_cons]
    by_cases ha : k = a
    · subst ha
      rw [powerStops_other hnot]
      exact powerStop_mode hrole howed hmode
    · have hsame : (powerStop a s).spire k = s.spire k := powerStop_only a s k ha
      have hcalm : (powerStop a s).calm = s.calm := powerStop_calm a s
      exact ih hl ((List.mem_cons.mp hk).resolve_left ha) (role_of_calm hcalm k ▸ hrole) ((stopOwed_of hcalm hsame).trans howed)
        (hsame ▸ hmode)

/-- What of the power manager neither stops nor replays of Spires change. -/
theorem calm_pwr (h : t.calm = s.calm) : t.pwr = { s.pwr with
    owed := t.pwr.owed, owedDome := t.pwr.owedDome, stopped := t.pwr.stopped, holds := t.pwr.holds } := by
  have hpwr : t.calm.pwr = s.calm.pwr := congrArg State.pwr h
  simp only [State.calm, PwrState.mk.injEq] at hpwr
  cases hs : s.pwr
  cases ht : t.pwr
  simp_all

/-- The stop's causes with a further one, and since when the samples are quiet. -/
def State.stopNoted (cause : Nat) (s : State) : State := s.modPwr (fun p => { p with
  causes := if p.estop then p.causes ||| BitVec.twoPow 5 cause else BitVec.twoPow 5 cause
  clearSince := if s.samplesQuiet then some s.clock.tick else none })

/-- A stop that starts: in force, and counted. -/
def State.stopStarted (cause : Nat) (s : State) : State :=
  (s.stopNoted cause).modPwr (fun p => { p with estop := true, estops := satInc p.estops })

theorem estopRaise_again (cause : Nat) (h : s.pwr.estop = true) : estopRaise cause s = s.stopNoted cause := if_pos h

theorem estopRaise_starts (cause : Nat) (h : s.pwr.estop = false) :
    estopRaise cause s = (List.range 32).foldl (fun t k => powerStop k t) (s.stopStarted cause) :=
  if_neg (by simp [h])

theorem powerStops_calm (l : List Nat) (s : State) : (l.foldl (fun t j => powerStop j t) s).calm = s.calm :=
  calm_foldl (fun t j => powerStop_calm j t) l s

/-- A stop that is raised leaves the samples and the level. -/
theorem estopRaise_samples (cause : Nat) (s : State) : (estopRaise cause s).pwr.samples = s.pwr.samples ∧
    (estopRaise cause s).pwr.sampleAt = s.pwr.sampleAt ∧ (estopRaise cause s).pwr.level = s.pwr.level := by
  cases h : s.pwr.estop
  · have hpwr := calm_pwr (powerStops_calm (List.range 32) (s.stopStarted cause))
    rw [estopRaise_starts cause h, hpwr]
    exact ⟨rfl, rfl, rfl⟩
  · rw [estopRaise_again cause h]
    exact ⟨rfl, rfl, rfl⟩

/-- Setting the level leaves the rest of the power manager, but for the holds that it counts. -/
theorem setLevel_pwr (n : Nat) (s : State) : (setLevel n s).pwr.level = n ∧ (setLevel n s).pwr.samples = s.pwr.samples ∧
    (setLevel n s).pwr.sampleAt = s.pwr.sampleAt ∧ (setLevel n s).pwr.estop = s.pwr.estop ∧ (setLevel n s).pins = s.pins := by
  unfold setLevel
  extract_lets s1
  have hcalm := calm_foldl (fun (t : State) k => replayIssue_calm k t.cyc t)
    ((List.range 32).filter (fun k => s.throttled k && !s1.throttled k)) s1
  have hpins := congrArg State.pins hcalm
  have hpwr := calm_pwr hcalm
  rw [hpwr]
  exact ⟨rfl, rfl, rfl, rfl, hpins⟩

/-! #### THROTTLE_SAMPLE -/

/-- The sample is formed, and the time since which the conditions are absent noted. -/
def State.sampled (s : State) : State :=
  noteQuiet (s.modPwr (fun x => { x with samples := (s.modulePower :: x.samples).take meanOf, sampleAt := s.sampleNo }))

theorem throttleSample_idle (h : ¬ (s.clk.done = true ∧ s.timeRuns = true ∧ s.sampleNo ≠ s.pwr.sampleAt)) : throttleSample s = s := by
  refine if_pos ?_
  by_cases hdone : s.clk.done = true <;> by_cases hruns : s.timeRuns = true <;> simp_all

/-- A sample that is due: a stop for the peak, one for the mean, and, with none in force, the level. -/
theorem throttleSample_due (hdone : s.clk.done = true) (hruns : s.timeRuns = true) (hnew : s.sampleNo ≠ s.pwr.sampleAt) :
    throttleSample s =
      (let u := if 2700 < s.modulePower then estopRaise causePeak s.sampled else s.sampled
       let v := if sustained ((s.modulePower :: s.pwr.samples).take meanOf) = true then estopRaise causeSustained u else u
       if v.pwr.estop = true then v else setLevel (v.nextLevel s.modulePower) v) := by
  unfold throttleSample
  rw [if_neg (by simp [hdone, hruns, hnew])]
  rfl

end

end Sys2Proof.Machine

namespace Sys2Proof.Machine
open Sys2Proof

section
variable {s : State}

/-- Is a sample above 2,700 W, or the mean above 2,400 W (R582)? -/
def State.samplePeaks (s : State) : Prop :=
  2700 < s.modulePower ∨ sustained ((s.modulePower :: s.pwr.samples).take meanOf) = true

/-- What a sample that is due leaves, before the level: the sample, and a stop where one is due or in force. -/
structure Sampled (s v : State) : Prop where
  samples  : v.pwr.samples = (s.modulePower :: s.pwr.samples).take meanOf
  sampleAt : v.pwr.sampleAt = s.sampleNo
  level    : v.pwr.level = s.pwr.level

theorem Sampled.raise {v : State} (h : Sampled s v) (cause : Nat) : Sampled s (estopRaise cause v) := by
  obtain ⟨hsamples, hat, hlevel⟩ := estopRaise_samples cause v
  exact ⟨hsamples.trans h.samples, hat.trans h.sampleAt, hlevel.trans h.level⟩

theorem Sampled.ite {v w : State} {c : Prop} [Decidable c] (hv : Sampled s v) (hw : Sampled s w) : Sampled s (if c then v else w) := by
  split <;> assumption

/-- A sample above the limits starts a stop; the level holds. -/
theorem throttleSample_peak (hdone : s.clk.done = true) (hruns : s.timeRuns = true) (hnew : s.sampleNo ≠ s.pwr.sampleAt)
    (h : s.samplePeaks ∨ s.pwr.estop = true) : Sampled s (throttleSample s) ∧ (throttleSample s).pwr.estop = true := by
  have hsampled : Sampled s s.sampled := ⟨rfl, rfl, rfl⟩
  rw [throttleSample_due hdone hruns hnew]
  extract_lets u v
  have hu : Sampled s u := (hsampled.raise causePeak).ite hsampled
  have hv : Sampled s v := (hu.raise causeSustained).ite hu
  have hestop : v.pwr.estop = true := by
    by_cases hmean : sustained ((s.modulePower :: s.pwr.samples).take meanOf) = true
    · exact (congrArg (fun x : State => x.pwr.estop) (if_pos hmean)).trans (estopRaise_shape _ _).1
    · have hvu : v = u := if_neg hmean
      rw [hvu]
      by_cases hpeak : 2700 < s.modulePower
      · exact (congrArg (fun x : State => x.pwr.estop) (if_pos hpeak)).trans (estopRaise_shape _ _).1
      · exact (congrArg (fun x : State => x.pwr.estop) (if_neg hpeak)).trans
          (h.resolve_left (fun hpeaks => hpeaks.elim hpeak hmean))
  rw [if_pos hestop]
  exact ⟨hv, hestop⟩

/-- A sample within the limits, with no stop in force, sets the level. -/
theorem throttleSample_level (hdone : s.clk.done = true) (hruns : s.timeRuns = true) (hnew : s.sampleNo ≠ s.pwr.sampleAt)
    (hpeaks : ¬ s.samplePeaks) (hestop : s.pwr.estop = false) :
    throttleSample s = setLevel (s.nextLevel s.modulePower) s.sampled := by
  obtain ⟨hpeak, hmean⟩ := not_or.mp hpeaks
  have hstill : ¬ s.sampled.pwr.estop = true := by
    rw [show s.sampled.pwr.estop = s.pwr.estop from rfl, hestop]
    exact Bool.false_ne_true
  rw [throttleSample_due hdone hruns hnew]
  dsimp only
  rw [if_neg hpeak, if_neg hmean, if_neg hstill]
  rfl

/-! #### VR_ALERT and the end of a stop -/

/-- VR_ALERT_N is low. -/
def State.alerted (s : State) : State := { s with pins := { s.pins with vrAlertN := false } }

theorem vrAlert_early (h : s.clk.done = false) : vrAlert s = s.alerted := if_neg (by simp [h])

theorem vrAlert_raises (h : s.clk.done = true) : vrAlert s = estopRaise causeAlert s.alerted := if_pos h

/-- With a stop in force the alert joins its causes. -/
theorem vrAlert_again (hdone : s.clk.done = true) (hin : s.pwr.estop = true) : vrAlert s = s.alerted.stopNoted causeAlert :=
  (vrAlert_raises hdone).trans (estopRaise_again causeAlert hin)

/-- With none in force the alert starts a stop of every Spire that may be stopped. -/
theorem vrAlert_starts (hdone : s.clk.done = true) (hout : s.pwr.estop = false) :
    vrAlert s = (List.range 32).foldl (fun t k => powerStop k t) (s.alerted.stopStarted causeAlert) :=
  (vrAlert_raises hdone).trans (estopRaise_starts causeAlert hout)

theorem estopEnd_waits (h : s.pwr.estop = false ∨ s.samplesQuiet = false ∨ ∀ t, s.pwr.clearSince = some t → s.clock.tick < t + 170000) :
    estopEnd s = s := by
  unfold estopEnd
  split
  next => rfl
  next t hclear =>
    refine if_neg (fun hon => ?_)
    simp only [Bool.and_eq_true, decide_eq_true_eq] at hon
    obtain ⟨⟨hestop, hquiet⟩, hsince⟩ := hon
    rcases h with h | h | h
    · exact Bool.false_ne_true (h.symm.trans hestop)
    · exact Bool.false_ne_true (h.symm.trans hquiet)
    · exact absurd (h t hclear) (Nat.not_lt.mpr hsince)

/-- The state in which a stop has ended and the level is to be set (R583). -/
def State.stopEnded (s : State) : State := { s with
  pins := { s.pins with vrAlertN := true, powerFailN := true }
  pwr := { s.pwr with estop := false, clearSince := none, stopped := [], owed := [] } }

theorem estopEnd_ends {t : Nat} (hclear : s.pwr.clearSince = some t) (hestop : s.pwr.estop = true) (hquiet : s.samplesQuiet = true)
    (hsince : t + 170000 ≤ s.clock.tick) :
    estopEnd s = s.pwr.stopped.foldl (fun u k => resumeSpire k u) (setLevel (min 16 s.throttleMax) s.stopEnded) := by
  unfold estopEnd
  rw [hclear]
  exact if_pos (by rw [hestop, hquiet, decide_eq_true (show t + tick100us ≤ s.clock.tick from hsince)]; rfl)

/-- Spires that go on leave the stop, the level and the pins. -/
theorem resumeSpires_keep (l : List Nat) (s : State) :
    let u := l.foldl (fun u k => resumeSpire k u) s
    u.pwr.estop = s.pwr.estop ∧ u.pwr.level = s.pwr.level ∧ u.pins = s.pins := by
  have hcalm := calm_foldl (fun (t : State) k => resumeSpire_calm k t) l s
  have hpins := congrArg State.pins hcalm
  have hpwr := calm_pwr hcalm
  dsimp only
  rw [hpwr]
  exact ⟨rfl, rfl, hpins⟩

/-! ### Pins and supplies (R50, R291, R292, R597, R599) -/

theorem journalDue_iff : s.journalDue = true ↔ s.flash.noProgram = true ∧ s.flash.journal = false := by simp [State.journalDue]

theorem heldReset_waits (h : s.pins.resetHeld = false ∨ s.flash.noProgram = true ∧ s.flash.journal = false) : heldReset s = s :=
  if_neg (by rcases h with h | h <;> simp [State.journalDue, h])

theorem heldReset_resets (hheld : s.pins.resetHeld = true) (hdue : ¬ (s.flash.noProgram = true ∧ s.flash.journal = false)) :
    heldReset s = chipReset .resetPin s :=
  if_pos (by rw [hheld, eq_false_of_ne_true (mt journalDue_iff.mp hdue)]; rfl)

/-- RESET_N is low, for long enough for a reset. -/
def State.resetLow (s : State) : State := { s with pins := { s.pins with resetN := false, resetHeld := true } }

theorem resetPinAssert_long {us : Nat} (h : 10 ≤ us) : resetPinAssert us s = heldReset s.resetLow := if_pos h

theorem resetPinAssert_open {us : Nat} (hlow : 0 < us) (hhigh : us < 10) : resetPinAssert us s =
    if Config.freeNat s.free % 2 = 1 then heldReset s.useFree.resetLow else s.useFree := by
  unfold resetPinAssert
  dsimp only
  rw [if_neg (by omega), if_neg (by omega)]
  rfl

/-- RESET_N low in the state `u`: the reset waits for the journal or takes place. -/
theorem resetPin_resets {us : Nat} {u : State} (h : resetPinAssert us s = heldReset u.resetLow) (hflash : u.flash = s.flash) :
    (s.flash.noProgram = true ∧ s.flash.journal = false → exec (.resetPinAssert us) s = .next u.resetLow) ∧
    (¬ (s.flash.noProgram = true ∧ s.flash.journal = false) → ∃ v, exec (.resetPinAssert us) s = .next v ∧
      v.clk = { ClkState.reset with pendingReset := some .resetPin } ∧ v.spires = State.reset.spires ∧
      v.pins.resetN = false ∧ v.pins.resetHeld = false ∧ v.free = u.free) := by
  rw [← hflash]
  exact ⟨fun hdue => next_congr (h.trans (heldReset_waits (.inr hdue))),
    fun hdue => ⟨_, next_congr (h.trans (heldReset_resets rfl hdue)), rfl, rfl, rfl, rfl, rfl⟩⟩

/-- A power loss keeps no dump (R533). -/
theorem keptStacks_powerOn (s : State) : s.keptStacks .powerOn = Tab.empty := by
  unfold State.keptStacks
  split <;> rfl

/-- Without a STAGE in progress a reset keeps both banks. -/
theorem dome_keep_banks {d : DomeState} (cause : ResetCause) (h : d.stage = none) :
    (d.keep cause).bankA = d.bankA ∧ (d.keep cause).bankBImg = d.bankBImg := by
  unfold DomeState.keep
  rw [h]
  exact ⟨rfl, rfl⟩

end

/-- What an outstanding request that has been sent for the last time leaves: its rail at FAULT if present, nothing waiting for it. -/
theorem avsFail_faults {s : State} {q : AvsRequest} (h : 3 ≤ q.tries) :
    ((s.rail q.rail).present = true → (avsFail q s).rail q.rail = { s.rail q.rail with fault := true, settle := none }) ∧
    ((s.rail q.rail).present = false → (avsFail q s).rail q.rail = s.rail q.rail) ∧
    (∀ r, r ≠ q.rail → (avsFail q s).rail r = s.rail r) ∧
    (∀ y ∈ (avsFail q s).pwr.queue, y ∈ s.pwr.queue ∧ y.1 ≠ q.rail) ∧ (avsFail q s).spires = s.spires := by
  have hsent := avsFail_last (s := s) h
  refine ⟨fun hp => ?_, fun hp => ?_, fun r hr => ?_, fun y hy => ?_, hsent.spires⟩
  · rw [hsent.rail, rail_railFailed, if_pos hp]
  · rw [hsent.rail, rail_railFailed, if_neg (by simp [hp])]
  · rw [hsent.rail, rail_railFailed_ne hr]
  · have hin : y ∈ s.pwr.queue.filter (fun x => x.1 != q.rail) := hsent.queue y hy
    simpa using hin

/-- What an acknowledged request leaves: of its rail what it asked for, every other rail as it was. -/
theorem avsAnswered_spec (q : AvsRequest) (value : Nat) (s : State) :
    let x := s.rail q.rail
    let v := avsSend (avsDone q value s)
    (∀ r, r ≠ q.rail → v.rail r = s.rail r) ∧ v.spires = s.spires ∧ (v.rail q.rail).present = true ∧
      (∀ mv, q.ask = .write mv → (v.rail q.rail).setpoint = BitVec.ofNat 12 mv ∧ (v.rail q.rail).settle = some s.clock.tick ∧
        (v.rail q.rail).voltage = x.voltage) ∧
      (q.ask = .readCurrent → (v.rail q.rail).current = BitVec.ofNat 16 value ∧ (v.rail q.rail).voltage = x.voltage) ∧
      (q.ask = .readVoltage → (v.rail q.rail).voltage = BitVec.ofNat 16 value ∧ (v.rail q.rail).current = x.current ∧
        (x.present = true → value ≤ x.setpoint.toNat + 5 → x.setpoint.toNat ≤ value + 5 → (v.rail q.rail).settle = none)) := by
  obtain ⟨hspires, hrail, hother⟩ := avsDone_eq q value s
  obtain ⟨-, hvoltage, hcurrent, hpresent⟩ := Rail.found_keeps q.rail (s.rail q.rail)
  have hsent := avsSend_sent (avsDone q value s)
  dsimp only
  rw [(hsent.rail q.rail).trans hrail]
  refine ⟨fun r hr => (hsent.rail r).trans (hother r hr), hsent.spires.trans hspires, Rail.answered_present _ _ _ _,
    fun mv hask => ?_, fun hask => ?_, fun hask => ?_⟩ <;> rw [Rail.answered, hask]
  · exact ⟨rfl, rfl, hvoltage⟩
  · exact ⟨rfl, hvoltage⟩
  · dsimp only
    refine ⟨?_, ?_, fun hp hlo hhi => Rail.settled_near _ ?_ ?_⟩
    · rw [Rail.settled_keeps]
    · rw [Rail.settled_keeps]
      exact hcurrent
    · rw [hpresent hp]
      exact hlo
    · rw [hpresent hp]
      exact hhi

/-- Settles O49: one lemma per event of the regulators, the throttle, the stops and the pins. -/
theorem regulatorsThrottleStopsAndPins : Obligations.RegulatorsThrottleStopsAndPins := by
  refine ⟨fun s ok ack value => ⟨fun hreq => ?busIdle, fun q hreq => ?bus⟩, fun s => ⟨?early, ?busy, ?free⟩, fun slack v => ?target,
    fun s => ⟨?noSample, fun ⟨hdone, hruns, hnew⟩ => ?sample⟩, fun s => ⟨?alertEarly, fun hdone => ?alert⟩, fun s => ⟨?endWaits, ?ends⟩,
    fun s us => ?resetPin, fun s temp => ?loss⟩
  case busIdle => exact ⟨next_congr (avsResponse_idle hreq ok ack value), next_congr (avsTimeout_idle hreq)⟩
  case bus =>
    refine ⟨fun hok hack => ?done, fun hbad => ⟨fun h => ?_, fun h => ⟨_, next_congr (avsResponse_fails hreq hbad value), avsFail_faults h⟩⟩,
      fun hlate => ?late, fun hsoon => ?_⟩
    case done =>
      subst hok hack
      exact ⟨_, next_congr (avsResponse_done hreq value), avsAnswered_spec q value s⟩
    · exact next_congr ((avsResponse_fails hreq hbad value).trans (avsFail_again h))
    case late =>
      have htimeout := (avsTimeout_waiting hreq).trans (if_pos hlate)
      exact ⟨fun h => next_congr (htimeout.trans (avsFail_again h)), fun h => ⟨_, next_congr htimeout, avsFail_faults h⟩⟩
    · exact next_congr ((avsTimeout_waiting hreq).trans (if_neg (Nat.not_le.mpr hsoon)))
  case early => exact fun hnot => next_congr (avsLoopTick_early hnot)
  case busy =>
    rintro ⟨hchip, hdue⟩ hbusy
    obtain ⟨q, hloop, hasks⟩ := avsLoopTick_due hchip hdue
    have hpwr := looped_pwr s q
    have hsame : avsSend (s.looped q) = s.looped q := avsSend_busy (by rw [hpwr]; exact hbusy)
    refine ⟨_, next_congr (hloop.trans hsame), ?_, ?_, looped_spires s q, fun y hy => ?_, fun r g hr hmay hg hne => ?_⟩ <;> rw [hpwr]
    · exact List.mem_append_left _ hy
    · exact List.mem_append_right _ (hasks r g hr hmay hg hne)
  case free =>
    rintro ⟨hchip, hdue⟩ -
    obtain ⟨q, hloop, -⟩ := avsLoopTick_due hchip hdue
    have hpwr := looped_pwr s q
    have hsent := avsSend_sent (s.looped q)
    exact ⟨_, next_congr hloop, by rw [hsent.loopAt, hpwr], by rw [hsent.rails, hpwr], hsent.spires.trans (looped_spires s q)⟩
  case target =>
    rw [loopTarget_fixed, loopTarget_stretch]
    refine ⟨fun h => if_pos h, fun h => ?_, fun h h' => ?_, fun h => if_pos h, fun h => ?_, fun h h' => ?_⟩
    · rw [if_neg (by omega), if_pos h]
    · rw [if_neg (by omega), if_neg (by omega)]
    · rw [if_neg (by omega), if_pos h]
    · rw [if_neg (by omega), if_neg (by omega)]
  case noSample => exact fun hnot => next_congr (throttleSample_idle hnot)
  case sample =>
    have hpeaks : s.samplePeaks ↔ (2700 < s.modulePower ∨
        2400 * ((s.modulePower :: s.pwr.samples).take 100).length < ((s.modulePower :: s.pwr.samples).take 100).sum) := by
      exact or_congr_right decide_eq_true_iff
    by_cases h : s.samplePeaks ∨ s.pwr.estop = true
    · obtain ⟨hsampled, hestop⟩ := throttleSample_peak hdone hruns hnew h
      refine ⟨_, rfl, hsampled.samples, hsampled.sampleAt, fun _ => hestop, fun _ => hestop, fun _ => hsampled.level, fun hnot hnone => ?_⟩
      exact absurd h (not_or.mpr ⟨mt hpeaks.mp hnot, by simp [hnone]⟩)
    · obtain ⟨hnot, hnone⟩ := not_or.mp h
      have hnone := eq_false_of_ne_true hnone
      obtain ⟨hlevel, hsamples, hat, hestop, -⟩ := setLevel_pwr (s.nextLevel s.modulePower) s.sampled
      have hrun := throttleSample_level hdone hruns hnew hnot hnone
      refine ⟨_, next_congr hrun, hsamples, hat, fun hpeak => absurd (hpeaks.mpr hpeak) hnot, fun hin => absurd hin (by simp [hnone]),
        fun hin => absurd (hestop.symm.trans hin) (by simp [State.sampled, noteQuiet, State.modPwr, hnone]), fun _ _ => ⟨hestop.trans hnone, hlevel⟩⟩
  case alertEarly => exact fun hnot => next_congr (vrAlert_early hnot)
  case alert =>
    obtain ⟨hestop, -, -, -, hpins⟩ := estopRaise_shape causeAlert s.alerted
    have hraises := vrAlert_raises hdone
    refine ⟨_, rfl, congrArg PinState.vrAlertN ((congrArg State.pins hraises).trans hpins),
      (congrArg (fun x : State => x.pwr.estop) hraises).trans hestop, fun hin => ?_, fun hout => ?_⟩
    · rw [vrAlert_again hdone hin]
      exact ⟨if_pos hin, rfl, rfl⟩
    · have hpwr := calm_pwr (powerStops_calm (List.range 32) (s.alerted.stopStarted causeAlert))
      rw [vrAlert_starts hdone hout]
      refine ⟨?_, ?_, fun k hrole howed hmode => powerStops_mode List.nodup_range (List.mem_range.mpr k.isLt) hrole howed hmode⟩
      · rw [hpwr]
        exact if_neg (by simp [State.alerted, hout])
      · rw [hpwr]
        rfl
  case endWaits => exact fun h => next_congr (estopEnd_waits h)
  case ends =>
    intro t hclear hestop hquiet hsince
    obtain ⟨hstop, hlevel, hpins⟩ := resumeSpires_keep s.pwr.stopped (setLevel (min 16 s.throttleMax) s.stopEnded)
    obtain ⟨hlevel', -, -, hstop', hpins'⟩ := setLevel_pwr (min 16 s.throttleMax) s.stopEnded
    have hpins := hpins.trans hpins'
    exact ⟨_, next_congr (estopEnd_ends hclear hestop hquiet hsince), hstop.trans hstop', hlevel.trans hlevel',
      congrArg PinState.vrAlertN hpins, congrArg PinState.powerFailN hpins⟩
  case resetPin =>
    refine ⟨fun h => ?_, fun h => resetPin_resets (resetPinAssert_long h) rfl, fun hlow hhigh => ⟨fun hodd => ?_, fun heven => ?_⟩, fun t =>
      ⟨heldReset_waits, fun hheld hfree => heldReset_resets hheld ?_, fun n x => rfl⟩⟩
    · subst h
      rfl
    · exact resetPin_resets ((resetPinAssert_open hlow hhigh).trans (if_pos hodd)) rfl
    · exact next_congr ((resetPinAssert_open hlow hhigh).trans (if_neg (by omega)))
    · rcases hfree with h | h <;> simp [h]
  case loss =>
    refine ⟨_, rfl, rfl, rfl, keptStacks_powerOn s, rfl, rfl, rfl, rfl, rfl, fun hstage => ?_, rfl, rfl, rfl, fun h => next_congr (if_pos h),
      fun h => next_congr (if_neg (not_le.mpr h))⟩
    exact dome_keep_banks .powerOn hstage

end Sys2Proof.Machine

namespace Sys2Proof.Machine
open Sys2Proof

/-! ### Gating of domains (R567, R568, Table 17.2) -/

theorem bitAt_eq_testBit (x i : Nat) : bitAt x i = x.testBit i := by
  rw [Nat.testBit_eq_decide_div_mod_eq, bitAt]
  exact beq_eq_decide _ _

theorem mem_maskDomains {mask d : Nat} : d ∈ maskDomains mask ↔ d < 30 ∧ mask.testBit d = true := by
  simp [maskDomains, bitAt_eq_testBit]

theorem maskDomains_nodup (mask : Nat) : (maskDomains mask).Nodup := List.nodup_range.filter _

theorem mem_tileRange {first count n : Nat} : n ∈ tileRange first count ↔ first ≤ n ∧ n < first + count := by
  simp only [tileRange, List.mem_map, List.mem_range]
  exact ⟨fun ⟨i, hi, hn⟩ => by omega, fun ⟨hlo, hhi⟩ => ⟨n - first, by omega, by omega⟩⟩

section
variable {s t u : State} {d k n : Nat}

/-! #### Lanes that go DOWN -/

/-- Lanes that go DOWN one after another: of the fabric, each has its own state, and the others are as they were. -/
theorem lanesDown_spec {l : List Nat} (hl : l.Nodup) (s : State) :
    let t := l.foldl (fun t n => laneOut n .down 0 t) s
    LaneScope s t ∧ (∀ n, n ∉ l → t.lane n = s.lane n) ∧
      ∀ n, n ∈ l → (t.lane n).regs.state = .down ∧ (t.lane n).regs.enable = (s.lane n).regs.enable := by
  induction l generalizing s with
  | nil => exact ⟨.refl s, fun _ _ => rfl, fun _ h => nomatch h⟩
  | cons a l ih =>
    obtain ⟨hnot, hl⟩ := List.nodup_cons.mp hl
    obtain ⟨hscope, hother, -, hlane⟩ := laneOut_spec a .down 0 s
    obtain ⟨hscope', hother', hdown⟩ := ih hl (laneOut a .down 0 s)
    refine ⟨hscope.trans hscope', fun n hn => ?_, fun n hn => ?_⟩
    · obtain ⟨ha, hn⟩ := not_or.mp (fun h => hn (List.mem_cons.mpr h))
      exact (hother' n hn).trans (hother n ha)
    · by_cases ha : n = a
      · subst ha
        rw [List.foldl_cons, hother' n hnot, hlane]
        exact ⟨rfl, rfl⟩
      · have hn := (List.mem_cons.mp hn).resolve_left ha
        rw [List.foldl_cons, ← hother n ha]
        exact hdown n hn

theorem fabricLanes_nodup (d : Nat) : (fabricLanes d).Nodup := tileRange_nodup _ _

theorem mem_fabricLanes (hd : 20 ≤ d) : n ∈ fabricLanes d ↔ d = 20 + n / 32 := by
  rw [fabricLanes, mem_tileRange]
  omega

theorem lanesOff_scope (d : Nat) (s : State) : LaneScope s (lanesOff d s) :=
  (lanesDown_spec ((fabricLanes_nodup d).filter _) s).1

theorem lanesOff_other (h : n ∉ fabricLanes d ∨ (s.lane n).regs.state = .disabled) : (lanesOff d s).lane n = s.lane n :=
  (lanesDown_spec ((fabricLanes_nodup d).filter _) s).2.1 n (by
    rintro hin
    obtain ⟨hin, hon⟩ := List.mem_filter.mp hin
    exact h.elim (· hin) (by simpa using hon))

theorem lanesOff_down (hin : n ∈ fabricLanes d) (hon : (s.lane n).regs.state ≠ .disabled) :
    ((lanesOff d s).lane n).regs.state = .down ∧ ((lanesOff d s).lane n).regs.enable = (s.lane n).regs.enable :=
  (lanesDown_spec ((fabricLanes_nodup d).filter _) s).2.2 n (List.mem_filter.mpr ⟨hin, by simpa using hon⟩)

/-- Changes of several lanes' registers, none named twice. -/
theorem modLanes_spec {l : List Nat} (hl : l.Nodup) (f : LaneRegs → LaneRegs) (s : State) :
    let t := l.foldl (fun t n => t.modLaneRegs n f) s
    LaneScope s t ∧ (∀ n, n ∉ l → t.lane n = s.lane n) ∧ ∀ n, n ∈ l → (t.lane n).regs = f (s.lane n).regs := by
  induction l generalizing s with
  | nil => exact ⟨.refl s, fun _ _ => rfl, fun _ h => nomatch h⟩
  | cons a l ih =>
    obtain ⟨hnot, hl⟩ := List.nodup_cons.mp hl
    obtain ⟨hscope, hother, hchanged⟩ := ih hl (s.modLaneRegs a f)
    refine ⟨(LaneScope.modLaneRegs s a f).trans hscope, fun n hn => ?_, fun n hn => ?_⟩
    · obtain ⟨ha, hn⟩ := not_or.mp (fun h => hn (List.mem_cons.mpr h))
      exact (hother n hn).trans (lane_modLaneRegs_ne s f ha)
    · by_cases ha : n = a
      · subst ha
        rw [List.foldl_cons, hother n hnot, lane_modLaneRegs]
      · rw [List.foldl_cons, ← lane_modLaneRegs_ne s f ha]
        exact hchanged n ((List.mem_cons.mp hn).resolve_left ha)

/-- What a gated fabric domain leaves of a lane's registers. -/
def LaneRegs.lost (r : LaneRegs) : LaneRegs :=
  { LaneRegs.reset with state := if r.state = .disabled then .disabled else .down, enable := r.enable }

theorem loseFabric_scope (d : Nat) (s : State) : LaneScope s (loseFabric d s) :=
  (lanesOff_scope d s).trans (modLanes_spec (fabricLanes_nodup d) LaneRegs.gated (lanesOff d s)).1

theorem loseFabric_other (h : n ∉ fabricLanes d) : (loseFabric d s).lane n = s.lane n :=
  ((modLanes_spec (fabricLanes_nodup d) LaneRegs.gated (lanesOff d s)).2.1 n h).trans (lanesOff_other (.inl h))

theorem loseFabric_lost (h : n ∈ fabricLanes d) : ((loseFabric d s).lane n).regs = (s.lane n).regs.lost := by
  refine ((modLanes_spec (fabricLanes_nodup d) LaneRegs.gated (lanesOff d s)).2.2 n h).trans ?_
  unfold LaneRegs.lost LaneRegs.gated
  by_cases hoff : (s.lane n).regs.state = .disabled
  · rw [lanesOff_other (.inr hoff), if_pos hoff, hoff]
  · obtain ⟨hstate, henable⟩ := lanesOff_down h hoff
    rw [hstate, henable, if_neg hoff]

/-! #### A Tower's common domain -/

/-- A Spire whose Tower's common domain is off has lost the crossbar's registers, unless it is FENCED. -/
def Spire.crossbarLost (p : Spire) : Spire := if p.seq.mode = .fenced then p else { p with xb := XbState.reset }

/-- What a change of the controllers' counts and of the Spires leaves as it was: but for these, everything, and the stacks' contents. -/
structure TowerScope (s t : State) : Prop where
  frame : t = { s with hbm := t.hbm, spires := t.spires }
  mem   : ∀ h, (t.stack h).mem = (s.stack h).mem

theorem TowerScope.refl (s : State) : TowerScope s s := ⟨rfl, fun _ => rfl⟩

theorem TowerScope.trans (h : TowerScope s t) (g : TowerScope t u) : TowerScope s u :=
  ⟨by rw [g.frame, h.frame], fun x => (g.mem x).trans (h.mem x)⟩

theorem TowerScope.lane (h : TowerScope s t) (n : Nat) : t.lane n = s.lane n :=
  lane_of_lanes (by rw [h.frame]) n

theorem TowerScope.foldl {α : Type} {f : State → α → State} (h : ∀ t a, TowerScope t (f t a)) (l : List α) (s : State) :
    TowerScope s (l.foldl f s) := by
  induction l generalizing s with
  | nil => exact .refl s
  | cons a l ih => exact (h s a).trans (ih _)

theorem TowerScope.modStack (f : HbmStack → HbmStack) (hf : ∀ x, (f x).mem = x.mem) (c : Nat) (s : State) : TowerScope s (s.modStack c f) := by
  refine ⟨rfl, fun h => ?_⟩
  show ((s.hbm.modify HbmStack.reset c f).get HbmStack.reset h).mem = _
  rw [Tab.get_modify]
  split
  next hc => subst hc; exact hf _
  next => rfl

theorem TowerScope.modSpire (k : Nat) (f : Spire → Spire) (s : State) : TowerScope s (s.modSpire k f) := ⟨rfl, fun _ => rfl⟩

/-- The counts of Tower `t`'s controllers are lost. -/
def loseCounts (t : Nat) (s : State) : State := (List.range 6).foldl (fun u c => u.modStack (6 * t + c) (fun x => { x with
  symCorr := 0, symUncorr := 0, openWaits := 0 })) s

/-- One Spire's crossbar registers are lost. -/
def loseCrossbar (u : State) (k : Nat) : State := if (u.spire k).seq.mode = .fenced then u else u.modSpire k (fun p => { p with xb := XbState.reset })

theorem loseTowerCommon_eq (t : Nat) (s : State) : loseTowerCommon t s = (tileRange (8 * t) 8).foldl loseCrossbar (loseCounts t s) := rfl

theorem loseCrossbar_spire (s : State) (k : Nat) : (loseCrossbar s k).spire k = (s.spire k).crossbarLost := by
  unfold loseCrossbar Spire.crossbarLost
  split
  · rfl
  · exact spire_modSpire _ _ _

theorem loseCrossbar_only (k : Nat) (s : State) : OnlySpire k s (loseCrossbar s k) := by
  unfold loseCrossbar
  split
  · exact .refl k s
  · exact .modSpire k _ s

theorem loseCrossbar_scope (s : State) (k : Nat) : TowerScope s (loseCrossbar s k) := by
  unfold loseCrossbar
  split
  · exact .refl s
  · exact .modSpire k _ s

theorem loseCrossbars_spire {l : List Nat} (hl : l.Nodup) (s : State) (k : Nat) :
    (l.foldl loseCrossbar s).spire k = if k ∈ l then (s.spire k).crossbarLost else s.spire k := by
  induction l generalizing s with
  | nil => rfl
  | cons a l ih =>
    obtain ⟨hnot, hl⟩ := List.nodup_cons.mp hl
    rw [List.foldl_cons, ih hl]
    by_cases ha : k = a
    · subst ha
      rw [if_neg hnot, if_pos List.mem_cons_self, loseCrossbar_spire]
    · simp only [loseCrossbar_only a s k ha, List.mem_cons, ha, false_or]

theorem loseCounts_scope (t : Nat) (s : State) : TowerScope s (loseCounts t s) :=
  .foldl (f := fun u c => u.modStack (6 * t + c) (fun x => { x with symCorr := 0, symUncorr := 0, openWaits := 0 }))
    (fun u c => .modStack (fun x => { x with symCorr := 0, symUncorr := 0, openWaits := 0 }) (fun _ => rfl) (6 * t + c) u) _ s

theorem loseCounts_spires (t : Nat) (s : State) : (loseCounts t s).spires = s.spires :=
  foldl_keeps State.spires _ _ _ (fun _ _ => rfl)

theorem loseTowerCommon_scope (t : Nat) (s : State) : TowerScope s (loseTowerCommon t s) :=
  (loseCounts_scope t s).trans (.foldl loseCrossbar_scope _ _)

theorem loseTowerCommon_spire (t k : Nat) (s : State) : (loseTowerCommon t s).spire k =
    if k / 8 = t then (s.spire k).crossbarLost else s.spire k := by
  have hmem : k ∈ tileRange (8 * t) 8 ↔ k / 8 = t := by rw [mem_tileRange]; omega
  rw [loseTowerCommon_eq, loseCrossbars_spire (tileRange_nodup _ _)]
  simp only [hmem, spire_of_spires (loseCounts_spires t s)]

/-! #### One domain -/

/-- What the loss of a domain leaves of the power manager, the time unit, the clocks, the tiers and the stacks' contents. -/
structure GateScope (s t : State) : Prop where
  pwr   : t.pwr = s.pwr
  time  : t.time = s.time
  clk   : t.clk = s.clk
  tier  : t.tier = s.tier
  flash : t.flash = s.flash
  mem   : ∀ h, (t.stack h).mem = (s.stack h).mem

theorem TowerScope.gate (h : TowerScope s t) : GateScope s t := by
  have hframe := h.frame
  refine ⟨?_, ?_, ?_, ?_, ?_, h.mem⟩ <;> rw [hframe]

theorem LaneScope.spires (h : LaneScope s t) : t.spires = s.spires := by
  unfold LaneScope at h
  rw [h]

theorem LaneScope.gate (h : LaneScope s t) : GateScope s t := by
  unfold LaneScope at h
  refine ⟨?_, ?_, ?_, ?_, ?_, fun x => ?_⟩ <;> rw [h]
  rfl

theorem loseDomain_pair (hd : d < 16) :
    loseDomain d s = (s.modSpire (2 * d) Spire.powerOff).modSpire (2 * d + 1) Spire.powerOff := if_pos hd

theorem loseDomain_tower (hlo : 16 ≤ d) (hhi : d < 20) : loseDomain d s = loseTowerCommon (d - 16) s := by
  rw [loseDomain, if_neg (by omega), if_pos hhi]

theorem loseDomain_fabric (hlo : 20 ≤ d) (hhi : d < 22) : loseDomain d s = loseFabric d s := by
  rw [loseDomain, if_neg (by omega), if_neg (by omega), if_pos hhi]

/-- The domains above the fabric's lose what lies in the radio block or in the gateway. -/
theorem loseDomain_above (hd : 22 ≤ d) : ∃ x y, loseDomain d s = { s with radio := x, rm := y } := by
  rw [loseDomain, if_neg (by omega), if_neg (by omega), if_neg (by omega)]
  (repeat' split) <;> exact ⟨_, _, rfl⟩

theorem domain_range (d : Nat) : d < 16 ∨ (16 ≤ d ∧ d < 20) ∨ (20 ≤ d ∧ d < 22) ∨ 22 ≤ d := by omega

theorem loseDomain_scope (d : Nat) (s : State) : GateScope s (loseDomain d s) := by
  rcases domain_range d with hd | ⟨hlo, hhi⟩ | ⟨hlo, hhi⟩ | hd
  · rw [loseDomain_pair hd]
    exact ((TowerScope.modSpire _ _ s).trans (.modSpire _ _ _)).gate
  · rw [loseDomain_tower hlo hhi]
    exact (loseTowerCommon_scope _ s).gate
  · rw [loseDomain_fabric hlo hhi]
    exact (loseFabric_scope d s).gate
  · obtain ⟨x, y, h⟩ := loseDomain_above (s := s) hd
    rw [h]
    exact ⟨rfl, rfl, rfl, rfl, rfl, fun _ => rfl⟩

/-- What the loss of domain `d` makes of Spire `k`. -/
def lostSpire (d k : Nat) (p : Spire) : Spire :=
  if d < 16 ∧ d = k / 2 then p.powerOff else if 16 ≤ d ∧ d < 20 ∧ d = 16 + k / 8 then p.crossbarLost else p

theorem loseDomain_spire (d k : Nat) (s : State) : (loseDomain d s).spire k = lostSpire d k (s.spire k) := by
  unfold lostSpire
  rcases domain_range d with hd | ⟨hlo, hhi⟩ | ⟨hlo, hhi⟩ | hd
  · rw [loseDomain_pair hd]
    by_cases hodd : k = 2 * d + 1
    · subst hodd
      rw [spire_modSpire, spire_modSpire_ne _ _ (by omega), if_pos (by omega)]
    · rw [spire_modSpire_ne _ _ hodd]
      by_cases heven : k = 2 * d
      · subst heven
        rw [spire_modSpire, if_pos (by omega)]
      · rw [spire_modSpire_ne _ _ heven, if_neg (by omega), if_neg (by omega)]
  · have htower : d = 16 + k / 8 ↔ k / 8 = d - 16 := by omega
    rw [loseDomain_tower hlo hhi, loseTowerCommon_spire, if_neg (show ¬ (d < 16 ∧ d = k / 2) by omega)]
    simp only [hlo, hhi, true_and, htower]
  · rw [loseDomain_fabric hlo hhi, spire_of_spires (loseFabric_scope d s).spires, if_neg (by omega), if_neg (by omega)]
  · obtain ⟨x, y, h⟩ := loseDomain_above (s := s) hd
    rw [h, if_neg (by omega), if_neg (by omega)]
    rfl

theorem loseDomain_lane (d n : Nat) (hn : n < 64) (s : State) : ((loseDomain d s).lane n).regs =
    if d = 20 + n / 32 then (s.lane n).regs.lost else (s.lane n).regs := by
  rcases domain_range d with hd | ⟨hlo, hhi⟩ | ⟨hlo, hhi⟩ | hd
  · rw [loseDomain_pair hd, if_neg (by omega)]
    rfl
  · rw [loseDomain_tower hlo hhi, if_neg (by omega), (loseTowerCommon_scope (d - 16) s).lane]
  · have hmem := mem_fabricLanes (d := d) (n := n) hlo
    rw [loseDomain_fabric hlo hhi]
    split
    next h => exact loseFabric_lost (hmem.mpr h)
    next h => rw [loseFabric_other (mt hmem.mp h)]
  · obtain ⟨x, y, h⟩ := loseDomain_above (s := s) hd
    rw [h, if_neg (by omega)]
    rfl

/-! #### PWR_GATE -/

/-- Domain `d` is off. -/
def State.domainOff (d : Nat) (s : State) : State := s.modPwr (fun p => { p with domains := p.domains &&& ~~~BitVec.twoPow 30 d })

theorem gateDomain_on (h : s.pwr.domains.getLsbD d = true) : gateDomain s d = loseDomain d (s.domainOff d) := if_pos h

theorem gateDomain_off (h : s.pwr.domains.getLsbD d = false) : gateDomain s d = s := if_neg (by simp [h])

theorem gateDomain_domains (s : State) (d e : Nat) : (gateDomain s d).pwr.domains.getLsbD e = (s.pwr.domains.getLsbD e && decide (e ≠ d)) := by
  cases h : s.pwr.domains.getLsbD d
  · rw [gateDomain_off h]
    by_cases he : e = d
    · subst he
      rw [h]
      rfl
    · simp [he]
  · rw [gateDomain_on h, (loseDomain_scope d _).pwr]
    show (s.pwr.domains &&& ~~~BitVec.twoPow 30 d).getLsbD e = _
    by_cases he : e < 30
    · simp [he, eq_comm]
    · simp [BitVec.getLsbD_of_ge _ _ (Nat.not_lt.mp he)]

/-- What gating of domains leaves: of the power manager all but the domains, the time unit, the clocks, the tiers, the stacks' contents. -/
structure GatedScope (s t : State) : Prop where
  pwr   : t.pwr = { s.pwr with domains := t.pwr.domains }
  time  : t.time = s.time
  clk   : t.clk = s.clk
  tier  : t.tier = s.tier
  flash : t.flash = s.flash
  mem   : ∀ h, (t.stack h).mem = (s.stack h).mem

theorem GatedScope.refl (s : State) : GatedScope s s := ⟨rfl, rfl, rfl, rfl, rfl, fun _ => rfl⟩

theorem GatedScope.trans (h : GatedScope s t) (g : GatedScope t u) : GatedScope s u :=
  ⟨by rw [g.pwr, h.pwr], g.time.trans h.time, g.clk.trans h.clk, g.tier.trans h.tier, g.flash.trans h.flash,
    fun x => (g.mem x).trans (h.mem x)⟩

theorem gateDomain_scope (s : State) (d : Nat) : GatedScope s (gateDomain s d) := by
  cases h : s.pwr.domains.getLsbD d
  · rw [gateDomain_off h]
    exact .refl s
  · have hlost := loseDomain_scope d (s.domainOff d)
    rw [gateDomain_on h]
    exact ⟨by rw [hlost.pwr]; rfl, hlost.time, hlost.clk, hlost.tier, hlost.flash, hlost.mem⟩

theorem gateDomains_scope (l : List Nat) (s : State) : GatedScope s (l.foldl gateDomain s) := by
  induction l generalizing s with
  | nil => exact .refl s
  | cons d l ih => exact (gateDomain_scope s d).trans (ih _)

theorem gateDomains_domains (l : List Nat) (s : State) (e : Nat) :
    (l.foldl gateDomain s).pwr.domains.getLsbD e = (s.pwr.domains.getLsbD e && decide (e ∉ l)) := by
  induction l generalizing s with
  | nil => simp
  | cons d l ih =>
    rw [List.foldl_cons, ih, gateDomain_domains, Bool.and_assoc]
    simp [not_or]

/-- An observation that one domain of a list alone changes, and that by `F`: what gating of the list makes of it. -/
theorem gateDomains_at {α : Type} {g : State → α} {F : α → α} {a : Nat} {l : List Nat} (hl : l.Nodup)
    (hother : ∀ d ∈ l, d ≠ a → ∀ s, g (gateDomain s d) = g s)
    (hat : ∀ s, s.pwr.domains.getLsbD a = true → g (gateDomain s a) = F (g s)) (s : State) :
    g (l.foldl gateDomain s) = if a ∈ l ∧ s.pwr.domains.getLsbD a = true then F (g s) else g s := by
  induction l generalizing s with
  | nil => simp
  | cons d l ih =>
    obtain ⟨hnot, hl⟩ := List.nodup_cons.mp hl
    rw [List.foldl_cons, ih hl (fun e he => hother e (List.mem_cons_of_mem d he)), gateDomain_domains]
    by_cases hd : d = a
    · subst hd
      rw [if_neg (fun h => hnot h.1)]
      cases hon : s.pwr.domains.getLsbD d
      · rw [gateDomain_off hon, if_neg (by simp)]
      · rw [if_pos ⟨List.mem_cons_self, rfl⟩, hat s hon]
    · rw [hother d List.mem_cons_self hd]
      simp [Ne.symm hd]

end

end Sys2Proof.Machine

namespace Sys2Proof.Machine
open Sys2Proof

section
variable {s : State} {d k n : Nat}

theorem gateDomain_spire (h : s.pwr.domains.getLsbD d = true) (k : Nat) : (gateDomain s d).spire k = lostSpire d k (s.spire k) := by
  rw [gateDomain_on h, loseDomain_spire]
  rfl

theorem gateDomain_lane (h : s.pwr.domains.getLsbD d = true) (hn : n < 64) :
    ((gateDomain s d).lane n).regs = if d = 20 + n / 32 then (s.lane n).regs.lost else (s.lane n).regs := by
  rw [gateDomain_on h, loseDomain_lane d n hn]
  rfl

/-- A domain that loses nothing of an observation leaves it, whether it was on or off. -/
theorem gateDomain_same {α : Type} {g : State → α} (h : s.pwr.domains.getLsbD d = true → g (gateDomain s d) = g s) :
    g (gateDomain s d) = g s := by
  cases hon : s.pwr.domains.getLsbD d
  · rw [gateDomain_off hon]
  · exact h hon

/-- The domains of the Spires, then those of the Towers and above. -/
theorem maskDomains_split (mask : Nat) : maskDomains mask =
    (List.range 16).filter (fun d => bitAt mask d) ++ ((List.range 14).map (16 + ·)).filter (fun d => bitAt mask d) := by
  rw [maskDomains, show 30 = 16 + 14 from rfl, List.range_add, List.filter_append]

/-- What PWR_GATE makes of a Spire: its pair's domain comes first, then its Tower's common one. -/
theorem gateDomains_spire (mask : Nat) (hk : k < 32) (s : State) : ((maskDomains mask).foldl gateDomain s).spire k =
    (let x := if mask.testBit (k / 2) = true ∧ s.pwr.domains.getLsbD (k / 2) = true then (s.spire k).powerOff else s.spire k
     if mask.testBit (16 + k / 8) = true ∧ s.pwr.domains.getLsbD (16 + k / 8) = true then x.crossbarLost else x) := by
  have hnodup := maskDomains_nodup mask
  rw [maskDomains_split] at hnodup ⊢
  obtain ⟨hpairs, htowers, -⟩ := List.nodup_append.mp hnodup
  have hpair : k / 2 ∈ (List.range 16).filter (fun d => bitAt mask d) ↔ mask.testBit (k / 2) = true := by
    rw [List.mem_filter, List.mem_range, bitAt_eq_testBit, and_iff_right (by omega)]
  have htower : 16 + k / 8 ∈ ((List.range 14).map (16 + ·)).filter (fun d => bitAt mask d) ↔ mask.testBit (16 + k / 8) = true := by
    rw [List.mem_filter, bitAt_eq_testBit, and_iff_right]
    exact List.mem_map.mpr ⟨k / 8, List.mem_range.mpr (by omega), rfl⟩
  have hfirst (s : State) := gateDomains_at (g := fun s => s.spire k) (F := Spire.powerOff) (a := k / 2) hpairs
    (fun d hd hne s => gateDomain_same (g := fun s => s.spire k) fun hon => by
      have hd16 : d < 16 := List.mem_range.mp (List.mem_filter.mp hd).1
      rw [gateDomain_spire hon, lostSpire, if_neg (fun h => hne h.2), if_neg (by omega)])
    (fun s hon => by rw [gateDomain_spire hon, lostSpire, if_pos (by omega)]) s
  have hsecond (s : State) := gateDomains_at (g := fun s => s.spire k) (F := Spire.crossbarLost) (a := 16 + k / 8) htowers
    (fun d hd hne s => gateDomain_same (g := fun s => s.spire k) fun hon => by
      obtain ⟨i, -, rfl⟩ := List.mem_map.mp (List.mem_filter.mp hd).1
      rw [gateDomain_spire hon, lostSpire, if_neg (by omega), if_neg (fun h => hne h.2.2)])
    (fun s hon => by rw [gateDomain_spire hon, lostSpire, if_neg (by omega), if_pos (by omega)]) s
  have habove : 16 + k / 8 ∉ (List.range 16).filter (fun d => bitAt mask d) := fun h => by
    have := List.mem_range.mp (List.mem_filter.mp h).1
    omega
  rw [List.foldl_append, hsecond, hfirst]
  simp only [gateDomains_domains, habove, hpair, htower, not_false_eq_true, decide_true, Bool.and_true]

/-- No domain holds a Spire above the thirty-second. -/
theorem gateDomains_noSpire (mask : Nat) (hk : 32 ≤ k) (s : State) : ((maskDomains mask).foldl gateDomain s).spire k = s.spire k := by
  refine foldl_keeps (fun s => s.spire k) gateDomain _ s (fun s d => gateDomain_same (g := fun s => s.spire k) fun hon => ?_)
  rw [gateDomain_spire hon, lostSpire, if_neg (by omega), if_neg (by omega)]

theorem gateDomains_lane (mask : Nat) (hn : n < 64) (s : State) : (((maskDomains mask).foldl gateDomain s).lane n).regs =
    if mask.testBit (20 + n / 32) = true ∧ s.pwr.domains.getLsbD (20 + n / 32) = true then (s.lane n).regs.lost else (s.lane n).regs := by
  have hmem : 20 + n / 32 ∈ maskDomains mask ↔ mask.testBit (20 + n / 32) = true := by rw [mem_maskDomains, and_iff_right (by omega)]
  have hgate := gateDomains_at (g := fun s => (s.lane n).regs) (F := LaneRegs.lost) (a := 20 + n / 32) (maskDomains_nodup mask)
    (fun d hd hne s => gateDomain_same (g := fun s => (s.lane n).regs) fun hon => by rw [gateDomain_lane hon hn, if_neg hne])
    (fun s hon => by rw [gateDomain_lane hon hn, if_pos rfl]) s
  rw [hgate]
  simp only [hmem]

theorem anyNever_iff (mask : Nat) : (decide (2 ^ 30 ≤ mask) || (maskDomains mask).any neverGated) = true ↔
    2 ^ 30 ≤ mask ∨ mask.testBit 22 = true ∨ mask.testBit 25 = true ∨ mask.testBit 28 = true ∨ mask.testBit 29 = true := by
  simp only [Bool.or_eq_true, decide_eq_true_eq, List.any_eq_true, mem_maskDomains, neverGated, beq_iff_eq]
  constructor
  · rintro (h | ⟨d, ⟨-, hd⟩, ((rfl | rfl) | rfl) | rfl⟩)
    · exact .inl h
    · exact .inr (.inl hd)
    · exact .inr (.inr (.inl hd))
    · exact .inr (.inr (.inr (.inl hd)))
    · exact .inr (.inr (.inr (.inr hd)))
  · rintro (h | h | h | h | h)
    · exact .inl h
    · exact .inr ⟨22, ⟨by decide, h⟩, by decide⟩
    · exact .inr ⟨25, ⟨by decide, h⟩, by decide⟩
    · exact .inr ⟨28, ⟨by decide, h⟩, by decide⟩
    · exact .inr ⟨29, ⟨by decide, h⟩, by decide⟩

theorem anyUnfit_iff (mask : Nat) (s : State) : (maskDomains mask).any (fun d => !s.gateOk d) = true ↔
    ¬ ∀ d, d < 30 → mask.testBit d = true → s.gateOk d = true := by
  simp [mem_maskDomains, and_assoc]

/-! ### The power commands of the host (R567 to R576) -/

/-- A power command does not return the chip to Run (R573). -/
theorem begun_power {op : Nat} (hop : isPowerOp op = true) (iss : Issuer) (s : State) : s.begun op iss = takeStarted iss s := if_pos hop

section
variable {op : Nat} {iss : Issuer} {body : State → State × Option Reply}

/-- A power command that its body refuses leaves the state in which it began. -/
theorem queueCommand_refuses_power (hop : isPowerOp op = true) {st : Nat} (h : s.accepts op iss = true)
    (hb : body (s.begun op iss) = refuse st (s.begun op iss)) (hs : refusedStatus st = true) :
    queueCommand op iss body s = complete iss op (.of st) (s.begun op iss) := by
  rw [begun_power hop] at hb ⊢
  exact queueCommand_refuses h ((begun_power hop iss s).symm ▸ hb) hs

end

theorem pwrWakeCfgBody_eq (v : Word) (s : State) : pwrWakeCfgBody v.toNat s = ({ s with
    pwr := { s.pwr with wakeEnable := v.extractLsb' 0 4, wakePolarity := v.extractLsb' 4 4 } }, some (.of 0)) := by
  have henable : BitVec.ofNat 4 (field v.toNat 3 0) = v.extractLsb' 0 4 := by
    apply BitVec.eq_of_toNat_eq
    simp [field]
  have hpolarity : BitVec.ofNat 4 (field v.toNat 7 4) = v.extractLsb' 4 4 := by
    apply BitVec.eq_of_toNat_eq
    simp [field, Nat.shiftRight_eq_div_pow]
  unfold pwrWakeCfgBody
  rw [henable, hpolarity]
  rfl

theorem pwrCapBody_sets {cap : Nat} (hlo : 1000 ≤ cap) (hhi : cap ≤ 2400) (s : State) :
    pwrCapBody cap s = ({ s with pwr := { s.pwr with cap := BitVec.ofNat 12 cap } }, some (.of 0)) := if_neg (by omega)

theorem pwrCapBody_refuses {cap : Nat} (h : cap < 1000 ∨ 2400 < cap) (s : State) : pwrCapBody cap s = refuse 2 s := if_pos h

theorem pwrGateBody_never {mask : Nat} (h : (decide (2 ^ 30 ≤ mask) || (maskDomains mask).any neverGated) = true) (s : State) :
    pwrGateBody mask s = refuse 2 s := if_pos h

theorem pwrGateBody_unfit {mask : Nat} (h : ¬ (decide (2 ^ 30 ≤ mask) || (maskDomains mask).any neverGated) = true)
    (hunfit : (maskDomains mask).any (fun d => !s.gateOk d) = true) : pwrGateBody mask s = refuse 1 s :=
  (if_neg h).trans (if_pos hunfit)

theorem pwrGateBody_gates {mask : Nat} (h : ¬ (decide (2 ^ 30 ≤ mask) || (maskDomains mask).any neverGated) = true)
    (hfit : ¬ (maskDomains mask).any (fun d => !s.gateOk d) = true) :
    pwrGateBody mask s = ((maskDomains mask).foldl gateDomain s, some (.of 0)) :=
  (if_neg h).trans (if_neg hfit)

/-! #### PWR_UNGATE -/

theorem touchDomain_waking (s : State) (d e : Nat) : (touchDomain d s).pwr.domains = s.pwr.domains ∧
    (touchDomain d s).pwr.waking.getLsbD e = (s.pwr.waking.getLsbD e || (decide (e < 30 ∧ e = d) && !s.pwr.domains.getLsbD e)) := by
  unfold touchDomain
  split
  next h =>
    refine ⟨rfl, ?_⟩
    by_cases he : e = d
    · subst he
      rcases Bool.or_eq_true_iff.mp h with h | h <;> simp [h]
    · simp [he]
  next h =>
    refine ⟨rfl, ?_⟩
    show (s.pwr.waking ||| BitVec.twoPow 30 d).getLsbD e = _
    by_cases he : e = d
    · subst he
      simp only [Bool.or_eq_true, not_or, Bool.not_eq_true] at h
      simp [BitVec.getLsbD_twoPow, h.1]
    · simp [BitVec.getLsbD_twoPow, he, Ne.symm he]

/-- Accesses to several domains wake those that are off. -/
theorem touchDomains_waking (l : List Nat) (s : State) (e : Nat) : (touchDomains l s).pwr.domains = s.pwr.domains ∧
    (touchDomains l s).pwr.waking.getLsbD e = (s.pwr.waking.getLsbD e || (decide (e < 30 ∧ e ∈ l) && !s.pwr.domains.getLsbD e)) := by
  induction l generalizing s with
  | nil => exact ⟨rfl, by simp [touchDomains]⟩
  | cons d l ih =>
    obtain ⟨hdomains, hwaking⟩ := touchDomain_waking s d e
    obtain ⟨hdomains', hwaking'⟩ := ih (touchDomain d s)
    refine ⟨hdomains'.trans hdomains, hwaking'.trans ?_⟩
    simp only [hwaking, hdomains, List.mem_cons, and_or_left, Bool.decide_or, Bool.and_or_distrib_right, Bool.or_assoc]

theorem touchDomains_frame (l : List Nat) (s : State) :
    touchDomains l s = { s with pwr := { s.pwr with waking := (touchDomains l s).pwr.waking } } := by
  unfold touchDomains
  induction l generalizing s with
  | nil => rfl
  | cons d l ih =>
    rw [List.foldl_cons, ih]
    unfold touchDomain
    split <;> rfl

end

end Sys2Proof.Machine

namespace Sys2Proof.Machine
open Sys2Proof

/-! #### DOMAIN_READY (R35, R569) -/

section
variable {s t : State} {d k n : Nat}

/-- The completion of a queue command changes the host's pairs or what leaves the package. -/
theorem complete_frame (iss : Issuer) (op : Nat) (r : Reply) (s : State) : ∃ h o, complete iss op r s = { s with host := h, out := o } := by
  unfold complete
  split
  · exact ⟨_, _, rfl⟩
  · split <;> exact ⟨_, _, rfl⟩

theorem completes_frame {α : Type} (op : Nat) (r : Reply) (f : α → Issuer) (l : List α) (s : State) :
    ∃ h o, l.foldl (fun t w => complete (f w) op r t) s = { s with host := h, out := o } := by
  induction l generalizing s with
  | nil => exact ⟨s.host, s.out, rfl⟩
  | cons a l ih =>
    obtain ⟨h, o, hfirst⟩ := complete_frame (f a) op r s
    obtain ⟨h', o', hrest⟩ := ih (complete (f a) op r s)
    exact ⟨h', o', by rw [List.foldl_cons, hrest, hfirst]⟩

theorem serveWakers_frame (s : State) : ∃ h o w, serveWakers s = { s with pwr := { s.pwr with wakers := w }, host := h, out := o } := by
  obtain ⟨h, o, hall⟩ := completes_frame 0x52 (.of stOk) (fun w : Issuer × Nat => w.1)
    (s.pwr.wakers.filter (fun w => (maskDomains w.2).all s.domainOn))
    (s.modPwr (fun p => { p with wakers := p.wakers.filter (fun w => !(maskDomains w.2).all s.domainOn) }))
  exact ⟨h, o, _, hall⟩

/-- A domain that wakes is on. -/
def State.domainUp (d : Nat) (s : State) : State := s.modPwr (fun p => { p with
  waking := p.waking &&& ~~~BitVec.twoPow 30 d, domains := p.domains ||| BitVec.twoPow 30 d })

theorem domainReady_waking (h : s.pwr.waking.getLsbD d = true) : domainReady d s = serveWakers (domainWoke d (s.domainUp d)) := if_pos h

theorem domainReady_idle (h : s.pwr.waking.getLsbD d = false) : domainReady d s = s := if_neg (by simp [h])

theorem domainUp_waking (hd : d < 30) (s : State) : (s.domainUp d).pwr.waking.getLsbD d = false ∧ (s.domainUp d).pwr.domains.getLsbD d = true := by
  constructor
  · show (s.pwr.waking &&& ~~~BitVec.twoPow 30 d).getLsbD d = false
    simp [hd]
  · show (s.pwr.domains ||| BitVec.twoPow 30 d).getLsbD d = true
    simp [hd]

theorem domainUp_other {e : Nat} (he : e < 30) (hne : e ≠ d) (s : State) :
    (s.domainUp d).pwr.waking.getLsbD e = s.pwr.waking.getLsbD e ∧ (s.domainUp d).pwr.domains.getLsbD e = s.pwr.domains.getLsbD e := by
  constructor
  · show (s.pwr.waking &&& ~~~BitVec.twoPow 30 d).getLsbD e = _
    simp [he, hne]
  · show (s.pwr.domains ||| BitVec.twoPow 30 d).getLsbD e = _
    simp [Ne.symm hne]

/-- A Spire that wakes: one that was OFF wipes its whole store. -/
theorem wakeSpire_spire (k : Nat) (s : State) :
    ((s.spire k).seq.mode = .off → ((wakeSpire k s).spire k).seq.mode = .wiping ∧ ((wakeSpire k s).spire k).seq.wipeLeft = 16384) ∧
    ((s.spire k).seq.mode ≠ .off → wakeSpire k s = s) := by
  unfold wakeSpire
  refine ⟨fun hoff => ?_, fun hon => if_neg hon⟩
  dsimp only
  rw [if_pos hoff, spire_modSpire]
  exact ⟨rfl, rfl⟩

theorem wakeSpire_frame (k : Nat) (s : State) : wakeSpire k s = { s with spires := (wakeSpire k s).spires } := by
  unfold wakeSpire
  dsimp only
  split <;> rfl

theorem wakeSpire_only (k : Nat) (s : State) : OnlySpire k s (wakeSpire k s) := by
  unfold wakeSpire
  dsimp only
  split
  · exact .modSpire k _ s
  · exact .refl k s

/-- A flash controller that is on starts writes without waking anything. -/
theorem startFlashWrites_on (h : s.domainOn 26 = true) : ∃ f, startFlashWrites s = { s with flash := f } := by
  unfold startFlashWrites
  rw [h]
  split
  · exact ⟨s.flash, rfl⟩
  · exact ⟨_, rfl⟩

theorem domainWoke_pair (hd : d < 16) : domainWoke d s = wakeSpire (2 * d + 1) (wakeSpire (2 * d) s) := if_pos hd

theorem domainWoke_fabric (hd : d = 20 ∨ d = 21) : domainWoke d s =
    ((fabricLanes d).filter (fun n => (s.lane n).regs.enable)).foldl (fun t n => t.modLane n (Lane.train t.clock.tick)) s := by
  rw [domainWoke, if_neg (by omega), if_pos hd]

theorem domainWoke_dl : domainWoke 23 s = s.modRadio (fun r => { r with dlOn := true }) := rfl

theorem domainWoke_ul : domainWoke 24 s = s.modRadio (fun r => { r with ulOn := true }) := rfl

theorem domainWoke_flash : domainWoke 26 s = startFlashWrites s := rfl

theorem domainWoke_other (h : 16 ≤ d) (hne : d ∉ [20, 21, 23, 24, 26]) : domainWoke d s = s := by
  simp only [List.mem_cons, List.not_mem_nil, or_false, not_or] at hne
  obtain ⟨h20, h21, h23, h24, h26⟩ := hne
  rw [domainWoke, if_neg (by omega), if_neg (by omega), if_neg h23, if_neg h24, if_neg h26]

theorem LanesScope.foldl {α : Type} {f : State → α → State} (hf : ∀ t a, LanesScope t (f t a)) (l : List α) (s : State) :
    LanesScope s (l.foldl f s) := by
  induction l generalizing s with
  | nil => rfl
  | cons a l ih => exact (hf s a).trans (ih _)

/-- What a woken domain above those of the Spires changes. -/
theorem domainWoke_above (hd : 16 ≤ d) (hup : d = 26 → s.domainOn 26 = true) : ∃ x y z, domainWoke d s = { s with
    radio := x, fab := y, flash := z } ∧ (d = 23 → x = { s.radio with dlOn := true }) ∧ (d = 24 → x = { s.radio with ulOn := true }) ∧
      (d ≠ 23 → d ≠ 24 → x = s.radio) := by
  by_cases hmem : d ∈ [20, 21, 23, 24, 26]
  · simp only [List.mem_cons, List.not_mem_nil, or_false, ← or_assoc] at hmem
    rcases hmem with ((hfabric | rfl) | rfl) | rfl
    · have hscope : LanesScope s (domainWoke d s) := by
        rw [domainWoke_fabric hfabric]
        exact .foldl (f := fun t n => t.modLane n (Lane.train t.clock.tick)) (fun t n => LanesScope.modLane t n _) _ s
      exact ⟨s.radio, _, s.flash, hscope, fun h => by omega, fun h => by omega, fun _ _ => rfl⟩
    · exact ⟨_, s.fab, s.flash, domainWoke_dl, fun _ => rfl, fun h => by omega, fun h => absurd rfl h⟩
    · exact ⟨_, s.fab, s.flash, domainWoke_ul, fun h => by omega, fun _ => rfl, fun _ h => absurd rfl h⟩
    · obtain ⟨f, hflash⟩ := startFlashWrites_on (hup rfl)
      exact ⟨s.radio, s.fab, f, domainWoke_flash.trans hflash, fun h => by omega, fun h => by omega, fun _ _ => rfl⟩
  · exact ⟨s.radio, s.fab, s.flash, domainWoke_other hd hmem, fun h => absurd (by simp [h]) hmem, fun h => absurd (by simp [h]) hmem,
      fun _ _ => rfl⟩

/-- What a woken domain leaves of the power manager, and what it does to the Spires of its pair and to the radio engines. -/
structure Woken (d : Nat) (s t : State) : Prop where
  pwr   : t.pwr = s.pwr
  wipes : ∀ k, k / 2 = d → d < 16 → (s.spire k).seq.mode = .off → (t.spire k).seq.mode = .wiping ∧ (t.spire k).seq.wipeLeft = 16384
  other : ∀ k, k / 2 ≠ d ∨ 16 ≤ d ∨ (s.spire k).seq.mode ≠ .off → t.spire k = s.spire k
  dl    : d = 23 → t.radio = { s.radio with dlOn := true }
  ul    : d = 24 → t.radio = { s.radio with ulOn := true }
  radio : d ≠ 23 → d ≠ 24 → t.radio = s.radio

theorem wakePair_woken (hd : d < 16) (s : State) : Woken d s (wakeSpire (2 * d + 1) (wakeSpire (2 * d) s)) := by
  have hodd (s : State) := wakeSpire_spire (2 * d + 1) s
  have heven := wakeSpire_spire (2 * d) s
  have hkeep : (wakeSpire (2 * d) s).spire (2 * d + 1) = s.spire (2 * d + 1) := wakeSpire_only (2 * d) s _ (by omega)
  have hkeep' (u : State) : (wakeSpire (2 * d + 1) u).spire (2 * d) = u.spire (2 * d) := wakeSpire_only (2 * d + 1) u _ (by omega)
  refine ⟨?_, fun k hk _ hoff => ?_, fun k hk => ?_, fun h => by omega, fun h => by omega, fun _ _ => ?_⟩
  · rw [wakeSpire_frame, wakeSpire_frame (2 * d)]
  · obtain rfl | rfl : k = 2 * d ∨ k = 2 * d + 1 := by omega
    · rw [hkeep']
      exact heven.1 hoff
    · exact (hodd _).1 (hkeep.symm ▸ hoff)
  · by_cases h1 : k = 2 * d + 1
    · subst h1
      have hon : (s.spire (2 * d + 1)).seq.mode ≠ .off := (hk.resolve_left (by omega)).resolve_left (by omega)
      rw [(hodd _).2 (hkeep.symm ▸ hon), hkeep]
    · rw [wakeSpire_only (2 * d + 1) _ k h1]
      by_cases h0 : k = 2 * d
      · subst h0
        rw [heven.2 ((hk.resolve_left (by omega)).resolve_left (by omega))]
      · exact wakeSpire_only (2 * d) s k h0
  · rw [wakeSpire_frame, wakeSpire_frame (2 * d)]

theorem domainWoke_woken (hup : d = 26 → s.domainOn 26 = true) : Woken d s (domainWoke d s) := by
  by_cases hd : d < 16
  · rw [domainWoke_pair hd]
    exact wakePair_woken hd s
  · obtain ⟨x, y, z, hframe, hdl, hul, hradio⟩ := domainWoke_above (Nat.not_lt.mp hd) hup
    rw [hframe]
    exact ⟨rfl, fun _ _ h => absurd h hd, fun _ _ => rfl, hdl, hul, hradio⟩

theorem domainUp_on (hd : d < 30) (s : State) : (s.domainUp d).domainOn d = true := by
  obtain ⟨hwaking, hdomains⟩ := domainUp_waking hd s
  rw [State.domainOn, hwaking, hdomains]
  rfl

/-- What DOMAIN_READY of a waking domain leaves: the domain's own changes, and the power manager but for the commands that waited. -/
theorem domainReady_woken (hd : d < 30) (h : s.pwr.waking.getLsbD d = true) : ∃ v w, domainReady d s = v ∧ Woken d s { v with pwr := s.pwr } ∧
    v.pwr = { (s.domainUp d).pwr with wakers := w } := by
  have hwoken := domainWoke_woken (d := d) (s := s.domainUp d) (fun he => he ▸ domainUp_on hd s)
  obtain ⟨x, y, w, hserve⟩ := serveWakers_frame (domainWoke d (s.domainUp d))
  refine ⟨_, w, domainReady_waking h, ?_, ?_⟩
  · rw [hserve]
    exact ⟨rfl, hwoken.wipes, hwoken.other, hwoken.dl, hwoken.ul, hwoken.radio⟩
  · rw [hserve, hwoken.pwr]

/-- The writes that wait, one after another, are those whose domains are on; the others go on waiting. -/
theorem servedWrites_eq (s : State) : servedWrites s =
    (s.pwr.writes.filter (fun w => (domainOf w.2.1).all s.domainOn)).foldl (fun t w => bar0Write w.1 w.2.1 w.2.2 t)
      { s with pwr := { s.pwr with writes := s.pwr.writes.filter (fun w => !(domainOf w.2.1).all s.domainOn) } } := rfl

theorem withWrites_same {l : List (Nat × Nat × Word)} (h : s.pwr.writes = l) : { s with pwr := { s.pwr with writes := l } } = s := by
  rw [← h]

/-- With no write waiting there is none to serve. -/
theorem servedWrites_none (h : s.pwr.writes = []) : servedWrites s = s := by
  rw [servedWrites_eq, h]
  exact withWrites_same h

/-- The one write that waits is made once its domains are on. -/
theorem servedWrites_one {mid off : Nat} {x : Word} (h : s.pwr.writes = [(mid, off, x)]) :
    ((∀ e ∈ domainOf off, s.domainOn e = true) → servedWrites s = bar0Write mid off x { s with pwr := { s.pwr with writes := [] } }) ∧
    ((∃ e ∈ domainOf off, s.domainOn e = false) → servedWrites s = s) := by
  rw [servedWrites_eq, h]
  refine ⟨fun hon => ?_, fun ⟨e, he, hoff⟩ => ?_⟩
  · have hdue : (domainOf off).all s.domainOn = true := List.all_eq_true.mpr hon
    simp only [List.filter_cons, hdue, ↓reduceIte, List.filter_nil, List.foldl_cons, List.foldl_nil, Bool.not_true, Bool.false_eq_true]
  · have hdue : (domainOf off).all s.domainOn = false := List.all_eq_false.mpr ⟨e, he, by simp [hoff]⟩
    simp only [List.filter_cons, hdue, Bool.false_eq_true, ↓reduceIte, List.filter_nil, List.foldl_nil, Bool.not_false]
    exact withWrites_same h

end

end Sys2Proof.Machine

namespace Sys2Proof.Machine
open Sys2Proof

/-! #### PWR_UNGATE and the power states (R569 to R576) -/

section
variable {s t : State} {iss : Issuer} {mask target : Nat} {m : PowerMode} {atT : Bool}

theorem allOn_iff (mask : Nat) (s : State) : (maskDomains mask).all s.domainOn = true ↔
    ∀ d, d < 30 → mask.testBit d = true → s.domainOn d = true := by
  simp [mem_maskDomains, and_imp]

theorem pwrUngateBody_refuses (h : 2 ^ 30 ≤ mask) (iss : Issuer) (s : State) : pwrUngateBody iss mask s = refuse 2 s := if_pos h

theorem pwrUngateBody_ready (h : mask < 2 ^ 30) (hon : ∀ d, d < 30 → mask.testBit d = true → s.domainOn d = true) :
    pwrUngateBody iss mask s = (s, some (.of 0)) :=
  (if_neg (Nat.not_le.mpr h)).trans (if_pos ((allOn_iff mask s).mpr hon))

/-- PWR_UNGATE wakes the domains that are off and waits for them. -/
theorem pwrUngateBody_waits (h : mask < 2 ^ 30) (hoff : ∃ d, d < 30 ∧ mask.testBit d = true ∧ s.domainOn d = false) :
    pwrUngateBody iss mask s = ({ s with
      pwr := { s.pwr with waking := (touchDomains (maskDomains mask) s).pwr.waking, wakers := s.pwr.wakers ++ [(iss, mask)] } }, none) := by
  obtain ⟨d, hd, hnamed, hoff⟩ := hoff
  have hnot : ¬ (maskDomains mask).all s.domainOn = true := fun hall => by
    have hon := (allOn_iff mask s).mp hall d hd hnamed
    rw [hoff] at hon
    exact Bool.noConfusion hon
  have hwaits : pwrUngateBody iss mask s =
      ((touchDomains (maskDomains mask) s).modPwr (fun p => { p with wakers := p.wakers ++ [(iss, mask)] }), none) :=
    (if_neg (Nat.not_le.mpr h)).trans (if_neg hnot)
  rw [hwaits, touchDomains_frame]
  rfl

theorem touchNamed_waking {d : Nat} (hd : d < 30) (mask : Nat) (s : State) : (touchDomains (maskDomains mask) s).pwr.waking.getLsbD d =
    (s.pwr.waking.getLsbD d || (mask.testBit d && !s.pwr.domains.getLsbD d)) := by
  have hnamed : decide (d < 30 ∧ d ∈ maskDomains mask) = mask.testBit d := by simp [mem_maskDomains, hd]
  rw [(touchDomains_waking _ s d).2, hnamed]

/-! ##### PWR_STATE -/

theorem powerMode_none (h : 4 < target) : powerMode target = none := by
  obtain ⟨n, rfl⟩ := Nat.exists_eq_add_of_le' h
  rfl

theorem powerMode_some (h : target ≤ 4) : ∃ m, powerMode target = some m := by
  match target, h with
  | 0, _ | 1, _ | 2, _ | 3, _ | 4, _ => exact ⟨_, rfl⟩

/-- What PWR_STATE needs of the chip and of the entries before it. -/
def State.mayEnter (s : State) : Prop := (s.clk.chipState = .timeAcquire ∨ s.clk.chipState = .ready) ∧ s.pwr.entry = none ∧ s.pwr.deepTarget = none

theorem pwrStateBody_unknown (h : powerMode target = none) : pwrStateBody iss target atT s = refuse 2 s := by
  unfold pwrStateBody
  rw [h]

theorem pwrStateBody_known (h : powerMode target = some m) : pwrStateBody iss target atT s =
    if !(s.clk.chipState = .timeAcquire || s.clk.chipState = .ready) then refuse 1 s
    else if s.pwr.entry.isSome || s.pwr.deepTarget.isSome then refuse 1 s
    else
      let r := if s.pwr.mode = m then s else returnToRun s
      if r.pwr.mode = m then (r, some (.of 0))
      else if !r.entryOk m then refuse 1 s
      else if atT then (r.modPwr (fun p => { p with entry := some m }), some (.of 8))
      else enterPower m (some iss) r := by
  unfold pwrStateBody
  rw [h]

theorem pwrStateBody_early (h : powerMode target = some m) (hnot : ¬ s.mayEnter) : pwrStateBody iss target atT s = refuse 1 s := by
  rw [pwrStateBody_known h]
  split
  next => rfl
  next hup =>
    refine if_pos (by_contra fun hfree => hnot ⟨?_, by simpa using hfree⟩)
    simpa [← imp_iff_not_or, or_iff_not_imp_left] using hup

theorem pwrStateBody_enters (h : powerMode target = some m) (hmay : s.mayEnter) : pwrStateBody iss target atT s =
    let r := if s.pwr.mode = m then s else returnToRun s
    if r.pwr.mode = m then (r, some (.of 0))
    else if !r.entryOk m then refuse 1 s
    else if atT then (r.modPwr (fun p => { p with entry := some m }), some (.of 8))
    else enterPower m (some iss) r := by
  obtain ⟨hup, hentry, hdeep⟩ := hmay
  rw [pwrStateBody_known h, if_neg (by simpa [or_iff_not_imp_left] using hup), hentry, hdeep]
  rfl

theorem pwrStateBody_same (h : powerMode target = some m) (hmay : s.mayEnter) (hm : s.pwr.mode = m) :
    pwrStateBody iss target atT s = (s, some (.of 0)) := by
  rw [pwrStateBody_enters h hmay, if_pos hm]
  exact if_pos hm

/-- From another state the chip first returns to Run. -/
theorem pwrStateBody_moves (h : powerMode target = some m) (hmay : s.mayEnter) (hm : s.pwr.mode ≠ m) : pwrStateBody iss target atT s =
    if (returnToRun s).pwr.mode = m then (returnToRun s, some (.of 0))
    else if !(returnToRun s).entryOk m then refuse 1 s
    else if atT then ((returnToRun s).modPwr (fun p => { p with entry := some m }), some (.of 8))
    else enterPower m (some iss) (returnToRun s) := by
  rw [pwrStateBody_enters h hmay, if_neg hm]

theorem pwrStateBody_run (h : powerMode target = some m) (hmay : s.mayEnter) (hm : s.pwr.mode ≠ m) (hrun : (returnToRun s).pwr.mode = m) :
    pwrStateBody iss target atT s = (returnToRun s, some (.of 0)) :=
  (pwrStateBody_moves h hmay hm).trans (if_pos hrun)

theorem pwrStateBody_unmet (h : powerMode target = some m) (hmay : s.mayEnter) (hm : s.pwr.mode ≠ m) (hrun : (returnToRun s).pwr.mode ≠ m)
    (hunmet : (returnToRun s).entryOk m = false) : pwrStateBody iss target atT s = refuse 1 s := by
  rw [pwrStateBody_moves h hmay hm, if_neg hrun, hunmet]
  rfl

theorem pwrStateBody_arms (h : powerMode target = some m) (hmay : s.mayEnter) (hm : s.pwr.mode ≠ m) (hrun : (returnToRun s).pwr.mode ≠ m)
    (hmet : (returnToRun s).entryOk m = true) : pwrStateBody iss target true s =
      ({ returnToRun s with pwr := { (returnToRun s).pwr with entry := some m } }, some (.of 8)) := by
  rw [pwrStateBody_moves h hmay hm, if_neg hrun, hmet]
  rfl

theorem pwrStateBody_now (h : powerMode target = some m) (hmay : s.mayEnter) (hm : s.pwr.mode ≠ m) (hrun : (returnToRun s).pwr.mode ≠ m)
    (hmet : (returnToRun s).entryOk m = true) : pwrStateBody iss target false s = enterPower m (some iss) (returnToRun s) := by
  rw [pwrStateBody_moves h hmay hm, if_neg hrun, hmet]
  rfl

theorem commitIncr_shape (i : Nat) (s : State) : ∃ x, commitIncr i s = { s with time := x } ∧ x.servo = s.time.servo := by
  unfold commitIncr
  dsimp only
  split <;> exact ⟨_, rfl, rfl⟩

/-- HOLDOVER changes the time unit, the Dome and the counter of free values. -/
theorem holdOver_shape (s : State) : ∃ x d n, x.servo = tsHoldover ∧ holdOver s = { s with time := x, dome := d, free := n } := by
  obtain ⟨q, n, l, hservo⟩ := setServo_shape tsHoldover (s.modTime (fun t => { t with inBound := 0 }))
  obtain ⟨x, hcommit, hkept⟩ := commitIncr_shape s.heldIncr (ringDome 7 (setServo tsHoldover (s.modTime (fun t => { t with inBound := 0 }))))
  unfold holdOver
  rw [hcommit]
  rw [hservo] at hkept ⊢
  exact ⟨x, _, _, hkept, rfl⟩

/-- Both fabric domains' lanes down. -/
def allLanesOff (s : State) : State := lanesOff 21 (lanesOff 20 s)

theorem allLanesOff_scope (s : State) : LaneScope s (allLanesOff s) := (lanesOff_scope 20 s).trans (lanesOff_scope 21 _)

theorem allLanesOff_down {n : Nat} (hn : n < 64) (hon : (s.lane n).regs.state ≠ .disabled) : ((allLanesOff s).lane n).regs.state = .down := by
  have hlow := mem_fabricLanes (d := 20) (n := n) (by decide)
  have hhigh := mem_fabricLanes (d := 21) (n := n) (by decide)
  unfold allLanesOff
  by_cases h : n < 32
  · rw [lanesOff_other (.inl (mt hhigh.mp (by omega)))]
    exact (lanesOff_down (hlow.mpr (by omega)) hon).1
  · have hkept : (lanesOff 20 s).lane n = s.lane n := lanesOff_other (.inl (mt hlow.mp (by omega)))
    exact (lanesOff_down (hhigh.mpr (by omega)) (hkept.symm ▸ hon)).1

/-- The chip on its way to Sleep: a follower's servo in HOLDOVER. -/
def sleepServo (follows : Bool) (s : State) : State := if follows && decide (s.time.servo ≠ tsHoldover) then holdOver s else s

theorem sleepServo_spec (follows : Bool) (s : State) : (sleepServo follows s).pwr = s.pwr ∧ (∀ n, (sleepServo follows s).lane n = s.lane n) ∧
    (follows = true → (sleepServo follows s).time.servo = tsHoldover) := by
  unfold sleepServo
  split
  next =>
    obtain ⟨x, d, n, hservo, hhold⟩ := holdOver_shape s
    rw [hhold]
    exact ⟨rfl, fun _ => rfl, fun _ => hservo⟩
  next hnot => exact ⟨rfl, fun _ => rfl, fun hfollows => by simpa [hfollows] using hnot⟩

theorem enterLight_sleep (s : State) :
    enterLight .sleep s = (sleepServo s.follows (allLanesOff s)).modPwr (fun p => { p with mode := .sleep }) := by
  have htime : (allLanesOff s).time = s.time := (allLanesOff_scope s).gate.time
  unfold enterLight sleepServo
  rw [htime]
  simp only [decide_true, Bool.true_and, if_true]
  rfl

theorem modPwr_others (f : PwrState → PwrState) (s : State) :
    (s.modPwr f).pwr = f s.pwr ∧ (∀ n, (s.modPwr f).lane n = s.lane n) ∧ (s.modPwr f).time = s.time := ⟨rfl, fun _ => rfl, rfl⟩

/-- Sleep takes every lane down that is not DISABLED, and the servo of a follower to HOLDOVER (R565, R570). -/
theorem enterLight_sleeps (s : State) : (enterLight .sleep s).pwr = { s.pwr with mode := .sleep } ∧
    (∀ n, n < 64 → (s.lane n).regs.state ≠ .disabled → ((enterLight .sleep s).lane n).regs.state = .down) ∧
    (s.follows = true → (enterLight .sleep s).time.servo = tsHoldover) := by
  obtain ⟨hpwr, hlane, hservo⟩ := sleepServo_spec s.follows (allLanesOff s)
  obtain ⟨hpwr', hlane', htime'⟩ := modPwr_others (fun p => { p with mode := .sleep }) (sleepServo s.follows (allLanesOff s))
  rw [enterLight_sleep, hpwr', htime', hpwr, (allLanesOff_scope s).gate.pwr]
  refine ⟨rfl, fun n hn hon => ?_, hservo⟩
  rw [hlane', hlane]
  exact allLanesOff_down hn hon

/-! ##### The return to Run, Deep sleep and Off, the wake pins -/

theorem returnToRun_awake (h : s.pwr.mode ≠ .sleep) (h' : s.pwr.mode ≠ .idle) : returnToRun s = s := if_neg (by simp [State.lowPower, h, h'])

theorem returnToRun_low (h : s.pwr.mode = .sleep ∨ s.pwr.mode = .idle) :
    (returnToRun s).pwr = { s.pwr with mode := .run, restart := true } ∧ (returnToRun s).spires = s.spires := by
  unfold returnToRun
  rw [if_pos (by rcases h with h | h <;> simp [State.lowPower, h])]
  dsimp only
  split <;> exact ⟨rfl, rfl⟩

/-- On the return from Sleep every enabled lane of a domain that is on trains. -/
theorem returnToRun_trains {n : Nat} (h : s.pwr.mode = .sleep) (hn : n < 64) (henable : (s.lane n).regs.enable = true)
    (hon : s.domainOn (20 + n / 32) = true) : ((returnToRun s).lane n).regs.state = .training := by
  unfold returnToRun
  rw [if_pos (by simp [State.lowPower, h]), if_pos h]
  unfold State.lane at henable ⊢
  dsimp only
  rw [Tab.get_modifyAll _ _ _ _ _ List.nodup_range, if_pos (List.mem_range.mpr hn), henable, hon]
  rfl

theorem deepSleepEntry_waits (h : s.pwr.deepTarget = none ∨ s.flash.inflight ≠ [] ∨ s.flash.waits ≠ []) : deepSleepEntry s = s := by
  unfold deepSleepEntry
  split
  next => rfl
  next m who htarget =>
    have hflash := h.resolve_left (by simp [htarget])
    exact if_neg (by simp only [Bool.and_eq_true, List.isEmpty_iff]; tauto)

/-- The flash's writes are all acknowledged: the journal is written, the command that asked completes, and the chip is switched off. -/
theorem deepSleepEntry_switches {who : Option Issuer} (h : s.pwr.deepTarget = some (m, who)) (hflight : s.flash.inflight = [])
    (hwaits : s.flash.waits = []) : ∃ x o, deepSleepEntry s =
      switchOff m { s with flash := s.flash.writeJournal, host := x, out := .mctp (.entering m) :: o } := by
  unfold deepSleepEntry
  rw [h, hflight, hwaits]
  cases who with
  | none => exact ⟨s.host, s.out, rfl⟩
  | some iss =>
    obtain ⟨x, o, hcomplete⟩ := complete_frame iss 0x50 (.of stOk) { s with flash := s.flash.writeJournal }
    refine ⟨x, o, ?_⟩
    dsimp only
    rw [hcomplete]
    rfl

/-- A chip switched off keeps the flash with its journal, the wake pins' settings and, in Deep sleep, PWR_RETAIN. -/
theorem switchOff_spec (hm : m = .deep ∨ m = .off) (s : State) : (switchOff m s).pwr.mode = m ∧ (switchOff m s).pwr.domains = 0 ∧
    (s.pwr.mode ≠ .off → (switchOff m s).pwr.retain = if m = .off then Mem.empty else s.pwr.retain) ∧
    (switchOff m s).pwr.wakeEnable = s.pwr.wakeEnable ∧ (switchOff m s).pwr.wakePolarity = s.pwr.wakePolarity ∧
    (switchOff m s).clk = { ClkState.reset with pendingReset := none } ∧ (switchOff m s).spires = State.reset.spires ∧
    (switchOff m s).flash = s.flash.keep false ∧ (switchOff m s).out = s.out ∧ (switchOff m s).pending = s.pending := by
  refine ⟨?_, rfl, fun hon => ?_, rfl, rfl, rfl, rfl, rfl, rfl, rfl⟩
  · rcases hm with rfl | rfl <;> rfl
  · show (if m = .off then Mem.empty else if (decide (s.pwr.mode = .off) || (decide (s.pwr.mode = .deep) && false)) = true
      then Mem.empty else s.pwr.retain) = _
    simp [hon]

/-- The pins once wake pin `i` stands at its active level. -/
def State.wokenPins (s : State) (i : Nat) : PinState := { s.pins with
  wake := if s.pwr.wakePolarity.getLsbD i = true then s.pins.wake ||| BitVec.twoPow 4 i else s.pins.wake &&& ~~~BitVec.twoPow 4 i }

theorem wakePin_ignored {i : Nat} (h : s.pwr.wakeEnable.getLsbD i = false ∨ s.pins.resetN = false) : wakePin i s = s :=
  if_pos (by rcases h with h | h <;> simp [h])

/-- What an enabled wake pin does in each power state (R574). -/
theorem wakePin_enabled {i : Nat} (henable : s.pwr.wakeEnable.getLsbD i = true) (hreset : s.pins.resetN = true) :
    wakePin i s = match s.pwr.mode with
      | .run => { s with pins := s.wokenPins i }
      | .idle | .sleep => returnToRun { s with pins := s.wokenPins i, pwr := { s.pwr with woke := BitVec.twoPow 4 i } }
      | .deep | .off => (chipReset .wake { s with pins := s.wokenPins i }).modPwr (fun p => { p with woke := BitVec.twoPow 4 i }) := by
  unfold wakePin
  dsimp only
  rw [if_neg (by simp [henable, hreset])]
  rfl

/-- A wake from Deep sleep or Off: a reset of cause WAKE. -/
theorem wakeReset_spec (lvl : BitVec 4) (s : State) :
    let v := (chipReset .wake s).modPwr (fun p => { p with woke := lvl })
    v.clk = { ClkState.reset with pendingReset := some .wake } ∧ v.pwr.woke = lvl ∧ v.pwr.mode = .run ∧
      v.pwr.retain = (if s.pwr.mode = .off then Mem.empty else s.pwr.retain) ∧ v.spires = State.reset.spires := by
  refine ⟨rfl, rfl, rfl, ?_, rfl⟩
  show (if (decide (s.pwr.mode = .off) || (decide (s.pwr.mode = .deep) && false)) = true then Mem.empty else s.pwr.retain) = _
  simp

end

end Sys2Proof.Machine

namespace Sys2Proof.Machine
open Sys2Proof

/-! #### The clauses of O48 -/

section
variable {s : State} {iss : Issuer} {mask : Nat}

/-- PWR_GATE of domains that may be gated. -/
theorem pwrGate_gates (h : s.accepts 0x51 iss = true)
    (hnever : ¬ (2 ^ 30 ≤ mask ∨ mask.testBit 22 = true ∨ mask.testBit 25 = true ∨ mask.testBit 28 = true ∨ mask.testBit 29 = true))
    (hfit : ∀ d, d < 30 → mask.testBit d = true → (s.begun 0x51 iss).gateOk d = true) :
    exec (.pwrGate iss mask) s = .next (complete iss 0x51 (.of 0) ((maskDomains mask).foldl gateDomain (s.begun 0x51 iss))) :=
  next_congr (queueCommand_done h (pwrGateBody_gates (mt (anyNever_iff mask).mp hnever)
    (fun hunfit => (anyUnfit_iff mask _).mp hunfit hfit)) rfl)

/-- A Tower's common domain in one condition with FENCED. -/
theorem crossbarLost_if (c : Prop) [Decidable c] (x : Spire) :
    (if c then x.crossbarLost else x) = if c ∧ x.seq.mode ≠ .fenced then { x with xb := XbState.reset } else x := by
  unfold Spire.crossbarLost
  by_cases hc : c <;> by_cases hfenced : x.seq.mode = .fenced <;> simp [hc, hfenced]

/-- What a Spire keeps through PWR_GATE. -/
theorem gatedSpire (mask k : Nat) (u : State) : ((maskDomains mask).foldl gateDomain u).spire k =
    (let x := if mask.testBit (k / 2) = true ∧ k < 32 ∧ u.pwr.domains.getLsbD (k / 2) = true then (u.spire k).powerOff else u.spire k
     if (mask.testBit (16 + k / 8) = true ∧ k < 32 ∧ u.pwr.domains.getLsbD (16 + k / 8) = true) ∧ x.seq.mode ≠ .fenced
     then { x with xb := XbState.reset } else x) := by
  by_cases hk : k < 32
  · rw [gateDomains_spire mask hk]
    simp only [hk, true_and, crossbarLost_if]
  · rw [gateDomains_noSpire mask (Nat.not_lt.mp hk)]
    simp [hk]

/-- A lane of a gated fabric domain that was not DISABLED. -/
theorem gatedLane (n : Fin 64) {u : State} (hnamed : mask.testBit (20 + n.val / 32) = true)
    (hon : u.pwr.domains.getLsbD (20 + n.val / 32) = true) (hstate : (u.lane n).regs.state ≠ .disabled) :
    (((maskDomains mask).foldl gateDomain u).lane n).regs = { LaneRegs.reset with state := .down, enable := (u.lane n).regs.enable } := by
  rw [gateDomains_lane mask n.isLt, if_pos ⟨hnamed, hon⟩, LaneRegs.lost, if_neg hstate]

/-- The command that asks for a power state with a status that refuses it. -/
theorem pwrState_refused {target st : Nat} {atT : Bool} (h : s.accepts 0x50 iss = true) (hst : refusedStatus st = true)
    (hbody : pwrStateBody iss target atT (s.begun 0x50 iss) = refuse st (s.begun 0x50 iss)) :
    exec (.pwrState iss target atT) s = .next (complete iss 0x50 (.of st) (s.begun 0x50 iss)) :=
  next_congr (queueCommand_refuses_power rfl h hbody hst)

theorem pwrState_done {target st : Nat} {atT : Bool} {v : State} (h : s.accepts 0x50 iss = true) (hst : refusedStatus st = false)
    (hbody : pwrStateBody iss target atT (s.begun 0x50 iss) = (v, some (.of st))) :
    exec (.pwrState iss target atT) s = .next (complete iss 0x50 (.of st) v) :=
  next_congr (queueCommand_done h hbody hst)

/-- Deep sleep and Off wait for the flash. -/
theorem pwrState_waits {target : Nat} {m : PowerMode} (h : s.accepts 0x50 iss = true) {r : State}
    (hbody : pwrStateBody iss target false (s.begun 0x50 iss) = enterPower m (some iss) r) (hm : m = .deep ∨ m = .off) :
    exec (.pwrState iss target false) s = .next { r with pwr := { r.pwr with deepTarget := some (m, some iss) } } := by
  refine next_congr (queueCommand_later h (hbody.trans ?_))
  rcases hm with rfl | rfl <;> rfl

end

/-- Settles O48: each command is its body's equation under the checks that precede every queue command; the events follow from what a
woken domain, a return to Run, a switch-off and a wake change. -/
theorem domainsStatesAndWakes : Obligations.DomainsStatesAndWakes := by
  unfold Obligations.DomainsStatesAndWakes
  refine ⟨fun s iss v cap => ⟨fun h => ?_, fun h => ⟨fun hlo hhi => ?_, fun hout => ?_⟩⟩, fun s iss mask h => ?gate,
    fun s iss mask h => ?ungate, fun s j => ?ready, fun s iss target atT h => ?state, fun s => ?run, fun s => ?deep, fun s i => ?wake⟩
  · exact next_congr (queueCommand_done h (pwrWakeCfgBody_eq v _) rfl)
  · exact next_congr (queueCommand_done h (pwrCapBody_sets hlo hhi _) rfl)
  · exact next_congr (queueCommand_refuses_power rfl h (pwrCapBody_refuses hout _) rfl)
  case gate =>
    intro u never fit
    refine ⟨fun hnever => ?_, fun hnever hfit => ?_, fun hnever hfit => ?_⟩
    · exact next_congr (queueCommand_refuses_power rfl h (pwrGateBody_never ((anyNever_iff mask).mpr hnever) _) rfl)
    · exact next_congr (queueCommand_refuses_power rfl h
        (pwrGateBody_unfit (mt (anyNever_iff mask).mp hnever) ((anyUnfit_iff mask u).mpr hfit)) rfl)
    · have hscope := gateDomains_scope (maskDomains mask) u
      refine ⟨_, pwrGate_gates h hnever hfit, fun d hd => ?_, hscope.pwr, hscope.time, hscope.clk, hscope.tier, hscope.flash,
        fun k => gatedSpire mask k u, fun n hnamed hon hstate => gatedLane n hnamed hon hstate, hscope.mem⟩
      have hnamed : decide (d ∉ maskDomains mask) = !mask.testBit d := by simp [mem_maskDomains, hd]
      rw [gateDomains_domains, hnamed]
  case ungate =>
    refine ⟨fun hmask => ?_, fun hmask hon => ?_, fun hmask hoff => ⟨_, next_congr (queueCommand_later h (pwrUngateBody_waits hmask hoff)),
      rfl, fun d hd => touchNamed_waking hd mask _⟩⟩
    · exact next_congr (queueCommand_refuses_power rfl h (pwrUngateBody_refuses hmask iss _) rfl)
    · exact next_congr (queueCommand_done h (pwrUngateBody_ready hmask hon) rfl)
  case ready =>
    refine ⟨fun hidle => ?_, fun hwaking => ?_, servedWrites_none, fun mid off x hone => servedWrites_one hone⟩
    · exact next_congr (congrArg servedWrites (domainReady_idle hidle))
    · obtain ⟨v, w, hready, hwoken, hpwr⟩ := domainReady_woken j.isLt hwaking
      obtain ⟨hdone, hup⟩ := domainUp_waking j.isLt s
      refine ⟨v, next_congr (congrArg servedWrites hready), by rw [hpwr]; rfl, by rw [hpwr]; exact hdone, by rw [hpwr]; exact hup,
        fun e he hne => ?_, hwoken.wipes, hwoken.other, hwoken.dl, hwoken.ul, hwoken.radio⟩
      rw [hpwr]
      exact domainUp_other he hne s
  case state =>
    intro u up free out
    refine ⟨fun htarget => ?_, fun htarget hnot => ?_, fun m hm hup hfree => ⟨fun hsame => ?_, fun hother => ?_⟩⟩
    · exact pwrState_refused h rfl (pwrStateBody_unknown (powerMode_none htarget))
    · obtain ⟨m, hm⟩ := powerMode_some htarget
      exact pwrState_refused h rfl (pwrStateBody_early hm hnot)
    · exact pwrState_done h rfl (pwrStateBody_same hm ⟨hup, hfree⟩ hsame)
    · have hmay : u.mayEnter := ⟨hup, hfree⟩
      refine ⟨fun hrun => ?_, fun hrun hunmet => ?_, fun hrun hmet hat => ?_, fun hrun hmet hat hidle => ?_, fun hrun hmet hat hsleep => ?_,
        fun hrun hmet hat hdeep => ?_⟩
      · exact pwrState_done h rfl (pwrStateBody_run hm hmay hother hrun)
      · exact pwrState_refused h rfl (pwrStateBody_unmet hm hmay hother hrun hunmet)
      · subst hat
        exact pwrState_done h rfl (pwrStateBody_arms hm hmay hother hrun hmet)
      · subst hat hidle
        exact pwrState_done h rfl (pwrStateBody_now hm hmay hother hrun hmet)
      · subst hat hsleep
        obtain ⟨hpwr, hlanes, hservo⟩ := enterLight_sleeps (returnToRun u)
        exact ⟨_, pwrState_done h rfl (pwrStateBody_now hm hmay hother hrun hmet), hpwr, fun n => hlanes n n.isLt, hservo⟩
      · subst hat
        exact pwrState_waits h (pwrStateBody_now hm hmay hother hrun hmet) hdeep
  case run =>
    refine ⟨fun hlow => ?_, returnToRun_awake⟩
    obtain ⟨hpwr, hspires⟩ := returnToRun_low hlow
    exact ⟨hpwr, hspires, fun n hsleep henable hon => returnToRun_trains hsleep n.isLt henable hon⟩
  case deep =>
    refine ⟨fun hwait => next_congr (deepSleepEntry_waits hwait), fun m who htarget hflight hwaits hm => ?_⟩
    obtain ⟨x, o, hentry⟩ := deepSleepEntry_switches htarget hflight hwaits
    obtain ⟨hmode, hdomains, hretain, henable, hpolarity, hclk, hspires, hflash, hout, hpending⟩ :=
      switchOff_spec hm { s with flash := s.flash.writeJournal, host := x, out := .mctp (.entering m) :: o }
    refine ⟨_, next_congr hentry, hmode, hdomains, hretain, henable, hpolarity, hclk, hspires, ?_, ?_, ?_, ?_, ?_, hpending⟩
    · rw [hflash]; rfl
    · rw [hflash]; rfl
    · rw [hflash]; rfl
    · rw [hflash]
      simp [FlashState.keep, FlashState.writeJournal, hflight]
    · rw [hout]; rfl
  case wake =>
    refine ⟨fun hoff => next_congr (wakePin_ignored hoff), fun henable hreset => ?_⟩
    have hwake := wakePin_enabled henable hreset
    refine ⟨fun hrun => ?_, fun hlow => ?_, fun hdeep => ?_⟩
    · rw [hrun] at hwake
      exact next_congr hwake
    · rcases hlow with hlow | hlow <;> rw [hlow] at hwake <;> exact next_congr hwake
    · obtain hspec := wakeReset_spec (BitVec.twoPow 4 i) { s with pins := s.wokenPins i }
      refine ⟨_, next_congr ?_, hspec⟩
      rcases hdeep with hdeep | hdeep <;> rw [hdeep] at hwake <;> exact hwake

end Sys2Proof.Machine
